-- ==== Sys2Proof/Word.lean ====
section
/-!
DEFINITION. The word type of the registers and the sparse tables in which State keeps what exists in large numbers.
-/
namespace Sys2Proof

/-- A 32-bit register word (R556). -/
abbrev Word := BitVec 32

/-- A byte of a frame, a command or a serial line. -/
abbrev Byte := BitVec 8

/-- A sparse table: keys strictly rising, no entry equal to what an unlisted key reads as. -/
abbrev Tbl (α : Type) := List (Nat × α)

end Sys2Proof
end

