-- ==== Sys2Proof/Syntax.lean ====
section
/-!
DEFINITION. The commands of the block: one constructor of Instr per row of the table of operations and events, with the
operands that the outside world gives it. A function is named 0 to 7; 8 names the copies that SPI accesses use (R558).
An operand `off` is the grid point, in steps of 1/12 ns, within the sample period in progress (R38).
-/
namespace Sys2Proof

/-- The transports of R525, with the ring on PCIe and the network port and the sender on UDP. -/
inductive Transport where
  | pcie (ring : Nat)
  | udp (port : Nat) (v6 : Bool) (src : Nat) (sport : Nat)
  | spi
  | tunnel (from_ : Nat)
deriving DecidableEq, Repr

/-- The authentication block (R531). -/
structure AuthBlk where
  slot : Nat
  counter : Nat
  serial : Nat
  mac : List Byte
deriving DecidableEq, Repr

/-- How a management command arrives: the transport, the function that owns the ring on PCIe, the header's TAG and
RESP_MAX, whether check 1 of R539 finds the lengths and zero fields right, the bytes the keyed check covers (header and
parameters, the MAC bytes zero), and the authentication block if the parameters begin with one. -/
structure Env where
  tr : Transport
  fn : Nat
  tag : Nat
  lenOk : Bool
  bytes : List Byte
  auth : Option AuthBlk
  respMax : Nat
deriving DecidableEq, Repr

/-- What the pins and detectors show at a sample strobe: residue errors found at lane drains as (signature, lane, output,
recompute fails too), with lane 32 for the output chain's own check; signatures whose sums miss the strobe; outputs in which
the guard and the shadowed signature differ, as (output, the guard lost). -/
structure SampleIn where
  residue : List (Nat × Nat × Nat × Bool)
  overrun : List Nat
  mismatch : List (Nat × Bool)
deriving DecidableEq, Repr

/-- What is measured at a tick boundary: offsets of TB0–TB2 from media time and the frequency of the selected reference
against XO_IN where they are measured anew, the frequencies measured of single candidates (R83), the offset of the time-stamp counters (R74), and the readings of the junction
sensors in units of 1/16 °C, none for a sensor that fails its check; the ports whose link conditions have held for 32 samples
(R109); the supplies that the monitors find within their recommended ranges. -/
structure TickIn where
  ofs : List (Nat × Int)
  freq : Option Int
  cfreq : List (Nat × Int)
  cntOfs : Option Int
  temps : List (Nat × Option Int)
  linkGood : List Nat
  rails : Nat
deriving DecidableEq, Repr

/-- One register write that a configuration command carries: offset, object, page instance, word. -/
structure RegW where
  off : Nat
  obj : Nat
  inst : Nat
  val : Nat
deriving DecidableEq, Repr

/-- What a collator command puts into a slot (R48–R50, R53, R55). -/
structure SlotArgs where
  action : Nat
  tbsel : Nat
  late : Bool
  secHi : Nat
  secLo : Nat
  ns : Nat
  p0 : Nat
  p1 : Nat
  period : Nat
deriving DecidableEq, Repr

/-- A received LTC frame (R60, R63): its address word (layout of LTC_IN_TC), rate code, binary groups, whether the sync word
ends it, and whether it plays in reverse or off speed. -/
structure LtcFrame where
  addr : Nat
  rate : Nat
  ub : Nat
  sync : Bool
  reverse : Bool
deriving DecidableEq, Repr

/-- A fetched submission entry (R481): what it names beside the parameters, which the command's own row carries with RESP_MAX. -/
structure SubEntry where
  opcode : Nat
  tag : Nat
  ordered : Bool
  quiet : Bool
  paramLen : Nat
  paramAddr : Nat
  respAddr : Nat
deriving DecidableEq, Repr

/-- A fetched descriptor (R495): handle, bytes offered, checksum insertion, and for NET_TX the frame in the buffer. -/
structure DescIn where
  handle : Nat
  len : Nat
  ipCsum : Bool
  udpCsum : Bool
  frame : List Byte
deriving DecidableEq, Repr

/-- An item that a reclaim takes back (R513). -/
inductive Item where
  | sig (n : Nat)
  | xin (n : Nat)
  | rx (n : Nat)
  | tx (n : Nat)
  | cap (n : Nat)
  | pb (n : Nat)
  | filter (n : Nat)
  | edits
deriving DecidableEq, Repr

/-- A host receive filter's content (R508): ring, port mask, and the fields it names. -/
structure FilterArgs where
  ring : Nat
  ports : Nat
  etherType : Option Nat
  ipDst : Option Nat
  proto : Option Nat
  dport : Option Nat
deriving DecidableEq, Repr

/-- A firmware image as the checks of R543 see it: the header's bytes and the body's. -/
structure Image where
  hdr : List Byte
  body : List Byte
deriving DecidableEq, Repr

/-- A register view of R554. -/
inductive View where
  | base | set | clear | toggle
deriving DecidableEq, Repr

/-- The IP addresses of a port (R131): IPv4 with prefix and gateway, and up to two IPv6 addresses; 0 is none. -/
structure PortAddr where
  ip4 : Nat
  prefix4 : Nat
  gateway : Nat
  ip6a : Nat
  ip6b : Nat
deriving DecidableEq, Repr

/-- What becomes of a port's QSFP module (R132): present or not, its identifier and power class. -/
structure QsfpIn where
  present : Bool
  ident : Nat
  pwrClass : Nat
deriving DecidableEq, Repr

/-- The kinds of PTP message that a slave-only clock takes. -/
inductive PtpKind where
  | announce | sync | followUp | delayResp | pdelayResp | other
deriving DecidableEq, Repr

/-- A PTP message as IEEE 1588-2019 decodes it: the sending port, and from Announce the grandmaster's data set. `t` is the
time the message carries, corrections applied, in grid steps: t1 of Sync and Follow_Up, t4 of Delay_Resp, t3 − t2 of a peer
response. `own` says that a response answers this port's request. -/
structure PtpMsg where
  kind : PtpKind
  domain : Nat
  src : Nat
  gm : Nat
  prio1 : Nat
  cls : Nat
  acc : Nat
  var : Nat
  prio2 : Nat
  steps : Nat
  twoStep : Bool
  logInt : Int
  seq : Nat
  t : Int
  own : Bool
deriving DecidableEq, Repr

/-- What a frame that waits in a transmit queue carries. -/
inductive TxKind where
  | audio (stream : Nat) (leg : Nat) (due : Nat)
  | ptp
  | umarun
  | mgmt
  | host (fn : Nat) (ring : Nat) (handle : Nat)
deriving DecidableEq, Repr

/-- A frame that waits in a transmit queue: what it carries, its length with FCS, whether TX_GUARD_HOLD has counted it; and once the MAC
has started it its departure stamp, if valid. -/
structure TxFrame where
  kind : TxKind
  len : Nat
  bytes : List Byte
  held : Bool
  stamp : Option Int := none
deriving DecidableEq, Repr


/-- What STREAM_RX_SDP gives beside the description: the leg of a single media, CH_BASE, DEPTH, L and the ports. -/
structure RxPlace where
  leg : Nat
  chBase : Nat
  depth : Nat
  l : Nat
  portA : Nat
  portB : Nat
deriving DecidableEq, Repr


/-- When an XPNT_INPUT_SET applies (R237). -/
inductive XTiming where
  | nextSample | nextTick | at (n : Nat)
deriving DecidableEq, Repr

/-- What XPNT_INPUT_SET gives an X-in: its selector, and its flags and TRIM in the layout of IN_CFG. -/
structure XinW where
  x : Nat
  src : Nat
  cfg : Nat
deriving DecidableEq, Repr

/-- What XPNT_OUTPUT_SET gives an output of the signature: OUT_CFG, OUT_TRIM and OUT_DLY; none leaves one as it is. -/
structure XoutW where
  j : Nat
  cfg : Option Nat
  trim : Option Nat
  dly : Option Nat
deriving DecidableEq, Repr

/-- What TESTGEN_SET gives a generator. -/
structure TgW where
  g : Nat
  kind : Nat
  freq : Nat
  level : Nat
deriving DecidableEq, Repr

/-- A node and its code: X-in, X-out, code. -/
structure NodeW where
  i : Nat
  o : Nat
  code : Nat
deriving DecidableEq, Repr


/-- A word that an I²S port has shifted in (R318, R325): its slot, the BCLK periods for which bits arrived, those bits, and
whether it met a full FIFO. -/
structure I2sWord where
  slot1 : Bool
  n : Nat
  bits : Nat
  lost : Bool
deriving DecidableEq, Repr

/-- The frame of an I²S port that a frame-start edge ends: words shifted in, BCLK periods, and words of the output frame that
starts whose read finds the output FIFO empty. -/
structure I2sIn where
  words : List I2sWord
  bclk : Nat
  under : Nat
deriving DecidableEq, Repr

/-- A received AES3 frame (R330–R334), at its end: the grid steps since the start of its first preamble, whether that is a Z, whether its
preambles come in valid order, time slots 4 to 31 of its subframes with slot 4 lowest, a biphase violation in each, and the code of the
measured rate (7 unknown). -/
structure AesIn where
  len : Nat
  z : Bool
  ok : Bool
  s0 : Nat
  s1 : Nat
  v0 : Bool
  v1 : Bool
  rate : Nat
deriving DecidableEq, Repr

/-- A 66-bit block of a Umarun lane: its sync header and its 64 bits as they stand on the lane, bit 0 first (R350). -/
structure UBlock where
  hdr : BitVec 2
  bits : BitVec 64
deriving DecidableEq, Repr

/-- A register word of a mirror pair's state: page, object, offset, value. -/
structure CopyW where
  pg : Nat
  obj : Nat
  off : Nat
  val : Nat
deriving DecidableEq, Repr

/-- What a state copy or a forwarded change of a mirror pair carries (R387–R389): register words; codes of nodes, each by bank
(2 × signature + bank), node and code; the index n of collator slots; held edits as function, signature, node, code; a MODE_SET. -/
structure MirrorCopy where
  words : List CopyW
  nodes : List (Nat × Nat × Nat)
  slots : List (Nat × Nat)
  edits : List (Nat × Nat × Nat × Nat)
  mode : Option Nat
deriving DecidableEq, Repr

/-- What a GRID or MIRROR message that a received cell completes says to the firmware (R361, R385, R388): a reservation for a
turn under a descriptor, the index it is armed with, its release, a change to be applied at the boundary of tick k + 2. -/
inductive FwMsg where
  | reserve (td : Nat)
  | arm (n : Nat)
  | release
  | change (k : Nat) (c : MirrorCopy)
  | other
deriving DecidableEq, Repr

/-- The parameters of HIER_JOIN (R366): role 0 NONE, 1 GRID, 2 MIRROR; the bits of each pair in the layout of PAIR_ROLE; for
each device ID the code of ROUTE. -/
structure HierP where
  role : Nat
  id : Nat
  col : Nat
  depth : Nat
  h : Nat
  pairs : List Nat
  route : List Nat
  members : Nat
deriving DecidableEq, Repr

/-- Where an uncorrectable SRAM word lies, by the classes of R407: a word of a coefficient bank, with its signature (64 is the
guard), bank and first node; a playout position; a delayed value; an edit FIFO entry; a word held twice; a frame in an ingress
FIFO, with its place; a frame in a transmit queue, with the queue's list and the frame's place; the management processor's memory. -/
inductive MemAt where
  | coeff (sig bank node : Nat)
  | playout (stream count : Nat)
  | delay (o n : Nat)
  | fifo (pos : Nat)
  | twice
  | ingress (port pos : Nat)
  | txq (port list pos : Nat)
  | mgmt
deriving DecidableEq, Repr

/-- What a scrub pass found (R409): words corrected and words found hard, each with its class and signature (64 is the guard, 0
for another class) and a count or an address; whether the pass overran. -/
structure ScrubIn where
  corr : List (Nat × Nat × Nat)
  hard : List (Nat × Nat × Nat)
  late : Bool
deriving DecidableEq, Repr

/-- What FAULT_INJECT injects. -/
inductive Inject where
  | residue (sig lane out : Nat)
  | word (at_ : MemAt) (addr : Nat)
  | cpll
deriving DecidableEq, Repr

/-- The start of a frame at the MAC: its grid point in the period, and v_tx, the variable part of its latency, in grid steps (R124). -/
structure TxStart where
  off : Nat
  v : Nat
deriving DecidableEq, Repr

/-- A level at an event input (R66), and for how many grid steps it holds (R67). -/
structure EvtIn where
  rising : Bool
  hold : Nat
deriving DecidableEq, Repr

/-- The lines of an I²C bus before a check (R574): SCL is high or rises in time, and the level of SDA. -/
structure I2cLines where
  scl : Bool
  sda : Bool
deriving DecidableEq, Repr

/-- The faults that a port shows when its link fails (R109): a local one, a remote one. -/
structure LinkIn where
  loc : Bool
  rem : Bool
deriving DecidableEq, Repr

/-- A segment of an I²C transfer (R573): the target's address, whether it reads, its length, the bytes it writes. -/
structure I2cSeg where
  addr : Nat
  read : Bool
  len : Nat
  data : List Byte
deriving DecidableEq, Repr

/-- A SAP announcement or deletion (R149): the session's number and version as its origin line gives them, the description,
and the announcement interval in samples. -/
structure SapIn where
  id : Nat
  ver : Nat
  delete : Bool
  text : List Byte
  every : Nat
deriving DecidableEq, Repr

/-- A frame as it arrives on a port: its bytes from destination address to FCS, the variable part v_rx of its latency in grid steps (R124),
how many frames the management processor has taken from the port's ingress FIFO since the frame before, this one last (R113), whether the
management queue takes it (R114), the codewords corrected and not correctable in it (R107), and what its payload says where
the processor reads it: a PTP message, a SAP message, a management message. -/
structure FrameIn where
  bytes : List Byte
  v : Nat
  taken : Nat
  room : Bool
  fecCorr : Nat
  fecUncorr : Nat
  ptp : Option PtpMsg
  sap : Option SapIn
  fw : FwMsg
deriving DecidableEq, Repr


/-- The commands, one constructor per row of the table. -/
inductive Instr where
  /-- SAMPLE_BOUNDARY (R25). -/
  | sampleBoundary (x : SampleIn)
  /-- TICK_BOUNDARY (R16). -/
  | tickBoundary (x : TickIn)
  /-- GUARD_LOAD_END (R415). -/
  | guardLoadEnd (ok : Bool)
  /-- PATROL_DWELL_END (R412). -/
  | patrolDwellEnd
  /-- BIST_END (R417). -/
  | bistEnd (sig : Nat) (ok : Bool)
  /-- SRAM_UNCORRECTABLE (R407). -/
  | sramUncorrectable (at_ : MemAt) (addr : Nat) (ok : Bool)
  /-- SCRUB_PASS (R409). -/
  | scrubPass (x : ScrubIn)
  /-- ERRATA_FLUSH (R430). -/
  | errataFlush
  /-- SNAP_RECORD (R286). -/
  | snapRecord (set : Nat) (ok : Bool)
  /-- DRIFT_WINDOW_END (R87). -/
  | driftWindowEnd (ys : List (Nat × Int))
  /-- CANDIDATE_LOSS (R77). -/
  | candidateLoss (cand : Nat)
  /-- CLOCK_PIN_EDGE (R339). -/
  | clockPinEdge (pin : Nat) (rising : Bool) (off : Nat)
  /-- CPLL_LOCK_LOSS (R95). -/
  | cpllLockLoss
  /-- CORE_CYCLE_MONITOR (R419). -/
  | coreCycleMonitor (cycles : Nat)
  /-- TPLL_LOSS (R98). -/
  | tpllLoss (b : Bool)
  /-- TPLL_RELOCK (R98). -/
  | tpllRelock (b : Bool)
  /-- MPLL_LOSS (R100). -/
  | mpllLoss
  /-- MPLL_RELOCK (R100). -/
  | mpllRelock
  /-- SSC_CHANGE_DONE (R96). -/
  | sscChangeDone
  /-- PHASE_STEP_DONE (R99). -/
  | phaseStepDone
  /-- FRAME_RECEIVE (R111). -/
  | frameReceive (port : Nat) (off : Nat) (x : FrameIn)
  /-- MASTER_LOSS (R130). -/
  | masterLoss (port : Nat)
  /-- DELAY_REQ_SEND (R128). -/
  | delayReqSend (port : Nat)
  /-- SAP_SESSION_EXPIRE (R149). -/
  | sapSessionExpire (id : Nat)
  /-- SAP_TX_ANNOUNCE (R309). -/
  | sapTxAnnounce (i : Nat)
  /-- MULTICAST_JOIN (R150). -/
  | multicastJoin (i : Nat) (leg : Nat)
  /-- MEMBERSHIP_REPORT (R150). -/
  | membershipReport (port : Nat) (dst : Nat) (query : Bool)
  /-- NEIGHBOUR_AGE_OUT (R131). -/
  | neighbourAgeOut (port : Nat) (addr : Nat)
  /-- LINK_DOWN (R109): whether the FEC is aligned, and the faults. -/
  | linkDown (port : Nat) (fec : Bool) (st : LinkIn)
  /-- QSFP_INSERT_REMOVE (R132). -/
  | qsfpInsertRemove (port : Nat) (x : QsfpIn)
  /-- QSFP_MONITOR (R132). -/
  | qsfpMonitor (port : Nat) (alarms : Nat) (int : Bool)
  /-- WAKE_MATCH (R468): a frame reaches the wake detector. -/
  | wakeMatch (port : Nat) (frame : List Byte)
  /-- FRAME_TRANSMIT (R115). -/
  | frameTransmit (port : Nat) (x : TxStart)
  /-- HOST_FRAME_DEPARTED (R310). -/
  | hostFrameDeparted (port : Nat) (off : Nat)
  /-- STREAM_GAP (R164). -/
  | streamGap (i : Nat) (off : Nat)
  /-- PLANE_CHG (R170). -/
  | planeChg (i : Nat) (plane : Nat) (off : Nat)
  /-- STREAM_START (R167). -/
  | streamStart (e : Env) (tx : Bool) (i : Nat) (a : SlotArgs)
  /-- STREAM_STOP (R167). -/
  | streamStop (e : Env) (tx : Bool) (i : Nat) (a : SlotArgs)
  /-- ASRC_STAGE_END (R191). -/
  | asrcStageEnd (g : Nat)
  /-- I2S_FRAME_EDGE (R319). -/
  | i2sFrameEdge (p : Nat) (off : Nat) (x : I2sIn)
  /-- I2S_CLOCK_LOSS (R328). -/
  | i2sClockLoss (p : Nat) (off : Nat)
  /-- AES3_FRAME_RX (R332). -/
  | aes3FrameRx (r : Nat) (off : Nat) (x : AesIn)
  /-- AES3_LOCK_LOSS (R331). -/
  | aes3LockLoss (r : Nat) (off : Nat)
  /-- LTC_FRAME_RX (R63). -/
  | ltcFrameRx (edge : Nat) (x : LtcFrame)
  /-- EVT_IN_EDGE (R66). -/
  | evtInEdge (off : Nat) (pin : Nat) (x : EvtIn)
  /-- GPIO_EDGE (R592). -/
  | gpioEdge (pin : Nat) (rising : Bool)
  /-- RAMP_END (R250). -/
  | rampEnd (sig : Nat)
  /-- COPY_OVER_END (R250). -/
  | copyOverEnd (sig : Nat)
  /-- VERSO_UNLOCK (R250). -/
  | versoUnlock (sig : Nat)
  /-- SCENE_LOAD_END (R264). -/
  | sceneLoadEnd (sig : Nat)
  /-- SCENE_SAVE_DONE (R263). -/
  | sceneSaveDone
  /-- ACQ_TIMEOUT (R461). -/
  | acqTimeout
  /-- PREROLL_END (R463). -/
  | prerollEnd
  /-- THERMAL_LIMIT (R466). -/
  | thermalLimit
  /-- RAIL_EXC (R600). -/
  | railExc (rail : Nat)
  /-- BANK_CHG (R600). -/
  | bankChg (b : Nat) (level : Nat)
  /-- RESET_ASSERT (R453). -/
  | resetAssert (ao : Bool)
  /-- RESET_RELEASE (R456). -/
  | resetRelease
  /-- BOOT_IMAGE_SELECT (R458). -/
  | bootImageSelect
  /-- FIRMWARE_RUNNING (R459). -/
  | firmwareRunning (ms : Nat)
  /-- BOOT_SCENES_DONE (R460). -/
  | bootScenesDone
  /-- PFAIL_ASSERT (R432). -/
  | pfailAssert
  /-- LASTWORDS_DONE (R434). -/
  | lastwordsDone
  /-- PFAIL_GLITCH (R436). -/
  | pfailGlitch (us : Nat)
  /-- WATCHDOG_FIRE (R422). -/
  | watchdogFire
  /-- MGMT_RESTART_DONE (R422). -/
  | mgmtRestartDone
  /-- MGMT_EXCEPTION (R422). -/
  | mgmtException (sram : Bool)
  /-- FLR (R514). -/
  | flr (fn : Nat)
  /-- FLR_COMPLETE (R514). -/
  | flrComplete (fn : Nat)
  /-- PCIE_RESET (R516). -/
  | pcieReset
  /-- BUS_MASTER_CLEAR (R489). -/
  | busMasterClear (fn : Nat)
  /-- RAMP_OUT_SILENCED (R515). -/
  | rampOutSilenced (fn : Nat)
  /-- RECLAIM_COMPLETE (R513). -/
  | reclaimComplete (fn : Nat)
  /-- COMMAND_FETCH (R483). -/
  | commandFetch (entry : SubEntry)
  /-- COMPLETION_INTERRUPT (R485). -/
  | completionInterrupt (fn : Nat) (r : Nat) (elapsedUs : Nat)
  /-- RING_ERROR (R486). -/
  | ringError (fn : Nat) (r : Nat) (cause : Nat)
  /-- DMA_ERROR (R488). -/
  | dmaError (fn : Nat) (dma : Bool) (q : Nat)
  /-- DESCRIPTOR_FETCH (R496). -/
  | descriptorFetch (fn : Nat) (q : Nat) (d : DescIn)
  /-- PLAYBACK_FETCH (R504). -/
  | playbackFetch (fn : Nat) (q : Nat) (words : List Nat)
  /-- CAPTURE_WRITEBACK (R32). -/
  | captureWriteback (fn : Nat) (q : Nat)
  /-- MSIX_MESSAGE (R480). -/
  | msixMessage
  /-- MSIX_UNMASK (R480). -/
  | msixUnmask (fn : Nat) (v : Nat)
  /-- SPI_REG_WRITE (R582). -/
  | spiRegWrite (off : Nat) (ofs : Nat) (words : List Nat)
  /-- SPI_REG_READ (R581). -/
  | spiRegRead (ofs : Nat) (n : Nat)
  /-- SPI_STATUS (R583). -/
  | spiStatus
  /-- CMD_SEND (R584). -/
  | cmdSend (bytes : List Byte)
  /-- RESP_READ (R584). -/
  | respRead
  /-- RESP_ACK (R584). -/
  | respAck
  /-- IMAGE_WRITE (R585). -/
  | imageWrite (ofs : Nat) (data : List Byte)
  /-- IMAGE_END (R585). -/
  | imageEnd (len : Nat)
  /-- SPI_TRANSACTION_DROP (R582). -/
  | spiTransactionDrop (crc : Bool)
  /-- UART_FRAME_RX (R578): the levels of RXD, one for each sub-sample in the order of time. -/
  | uartFrameRx (u : Nat) (rxd : List Bool)
  /-- I2C_TRANSFER_DONE (R573). -/
  | i2cTransferDone (i : Nat) (outcome : Nat) (seg : Nat) (n : Nat) (data : List Byte) (lines : Nat)
  /-- I2C_BUS_CHECK (R574): the lines, and SDA in the middle of each pulse. -/
  | i2cBusCheck (i : Nat) (x : I2cLines) (pulses : List Bool)
  /-- FLASH_SUSPEND (R589). -/
  | flashSuspend
  /-- FLASH_RESUME (R589). -/
  | flashResume
  /-- FW_CONFIRM_TIMER (R546). -/
  | fwConfirmTimer
  /-- STAGE_TIMEOUT (R544). -/
  | stageTimeout
  /-- BLOCK_LOCK (R353): blocks that a physical lane receives outside cells and marker sets. -/
  | blockLock (l : Nat) (lane : Nat) (blocks : List UBlock)
  /-- MARKER_SET (R353): the block in the marker slot of each physical lane, and the arrivals of the earliest and of the latest of them, in
  bit times. -/
  | markerSet (l : Nat) (off : Nat) (blocks : List UBlock) (early : Nat) (late : Nat)
  /-- TRAIN_TIMEOUT (R355). -/
  | trainTimeout (l : Nat) (off : Nat)
  /-- CELL_TIMEOUT (R354). -/
  | cellTimeout (l : Nat) (off : Nat)
  /-- CELL_RECEIVE (R358): the eight blocks of a cell slot on each physical lane (R352). -/
  | cellReceive (l : Nat) (off : Nat) (blocks : List (List UBlock)) (fw : FwMsg)
  /-- MGMT_FRAGMENT_DISCARD (R360). -/
  | mgmtFragmentDiscard (src : Nat) (msg : Nat) (off : Nat)
  /-- MIRROR_LOST (R391). -/
  | mirrorLost
  /-- MIRROR_COPY_COMPLETE (R387). -/
  | mirrorCopyComplete (k : Nat) (x : MirrorCopy)
  /-- MIRROR_REPAIR (R392). -/
  | mirrorRepair (since : Nat)
  /-- MIRROR_FORWARD (R388). -/
  | mirrorForward
  /-- TUNNEL_TIMEOUT (R383). -/
  | tunnelTimeout (msg : Nat)
  /-- RESERVATION_EXPIRE (R385). -/
  | reservationExpire (td : Nat)
  /-- DEVICE_IDENTITY (R473). -/
  | deviceIdentity (e : Env)
  /-- MODE_SET (R451). -/
  | modeSet (e : Env) (target : Nat)
  /-- MODE_STATUS (R473). -/
  | modeStatus (e : Env)
  /-- MODE_CONFIG (R473). -/
  | modeConfig (e : Env) (ws : List RegW)
  /-- CONFIG_SAVE (R460). -/
  | configSave (e : Env) (scenes : List (Nat × Nat))
  /-- CONFIG_READ (R473). -/
  | configRead (e : Env) (page : Nat)
  /-- PWR_STATUS (R628). -/
  | pwrStatus (e : Env)
  /-- IO_CONFIG (R628). -/
  | ioConfig (e : Env) (l : List (Nat × Nat))
  /-- TIME_SNAPSHOT (R42). -/
  | timeSnapshot (e : Env) (off : Nat)
  /-- TB_SET (R59). -/
  | tbSet (e : Env) (tb : Nat) (sec : Nat) (ns : Nat)
  /-- COLL_ARM (R50). -/
  | collArm (e : Env) (a : SlotArgs)
  /-- COLL_CANCEL (R56). -/
  | collCancel (e : Env) (slot : Nat)
  /-- COLL_QUERY (R56). -/
  | collQuery (e : Env) (slot : Nat)
  /-- LTC_CONFIG (R71). -/
  | ltcConfig (e : Env) (ws : List RegW)
  /-- EVT_CONFIG (R71). -/
  | evtConfig (e : Env) (ws : List RegW)
  /-- EVT_READ (R71). -/
  | evtRead (e : Env) (n : Nat)
  /-- REF_CONFIG (R106). -/
  | refConfig (e : Env) (ws : List RegW)
  /-- REF_STATUS (R106). -/
  | refStatus (e : Env)
  /-- ALIGN_NOW (R91). -/
  | alignNow (e : Env) (mask : Nat)
  /-- CLK_CONFIG (R96). -/
  | clkConfig (e : Env) (ws : List RegW)
  /-- MPLL_STEP (R99). -/
  | mpllStep (e : Env) (n : Int)
  /-- CLK_STATUS (R106). -/
  | clkStatus (e : Env)
  /-- PTP_CONFIG (R140). -/
  | ptpConfig (e : Env) (ws : List RegW)
  /-- PTP_STATUS (R140). -/
  | ptpStatus (e : Env) (plane : Nat)
  /-- STREAM_RX_ADD (R142). -/
  | streamRxAdd (e : Env) (i : Nat) (ws : List RegW)
  /-- STREAM_RX_SDP (R148). -/
  | streamRxSdp (e : Env) (i : Nat) (d : List Byte) (p : RxPlace)
  /-- STREAM_RX_MODIFY (R168). -/
  | streamRxModify (e : Env) (i : Nat) (ws : List RegW)
  /-- STREAM_RX_REMOVE (R176). -/
  | streamRxRemove (e : Env) (i : Nat)
  /-- STREAM_RX_STATUS (R176). -/
  | streamRxStatus (e : Env) (is : List Nat)
  /-- STREAM_RX_COUNTERS (R176). -/
  | streamRxCounters (e : Env) (i : Nat) (clear : Bool)
  /-- SAP_CONFIG (R149). -/
  | sapConfig (e : Env) (on : Bool) (addrs : List Nat)
  /-- SAP_LIST (R149). -/
  | sapList (e : Env) (page : Nat)
  /-- STREAM_TX_ADD (R292). -/
  | streamTxAdd (e : Env) (i : Nat) (name : List Byte) (ws : List RegW)
  /-- STREAM_TX_MODIFY (R304). -/
  | streamTxModify (e : Env) (i : Nat) (ws : List RegW)
  /-- STREAM_TX_REMOVE (R314). -/
  | streamTxRemove (e : Env) (i : Nat)
  /-- STREAM_TX_STATUS (R314). -/
  | streamTxStatus (e : Env) (is : List Nat)
  /-- STREAM_TX_COUNTERS (R314). -/
  | streamTxCounters (e : Env) (i : Nat) (clear : Bool)
  /-- TXCH_SET (R304). -/
  | txchSet (e : Env) (l : List (Nat × Nat))
  /-- STREAM_TX_SDP (R308). -/
  | streamTxSdp (e : Env) (i : Nat)
  /-- SAP_TX_CONFIG (R309). -/
  | sapTxConfig (e : Env) (on : Bool) (sec : Nat)
  /-- TX_LOAD_QUERY (R300). -/
  | txLoadQuery (e : Env) (port : Nat)
  /-- XPNT_INPUT_SET (R237). -/
  | xpntInputSet (e : Env) (t : XTiming) (l : List XinW)
  /-- XPNT_INPUT_GET (R237). -/
  | xpntInputGet (e : Env) (xs : List Nat)
  /-- XPNT_OUTPUT_SET (R237). -/
  | xpntOutputSet (e : Env) (sig : Nat) (l : List XoutW)
  /-- XPNT_OUTPUT_GET (R237). -/
  | xpntOutputGet (e : Env) (sig : Nat)
  /-- DELAY_ALLOC (R229). -/
  | delayAlloc (e : Env) (l : List (Nat × Nat))
  /-- DELAY_POOL_STATUS (R237). -/
  | delayPoolStatus (e : Env) (os : List Nat)
  /-- TESTGEN_SET (R213). -/
  | testgenSet (e : Env) (l : List TgW)
  /-- XPNT_COUNTERS (R237). -/
  | xpntCounters (e : Env) (x : Nat) (n : Nat) (o : Nat) (m : Nat) (clear : Bool)
  /-- IN_ASSIGN (R237). -/
  | inAssign (e : Env) (t : Nat) (x : Nat) (n : Nat) (share : Bool)
  /-- SCENE_EDIT (R242). -/
  | sceneEdit (e : Env) (l : List NodeW)
  /-- SCENE_EDIT_BLOCK (R242). -/
  | sceneEditBlock (e : Env) (i : Nat) (ni : Nat) (o : Nat) (no : Nat) (codes : List Nat)
  /-- SCENE_READ (R269). -/
  | sceneRead (e : Env) (verso : Bool) (l : List (Nat × Nat))
  /-- SCENE_REVERT (R251). -/
  | sceneRevert (e : Env) (sigs : List Nat)
  /-- SCENE_CLEAR (R251). -/
  | sceneClear (e : Env) (sigs : List Nat)
  /-- TURN_DEFINE (R244). -/
  | turnDefine (e : Env) (td : Nat) (release : Bool) (scope : Nat) (ramp : Nat)
  /-- TURN (R245). -/
  | turn (e : Env) (td : Nat) (a : SlotArgs)
  /-- TURN_STATUS (R269). -/
  | turnStatus (e : Env) (sigs : List Nat) (td : Nat)
  /-- SCENE_SAVE (R263). -/
  | sceneSave (e : Env) (l : List (Nat × Nat × Bool))
  /-- SCENE_LOAD (R264). -/
  | sceneLoad (e : Env) (id : Nat) (src : Nat) (dst : Nat) (dur : Nat)
  /-- SCENE_LIST (R269). -/
  | sceneList (e : Env) (page : Nat)
  /-- SCENE_DELETE (R269). -/
  | sceneDelete (e : Env) (id : Nat) (src : Nat)
  /-- METER_READ (R283). -/
  | meterRead (e : Env) (ms : List Nat)
  /-- METER_PROFILE_SET (R277). -/
  | meterProfileSet (e : Env) (ws : List RegW)
  /-- METER_ASSIGN (R290). -/
  | meterAssign (e : Env) (l : List (Nat × Nat))
  /-- METER_HOLD_CLEAR (R276). -/
  | meterHoldClear (e : Env) (ms : List Nat)
  /-- GATE_READ (R288). -/
  | gateRead (e : Env)
  /-- SNAP_CONFIG (R285). -/
  | snapConfig (e : Env) (set : Nat) (ws : List RegW)
  /-- METER_TRIGGER (R290). -/
  | meterTrigger (e : Env) (set : Nat) (a : SlotArgs)
  /-- SNAP_STATUS (R290). -/
  | snapStatus (e : Env) (set : Nat)
  /-- NET_PORT_CONFIG (R109). -/
  | netPortConfig (e : Env) (ws : List RegW)
  /-- NET_PORT_STATUS (R140). -/
  | netPortStatus (e : Env) (port : Nat)
  /-- NET_ADDR_SET (R131). -/
  | netAddrSet (e : Env) (port : Nat) (a : PortAddr)
  /-- GCL_LOAD (R120). -/
  | gclLoad (e : Env) (port : Nat) (cycle : Nat) (phase : Nat) (l : List (Nat × Nat))
  /-- QSFP_READ (R140). -/
  | qsfpRead (e : Env) (port : Nat) (n : Nat) (mem : List Nat)
  /-- WAKE_PATTERN (R133). -/
  | wakePattern (e : Env) (i : Nat) (pat : List (Nat × Nat))
  /-- I2S_CONFIG (R317). -/
  | i2sConfig (e : Env) (ws : List RegW)
  /-- I2S_STATUS (R348). -/
  | i2sStatus (e : Env) (ps : List Nat) (clear : Bool)
  /-- PORT_START (R323). -/
  | portStart (e : Env) (target : Nat) (a : SlotArgs)
  /-- LOCAL_OUT_SET (R320). -/
  | localOutSet (e : Env) (l : List (Nat × Nat))
  /-- AES3_RX_CONFIG (R330). -/
  | aes3RxConfig (e : Env) (ws : List RegW)
  /-- AES3_RX_STATUS (R348). -/
  | aes3RxStatus (e : Env) (r : Nat)
  /-- AES3_TX_CONFIG (R335). -/
  | aes3TxConfig (e : Env) (ws : List RegW)
  /-- AES3_TX_STATUS (R348). -/
  | aes3TxStatus (e : Env) (ts : List Nat)
  /-- CLKPIN_CONFIG (R346). -/
  | clkpinConfig (e : Env) (ws : List RegW)
  /-- CLKPIN_STATUS (R348). -/
  | clkpinStatus (e : Env)
  /-- SRC_GROUP_CONFIG (R200). -/
  | srcGroupConfig (e : Env) (g : Nat) (bw : Nat) (range : Nat) (bind : Option Nat)
  /-- SRC_STATUS (R203). -/
  | srcStatus (e : Env) (gs : List Nat)
  /-- SRC_RELOCK (R203). -/
  | srcRelock (e : Env) (g : Nat) (a : SlotArgs)
  /-- SRC_PATH_QUERY (R203). -/
  | srcPathQuery (e : Env) (keys : List (Nat × Nat))
  /-- I2C_CONFIG (R598). -/
  | i2cConfig (e : Env) (ws : List RegW)
  /-- I2C_XFER (R573). -/
  | i2cXfer (e : Env) (i : Nat) (segs : List I2cSeg)
  /-- I2C_STATUS (R598). -/
  | i2cStatus (e : Env) (is : List Nat) (clear : Bool)
  /-- I2C_BUS_CLEAR (R574). -/
  | i2cBusClear (e : Env) (i : Nat)
  /-- UART_CONFIG (R598). -/
  | uartConfig (e : Env) (ws : List RegW)
  /-- UART_WRITE (R580). -/
  | uartWrite (e : Env) (u : Nat) (data : List Byte)
  /-- UART_READ (R580). -/
  | uartRead (e : Env) (u : Nat) (n : Nat)
  /-- GPIO_CONFIG (R590). -/
  | gpioConfig (e : Env) (l : List (Nat × Nat))
  /-- GPIO_READ (R598). -/
  | gpioRead (e : Env) (clear : Bool)
  /-- FLASH_INFO (R598). -/
  | flashInfo (e : Env) (sfdp : List Nat)
  /-- CTRLPIN_CONFIG (R598). -/
  | ctrlpinConfig (e : Env) (ws : List RegW)
  /-- ULINK_CONFIG (R400). -/
  | ulinkConfig (e : Env) (ws : List RegW)
  /-- ULINK_STATUS (R400). -/
  | ulinkStatus (e : Env) (ls : List Nat)
  /-- ULINK_RETRAIN (R354). -/
  | ulinkRetrain (e : Env) (l : Nat)
  /-- HIER_JOIN (R366). -/
  | hierJoin (e : Env) (p : HierP)
  /-- HIER_STATUS (R400). -/
  | hierStatus (e : Env) (others : List Nat)
  /-- RELAY_SET (R380). -/
  | relaySet (e : Env) (l : List (Nat × Nat))
  /-- GRID_TURN (R385). -/
  | gridTurn (e : Env) (mask : Nat) (td : Nat) (a : SlotArgs) (replies : List (Nat × Nat × Nat))
  /-- UMARUN_TUNNEL (R383). -/
  | umarunTunnel (e : Env) (dst : Nat) (bytes : List Byte)
  /-- MIRROR_TAKEOVER (R391). -/
  | mirrorTakeover (e : Env)
  /-- MIRROR_STATUS (R400). -/
  | mirrorStatus (e : Env)
  /-- FAULT_STATUS (R443). -/
  | faultStatus (e : Env)
  /-- ERRATA_READ (R431). -/
  | errataRead (e : Env) (pos : Nat) (n : Nat)
  /-- ERRATA_CLEAR (R431). -/
  | errataClear (e : Env)
  /-- ERRATA_LOG_READ (R443). -/
  | errataLogRead (e : Env) (seq : Nat) (n : Nat)
  /-- LASTWORDS_READ (R437). -/
  | lastwordsRead (e : Env)
  /-- PATROL_CONFIG (R443). -/
  | patrolConfig (e : Env) (on : Bool)
  /-- SIG_RELEASE (R417). -/
  | sigRelease (e : Env) (sig : Nat)
  /-- TIP_IN_FORCE (R443). -/
  | tipInForce (e : Env) (sig : Nat)
  /-- FAULT_INJECT (R443). -/
  | faultInject (e : Env) (x : Inject)
  /-- WDT_CONFIG (R443). -/
  | wdtConfig (e : Env) (ms : Nat)
  /-- TENANT_CREATE (R518). -/
  | tenantCreate (e : Env) (t : Nat) (quotas : List (Nat × Nat)) (flrMode : Bool) (base : Nat) (limit : Nat)
  /-- TENANT_DESTROY (R518). -/
  | tenantDestroy (e : Env) (t : Nat)
  /-- QUOTA_SET (R510). -/
  | quotaSet (e : Env) (t : Nat) (quotas : List (Nat × Nat))
  /-- REVOKE (R513). -/
  | revoke (e : Env) (t : Nat) (items : List Item)
  /-- TENANT_STATUS (R524). -/
  | tenantStatus (e : Env) (t : Nat)
  /-- SIG_ASSIGN (R512). -/
  | sigAssign (e : Env) (t : Nat) (sigs : List Nat)
  /-- SIG_RETURN (R512). -/
  | sigReturn (e : Env) (sigs : List Nat)
  /-- TENANT_RESUME (R515). -/
  | tenantResume (e : Env) (t : Nat)
  /-- HOSTCH_ASSIGN (R498). -/
  | hostchAssign (e : Env) (t : Nat) (cap : List Nat) (pb : List Nat)
  /-- MISUSE_LOG_READ (R493). -/
  | misuseLogRead (e : Env) (t : Nat)
  /-- TENANT_CONFIG (R524). -/
  | tenantConfig (e : Env) (t : Nat) (flrMode : Bool) (base : Nat) (limit : Nat)
  /-- SEC_STATUS (R553). -/
  | secStatus (e : Env)
  /-- KEY_LOAD (R535). -/
  | keyLoad (e : Env) (t : Nat) (wrapped : List Byte)
  /-- KEY_RETIRE (R536). -/
  | keyRetire (e : Env) (t : Nat)
  /-- KEY_STATUS (R553). -/
  | keyStatus (e : Env)
  /-- FW_STATUS (R553). -/
  | fwStatus (e : Env)
  /-- FW_STAGE_OPEN (R544). -/
  | fwStageOpen (e : Env)
  /-- FW_STAGE_WRITE (R544). -/
  | fwStageWrite (e : Env) (ofs : Nat) (data : List Byte)
  /-- FW_STAGE_CLOSE (R543). -/
  | fwStageClose (e : Env)
  /-- FW_ACTIVATE (R545). -/
  | fwActivate (e : Env)
  /-- FW_CONFIRM (R546). -/
  | fwConfirm (e : Env)
  /-- FW_STAGE_ABORT (R544). -/
  | fwStageAbort (e : Env)
  /-- DEBUG_UNLOCK (R547). -/
  | debugUnlock (e : Env) (parts : Nat)
  /-- DEBUG_LOCK (R547). -/
  | debugLock (e : Env)
  /-- FACTORY_ERASE (R549). -/
  | factoryErase (e : Env)
  /-- MGMT_UDP_CONFIG (R553). -/
  | mgmtUdpConfig (e : Env) (w : Nat)
  /-- BUF_REGISTER (R490). -/
  | bufRegister (e : Env) (addr : Nat) (size : Nat)
  /-- BUF_RELEASE (R491). -/
  | bufRelease (e : Env) (handle : Nat)
  /-- BUF_QUERY (R524). -/
  | bufQuery (e : Env) (handles : List Nat)
  /-- RING_CONFIG (R501). -/
  | ringConfig (e : Env) (q : Nat) (ws : List RegW) (masks : List (Nat × Nat))
  /-- RING_STATUS (R524). -/
  | ringStatus (e : Env) (rings : List Nat)
  /-- CAPCH_SET (R499). -/
  | capchSet (e : Env) (sels : List (Nat × Nat))
  /-- RXFILTER_SET (R508). -/
  | rxfilterSet (e : Env) (f : Nat) (x : FilterArgs)
  /-- RXFILTER_CLEAR (R524). -/
  | rxfilterClear (e : Env) (f : Nat)
  /-- REGISTER_WRITE (R554). -/
  | registerWrite (fn : Nat) (off : Nat) (bar : Nat) (w : Nat) (be : Nat)
  /-- SNAPSHOT_REQ (R42). -/
  | snapshotReq (fn : Nat) (off : Nat)
  /-- SLOT_ARM (R50). -/
  | slotArm (fn : Nat) (slot : Nat) (w : Nat)
  /-- SLOT_CANCEL (R56). -/
  | slotCancel (fn : Nat) (slot : Nat) (w : Nat)
  /-- SLOT_STAT_READ (R56). -/
  | slotStatRead (fn : Nat) (slot : Nat)
  /-- ENTRY3_READ (R68). -/
  | entry3Read (fn : Nat)
  /-- EVT_FIFO_READ (R174). -/
  | evtFifoRead (fn : Nat)
  /-- MTR_VAL0_READ (R282). -/
  | mtrVal0Read (fn : Nat)
  /-- ERR_REC0_READ (R431). -/
  | errRec0Read (fn : Nat)
  /-- SET_GO (R59). -/
  | setGo (fn : Nat) (tb : Nat) (w : Nat)
  /-- RX_COMMIT (R172). -/
  | rxCommit (fn : Nat) (w : Nat)
  /-- RX_LOAD (R172). -/
  | rxLoad (fn : Nat) (w : Nat)
  /-- TX_COMMIT (R311). -/
  | txCommit (fn : Nat) (w : Nat)
  /-- TX_LOAD (R311). -/
  | txLoad (fn : Nat) (w : Nat)
  /-- COUNTER_CLEAR (R136). -/
  | counterClear (fn : Nat) (pg : Nat) (obj : Nat) (w : Nat)
  /-- CLEAR_ALL (R173). -/
  | clearAll (fn : Nat) (pg : Nat) (w : Nat)
  /-- ALIGN_CMD (R91). -/
  | alignCmd (fn : Nat) (w : Nat)
  /-- CPLL_SWAP (R104). -/
  | cpllSwap (fn : Nat) (w : Nat)
  /-- MPLL_PSTEP_WRITE (R99). -/
  | mpllPstepWrite (fn : Nat) (w : Nat)
  /-- SSC_MODE_WRITE (R96). -/
  | sscModeWrite (fn : Nat) (w : Nat)
  /-- GCL_SWAP (R120). -/
  | gclSwap (fn : Nat) (port : Nat) (w : Nat)
  /-- QSFP_RESET (R137). -/
  | qsfpReset (fn : Nat) (port : Nat) (w : Nat) (off : Nat)
  /-- NOW (R245). -/
  | now (fn : Nat) (w : Nat)
  /-- DEFINE (R244). -/
  | define (fn : Nat) (w : Nat)
  /-- RELEASE (R266). -/
  | release (fn : Nat) (w : Nat)
  /-- VERSO_CLEAR (R267). -/
  | versoClear (fn : Nat) (sig : Nat) (w : Nat)
  /-- VERSO_REVERT (R267). -/
  | versoRevert (fn : Nat) (sig : Nat) (w : Nat)
  /-- VERSO_WINDOW_WRITE (R241). -/
  | versoWindowWrite (fn : Nat) (ofs : Nat) (bytes : List (Option Byte))
  /-- CLR_HOLD (R276). -/
  | clrHold (fn : Nat) (w : Nat)
  /-- HOLD_CLR_ALL (R288). -/
  | holdClrAll (fn : Nat) (w : Nat)
  /-- SNAP_CTL_WRITE (R285). -/
  | snapCtlWrite (fn : Nat) (set : Nat) (w : Nat)
  /-- RELOCK (R201). -/
  | relock (fn : Nat) (w : Nat)
  /-- I2S_BIND_WRITE (R185). -/
  | i2sBindWrite (fn : Nat) (w : Nat)
  /-- GRP_START (R323). -/
  | grpStart (fn : Nat) (g : Nat) (w : Nat)
  /-- RESTART (R327). -/
  | restart (fn : Nat) (p : Nat) (w : Nat)
  /-- I2S_PORT_ENABLE (R322). -/
  | i2sPortEnable (fn : Nat) (p : Nat) (w : Nat)
  /-- I2S_PORT_DISABLE (R324). -/
  | i2sPortDisable (fn : Nat) (p : Nat) (w : Nat)
  /-- AES_RX_ENABLE (R345). -/
  | aesRxEnable (fn : Nat) (r : Nat) (w : Nat)
  /-- AES_TX_ENABLE (R336). -/
  | aesTxEnable (fn : Nat) (t : Nat) (w : Nat)
  /-- TX_START (R336). -/
  | txStart (fn : Nat) (t : Nat) (w : Nat)
  /-- TX_STOP (R336). -/
  | txStop (fn : Nat) (t : Nat) (w : Nat)
  /-- CLOCK_OUT_ENABLE (R340). -/
  | clockOutEnable (fn : Nat) (o : Nat) (w : Nat)
  /-- MCLK_CHANGE (R341). -/
  | mclkChange (fn : Nat) (i : Nat) (w : Nat)
  /-- LINK_ENABLE (R354). -/
  | linkEnable (fn : Nat) (l : Nat) (w : Nat)
  /-- RETRAIN (R354). -/
  | retrain (fn : Nat) (l : Nat) (w : Nat)
  /-- FAULT_ACK (R421). -/
  | faultAck (fn : Nat) (w : Nat)
  /-- KICK (R422). -/
  | kick (fn : Nat) (w : Nat)
  /-- MGMT_RESTART (R422). -/
  | mgmtRestart (fn : Nat) (w : Nat)
  /-- SQ_TAIL (R478). -/
  | sqTail (fn : Nat) (r : Nat) (v : Nat)
  /-- CQ_HEAD (R478). -/
  | cqHead (fn : Nat) (r : Nat) (v : Nat)
  /-- DMA_TAIL (R478). -/
  | dmaTail (fn : Nat) (q : Nat) (v : Nat)
  /-- CQ_ENABLE (R520). -/
  | cqEnable (fn : Nat) (r : Nat) (w : Nat)
  /-- RING_ENABLE (R505). -/
  | ringEnable (fn : Nat) (q : Nat) (w : Nat)
  /-- MASK_WRITE (R501). -/
  | maskWrite (fn : Nat) (q : Nat) (g : Nat) (hi : Bool) (v : Nat)
  /-- GO (R563). -/
  | go (fn : Nat) (pg : Nat) (w : Nat)
  /-- INT_FORCE (R560). -/
  | intForce (fn : Nat) (pg : Nat) (w : Nat)
  /-- INT_STAT_CLEAR (R560). -/
  | intStatClear (fn : Nat) (pg : Nat) (w : Nat)
  /-- BUS_CLEAR (R574). -/
  | busClear (fn : Nat) (i : Nat) (w : Nat)
  /-- I2C_ENABLE (R574). -/
  | i2cEnable (fn : Nat) (i : Nat) (w : Nat)
  /-- CPLL_RELOCK (R95). -/
  | cpllRelock
  /-- STANDBY_CPLL_LOCK_LOSS (R95). -/
  | standbyCpllLockLoss
  /-- PLL_PHASE_EXCURSION (R101). -/
  | pllPhaseExcursion (plls : Nat)
  /-- GATE_ENTRY_CHANGE (R118). -/
  | gateEntryChange (port : Nat) (x : TxStart)
  /-- AES3_TX_BLOCK_START (R337). -/
  | aes3TxBlockStart (t : Nat)
  /-- LTC_OUT_FRAME (R65). -/
  | ltcOutFrame
  /-- CLOCK_OUT_EDGE (R340). -/
  | clockOutEdge (o : Nat) (rising : Bool)
  /-- CELL_SEND (R363). -/
  | cellSend (l : Nat) (off : Nat)
  /-- UART_FRAME_TX (R577). -/
  | uartFrameTx (u : Nat)
  /-- FLASH_OPERATION_DONE (R589). -/
  | flashOperationDone (ok : Bool)
  /-- MEMBER_TIMEOUT (R398). -/
  | memberTimeout (dev : Nat)
deriving DecidableEq, Repr

end Sys2Proof
end

