-- ==== Sys2Proof/Decode.lean ====
section
/-!
DEFINITION. The commands that words spell. The table of this block gives its rows no bits: a command arrives whole, with its
operands, and no word spells one.
-/
namespace Sys2Proof

/-- The command whose bits, as the table numbers them, are `w`: none, for every word. -/
def decodeTableWord (_nbits _w : Nat) : Option Instr := none

end Sys2Proof
end

