-- ==== Sys2Proof/Machine/Crypto.lean ====
section
/-!
DEFINITION. The public algorithms that the spec names for its keyed checks: HMAC-SHA-256 (RFC 2104, FIPS 180-4) for R532, the
AES-256 key wrap (RFC 3394) for R535, SHA-384 and ECDSA P-384 for R543, and the CRC-32 of R357.
-/
namespace Sys2Proof.Machine

/-! ## Bytes and words -/

/-- Bytes, most significant first, as a number; and back. -/
def beNat (l : List Byte) : Nat := l.foldl (fun a b => a * 256 + b.toNat) 0
def natBE : Nat → Nat → List Byte
  | 0, _ => []
  | n + 1, v => BitVec.ofNat 8 (v / 256 ^ n) :: natBE n v
/-- Bytes, least significant first. -/
def leNat : List Byte → Nat
  | [] => 0
  | b :: t => b.toNat + 256 * leNat t
def natLE : Nat → Nat → List Byte
  | 0, _ => []
  | n + 1, v => BitVec.ofNat 8 v :: natLE n (v / 256)

/-- Cut a list into pieces of `n`; `fuel` bounds the pieces. -/
def chunks (n : Nat) : Nat → List α → List (List α)
  | 0, _ => []
  | fuel + 1, l => match l with
    | [] => []
    | _ => l.take n :: chunks n fuel (l.drop n)

def rotr (w n x : Nat) : Nat := (x >>> n ||| (x <<< (w - n))) % 2 ^ w

/-! ## SHA-256 and SHA-384 -/

/-- The parameters of a member of the family: word width, the rotations of the two sums and of the two schedule functions,
and the round constants. -/
structure ShaP where
  w : Nat
  s0 : Nat × Nat × Nat
  s1 : Nat × Nat × Nat
  g0 : Nat × Nat × Nat
  g1 : Nat × Nat × Nat
  k : List Nat

/-- The first 80 primes, those below 410: none below 21 divides them. -/
def primes80 : List Nat :=
  (List.range 410).filter (fun n => decide (1 < n) && (List.range 21).all (fun d => decide (d < 2) || decide (n ≤ d) || n % d != 0))
/-- The greatest number whose k-th power is at most n, its bits found from the highest of b bits down. -/
def rootBits (k n : Nat) : Nat → Nat → Nat
  | 0, r => r
  | b + 1, r => rootBits k n b (if (r + 2 ^ b) ^ k ≤ n then r + 2 ^ b else r)
/-- The first w bits of the fraction of a prime's k-th root (FIPS 180-4, 4.2 and 5.3). -/
def rootFrac (k w p : Nat) : Nat := rootBits k (p * 2 ^ (k * w)) (w + 5) 0 % 2 ^ w
/-- The round constants come from cube roots, the initial values from square roots: of the first eight primes for SHA-256, of the
ninth to the sixteenth for SHA-384. -/
def sha256K : List Nat := (primes80.take 64).map (rootFrac 3 32)
def sha512K : List Nat := primes80.map (rootFrac 3 64)
def sha256Init : List Nat := (primes80.take 8).map (rootFrac 2 32)
def sha384Init : List Nat := ((primes80.drop 8).take 8).map (rootFrac 2 64)
def sha256P : ShaP := ⟨32, (2, 13, 22), (6, 11, 25), (7, 18, 3), (17, 19, 10), sha256K⟩
def sha512P : ShaP := ⟨64, (28, 34, 39), (14, 18, 41), (1, 8, 7), (19, 61, 6), sha512K⟩

def shaBig (w : Nat) (r : Nat × Nat × Nat) (x : Nat) : Nat := rotr w r.1 x ^^^ rotr w r.2.1 x ^^^ rotr w r.2.2 x
def shaSmall (w : Nat) (r : Nat × Nat × Nat) (x : Nat) : Nat := rotr w r.1 x ^^^ rotr w r.2.1 x ^^^ (x >>> r.2.2)

/-- The message schedule, newest word first. -/
def shaSched (p : ShaP) : Nat → List Nat → List Nat
  | 0, l => l
  | n + 1, l =>
    let x := (shaSmall p.w p.g1 (l.getD 1 0) + l.getD 6 0 + shaSmall p.w p.g0 (l.getD 14 0) + l.getD 15 0) % 2 ^ p.w
    shaSched p n (x :: l)

def shaRound (p : ShaP) (st : List Nat) (kw : Nat × Nat) : List Nat :=
  match st with
  | [a, b, c, d, e, f, g, h] =>
    let t1 := h + shaBig p.w p.s1 e + ((e &&& f) ^^^ ((2 ^ p.w - 1 - e) &&& g)) + kw.1 + kw.2
    let t2 := shaBig p.w p.s0 a + ((a &&& b) ^^^ (a &&& c) ^^^ (b &&& c))
    [(t1 + t2) % 2 ^ p.w, a, b, c, (d + t1) % 2 ^ p.w, e, f, g]
  | _ => st

def shaBlock (p : ShaP) (st : List Nat) (blk : List Byte) : List Nat :=
  let ws := (chunks (p.w / 8) 16 blk).map beNat
  let sched := (shaSched p (p.k.length - 16) ws.reverse).reverse
  List.zipWith (fun a b => (a + b) % 2 ^ p.w) st ((p.k.zip sched).foldl (shaRound p) st)

def shaPad (p : ShaP) (m : List Byte) : List Byte :=
  let n := 2 * p.w
  let lenB := p.w / 4
  let z := (n - (m.length + 1 + lenB) % n) % n
  m ++ [0x80#8] ++ List.replicate z 0#8 ++ natBE lenB (8 * m.length)

def sha (p : ShaP) (init : List Nat) (m : List Byte) : List Nat :=
  let q := shaPad p m
  (chunks (2 * p.w) (q.length / (2 * p.w) + 1) q).foldl (shaBlock p) init

def sha256 (m : List Byte) : List Byte := (sha sha256P sha256Init m).flatMap (natBE 4)
def sha384 (m : List Byte) : List Byte := ((sha sha512P sha384Init m).take 6).flatMap (natBE 8)

/-- HMAC-SHA-256 with a 256-bit key given as a number (R532). -/
def hmac256 (key : Nat) (m : List Byte) : List Byte :=
  let k := natBE 32 key ++ List.replicate 32 0#8
  sha256 (k.map (· ^^^ 0x5C#8) ++ sha256 (k.map (· ^^^ 0x36#8) ++ m))

/-! ## AES-256 and the key wrap of RFC 3394 -/

def xt (a : Nat) : Nat := if 0x80 ≤ a then (a * 2) % 256 ^^^ 0x1B else a * 2
/-- The product in the field of FIPS 197 (4.2), for multipliers of n bits. -/
def gfMul : Nat → Nat → Nat → Nat
  | 0, _, _ => 0
  | n + 1, a, b => (if b % 2 = 1 then a else 0) ^^^ gfMul n (xt a) (b / 2)
/-- The inverse of a byte is its 254th power: the product of its squares' squares from the 2nd power to the 128th. -/
def gfPow : Nat → Nat → Nat → Nat
  | 0, _, r => r
  | n + 1, a, r => let q := gfMul 8 a a
    gfPow n q (gfMul 8 r q)
def gfInv (a : Nat) : Nat := gfPow 7 a 1
def rotByte (k a : Nat) : Nat := (a * 2 ^ k + a / 2 ^ (8 - k)) % 256
/-- The substitution of a byte and its inverse (FIPS 197, 5.1.1 and 5.3.2). -/
def aesSub (a : Nat) : Nat :=
  let v := gfInv a
  [1, 2, 3, 4].foldl (fun r k => r ^^^ rotByte k v) (v ^^^ 0x63)
def aesUnsub (a : Nat) : Nat := gfInv ([1, 3, 6].foldl (fun r k => r ^^^ rotByte k a) 0x05)

def subWord (l : List Nat) : List Nat := l.map aesSub
/-- The expanded key: 60 words, newest first, from the 8 words of the key. -/
def aesExpand : Nat → Nat → List (List Nat) → List (List Nat)
  | 0, _, l => l
  | n + 1, rc, l =>
    let i := l.length
    let t := l.getD 0 []
    let t' := if i % 8 = 0 then
        match subWord (t.drop 1 ++ t.take 1) with
        | a :: r => (a ^^^ rc) :: r
        | [] => []
      else if i % 8 = 4 then subWord t else t
    aesExpand n (if i % 8 = 0 then xt rc else rc) (List.zipWith (· ^^^ ·) (l.getD 7 []) t' :: l)

def aesRoundKeys (key : List Byte) : List (List Nat) :=
  let ws := (aesExpand 52 1 ((chunks 4 8 (key.map (·.toNat))).reverse)).reverse
  (chunks 4 15 ws).map List.flatten

def invShiftRows (s : List Nat) : List Nat :=
  (List.range 16).map (fun i => s.getD ((i % 4) + 4 * ((i / 4 + 4 - i % 4) % 4)) 0)
def invMixCol (c : List Nat) : List Nat :=
  match c with
  | [a, b, d, e] => [gfMul 4 a 14 ^^^ gfMul 4 b 11 ^^^ gfMul 4 d 13 ^^^ gfMul 4 e 9, gfMul 4 a 9 ^^^ gfMul 4 b 14 ^^^ gfMul 4 d 11 ^^^ gfMul 4 e 13,
                     gfMul 4 a 13 ^^^ gfMul 4 b 9 ^^^ gfMul 4 d 14 ^^^ gfMul 4 e 11, gfMul 4 a 11 ^^^ gfMul 4 b 13 ^^^ gfMul 4 d 9 ^^^ gfMul 4 e 14]
  | _ => c
def aesDecBlock (rks : List (List Nat)) (b : List Nat) : List Nat :=
  let add := fun (x k : List Nat) => List.zipWith (· ^^^ ·) x k
  match rks.reverse with
  | [] => b
  | k14 :: ks =>
    let s := add b k14
    let mid := ks.take 13
    let s := mid.foldl (fun s k =>
      let t := add ((invShiftRows s).map aesUnsub) k
      ((chunks 4 4 t).map invMixCol).flatten) s
    add ((invShiftRows s).map aesUnsub) (ks.getD 13 [])

/-- One step of the unwrap: A, the registers, and the step's counter t. -/
def unwrapStep (rks : List (List Nat)) (st : Nat × List Nat) (t : Nat) : Nat × List Nat :=
  let n := st.2.length
  let i := (t - 1) % n
  let x := natBE 8 (st.1 ^^^ t) ++ natBE 8 (st.2.getD i 0)
  let y := (aesDecBlock rks (x.map (·.toNat))).map (BitVec.ofNat 8)
  (beNat (y.take 8), st.2.set i (beNat (y.drop 8)))

/-- Unwrap a 256-bit key from its 40-byte wrap; none if the integrity check fails (R535). -/
def aesUnwrap (kek : List Byte) (c : List Byte) : Option Nat :=
  if c.length ≠ 40 then none else
    let rks := aesRoundKeys kek
    let r := ((List.range 24).reverse.map (· + 1)).foldl (unwrapStep rks)
      (beNat (c.take 8), (chunks 8 4 (c.drop 8)).map beNat)
    if r.1 = 0xA6A6A6A6A6A6A6A6 then some (r.2.foldl (fun a x => a * 2 ^ 64 + x) 0) else none

/-! ## ECDSA on P-384 -/

def p384 : Nat := 2 ^ 384 - 2 ^ 128 - 2 ^ 96 + 2 ^ 32 - 1
def n384 : Nat := 0xffffffffffffffffffffffffffffffffffffffffffffffffc7634d81f4372ddf581a0db248b0a77aecec196accc52973
def b384 : Nat := 0xb3312fa7e23ee7e4988e056be3f82d19181d9c6efe8141120314088f5013875ac656398d8a2ed19d2a85c8edd3ec2aef
def gx384 : Nat := 0xaa87ca22be8b05378eb1c71ef320ad746e1d3b628ba79b9859f741e082542a385502f25dbf55296c3a545e3872760ab7
def gy384 : Nat := 0x3617de4a96262c6f5d9e98bf9292dc29f8f41dbd289a147ce9da3113b5f0b8c00a60b1ce1d7e819d7a431d7c90ea0e5f

/-- Powers modulo m by the bits of the exponent, from bit n - 1 down. -/
def powMod (m b e : Nat) : Nat → Nat → Nat
  | 0, acc => acc
  | n + 1, acc =>
    let a := acc * acc % m
    powMod m b e n (if e.testBit n then a * b % m else a)
def invMod (m a : Nat) : Nat := powMod m (a % m) (m - 2) 384 1

/-- Addition of affine points; none is the point at infinity. -/
def ecAdd (p q : Option (Nat × Nat)) : Option (Nat × Nat) :=
  match p, q with
  | none, q => q
  | p, none => p
  | some (x1, y1), some (x2, y2) =>
    if x1 = x2 ∧ (y1 + y2) % p384 = 0 then none else
      let l := if x1 = x2 then 3 * (x1 * x1 + p384 - 1) * invMod p384 (2 * y1) % p384
        else (y2 + p384 - y1) * invMod p384 (x2 + p384 - x1) % p384
      let x3 := (l * l + 2 * p384 - x1 - x2) % p384
      some (x3, (l * (x1 + p384 - x3) + p384 - y1) % p384)
def ecMul (k : Nat) (q : Option (Nat × Nat)) : Nat → Option (Nat × Nat) → Option (Nat × Nat)
  | 0, acc => acc
  | n + 1, acc =>
    let a := ecAdd acc acc
    ecMul k q n (if k.testBit n then ecAdd a q else a)

/-- A valid signature r, s over a digest under the public key (R543, check 3). -/
def ecdsaVerify (x y r s e : Nat) : Bool :=
  if r = 0 ∨ n384 ≤ r ∨ s = 0 ∨ n384 ≤ s ∨ p384 ≤ x ∨ p384 ≤ y ∨ (y * y) % p384 ≠ (x * x * x + (p384 - 3) * x + b384) % p384
  then false
  else
    let w := invMod n384 s
    match ecAdd (ecMul (e * w % n384) (some (gx384, gy384)) 384 none) (ecMul (r * w % n384) (some (x, y)) 384 none) with
    | some (x1, _) => x1 % n384 == r
    | none => false

/-! ## CRC-32 (R357) -/

/-- One bit of the CRC: most significant bit first, polynomial 0x04C1_1DB7. -/
def crcBit (c : Nat) : Nat := if c.testBit 31 then ((c <<< 1) % 2 ^ 32) ^^^ 0x04C11DB7 else c <<< 1
def crcByte (c : Nat) (b : Byte) : Nat :=
  crcBit (crcBit (crcBit (crcBit (crcBit (crcBit (crcBit (crcBit (c ^^^ (b.toNat <<< 24)))))))))
def crc32 (l : List Byte) : Nat := (l.foldl crcByte 0xFFFFFFFF) ^^^ 0xFFFFFFFF

end Sys2Proof.Machine
end

