-- ==== Sys2Proof/Config.lean ====
section
/-!
DEFINITION. What the spec leaves open. Each constant here has no body: nothing can be proved of its value, so a claim
that holds, holds for every value it might have. Each is named in the assumption log.
-/
namespace Sys2Proof.Config

/-- The value the `n`-th time a result is needed that the spec does not state. -/
opaque freeInt : Nat → Int
/-- A free natural number, as `freeInt`. -/
opaque freeNat : Nat → Nat

/-- A coefficient of a rate converter (R181): the spec gives the filters by their performance only. The arguments are the converter (its
path, its direction, its ratio), the place of the position between two samples of its source, as a fraction, and the sample it weighs, counted
from the one before the position. -/
opaque coeff : Nat → Nat → Nat → Nat → Nat → Int → BitVec 32
/-- The fraction bits of a coefficient. -/
opaque coeffFrac : Fin 32
/-- The ratio loop over a tick (R189, R191): its bandwidth in mHz, its ratio in units of 2^−48 and the tracking errors measured in the tick, in
1/4096 input period, give the ratio it goes on at. -/
opaque loopRatio : Nat → Nat → List Int → Nat

/-- PINK of R213 at one sample, before saturation: the filter is given by its response only. Seed, generator, level in the
linear form of R216, sample. -/
opaque pink : Nat → Nat → Nat → Nat → Int

/-- The largest magnitude, in units of 2^−39 of full scale, among the interpolated points of R274 that belong to a tick: its
coefficients are those of another document. The arguments are the values before the tick and in it. -/
opaque truePeak : List Int → List Int → Nat

/-- The size in KiB of a stored scene (R262): the form of the compression is not given. A record takes at most 1 MiB, twice the bank
of R238 that it holds (DESIGN CHOICE). -/
opaque recordKiB : List (Nat × Nat) → Fin 1025

/-- The CRC-32 of a stored scene's record (R262): the layout it covers is not given. The arguments are the ID, the signature, the generation, the
owner, the sequence number and the codes. -/
opaque recordCrc : List Nat → List (Nat × Nat) → BitVec 32

/-- CONFIG_DIGEST of hierarchy parameters (R355): the layout the CRC covers is not given. -/
opaque hierDigest : List Nat → Nat

/-- The bodies of GRID and MIRROR messages (R361): formats of the firmware, by the number of the message. -/
opaque fwBody : Nat → List Byte

end Sys2Proof.Config
end

