-- ==== Sys2Proof/Machine/Regs.lean ====
section
/-!
DEFINITION. The registers of BAR0 as the field tables of the spec give them (R557 for the header, the owning chapter's
table for the rest): each register's page class and offset, each field's bits, the access code of every field, the
reset word, and the regions that repeat a block of registers.
-/
namespace Sys2Proof.Machine

/-- A register: the index of the first page of its class (R557 CLASS) and its offset in the page. -/
structure Reg where
  page : Nat
  off : Nat
deriving DecidableEq, Repr

/-- A field of a register, bits `hi` to `lo`. -/
structure Fld where
  reg : Reg
  hi : Nat
  lo : Nat
deriving DecidableEq, Repr

/-- The access codes of R12. -/
inductive Acc where
  | rw | ro | rwb | w1c | w1s | wo | ros
deriving DecidableEq, Repr

/-- A field of the access table: its bits and its code. -/
structure AccFld where
  hi : Nat
  lo : Nat
  acc : Acc
deriving DecidableEq, Repr

/-- A row of the access table: a register's offset and its defined fields. -/
structure RegRow where
  off : Nat
  flds : List AccFld
deriving DecidableEq, Repr

/-- A region of a page in which a block of registers repeats: its first offset, the stride, and the number of blocks. -/
structure Region where
  base : Nat
  stride : Nat
  count : Nat
deriving DecidableEq, Repr

/-! ## The common page header (R557); page 0 stands for every page. -/
def HDR.PAGE_ID : Reg := ⟨0, 0x000⟩
def HDR.PAGE_ID_V : Fld := ⟨HDR.PAGE_ID, 31, 0⟩
def HDR.PAGE_CAP : Reg := ⟨0, 0x004⟩
def HDR.PAGE_CAP_V : Fld := ⟨HDR.PAGE_CAP, 31, 0⟩
def HDR.PAGE_CTRL : Reg := ⟨0, 0x008⟩
def HDR.PAGE_CTRL_READ_ACTIVE : Fld := ⟨HDR.PAGE_CTRL, 0, 0⟩
def HDR.PAGE_STAT : Reg := ⟨0, 0x00C⟩
def HDR.PAGE_STAT_PENDING : Fld := ⟨HDR.PAGE_STAT, 31, 31⟩
def HDR.PAGE_STAT_HELD : Fld := ⟨HDR.PAGE_STAT, 30, 30⟩
def HDR.PAGE_STAT_ACC_ERR : Fld := ⟨HDR.PAGE_STAT, 29, 29⟩
def HDR.INT_STAT : Reg := ⟨0, 0x010⟩
def HDR.INT_STAT_BITS : Fld := ⟨HDR.INT_STAT, 31, 0⟩
def HDR.INT_EN : Reg := ⟨0, 0x014⟩
def HDR.INT_EN_EN : Fld := ⟨HDR.INT_EN, 31, 0⟩
def HDR.INT_FORCE : Reg := ⟨0, 0x018⟩
def HDR.INT_FORCE_FORCE : Fld := ⟨HDR.INT_FORCE, 31, 0⟩
def HDR.APPLY : Reg := ⟨0, 0x01C⟩
def HDR.APPLY_GO : Fld := ⟨HDR.APPLY, 31, 31⟩
def HDR.APPLY_HOLD : Fld := ⟨HDR.APPLY, 0, 0⟩

/-! ## MODE (R471) -/
def MODE.STATE : Reg := ⟨0, 0x040⟩
def MODE.STATE_CHANGES : Fld := ⟨MODE.STATE, 31, 16⟩
def MODE.STATE_PEND_VALID : Fld := ⟨MODE.STATE, 12, 12⟩
def MODE.STATE_PEND : Fld := ⟨MODE.STATE, 11, 8⟩
def MODE.STATE_PREV : Fld := ⟨MODE.STATE, 7, 4⟩
def MODE.STATE_CODE : Fld := ⟨MODE.STATE, 3, 0⟩
def MODE.COND : Reg := ⟨0, 0x044⟩
def MODE.COND_SCENE_MISS : Fld := ⟨MODE.COND, 9, 9⟩
def MODE.COND_CFG_DEFAULT : Fld := ⟨MODE.COND, 8, 8⟩
def MODE.COND_RESUMED : Fld := ⟨MODE.COND, 7, 7⟩
def MODE.COND_FREERUN_START : Fld := ⟨MODE.COND, 6, 6⟩
def MODE.COND_THERM : Fld := ⟨MODE.COND, 5, 5⟩
def MODE.COND_MIRROR_COPY : Fld := ⟨MODE.COND, 4, 4⟩
def MODE.COND_REDUND_ANY : Fld := ⟨MODE.COND, 3, 3⟩
def MODE.COND_REF_ACQ : Fld := ⟨MODE.COND, 2, 2⟩
def MODE.COND_REF_HOLD : Fld := ⟨MODE.COND, 1, 1⟩
def MODE.MODE_CTL : Reg := ⟨0, 0x048⟩
def MODE.MODE_CTL_AUTO_START : Fld := ⟨MODE.MODE_CTL, 31, 31⟩
def MODE.MODE_CTL_FREERUN_OK : Fld := ⟨MODE.MODE_CTL, 30, 30⟩
def MODE.MODE_CTL_ACQ_TIMEOUT : Fld := ⟨MODE.MODE_CTL, 15, 0⟩
def MODE.PREROLL_CTL : Reg := ⟨0, 0x04C⟩
def MODE.PREROLL_CTL_PRE_WIN : Fld := ⟨MODE.PREROLL_CTL, 31, 16⟩
def MODE.PREROLL_CTL_PRE_MIN : Fld := ⟨MODE.PREROLL_CTL, 15, 0⟩
def MODE.ENTRY_IDX_HI : Reg := ⟨0, 0x050⟩
def MODE.ENTRY_IDX_HI_IDX : Fld := ⟨MODE.ENTRY_IDX_HI, 31, 0⟩
def MODE.ENTRY_IDX_LO : Reg := ⟨0, 0x054⟩
def MODE.ENTRY_IDX_LO_IDX : Fld := ⟨MODE.ENTRY_IDX_LO, 31, 0⟩
def MODE.MODE_AGE : Reg := ⟨0, 0x058⟩
def MODE.MODE_AGE_SEC : Fld := ⟨MODE.MODE_AGE, 31, 0⟩
def MODE.BOOT_STAT : Reg := ⟨0, 0x05C⟩
def MODE.BOOT_STAT_ROM_ERR : Fld := ⟨MODE.BOOT_STAT, 31, 31⟩
def MODE.BOOT_STAT_FALLBACK : Fld := ⟨MODE.BOOT_STAT, 30, 30⟩
def MODE.BOOT_STAT_WAKE : Fld := ⟨MODE.BOOT_STAT, 29, 29⟩
def MODE.BOOT_STAT_WAKE_PORT : Fld := ⟨MODE.BOOT_STAT, 25, 24⟩
def MODE.BOOT_STAT_WAKE_PAT : Fld := ⟨MODE.BOOT_STAT, 21, 20⟩
def MODE.BOOT_STAT_SLOT : Fld := ⟨MODE.BOOT_STAT, 16, 16⟩
def MODE.BOOT_STAT_BOOTS : Fld := ⟨MODE.BOOT_STAT, 15, 0⟩
def MODE.BOOT_MS : Reg := ⟨0, 0x060⟩
def MODE.BOOT_MS_MS : Fld := ⟨MODE.BOOT_MS, 15, 0⟩
def MODE.STANDBY_CTL : Reg := ⟨0, 0x064⟩
def MODE.STANDBY_CTL_PORT : Fld := ⟨MODE.STANDBY_CTL, 1, 0⟩
def MODE.THERM_STAT : Reg := ⟨0, 0x068⟩
def MODE.THERM_STAT_TJ : Fld := ⟨MODE.THERM_STAT, 15, 0⟩

/-! ## PWR (R626) -/
def PWR.RAIL_STAT : Reg := ⟨1, 0x040⟩
def PWR.RAIL_STAT_EXC : Fld := ⟨PWR.RAIL_STAT, 21, 16⟩
def PWR.RAIL_STAT_OK : Fld := ⟨PWR.RAIL_STAT, 5, 0⟩
def PWR.BANK_STAT : Reg := ⟨1, 0x044⟩
def PWR.BANK_STAT_LEVEL : Fld := ⟨PWR.BANK_STAT, 31, 0⟩
def PWR.TEMP : Reg := ⟨1, 0x048⟩
def PWR.TEMP_VALID : Fld := ⟨PWR.TEMP, 31, 31⟩
def PWR.TEMP_TJ : Fld := ⟨PWR.TEMP, 15, 0⟩
def PWR.IO_CFG : Reg := ⟨1, 0x080⟩
def PWR.IO_CFG_SLEW : Fld := ⟨PWR.IO_CFG, 5, 4⟩
def PWR.IO_CFG_DRIVE : Fld := ⟨PWR.IO_CFG, 1, 0⟩

/-! ## CLKG (R104) -/
def CLKG.CPLL_CTL : Reg := ⟨2, 0x040⟩
def CLKG.CPLL_CTL_SWAP : Fld := ⟨CLKG.CPLL_CTL, 8, 8⟩
def CLKG.CPLL_CTL_PREF : Fld := ⟨CLKG.CPLL_CTL, 0, 0⟩
def CLKG.CPLL_STAT : Reg := ⟨2, 0x044⟩
def CLKG.CPLL_STAT_FAILOVERS : Fld := ⟨CLKG.CPLL_STAT, 15, 8⟩
def CLKG.CPLL_STAT_B_LOCK : Fld := ⟨CLKG.CPLL_STAT, 2, 2⟩
def CLKG.CPLL_STAT_A_LOCK : Fld := ⟨CLKG.CPLL_STAT, 1, 1⟩
def CLKG.CPLL_STAT_ACTIVE : Fld := ⟨CLKG.CPLL_STAT, 0, 0⟩
def CLKG.SSC_CTL : Reg := ⟨2, 0x048⟩
def CLKG.SSC_CTL_MODE : Fld := ⟨CLKG.SSC_CTL, 1, 0⟩
def CLKG.SSC_STAT : Reg := ⟨2, 0x04C⟩
def CLKG.SSC_STAT_BUSY : Fld := ⟨CLKG.SSC_STAT, 0, 0⟩
def CLKG.TPLL_STAT : Reg := ⟨2, 0x050⟩
def CLKG.TPLL_STAT_B_LOSS : Fld := ⟨CLKG.TPLL_STAT, 23, 16⟩
def CLKG.TPLL_STAT_A_LOSS : Fld := ⟨CLKG.TPLL_STAT, 15, 8⟩
def CLKG.TPLL_STAT_TS_SRC : Fld := ⟨CLKG.TPLL_STAT, 2, 2⟩
def CLKG.TPLL_STAT_B_LOCK : Fld := ⟨CLKG.TPLL_STAT, 1, 1⟩
def CLKG.TPLL_STAT_A_LOCK : Fld := ⟨CLKG.TPLL_STAT, 0, 0⟩
def CLKG.MPLL_STAT : Reg := ⟨2, 0x060⟩
def CLKG.MPLL_STAT_PSTEP_BUSY : Fld := ⟨CLKG.MPLL_STAT, 1, 1⟩
def CLKG.MPLL_STAT_LOCK : Fld := ⟨CLKG.MPLL_STAT, 0, 0⟩
def CLKG.MPLL_PSTEP : Reg := ⟨2, 0x064⟩
def CLKG.MPLL_PSTEP_N : Fld := ⟨CLKG.MPLL_PSTEP, 15, 0⟩
def CLKG.MPLL_PHASE : Reg := ⟨2, 0x068⟩
def CLKG.MPLL_PHASE_STEPS : Fld := ⟨CLKG.MPLL_PHASE, 31, 0⟩
def CLKG.LOCK_MASK : Reg := ⟨2, 0x070⟩
def CLKG.LOCK_MASK_MASK : Fld := ⟨CLKG.LOCK_MASK, 4, 0⟩
def CLKG.LOCK_EVT : Reg := ⟨2, 0x078⟩
def CLKG.LOCK_EVT_COUNT : Fld := ⟨CLKG.LOCK_EVT, 31, 0⟩

/-! ## REFS (R103) -/
def REFS.SEL_CTL : Reg := ⟨3, 0x040⟩
def REFS.SEL_CTL_FORCE_EN : Fld := ⟨REFS.SEL_CTL, 31, 31⟩
def REFS.SEL_CTL_FORCE_IDX : Fld := ⟨REFS.SEL_CTL, 26, 24⟩
def REFS.SEL_CTL_MARGIN : Fld := ⟨REFS.SEL_CTL, 23, 16⟩
def REFS.SEL_CTL_REVERT : Fld := ⟨REFS.SEL_CTL, 15, 15⟩
def REFS.SEL_CTL_REVERT_HOLD : Fld := ⟨REFS.SEL_CTL, 11, 0⟩
def REFS.STAT : Reg := ⟨3, 0x044⟩
def REFS.STAT_STATE : Fld := ⟨REFS.STAT, 31, 30⟩
def REFS.STAT_SLEW : Fld := ⟨REFS.STAT, 29, 29⟩
def REFS.STAT_HOLD_LOW : Fld := ⟨REFS.STAT, 28, 28⟩
def REFS.STAT_SEL_IDX : Fld := ⟨REFS.STAT, 23, 21⟩
def REFS.STAT_SEL_VALID : Fld := ⟨REFS.STAT, 20, 20⟩
def REFS.STAT_SWITCHES : Fld := ⟨REFS.STAT, 15, 0⟩
def REFS.HOLD_AGE : Reg := ⟨3, 0x048⟩
def REFS.HOLD_AGE_SEC : Fld := ⟨REFS.HOLD_AGE, 31, 0⟩
def REFS.HOLD_FREQ : Reg := ⟨3, 0x04C⟩
def REFS.HOLD_FREQ_FREQ : Fld := ⟨REFS.HOLD_FREQ, 31, 0⟩
def REFS.SERVO_CTL : Reg := ⟨3, 0x058⟩
def REFS.SERVO_CTL_BW : Fld := ⟨REFS.SERVO_CTL, 1, 0⟩
def REFS.DRIFT_CTL : Reg := ⟨3, 0x060⟩
def REFS.DRIFT_CTL_SOFT_PPB : Fld := ⟨REFS.DRIFT_CTL, 15, 0⟩
def REFS.XO_TOL : Reg := ⟨3, 0x064⟩
def REFS.XO_TOL_PPB : Fld := ⟨REFS.XO_TOL, 23, 0⟩
def REFS.XO_CAL : Reg := ⟨3, 0x068⟩
def REFS.XO_CAL_PPB : Fld := ⟨REFS.XO_CAL, 31, 0⟩
def REFS.PTP_VAR_THR : Reg := ⟨3, 0x06C⟩
def REFS.PTP_VAR_THR_THR : Fld := ⟨REFS.PTP_VAR_THR, 15, 0⟩
def REFS.ENS : Reg := ⟨3, 0x070⟩
def REFS.ENS_E : Fld := ⟨REFS.ENS, 31, 0⟩
def REFS.ENS_STAT : Reg := ⟨3, 0x074⟩
def REFS.ENS_STAT_XO_VOTER : Fld := ⟨REFS.ENS_STAT, 4, 4⟩
def REFS.ENS_STAT_VOTERS : Fld := ⟨REFS.ENS_STAT, 3, 0⟩
def REFS.SLEW_CTL : Reg := ⟨3, 0x078⟩
def REFS.SLEW_CTL_SLEW_PPB : Fld := ⟨REFS.SLEW_CTL, 12, 0⟩
def REFS.LOCK_CTL : Reg := ⟨3, 0x07C⟩
def REFS.LOCK_CTL_LOCK_WIN : Fld := ⟨REFS.LOCK_CTL, 31, 16⟩
def REFS.LOCK_CTL_LOCK_TIME : Fld := ⟨REFS.LOCK_CTL, 15, 0⟩
def REFS.ALIGN_CMD : Reg := ⟨3, 0x080⟩
def REFS.ALIGN_CMD_MASK : Fld := ⟨REFS.ALIGN_CMD, 11, 0⟩
def REFS.ALIGN_STAT : Reg := ⟨3, 0x084⟩
def REFS.ALIGN_STAT_FORCED : Fld := ⟨REFS.ALIGN_STAT, 31, 16⟩
def REFS.ALIGN_STAT_DUE : Fld := ⟨REFS.ALIGN_STAT, 11, 0⟩
def REFS.ALIGN_ERR : Reg := ⟨3, 0x0C0⟩
def REFS.ALIGN_ERR_ERR : Fld := ⟨REFS.ALIGN_ERR, 31, 0⟩
def REFS.CAND_CFG : Reg := ⟨3, 0x100⟩
def REFS.CAND_CFG_EN : Fld := ⟨REFS.CAND_CFG, 31, 31⟩
def REFS.CAND_CFG_QUAL : Fld := ⟨REFS.CAND_CFG, 23, 16⟩
def REFS.CAND_CFG_PRIO : Fld := ⟨REFS.CAND_CFG, 11, 8⟩
def REFS.CAND_CFG_SRC : Fld := ⟨REFS.CAND_CFG, 6, 4⟩
def REFS.CAND_CFG_RATE : Fld := ⟨REFS.CAND_CFG, 2, 0⟩
def REFS.CAND_STAT : Reg := ⟨3, 0x104⟩
def REFS.CAND_STAT_Q_EFF : Fld := ⟨REFS.CAND_STAT, 31, 24⟩
def REFS.CAND_STAT_Q_BASE : Fld := ⟨REFS.CAND_STAT, 23, 16⟩
def REFS.CAND_STAT_STEPS : Fld := ⟨REFS.CAND_STAT, 15, 13⟩
def REFS.CAND_STAT_QUALIFIED : Fld := ⟨REFS.CAND_STAT, 12, 12⟩
def REFS.CAND_STAT_RANK : Fld := ⟨REFS.CAND_STAT, 11, 8⟩
def REFS.CAND_STAT_DQ : Fld := ⟨REFS.CAND_STAT, 5, 0⟩
def REFS.CAND_YOFS : Reg := ⟨3, 0x108⟩
def REFS.CAND_YOFS_Y : Fld := ⟨REFS.CAND_YOFS, 31, 0⟩
def REFS.CAND_DEV : Reg := ⟨3, 0x10C⟩
def REFS.CAND_DEV_D : Fld := ⟨REFS.CAND_DEV, 31, 0⟩

/-! ## TIME (R70, R138) -/
def TIME.TB_CTL : Reg := ⟨4, 0x040⟩
def TIME.TB_CTL_SET_GO : Fld := ⟨TIME.TB_CTL, 31, 31⟩
def TIME.TB_CTL_LTC_FOLLOW : Fld := ⟨TIME.TB_CTL, 0, 0⟩
def TIME.TB_STAT : Reg := ⟨4, 0x044⟩
def TIME.TB_STAT_SET_DENY : Fld := ⟨TIME.TB_STAT, 31, 31⟩
def TIME.TB_STAT_VALID : Fld := ⟨TIME.TB_STAT, 0, 0⟩
def TIME.SNAP_SEC_HI : Reg := ⟨4, 0x050⟩
def TIME.SNAP_SEC_HI_V : Fld := ⟨TIME.SNAP_SEC_HI, 31, 0⟩
def TIME.SNAP_SEC_LO : Reg := ⟨4, 0x054⟩
def TIME.SNAP_SEC_LO_V : Fld := ⟨TIME.SNAP_SEC_LO, 31, 0⟩
def TIME.SNAP_NS : Reg := ⟨4, 0x058⟩
def TIME.SNAP_NS_V : Fld := ⟨TIME.SNAP_NS, 31, 0⟩
def TIME.SNAP_FRAC : Reg := ⟨4, 0x05C⟩
def TIME.SNAP_FRAC_V : Fld := ⟨TIME.SNAP_FRAC, 31, 0⟩
def TIME.MEDIA_OFS_HI : Reg := ⟨4, 0x060⟩
def TIME.MEDIA_OFS_HI_V : Fld := ⟨TIME.MEDIA_OFS_HI, 31, 0⟩
def TIME.MEDIA_OFS_LO : Reg := ⟨4, 0x064⟩
def TIME.MEDIA_OFS_LO_V : Fld := ⟨TIME.MEDIA_OFS_LO, 31, 0⟩
def TIME.SET_SEC_HI : Reg := ⟨4, 0x068⟩
def TIME.SET_SEC_HI_V : Fld := ⟨TIME.SET_SEC_HI, 31, 0⟩
def TIME.SET_SEC_LO : Reg := ⟨4, 0x06C⟩
def TIME.SET_SEC_LO_V : Fld := ⟨TIME.SET_SEC_LO, 31, 0⟩
def TIME.SET_NS : Reg := ⟨4, 0x070⟩
def TIME.SET_NS_V : Fld := ⟨TIME.SET_NS, 31, 0⟩
def TIME.LTC_IN_CTL : Reg := ⟨4, 0x080⟩
def TIME.LTC_IN_CTL_SLEW_PPM : Fld := ⟨TIME.LTC_IN_CTL, 17, 8⟩
def TIME.LTC_IN_CTL_JAM_COUNT : Fld := ⟨TIME.LTC_IN_CTL, 7, 4⟩
def TIME.LTC_IN_CTL_JAM_THRESH : Fld := ⟨TIME.LTC_IN_CTL, 3, 0⟩
def TIME.LTC_IN_STAT : Reg := ⟨4, 0x084⟩
def TIME.LTC_IN_STAT_JAMS : Fld := ⟨TIME.LTC_IN_STAT, 31, 16⟩
def TIME.LTC_IN_STAT_RATE : Fld := ⟨TIME.LTC_IN_STAT, 6, 4⟩
def TIME.LTC_IN_STAT_REVERSE : Fld := ⟨TIME.LTC_IN_STAT, 1, 1⟩
def TIME.LTC_IN_STAT_LOST : Fld := ⟨TIME.LTC_IN_STAT, 0, 0⟩
def TIME.LTC_IN_TC : Reg := ⟨4, 0x088⟩
def TIME.LTC_IN_TC_ADDR : Fld := ⟨TIME.LTC_IN_TC, 28, 0⟩
def TIME.LTC_IN_UB : Reg := ⟨4, 0x08C⟩
def TIME.LTC_IN_UB_UB : Fld := ⟨TIME.LTC_IN_UB, 31, 0⟩
def TIME.LTC_OUT_CTL : Reg := ⟨4, 0x090⟩
def TIME.LTC_OUT_CTL_SRC : Fld := ⟨TIME.LTC_OUT_CTL, 7, 4⟩
def TIME.LTC_OUT_CTL_RATE : Fld := ⟨TIME.LTC_OUT_CTL, 3, 0⟩
def TIME.LTC_OUT_OFS : Reg := ⟨4, 0x094⟩
def TIME.LTC_OUT_OFS_OFS : Fld := ⟨TIME.LTC_OUT_OFS, 31, 0⟩
def TIME.LTC_OUT_STAT : Reg := ⟨4, 0x098⟩
def TIME.LTC_OUT_STAT_FREEWHEEL : Fld := ⟨TIME.LTC_OUT_STAT, 0, 0⟩
def TIME.PTP_CTL : Reg := ⟨4, 0x0A0⟩
def TIME.PTP_CTL_EN : Fld := ⟨TIME.PTP_CTL, 31, 31⟩
def TIME.PTP_CTL_PROFILE : Fld := ⟨TIME.PTP_CTL, 24, 24⟩
def TIME.PTP_CTL_DOMAIN : Fld := ⟨TIME.PTP_CTL, 23, 16⟩
def TIME.PTP_CTL_DELAY_MECH : Fld := ⟨TIME.PTP_CTL, 9, 9⟩
def TIME.PTP_CTL_IPV6 : Fld := ⟨TIME.PTP_CTL, 8, 8⟩
def TIME.PTP_CTL_ANN_TMO : Fld := ⟨TIME.PTP_CTL, 7, 4⟩
def TIME.PTP_CTL_SYNC_TMO : Fld := ⟨TIME.PTP_CTL, 3, 0⟩
def TIME.PTP_STAT : Reg := ⟨4, 0x0A4⟩
def TIME.PTP_STAT_SERVO : Fld := ⟨TIME.PTP_STAT, 31, 30⟩
def TIME.PTP_STAT_PORT : Fld := ⟨TIME.PTP_STAT, 29, 29⟩
def TIME.PTP_STAT_GM_VALID : Fld := ⟨TIME.PTP_STAT, 28, 28⟩
def TIME.PTP_STAT_GM_CHANGES : Fld := ⟨TIME.PTP_STAT, 15, 0⟩
def TIME.GM_ID_HI : Reg := ⟨4, 0x0A8⟩
def TIME.GM_ID_HI_ID : Fld := ⟨TIME.GM_ID_HI, 31, 0⟩
def TIME.GM_ID_LO : Reg := ⟨4, 0x0AC⟩
def TIME.GM_ID_LO_ID : Fld := ⟨TIME.GM_ID_LO, 31, 0⟩
def TIME.GM_QUAL : Reg := ⟨4, 0x0B0⟩
def TIME.GM_QUAL_CLASS : Fld := ⟨TIME.GM_QUAL, 31, 24⟩
def TIME.GM_QUAL_ACC : Fld := ⟨TIME.GM_QUAL, 23, 16⟩
def TIME.GM_QUAL_VAR : Fld := ⟨TIME.GM_QUAL, 15, 0⟩
def TIME.OFFSET : Reg := ⟨4, 0x0B4⟩
def TIME.OFFSET_NS : Fld := ⟨TIME.OFFSET, 31, 0⟩
def TIME.MPD : Reg := ⟨4, 0x0B8⟩
def TIME.MPD_NS : Fld := ⟨TIME.MPD, 31, 0⟩
def TIME.PTP_LOCK_WIN : Reg := ⟨4, 0x0BC⟩
def TIME.PTP_LOCK_WIN_NS : Fld := ⟨TIME.PTP_LOCK_WIN, 15, 0⟩

/-! ## COLL (R58) -/
def COLL.SNAP_CTL : Reg := ⟨8, 0x040⟩
def COLL.SNAP_CTL_SEQ : Fld := ⟨COLL.SNAP_CTL, 31, 16⟩
def COLL.SNAP_CTL_REQ : Fld := ⟨COLL.SNAP_CTL, 0, 0⟩
def COLL.COLL_STAT : Reg := ⟨8, 0x044⟩
def COLL.COLL_STAT_MISSED_CNT : Fld := ⟨COLL.COLL_STAT, 31, 24⟩
def COLL.COLL_STAT_LATE_CNT : Fld := ⟨COLL.COLL_STAT, 23, 16⟩
def COLL.COLL_STAT_WR_IGN : Fld := ⟨COLL.COLL_STAT, 15, 15⟩
def COLL.COLL_STAT_ARM_DENY : Fld := ⟨COLL.COLL_STAT, 14, 14⟩
def COLL.COLL_STAT_CANCEL_DENY : Fld := ⟨COLL.COLL_STAT, 13, 13⟩
def COLL.COLL_STAT_ARMED : Fld := ⟨COLL.COLL_STAT, 6, 0⟩
def COLL.NOW_IDX_HI : Reg := ⟨8, 0x048⟩
def COLL.NOW_IDX_HI_V : Fld := ⟨COLL.NOW_IDX_HI, 31, 0⟩
def COLL.NOW_IDX_LO : Reg := ⟨8, 0x04C⟩
def COLL.NOW_IDX_LO_V : Fld := ⟨COLL.NOW_IDX_LO, 31, 0⟩
def COLL.MSNAP_SEC_HI : Reg := ⟨8, 0x050⟩
def COLL.MSNAP_SEC_HI_V : Fld := ⟨COLL.MSNAP_SEC_HI, 31, 0⟩
def COLL.MSNAP_SEC_LO : Reg := ⟨8, 0x054⟩
def COLL.MSNAP_SEC_LO_V : Fld := ⟨COLL.MSNAP_SEC_LO, 31, 0⟩
def COLL.MSNAP_NS : Reg := ⟨8, 0x058⟩
def COLL.MSNAP_NS_V : Fld := ⟨COLL.MSNAP_NS, 31, 0⟩
def COLL.MSNAP_FRAC : Reg := ⟨8, 0x05C⟩
def COLL.MSNAP_FRAC_V : Fld := ⟨COLL.MSNAP_FRAC, 31, 0⟩
def COLL.SNAP_IDX_HI : Reg := ⟨8, 0x060⟩
def COLL.SNAP_IDX_HI_V : Fld := ⟨COLL.SNAP_IDX_HI, 31, 0⟩
def COLL.SNAP_IDX_LO : Reg := ⟨8, 0x064⟩
def COLL.SNAP_IDX_LO_V : Fld := ⟨COLL.SNAP_IDX_LO, 31, 0⟩
def COLL.PEEK_SEL : Reg := ⟨8, 0x068⟩
def COLL.PEEK_SEL_V : Fld := ⟨COLL.PEEK_SEL, 5, 0⟩
def COLL.PEEK_IDX_HI : Reg := ⟨8, 0x06C⟩
def COLL.PEEK_IDX_HI_V : Fld := ⟨COLL.PEEK_IDX_HI, 31, 0⟩
def COLL.PEEK_IDX_LO : Reg := ⟨8, 0x070⟩
def COLL.PEEK_IDX_LO_V : Fld := ⟨COLL.PEEK_IDX_LO, 31, 0⟩
def COLL.SLOT_CTL : Reg := ⟨8, 0x100⟩
def COLL.SLOT_CTL_ARM : Fld := ⟨COLL.SLOT_CTL, 31, 31⟩
def COLL.SLOT_CTL_CANCEL : Fld := ⟨COLL.SLOT_CTL, 30, 30⟩
def COLL.SLOT_CTL_OWNER : Fld := ⟨COLL.SLOT_CTL, 11, 8⟩
def COLL.SLOT_CTL_LATE : Fld := ⟨COLL.SLOT_CTL, 7, 7⟩
def COLL.SLOT_CTL_TBSEL : Fld := ⟨COLL.SLOT_CTL, 6, 4⟩
def COLL.SLOT_CTL_ACTION : Fld := ⟨COLL.SLOT_CTL, 3, 0⟩
def COLL.SLOT_SEC_HI : Reg := ⟨8, 0x104⟩
def COLL.SLOT_SEC_HI_V : Fld := ⟨COLL.SLOT_SEC_HI, 31, 0⟩
def COLL.SLOT_SEC_LO : Reg := ⟨8, 0x108⟩
def COLL.SLOT_SEC_LO_V : Fld := ⟨COLL.SLOT_SEC_LO, 31, 0⟩
def COLL.SLOT_NS : Reg := ⟨8, 0x10C⟩
def COLL.SLOT_NS_V : Fld := ⟨COLL.SLOT_NS, 31, 0⟩
def COLL.SLOT_PARAM0 : Reg := ⟨8, 0x110⟩
def COLL.SLOT_PARAM0_V : Fld := ⟨COLL.SLOT_PARAM0, 31, 0⟩
def COLL.SLOT_PARAM1 : Reg := ⟨8, 0x114⟩
def COLL.SLOT_PARAM1_V : Fld := ⟨COLL.SLOT_PARAM1, 31, 0⟩
def COLL.SLOT_PERIOD : Reg := ⟨8, 0x118⟩
def COLL.SLOT_PERIOD_V : Fld := ⟨COLL.SLOT_PERIOD, 31, 0⟩
def COLL.SLOT_STAT : Reg := ⟨8, 0x11C⟩
def COLL.SLOT_STAT_WAS_LATE : Fld := ⟨COLL.SLOT_STAT, 5, 5⟩
def COLL.SLOT_STAT_STALE : Fld := ⟨COLL.SLOT_STAT, 4, 4⟩
def COLL.SLOT_STAT_STATE : Fld := ⟨COLL.SLOT_STAT, 2, 0⟩

/-! ## EVTC (R68, R69) -/
def EVTC.EVT_CTL : Reg := ⟨9, 0x040⟩
def EVTC.EVT_CTL_EDGE : Fld := ⟨EVTC.EVT_CTL, 31, 16⟩
def EVTC.EVT_CTL_EN : Fld := ⟨EVTC.EVT_CTL, 7, 0⟩
def EVTC.EVT_TB : Reg := ⟨9, 0x044⟩
def EVTC.EVT_TB_BASE : Fld := ⟨EVTC.EVT_TB, 3, 0⟩
def EVTC.HOLDOFF : Reg := ⟨9, 0x048⟩
def EVTC.HOLDOFF_HOLDOFF : Fld := ⟨EVTC.HOLDOFF, 15, 0⟩
def EVTC.FIFO_STAT : Reg := ⟨9, 0x04C⟩
def EVTC.FIFO_STAT_OVF : Fld := ⟨EVTC.FIFO_STAT, 31, 31⟩
def EVTC.FIFO_STAT_THRESH : Fld := ⟨EVTC.FIFO_STAT, 21, 16⟩
def EVTC.FIFO_STAT_LEVEL : Fld := ⟨EVTC.FIFO_STAT, 6, 0⟩
def EVTC.ENTRY0 : Reg := ⟨9, 0x050⟩
def EVTC.ENTRY0_V : Fld := ⟨EVTC.ENTRY0, 31, 0⟩
def EVTC.ENTRY1 : Reg := ⟨9, 0x054⟩
def EVTC.ENTRY1_V : Fld := ⟨EVTC.ENTRY1, 31, 0⟩
def EVTC.ENTRY2 : Reg := ⟨9, 0x058⟩
def EVTC.ENTRY2_V : Fld := ⟨EVTC.ENTRY2, 31, 0⟩
def EVTC.ENTRY3 : Reg := ⟨9, 0x05C⟩
def EVTC.ENTRY3_V : Fld := ⟨EVTC.ENTRY3, 31, 0⟩
def EVTC.OUT_POL : Reg := ⟨9, 0x060⟩
def EVTC.OUT_POL_INV : Fld := ⟨EVTC.OUT_POL, 7, 0⟩

/-! ## NETP (R136, R137) -/
def NETP.PORT_CTL : Reg := ⟨10, 0x040⟩
def NETP.PORT_CTL_EN : Fld := ⟨NETP.PORT_CTL, 31, 31⟩
def NETP.PORT_CTL_TRAIN : Fld := ⟨NETP.PORT_CTL, 12, 12⟩
def NETP.PORT_CTL_RATE : Fld := ⟨NETP.PORT_CTL, 6, 4⟩
def NETP.PORT_CTL_FEC : Fld := ⟨NETP.PORT_CTL, 2, 0⟩
def NETP.PORT_STAT : Reg := ⟨10, 0x044⟩
def NETP.PORT_STAT_LINK : Fld := ⟨NETP.PORT_STAT, 31, 31⟩
def NETP.PORT_STAT_FEC_LOCK : Fld := ⟨NETP.PORT_STAT, 30, 30⟩
def NETP.PORT_STAT_LOCAL_FAULT : Fld := ⟨NETP.PORT_STAT, 29, 29⟩
def NETP.PORT_STAT_REMOTE_FAULT : Fld := ⟨NETP.PORT_STAT, 28, 28⟩
def NETP.PORT_STAT_CFG_ERR : Fld := ⟨NETP.PORT_STAT, 27, 27⟩
def NETP.PORT_STAT_LINK_DOWNS : Fld := ⟨NETP.PORT_STAT, 15, 0⟩
def NETP.MAC_CFG : Reg := ⟨10, 0x048⟩
def NETP.MAC_CFG_MAX_LEN : Fld := ⟨NETP.MAC_CFG, 13, 0⟩
def NETP.MAC_ADDR_HI : Reg := ⟨10, 0x04C⟩
def NETP.MAC_ADDR_HI_ADDR : Fld := ⟨NETP.MAC_ADDR_HI, 15, 0⟩
def NETP.MAC_ADDR_LO : Reg := ⟨10, 0x050⟩
def NETP.MAC_ADDR_LO_ADDR : Fld := ⟨NETP.MAC_ADDR_LO, 31, 0⟩
def NETP.TS_LAT_RX : Reg := ⟨10, 0x060⟩
def NETP.TS_LAT_RX_LAT : Fld := ⟨NETP.TS_LAT_RX, 31, 0⟩
def NETP.TS_LAT_TX : Reg := ⟨10, 0x064⟩
def NETP.TS_LAT_TX_LAT : Fld := ⟨NETP.TS_LAT_TX, 31, 0⟩
def NETP.RX_ADJ : Reg := ⟨10, 0x068⟩
def NETP.RX_ADJ_ADJ : Fld := ⟨NETP.RX_ADJ, 31, 0⟩
def NETP.TX_ADJ : Reg := ⟨10, 0x06C⟩
def NETP.TX_ADJ_ADJ : Fld := ⟨NETP.TX_ADJ, 31, 0⟩
def NETP.PTP_ASYM : Reg := ⟨10, 0x070⟩
def NETP.PTP_ASYM_ASYM : Fld := ⟨NETP.PTP_ASYM, 31, 0⟩
def NETP.CNT_CTL : Reg := ⟨10, 0x074⟩
def NETP.CNT_CTL_CLEAR : Fld := ⟨NETP.CNT_CTL, 0, 0⟩
def NETP.GCL_CTL : Reg := ⟨10, 0x080⟩
def NETP.GCL_CTL_EN : Fld := ⟨NETP.GCL_CTL, 31, 31⟩
def NETP.GCL_CTL_SWAP : Fld := ⟨NETP.GCL_CTL, 30, 30⟩
def NETP.GCL_CTL_CYCLE : Fld := ⟨NETP.GCL_CTL, 24, 16⟩
def NETP.GCL_CTL_PHASE : Fld := ⟨NETP.GCL_CTL, 8, 0⟩
def NETP.GCL_STAT : Reg := ⟨10, 0x084⟩
def NETP.GCL_STAT_SWAP_PEND : Fld := ⟨NETP.GCL_STAT, 31, 31⟩
def NETP.GCL_STAT_ACTIVE : Fld := ⟨NETP.GCL_STAT, 30, 30⟩
def NETP.GCL_STAT_LONG : Fld := ⟨NETP.GCL_STAT, 29, 29⟩
def NETP.GCL_STAT_SUSP : Fld := ⟨NETP.GCL_STAT, 28, 28⟩
def NETP.HQ_MAP : Reg := ⟨10, 0x090⟩
def NETP.HQ_MAP_MAP : Fld := ⟨NETP.HQ_MAP, 15, 0⟩
def NETP.HQ_RATE : Reg := ⟨10, 0x0A0⟩
def NETP.HQ_RATE_MBPS : Fld := ⟨NETP.HQ_RATE, 19, 0⟩
def NETP.QSFP_CTL : Reg := ⟨10, 0x0C0⟩
def NETP.QSFP_CTL_LPMODE : Fld := ⟨NETP.QSFP_CTL, 2, 2⟩
def NETP.QSFP_CTL_RESET : Fld := ⟨NETP.QSFP_CTL, 1, 1⟩
def NETP.QSFP_CTL_AUTO : Fld := ⟨NETP.QSFP_CTL, 0, 0⟩
def NETP.QSFP_STAT : Reg := ⟨10, 0x0C4⟩
def NETP.QSFP_STAT_PRESENT : Fld := ⟨NETP.QSFP_STAT, 31, 31⟩
def NETP.QSFP_STAT_INT : Fld := ⟨NETP.QSFP_STAT, 30, 30⟩
def NETP.QSFP_STAT_IDENT : Fld := ⟨NETP.QSFP_STAT, 23, 16⟩
def NETP.QSFP_STAT_PWR_CLASS : Fld := ⟨NETP.QSFP_STAT, 11, 8⟩
def NETP.QSFP_STAT_HIGH_PWR_DENIED : Fld := ⟨NETP.QSFP_STAT, 7, 7⟩
def NETP.QSFP_STAT_ALARM : Fld := ⟨NETP.QSFP_STAT, 5, 0⟩
def NETP.WAKE_CTL : Reg := ⟨10, 0x0D0⟩
def NETP.WAKE_CTL_PAT_EN : Fld := ⟨NETP.WAKE_CTL, 3, 0⟩
def NETP.VID_LIST : Reg := ⟨10, 0x0E0⟩
def NETP.VID_LIST_VID : Fld := ⟨NETP.VID_LIST, 11, 0⟩
def NETP.GCL_PEND : Reg := ⟨10, 0x100⟩
def NETP.GCL_PEND_MASK : Fld := ⟨NETP.GCL_PEND, 31, 24⟩
def NETP.GCL_PEND_INTERVAL : Fld := ⟨NETP.GCL_PEND, 19, 0⟩
def NETP.GCL_ACT : Reg := ⟨10, 0x140⟩
def NETP.GCL_ACT_V : Fld := ⟨NETP.GCL_ACT, 31, 0⟩
def NETP.RX_FRAMES_HI : Reg := ⟨10, 0x200⟩
def NETP.RX_FRAMES_HI_V : Fld := ⟨NETP.RX_FRAMES_HI, 31, 0⟩
def NETP.RX_FRAMES_LO : Reg := ⟨10, 0x204⟩
def NETP.RX_FRAMES_LO_V : Fld := ⟨NETP.RX_FRAMES_LO, 31, 0⟩
def NETP.RX_OCTETS_HI : Reg := ⟨10, 0x208⟩
def NETP.RX_OCTETS_HI_V : Fld := ⟨NETP.RX_OCTETS_HI, 31, 0⟩
def NETP.RX_OCTETS_LO : Reg := ⟨10, 0x20C⟩
def NETP.RX_OCTETS_LO_V : Fld := ⟨NETP.RX_OCTETS_LO, 31, 0⟩
def NETP.RX_FCS_ERR : Reg := ⟨10, 0x210⟩
def NETP.RX_FCS_ERR_V : Fld := ⟨NETP.RX_FCS_ERR, 31, 0⟩
def NETP.RX_RUNT : Reg := ⟨10, 0x214⟩
def NETP.RX_RUNT_V : Fld := ⟨NETP.RX_RUNT, 31, 0⟩
def NETP.RX_OVERSIZE : Reg := ⟨10, 0x218⟩
def NETP.RX_OVERSIZE_V : Fld := ⟨NETP.RX_OVERSIZE, 31, 0⟩
def NETP.RX_IP_CSUM_ERR : Reg := ⟨10, 0x21C⟩
def NETP.RX_IP_CSUM_ERR_V : Fld := ⟨NETP.RX_IP_CSUM_ERR, 31, 0⟩
def NETP.RX_UDP_CSUM_ERR : Reg := ⟨10, 0x220⟩
def NETP.RX_UDP_CSUM_ERR_V : Fld := ⟨NETP.RX_UDP_CSUM_ERR, 31, 0⟩
def NETP.RX_OVF : Reg := ⟨10, 0x224⟩
def NETP.RX_OVF_V : Fld := ⟨NETP.RX_OVF, 31, 0⟩
def NETP.RX_NO_MATCH : Reg := ⟨10, 0x228⟩
def NETP.RX_NO_MATCH_V : Fld := ⟨NETP.RX_NO_MATCH, 31, 0⟩
def NETP.RX_PAUSE : Reg := ⟨10, 0x22C⟩
def NETP.RX_PAUSE_V : Fld := ⟨NETP.RX_PAUSE, 31, 0⟩
def NETP.RX_VID_DROP : Reg := ⟨10, 0x230⟩
def NETP.RX_VID_DROP_V : Fld := ⟨NETP.RX_VID_DROP, 31, 0⟩
def NETP.RX_QUEUE_DROP : Reg := ⟨10, 0x234⟩
def NETP.RX_QUEUE_DROP_V : Fld := ⟨NETP.RX_QUEUE_DROP, 31, 0⟩
def NETP.FEC_CORR_HI : Reg := ⟨10, 0x238⟩
def NETP.FEC_CORR_HI_V : Fld := ⟨NETP.FEC_CORR_HI, 31, 0⟩
def NETP.FEC_CORR_LO : Reg := ⟨10, 0x23C⟩
def NETP.FEC_CORR_LO_V : Fld := ⟨NETP.FEC_CORR_LO, 31, 0⟩
def NETP.FEC_UNCORR : Reg := ⟨10, 0x240⟩
def NETP.FEC_UNCORR_V : Fld := ⟨NETP.FEC_UNCORR, 31, 0⟩
def NETP.TX_FRAMES_HI : Reg := ⟨10, 0x250⟩
def NETP.TX_FRAMES_HI_V : Fld := ⟨NETP.TX_FRAMES_HI, 31, 0⟩
def NETP.TX_FRAMES_LO : Reg := ⟨10, 0x254⟩
def NETP.TX_FRAMES_LO_V : Fld := ⟨NETP.TX_FRAMES_LO, 31, 0⟩
def NETP.TX_OCTETS_HI : Reg := ⟨10, 0x258⟩
def NETP.TX_OCTETS_HI_V : Fld := ⟨NETP.TX_OCTETS_HI, 31, 0⟩
def NETP.TX_OCTETS_LO : Reg := ⟨10, 0x25C⟩
def NETP.TX_OCTETS_LO_V : Fld := ⟨NETP.TX_OCTETS_LO, 31, 0⟩
def NETP.TX_GUARD_HOLD : Reg := ⟨10, 0x260⟩
def NETP.TX_GUARD_HOLD_V : Fld := ⟨NETP.TX_GUARD_HOLD, 31, 0⟩
def NETP.TX_LINK_DROP : Reg := ⟨10, 0x264⟩
def NETP.TX_LINK_DROP_V : Fld := ⟨NETP.TX_LINK_DROP, 31, 0⟩
def NETP.TX_Q0 : Reg := ⟨10, 0x270⟩
def NETP.TX_Q0_V : Fld := ⟨NETP.TX_Q0, 31, 0⟩
def NETP.TX_Q1 : Reg := ⟨10, 0x274⟩
def NETP.TX_Q1_V : Fld := ⟨NETP.TX_Q1, 31, 0⟩
def NETP.TX_Q2 : Reg := ⟨10, 0x278⟩
def NETP.TX_Q2_V : Fld := ⟨NETP.TX_Q2, 31, 0⟩
def NETP.TX_Q3 : Reg := ⟨10, 0x27C⟩
def NETP.TX_Q3_V : Fld := ⟨NETP.TX_Q3, 31, 0⟩
def NETP.TX_Q4 : Reg := ⟨10, 0x280⟩
def NETP.TX_Q4_V : Fld := ⟨NETP.TX_Q4, 31, 0⟩
def NETP.TX_Q5 : Reg := ⟨10, 0x284⟩
def NETP.TX_Q5_V : Fld := ⟨NETP.TX_Q5, 31, 0⟩
def NETP.TX_Q6 : Reg := ⟨10, 0x288⟩
def NETP.TX_Q6_V : Fld := ⟨NETP.TX_Q6, 31, 0⟩
def NETP.TX_Q7 : Reg := ⟨10, 0x28C⟩
def NETP.TX_Q7_V : Fld := ⟨NETP.TX_Q7, 31, 0⟩

/-! ## STRX (R173) -/
def STRX.SEL : Reg := ⟨14, 0x040⟩
def STRX.SEL_STREAM : Fld := ⟨STRX.SEL, 9, 0⟩
def STRX.ENTRY_CMD : Reg := ⟨14, 0x044⟩
def STRX.ENTRY_CMD_COMMIT : Fld := ⟨STRX.ENTRY_CMD, 31, 31⟩
def STRX.ENTRY_CMD_LOAD : Fld := ⟨STRX.ENTRY_CMD, 30, 30⟩
def STRX.ENTRY_CMD_BUSY : Fld := ⟨STRX.ENTRY_CMD, 29, 29⟩
def STRX.ENTRY_CMD_RESULT : Fld := ⟨STRX.ENTRY_CMD, 15, 0⟩
def STRX.CFG : Reg := ⟨14, 0x050⟩
def STRX.CFG_EN : Fld := ⟨STRX.CFG, 31, 31⟩
def STRX.CFG_TS_STRICT : Fld := ⟨STRX.CFG, 30, 30⟩
def STRX.CFG_SSRC_FIX : Fld := ⟨STRX.CFG, 29, 29⟩
def STRX.CFG_TIMING : Fld := ⟨STRX.CFG, 28, 28⟩
def STRX.CFG_LOCK : Fld := ⟨STRX.CFG, 27, 27⟩
def STRX.CFG_RATE : Fld := ⟨STRX.CFG, 26, 24⟩
def STRX.CFG_FMT : Fld := ⟨STRX.CFG, 23, 22⟩
def STRX.CFG_CH : Fld := ⟨STRX.CFG, 21, 16⟩
def STRX.CFG_PT : Fld := ⟨STRX.CFG, 14, 8⟩
def STRX.CFG_PKT : Fld := ⟨STRX.CFG, 6, 4⟩
def STRX.CH_BASE : Reg := ⟨14, 0x054⟩
def STRX.CH_BASE_BASE : Fld := ⟨STRX.CH_BASE, 12, 0⟩
def STRX.DEPTH : Reg := ⟨14, 0x058⟩
def STRX.DEPTH_DEPTH : Fld := ⟨STRX.DEPTH, 12, 0⟩
def STRX.LOFS : Reg := ⟨14, 0x05C⟩
def STRX.LOFS_L : Fld := ⟨STRX.LOFS, 13, 0⟩
def STRX.TIMEOUT : Reg := ⟨14, 0x060⟩
def STRX.TIMEOUT_MS : Fld := ⟨STRX.TIMEOUT, 13, 0⟩
def STRX.SSRC : Reg := ⟨14, 0x064⟩
def STRX.SSRC_SSRC : Fld := ⟨STRX.SSRC, 31, 0⟩
def STRX.MCLK_OFS : Reg := ⟨14, 0x068⟩
def STRX.MCLK_OFS_O : Fld := ⟨STRX.MCLK_OFS, 31, 0⟩
def STRX.LEG_A : Reg := ⟨14, 0x06C⟩
def STRX.LEG_A_EN : Fld := ⟨STRX.LEG_A, 31, 31⟩
def STRX.LEG_A_PORT : Fld := ⟨STRX.LEG_A, 30, 30⟩
def STRX.LEG_A_IPV6 : Fld := ⟨STRX.LEG_A, 29, 29⟩
def STRX.LEG_A_UDP : Fld := ⟨STRX.LEG_A, 15, 0⟩
def STRX.LEG_B : Reg := ⟨14, 0x070⟩
def STRX.LEG_B_EN : Fld := ⟨STRX.LEG_B, 31, 31⟩
def STRX.LEG_B_PORT : Fld := ⟨STRX.LEG_B, 30, 30⟩
def STRX.LEG_B_IPV6 : Fld := ⟨STRX.LEG_B, 29, 29⟩
def STRX.LEG_B_UDP : Fld := ⟨STRX.LEG_B, 15, 0⟩
def STRX.DST_A0 : Reg := ⟨14, 0x074⟩
def STRX.DST_A0_ADDR : Fld := ⟨STRX.DST_A0, 31, 0⟩
def STRX.DST_A1 : Reg := ⟨14, 0x078⟩
def STRX.DST_A1_ADDR : Fld := ⟨STRX.DST_A1, 31, 0⟩
def STRX.DST_A2 : Reg := ⟨14, 0x07C⟩
def STRX.DST_A2_ADDR : Fld := ⟨STRX.DST_A2, 31, 0⟩
def STRX.DST_A3 : Reg := ⟨14, 0x080⟩
def STRX.DST_A3_ADDR : Fld := ⟨STRX.DST_A3, 31, 0⟩
def STRX.SRC_A0 : Reg := ⟨14, 0x084⟩
def STRX.SRC_A0_ADDR : Fld := ⟨STRX.SRC_A0, 31, 0⟩
def STRX.SRC_A1 : Reg := ⟨14, 0x088⟩
def STRX.SRC_A1_ADDR : Fld := ⟨STRX.SRC_A1, 31, 0⟩
def STRX.SRC_A2 : Reg := ⟨14, 0x08C⟩
def STRX.SRC_A2_ADDR : Fld := ⟨STRX.SRC_A2, 31, 0⟩
def STRX.SRC_A3 : Reg := ⟨14, 0x090⟩
def STRX.SRC_A3_ADDR : Fld := ⟨STRX.SRC_A3, 31, 0⟩
def STRX.DST_B0 : Reg := ⟨14, 0x094⟩
def STRX.DST_B0_ADDR : Fld := ⟨STRX.DST_B0, 31, 0⟩
def STRX.DST_B1 : Reg := ⟨14, 0x098⟩
def STRX.DST_B1_ADDR : Fld := ⟨STRX.DST_B1, 31, 0⟩
def STRX.DST_B2 : Reg := ⟨14, 0x09C⟩
def STRX.DST_B2_ADDR : Fld := ⟨STRX.DST_B2, 31, 0⟩
def STRX.DST_B3 : Reg := ⟨14, 0x0A0⟩
def STRX.DST_B3_ADDR : Fld := ⟨STRX.DST_B3, 31, 0⟩
def STRX.SRC_B0 : Reg := ⟨14, 0x0A4⟩
def STRX.SRC_B0_ADDR : Fld := ⟨STRX.SRC_B0, 31, 0⟩
def STRX.SRC_B1 : Reg := ⟨14, 0x0A8⟩
def STRX.SRC_B1_ADDR : Fld := ⟨STRX.SRC_B1, 31, 0⟩
def STRX.SRC_B2 : Reg := ⟨14, 0x0AC⟩
def STRX.SRC_B2_ADDR : Fld := ⟨STRX.SRC_B2, 31, 0⟩
def STRX.SRC_B3 : Reg := ⟨14, 0x0B0⟩
def STRX.SRC_B3_ADDR : Fld := ⟨STRX.SRC_B3, 31, 0⟩
def STRX.OWNER : Reg := ⟨14, 0x0B4⟩
def STRX.OWNER_FN : Fld := ⟨STRX.OWNER, 2, 0⟩
def STRX.BUF_BASE : Reg := ⟨14, 0x0B8⟩
def STRX.BUF_BASE_SLOT : Fld := ⟨STRX.BUF_BASE, 21, 0⟩
def STRX.ST_STAT : Reg := ⟨14, 0x0C0⟩
def STRX.ST_STAT_STATE : Fld := ⟨STRX.ST_STAT, 31, 29⟩
def STRX.ST_STAT_RUN : Fld := ⟨STRX.ST_STAT, 28, 28⟩
def STRX.ST_STAT_PLANE_A_OK : Fld := ⟨STRX.ST_STAT, 27, 27⟩
def STRX.ST_STAT_PLANE_B_OK : Fld := ⟨STRX.ST_STAT, 26, 26⟩
def STRX.ST_STAT_SSRC_VALID : Fld := ⟨STRX.ST_STAT, 25, 25⟩
def STRX.SSRC_SEEN : Reg := ⟨14, 0x0C4⟩
def STRX.SSRC_SEEN_SSRC : Fld := ⟨STRX.SSRC_SEEN, 31, 0⟩
def STRX.RTP_CORR : Reg := ⟨14, 0x0C8⟩
def STRX.RTP_CORR_C : Fld := ⟨STRX.RTP_CORR, 31, 0⟩
def STRX.MARGIN_MIN : Reg := ⟨14, 0x0CC⟩
def STRX.MARGIN_MIN_G : Fld := ⟨STRX.MARGIN_MIN, 31, 0⟩
def STRX.SKEW_MAX : Reg := ⟨14, 0x0D0⟩
def STRX.SKEW_MAX_G : Fld := ⟨STRX.SKEW_MAX, 31, 0⟩
def STRX.RX_A : Reg := ⟨14, 0x100⟩
def STRX.RX_A_COUNT : Fld := ⟨STRX.RX_A, 31, 0⟩
def STRX.RX_B : Reg := ⟨14, 0x104⟩
def STRX.RX_B_COUNT : Fld := ⟨STRX.RX_B, 31, 0⟩
def STRX.ACC_A : Reg := ⟨14, 0x108⟩
def STRX.ACC_A_COUNT : Fld := ⟨STRX.ACC_A, 31, 0⟩
def STRX.ACC_B : Reg := ⟨14, 0x10C⟩
def STRX.ACC_B_COUNT : Fld := ⟨STRX.ACC_B, 31, 0⟩
def STRX.DUP_A : Reg := ⟨14, 0x110⟩
def STRX.DUP_A_COUNT : Fld := ⟨STRX.DUP_A, 31, 0⟩
def STRX.DUP_B : Reg := ⟨14, 0x114⟩
def STRX.DUP_B_COUNT : Fld := ⟨STRX.DUP_B, 31, 0⟩
def STRX.LATE_A : Reg := ⟨14, 0x118⟩
def STRX.LATE_A_COUNT : Fld := ⟨STRX.LATE_A, 31, 0⟩
def STRX.LATE_B : Reg := ⟨14, 0x11C⟩
def STRX.LATE_B_COUNT : Fld := ⟨STRX.LATE_B, 31, 0⟩
def STRX.EARLY_A : Reg := ⟨14, 0x120⟩
def STRX.EARLY_A_COUNT : Fld := ⟨STRX.EARLY_A, 31, 0⟩
def STRX.EARLY_B : Reg := ⟨14, 0x124⟩
def STRX.EARLY_B_COUNT : Fld := ⟨STRX.EARLY_B, 31, 0⟩
def STRX.SEQ_GAP_A : Reg := ⟨14, 0x128⟩
def STRX.SEQ_GAP_A_COUNT : Fld := ⟨STRX.SEQ_GAP_A, 31, 0⟩
def STRX.SEQ_GAP_B : Reg := ⟨14, 0x12C⟩
def STRX.SEQ_GAP_B_COUNT : Fld := ⟨STRX.SEQ_GAP_B, 31, 0⟩
def STRX.HDR_ERR : Reg := ⟨14, 0x130⟩
def STRX.HDR_ERR_COUNT : Fld := ⟨STRX.HDR_ERR, 31, 0⟩
def STRX.SSRC_ERR : Reg := ⟨14, 0x134⟩
def STRX.SSRC_ERR_COUNT : Fld := ⟨STRX.SSRC_ERR, 31, 0⟩
def STRX.LEN_ERR : Reg := ⟨14, 0x138⟩
def STRX.LEN_ERR_COUNT : Fld := ⟨STRX.LEN_ERR, 31, 0⟩
def STRX.TS_ERR : Reg := ⟨14, 0x13C⟩
def STRX.TS_ERR_COUNT : Fld := ⟨STRX.TS_ERR, 31, 0⟩
def STRX.CONCEAL : Reg := ⟨14, 0x140⟩
def STRX.CONCEAL_COUNT : Fld := ⟨STRX.CONCEAL, 31, 0⟩
def STRX.GAPS : Reg := ⟨14, 0x144⟩
def STRX.GAPS_COUNT : Fld := ⟨STRX.GAPS, 31, 0⟩
def STRX.LOSTS : Reg := ⟨14, 0x148⟩
def STRX.LOSTS_COUNT : Fld := ⟨STRX.LOSTS, 31, 0⟩
def STRX.DISCONT : Reg := ⟨14, 0x14C⟩
def STRX.DISCONT_COUNT : Fld := ⟨STRX.DISCONT, 31, 0⟩
def STRX.POOL_FREE : Reg := ⟨14, 0x180⟩
def STRX.POOL_FREE_SLOTS : Fld := ⟨STRX.POOL_FREE, 22, 0⟩
def STRX.CH_USED : Reg := ⟨14, 0x184⟩
def STRX.CH_USED_CH : Fld := ⟨STRX.CH_USED, 13, 0⟩
def STRX.EN_COUNT : Reg := ⟨14, 0x188⟩
def STRX.EN_COUNT_N : Fld := ⟨STRX.EN_COUNT, 10, 0⟩
def STRX.CNT_CTL : Reg := ⟨14, 0x18C⟩
def STRX.CNT_CTL_CLEAR_ALL : Fld := ⟨STRX.CNT_CTL, 1, 1⟩
def STRX.CNT_CTL_CLEAR : Fld := ⟨STRX.CNT_CTL, 0, 0⟩
def STRX.EVT_FIFO : Reg := ⟨14, 0x190⟩
def STRX.EVT_FIFO_ENTRY : Fld := ⟨STRX.EVT_FIFO, 31, 0⟩
def STRX.EVT_STAT : Reg := ⟨14, 0x194⟩
def STRX.EVT_STAT_OVF : Fld := ⟨STRX.EVT_STAT, 31, 31⟩
def STRX.EVT_STAT_THRESH : Fld := ⟨STRX.EVT_STAT, 23, 16⟩
def STRX.EVT_STAT_LEVEL : Fld := ⟨STRX.EVT_STAT, 8, 0⟩

/-! ## STTX (R312) -/
def STTX.SEL : Reg := ⟨15, 0x040⟩
def STTX.SEL_STREAM : Fld := ⟨STTX.SEL, 9, 0⟩
def STTX.ENTRY_CMD : Reg := ⟨15, 0x044⟩
def STTX.ENTRY_CMD_COMMIT : Fld := ⟨STTX.ENTRY_CMD, 31, 31⟩
def STTX.ENTRY_CMD_LOAD : Fld := ⟨STTX.ENTRY_CMD, 30, 30⟩
def STTX.ENTRY_CMD_BUSY : Fld := ⟨STTX.ENTRY_CMD, 29, 29⟩
def STTX.ENTRY_CMD_RESULT : Fld := ⟨STTX.ENTRY_CMD, 15, 0⟩
def STTX.CFG : Reg := ⟨15, 0x050⟩
def STTX.CFG_EN : Fld := ⟨STTX.CFG, 31, 31⟩
def STTX.CFG_MARK_START : Fld := ⟨STTX.CFG, 30, 30⟩
def STTX.CFG_PHASE_AUTO : Fld := ⟨STTX.CFG, 29, 29⟩
def STTX.CFG_LABEL_MODE : Fld := ⟨STTX.CFG, 28, 28⟩
def STTX.CFG_CS_CRC : Fld := ⟨STTX.CFG, 27, 27⟩
def STTX.CFG_RATE : Fld := ⟨STTX.CFG, 26, 24⟩
def STTX.CFG_FMT : Fld := ⟨STTX.CFG, 23, 22⟩
def STTX.CFG_CH : Fld := ⟨STTX.CFG, 21, 16⟩
def STTX.CFG_ANNOUNCE : Fld := ⟨STTX.CFG, 15, 15⟩
def STTX.CFG_PT : Fld := ⟨STTX.CFG, 14, 8⟩
def STTX.CFG_PKT : Fld := ⟨STTX.CFG, 6, 4⟩
def STTX.CH_BASE : Reg := ⟨15, 0x054⟩
def STTX.CH_BASE_BASE : Fld := ⟨STTX.CH_BASE, 12, 0⟩
def STTX.PHASE : Reg := ⟨15, 0x058⟩
def STTX.PHASE_PHASE : Fld := ⟨STTX.PHASE, 9, 0⟩
def STTX.TS_SHIFT : Reg := ⟨15, 0x05C⟩
def STTX.TS_SHIFT_SHIFT : Fld := ⟨STTX.TS_SHIFT, 15, 0⟩
def STTX.SSRC : Reg := ⟨15, 0x060⟩
def STTX.SSRC_SSRC : Fld := ⟨STTX.SSRC, 31, 0⟩
def STTX.MCLK_OFS : Reg := ⟨15, 0x064⟩
def STTX.MCLK_OFS_O : Fld := ⟨STTX.MCLK_OFS, 31, 0⟩
def STTX.SEQ_BASE : Reg := ⟨15, 0x068⟩
def STTX.SEQ_BASE_BASE : Fld := ⟨STTX.SEQ_BASE, 15, 0⟩
def STTX.LEG_A : Reg := ⟨15, 0x06C⟩
def STTX.LEG_A_EN : Fld := ⟨STTX.LEG_A, 31, 31⟩
def STTX.LEG_A_PORT : Fld := ⟨STTX.LEG_A, 30, 30⟩
def STTX.LEG_A_IPV6 : Fld := ⟨STTX.LEG_A, 29, 29⟩
def STTX.LEG_A_TAG : Fld := ⟨STTX.LEG_A, 28, 28⟩
def STTX.LEG_A_PCP : Fld := ⟨STTX.LEG_A, 26, 24⟩
def STTX.LEG_A_UDP_DST : Fld := ⟨STTX.LEG_A, 15, 0⟩
def STTX.LEG_B : Reg := ⟨15, 0x070⟩
def STTX.LEG_B_EN : Fld := ⟨STTX.LEG_B, 31, 31⟩
def STTX.LEG_B_PORT : Fld := ⟨STTX.LEG_B, 30, 30⟩
def STTX.LEG_B_IPV6 : Fld := ⟨STTX.LEG_B, 29, 29⟩
def STTX.LEG_B_TAG : Fld := ⟨STTX.LEG_B, 28, 28⟩
def STTX.LEG_B_PCP : Fld := ⟨STTX.LEG_B, 26, 24⟩
def STTX.LEG_B_UDP_DST : Fld := ⟨STTX.LEG_B, 15, 0⟩
def STTX.LEG_A_EXT : Reg := ⟨15, 0x074⟩
def STTX.LEG_A_EXT_VID : Fld := ⟨STTX.LEG_A_EXT, 27, 16⟩
def STTX.LEG_A_EXT_UDP_SRC : Fld := ⟨STTX.LEG_A_EXT, 15, 0⟩
def STTX.LEG_B_EXT : Reg := ⟨15, 0x078⟩
def STTX.LEG_B_EXT_VID : Fld := ⟨STTX.LEG_B_EXT, 27, 16⟩
def STTX.LEG_B_EXT_UDP_SRC : Fld := ⟨STTX.LEG_B_EXT, 15, 0⟩
def STTX.IP_CFG : Reg := ⟨15, 0x07C⟩
def STTX.IP_CFG_DSCP : Fld := ⟨STTX.IP_CFG, 13, 8⟩
def STTX.IP_CFG_TTL : Fld := ⟨STTX.IP_CFG, 7, 0⟩
def STTX.DST_A0 : Reg := ⟨15, 0x080⟩
def STTX.DST_A0_ADDR : Fld := ⟨STTX.DST_A0, 31, 0⟩
def STTX.DST_A1 : Reg := ⟨15, 0x084⟩
def STTX.DST_A1_ADDR : Fld := ⟨STTX.DST_A1, 31, 0⟩
def STTX.DST_A2 : Reg := ⟨15, 0x088⟩
def STTX.DST_A2_ADDR : Fld := ⟨STTX.DST_A2, 31, 0⟩
def STTX.DST_A3 : Reg := ⟨15, 0x08C⟩
def STTX.DST_A3_ADDR : Fld := ⟨STTX.DST_A3, 31, 0⟩
def STTX.DST_B0 : Reg := ⟨15, 0x090⟩
def STTX.DST_B0_ADDR : Fld := ⟨STTX.DST_B0, 31, 0⟩
def STTX.DST_B1 : Reg := ⟨15, 0x094⟩
def STTX.DST_B1_ADDR : Fld := ⟨STTX.DST_B1, 31, 0⟩
def STTX.DST_B2 : Reg := ⟨15, 0x098⟩
def STTX.DST_B2_ADDR : Fld := ⟨STTX.DST_B2, 31, 0⟩
def STTX.DST_B3 : Reg := ⟨15, 0x09C⟩
def STTX.DST_B3_ADDR : Fld := ⟨STTX.DST_B3, 31, 0⟩
def STTX.OWNER : Reg := ⟨15, 0x0A0⟩
def STTX.OWNER_FN : Fld := ⟨STTX.OWNER, 2, 0⟩
def STTX.CS0 : Reg := ⟨15, 0x0B0⟩
def STTX.CS0_CS : Fld := ⟨STTX.CS0, 31, 0⟩
def STTX.CS1 : Reg := ⟨15, 0x0B4⟩
def STTX.CS1_CS : Fld := ⟨STTX.CS1, 31, 0⟩
def STTX.CS2 : Reg := ⟨15, 0x0B8⟩
def STTX.CS2_CS : Fld := ⟨STTX.CS2, 31, 0⟩
def STTX.CS3 : Reg := ⟨15, 0x0BC⟩
def STTX.CS3_CS : Fld := ⟨STTX.CS3, 31, 0⟩
def STTX.CS4 : Reg := ⟨15, 0x0C0⟩
def STTX.CS4_CS : Fld := ⟨STTX.CS4, 31, 0⟩
def STTX.CS5 : Reg := ⟨15, 0x0C4⟩
def STTX.CS5_CS : Fld := ⟨STTX.CS5, 31, 0⟩
def STTX.FRAME_LEN : Reg := ⟨15, 0x0C8⟩
def STTX.FRAME_LEN_B : Fld := ⟨STTX.FRAME_LEN, 29, 16⟩
def STTX.FRAME_LEN_A : Fld := ⟨STTX.FRAME_LEN, 13, 0⟩
def STTX.ST_STAT : Reg := ⟨15, 0x0D0⟩
def STTX.ST_STAT_STATE : Fld := ⟨STTX.ST_STAT, 31, 29⟩
def STTX.ST_STAT_LEG_A_OK : Fld := ⟨STTX.ST_STAT, 27, 27⟩
def STTX.ST_STAT_LEG_B_OK : Fld := ⟨STTX.ST_STAT, 26, 26⟩
def STTX.ST_STAT_MIRROR_SUPP : Fld := ⟨STTX.ST_STAT, 25, 25⟩
def STTX.DEP_MAX : Reg := ⟨15, 0x0D4⟩
def STTX.DEP_MAX_G : Fld := ⟨STTX.DEP_MAX, 31, 0⟩
def STTX.TX_A : Reg := ⟨15, 0x100⟩
def STTX.TX_A_COUNT : Fld := ⟨STTX.TX_A, 31, 0⟩
def STTX.TX_B : Reg := ⟨15, 0x104⟩
def STTX.TX_B_COUNT : Fld := ⟨STTX.TX_B, 31, 0⟩
def STTX.LATE_A : Reg := ⟨15, 0x108⟩
def STTX.LATE_A_COUNT : Fld := ⟨STTX.LATE_A, 31, 0⟩
def STTX.LATE_B : Reg := ⟨15, 0x10C⟩
def STTX.LATE_B_COUNT : Fld := ⟨STTX.LATE_B, 31, 0⟩
def STTX.DROP_A : Reg := ⟨15, 0x110⟩
def STTX.DROP_A_COUNT : Fld := ⟨STTX.DROP_A, 31, 0⟩
def STTX.DROP_B : Reg := ⟨15, 0x114⟩
def STTX.DROP_B_COUNT : Fld := ⟨STTX.DROP_B, 31, 0⟩
def STTX.NORES_A : Reg := ⟨15, 0x118⟩
def STTX.NORES_A_COUNT : Fld := ⟨STTX.NORES_A, 31, 0⟩
def STTX.NORES_B : Reg := ⟨15, 0x11C⟩
def STTX.NORES_B_COUNT : Fld := ⟨STTX.NORES_B, 31, 0⟩
def STTX.TXCH_IDX : Reg := ⟨15, 0x140⟩
def STTX.TXCH_IDX_CH : Fld := ⟨STTX.TXCH_IDX, 12, 0⟩
def STTX.TXCH_SRC : Reg := ⟨15, 0x144⟩
def STTX.TXCH_SRC_KIND : Fld := ⟨STTX.TXCH_SRC, 15, 13⟩
def STTX.TXCH_SRC_INDEX : Fld := ⟨STTX.TXCH_SRC, 12, 0⟩
def STTX.TXCH_STAT : Reg := ⟨15, 0x148⟩
def STTX.TXCH_STAT_PRESENT : Fld := ⟨STTX.TXCH_STAT, 31, 31⟩
def STTX.TXCH_STAT_SEL_ERR : Fld := ⟨STTX.TXCH_STAT, 30, 30⟩
def STTX.CH_USED : Reg := ⟨15, 0x180⟩
def STTX.CH_USED_CH : Fld := ⟨STTX.CH_USED, 13, 0⟩
def STTX.PATCH_USED : Reg := ⟨15, 0x184⟩
def STTX.PATCH_USED_CH : Fld := ⟨STTX.PATCH_USED, 12, 0⟩
def STTX.EN_COUNT : Reg := ⟨15, 0x188⟩
def STTX.EN_COUNT_N : Fld := ⟨STTX.EN_COUNT, 10, 0⟩
def STTX.CNT_CTL : Reg := ⟨15, 0x18C⟩
def STTX.CNT_CTL_CLEAR_ALL : Fld := ⟨STTX.CNT_CTL, 1, 1⟩
def STTX.CNT_CTL_CLEAR : Fld := ⟨STTX.CNT_CTL, 0, 0⟩
def STTX.PORT_LOAD : Reg := ⟨15, 0x1A0⟩
def STTX.PORT_LOAD_G : Fld := ⟨STTX.PORT_LOAD, 16, 0⟩
def STTX.SAP_TX_CFG : Reg := ⟨15, 0x1B0⟩
def STTX.SAP_TX_CFG_EN : Fld := ⟨STTX.SAP_TX_CFG, 31, 31⟩
def STTX.SAP_TX_CFG_INTERVAL : Fld := ⟨STTX.SAP_TX_CFG, 8, 0⟩

/-! ## SRCB (R201) -/
def SRCB.GRP_SEL : Reg := ⟨16, 0x040⟩
def SRCB.GRP_SEL_GROUP : Fld := ⟨SRCB.GRP_SEL, 7, 0⟩
def SRCB.GRP_CFG : Reg := ⟨16, 0x044⟩
def SRCB.GRP_CFG_RELOCK : Fld := ⟨SRCB.GRP_CFG, 31, 31⟩
def SRCB.GRP_CFG_BW : Fld := ⟨SRCB.GRP_CFG, 10, 8⟩
def SRCB.GRP_CFG_RANGE : Fld := ⟨SRCB.GRP_CFG, 5, 4⟩
def SRCB.GRP_STAT : Reg := ⟨16, 0x048⟩
def SRCB.GRP_STAT_STATE : Fld := ⟨SRCB.GRP_STAT, 31, 29⟩
def SRCB.GRP_STAT_TYPE : Fld := ⟨SRCB.GRP_STAT, 28, 26⟩
def SRCB.GRP_STAT_OWNER : Fld := ⟨SRCB.GRP_STAT, 22, 20⟩
def SRCB.GRP_STAT_EVT : Fld := ⟨SRCB.GRP_STAT, 19, 19⟩
def SRCB.GRP_STAT_CHANNELS : Fld := ⟨SRCB.GRP_STAT, 11, 0⟩
def SRCB.GRP_SRC : Reg := ⟨16, 0x04C⟩
def SRCB.GRP_SRC_KIND : Fld := ⟨SRCB.GRP_SRC, 15, 12⟩
def SRCB.GRP_SRC_INDEX : Fld := ⟨SRCB.GRP_SRC, 9, 0⟩
def SRCB.GRP_RATIO_HI : Reg := ⟨16, 0x050⟩
def SRCB.GRP_RATIO_HI_RATIO : Fld := ⟨SRCB.GRP_RATIO_HI, 31, 0⟩
def SRCB.GRP_RATIO_LO : Reg := ⟨16, 0x054⟩
def SRCB.GRP_RATIO_LO_RATIO : Fld := ⟨SRCB.GRP_RATIO_LO, 31, 0⟩
def SRCB.GRP_PPM : Reg := ⟨16, 0x058⟩
def SRCB.GRP_PPM_PPM : Fld := ⟨SRCB.GRP_PPM, 31, 0⟩
def SRCB.GRP_PHI : Reg := ⟨16, 0x05C⟩
def SRCB.GRP_PHI_PHI : Fld := ⟨SRCB.GRP_PHI, 15, 0⟩
def SRCB.GRP_ERR_MAX : Reg := ⟨16, 0x060⟩
def SRCB.GRP_ERR_MAX_ERR : Fld := ⟨SRCB.GRP_ERR_MAX, 15, 0⟩
def SRCB.GRP_NOM : Reg := ⟨16, 0x064⟩
def SRCB.GRP_NOM_HZ : Fld := ⟨SRCB.GRP_NOM, 17, 0⟩
def SRCB.GRP_EVTS : Reg := ⟨16, 0x068⟩
def SRCB.GRP_EVTS_SLIPS : Fld := ⟨SRCB.GRP_EVTS, 31, 16⟩
def SRCB.GRP_EVTS_RELOCKS : Fld := ⟨SRCB.GRP_EVTS, 15, 0⟩
def SRCB.GRP_CLIPS : Reg := ⟨16, 0x06C⟩
def SRCB.GRP_CLIPS_COUNT : Fld := ⟨SRCB.GRP_CLIPS, 31, 0⟩
def SRCB.GRP_FAULTS : Reg := ⟨16, 0x070⟩
def SRCB.GRP_FAULTS_COUNT : Fld := ⟨SRCB.GRP_FAULTS, 15, 0⟩
def SRCB.GRP_CNT_CTL : Reg := ⟨16, 0x074⟩
def SRCB.GRP_CNT_CTL_CLEAR : Fld := ⟨SRCB.GRP_CNT_CTL, 0, 0⟩
def SRCB.POOL : Reg := ⟨16, 0x100⟩
def SRCB.POOL_GRP_FREE : Fld := ⟨SRCB.POOL, 24, 16⟩
def SRCB.POOL_CH_FREE : Fld := ⟨SRCB.POOL, 11, 0⟩
def SRCB.I2S_BIND : Reg := ⟨16, 0x104⟩
def SRCB.I2S_BIND_BIND : Fld := ⟨SRCB.I2S_BIND, 3, 0⟩
def SRCB.PATH_SEL : Reg := ⟨16, 0x108⟩
def SRCB.PATH_SEL_KIND : Fld := ⟨SRCB.PATH_SEL, 15, 12⟩
def SRCB.PATH_SEL_INDEX : Fld := ⟨SRCB.PATH_SEL, 9, 0⟩
def SRCB.PATH_STAT : Reg := ⟨16, 0x10C⟩
def SRCB.PATH_STAT_PATH : Fld := ⟨SRCB.PATH_STAT, 31, 28⟩
def SRCB.PATH_STAT_GROUP : Fld := ⟨SRCB.PATH_STAT, 7, 0⟩
def SRCB.SYNC_CLIP : Reg := ⟨16, 0x110⟩
def SRCB.SYNC_CLIP_COUNT : Fld := ⟨SRCB.SYNC_CLIP, 31, 0⟩
def SRCB.GLOBAL_STAT : Reg := ⟨16, 0x114⟩
def SRCB.GLOBAL_STAT_BIND_IGN : Fld := ⟨SRCB.GLOBAL_STAT, 31, 31⟩
def SRCB.EVT_MAP : Reg := ⟨16, 0x120⟩
def SRCB.EVT_MAP_EVT : Fld := ⟨SRCB.EVT_MAP, 31, 0⟩

/-! ## XPNT (R234) -/
def XPNT.IN_IDX : Reg := ⟨17, 0x040⟩
def XPNT.IN_IDX_XIN : Fld := ⟨XPNT.IN_IDX, 11, 0⟩
def XPNT.IN_SRC : Reg := ⟨17, 0x044⟩
def XPNT.IN_SRC_KIND : Fld := ⟨XPNT.IN_SRC, 15, 13⟩
def XPNT.IN_SRC_INDEX : Fld := ⟨XPNT.IN_SRC, 12, 0⟩
def XPNT.IN_CFG : Reg := ⟨17, 0x048⟩
def XPNT.IN_CFG_POL : Fld := ⟨XPNT.IN_CFG, 31, 31⟩
def XPNT.IN_CFG_MUTE : Fld := ⟨XPNT.IN_CFG, 30, 30⟩
def XPNT.IN_CFG_GATE_EN : Fld := ⟨XPNT.IN_CFG, 29, 29⟩
def XPNT.IN_CFG_TRIM : Fld := ⟨XPNT.IN_CFG, 15, 0⟩
def XPNT.IN_STAT : Reg := ⟨17, 0x04C⟩
def XPNT.IN_STAT_PRESENT : Fld := ⟨XPNT.IN_STAT, 31, 31⟩
def XPNT.IN_STAT_ACTIVE : Fld := ⟨XPNT.IN_STAT, 30, 30⟩
def XPNT.IN_STAT_SHARE : Fld := ⟨XPNT.IN_STAT, 29, 29⟩
def XPNT.IN_STAT_OWNER : Fld := ⟨XPNT.IN_STAT, 18, 16⟩
def XPNT.IN_CLIPS : Reg := ⟨17, 0x050⟩
def XPNT.IN_CLIPS_COUNT : Fld := ⟨XPNT.IN_CLIPS, 31, 0⟩
def XPNT.IN_CNT_CTL : Reg := ⟨17, 0x054⟩
def XPNT.IN_CNT_CTL_CLEAR_ALL : Fld := ⟨XPNT.IN_CNT_CTL, 1, 1⟩
def XPNT.IN_CNT_CTL_CLEAR : Fld := ⟨XPNT.IN_CNT_CTL, 0, 0⟩
def XPNT.PEND_STAT : Reg := ⟨17, 0x058⟩
def XPNT.PEND_STAT_WR_OVF : Fld := ⟨XPNT.PEND_STAT, 31, 31⟩
def XPNT.PEND_STAT_SEL_DENY : Fld := ⟨XPNT.PEND_STAT, 30, 30⟩
def XPNT.PEND_STAT_SEL_ERR : Fld := ⟨XPNT.PEND_STAT, 29, 29⟩
def XPNT.PEND_STAT_LEVEL : Fld := ⟨XPNT.PEND_STAT, 5, 0⟩
def XPNT.DITHER_SEED : Reg := ⟨17, 0x05C⟩
def XPNT.DITHER_SEED_SEED : Fld := ⟨XPNT.DITHER_SEED, 31, 0⟩
def XPNT.POOL_FREE : Reg := ⟨17, 0x060⟩
def XPNT.POOL_FREE_BLOCKS : Fld := ⟨XPNT.POOL_FREE, 16, 0⟩
def XPNT.POOL_STAT : Reg := ⟨17, 0x064⟩
def XPNT.POOL_STAT_ALLOC_PEND : Fld := ⟨XPNT.POOL_STAT, 31, 31⟩
def XPNT.POOL_STAT_ALLOC_DONE : Fld := ⟨XPNT.POOL_STAT, 30, 30⟩
def XPNT.TG_CTL : Reg := ⟨17, 0x100⟩
def XPNT.TG_CTL_KIND : Fld := ⟨XPNT.TG_CTL, 3, 0⟩
def XPNT.TG_FREQ : Reg := ⟨17, 0x104⟩
def XPNT.TG_FREQ_FREQ : Fld := ⟨XPNT.TG_FREQ, 22, 0⟩
def XPNT.TG_LEVEL : Reg := ⟨17, 0x108⟩
def XPNT.TG_LEVEL_LEVEL : Fld := ⟨XPNT.TG_LEVEL, 15, 0⟩

/-! ## SCNE (R266) -/
def SCNE.TD_SEL : Reg := ⟨18, 0x040⟩
def SCNE.TD_SEL_TD : Fld := ⟨SCNE.TD_SEL, 5, 0⟩
def SCNE.TURN_CTL : Reg := ⟨18, 0x044⟩
def SCNE.TURN_CTL_NOW : Fld := ⟨SCNE.TURN_CTL, 31, 31⟩
def SCNE.TURN_CTL_RAMP : Fld := ⟨SCNE.TURN_CTL, 14, 0⟩
def SCNE.TD_SCOPE_HI : Reg := ⟨18, 0x048⟩
def SCNE.TD_SCOPE_HI_SIGS : Fld := ⟨SCNE.TD_SCOPE_HI, 31, 0⟩
def SCNE.TD_SCOPE_LO : Reg := ⟨18, 0x04C⟩
def SCNE.TD_SCOPE_LO_SIGS : Fld := ⟨SCNE.TD_SCOPE_LO, 31, 0⟩
def SCNE.TD_STAT : Reg := ⟨18, 0x050⟩
def SCNE.TD_STAT_DEFINED : Fld := ⟨SCNE.TD_STAT, 31, 31⟩
def SCNE.TD_STAT_PARTIAL : Fld := ⟨SCNE.TD_STAT, 30, 30⟩
def SCNE.TD_STAT_DELAYED : Fld := ⟨SCNE.TD_STAT, 29, 29⟩
def SCNE.TD_STAT_WR_IGN : Fld := ⟨SCNE.TD_STAT, 28, 28⟩
def SCNE.TD_STAT_OWNER : Fld := ⟨SCNE.TD_STAT, 26, 24⟩
def SCNE.TD_STAT_FIRES : Fld := ⟨SCNE.TD_STAT, 15, 0⟩
def SCNE.TD_LAST_FIRE_HI : Reg := ⟨18, 0x054⟩
def SCNE.TD_LAST_FIRE_HI_IDX : Fld := ⟨SCNE.TD_LAST_FIRE_HI, 31, 0⟩
def SCNE.TD_LAST_FIRE_LO : Reg := ⟨18, 0x058⟩
def SCNE.TD_LAST_FIRE_LO_IDX : Fld := ⟨SCNE.TD_LAST_FIRE_LO, 31, 0⟩
def SCNE.TD_LAST_START_HI : Reg := ⟨18, 0x05C⟩
def SCNE.TD_LAST_START_HI_IDX : Fld := ⟨SCNE.TD_LAST_START_HI, 31, 0⟩
def SCNE.TD_LAST_START_LO : Reg := ⟨18, 0x060⟩
def SCNE.TD_LAST_START_LO_IDX : Fld := ⟨SCNE.TD_LAST_START_LO, 31, 0⟩
def SCNE.TD_CTL : Reg := ⟨18, 0x064⟩
def SCNE.TD_CTL_DEFINE : Fld := ⟨SCNE.TD_CTL, 31, 31⟩
def SCNE.TD_CTL_RELEASE : Fld := ⟨SCNE.TD_CTL, 30, 30⟩
def SCNE.EDIT_STAT : Reg := ⟨18, 0x080⟩
def SCNE.EDIT_STAT_EDIT_OVF : Fld := ⟨SCNE.EDIT_STAT, 31, 31⟩
def SCNE.EDIT_STAT_LEVEL : Fld := ⟨SCNE.EDIT_STAT, 14, 0⟩
def SCNE.EDIT_USE : Reg := ⟨18, 0x084⟩
def SCNE.EDIT_USE_SHARE : Fld := ⟨SCNE.EDIT_USE, 30, 16⟩
def SCNE.EDIT_USE_USED : Fld := ⟨SCNE.EDIT_USE, 14, 0⟩
def SCNE.TURN_DROPS : Reg := ⟨18, 0x088⟩
def SCNE.TURN_DROPS_COUNT : Fld := ⟨SCNE.TURN_DROPS, 31, 0⟩
def SCNE.EDIT_DROPS : Reg := ⟨18, 0x08C⟩
def SCNE.EDIT_DROPS_COUNT : Fld := ⟨SCNE.EDIT_DROPS, 31, 0⟩
def SCNE.STORE_STAT : Reg := ⟨18, 0x090⟩
def SCNE.STORE_STAT_BUSY : Fld := ⟨SCNE.STORE_STAT, 31, 31⟩
def SCNE.STORE_STAT_FREE : Fld := ⟨SCNE.STORE_STAT, 23, 0⟩

/-! ## METR (R288) -/
def METR.MTR_IDX : Reg := ⟨19, 0x040⟩
def METR.MTR_IDX_METER : Fld := ⟨METR.MTR_IDX, 12, 0⟩
def METR.MTR_CFG : Reg := ⟨19, 0x044⟩
def METR.MTR_CFG_CLR_HOLD : Fld := ⟨METR.MTR_CFG, 31, 31⟩
def METR.MTR_CFG_GATE_PROF : Fld := ⟨METR.MTR_CFG, 10, 8⟩
def METR.MTR_CFG_BAL_PROF : Fld := ⟨METR.MTR_CFG, 2, 0⟩
def METR.MTR_VAL0 : Reg := ⟨19, 0x048⟩
def METR.MTR_VAL0_PEAK : Fld := ⟨METR.MTR_VAL0, 31, 16⟩
def METR.MTR_VAL0_RMS : Fld := ⟨METR.MTR_VAL0, 15, 0⟩
def METR.MTR_VAL1 : Reg := ⟨19, 0x04C⟩
def METR.MTR_VAL1_HOLD : Fld := ⟨METR.MTR_VAL1, 31, 16⟩
def METR.MTR_VAL1_TPEAK : Fld := ⟨METR.MTR_VAL1, 15, 0⟩
def METR.MTR_FLAGS : Reg := ⟨19, 0x050⟩
def METR.MTR_FLAGS_GATE : Fld := ⟨METR.MTR_FLAGS, 31, 31⟩
def METR.MTR_FLAGS_MIXED : Fld := ⟨METR.MTR_FLAGS, 30, 30⟩
def METR.MTR_FLAGS_GEN_DELTA : Fld := ⟨METR.MTR_FLAGS, 23, 16⟩
def METR.MTR_FLAGS_POPN : Fld := ⟨METR.MTR_FLAGS, 12, 0⟩
def METR.MTR_GEN : Reg := ⟨19, 0x054⟩
def METR.MTR_GEN_GEN : Fld := ⟨METR.MTR_GEN, 31, 0⟩
def METR.MTR_TICK_HI : Reg := ⟨19, 0x058⟩
def METR.MTR_TICK_HI_TICK : Fld := ⟨METR.MTR_TICK_HI, 31, 0⟩
def METR.MTR_TICK_LO : Reg := ⟨19, 0x05C⟩
def METR.MTR_TICK_LO_TICK : Fld := ⟨METR.MTR_TICK_LO, 31, 0⟩
def METR.MTR_CTL : Reg := ⟨19, 0x060⟩
def METR.MTR_CTL_HOLD_CLR_ALL : Fld := ⟨METR.MTR_CTL, 0, 0⟩
def METR.BAL_PROF_A : Reg := ⟨19, 0x080⟩
def METR.BAL_PROF_A_INTEG : Fld := ⟨METR.BAL_PROF_A, 31, 31⟩
def METR.BAL_PROF_A_HOLD_SRC : Fld := ⟨METR.BAL_PROF_A, 30, 30⟩
def METR.BAL_PROF_A_HOLD : Fld := ⟨METR.BAL_PROF_A, 15, 0⟩
def METR.BAL_PROF_B : Reg := ⟨19, 0x084⟩
def METR.BAL_PROF_B_DECAY : Fld := ⟨METR.BAL_PROF_B, 15, 0⟩
def METR.GATE_PROF : Reg := ⟨19, 0x0C0⟩
def METR.GATE_PROF_OPEN : Fld := ⟨METR.GATE_PROF, 31, 16⟩
def METR.GATE_PROF_CLOSE : Fld := ⟨METR.GATE_PROF, 15, 0⟩
def METR.GATE_HANG : Reg := ⟨19, 0x0E0⟩
def METR.GATE_HANG_HANG : Fld := ⟨METR.GATE_HANG, 15, 0⟩
def METR.GATE_MAP : Reg := ⟨19, 0x100⟩
def METR.GATE_MAP_GATE : Fld := ⟨METR.GATE_MAP, 31, 0⟩
def METR.SNAP_CTL : Reg := ⟨19, 0x300⟩
def METR.SNAP_CTL_EN : Fld := ⟨METR.SNAP_CTL, 31, 31⟩
def METR.SNAP_CTL_IRQ_EN : Fld := ⟨METR.SNAP_CTL, 30, 30⟩
def METR.SNAP_CTL_OWNER : Fld := ⟨METR.SNAP_CTL, 18, 16⟩
def METR.SNAP_CTL_PERIOD : Fld := ⟨METR.SNAP_CTL, 15, 0⟩
def METR.SNAP_PHASE : Reg := ⟨19, 0x304⟩
def METR.SNAP_PHASE_PHASE : Fld := ⟨METR.SNAP_PHASE, 15, 0⟩
def METR.SNAP_IN : Reg := ⟨19, 0x308⟩
def METR.SNAP_IN_COUNT : Fld := ⟨METR.SNAP_IN, 28, 16⟩
def METR.SNAP_IN_FIRST : Fld := ⟨METR.SNAP_IN, 11, 0⟩
def METR.SNAP_OUT : Reg := ⟨19, 0x30C⟩
def METR.SNAP_OUT_COUNT : Fld := ⟨METR.SNAP_OUT, 28, 16⟩
def METR.SNAP_OUT_FIRST : Fld := ⟨METR.SNAP_OUT, 11, 0⟩
def METR.RING_BASE_HI : Reg := ⟨19, 0x310⟩
def METR.RING_BASE_HI_ADDR : Fld := ⟨METR.RING_BASE_HI, 31, 0⟩
def METR.RING_BASE_LO : Reg := ⟨19, 0x314⟩
def METR.RING_BASE_LO_ADDR : Fld := ⟨METR.RING_BASE_LO, 31, 0⟩
def METR.RING_SLOTS : Reg := ⟨19, 0x318⟩
def METR.RING_SLOTS_SLOTS : Fld := ⟨METR.RING_SLOTS, 15, 0⟩
def METR.SLOT_SIZE : Reg := ⟨19, 0x31C⟩
def METR.SLOT_SIZE_BYTES : Fld := ⟨METR.SLOT_SIZE, 16, 0⟩
def METR.HEAD : Reg := ⟨19, 0x320⟩
def METR.HEAD_SLOT : Fld := ⟨METR.HEAD, 15, 0⟩
def METR.TAIL : Reg := ⟨19, 0x324⟩
def METR.TAIL_SLOT : Fld := ⟨METR.TAIL, 15, 0⟩
def METR.HEAD_ADDR_HI : Reg := ⟨19, 0x328⟩
def METR.HEAD_ADDR_HI_ADDR : Fld := ⟨METR.HEAD_ADDR_HI, 31, 0⟩
def METR.HEAD_ADDR_LO : Reg := ⟨19, 0x32C⟩
def METR.HEAD_ADDR_LO_ADDR : Fld := ⟨METR.HEAD_ADDR_LO, 31, 0⟩
def METR.SNAP_STAT : Reg := ⟨19, 0x330⟩
def METR.SNAP_STAT_ERR : Fld := ⟨METR.SNAP_STAT, 31, 31⟩
def METR.SNAP_STAT_CFG_ERR : Fld := ⟨METR.SNAP_STAT, 30, 30⟩
def METR.SNAP_STAT_DROPS : Fld := ⟨METR.SNAP_STAT, 15, 0⟩
def METR.SEQ : Reg := ⟨19, 0x334⟩
def METR.SEQ_SEQ : Fld := ⟨METR.SEQ, 31, 0⟩

/-! ## SAPG (R344) -/
def SAPG.GRP_CTL : Reg := ⟨20, 0x040⟩
def SAPG.GRP_CTL_START : Fld := ⟨SAPG.GRP_CTL, 31, 31⟩
def SAPG.GRP_STAT : Reg := ⟨20, 0x044⟩
def SAPG.GRP_STAT_READY : Fld := ⟨SAPG.GRP_STAT, 11, 8⟩
def SAPG.GRP_STAT_RUN : Fld := ⟨SAPG.GRP_STAT, 3, 0⟩
def SAPG.PORT_CTL : Reg := ⟨20, 0x100⟩
def SAPG.PORT_CTL_EN : Fld := ⟨SAPG.PORT_CTL, 31, 31⟩
def SAPG.PORT_CTL_IN_EN : Fld := ⟨SAPG.PORT_CTL, 30, 30⟩
def SAPG.PORT_CTL_OUT_EN : Fld := ⟨SAPG.PORT_CTL, 29, 29⟩
def SAPG.PORT_CTL_AUTO_RESTART : Fld := ⟨SAPG.PORT_CTL, 28, 28⟩
def SAPG.PORT_CTL_RESTART : Fld := ⟨SAPG.PORT_CTL, 27, 27⟩
def SAPG.PORT_CTL_WLEN : Fld := ⟨SAPG.PORT_CTL, 5, 4⟩
def SAPG.PORT_CTL_SLOT : Fld := ⟨SAPG.PORT_CTL, 1, 0⟩
def SAPG.PORT_STAT : Reg := ⟨20, 0x104⟩
def SAPG.PORT_STAT_STATE : Fld := ⟨SAPG.PORT_STAT, 31, 30⟩
def SAPG.PORT_STAT_CLK_OK : Fld := ⟨SAPG.PORT_STAT, 29, 29⟩
def SAPG.PORT_STAT_SWAPPED : Fld := ⟨SAPG.PORT_STAT, 28, 28⟩
def SAPG.PORT_STAT_SLIP : Fld := ⟨SAPG.PORT_STAT, 27, 27⟩
def SAPG.PORT_STAT_CFG_ERR : Fld := ⟨SAPG.PORT_STAT, 26, 26⟩
def SAPG.PORT_STAT_BCLK_FRAME : Fld := ⟨SAPG.PORT_STAT, 7, 0⟩
def SAPG.OUT_SRC0 : Reg := ⟨20, 0x108⟩
def SAPG.OUT_SRC0_KIND : Fld := ⟨SAPG.OUT_SRC0, 15, 13⟩
def SAPG.OUT_SRC0_INDEX : Fld := ⟨SAPG.OUT_SRC0, 12, 0⟩
def SAPG.OUT_SRC1 : Reg := ⟨20, 0x10C⟩
def SAPG.OUT_SRC1_KIND : Fld := ⟨SAPG.OUT_SRC1, 15, 13⟩
def SAPG.OUT_SRC1_INDEX : Fld := ⟨SAPG.OUT_SRC1, 12, 0⟩
def SAPG.SLIPS : Reg := ⟨20, 0x110⟩
def SAPG.SLIPS_COUNT : Fld := ⟨SAPG.SLIPS, 31, 0⟩
def SAPG.RESTARTS : Reg := ⟨20, 0x114⟩
def SAPG.RESTARTS_COUNT : Fld := ⟨SAPG.RESTARTS, 31, 0⟩
def SAPG.MUTED_FRAMES : Reg := ⟨20, 0x118⟩
def SAPG.MUTED_FRAMES_COUNT : Fld := ⟨SAPG.MUTED_FRAMES, 31, 0⟩
def SAPG.FIFO_ERR : Reg := ⟨20, 0x11C⟩
def SAPG.FIFO_ERR_COUNT : Fld := ⟨SAPG.FIFO_ERR, 31, 0⟩
def SAPG.BCLK_ERR : Reg := ⟨20, 0x120⟩
def SAPG.BCLK_ERR_COUNT : Fld := ⟨SAPG.BCLK_ERR, 31, 0⟩
def SAPG.CLK_LOSSES : Reg := ⟨20, 0x124⟩
def SAPG.CLK_LOSSES_COUNT : Fld := ⟨SAPG.CLK_LOSSES, 31, 0⟩
def SAPG.CNT_CTL : Reg := ⟨20, 0x128⟩
def SAPG.CNT_CTL_CLEAR : Fld := ⟨SAPG.CNT_CTL, 0, 0⟩
def SAPG.NOM : Reg := ⟨20, 0x12C⟩
def SAPG.NOM_HZ : Fld := ⟨SAPG.NOM, 17, 0⟩

/-! ## AESP (R345) -/
def AESP.RX_CTL : Reg := ⟨24, 0x100⟩
def AESP.RX_CTL_EN : Fld := ⟨AESP.RX_CTL, 31, 31⟩
def AESP.RX_CTL_V_ERR : Fld := ⟨AESP.RX_CTL, 30, 30⟩
def AESP.RX_CTL_AUX_ZERO : Fld := ⟨AESP.RX_CTL, 29, 29⟩
def AESP.RX_STAT : Reg := ⟨24, 0x104⟩
def AESP.RX_STAT_STATE : Fld := ⟨AESP.RX_STAT, 31, 30⟩
def AESP.RX_STAT_PRO : Fld := ⟨AESP.RX_STAT, 29, 29⟩
def AESP.RX_STAT_CS_CHG : Fld := ⟨AESP.RX_STAT, 28, 28⟩
def AESP.RX_STAT_VFLAG : Fld := ⟨AESP.RX_STAT, 27, 26⟩
def AESP.RX_STAT_CFG_ERR : Fld := ⟨AESP.RX_STAT, 25, 25⟩
def AESP.RX_STAT_DET_RATE : Fld := ⟨AESP.RX_STAT, 2, 0⟩
def AESP.RX_BLK_SEQ : Reg := ⟨24, 0x108⟩
def AESP.RX_BLK_SEQ_SEQ : Fld := ⟨AESP.RX_BLK_SEQ, 15, 0⟩
def AESP.RX_BIPHASE_ERR : Reg := ⟨24, 0x10C⟩
def AESP.RX_BIPHASE_ERR_COUNT : Fld := ⟨AESP.RX_BIPHASE_ERR, 31, 0⟩
def AESP.RX_PARITY_ERR : Reg := ⟨24, 0x110⟩
def AESP.RX_PARITY_ERR_COUNT : Fld := ⟨AESP.RX_PARITY_ERR, 31, 0⟩
def AESP.RX_CRCC_ERR : Reg := ⟨24, 0x114⟩
def AESP.RX_CRCC_ERR_COUNT : Fld := ⟨AESP.RX_CRCC_ERR, 31, 0⟩
def AESP.RX_BLK_ERR : Reg := ⟨24, 0x118⟩
def AESP.RX_BLK_ERR_COUNT : Fld := ⟨AESP.RX_BLK_ERR, 31, 0⟩
def AESP.RX_HELD : Reg := ⟨24, 0x11C⟩
def AESP.RX_HELD_COUNT : Fld := ⟨AESP.RX_HELD, 31, 0⟩
def AESP.RX_MUTES : Reg := ⟨24, 0x120⟩
def AESP.RX_MUTES_COUNT : Fld := ⟨AESP.RX_MUTES, 31, 0⟩
def AESP.RX_LOCK_LOSSES : Reg := ⟨24, 0x124⟩
def AESP.RX_LOCK_LOSSES_COUNT : Fld := ⟨AESP.RX_LOCK_LOSSES, 31, 0⟩
def AESP.RX_CNT_CTL : Reg := ⟨24, 0x128⟩
def AESP.RX_CNT_CTL_CLEAR : Fld := ⟨AESP.RX_CNT_CTL, 0, 0⟩
def AESP.RX_NOM : Reg := ⟨24, 0x12C⟩
def AESP.RX_NOM_HZ : Fld := ⟨AESP.RX_NOM, 17, 0⟩
def AESP.RX_CS_A0 : Reg := ⟨24, 0x140⟩
def AESP.RX_CS_A0_CS : Fld := ⟨AESP.RX_CS_A0, 31, 0⟩
def AESP.RX_CS_A1 : Reg := ⟨24, 0x144⟩
def AESP.RX_CS_A1_CS : Fld := ⟨AESP.RX_CS_A1, 31, 0⟩
def AESP.RX_CS_A2 : Reg := ⟨24, 0x148⟩
def AESP.RX_CS_A2_CS : Fld := ⟨AESP.RX_CS_A2, 31, 0⟩
def AESP.RX_CS_A3 : Reg := ⟨24, 0x14C⟩
def AESP.RX_CS_A3_CS : Fld := ⟨AESP.RX_CS_A3, 31, 0⟩
def AESP.RX_CS_A4 : Reg := ⟨24, 0x150⟩
def AESP.RX_CS_A4_CS : Fld := ⟨AESP.RX_CS_A4, 31, 0⟩
def AESP.RX_CS_A5 : Reg := ⟨24, 0x154⟩
def AESP.RX_CS_A5_CS : Fld := ⟨AESP.RX_CS_A5, 31, 0⟩
def AESP.RX_CS_B0 : Reg := ⟨24, 0x158⟩
def AESP.RX_CS_B0_CS : Fld := ⟨AESP.RX_CS_B0, 31, 0⟩
def AESP.RX_CS_B1 : Reg := ⟨24, 0x15C⟩
def AESP.RX_CS_B1_CS : Fld := ⟨AESP.RX_CS_B1, 31, 0⟩
def AESP.RX_CS_B2 : Reg := ⟨24, 0x160⟩
def AESP.RX_CS_B2_CS : Fld := ⟨AESP.RX_CS_B2, 31, 0⟩
def AESP.RX_CS_B3 : Reg := ⟨24, 0x164⟩
def AESP.RX_CS_B3_CS : Fld := ⟨AESP.RX_CS_B3, 31, 0⟩
def AESP.RX_CS_B4 : Reg := ⟨24, 0x168⟩
def AESP.RX_CS_B4_CS : Fld := ⟨AESP.RX_CS_B4, 31, 0⟩
def AESP.RX_CS_B5 : Reg := ⟨24, 0x16C⟩
def AESP.RX_CS_B5_CS : Fld := ⟨AESP.RX_CS_B5, 31, 0⟩
def AESP.RX_U_A0 : Reg := ⟨24, 0x180⟩
def AESP.RX_U_A0_U : Fld := ⟨AESP.RX_U_A0, 31, 0⟩
def AESP.RX_U_A1 : Reg := ⟨24, 0x184⟩
def AESP.RX_U_A1_U : Fld := ⟨AESP.RX_U_A1, 31, 0⟩
def AESP.RX_U_A2 : Reg := ⟨24, 0x188⟩
def AESP.RX_U_A2_U : Fld := ⟨AESP.RX_U_A2, 31, 0⟩
def AESP.RX_U_A3 : Reg := ⟨24, 0x18C⟩
def AESP.RX_U_A3_U : Fld := ⟨AESP.RX_U_A3, 31, 0⟩
def AESP.RX_U_A4 : Reg := ⟨24, 0x190⟩
def AESP.RX_U_A4_U : Fld := ⟨AESP.RX_U_A4, 31, 0⟩
def AESP.RX_U_A5 : Reg := ⟨24, 0x194⟩
def AESP.RX_U_A5_U : Fld := ⟨AESP.RX_U_A5, 31, 0⟩
def AESP.RX_U_B0 : Reg := ⟨24, 0x198⟩
def AESP.RX_U_B0_U : Fld := ⟨AESP.RX_U_B0, 31, 0⟩
def AESP.RX_U_B1 : Reg := ⟨24, 0x19C⟩
def AESP.RX_U_B1_U : Fld := ⟨AESP.RX_U_B1, 31, 0⟩
def AESP.RX_U_B2 : Reg := ⟨24, 0x1A0⟩
def AESP.RX_U_B2_U : Fld := ⟨AESP.RX_U_B2, 31, 0⟩
def AESP.RX_U_B3 : Reg := ⟨24, 0x1A4⟩
def AESP.RX_U_B3_U : Fld := ⟨AESP.RX_U_B3, 31, 0⟩
def AESP.RX_U_B4 : Reg := ⟨24, 0x1A8⟩
def AESP.RX_U_B4_U : Fld := ⟨AESP.RX_U_B4, 31, 0⟩
def AESP.RX_U_B5 : Reg := ⟨24, 0x1AC⟩
def AESP.RX_U_B5_U : Fld := ⟨AESP.RX_U_B5, 31, 0⟩
def AESP.TX_CTL : Reg := ⟨24, 0x900⟩
def AESP.TX_CTL_EN : Fld := ⟨AESP.TX_CTL, 31, 31⟩
def AESP.TX_CTL_CRC_GEN : Fld := ⟨AESP.TX_CTL, 30, 30⟩
def AESP.TX_CTL_U_EN : Fld := ⟨AESP.TX_CTL, 29, 29⟩
def AESP.TX_CTL_START : Fld := ⟨AESP.TX_CTL, 28, 28⟩
def AESP.TX_CTL_STOP : Fld := ⟨AESP.TX_CTL, 27, 27⟩
def AESP.TX_CTL_RATE : Fld := ⟨AESP.TX_CTL, 2, 0⟩
def AESP.TX_STAT : Reg := ⟨24, 0x904⟩
def AESP.TX_STAT_STATE : Fld := ⟨AESP.TX_STAT, 31, 30⟩
def AESP.TX_STAT_ZERO : Fld := ⟨AESP.TX_STAT, 29, 29⟩
def AESP.TX_STAT_CFG_ERR : Fld := ⟨AESP.TX_STAT, 28, 28⟩
def AESP.TX_SRC0 : Reg := ⟨24, 0x908⟩
def AESP.TX_SRC0_KIND : Fld := ⟨AESP.TX_SRC0, 15, 13⟩
def AESP.TX_SRC0_INDEX : Fld := ⟨AESP.TX_SRC0, 12, 0⟩
def AESP.TX_SRC1 : Reg := ⟨24, 0x90C⟩
def AESP.TX_SRC1_KIND : Fld := ⟨AESP.TX_SRC1, 15, 13⟩
def AESP.TX_SRC1_INDEX : Fld := ⟨AESP.TX_SRC1, 12, 0⟩
def AESP.TX_CS0 : Reg := ⟨24, 0x910⟩
def AESP.TX_CS0_CS : Fld := ⟨AESP.TX_CS0, 31, 0⟩
def AESP.TX_CS1 : Reg := ⟨24, 0x914⟩
def AESP.TX_CS1_CS : Fld := ⟨AESP.TX_CS1, 31, 0⟩
def AESP.TX_CS2 : Reg := ⟨24, 0x918⟩
def AESP.TX_CS2_CS : Fld := ⟨AESP.TX_CS2, 31, 0⟩
def AESP.TX_CS3 : Reg := ⟨24, 0x91C⟩
def AESP.TX_CS3_CS : Fld := ⟨AESP.TX_CS3, 31, 0⟩
def AESP.TX_CS4 : Reg := ⟨24, 0x920⟩
def AESP.TX_CS4_CS : Fld := ⟨AESP.TX_CS4, 31, 0⟩
def AESP.TX_CS5 : Reg := ⟨24, 0x924⟩
def AESP.TX_CS5_CS : Fld := ⟨AESP.TX_CS5, 31, 0⟩
def AESP.TX_U0 : Reg := ⟨24, 0x928⟩
def AESP.TX_U0_U : Fld := ⟨AESP.TX_U0, 31, 0⟩
def AESP.TX_U1 : Reg := ⟨24, 0x92C⟩
def AESP.TX_U1_U : Fld := ⟨AESP.TX_U1, 31, 0⟩
def AESP.TX_U2 : Reg := ⟨24, 0x930⟩
def AESP.TX_U2_U : Fld := ⟨AESP.TX_U2, 31, 0⟩
def AESP.TX_U3 : Reg := ⟨24, 0x934⟩
def AESP.TX_U3_U : Fld := ⟨AESP.TX_U3, 31, 0⟩
def AESP.TX_U4 : Reg := ⟨24, 0x938⟩
def AESP.TX_U4_U : Fld := ⟨AESP.TX_U4, 31, 0⟩
def AESP.TX_U5 : Reg := ⟨24, 0x93C⟩
def AESP.TX_U5_U : Fld := ⟨AESP.TX_U5, 31, 0⟩
def AESP.TX_BLOCKS : Reg := ⟨24, 0x940⟩
def AESP.TX_BLOCKS_COUNT : Fld := ⟨AESP.TX_BLOCKS, 31, 0⟩

/-! ## SYNC (R346) -/
def SYNC.CLKIN_CTL : Reg := ⟨25, 0x040⟩
def SYNC.CLKIN_CTL_PPS_POL : Fld := ⟨SYNC.CLKIN_CTL, 1, 1⟩
def SYNC.CLKIN_CTL_WCLK_POL : Fld := ⟨SYNC.CLKIN_CTL, 0, 0⟩
def SYNC.CLKIN_STAT : Reg := ⟨25, 0x044⟩
def SYNC.CLKIN_STAT_TEN_PRESENT : Fld := ⟨SYNC.CLKIN_STAT, 2, 2⟩
def SYNC.CLKIN_STAT_PPS_PRESENT : Fld := ⟨SYNC.CLKIN_STAT, 1, 1⟩
def SYNC.CLKIN_STAT_WCLK_PRESENT : Fld := ⟨SYNC.CLKIN_STAT, 0, 0⟩
def SYNC.WCLK_IN_ADJ : Reg := ⟨25, 0x048⟩
def SYNC.WCLK_IN_ADJ_ADJ : Fld := ⟨SYNC.WCLK_IN_ADJ, 31, 0⟩
def SYNC.PPS_IN_ADJ : Reg := ⟨25, 0x04C⟩
def SYNC.PPS_IN_ADJ_ADJ : Fld := ⟨SYNC.PPS_IN_ADJ, 31, 0⟩
def SYNC.WCLK_OUT_CTL : Reg := ⟨25, 0x050⟩
def SYNC.WCLK_OUT_CTL_EN : Fld := ⟨SYNC.WCLK_OUT_CTL, 31, 31⟩
def SYNC.WCLK_OUT_CTL_RATE : Fld := ⟨SYNC.WCLK_OUT_CTL, 2, 0⟩
def SYNC.PPS_OUT_CTL : Reg := ⟨25, 0x054⟩
def SYNC.PPS_OUT_CTL_EN : Fld := ⟨SYNC.PPS_OUT_CTL, 31, 31⟩
def SYNC.PPS_OUT_CTL_WIDTH : Fld := ⟨SYNC.PPS_OUT_CTL, 18, 0⟩
def SYNC.MCLK_CTL : Reg := ⟨25, 0x060⟩
def SYNC.MCLK_CTL_EN : Fld := ⟨SYNC.MCLK_CTL, 31, 31⟩
def SYNC.MCLK_CTL_FAM : Fld := ⟨SYNC.MCLK_CTL, 4, 4⟩
def SYNC.MCLK_CTL_DIV : Fld := ⟨SYNC.MCLK_CTL, 1, 0⟩

/-! ## ULNK (R397, R398) -/
def ULNK.LINK_CTL : Reg := ⟨26, 0x040⟩
def ULNK.LINK_CTL_EN : Fld := ⟨ULNK.LINK_CTL, 31, 31⟩
def ULNK.LINK_CTL_RETRAIN : Fld := ⟨ULNK.LINK_CTL, 30, 30⟩
def ULNK.LINK_CTL_LANE_POL : Fld := ⟨ULNK.LINK_CTL, 3, 0⟩
def ULNK.LINK_STAT : Reg := ⟨26, 0x044⟩
def ULNK.LINK_STAT_STATE : Fld := ⟨ULNK.LINK_STAT, 31, 29⟩
def ULNK.LINK_STAT_SUM_OK : Fld := ⟨ULNK.LINK_STAT, 28, 28⟩
def ULNK.LINK_STAT_PEER_MISMATCH : Fld := ⟨ULNK.LINK_STAT, 27, 27⟩
def ULNK.LINK_STAT_LANE_LOCK : Fld := ⟨ULNK.LINK_STAT, 19, 16⟩
def ULNK.LINK_STAT_RETRAINS : Fld := ⟨ULNK.LINK_STAT, 15, 0⟩
def ULNK.PEER : Reg := ⟨26, 0x048⟩
def ULNK.PEER_VALID : Fld := ⟨ULNK.PEER, 31, 31⟩
def ULNK.PEER_ID : Fld := ⟨ULNK.PEER, 27, 24⟩
def ULNK.PEER_LINK : Fld := ⟨ULNK.PEER, 18, 16⟩
def ULNK.PEER_LANE_MAP : Fld := ⟨ULNK.PEER, 15, 0⟩
def ULNK.LANE_SKEW : Reg := ⟨26, 0x04C⟩
def ULNK.LANE_SKEW_UI : Fld := ⟨ULNK.LANE_SKEW, 15, 0⟩
def ULNK.DELAY : Reg := ⟨26, 0x050⟩
def ULNK.DELAY_G : Fld := ⟨ULNK.DELAY, 31, 0⟩
def ULNK.TIME_ASYM : Reg := ⟨26, 0x054⟩
def ULNK.TIME_ASYM_A : Fld := ⟨ULNK.TIME_ASYM, 31, 0⟩
def ULNK.THETA : Reg := ⟨26, 0x058⟩
def ULNK.THETA_G : Fld := ⟨ULNK.THETA, 31, 0⟩
def ULNK.CELLS_TX : Reg := ⟨26, 0x100⟩
def ULNK.CELLS_TX_COUNT : Fld := ⟨ULNK.CELLS_TX, 31, 0⟩
def ULNK.CELLS_RX : Reg := ⟨26, 0x104⟩
def ULNK.CELLS_RX_COUNT : Fld := ⟨ULNK.CELLS_RX, 31, 0⟩
def ULNK.CRC_ERR : Reg := ⟨26, 0x108⟩
def ULNK.CRC_ERR_COUNT : Fld := ⟨ULNK.CRC_ERR, 31, 0⟩
def ULNK.HDR_ERR : Reg := ⟨26, 0x10C⟩
def ULNK.HDR_ERR_COUNT : Fld := ⟨ULNK.HDR_ERR, 31, 0⟩
def ULNK.SEQ_ERR : Reg := ⟨26, 0x110⟩
def ULNK.SEQ_ERR_COUNT : Fld := ⟨ULNK.SEQ_ERR, 31, 0⟩
def ULNK.SEQ_GAP : Reg := ⟨26, 0x114⟩
def ULNK.SEQ_GAP_COUNT : Fld := ⟨ULNK.SEQ_GAP, 31, 0⟩
def ULNK.SUM_FIRST : Reg := ⟨26, 0x118⟩
def ULNK.SUM_FIRST_COUNT : Fld := ⟨ULNK.SUM_FIRST, 31, 0⟩
def ULNK.SUM_DUP : Reg := ⟨26, 0x11C⟩
def ULNK.SUM_DUP_COUNT : Fld := ⟨ULNK.SUM_DUP, 31, 0⟩
def ULNK.SUM_LATE : Reg := ⟨26, 0x120⟩
def ULNK.SUM_LATE_COUNT : Fld := ⟨ULNK.SUM_LATE, 31, 0⟩
def ULNK.IDX_ERR : Reg := ⟨26, 0x124⟩
def ULNK.IDX_ERR_COUNT : Fld := ⟨ULNK.IDX_ERR, 31, 0⟩
def ULNK.MGMT_DUP : Reg := ⟨26, 0x128⟩
def ULNK.MGMT_DUP_COUNT : Fld := ⟨ULNK.MGMT_DUP, 31, 0⟩
def ULNK.MGMT_DROP : Reg := ⟨26, 0x12C⟩
def ULNK.MGMT_DROP_COUNT : Fld := ⟨ULNK.MGMT_DROP, 31, 0⟩
def ULNK.CNT_CTL : Reg := ⟨26, 0x180⟩
def ULNK.CNT_CTL_CLEAR : Fld := ⟨ULNK.CNT_CTL, 0, 0⟩
def ULNK.HIER_CFG : Reg := ⟨26, 0x200⟩
def ULNK.HIER_CFG_ROLE : Fld := ⟨ULNK.HIER_CFG, 29, 28⟩
def ULNK.HIER_CFG_ID : Fld := ⟨ULNK.HIER_CFG, 3, 0⟩
def ULNK.HIER_POS : Reg := ⟨26, 0x204⟩
def ULNK.HIER_POS_COL : Fld := ⟨ULNK.HIER_POS, 27, 24⟩
def ULNK.HIER_POS_DEPTH : Fld := ⟨ULNK.HIER_POS, 19, 16⟩
def ULNK.HIER_POS_H : Fld := ⟨ULNK.HIER_POS, 11, 8⟩
def ULNK.HIER_POS_END : Fld := ⟨ULNK.HIER_POS, 0, 0⟩
def ULNK.PAIR_ROLE : Reg := ⟨26, 0x208⟩
def ULNK.PAIR_ROLE_ROLE0 : Fld := ⟨ULNK.PAIR_ROLE, 5, 0⟩
def ULNK.PAIR_ROLE_ROLE1 : Fld := ⟨ULNK.PAIR_ROLE, 13, 8⟩
def ULNK.PAIR_ROLE_ROLE2 : Fld := ⟨ULNK.PAIR_ROLE, 21, 16⟩
def ULNK.ROUTE : Reg := ⟨26, 0x20C⟩
def ULNK.ROUTE_PAIR0 : Fld := ⟨ULNK.ROUTE, 1, 0⟩
def ULNK.ROUTE_PAIR1 : Fld := ⟨ULNK.ROUTE, 3, 2⟩
def ULNK.ROUTE_PAIR2 : Fld := ⟨ULNK.ROUTE, 5, 4⟩
def ULNK.ROUTE_PAIR3 : Fld := ⟨ULNK.ROUTE, 7, 6⟩
def ULNK.ROUTE_PAIR4 : Fld := ⟨ULNK.ROUTE, 9, 8⟩
def ULNK.ROUTE_PAIR5 : Fld := ⟨ULNK.ROUTE, 11, 10⟩
def ULNK.ROUTE_PAIR6 : Fld := ⟨ULNK.ROUTE, 13, 12⟩
def ULNK.ROUTE_PAIR7 : Fld := ⟨ULNK.ROUTE, 15, 14⟩
def ULNK.ROUTE_PAIR8 : Fld := ⟨ULNK.ROUTE, 17, 16⟩
def ULNK.ROUTE_PAIR9 : Fld := ⟨ULNK.ROUTE, 19, 18⟩
def ULNK.ROUTE_PAIR10 : Fld := ⟨ULNK.ROUTE, 21, 20⟩
def ULNK.ROUTE_PAIR11 : Fld := ⟨ULNK.ROUTE, 23, 22⟩
def ULNK.ROUTE_PAIR12 : Fld := ⟨ULNK.ROUTE, 25, 24⟩
def ULNK.ROUTE_PAIR13 : Fld := ⟨ULNK.ROUTE, 27, 26⟩
def ULNK.ROUTE_PAIR14 : Fld := ⟨ULNK.ROUTE, 29, 28⟩
def ULNK.ROUTE_PAIR15 : Fld := ⟨ULNK.ROUTE, 31, 30⟩
def ULNK.HIER_STAT : Reg := ⟨26, 0x210⟩
def ULNK.HIER_STAT_STATE : Fld := ⟨ULNK.HIER_STAT, 31, 30⟩
def ULNK.HIER_STAT_PAIR_SINGLE : Fld := ⟨ULNK.HIER_STAT, 29, 29⟩
def ULNK.HIER_STAT_DIVERGED : Fld := ⟨ULNK.HIER_STAT, 28, 28⟩
def ULNK.HIER_STAT_MIRROR : Fld := ⟨ULNK.HIER_STAT, 25, 24⟩
def ULNK.HIER_STAT_A_MEMBER : Fld := ⟨ULNK.HIER_STAT, 23, 23⟩
def ULNK.HIER_STAT_MEMBERS : Fld := ⟨ULNK.HIER_STAT, 15, 0⟩
def ULNK.DIGEST_SRC : Reg := ⟨26, 0x214⟩
def ULNK.DIGEST_SRC_DIGEST : Fld := ⟨ULNK.DIGEST_SRC, 31, 0⟩
def ULNK.TIME_STAT : Reg := ⟨26, 0x218⟩
def ULNK.TIME_STAT_HOPS : Fld := ⟨ULNK.TIME_STAT, 7, 0⟩
def ULNK.PSUM_SAT : Reg := ⟨26, 0x21C⟩
def ULNK.PSUM_SAT_COUNT : Fld := ⟨ULNK.PSUM_SAT, 31, 0⟩
def ULNK.PSUM_MISS : Reg := ⟨26, 0x220⟩
def ULNK.PSUM_MISS_COUNT : Fld := ⟨ULNK.PSUM_MISS, 31, 0⟩
def ULNK.RELAY_MISS : Reg := ⟨26, 0x224⟩
def ULNK.RELAY_MISS_COUNT : Fld := ⟨ULNK.RELAY_MISS, 31, 0⟩
def ULNK.MIRROR_LOSSES : Reg := ⟨26, 0x228⟩
def ULNK.MIRROR_LOSSES_COUNT : Fld := ⟨ULNK.MIRROR_LOSSES, 31, 0⟩
def ULNK.HIER_CNT_CTL : Reg := ⟨26, 0x22C⟩
def ULNK.HIER_CNT_CTL_CLEAR : Fld := ⟨ULNK.HIER_CNT_CTL, 0, 0⟩
def ULNK.UOUT_IDX : Reg := ⟨26, 0x240⟩
def ULNK.UOUT_IDX_CH : Fld := ⟨ULNK.UOUT_IDX, 11, 0⟩
def ULNK.UOUT_SRC : Reg := ⟨26, 0x244⟩
def ULNK.UOUT_SRC_KIND : Fld := ⟨ULNK.UOUT_SRC, 15, 13⟩
def ULNK.UOUT_SRC_INDEX : Fld := ⟨ULNK.UOUT_SRC, 12, 0⟩
def ULNK.UOUT_STAT : Reg := ⟨26, 0x248⟩
def ULNK.UOUT_STAT_SEL_ERR : Fld := ⟨ULNK.UOUT_STAT, 31, 31⟩
def ULNK.UOUT_STAT_HIGH : Fld := ⟨ULNK.UOUT_STAT, 11, 0⟩
def ULNK.MIRROR_CTL : Reg := ⟨26, 0x24C⟩
def ULNK.MIRROR_CTL_AUTO_TAKEOVER : Fld := ⟨ULNK.MIRROR_CTL, 0, 0⟩
def ULNK.UMOE_CTL : Reg := ⟨26, 0x250⟩
def ULNK.UMOE_CTL_EN : Fld := ⟨ULNK.UMOE_CTL, 31, 31⟩
def ULNK.UMOE_CTL_PORT : Fld := ⟨ULNK.UMOE_CTL, 1, 0⟩
def ULNK.UMOE_PEER0 : Reg := ⟨26, 0x254⟩
def ULNK.UMOE_PEER0_ADDR : Fld := ⟨ULNK.UMOE_PEER0, 31, 0⟩
def ULNK.UMOE_PEER1 : Reg := ⟨26, 0x258⟩
def ULNK.UMOE_PEER1_ADDR : Fld := ⟨ULNK.UMOE_PEER1, 31, 0⟩
def ULNK.UMOE_PEER2 : Reg := ⟨26, 0x25C⟩
def ULNK.UMOE_PEER2_ADDR : Fld := ⟨ULNK.UMOE_PEER2, 31, 0⟩
def ULNK.UMOE_PEER3 : Reg := ⟨26, 0x260⟩
def ULNK.UMOE_PEER3_ADDR : Fld := ⟨ULNK.UMOE_PEER3, 31, 0⟩

/-! ## FALT (R440) -/
def FALT.FALT_CTL : Reg := ⟨32, 0x040⟩
def FALT.FALT_CTL_FN_REDUND : Fld := ⟨FALT.FALT_CTL, 31, 31⟩
def FALT.FALT_CTL_FAULT_ACK : Fld := ⟨FALT.FALT_CTL, 0, 0⟩
def FALT.FALT_STAT : Reg := ⟨32, 0x044⟩
def FALT.FALT_STAT_FAULT_N : Fld := ⟨FALT.FALT_STAT, 31, 31⟩
def FALT.FALT_STAT_CRIT_PEND : Fld := ⟨FALT.FALT_STAT, 30, 30⟩
def FALT.REDUND : Reg := ⟨32, 0x048⟩
def FALT.REDUND_BITS : Fld := ⟨FALT.REDUND, 11, 0⟩
def FALT.REDUND_MASK : Reg := ⟨32, 0x04C⟩
def FALT.REDUND_MASK_MASK : Fld := ⟨FALT.REDUND_MASK, 11, 0⟩
def FALT.PATROL_CTL : Reg := ⟨32, 0x050⟩
def FALT.PATROL_CTL_EN : Fld := ⟨FALT.PATROL_CTL, 31, 31⟩
def FALT.PATROL_STAT : Reg := ⟨32, 0x054⟩
def FALT.PATROL_STAT_ACTIVE : Fld := ⟨FALT.PATROL_STAT, 31, 31⟩
def FALT.PATROL_STAT_TARGET : Fld := ⟨FALT.PATROL_STAT, 21, 16⟩
def FALT.PATROL_STAT_ROUNDS : Fld := ⟨FALT.PATROL_STAT, 15, 0⟩
def FALT.SCRUB_STAT : Reg := ⟨32, 0x058⟩
def FALT.SCRUB_STAT_LATE : Fld := ⟨FALT.SCRUB_STAT, 31, 31⟩
def FALT.SCRUB_STAT_PASSES : Fld := ⟨FALT.SCRUB_STAT, 15, 0⟩
def FALT.WDT_CTL : Reg := ⟨32, 0x060⟩
def FALT.WDT_CTL_KICK : Fld := ⟨FALT.WDT_CTL, 31, 31⟩
def FALT.WDT_CTL_TIMEOUT : Fld := ⟨FALT.WDT_CTL, 9, 0⟩
def FALT.MGMT_CTL : Reg := ⟨32, 0x064⟩
def FALT.MGMT_CTL_RESTART : Fld := ⟨FALT.MGMT_CTL, 31, 31⟩
def FALT.MGMT_STAT : Reg := ⟨32, 0x068⟩
def FALT.MGMT_STAT_HALT : Fld := ⟨FALT.MGMT_STAT, 31, 31⟩
def FALT.MGMT_STAT_RECOVERING : Fld := ⟨FALT.MGMT_STAT, 30, 30⟩
def FALT.MGMT_STAT_LAST_CAUSE : Fld := ⟨FALT.MGMT_STAT, 27, 24⟩
def FALT.MGMT_STAT_RESTARTS : Fld := ⟨FALT.MGMT_STAT, 15, 0⟩
def FALT.ERR_STAT : Reg := ⟨32, 0x070⟩
def FALT.ERR_STAT_PRES_FULL : Fld := ⟨FALT.ERR_STAT, 31, 31⟩
def FALT.ERR_STAT_STORED : Fld := ⟨FALT.ERR_STAT, 6, 0⟩
def FALT.ERR_OVF : Reg := ⟨32, 0x074⟩
def FALT.ERR_OVF_COUNT : Fld := ⟨FALT.ERR_OVF, 31, 0⟩
def FALT.ERR_SEQ : Reg := ⟨32, 0x078⟩
def FALT.ERR_SEQ_SEQ : Fld := ⟨FALT.ERR_SEQ, 31, 0⟩
def FALT.ERR_FLUSH_SEQ : Reg := ⟨32, 0x07C⟩
def FALT.ERR_FLUSH_SEQ_SEQ : Fld := ⟨FALT.ERR_FLUSH_SEQ, 31, 0⟩
def FALT.ERR_SEL : Reg := ⟨32, 0x080⟩
def FALT.ERR_SEL_POS : Fld := ⟨FALT.ERR_SEL, 5, 0⟩
def FALT.ERR_REC0 : Reg := ⟨32, 0x084⟩
def FALT.ERR_REC0_REC : Fld := ⟨FALT.ERR_REC0, 31, 0⟩
def FALT.ERR_REC1 : Reg := ⟨32, 0x088⟩
def FALT.ERR_REC1_REC : Fld := ⟨FALT.ERR_REC1, 31, 0⟩
def FALT.ERR_REC2 : Reg := ⟨32, 0x08C⟩
def FALT.ERR_REC2_REC : Fld := ⟨FALT.ERR_REC2, 31, 0⟩
def FALT.ERR_REC3 : Reg := ⟨32, 0x090⟩
def FALT.ERR_REC3_REC : Fld := ⟨FALT.ERR_REC3, 31, 0⟩
def FALT.ERR_REC4 : Reg := ⟨32, 0x094⟩
def FALT.ERR_REC4_REC : Fld := ⟨FALT.ERR_REC4, 31, 0⟩
def FALT.ERR_REC5 : Reg := ⟨32, 0x098⟩
def FALT.ERR_REC5_REC : Fld := ⟨FALT.ERR_REC5, 31, 0⟩
def FALT.ERR_REC6 : Reg := ⟨32, 0x09C⟩
def FALT.ERR_REC6_REC : Fld := ⟨FALT.ERR_REC6, 31, 0⟩
def FALT.ERR_REC7 : Reg := ⟨32, 0x0A0⟩
def FALT.ERR_REC7_REC : Fld := ⟨FALT.ERR_REC7, 31, 0⟩
def FALT.PFAIL_STAT : Reg := ⟨32, 0x0B0⟩
def FALT.PFAIL_STAT_ASSERTED : Fld := ⟨FALT.PFAIL_STAT, 31, 31⟩
def FALT.PFAIL_STAT_LW_DONE : Fld := ⟨FALT.PFAIL_STAT, 30, 30⟩
def FALT.PFAIL_STAT_GLITCH : Fld := ⟨FALT.PFAIL_STAT, 29, 29⟩
def FALT.PFAIL_STAT_LW_FREE : Fld := ⟨FALT.PFAIL_STAT, 4, 0⟩
def FALT.MEM_CORR : Reg := ⟨32, 0x0C0⟩
def FALT.MEM_CORR_COUNT : Fld := ⟨FALT.MEM_CORR, 31, 0⟩
def FALT.MEM_UNCORR : Reg := ⟨32, 0x0C4⟩
def FALT.MEM_UNCORR_COUNT : Fld := ⟨FALT.MEM_UNCORR, 31, 0⟩
def FALT.MEM_LOST : Reg := ⟨32, 0x100⟩
def FALT.MEM_LOST_COUNT : Fld := ⟨FALT.MEM_LOST, 31, 0⟩
def FALT.MEM_HARD : Reg := ⟨32, 0x104⟩
def FALT.MEM_HARD_COUNT : Fld := ⟨FALT.MEM_HARD, 15, 0⟩
def FALT.CNT_CTL : Reg := ⟨32, 0x108⟩
def FALT.CNT_CTL_CLEAR : Fld := ⟨FALT.CNT_CTL, 0, 0⟩

/-! ## HOST (R521) -/
def HOST.FN_ID : Reg := ⟨33, 0x040⟩
def HOST.FN_ID_FN : Fld := ⟨HOST.FN_ID, 2, 0⟩
def HOST.CAPCH_IDX : Reg := ⟨33, 0x044⟩
def HOST.CAPCH_IDX_CH : Fld := ⟨HOST.CAPCH_IDX, 8, 0⟩
def HOST.CAPCH_SRC : Reg := ⟨33, 0x048⟩
def HOST.CAPCH_SRC_KIND : Fld := ⟨HOST.CAPCH_SRC, 15, 13⟩
def HOST.CAPCH_SRC_INDEX : Fld := ⟨HOST.CAPCH_SRC, 12, 0⟩
def HOST.CH_OWN : Reg := ⟨33, 0x04C⟩
def HOST.CH_OWN_OWNER : Fld := ⟨HOST.CH_OWN, 18, 16⟩
def HOST.RING_CTL : Reg := ⟨33, 0x100⟩
def HOST.RING_CTL_EN : Fld := ⟨HOST.RING_CTL, 31, 31⟩
def HOST.RING_CTL_KIND : Fld := ⟨HOST.RING_CTL, 27, 24⟩
def HOST.RING_CTL_PACK : Fld := ⟨HOST.RING_CTL, 21, 20⟩
def HOST.RING_CTL_PORT : Fld := ⟨HOST.RING_CTL, 17, 16⟩
def HOST.RING_CTL_TS_BASE : Fld := ⟨HOST.RING_CTL, 12, 12⟩
def HOST.RING_CTL_EVERY : Fld := ⟨HOST.RING_CTL, 11, 8⟩
def HOST.RING_CTL_VECTOR : Fld := ⟨HOST.RING_CTL, 5, 0⟩
def HOST.RING_STAT : Reg := ⟨33, 0x104⟩
def HOST.RING_STAT_STATE : Fld := ⟨HOST.RING_STAT, 31, 30⟩
def HOST.RING_STAT_START_LATE : Fld := ⟨HOST.RING_STAT, 29, 29⟩
def HOST.RING_STAT_MASK_DENY : Fld := ⟨HOST.RING_STAT, 28, 28⟩
def HOST.BASE_HI : Reg := ⟨33, 0x108⟩
def HOST.BASE_HI_ADDR : Fld := ⟨HOST.BASE_HI, 31, 0⟩
def HOST.BASE_LO : Reg := ⟨33, 0x10C⟩
def HOST.BASE_LO_ADDR : Fld := ⟨HOST.BASE_LO, 31, 0⟩
def HOST.SIZE : Reg := ⟨33, 0x110⟩
def HOST.SIZE_N : Fld := ⟨HOST.SIZE, 15, 0⟩
def HOST.HEAD : Reg := ⟨33, 0x114⟩
def HOST.HEAD_IDX : Fld := ⟨HOST.HEAD, 15, 0⟩
def HOST.START_TICK_HI : Reg := ⟨33, 0x118⟩
def HOST.START_TICK_HI_TICK : Fld := ⟨HOST.START_TICK_HI, 31, 0⟩
def HOST.START_TICK_LO : Reg := ⟨33, 0x11C⟩
def HOST.START_TICK_LO_TICK : Fld := ⟨HOST.START_TICK_LO, 31, 0⟩
def HOST.LATE : Reg := ⟨33, 0x120⟩
def HOST.LATE_COUNT : Fld := ⟨HOST.LATE, 31, 0⟩
def HOST.DROPPED : Reg := ⟨33, 0x124⟩
def HOST.DROPPED_COUNT : Fld := ⟨HOST.DROPPED, 31, 0⟩
def HOST.DONE : Reg := ⟨33, 0x128⟩
def HOST.DONE_COUNT : Fld := ⟨HOST.DONE, 31, 0⟩
def HOST.BLOCK_BYTES : Reg := ⟨33, 0x12C⟩
def HOST.BLOCK_BYTES_N : Fld := ⟨HOST.BLOCK_BYTES, 17, 0⟩
def HOST.MASK : Reg := ⟨33, 0x600⟩
def HOST.MASK_BITS : Fld := ⟨HOST.MASK, 31, 0⟩
def HOST.MASK_HI : Reg := ⟨33, 0x604⟩
def HOST.MASK_HI_BITS : Fld := ⟨HOST.MASK_HI, 31, 0⟩
def HOST.PAGE_VEC : Reg := ⟨33, 0xA00⟩
def HOST.PAGE_VEC_EN : Fld := ⟨HOST.PAGE_VEC, 7, 7⟩
def HOST.PAGE_VEC_VECTOR : Fld := ⟨HOST.PAGE_VEC, 5, 0⟩
def HOST.PAGE_VEC_SIG : Reg := ⟨33, 0xAC0⟩
def HOST.PAGE_VEC_SIG_EN : Fld := ⟨HOST.PAGE_VEC_SIG, 7, 7⟩
def HOST.PAGE_VEC_SIG_VECTOR : Fld := ⟨HOST.PAGE_VEC_SIG, 5, 0⟩

/-! ## CMDQ (R520) -/
def CMDQ.CQ_CTL : Reg := ⟨34, 0x100⟩
def CMDQ.CQ_CTL_EN : Fld := ⟨CMDQ.CQ_CTL, 31, 31⟩
def CMDQ.CQ_CTL_PRIO : Fld := ⟨CMDQ.CQ_CTL, 25, 24⟩
def CMDQ.CQ_CTL_VECTOR : Fld := ⟨CMDQ.CQ_CTL, 21, 16⟩
def CMDQ.CQ_CTL_COAL_N : Fld := ⟨CMDQ.CQ_CTL, 15, 8⟩
def CMDQ.CQ_CTL_COAL_US : Fld := ⟨CMDQ.CQ_CTL, 7, 0⟩
def CMDQ.CQ_STAT : Reg := ⟨34, 0x104⟩
def CMDQ.CQ_STAT_STATE : Fld := ⟨CMDQ.CQ_STAT, 31, 30⟩
def CMDQ.CQ_STAT_ERR_CAUSE : Fld := ⟨CMDQ.CQ_STAT, 3, 0⟩
def CMDQ.SQ_BASE_HI : Reg := ⟨34, 0x108⟩
def CMDQ.SQ_BASE_HI_ADDR : Fld := ⟨CMDQ.SQ_BASE_HI, 31, 0⟩
def CMDQ.SQ_BASE_LO : Reg := ⟨34, 0x10C⟩
def CMDQ.SQ_BASE_LO_ADDR : Fld := ⟨CMDQ.SQ_BASE_LO, 31, 0⟩
def CMDQ.CQ_BASE_HI : Reg := ⟨34, 0x110⟩
def CMDQ.CQ_BASE_HI_ADDR : Fld := ⟨CMDQ.CQ_BASE_HI, 31, 0⟩
def CMDQ.CQ_BASE_LO : Reg := ⟨34, 0x114⟩
def CMDQ.CQ_BASE_LO_ADDR : Fld := ⟨CMDQ.CQ_BASE_LO, 31, 0⟩
def CMDQ.SIZES : Reg := ⟨34, 0x118⟩
def CMDQ.SIZES_CQ_SIZE : Fld := ⟨CMDQ.SIZES, 27, 16⟩
def CMDQ.SIZES_SQ_SIZE : Fld := ⟨CMDQ.SIZES, 11, 0⟩
def CMDQ.SQ_HEAD : Reg := ⟨34, 0x11C⟩
def CMDQ.SQ_HEAD_IDX : Fld := ⟨CMDQ.SQ_HEAD, 11, 0⟩
def CMDQ.CQ_TAIL : Reg := ⟨34, 0x120⟩
def CMDQ.CQ_TAIL_IDX : Fld := ⟨CMDQ.CQ_TAIL, 11, 0⟩
def CMDQ.DONE : Reg := ⟨34, 0x124⟩
def CMDQ.DONE_COUNT : Fld := ⟨CMDQ.DONE, 31, 0⟩

/-! ## SECU (R551) -/
def SECU.SEC_STAT : Reg := ⟨35, 0x040⟩
def SECU.SEC_STAT_PROVISIONED : Fld := ⟨SECU.SEC_STAT, 31, 31⟩
def SECU.SEC_STAT_DBG_UNLOCKED : Fld := ⟨SECU.SEC_STAT, 30, 30⟩
def SECU.SEC_STAT_SVN_FLOOR : Fld := ⟨SECU.SEC_STAT, 29, 24⟩
def SECU.SEC_STAT_KEY_REVOKED : Fld := ⟨SECU.SEC_STAT, 19, 16⟩
def SECU.SEC_STAT_ERASE_PEND : Fld := ⟨SECU.SEC_STAT, 1, 1⟩
def SECU.SEC_STAT_ACT_PEND : Fld := ⟨SECU.SEC_STAT, 0, 0⟩
def SECU.UDP_CTL : Reg := ⟨35, 0x044⟩
def SECU.UDP_CTL_EN : Fld := ⟨SECU.UDP_CTL, 31, 31⟩
def SECU.UDP_CTL_PORTS : Fld := ⟨SECU.UDP_CTL, 19, 16⟩
def SECU.UDP_CTL_PORT : Fld := ⟨SECU.UDP_CTL, 15, 0⟩
def SECU.FW_STAT : Reg := ⟨35, 0x048⟩
def SECU.FW_STAT_STAGE : Fld := ⟨SECU.FW_STAT, 31, 30⟩
def SECU.FW_STAT_TRIAL : Fld := ⟨SECU.FW_STAT, 29, 29⟩
def SECU.FW_STAT_TRIES : Fld := ⟨SECU.FW_STAT, 27, 26⟩
def SECU.FW_STAT_ACTIVE_SLOT : Fld := ⟨SECU.FW_STAT, 16, 16⟩
def SECU.FW_STAT_FAIL_CHECK : Fld := ⟨SECU.FW_STAT, 2, 0⟩
def SECU.FW_CTL : Reg := ⟨35, 0x04C⟩
def SECU.FW_CTL_CONFIRM_SEC : Fld := ⟨SECU.FW_CTL, 15, 0⟩
def SECU.FW_VER_A : Reg := ⟨35, 0x050⟩
def SECU.FW_VER_A_VERSION : Fld := ⟨SECU.FW_VER_A, 31, 0⟩
def SECU.FW_VER_B : Reg := ⟨35, 0x054⟩
def SECU.FW_VER_B_VERSION : Fld := ⟨SECU.FW_VER_B, 31, 0⟩
def SECU.DBG_SCOPE : Reg := ⟨35, 0x058⟩
def SECU.DBG_SCOPE_OPEN : Fld := ⟨SECU.DBG_SCOPE, 1, 0⟩
def SECU.AUTH_FAILS : Reg := ⟨35, 0x060⟩
def SECU.AUTH_FAILS_COUNT : Fld := ⟨SECU.AUTH_FAILS, 31, 0⟩
def SECU.REPLAYS : Reg := ⟨35, 0x064⟩
def SECU.REPLAYS_COUNT : Fld := ⟨SECU.REPLAYS, 31, 0⟩
def SECU.UDP_MALFORMED : Reg := ⟨35, 0x068⟩
def SECU.UDP_MALFORMED_COUNT : Fld := ⟨SECU.UDP_MALFORMED, 31, 0⟩
def SECU.UDP_DROPPED : Reg := ⟨35, 0x06C⟩
def SECU.UDP_DROPPED_COUNT : Fld := ⟨SECU.UDP_DROPPED, 31, 0⟩
def SECU.UDP_RESENT : Reg := ⟨35, 0x070⟩
def SECU.UDP_RESENT_COUNT : Fld := ⟨SECU.UDP_RESENT, 31, 0⟩
def SECU.UDP_RATE_DROP : Reg := ⟨35, 0x074⟩
def SECU.UDP_RATE_DROP_COUNT : Fld := ⟨SECU.UDP_RATE_DROP, 31, 0⟩
def SECU.CRIT_ACCEPTED : Reg := ⟨35, 0x078⟩
def SECU.CRIT_ACCEPTED_COUNT : Fld := ⟨SECU.CRIT_ACCEPTED, 31, 0⟩
def SECU.CNT_CTL : Reg := ⟨35, 0x07C⟩
def SECU.CNT_CTL_CLEAR : Fld := ⟨SECU.CNT_CTL, 0, 0⟩
def SECU.SLOT_STAT : Reg := ⟨35, 0x100⟩
def SECU.SLOT_STAT_ACTIVE : Fld := ⟨SECU.SLOT_STAT, 31, 31⟩
def SECU.SLOT_STAT_LOADS : Fld := ⟨SECU.SLOT_STAT, 15, 0⟩
def SECU.SLOT_CTR_HI : Reg := ⟨35, 0x104⟩
def SECU.SLOT_CTR_HI_C_LAST : Fld := ⟨SECU.SLOT_CTR_HI, 31, 0⟩
def SECU.SLOT_CTR_LO : Reg := ⟨35, 0x108⟩
def SECU.SLOT_CTR_LO_C_LAST : Fld := ⟨SECU.SLOT_CTR_LO, 31, 0⟩

/-! ## LSIO (R596) -/
def LSIO.I2C_CTL : Reg := ⟨36, 0x100⟩
def LSIO.I2C_CTL_EN : Fld := ⟨LSIO.I2C_CTL, 31, 31⟩
def LSIO.I2C_CTL_BUS_CLEAR : Fld := ⟨LSIO.I2C_CTL, 30, 30⟩
def LSIO.I2C_CTL_STRETCH_TMO : Fld := ⟨LSIO.I2C_CTL, 15, 8⟩
def LSIO.I2C_CTL_SPEED : Fld := ⟨LSIO.I2C_CTL, 1, 0⟩
def LSIO.I2C_STAT : Reg := ⟨36, 0x104⟩
def LSIO.I2C_STAT_STATE : Fld := ⟨LSIO.I2C_STAT, 31, 30⟩
def LSIO.I2C_STAT_STUCK_SDA : Fld := ⟨LSIO.I2C_STAT, 29, 29⟩
def LSIO.I2C_STAT_STUCK_SCL : Fld := ⟨LSIO.I2C_STAT, 28, 28⟩
def LSIO.I2C_STAT_LINES : Fld := ⟨LSIO.I2C_STAT, 27, 26⟩
def LSIO.I2C_CLEARS : Reg := ⟨36, 0x108⟩
def LSIO.I2C_CLEARS_COUNT : Fld := ⟨LSIO.I2C_CLEARS, 31, 0⟩
def LSIO.I2C_NACKS : Reg := ⟨36, 0x10C⟩
def LSIO.I2C_NACKS_COUNT : Fld := ⟨LSIO.I2C_NACKS, 31, 0⟩
def LSIO.I2C_TIMEOUTS : Reg := ⟨36, 0x110⟩
def LSIO.I2C_TIMEOUTS_COUNT : Fld := ⟨LSIO.I2C_TIMEOUTS, 31, 0⟩
def LSIO.I2C_CNT_CTL : Reg := ⟨36, 0x114⟩
def LSIO.I2C_CNT_CTL_CLEAR : Fld := ⟨LSIO.I2C_CNT_CTL, 0, 0⟩
def LSIO.UART_CTL : Reg := ⟨36, 0x200⟩
def LSIO.UART_CTL_EN : Fld := ⟨LSIO.UART_CTL, 31, 31⟩
def LSIO.UART_CTL_CONSOLE : Fld := ⟨LSIO.UART_CTL, 30, 30⟩
def LSIO.UART_CTL_PARITY : Fld := ⟨LSIO.UART_CTL, 27, 26⟩
def LSIO.UART_CTL_STOP2 : Fld := ⟨LSIO.UART_CTL, 25, 25⟩
def LSIO.UART_CTL_DATA7 : Fld := ⟨LSIO.UART_CTL, 24, 24⟩
def LSIO.UART_CTL_DIV : Fld := ⟨LSIO.UART_CTL, 19, 4⟩
def LSIO.UART_CTL_FRAC : Fld := ⟨LSIO.UART_CTL, 3, 0⟩
def LSIO.UART_STAT : Reg := ⟨36, 0x204⟩
def LSIO.UART_STAT_RX_OVF : Fld := ⟨LSIO.UART_STAT, 31, 31⟩
def LSIO.UART_STAT_FRAME_ERR : Fld := ⟨LSIO.UART_STAT, 30, 30⟩
def LSIO.UART_STAT_PARITY_ERR : Fld := ⟨LSIO.UART_STAT, 29, 29⟩
def LSIO.UART_STAT_BREAK : Fld := ⟨LSIO.UART_STAT, 28, 28⟩
def LSIO.UART_STAT_RX_LEVEL : Fld := ⟨LSIO.UART_STAT, 22, 16⟩
def LSIO.UART_STAT_TX_LEVEL : Fld := ⟨LSIO.UART_STAT, 6, 0⟩
def LSIO.UART_RX_THRESH : Reg := ⟨36, 0x208⟩
def LSIO.UART_RX_THRESH_N : Fld := ⟨LSIO.UART_RX_THRESH, 6, 0⟩
def LSIO.UART_RX_DROPS : Reg := ⟨36, 0x20C⟩
def LSIO.UART_RX_DROPS_COUNT : Fld := ⟨LSIO.UART_RX_DROPS, 31, 0⟩
def LSIO.SPI_CTL : Reg := ⟨36, 0x300⟩
def LSIO.SPI_CTL_EN : Fld := ⟨LSIO.SPI_CTL, 31, 31⟩
def LSIO.SPI_STAT : Reg := ⟨36, 0x304⟩
def LSIO.SPI_STAT_ACTIVE : Fld := ⟨LSIO.SPI_STAT, 31, 31⟩
def LSIO.SPI_STAT_RESP_PEND : Fld := ⟨LSIO.SPI_STAT, 6, 0⟩
def LSIO.SPI_CRC_ERR : Reg := ⟨36, 0x308⟩
def LSIO.SPI_CRC_ERR_COUNT : Fld := ⟨LSIO.SPI_CRC_ERR, 31, 0⟩
def LSIO.SPI_FRAME_ERR : Reg := ⟨36, 0x30C⟩
def LSIO.SPI_FRAME_ERR_COUNT : Fld := ⟨LSIO.SPI_FRAME_ERR, 31, 0⟩
def LSIO.SPI_TRANS : Reg := ⟨36, 0x310⟩
def LSIO.SPI_TRANS_COUNT : Fld := ⟨LSIO.SPI_TRANS, 31, 0⟩
def LSIO.SPI_CNT_CTL : Reg := ⟨36, 0x314⟩
def LSIO.SPI_CNT_CTL_CLEAR : Fld := ⟨LSIO.SPI_CNT_CTL, 0, 0⟩
def LSIO.QSPI_STAT : Reg := ⟨36, 0x340⟩
def LSIO.QSPI_STAT_BUSY : Fld := ⟨LSIO.QSPI_STAT, 31, 31⟩
def LSIO.QSPI_STAT_SUSPENDED : Fld := ⟨LSIO.QSPI_STAT, 30, 30⟩
def LSIO.QSPI_STAT_ERR : Fld := ⟨LSIO.QSPI_STAT, 29, 29⟩
def LSIO.QSPI_STAT_SIZE_LOG2 : Fld := ⟨LSIO.QSPI_STAT, 7, 0⟩
def LSIO.QSPI_ID : Reg := ⟨36, 0x344⟩
def LSIO.QSPI_ID_JEDEC_ID : Fld := ⟨LSIO.QSPI_ID, 23, 0⟩
def LSIO.QSPI_CLK : Reg := ⟨36, 0x348⟩
def LSIO.QSPI_CLK_MHZ : Fld := ⟨LSIO.QSPI_CLK, 7, 0⟩
def LSIO.ERASES : Reg := ⟨36, 0x34C⟩
def LSIO.ERASES_COUNT : Fld := ⟨LSIO.ERASES, 31, 0⟩
def LSIO.PROGRAMS : Reg := ⟨36, 0x350⟩
def LSIO.PROGRAMS_COUNT : Fld := ⟨LSIO.PROGRAMS, 31, 0⟩
def LSIO.GPIO : Reg := ⟨36, 0x400⟩
def LSIO.GPIO_MODE : Fld := ⟨LSIO.GPIO, 31, 30⟩
def LSIO.GPIO_SRC : Fld := ⟨LSIO.GPIO, 29, 29⟩
def LSIO.GPIO_OUT : Fld := ⟨LSIO.GPIO, 28, 28⟩
def LSIO.GPIO_PULL : Fld := ⟨LSIO.GPIO, 27, 26⟩
def LSIO.GPIO_EDGE : Fld := ⟨LSIO.GPIO, 25, 24⟩
def LSIO.GPIO_IN : Fld := ⟨LSIO.GPIO, 23, 23⟩
def LSIO.GPIO_EVT : Fld := ⟨LSIO.GPIO, 22, 22⟩
def LSIO.PIN_STAT : Reg := ⟨36, 0x480⟩
def LSIO.PIN_STAT_LOW : Fld := ⟨LSIO.PIN_STAT, 3, 0⟩
def LSIO.THERM_CTL : Reg := ⟨36, 0x484⟩
def LSIO.THERM_CTL_WARN : Fld := ⟨LSIO.THERM_CTL, 31, 16⟩
def LSIO.IRQ_CTL : Reg := ⟨36, 0x488⟩
def LSIO.IRQ_CTL_RESP : Fld := ⟨LSIO.IRQ_CTL, 0, 0⟩
def LSIO.COLL_IGN : Reg := ⟨36, 0x48C⟩
def LSIO.COLL_IGN_COUNT : Fld := ⟨LSIO.COLL_IGN, 31, 0⟩

/-! ## TNT (R522) -/
def TNT.TNT_CTL : Reg := ⟨37, 0x040⟩
def TNT.TNT_CTL_STATE : Fld := ⟨TNT.TNT_CTL, 31, 30⟩
def TNT.TNT_CTL_FLR_MODE : Fld := ⟨TNT.TNT_CTL, 29, 29⟩
def TNT.TNT_STAT : Reg := ⟨37, 0x044⟩
def TNT.TNT_STAT_SILENCED : Fld := ⟨TNT.TNT_STAT, 31, 31⟩
def TNT.TNT_STAT_OVER : Fld := ⟨TNT.TNT_STAT, 27, 16⟩
def TNT.TNT_STAT_FLRS : Fld := ⟨TNT.TNT_STAT, 15, 0⟩
def TNT.SIGS_HI : Reg := ⟨37, 0x048⟩
def TNT.SIGS_HI_SIGS : Fld := ⟨TNT.SIGS_HI, 31, 0⟩
def TNT.SIGS_LO : Reg := ⟨37, 0x04C⟩
def TNT.SIGS_LO_SIGS : Fld := ⟨TNT.SIGS_LO, 31, 0⟩
def TNT.DMA_WIN_BASE_HI : Reg := ⟨37, 0x050⟩
def TNT.DMA_WIN_BASE_HI_ADDR : Fld := ⟨TNT.DMA_WIN_BASE_HI, 31, 0⟩
def TNT.DMA_WIN_BASE_LO : Reg := ⟨37, 0x054⟩
def TNT.DMA_WIN_BASE_LO_ADDR : Fld := ⟨TNT.DMA_WIN_BASE_LO, 31, 0⟩
def TNT.DMA_WIN_LIMIT_HI : Reg := ⟨37, 0x058⟩
def TNT.DMA_WIN_LIMIT_HI_ADDR : Fld := ⟨TNT.DMA_WIN_LIMIT_HI, 31, 0⟩
def TNT.DMA_WIN_LIMIT_LO : Reg := ⟨37, 0x05C⟩
def TNT.DMA_WIN_LIMIT_LO_ADDR : Fld := ⟨TNT.DMA_WIN_LIMIT_LO, 31, 0⟩
def TNT.BUF_OWNED_CNT : Reg := ⟨37, 0x060⟩
def TNT.BUF_OWNED_CNT_COUNT : Fld := ⟨TNT.BUF_OWNED_CNT, 31, 0⟩
def TNT.BUF_FOREIGN_CNT : Reg := ⟨37, 0x064⟩
def TNT.BUF_FOREIGN_CNT_COUNT : Fld := ⟨TNT.BUF_FOREIGN_CNT, 31, 0⟩
def TNT.DMA_ERR : Reg := ⟨37, 0x068⟩
def TNT.DMA_ERR_COUNT : Fld := ⟨TNT.DMA_ERR, 31, 0⟩
def TNT.BUF_USED : Reg := ⟨37, 0x06C⟩
def TNT.BUF_USED_N : Fld := ⟨TNT.BUF_USED, 14, 0⟩
def TNT.QUOTA : Reg := ⟨37, 0x100⟩
def TNT.QUOTA_N : Fld := ⟨TNT.QUOTA, 15, 0⟩
def TNT.USE : Reg := ⟨37, 0x104⟩
def TNT.USE_N : Fld := ⟨TNT.USE, 15, 0⟩
def TNT.LOG0 : Reg := ⟨37, 0x200⟩
def TNT.LOG0_V : Fld := ⟨TNT.LOG0, 31, 0⟩
def TNT.LOG1 : Reg := ⟨37, 0x204⟩
def TNT.LOG1_V : Fld := ⟨TNT.LOG1, 31, 0⟩
def TNT.LOG2 : Reg := ⟨37, 0x208⟩
def TNT.LOG2_V : Fld := ⟨TNT.LOG2, 31, 0⟩
def TNT.LOG3 : Reg := ⟨37, 0x20C⟩
def TNT.LOG3_V : Fld := ⟨TNT.LOG3, 31, 0⟩
def TNT.LOG_HEAD : Reg := ⟨37, 0x300⟩
def TNT.LOG_HEAD_POS : Fld := ⟨TNT.LOG_HEAD, 3, 0⟩

/-! ## SIG (R235, R267, R441) -/
def SIG.SIG_STAT : Reg := ⟨64, 0x040⟩
def SIG.SIG_STAT_WR_OVF : Fld := ⟨SIG.SIG_STAT, 31, 31⟩
def SIG.SIG_STAT_D_DENY : Fld := ⟨SIG.SIG_STAT, 30, 30⟩
def SIG.SIG_STAT_OVERRUN : Fld := ⟨SIG.SIG_STAT, 29, 29⟩
def SIG.SIG_STAT_OWNER : Fld := ⟨SIG.SIG_STAT, 2, 0⟩
def SIG.SIG_CNT_CTL : Reg := ⟨64, 0x044⟩
def SIG.SIG_CNT_CTL_CLEAR : Fld := ⟨SIG.SIG_CNT_CTL, 0, 0⟩
def SIG.OVERRUNS : Reg := ⟨64, 0x048⟩
def SIG.OVERRUNS_COUNT : Fld := ⟨SIG.OVERRUNS, 31, 0⟩
def SIG.FLT_STAT : Reg := ⟨64, 0x060⟩
def SIG.FLT_STAT_STATE : Fld := ⟨SIG.FLT_STAT, 31, 29⟩
def SIG.FLT_STAT_TARGET : Fld := ⟨SIG.FLT_STAT, 21, 16⟩
def SIG.LANE_FAULT : Reg := ⟨64, 0x064⟩
def SIG.LANE_FAULT_LANES : Fld := ⟨SIG.LANE_FAULT, 31, 0⟩
def SIG.RESIDUE_ERR : Reg := ⟨64, 0x068⟩
def SIG.RESIDUE_ERR_COUNT : Fld := ⟨SIG.RESIDUE_ERR, 31, 0⟩
def SIG.RECOMPUTES : Reg := ⟨64, 0x06C⟩
def SIG.RECOMPUTES_COUNT : Fld := ⟨SIG.RECOMPUTES, 31, 0⟩
def SIG.ECC_CORR : Reg := ⟨64, 0x070⟩
def SIG.ECC_CORR_COUNT : Fld := ⟨SIG.ECC_CORR, 31, 0⟩
def SIG.ECC_SUB : Reg := ⟨64, 0x074⟩
def SIG.ECC_SUB_COUNT : Fld := ⟨SIG.ECC_SUB, 31, 0⟩
def SIG.ECC_REBUILD : Reg := ⟨64, 0x078⟩
def SIG.ECC_REBUILD_COUNT : Fld := ⟨SIG.ECC_REBUILD, 31, 0⟩
def SIG.HARD_WORDS : Reg := ⟨64, 0x07C⟩
def SIG.HARD_WORDS_COUNT : Fld := ⟨SIG.HARD_WORDS, 15, 0⟩
def SIG.PATROL_PASSES : Reg := ⟨64, 0x080⟩
def SIG.PATROL_PASSES_COUNT : Fld := ⟨SIG.PATROL_PASSES, 31, 0⟩
def SIG.PATROL_MISM : Reg := ⟨64, 0x084⟩
def SIG.PATROL_MISM_COUNT : Fld := ⟨SIG.PATROL_MISM, 31, 0⟩
def SIG.TIP_IDX_HI : Reg := ⟨64, 0x088⟩
def SIG.TIP_IDX_HI_IDX : Fld := ⟨SIG.TIP_IDX_HI, 31, 0⟩
def SIG.TIP_IDX_LO : Reg := ⟨64, 0x08C⟩
def SIG.TIP_IDX_LO_IDX : Fld := ⟨SIG.TIP_IDX_LO, 31, 0⟩
def SIG.RETURN_IDX_HI : Reg := ⟨64, 0x090⟩
def SIG.RETURN_IDX_HI_IDX : Fld := ⟨SIG.RETURN_IDX_HI, 31, 0⟩
def SIG.RETURN_IDX_LO : Reg := ⟨64, 0x094⟩
def SIG.RETURN_IDX_LO_IDX : Fld := ⟨SIG.RETURN_IDX_LO, 31, 0⟩
def SIG.FLT_CNT_CTL : Reg := ⟨64, 0x098⟩
def SIG.FLT_CNT_CTL_CLEAR : Fld := ⟨SIG.FLT_CNT_CTL, 0, 0⟩
def SIG.BANK_STAT : Reg := ⟨64, 0x0C0⟩
def SIG.BANK_STAT_STATE : Fld := ⟨SIG.BANK_STAT, 31, 29⟩
def SIG.BANK_STAT_RECTO_BANK : Fld := ⟨SIG.BANK_STAT, 28, 28⟩
def SIG.BANK_STAT_QUEUED : Fld := ⟨SIG.BANK_STAT, 27, 27⟩
def SIG.BANK_STAT_LOCKED : Fld := ⟨SIG.BANK_STAT, 26, 26⟩
def SIG.BANK_STAT_QUEUED_TD : Fld := ⟨SIG.BANK_STAT, 5, 0⟩
def SIG.GEN : Reg := ⟨64, 0x0C4⟩
def SIG.GEN_GEN : Fld := ⟨SIG.GEN, 31, 0⟩
def SIG.TURN_IDX_HI : Reg := ⟨64, 0x0C8⟩
def SIG.TURN_IDX_HI_IDX : Fld := ⟨SIG.TURN_IDX_HI, 31, 0⟩
def SIG.TURN_IDX_LO : Reg := ⟨64, 0x0CC⟩
def SIG.TURN_IDX_LO_IDX : Fld := ⟨SIG.TURN_IDX_LO, 31, 0⟩
def SIG.TURN_RAMP : Reg := ⟨64, 0x0D0⟩
def SIG.TURN_RAMP_TD : Fld := ⟨SIG.TURN_RAMP, 21, 16⟩
def SIG.TURN_RAMP_RAMP : Fld := ⟨SIG.TURN_RAMP, 14, 0⟩
def SIG.UNLOCK_IDX_HI : Reg := ⟨64, 0x0D4⟩
def SIG.UNLOCK_IDX_HI_IDX : Fld := ⟨SIG.UNLOCK_IDX_HI, 31, 0⟩
def SIG.UNLOCK_IDX_LO : Reg := ⟨64, 0x0D8⟩
def SIG.UNLOCK_IDX_LO_IDX : Fld := ⟨SIG.UNLOCK_IDX_LO, 31, 0⟩
def SIG.QSTART_IDX_HI : Reg := ⟨64, 0x0DC⟩
def SIG.QSTART_IDX_HI_IDX : Fld := ⟨SIG.QSTART_IDX_HI, 31, 0⟩
def SIG.QSTART_IDX_LO : Reg := ⟨64, 0x0E0⟩
def SIG.QSTART_IDX_LO_IDX : Fld := ⟨SIG.QSTART_IDX_LO, 31, 0⟩
def SIG.EDIT_HELD : Reg := ⟨64, 0x0E4⟩
def SIG.EDIT_HELD_N : Fld := ⟨SIG.EDIT_HELD, 14, 0⟩
def SIG.TURNS : Reg := ⟨64, 0x0E8⟩
def SIG.TURNS_COUNT : Fld := ⟨SIG.TURNS, 31, 0⟩
def SIG.VERSO_CTL : Reg := ⟨64, 0x0EC⟩
def SIG.VERSO_CTL_CLEAR : Fld := ⟨SIG.VERSO_CTL, 1, 1⟩
def SIG.VERSO_CTL_REVERT : Fld := ⟨SIG.VERSO_CTL, 0, 0⟩
def SIG.VERSO_STAT : Reg := ⟨64, 0x0F0⟩
def SIG.VERSO_STAT_REFUSED : Fld := ⟨SIG.VERSO_STAT, 31, 31⟩
def SIG.OUT_CFG : Reg := ⟨64, 0x400⟩
def SIG.OUT_CFG_POL : Fld := ⟨SIG.OUT_CFG, 31, 31⟩
def SIG.OUT_CFG_DITHER : Fld := ⟨SIG.OUT_CFG, 30, 30⟩
def SIG.OUT_CFG_POP_MODE : Fld := ⟨SIG.OUT_CFG, 29, 28⟩
def SIG.OUT_CFG_D_STEP : Fld := ⟨SIG.OUT_CFG, 27, 27⟩
def SIG.OUT_CFG_N0 : Fld := ⟨SIG.OUT_CFG, 12, 0⟩
def SIG.OUT_TRIM : Reg := ⟨64, 0x404⟩
def SIG.OUT_TRIM_TRIM : Fld := ⟨SIG.OUT_TRIM, 15, 0⟩
def SIG.OUT_DLY : Reg := ⟨64, 0x408⟩
def SIG.OUT_DLY_D : Fld := ⟨SIG.OUT_DLY, 20, 0⟩
def SIG.OUT_CLIPS : Reg := ⟨64, 0x40C⟩
def SIG.OUT_CLIPS_COUNT : Fld := ⟨SIG.OUT_CLIPS, 31, 0⟩
def SIG.OUT_POP : Reg := ⟨64, 0x800⟩
def SIG.OUT_POP_TARGET : Fld := ⟨SIG.OUT_POP, 31, 16⟩
def SIG.OUT_POP_N : Fld := ⟨SIG.OUT_POP, 12, 0⟩
def SIG.OUT_ALLOC : Reg := ⟨64, 0x900⟩
def SIG.OUT_ALLOC_BLOCKS : Fld := ⟨SIG.OUT_ALLOC, 14, 0⟩

/-! ## Access tables -/
/-- The header of every page (R557). -/
def accHdr : List RegRow := [
  ⟨0x000, [⟨31, 0, .ro⟩]⟩,
  ⟨0x004, [⟨31, 0, .ro⟩]⟩,
  ⟨0x008, [⟨0, 0, .rw⟩]⟩,
  ⟨0x00C, [⟨31, 31, .ro⟩, ⟨30, 30, .ro⟩, ⟨29, 29, .ros⟩]⟩,
  ⟨0x010, [⟨31, 0, .w1c⟩]⟩,
  ⟨0x014, [⟨31, 0, .rw⟩]⟩,
  ⟨0x018, [⟨31, 0, .w1s⟩]⟩,
  ⟨0x01C, [⟨31, 31, .w1s⟩, ⟨0, 0, .rw⟩]⟩]
def accMODE : List RegRow := [
  ⟨0x040, [⟨31, 16, .ro⟩, ⟨12, 12, .ro⟩, ⟨11, 8, .ro⟩, ⟨7, 4, .ro⟩, ⟨3, 0, .ro⟩]⟩,
  ⟨0x044, [⟨9, 9, .ros⟩, ⟨8, 8, .ro⟩, ⟨7, 7, .ro⟩, ⟨6, 6, .ro⟩, ⟨5, 5, .ro⟩, ⟨4, 4, .ro⟩, ⟨3, 3, .ro⟩, ⟨2, 2, .ro⟩, ⟨1, 1, .ro⟩]⟩,
  ⟨0x048, [⟨31, 31, .rw⟩, ⟨30, 30, .rw⟩, ⟨15, 0, .rw⟩]⟩,
  ⟨0x04C, [⟨31, 16, .rw⟩, ⟨15, 0, .rw⟩]⟩,
  ⟨0x050, [⟨31, 0, .ro⟩]⟩,
  ⟨0x054, [⟨31, 0, .ro⟩]⟩,
  ⟨0x058, [⟨31, 0, .ro⟩]⟩,
  ⟨0x05C, [⟨31, 31, .ro⟩, ⟨30, 30, .ro⟩, ⟨29, 29, .ro⟩, ⟨25, 24, .ro⟩, ⟨21, 20, .ro⟩, ⟨16, 16, .ro⟩, ⟨15, 0, .ro⟩]⟩,
  ⟨0x060, [⟨15, 0, .ro⟩]⟩,
  ⟨0x064, [⟨1, 0, .rw⟩]⟩,
  ⟨0x068, [⟨15, 0, .ro⟩]⟩]
def accPWR : List RegRow := [
  ⟨0x040, [⟨21, 16, .ros⟩, ⟨5, 0, .ro⟩]⟩,
  ⟨0x044, [⟨31, 0, .ro⟩]⟩,
  ⟨0x048, [⟨31, 31, .ro⟩, ⟨15, 0, .ro⟩]⟩,
  ⟨0x080, [⟨5, 4, .rwb⟩, ⟨1, 0, .rwb⟩]⟩]
def accCLKG : List RegRow := [
  ⟨0x040, [⟨8, 8, .w1s⟩, ⟨0, 0, .rw⟩]⟩,
  ⟨0x044, [⟨15, 8, .ro⟩, ⟨2, 2, .ro⟩, ⟨1, 1, .ro⟩, ⟨0, 0, .ro⟩]⟩,
  ⟨0x048, [⟨1, 0, .rw⟩]⟩,
  ⟨0x04C, [⟨0, 0, .ro⟩]⟩,
  ⟨0x050, [⟨23, 16, .ro⟩, ⟨15, 8, .ro⟩, ⟨2, 2, .ro⟩, ⟨1, 1, .ro⟩, ⟨0, 0, .ro⟩]⟩,
  ⟨0x060, [⟨1, 1, .ro⟩, ⟨0, 0, .ro⟩]⟩,
  ⟨0x064, [⟨15, 0, .wo⟩]⟩,
  ⟨0x068, [⟨31, 0, .ro⟩]⟩,
  ⟨0x070, [⟨4, 0, .rw⟩]⟩,
  ⟨0x078, [⟨31, 0, .ro⟩]⟩]
def accREFS : List RegRow := [
  ⟨0x040, [⟨31, 31, .rwb⟩, ⟨26, 24, .rwb⟩, ⟨23, 16, .rwb⟩, ⟨15, 15, .rwb⟩, ⟨11, 0, .rwb⟩]⟩,
  ⟨0x044, [⟨31, 30, .ro⟩, ⟨29, 29, .ro⟩, ⟨28, 28, .ro⟩, ⟨23, 21, .ro⟩, ⟨20, 20, .ro⟩, ⟨15, 0, .ro⟩]⟩,
  ⟨0x048, [⟨31, 0, .ro⟩]⟩,
  ⟨0x04C, [⟨31, 0, .ro⟩]⟩,
  ⟨0x058, [⟨1, 0, .rwb⟩]⟩,
  ⟨0x060, [⟨15, 0, .rwb⟩]⟩,
  ⟨0x064, [⟨23, 0, .rwb⟩]⟩,
  ⟨0x068, [⟨31, 0, .rwb⟩]⟩,
  ⟨0x06C, [⟨15, 0, .rwb⟩]⟩,
  ⟨0x070, [⟨31, 0, .ro⟩]⟩,
  ⟨0x074, [⟨4, 4, .ro⟩, ⟨3, 0, .ro⟩]⟩,
  ⟨0x078, [⟨12, 0, .rwb⟩]⟩,
  ⟨0x07C, [⟨31, 16, .rwb⟩, ⟨15, 0, .rwb⟩]⟩,
  ⟨0x080, [⟨11, 0, .wo⟩]⟩,
  ⟨0x084, [⟨31, 16, .ro⟩, ⟨11, 0, .ro⟩]⟩,
  ⟨0x0C0, [⟨31, 0, .ro⟩]⟩,
  ⟨0x100, [⟨31, 31, .rw⟩, ⟨23, 16, .rw⟩, ⟨11, 8, .rw⟩, ⟨6, 4, .rw⟩, ⟨2, 0, .rw⟩]⟩,
  ⟨0x104, [⟨31, 24, .ro⟩, ⟨23, 16, .ro⟩, ⟨15, 13, .ro⟩, ⟨12, 12, .ro⟩, ⟨11, 8, .ro⟩, ⟨5, 0, .ro⟩]⟩,
  ⟨0x108, [⟨31, 0, .ro⟩]⟩,
  ⟨0x10C, [⟨31, 0, .ro⟩]⟩]
def accTIME : List RegRow := [
  ⟨0x040, [⟨31, 31, .w1s⟩, ⟨0, 0, .rw⟩]⟩,
  ⟨0x044, [⟨31, 31, .ros⟩, ⟨0, 0, .ro⟩]⟩,
  ⟨0x050, [⟨31, 0, .ro⟩]⟩,
  ⟨0x054, [⟨31, 0, .ro⟩]⟩,
  ⟨0x058, [⟨31, 0, .ro⟩]⟩,
  ⟨0x05C, [⟨31, 0, .ro⟩]⟩,
  ⟨0x060, [⟨31, 0, .ro⟩]⟩,
  ⟨0x064, [⟨31, 0, .ro⟩]⟩,
  ⟨0x068, [⟨31, 0, .rw⟩]⟩,
  ⟨0x06C, [⟨31, 0, .rw⟩]⟩,
  ⟨0x070, [⟨31, 0, .rw⟩]⟩,
  ⟨0x080, [⟨17, 8, .rw⟩, ⟨7, 4, .rw⟩, ⟨3, 0, .rw⟩]⟩,
  ⟨0x084, [⟨31, 16, .ro⟩, ⟨6, 4, .ro⟩, ⟨1, 1, .ro⟩, ⟨0, 0, .ro⟩]⟩,
  ⟨0x088, [⟨28, 0, .ro⟩]⟩,
  ⟨0x08C, [⟨31, 0, .ro⟩]⟩,
  ⟨0x090, [⟨7, 4, .rw⟩, ⟨3, 0, .rw⟩]⟩,
  ⟨0x094, [⟨31, 0, .rw⟩]⟩,
  ⟨0x098, [⟨0, 0, .ro⟩]⟩,
  ⟨0x0A0, [⟨31, 31, .rwb⟩, ⟨24, 24, .rwb⟩, ⟨23, 16, .rwb⟩, ⟨9, 9, .rwb⟩, ⟨8, 8, .rwb⟩, ⟨7, 4, .rwb⟩, ⟨3, 0, .rwb⟩]⟩,
  ⟨0x0A4, [⟨31, 30, .ro⟩, ⟨29, 29, .ro⟩, ⟨28, 28, .ro⟩, ⟨15, 0, .ro⟩]⟩,
  ⟨0x0A8, [⟨31, 0, .ro⟩]⟩,
  ⟨0x0AC, [⟨31, 0, .ro⟩]⟩,
  ⟨0x0B0, [⟨31, 24, .ro⟩, ⟨23, 16, .ro⟩, ⟨15, 0, .ro⟩]⟩,
  ⟨0x0B4, [⟨31, 0, .ro⟩]⟩,
  ⟨0x0B8, [⟨31, 0, .ro⟩]⟩,
  ⟨0x0BC, [⟨15, 0, .rwb⟩]⟩]
def accCOLL : List RegRow := [
  ⟨0x040, [⟨31, 16, .ro⟩, ⟨0, 0, .w1s⟩]⟩,
  ⟨0x044, [⟨31, 24, .ro⟩, ⟨23, 16, .ro⟩, ⟨15, 15, .ros⟩, ⟨14, 14, .ros⟩, ⟨13, 13, .ros⟩, ⟨6, 0, .ro⟩]⟩,
  ⟨0x048, [⟨31, 0, .ro⟩]⟩,
  ⟨0x04C, [⟨31, 0, .ro⟩]⟩,
  ⟨0x050, [⟨31, 0, .ro⟩]⟩,
  ⟨0x054, [⟨31, 0, .ro⟩]⟩,
  ⟨0x058, [⟨31, 0, .ro⟩]⟩,
  ⟨0x05C, [⟨31, 0, .ro⟩]⟩,
  ⟨0x060, [⟨31, 0, .ro⟩]⟩,
  ⟨0x064, [⟨31, 0, .ro⟩]⟩,
  ⟨0x068, [⟨5, 0, .rw⟩]⟩,
  ⟨0x06C, [⟨31, 0, .ro⟩]⟩,
  ⟨0x070, [⟨31, 0, .ro⟩]⟩,
  ⟨0x100, [⟨31, 31, .w1s⟩, ⟨30, 30, .w1s⟩, ⟨11, 8, .ro⟩, ⟨7, 7, .rw⟩, ⟨6, 4, .rw⟩, ⟨3, 0, .rw⟩]⟩,
  ⟨0x104, [⟨31, 0, .rw⟩]⟩,
  ⟨0x108, [⟨31, 0, .rw⟩]⟩,
  ⟨0x10C, [⟨31, 0, .rw⟩]⟩,
  ⟨0x110, [⟨31, 0, .rw⟩]⟩,
  ⟨0x114, [⟨31, 0, .rw⟩]⟩,
  ⟨0x118, [⟨31, 0, .rw⟩]⟩,
  ⟨0x11C, [⟨5, 5, .ro⟩, ⟨4, 4, .ro⟩, ⟨2, 0, .ro⟩]⟩]
def accEVTC : List RegRow := [
  ⟨0x040, [⟨31, 16, .rw⟩, ⟨7, 0, .rw⟩]⟩,
  ⟨0x044, [⟨3, 0, .rw⟩]⟩,
  ⟨0x048, [⟨15, 0, .rw⟩]⟩,
  ⟨0x04C, [⟨31, 31, .ros⟩, ⟨21, 16, .rw⟩, ⟨6, 0, .ro⟩]⟩,
  ⟨0x050, [⟨31, 0, .ro⟩]⟩,
  ⟨0x054, [⟨31, 0, .ro⟩]⟩,
  ⟨0x058, [⟨31, 0, .ro⟩]⟩,
  ⟨0x05C, [⟨31, 0, .ro⟩]⟩,
  ⟨0x060, [⟨7, 0, .rw⟩]⟩]
def accNETP : List RegRow := [
  ⟨0x040, [⟨31, 31, .rwb⟩, ⟨12, 12, .rwb⟩, ⟨6, 4, .rwb⟩, ⟨2, 0, .rwb⟩]⟩,
  ⟨0x044, [⟨31, 31, .ro⟩, ⟨30, 30, .ro⟩, ⟨29, 29, .ro⟩, ⟨28, 28, .ro⟩, ⟨27, 27, .ros⟩, ⟨15, 0, .ro⟩]⟩,
  ⟨0x048, [⟨13, 0, .rw⟩]⟩,
  ⟨0x04C, [⟨15, 0, .rw⟩]⟩,
  ⟨0x050, [⟨31, 0, .rw⟩]⟩,
  ⟨0x060, [⟨31, 0, .ro⟩]⟩,
  ⟨0x064, [⟨31, 0, .ro⟩]⟩,
  ⟨0x068, [⟨31, 0, .rw⟩]⟩,
  ⟨0x06C, [⟨31, 0, .rw⟩]⟩,
  ⟨0x070, [⟨31, 0, .rw⟩]⟩,
  ⟨0x074, [⟨0, 0, .w1s⟩]⟩,
  ⟨0x080, [⟨31, 31, .rwb⟩, ⟨30, 30, .w1s⟩, ⟨24, 16, .rw⟩, ⟨8, 0, .rw⟩]⟩,
  ⟨0x084, [⟨31, 31, .ro⟩, ⟨30, 30, .ro⟩, ⟨29, 29, .ro⟩, ⟨28, 28, .ro⟩]⟩,
  ⟨0x090, [⟨15, 0, .rw⟩]⟩,
  ⟨0x0A0, [⟨19, 0, .rw⟩]⟩,
  ⟨0x0C0, [⟨2, 2, .rw⟩, ⟨1, 1, .w1s⟩, ⟨0, 0, .rw⟩]⟩,
  ⟨0x0C4, [⟨31, 31, .ro⟩, ⟨30, 30, .ro⟩, ⟨23, 16, .ro⟩, ⟨11, 8, .ro⟩, ⟨7, 7, .ro⟩, ⟨5, 0, .ro⟩]⟩,
  ⟨0x0D0, [⟨3, 0, .rw⟩]⟩,
  ⟨0x0E0, [⟨11, 0, .rw⟩]⟩,
  ⟨0x100, [⟨31, 24, .rw⟩, ⟨19, 0, .rw⟩]⟩,
  ⟨0x140, [⟨31, 0, .ro⟩]⟩,
  ⟨0x200, [⟨31, 0, .ro⟩]⟩,
  ⟨0x204, [⟨31, 0, .ro⟩]⟩,
  ⟨0x208, [⟨31, 0, .ro⟩]⟩,
  ⟨0x20C, [⟨31, 0, .ro⟩]⟩,
  ⟨0x210, [⟨31, 0, .ro⟩]⟩,
  ⟨0x214, [⟨31, 0, .ro⟩]⟩,
  ⟨0x218, [⟨31, 0, .ro⟩]⟩,
  ⟨0x21C, [⟨31, 0, .ro⟩]⟩,
  ⟨0x220, [⟨31, 0, .ro⟩]⟩,
  ⟨0x224, [⟨31, 0, .ro⟩]⟩,
  ⟨0x228, [⟨31, 0, .ro⟩]⟩,
  ⟨0x22C, [⟨31, 0, .ro⟩]⟩,
  ⟨0x230, [⟨31, 0, .ro⟩]⟩,
  ⟨0x234, [⟨31, 0, .ro⟩]⟩,
  ⟨0x238, [⟨31, 0, .ro⟩]⟩,
  ⟨0x23C, [⟨31, 0, .ro⟩]⟩,
  ⟨0x240, [⟨31, 0, .ro⟩]⟩,
  ⟨0x250, [⟨31, 0, .ro⟩]⟩,
  ⟨0x254, [⟨31, 0, .ro⟩]⟩,
  ⟨0x258, [⟨31, 0, .ro⟩]⟩,
  ⟨0x25C, [⟨31, 0, .ro⟩]⟩,
  ⟨0x260, [⟨31, 0, .ro⟩]⟩,
  ⟨0x264, [⟨31, 0, .ro⟩]⟩,
  ⟨0x270, [⟨31, 0, .ro⟩]⟩,
  ⟨0x274, [⟨31, 0, .ro⟩]⟩,
  ⟨0x278, [⟨31, 0, .ro⟩]⟩,
  ⟨0x27C, [⟨31, 0, .ro⟩]⟩,
  ⟨0x280, [⟨31, 0, .ro⟩]⟩,
  ⟨0x284, [⟨31, 0, .ro⟩]⟩,
  ⟨0x288, [⟨31, 0, .ro⟩]⟩,
  ⟨0x28C, [⟨31, 0, .ro⟩]⟩]
def accSTRX : List RegRow := [
  ⟨0x040, [⟨9, 0, .rw⟩]⟩,
  ⟨0x044, [⟨31, 31, .w1s⟩, ⟨30, 30, .w1s⟩, ⟨29, 29, .ro⟩, ⟨15, 0, .ro⟩]⟩,
  ⟨0x050, [⟨31, 31, .rw⟩, ⟨30, 30, .rw⟩, ⟨29, 29, .rw⟩, ⟨28, 28, .rw⟩, ⟨27, 27, .rw⟩, ⟨26, 24, .rw⟩, ⟨23, 22, .rw⟩, ⟨21, 16, .rw⟩, ⟨14, 8, .rw⟩, ⟨6, 4, .rw⟩]⟩,
  ⟨0x054, [⟨12, 0, .rw⟩]⟩,
  ⟨0x058, [⟨12, 0, .rw⟩]⟩,
  ⟨0x05C, [⟨13, 0, .rw⟩]⟩,
  ⟨0x060, [⟨13, 0, .rw⟩]⟩,
  ⟨0x064, [⟨31, 0, .rw⟩]⟩,
  ⟨0x068, [⟨31, 0, .rw⟩]⟩,
  ⟨0x06C, [⟨31, 31, .rw⟩, ⟨30, 30, .rw⟩, ⟨29, 29, .rw⟩, ⟨15, 0, .rw⟩]⟩,
  ⟨0x070, [⟨31, 31, .rw⟩, ⟨30, 30, .rw⟩, ⟨29, 29, .rw⟩, ⟨15, 0, .rw⟩]⟩,
  ⟨0x074, [⟨31, 0, .rw⟩]⟩,
  ⟨0x078, [⟨31, 0, .rw⟩]⟩,
  ⟨0x07C, [⟨31, 0, .rw⟩]⟩,
  ⟨0x080, [⟨31, 0, .rw⟩]⟩,
  ⟨0x084, [⟨31, 0, .rw⟩]⟩,
  ⟨0x088, [⟨31, 0, .rw⟩]⟩,
  ⟨0x08C, [⟨31, 0, .rw⟩]⟩,
  ⟨0x090, [⟨31, 0, .rw⟩]⟩,
  ⟨0x094, [⟨31, 0, .rw⟩]⟩,
  ⟨0x098, [⟨31, 0, .rw⟩]⟩,
  ⟨0x09C, [⟨31, 0, .rw⟩]⟩,
  ⟨0x0A0, [⟨31, 0, .rw⟩]⟩,
  ⟨0x0A4, [⟨31, 0, .rw⟩]⟩,
  ⟨0x0A8, [⟨31, 0, .rw⟩]⟩,
  ⟨0x0AC, [⟨31, 0, .rw⟩]⟩,
  ⟨0x0B0, [⟨31, 0, .rw⟩]⟩,
  ⟨0x0B4, [⟨2, 0, .ro⟩]⟩,
  ⟨0x0B8, [⟨21, 0, .ro⟩]⟩,
  ⟨0x0C0, [⟨31, 29, .ro⟩, ⟨28, 28, .ro⟩, ⟨27, 27, .ro⟩, ⟨26, 26, .ro⟩, ⟨25, 25, .ro⟩]⟩,
  ⟨0x0C4, [⟨31, 0, .ro⟩]⟩,
  ⟨0x0C8, [⟨31, 0, .ro⟩]⟩,
  ⟨0x0CC, [⟨31, 0, .ro⟩]⟩,
  ⟨0x0D0, [⟨31, 0, .ro⟩]⟩,
  ⟨0x100, [⟨31, 0, .ro⟩]⟩,
  ⟨0x104, [⟨31, 0, .ro⟩]⟩,
  ⟨0x108, [⟨31, 0, .ro⟩]⟩,
  ⟨0x10C, [⟨31, 0, .ro⟩]⟩,
  ⟨0x110, [⟨31, 0, .ro⟩]⟩,
  ⟨0x114, [⟨31, 0, .ro⟩]⟩,
  ⟨0x118, [⟨31, 0, .ro⟩]⟩,
  ⟨0x11C, [⟨31, 0, .ro⟩]⟩,
  ⟨0x120, [⟨31, 0, .ro⟩]⟩,
  ⟨0x124, [⟨31, 0, .ro⟩]⟩,
  ⟨0x128, [⟨31, 0, .ro⟩]⟩,
  ⟨0x12C, [⟨31, 0, .ro⟩]⟩,
  ⟨0x130, [⟨31, 0, .ro⟩]⟩,
  ⟨0x134, [⟨31, 0, .ro⟩]⟩,
  ⟨0x138, [⟨31, 0, .ro⟩]⟩,
  ⟨0x13C, [⟨31, 0, .ro⟩]⟩,
  ⟨0x140, [⟨31, 0, .ro⟩]⟩,
  ⟨0x144, [⟨31, 0, .ro⟩]⟩,
  ⟨0x148, [⟨31, 0, .ro⟩]⟩,
  ⟨0x14C, [⟨31, 0, .ro⟩]⟩,
  ⟨0x180, [⟨22, 0, .ro⟩]⟩,
  ⟨0x184, [⟨13, 0, .ro⟩]⟩,
  ⟨0x188, [⟨10, 0, .ro⟩]⟩,
  ⟨0x18C, [⟨1, 1, .w1s⟩, ⟨0, 0, .w1s⟩]⟩,
  ⟨0x190, [⟨31, 0, .ro⟩]⟩,
  ⟨0x194, [⟨31, 31, .ros⟩, ⟨23, 16, .rw⟩, ⟨8, 0, .ro⟩]⟩]
def accSTTX : List RegRow := [
  ⟨0x040, [⟨9, 0, .rw⟩]⟩,
  ⟨0x044, [⟨31, 31, .w1s⟩, ⟨30, 30, .w1s⟩, ⟨29, 29, .ro⟩, ⟨15, 0, .ro⟩]⟩,
  ⟨0x050, [⟨31, 31, .rw⟩, ⟨30, 30, .rw⟩, ⟨29, 29, .rw⟩, ⟨28, 28, .rw⟩, ⟨27, 27, .rw⟩, ⟨26, 24, .rw⟩, ⟨23, 22, .rw⟩, ⟨21, 16, .rw⟩, ⟨15, 15, .rw⟩, ⟨14, 8, .rw⟩, ⟨6, 4, .rw⟩]⟩,
  ⟨0x054, [⟨12, 0, .rw⟩]⟩,
  ⟨0x058, [⟨9, 0, .rw⟩]⟩,
  ⟨0x05C, [⟨15, 0, .rw⟩]⟩,
  ⟨0x060, [⟨31, 0, .rw⟩]⟩,
  ⟨0x064, [⟨31, 0, .rw⟩]⟩,
  ⟨0x068, [⟨15, 0, .rw⟩]⟩,
  ⟨0x06C, [⟨31, 31, .rw⟩, ⟨30, 30, .rw⟩, ⟨29, 29, .rw⟩, ⟨28, 28, .rw⟩, ⟨26, 24, .rw⟩, ⟨15, 0, .rw⟩]⟩,
  ⟨0x070, [⟨31, 31, .rw⟩, ⟨30, 30, .rw⟩, ⟨29, 29, .rw⟩, ⟨28, 28, .rw⟩, ⟨26, 24, .rw⟩, ⟨15, 0, .rw⟩]⟩,
  ⟨0x074, [⟨27, 16, .rw⟩, ⟨15, 0, .rw⟩]⟩,
  ⟨0x078, [⟨27, 16, .rw⟩, ⟨15, 0, .rw⟩]⟩,
  ⟨0x07C, [⟨13, 8, .rw⟩, ⟨7, 0, .rw⟩]⟩,
  ⟨0x080, [⟨31, 0, .rw⟩]⟩,
  ⟨0x084, [⟨31, 0, .rw⟩]⟩,
  ⟨0x088, [⟨31, 0, .rw⟩]⟩,
  ⟨0x08C, [⟨31, 0, .rw⟩]⟩,
  ⟨0x090, [⟨31, 0, .rw⟩]⟩,
  ⟨0x094, [⟨31, 0, .rw⟩]⟩,
  ⟨0x098, [⟨31, 0, .rw⟩]⟩,
  ⟨0x09C, [⟨31, 0, .rw⟩]⟩,
  ⟨0x0A0, [⟨2, 0, .ro⟩]⟩,
  ⟨0x0B0, [⟨31, 0, .rw⟩]⟩,
  ⟨0x0B4, [⟨31, 0, .rw⟩]⟩,
  ⟨0x0B8, [⟨31, 0, .rw⟩]⟩,
  ⟨0x0BC, [⟨31, 0, .rw⟩]⟩,
  ⟨0x0C0, [⟨31, 0, .rw⟩]⟩,
  ⟨0x0C4, [⟨31, 0, .rw⟩]⟩,
  ⟨0x0C8, [⟨29, 16, .ro⟩, ⟨13, 0, .ro⟩]⟩,
  ⟨0x0D0, [⟨31, 29, .ro⟩, ⟨27, 27, .ro⟩, ⟨26, 26, .ro⟩, ⟨25, 25, .ro⟩]⟩,
  ⟨0x0D4, [⟨31, 0, .ro⟩]⟩,
  ⟨0x100, [⟨31, 0, .ro⟩]⟩,
  ⟨0x104, [⟨31, 0, .ro⟩]⟩,
  ⟨0x108, [⟨31, 0, .ro⟩]⟩,
  ⟨0x10C, [⟨31, 0, .ro⟩]⟩,
  ⟨0x110, [⟨31, 0, .ro⟩]⟩,
  ⟨0x114, [⟨31, 0, .ro⟩]⟩,
  ⟨0x118, [⟨31, 0, .ro⟩]⟩,
  ⟨0x11C, [⟨31, 0, .ro⟩]⟩,
  ⟨0x140, [⟨12, 0, .rw⟩]⟩,
  ⟨0x144, [⟨15, 13, .rwb⟩, ⟨12, 0, .rwb⟩]⟩,
  ⟨0x148, [⟨31, 31, .ro⟩, ⟨30, 30, .ros⟩]⟩,
  ⟨0x180, [⟨13, 0, .ro⟩]⟩,
  ⟨0x184, [⟨12, 0, .ro⟩]⟩,
  ⟨0x188, [⟨10, 0, .ro⟩]⟩,
  ⟨0x18C, [⟨1, 1, .w1s⟩, ⟨0, 0, .w1s⟩]⟩,
  ⟨0x1A0, [⟨16, 0, .ro⟩]⟩,
  ⟨0x1B0, [⟨31, 31, .rw⟩, ⟨8, 0, .rw⟩]⟩]
def accSRCB : List RegRow := [
  ⟨0x040, [⟨7, 0, .rw⟩]⟩,
  ⟨0x044, [⟨31, 31, .w1s⟩, ⟨10, 8, .rw⟩, ⟨5, 4, .rw⟩]⟩,
  ⟨0x048, [⟨31, 29, .ro⟩, ⟨28, 26, .ro⟩, ⟨22, 20, .ro⟩, ⟨19, 19, .ros⟩, ⟨11, 0, .ro⟩]⟩,
  ⟨0x04C, [⟨15, 12, .ro⟩, ⟨9, 0, .ro⟩]⟩,
  ⟨0x050, [⟨31, 0, .ro⟩]⟩,
  ⟨0x054, [⟨31, 0, .ro⟩]⟩,
  ⟨0x058, [⟨31, 0, .ro⟩]⟩,
  ⟨0x05C, [⟨15, 0, .ro⟩]⟩,
  ⟨0x060, [⟨15, 0, .ro⟩]⟩,
  ⟨0x064, [⟨17, 0, .ro⟩]⟩,
  ⟨0x068, [⟨31, 16, .ro⟩, ⟨15, 0, .ro⟩]⟩,
  ⟨0x06C, [⟨31, 0, .ro⟩]⟩,
  ⟨0x070, [⟨15, 0, .ro⟩]⟩,
  ⟨0x074, [⟨0, 0, .w1s⟩]⟩,
  ⟨0x100, [⟨24, 16, .ro⟩, ⟨11, 0, .ro⟩]⟩,
  ⟨0x104, [⟨3, 0, .rw⟩]⟩,
  ⟨0x108, [⟨15, 12, .rw⟩, ⟨9, 0, .rw⟩]⟩,
  ⟨0x10C, [⟨31, 28, .ro⟩, ⟨7, 0, .ro⟩]⟩,
  ⟨0x110, [⟨31, 0, .ro⟩]⟩,
  ⟨0x114, [⟨31, 31, .ros⟩]⟩,
  ⟨0x120, [⟨31, 0, .ro⟩]⟩]
def accXPNT : List RegRow := [
  ⟨0x040, [⟨11, 0, .rw⟩]⟩,
  ⟨0x044, [⟨15, 13, .rwb⟩, ⟨12, 0, .rwb⟩]⟩,
  ⟨0x048, [⟨31, 31, .rwb⟩, ⟨30, 30, .rwb⟩, ⟨29, 29, .rwb⟩, ⟨15, 0, .rwb⟩]⟩,
  ⟨0x04C, [⟨31, 31, .ro⟩, ⟨30, 30, .ro⟩, ⟨29, 29, .ro⟩, ⟨18, 16, .ro⟩]⟩,
  ⟨0x050, [⟨31, 0, .ro⟩]⟩,
  ⟨0x054, [⟨1, 1, .w1s⟩, ⟨0, 0, .w1s⟩]⟩,
  ⟨0x058, [⟨31, 31, .ros⟩, ⟨30, 30, .ros⟩, ⟨29, 29, .ros⟩, ⟨5, 0, .ro⟩]⟩,
  ⟨0x05C, [⟨31, 0, .rw⟩]⟩,
  ⟨0x060, [⟨16, 0, .ro⟩]⟩,
  ⟨0x064, [⟨31, 31, .ro⟩, ⟨30, 30, .ros⟩]⟩,
  ⟨0x100, [⟨3, 0, .rw⟩]⟩,
  ⟨0x104, [⟨22, 0, .rw⟩]⟩,
  ⟨0x108, [⟨15, 0, .rw⟩]⟩]
def accSCNE : List RegRow := [
  ⟨0x040, [⟨5, 0, .rw⟩]⟩,
  ⟨0x044, [⟨31, 31, .w1s⟩, ⟨14, 0, .rwb⟩]⟩,
  ⟨0x048, [⟨31, 0, .rwb⟩]⟩,
  ⟨0x04C, [⟨31, 0, .rwb⟩]⟩,
  ⟨0x050, [⟨31, 31, .ro⟩, ⟨30, 30, .ros⟩, ⟨29, 29, .ros⟩, ⟨28, 28, .ros⟩, ⟨26, 24, .ro⟩, ⟨15, 0, .ro⟩]⟩,
  ⟨0x054, [⟨31, 0, .ro⟩]⟩,
  ⟨0x058, [⟨31, 0, .ro⟩]⟩,
  ⟨0x05C, [⟨31, 0, .ro⟩]⟩,
  ⟨0x060, [⟨31, 0, .ro⟩]⟩,
  ⟨0x064, [⟨31, 31, .w1s⟩, ⟨30, 30, .w1s⟩]⟩,
  ⟨0x080, [⟨31, 31, .ros⟩, ⟨14, 0, .ro⟩]⟩,
  ⟨0x084, [⟨30, 16, .ro⟩, ⟨14, 0, .ro⟩]⟩,
  ⟨0x088, [⟨31, 0, .ro⟩]⟩,
  ⟨0x08C, [⟨31, 0, .ro⟩]⟩,
  ⟨0x090, [⟨31, 31, .ro⟩, ⟨23, 0, .ro⟩]⟩]
def accMETR : List RegRow := [
  ⟨0x040, [⟨12, 0, .rw⟩]⟩,
  ⟨0x044, [⟨31, 31, .w1s⟩, ⟨10, 8, .rwb⟩, ⟨2, 0, .rwb⟩]⟩,
  ⟨0x048, [⟨31, 16, .ro⟩, ⟨15, 0, .ro⟩]⟩,
  ⟨0x04C, [⟨31, 16, .ro⟩, ⟨15, 0, .ro⟩]⟩,
  ⟨0x050, [⟨31, 31, .ro⟩, ⟨30, 30, .ro⟩, ⟨23, 16, .ro⟩, ⟨12, 0, .ro⟩]⟩,
  ⟨0x054, [⟨31, 0, .ro⟩]⟩,
  ⟨0x058, [⟨31, 0, .ro⟩]⟩,
  ⟨0x05C, [⟨31, 0, .ro⟩]⟩,
  ⟨0x060, [⟨0, 0, .w1s⟩]⟩,
  ⟨0x080, [⟨31, 31, .rwb⟩, ⟨30, 30, .rwb⟩, ⟨15, 0, .rwb⟩]⟩,
  ⟨0x084, [⟨15, 0, .rwb⟩]⟩,
  ⟨0x0C0, [⟨31, 16, .rwb⟩, ⟨15, 0, .rwb⟩]⟩,
  ⟨0x0E0, [⟨15, 0, .rwb⟩]⟩,
  ⟨0x100, [⟨31, 0, .ro⟩]⟩,
  ⟨0x300, [⟨31, 31, .rw⟩, ⟨30, 30, .rw⟩, ⟨18, 16, .ro⟩, ⟨15, 0, .rw⟩]⟩,
  ⟨0x304, [⟨15, 0, .rw⟩]⟩,
  ⟨0x308, [⟨28, 16, .rw⟩, ⟨11, 0, .rw⟩]⟩,
  ⟨0x30C, [⟨28, 16, .rw⟩, ⟨11, 0, .rw⟩]⟩,
  ⟨0x310, [⟨31, 0, .rw⟩]⟩,
  ⟨0x314, [⟨31, 0, .rw⟩]⟩,
  ⟨0x318, [⟨15, 0, .rw⟩]⟩,
  ⟨0x31C, [⟨16, 0, .ro⟩]⟩,
  ⟨0x320, [⟨15, 0, .ro⟩]⟩,
  ⟨0x324, [⟨15, 0, .rw⟩]⟩,
  ⟨0x328, [⟨31, 0, .rw⟩]⟩,
  ⟨0x32C, [⟨31, 0, .rw⟩]⟩,
  ⟨0x330, [⟨31, 31, .ros⟩, ⟨30, 30, .ros⟩, ⟨15, 0, .ro⟩]⟩,
  ⟨0x334, [⟨31, 0, .ro⟩]⟩]
def accSAPG : List RegRow := [
  ⟨0x040, [⟨31, 31, .w1s⟩]⟩,
  ⟨0x044, [⟨11, 8, .ro⟩, ⟨3, 0, .ro⟩]⟩,
  ⟨0x100, [⟨31, 31, .rw⟩, ⟨30, 30, .rw⟩, ⟨29, 29, .rw⟩, ⟨28, 28, .rw⟩, ⟨27, 27, .w1s⟩, ⟨5, 4, .rw⟩, ⟨1, 0, .rw⟩]⟩,
  ⟨0x104, [⟨31, 30, .ro⟩, ⟨29, 29, .ro⟩, ⟨28, 28, .ro⟩, ⟨27, 27, .ros⟩, ⟨26, 26, .ros⟩, ⟨7, 0, .ro⟩]⟩,
  ⟨0x108, [⟨15, 13, .rwb⟩, ⟨12, 0, .rwb⟩]⟩,
  ⟨0x10C, [⟨15, 13, .rwb⟩, ⟨12, 0, .rwb⟩]⟩,
  ⟨0x110, [⟨31, 0, .ro⟩]⟩,
  ⟨0x114, [⟨31, 0, .ro⟩]⟩,
  ⟨0x118, [⟨31, 0, .ro⟩]⟩,
  ⟨0x11C, [⟨31, 0, .ro⟩]⟩,
  ⟨0x120, [⟨31, 0, .ro⟩]⟩,
  ⟨0x124, [⟨31, 0, .ro⟩]⟩,
  ⟨0x128, [⟨0, 0, .w1s⟩]⟩,
  ⟨0x12C, [⟨17, 0, .rw⟩]⟩]
def accAESP : List RegRow := [
  ⟨0x100, [⟨31, 31, .rw⟩, ⟨30, 30, .rw⟩, ⟨29, 29, .rw⟩]⟩,
  ⟨0x104, [⟨31, 30, .ro⟩, ⟨29, 29, .ro⟩, ⟨28, 28, .ros⟩, ⟨27, 26, .ro⟩, ⟨25, 25, .ros⟩, ⟨2, 0, .ro⟩]⟩,
  ⟨0x108, [⟨15, 0, .ro⟩]⟩,
  ⟨0x10C, [⟨31, 0, .ro⟩]⟩,
  ⟨0x110, [⟨31, 0, .ro⟩]⟩,
  ⟨0x114, [⟨31, 0, .ro⟩]⟩,
  ⟨0x118, [⟨31, 0, .ro⟩]⟩,
  ⟨0x11C, [⟨31, 0, .ro⟩]⟩,
  ⟨0x120, [⟨31, 0, .ro⟩]⟩,
  ⟨0x124, [⟨31, 0, .ro⟩]⟩,
  ⟨0x128, [⟨0, 0, .w1s⟩]⟩,
  ⟨0x12C, [⟨17, 0, .rw⟩]⟩,
  ⟨0x140, [⟨31, 0, .ro⟩]⟩,
  ⟨0x144, [⟨31, 0, .ro⟩]⟩,
  ⟨0x148, [⟨31, 0, .ro⟩]⟩,
  ⟨0x14C, [⟨31, 0, .ro⟩]⟩,
  ⟨0x150, [⟨31, 0, .ro⟩]⟩,
  ⟨0x154, [⟨31, 0, .ro⟩]⟩,
  ⟨0x158, [⟨31, 0, .ro⟩]⟩,
  ⟨0x15C, [⟨31, 0, .ro⟩]⟩,
  ⟨0x160, [⟨31, 0, .ro⟩]⟩,
  ⟨0x164, [⟨31, 0, .ro⟩]⟩,
  ⟨0x168, [⟨31, 0, .ro⟩]⟩,
  ⟨0x16C, [⟨31, 0, .ro⟩]⟩,
  ⟨0x180, [⟨31, 0, .ro⟩]⟩,
  ⟨0x184, [⟨31, 0, .ro⟩]⟩,
  ⟨0x188, [⟨31, 0, .ro⟩]⟩,
  ⟨0x18C, [⟨31, 0, .ro⟩]⟩,
  ⟨0x190, [⟨31, 0, .ro⟩]⟩,
  ⟨0x194, [⟨31, 0, .ro⟩]⟩,
  ⟨0x198, [⟨31, 0, .ro⟩]⟩,
  ⟨0x19C, [⟨31, 0, .ro⟩]⟩,
  ⟨0x1A0, [⟨31, 0, .ro⟩]⟩,
  ⟨0x1A4, [⟨31, 0, .ro⟩]⟩,
  ⟨0x1A8, [⟨31, 0, .ro⟩]⟩,
  ⟨0x1AC, [⟨31, 0, .ro⟩]⟩,
  ⟨0x900, [⟨31, 31, .rw⟩, ⟨30, 30, .rw⟩, ⟨29, 29, .rw⟩, ⟨28, 28, .w1s⟩, ⟨27, 27, .w1s⟩, ⟨2, 0, .rw⟩]⟩,
  ⟨0x904, [⟨31, 30, .ro⟩, ⟨29, 29, .ro⟩, ⟨28, 28, .ros⟩]⟩,
  ⟨0x908, [⟨15, 13, .rwb⟩, ⟨12, 0, .rwb⟩]⟩,
  ⟨0x90C, [⟨15, 13, .rwb⟩, ⟨12, 0, .rwb⟩]⟩,
  ⟨0x910, [⟨31, 0, .rwb⟩]⟩,
  ⟨0x914, [⟨31, 0, .rwb⟩]⟩,
  ⟨0x918, [⟨31, 0, .rwb⟩]⟩,
  ⟨0x91C, [⟨31, 0, .rwb⟩]⟩,
  ⟨0x920, [⟨31, 0, .rwb⟩]⟩,
  ⟨0x924, [⟨31, 0, .rwb⟩]⟩,
  ⟨0x928, [⟨31, 0, .rwb⟩]⟩,
  ⟨0x92C, [⟨31, 0, .rwb⟩]⟩,
  ⟨0x930, [⟨31, 0, .rwb⟩]⟩,
  ⟨0x934, [⟨31, 0, .rwb⟩]⟩,
  ⟨0x938, [⟨31, 0, .rwb⟩]⟩,
  ⟨0x93C, [⟨31, 0, .rwb⟩]⟩,
  ⟨0x940, [⟨31, 0, .ro⟩]⟩]
def accSYNC : List RegRow := [
  ⟨0x040, [⟨1, 1, .rw⟩, ⟨0, 0, .rw⟩]⟩,
  ⟨0x044, [⟨2, 2, .ro⟩, ⟨1, 1, .ro⟩, ⟨0, 0, .ro⟩]⟩,
  ⟨0x048, [⟨31, 0, .rw⟩]⟩,
  ⟨0x04C, [⟨31, 0, .rw⟩]⟩,
  ⟨0x050, [⟨31, 31, .rw⟩, ⟨2, 0, .rw⟩]⟩,
  ⟨0x054, [⟨31, 31, .rw⟩, ⟨18, 0, .rw⟩]⟩,
  ⟨0x060, [⟨31, 31, .rw⟩, ⟨4, 4, .rw⟩, ⟨1, 0, .rw⟩]⟩]
def accULNK : List RegRow := [
  ⟨0x040, [⟨31, 31, .rw⟩, ⟨30, 30, .w1s⟩, ⟨3, 0, .rw⟩]⟩,
  ⟨0x044, [⟨31, 29, .ro⟩, ⟨28, 28, .ro⟩, ⟨27, 27, .ros⟩, ⟨19, 16, .ro⟩, ⟨15, 0, .ro⟩]⟩,
  ⟨0x048, [⟨31, 31, .ro⟩, ⟨27, 24, .ro⟩, ⟨18, 16, .ro⟩, ⟨15, 0, .ro⟩]⟩,
  ⟨0x04C, [⟨15, 0, .ro⟩]⟩,
  ⟨0x050, [⟨31, 0, .ro⟩]⟩,
  ⟨0x054, [⟨31, 0, .rw⟩]⟩,
  ⟨0x058, [⟨31, 0, .ro⟩]⟩,
  ⟨0x100, [⟨31, 0, .ro⟩]⟩,
  ⟨0x104, [⟨31, 0, .ro⟩]⟩,
  ⟨0x108, [⟨31, 0, .ro⟩]⟩,
  ⟨0x10C, [⟨31, 0, .ro⟩]⟩,
  ⟨0x110, [⟨31, 0, .ro⟩]⟩,
  ⟨0x114, [⟨31, 0, .ro⟩]⟩,
  ⟨0x118, [⟨31, 0, .ro⟩]⟩,
  ⟨0x11C, [⟨31, 0, .ro⟩]⟩,
  ⟨0x120, [⟨31, 0, .ro⟩]⟩,
  ⟨0x124, [⟨31, 0, .ro⟩]⟩,
  ⟨0x128, [⟨31, 0, .ro⟩]⟩,
  ⟨0x12C, [⟨31, 0, .ro⟩]⟩,
  ⟨0x180, [⟨0, 0, .w1s⟩]⟩,
  ⟨0x200, [⟨29, 28, .ro⟩, ⟨3, 0, .ro⟩]⟩,
  ⟨0x204, [⟨27, 24, .ro⟩, ⟨19, 16, .ro⟩, ⟨11, 8, .ro⟩, ⟨0, 0, .ro⟩]⟩,
  ⟨0x208, [⟨5, 0, .ro⟩, ⟨13, 8, .ro⟩, ⟨21, 16, .ro⟩]⟩,
  ⟨0x20C, [⟨1, 0, .ro⟩, ⟨3, 2, .ro⟩, ⟨5, 4, .ro⟩, ⟨7, 6, .ro⟩, ⟨9, 8, .ro⟩, ⟨11, 10, .ro⟩, ⟨13, 12, .ro⟩, ⟨15, 14, .ro⟩, ⟨17, 16, .ro⟩, ⟨19, 18, .ro⟩, ⟨21, 20, .ro⟩, ⟨23, 22, .ro⟩, ⟨25, 24, .ro⟩, ⟨27, 26, .ro⟩, ⟨29, 28, .ro⟩, ⟨31, 30, .ro⟩]⟩,
  ⟨0x210, [⟨31, 30, .ro⟩, ⟨29, 29, .ro⟩, ⟨28, 28, .ros⟩, ⟨25, 24, .ro⟩, ⟨23, 23, .ro⟩, ⟨15, 0, .ro⟩]⟩,
  ⟨0x214, [⟨31, 0, .ro⟩]⟩,
  ⟨0x218, [⟨7, 0, .ro⟩]⟩,
  ⟨0x21C, [⟨31, 0, .ro⟩]⟩,
  ⟨0x220, [⟨31, 0, .ro⟩]⟩,
  ⟨0x224, [⟨31, 0, .ro⟩]⟩,
  ⟨0x228, [⟨31, 0, .ro⟩]⟩,
  ⟨0x22C, [⟨0, 0, .w1s⟩]⟩,
  ⟨0x240, [⟨11, 0, .rw⟩]⟩,
  ⟨0x244, [⟨15, 13, .rwb⟩, ⟨12, 0, .rwb⟩]⟩,
  ⟨0x248, [⟨31, 31, .ros⟩, ⟨11, 0, .ro⟩]⟩,
  ⟨0x24C, [⟨0, 0, .rw⟩]⟩,
  ⟨0x250, [⟨31, 31, .rw⟩, ⟨1, 0, .rw⟩]⟩,
  ⟨0x254, [⟨31, 0, .rw⟩]⟩,
  ⟨0x258, [⟨31, 0, .rw⟩]⟩,
  ⟨0x25C, [⟨31, 0, .rw⟩]⟩,
  ⟨0x260, [⟨31, 0, .rw⟩]⟩]
def accFALT : List RegRow := [
  ⟨0x040, [⟨31, 31, .rw⟩, ⟨0, 0, .w1s⟩]⟩,
  ⟨0x044, [⟨31, 31, .ro⟩, ⟨30, 30, .ro⟩]⟩,
  ⟨0x048, [⟨11, 0, .ro⟩]⟩,
  ⟨0x04C, [⟨11, 0, .rw⟩]⟩,
  ⟨0x050, [⟨31, 31, .rw⟩]⟩,
  ⟨0x054, [⟨31, 31, .ro⟩, ⟨21, 16, .ro⟩, ⟨15, 0, .ro⟩]⟩,
  ⟨0x058, [⟨31, 31, .ros⟩, ⟨15, 0, .ro⟩]⟩,
  ⟨0x060, [⟨31, 31, .w1s⟩, ⟨9, 0, .rw⟩]⟩,
  ⟨0x064, [⟨31, 31, .w1s⟩]⟩,
  ⟨0x068, [⟨31, 31, .ro⟩, ⟨30, 30, .ro⟩, ⟨27, 24, .ro⟩, ⟨15, 0, .ro⟩]⟩,
  ⟨0x070, [⟨31, 31, .ro⟩, ⟨6, 0, .ro⟩]⟩,
  ⟨0x074, [⟨31, 0, .ro⟩]⟩,
  ⟨0x078, [⟨31, 0, .ro⟩]⟩,
  ⟨0x07C, [⟨31, 0, .ro⟩]⟩,
  ⟨0x080, [⟨5, 0, .rw⟩]⟩,
  ⟨0x084, [⟨31, 0, .ro⟩]⟩,
  ⟨0x088, [⟨31, 0, .ro⟩]⟩,
  ⟨0x08C, [⟨31, 0, .ro⟩]⟩,
  ⟨0x090, [⟨31, 0, .ro⟩]⟩,
  ⟨0x094, [⟨31, 0, .ro⟩]⟩,
  ⟨0x098, [⟨31, 0, .ro⟩]⟩,
  ⟨0x09C, [⟨31, 0, .ro⟩]⟩,
  ⟨0x0A0, [⟨31, 0, .ro⟩]⟩,
  ⟨0x0B0, [⟨31, 31, .ro⟩, ⟨30, 30, .ros⟩, ⟨29, 29, .ros⟩, ⟨4, 0, .ro⟩]⟩,
  ⟨0x0C0, [⟨31, 0, .ro⟩]⟩,
  ⟨0x0C4, [⟨31, 0, .ro⟩]⟩,
  ⟨0x100, [⟨31, 0, .ro⟩]⟩,
  ⟨0x104, [⟨15, 0, .ro⟩]⟩,
  ⟨0x108, [⟨0, 0, .w1s⟩]⟩]
def accHOST : List RegRow := [
  ⟨0x040, [⟨2, 0, .ro⟩]⟩,
  ⟨0x044, [⟨8, 0, .rw⟩]⟩,
  ⟨0x048, [⟨15, 13, .rwb⟩, ⟨12, 0, .rwb⟩]⟩,
  ⟨0x04C, [⟨18, 16, .ro⟩]⟩,
  ⟨0x100, [⟨31, 31, .rw⟩, ⟨27, 24, .rw⟩, ⟨21, 20, .rw⟩, ⟨17, 16, .rw⟩, ⟨12, 12, .rw⟩, ⟨11, 8, .rw⟩, ⟨5, 0, .rw⟩]⟩,
  ⟨0x104, [⟨31, 30, .ro⟩, ⟨29, 29, .ros⟩, ⟨28, 28, .ros⟩]⟩,
  ⟨0x108, [⟨31, 0, .rw⟩]⟩,
  ⟨0x10C, [⟨31, 0, .rw⟩]⟩,
  ⟨0x110, [⟨15, 0, .rw⟩]⟩,
  ⟨0x114, [⟨15, 0, .ro⟩]⟩,
  ⟨0x118, [⟨31, 0, .rw⟩]⟩,
  ⟨0x11C, [⟨31, 0, .rw⟩]⟩,
  ⟨0x120, [⟨31, 0, .ro⟩]⟩,
  ⟨0x124, [⟨31, 0, .ro⟩]⟩,
  ⟨0x128, [⟨31, 0, .ro⟩]⟩,
  ⟨0x12C, [⟨17, 0, .ro⟩]⟩,
  ⟨0x600, [⟨31, 0, .rwb⟩]⟩,
  ⟨0x604, [⟨31, 0, .rwb⟩]⟩,
  ⟨0xA00, [⟨7, 7, .rw⟩, ⟨5, 0, .rw⟩]⟩,
  ⟨0xAC0, [⟨7, 7, .rw⟩, ⟨5, 0, .rw⟩]⟩]
def accCMDQ : List RegRow := [
  ⟨0x100, [⟨31, 31, .rw⟩, ⟨25, 24, .rw⟩, ⟨21, 16, .rw⟩, ⟨15, 8, .rw⟩, ⟨7, 0, .rw⟩]⟩,
  ⟨0x104, [⟨31, 30, .ro⟩, ⟨3, 0, .ro⟩]⟩,
  ⟨0x108, [⟨31, 0, .rw⟩]⟩,
  ⟨0x10C, [⟨31, 0, .rw⟩]⟩,
  ⟨0x110, [⟨31, 0, .rw⟩]⟩,
  ⟨0x114, [⟨31, 0, .rw⟩]⟩,
  ⟨0x118, [⟨27, 16, .rw⟩, ⟨11, 0, .rw⟩]⟩,
  ⟨0x11C, [⟨11, 0, .ro⟩]⟩,
  ⟨0x120, [⟨11, 0, .ro⟩]⟩,
  ⟨0x124, [⟨31, 0, .ro⟩]⟩]
def accSECU : List RegRow := [
  ⟨0x040, [⟨31, 31, .ro⟩, ⟨30, 30, .ro⟩, ⟨29, 24, .ro⟩, ⟨19, 16, .ro⟩, ⟨1, 1, .ro⟩, ⟨0, 0, .ro⟩]⟩,
  ⟨0x044, [⟨31, 31, .rw⟩, ⟨19, 16, .rw⟩, ⟨15, 0, .rw⟩]⟩,
  ⟨0x048, [⟨31, 30, .ro⟩, ⟨29, 29, .ro⟩, ⟨27, 26, .ro⟩, ⟨16, 16, .ro⟩, ⟨2, 0, .ro⟩]⟩,
  ⟨0x04C, [⟨15, 0, .rw⟩]⟩,
  ⟨0x050, [⟨31, 0, .ro⟩]⟩,
  ⟨0x054, [⟨31, 0, .ro⟩]⟩,
  ⟨0x058, [⟨1, 0, .ro⟩]⟩,
  ⟨0x060, [⟨31, 0, .ro⟩]⟩,
  ⟨0x064, [⟨31, 0, .ro⟩]⟩,
  ⟨0x068, [⟨31, 0, .ro⟩]⟩,
  ⟨0x06C, [⟨31, 0, .ro⟩]⟩,
  ⟨0x070, [⟨31, 0, .ro⟩]⟩,
  ⟨0x074, [⟨31, 0, .ro⟩]⟩,
  ⟨0x078, [⟨31, 0, .ro⟩]⟩,
  ⟨0x07C, [⟨0, 0, .w1s⟩]⟩,
  ⟨0x100, [⟨31, 31, .ro⟩, ⟨15, 0, .ro⟩]⟩,
  ⟨0x104, [⟨31, 0, .ro⟩]⟩,
  ⟨0x108, [⟨31, 0, .ro⟩]⟩]
def accLSIO : List RegRow := [
  ⟨0x100, [⟨31, 31, .rw⟩, ⟨30, 30, .w1s⟩, ⟨15, 8, .rw⟩, ⟨1, 0, .rw⟩]⟩,
  ⟨0x104, [⟨31, 30, .ro⟩, ⟨29, 29, .ros⟩, ⟨28, 28, .ros⟩, ⟨27, 26, .ro⟩]⟩,
  ⟨0x108, [⟨31, 0, .ro⟩]⟩,
  ⟨0x10C, [⟨31, 0, .ro⟩]⟩,
  ⟨0x110, [⟨31, 0, .ro⟩]⟩,
  ⟨0x114, [⟨0, 0, .w1s⟩]⟩,
  ⟨0x200, [⟨31, 31, .rw⟩, ⟨30, 30, .rw⟩, ⟨27, 26, .rw⟩, ⟨25, 25, .rw⟩, ⟨24, 24, .rw⟩, ⟨19, 4, .rw⟩, ⟨3, 0, .rw⟩]⟩,
  ⟨0x204, [⟨31, 31, .ros⟩, ⟨30, 30, .ros⟩, ⟨29, 29, .ros⟩, ⟨28, 28, .ros⟩, ⟨22, 16, .ro⟩, ⟨6, 0, .ro⟩]⟩,
  ⟨0x208, [⟨6, 0, .rw⟩]⟩,
  ⟨0x20C, [⟨31, 0, .ro⟩]⟩,
  ⟨0x300, [⟨31, 31, .rw⟩]⟩,
  ⟨0x304, [⟨31, 31, .ro⟩, ⟨6, 0, .ro⟩]⟩,
  ⟨0x308, [⟨31, 0, .ro⟩]⟩,
  ⟨0x30C, [⟨31, 0, .ro⟩]⟩,
  ⟨0x310, [⟨31, 0, .ro⟩]⟩,
  ⟨0x314, [⟨0, 0, .w1s⟩]⟩,
  ⟨0x340, [⟨31, 31, .ro⟩, ⟨30, 30, .ro⟩, ⟨29, 29, .ros⟩, ⟨7, 0, .ro⟩]⟩,
  ⟨0x344, [⟨23, 0, .ro⟩]⟩,
  ⟨0x348, [⟨7, 0, .ro⟩]⟩,
  ⟨0x34C, [⟨31, 0, .ro⟩]⟩,
  ⟨0x350, [⟨31, 0, .ro⟩]⟩,
  ⟨0x400, [⟨31, 30, .rwb⟩, ⟨29, 29, .rwb⟩, ⟨28, 28, .rwb⟩, ⟨27, 26, .rwb⟩, ⟨25, 24, .rw⟩, ⟨23, 23, .ro⟩, ⟨22, 22, .ros⟩]⟩,
  ⟨0x480, [⟨3, 0, .ro⟩]⟩,
  ⟨0x484, [⟨31, 16, .rwb⟩]⟩,
  ⟨0x488, [⟨0, 0, .rw⟩]⟩,
  ⟨0x48C, [⟨31, 0, .ro⟩]⟩]
def accTNT : List RegRow := [
  ⟨0x040, [⟨31, 30, .ro⟩, ⟨29, 29, .rw⟩]⟩,
  ⟨0x044, [⟨31, 31, .ro⟩, ⟨27, 16, .ro⟩, ⟨15, 0, .ro⟩]⟩,
  ⟨0x048, [⟨31, 0, .ro⟩]⟩,
  ⟨0x04C, [⟨31, 0, .ro⟩]⟩,
  ⟨0x050, [⟨31, 0, .rw⟩]⟩,
  ⟨0x054, [⟨31, 0, .rw⟩]⟩,
  ⟨0x058, [⟨31, 0, .rw⟩]⟩,
  ⟨0x05C, [⟨31, 0, .rw⟩]⟩,
  ⟨0x060, [⟨31, 0, .ro⟩]⟩,
  ⟨0x064, [⟨31, 0, .ro⟩]⟩,
  ⟨0x068, [⟨31, 0, .ro⟩]⟩,
  ⟨0x06C, [⟨14, 0, .ro⟩]⟩,
  ⟨0x100, [⟨15, 0, .ro⟩]⟩,
  ⟨0x104, [⟨15, 0, .ro⟩]⟩,
  ⟨0x200, [⟨31, 0, .ro⟩]⟩,
  ⟨0x204, [⟨31, 0, .ro⟩]⟩,
  ⟨0x208, [⟨31, 0, .ro⟩]⟩,
  ⟨0x20C, [⟨31, 0, .ro⟩]⟩,
  ⟨0x300, [⟨3, 0, .ro⟩]⟩]
def accSIG : List RegRow := [
  ⟨0x040, [⟨31, 31, .ros⟩, ⟨30, 30, .ros⟩, ⟨29, 29, .ros⟩, ⟨2, 0, .ro⟩]⟩,
  ⟨0x044, [⟨0, 0, .w1s⟩]⟩,
  ⟨0x048, [⟨31, 0, .ro⟩]⟩,
  ⟨0x060, [⟨31, 29, .ro⟩, ⟨21, 16, .ro⟩]⟩,
  ⟨0x064, [⟨31, 0, .ros⟩]⟩,
  ⟨0x068, [⟨31, 0, .ro⟩]⟩,
  ⟨0x06C, [⟨31, 0, .ro⟩]⟩,
  ⟨0x070, [⟨31, 0, .ro⟩]⟩,
  ⟨0x074, [⟨31, 0, .ro⟩]⟩,
  ⟨0x078, [⟨31, 0, .ro⟩]⟩,
  ⟨0x07C, [⟨15, 0, .ro⟩]⟩,
  ⟨0x080, [⟨31, 0, .ro⟩]⟩,
  ⟨0x084, [⟨31, 0, .ro⟩]⟩,
  ⟨0x088, [⟨31, 0, .ro⟩]⟩,
  ⟨0x08C, [⟨31, 0, .ro⟩]⟩,
  ⟨0x090, [⟨31, 0, .ro⟩]⟩,
  ⟨0x094, [⟨31, 0, .ro⟩]⟩,
  ⟨0x098, [⟨0, 0, .w1s⟩]⟩,
  ⟨0x0C0, [⟨31, 29, .ro⟩, ⟨28, 28, .ro⟩, ⟨27, 27, .ro⟩, ⟨26, 26, .ro⟩, ⟨5, 0, .ro⟩]⟩,
  ⟨0x0C4, [⟨31, 0, .ro⟩]⟩,
  ⟨0x0C8, [⟨31, 0, .ro⟩]⟩,
  ⟨0x0CC, [⟨31, 0, .ro⟩]⟩,
  ⟨0x0D0, [⟨21, 16, .ro⟩, ⟨14, 0, .ro⟩]⟩,
  ⟨0x0D4, [⟨31, 0, .ro⟩]⟩,
  ⟨0x0D8, [⟨31, 0, .ro⟩]⟩,
  ⟨0x0DC, [⟨31, 0, .ro⟩]⟩,
  ⟨0x0E0, [⟨31, 0, .ro⟩]⟩,
  ⟨0x0E4, [⟨14, 0, .ro⟩]⟩,
  ⟨0x0E8, [⟨31, 0, .ro⟩]⟩,
  ⟨0x0EC, [⟨1, 1, .w1s⟩, ⟨0, 0, .w1s⟩]⟩,
  ⟨0x0F0, [⟨31, 31, .ros⟩]⟩,
  ⟨0x400, [⟨31, 31, .rwb⟩, ⟨30, 30, .rwb⟩, ⟨29, 28, .rwb⟩, ⟨27, 27, .rwb⟩, ⟨12, 0, .rwb⟩]⟩,
  ⟨0x404, [⟨15, 0, .rwb⟩]⟩,
  ⟨0x408, [⟨20, 0, .rwb⟩]⟩,
  ⟨0x40C, [⟨31, 0, .ro⟩]⟩,
  ⟨0x800, [⟨31, 16, .ro⟩, ⟨12, 0, .ro⟩]⟩,
  ⟨0x900, [⟨14, 0, .ro⟩]⟩]
/-- The register rows of a page class, by the class's first page index (R568). -/
def accOf (cls : Nat) : List RegRow :=
  match cls with
  | 0x00 => accMODE
  | 0x01 => accPWR
  | 0x02 => accCLKG
  | 0x03 => accREFS
  | 0x04 => accTIME
  | 0x08 => accCOLL
  | 0x09 => accEVTC
  | 0x0A => accNETP
  | 0x0E => accSTRX
  | 0x0F => accSTTX
  | 0x10 => accSRCB
  | 0x11 => accXPNT
  | 0x12 => accSCNE
  | 0x13 => accMETR
  | 0x14 => accSAPG
  | 0x18 => accAESP
  | 0x19 => accSYNC
  | 0x1A => accULNK
  | 0x20 => accFALT
  | 0x21 => accHOST
  | 0x22 => accCMDQ
  | 0x23 => accSECU
  | 0x24 => accLSIO
  | 0x25 => accTNT
  | 0x40 => accSIG
  | _ => []
/-- The repeating regions of a page class. -/
def regionsOf (cls : Nat) : List Region :=
  match cls with
  | 0x01 => [⟨0x048, 0x4, 8⟩, ⟨0x080, 0x4, 16⟩]
  | 0x03 => [⟨0x0C0, 0x4, 12⟩, ⟨0x100, 0x10, 8⟩]
  | 0x08 => [⟨0x100, 0x20, 64⟩]
  | 0x0A => [⟨0x0A0, 0x4, 8⟩, ⟨0x0E0, 0x4, 8⟩, ⟨0x100, 0x4, 16⟩, ⟨0x140, 0x4, 16⟩]
  | 0x0F => [⟨0x1A0, 0x4, 4⟩]
  | 0x10 => [⟨0x120, 0x4, 8⟩]
  | 0x11 => [⟨0x100, 0x10, 16⟩]
  | 0x13 => [⟨0x080, 0x8, 8⟩, ⟨0x0C0, 0x4, 8⟩, ⟨0x0E0, 0x4, 8⟩, ⟨0x100, 0x4, 128⟩, ⟨0x300, 0x40, 16⟩]
  | 0x14 => [⟨0x100, 0x40, 4⟩]
  | 0x18 => [⟨0x100, 0x100, 8⟩, ⟨0x900, 0x80, 8⟩]
  | 0x19 => [⟨0x060, 0x4, 4⟩]
  | 0x20 => [⟨0x0C0, 0x8, 7⟩]
  | 0x21 => [⟨0x100, 0x40, 16⟩, ⟨0x600, 0x40, 16⟩, ⟨0xA00, 0x4, 45⟩]
  | 0x22 => [⟨0x100, 0x40, 8⟩]
  | 0x23 => [⟨0x100, 0x10, 16⟩]
  | 0x24 => [⟨0x100, 0x40, 4⟩, ⟨0x200, 0x40, 2⟩, ⟨0x400, 0x4, 32⟩]
  | 0x25 => [⟨0x100, 0x8, 12⟩, ⟨0x200, 0x10, 16⟩]
  | 0x40 => [⟨0x400, 0x10, 64⟩, ⟨0x800, 0x4, 64⟩, ⟨0x900, 0x4, 64⟩]
  | _ => []
/-- The reset words that are not zero, by page class and canonical offset (R569). -/
def resetWords : List ((Nat × Nat) × Nat) := [
  ((0x00, 0x040), 0x00000011),
  ((0x00, 0x048), 0x8000003C),
  ((0x00, 0x04C), 0x03E80BB8),
  ((0x01, 0x040), 0x0000003F),
  ((0x01, 0x044), 0xFFFFFFFF),
  ((0x01, 0x080), 0x00000012),
  ((0x02, 0x048), 0x00000001),
  ((0x02, 0x070), 0x0000001F),
  ((0x03, 0x040), 0x0010003C),
  ((0x03, 0x058), 0x00000002),
  ((0x03, 0x060), 0x00000064),
  ((0x03, 0x064), 0x00002710),
  ((0x03, 0x06C), 0x00004E5D),
  ((0x03, 0x078), 0x00001388),
  ((0x03, 0x07C), 0x03E80BB8),
  ((0x03, 0x100), 0x80000803),
  ((0x03, 0x104), 0x00000F01),
  ((0x04, 0x080), 0x00006432),
  ((0x04, 0x084), 0x00000001),
  ((0x04, 0x090), 0x00000031),
  ((0x04, 0x0A0), 0x807F0038),
  ((0x04, 0x0B0), 0xFFFEFFFF),
  ((0x04, 0x0BC), 0x000003E8),
  ((0x09, 0x044), 0x00000004),
  ((0x09, 0x04C), 0x00010000),
  ((0x0A, 0x040), 0x80000002),
  ((0x0A, 0x048), 0x000005F2),
  ((0x0A, 0x060), 0x000004D4),
  ((0x0A, 0x064), 0x000001D4),
  ((0x0A, 0x080), 0x000C0000),
  ((0x0A, 0x084), 0x10000000),
  ((0x0A, 0x090), 0x0000FFFC),
  ((0x0A, 0x0C0), 0x00000005),
  ((0x0A, 0x0D0), 0x00000001),
  ((0x0A, 0x100), 0xFF000000),
  ((0x0E, 0x050), 0x03476120),
  ((0x0E, 0x058), 0x00000200),
  ((0x0E, 0x05C), 0x00000018),
  ((0x0E, 0x060), 0x00000064),
  ((0x0E, 0x06C), 0x8000138C),
  ((0x0E, 0x070), 0x0000138C),
  ((0x0E, 0x0CC), 0x7FFFFFFF),
  ((0x0E, 0x180), 0x00400000),
  ((0x0E, 0x194), 0x00010000),
  ((0x0F, 0x050), 0x2B47E120),
  ((0x0F, 0x06C), 0x8500138C),
  ((0x0F, 0x070), 0x0500138C),
  ((0x0F, 0x074), 0x0000138C),
  ((0x0F, 0x078), 0x0000138C),
  ((0x0F, 0x07C), 0x00002240),
  ((0x0F, 0x1B0), 0x0000001E),
  ((0x10, 0x044), 0x00000200),
  ((0x10, 0x100), 0x00FD0800),
  ((0x11, 0x048), 0x0000E800),
  ((0x11, 0x104), 0x000186A0),
  ((0x11, 0x108), 0x0000D400),
  ((0x13, 0x080), 0x80001770),
  ((0x13, 0x084), 0x0000036A),
  ((0x13, 0x0C0), 0x88007C00),
  ((0x13, 0x0E0), 0x000012C0),
  ((0x14, 0x100), 0x70000012),
  ((0x14, 0x12C), 0x0000BB80),
  ((0x18, 0x104), 0x00000007),
  ((0x18, 0x12C), 0x0000BB80),
  ((0x18, 0x900), 0x40000003),
  ((0x19, 0x050), 0x00000001),
  ((0x19, 0x054), 0x000186A0),
  ((0x1A, 0x204), 0x00000001),
  ((0x1A, 0x218), 0x000000FF),
  ((0x1A, 0x24C), 0x00000001),
  ((0x20, 0x04C), 0x00000DFF),
  ((0x20, 0x050), 0x80000000),
  ((0x20, 0x060), 0x00000064),
  ((0x21, 0x110), 0x00000010),
  ((0x22, 0x118), 0x00100010),
  ((0x23, 0x044), 0x800FC61D),
  ((0x23, 0x04C), 0x0000003C),
  ((0x24, 0x100), 0x80001901),
  ((0x24, 0x104), 0x0C000000),
  ((0x24, 0x200), 0xC000065C),
  ((0x24, 0x208), 0x00000001),
  ((0x24, 0x300), 0x80000000),
  ((0x24, 0x400), 0x04000000),
  ((0x24, 0x484), 0x05F00000),
  ((0x24, 0x488), 0x00000001),
  ((0x40, 0x400), 0x00000001),
  ((0x40, 0x404), 0x0000E800),
  ((0x40, 0x800), 0xE8000000),
  ((0x40, 0x900), 0x00000010)]

end Sys2Proof.Machine
end

