-- ==== Sys2Proof/Machine/State.lean ====
section
/-!
DEFINITION. The state of the block: its registers as one sparse table, and beside it, chapter by chapter, what the spec has
the block hold that no register shows. All of it is plain data.
-/
namespace Sys2Proof.Machine

/-- An errata record (R425) and the tick in which it was made (R427). -/
structure ErrRec where
  seq : Nat
  code : Nat
  page : Nat
  inst : Nat
  sev : Nat
  oom : Bool
  fn : Option Nat
  count : Nat
  idx : Nat
  d0 : Nat
  d1 : Nat
  tick : Nat
deriving DecidableEq, Repr

/-- A pending value of RWB fields (R561): the writing function, the register, the bits it covers, whether APPLY.HOLD keeps
it back (R563), and the first sample boundary it may be applied at (R564). -/
structure Held where
  fn : Nat
  pg : Nat
  obj : Nat
  off : Nat
  mask : Nat
  val : Nat
  kept : Bool
  due : Nat
deriving DecidableEq, Repr

/-- An event FIFO entry (R68). -/
structure EvtEntry where
  w0 : Nat
  w1 : Nat
  w2 : Nat
  w3 : Nat
deriving DecidableEq, Repr

/-- Media time, the time bases, the collator's hidden values, event capture and timecode. Phases and offsets of time bases
are integers in units of 1/2000 grid step. -/
structure TimeS where
  /-- index of the sample period in progress, kept also while no index is published (R446) -/
  sample : Nat
  /-- sample periods since the release of reset, which no step of media time changes: elapsed times are taken on it -/
  count : Nat
  /-- the tick work of the boundary that comes next has been done (R16) -/
  tickDone : Bool
  /-- indices are published (R45, R84) -/
  published : Bool
  /-- the index of the tick boundary at which indices are published (R84) -/
  pubAt : Option Nat
  /-- TB0–TB3 minus media time (R35) -/
  ofs : Tbl Int
  /-- the base has been set, or its source has been valid (R34) -/
  set : Tbl Bool
  /-- a set command waiting for the next tick boundary, by base: the value in grid units (R59) -/
  setPend : Tbl (Option Nat)
  /-- the index n of each collator slot (R50) -/
  slotN : Tbl Nat
  /-- the frame-rate code fixed at arming, for an LTC slot (R62) -/
  slotRate : Tbl Nat
  /-- the TB3 time that an LTC slot last resolved to, in grid units (R62, R64) -/
  slotT : Tbl Nat
  /-- a periodic slot that stops after its next firing (R56) -/
  slotStop : Tbl Bool
  /-- the firing that a slot waits for is late under RUN (R53) -/
  slotLate : Tbl Bool
  /-- LTC: DAY of R62 -/
  ltcDay : Nat
  /-- LTC: stamp on media time and address word of the last accepted frame -/
  ltcLast : Option (Nat × Nat)
  /-- LTC: consecutive accepted frames at or above the threshold or with non-consecutive addresses (R63) -/
  ltcBad : Nat
  /-- LTC: consecutive accepted frames with consecutive addresses while LOST (R64) -/
  ltcGood : Nat
  /-- LTC: the next accepted frame counts as consecutive (R63) -/
  ltcFresh : Bool
  /-- LTC: a jam is due at the next tick boundary -/
  ltcJam : Bool
  /-- LTC: the phase error that remains to be slewed, in grid units -/
  ltcErr : Int
  /-- LTC: TB3's earlier offsets from media time, latest first, each with the grid point at which it ended: by these an edge is stamped
  with the offset in force when it came (R63) -/
  ltcOfs : List (Nat × Int)
  /-- LTC_OUT: the settings in force (RATE, SRC, OFS), which change at an ALIGN (R65) -/
  ltcOut : Nat × Nat × Int
  /-- LTC_OUT: an ALIGN has fired and its frame has not yet begun (R91) -/
  ltcOutWait : Bool
  /-- LTC_OUT: frames begun, and the address of the last one sent, in the layout of LTC_IN_TC (R65) -/
  ltcOutFrames : Nat
  ltcOutTc : Nat
  /-- event FIFO, oldest first (R68) -/
  evt : List EvtEntry
  evtSeq : Nat
  evtLost : Nat
  /-- media grid point of the last accepted edge of each pin, plus 1; 0 for none (R66) -/
  evtLast : Tbl Nat
  /-- the level of each EVT_IN pin after its glitch filter, once an edge has shown it (R67) -/
  evtIn : Tbl (Option Bool)
  /-- EVT_OUT and GPIO pins: the opposite edge still due, as (sample, level) (R629) -/
  pulse : Tbl (Option (Nat × Bool))
  /-- levels that GPIO_PULSE drives on EVT_OUT0–7 (keys 32–39), before OUT_POL inverts them (R69) -/
  evtOut : Tbl Bool
deriving DecidableEq, Repr

/-- References, the media DPLL and the clock generators (hidden values). Phases in units of 1/2000 grid step, frequencies in
0.001 ppb. -/
structure RefS where
  /-- F of R73 -/
  f : Int
  /-- S of R73, as the correction applied at the last tick boundary -/
  s : Int
  everLocked : Bool
  lockCnt : Nat
  wideCnt : Nat
  /-- runs of ticks, newest first: F, ticks, LOCKED (R88) -/
  fHist : List (Int × Nat × Bool)
  /-- F at the last LOCKED tick -/
  fLocked : Int
  /-- measured phase error of candidates 3, 4 and 6 -/
  e : Tbl Int
  /-- edges of the candidate are present at its rate (R75, R77) -/
  present : Tbl Bool
  /-- media grid point of the last edge, plus 1 -/
  lastEdge : Tbl Nat
  /-- consecutive pulses in tolerance -/
  goodEdges : Tbl Nat
  /-- ticks for which the candidate has been qualified and of rank 0 (R81) -/
  topTicks : Tbl Nat
  /-- ticks for which the candidate has been qualified without a break -/
  qualTicks : Tbl Nat
  /-- the candidate has been selected, and has lost its qualification since it was last selected (R81) -/
  everSel : Tbl Bool
  lostSince : Tbl Bool
  /-- a candidate that is present is not locked: the manager of candidate 2, the receiver of candidate 6 (R75, R103) -/
  notLocked : Tbl Bool
  /-- a loss detector has stopped the candidate's measurements, until its next edge (R77) -/
  stopped : Tbl Bool
  /-- measured frequency of the candidates at the last tick boundary, in 0.001 ppb (R83) -/
  yTick : Tbl Int
  /-- a drift window is in progress; the candidate was not qualified at some tick of it (R85) -/
  winOpen : Bool
  winBroken : Tbl Bool
  /-- the window that has just ended waits for its tests: the candidates not qualified throughout, and whether every tick was LOCKED -/
  winDone : Option (Tbl Bool × Bool)
  /-- hard or tolerance disqualification in force (R87): windows passed toward requalification, plus 1 -/
  dq : Tbl Nat
  /-- which test disqualified the candidate: DQ bit 3 or 4 -/
  dqBit : Tbl Nat
  /-- consecutive windows within SOFT_PPB -/
  softOk : Tbl Nat
  /-- y of the selected candidate in its LOCKED windows with STEPS = 0, newest first (R86) -/
  xoWin : Tbl (List Int)
  /-- every tick of the window was LOCKED -/
  winLocked : Bool
  /-- announce quality of the grandmasters of planes A and B: class, accuracy, variance (R78) -/
  gm : Tbl (Option (Nat × Nat × Nat))
  /-- A_o of R90 by output bit -/
  ao : Tbl Int
  /-- outputs to be aligned at the next tick boundary (R91) -/
  alignPend : Nat
  /-- MPLL steps still to be applied (R99) -/
  pstep : Int
  /-- the spread in force, and the change in progress -/
  ssc : Nat
  /-- measured offset of the TPLL-B counter against TPLL-A, in grid units, and what the DPLL adds to measurements on the counter in use
  (R74) -/
  cntOfs : Int
  cntAdd : Int
  /-- ticks since the last second boundary of HOLD_AGE -/
  holdTicks : Nat
  /-- WCLK_OUT, 1PPS_OUT and MCLK outputs: running, and what waits for an edge (keys of R48; MCLK 16–19) -/
  outRun : Tbl Bool
  outPend : Tbl Nat
deriving DecidableEq, Repr

/-- Media time and the collator at reset: nothing set, published or armed (R34, R45, R50). -/
def TimeS.reset : TimeS :=
  { sample := 0, count := 0, tickDone := false, published := false, pubAt := none, ofs := [], set := [], setPend := [],
    slotN := [], slotRate := [], slotT := [], slotStop := [], slotLate := [], ltcDay := 0, ltcLast := none, ltcBad := 0, ltcGood := 0,
    ltcFresh := true, ltcJam := false, ltcErr := 0, ltcOfs := [], ltcOut := (1, 3, 0), ltcOutWait := false, ltcOutFrames := 0,
    ltcOutTc := 0, evt := [], evtSeq := 0, evtLost := 0, evtLast := [], evtIn := [], pulse := [], evtOut := [] }

/-- References and clocks at reset: FREERUN, nothing locked (R82, R104). -/
def RefS.reset : RefS :=
  { f := 0, s := 0, everLocked := false, lockCnt := 0, wideCnt := 0, fHist := [], fLocked := 0, e := [],
    present := [], lastEdge := [], goodEdges := [], topTicks := [], qualTicks := [], everSel := [], lostSince := [],
    notLocked := [], stopped := [], yTick := [], winOpen := false, winBroken := [], winDone := none,
    dq := [], dqBit := [], softOk := [], xoWin := [], winLocked := false, gm := [], ao := [], alignPend := 0,
    pstep := 0, ssc := 1, cntOfs := 0, cntAdd := 0, holdTicks := 0, outRun := [], outPend := [] }

/-- A stored scene (R262): owner, ID, the signature and generation it was saved from, its codes. -/
structure Scene where
  fn : Nat
  id : Nat
  sig : Nat
  gen : Nat
  codes : Tbl Nat
  seq : Nat
  crc : BitVec 32
deriving DecidableEq, Repr


/-- Faults: the errata ring and what recovery holds. -/
structure FltS where
  /-- the preserved region, oldest first (R428) -/
  pres : List ErrRec
  /-- the recent region, oldest first -/
  recent : List ErrRec
  /-- a record was made or coalesced in the tick in progress (R429) -/
  made : Bool
  /-- sample in which the guard began to load, and in which its dwell began; the signature patrolled next -/
  loadAt : Nat
  dwellAt : Nat
  nextT : Nat
  /-- a hand-over that has been decided: signature, the first output index after it, and whether it is a return (R414, R417) -/
  tip : Option (Nat × Nat × Bool)
  /-- hard words in service outside the coefficient banks, and in the guard's -/
  hardOther : Nat
  hardGuard : Nat
  /-- coefficient words that read as code 0 for the sample in progress: signature, bank, first node (R407) -/
  zero : List (Nat × Nat × Nat)
  /-- residue errors that FAULT_INJECT injects at the next boundary -/
  inject : List (Nat × Nat × Nat × Bool)
  /-- the core-cycle monitor has stopped the talker (R419) -/
  stop : Bool
  /-- the sample of the last kick of the watchdog; those of the last restarts, oldest first (R422, R424) -/
  kickAt : Nat
  restarts : List Nat
  /-- the memory that keeps the counters of critical commands through a restart has failed (R423) -/
  savedBad : Bool
  /-- the SEQ after the last record appended to the log, and when it was appended (R430) -/
  flushNext : Nat
  flushAt : Nat
  /-- the last-words record being programmed (R434) -/
  lw : Option (List Byte)
  /-- the record read at boot (R437) -/
  lwRead : List Byte
deriving DecidableEq, Repr

def FltS.reset : FltS :=
  { pres := [], recent := [], made := false, loadAt := 0, dwellAt := 0, nextT := 0, tip := none, hardOther := 0, hardGuard := 0, zero := [],
    inject := [], stop := false, kickAt := 0, restarts := [], savedBad := false, flushNext := 0, flushAt := 0, lw := none, lwRead := [] }

/-- A completion (R482) as the transport carries it; a word list stands for the response. -/
structure Completion where
  tr : Transport
  fn : Nat
  tag : Nat
  status : Nat
  result : Nat
  resp : List Nat
deriving DecidableEq, Repr

/-- A command entry that has been fetched and not yet completed (R483). -/
structure Started where
  fn : Nat
  ring : Nat
  entry : SubEntry
deriving DecidableEq, Repr

/-- A reply kept for retransmitted datagrams (R526). -/
structure Kept where
  counter : Nat
  mac : List Byte
  reply : Completion
deriving DecidableEq, Repr

/-- A staging session (R544): who opened it, over which transport, and the sample of its last write. -/
structure Session where
  fn : Nat
  tr : Transport
  last : Nat
deriving DecidableEq, Repr

/-- Commands: completions, kept replies, sessions and what waits for a tick boundary. -/
structure CmdS where
  /-- the last completion handed to a transport -/
  last : Option Completion
  /-- entries fetched and not completed -/
  started : List Started
  /-- where the fetch round stands (R484): functions still to be served in this round -/
  round : List Nat
  /-- the ring of a function served last, plus 1 -/
  lastRing : Tbl Nat
  /-- completions not yet acknowledged over SPI, oldest first (R584) -/
  spi : List Completion
  /-- commands waiting in the SPI and tunnel queues, and the UDP datagrams waiting (R528) -/
  spiQ : Nat
  tunQ : Nat
  udpQ : Nat
  /-- SPI commands taken and not completed; SPI commands of no known opcode that wait for a place (R584) -/
  spiRun : Nat
  spiBad : List Env
  /-- replies kept by key slot, newest first -/
  kept : Tbl (List Kept)
  /-- failing replies sent in this second by port, and the sample the second began (R541) -/
  failed : Tbl Nat
  failedAt : Nat
  /-- AUTH_FAILS or REPLAYS has incremented in this tick (R552) -/
  authRaised : Bool
  session : Option Session
  /-- samples of unbroken time in the running group (R546) -/
  runFor : Nat
  /-- debug parts to open at the next tick boundary (R547) -/
  dbgPend : Option Nat
  /-- UDP_CTL to be written at the next tick boundary -/
  udpPend : Option Nat
  /-- a restart of the device at the next tick boundary (R545, R549) -/
  restartPend : Bool
  /-- the SECU counters are to be cleared at the next tick boundary -/
  secClr : Bool
  /-- counters to be cleared at the next tick boundary: page and object -/
  clr : List (Nat × Nat)
deriving DecidableEq, Repr

def CmdS.reset : CmdS :=
  { last := none, started := [], round := [], lastRing := [], spi := [], spiQ := 0, tunQ := 0, udpQ := 0, spiRun := 0, spiBad := [], kept := [],
    failed := [], failedAt := 0, authRaised := false, session := none, runFor := 0, dbgPend := none, udpPend := none,
    restartPend := false, secClr := false, clr := [] }

/-- A host buffer (R490). -/
structure Buf where
  owner : Nat
  addr : Nat
  size : Nat
  /-- held by the block, not by the host (R491) -/
  held : Bool
deriving DecidableEq, Repr

/-- A descriptor the block holds (R496). -/
structure Desc where
  d : DescIn
  /-- the tick an audio descriptor serves (R503) -/
  serve : Nat
  /-- the status it is refused with, OK for one that is served (R492, R496) -/
  st : Nat
deriving DecidableEq, Repr

/-- A descriptor write-back (R495): status, length, flags in the layout of word 0x10, index or stamp. -/
structure WriteBack where
  fn : Nat
  ring : Nat
  handle : Nat
  status : Nat
  trunc : Bool
  maskChg : Bool
  port : Nat
  lenDone : Nat
  idx : Nat
  /-- STAMP_NS, STAMP_FRAC, BASE of a network descriptor with STAMP_VALID -/
  stamp : Option (Nat × Nat × Nat)
deriving DecidableEq, Repr

/-- A reclaim in progress (R513): whose, its items, the sample its fade starts at, whether the tenant ends. -/
structure Reclaim where
  fn : Nat
  items : List Item
  start : Nat
  destroy : Bool
deriving DecidableEq, Repr

/-- A filter in service (R508). -/
structure Filter where
  fn : Nat
  x : FilterArgs
deriving DecidableEq, Repr

/-- What TENANT_CREATE leaves for the next tick boundary (R518). -/
structure Creation where
  quotas : List (Nat × Nat)
  flrMode : Bool
  base : Nat
  limit : Nat
deriving DecidableEq, Repr

/-- The host interface: doorbells, rings, buffers, messages, tenants. Ring keys are 16 × function + ring. -/
structure HostS where
  msiDue : List (Nat × Nat)
  /-- vectors unmasked, pending bits, by 64 × function + vector (R479, R480) -/
  msiOpen : Tbl Bool
  msiPend : Tbl Bool
  /-- the last message sent -/
  msiSent : Option (Nat × Nat)
  sqTail : Tbl Nat
  cqHead : Tbl Nat
  dmaTail : Tbl Nat
  /-- Bus Master Enable has been cleared (R489) -/
  bmOff : Tbl Bool
  /-- completions written since the last interrupt of the ring (R485) -/
  coal : Tbl Nat
  /-- PHASE of the pass in progress is 0 (it starts as 1) (R482) -/
  phase0 : Tbl Bool
  bufs : Tbl (Option Buf)
  bufGen : Tbl Nat
  /-- descriptors held, oldest first -/
  descs : Tbl (List Desc)
  /-- descriptors fetched since enable -/
  fetched : Tbl Nat
  /-- the ring starts at the next tick boundary (R505) -/
  startPend : Tbl Bool
  /-- descriptors written back since the last interrupt (R497) -/
  every : Tbl Nat
  /-- the ticks whose block is the first under a changed mask, by ring (R500) -/
  maskChg : Tbl (List Nat)
  /-- the ring's next entry is ORDERED and waits for the earlier ones (R481) -/
  ordWait : Tbl Bool
  /-- the completion written last: function, ring, its four words, and the bytes of its response at RESP_ADDR (R482) -/
  lastCpl : Option (Nat × Nat × List Nat × List Nat)
  /-- playback: samples of the tick in progress and of the next, by channel; capture: exported words of the block of the tick in
  progress and of the tick before, by ring -/
  pbNow : Tbl (List Int)
  pbNext : Tbl (List Int)
  capNow : Tbl (Option (List Int))
  capLast : Tbl (Option (List Int))
  capOwner : Tbl Nat
  pbOwner : Tbl Nat
  lastWb : Option WriteBack
  lastData : List Nat
  filters : Tbl (Option Filter)
  /-- tenants about to be created; quotas about to be set -/
  creation : Tbl (Option Creation)
  quotaPend : List (Nat × Nat × Nat)
  sigPend : List (Nat × Nat)
  chPend : List (Bool × Nat × Nat)
  reclaims : List Reclaim
  /-- RAMP_OUT fades by function: the first faded sample; and fades in (R515) -/
  rampOut : Tbl (Option Nat)
  rampIn : Tbl (Option Nat)
  /-- tenants in reset (R514) -/
  inFlr : Tbl Bool
deriving DecidableEq, Repr

def HostS.reset : HostS :=
  { msiDue := [], msiOpen := [], msiPend := [], msiSent := none, sqTail := [], cqHead := [], dmaTail := [], bmOff := [],
    coal := [], phase0 := [], bufs := [], bufGen := [], descs := [], fetched := [], startPend := [], every := [],
    maskChg := [], ordWait := [], lastCpl := none, pbNow := [], pbNext := [], capNow := [], capLast := [], capOwner := [], pbOwner := [],
    lastWb := none, lastData := [], filters := [], creation := [], quotaPend := [], sigPend := [], chPend := [],
    reclaims := [], rampOut := [], rampIn := [], inFlr := [] }

/-- What flash and one-time-programmable memory hold; a reset leaves it. -/
structure FlashS where
  /-- keys by slot, as 256-bit numbers; none is EMPTY (R534) -/
  keys : Tbl (Option Nat)
  /-- saved counters S (R533) -/
  savedS : Tbl Nat
  /-- the provisioning key, the serial number, the SVN floor and the revoked signing keys -/
  prov : Nat
  serial : Nat
  svnFloor : Nat
  revoked : Nat
  keyHash : Tbl (List Byte)
  /-- images in slots A (0) and B (1), and bytes staged -/
  image : Tbl (Option Image)
  staged : Tbl Byte
  /-- boot control record: preferred slot, trial flag, try count (R458) -/
  bootSlot : Nat
  trial : Bool
  tries : Nat
  /-- an interrupted factory erase (R549) -/
  erasePend : Bool
  /-- the startup configuration: registers of R460 and boot scenes -/
  config : Option (Tbl Word)
  bootScenes : List (Nat × Nat)
  /-- the IP addresses of each port (R131) -/
  addrs : Tbl (Option PortAddr)
  /-- boots since manufacture (R435); the errata log, oldest first, as record, log sequence and boot; last-words records, newest
  last, with CONSUMED; record pages erased in the last-words area (R433, R588) -/
  bootSeq : Nat
  errLog : List (ErrRec × Nat × Nat)
  lw : List (List Byte × Bool)
  lwFree : Nat
  /-- the hierarchy parameters (R366) -/
  hier : Option HierP
  /-- the size of the flash in MiB, and the scene store (R262, R586) -/
  sizeMiB : Nat
  scenes : List Scene
  /-- the sequence number of the scene store's journal (R262) -/
  sceneSeq : Nat
deriving DecidableEq, Repr

def FlashS.reset : FlashS :=
  { keys := [], savedS := [], prov := 0, serial := 0, svnFloor := 0, revoked := 0, keyHash := [], image := [], staged := [],
    bootSlot := 0, trial := false, tries := 0, erasePend := false, config := none, bootScenes := [], addrs := [], bootSeq := 0, errLog := [], lw := [], lwFree := 30, hier := none, sizeMiB := 64,
    scenes := [], sceneSeq := 0 }

/-- A master heard on a port (R127), with what its messages last gave. -/
structure Master where
  src : Nat
  gm : Nat
  prio1 : Nat
  cls : Nat
  acc : Nat
  var : Nat
  prio2 : Nat
  steps : Nat
  twoStep : Bool
  logAnn : Int
  logSync : Int
  /-- samples of the last Announce, and of the last Sync or Follow_Up, plus 1, 0 for none; when the port chose the master, plus 1 -/
  annAt : Nat
  syncAt : Nat
  since : Nat
deriving DecidableEq, Repr

/-- A host frame that has left, or was discarded on a port whose link is down (R117, R310). -/
structure HostDone where
  fn : Nat
  ring : Nat
  handle : Nat
  port : Nat
  sent : Bool
  /-- the departure stamp on media time; none if it is not valid (R98) -/
  stamp : Option Int
deriving DecidableEq, Repr

/-- A received frame in the ingress FIFO (R113), with its arrival stamp on media time, if valid, and the grid point of its arrival. -/
structure Waiting where
  x : FrameIn
  stamp : Option Int
  g : Nat
  /-- a UDP command in it gets no reply, for it waited through a restart of the management processor (R423) -/
  mute : Bool
deriving DecidableEq, Repr

/-- Network ports and PTP. Keys: port, 16 × port + queue (8 + function for host frames), 8 × port + function, plane. -/
structure NetS where
  /-- CYCLE and PHASE of the active gate list, plus 1 for a list that was swapped in -/
  gclSet : Tbl (Option (Nat × Nat))
  /-- the active list has come to its first cycle start since indices were published (R121) -/
  gclLive : Tbl Bool
  txq : Tbl (List TxFrame)
  /-- function served last by each host queue, plus 1 -/
  rr : Tbl Nat
  /-- tokens missing from the bucket of R116, in 1/12000 bit, and when that was reckoned -/
  debt : Tbl Nat
  debtAt : Tbl Nat
  /-- the frame in progress and the grid point at which the link is free again -/
  inFlight : Tbl (Option (Nat × TxFrame))
  hostDone : List HostDone
  master : Tbl (Option Master)
  /-- consecutive delay requests unanswered -/
  unans : Tbl Nat
  /-- departure of the last delay request on the plane's base; path delay; the last Sync waiting for Follow_Up; t2 − t1 -/
  t3 : Tbl Int
  mpd : Tbl Int
  syncWait : Tbl (Option (Nat × Int))
  t21 : Tbl Int
  /-- consecutive Sync messages inside, and outside, the lock window, by plane -/
  lockIn : Tbl Nat
  lockOut : Tbl Nat
  /-- the next offset decides whether the servo stays locked (R128) -/
  recheck : Tbl Bool
  /-- neighbours by port: address, sample of the last use, MAC address (R131) -/
  neigh : Tbl (List (Nat × Nat × Nat))
  /-- QSFPn_LPMODE released, by port; QSFPn_RST_N pulsed low until this grid point -/
  lpOff : Tbl Bool
  rstUntil : Tbl Nat
  /-- wake patterns 0–3: bytes with their masks (R133) -/
  wake : Tbl (List (Nat × Nat))
  /-- the ingress FIFO: frames that wait for the management processor, oldest first (R113) -/
  backlog : Tbl (List Waiting)
  /-- the link has failed: PORT_STAT.LINK falls at the next sample boundary (R109) -/
  failing : Tbl Bool
  /-- log of the interval of delay requests that the master asks for, and the sample from which the next may leave (R127) -/
  reqInt : Tbl Int
  reqAt : Tbl Nat
  /-- masters whose Sync interval the clock does not accept, by port (R127) -/
  barred : Tbl (List Nat)
  /-- IPv6 addresses under duplicate address detection, with the sample it began, and those found in use elsewhere (R131) -/
  dad : Tbl (List (Nat × Nat))
  dup : Tbl (List Nat)
  /-- the port whose module the I²C controller has selected by QSFPn_MODSEL_N low, by controller (R132) -/
  modSel : Tbl (Option Nat)
  /-- the monitoring data of a port's module is stale (R575) -/
  modStale : Tbl Bool
deriving DecidableEq, Repr

def NetS.reset : NetS :=
  { gclSet := [], gclLive := [], txq := [], rr := [], debt := [], debtAt := [], inFlight := [], hostDone := [],
    master := [], unans := [], t3 := [], mpd := [], syncWait := [], t21 := [], lockIn := [], lockOut := [],
    recheck := [], neigh := [], lpOff := [], rstUntil := [], wake := [], backlog := [], failing := [], reqInt := [], reqAt := [], barred := [], dad := [],
    dup := [], modSel := [], modStale := [] }


/-- Rate conversion. A user is named by 1024 × its kind (PATH_SEL.KIND) + its index; a converter channel by 64 × user + channel. -/
structure SrcS where
  /-- the path in force of each user: 256 × PATH + group -/
  path : Tbl Nat
  /-- the users of each group, the pool channels of each user, and who they count against -/
  users : Tbl (List Nat)
  taken : Tbl Nat
  ownedBy : Tbl Nat
  /-- BW and RANGE in force, 8 × RANGE + BW -/
  act : Tbl (Option Nat)
  /-- acquisition: bandwidth of the stage in mHz (0 in the lock test), the sample of the clock it began at, ticks passed in the lock test -/
  stage : Tbl Nat
  stageAt : Tbl Nat
  good : Tbl Nat
  /-- the sample of the clock at which HOLD was entered; consecutive ticks in range while in FAULT -/
  holdAt : Tbl Nat
  inRange : Tbl Nat
  /-- full acquisition starts at the next tick boundary (R195); the output is muted until then -/
  relock : Tbl Bool
  /-- first sample of the fade-in, and of the fade in HOLD plus 1 -/
  fadeAt : Tbl Nat
  dropAt : Tbl Nat
  /-- groups whose RELOCK bit has been written (R201) -/
  relockPend : List Nat
  /-- the ratio loop (R189), newest first: from a count on, its modelled instant in 2^−32 grid steps and the ratio it advances at -/
  loop : Tbl (List (Int × Int × Nat))
  /-- the instant measured last, with its count, and the last one before the tick in progress; the tracking errors of the tick, in 1/4096
  input period -/
  meas : Tbl (Option (Int × Int))
  prev : Tbl (Option (Int × Int))
  errs : Tbl (List Int)
  /-- a stream has realigned since its group entered HOLD (R190) -/
  broke : Tbl Bool
  /-- φ of R192 in 2^−32 sample -/
  phi : Tbl Nat
  /-- what each converter channel keeps of its source, newest first: index and value; and the value it converted last -/
  mem : Tbl (List (Int × Int))
  last : Tbl Int
deriving DecidableEq, Repr

def SrcS.reset : SrcS :=
  { path := [], users := [], taken := [], ownedBy := [], act := [], stage := [], stageAt := [], good := [], holdAt := [],
    inRange := [], relock := [], fadeAt := [], dropAt := [], relockPend := [], loop := [], meas := [], prev := [], errs := [], broke := [],
    phi := [], mem := [], last := [] }


/-- A multicast membership (R150): port, address version, group, source (0 for any), and the sample of the second report. -/
structure Member where
  port : Nat
  v6 : Bool
  dst : Nat
  src : Nat
  again : Option Nat
deriving DecidableEq, Repr

/-- A SAP session (R149): its identity, the version of its description, the sample it was last heard, its interval in samples. -/
structure SapSession where
  id : Nat
  ver : Nat
  text : List Byte
  heard : Nat
  every : Nat
deriving DecidableEq, Repr

/-- Reception of streams. Keys: stream; 2 × stream + plane; stream × 2^64 + count for buffer positions; receive channel. -/
structure RxS where
  /-- enabled streams; entries that have been created -/
  on : List Nat
  used : Tbl Bool
  /-- written positions: the values of all channels; the first arrival stamp of a copy of the position -/
  buf : Tbl (List Int)
  first : Tbl (Option Int)
  /-- concealment gain m and the last stored sample presented (R163) -/
  m : Tbl Nat
  h : Tbl (List Int)
  /-- the next count to present, one more than the highest count written, the first count of the packet that entered RESYNC -/
  next : Tbl Nat
  hi : Tbl Nat
  res : Tbl Nat
  /-- the stream has timing: a packet was accepted since it was enabled -/
  timed : Tbl Bool
  /-- C of R152; the anchor of R153 of a stream without a tracked group: a count and its source instant in 2^−32 grid steps -/
  corr : Tbl Int
  anchor : Tbl (Option (Int × Int))
  lastArr : Tbl Int
  okAt : Tbl (Option Int)
  seq : Tbl (Option Nat)
  realigned : Tbl Bool
  strict : Tbl Bool
  /-- the samples of the last STREAM_START and STREAM_STOP -/
  startAt : Tbl Nat
  stopAt : Tbl Nat
  /-- packets of the sample period in progress, by arrival stamp: stream, plane, stamp, UDP payload (R158) -/
  arrived : List (Nat × Nat × Int × List Byte)
  /-- positions presented in the sample period in progress, an AM824 word as 256 times its audio value plus its label, and the
  value of each receive channel -/
  cur : Tbl (List (List Int))
  val : Tbl Int
  /-- the event FIFO, oldest first: sequence number, code, stream (R174); what each function last read of it -/
  evt : List (Nat × Nat × Nat)
  evtSeq : Nat
  evtOut : Tbl Nat
  /-- the function and stream whose COMMIT waits, and the tick whose boundary carries it out (R172, R388) -/
  commit : Option (Nat × Nat)
  members : List Member
  /-- the membership that firmware holds for a leg, by 2 × stream + leg: port, IPv6, group, source -/
  joined : Tbl (Option (Nat × Bool × Nat × Nat))
  /-- queries to be answered: port, IPv6, group, 0 for a general one; and the version of an earlier querier with the sample until which it
  counts as present, by 2 × port + IPv6 (R150) -/
  asked : List (Nat × Bool × Nat)
  querier : Tbl (Option (Nat × Nat))
  /-- a grandmaster has changed since LOCK was last evaluated (R148) -/
  lockEval : Bool
  sapOn : Bool
  sapAddrs : List Nat
  sessions : List SapSession
  /-- the reference clock a description named, by stream: grandmaster and domain; and the session it came from -/
  sdpRef : Tbl (Option (Nat × Nat))
  sapOf : Tbl (Option Nat)
deriving DecidableEq, Repr

def RxS.reset : RxS :=
  { on := [], used := [], buf := [], first := [], m := [], h := [], next := [], hi := [], res := [], timed := [],
    corr := [], anchor := [], lastArr := [], okAt := [], seq := [], realigned := [], strict := [], startAt := [],
    stopAt := [], arrived := [], joined := [], asked := [], querier := [], lockEval := false, cur := [], val := [], evt := [], evtSeq := 0, evtOut := [], commit := none, members := [], sapOn := false,
    sapAddrs := [0xEFFFFFFF, 0xE0027FFE], sessions := [], sdpRef := [], sapOf := [] }


/-- The crosspoint (R204–R231). Keys: X-in 0–4095 and 4096 + X-out; X-out; X-out × 2^64 + index for delayed values. -/
structure XpS where
  /-- input vectors n, n − 1 and n − 2, n being the sample in progress (R21) -/
  vec : Tbl Int
  vec1 : Tbl Int
  vec2 : Tbl Int
  /-- X-ins active in vector n (R212) -/
  act : Tbl Bool
  /-- trim ramps of X-ins and X-outs: from, to, first index (R211, R221); none is a steady unity trim -/
  trim : Tbl (Option (Nat × Nat × Nat))
  /-- the sums handed on last (R231), the output values of the index in progress, and past values in the delay pool -/
  sums : Tbl Int
  y : Tbl Int
  hist : Tbl Int
  /-- crossfades of D: old, new, first index (R228) -/
  xfade : Tbl (Option (Nat × Nat × Nat))
  /-- a DELAY_ALLOC that waits: the tick it is applied at and its list (R229) -/
  alloc : Option (Nat × List (Nat × Nat))
  /-- the index at which an output fades in after a new allocation, plus 1 -/
  allocAt : Tbl Nat
  /-- boundaries of XPNT_INPUT_SET commands that wait (R237) -/
  inPend : List Nat
  /-- IN_ASSIGN commands that wait: function, first X-in, count, SHARE -/
  assign : List (Nat × Nat × Nat × Bool)
  /-- population scaling: ramps from, to, first index (R225); the largest count of the tick in progress (R223) -/
  popK : Tbl (Option (Nat × Nat × Nat))
  popN : Tbl Nat
  /-- what local ports and Umarun inputs present in the sample in progress (R208) -/
  locVal : Tbl Int
  locOn : Tbl Bool
  ulVal : Tbl Int
  ulOn : Tbl Bool
deriving DecidableEq, Repr

def XpS.reset : XpS :=
  { vec := [], vec1 := [], vec2 := [], act := [], trim := [], sums := [], y := [], hist := [], xfade := [], alloc := none,
    allocAt := [], inPend := [], assign := [], popK := [], popN := [], locVal := [], locOn := [], ulVal := [], ulOn := [] }

/-- A turn that has fired and not yet started (R246, R255): descriptor, ramp, its own n, its first sample, its signatures. -/
structure Turn where
  td : Nat
  rmp : Nat
  n : Nat
  start : Nat
  sigs : List Nat
deriving DecidableEq, Repr

/-- An entry of the edit FIFO (R252): who wrote it, the signature, the node 4096 × j + i, the code. -/
structure Edit where
  fn : Nat
  sig : Nat
  node : Nat
  code : Nat
deriving DecidableEq, Repr

/-- What waits for a boundary to act on verso (R241, R242, R251). -/
inductive VersoOp where
  | edits (window : Bool) (l : List Edit)
  | revert (sigs : List Nat)
  | clear (sigs : List Nat)
deriving DecidableEq, Repr

/-- A save in progress (R263): the command, what it saves (ID, signature, verso), and the copy made at a tick boundary. -/
structure Save where
  env : Env
  fn : Nat
  what : List (Nat × Nat × Bool)
  copy : Option (List Scene)
deriving DecidableEq, Repr

/-- Banks, turns and edits (R238–R264). -/
structure ScnS where
  /-- the codes of bank b of signature s, by 2s + b (R238) -/
  banks : Tbl (Tbl Nat)
  /-- words of the difference map whose bit reads 1 though the two banks hold the same word, by signature (R408) -/
  stale : Tbl (List Nat)
  turns : List Turn
  /-- slots whose turn has fired: n plus 1 (R247) -/
  fired : Tbl Nat
  /-- accepted requests for the next tick: descriptor, n (R245) -/
  now : List (Nat × Nat)
  /-- the FIFO has been drained at b or e; verso unlocks at the next boundary -/
  drained : Tbl Bool
  /-- the edit FIFO, oldest first; what waits for a boundary -/
  fifo : List Edit
  verso : List (Nat × VersoOp)
  /-- loads accepted or in progress: the scene, a and e (R264) -/
  load : Tbl (Option (Scene × Nat × Nat))
  save : Option Save
deriving DecidableEq, Repr

def ScnS.reset : ScnS :=
  { banks := [], stale := [], turns := [], fired := [], now := [], drained := [], fifo := [], verso := [], load := [], save := none }

/-- What a meter publishes for a tick (R273). -/
structure Pub where
  peak : Nat
  tpeak : Nat
  rms : Nat
  hold : Nat
  gate : Bool
  popn : Nat
  clips : Nat
  opened : Bool
deriving DecidableEq, Repr

/-- A block of a snapshot set in progress (R280): its first index, the meters' values, the generation of signatures at its
first index and whether that is a ramp index (R281), an action's mark, and records dropped since the last written one. -/
structure Block where
  start : Option Nat
  meters : Tbl (Option Pub)
  tags : Tbl (Nat × Bool)
  act : Bool
  lost : Bool
deriving DecidableEq, Repr

/-- A record that waits to be written (R286): its set, its bytes. -/
structure SnapRec where
  set : Nat
  owner : Nat
  bytes : List Byte
deriving DecidableEq, Repr

/-- Meters (R270–R290), by meter number. -/
structure MetS where
  /-- values other than zero of the tick in progress, as (index mod 32, value); clip increments; gate openings -/
  vals : Tbl (List (Nat × Int))
  clips : Tbl Nat
  opened : Tbl Bool
  /-- the output values before the tick in progress that its true-peak points use, newest first -/
  tail : Tbl (List Int)
  /-- E of R275, H and a of R276 -/
  e : Tbl Nat
  hold : Tbl Nat
  age : Tbl Nat
  /-- the gates and their hang counts (R278) -/
  gate : Tbl Bool
  hang : Tbl Nat
  /-- what was published last, the tags of signatures, the tick -/
  pub : Tbl (Option Pub)
  tags : Tbl (Nat × Nat × Bool)
  pubTick : Nat
  /-- generation and ramp mark of each signature at the first index of the tick in progress -/
  tagA : Tbl (Nat × Bool)
  /-- the profile words in force at the first sample of the tick, and the profile of each meter (R275) -/
  prof : List Nat
  bal : Tbl Nat
  /-- holds to be cleared at the next tick boundary; functions whose meters all are; meters that changed owner -/
  clr : List Nat
  clrAll : List Nat
  moved : List Nat
  blocks : Tbl (Option Block)
  recs : List SnapRec
  /-- the last record written, and its address; the last HEAD written to HEAD_ADDR, and its address -/
  lastRec : Option (SnapRec × Nat)
  lastHead : Option (Nat × List Byte)
deriving DecidableEq, Repr

def MetS.reset : MetS :=
  { vals := [], clips := [], opened := [], tail := [], e := [], hold := [], age := [], gate := [], hang := [], pub := [],
    tags := [], pubTick := 0, tagA := [], prof := [], bal := [], clr := [], clrAll := [], moved := [], blocks := [], recs := [],
    lastRec := none, lastHead := none }


/-- A value of a transmit stream's sample: the exported word, whether the channel's source was present, and the label that a
patch from an AM824 stream brings (R295, R299). -/
structure TxVal where
  word : Int
  present : Bool
  label : Option Nat
deriving DecidableEq, Repr

/-- Transmission of streams (R291–R309). Keys: stream; port. -/
structure TxS where
  /-- enabled streams; entries that have been created; streams to be disabled once their last packet is sent (R513) -/
  on : List Nat
  used : Tbl Bool
  closing : List Nat
  /-- the spans of first samples that are sent: from a START, up to a STOP (R302) -/
  win : Tbl (List (Nat × Option Nat))
  /-- the stream samples formed and not yet sent, each with its channels' values -/
  buf : Tbl (List (Nat × List TxVal))
  /-- what receive streams presented last: first count, values, newest last (R295) -/
  hist : Tbl (List (Nat × List (List Int)))
  /-- the function and stream whose COMMIT waits, with its tick (R311, R388); the stream whose commit completed at this boundary, with the entry it had (R304) -/
  commit : Option (Nat × Nat)
  prev : Option (Nat × List Nat)
  names : Tbl (List Byte)
  /-- version of the description; the ts-refclk line of each port (R308) -/
  ver : Tbl Nat
  refTxt : Tbl (List Byte)
  /-- the version announced last plus 1 and the sample (R309) -/
  sapVer : Tbl Nat
  sapAt : Tbl Nat
deriving DecidableEq, Repr

def TxS.reset : TxS :=
  { on := [], used := [], closing := [], win := [], buf := [], hist := [], commit := none, prev := none, names := [], ver := [],
    refTxt := [], sapVer := [], sapAt := [] }

/-- Local audio ports and clock pins (R315–R341). Keys: I²S port; receiver; transmitter; 2 × one of them + channel; a source of
samples is a port, or 16 + a receiver. -/
structure LocS where
  /-- ports, receivers and transmitters that are not OFF -/
  i2s : List Nat
  rxs : List Nat
  txs : List Nat
  /-- the last WS edge, plus 1; the words of each direction with their slot; edges until a direction's first pair -/
  clkAt : Tbl Nat
  inF : Tbl (List (Int × Bool))
  outF : Tbl (List (Int × Bool))
  inWait : Tbl Nat
  outWait : Tbl Nat
  /-- the pairing of a direction is swapped (R327); a RESTART waits for the edge -/
  swapIn : Tbl Bool
  swapOut : Tbl Bool
  restart : Tbl Bool
  /-- a write of EN = 0 waits for the edge (R324) -/
  halt : Tbl Bool
  /-- a start that has fired, as its sample; a write of GRP_CTL.START waiting for the tick -/
  startAt : Tbl (Option Nat)
  grpStart : Tbl Bool
  /-- the words driven on SDO in the frame in progress -/
  sdo : Tbl Int
  /-- receivers: frames since the last Z preamble plus 1 (SEARCH), place in the block (LOCKED), the last preamble plus 1 -/
  rxZ : Tbl Nat
  rxPos : Tbl Nat
  rxAt : Tbl Nat
  /-- C and U bits gathered, a V bit seen, an error seen in this block, the last block had none -/
  rxC : Tbl Nat
  rxU : Tbl Nat
  rxV : Tbl Bool
  rxBad : Tbl Bool
  rxClean : Tbl Bool
  /-- R334: h, N − m, the last good sample; samples not yet handed on -/
  rxHold : Tbl Nat
  rxFall : Tbl Nat
  rxGood : Tbl Int
  rxDelay : Tbl (List (Int × Int))
  /-- transmitters: frames since the block began (192 or more: a block is due), the first frame with audio, the sample of the
  first faded-in value plus 1, a START waiting for the tick, the last subframes sent (slots 4 to 31) -/
  txPos : Tbl Nat
  txFrom : Tbl Nat
  txFade : Tbl Nat
  txGo : Tbl Bool
  /-- zero audio since the MPLL lost lock, until an ALIGN (R100) -/
  txDark : Tbl Bool
  txOut : Tbl Nat
  /-- WCLK_OUT (0) and 1PPS_OUT (1): enabled at a tick boundary; RATE and WIDTH in force; MCLKi words in force -/
  clkEn : Tbl Bool
  /-- the level of WCLK_OUT and 1PPS_OUT -/
  clkHigh : Tbl Bool
  clkSet : Tbl Nat
  mclk : Tbl Nat
deriving DecidableEq, Repr

def LocS.reset : LocS :=
  { i2s := [], rxs := [], txs := [], clkAt := [], inF := [], outF := [], inWait := [], outWait := [], swapIn := [],
    swapOut := [], restart := [], halt := [], startAt := [], grpStart := [], sdo := [], rxZ := [], rxPos := [],
    rxAt := [], rxC := [], rxU := [], rxV := [], rxBad := [], rxClean := [], rxHold := [], rxFall := [], rxGood := [],
    rxDelay := [], txPos := [], txFrom := [], txFade := [], txGo := [], txDark := [], txOut := [], clkEn := [], clkHigh := [], clkSet := [], mclk := [] }

/-- A cell that waits to be sent: its header, its payload, the FLAGS of its trailer (R356). -/
structure UCell where
  hdr : Nat
  pl : List Byte
  flags : Nat
deriving DecidableEq, Repr

/-- A MGMT message of which some fragments have come (R360): its sender, its number, FRAG_LAST, the grid point and the link of
its first fragment, the fragments. -/
structure UPart where
  src : Nat
  msg : Nat
  last : Nat
  at_ : Nat
  link : Nat
  frags : List (Nat × List Byte)
deriving DecidableEq, Repr

/-- A command sent through the tunnel that waits for its completion (R383), and the sample it was sent in. -/
structure Tunnel where
  msg : Nat
  env : Env
  since : Nat
deriving DecidableEq, Repr

/-- A completion that a tunnelled command leaves for its sender. -/
structure TunCpl where
  dst : Nat
  msg : Nat
  c : Completion
deriving DecidableEq, Repr

/-- The receiver of a physical lane: the last 58 bits received, which headers of the last 64 blocks were invalid (newest at bit 0), valid
headers in a row up to 64 (R350, R353). -/
structure ULane where
  prev : BitVec 58
  bad : BitVec 64
  run : Nat
deriving DecidableEq, Repr
def ULane.reset : ULane := { prev := 0, bad := 0, run := 0 }

/-- A change that the active member of a mirror pair has accepted and applies whole at its boundary (R388): a command, DEFINE or
RELEASE of a descriptor, CANCEL of a slot. -/
inductive Later where
  | cmd (i : Instr)
  | define (fn td : Nat)
  | release (fn td : Nat)
  | cancel (fn slot w : Nat)
deriving DecidableEq, Repr

/-- Umarun links and multi-device systems (R349–R400). Keys: link; cell; X-out; device; relay channel. -/
structure UmaS where
  /-- consecutive good marker sets in DESKEW, and consecutive deskew failures (R353, R354) -/
  good : Tbl Nat
  bad : Tbl Nat
  /-- TRAIN: consecutive good cells that agree, consecutive ones with READY, cells sent with READY, grid point of entry -/
  trainOk : Tbl Nat
  rdyRx : Tbl Nat
  rdyTx : Tbl Nat
  trainAt : Tbl Nat
  /-- grid point of the last good cell -/
  lastGood : Tbl Nat
  /-- last SEQ sent, last accepted -/
  txSeq : Tbl Nat
  rxSeq : Tbl (Option Nat)
  /-- cells that wait by link, and a TIME cell that is due -/
  sumQ : Tbl (List UCell)
  mgmtQ : Tbl (List UCell)
  timeDue : Tbl Bool
  /-- receivers and scramblers of the lanes, by 4 × link + lane; cells sent since the last marker set; the blocks sent last, by lane (R350–R352) -/
  lane : Tbl ULane
  scr : Tbl (BitVec 58)
  slot : Tbl Nat
  sent : Tbl (List (List UBlock))
  /-- TX time of the last good TIME cell of a link and its arrival, in grid steps -/
  echo : Tbl (Option (Nat × Nat))
  /-- 2D of the last used measurements, newest first; 2θ of those of this tick (R371) -/
  ds : Tbl (List Int)
  thetas : Tbl (List Int)
  /-- what the last TIME cell of a link said: MGR_OFS, MGR_STATE, HOPS; MIRROR_STATE, DIGEST -/
  mgr : Tbl (Option (Int × Nat × Nat))
  peer : Tbl (Nat × Nat)
  /-- the manager's state as this device last learned it -/
  mgrState : Nat
  /-- partial sums received for the vector in progress, with SAT; those last used; vectors for which a cell has been missing -/
  psGot : Tbl (Option (List Int × Bool))
  psUse : Tbl (List Int)
  psMiss : Tbl Nat
  /-- the sums of past indices, newest first (R376) -/
  past : List (Tbl Int)
  /-- population counts: own of the tick before, received, cells received, the total (R379) -/
  popOwn : Tbl Nat
  popGot : Tbl Nat
  popCells : List Nat
  popSum : Tbl Nat
  /-- relay: cells received for the index in progress, those missing so far; values of the index in progress to be sent -/
  relGot : Tbl (Option (List Int))
  relMiss : Tbl Nat
  relOut : Tbl Int
  /-- presence maps held: tick, mask bytes (R362) -/
  maps : List (Nat × List Byte)
  /-- MGMT: messages in part; fragments seen, with their sample (R365, R382); the last MSG_ID -/
  parts : List UPart
  seen : List (Nat × Nat × Nat × Nat)
  msgId : Nat
  /-- HIER_JOIN waiting for the tick boundary (R366); the parameters in force -/
  join : Option HierP
  hier : Option HierP
  /-- the sample each device was last heard in -/
  heard : Tbl Nat
  /-- mirror: a copy is pending; the tick boundary named for the end of pairing; takeover at the next tick boundary -/
  copying : Bool
  copyAt : Option Nat
  takeover : Bool
  /-- the sample of the partner's last TIME cell; the sample this member entered the running group -/
  partnerAt : Nat
  runSince : Nat
  /-- accepted changes not yet forwarded; ticks at which accepted changes are applied; changes made while alone -/
  fwd : Nat
  digDue : List Nat
  alone : List Nat
  /-- accepted changes that wait whole for their tick -/
  later : List (Nat × Later)
  /-- changes forwarded by the partner, by the tick they are applied at; a MODE_SET among those applied -/
  changes : List (Nat × MirrorCopy)
  modeReq : Option Nat
  digest : Nat
  /-- tunnel: commands sent; commands received, as sender and number; completions to send -/
  tunnels : List Tunnel
  tunWait : List (Nat × Nat × Nat)
  tunCpl : List TunCpl
  /-- collator slots reserved for grid turns: descriptor, slot, sample (R385) -/
  resv : List (Nat × Nat × Nat)
deriving DecidableEq, Repr

def UmaS.reset : UmaS :=
  { good := [], bad := [], trainOk := [], rdyRx := [], rdyTx := [], trainAt := [], lastGood := [], lane := [], scr := [], slot := [], later := [], txSeq := [],
    rxSeq := [], sumQ := [], mgmtQ := [], timeDue := [], sent := [], echo := [], ds := [], thetas := [], mgr := [], peer := [],
    mgrState := 0, psGot := [], psUse := [], psMiss := [], past := [], popOwn := [], popGot := [], popCells := [], popSum := [],
    relGot := [], relMiss := [], relOut := [], maps := [], parts := [], seen := [], msgId := 0, join := none, hier := none,
    heard := [], copying := false, copyAt := none, takeover := false, partnerAt := 0, runSince := 0, fwd := 0, digDue := [],
    alone := [], changes := [], modeReq := none, digest := 0, tunnels := [], tunWait := [], tunCpl := [], resv := [] }

/-- Modes and start-up (R444–R468): what no register shows. -/
structure ModeS where
  /-- an accepted MODE_SET: its target and the tick whose boundary it takes effect at (R451) -/
  req : Option (Nat × Nat)
  /-- ticks in the present mode; consecutive tick boundaries with the phase error inside PRE_WIN (R463) -/
  ticks : Nat
  steady : Nat
  /-- PREROLL was entered under R461 with no candidate selected (R463); start-up has not ended (R460) -/
  noSel : Bool
  startup : Bool
  /-- observed for the next tick boundary: the thermal limit; the mode that the end of start-up, ACQUIRE or preroll leads to,
  with FREERUN_START; the mode of the running group (R453) -/
  thermDue : Bool
  endDue : Option (Nat × Bool)
  groupDue : Option Nat
  /-- consecutive ticks at the shutdown limit, and below it by more than 10 °C (R466) -/
  hot : Nat
  cool : Nat
  /-- first output index of the fade of R464; the boundary at which SAFE was entered from a mode that sends -/
  fadeAt : Option Nat
  safeAt : Option Nat
  /-- index of the sample period that begins at the boundary at which media time is stepped (R84) -/
  stepTo : Option Nat
  /-- the slot the boot ROM has verified; a restart of the device at the next tick boundary (R545, R549) -/
  picked : Option Nat
  restart : Bool
  /-- the wake port and the enabled patterns, kept through STANDBY (R467) -/
  wakePort : Nat
  wakeEn : Nat
  /-- the bits of COND as they stood at the last tick boundary (R472) -/
  cond : Nat
deriving DecidableEq, Repr

def ModeS.reset : ModeS :=
  { req := none, ticks := 0, steady := 0, noSel := false, startup := false, thermDue := false, endDue := none, groupDue := none,
    hot := 0, cool := 0, fadeAt := none, safeAt := none, stepTo := none, picked := none, restart := false, wakePort := 0,
    wakeEn := 0, cond := 0 }

/-- What a program or erase of the flash does when it ends (R587, R589). -/
inductive FlashWhat where
  /-- the startup configuration with its boot scenes (R460) -/
  | config (words : Tbl Word) (scenes : List (Nat × Nat))
  /-- a key goes into a slot, or a slot becomes EMPTY (R535, R536) -/
  | keyLoad (t key : Nat)
  | keyRetire (t : Nat)
  /-- the boot control record names the staging slot, on trial (R545) -/
  | activate
  /-- a factory erase (R549) -/
  | erase
  /-- bytes of a staging write (R544) -/
  | stage (ofs : Nat) (data : List Byte)
deriving DecidableEq, Repr

/-- An operation on the flash: its place in the order of R589, the command that waits for it and the function it acts as. -/
structure FlashOp where
  prio : Nat
  env : Env
  fn : Nat
  what : FlashWhat
deriving DecidableEq, Repr

/-- An I²C transfer that a command asked for (R573). -/
structure Xfer where
  env : Env
  segs : List I2cSeg
deriving DecidableEq, Repr

/-- Low-speed interfaces (R570–R598). Keys: controller; UART. -/
structure LsS where
  /-- transfers accepted, the one in progress first; a bus check is due, and the commands that wait for its outcome -/
  xfers : Tbl (List Xfer)
  check : Tbl Bool
  checkFor : Tbl (List Env)
  /-- bytes in the transmit FIFOs; bytes in the receive FIFOs, marked where received with an error; writes not yet placed -/
  tx : Tbl (List Byte)
  rx : Tbl (List (Byte × Bool))
  wrQ : Tbl (List (Env × List Byte))
  /-- the last sub-sample of RXD was low; the sub-samples of the frame in progress; the bit periods of the last frame sent (R577, R578) -/
  rxLow : Tbl Bool
  rxPart : Tbl (List Bool)
  txd : Tbl (List Bool)
  /-- LAST_ERR of the SPI status byte; what the target last returned; the staging buffer of the recovery state (R583, R585) -/
  lastErr : Bool
  miso : List Byte
  recBuf : Tbl (Option Byte)
  /-- flash operations: in progress, suspended (the last one first), waiting (R589) -/
  run : Option FlashOp
  susp : List FlashOp
  wait : List FlashOp
  /-- the ordering code is X4096-E (R617) -/
  grade : Bool
deriving DecidableEq, Repr

def LsS.reset : LsS :=
  { xfers := [], check := [], checkFor := [], tx := [], rx := [], wrQ := [], rxLow := [], rxPart := [], txd := [], lastErr := false, miso := [], recBuf := [],
    run := none, susp := [], wait := [], grade := false }

/-- The state of the block. -/
structure State where
  /-- the registers of every page, by page, object and offset; an unlisted one holds its reset word -/
  regs : Tbl Word
  /-- pending values of RWB fields, in the order written (R561) -/
  held : List Held
  /-- media time and the collator -/
  tim : TimeS
  /-- references and clock generators -/
  ref : RefS
  /-- faults and the errata ring -/
  flt : FltS
  /-- commands and their completions -/
  cmd : CmdS
  /-- the host interface and tenants -/
  host : HostS
  /-- what flash and one-time-programmable memory hold -/
  flash : FlashS
  /-- network ports and PTP -/
  net : NetS
  /-- rate conversion -/
  src : SrcS
  /-- reception of streams -/
  rx : RxS
  /-- the crosspoint -/
  xp : XpS
  /-- banks, turns and edits -/
  scn : ScnS
  /-- meters -/
  met : MetS
  /-- transmission of streams -/
  tx : TxS
  /-- local audio ports and clock pins -/
  loc : LocS
  /-- Umarun links and the hierarchy -/
  uma : UmaS
  /-- modes and start-up -/
  md : ModeS
  /-- low-speed interfaces and the flash -/
  ls : LsS
  /-- how many free values have been used: the model's own field, which picks the next free value of Config -/
  free : Nat
  /-- the commands that wait, first in, first out -/
  pending : List Instr
deriving DecidableEq, Repr

/-- Why a step can stop with a fault. No meaning of this block raises one: every row of the table has an effect. -/
inductive Fault where
  /-- raised by nothing; the spec names no operation that ends the machine. Safe: no step answers it. -/
  | none_
deriving DecidableEq, Repr

/-- Why a step can be refused. -/
inductive Refusal where
  /-- the dispatcher raises it for a command whose meaning has not been written. Safe: the machine stops. -/
  | notModelled (mnemonic : String)
deriving DecidableEq, Repr

/-- The machine right after reset: every register at its reset word, every field at the value the spec or the log gives,
no command waiting. -/
def State.reset : State :=
  { regs := [], held := [], tim := TimeS.reset, ref := RefS.reset, flt := FltS.reset, cmd := CmdS.reset, host := HostS.reset, flash := FlashS.reset, net := NetS.reset, src := SrcS.reset, rx := RxS.reset, xp := XpS.reset, scn := ScnS.reset, met := MetS.reset, tx := TxS.reset, loc := LocS.reset, uma := UmaS.reset, md := ModeS.reset, ls := LsS.reset, free := 0, pending := [] }

end Sys2Proof.Machine
end

