-- ==== Sys2Proof/Machine/Ops.lean ====
section
/-!
DEFINITION. The shared operations: sparse tables, reading and writing register words and fields, counters, interrupt bits,
errata records and free values.
-/
namespace Sys2Proof.Machine

/-! ## Sparse tables -/

/-- What a table holds at a key; `d` is what an unlisted key reads as. -/
def tget (d : Nat → α) : Tbl α → Nat → α
  | [], k => d k
  | (j, v) :: t, k => if j = k then v else tget d t k

/-- Put an entry in its place by key. -/
def tins (k : Nat) (v : α) : Tbl α → Tbl α
  | [] => [(k, v)]
  | (j, w) :: t => if k < j then (k, v) :: (j, w) :: t else (j, w) :: tins k v t

/-- Write a table at a key; writing what an unlisted key reads as removes the entry. -/
def tset [DecidableEq α] (d : Nat → α) (t : Tbl α) (k : Nat) (v : α) : Tbl α :=
  let r := t.filter (fun e => e.1 != k)
  if v = d k then r else tins k v r

/-- Keys strictly rising. -/
def tsorted : Tbl α → Bool
  | [] => true
  | [_] => true
  | (j, _) :: (k, w) :: t => decide (j < k) && tsorted ((k, w) :: t)

/-- The canonical form of a table: keys strictly rising, no entry equal to what an unlisted key reads as. -/
def twf [DecidableEq α] (d : Nat → α) (t : Tbl α) : Bool := tsorted t && t.all (fun e => decide (e.2 ≠ d e.1))

/-- Tables of naturals, integers, Booleans and options, whose unlisted keys read zero, false and none. -/
def ng (t : Tbl Nat) (k : Nat) : Nat := tget (fun _ => 0) t k
def ns (t : Tbl Nat) (k v : Nat) : Tbl Nat := tset (fun _ => 0) t k v
def ig (t : Tbl Int) (k : Nat) : Int := tget (fun _ => 0) t k
def is (t : Tbl Int) (k : Nat) (v : Int) : Tbl Int := tset (fun _ => 0) t k v
def bg (t : Tbl Bool) (k : Nat) : Bool := tget (fun _ => false) t k
def bs (t : Tbl Bool) (k : Nat) (v : Bool) : Tbl Bool := tset (fun _ => false) t k v
def og (t : Tbl (Option α)) (k : Nat) : Option α := tget (fun _ => none) t k
def os [DecidableEq α] (t : Tbl (Option α)) (k : Nat) (v : Option α) : Tbl (Option α) := tset (fun _ => none) t k v

/-! ## Bits and signed numbers -/

def bit (w n : Nat) : Bool := w.testBit n
def b2n (b : Bool) : Nat := if b then 1 else 0
/-- Bits `hi` to `lo` of a word. -/
def fbits (w hi lo : Nat) : Nat := (w >>> lo) % 2 ^ (hi - lo + 1)
/-- A word with bits `hi` to `lo` replaced. -/
def fput (w hi lo v : Nat) : Nat :=
  (w >>> (hi + 1)) <<< (hi + 1) + (v % 2 ^ (hi - lo + 1)) <<< lo + w % 2 ^ lo
/-- The mask of bits `hi` to `lo`. -/
def fmask (hi lo : Nat) : Nat := (2 ^ (hi - lo + 1) - 1) <<< lo
/-- An `n`-bit word read as two's complement. -/
def sgn (n w : Nat) : Int := if w < 2 ^ (n - 1) then w else (w : Int) - 2 ^ n
/-- An integer as an `n`-bit two's complement word. -/
def uns (n : Nat) (v : Int) : Nat := (v % (2 ^ n : Nat)).toNat
def clampI (lo hi v : Int) : Int := max lo (min hi v)
/-- Saturation to `n` bits, two's complement. -/
def satI (n : Nat) (v : Int) : Int := clampI (-(2 ^ (n - 1) : Nat)) ((2 ^ (n - 1) : Nat) - 1) v
/-- Round up to a whole multiple count: ceil(a / b) for b > 0. -/
def cdiv (a b : Nat) : Nat := (a + b - 1) / b
def cdivI (a b : Int) : Int := -((-a) / b)

/-! ## Register words -/

/-- The first page of the class a page belongs to (R568). -/
def pageClass (p : Nat) : Nat :=
  if 0x04 ≤ p ∧ p ≤ 0x07 then 0x04 else if 0x0A ≤ p ∧ p ≤ 0x0D then 0x0A
  else if 0x14 ≤ p ∧ p ≤ 0x17 then 0x14 else if 0x1A ≤ p ∧ p ≤ 0x1F then 0x1A
  else if 0x25 ≤ p ∧ p ≤ 0x2C then 0x25 else if 0x40 ≤ p ∧ p ≤ 0x80 then 0x40 else p

/-- How many pages a class has (R557 INSTANCES). -/
def pageCount (c : Nat) : Nat :=
  match c with
  | 0x04 => 4 | 0x0A => 4 | 0x14 => 4 | 0x1A => 6 | 0x25 => 8 | 0x40 => 65 | _ => 1

/-- The directory assigns the page (R568). -/
def pageKnown (p : Nat) : Bool := p ≤ 0x2C || (0x40 ≤ p && p ≤ 0x80)

/-- The key of a register word: page, object and offset. An object is an instance of a repeating block, a table entry that
a selector names, or, for what R559 holds per function, the function. -/
def rkey (pg obj off : Nat) : Nat := (pg * 2 ^ 20 + obj) * 2 ^ 12 + off

/-- Look a pair up in a list of reset words. -/
def resetLookup (c off : Nat) : List ((Nat × Nat) × Nat) → Nat
  | [] => 0
  | ((c', o'), v) :: t => if c' = c ∧ o' = off then v else resetLookup c off t

/-- GRP_RATIO of a fixed-ratio group: q/320 in units of 2^−48, rounded to the nearest (R187). -/
def fixedRatio (g : Nat) : Nat := (147 * 2 ^ g * 2 ^ 49 + 320) / 640

/-- The reset words that differ between instances of one register (R569), the words of R557, and those the log names. -/
def resetOverride (pg obj off : Nat) : Option Nat :=
  if off = 0x000 then some (pageClass pg * 2 ^ 24 + 0x020000 + (pg - pageClass pg) * 2 ^ 8 + pg)
  else if pg = 0x03 ∧ off = 0x100 then
    some (match obj with | 0 => 0x80000803 | 1 => 0x80000803 | 2 => 0x80FE0803 | 3 => 0x00400803 | 4 => 0x00600803
                         | 5 => 0x00500803 | 6 => 0x00300803 | _ => 0x00000803)
  else if pg = 0x03 ∧ off = 0x104 then some (if obj ≤ 2 then 0x0F01 else 0x0F20)
  else if 0x04 ≤ pg ∧ pg ≤ 0x07 ∧ (off = 0x080 ∨ off = 0x084 ∨ off = 0x090) ∧ pg ≠ 0x07 then some 0
  else if (pg = 0x06 ∨ pg = 0x07) ∧ 0x0A0 ≤ off then some 0
  else if 0x1B ≤ pg ∧ pg ≤ 0x1F ∧ 0x200 ≤ off then some 0
  else if pg = 0x0F ∧ off = 0x1A0 ∧ obj < 4 then some 1481
  else if pg = 0x10 ∧ off = 0x048 ∧ obj < 3 then some 0x04000000
  else if pg = 0x10 ∧ off = 0x04C ∧ obj < 3 then some 0xF000
  else if pg = 0x10 ∧ off = 0x050 ∧ obj < 3 then some (fixedRatio obj / 2 ^ 32)
  else if pg = 0x10 ∧ off = 0x054 ∧ obj < 3 then some (fixedRatio obj % 2 ^ 32)
  else if pg = 0x12 ∧ off = 0x090 then some 0x9000
  else if pg = 0x12 ∧ off = 0x084 ∧ (obj = 0 ∨ obj = 8) then some 0x40000000
  else if pg = 0x21 ∧ off = 0x040 then some (obj % 8)
  else if pg = 0x24 ∧ off = 0x200 ∧ obj = 1 then some 0x0000065C
  else if pg = 0x25 ∧ off = 0x040 then some 0x40000000
  else if pg = 0x25 ∧ (off = 0x048 ∨ off = 0x04C) then some 0xFFFFFFFF
  else if pg = 0x25 ∧ off = 0x100 ∧ obj = 9 then some 0x4000
  else if pg = 0x80 ∧ 0x400 ≤ off then some 0
  else none

/-- What a register word holds at reset, by key. -/
def resetWord (k : Nat) : Word :=
  let off := k % 2 ^ 12
  let obj := k / 2 ^ 12 % 2 ^ 20
  let pg := k / 2 ^ 32
  match resetOverride pg obj off with
  | some v => BitVec.ofNat 32 v
  | none => BitVec.ofNat 32 (resetLookup (pageClass pg) off resetWords)

/-- Read the word of a register. -/
def State.gw (s : State) (pg obj off : Nat) : Nat := (tget resetWord s.regs (rkey pg obj off)).toNat
/-- Write the word of a register. -/
def State.pw (s : State) (pg obj off v : Nat) : State :=
  { s with regs := tset resetWord s.regs (rkey pg obj off) (BitVec.ofNat 32 v) }
/-- Read a whole register: object `o`, instance `i` of the page. -/
def State.rw (s : State) (r : Reg) (o : Nat := 0) (i : Nat := 0) : Nat := s.gw (r.page + i) o r.off
/-- Write a whole register. -/
def State.ww (s : State) (r : Reg) (v : Nat) (o : Nat := 0) (i : Nat := 0) : State := s.pw (r.page + i) o r.off v
/-- Read a field. -/
def State.rd (s : State) (f : Fld) (o : Nat := 0) (i : Nat := 0) : Nat := fbits (s.rw f.reg o i) f.hi f.lo
/-- Read a signed field. -/
def State.rdS (s : State) (f : Fld) (o : Nat := 0) (i : Nat := 0) : Int := sgn (f.hi - f.lo + 1) (s.rd f o i)
/-- Read a one-bit field. -/
def State.rb (s : State) (f : Fld) (o : Nat := 0) (i : Nat := 0) : Bool := s.rd f o i != 0
/-- Write a field. -/
def State.wr (s : State) (f : Fld) (v : Nat) (o : Nat := 0) (i : Nat := 0) : State :=
  s.ww f.reg (fput (s.rw f.reg o i) f.hi f.lo v) o i
/-- Write a signed field. -/
def State.wrS (s : State) (f : Fld) (v : Int) (o : Nat := 0) (i : Nat := 0) : State :=
  s.wr f (uns (f.hi - f.lo + 1) v) o i
/-- Write a one-bit field. -/
def State.wb (s : State) (f : Fld) (v : Bool) (o : Nat := 0) (i : Nat := 0) : State := s.wr f (b2n v) o i
/-- A 64-bit value held in registers named _HI and _LO (R565). -/
def State.rd64 (s : State) (h l : Reg) (o : Nat := 0) (i : Nat := 0) : Nat := s.rw h o i * 2 ^ 32 + s.rw l o i
def State.wr64 (s : State) (h l : Reg) (v : Nat) (o : Nat := 0) (i : Nat := 0) : State :=
  (s.ww h (v / 2 ^ 32 % 2 ^ 32) o i).ww l (v % 2 ^ 32) o i
/-- Count in a field that saturates. -/
def State.cnt (s : State) (f : Fld) (o : Nat := 0) (i : Nat := 0) (n : Nat := 1) : State :=
  s.wr f (min (2 ^ (f.hi - f.lo + 1) - 1) (s.rd f o i + n)) o i
/-- Count in a field that wraps. -/
def State.cntw (s : State) (f : Fld) (o : Nat := 0) (i : Nat := 0) (n : Nat := 1) : State :=
  s.wr f (s.rd f o i + n) o i
/-- Count in a register that saturates, and in a pair of registers. -/
def State.cntr (s : State) (r : Reg) (o : Nat := 0) (i : Nat := 0) (n : Nat := 1) : State :=
  s.ww r (min 0xFFFFFFFF (s.rw r o i + n)) o i
def State.cnt64 (s : State) (h l : Reg) (o : Nat := 0) (i : Nat := 0) (n : Nat := 1) : State :=
  s.wr64 h l (min 0xFFFFFFFFFFFFFFFF (s.rd64 h l o i + n)) o i

/-! ## Lists of updates -/

/-- Apply an update for every element of a list, first to last. -/
def State.each (s : State) (l : List α) (f : State → α → State) : State := l.foldl f s
/-- Apply an update if a condition holds. -/
def State.iff (s : State) (c : Bool) (f : State → State) : State := if c then f s else s

/-! ## Parts of the state -/

def State.onHeld (s : State) (f : List Held → List Held) : State := { s with held := f s.held }
def State.onTim (s : State) (f : TimeS → TimeS) : State := { s with tim := f s.tim }
def State.onRef (s : State) (f : RefS → RefS) : State := { s with ref := f s.ref }
def State.onFlt (s : State) (f : FltS → FltS) : State := { s with flt := f s.flt }
def State.onCmd (s : State) (f : CmdS → CmdS) : State := { s with cmd := f s.cmd }
def State.onHost (s : State) (f : HostS → HostS) : State := { s with host := f s.host }
def State.onNet (s : State) (f : NetS → NetS) : State := { s with net := f s.net }
def State.onSrc (s : State) (f : SrcS → SrcS) : State := { s with src := f s.src }
def State.onRx (s : State) (f : RxS → RxS) : State := { s with rx := f s.rx }
def State.onXp (s : State) (f : XpS → XpS) : State := { s with xp := f s.xp }
def State.onScn (s : State) (f : ScnS → ScnS) : State := { s with scn := f s.scn }
def State.onMet (s : State) (f : MetS → MetS) : State := { s with met := f s.met }
def State.onTx (s : State) (f : TxS → TxS) : State := { s with tx := f s.tx }
def State.onLoc (s : State) (f : LocS → LocS) : State := { s with loc := f s.loc }
def State.onUma (s : State) (f : UmaS → UmaS) : State := { s with uma := f s.uma }
def State.onMd (s : State) (f : ModeS → ModeS) : State := { s with md := f s.md }
def State.onLs (s : State) (f : LsS → LsS) : State := { s with ls := f s.ls }
def State.onFlash (s : State) (f : FlashS → FlashS) : State := { s with flash := f s.flash }

/-! ## Time -/

/-- The tick in progress (R15). -/
def State.tick (s : State) : Nat := s.tim.sample / 32
/-- The index that is published, or 0 (R45, R446). -/
def State.idx (s : State) : Nat := if s.tim.published then s.tim.sample else 0
/-- Media time now, in grid steps, at grid point `off` of the sample period. -/
def State.grid (s : State) (off : Nat) : Nat := 125000 * s.tim.sample + off
/-- The boundary to which a change accepted now belongs (R27). -/
def State.nextSample (s : State) : Nat := s.tim.sample + 1
/-- The tick to which what is accepted now belongs (R27): once the work of a tick boundary is done, the tick that it begins. -/
def State.accTick (s : State) : Nat := if s.tim.tickDone then s.tick + 1 else s.tick
/-- The first tick boundary after now. -/
def State.nextTick (s : State) : Nat := s.accTick + 1
/-- Sample periods and grid steps that have passed since the release of reset: what elapsed times are taken on. -/
def State.clock (s : State) : Nat := s.tim.count
def State.clockGrid (s : State) (off : Nat) : Nat := 125000 * s.tim.count + off

/-! ## Interrupt bits -/

/-- The functions that may read an object of everyone, of PF0, and of an owner; 8 is the SPI copy, with the rights of PF0. -/
def fnsAll : List Nat := [0, 1, 2, 3, 4, 5, 6, 7, 8]
def fnsPF0 : List Nat := [0, 8]
def fnsOwn (fn : Nat) : List Nat := if fn = 0 then [0, 8] else [0, fn, 8]

/-- The copies of a function's own registers: PF0's values also read through SPI (R558, R559). -/
def copies (fn : Nat) : List Nat := if fn = 0 then [0, 8] else [fn]

/-- The vector a page's line goes to for a function, if its entry is enabled (R479, R521). -/
def State.pageVec (s : State) (fn pg : Nat) : Option Nat :=
  if 0x40 ≤ pg then
    if s.rb HOST.PAGE_VEC_SIG_EN fn then some (s.rd HOST.PAGE_VEC_SIG_VECTOR fn) else none
  else if s.rb HOST.PAGE_VEC_EN (fn + 16 * pg) then some (s.rd HOST.PAGE_VEC_VECTOR (fn + 16 * pg)) else none

/-- A message of a function becomes due on a vector (R480). -/
def State.msi (s : State) (fn v : Nat) : State := s.onHost (fun h => { h with msiDue := h.msiDue ++ [(fn, v)] })

/-- Set an INT_STAT bit in one function's copy; a bit that rises while enabled makes a message due (R480, R560). -/
def State.raise1 (s : State) (pg b : Nat) (fn : Nat) : State :=
  let st := s.gw pg fn 0x010
  if bit st b then s else
    let s := s.pw pg fn 0x010 (st ||| 2 ^ b)
    if bit (s.gw pg fn 0x014) b && decide (fn < 8) then
      match s.pageVec fn pg with
      | some v => s.msi fn v
      | none => s
    else s
/-- An event of a page, for the functions that may read the object concerned (R560). -/
def State.raise (s : State) (pg b : Nat) (fns : List Nat) : State := s.each fns (fun s fn => s.raise1 pg b fn)

/-! ## The errata ring (R425–R428) -/

/-- The severity of a code (R426). -/
def errSev (code : Nat) : Nat :=
  match code with
  | 0x0103 | 0x0202 | 0x0206 | 0x0302 | 0x0602 => 4
  | 0x0104 | 0x0105 | 0x0201 | 0x0203 | 0x0204 | 0x0205 | 0x0303 | 0x0304 | 0x0402 | 0x0403 | 0x0601 => 3
  | 0x0101 | 0x0102 | 0x0301 | 0x0401 | 0x0404 | 0x0503 | 0x0701 => 2
  | _ => 1

/-- An occurrence equal in CODE, page, instance and FN to a record of the same tick still held adds to its COUNT. -/
def errMatch (s : State) (code pg inst : Nat) (fn : Option Nat) (r : ErrRec) : Bool :=
  r.code == code && r.page == pg && r.inst == inst && r.fn == fn && r.tick == s.tick

def errBump (p : ErrRec → Bool) (l : List ErrRec) : List ErrRec :=
  l.map (fun r => if p r then { r with count := min 0xFFFFFFFF (r.count + 1) } else r)

/-- Place a record: the first 48 are preserved, of the others the latest 16 (R428). -/
def errStore (r : ErrRec) (s : State) : State :=
  if s.flt.pres.length < 48 then s.onFlt (fun f => { f with pres := f.pres ++ [r] })
  else if s.flt.recent.length < 16 then s.onFlt (fun f => { f with recent := f.recent ++ [r] })
  else (s.onFlt (fun f => { f with recent := f.recent.drop 1 ++ [r] })).cntr FALT.ERR_OVF

/-- Record a fault occurrence (R427, R428), raising CRITICAL and driving FAULT_N for a critical one (R421, R442). -/
def State.err (s : State) (code pg inst : Nat) (d0 d1 : Nat) (fn : Option Nat := none) (oom : Bool := false) : State :=
  let p := errMatch s code pg inst fn
  let s := s.onFlt (fun f => { f with made := true })
  if (s.flt.pres ++ s.flt.recent).any p then
    s.onFlt (fun f => { f with pres := errBump p f.pres, recent := errBump p f.recent })
  else
    let r : ErrRec := { seq := s.rw FALT.ERR_SEQ, code := code, page := pg, inst := inst, sev := errSev code, oom := oom,
                        fn := fn, count := 1, idx := s.idx, d0 := d0 % 2 ^ 32, d1 := d1 % 2 ^ 32, tick := s.tick }
    let s := errStore r (s.cntw FALT.ERR_SEQ_SEQ)
    let s := s.wr FALT.ERR_STAT_STORED (s.flt.pres.length + s.flt.recent.length)
    let s := s.wb FALT.ERR_STAT_PRES_FULL (s.flt.pres.length == 48)
    if errSev code = 4 then
      ((s.wb FALT.FALT_STAT_CRIT_PEND true).wb FALT.FALT_STAT_FAULT_N true).raise 0x20 1 fnsAll
    else s

/-- A bit of FALT.REDUND that belongs to a fault's kind is set: the fault lies outside the model (R402, R404). -/
def State.beyond (s : State) (kind : Nat) : Bool := s.rw FALT.REDUND &&& kind != 0
/-- The bits of a signature, a memory word, a core PLL, and of a TPLL or plane (R401, R420). -/
def kdSIG : Nat := 0x003
def kdWORD : Nat := 0x800
def kdCPLL : Nat := 0x004
def kdPLANE : Nat := 0x078
def kdMIRROR : Nat := 0x100

/-- A change of a bit of MODE.COND raises COND_CHG (R472). -/
def condNote (s : State) : State :=
  let c := s.rw MODE.COND
  if c = s.md.cond then s else (s.raise 0x00 4 fnsAll).onMd (fun m => { m with cond := c })

/-! ## Free values -/

/-- Take the next free value: a number that the spec does not state. -/
def State.fresh (s : State) : Nat × State := (Config.freeNat s.free, { s with free := s.free + 1 })
def State.freshI (s : State) : Int × State := (Config.freeInt s.free, { s with free := s.free + 1 })
/-- Firmware has written the flash: ERASES and PROGRAMS count sectors and pages, of which the spec does not say how many a record
takes (R596). -/
def flashWrote (s : State) : State :=
  let a := s.fresh
  let b := (a.2.cntr LSIO.ERASES (n := a.1)).fresh
  b.2.cntr LSIO.PROGRAMS (n := b.1)

end Sys2Proof.Machine
end

