-- ==== Sys2Proof/Machine/RegFile.lean ====
section
/-!
DEFINITION. Writing a register under the access codes of its fields, through a view, and the pending values of RWB fields
(R12, R554, R555, R561–R564). What a particular register does beside holding its value stands with the rows that write it.
-/
namespace Sys2Proof.Machine

/-- The access row of a register: the header's for offsets below 0x040, else the page class's. -/
def accRow (pg off : Nat) : Option RegRow :=
  if off < 0x040 then accHdr.find? (fun r => r.off == off) else (accOf (pageClass pg)).find? (fun r => r.off == off)

/-- Field values that the owning chapter refuses, reserves or ignores (R555, R566): the field, by class, offset and top bit,
keeps its previous value. `w` is the whole word written. -/
def fieldIgnored (cls off hi v : Nat) : Bool :=
  match cls, off, hi with
  | 0x00, 0x048, 15 => v == 0                                  -- MODE_CTL.ACQ_TIMEOUT 1–65,535 (R471)
  | 0x00, 0x04C, 31 => decide (v < 10)                         -- PREROLL_CTL.PRE_WIN 10–65,535
  | 0x00, 0x04C, 15 => v == 0                                  -- PREROLL_CTL.PRE_MIN 1–65,535
  | 0x02, 0x048, 1 => v == 3                                   -- SSC_CTL.MODE (R96)
  | 0x03, 0x040, 23 => v == 0                                  -- SEL_CTL.MARGIN (R103)
  | 0x03, 0x040, 11 => v == 0                                  -- SEL_CTL.REVERT_HOLD 1–4095
  | 0x03, 0x060, 15 => decide (v < 10 ∨ 10000 < v)             -- DRIFT_CTL.SOFT_PPB
  | 0x03, 0x078, 12 => decide (v < 100 ∨ 5000 < v)             -- SLEW_CTL.SLEW_PPB
  | 0x03, 0x07C, 31 => decide (v < 10)                         -- LOCK_CTL.LOCK_WIN
  | 0x03, 0x07C, 15 => v == 0                                  -- LOCK_CTL.LOCK_TIME
  | 0x03, 0x100, 2 => decide (5 < v)                           -- CANDn_CFG.RATE
  | 0x04, 0x080, 17 => decide (1000 < v)                       -- LTC_IN_CTL.SLEW_PPM (R70)
  | 0x04, 0x080, 7 => v == 0                                   -- LTC_IN_CTL.JAM_COUNT
  | 0x04, 0x080, 3 => v == 0                                   -- LTC_IN_CTL.JAM_THRESH
  | 0x04, 0x090, 7 => decide (4 < v)                           -- LTC_OUT_CTL.SRC TB0–TB3, MEDIA (R65)
  | 0x04, 0x090, 3 => decide (4 < v)                           -- LTC_OUT_CTL.RATE (R60)
  | 0x04, 0x0A0, 23 => decide (127 < v)                        -- PTP_CTL.DOMAIN (R138)
  | 0x04, 0x0A0, 7 => decide (v < 2)                           -- PTP_CTL.ANN_TMO
  | 0x04, 0x0A0, 3 => decide (v < 2)                           -- PTP_CTL.SYNC_TMO
  | 0x04, 0x0BC, 15 => decide (v < 10)                         -- PTP_LOCK_WIN
  | 0x0A, 0x048, 13 => decide (v < 1518 ∨ 9216 < v)            -- MAC_CFG.MAX_LEN (R137)
  | 0x0A, 0x080, 24 => decide (v = 0 ∨ 384 < v)                -- GCL_CTL.CYCLE
  | 0x09, 0x044, 3 => decide (4 < v)                           -- EVT_TB.BASE (R66)
  | 0x09, 0x04C, 21 => v == 0                                  -- FIFO_STAT.THRESH 1–63 (R69)
  | 0x0E, 0x194, 23 => v == 0                                  -- EVT_STAT.THRESH 1–255 (R173)
  | 0x0F, 0x1B0, 8 => decide (v = 0 ∨ 300 < v)                 -- SAP_TX_CFG.INTERVAL (R309)
  | 0x10, 0x044, 10 => decide (5 < v)                          -- GRP_CFG.BW (R201)
  | 0x10, 0x044, 5 => v == 3                                   -- GRP_CFG.RANGE
  | 0x14, 0x12C, 17 => decide (v < 8000 ∨ 216000 < v)          -- NOM (R317)
  | 0x18, 0x12C, 17 => decide (v < 8000 ∨ 216000 < v)          -- RX_NOM (R330)
  | 0x14, 0x100, 5 => v == 3                                   -- PORT_CTL.WLEN (R344)
  | 0x14, 0x100, 1 => v == 3                                   -- PORT_CTL.SLOT
  | 0x18, 0x900, 2 => decide (5 < v)                           -- TX_CTL.RATE (R345)
  | 0x19, 0x050, 2 => decide (5 < v)                           -- WCLK_OUT_CTL.RATE (R346)
  | 0x19, 0x054, 18 => decide (v = 0 ∨ 500000 < v)             -- PPS_OUT_CTL.WIDTH (R340)
  | 0x11, 0x100, 3 => decide (5 < v)                           -- TG_CTL.KIND (R213)
  | 0x11, 0x104, 22 => decide (v = 0 ∨ 4800000 < v)            -- TG_FREQ
  | 0x40, 0x400, 29 => v == 3                                  -- OUT_CFG.POP_MODE (R224)
  | 0x40, 0x400, 12 => decide (v = 0 ∨ 4096 < v)               -- OUT_CFG.N0 (R235)
  | 0x01, 0x080, 5 => v == 3                                   -- IO_CFG.SLEW (R626)
  | 0x24, 0x100, 15 => v == 0                                  -- I2C_CTL.STRETCH_TMO (R596)
  | 0x24, 0x100, 1 => v == 3                                   -- I2C_CTL.SPEED
  | 0x24, 0x200, 27 => v == 3                                  -- UART_CTL.PARITY
  | 0x24, 0x200, 19 => decide (v < 3)                          -- UART_CTL.DIV
  | 0x24, 0x208, 6 => decide (v = 0 ∨ 64 < v)                  -- RX_THRESH 1–64
  | 0x24, 0x400, 31 => v == 3                                  -- GPIO.MODE
  | 0x24, 0x400, 27 => v == 3                                  -- GPIO.PULL
  | 0x21, 0x100, 27 => decide (3 < v)                          -- RING_CTL.KIND (R521)
  | 0x21, 0x10C, 31 => v % 32 != 0                             -- BASE_LO
  | 0x21, 0x110, 15 => decide (v < 16 ∨ 32768 < v) || v &&& (v - 1) != 0  -- SIZE
  | 0x22, 0x10C, 31 => v % 64 != 0                             -- SQ_BASE_LO (R520)
  | 0x22, 0x114, 31 => v % 64 != 0                             -- CQ_BASE_LO
  | 0x22, 0x118, 27 => decide (0 < v ∧ v < 16) || v &&& (v - 1) != 0  -- CQ_SIZE
  | 0x22, 0x118, 11 => decide (0 < v ∧ v < 16) || v &&& (v - 1) != 0  -- SQ_SIZE
  | 0x20, 0x060, 9 => decide (v < 10 ∨ 1000 < v)               -- WDT_CTL.TIMEOUT (R440)
  | _, _, _ => false

/-- The one sticky register that no write of its own bits clears: LANE_FAULT, which FLT_CNT_CTL.CLEAR clears (R441). -/
def rosKept (cls off : Nat) : Bool := cls == 0x40 && off == 0x064

/-- What a base-view write puts into the RW fields of a word, and what it clears of the sticky ones (R12). -/
def baseWrite (cls off : Nat) (flds : List AccFld) (old v : Nat) : Nat :=
  flds.foldl (fun w f =>
    let x := fbits v f.hi f.lo
    match f.acc with
    | .rw => if fieldIgnored cls off f.hi x then w else fput w f.hi f.lo x
    | .ros => if rosKept cls off then w else fput w f.hi f.lo (fbits w f.hi f.lo - (fbits w f.hi f.lo &&& x))
    | _ => w) old

/-- What an alias write puts into the RW fields (R554, R555). -/
def aliasWrite (cls off : Nat) (flds : List AccFld) (view : View) (old v : Nat) : Nat :=
  flds.foldl (fun w f =>
    match f.acc with
    | .rw =>
      let o := fbits old f.hi f.lo
      let x := fbits v f.hi f.lo
      let n := match view with
        | .set => o ||| x
        | .clear => o - (o &&& x)
        | .toggle => o ^^^ x
        | .base => x
      if fieldIgnored cls off f.hi n then w else fput w f.hi f.lo n
    | _ => w) old

/-- The RWB fields of a row, as a mask. -/
def rwbMask (flds : List AccFld) : Nat :=
  flds.foldl (fun m f => if f.acc = .rwb then m ||| fmask f.hi f.lo else m) 0

/-- The pending value of a caller on a register, if it has one. -/
def State.heldOf (s : State) (fn pg obj off : Nat) : Option Held :=
  s.held.reverse.find? (fun h => h.fn == fn && h.pg == pg && h.obj == obj && h.off == off)

/-- What a read of a register word returns to a caller (R562): its pending value over the value in force, unless
READ_ACTIVE is 1. -/
def State.readWord (s : State) (fn pg obj off : Nat) : Nat :=
  let w := s.gw pg obj off
  if bit (s.gw pg fn 0x008) 0 then w
  else match s.heldOf fn pg obj off with
    | some h => (w &&& (0xFFFFFFFF ^^^ h.mask)) ||| h.val
    | none => w

/-- The pages whose pending values apply at tick boundaries, and at sample boundaries (R568). The others have the boundary
of a packet, a frame or a block. -/
def tickPage (pg : Nat) : Bool :=
  let c := pageClass pg
  c == 0x01 || c == 0x03 || c == 0x04 || c == 0x0A || c == 0x10 || c == 0x21 || c == 0x24
def samplePage (pg : Nat) : Bool :=
  let c := pageClass pg
  c == 0x11 || c == 0x12 || c == 0x13 || c == 0x1A || c == 0x40

/-- The device is the active member of a mirror pair, whose changes apply at tick k + 2 (R388). -/
def State.mirrorActive (s : State) : Bool := s.rd ULNK.HIER_STAT_MIRROR == 1
/-- It is the standby, which refuses changes on its own transports: also one that has lost its partner and has not taken over
(R391). -/
def State.mirrorStandby (s : State) : Bool := s.rd ULNK.HIER_STAT_MIRROR == 2 || s.rd MODE.STATE_CODE == 9

/-- The registers that hold mirrored state, or change it (R389): collator slots; the commit of a stream entry and the selectors of
transmit channels; the settings of ratio groups; input configuration, test generators and DITHER_SEED; turn descriptors; meter
profiles; selectors of local outputs; the outputs' configuration, the banks and the allocation. -/
def mirroredReg (pg off : Nat) : Bool :=
  match pageClass pg with
  | 0x08 => decide (0x100 ≤ off)
  | 0x0E => off == 0x044
  | 0x0F => off == 0x044 || off == 0x144
  | 0x10 => off == 0x044 || off == 0x104
  | 0x11 => off == 0x044 || off == 0x048 || off == 0x05C || decide (0x100 ≤ off)
  | 0x12 => off == 0x044 || off == 0x048 || off == 0x04C || off == 0x064
  | 0x13 => off == 0x044 || (decide (0x080 ≤ off) && decide (off < 0x100))
  | 0x14 => off == 0x108 || off == 0x10C
  | 0x18 => off == 0x908 || off == 0x90C
  | 0x40 => off == 0x0EC || (decide (0x400 ≤ off) && decide (off < 0x800))
  | _ => false

/-- The first boundary at which a value written now is applied (R564, R388). -/
def State.rwbDue (s : State) (pg off : Nat) : Nat :=
  if s.mirrorActive && mirroredReg pg off then 32 * (s.accTick + 2)
  else if tickPage pg then 32 * s.nextTick else s.tim.sample + 1

/-- How many pending entries a writer may hold on a page (R233); other pages hold one per register. -/
def storeSize (pg : Nat) : Option Nat :=
  if pg = 0x11 then some 32 else if 0x40 ≤ pg then some 64 else none

/-- Make the RWB fields of a written word pending (R561, R233). -/
def State.hold (s : State) (fn pg obj off mask v : Nat) : State :=
  let h : Held := { fn := fn, pg := pg, obj := obj, off := off, mask := mask, val := v &&& mask,
                    kept := bit (s.gw pg fn 0x01C) 0, due := s.rwbDue pg off }
  match storeSize pg with
  | some n =>
    let have_ := (s.held.filter (fun x => x.pg == pg && x.fn != 16 && (0x40 ≤ pg || x.fn % 8 == fn % 8))).length
    if have_ < n then s.onHeld (fun hs => hs ++ [h])
    else
      let s := if pg = 0x11 then (s.wb XPNT.PEND_STAT_WR_OVF true fn).raise 0x11 1 [fn] else s.wb SIG.SIG_STAT_WR_OVF true (i := pg - 0x40)
      s.err 0x0502 pg 0 pg 0 (if fn < 8 then some fn else some 0)
  | none =>
    s.onHeld (fun hs => hs.filter (fun x => !(x.fn == fn && x.pg == pg && x.obj == obj && x.off == off)) ++ [h])

/-- The RW fields of a row, as a mask. -/
def rwMask (flds : List AccFld) : Nat := flds.foldl (fun m f => if f.acc = .rw then m ||| fmask f.hi f.lo else m) 0
/-- The registers of mirrored state whose RW fields the active member changes at R388's boundary: the ratio groups' settings, the test
generators and DITHER_SEED. -/
def mirroredRW (pg off : Nat) : Bool :=
  (pg == 0x10 && (off == 0x044 || off == 0x104)) || (pg == 0x11 && (off == 0x05C || decide (0x100 ≤ off)))
/-- Put bits into a word at once, or on the active member of a mirror pair at the boundary of R388. -/
def State.putMirrored (s : State) (pg obj off mask v : Nat) : State :=
  if s.mirrorActive && mirroredRW pg off then
    s.onHeld (fun hs => hs ++ [{ fn := 16, pg := pg, obj := obj, off := off, mask := mask, val := v &&& mask, kept := false,
                                 due := 32 * (s.accTick + 2) }])
  else s.pw pg obj off ((s.gw pg obj off &&& (0xFFFFFFFF ^^^ mask)) ||| (v &&& mask))
/-- Put the word that a write leaves: its RW fields as `putMirrored` does. -/
def State.putWord (s : State) (pg obj off : Nat) (flds : List AccFld) (v : Nat) : State :=
  if s.mirrorActive && mirroredRW pg off then
    let m := rwMask flds
    (s.pw pg obj off ((v &&& (0xFFFFFFFF ^^^ m)) ||| (s.gw pg obj off &&& m))).putMirrored pg obj off m v
  else s.pw pg obj off v

/-- Write a register word through a view, under the access codes of its fields. -/
def State.writeWord (s : State) (fn pg obj off : Nat) (view : View) (v : Nat) : State :=
  match accRow pg off with
  | none => s
  | some r =>
    let cls := pageClass pg
    let old := s.gw pg obj off
    match view with
    | .base =>
      let s := s.putWord pg obj off r.flds (baseWrite cls off r.flds old v)
      let m := rwbMask r.flds
      if m = 0 then s
      else
        let cur := match s.heldOf fn pg obj off with | some h => (old &&& (0xFFFFFFFF ^^^ h.mask)) ||| h.val | none => old
        let x := r.flds.foldl (fun w f =>
          if f.acc = .rwb ∧ fieldIgnored cls off f.hi (fbits v f.hi f.lo) = false then fput w f.hi f.lo (fbits v f.hi f.lo)
          else w) cur
        s.hold fn pg obj off m x
    | _ => s.putWord pg obj off r.flds (aliasWrite cls off r.flds view old v)

/-- Write only the RW fields of a word: what a write of an action bit does to the other fields of its register. -/
def State.writeRW (s : State) (r : Reg) (v : Nat) (o : Nat := 0) (i : Nat := 0) : State :=
  match accRow (r.page + i) r.off with
  | none => s
  | some row => s.putWord (r.page + i) o r.off row.flds (baseWrite (pageClass (r.page + i)) r.off row.flds (s.rw r o i) v)

/-- Put a pending value into its register. -/
def State.applyHeld (s : State) (h : Held) : State :=
  s.pw h.pg h.obj h.off ((s.gw h.pg h.obj h.off &&& (0xFFFFFFFF ^^^ h.mask)) ||| h.val)

/-- Apply the pending values that are due, of the pages a predicate picks, in the order written (R561, R564): those that
APPLY.HOLD keeps back stay (R563). `k` applies one. -/
def State.applyDue (s : State) (p : Held → Bool) (k : State → Held → State) : State :=
  let due := s.held.filter (fun h => p h && !h.kept && decide (h.due ≤ s.tim.sample))
  let s := s.onHeld (fun hs => hs.filter (fun h => !(p h && !h.kept && decide (h.due ≤ s.tim.sample))))
  s.each due k

/-- The caller rights of a page's ordinary registers: an access by SPI has the rights of PF0 (R558). -/
def isPF0 (fn : Nat) : Bool := fn == 0 || fn == 8
/-- The function whose rights a caller has. -/
def actsAs (fn : Nat) : Nat := if fn = 8 then 0 else fn

end Sys2Proof.Machine
end

