-- ==== Sys2Proof/Machine/Txq.lean ====
section
/-!
DEFINITION. The transmit queues of the network ports (R115–R117): where frames wait, and what a link that is down does to them.
-/
namespace Sys2Proof.Machine

def State.linkUp (s : State) (port : Nat) : Bool := s.rb NETP.PORT_STAT_LINK (i := port)

/-! ## Transmit queues (R115–R117) -/

/-- The list of a queue; the host queues keep one list per function. -/
def txKey (port q : Nat) : Nat := 16 * port + q
def hostKey (port fn : Nat) : Nat := 16 * port + 8 + fn
def State.txList (s : State) (k : Nat) : List TxFrame := tget (fun _ => []) s.net.txq k
def txSet (k : Nat) (l : List TxFrame) (s : State) : State := s.onNet (fun n => { n with txq := tset (fun _ => []) n.txq k l })

/-- The frame's descriptor, if it is a host frame, completes. -/
def hostEnd (port : Nat) (f : TxFrame) (sent : Bool) (s : State) : State :=
  match f.kind with
  | .host fn r h => s.onNet (fun n => { n with hostDone := n.hostDone ++ [⟨fn, r, h, port, sent, if sent then f.stamp else none⟩] })
  | _ => s

/-- A frame is discarded because the link is down (R117). -/
def txDrop (port : Nat) (f : TxFrame) (s : State) : State := hostEnd port f false (s.cntr NETP.TX_LINK_DROP (i := port))

/-- Queue a frame on a port; where the link is down it is discarded. -/
def txPut (port k : Nat) (f : TxFrame) (s : State) : State :=
  if s.linkUp port then txSet k (s.txList k ++ [f]) s else txDrop port f s

/-- A management frame of a length on Q3, and a PTP message on Q1. -/
def mgmtFrame (len : Nat) : TxFrame := { kind := .mgmt, len := max 64 len, bytes := [], held := false }
def txMgmt (port len : Nat) (s : State) : State := txPut port (txKey port 3) (mgmtFrame len) s

end Sys2Proof.Machine
end

