-- ==== Sys2Proof/Machine/Cmd.lean ====
section
/-!
DEFINITION. How a management command is judged, accepted and completed, whatever its opcode: the transports of R525, the
statuses of R530, the authenticated form of R531–R534, the order of checks of R539 and the completion of R482.
-/
namespace Sys2Proof.Machine

/-! ## Statuses (R530) -/

def stOK : Nat := 0x0000
def stBUSY : Nat := 0x0001
def stBAD_OPCODE : Nat := 0x0002
def stBAD_FIELD : Nat := 0x0003
def stOK_TRUNC : Nat := 0x0004
def stOK_LATE : Nat := 0x0005
def stAUTH_FAIL : Nat := 0x0010
def stREPLAY : Nat := 0x0011
def stQUOTA : Nat := 0x0020
def stNOT_OWNER : Nat := 0x0021
def stBUF_OWNED : Nat := 0x0030
def stBUF_FOREIGN : Nat := 0x0031
def stBUF_LATE : Nat := 0x0032
def stLINK_DOWN : Nat := 0x0033
def stEDIT_FULL : Nat := 0x0040
def stSTORE_FULL : Nat := 0x0041
def stMODE_DENY : Nat := 0x0050
def stHW_FAULT : Nat := 0x0060
def stIMAGE_BAD : Nat := 0x0070

/-! ## The mode and who runs -/

/-- The mode in force (R444). -/
def State.mode (s : State) : Nat := s.rd MODE.STATE_CODE
def mRESET : Nat := 0x0
def mBOOT : Nat := 0x1
def mSTANDBY : Nat := 0x2
def mCONFIG : Nat := 0x3
def mACQUIRE : Nat := 0x4
def mPREROLL : Nat := 0x5
def mRUN : Nat := 0x6
def mHOLDOVER : Nat := 0x7
def mDEGRADED : Nat := 0x8
def mMIRROR : Nat := 0x9
def mSAFE : Nat := 0xA
def mTEST : Nat := 0xB
/-- The running group (R448). -/
def running (m : Nat) : Bool := m == 0x6 || m == 0x7 || m == 0x8
/-- The modes whose sinks carry audio (R445). -/
def carries (m : Nat) : Bool := running m || m == 0x9 || m == 0xB

/-- The firmware runs (R445) and is not restarting or held (R422, R424). -/
def State.fwUp (s : State) : Bool :=
  3 ≤ s.mode && !s.rb FALT.MGMT_STAT_RECOVERING && !s.rb FALT.MGMT_STAT_HALT
/-- Commands are taken: the firmware runs and PFAIL_N is not asserted (R432). -/
def State.cmdUp (s : State) : Bool := s.fwUp && !s.rb FALT.PFAIL_STAT_ASSERTED

/-- What an event does, which it does only while the device is neither in RESET nor in BOOT nor in STANDBY (R446, R457, R467). -/
def awake (s t : State) : State := if s.mode < 3 then s else t
/-- The supply of a bank of pins is on (R600, R601): without it every signal of the bank is as if absent to the block that owns it. -/
def State.bankUp (s : State) (b : Nat) : Bool := fbits (s.rw PWR.BANK_STAT) (2 * b + 1) (2 * b) != 0

/-- The state of a tenant (R518): 0 ABSENT, 1 ACTIVE, 2 RESETTING, 3 DESTROYING; PF0 reads ACTIVE. -/
def State.tenant (s : State) (fn : Nat) : Nat := s.rd TNT.TNT_CTL_STATE (i := fn)

/-! ## Judging a command -/

/-- What an opcode asks of a command, beside its own checks: whether it is critical (R538), whether its parameters begin with
the block on every transport, who may issue it, on which transports, in which modes, under which key slots, whether it only
reads, whether it changes mirrored state (R388) with the opcode that R392 records, and the command itself where its whole effect waits
for R388's boundary. -/
structure Opc where
  crit : Bool := false
  block : Bool := false
  pf0 : Bool := false
  pcieOnly : Bool := false
  noTunnel : Bool := false
  read : Bool := false
  mirrored : Bool := false
  code : Nat := 0
  modes : Nat → Bool := fun _ => true
  slots : Nat → Bool := fun s => s == 0 || (8 ≤ s && s ≤ 14)
  prov : Bool := false

def isUdp (e : Env) : Bool := match e.tr with | .udp .. => true | _ => false
def isPcie (e : Env) : Bool := match e.tr with | .pcie _ => true | _ => false
def isTunnel (e : Env) : Bool := match e.tr with | .tunnel _ => true | _ => false
def isSpi (e : Env) : Bool := match e.tr with | .spi => true | _ => false

/-- The function a command acts as (R525, R534). -/
def callerOf (e : Env) : Nat :=
  match e.tr with
  | .pcie _ => e.fn
  | .udp .. => match e.auth with
    | some a => if 1 ≤ a.slot ∧ a.slot ≤ 7 then a.slot else 0
    | none => 0
  | _ => 0

/-- The command is in authenticated form (R525). -/
def Opc.authForm (o : Opc) (e : Env) : Bool := isUdp e || o.block || o.crit

/-- The slot may be used from the command's transport (R534). -/
def slotFrom (e : Env) (sl : Nat) : Bool :=
  if sl = 0 ∨ (8 ≤ sl ∧ sl ≤ 14) then !(isPcie e && e.fn != 0)
  else if sl ≤ 7 then isUdp e || (isPcie e && e.fn == sl)
  else sl == 15 && ((isPcie e && e.fn == 0) || isSpi e)

/-- The key slot is ACTIVE and, for a tenant's, its tenant is ACTIVE (R534). -/
def State.slotLive (s : State) (sl : Nat) : Bool :=
  (og s.flash.keys sl).isSome && (!(1 ≤ sl && sl ≤ 7) || s.tenant sl == 1)

/-- The keyed check is right (R532): the first 16 bytes of the HMAC. -/
def State.macOk (s : State) (e : Env) (a : AuthBlk) : Bool :=
  match og s.flash.keys a.slot with
  | some k => decide ((hmac256 k e.bytes).take 16 = a.mac)
  | none => false

/-- The last accepted counter of a slot (R533). -/
def State.cLast (s : State) (sl : Nat) : Nat := s.rd64 SECU.SLOT_CTR_HI SECU.SLOT_CTR_LO sl

/-- The provisioning load of R537 may be tried: slot 0 is EMPTY and the sender is PF0 over PCIe or the SPI target. -/
def State.provOk (s : State) (o : Opc) (e : Env) : Bool :=
  o.prov && (og s.flash.keys 0).isNone && ((isPcie e && e.fn == 0) || isSpi e)

/-- The counter slot that a command uses: its own, slot 0's for the provisioning load, none where it uses no counter. -/
def counterSlot (s : State) (o : Opc) (e : Env) : Option (Nat × Nat) :=
  match e.auth with
  | none => none
  | some a =>
    if !o.authForm e then none
    else if a.slot = 0xFF then if s.provOk o e then some (0, a.counter) else none
    else some (a.slot, a.counter)

/-- Check 3 of R539; while slot 0 is EMPTY nothing but the provisioning load passes it (R537). -/
def authCheck (o : Opc) (e : Env) (s : State) : Bool :=
  if !o.authForm e then true
  else match e.auth with
  | none => false
  | some a =>
    if a.slot = 0xFF then
      if s.provOk o e then a.serial == s.flash.serial
      else !o.crit && o.block && !isUdp e
    else
      (og s.flash.keys 0).isSome && s.slotLive a.slot && slotFrom e a.slot && ((1 ≤ a.slot && a.slot ≤ 7) || o.slots a.slot || (a.slot ≤ 14 && !o.crit))
        && a.serial == s.flash.serial && s.macOk e a

/-- Checks 1 to 4 of R539: the status of the first that fails. -/
def preCheck (o : Opc) (e : Env) (s : State) : Option Nat :=
  if !e.lenOk || (o.authForm e && e.auth.isNone) then some stBAD_FIELD
  else if (o.pcieOnly && !isPcie e) || (o.noTunnel && isTunnel e) then some stBAD_OPCODE
  else if !authCheck o e s then some stAUTH_FAIL
  else match counterSlot s o e with
    | some (sl, c) => if s.cLast sl < c then none else some stREPLAY
    | none => none

/-- Acceptance (R533): the counter is recorded, and journaled when it is 1024 above the saved value. A command by SPI leaves its
queue, with a place reserved for its completion (R584). -/
def accept (o : Opc) (e : Env) (s : State) : State :=
  let s := if isSpi e then s.onCmd (fun c => { c with spiQ := c.spiQ - 1, spiRun := c.spiRun + 1 }) else s
  let s := match counterSlot s o e with
    | some (sl, c) =>
      let s := s.wr64 SECU.SLOT_CTR_HI SECU.SLOT_CTR_LO c sl
      if ng s.flash.savedS sl + 1024 ≤ c then flashWrote (s.onFlash (fun f => { f with savedS := ns f.savedS sl c })) else s
    | none => s
  if o.crit then s.cntr SECU.CRIT_ACCEPTED else s

/-- Checks 5 and 6 of R539 that need no parameter: the opcode is the caller's to issue, the mode permits it, the device is
not a mirror standby for a change to mirrored state, a tenant changes nothing in SAFE (R464), and no restart is pending
(R540). `own` is the opcode's ownership check with the tenant checks of R630. -/
def midCheck (o : Opc) (e : Env) (own : Nat → State → Option Nat) (s : State) : Option Nat :=
  if o.pf0 && callerOf e != 0 then some stNOT_OWNER
  else match own (callerOf e) s with
  | some st => some st
  | none =>
    if !o.modes s.mode || (s.mode == mSAFE && callerOf e != 0 && !o.read) || (o.mirrored && s.mirrorStandby)
    then some stMODE_DENY
    else if s.cmd.restartPend && !o.read then some stBUSY
    else none

/-- What an opcode's own part answers: a refusal, or the state it leaves with a response in words; `entry` is the words of one
entry of a list response, 0 when the response is not a list (R527). `later` is a command whose completion comes with a later
event. -/
inductive Res where
  | no (status : Nat) (result : Nat)
  | ok (s : State) (result : Nat) (resp : List Nat) (entry : Nat) (status : Nat)
  | later (s : State)

/-- Response bytes as the words that carry them, least significant byte first. -/
def leWords (l : List Byte) : List Nat := (chunks 4 (l.length + 1) l).map leNat
/-- A refusal. -/
def no (st : Nat) : Res := .no st 0
/-- Carried out, with nothing to return. -/
def done (s : State) : Res := .ok s 0 [] 0 stOK
/-- Carried out, returning words. -/
def ret (s : State) (ws : List Nat) : Res := .ok s 0 ws 0 stOK
/-- Carried out, returning a list of entries of `n` words. -/
def retL (s : State) (n : Nat) (ws : List Nat) : Res := .ok s 0 ws n stOK
/-- Carried out, returning a sample index (R482). -/
def retIdx (s : State) (n : Nat) : Res := .ok s (n % 2 ^ 32) [n % 2 ^ 32, n / 2 ^ 32] 0 stOK

/-! ## Completion -/

/-- Entries of a queue: 12 bits cannot write 4096, for which 0 stands. -/
def ringSize (v : Nat) : Nat := if v = 0 then 4096 else v
/-- The ring key of HOST and CMDQ objects. -/
def rk (fn q : Nat) : Nat := fn + 16 * q

/-- The function's DMA window lets it touch these bytes; a window with LIMIT = 0 is open (R488). -/
def State.dmaOk (s : State) (fn addr len : Nat) : Bool :=
  let l := s.rd64 TNT.DMA_WIN_LIMIT_HI TNT.DMA_WIN_LIMIT_LO (i := fn)
  l == 0 || (decide (s.rd64 TNT.DMA_WIN_BASE_HI TNT.DMA_WIN_BASE_LO (i := fn) ≤ addr) && decide (addr + len ≤ l))
/-- A DMA error of a function is counted and raised (R488). -/
def dmaErr (fn : Nat) (s : State) : State := (s.cntr TNT.DMA_ERR (i := fn)).raise 0x21 0 (copies fn)
/-- A command ring enters ERROR (R486). -/
def cqError (k cause : Nat) (s : State) : State := (s.wr CMDQ.CQ_STAT_STATE 2 k).wr CMDQ.CQ_STAT_ERR_CAUSE cause k

/-- A ring whose completions since its last interrupt are enough sends its message (R485). -/
def coalFire (fn r : Nat) (s : State) : State :=
  let k := rk fn r
  if ng s.host.coal k ≠ 0 ∧ s.rd CMDQ.CQ_CTL_COAL_N k ≤ ng s.host.coal k then
    (s.onHost (fun h => { h with coal := ns h.coal k 0 })).msi fn (s.rd CMDQ.CQ_CTL_VECTOR k)
  else s
/-- A completion on a PCIe ring (R482, R483, R486): written at CQ_TAIL, after the response, unless QUIET and OK, or the ring no longer
runs. -/
def pcieDone (s : State) (c : Completion) (r : Nat) : State :=
  let k := rk c.fn r
  match s.cmd.started.find? (fun x => x.fn == c.fn && x.ring == r && x.entry.tag == c.tag) with
  | none => s
  | some x =>
    let s := s.onCmd (fun d => { d with started := d.started.erase x })
    if s.rd CMDQ.CQ_STAT_STATE k != 1 then s
    else
      let s := s.cntw CMDQ.DONE_COUNT k
      if x.entry.quiet && c.status == stOK then s
      else if s.dmaOk c.fn (s.rd64 CMDQ.CQ_BASE_HI CMDQ.CQ_BASE_LO k + 16 * s.rd CMDQ.CQ_TAIL_IDX k) 16 = false ∨
          (c.resp ≠ [] ∧ s.dmaOk c.fn x.entry.respAddr (4 * c.resp.length) = false) then
        cqError k 3 (dmaErr c.fn s)
      else
        let n := ringSize (s.rd CMDQ.SIZES_CQ_SIZE k)
        let t := s.rd CMDQ.CQ_TAIL_IDX k + 1
        let wrap := decide (n ≤ t)
        let s := s.wr CMDQ.CQ_TAIL_IDX (if wrap then 0 else t) k
        let ws := [c.tag % 65536 + c.status * 65536, c.result, 4 * c.resp.length,
          s.rd CMDQ.SQ_HEAD_IDX k + 65536 * b2n (!bg s.host.phase0 k)]
        coalFire c.fn r (s.onHost (fun h => { h with
          lastCpl := some (c.fn, r, ws, c.resp), coal := ns h.coal k (ng h.coal k + 1)
          phase0 := if wrap then bs h.phase0 k (!bg h.phase0 k) else h.phase0 }))

/-- The frame of a reply: the completion and its response in a datagram (R482, R526). -/
def replyLen (v6 : Bool) (c : Completion) : Nat := 14 + (if v6 then 40 else 20) + 8 + 16 + 4 * c.resp.length + 4
/-- Send the reply. -/
def udpSend (port : Nat) (v6 : Bool) (c : Completion) (s : State) : State :=
  txMgmt port (replyLen v6 c) (s.onCmd (fun d => { d with last := some c }))
/-- A new second of the limit on failing replies (R541). -/
def udpWindow (s : State) : State :=
  if s.cmd.failedAt + 96000 ≤ s.clock then s.onCmd (fun d => { d with failed := [], failedAt := s.clock }) else s
/-- A reply to a datagram: kept for its slot when the command was accepted (R526); failing replies are limited to 64 in a
second on each port (R541). -/
def udpDone (s : State) (e : Env) (c : Completion) (port : Nat) (v6 : Bool) (accepted : Bool) : State :=
  let s := s.onCmd (fun d => { d with udpQ := d.udpQ - 1 })
  if accepted then
    match e.auth with
    | some a =>
      let l := tget (fun _ => []) s.cmd.kept a.slot
      let kept := tset (fun _ => []) s.cmd.kept a.slot ((⟨a.counter, a.mac, c⟩ :: l).take 16)
      udpSend port v6 c (s.onCmd (fun d => { d with kept := kept }))
    | none => udpSend port v6 c s
  else if c.status = stAUTH_FAIL ∨ c.status = stREPLAY then
    let s := udpWindow s
    if ng s.cmd.failed port < 64 then
      udpSend port v6 c (s.onCmd (fun d => { d with failed := ns d.failed port (ng d.failed port + 1) }))
    else s.cntr SECU.UDP_RATE_DROP
  else udpSend port v6 c s

/-- The completion of the first command that came by tunnel from a device waits to be sent there (R383). -/
def tunDone (f : Nat) (c : Completion) (s : State) : State :=
  match s.uma.tunWait.find? (fun w => w.1 == f) with
  | none => s
  | some w =>
    let q := s.uma.tunCpl ++ [⟨f, w.2.1, c⟩]
    s.onUma (fun u => { u with tunWait := u.tunWait.erase w, tunCpl := q })

/-- Hand a completion to the command's transport, and count refusals (R541, R552). -/
def complete (e : Env) (st result : Nat) (resp : List Nat) (accepted : Bool) (s : State) : State :=
  let c : Completion := { tr := e.tr, fn := callerOf e, tag := e.tag, status := st, result := result, resp := resp }
  let s :=
    if st = stAUTH_FAIL ∨ st = stREPLAY then
      let s := if st = stAUTH_FAIL then s.cntr SECU.AUTH_FAILS else s.cntr SECU.REPLAYS
      if s.cmd.authRaised then s
      else (s.onCmd (fun d => { d with authRaised := true })).raise 0x23 0 fnsPF0
    else s
  match e.tr with
  | .pcie r => pcieDone (s.onCmd (fun d => { d with last := some c })) c r
  | .udp p v6 _ _ => udpDone s e c p v6 accepted
  | .spi => s.onCmd (fun d => { d with
      last := some c, spi := d.spi ++ [c], spiQ := if accepted then d.spiQ else d.spiQ - 1,
      spiRun := if accepted then d.spiRun - 1 else d.spiRun })
  | .tunnel f => tunDone f c (s.onCmd (fun d => { d with last := some c, tunQ := d.tunQ - 1 }))

/-- The SPI target has a place for one more completion (R584). -/
def State.spiPlace (s : State) : Bool := decide (s.cmd.spi.length + s.cmd.spiRun < 64)
/-- The command reaches the management processor: it runs (R432, R445), over PCIe the ring's function is PF0 or an active
tenant (R487), and over SPI a place for the completion is free (R584). -/
def taken (e : Env) (s : State) : Bool :=
  s.cmdUp && (!isPcie e || e.fn == 0 || s.tenant e.fn == 1) && (!isSpi e || s.spiPlace)

/-- An accepted change to mirrored state: the active member forwards it and applies it two ticks on (R388); a member alone
keeps its code, for it may be lost (R392). -/
def mirrorNote (code : Nat) (s : State) : State :=
  if s.mirrorActive then
    let l := s.uma.digDue ++ [s.accTick + 2]
    s.onUma (fun u => { u with fwd := u.fwd + 1, digDue := l })
  else if s.rd ULNK.HIER_STAT_MIRROR = 3 then s.onUma (fun u => { u with alone := u.alone ++ [code] })
  else s

/-- The bytes that a response may take: RESP_MAX, and by UDP what fits one frame with the completion (R526). -/
def State.respLimit (s : State) (e : Env) : Nat :=
  match e.tr with
  | .udp port v6 _ _ => min e.respMax (s.rd NETP.MAC_CFG_MAX_LEN (i := port) - if v6 then 86 else 66)
  | _ => e.respMax
/-- The outcome of an opcode's own part, with the limit of RESP_MAX (R527). -/
def finish (o : Opc) (e : Env) (s : State) (r : Res) : State :=
  let note := fun (s : State) => if o.mirrored && !o.read then mirrorNote o.code s else s
  match r with
  | .no st x => complete e st x [] true s
  | .later s' => note s'
  | .ok s' x resp entry st =>
    if 4 * resp.length ≤ s.respLimit e ∨ resp = [] then complete e st x resp true (note s')
    else if entry = 0 then complete e stBAD_FIELD 0 [] true s
    else complete e stOK_TRUNC x (resp.take (s.respLimit e / (4 * entry) * entry)) true (note s')

/-- The active member accepts a change that it applies whole at the boundary of tick k + 2 (R388). -/
def mirrorLater (x : Later) (s : State) : State :=
  let l := s.uma.later ++ [(s.accTick + 2, x)]
  s.onUma (fun u => { u with later := l })
/-- The active member forwards a command, and carries it out at the boundary of R388. -/
def deferred (i : Instr) (s : State) : State := (mirrorLater (.cmd i) s).onUma (fun u => { u with fwd := u.fwd + 1 })
/-- A register action on a page of mirrored state that had an effect is an accepted change (R388, R392). -/
def actNoted (pg : Nat) (s t : State) : State :=
  if (s.mirrorActive || s.rd ULNK.HIER_STAT_MIRROR == 3) && decide (t ≠ s) then mirrorNote (pg * 65536) t else t

/-- Judge a command in the order of R539 and carry it out: `own` judges ownership and the tenant named, `body` is the
opcode's own checks and effect for the calling function. A command that the management processor does not take waits: it
leaves the state as it is. `row` is a command that the active member of a mirror pair carries out at the boundary of R388. -/
def runCmd (o : Opc) (e : Env) (own : Nat → State → Option Nat) (body : Nat → State → Res) (s : State)
    (row : Option Instr := none) : State :=
  if !taken e s then s
  else match preCheck o e s with
  | some st => complete e st 0 [] false s
  | none =>
    let s := accept o e s
    match midCheck o e own s with
    | some st => complete e st 0 [] true s
    | none =>
      match (if s.mirrorActive then row else none) with
      | some i => deferred i s
      | none => finish o e s (body (callerOf e) s)

/-- No ownership to judge beyond the opcode's own. -/
def anyone (_ : Nat) (_ : State) : Option Nat := none

/-- R630: the state of a named tenant, for commands that a reset does not hold up, and for those it does. -/
def namesTenant (t : Nat) (busyInReset : Bool) (_ : Nat) (s : State) : Option Nat :=
  if t = 0 ∨ 7 < t then some stBAD_FIELD
  else match s.tenant t with
  | 0 => some stBAD_FIELD
  | 3 => some stBUSY
  | 2 => if busyInReset then some stBUSY else none
  | _ => none

/-- A configuration command: every register it writes is one of the listed, on the given page, with values the owning chapter
accepts; then each is written as the caller's base-view write. Anything else is refused with BAD_FIELD. -/
def cfgOk (cls : Nat) (count : Nat) (allowed : List Nat) (ws : List RegW) : Bool :=
  ws.all (fun w => allowed.contains w.off && decide (w.inst < count) && decide (w.val < 2 ^ 32) &&
    match (accOf cls).find? (fun r => r.off == w.off) with
    | some r => r.flds.all (fun f => (f.acc != .rw && f.acc != .rwb) || !fieldIgnored cls w.off f.hi (fbits w.val f.hi f.lo))
    | none => false)

/-- Carry out the writes of a configuration command: no function's APPLY.HOLD keeps their RWB values back. -/
def cfgWrite (cls : Nat) (ws : List RegW) (s : State) : State :=
  s.each ws (fun s w => s.writeWord 16 (cls + w.inst) w.obj w.off .base w.val)

end Sys2Proof.Machine
end

