-- ==== Sys2Proof/Machine/LowSpeed.lean ====
section
/-!
DEFINITION. Low-speed interfaces (R570–R598): the I²C controllers, the UARTs, the general-purpose pins and the control pins.
-/
namespace Sys2Proof.Machine

/-! ## I²C controllers (R571–R576) -/

def icOFF : Nat := 0
def icIDLE : Nat := 1
def icBUSY : Nat := 2
def icISOLATED : Nat := 3
def State.icState (s : State) (i : Nat) : Nat := s.rd LSIO.I2C_STAT_STATE i
def icSet (i st : Nat) (s : State) : State := s.wr LSIO.I2C_STAT_STATE st i
def State.xfersOf (s : State) (i : Nat) : List Xfer := tget (fun _ => []) s.ls.xfers i
def xferSet (i : Nat) (l : List Xfer) (s : State) : State := s.onLs (fun x => { x with xfers := tset (fun _ => []) x.xfers i l })
def State.checksOf (s : State) (i : Nat) : List Env := tget (fun _ => []) s.ls.checkFor i

/-- A check of the bus is due (R574): the controller is busy until it ends. -/
def icCheck (i : Nat) (s : State) : State := icSet i icBUSY (s.onLs (fun x => { x with check := bs x.check i true }))
/-- The controllers that are enabled check their buses, as firmware starts (R574). -/
def icBegin (s : State) : State := s.each (List.range 4) (fun s i => if s.rb LSIO.I2C_CTL_EN i then icCheck i s else s)
/-- The controllers stop at once and release both lines (R576); what they were doing starts again when they are enabled. -/
def icStopAll (s : State) : State :=
  s.each (List.range 4) (fun s i => icSet i icOFF (s.onLs (fun x => { x with check := bs x.check i false })))
/-- The commands that asked for a check complete with its outcome, coded as OUTCOME of R573. -/
def icChecked (i out : Nat) (s : State) : State :=
  let l := s.checksOf i
  let s := s.onLs (fun x => { x with check := bs x.check i false, checkFor := tset (fun _ => []) x.checkFor i [] })
  s.each l (fun s e => complete e stOK out [] true s)
/-- The bus is isolated: every transfer completes with BUS_STUCK, and what firmware knows of a controller's modules is stale (R575). -/
def icIsolate (i : Nat) (s : State) : State :=
  let l := s.xfersOf i
  let s := if i < 2 then s.onNet (fun n => { n with modStale := bs (bs n.modStale (2 * i) true) (2 * i + 1) true }) else s
  let s := icChecked i 4 (xferSet i [] ((icSet i icISOLATED s).raise 0x24 0 fnsAll))
  s.each l (fun s x => complete x.env stOK 4 [] true s)
/-- The controller has nothing more to check: it goes on with its transfers. -/
def icFree (i : Nat) (s : State) : State := icSet i (if s.xfersOf i = [] then icIDLE else icBUSY) s

/-- What a check of the bus finds (R574), coded 0 SDA high at once, 1 freed by a pulse, 2 SCL low, 3 SDA low: SCL must be high or rise within
STRETCH_TMO, and SDA be high at once or in the middle of one of up to 9 pulses. -/
def busOutcome (scl sda : Bool) (pulses : List Bool) : Nat :=
  if scl = false then 2 else if sda then 0 else if (pulses.take 9).any id then 1 else 3
/-- A check of the bus runs to its end (R574). -/
def busCheck (i : Nat) (scl sda : Bool) (pulses : List Bool) (s : State) : State :=
  if 3 < i ∨ s.fwUp = false ∨ s.rb LSIO.I2C_CTL_EN i = false ∨ s.icState i = icOFF then s
  else if s.icState i = icISOLATED ∧ bg s.ls.check i = false then s
  else
    let out := busOutcome scl sda pulses
    let s := s.wr LSIO.I2C_STAT_LINES (b2n scl + 2 * b2n (decide (out < 2) || (out == 2 && sda))) i
    match out with
    | 0 => icFree i (icChecked i 0 s)
    | 1 => icFree i (icChecked i 0 (s.cntr LSIO.I2C_CLEARS i))
    | 2 => icIsolate i (s.wb LSIO.I2C_STAT_STUCK_SCL true i)
    | _ => icIsolate i (s.wb LSIO.I2C_STAT_STUCK_SDA true i)
def execI2cBusCheck (i : Nat) (x : I2cLines) (pulses : List Bool) (s : State) : Host.Outcome State Fault Refusal :=
  .next (awake s (busCheck i x.scl x.sda pulses s))

/-- The bytes that segments read, and write. -/
def bytesRead (l : List I2cSeg) : Nat := (l.filter (fun g => g.read)).foldl (fun a g => a + g.len) 0
def bytesWritten (l : List I2cSeg) : Nat := (l.filter (fun g => !g.read)).foldl (fun a g => a + g.len) 0
/-- A transfer can end so (R573): in segment `seg` after `n` of its bytes, with every byte read until then. DONE ends with the last byte of
the last segment, ADDR_NACK before the first byte of one, and DATA_NACK in one that writes. -/
def xferFits (l : List I2cSeg) (outcome seg n read : Nat) : Bool :=
  match l.drop seg with
  | [] => false
  | g :: t =>
    decide (n ≤ g.len) && read == bytesRead (l.take seg) + (if g.read then n else 0) &&
      (match outcome with
      | 0 => t.isEmpty && n == g.len
      | 1 => n == 0
      | 2 => !g.read
      | _ => true)
/-- The transfer in progress ends (R573), and after SCL_TIMEOUT the bus is checked (R574). -/
def xferDone (i outcome seg n : Nat) (data : List Byte) (lines : Nat) (s : State) : State :=
  if 3 < i ∨ outcome = 4 ∨ 5 < outcome ∨ s.fwUp = false ∨ bg s.ls.check i ∨ s.icState i ≠ icBUSY then s
  else match s.xfersOf i with
  | [] => s
  | x :: rest =>
    if xferFits x.segs outcome seg n data.length = false then s
    else
      let s := s.wr LSIO.I2C_STAT_LINES (lines % 4) i
      let s := if outcome = 1 ∨ outcome = 2 then s.cntr LSIO.I2C_NACKS i else if outcome = 3 then s.cntr LSIO.I2C_TIMEOUTS i else s
      let s := icFree i (xferSet i rest s)
      let s := if outcome = 3 then icCheck i s else s
      complete x.env stOK (outcome + 2 ^ 8 * seg + 2 ^ 16 * n) (leWords data) true s
def execI2cTransferDone (i outcome seg n : Nat) (data : List Byte) (lines : Nat) (s : State) : Host.Outcome State Fault Refusal :=
  .next (awake s (xferDone i outcome seg n data lines s))

/-- A write of I2C_CTL (R574, R575): enabling runs the check, as BUS_CLEAR does on an enabled controller. -/
def icCtl (i w : Nat) (s : State) : State :=
  let was := s.rb LSIO.I2C_CTL_EN i
  let s := s.writeRW LSIO.I2C_CTL w i
  if s.rb LSIO.I2C_CTL_EN i = false then icSet i icOFF (s.onLs (fun x => { x with check := bs x.check i false }))
  else if s.fwUp ∧ (was = false ∨ bit w 30) then icCheck i s
  else s
/-- BUS_CLEAR: a write of I2C_CTL with bit 30. -/
def execBusClear (fn i w : Nat) (s : State) : Host.Outcome State Fault Refusal :=
  .next (awake s (if isPF0 fn ∧ i < 4 then icCtl i w s else s))
/-- I2C_ENABLE: a write of I2C_CTL that changes EN. -/
def execI2cEnable (fn i w : Nat) (s : State) : Host.Outcome State Fault Refusal :=
  .next (awake s (if isPF0 fn ∧ i < 4 then icCtl i w s else s))

def execI2cConfig (e : Env) (ws : List RegW) (s : State) : Host.Outcome State Fault Refusal :=
  .next (runCmd { pf0 := true } e anyone (fun _ s =>
    if ws = [] ∨ 4 < ws.length ∨ cfgOk 0x24 1 [0x100] ws = false ∨ ws.any (fun w => decide (3 < w.obj)) then no stBAD_FIELD
    else done (s.each ws (fun s w => icCtl w.obj w.val s))) s)
/-- The segments of a transfer are as R573 gives them. -/
def segsOk (l : List I2cSeg) : Bool :=
  decide (1 ≤ l.length) && decide (l.length ≤ 8) &&
  l.all (fun g => decide (g.addr < 128) && decide (1 ≤ g.len) && decide (g.len ≤ 256) && (g.read || g.data.length == g.len)) &&
  decide (bytesRead l ≤ 1024) && decide (bytesWritten l ≤ 1024)
/-- I2C_XFER (R572, R573): a controller of modules is taken only while neither of its ports runs its module itself. A response that does not
fit is refused before the transfer (R527). -/
def execI2cXfer (e : Env) (i : Nat) (segs : List I2cSeg) (s : State) : Host.Outcome State Fault Refusal :=
  .next (runCmd { pf0 := true } e anyone (fun _ s =>
    if 2 < i ∨ segsOk segs = false ∨ s.respLimit e < 4 * cdiv (bytesRead segs) 4 then no stBAD_FIELD
    else if i < 2 ∧ (s.rb NETP.QSFP_CTL_AUTO (i := 2 * i) ∨ s.rb NETP.QSFP_CTL_AUTO (i := 2 * i + 1)) then no stBUSY
    else if s.icState i = icISOLATED then .ok s 4 [] 0 stOK
    else if s.icState i = icOFF then no stBUSY
    else .later (icSet i icBUSY (xferSet i (s.xfersOf i ++ [⟨e, segs⟩]) s))) s)
def execI2cStatus (e : Env) (is : List Nat) (clear : Bool) (s : State) : Host.Outcome State Fault Refusal :=
  .next (runCmd { pf0 := true, read := true } e anyone (fun _ s =>
    if is = [] ∨ 4 < is.length ∨ is.any (fun i => decide (3 < i)) then no stBAD_FIELD
    else
      let s' := if clear then s.onCmd (fun c => { c with clr := c.clr ++ is.map (fun i => (0x24, i)) }) else s
      retL s' 4 (is.flatMap (fun i => [s.rw LSIO.I2C_STAT i, s.rw LSIO.I2C_CLEARS i, s.rw LSIO.I2C_NACKS i, s.rw LSIO.I2C_TIMEOUTS i]))) s)
/-- I2C_BUS_CLEAR completes when the check ends. -/
def execI2cBusClear (e : Env) (i : Nat) (s : State) : Host.Outcome State Fault Refusal :=
  .next (runCmd { pf0 := true } e anyone (fun _ s =>
    if 3 < i then no stBAD_FIELD
    else if s.rb LSIO.I2C_CTL_EN i = false ∨ s.icState i = icOFF then no stBUSY
    else
      let l := s.checksOf i ++ [e]
      .later (icCheck i (s.onLs (fun x => { x with checkFor := tset (fun _ => []) x.checkFor i l })))) s)

/-! ## UARTs (R577–R580) -/

def State.uartTx (s : State) (u : Nat) : List Byte := tget (fun _ => []) s.ls.tx u
def State.uartRx (s : State) (u : Nat) : List (Byte × Bool) := tget (fun _ => []) s.ls.rx u
def uartTxPut (u : Nat) (l : List Byte) (s : State) : State :=
  (s.wr LSIO.UART_STAT_TX_LEVEL l.length u).onLs (fun x => { x with tx := tset (fun _ => []) x.tx u l })
def uartRxPut (u : Nat) (l : List (Byte × Bool)) (s : State) : State :=
  (s.wr LSIO.UART_STAT_RX_LEVEL l.length u).onLs (fun x => { x with rx := tset (fun _ => []) x.rx u l })
/-- A sticky bit of UART_STAT sets (R597). -/
def uartSticky (f : Fld) (u : Nat) (s : State) : State := if s.rb f u then s else (s.wb f true u).raise 0x24 2 fnsAll
/-- Bytes of waiting writes enter the transmit FIFO in order; a write completes once its last byte is in (R580). -/
def uartFill (u : Nat) : List (Env × List Byte) → State → State × List (Env × List Byte)
  | [], s => (s, [])
  | (e, d) :: t, s =>
    let f := s.uartTx u
    let k := 64 - f.length
    let s := uartTxPut u (f ++ d.take k) s
    if d.length ≤ k then uartFill u t (complete e stOK 0 [] true s) else (s, (e, d.drop k) :: t)
def uartPump (u : Nat) (s : State) : State :=
  let r := uartFill u (tget (fun _ => []) s.ls.wrQ u) s
  r.1.onLs (fun x => { x with wrQ := tset (fun _ => []) x.wrQ u r.2 })

/-- Core cycles of a bit period: sixteen times DIV + FRAC/16, at 187.5 MHz (R577). -/
def State.bitCycles (s : State) (u : Nat) : Nat := 16 * s.rd LSIO.UART_CTL_DIV u + s.rd LSIO.UART_CTL_FRAC u
/-- Data bits of a frame, and its parity bits. -/
def State.dataBits (s : State) (u : Nat) : Nat := if s.rb LSIO.UART_CTL_DATA7 u then 7 else 8
def State.parityBits (s : State) (u : Nat) : Nat := if s.rd LSIO.UART_CTL_PARITY u = 0 then 0 else 1
/-- The level of the parity bit for data with an odd number of ones, or an even one. -/
def State.parityOf (s : State) (u : Nat) (odd : Bool) : Bool := odd != (s.rd LSIO.UART_CTL_PARITY u == 2)
/-- The bit periods of a frame that carries a byte (R577): start, data from the least significant bit, parity, stop. -/
def State.frameBits (s : State) (u : Nat) (b : Byte) : List Bool :=
  let d := (List.range (s.dataBits u)).map (fun k => b.toNat.testBit k)
  [false] ++ d ++ List.replicate (s.parityBits u) (s.parityOf u (d.foldl xor false)) ++
    List.replicate (if s.rb LSIO.UART_CTL_STOP2 u then 2 else 1) true

/-- A bit is taken as the majority of its sub-samples 7, 8 and 9 (R578). -/
def bitTaken (l : List Bool) (k : Nat) : Bool :=
  let x := fun j => b2n (l.getD (16 * k + j) false)
  decide (2 ≤ x 7 + x 8 + x 9)
/-- A frame is received (R579): its byte, and whether it has a parity error, a stop bit that is low, or nothing but low bits. -/
def uartRecv (u : Nat) (d : Byte) (bad low brk : Bool) (s : State) : State :=
  let l := s.uartRx u
  if 64 ≤ l.length then uartSticky LSIO.UART_STAT_RX_OVF u (s.cntr LSIO.UART_RX_DROPS u)
  else
    let s := uartRxPut u (l ++ [(d, brk || bad || low)]) s
    let s := if brk then uartSticky LSIO.UART_STAT_BREAK u s
      else
        let s := if bad then uartSticky LSIO.UART_STAT_PARITY_ERR u s else s
        if low then uartSticky LSIO.UART_STAT_FRAME_ERR u s else s
    if l.length + 1 = s.rd LSIO.UART_RX_THRESH_N u then s.raise 0x24 1 fnsAll else s
/-- What the sub-samples of a whole frame say. -/
def uartTake (u : Nat) (l : List Bool) (s : State) : State :=
  let n := s.dataBits u
  let p := s.parityBits u
  let d := (List.range n).map (fun k => bitTaken l (k + 1))
  let low := !bitTaken l (n + p + 1)
  let bad := decide (p = 1) && bitTaken l (n + 1) != s.parityOf u (d.foldl xor false)
  let brk := low && !d.any id && (p == 0 || !bitTaken l (n + 1))
  uartRecv u (BitVec.ofNat 8 (d.foldr (fun b a => b2n b + 2 * a) 0)) bad low brk s
def uartPart (u : Nat) (l : List Bool) (s : State) : State := s.onLs (fun x => { x with rxPart := tset (fun _ => []) x.rxPart u l })
/-- One sub-sample of RXD (R578): a falling edge starts a frame, which is noise unless its start bit is taken as low, and ends with
sub-sample 9 of its first stop bit. After that the next falling edge starts a frame. -/
def uartSample (u : Nat) (s : State) (b : Bool) : State :=
  let was := bg s.ls.rxLow u
  let l := tget (fun _ => []) s.ls.rxPart u
  let s := s.onLs (fun x => { x with rxLow := bs x.rxLow u (!b) })
  if s.rb LSIO.UART_CTL_EN u = false then uartPart u [] s
  else if l = [] then (if b ∨ was then s else uartPart u [b] s)
  else
    let l := l ++ [b]
    if l.length = 10 ∧ bitTaken l 0 then uartPart u [] s
    else if l.length < 16 * (1 + s.dataBits u + s.parityBits u) + 10 then uartPart u l s
    else uartTake u l (uartPart u [] s)
def execUartFrameRx (u : Nat) (rxd : List Bool) (s : State) : Host.Outcome State Fault Refusal :=
  .next (awake s (if 1 < u ∨ s.bankUp 3 = false then s else s.each rxd (uartSample u)))
/-- A frame has been sent: its byte leaves the FIFO. -/
def execUartFrameTx (u : Nat) (s : State) : Host.Outcome State Fault Refusal :=
  .next (awake s (if 1 < u ∨ s.rb LSIO.UART_CTL_EN u = false then s
    else match s.uartTx u with
    | [] => s
    | b :: t =>
      let s := uartTxPut u t (s.onLs (fun x => { x with txd := tset (fun _ => []) x.txd u (s.frameBits u b) }))
      if s.fwUp then uartPump u s else s))

/-- What a write of UART_CTL or RX_THRESH does beside its fields: a UART switched off receives no frame further, and RX_LEVEL may have
reached a lower RX_THRESH. -/
def uartAfter (old : State) (u : Nat) (s : State) : State :=
  let s := if s.rb LSIO.UART_CTL_EN u then s else uartPart u [] s
  let n := (s.uartRx u).length
  if n < old.rd LSIO.UART_RX_THRESH_N u ∧ s.rd LSIO.UART_RX_THRESH_N u ≤ n then s.raise 0x24 1 fnsAll else s
/-- Register words of UARTs: CONSOLE is UART0's alone. -/
def uartWord (w : RegW) : Nat := if w.off = 0x200 ∧ w.obj = 1 then fput w.val 30 30 0 else w.val
def execUartConfig (e : Env) (ws : List RegW) (s : State) : Host.Outcome State Fault Refusal :=
  .next (runCmd { pf0 := true } e anyone (fun _ s =>
    if ws = [] ∨ cfgOk 0x24 1 [0x200, 0x208] ws = false ∨ ws.any (fun w => decide (1 < w.obj)) then no stBAD_FIELD
    else done (s.each ws (fun s w => uartAfter s w.obj (s.writeWord 16 0x24 w.obj w.off .base (uartWord w))))) s)
def execUartWrite (e : Env) (u : Nat) (data : List Byte) (s : State) : Host.Outcome State Fault Refusal :=
  .next (runCmd { pf0 := true } e anyone (fun _ s =>
    if 1 < u ∨ data = [] ∨ 1024 < data.length then no stBAD_FIELD
    else if u = 0 ∧ s.rb LSIO.UART_CTL_CONSOLE 0 then no stBUSY
    else
      let l := tget (fun _ => []) s.ls.wrQ u ++ [(e, data)]
      .later (uartPump u (s.onLs (fun x => { x with wrQ := tset (fun _ => []) x.wrQ u l })))) s)
/-- Bits of a list, the first in bit 0 of the first byte. -/
def bitMap (l : List Bool) : List Byte :=
  (chunks 8 (l.length + 1) l).map (fun g => BitVec.ofNat 8 (g.foldr (fun b a => b2n b + 2 * a) 0))
/-- UART_READ returns UART_STAT, the bytes and the map of those received with an error (R580). -/
def execUartRead (e : Env) (u n : Nat) (s : State) : Host.Outcome State Fault Refusal :=
  .next (runCmd { pf0 := true } e anyone (fun _ s =>
    if 1 < u ∨ n = 0 ∨ 1024 < n then no stBAD_FIELD
    else
      let l := (s.uartRx u).take n
      ret (uartRxPut u ((s.uartRx u).drop n) s)
        ([s.rw LSIO.UART_STAT u, l.length] ++ leWords (l.map (·.1)) ++ leWords (bitMap (l.map (·.2))))) s)

/-! ## General-purpose pins (R590–R592) -/

/-- An edge at a pin. -/
def gpioEdge (pin : Nat) (rising : Bool) (s : State) : State :=
  if 31 < pin ∨ s.rb LSIO.GPIO_IN pin = rising then s
  else
    let s := s.wb LSIO.GPIO_IN rising pin
    if bit (s.rd LSIO.GPIO_EDGE pin) (b2n (!rising)) then (s.wb LSIO.GPIO_EVT true pin).raise 0x24 3 fnsAll else s
/-- The level that the device drives on a pin, none while it drives nothing (R590, R591). -/
def State.gpioOut (s : State) (pin : Nat) : Option Bool :=
  let l := if s.rb LSIO.GPIO_SRC pin then bg s.tim.evtOut pin else s.rb LSIO.GPIO_OUT pin
  match s.rd LSIO.GPIO_MODE pin with
  | 1 => some l
  | 2 => if l then none else some false
  | _ => none
/-- IN shows the level at the pin in every mode (R590): also the one driven on it. -/
def gpioShow (pin : Nat) (s : State) : State :=
  if 31 < pin ∨ s.bankUp (6 + pin / 16) = false then s else match s.gpioOut pin with | some l => gpioEdge pin l s | none => s
def execGpioEdge (pin : Nat) (rising : Bool) (s : State) : Host.Outcome State Fault Refusal := .next (awake s (if s.bankUp (6 + pin / 16) then gpioEdge pin rising s else s))
/-- GPIO_CONFIG: the pins' registers, the buffered fields at one tick boundary. -/
def execGpioConfig (e : Env) (l : List (Nat × Nat)) (s : State) : Host.Outcome State Fault Refusal :=
  .next (runCmd { pf0 := true } e anyone (fun _ s =>
    if l = [] ∨ 32 < l.length ∨ l.any (fun x => decide (31 < x.1) || decide (2 ^ 32 ≤ x.2) || fbits x.2 31 30 == 3 || fbits x.2 27 26 == 3) then
      no stBAD_FIELD
    else done (s.each l (fun s x => s.writeWord 16 0x24 x.1 0x400 .base x.2))) s)
def execGpioRead (e : Env) (clear : Bool) (s : State) : Host.Outcome State Fault Refusal :=
  .next (runCmd { pf0 := true } e anyone (fun _ s =>
    ret (if clear then s.each (List.range 32) (fun s i => s.wb LSIO.GPIO_EVT false i) else s)
      ((List.range 32).map (fun i => s.rw LSIO.GPIO i))) s)
/-- GPIO_PULSE on a general-purpose pin acts on an output that the collator drives (R591); otherwise it is counted. -/
def State.pulseOk (s : State) (pin : Nat) : Bool := decide (31 < pin) || (s.rd LSIO.GPIO_MODE pin != 0 && s.rb LSIO.GPIO_SRC pin)
def collIgn (s : State) : State :=
  let s' := s.cntr LSIO.COLL_IGN
  if s.rw LSIO.COLL_IGN = 0 then s'.raise 0x24 6 fnsAll else s'
/-- GPIO_PULSE fires at boundary n (R48, R591, R629): it replaces an opposite edge that is still due. -/
def pinPulse (pin : Nat) (level : Bool) (width n : Nat) (s : State) : State :=
  if 39 < pin then s
  else if s.pulseOk pin then
    gpioShow pin (s.onTim (fun t => { t with
      evtOut := bs t.evtOut pin level, pulse := os t.pulse pin (if width = 0 then none else some (n + width, !level)) }))
  else collIgn s
/-- The opposite edges due at boundary n are made. -/
def pulseEdges (n : Nat) (s : State) : State :=
  s.each s.tim.pulse (fun s p => match p.2 with
    | some (m, lv) =>
      if m ≤ n then gpioShow p.1 (s.onTim (fun t => { t with evtOut := bs t.evtOut p.1 lv, pulse := os t.pulse p.1 none })) else s
    | none => s)
/-- A pin whose SRC has gone from 1 to 0 makes no opposite edge (R591), and the pin takes the level that its word now drives. -/
def gpioApply (s : State) (h : Held) : State :=
  let src := s.rb LSIO.GPIO_SRC h.obj
  let s := s.applyHeld h
  if h.off ≠ 0x400 then s
  else gpioShow h.obj (if src ∧ s.rb LSIO.GPIO_SRC h.obj = false then s.onTim (fun t => { t with pulse := os t.pulse h.obj none }) else s)

/-! ## Control pins (R594, R595) -/

/-- The shutdown limit in units of 1/16 °C (R617). -/
def State.shutdown (s : State) : Int := if s.ls.grade then 16 * 115 else 16 * 110
/-- WARN is below the shutdown limit. -/
def State.warnOk (s : State) (w : Nat) : Bool := decide (sgn 16 (fbits w 31 16) < s.shutdown)
def execCtrlpinConfig (e : Env) (ws : List RegW) (s : State) : Host.Outcome State Fault Refusal :=
  .next (runCmd { pf0 := true } e anyone (fun _ s =>
    if ws = [] ∨ cfgOk 0x24 1 [0x484, 0x488] ws = false ∨ ws.any (fun w => w.obj != 0 || (w.off == 0x484 && !s.warnOk w.val)) then no stBAD_FIELD
    else done (cfgWrite 0x24 ws s)) s)

/-! ## Supplies and I/O banks (R599–R606, R625–R628) -/

/-- RAIL_EXC: a supply passes its recommended limit; the monitors do not run in RESET, BOOT and STANDBY (R600, R625). -/
def execRailExc (rail : Nat) (s : State) : Host.Outcome State Fault Refusal :=
  .next (if 5 < rail ∨ s.mode < 3 then s
    else
      let ok := s.rd PWR.RAIL_STAT_OK
      let exc := s.rd PWR.RAIL_STAT_EXC
      let s := s.wr PWR.RAIL_STAT_OK (if bit ok rail then ok - 2 ^ rail else ok)
      if bit exc rail then s else (s.wr PWR.RAIL_STAT_EXC (exc + 2 ^ rail)).raise 0x01 0 fnsAll)
/-- BANK_CHG: an I/O bank is found at another level. -/
def execBankChg (b level : Nat) (s : State) : Host.Outcome State Fault Refusal :=
  .next (if 15 < b ∨ 3 < level then s
    else
      let w := s.rw PWR.BANK_STAT
      if fbits w (2 * b + 1) (2 * b) = level then s
      else (s.ww PWR.BANK_STAT (fput w (2 * b + 1) (2 * b) level)).raise 0x01 1 fnsAll)
def execPwrStatus (e : Env) (s : State) : Host.Outcome State Fault Refusal :=
  .next (runCmd { read := true } e anyone (fun _ s =>
    ret s ([s.rw PWR.RAIL_STAT, s.rw PWR.BANK_STAT] ++ (List.range 8).map (fun i => s.rw PWR.TEMP i) ++
      (List.range 16).map (fun b => s.rw PWR.IO_CFG b))) s)
def execIoConfig (e : Env) (l : List (Nat × Nat)) (s : State) : Host.Outcome State Fault Refusal :=
  .next (runCmd { pf0 := true } e anyone (fun _ s =>
    if l = [] ∨ 16 < l.length ∨ l.any (fun x => decide (15 < x.1) || decide (2 ^ 32 ≤ x.2) || fbits x.2 5 4 == 3) then no stBAD_FIELD
    else done (s.each l (fun s x => s.writeWord 16 0x01 x.1 0x080 .base x.2))) s)

end Sys2Proof.Machine
end

