-- ==== Sys2Proof/Machine/Operands.lean ====
section
/-!
DEFINITION. The coded numbers that commands and registers carry: gain codes and their linear forms (R214–R216), level codes
(R272), population targets (R224), source selectors (R207), test-generator values (R213) and export dither (R226). All are
exact: a logarithm is compared through powers of whole numbers.
-/
namespace Sys2Proof.Machine

/-! ## Searching -/

/-- The largest number below `lo + 2^n` at which a falling predicate still holds, if it holds at `lo`. -/
def searchUp (p : Nat → Bool) : Nat → Nat → Nat
  | 0, lo => lo
  | n + 1, lo => if p (lo + 2 ^ n) then searchUp p n (lo + 2 ^ n) else searchUp p n lo

/-- 10^e · a ≤ b, for an exponent of either sign. -/
def pow10Le (e : Int) (a b : Nat) : Bool :=
  if 0 ≤ e then decide (10 ^ e.toNat * a ≤ b) else decide (a ≤ b * 10 ^ (-e).toNat)
/-- a ≤ 10^e · b. -/
def lePow10 (e : Int) (a b : Nat) : Bool :=
  if 0 ≤ e then decide (a ≤ 10 ^ e.toNat * b) else decide (a * 10 ^ (-e).toNat ≤ b)

/-! ## The gain law -/

/-- (c − 59,392) of R214. -/
def gainExp (c : Nat) : Int := (c : Int) - 59392
/-- S of R215: the least S with g ≥ 2^(1 − S), g being 10^((c − 59,392)/10,240). -/
def gainShift (c : Nat) : Nat :=
  ((List.range 23).find? (fun s =>
    if s ≤ 1 then lePow10 (gainExp c) (2 ^ (10240 * (1 - s))) 1 else lePow10 (gainExp c) 1 (2 ^ (10240 * (s - 1))))).getD 22
/-- M before the exception of R215: the nearest whole number to g × 2^(22 + S), ties up. -/
def gainMant0 (c s : Nat) : Nat :=
  searchUp (fun m => lePow10 (gainExp c) ((2 * m - 1) ^ 10240) (2 ^ (10240 * (23 + s)))) 24 (2 ^ 23)
/-- M and S of a code (R215). Unity, the most used code, is the anchor that R215 names. -/
def gainMS (c : Nat) : Nat × Nat :=
  if c = 0xE800 then (0x800000, 1)
  else
    let s := gainShift c
    let m := gainMant0 c s
    if 2 ^ 24 ≤ m then (2 ^ 23, s - 1) else (m, s)

/-- A shift left by a signed amount; a negative one truncates toward zero. -/
def shlI (m : Nat) (d : Int) : Nat := if 0 ≤ d then m * 2 ^ d.toNat else m / 2 ^ (-d).toNat
/-- T of R216, unsigned Q3.29. -/
def linT (c : Nat) : Nat := if c = 0 then 0 else let g := gainMS c; shlI g.1 (7 - (g.2 : Int))
/-- K of R216, unsigned Q1.31. -/
def linK (c : Nat) : Nat := if c = 0 then 0 else let g := gainMS c; shlI g.1 (9 - (g.2 : Int))

/-- The term of one effective node (R218): an arithmetic shift, toward minus infinity. -/
def term (x : Int) (c : Nat) : Int :=
  if c = 0 then 0 else let g := gainMS c; x * g.1 / 2 ^ (13 + g.2)
/-- The term during a ramp (R249), at weight W. -/
def rampTerm (x : Int) (cr cv w : Nat) : Int :=
  let tr := term x cr
  tr + (term x cv - tr) * w / 65536
/-- W_i of R249. -/
def rampWeight (i rmp : Nat) : Nat := if rmp ≤ i then 65536 else i * 65536 / rmp

/-- A ramp over `len` indices from value a to b, at the i-th index (R211, R225). -/
def lerp (a b : Nat) (i len : Nat) : Nat := ((a : Int) + ((b : Int) - a) * (min i len : Nat) / len).toNat

/-! ## Population scaling -/

/-- The target code of R224 for a count, a mode and N0. -/
def popTarget (mode n n0 : Nat) : Nat :=
  if n ≤ n0 ∨ mode = 0 ∨ mode = 3 then 59392
  else
    let p := if mode = 1 then 20480 else 10240
    59392 - searchUp (fun r => decide (10 ^ (2 * r - 1) * n0 ^ p ≤ n ^ p)) 17 0

/-! ## Level codes -/

/-- The level code of m = a / 2^b is at least c (R272), for c ≥ 1; a magnitude raised to the power 10,240. -/
def levelGe (a b c : Nat) : Bool := c == 0 || (a != 0 && pow10Le (gainExp c) (2 ^ (10240 * b)) (a ^ 10240))
/-- The level code of the magnitude a / 2^b. -/
def levelCode (a b : Nat) : Nat := searchUp (fun c => c ≤ 65535 && levelGe a b c) 16 0
/-- The level code of sqrt(e) / 2^31 (R273): of e / 2^62 at half the logarithm. -/
def rmsCode (e : Nat) : Nat :=
  searchUp (fun c => c ≤ 65535 && e != 0 && pow10Le (2 * gainExp c) (2 ^ (10240 * 62)) (e ^ 10240)) 16 0

/-! ## Selectors -/

def selKind (w : Nat) : Nat := fbits w 15 13
def selIndex (w : Nat) : Nat := fbits w 12 0
def skNONE : Nat := 0
def skRXCH : Nat := 1
def skLOCAL : Nat := 2
def skHOSTPB : Nat := 3
def skULINK : Nat := 4
def skTESTGEN : Nat := 5
/-- The range of INDEX of each KIND (R207). -/
def selRange (k : Nat) : Nat := match k with | 0 => 1 | 1 => 8192 | 2 => 48 | 3 => 512 | 4 => 4096 | 5 => 16 | _ => 0
/-- R207 accepts the selector. -/
def selOk (w : Nat) : Bool := decide (selIndex w < selRange (selKind w))

/-! ## Dither and noise -/

/-- z of R226. -/
def ditherZ (seed o n : Nat) : Nat :=
  let m := 2 ^ 64
  let z := (n * 0x9E3779B97F4A7C15 + (o * 2 ^ 32 + seed)) % m
  let z := ((z ^^^ (z >>> 30)) * 0xBF58476D1CE4E5B9) % m
  let z := ((z ^^^ (z >>> 27)) * 0x94D049BB133111EB) % m
  z ^^^ (z >>> 31)
/-- The word of w bits that an export of Y carries (R24, R226): with dither, or with the low bits discarded. -/
def exportWord (dither : Bool) (seed o n w : Nat) (y : Int) : Int :=
  let q := 2 ^ (32 - w)
  if dither && decide (w < 32) then
    let z := ditherZ seed o n
    satI 32 (y + (z % q : Nat) + (z / 2 ^ 32 % q : Nat) - (q / 2 : Nat)) / (q : Int)
  else y / (q : Int)

/-! ## Test generators -/

/-- Division rounded to the nearest, a half away from zero. -/
def roundDiv (a : Int) (d : Nat) : Int :=
  if 0 ≤ a then (2 * a + d) / (2 * d) else -((2 * -a + d) / (2 * d))

/-- 2^300 π, rounded down. -/
def piFix : Nat := 0x3243f6a8885a308d313198a2e03707344a4093822299f31d0082efa98ec4e6c89452821e638d
/-- The terms of the sine series from the j-th on, at x and −x² in units of 2^−300. -/
def sinSeries (x2 : Int) : Nat → Nat → Int → Int
  | 0, _, _ => 0
  | n + 1, j, t => t + sinSeries x2 n (j + 1) (-(t * x2 / 2 ^ 300) / ((2 * j + 2) * (2 * j + 3) : Nat))
/-- sin(2π p / d) in units of 2^−300 for p ≤ d/4, exact at 1/12 and 1/4 of a turn. -/
def sinQuarter (p d : Nat) : Int :=
  if 12 * p = d then 2 ^ 299 else if 4 * p = d then 2 ^ 300
  else let x : Int := (2 * piFix * p / d : Nat); sinSeries (x * x / 2 ^ 300) 60 0 x
/-- sin(2π p / d) in units of 2^−300, to far below the resolution of R213. -/
def sinTurn (p d : Nat) : Int :=
  let p := p % d
  if 4 * p ≤ d then sinQuarter p d
  else if 2 * p ≤ d then sinQuarter' (d - 2 * p) d
  else if 4 * p ≤ 3 * d then -sinQuarter' (2 * p - d) d
  else -sinQuarter (d - p) d
where
  /-- The value at half of h, h counted in half steps. -/
  sinQuarter' (h d : Nat) : Int := sinQuarter h (2 * d)

/-- Lv × 2^29 × x / 2^k rounded and saturated: a level applied to a value in units of 2^−k. -/
def tgScale (t : Nat) (x : Int) (k : Nat) : Int := satI 32 (roundDiv (t * x) (2 ^ (29 + k)))

end Sys2Proof.Machine
end

