-- ==== Sys2Proof/Machine/Owner.lean ====
section
/-!
DEFINITION. Who owns what: the owner of each kind of object, as the registers show it, and what a tenant may name.
-/
namespace Sys2Proof.Machine

/-- The owner of a receive stream (R143), of a transmit stream (R292), of a turn descriptor (R244), of a snapshot set (R285),
of a ratio group (R186), of a signature (R232), of an X-in (R209). -/
def State.rxOwner (s : State) (i : Nat) : Nat := s.rd STRX.OWNER_FN i
def State.txOwner (s : State) (i : Nat) : Nat := s.rd STTX.OWNER_FN i
def State.tdOwner (s : State) (d : Nat) : Nat := s.rd SCNE.TD_STAT_OWNER d
def State.setOwner (s : State) (n : Nat) : Nat := s.rd METR.SNAP_CTL_OWNER n
def State.grpOwner (s : State) (g : Nat) : Nat := s.rd SRCB.GRP_STAT_OWNER g
def State.sigOwner (s : State) (n : Nat) : Nat := s.rd SIG.SIG_STAT_OWNER (i := n)
def State.xinOwner (s : State) (x : Nat) : Nat := s.rd XPNT.IN_STAT_OWNER x
def State.capOwner (s : State) (c : Nat) : Nat := ng s.host.capOwner c
def State.pbOwner (s : State) (c : Nat) : Nat := ng s.host.pbOwner c

/-- PF0 acts on everything; a tenant on what it owns. -/
def may (fn owner : Nat) : Bool := fn == 0 || fn == owner

/-! ## Quotas (R509, R511) -/

def qXIN : Nat := 0
def qRXS : Nat := 1
def qRXC : Nat := 2
def qTXS : Nat := 3
def qTXC : Nat := 4
def qPATCH : Nat := 5
def qCAP : Nat := 6
def qPB : Nat := 7
def qASRC : Nat := 8
def qEDIT : Nat := 9
def qBUF : Nat := 10
def qFILT : Nat := 11

def State.quotaUse (s : State) (fn r : Nat) : Nat := s.rd TNT.USE_N r fn
/-- A tenant may take n more units of a resource. -/
def State.quotaOk (s : State) (fn r n : Nat) : Bool :=
  fn == 0 || n == 0 || decide (s.quotaUse fn r + n ≤ s.rd TNT.QUOTA_N r fn)
/-- The OVER bit of a resource follows its use (R511); OVER_CHG is raised when it changes (R523). -/
def overFix (fn r : Nat) (s : State) : State :=
  let o := s.rd TNT.TNT_STAT_OVER (i := fn)
  let n := if s.rd TNT.QUOTA_N r fn < s.quotaUse fn r then o ||| 2 ^ r else o - (o &&& 2 ^ r)
  if n = o then s else (s.wr TNT.TNT_STAT_OVER n (i := fn)).raise (0x25 + fn) 0 (fnsOwn fn)
/-- Count units taken and given back; PF0's use is not counted. -/
def useTake (fn r n : Nat) (s : State) : State :=
  if fn = 0 then s else overFix fn r (s.wr TNT.USE_N (s.quotaUse fn r + n) r fn)
def useGive (fn r n : Nat) (s : State) : State :=
  if fn = 0 then s else overFix fn r (s.wr TNT.USE_N (s.quotaUse fn r - n) r fn)

/-- What a tenant may arm in the collator, with the object named (R57). PF0 may arm every action. -/
def mayArm (fn action p0 : Nat) (s : State) : Bool :=
  fn == 0 ||
  match action with
  | 1 => s.tdOwner (p0 % 64) == fn
  | 3 | 4 => if bit p0 10 then s.txOwner (p0 % 1024) == fn else s.rxOwner (p0 % 1024) == fn
  | 6 => s.setOwner (p0 % 16) == fn
  | 7 => s.grpOwner (p0 % 256) == fn
  | _ => false

/-! ## Fades -/

/-- The factor of a fade to zero over L samples from sample `st`, and of a fade in, at sample `n` (R513, R515). -/
def fadeOut (l st n : Nat) : Nat × Nat := if n < st then (1, 1) else (l - (n - st + 1), l)
def fadeIn (l st n : Nat) : Nat × Nat := if n < st then (0, 1) else (min l (n - st + 1), l)
/-- The smaller of two factors. -/
def minFade (a b : Nat × Nat) : Nat × Nat := if b.1 * a.2 < a.1 * b.2 then b else a
def noFade : Nat × Nat := (1, 1)
/-- A faded value, truncated toward minus infinity. -/
def faded (f : Nat × Nat) (v : Int) : Int := if f.1 = f.2 then v else v * (f.1 : Int) / (f.2 : Int)

/-- The factor of the reclaims that concern an item at sample n (R513). -/
def State.reclaimFade (s : State) (it : Item) (n : Nat) : Nat × Nat :=
  s.host.reclaims.foldl (fun f r => if r.items.contains it then minFade f (fadeOut 256 r.start n) else f) noFade

/-- The factor that a tenant's function reset or resume puts on its audio at sample n (R515). -/
def State.tenantFade (s : State) (fn n : Nat) : Nat × Nat :=
  let up := match og s.host.rampIn fn with
    | some st => fadeIn 256 st n
    | none => if s.rb TNT.TNT_STAT_SILENCED (i := fn) then (0, 1) else noFade
  match og s.host.rampOut fn with
  | some st => minFade up (fadeOut 256 st n)
  | none => up

/-- The factor of the fade before SAFE at output index n (R464). -/
def State.safeFade (s : State) (n : Nat) : Nat × Nat :=
  match s.md.fadeAt with
  | some st => fadeOut 32 st n
  | none => noFade

/-- The factor of a fade over the 32 samples before n (R167, R195, R302). -/
def fadeBefore (n : Option Nat) (now : Nat) : Nat × Nat :=
  match n with
  | some n => if now < n then fadeOut 32 (n - 32) now else noFade
  | none => noFade

end Sys2Proof.Machine
end

