-- ==== Sys2Proof/Machine/Time.lean ====
section
/-!
DEFINITION. Media time and scheduling: the time bases, snapshots, the collator, show time and timecode, event capture
(R34–R71, R629).
-/
namespace Sys2Proof.Machine

/-! ## Times on a base -/

/-- Grid steps in a second (R38). -/
def gridSec : Nat := 12000000000

/-- The time of base `b` (R49: 0–3 TB0–TB3, else media time) at media grid point `g`, in grid steps (R35). -/
def State.baseAt (s : State) (b g : Nat) : Int := if b < 4 then (g : Int) + ig s.tim.ofs b / 2000 else g

/-- The base delivers time (R34). -/
def State.baseValid (s : State) (b : Nat) : Bool := if b < 4 then s.rb TIME.TB_STAT_VALID (i := b) else true

/-- The fraction of a stamp from its grid phase (R40): the nearest 1/256 ns to p / 12 ns. -/
def stampFrac (p : Nat) : Nat := (p * 256 + 6) / 12
/-- A stamp's two fields (R39). -/
def stampNs (g : Int) : Nat := (g.toNat / 12) % 2 ^ 32
def stampFr (g : Int) : Nat := stampFrac (g.toNat % 12)

/-- Seconds, nanoseconds and fraction of a time in grid steps (R37, R40). -/
def timeSec (g : Int) : Nat := g.toNat / gridSec
def timeNs (g : Int) : Nat := g.toNat / 12 % 1000000000
def timeGrid (sec ns : Nat) : Nat := 12 * (sec * 1000000000 + ns)

/-- A stamp made whole by a snapshot of the same base (R43): the seconds and nanoseconds of the event, the fraction being unchanged;
none where the stamp lies more than 2.1 s from the snapshot. -/
def stampExtend (snapSec snapNs evNs : Nat) : Option (Nat × Nat) :=
  let t := snapSec * 1000000000 + snapNs
  let d := sgn 32 (uns 32 ((evNs : Int) - t))
  if d < -2100000000 ∨ 2100000000 < d then none
  else let w := uns 64 (t + d); some (w / 1000000000, w % 1000000000)

/-- Latch every time base at one grid point (R42). -/
def snapshot (off : Nat) (s : State) : State :=
  let g := s.grid off
  let s := s.each [0, 1, 2, 3] (fun s b =>
    let t := s.baseAt b g
    (((s.ww TIME.SNAP_SEC_HI (timeSec t / 2 ^ 32) (i := b)).ww TIME.SNAP_SEC_LO (timeSec t % 2 ^ 32) (i := b)).ww
      TIME.SNAP_NS (timeNs t) (i := b)).ww TIME.SNAP_FRAC (stampFr t) (i := b))
  let s := (((s.ww COLL.MSNAP_SEC_HI (timeSec g / 2 ^ 32)).ww COLL.MSNAP_SEC_LO (timeSec g % 2 ^ 32)).ww
    COLL.MSNAP_NS (timeNs g)).ww COLL.MSNAP_FRAC (stampFr g)
  let s := s.wr64 COLL.SNAP_IDX_HI COLL.SNAP_IDX_LO s.idx
  s.cntw COLL.SNAP_CTL_SEQ

/-! ## Timecode addresses (R60–R62) -/

/-- Whole frames in a second of an address, by rate code. -/
def ltcFps (rate : Nat) : Nat := match rate with | 0 => 24 | 1 => 25 | _ => 30
/-- The frame period, in grid steps. -/
def ltcPeriod (rate : Nat) : Nat := match rate with | 0 => 500000000 | 1 => 480000000 | 2 => 400000000 | _ => 400400000
def ltcH (a : Nat) : Nat := fbits a 28 24
def ltcM (a : Nat) : Nat := fbits a 21 16
def ltcS (a : Nat) : Nat := fbits a 13 8
def ltcF (a : Nat) : Nat := fbits a 5 0
/-- An address that ST 12-1 drops: frames 0 and 1 of a minute that is not a multiple of ten. -/
def ltcDropped (a : Nat) : Bool := ltcF a < 2 && ltcS a == 0 && ltcM a % 10 != 0
/-- The address names a frame at the rate (R62). -/
def ltcNames (rate a : Nat) : Bool :=
  ltcH a < 24 && ltcM a < 60 && ltcS a < 60 && ltcF a < ltcFps rate && rate ≤ 4 && !(rate == 4 && ltcDropped a)
/-- The frame count of an address within its day. -/
def ltcCount (rate a : Nat) : Nat :=
  let n := ltcFps rate * (3600 * ltcH a + 60 * ltcM a + ltcS a) + ltcF a
  if rate = 4 then
    let m := 60 * ltcH a + ltcM a
    n - 2 * (m - m / 10)
  else n
/-- The address of the F-th frame of a day, in the layout of LTC_IN_TC (R60, R61): the inverse of `ltcCount`. At FPS2997_DF, 17,982
frames make ten minutes, of which the first has 1800 and each other 1798. -/
def ltcAddr (rate n : Nat) : Nat :=
  let q := n % 17982
  let n := if rate = 4 then n + 18 * (n / 17982) + (if q < 1800 then 0 else 2 * ((q - 2) / 1798)) else n
  let sec := n / ltcFps rate
  sec / 3600 * 2 ^ 24 + sec / 60 % 60 * 2 ^ 16 + sec % 60 * 2 ^ 8 + n % ltcFps rate
/-- The time of day c of R61, in grid steps. -/
def ltcTime (rate a : Nat) : Nat := ltcCount rate a * ltcPeriod rate
/-- The frames of a day at a rate. -/
def ltcDayFrames (rate : Nat) : Nat := if rate = 4 then 30 * 86400 - 2 * (1440 - 144) else ltcFps rate * 86400
/-- The address follows another. -/
def ltcFollows (rate a b : Nat) : Bool := (ltcCount rate a + 1) % ltcDayFrames rate == ltcCount rate b

/-- DAY of R62. -/
def State.ltcDayNow (s : State) (g : Nat) : Nat :=
  if s.rb TIME.TB_CTL_LTC_FOLLOW (i := 3) then s.tim.ltcDay else (s.baseAt 3 g).toNat / (86400 * gridSec)
/-- The rate that converts a trigger's address at arming (R62). -/
def State.ltcArmRate (s : State) : Nat :=
  if s.rb TIME.TB_CTL_LTC_FOLLOW (i := 3) && !s.rb TIME.LTC_IN_STAT_LOST (i := 3) then s.rd TIME.LTC_IN_STAT_RATE (i := 3)
  else s.rd TIME.LTC_OUT_CTL_RATE (i := 3)
/-- The TB3 time an address resolves to (R62). -/
def State.ltcResolve (s : State) (rate a g : Nat) : Nat :=
  let t := 86400 * gridSec * s.ltcDayNow g + ltcTime rate a
  if (t : Int) < s.baseAt 3 g then t + 86400 * gridSec else t

/-! ## The collator -/

def State.slotState (s : State) (i : Nat) : Nat := s.rd COLL.SLOT_STAT_STATE i
def slFREE : Nat := 0
def slARMED : Nat := 1
def slFROZEN : Nat := 2
def slDONE : Nat := 3
def slMISSED : Nat := 4
def slCANCELLED : Nat := 5
def slots : List Nat := List.range 64

/-- COLL_STAT.ARMED counts the slots ARMED or FROZEN. -/
def armedFix (s : State) : State :=
  s.wr COLL.COLL_STAT_ARMED ((slots.filter (fun i => s.slotState i == slARMED || s.slotState i == slFROZEN)).length)

/-- The index n of a trigger, from the slot's registers (R50); `t` is the TB3 time that an LTC slot resolves to. -/
def State.slotIndex (s : State) (i t : Nat) : Nat :=
  let full := timeGrid (s.rw COLL.SLOT_SEC_HI i * 2 ^ 32 + s.rw COLL.SLOT_SEC_LO i) (s.rw COLL.SLOT_NS i)
  let at_ := fun (b : Nat) (t : Nat) => (cdivI (2000 * (t : Int) - ig s.tim.ofs b) 250000000).toNat
  match s.rd COLL.SLOT_CTL_TBSEL i with
  | 4 => cdiv full 125000
  | 5 => at_ 3 t
  | 6 => 32 * cdiv (s.tim.sample + 2) 32
  | 7 => s.rw COLL.SLOT_SEC_LO i * 2 ^ 32 + s.rw COLL.SLOT_NS i
  | b => at_ b full

/-- The base a selector depends on, which must be valid to arm (R50, R52). -/
def slotBase (tbsel : Nat) : Nat := if tbsel = 5 then 3 else tbsel

/-- Why arming a slot is refused, if it is: R50, R55, R57, R62, R37, R446. -/
def armRefusal (fn i : Nat) (s : State) : Option Nat :=
  let act := s.rd COLL.SLOT_CTL_ACTION i
  let tb := s.rd COLL.SLOT_CTL_TBSEL i
  let p := s.rw COLL.SLOT_PERIOD i
  let p0 := s.rw COLL.SLOT_PARAM0 i
  if s.slotState i != slFREE || s.uma.resv.any (fun r => r.2.1 == i) then some stBUSY
  else if !mayArm fn act p0 s then some stNOT_OWNER
  else if !s.tim.published || s.mirrorStandby then some stMODE_DENY
  else if act = 0 ∨ 8 < act then some stBAD_FIELD
  else if act = 1 ∧ s.rb SCNE.TD_STAT_DEFINED (p0 % 64) = false then some stBAD_FIELD
  else if tb = 5 ∧ ltcNames s.ltcArmRate (s.rw COLL.SLOT_NS i) = false then some stBAD_FIELD
  else if tb ≤ 4 ∧ (2 ^ 34 ≤ s.rw COLL.SLOT_SEC_HI i * 2 ^ 32 + s.rw COLL.SLOT_SEC_LO i ∨ 999999999 < s.rw COLL.SLOT_NS i) then
    some stBAD_FIELD
  else if 1 ≤ p ∧ p < 32 then some stBAD_FIELD
  else if act = 5 ∧ p ≠ 0 ∧ p ≤ s.rw COLL.SLOT_PARAM1 i then some stBAD_FIELD
  else if s.baseValid (slotBase tb) = false then some stBUSY
  else none

/-- A late slot under RUN fires at sample n (R53). -/
def runLate (i n : Nat) (s : State) : State :=
  (s.wr COLL.SLOT_STAT_STATE slFROZEN i).onTim (fun t => { t with slotN := ns t.slotN i n, slotLate := bs t.slotLate i true })

/-- Arm a slot that may be armed (R50, R51, R53). -/
def armSlot (fn i : Nat) (s : State) : State :=
  let tb := s.rd COLL.SLOT_CTL_TBSEL i
  let rate := s.ltcArmRate
  let t5 := s.ltcResolve rate (s.rw COLL.SLOT_NS i) (s.grid 0)
  let n := s.slotIndex i t5
  let s := (s.wr COLL.SLOT_CTL_OWNER fn i).ww COLL.SLOT_STAT 0 i
  let s := s.onTim (fun t => { t with
    slotN := ns t.slotN i n, slotRate := ns t.slotRate i rate, slotT := ns t.slotT i t5, slotStop := bs t.slotStop i false,
    slotLate := bs t.slotLate i false })
  let s :=
    if n < s.tim.sample + 2 then
      if s.rb COLL.SLOT_CTL_LATE i then runLate i (s.tim.sample + 2) s
      else (s.wr COLL.SLOT_STAT_STATE slMISSED i).cnt COLL.COLL_STAT_MISSED_CNT
    else if tb = 4 ∨ tb = 6 ∨ tb = 7 ∨ n < 32 * (s.accTick + 2) then s.wr COLL.SLOT_STAT_STATE slFROZEN i
    else s.wr COLL.SLOT_STAT_STATE slARMED i
  armedFix s

/-- What cancelling a slot answers (R56): a status, and whether the slot changes. -/
def cancelJudge (i : Nat) (s : State) : Nat × Bool :=
  let st := s.slotState i
  if st = slFREE then (stBAD_FIELD, false)
  else if st = slARMED then (stOK, true)
  else if st = slFROZEN then if s.rw COLL.SLOT_PERIOD i = 0 then (stBUSY, false) else (stOK, true)
  else (stOK, false)

/-- Cancel a slot that may be cancelled: an ARMED one at once, a periodic one after its next firing. -/
def cancelSlot (i : Nat) (s : State) : State :=
  if s.slotState i = slARMED then armedFix (s.wr COLL.SLOT_STAT_STATE slCANCELLED i)
  else s.onTim (fun t => { t with slotStop := bs t.slotStop i true })

/-- A slot that its owner reads returns to FREE when it has ended (R56). A periodic slot that has ended, CANCELLED or MISSED, is treated
as a one-shot one, of which alone the rule speaks (log entry 118). -/
def freeSlot (fn i : Nat) (s : State) : State :=
  let st := s.slotState i
  if (st = slDONE ∨ st = slMISSED ∨ st = slCANCELLED) ∧ s.rd COLL.SLOT_CTL_OWNER i = fn then s.ww COLL.SLOT_STAT slFREE i
  else s

/-- The ARMED slots of a base that becomes invalid are STALE (R52). -/
def markStale (b : Nat) (s : State) : State :=
  s.each slots (fun s i =>
    if s.slotState i = slARMED ∧ slotBase (s.rd COLL.SLOT_CTL_TBSEL i) = b then s.wb COLL.SLOT_STAT_STALE true i else s)

/-- The TB3 time of an LTC slot at a recomputation: where TB3 has moved forward past the time it had, that time stands, and the slot is
late (R64); else its address resolves anew. -/
def State.ltcAgain (s : State) (i : Nat) : Nat :=
  let g := s.grid 0
  let t := ng s.tim.slotT i
  if (t : Int) < s.baseAt 3 g then t else s.ltcResolve (ng s.tim.slotRate i) (s.rw COLL.SLOT_NS i) g

/-- Recompute and freeze one ARMED slot at the boundary of tick k (R51–R53). -/
def recompute1 (s : State) (i : Nat) : State :=
  let k := s.tick
  if s.slotState i != slARMED then s
  else
    let tb := s.rd COLL.SLOT_CTL_TBSEL i
    if s.baseValid (slotBase tb) then
      let t5 := s.ltcAgain i
      let n := s.slotIndex i t5
      let s := (s.wb COLL.SLOT_STAT_STALE false i).onTim (fun t => { t with slotN := ns t.slotN i n, slotT := ns t.slotT i t5 })
      if n < 32 * k then
        if s.rb COLL.SLOT_CTL_LATE i then runLate i (32 * k) s
        else (s.wr COLL.SLOT_STAT_STATE slMISSED i).cnt COLL.COLL_STAT_MISSED_CNT
      else if n < 32 * (k + 2) then s.wr COLL.SLOT_STAT_STATE slFROZEN i
      else s
    else
      let s := s.wb COLL.SLOT_STAT_STALE true i
      if ng s.tim.slotN i < 32 * (k + 2) then s.wr COLL.SLOT_STAT_STATE slFROZEN i else s

/-- COLLATOR_RECOMPUTE (R51). -/
def collRecompute (s : State) : State := armedFix (s.each slots recompute1)

/-- Fire one slot that is due at the present sample (R54, R55, R57): `act` carries the action out. -/
def fire1 (act : State → Nat → State) (s : State) (i : Nat) : State :=
  if s.slotState i != slFROZEN || ng s.tim.slotN i != s.tim.sample then s
  else
    let o := s.rd COLL.SLOT_CTL_OWNER i
    let a := s.rd COLL.SLOT_CTL_ACTION i
    let p := s.rw COLL.SLOT_PERIOD i
    if a != 1 && !mayArm o a (s.rw COLL.SLOT_PARAM0 i) s then
      (s.wr COLL.SLOT_STAT_STATE slMISSED i).cnt COLL.COLL_STAT_MISSED_CNT
    else
      let late := bg s.tim.slotLate i
      let s := (act s i).wb COLL.SLOT_STAT_WAS_LATE late i
      let s := s.onTim (fun t => { t with slotLate := bs t.slotLate i false })
      let s := if late then s.cnt COLL.COLL_STAT_LATE_CNT else s
      if p = 0 then s.wr COLL.SLOT_STAT_STATE slDONE i
      else if bg s.tim.slotStop i then s.wr COLL.SLOT_STAT_STATE slCANCELLED i
      else s.onTim (fun t => { t with slotN := ns t.slotN i (t.sample + p) })

/-- COLLATOR_FIRE: every slot due, in slot order (R54). -/
def fireSlots (act : State → Nat → State) (s : State) : State := armedFix (s.each slots (fire1 act))

/-- Cancel every ARMED slot a predicate picks. -/
def cancelArmed (p : State → Nat → Bool) (s : State) : State :=
  armedFix (s.each slots (fun s i => if p s i then s.wr COLL.SLOT_STAT_STATE slCANCELLED i else s))

/-! ## Setting a base, and timecode -/

/-- A set command's value is in range (R37, R59). -/
def setOk (sec ns : Nat) : Bool := decide (sec < 2 ^ 34) && decide (ns ≤ 999999999)

/-- The set commands due at a tick boundary (R59): the base reads the value at the boundary. -/
def tbSets (s : State) : State :=
  let s := s.each [2, 3] (fun s b =>
    match og s.tim.setPend b with
    | some v => (s.wb TIME.TB_STAT_VALID true (i := b)).onTim (fun t =>
        { t with ofs := is t.ofs b (2000 * ((v : Int) - 125000 * (t.sample : Int))), set := bs t.set b true })
    | none => s)
  s.onTim (fun t => { t with setPend := [] })

/-- Entering FOLLOW (R62, R63): DAY starts at 0 and the first frame counts as consecutive. -/
def followEnter (s : State) : State :=
  s.onTim (fun t => { t with ltcDay := 0, ltcFresh := true, ltcBad := 0, ltcGood := 0, ltcJam := false, ltcErr := 0 })
/-- Leaving FOLLOW (R59): no jam and no slew remains, for in FREE only a set command moves TB3. -/
def followLeave (s : State) : State := s.onTim (fun t => { t with ltcBad := 0, ltcGood := 0, ltcJam := false, ltcErr := 0 })
/-- A write of TB_CTL's plain bit, which TIME3 alone has (R70). -/
def followWrite (tb w : Nat) (s : State) : State :=
  if tb ≠ 3 then s
  else
    let was := s.rb TIME.TB_CTL_LTC_FOLLOW (i := 3)
    let s := s.writeRW TIME.TB_CTL w (i := 3)
    let now := s.rb TIME.TB_CTL_LTC_FOLLOW (i := 3)
    if now = was then s else if now then followEnter s else followLeave s

/-- The time of the last accepted frame on the TB3 scale of R62. -/
def State.ltcFrameTime (s : State) (rate addr : Nat) : Int := 86400 * gridSec * (s.tim.ltcDay : Int) + ltcTime rate addr

/-- TB3's time at a media grid point that has passed: by the offset in force then. -/
def State.tb3At (s : State) (g : Nat) : Int :=
  let old := (s.tim.ltcOfs.takeWhile (fun p => g < p.1)).getLast?
  (g : Int) + (match old with | some p => p.2 | none => ig s.tim.ofs 3) / 2000
/-- At a tick boundary that has changed TB3's offset, the offset before it is kept for the length of two frames (R63). -/
def tb3Note (old : Int) (s : State) : State :=
  let g := s.grid 0
  if ig s.tim.ofs 3 = old then s
  else s.onTim (fun t => { t with ltcOfs := (g, old) :: t.ltcOfs.filter (fun p => decide (g < p.1 + 1000000000)) })

/-- LTC at a tick boundary: the jam that is due (LTC_JAM, R63), the loss test (LTC_LOSS, R64), and the slew of the tick. -/
def ltcTick (s : State) : State :=
  let rate := s.rd TIME.LTC_IN_STAT_RATE (i := 3)
  let g := s.grid 0
  let s :=
    if s.tim.ltcJam then
      match s.tim.ltcLast with
      | some (edge, addr) =>
        let ofs := 2000 * (s.ltcFrameTime rate addr - edge)
        let s := (s.cnt TIME.LTC_IN_STAT_JAMS (i := 3)).wb TIME.LTC_IN_STAT_LOST false (i := 3)
        let s := s.wb TIME.TB_STAT_VALID true (i := 3)
        s.onTim (fun t =>
          { t with ofs := is t.ofs 3 ofs, set := bs t.set 3 true, ltcJam := false, ltcBad := 0, ltcGood := 0, ltcErr := 0 })
      | none => s.onTim (fun t => { t with ltcJam := false })
    else s
  let s :=
    match s.tim.ltcLast with
    | some (edge, _) =>
      if edge + 5 * ltcPeriod rate ≤ g ∧ s.rb TIME.LTC_IN_STAT_LOST (i := 3) = false then
        (s.wb TIME.LTC_IN_STAT_LOST true (i := 3)).onTim (fun t => { t with ltcFresh := true, ltcGood := 0, ltcErr := 0 })
      else s
    | none => s
  let s := s.wb TIME.LTC_OUT_STAT_FREEWHEEL (!s.baseValid s.tim.ltcOut.2.1) (i := 3)
  if s.rb TIME.TB_CTL_LTC_FOLLOW (i := 3) && !s.rb TIME.LTC_IN_STAT_LOST (i := 3) then
    let lim : Int := 4 * (s.rd TIME.LTC_IN_CTL_SLEW_PPM (i := 3) : Int)
    let c := clampI (-lim) lim s.tim.ltcErr
    s.onTim (fun t => { t with ofs := is t.ofs 3 (ig t.ofs 3 - 2000 * c), ltcErr := t.ltcErr - c })
  else s

/-- An accepted frame in FOLLOW: the phase error, the counts that lead to a jam, and the slew (R63, R64). -/
def ltcJudge (edge : Nat) (x : LtcFrame) (s : State) : State :=
  let consec := s.tim.ltcFresh || (match s.tim.ltcLast with | some (_, a) => ltcFollows x.rate a x.addr | none => true)
  let wrap := match s.tim.ltcLast with | some (_, a) => ltcFollows x.rate a x.addr && ltcCount x.rate x.addr == 0 | none => false
  let s := if wrap then s.onTim (fun t => { t with ltcDay := t.ltcDay + 1 }) else s
  let e := s.tb3At edge - s.ltcFrameTime x.rate x.addr
  let far := decide (s.rd TIME.LTC_IN_CTL_JAM_THRESH (i := 3) * ltcPeriod x.rate ≤ e.natAbs)
  let count := s.rd TIME.LTC_IN_CTL_JAM_COUNT (i := 3)
  if s.rb TIME.LTC_IN_STAT_LOST (i := 3) then
    let n := if consec then s.tim.ltcGood + 1 else 1
    s.onTim (fun t => { t with ltcGood := n, ltcJam := t.ltcJam || decide (count ≤ n), ltcErr := 0, ltcFresh := false })
  else
    let n := if far || !consec then s.tim.ltcBad + 1 else 0
    s.onTim (fun t => { t with
      ltcBad := n, ltcJam := t.ltcJam || decide (count ≤ n), ltcErr := if far then 0 else e, ltcFresh := false })

/-- LTC_FRAME_RX: a frame whose first bit edge came at media grid point `edge`. Reverse or off-speed play is reported only. -/
def ltcFrame (edge : Nat) (x : LtcFrame) (s : State) : State :=
  if !x.sync || 4 < x.rate then s
  else
    let s := (s.wr TIME.LTC_IN_TC_ADDR x.addr (i := 3)).ww TIME.LTC_IN_UB x.ub (i := 3)
    let s := s.wb TIME.LTC_IN_STAT_REVERSE x.reverse (i := 3)
    if x.reverse then s
    else
      let s := s.wr TIME.LTC_IN_STAT_RATE x.rate (i := 3)
      let s := if s.rb TIME.TB_CTL_LTC_FOLLOW (i := 3) then ltcJudge edge x s else s
      s.onTim (fun t => { t with ltcLast := some (edge, x.addr) })

/-- The address of the frame that LTC_OUT begins in the present sample period (R65): the frame whose time is nearest to the time of day
(source seconds + OFS) modulo 86,400 in the middle of the period. -/
def State.ltcOutNow (s : State) : Nat :=
  let o := s.tim.ltcOut
  let day : Int := (86400 * gridSec : Nat)
  let c := ((s.baseAt o.2.1 (s.grid 62500) + o.2.2 * (gridSec : Nat)) % day).toNat
  ltcAddr o.1 ((2 * c + ltcPeriod o.1) / (2 * ltcPeriod o.1) % ltcDayFrames o.1)

/-- LTC_OUT at a frame boundary of its source (R65, R91): settings that wait for an ALIGN apply, the output is aligned. -/
def ltcOutFrame (s : State) : State :=
  let s :=
    if s.tim.ltcOutWait then
      let new := (s.rd TIME.LTC_OUT_CTL_RATE (i := 3), s.rd TIME.LTC_OUT_CTL_SRC (i := 3), s.rdS TIME.LTC_OUT_OFS_OFS (i := 3))
      (s.onTim (fun t => { t with ltcOut := new, ltcOutWait := false })).onRef (fun r => { r with ao := is r.ao 2 0 })
    else s
  let s := s.wb TIME.LTC_OUT_STAT_FREEWHEEL (!s.baseValid s.tim.ltcOut.2.1) (i := 3)
  let tc := s.ltcOutNow
  s.onTim (fun t => { t with ltcOutFrames := t.ltcOutFrames + 1, ltcOutTc := tc })

/-- MEDIA_OFS as published at a tick boundary (R35). -/
def publishOfs (s : State) : State :=
  s.each [0, 1, 2, 3] (fun s b =>
    s.wr64 TIME.MEDIA_OFS_HI TIME.MEDIA_OFS_LO (uns 64 (ig s.tim.ofs b / 2000)) (i := b))

/-! ## Event capture -/

/-- The entry registers and LEVEL follow the FIFO (R68). -/
def evtSync (s : State) : State :=
  let h := s.tim.evt.headD ⟨0, 0, 0, 0⟩
  ((((s.ww EVTC.ENTRY0 h.w0).ww EVTC.ENTRY1 h.w1).ww EVTC.ENTRY2 h.w2).ww EVTC.ENTRY3 h.w3).wr EVTC.FIFO_STAT_LEVEL
    s.tim.evt.length

/-- Remove the oldest entries. -/
def evtDrop (n : Nat) (s : State) : State := evtSync (s.onTim (fun t => { t with evt := t.evt.drop n }))

/-- The 20 ns of the glitch filter in grid steps (R67). -/
def evtFilter : Nat := 240
/-- The level of an EVT_OUT pin: what its last action drove, inverted under OUT_POL (R69). -/
def State.evtOutPin (s : State) (p : Nat) : Bool := bg s.tim.evtOut (32 + p) != bit (s.rd EVTC.OUT_POL_INV) p

/-- The edge is captured: its pin and direction are enabled, and no holdoff window covers it (R66). -/
def evtTaken (off pin : Nat) (rising : Bool) (s : State) : Bool :=
  let ed := fbits (s.rw EVTC.EVT_CTL) (2 * pin + 17) (2 * pin + 16)
  let last := ng s.tim.evtLast pin
  let hold := 125000 * s.rd EVTC.HOLDOFF_HOLDOFF
  decide (pin < 8) && bit (s.rw EVTC.EVT_CTL) pin && (if rising then bit ed 0 else bit ed 1) &&
    (last == 0 || decide (last - 1 + hold ≤ s.grid off))

/-- INT_STAT.LEVEL while the FIFO holds at least THRESH entries (R69). -/
def evtLevel (s : State) : State := if s.rd EVTC.FIFO_STAT_THRESH ≤ s.tim.evt.length then s.raise 0x09 0 fnsAll else s

/-- An edge that has passed the filter: stamp it into the FIFO, or count it as lost (R66–R69). -/
def evtEdge (off pin : Nat) (rising : Bool) (s : State) : State :=
  if !evtTaken off pin rising s then s
  else
    let g := s.grid off
    let s := s.onTim (fun t => { t with evtLast := ns t.evtLast pin (g + 1) })
    if 64 ≤ s.tim.evt.length then
      ((s.wb EVTC.FIFO_STAT_OVF true).onTim (fun t => { t with evtLost := min 0xFFFFFFFF (t.evtLost + 1) })).raise 0x09 1 fnsAll
    else
      let b := s.rd EVTC.EVT_TB_BASE
      let st := s.baseAt b (g / 16 * 16)
      let e : EvtEntry :=
        { w0 := s.tim.evtSeq % 256 * 2 ^ 24 + b2n (s.baseValid b) * 2 ^ 12 + b * 2 ^ 8 + b2n rising * 2 ^ 7 + pin
          w1 := stampNs st
          w2 := s.idx % 2 ^ 24 * 2 ^ 8 + stampFr st
          w3 := s.tim.evtLost }
      evtLevel (evtSync (s.onTim (fun t => { t with evt := t.evt ++ [e], evtSeq := (t.evtSeq + 1) % 256, evtLost := 0 })))
/-- EVT_IN_EDGE: the pin goes to a level and stays there for `hold` grid steps; the filter passes it if that is long enough and the
level it passes changes (R67). -/
def evtPin (off pin : Nat) (rising : Bool) (hold : Nat) (s : State) : State :=
  if hold < evtFilter ∨ og s.tim.evtIn pin = some rising then s
  else evtEdge off pin rising (s.onTim (fun t => { t with evtIn := os t.evtIn pin (some rising) }))

/-! ## The rows -/

def execSnapshotReq (fn off : Nat) (s : State) : Host.Outcome State Fault Refusal := .next (awake s (if fn ≤ 8 then snapshot off s else s))

/-- The snapshot values that TIME_SNAPSHOT returns (R71). -/
def snapWords (s : State) : List Nat :=
  ([0, 1, 2, 3].flatMap (fun b => [s.rw TIME.SNAP_SEC_HI (i := b), s.rw TIME.SNAP_SEC_LO (i := b), s.rw TIME.SNAP_NS (i := b),
    s.rw TIME.SNAP_FRAC (i := b)])) ++ [s.rw COLL.MSNAP_SEC_HI, s.rw COLL.MSNAP_SEC_LO, s.rw COLL.MSNAP_NS, s.rw COLL.MSNAP_FRAC,
    s.rw COLL.SNAP_IDX_HI, s.rw COLL.SNAP_IDX_LO, s.rw COLL.SNAP_CTL]

def execTimeSnapshot (e : Env) (off : Nat) (s : State) : Host.Outcome State Fault Refusal :=
  .next (runCmd { read := true } e anyone (fun _ s => let s := snapshot off s; ret s (snapWords s)) s)

/-- TB_SET (R59, R71). -/
def execTbSet (e : Env) (tb sec ns : Nat) (s : State) : Host.Outcome State Fault Refusal :=
  .next (runCmd { pf0 := true } e anyone (fun _ s =>
    if tb ≠ 2 ∧ tb ≠ 3 then no stBAD_FIELD
    else if setOk sec ns = false then no stBAD_FIELD
    else if tb = 2 ∧ s.rd REFS.STAT_STATE ≠ 0 then no stBUSY
    else done (s.onTim (fun t => { t with setPend := os t.setPend tb (some (timeGrid sec ns)) }))) s)

/-- SET_GO: a write of TB_CTL with bit 31 (R59, R70). -/
def regSetGo (fn tb w : Nat) (s : State) : State :=
  if !isPF0 fn || 3 < tb then s else
    let s := followWrite tb w s
    let sec := s.rd64 TIME.SET_SEC_HI TIME.SET_SEC_LO (i := tb)
    let ns := s.rw TIME.SET_NS (i := tb)
    if tb < 2 ∨ setOk sec ns = false ∨ (tb = 2 ∧ s.rd REFS.STAT_STATE ≠ 0) then s.wb TIME.TB_STAT_SET_DENY true (i := tb)
    else s.onTim (fun t => { t with setPend := os t.setPend tb (some (timeGrid sec ns)) })
def execSetGo (fn tb w : Nat) (s : State) : Host.Outcome State Fault Refusal := .next (awake s (regSetGo fn tb w s))

/-- Write a slot's registers from a command. -/
def slotWrite (i : Nat) (a : SlotArgs) (s : State) : State :=
  let s := ((s.wr COLL.SLOT_CTL_ACTION a.action i).wr COLL.SLOT_CTL_TBSEL a.tbsel i).wb COLL.SLOT_CTL_LATE a.late i
  let s := ((s.ww COLL.SLOT_SEC_HI a.secHi i).ww COLL.SLOT_SEC_LO a.secLo i).ww COLL.SLOT_NS a.ns i
  ((s.ww COLL.SLOT_PARAM0 a.p0 i).ww COLL.SLOT_PARAM1 a.p1 i).ww COLL.SLOT_PERIOD a.period i

/-- The lowest FREE slot that no grid turn has reserved (R385). -/
def State.freeSlotNo (s : State) : Option Nat :=
  slots.find? (fun i => s.slotState i == slFREE && !s.uma.resv.any (fun r => r.2.1 == i))

/-- Write and arm the lowest free slot for a function, answering the slot and n (R71); used by every command that arms one. -/
def armNew (fn : Nat) (a : SlotArgs) (s : State) : Res :=
  match s.freeSlotNo with
  | none => no stBUSY
  | some i =>
    let s' := slotWrite i a s
    match armRefusal fn i s' with
    | some st => no st
    | none =>
      let s' := armSlot fn i s'
      .ok s' i [i, ng s'.tim.slotN i % 2 ^ 32, ng s'.tim.slotN i / 2 ^ 32] 0 stOK

/-- The command may arm the action: R57, and R446 for the mode. -/
def armOwn (action p0 : Nat) (fn : Nat) (s : State) : Option Nat := if mayArm fn action p0 s then none else some stNOT_OWNER
def armModes (m : Nat) : Bool := 5 ≤ m

def execCollArm (e : Env) (a : SlotArgs) (s : State) : Host.Outcome State Fault Refusal :=
  .next (runCmd { mirrored := true, code := 0x0210, modes := armModes } e (armOwn a.action a.p0)
    (fun fn s => if 15 < a.action ∨ 7 < a.tbsel then no stBAD_FIELD else armNew fn a s) s)

/-- A tenant reads or cancels only its own slots (R57). -/
def slotOwn (i : Nat) (fn : Nat) (s : State) : Option Nat :=
  if fn = 0 ∨ (s.slotState i ≠ slFREE ∧ s.rd COLL.SLOT_CTL_OWNER i = fn) then none else some stNOT_OWNER

/-- The effect of the command. -/
def collCancelBody (slot : Nat) (_ : Nat) (s : State) : Res :=
    if 63 < slot then no stBAD_FIELD
    else match cancelJudge slot s with
      | (st, ch) => if st = stOK then done (if ch then cancelSlot slot s else s) else no st
def execCollCancel (e : Env) (slot : Nat) (s : State) : Host.Outcome State Fault Refusal :=
  .next (runCmd { mirrored := true, code := 0x0211 } e (slotOwn slot) (collCancelBody slot) s (some (.collCancel e slot)))
def execCollQuery (e : Env) (slot : Nat) (s : State) : Host.Outcome State Fault Refusal :=
  .next (runCmd { read := true } e (slotOwn slot) (fun fn s =>
    if 63 < slot then no stBAD_FIELD
    else
      let n := ng s.tim.slotN slot
      let rate := if s.rd COLL.SLOT_CTL_TBSEL slot = 5 then [ng s.tim.slotRate slot] else []
      ret (freeSlot fn slot s) ([s.slotState slot, n % 2 ^ 32, n / 2 ^ 32, s.rd COLL.SLOT_STAT_WAS_LATE slot] ++ rate)) s)

/-- SLOT_ARM: a write of SLOT_CTL with ARM (R50, R57, R58). -/
def regSlotArm (fn slot w : Nat) (s : State) : State :=
  if 63 < slot then s
    else if s.slotState slot = slFREE then
      let s' := ((s.wr COLL.SLOT_CTL_ACTION (fbits w 3 0) slot).wr COLL.SLOT_CTL_TBSEL (fbits w 6 4) slot).wr
        COLL.SLOT_CTL_LATE (fbits w 7 7) slot
      match armRefusal (actsAs fn) slot s' with
      | some _ => s'.wb COLL.COLL_STAT_ARM_DENY true
      | none => armSlot (actsAs fn) slot s'
    else
      let ign := fbits w 7 0 != fbits (s.rw COLL.SLOT_CTL slot) 7 0
      (if ign then s.wb COLL.COLL_STAT_WR_IGN true else s).wb COLL.COLL_STAT_ARM_DENY true
def execSlotArm (fn slot w : Nat) (s : State) : Host.Outcome State Fault Refusal := .next (awake s (actNoted 0x08 s (regSlotArm fn slot w s)))

/-- SLOT_CANCEL: a write of SLOT_CTL with CANCEL (R56, R57). -/
def slotCancelNow (fn slot w : Nat) (s : State) : State :=
  if 63 < slot then s
    else
      if s.slotState slot = slFREE then s.writeRW COLL.SLOT_CTL w slot
      else
      let s := if fbits w 7 0 ≠ fbits (s.rw COLL.SLOT_CTL slot) 7 0 then s.wb COLL.COLL_STAT_WR_IGN true else s
      if !may (actsAs fn) (s.rd COLL.SLOT_CTL_OWNER slot) then s.wb COLL.COLL_STAT_CANCEL_DENY true
      else match cancelJudge slot s with
        | (st, ch) =>
          if ch then cancelSlot slot s
          else if st = stBUSY then s.wb COLL.COLL_STAT_CANCEL_DENY true
          else s
/-- On the active member of a mirror pair it takes place at R388's boundary. -/
def regSlotCancel (fn slot w : Nat) (s : State) : State :=
  if s.mirrorActive then mirrorLater (.cancel fn slot w) s else slotCancelNow fn slot w s
def execSlotCancel (fn slot w : Nat) (s : State) : Host.Outcome State Fault Refusal := .next (awake s (actNoted 0x08 s (regSlotCancel fn slot w s)))

def execSlotStatRead (fn slot : Nat) (s : State) : Host.Outcome State Fault Refusal :=
  .next (awake s (if slot ≤ 63 then freeSlot (actsAs fn) slot s else s))

/-- LTC_CONFIG writes LTC_IN_CTL, LTC_OUT_CTL and LTC_OUT_OFS of TIME3. -/
def execLtcConfig (e : Env) (ws : List RegW) (s : State) : Host.Outcome State Fault Refusal :=
  .next (runCmd { pf0 := true } e anyone (fun _ s =>
    if cfgOk 0x04 4 [0x080, 0x090, 0x094] ws && ws.all (fun w => w.inst == 3 && w.obj == 0) then done (cfgWrite 0x04 ws s)
    else no stBAD_FIELD) s)

/-- EVT_CONFIG writes EVT_CTL, EVT_TB, HOLDOFF, FIFO_STAT.THRESH and OUT_POL. -/
def execEvtConfig (e : Env) (ws : List RegW) (s : State) : Host.Outcome State Fault Refusal :=
  .next (runCmd { pf0 := true } e anyone (fun _ s =>
    if cfgOk 0x09 1 [0x040, 0x044, 0x048, 0x04C, 0x060] ws && ws.all (fun w => w.obj == 0) then
      done ((cfgWrite 0x09 ws s).iff (ws.any (fun w => w.off == 0x04C)) evtLevel)
    else no stBAD_FIELD) s)

/-- EVT_READ removes up to 16 entries and returns them. -/
def execEvtRead (e : Env) (n : Nat) (s : State) : Host.Outcome State Fault Refusal :=
  .next (runCmd {} e anyone (fun _ s =>
    if 16 < n then no stBAD_FIELD
    else
      let fit := min (min n s.tim.evt.length) (s.respLimit e / 16)
      let ws := (s.tim.evt.take fit).flatMap (fun x => [x.w0, x.w1, x.w2, x.w3])
      .ok (evtDrop fit s) fit ws 4 (if fit < min n s.tim.evt.length then stOK_TRUNC else stOK)) s)

/-- ENTRY3_READ removes the oldest entry (R68). -/
def execEntry3Read (fn : Nat) (s : State) : Host.Outcome State Fault Refusal := .next (awake s (if fn ≤ 8 then evtDrop 1 s else s))

def execLtcFrameRx (edge : Nat) (x : LtcFrame) (s : State) : Host.Outcome State Fault Refusal := .next (awake s (if s.bankUp 9 then ltcFrame edge x s else s))
def execEvtInEdge (off pin : Nat) (x : EvtIn) (s : State) : Host.Outcome State Fault Refusal :=
  .next (awake s (if s.bankUp 8 then evtPin off pin x.rising x.hold s else s))
def execLtcOutFrame (s : State) : Host.Outcome State Fault Refusal := .next (awake s (ltcOutFrame s))

end Sys2Proof.Machine
end

