-- ==== Sys2Proof/Machine/Refs.lean ====
section
/-!
DEFINITION. References, holdover and clock generation (R72–R106): candidates and their quality, selection, the states of the
media DPLL, drift windows, the slew, ALIGN, and the PLLs of the core and of the outputs.
-/
namespace Sys2Proof.Machine

/-- Units of phase in a grid step, and in a nanosecond. -/
def uGrid : Nat := 2000
def uNs : Nat := 24000

def cands : List Nat := List.range 8

/-! ## Quality and qualification -/

/-- C of R78. -/
def clockC (c : Nat) : Nat :=
  match c with
  | 6 => 7 | 13 => 6 | 7 => 5 | 14 => 4 | 52 | 187 => 3 | 58 | 193 => 2 | _ => 1
/-- A of R78. -/
def clockA (a : Nat) : Nat :=
  if 0x17 ≤ a ∧ a ≤ 0x21 then 14 else if 0x22 ≤ a ∧ a ≤ 0x2F then 14 - (a - 0x21) else 0
/-- Q_BASE from an announced class, accuracy and variance (R78). -/
def ptpQuality (thr : Nat) (gm : Nat × Nat × Nat) : Nat :=
  if gm.1 = 255 then 0 else clockC gm.1 * 32 + clockA gm.2.1 * 2 + b2n (gm.2.2 ≤ thr ∧ gm.2.2 ≠ 0xFFFF)

/-- Q_BASE of a candidate (R78). -/
def State.qBase (s : State) (c : Nat) : Nat :=
  if c < 2 then
    match og s.ref.gm c with
    | some gm => ptpQuality (s.rd REFS.PTP_VAR_THR_THR) gm
    | none => 0
  else if c = 7 then 0 else s.rd REFS.CAND_CFG_QUAL c

/-- Q_EFF (R79). -/
def qEff (base steps : Nat) : Nat := if base = 0 then 0 else max 1 (base - 32 * steps)

/-- The rate code of WCLK_IN or AES3 is of the 48 kHz family, so the candidate carries phase (R76). -/
def State.carriesPhase (s : State) (c : Nat) : Bool :=
  c ≤ 2 || c == 4 || ((c == 3 || c == 6) && s.rd REFS.CAND_CFG_RATE c % 2 == 1)

/-- The phase error e of a candidate (R75), in units of 1/2000 grid step. -/
def State.candE (s : State) (c : Nat) : Int := if c ≤ 2 then ig s.tim.ofs c else ig s.ref.e c

/-- The causes that disqualify a candidate (R103 DQ). A candidate 6 whose receiver is out of lock, or has had an error in its last block,
and a candidate 2 whose manager reports neither LOCKED nor HOLDOVER, show as not locked. -/
def State.dqBits (s : State) (c : Nat) : Nat :=
  let absent := if c < 2 then (og s.ref.gm c).isNone else c == 7 || !bg s.ref.present c
  let tb := if c < 2 then !s.rb TIME.TB_STAT_VALID (i := c) else bg s.ref.notLocked c
  b2n absent + 2 * b2n tb + 4 * b2n (s.qBase c == 0) + (if ng s.ref.dq c = 0 then 0 else 2 ^ ng s.ref.dqBit c)
    + 32 * b2n (!s.rb REFS.CAND_CFG_EN c)
def State.qualified (s : State) (c : Nat) : Bool := s.dqBits c == 0

/-- Candidate `a` ranks before `b` (R80). -/
def State.ranksBefore (s : State) (a b : Nat) : Bool :=
  let qa := s.rd REFS.CAND_STAT_Q_EFF a
  let qb := s.rd REFS.CAND_STAT_Q_EFF b
  let pa := s.rd REFS.CAND_CFG_PRIO a
  let pb := s.rd REFS.CAND_CFG_PRIO b
  decide (qb < qa ∨ (qa = qb ∧ (pa < pb ∨ (pa = pb ∧ a < b))))
def State.rankOf (s : State) (c : Nat) : Nat :=
  (cands.filter (fun d => s.qualified d && s.ranksBefore d c)).length

/-- The status registers of the candidates (R78–R80). -/
def candStatus (s : State) : State :=
  let s := s.each cands (fun s c =>
    let q := s.qBase c
    let s := (s.wr REFS.CAND_STAT_Q_BASE q c).wr REFS.CAND_STAT_Q_EFF (qEff q (s.rd REFS.CAND_STAT_STEPS c)) c
    (s.wr REFS.CAND_STAT_DQ (s.dqBits c) c).wb REFS.CAND_STAT_QUALIFIED (s.qualified c) c)
  s.each cands (fun s c => s.wr REFS.CAND_STAT_RANK (if s.qualified c then s.rankOf c else 0xF) c)

/-! ## Selection (R81) -/

/-- The selected candidate. -/
def State.selected (s : State) : Option Nat := if s.rb REFS.STAT_SEL_VALID then some (s.rd REFS.STAT_SEL_IDX) else none
def State.best (s : State) : Option Nat := cands.find? (fun c => s.qualified c && s.rankOf c == 0)

/-- How long a candidate has been qualified, and of rank 0, in ticks; and whether it has lost its qualification (R81). -/
def candTimers (s : State) : State :=
  s.each cands (fun s c => s.onRef (fun r =>
    { r with
      qualTicks := ns r.qualTicks c (if s.qualified c then ng r.qualTicks c + 1 else 0)
      topTicks := ns r.topTicks c (if s.qualified c && s.rankOf c == 0 then ng r.topTicks c + 1 else 0)
      lostSince := bs r.lostSince c (bg r.lostSince c || (bg r.everSel c && !s.qualified c))
      winBroken := bs r.winBroken c (bg r.winBroken c || !s.qualified c) }))

/-- The selection after a tick boundary. -/
def State.select (s : State) : Option Nat :=
  let hold := 3000 * s.rd REFS.SEL_CTL_REVERT_HOLD
  let f := s.rd REFS.SEL_CTL_FORCE_IDX
  let forceOk := s.rb REFS.SEL_CTL_FORCE_EN && s.qualified f && (!bg s.ref.lostSince f || decide (hold ≤ ng s.ref.qualTicks f))
  match s.selected with
  | none => if forceOk then some f else s.best
  | some x =>
    if forceOk && x != f then some f
    else if !s.qualified x then s.best
    else if s.rb REFS.SEL_CTL_FORCE_EN && x == f then some x
    else match s.best with
      | none => some x
      | some c =>
        if s.rd REFS.CAND_STAT_Q_EFF x + s.rd REFS.SEL_CTL_MARGIN ≤ s.rd REFS.CAND_STAT_Q_EFF c then some c
        else if s.rb REFS.SEL_CTL_REVERT && decide (hold ≤ ng s.ref.topTicks c) then some c
        else some x

/-! ## States (R82, R83, R88) -/

def rfFREERUN : Nat := 0
def rfACQUIRE : Nat := 1
def rfLOCKED : Nat := 2
def rfHOLDOVER : Nat := 3

/-- LOCK_WIN in phase units. -/
def State.lockWin (s : State) : Int := s.rd REFS.LOCK_CTL_LOCK_WIN * uNs
/-- The candidate passes one tick of the lock test (R83). -/
def State.lockPass (s : State) (c : Nat) : Bool :=
  if s.carriesPhase c then decide ((s.candE c).natAbs < s.lockWin.toNat) else decide ((ig s.ref.yTick c - s.ref.f).natAbs ≤ 1000)

/-- Drop, and keep, ticks of a run-length history. -/
def runDrop : Nat → List (Int × Nat × Bool) → List (Int × Nat × Bool)
  | _, [] => []
  | n, (f, k, l) :: t => if k ≤ n then runDrop (n - k) t else (f, k - n, l) :: t
def runTake : Nat → List (Int × Nat × Bool) → List (Int × Nat × Bool)
  | _, [] => []
  | n, (f, k, l) :: t => if n = 0 then [] else if k ≤ n then (f, k, l) :: runTake (n - k) t else [(f, n, l)]
/-- Add a tick to a run-length history of at most 60 s. -/
def runPush (f : Int) (l : Bool) (h : List (Int × Nat × Bool)) : List (Int × Nat × Bool) :=
  runTake 180000 (match h with
    | (f', k, l') :: t => if f' = f ∧ l' = l then (f, k + 1, l) :: t else (f, 1, l) :: h
    | [] => [(f, 1, l)])

/-- S returns to 0: a slew that was in progress ends (R89, R105). -/
def slewStop (s : State) : State :=
  let was := s.rb REFS.STAT_SLEW
  let s := (s.wb REFS.STAT_SLEW false).onRef (fun r => { r with s := 0 })
  if was then s.raise 0x03 5 fnsAll else s

/-- HOLDOVER_ENTRY (R88). -/
def holdoverEnter (s : State) : State :=
  let h := (runDrop 6000 s.ref.fHist).filter (fun x => x.2.2)
  let n := h.foldl (fun (a : Nat) x => a + x.2.1) 0
  let sum := h.foldl (fun (a : Int) x => a + x.1 * (x.2.1 : Int)) 0
  let f := if n = 0 then s.ref.fLocked else sum / (n : Int)
  let s := slewStop (s.wb REFS.STAT_HOLD_LOW (n < 30000))
  let s := (s.wr REFS.HOLD_AGE_SEC 0).wrS REFS.HOLD_FREQ_FREQ f
  s.onRef (fun r => { r with f := f, holdTicks := 0 })

/-- REF_STATE_CHANGE: the state after a tick boundary, for the selection before and after it (R83). -/
def State.refNext (s : State) (old new : Option Nat) : Nat :=
  let st := s.rd REFS.STAT_STATE
  match new with
  | none => if st = rfFREERUN then rfFREERUN
            else if st = rfHOLDOVER then rfHOLDOVER
            else if s.ref.everLocked then rfHOLDOVER else rfFREERUN
  | some c =>
    if st = rfFREERUN ∨ st = rfHOLDOVER then rfACQUIRE
    else if st = rfACQUIRE then
      if s.rd REFS.LOCK_CTL_LOCK_TIME ≤ (if old = new ∧ s.lockPass c then s.ref.lockCnt + 1 else 0) then rfLOCKED else rfACQUIRE
    else if old = new then if 32 ≤ s.ref.wideCnt then rfACQUIRE else rfLOCKED
    else if s.carriesPhase c = false ∨ (s.candE c).natAbs < s.lockWin.toNat then rfLOCKED else rfACQUIRE

/-- Carry a selection and a state change out, raising what R105 raises. -/
def refStep (s : State) : State :=
  let old := s.selected
  let new := s.select
  let s :=
    if old = new then s
    else
      let s := match new with
        | some c => ((s.wb REFS.STAT_SEL_VALID true).wr REFS.STAT_SEL_IDX c).onRef (fun r => { r with
            everSel := bs r.everSel c true, lostSince := bs r.lostSince c false })
        | none => (s.wb REFS.STAT_SEL_VALID false).wr REFS.STAT_SEL_IDX 0
      ((s.cnt REFS.STAT_SWITCHES).raise 0x03 0 fnsAll)
  let wide : Bool := match new with
    | some c => old == new && s.carriesPhase c && decide ((2 * s.lockWin).toNat ≤ (s.candE c).natAbs)
    | none => false
  let s := s.onRef (fun r => { r with wideCnt := if wide then r.wideCnt + 1 else 0 })
  let st := s.rd REFS.STAT_STATE
  let st' := s.refNext old new
  let pass : Bool := match new with | some c => old == new && s.lockPass c | none => false
  let s := s.onRef (fun r => { r with
    lockCnt := if st' = rfACQUIRE ∧ st = rfACQUIRE ∧ pass then r.lockCnt + 1 else 0
    everLocked := if st' = rfFREERUN then false else r.everLocked || st' == rfLOCKED })
  let s := if st' = rfHOLDOVER ∧ st ≠ rfHOLDOVER then holdoverEnter s else s
  if st' = st then s else (s.wr REFS.STAT_STATE st').raise 0x03 1 fnsAll

/-! ## Slew and ALIGN (R89–R93) -/

/-- The outputs of R48 PARAM0 that keep a phase offset. -/
def alignOuts : List Nat := [0, 1, 2, 4, 5, 6, 7, 8, 9, 10, 11]

/-- Publish A_o and DUE (R90, R93). -/
def alignPublish (s : State) : State :=
  let s := s.each alignOuts (fun s o => s.wrS REFS.ALIGN_ERR_ERR (ig s.ref.ao o / uGrid) o)
  s.wr REFS.ALIGN_STAT_DUE (alignOuts.foldl (fun m o => if (12 : Int) * uGrid ≤ (ig s.ref.ao o).natAbs then m + 2 ^ o else m) 0)

/-- Change every A_o by the same amount. -/
def aoShift (d : Int) (s : State) : State :=
  s.onRef (fun r => { r with ao := alignOuts.foldl (fun t o => is t o (ig t o + d)) r.ao })

/-- Media time moves by d against everything that does not follow it: the valid bases TB0–TB2 (an invalid one counts with media time, R34), the
edges of the candidates that carry phase, and the outputs (R73, R90). -/
def mediaMove (d : Int) (s : State) : State :=
  let live := [0, 1, 2].filter s.baseValid
  let s := s.onRef (fun r => { r with e := [3, 4, 6].foldl (fun t c => is t c (ig t c - d)) r.e })
  aoShift d (s.onTim (fun t => { t with ofs := live.foldl (fun o b => is o b (ig o b - d)) t.ofs }))

/-- SLEW_STEP: the correction of a tick (R89). A new selection with a phase error starts a slew; a frequency candidate, or
none, ends it. -/
def slewStep (changed : Bool) (s : State) : State :=
  match s.selected with
  | none => slewStop s
  | some c =>
    if s.carriesPhase c = false then slewStop s
    else if changed = false ∧ s.rb REFS.STAT_SLEW = false then s
    else
      let e := s.candE c
      if e.natAbs < uNs then slewStop s
      else
        let m : Int := s.rd REFS.SLEW_CTL_SLEW_PPB * 8
        let d := clampI (-m) m (e.tdiv 8)
        mediaMove d ((s.wb REFS.STAT_SLEW true).onRef (fun r => { r with s := d }))

/-- An output stands still: WCLK_OUT or 1PPS_OUT not running, an AES3 transmitter that is OFF. -/
def State.outStill (s : State) (o : Nat) : Bool :=
  if o < 2 then !bg s.ref.outRun o else s.rd AESP.TX_STAT_STATE (o - 4) == 0
/-- ALIGN the outputs of a mask (R90, R91): LTC_OUT waits for its frame, WCLK_OUT and 1PPS_OUT for their edge, an AES3
transmitter is muted until it restarts with a Z preamble. An output that stands still has nothing to wait for. -/
def alignFire (mask : Nat) (s : State) : State :=
  let s := if bit mask 2 then s.onTim (fun t => { t with ltcOutWait := true }) else s
  s.each [0, 1, 4, 5, 6, 7, 8, 9, 10, 11] (fun s o =>
    if bit mask o = false then s
    else if s.outStill o then s.onRef (fun r => { r with ao := is r.ao o 0 })
    else s.onRef (fun r => { r with outPend := ns r.outPend o 1 }))

/-- FORCED_ALIGN (R92): AES3 transmitters whose offset has reached 16 samples. -/
def forcedAlign (s : State) : State :=
  s.each [4, 5, 6, 7, 8, 9, 10, 11] (fun s o =>
    let a := ig s.ref.ao o / uGrid
    if 2000000 ≤ a.natAbs ∧ ng s.ref.outPend o = 0 then
      let s := ((s.cnt REFS.ALIGN_STAT_FORCED).raise 0x03 4 fnsAll).err 0x0305 0x03 0 o (uns 32 a)
      alignFire (2 ^ o) s
    else s)

/-- F follows the selected reference: while the servo runs (R28, R29), and while no loss detector has stopped its measurements (R77). -/
def State.steers (s : State) : Bool := match s.selected with | some c => s.fwUp && !bg s.ref.stopped c | none => false
/-- What a tick measures: the offsets of the valid bases (R34, R35), with the offset of the counter in use (R74), the frequencies of the
references, and the counters against one another; 1PPS_IN is absent once a pulse is overdue (R75). -/
def refMeasure (x : TickIn) (s : State) : State :=
  let s := s.each x.ofs (fun s p =>
    if p.1 < 3 ∧ s.baseValid p.1 then s.onTim (fun t => { t with ofs := is t.ofs p.1 (p.2 + s.ref.cntAdd * uGrid) }) else s)
  let s := match x.freq with
    | some f => if s.steers then s.onRef (fun r => { r with f := f }) else s
    | none => s
  let s := s.each x.cfreq (fun s p => if bg s.ref.stopped p.1 then s else s.onRef (fun r => { r with yTick := is r.yTick p.1 p.2 }))
  let s := match x.cntOfs with | some c => s.onRef (fun r => { r with cntOfs := c }) | none => s
  if bg s.ref.present 4 ∧ ng s.ref.lastEdge 4 + 12012000000 < s.clockGrid 0 + 1 then
    s.onRef (fun r => { r with present := bs r.present 4 false, goodEdges := ns r.goodEdges 4 0 })
  else s
/-- A drift window ends, and the next begins, at an index that is a multiple of 960,000 (R85). -/
def windowTick (s : State) : State :=
  let locked := s.rd REFS.STAT_STATE == rfLOCKED
  if s.tim.sample % 960000 = 0 then
    s.onRef (fun r => { r with
      winDone := if r.winOpen then some (r.winBroken, r.winLocked) else none
      winOpen := true, winLocked := locked, winBroken := cands.foldl (fun t c => bs t c (!s.qualified c)) [] })
  else s.onRef (fun r => { r with winLocked := r.winLocked && locked })

/-- The references' part of a tick boundary. During a restart of the management processor ranking and selection are held
(R423). -/
def refTick (x : TickIn) (s : State) : State :=
  let before := s.rd REFS.STAT_STATE
  let s := refMeasure x s
  let s := forcedAlign s
  let s := if s.ref.alignPend = 0 then s else (alignFire s.ref.alignPend s).onRef (fun r => { r with alignPend := 0 })
  let s :=
    if s.fwUp then
      let s := candTimers (candStatus s)
      let old := s.selected
      let s := refStep s
      slewStep (old != s.selected) s
    else slewStep false s
  let st := s.rd REFS.STAT_STATE
  let s := if st = rfFREERUN then s.onRef (fun r => { r with f := 1000 * s.rdS REFS.XO_CAL_PPB }) else s
  let s := if st = rfHOLDOVER ∧ before = rfHOLDOVER then
      let t := s.ref.holdTicks + 1
      (s.wr REFS.HOLD_AGE_SEC (t / 3000)).onRef (fun r => { r with holdTicks := t })
    else s
  let s := s.onRef (fun r => { r with fHist := runPush r.f (st == rfLOCKED) r.fHist, fLocked := if st = rfLOCKED then r.f else r.fLocked })
  alignPublish (windowTick s)

/-! ## Drift windows (R85–R87) -/

def insertI (x : Int) : List Int → List Int
  | [] => [x]
  | y :: t => if x ≤ y then x :: y :: t else y :: insertI x t
/-- The median; with an even count the mean of the two middle values (R86). -/
def medianI (l : List Int) : Int :=
  let m := l.foldl (fun a x => insertI x a) []
  let n := m.length
  if n % 2 = 1 then m.getD (n / 2) 0 else (m.getD (n / 2 - 1) 0 + m.getD (n / 2) 0) / 2

/-- The XO voter's value, once 60 windows exist (R86). -/
def State.xoVoter (s : State) : Option Int :=
  match s.selected with
  | none => none
  | some c =>
    let l := tget (fun _ => []) s.ref.xoWin c
    if 60 ≤ l.length then some (l.foldl (· + ·) 0 / (l.length : Int)) else none

/-- Within |v| ≤ lim. -/
def within (v : Int) (lim : Nat) : Bool := decide (v.natAbs ≤ lim)
def hardPpm : Nat := 50000000

/-- A candidate is disqualified, with the cause its status shows. -/
def disqualify (c b : Nat) (s : State) : State :=
  (s.onRef (fun r => { r with dq := ns r.dq c 1, dqBit := ns r.dqBit c b, softOk := ns r.softOk c 0 })).raise 0x03 3 fnsAll
/-- The tests of R87 on one candidate; `n` voters, ensemble `e`, `single` when it is the only qualified candidate. -/
def driftTest (y e : Int) (n : Nat) (single : Bool) (s : State) (c : Nat) : State :=
  let cal := 1000 * s.rdS REFS.XO_CAL_PPB
  let soft := 1000 * s.rd REFS.DRIFT_CTL_SOFT_PPB
  let d := y - e
  if !within (y - cal) hardPpm then disqualify c 3 s
  else if 3 ≤ n ∧ within d hardPpm = false then disqualify c 3 s
  else if single ∧ within (y - cal) (1000 * s.rd REFS.XO_TOL_PPB) = false then disqualify c 4 s
  else if 3 ≤ n ∧ within d soft = false then
    let s := s.onRef (fun r => { r with softOk := ns r.softOk c 0 })
    if 7 ≤ s.rd REFS.CAND_STAT_STEPS c then s
    else (s.wr REFS.CAND_STAT_STEPS (s.rd REFS.CAND_STAT_STEPS c + 1) c).raise 0x03 2 fnsAll
  else if 3 ≤ n then
    let k := ng s.ref.softOk c + 1
    if 6 ≤ k then
      (s.wr REFS.CAND_STAT_STEPS (s.rd REFS.CAND_STAT_STEPS c - 1) c).onRef (fun r => { r with softOk := ns r.softOk c 0 })
    else s.onRef (fun r => { r with softOk := ns r.softOk c k })
  else s.onRef (fun r => { r with softOk := ns r.softOk c 0 })

/-- A disqualified candidate's window toward its return (R87). -/
def requalify (y e : Int) (n : Nat) (s : State) (c : Nat) : State :=
  let cal := 1000 * s.rdS REFS.XO_CAL_PPB
  let ok := within (y - cal) hardPpm && (decide (n < 3) || (within (y - e) hardPpm && within (y - e) (1000 * s.rd REFS.DRIFT_CTL_SOFT_PPB)))
  if !ok then s.onRef (fun r => { r with dq := ns r.dq c 1 })
  else
    let k := ng s.ref.dq c + 1
    if 7 ≤ k then (s.wr REFS.CAND_STAT_STEPS 7 c).onRef (fun r => { r with dq := ns r.dq c 0, dqBit := ns r.dqBit c 0 })
    else s.onRef (fun r => { r with dq := ns r.dq c k })

/-- The candidate is present: DQ shows neither its absence nor, for a base, that it has none. -/
def State.candPresent (s : State) (c : Nat) : Bool := !bit (s.dqBits c) 0
/-- The selected candidate's frequency in a window in which it was LOCKED with STEPS = 0 joins those of the XO voter (R86). -/
def xoNote (ys : List (Nat × Int)) (locked : Bool) (s : State) : State :=
  match s.selected with
  | none => s
  | some c =>
    match ys.find? (fun p => p.1 == c) with
    | some p =>
      if locked ∧ s.rd REFS.CAND_STAT_STEPS c = 0 then
        s.onRef (fun r => { r with xoWin := tset (fun _ => []) r.xoWin c ((p.2 :: tget (fun _ => []) r.xoWin c).take 360) })
      else s
    | none => s
/-- A candidate that takes no part in a window breaks its counts of consecutive windows (R87). -/
def windowMiss (s : State) (c : Nat) : State :=
  s.onRef (fun r => { r with softOk := ns r.softOk c 0, dq := if ng r.dq c = 0 then r.dq else ns r.dq c 1 })

/-- DRIFT_WINDOW_END: `ys` holds the measured frequency of candidates, in 0.001 ppb, over the window that has ended. With no voter the
ensemble is a free value (log entry 119). -/
def driftWindow (ys : List (Nat × Int)) (s : State) : State :=
  match s.ref.winDone with
  | none => s
  | some (broken, locked) =>
    let s := s.onRef (fun r => { r with winDone := none })
    let ys := ys.filter (fun p => p.1 < 7 && s.candPresent p.1)
    let s := s.each ys (fun s p => s.wrS REFS.CAND_YOFS_Y p.2 p.1)
    let part := ys.filter (fun p => s.qualified p.1 && !bg broken p.1)
    let back := ys.filter (fun p => ng s.ref.dq p.1 != 0)
    let xo := s.xoVoter
    let votes := part.map (·.2) ++ xo.toList
    let n := votes.length
    let open_ := if votes = [] then s.freshI else (medianI votes, s)
    let e := open_.1
    let s := ((open_.2.wrS REFS.ENS_E e).wb REFS.ENS_STAT_XO_VOTER xo.isSome).wr REFS.ENS_STAT_VOTERS n
    let single := (cands.filter s.qualified).length == 1
    let s := s.each (ys.filter (fun p => s.qualified p.1)) (fun s p => s.wrS REFS.CAND_DEV_D (p.2 - e) p.1)
    let s := s.each (cands.filter (fun c => !(part ++ back).any (fun p => p.1 == c))) windowMiss
    let s := s.each back (fun s p => requalify p.2 e n s p.1)
    let s := xoNote part locked s
    s.each part (fun s p => driftTest p.2 e n single s p.1)

/-! ## Core and media PLLs -/

/-- The lock bit of a core PLL, 0 A and 1 B. -/
def State.cpllLock (s : State) (p : Nat) : Bool := if p = 0 then s.rb CLKG.CPLL_STAT_A_LOCK else s.rb CLKG.CPLL_STAT_B_LOCK
def cpllSet (p : Nat) (v : Bool) (s : State) : State :=
  if p = 0 then s.wb CLKG.CPLL_STAT_A_LOCK v else s.wb CLKG.CPLL_STAT_B_LOCK v

/-- The active core PLL loses lock: the core clock moves to a locked standby (R95), or stays (CPLL_BOTH, R419). -/
def cpllLoss (s : State) : State :=
  let a := s.rd CLKG.CPLL_STAT_ACTIVE
  let s := cpllSet a false s
  if s.cpllLock (1 - a) then
    let s := (s.wr CLKG.CPLL_STAT_ACTIVE (1 - a)).cnt CLKG.CPLL_STAT_FAILOVERS
    (s.raise 0x02 0 fnsAll).err 0x0301 0x02 0 (1 - a) 0 none (s.beyond kdCPLL)
  else s.err 0x0302 0x02 0 0 0 none true

/-- N steps of 1/64 VCO period in phase units (R99): one is 390,625 / 4096 of them. -/
def stepUnits (n : Int) : Int := n * 390625 / 4096

/-- Start a phase step unless one is running (R99). -/
def pstepStart (n : Int) (s : State) : State := (s.wb CLKG.MPLL_STAT_PSTEP_BUSY true).onRef (fun r => { r with pstep := n })
/-- PHASE_STEP_DONE: every output has moved. -/
def pstepDone (s : State) : State :=
  if !s.rb CLKG.MPLL_STAT_PSTEP_BUSY then s
  else
    let n := s.ref.pstep
    let t := s.rdS CLKG.MPLL_PHASE_STEPS
    let s := aoShift (stepUnits (t + n) - stepUnits t) (s.wrS CLKG.MPLL_PHASE_STEPS (t + n))
    alignPublish ((s.wb CLKG.MPLL_STAT_PSTEP_BUSY false).onRef (fun r => { r with pstep := 0 }))

/-- Start a change of spread (R96). -/
def sscStart (m : Nat) (s : State) : State :=
  if m = 3 ∨ m = s.rd CLKG.SSC_CTL_MODE then s else (s.wr CLKG.SSC_CTL_MODE m).wb CLKG.SSC_STAT_BUSY true

/-! ## The rows -/

def execDriftWindowEnd (ys : List (Nat × Int)) (s : State) : Host.Outcome State Fault Refusal := .next (awake s (driftWindow ys s))

/-- CANDIDATE_LOSS (R77): the loss detector of candidates 3 to 6 stops their measurements. -/
def execCandidateLoss (cand : Nat) (s : State) : Host.Outcome State Fault Refusal :=
  .next (awake s (if 3 ≤ cand ∧ cand ≤ 6 then
      s.onRef (fun r => { r with 
        present := bs r.present cand false, stopped := bs r.stopped cand true
        goodEdges := ns r.goodEdges cand 0, lastEdge := ns r.lastEdge cand 0 })
    else s))

def execCpllLockLoss (s : State) : Host.Outcome State Fault Refusal := .next (cpllLoss s)
/-- The standby core PLL loses lock; CPLL_SINGLE follows at the next tick boundary (R95, R420). -/
def execStandbyCpllLockLoss (s : State) : Host.Outcome State Fault Refusal :=
  .next (cpllSet (1 - s.rd CLKG.CPLL_STAT_ACTIVE) false s)
/-- A core PLL regains lock: the one that is not active, as the standby; the active one if only it is out of lock. -/
def execCpllRelock (s : State) : Host.Outcome State Fault Refusal :=
  .next (let a := s.rd CLKG.CPLL_STAT_ACTIVE
    if s.cpllLock (1 - a) then cpllSet a true s else cpllSet (1 - a) true s)
/-- MPLL_LOSS (R100): the transmitters send zero audio while the MPLL is out of lock. -/
def execMpllLoss (s : State) : Host.Outcome State Fault Refusal :=
  .next ((((s.wb CLKG.MPLL_STAT_LOCK false).onLoc (fun l => { l with txDark := (List.range 8).foldl (fun d t => bs d t (l.txs.contains t)) [] })).raise 0x02 2 fnsAll).err 0x0304 0x02 0 0 0)
/-- MPLL_RELOCK (R100): every MPLL-fed output is aligned at the next tick boundary. -/
def execMpllRelock (s : State) : Host.Outcome State Fault Refusal :=
  .next ((s.wb CLKG.MPLL_STAT_LOCK true).onRef (fun r => { r with alignPend := r.alignPend ||| 0xFF7 }))
/-- SSC_CHANGE_DONE (R96): the spread is in force, and the PLL that was the standby, reprogrammed first, is the active one. -/
def execSscChangeDone (s : State) : Host.Outcome State Fault Refusal :=
  .next (awake s (if s.rb CLKG.SSC_STAT_BUSY then
      let a := s.rd CLKG.CPLL_STAT_ACTIVE
      let s := if s.cpllLock (1 - a) then s.wr CLKG.CPLL_STAT_ACTIVE (1 - a) else s
      ((s.wb CLKG.SSC_STAT_BUSY false).onRef (fun r => { r with ssc := s.rd CLKG.SSC_CTL_MODE })).raise 0x02 3 fnsAll
    else s))
def execPhaseStepDone (s : State) : Host.Outcome State Fault Refusal := .next (awake s (pstepDone s))
/-- PLL_PHASE_EXCURSION (R101): one flagged reference cycle, whichever enabled PLLs are outside. -/
def execPllPhaseExcursion (plls : Nat) (s : State) : Host.Outcome State Fault Refusal :=
  .next (if plls &&& s.rd CLKG.LOCK_MASK_MASK = 0 then s else s.cntw CLKG.LOCK_EVT_COUNT)

/-- ALIGN_CMD (R91, R102). -/
def regAlignCmd (fn w : Nat) (s : State) : State :=
  if isPF0 fn then s.onRef (fun r => { r with alignPend := r.alignPend ||| (w % 4096 &&& 0xFF7) }) else s
def execAlignCmd (fn w : Nat) (s : State) : Host.Outcome State Fault Refusal := .next (awake s (regAlignCmd fn w s))
/-- CPLL_SWAP (R104): glitch-free move to a locked standby. -/
def regCpllSwap (fn w : Nat) (s : State) : State :=
  if isPF0 fn then
      let s := s.writeRW CLKG.CPLL_CTL w
      let a := s.rd CLKG.CPLL_STAT_ACTIVE
      if s.cpllLock (1 - a) then s.wr CLKG.CPLL_STAT_ACTIVE (1 - a) else s
    else s
def execCpllSwap (fn w : Nat) (s : State) : Host.Outcome State Fault Refusal := .next (awake s (regCpllSwap fn w s))
/-- MPLL_PSTEP_WRITE (R99). -/
def regMpllPstepWrite (fn w : Nat) (s : State) : State :=
  if isPF0 fn && !s.rb CLKG.MPLL_STAT_PSTEP_BUSY then pstepStart (sgn 16 (w % 2 ^ 16)) s else s
def execMpllPstepWrite (fn w : Nat) (s : State) : Host.Outcome State Fault Refusal := .next (awake s (regMpllPstepWrite fn w s))
/-- SSC_MODE_WRITE (R96): accepted only in CONFIG and TEST. -/
def regSscModeWrite (fn w : Nat) (s : State) : State :=
  if isPF0 fn && (s.mode == mCONFIG || s.mode == mTEST) then sscStart (w % 4) s else s
def execSscModeWrite (fn w : Nat) (s : State) : Host.Outcome State Fault Refusal := .next (awake s (regSscModeWrite fn w s))

/-- The registers REF_CONFIG writes (R106). -/
def refCfgRegs : List Nat := [0x040, 0x058, 0x060, 0x064, 0x068, 0x06C, 0x078, 0x07C, 0x100]
def execRefConfig (e : Env) (ws : List RegW) (s : State) : Host.Outcome State Fault Refusal :=
  .next (runCmd { pf0 := true } e anyone (fun _ s =>
    if cfgOk 0x03 1 refCfgRegs ws && ws.all (fun w => w.obj == 0 || (w.off == 0x100 && w.obj < 8)) then done (cfgWrite 0x03 ws s)
    else no stBAD_FIELD) s)
def execRefStatus (e : Env) (s : State) : Host.Outcome State Fault Refusal :=
  .next (runCmd { read := true } e anyone (fun _ s =>
    ret s ([s.rw REFS.STAT, s.rw REFS.HOLD_AGE, s.rw REFS.HOLD_FREQ, s.rw REFS.ENS] ++
      cands.flatMap (fun c => [s.rw REFS.CAND_STAT c, s.rw REFS.CAND_YOFS c, s.rw REFS.CAND_DEV c]))) s)
/-- ALIGN_NOW (R91, R106): returns the tick boundary at which the ALIGN applies. -/
def execAlignNow (e : Env) (mask : Nat) (s : State) : Host.Outcome State Fault Refusal :=
  .next (runCmd { pf0 := true } e anyone (fun _ s =>
    if mask &&& 0xFF7 ≠ mask then no stBAD_FIELD
    else retIdx (s.onRef (fun r => { r with alignPend := r.alignPend ||| mask })) (if s.tim.published then 32 * s.nextTick else 0)) s)
/-- CLK_CONFIG: SSC_CTL.MODE, CPLL_CTL.PREF and LOCK_MASK. -/
def execClkConfig (e : Env) (ws : List RegW) (s : State) : Host.Outcome State Fault Refusal :=
  .next (runCmd { pf0 := true } e anyone (fun _ s =>
    if !(cfgOk 0x02 1 [0x040, 0x048, 0x070] ws && ws.all (fun w => w.obj == 0)) then no stBAD_FIELD
    else if ws.any (fun w => w.off == 0x048 && w.val % 4 != s.rd CLKG.SSC_CTL_MODE) && s.mode != mCONFIG && s.mode != mTEST then
      no stMODE_DENY
    else
      let s := cfgWrite 0x02 (ws.filter (fun w => w.off != 0x048)) s
      done (s.each (ws.filter (fun w => w.off == 0x048)) (fun s w => sscStart (w.val % 4) s))) s)
def execMpllStep (e : Env) (n : Int) (s : State) : Host.Outcome State Fault Refusal :=
  .next (runCmd { pf0 := true } e anyone (fun _ s =>
    if n < -32768 ∨ 32767 < n then no stBAD_FIELD
    else if s.rb CLKG.MPLL_STAT_PSTEP_BUSY then no stBUSY
    else done (pstepStart n s)) s)
def execClkStatus (e : Env) (s : State) : Host.Outcome State Fault Refusal :=
  .next (runCmd { read := true } e anyone (fun _ s =>
    ret s [s.rw CLKG.CPLL_STAT, s.rw CLKG.SSC_STAT, s.rw CLKG.TPLL_STAT, s.rw CLKG.MPLL_STAT, s.rw CLKG.MPLL_PHASE, s.rw CLKG.LOCK_EVT]) s)

end Sys2Proof.Machine
end

