-- ==== Sys2Proof/Machine/Net.lean ====
section
/-!
DEFINITION. Network ports and planes (R107–R140): port configuration and links, egress gates, stamps, PTP on
a plane, addresses and modules. What a transmitted or discarded audio frame does to its stream stands with the talker.
-/
namespace Sys2Proof.Machine

def ports : List Nat := [0, 1, 2, 3]
/-- The plane of a port: 0 A, 1 B (R108). -/
def planeOf (port : Nat) : Nat := port / 2

/-! ## Configuration (R107, R124) -/

/-- RATE and FEC name a row of R107. -/
def rateFecOk (rate fec : Nat) : Bool :=
  match rate with
  | 0 | 1 => fec == 2
  | 2 => fec ≤ 2
  | 3 => fec ≤ 1
  | _ => false
/-- A word of PORT_CTL names a combination of R107. -/
def portCtlOk (w : Nat) : Bool := rateFecOk (fbits w 6 4) (fbits w 2 0)

/-- TS_LAT_RX and TS_LAT_TX of a rate and FEC (R124). -/
def tsLat (rate fec : Nat) : Nat × Nat :=
  match rate, fec with
  | 0, _ => (1236, 468)
  | 1, _ => (1488, 540)
  | 2, 0 => (312, 228)
  | 2, 1 => (1104, 264)
  | 2, _ => (2196, 456)
  | _, 0 => (528, 384)
  | _, _ => (2436, 420)

/-- Mbit/s of a rate code. -/
def rateMbps (rate : Nat) : Nat := match rate with | 0 => 100000 | 1 => 50000 | 2 => 25000 | _ => 10000

/-- Grid steps that a frame of L bytes occupies (R119). -/
def frameGrid (rate len : Nat) : Nat := cdiv ((len + 20) * 8 * 12000) (rateMbps rate)

/-- The TPLL of a plane is in lock. -/
def State.tpllLock (s : State) (b : Nat) : Bool := if b = 0 then s.rb CLKG.TPLL_STAT_A_LOCK else s.rb CLKG.TPLL_STAT_B_LOCK
/-- Arrival and departure stamps on media time, in grid steps, of a capture at grid point `off`; `v` is the part of the latency that the
part works out for each frame (R124, R125). They are not valid while the plane's TPLL is out of lock (R98). -/
def State.rxStamp (s : State) (port off v : Nat) : Option Int :=
  if s.tpllLock (planeOf port) then
    some ((s.grid off : Int) - (s.rw NETP.TS_LAT_RX (i := port) + v) - s.rdS NETP.RX_ADJ_ADJ (i := port))
  else none
def State.txStamp (s : State) (port off v : Nat) : Option Int :=
  if s.tpllLock (planeOf port) then
    some ((s.grid off : Int) + (s.rw NETP.TS_LAT_TX (i := port) + v) + s.rdS NETP.TX_ADJ_ADJ (i := port))
  else none

/-- Count a frame that has been sent whole from a queue (R136). -/
def txCount (port q len : Nat) (s : State) : State :=
  let s := (s.wr64 NETP.TX_FRAMES_HI NETP.TX_FRAMES_LO ((s.rd64 NETP.TX_FRAMES_HI NETP.TX_FRAMES_LO (i := port) + 1) % 2 ^ 64)
    (i := port)).wr64 NETP.TX_OCTETS_HI NETP.TX_OCTETS_LO
      ((s.rd64 NETP.TX_OCTETS_HI NETP.TX_OCTETS_LO (i := port) + len) % 2 ^ 64) (i := port)
  let r : Reg := ⟨0x0A, 0x270 + 4 * q⟩
  s.ww r (s.rw r (i := port) + 1) (i := port)

/-- The queue a function's frames use (R116). -/
def State.hostQ (s : State) (port fn : Nat) : Nat := 4 + fbits (s.rw NETP.HQ_MAP (i := port)) (2 * fn + 1) (2 * fn)

/-- The queue of a frame. -/
def State.queueOf (s : State) (port : Nat) (k : TxKind) : Nat :=
  match k with
  | .audio .. => 0
  | .ptp => 1
  | .umarun => 2
  | .mgmt => 3
  | .host fn _ _ => s.hostQ port fn

/-- A frame in progress that has ended by a grid point counts as sent; a host frame then waits for its write-back. -/
def txSettle (port g : Nat) (s : State) : State :=
  match og s.net.inFlight port with
  | some (e, f) =>
    if e ≤ g then
      hostEnd port f true (txCount port (s.queueOf port f.kind) f.len (s.onNet (fun n => { n with inFlight := os n.inFlight port none })))
    else s
  | none => s

/-! ## Token buckets (R116) -/

/-- What a byte costs, in 1/12000 bit. -/
def tokByte : Nat := 96000
/-- The clock at a media grid point of the present sample. -/
def State.clockOf (s : State) (g : Nat) : Nat := s.clockGrid (g - s.grid 0)
/-- Tokens missing at media grid point `g` from a function's bucket, which fills by the clock. -/
def State.debtNow (s : State) (port fn g : Nat) : Nat :=
  let k := 8 * port + fn
  ng s.net.debt k - s.rw NETP.HQ_RATE fn (i := port) * (s.clockOf g - ng s.net.debtAt k)
/-- The bucket holds enough for a frame; a rate of 0 is unlimited. -/
def State.tokensFor (s : State) (port fn g len : Nat) : Bool :=
  s.rw NETP.HQ_RATE fn (i := port) == 0 ||
    decide (s.debtNow port fn g + len * tokByte ≤ 2 * s.rd NETP.MAC_CFG_MAX_LEN (i := port) * tokByte)
def tokenTake (port fn g len : Nat) (s : State) : State :=
  let d := s.debtNow port fn g + (if s.rw NETP.HQ_RATE fn (i := port) = 0 then 0 else len * tokByte)
  s.onNet (fun n => { n with debt := ns n.debt (8 * port + fn) d, debtAt := ns n.debtAt (8 * port + fn) (s.clockOf g) })

/-! ## Egress gates (R118–R121) -/

/-- The spans of a gate list within its cycle, in grid steps: mask, start, end. -/
def gateSpans (cyc : Nat) : Nat → List (Nat × Nat) → List (Nat × Nat × Nat)
  | _, [] => []
  | a, (m, iv) :: t =>
    if iv = 0 ∨ cyc ≤ a then []
    else
      let last := match t with | [] => true | (_, i2) :: _ => i2 == 0
      let e := if last then cyc else min cyc (a + 12 * iv)
      (m, a, e) :: gateSpans cyc e t

def gateEntries (w : List Nat) : List (Nat × Nat) := w.map (fun x => (fbits x 31 24, fbits x 19 0))
def State.gclAct (s : State) (port : Nat) : List (Nat × Nat) :=
  gateEntries ((List.range 16).map (fun i => s.rw NETP.GCL_ACT i (i := port)))
def State.gclPendL (s : State) (port : Nat) : List (Nat × Nat) :=
  gateEntries ((List.range 16).map (fun i => s.rw NETP.GCL_PEND i (i := port)))
/-- CYCLE and PHASE of the active list, at reset the reset values of GCL_CTL. -/
def State.gclCyc (s : State) (port : Nat) : Nat × Nat := (og s.net.gclSet port).getD (12, 0)

/-- The gates follow the active list. -/
def State.gating (s : State) (port : Nat) : Bool :=
  s.tim.published && s.rb NETP.GCL_CTL_EN (i := port) && bg s.net.gclLive port

/-- The entries before an INTERVAL of 0. -/
def gateUsed (l : List (Nat × Nat)) : List (Nat × Nat) := l.takeWhile (fun e => e.2 != 0)
/-- Every entry opens a queue. -/
def alwaysOpen (l : List (Nat × Nat)) (q : Nat) : Bool := (gateUsed l).all (fun e => bit e.1 q)

/-- Position in its cycle, in grid steps, of media grid point `g`. -/
def cyclePos (cyc ph g : Nat) : Nat := (g + 125000 * cyc - 125000 * (ph % cyc)) % (125000 * cyc)

/-- How long from position `p` a queue stays open within the spans of one cycle: grid steps, and whether to the end. -/
def openRun (q p : Nat) : List (Nat × Nat × Nat) → Nat → Nat × Bool
  | [], n => (n, true)
  | (m, _, e) :: t, n =>
    if e ≤ p then openRun q p t n
    else if bit m q then openRun q p t (e - p) else (n, false)

/-- A queue's gate is open at a grid point, and its close time if it has one (R119). An empty list closes nothing. -/
def State.gateAt (s : State) (port q g : Nat) : Bool × Option Nat :=
  let act := s.gclAct port
  if s.gating port = false ∨ gateUsed act = [] then (true, none)
  else
    let c := s.gclCyc port
    let sp := gateSpans (125000 * c.1) 0 act
    let p := cyclePos c.1 c.2 g
    match openRun q p sp 0 with
    | (0, _) => (false, none)
    | (n, false) => (true, some (g + n))
    | (n, true) =>
      if alwaysOpen act q && alwaysOpen (s.gclPendL port) q then (true, none)
      else
        let st := g + n
        let pend := s.rb NETP.GCL_STAT_SWAP_PEND (i := port)
        let l := if pend then s.gclPendL port else act
        let c' := if pend then (s.rd NETP.GCL_CTL_CYCLE (i := port), s.rd NETP.GCL_CTL_PHASE (i := port)) else c
        let sp' := gateSpans (125000 * c'.1) 0 l
        let p' := cyclePos c'.1 c'.2 st
        match openRun q p' sp' 0 with
        | (n', false) => (true, some (st + n'))
        | (n', true) =>
          match openRun q 0 sp' 0 with
          | (n2, false) => (true, some (st + n' + n2))
          | (_, true) => (true, none)

/-- A pending list becomes active (R120), with LONG of R118. -/
def gclSwapNow (port : Nat) (s : State) : State :=
  let l := s.gclPendL port
  let c := (s.rd NETP.GCL_CTL_CYCLE (i := port), s.rd NETP.GCL_CTL_PHASE (i := port))
  let s := s.each (List.range 16) (fun s i => s.ww NETP.GCL_ACT (s.rw NETP.GCL_PEND i (i := port)) i (i := port))
  let sum := (gateUsed l).foldl (fun a e => a + 12 * e.2) 0
  let s := (s.wb NETP.GCL_STAT_SWAP_PEND false (i := port)).wb NETP.GCL_STAT_LONG (125000 * c.1 < sum) (i := port)
  let s := s.wb NETP.GCL_STAT_ACTIVE (!s.rb NETP.GCL_STAT_ACTIVE (i := port)) (i := port)
  (s.onNet (fun n => { n with gclSet := os n.gclSet port (some c) })).raise (0x0A + port) 5 fnsAll

/-- GATE_CYCLE_START at the boundary of a published sample (R118, R120, R121). -/
def gclCycle (s : State) (port : Nat) : State :=
  let c := s.gclCyc port
  if s.tim.published && s.tim.sample % c.1 == c.2 % c.1 then
    let s := s.onNet (fun n => { n with gclLive := bs n.gclLive port true })
    if s.rb NETP.GCL_STAT_SWAP_PEND (i := port) && s.rb NETP.GCL_CTL_EN (i := port) then gclSwapNow port s else s
  else s

/-- SUSP reads 1 exactly while no index is published, and every gate is open (R121). -/
def gclSusp (s : State) (port : Nat) : State :=
  let s := s.wb NETP.GCL_STAT_SUSP (!s.tim.published) (i := port)
  if s.tim.published then s else s.onNet (fun n => { n with gclLive := bs n.gclLive port false })
/-- Gating is off or suspended: a swap asked for applies at the next tick boundary (R120, R121). -/
def State.gclOff (s : State) (port : Nat) : Bool := s.rb NETP.GCL_STAT_SUSP (i := port) || !s.rb NETP.GCL_CTL_EN (i := port)
/-- The gates at a tick boundary; `off` says that gating was off or suspended in the tick that ends. -/
def gclTick (off : Bool) (s : State) (port : Nat) : State :=
  let s := gclSusp s port
  if s.rb NETP.GCL_STAT_SWAP_PEND (i := port) && (off || s.gclOff port) then gclSwapNow port s else s

/-! ## Choosing a frame (R115, R116, R119) -/

/-- The lists of a queue in the order to serve them: for a host queue its functions, after the one served last. -/
def State.listsOf (s : State) (port q : Nat) : List (Nat × Option Nat) :=
  if q < 4 then [(txKey port q, none)]
  else
    let last := ng s.net.rr (txKey port q)
    let fns := (List.range 8).map (fun d => (last + d) % 8)
    (fns.filter (fun fn => s.hostQ port fn == q)).map (fun fn => (hostKey port fn, some fn))

/-- Mark the head of a list as held, counting it once (R119). -/
def txHold (port k : Nat) (s : State) : State :=
  match s.txList k with
  | f :: t => if f.held then s else txSet k ({ f with held := true } :: t) (s.cntr NETP.TX_GUARD_HOLD (i := port))
  | [] => s

/-- Take the frame from its list and put it on the link. -/
def txStart (port g k : Nat) (fn : Option Nat) (f : TxFrame) (rest : List TxFrame) (d : Nat) (st : Option Int) (s : State) : State :=
  let s := txSet k rest s
  let s := match fn with
    | some fn => (tokenTake port fn g f.len s).onNet (fun n => { n with rr := ns n.rr (txKey port (s.hostQ port fn)) (fn + 1) })
    | none => s
  s.onNet (fun n => { n with inFlight := os n.inFlight port (some (g + d, { f with stamp := st })) })

/-- Start the first frame that may start, going through the queues by priority; also answer it. `st` is the departure stamp of a frame that
starts now. -/
def txPick (port g : Nat) (st : Option Int) : List (Nat × Nat × Option Nat) → State → State × Option TxFrame
  | [], s => (s, none)
  | (q, k, fn) :: t, s =>
    match s.txList k with
    | [] => txPick port g st t s
    | f :: rest =>
      let okTok := match fn with | some fn => s.tokensFor port fn g f.len | none => true
      let gate := s.gateAt port q g
      let d := frameGrid (s.rd NETP.PORT_CTL_RATE (i := port)) f.len
      if okTok = false ∨ gate.1 = false then txPick port g st t s
      else
        match gate.2 with
        | some c =>
          if c < g + d then txPick port g st t (txHold port k s)
          else (txStart port g k fn f rest d st s, some f)
        | none => (txStart port g k fn f rest d st s, some f)
/-- The MAC looks for a frame at a grid point of the sample (R115): the started frame, if any. A departing delay request
leaves its stamp for the servo (R128). -/
def txTry (port off v : Nat) (s : State) : State × Option TxFrame :=
  let g := s.grid off
  let s := txSettle port g s
  let st := s.txStamp port off v
  if s.linkUp port = false ∨ (og s.net.inFlight port).isSome then (s, none)
  else
    let cands := (List.range 8).flatMap (fun q => (s.listsOf port q).map (fun p => (q, p.1, p.2)))
    match txPick port g st cands s with
    | (s, some f) =>
      if f.kind = .ptp then
        (s.onNet (fun n => { n with t3 := is n.t3 port (st.getD 0 + ig s.tim.ofs (planeOf port) / 2000) }), some f)
      else (s, some f)
    | r => r

/-- Everything queued on a port, with the frame in progress, and the port's lists emptied. -/
def txFlush (port g : Nat) (s : State) : List TxFrame × State :=
  let s := txSettle port g s
  let fl := match og s.net.inFlight port with | some (_, f) => [f] | none => []
  let ks := (List.range 8).map (txKey port) ++ (List.range 8).map (hostKey port)
  let l := fl ++ ks.flatMap s.txList
  (l, (s.each ks (fun s k => txSet k [] s)).onNet (fun n => { n with inFlight := os n.inFlight port none }))

/-! ## PTP (R126–R130) -/

/-- Samples in 2^k seconds. -/
def logSamples (k : Int) : Nat := if k < 0 then 96000 / 2 ^ k.natAbs else 96000 * 2 ^ k.natAbs

/-- The default ranking of masters: priority1, class, accuracy, variance, priority2, identity, then steps and sender. -/
def Master.key (m : Master) : List Nat := [m.prio1, m.cls, m.acc, m.var, m.prio2, m.gm, m.steps, m.src]
def lexLt : List Nat → List Nat → Bool
  | a :: s, b :: t => decide (a < b) || (a == b && lexLt s t)
  | _, _ => false

/-- The servo port of a plane. -/
def State.servoPort (s : State) (plane : Nat) : Nat := 2 * plane + s.rd TIME.PTP_STAT_PORT (i := plane)

def svIDLE : Nat := 0
def svACQUIRE : Nat := 1
def svLOCKED : Nat := 2
/-- The servo state changes; the base is valid while it is LOCKED (R129, R139). -/
def servoSet (plane st : Nat) (s : State) : State :=
  let s := s.onNet (fun n => { n with lockIn := ns n.lockIn plane 0, lockOut := ns n.lockOut plane 0 })
  if s.rd TIME.PTP_STAT_SERVO (i := plane) = st then s
  else
    let s := s.wr TIME.PTP_STAT_SERVO st (i := plane)
    let s := s.wb TIME.TB_STAT_VALID (st == svLOCKED) (i := plane)
    let s := if st = svLOCKED then s.onTim (fun t => { t with set := bs t.set plane true }) else markStale plane s
    s.raise (0x04 + plane) 10 fnsAll

/-- The plane's grandmaster, as the registers and the quality of its candidate show it. -/
def gmUpdate (plane : Nat) (s : State) : State :=
  let shown := (s.rb TIME.PTP_STAT_GM_VALID (i := plane), s.rd64 TIME.GM_ID_HI TIME.GM_ID_LO (i := plane))
  let now := match og s.net.master (s.servoPort plane) with | none => (false, shown.2) | some m => (true, m.gm)
  let s := if now = shown then s else s.onRx (fun r => { r with lockEval := true })
  match og s.net.master (s.servoPort plane) with
  | none =>
    let s := (s.wb TIME.PTP_STAT_GM_VALID false (i := plane)).onRef (fun r => { r with gm := os r.gm plane none })
    if (og s.net.master (2 * plane)).isNone && (og s.net.master (2 * plane + 1)).isNone
        && s.rd TIME.PTP_STAT_SERVO (i := plane) == svLOCKED then servoSet plane svACQUIRE s
    else s
  | some m =>
    let old := s.rd64 TIME.GM_ID_HI TIME.GM_ID_LO (i := plane)
    let s := s.wb TIME.PTP_STAT_GM_VALID true (i := plane)
    let s := if old = m.gm then s else
      (((s.wr64 TIME.GM_ID_HI TIME.GM_ID_LO m.gm (i := plane)).cnt TIME.PTP_STAT_GM_CHANGES (i := plane)).raise (0x04 + plane) 8
        fnsAll).onNet (fun n => { n with recheck := bs n.recheck plane true })
    let s := ((s.wr TIME.GM_QUAL_CLASS m.cls (i := plane)).wr TIME.GM_QUAL_ACC m.acc (i := plane)).wr TIME.GM_QUAL_VAR m.var (i := plane)
    s.onRef (fun r => { r with gm := os r.gm plane (some (m.cls, m.acc, m.var)) })

/-- A port loses its master (R130). -/
def masterLost (port : Nat) (s : State) : State :=
  gmUpdate (planeOf port) (s.onNet (fun n => { n with master := os n.master port none, unans := ns n.unans port 0 }))

/-- R130: a timeout of the port's master has passed. -/
def masterOverdue (port : Nat) (s : State) : Bool :=
  match og s.net.master port with
  | none => false
  | some m =>
    let p := planeOf port
    decide (m.annAt + s.rd TIME.PTP_CTL_ANN_TMO (i := p) * logSamples m.logAnn ≤ s.clock + 1)
      || decide (max m.syncAt m.since + s.rd TIME.PTP_CTL_SYNC_TMO (i := p) * logSamples m.logSync ≤ s.clock + 1)
      || decide (16 ≤ ng s.net.unans port)

/-- The servo port ranks its master against the other port's (R128): the port a plane should use. -/
def State.servoWant (s : State) (plane : Nat) : Nat :=
  let cur := s.servoPort plane
  match og s.net.master (2 * plane), og s.net.master (2 * plane + 1) with
  | some a, some b =>
    if (a.gm, a.src) = (b.gm, b.src) then 2 * plane
    else if lexLt b.key a.key && b.syncAt != 0 then 2 * plane + 1
    else if lexLt a.key b.key && a.syncAt != 0 then 2 * plane
    else cur
  | some a, none => if a.syncAt != 0 then 2 * plane else cur
  | none, some b => if b.syncAt != 0 then 2 * plane + 1 else cur
  | none, none => cur

/-- PTP at a tick boundary: the clock starts or stops, the servo port moves (R128, R138). -/
def ptpTick (s : State) (plane : Nat) : State :=
  if !s.fwUp then s
  else if !s.rb TIME.PTP_CTL_EN (i := plane) then
    let s := s.onNet (fun n => { n with master := os (os n.master (2 * plane) none) (2 * plane + 1) none })
    servoSet plane svIDLE (gmUpdate plane s)
  else
    let s := if s.rd TIME.PTP_STAT_SERVO (i := plane) = svIDLE then servoSet plane svACQUIRE s else s
    let want := s.servoWant plane
    if want = s.servoPort plane then gmUpdate plane s
    else
      let s := (s.wr TIME.PTP_STAT_PORT (want % 2) (i := plane)).raise (0x04 + plane) 9 fnsAll
      let s := s.wrS TIME.MPD_NS (ig s.net.mpd want / 12) (i := plane)
      gmUpdate plane (s.onNet (fun n => { n with recheck := bs n.recheck plane true }))

/-- One offset measured on the servo port (R126, R128, R129). `t21` is t2 − t1. -/
def servoOffset (port : Nat) (t21 : Int) (s : State) : State :=
  let p := planeOf port
  let o := t21 - ig s.net.mpd port - s.rdS NETP.PTP_ASYM_ASYM (i := port)
  let s := s.wrS TIME.OFFSET_NS (o / 12) (i := p)
  let win := 12 * s.rd TIME.PTP_LOCK_WIN_NS (i := p)
  let a := o.natAbs
  let s :=
    if bg s.net.recheck p then
      let s := s.onNet (fun n => { n with recheck := bs n.recheck p false })
      if s.rd TIME.PTP_STAT_SERVO (i := p) = svLOCKED ∧ win ≤ a then servoSet p svACQUIRE s else s
    else s
  let inn := if a < win then ng s.net.lockIn p + 1 else 0
  let out := if 2 * win ≤ a then ng s.net.lockOut p + 1 else 0
  let s := s.onNet (fun n => { n with lockIn := ns n.lockIn p (min inn 16), lockOut := ns n.lockOut p (min out 16) })
  let st := s.rd TIME.PTP_STAT_SERVO (i := p)
  if st = svACQUIRE ∧ 16 ≤ inn then servoSet p svLOCKED s
  else if st = svLOCKED ∧ 16 ≤ out then servoSet p svACQUIRE s
  else s

/-- t2 − t1 of an exchange is known. -/
def syncDone (port : Nat) (t21 : Int) (s : State) : State :=
  let s := s.onNet (fun n => { n with t21 := is n.t21 port t21 })
  let s := match og s.net.master port with
    | some m => s.onNet (fun n => { n with master := os n.master port (some { m with syncAt := s.clock + 1 }) })
    | none => s
  if s.servoPort (planeOf port) = port then servoOffset port t21 s else s

/-- The interval of a Sync or an Announce is one the clock accepts (R127). -/
def syncIntOk (k : Int) : Bool := decide (-7 ≤ k ∧ k ≤ 1)
def annIntOk (k : Int) : Bool := decide (-3 ≤ k ∧ k ≤ 3)

/-- A master whose Sync interval the clock does not accept is not selected until it sends one that it accepts (R127). -/
def masterBar (port src : Nat) (bad : Bool) (s : State) : State :=
  let l := (tget (fun _ => []) s.net.barred port).filter (· != src)
  s.onNet (fun n => { n with barred := tset (fun _ => []) n.barred port (if bad then src :: l else l) })

/-- PTP_MESSAGE: a message of the plane's domain arrived on a port, with its stamp on media time in grid steps (R126–R130). -/
def ptpMessage (port : Nat) (stamp : Int) (x : PtpMsg) (s : State) : State :=
  let p := planeOf port
  if !s.fwUp || !s.rb TIME.PTP_CTL_EN (i := p) || x.domain != s.rd TIME.PTP_CTL_DOMAIN (i := p) then s
  else
    let t := stamp + ig s.tim.ofs p / 2000
    match x.kind with
    | .announce =>
      let cur := og s.net.master port
      let same := match cur with | some m => m.src == x.src | none => false
      let out := x.cls == 255 || !annIntOk x.logInt || (tget (fun _ => []) s.net.barred port).contains x.src
      if out then (if same then masterLost port s else s)
      else
        let m : Master := { src := x.src, gm := x.gm, prio1 := x.prio1, cls := x.cls, acc := x.acc, var := x.var,
                            prio2 := x.prio2, steps := x.steps, twoStep := x.twoStep, logAnn := x.logInt, logSync := 1,
                            annAt := s.clock + 1, syncAt := 0, since := s.clock + 1 }
        let take : Option Master := match cur with
          | none => some m
          | some c => if same then some { m with twoStep := c.twoStep, logSync := c.logSync, syncAt := c.syncAt, since := c.since }
                      else if lexLt m.key c.key then some m else none
        match take with
        | none => s
        | some m =>
          let s := s.onNet (fun n => { n with master := os n.master port (some m) })
          if s.servoPort p = port then gmUpdate p s else s
    | .sync =>
      let s := masterBar port x.src (!syncIntOk x.logInt) s
      match og s.net.master port with
      | none => s
      | some m =>
        if m.src ≠ x.src then s
        else if syncIntOk x.logInt = false then masterLost port s
        else
          let s := s.onNet (fun n => { n with master := os n.master port (some { m with logSync := x.logInt, twoStep := x.twoStep }) })
          if x.twoStep then s.onNet (fun n => { n with syncWait := os n.syncWait port (some (x.seq, t)) })
          else syncDone port (t - x.t) s
    | .followUp =>
      match og s.net.master port, og s.net.syncWait port with
      | some m, some (q, t2) =>
        if m.src = x.src ∧ q = x.seq then syncDone port (t2 - x.t) (s.onNet (fun n => { n with syncWait := os n.syncWait port none }))
        else s
      | _, _ => s
    | .delayResp =>
      if x.own && !s.rb TIME.PTP_CTL_DELAY_MECH (i := p) then
        let d := (ig s.net.t21 port + (x.t - ig s.net.t3 port)) / 2
        let s := s.onNet (fun n => { n with mpd := is n.mpd port d, unans := ns n.unans port 0, reqInt := is n.reqInt port x.logInt })
        if s.servoPort p = port then s.wrS TIME.MPD_NS (d / 12) (i := p) else s
      else s
    | .pdelayResp =>
      if x.own && s.rb TIME.PTP_CTL_DELAY_MECH (i := p) then
        let d := (t - ig s.net.t3 port - x.t) / 2
        let s := s.onNet (fun n => { n with mpd := is n.mpd port d, unans := ns n.unans port 0 })
        if s.servoPort p = port then s.wrS TIME.MPD_NS (d / 12) (i := p) else s
      else s
    | .other => s

/-- A delay request of R127 on a port, at the rate that the last Delay_Resp gave: a PTP message on Q1, unless 16 already go unanswered
(R130). -/
def delayReq (port : Nat) (s : State) : State :=
  let p := planeOf port
  if 3 < port ∨ s.fwUp = false ∨ s.rb TIME.PTP_CTL_EN (i := p) = false ∨ (og s.net.master port).isNone ∨
      s.clock < ng s.net.reqAt port then s
  else if 16 ≤ ng s.net.unans port then masterLost port s
  else
    let ip := if s.rb TIME.PTP_CTL_IPV6 (i := p) then 40 else 20
    let msg := if s.rb TIME.PTP_CTL_DELAY_MECH (i := p) then 54 else 44
    let f : TxFrame := { kind := .ptp, len := max 64 (14 + ip + 8 + msg + 4), bytes := [], held := false }
    txPut port (txKey port 1) f (s.onNet (fun n => { n with
      unans := ns n.unans port (ng n.unans port + 1), reqAt := ns n.reqAt port (s.clock + logSamples (ig n.reqInt port)) }))

/-! ## Addresses (R131) -/

/-- A port's MAC address, and the link-local address formed from it. -/
def State.portMac (s : State) (port : Nat) : Nat :=
  s.rd NETP.MAC_ADDR_HI_ADDR (i := port) * 2 ^ 32 + s.rw NETP.MAC_ADDR_LO (i := port)
def linkLocal (mac : Nat) : Nat :=
  0xFE80 * 2 ^ 112 + ((mac / 2 ^ 24 ^^^ 0x020000) * 2 ^ 40 + 0xFFFE * 2 ^ 24 + mac % 2 ^ 24)
/-- Duplicate address detection begins for addresses of a port, each with a neighbour solicitation (R131, RFC 4862). -/
def dadStart (port : Nat) (l : List Nat) (s : State) : State :=
  let s := s.onNet (fun n => { n with
    dad := tset (fun _ => []) n.dad port
      ((tget (fun _ => []) n.dad port).filter (fun e => !l.contains e.1) ++ l.map (fun a => (a, s.clock)))
    dup := tset (fun _ => []) n.dup port ((tget (fun _ => []) n.dup port).filter (fun a => !l.contains a)) })
  s.each l (fun s _ => txMgmt port 82 s)
/-- The IPv6 addresses of a port (R131). -/
def State.addrs6 (s : State) (port : Nat) : List Nat :=
  linkLocal (s.portMac port) :: (match og s.flash.addrs port with | some a => [a.ip6a, a.ip6b].filter (· != 0) | none => [])
/-- A port has an IPv6 address in use: its detection has run its second and found no other user. -/
def State.addrFree (s : State) (port a : Nat) : Bool :=
  !(tget (fun _ => []) s.net.dup port).contains a &&
    !(tget (fun _ => []) s.net.dad port).any (fun e => e.1 == a && decide (s.clock < e.2 + 96000))
/-- The addresses of a port for a version. -/
def State.ownAddrs (s : State) (port : Nat) (v6 : Bool) : List Nat :=
  if v6 then (s.addrs6 port).filter (s.addrFree port)
  else match og s.flash.addrs port with | some a => [a.ip4].filter (· != 0) | none => []
/-- Another node uses an address whose detection is running (R131): the port does not use it. -/
def dadHit (port a : Nat) (s : State) : State :=
  if s.addrFree port a ∨ !(s.addrs6 port).contains a then s
  else s.onNet (fun n => { n with dup := tset (fun _ => []) n.dup port (a :: (tget (fun _ => []) n.dup port).filter (· != a)) })

/-! ## The rows -/

def execMasterLoss (port : Nat) (s : State) : Host.Outcome State Fault Refusal :=
  .next (awake s (if s.fwUp && masterOverdue port s then masterLost port s else s))
def execDelayReqSend (port : Nat) (s : State) : Host.Outcome State Fault Refusal := .next (awake s (delayReq port s))
/-- NEIGHBOUR_AGE_OUT (R131): an entry that has gone 300 s without use. -/
def ageOut (addr now : Nat) (l : List (Nat × Nat × Nat)) : List (Nat × Nat × Nat) :=
  l.filter (fun e => !(e.1 == addr && decide (e.2.1 + 28800000 ≤ now)))
def execNeighbourAgeOut (port addr : Nat) (s : State) : Host.Outcome State Fault Refusal :=
  .next (awake s (if s.fwUp then
      let l := ageOut addr s.clock (tget (fun _ => []) s.net.neigh port)
      s.onNet (fun n => { n with neigh := tset (fun _ => []) n.neigh port l })
    else s))
/-- The I²C controller of a port's module: 0 for ports 0 and 1, 1 for ports 2 and 3 (R132). -/
def modCtl (port : Nat) : Nat := port / 2
/-- Firmware can reach a port's module: its controller is not isolated (R575). -/
def State.modReach (s : State) (port : Nat) : Bool := s.rd LSIO.I2C_STAT_STATE (modCtl port) != 3
/-- Firmware selects the module of a port on its controller: QSFPn_MODSEL_N low, the other module's high (R132). -/
def modSelect (port : Nat) (s : State) : State := s.onNet (fun n => { n with modSel := os n.modSel (modCtl port) (some port) })
/-- The pins that the device drives to a module: MODSEL_N, RST_N at a grid point of the clock, and LPMODE, which QSFP_CTL.LPMODE drives while
AUTO is 0 (R132, R137). -/
def State.modselN (s : State) (port : Nat) : Bool := og s.net.modSel (modCtl port) != some port
def State.modRstN (s : State) (port off : Nat) : Bool := decide (ng s.net.rstUntil port ≤ s.clockGrid off)
def State.lpMode (s : State) (port : Nat) : Bool :=
  if s.rb NETP.QSFP_CTL_AUTO (i := port) then !bg s.net.lpOff port else s.rb NETP.QSFP_CTL_LPMODE (i := port)
/-- QSFP_MONITOR (R132, R137): the interrupt pin, and the alarm flags of a module that firmware manages. -/
def qsfpMonitor (port alarms : Nat) (int : Bool) (s : State) : State :=
  let s := s.wb NETP.QSFP_STAT_INT int (i := port)
  if s.modReach port && s.fwUp && s.rb NETP.QSFP_CTL_AUTO (i := port) && s.rb NETP.QSFP_STAT_PRESENT (i := port) then
    let old := s.rd NETP.QSFP_STAT_ALARM (i := port)
    let s := ((modSelect port s).onNet (fun n => { n with modStale := bs n.modStale port false })).wr NETP.QSFP_STAT_ALARM alarms (i := port)
    let new := s.rd NETP.QSFP_STAT_ALARM (i := port)
    if new &&& old = new then s else s.raise (0x0A + port) 2 fnsAll
  else s
def execQsfpMonitor (port alarms : Nat) (int : Bool) (s : State) : Host.Outcome State Fault Refusal :=
  .next (awake s (if port < 4 ∧ s.bankUp 4 then qsfpMonitor port alarms int s else s))

/-- Request a swap of the pending list, unless one waits (R120). -/
def gclRequest (port : Nat) (s : State) : State :=
  if s.rb NETP.GCL_STAT_SWAP_PEND (i := port) then s else s.wb NETP.GCL_STAT_SWAP_PEND true (i := port)
/-- A write of GCL_CTL's own fields: ignored while a swap waits. A PHASE that is not below CYCLE is ignored, and a CYCLE that the PHASE in
force is not below with it (R120, R137). -/
def gclCtlWrite (port w : Nat) (s : State) : State :=
  if s.rb NETP.GCL_STAT_SWAP_PEND (i := port) then s
  else
    let old := s.rd NETP.GCL_CTL_PHASE (i := port)
    let cyc := s.rd NETP.GCL_CTL_CYCLE (i := port)
    let s := s.writeRW NETP.GCL_CTL w (i := port)
    if s.rd NETP.GCL_CTL_PHASE (i := port) < s.rd NETP.GCL_CTL_CYCLE (i := port) then s
    else
      let s := s.wr NETP.GCL_CTL_PHASE old (i := port)
      if old < s.rd NETP.GCL_CTL_CYCLE (i := port) then s else s.wr NETP.GCL_CTL_CYCLE cyc (i := port)
/-- GCL_SWAP: a write of GCL_CTL with bit 30 (R120). EN is buffered as in any write of the register. -/
def regGclSwap (fn port w : Nat) (s : State) : State :=
  if isPF0 fn && port < 4 then
      gclRequest port ((gclCtlWrite port w s).hold fn (0x0A + port) 0 0x080 (2 ^ 31) w)
    else s
def execGclSwap (fn port w : Nat) (s : State) : Host.Outcome State Fault Refusal := .next (awake s (regGclSwap fn port w s))
/-- QSFP_RESET (R137): the module's reset pin goes low for 10 µs. -/
def regQsfpReset (fn port w off : Nat) (s : State) : State :=
  if isPF0 fn && port < 4 then
      (s.writeRW NETP.QSFP_CTL w (i := port)).onNet (fun n => { n with rstUntil := ns n.rstUntil port (s.clockGrid off + 120000) })
    else s
def execQsfpReset (fn port w off : Nat) (s : State) : Host.Outcome State Fault Refusal := .next (awake s (regQsfpReset fn port w off s))

/-- The registers that PTP_CONFIG and NET_PORT_CONFIG write (R140). -/
def ptpCfgRegs : List Nat := [0x0A0, 0x0BC]
def portCfgRegs : List Nat := [0x040, 0x048, 0x068, 0x06C, 0x070, 0x090, 0x0A0, 0x0E0]
def execPtpConfig (e : Env) (ws : List RegW) (s : State) : Host.Outcome State Fault Refusal :=
  .next (runCmd { pf0 := true } e anyone (fun _ s =>
    if cfgOk 0x04 2 ptpCfgRegs ws && ws.all (fun w => w.obj == 0) then done (cfgWrite 0x04 ws s) else no stBAD_FIELD) s)
def execPtpStatus (e : Env) (plane : Nat) (s : State) : Host.Outcome State Fault Refusal :=
  .next (runCmd { read := true } e anyone (fun _ s =>
    if 1 < plane then no stBAD_FIELD
    else
      let iv := fun (port : Nat) => match og s.net.master port with | some m => [uns 8 m.logAnn, uns 8 m.logSync] | none => [0x80, 0x80]
      ret s ([s.rw TIME.PTP_STAT (i := plane), s.rw TIME.GM_ID_HI (i := plane), s.rw TIME.GM_ID_LO (i := plane),
        s.rw TIME.GM_QUAL (i := plane), s.rw TIME.OFFSET (i := plane), s.rw TIME.MPD (i := plane)] ++ iv (2 * plane) ++ iv (2 * plane + 1))) s)
def execNetPortConfig (e : Env) (ws : List RegW) (s : State) : Host.Outcome State Fault Refusal :=
  .next (runCmd { pf0 := true } e anyone (fun _ s =>
    if cfgOk 0x0A 4 portCfgRegs ws && ws.all (fun w => (w.off == 0x040 && portCtlOk w.val && w.obj == 0)
        || (w.off != 0x040 && (w.obj == 0 || ((w.off == 0x0A0 || w.off == 0x0E0) && w.obj < 8)))) then
      done (cfgWrite 0x0A ws s)
    else no stBAD_FIELD) s)
/-- The counters of R136. -/
def netCounters : List Nat := (List.range 17).map (fun i => 0x200 + 4 * i) ++ (List.range 6).map (fun i => 0x250 + 4 * i)
  ++ (List.range 8).map (fun i => 0x270 + 4 * i)
def execNetPortStatus (e : Env) (port : Nat) (s : State) : Host.Outcome State Fault Refusal :=
  .next (runCmd { read := true } e anyone (fun _ s =>
    if 3 < port then no stBAD_FIELD
    else ret s ([s.rw NETP.PORT_STAT (i := port), s.rw NETP.QSFP_STAT (i := port)] ++ netCounters.map (fun o => s.gw (0x0A + port) 0 o))) s)
/-- NET_ADDR_SET (R131). -/
def execNetAddrSet (e : Env) (port : Nat) (a : PortAddr) (s : State) : Host.Outcome State Fault Refusal :=
  .next (runCmd { pf0 := true } e anyone (fun _ s =>
    if 3 < port ∨ 32 < a.prefix4 ∨ 2 ^ 32 ≤ a.ip4 ∨ 2 ^ 32 ≤ a.gateway ∨ 2 ^ 128 ≤ a.ip6a ∨ 2 ^ 128 ≤ a.ip6b then no stBAD_FIELD
    else
      let s := flashWrote (s.onFlash (fun f => { f with addrs := os f.addrs port (some a) }))
      done (dadStart port ([a.ip6a, a.ip6b].filter (· != 0)) s)) s)
/-- The index at which a swap requested now applies (R120): a cycle start of the active list, or a tick boundary. -/
def State.swapAt (s : State) (port : Nat) : Nat :=
  if s.tim.published && s.rb NETP.GCL_CTL_EN (i := port) then
    let c := s.gclCyc port
    let n := s.tim.sample + 1
    n + (c.1 - (n + c.1 - c.2 % c.1) % c.1) % c.1
  else if s.tim.published then 32 * s.nextTick else 0
/-- GCL_LOAD (R120, R140). -/
def execGclLoad (e : Env) (port cycle phase : Nat) (l : List (Nat × Nat)) (s : State) : Host.Outcome State Fault Refusal :=
  .next (runCmd { pf0 := true } e anyone (fun _ s =>
    if 3 < port ∨ cycle = 0 ∨ 384 < cycle ∨ cycle ≤ phase ∨ 16 < l.length ∨ l.any (fun x => 255 < x.1 || 0xFFFFF < x.2) then no stBAD_FIELD
    else if s.rb NETP.GCL_STAT_SWAP_PEND (i := port) then no stBUSY
    else
      let at_ := s.swapAt port
      let s := (s.wr NETP.GCL_CTL_CYCLE cycle (i := port)).wr NETP.GCL_CTL_PHASE phase (i := port)
      let s := s.each (List.range 16) (fun s i =>
        let x := l.getD i (0xFF, 0)
        (s.wr NETP.GCL_PEND_MASK x.1 i (i := port)).wr NETP.GCL_PEND_INTERVAL x.2 i (i := port))
      retIdx (gclRequest port s) at_) s)
/-- QSFP_READ (R140): `mem` is what the module's memory holds at the page and offset named. -/
def execQsfpRead (e : Env) (port n : Nat) (mem : List Nat) (s : State) : Host.Outcome State Fault Refusal :=
  .next (runCmd { read := true } e anyone (fun _ s =>
    if 3 < port ∨ 128 < n ∨ s.rb NETP.QSFP_STAT_PRESENT (i := port) = false then no stBAD_FIELD
    else ret (modSelect port s) (mem.take n)) s)
/-- WAKE_PATTERN (R133). -/
def execWakePattern (e : Env) (i : Nat) (pat : List (Nat × Nat)) (s : State) : Host.Outcome State Fault Refusal :=
  .next (runCmd { pf0 := true } e anyone (fun _ s =>
    if i = 0 ∨ 3 < i ∨ 128 < pat.length ∨ pat.any (fun p => 255 < p.1 || 255 < p.2) then no stBAD_FIELD
    else done (s.onNet (fun n => { n with wake := tset (fun _ => []) n.wake i pat }))) s)

end Sys2Proof.Machine
end

