-- ==== Sys2Proof/Machine/Sdp.lean ====
section
/-!
DEFINITION. Reading a session description (R148): the lines and attributes that STREAM_RX_SDP takes from its text.
-/
namespace Sys2Proof.Machine

/-! ## Text -/

def asc (t : String) : List Byte := t.toList.map (fun c => BitVec.ofNat 8 c.toNat)
/-- The pieces of a text between the occurrences of a byte. -/
def cutAt (c : Nat) : List Byte → List (List Byte)
  | [] => [[]]
  | b :: t =>
    if b.toNat = c then [] :: cutAt c t
    else match cutAt c t with | [] => [[b]] | h :: r => (b :: h) :: r
/-- What follows a prefix. -/
def afterB (p l : List Byte) : Option (List Byte) := if p.isPrefixOf l then some (l.drop p.length) else none
def digitOf (hex : Bool) (b : Byte) : Option Nat :=
  let n := b.toNat
  if 48 ≤ n ∧ n ≤ 57 then some (n - 48)
  else if hex ∧ 65 ≤ n ∧ n ≤ 70 then some (n - 55)
  else if hex ∧ 97 ≤ n ∧ n ≤ 102 then some (n - 87)
  else none
/-- The number that digits write, decimal or hexadecimal. -/
def numOf (hex : Bool) (l : List Byte) : Option Nat :=
  if l.isEmpty then none
  else l.foldl (fun a b => match a, digitOf hex b with | some a, some d => some (a * (if hex then 16 else 10) + d) | _, _ => none) (some 0)
/-- Numbers below a bound, most significant first, as one number. -/
def joinNums (base : Nat) (l : List (Option Nat)) : Option Nat :=
  l.foldl (fun a x => match a, x with | some a, some d => if d < base then some (a * base + d) else none | _, _ => none) (some 0)

/-! ## Addresses -/

def ip4Of (l : List Byte) : Option Nat :=
  let p := cutAt 46 l
  if p.length = 4 then joinNums 256 (p.map (numOf false)) else none
/-- The text before and after the first `::`. -/
def cutColons : List Byte → Option (List Byte × List Byte)
  | [] => none
  | a :: t => match t with
    | [] => none
    | b :: u => if a.toNat = 58 ∧ b.toNat = 58 then some ([], u) else (cutColons t).map (fun p => (a :: p.1, p.2))
def ip6Groups (l : List Byte) : List (Option Nat) :=
  if l.isEmpty then [] else (cutAt 58 l).map (fun g => if g.length ≤ 4 then numOf true g else none)
def ip6Of (l : List Byte) : Option Nat :=
  match cutColons l with
  | some (a, b) =>
    let x := ip6Groups a
    let y := ip6Groups b
    if x.length + y.length ≤ 7 then joinNums 65536 (x ++ List.replicate (8 - x.length - y.length) (some 0) ++ y) else none
  | none => let x := ip6Groups l; if x.length = 8 then joinNums 65536 x else none
/-- An address after its type, IP4 or IP6: the version and the address. -/
def addrText (ty a : List Byte) : Option (Bool × Nat) :=
  if ty = asc "IP4" then (ip4Of a).map (fun x => (false, x))
  else if ty = asc "IP6" then (ip6Of a).map (fun x => (true, x))
  else none

/-! ## A description -/

/-- What a ts-refclk line names: a traceable clock, a grandmaster with its domain, or another clock. -/
inductive RefClk where
  | traceable
  | gm (id domain : Nat)
  | other
deriving DecidableEq, Repr

/-- The items that stand for a session or for one of its media descriptions: the address of c=, the source of the filter, the reference
clock, the offset of mediaclk:direct. -/
structure SdpPart where
  conn : Option (Bool × Nat)
  src : Option Nat
  clk : Option RefClk
  offset : Option Nat
def SdpPart.none_ : SdpPart := { conn := none, src := none, clk := none, offset := none }

/-- An audio media description: its port and payload type, its format, rate and channels, its packet time in ns, whether it has a=mid. -/
structure SdpAudio where
  part : SdpPart
  udp : Nat
  pt : Nat
  map : Option (Nat × Nat × Nat)
  ptime : Option Nat
  mid : Bool

/-- A description as its lines are read in order: the media come last first, and `here` says whether the lines belong to the session (0), to
an audio description (1) or to another (2). `ok` falls with a value that is not supported. -/
structure SdpRead where
  ses : SdpPart
  audio : List SdpAudio
  here : Nat
  dup : Bool
  ok : Bool

/-- A packet time in ms, with decimals, in ns. -/
def ptimeOf (l : List Byte) : Option Nat :=
  match cutAt 46 l with
  | [a] => (numOf false a).map (· * 1000000)
  | [a, b] =>
    match numOf false a, numOf false ((b ++ List.replicate 6 48#8).take 6), numOf false b with
    | some x, some y, some _ => some (x * 1000000 + y)
    | _, _, _ => none
  | _ => none
/-- ENCODING/rate/channels of an rtpmap, as the code of FMT, the rate in Hz and the channels. -/
def rtpmapOf (l : List Byte) : Option (Nat × Nat × Nat) :=
  let p := cutAt 47 l
  let fmt := if p.head? = some (asc "L16") then some 0 else if p.head? = some (asc "L24") then some 1
    else if p.head? = some (asc "AM824") then some 2 else none
  match fmt, numOf false (p.getD 1 []), (if p.length = 2 then some 1 else numOf false (p.getD 2 [])) with
  | some f, some r, some c => if p.length ≤ 3 then some (f, r, c) else none
  | _, _, _ => none
/-- A ts-refclk value. -/
def refclkOf (l : List Byte) : RefClk :=
  if l = asc "ptp=traceable" then .traceable
  else match afterB (asc "ptp=IEEE1588-2008:") l with
    | none => .other
    | some v =>
      let p := cutAt 58 v
      let id := cutAt 45 (p.head?.getD [])
      match (if id.length = 8 ∧ id.all (fun h => h.length == 2) then joinNums 256 (id.map (numOf true)) else none), numOf false (p.getD 1 []) with
      | some g, some d => if p.length = 2 then .gm g d else .other
      | _, _ => .other

def SdpRead.bad (r : SdpRead) : SdpRead := { r with ok := false }
/-- Change the part that the lines belong to. -/
def SdpRead.put (r : SdpRead) (f : SdpPart → SdpPart) : SdpRead :=
  match r.here, r.audio with
  | 0, _ => { r with ses := f r.ses }
  | 1, m :: t => { r with audio := { m with part := f m.part } :: t }
  | _, _ => r
/-- Change the audio description that the lines belong to. -/
def SdpRead.putA (r : SdpRead) (f : SdpAudio → SdpAudio) : SdpRead :=
  match r.here, r.audio with
  | 1, m :: t => { r with audio := f m :: t }
  | _, _ => r

/-- A c= line. -/
def sdpConn (r : SdpRead) (v : List Byte) : SdpRead :=
  match cutAt 32 v with
  | [n, ty, a] =>
    match (if n = asc "IN" then addrText ty ((cutAt 47 a).headD []) else none) with
    | some x => r.put (fun p => { p with conn := some x })
    | none => if r.here = 2 then r else r.bad
  | _ => if r.here = 2 then r else r.bad
/-- An m= line. -/
def sdpMedia (r : SdpRead) (v : List Byte) : SdpRead :=
  match cutAt 32 v with
  | k :: t =>
    if k ≠ asc "audio" then { r with here := 2 }
    else
      let m := fun (u p : Nat) => ({ part := .none_, udp := u, pt := p, map := none, ptime := none, mid := false } : SdpAudio)
      let add := fun (x : SdpAudio) (ok : Bool) => { r with here := 1, audio := x :: r.audio, ok := r.ok && ok }
      match t with
      | [u, prof, pt] =>
        match numOf false u, numOf false pt with
        | some u, some pt => add (m u pt) (prof == asc "RTP/AVP" && decide (u < 65536) && decide (pt < 128))
        | _, _ => add (m 0 0) false
      | _ => add (m 0 0) false
  | [] => r
/-- An a= line. -/
def sdpAttr (r : SdpRead) (v : List Byte) : SdpRead :=
  let audio := fun (f : List Byte → SdpAudio → Option SdpAudio) (x : List Byte) => match r.here, r.audio with
    | 1, m :: t => match f x m with | some m' => { r with audio := m' :: t } | none => r.bad
    | _, _ => r
  match afterB (asc "rtpmap:") v with
  | some x => audio (fun x m =>
      let p := cutAt 32 x
      if numOf false (p.headD []) ≠ some m.pt then some m
      else (rtpmapOf (p.getD 1 [])).map (fun q => { m with map := some q })) x
  | none =>
  match afterB (asc "ptime:") v with
  | some x => audio (fun x m => (ptimeOf x).map (fun t => { m with ptime := some t })) x
  | none =>
  match afterB (asc "source-filter: incl ") v with
  | some x =>
    match cutAt 32 x with
    | [_, ty, _, a] => match addrText ty a with
      | some q => r.put (fun p => { p with src := some q.2 })
      | none => if r.here = 2 then r else r.bad
    | _ => if r.here = 2 then r else r.bad
  | none =>
  match afterB (asc "ts-refclk:") v with
  | some x => r.put (fun p => { p with clk := some (refclkOf x) })
  | none =>
  match afterB (asc "mediaclk:direct=") v with
  | some x => match numOf false ((cutAt 32 x).headD []) with
    | some n => r.put (fun p => { p with offset := some n })
    | none => if r.here = 2 then r else r.bad
  | none =>
  match afterB (asc "group:DUP") v with
  | some _ => if r.here = 0 then { r with dup := true } else r
  | none =>
  match afterB (asc "mid:") v with
  | some _ => r.putA (fun m => { m with mid := true })
  | none => r
/-- One line; every line that R148 does not name is ignored. -/
def sdpLine (r : SdpRead) (l : List Byte) : SdpRead :=
  let l := if l.getLast? = some 13#8 then l.dropLast else l
  match afterB (asc "c=") l with
  | some v => sdpConn r v
  | none => match afterB (asc "m=") l with
    | some v => sdpMedia r v
    | none => match afterB (asc "a=") l with
      | some v => sdpAttr r v
      | none => r
/-- A whole description: its session and its audio descriptions in order, or none where a value is not supported. -/
def sdpRead (text : List Byte) : Option (SdpPart × List SdpAudio × Bool) :=
  let r := (cutAt 10 text).foldl sdpLine { ses := .none_, audio := [], here := 0, dup := false, ok := true }
  if r.ok then some (r.ses, r.audio.reverse, r.dup) else none
/-- An item of a media description, or else of its session. -/
def SdpPart.or (a b : SdpPart) : SdpPart :=
  { conn := a.conn.orElse (fun _ => b.conn), src := a.src.orElse (fun _ => b.src), clk := a.clk.orElse (fun _ => b.clk)
    offset := a.offset.orElse (fun _ => b.offset) }

end Sys2Proof.Machine
end

