-- ==== Sys2Proof/Machine/Srcb.lean ====
section
/-!
DEFINITION. Rate conversion to the internal rate (R177–R203): paths, the converter pool, ratio groups and what a converter
delivers.
-/
namespace Sys2Proof.Machine

/-! ## Users, paths and the pool -/

/-- The kinds of PATH_SEL. -/
def ukRX : Nat := 0
def ukTX : Nat := 1
def ukI2SI : Nat := 2
def ukI2SO : Nat := 3
def ukARX : Nat := 4
def ukATX : Nat := 5
def ukey (kind index : Nat) : Nat := 1024 * kind + index

/-- Codes of PATH_STAT. -/
def paNONE : Nat := 0
def paDIRECT : Nat := 1
def paUP : Nat := 2
def paDOWN : Nat := 3
def paFIXED : Nat := 4
def paTRACK : Nat := 5

/-- Hz of a stream rate code. -/
def rateHz (c : Nat) : Nat := match c with | 0 => 44100 | 1 => 48000 | 2 => 88200 | 3 => 96000 | 4 => 176400 | _ => 192000

/-- The path and fixed group of a rate on media time: of a source (R177) and of a sink (R178). -/
def srcPath (rate : Nat) : Nat × Nat :=
  match rate with | 0 => (paFIXED, 0) | 1 => (paUP, 0) | 2 => (paFIXED, 1) | 3 => (paDIRECT, 0) | 4 => (paFIXED, 2) | _ => (paDOWN, 0)
def sinkPath (rate : Nat) : Nat × Nat :=
  match rate with | 0 => (paFIXED, 0) | 1 => (paDOWN, 0) | 2 => (paFIXED, 1) | 3 => (paDIRECT, 0) | 4 => (paFIXED, 2) | _ => (paUP, 0)

def State.pathOf (s : State) (u : Nat) : Nat := ng s.src.path u / 256
def State.groupOf (s : State) (u : Nat) : Nat := ng s.src.path u % 256
def State.grpUsers (s : State) (g : Nat) : List Nat := tget (fun _ => []) s.src.users g
def State.grpType (s : State) (g : Nat) : Nat := s.rd SRCB.GRP_STAT_TYPE g
/-- The lowest free tracked group. -/
def State.freeGrp (s : State) : Option Nat := ((List.range 253).map (· + 3)).find? (fun g => s.grpType g == 0)

/-- What a user asks of the pool: a path, channels, and for a tracked path the group it must join, or the type, kind and index
of a group of its own with its NOM. -/
structure SrcAsk where
  path : Nat
  fixed : Nat
  ch : Nat
  join : Option Nat
  type : Nat
  kind : Nat
  index : Nat
  nom : Nat

/-- Why the pool refuses a user of an owner: QUOTA before BUSY (R184). -/
def srcRefusal (fn : Nat) (a : SrcAsk) (s : State) : Option Nat :=
  if a.path ≠ paFIXED ∧ a.path ≠ paTRACK then none
  else if s.quotaOk fn qASRC a.ch = false then some stQUOTA
  else if s.rd SRCB.POOL_CH_FREE < a.ch then some stBUSY
  else if a.path = paTRACK ∧ a.join.isNone ∧ s.freeGrp.isNone then some stBUSY
  else none

/-- Clear what the converters of a user keep (R182). -/
def convClear (u : Nat) (s : State) : State :=
  s.onSrc (fun c => { c with mem := c.mem.filter (fun e => e.1 / 64 != u), last := c.last.filter (fun e => e.1 / 64 != u) })

/-- Assign a user its path, taking channels and a group (R179, R183). -/
def srcTake (u fn : Nat) (a : SrcAsk) (s : State) : State :=
  let s := convClear u s
  if a.path ≠ paFIXED ∧ a.path ≠ paTRACK then s.onSrc (fun c => { c with path := ns c.path u (256 * a.path) })
  else
    let g := if a.path = paFIXED then a.fixed else match a.join with | some g => g | none => s.freeGrp.getD 0
    let s := if a.path = paTRACK ∧ a.join.isNone then
        let s := ((s.wr SRCB.GRP_STAT_TYPE a.type g).wr SRCB.GRP_STAT_OWNER fn g).wr SRCB.GRP_SRC_KIND a.kind g
        let s := ((s.wr SRCB.GRP_SRC_INDEX a.index g).wr SRCB.GRP_NOM_HZ a.nom g).wr SRCB.POOL_GRP_FREE (s.rd SRCB.POOL_GRP_FREE - 1)
        s.wr64 SRCB.GRP_RATIO_HI SRCB.GRP_RATIO_LO (a.nom * 2 ^ 48 / 96000) g
      else s
    let s := (s.wr SRCB.GRP_STAT_CHANNELS (s.rd SRCB.GRP_STAT_CHANNELS g + a.ch) g).wr SRCB.POOL_CH_FREE (s.rd SRCB.POOL_CH_FREE - a.ch)
    let s := useTake fn qASRC a.ch s
    s.onSrc (fun c => { c with
      path := ns c.path u (256 * a.path + g), taken := ns c.taken u a.ch, ownedBy := ns c.ownedBy u fn
      users := tset (fun _ => []) c.users g (tget (fun _ => []) c.users g ++ [u]) })

/-- A user is disabled: its channels return to the pool; its group, if nobody uses it, is returned at the next tick
boundary (R183, R190). -/
def srcGive (u : Nat) (s : State) : State :=
  let p := s.pathOf u
  let g := s.groupOf u
  let n := ng s.src.taken u
  let s :=
    if p = paFIXED ∨ p = paTRACK then
      let s := (s.wr SRCB.GRP_STAT_CHANNELS (s.rd SRCB.GRP_STAT_CHANNELS g - n) g).wr SRCB.POOL_CH_FREE (s.rd SRCB.POOL_CH_FREE + n)
      useGive (ng s.src.ownedBy u) qASRC n s
    else s
  convClear u (s.onSrc (fun c => { c with
    path := ns c.path u 0, taken := ns c.taken u 0, ownedBy := ns c.ownedBy u 0
    users := tset (fun _ => []) c.users g ((tget (fun _ => []) c.users g).filter (· != u)) }))

/-! ## States of a group (R190–R196) -/

def gsIDLE : Nat := 0
def gsACQ : Nat := 1
def gsLOCKED : Nat := 2
def gsHOLD : Nat := 3
def gsFAULT : Nat := 4
def State.grpState (s : State) (g : Nat) : Nat := s.rd SRCB.GRP_STAT_STATE g
/-- Who hears of a group's events (R202): its owner; PF0 owns groups 0 to 2 (R186). -/
def State.grpFns (s : State) (g : Nat) : List Nat := if g < 3 then fnsPF0 else fnsOwn (s.grpOwner g)

/-- BW in mHz of a code (R191). -/
def bwMHz (c : Nat) : Nat := match c with | 0 => 500 | 1 => 1000 | 2 => 2000 | 3 => 5000 | 4 => 10000 | _ => 20000
/-- BW and RANGE in force. -/
def State.grpBW (s : State) (g : Nat) : Nat := bwMHz ((og s.src.act g).getD 2 % 8)
def State.grpRange (s : State) (g : Nat) : Nat := (og s.src.act g).getD 2 / 8

/-- A group changes state (R201, R202). -/
def grpSet (g st : Nat) (s : State) : State :=
  let old := s.grpState g
  if old = st then s
  else
    let s := (s.wr SRCB.GRP_STAT_STATE st g).wb SRCB.GRP_STAT_EVT true g
    let s := s.ww SRCB.EVT_MAP (s.rw SRCB.EVT_MAP (g / 32) ||| 2 ^ (g % 32)) (g / 32)
    let s := if old = gsLOCKED then s.raise 0x10 1 (s.grpFns g) else s
    let s := if st = gsLOCKED then s.raise 0x10 0 (s.grpFns g) else s
    if st = gsFAULT then (s.cnt SRCB.GRP_FAULTS_COUNT g).raise 0x10 2 (s.grpFns g) else s

/-- Start full acquisition at a sample of the clock, and acquisition at the lock-test stage (R191). -/
def fullAcq (g at_ : Nat) (s : State) : State :=
  grpSet g gsACQ (s.onSrc (fun c => { c with
    stage := ns c.stage g 20000, stageAt := ns c.stageAt g at_, good := ns c.good g 0, relock := bs c.relock g false
    dropAt := ns c.dropAt g 0, inRange := ns c.inRange g 0 }))
def lockAcq (g : Nat) (s : State) : State :=
  grpSet g gsACQ (s.onSrc (fun c => { c with
    stage := ns c.stage g 0, good := ns c.good g 0, relock := bs c.relock g false, dropAt := ns c.dropAt g 0, inRange := ns c.inRange g 0 }))

/-- The stage after one of bandwidth `b`; 0 is the lock test. -/
def nextStage (b bw : Nat) : Nat := if b ≤ bw then 0 else if 2 * bw ≤ b then b / 2 else bw
/-- Ticks of a stage. -/
def stageTicks (b : Nat) : Nat := cdiv 2000000 b

/-- The measured rate lies outside the range of R193. -/
def offRange (nom range mhz : Nat) : Bool :=
  let d := ((mhz : Int) - 1000 * nom).natAbs
  let lim := match range with | 0 => nom | 1 => 10 * nom | _ => 125 * nom
  decide (lim < d ∨ mhz < 8000000 ∨ 216000000 < mhz)

/-- The input of a tracked group is absent (R194). -/
def State.grpAbsent (s : State) (g : Nat) : Bool :=
  let i := s.rd SRCB.GRP_SRC_INDEX g
  match s.rd SRCB.GRP_SRC_KIND g with
  | 1 => let st := s.rd STRX.ST_STAT_STATE i; st != 2 && st != 5
  | 2 => !s.rb SAPG.PORT_STAT_CLK_OK (i % 4) (i / 4)
  | 3 => let at_ := ng s.loc.rxAt i
    decide (at_ = 0 ∨ 4 * gridSec ≤ (s.clockGrid 125000 + 1 - at_) * s.rd SRCB.GRP_NOM_HZ g)
  | _ => false

/-- GRP_PPM: deviation of a ratio from NOM, in 0.001 ppm (R189). -/
def grpPpm (ratio nom : Nat) : Int :=
  if nom = 0 then 0 else ((ratio : Int) * 96000 - (nom : Int) * 2 ^ 48) * 1000000000 / ((nom : Int) * 2 ^ 48)

/-! ## The ratio loop (R189, R192) -/

/-- A straight line of instants: count k lies at (a + k·b) / den, in grid steps on media time. -/
structure SrcLine where
  a : Int
  b : Nat
  den : Nat

def State.loopOf (s : State) (g : Nat) : List (Int × Int × Nat) := tget (fun _ => []) s.src.loop g
def State.grpRatio (s : State) (g : Nat) : Nat := s.rd64 SRCB.GRP_RATIO_HI SRCB.GRP_RATIO_LO g
/-- The line of a part of the model: x̂ at a count, and the ratio. -/
def partLine (q : Int × Int × Nat) : SrcLine :=
  let b : Nat := 125000 * 2 ^ 80
  { a := q.2.1 * q.2.2 - q.1 * b, b := b, den := q.2.2 * 2 ^ 32 }
/-- The first that satisfies p, or else the oldest. -/
def newestOr (p : Int × Int × Nat → Bool) (l : List (Int × Int × Nat)) : Int × Int × Nat :=
  match l.find? p with | some q => q | none => l.getLastD (0, 0, 0)
/-- The line on which a count lies, and the line at an instant in grid steps. -/
def State.loopFor (s : State) (g : Nat) (k : Int) : SrcLine := partLine (newestOr (fun q => decide (q.1 ≤ k)) (s.loopOf g))
def State.loopAt (s : State) (g : Nat) (t : Int) : SrcLine := partLine (newestOr (fun q => decide (q.2.1 ≤ t * 2 ^ 32)) (s.loopOf g))
/-- The count whose modelled instant lies nearest to an instant. -/
def State.loopNear (s : State) (g : Nat) (t : Int) : Int :=
  let c := s.loopAt g t
  (2 * (t * c.den - c.a) + c.b) / (2 * (c.b : Int))
/-- The model starts anew from a count at an instant, in 2^−32 grid steps, at a ratio. -/
def loopStart (g : Nat) (k x : Int) (ratio : Nat) (s : State) : State :=
  s.onSrc (fun c => { c with
    loop := tset (fun _ => []) c.loop g [(k, x, ratio)], meas := os c.meas g none, prev := os c.prev g none
    errs := tset (fun _ => []) c.errs g [], broke := bs c.broke g true })
/-- An instant of the group's clock is measured against a count (R189): the tracking error in 1/4096 input period. The first instant starts
the model at NOM. -/
def measure (g : Nat) (k t : Int) (s : State) : State :=
  let s := if s.loopOf g = [] then loopStart g k (t * 2 ^ 32) (s.grpRatio g) s else s
  let c := s.loopFor g k
  let e := ((t * c.den - (c.a + k * c.b)) * 4096) / (c.b : Int)
  s.onSrc (fun q => { q with
    meas := os q.meas g (some (k, t)), errs := tset (fun _ => []) q.errs g (tget (fun _ => []) q.errs g ++ [e]) })
/-- A frame-start edge of a port or a preamble of a receiver: the count after the last, or in HOLD the one that the held ratio gives. -/
def measureEdge (g : Nat) (t : Int) (s : State) : State :=
  let k := match og s.src.meas g with
    | some m => if s.grpState g = gsHOLD then s.loopNear g t else m.1 + 1
    | none => if s.loopOf g = [] then 0 else s.loopNear g t
  measure g k t s
/-- The count of an edge that has been measured, or for a port that shares its group the count nearest to it. -/
def State.edgeCount (s : State) (g : Nat) (t : Int) : Int :=
  match og s.src.meas g with
  | some m => if m.2 = t then m.1 else s.loopNear g t
  | none => s.loopNear g t

/-- Presentation lies L samples after the modelled instant for a stream, and at it for a port. -/
def State.grpLofs (s : State) (g : Nat) : Nat :=
  if s.rd SRCB.GRP_SRC_KIND g = 1 then s.rd STRX.LOFS_L (s.rd SRCB.GRP_SRC_INDEX g) else 0
/-- Enter LOCKED at the boundary that begins the present sample, with φ and the fade-in of R192. -/
def grpLock (g : Nat) (s : State) : State :=
  let l := s.grpLofs g
  let t : Int := 125000 * ((s.tim.sample : Int) - l)
  let c := s.loopAt g t
  let j := cdivI (t * c.den - c.a) c.b
  let x := (c.a + j * c.b) * 2 ^ 32 / ((c.den : Int) * 125000)
  let phi := ((-x) % 2 ^ 32).toNat
  grpSet g gsLOCKED ((s.wr SRCB.GRP_PHI_PHI (phi / 65536) g).onSrc (fun c => { c with
    phi := ns c.phi g phi, fadeAt := ns c.fadeAt g ((x + phi) / 2 ^ 32 + l + 48).toNat, dropAt := ns c.dropAt g 0 }))

/-- The rate measured over the tick that ends, in mHz, if an instant was measured in it. -/
def State.measRate (s : State) (g : Nat) : Option Nat :=
  match og s.src.prev g, og s.src.meas g with
  | some a, some b => if b.2 ≤ a.2 then none else some ((b.1 - a.1) * gridSec * 1000 / (b.2 - a.2)).toNat
  | _, _ => none
/-- The loop at the end of a tick: it takes the errors of the tick, and from the next count on the model advances at the ratio that follows;
frozen, it goes on as it is (R189, R194). -/
def loopTick (g bw : Nat) (frozen : Bool) (s : State) : State :=
  let es := tget (fun _ => []) s.src.errs g
  let l := s.loopOf g
  let s := s.onSrc (fun c => { c with errs := tset (fun _ => []) c.errs g [], prev := os c.prev g (og c.meas g) })
  if frozen ∨ es = [] ∨ l = [] then s
  else
    let r := Config.loopRatio bw (s.grpRatio g) es % 2 ^ 64
    let t := (s.grid 0 : Int)
    let c := s.loopAt g t
    let k := cdivI (t * c.den - c.a) c.b
    let x := (c.a + k * c.b) * 2 ^ 32 / (c.den : Int)
    let s := (s.wr64 SRCB.GRP_RATIO_HI SRCB.GRP_RATIO_LO r g).wrS SRCB.GRP_PPM_PPM (grpPpm r (s.rd SRCB.GRP_NOM_HZ g)) g
    s.onSrc (fun c => { c with loop := tset (fun _ => []) c.loop g ((k, x, r) :: l.take 159) })

/-- An ASRC_RELOCK acts on the group at the present boundary: its slot fires there, or its RELOCK bit waits for it (R195, R196). -/
def State.relockDue (s : State) (g : Nat) : Bool :=
  s.src.relockPend.contains g || slots.any (fun i => (s.slotState i == slARMED || s.slotState i == slFROZEN) &&
    s.rd COLL.SLOT_CTL_ACTION i == 7 && s.rw COLL.SLOT_PARAM0 i % 256 == g && ng s.tim.slotN i == s.tim.sample)
/-- The first sample that needs an input sample after the last one measured (R194). -/
def State.missFrom (s : State) (g : Nat) : Nat :=
  match og s.src.meas g with
  | some m =>
    let c := s.loopFor g m.1
    let x := (c.a + m.1 * c.b) * 2 ^ 32 / ((c.den : Int) * 125000)
    ((x + ng s.src.phi g) / 2 ^ 32 + 49).toNat
  | none => 0

/-- One tracked group at a tick boundary: of several events only one acts (R190, R196). -/
def grpTick (s : State) (g : Nat) : State :=
  let st := s.grpState g
  let nom := s.rd SRCB.GRP_NOM_HZ g
  let used := !(s.grpUsers g).isEmpty
  let s := s.onSrc (fun c => { c with act := os c.act g (some (8 * s.rd SRCB.GRP_CFG_RANGE g + s.rd SRCB.GRP_CFG_BW g)) })
  let es := tget (fun _ => []) s.src.errs g
  let worst := es.foldl (fun a e => max a e.natAbs) 0
  let last := (es.getLastD 0).natAbs
  let rate := s.measRate g
  let away : Bool := match rate with | some m => offRange nom (s.grpRange g) m | none => false
  let b := ng s.src.stage g
  let s := loopTick g (if st = gsACQ ∧ b ≠ 0 then b else s.grpBW g) (st != gsACQ && st != gsLOCKED) s
  let s := if st = gsLOCKED then s.wr SRCB.GRP_ERR_MAX_ERR (min 0xFFFF (max (s.rd SRCB.GRP_ERR_MAX_ERR g) worst)) g else s
  let at_ := s.clock + 1
  let free := !s.relockDue g
  if used = false then
    let s := grpSet g gsIDLE (s.onSrc (fun c => { c with
      loop := tset (fun _ => []) c.loop g [], meas := os c.meas g none, prev := os c.prev g none }))
    let s := (s.wr SRCB.GRP_STAT_TYPE 0 g).wr SRCB.GRP_STAT_OWNER 0 g
    ((s.ww SRCB.GRP_SRC 0 g).wr SRCB.GRP_NOM_HZ 0 g).wr SRCB.POOL_GRP_FREE (s.rd SRCB.POOL_GRP_FREE + 1)
  else if st = gsIDLE then fullAcq g at_ s
  else if (st = gsACQ ∨ st = gsLOCKED) ∧ away then grpSet g gsFAULT (s.onSrc (fun c => { c with relock := bs c.relock g false }))
  else if bg s.src.relock g && st != gsFAULT then fullAcq g at_ (s.cnt SRCB.GRP_EVTS_RELOCKS g)
  else if st = gsLOCKED ∧ 8192 ≤ worst ∧ free then
    let s := s.onSrc (fun c => { c with meas := c.meas.map (fun e =>
      if e.1 = g then (e.1, e.2.map (fun m => (if s.rd SRCB.GRP_SRC_KIND g = 1 then m.1 else s.loopNear g m.2, m.2))) else e) })
    (lockAcq g (s.cnt SRCB.GRP_EVTS_SLIPS g)).raise 0x10 3 (s.grpFns g)
  else if (st = gsACQ ∨ st = gsLOCKED) ∧ s.grpAbsent g ∧ free then
    let port := s.rd SRCB.GRP_SRC_KIND g != 1
    grpSet g gsHOLD (s.onSrc (fun c => { c with
      holdAt := ns c.holdAt g at_, broke := bs c.broke g false
      dropAt := ns c.dropAt g (if port then max s.tim.sample (s.missFrom g) + 1 else 0) }))
  else if st = gsHOLD ∧ s.grpAbsent g = false then
    let short := decide (at_ < ng s.src.holdAt g + 5760000)
    let cont := !bg s.src.broke g && decide (last ≤ 2048)
    if short && cont then grpLock g s else if short then lockAcq g s else fullAcq g at_ s
  else if st = gsFAULT then
    let n := if away ∨ rate.isNone then 0 else ng s.src.inRange g + 1
    if 32 ≤ n then fullAcq g at_ s else s.onSrc (fun c => { c with inRange := ns c.inRange g n })
  else if st = gsACQ ∧ b = 0 then
    let n := if last < 1024 then ng s.src.good g + 1 else 0
    if 32 ≤ n then grpLock g s else s.onSrc (fun c => { c with good := ns c.good g n })
  else s

/-- Ratio groups at a tick boundary. -/
def srcTick (s : State) : State :=
  let s := s.each [0, 1, 2] (fun s g => grpSet g (if (s.grpUsers g).isEmpty then gsIDLE else gsLOCKED) s)
  s.each ((List.range 253).map (· + 3)) (fun s g => if s.grpType g = 0 then s else grpTick s g)

/-- An ASRC_RELOCK at the present sample (R195). Fired on a tick boundary, acquisition starts there. -/
def relockNow (g : Nat) (s : State) : State :=
  if g < 3 ∨ s.grpState g = gsIDLE ∨ s.grpState g = gsFAULT then s
  else if s.tim.sample % 32 = 0 then fullAcq g s.clock (s.cnt SRCB.GRP_EVTS_RELOCKS g)
  else s.onSrc (fun c => { c with relock := bs c.relock g true })

/-! ## What a converter delivers (R180–R182, R187, R192) -/

/-- A position in the samples of a source, as a fraction. -/
structure Pos where
  num : Int
  den : Nat

/-- d of R177 and R178, without φ. -/
def convDelay (path : Nat) : Nat := if path = paUP ∨ path = paDOWN then 16 else if path = paFIXED ∨ path = paTRACK then 48 else 0
/-- q of a fixed group (R187). -/
def fixedQ (g : Nat) : Nat := 147 * 2 ^ g
/-- The position that internal sample n reads on a source with a path on media time and link offset L (R182, R187). -/
def srcPos (path g l : Nat) (n : Nat) : Pos :=
  let t : Int := (n : Int) - convDelay path - l
  if path = paUP then ⟨t, 2⟩ else if path = paDOWN then ⟨2 * t, 1⟩ else if path = paFIXED then ⟨t * fixedQ g, 320⟩ else ⟨t, 1⟩
/-- The position in the internal signal that sink sample k reads, whose instant is k/f (R180). -/
def sinkPos (path g : Nat) (k : Nat) : Pos :=
  if path = paDOWN then ⟨2 * (k : Int) - 16, 1⟩ else if path = paUP then ⟨(k : Int) - 32, 2⟩
  else if path = paFIXED then ⟨320 * (k : Int) - 48 * fixedQ g, fixedQ g⟩ else ⟨k, 1⟩
/-- The position that internal sample n reads on a tracked source: its sample j stands at x̂ + 48 + φ, for a stream L later. -/
def State.trackIn (s : State) (g n : Nat) : Pos :=
  let t : Int := (((n : Int) - 48 - s.grpLofs g) * 2 ^ 32 - ng s.src.phi g) * 125000
  let c := s.loopAt g (t / 2 ^ 32)
  ⟨t * c.den - c.a * 2 ^ 32, c.b * 2 ^ 32⟩
/-- The position in the internal signal that sink sample j of a tracked group reads: x̂ − 48 − φ. -/
def State.trackOut (s : State) (g : Nat) (j : Int) : Pos :=
  let c := s.loopFor g j
  let d := c.den * 125000
  ⟨(c.a + j * c.b) * 2 ^ 32 - (48 * 2 ^ 32 + ng s.src.phi g : Nat) * (d : Int), d * 2 ^ 32⟩

/-- Half the span of source samples that a converter weighs: those within its delay of the position. -/
def State.convSpan (s : State) (path g : Nat) (out : Bool) : Nat :=
  if out then convDelay path
  else if path = paUP then 8 else if path = paDOWN then 32
  else if path = paFIXED then cdiv (48 * fixedQ g) 320 else cdiv (48 * s.grpRatio g) (2 ^ 48)
/-- A number over a denominator, rounded to the nearest integer, ties away from zero (R181). -/
def nearestI (n : Int) (d : Nat) : Int :=
  let m := (2 * n.natAbs + d) / (2 * d)
  if n < 0 then -(m : Int) else m
/-- The sample of a source at an index, 0 where it has none. -/
def sampleAt (l : List (Int × Int)) (i : Int) : Int := match l.find? (fun e => e.1 == i) with | some e => e.2 | none => 0
/-- The filtered value of a source at a position: exact products and sum, rounded once (R181). -/
def convAt (path : Nat) (out : Bool) (ratio span : Nat) (p : Pos) (l : List (Int × Int)) : Int :=
  let i := p.num / p.den
  let ph := (p.num % p.den).toNat
  let sum := (List.range (2 * span + 1)).foldl (fun a (j : Nat) =>
    let d : Int := (j : Int) - span
    a + (Config.coeff path (b2n out) ratio ph p.den d).toInt * sampleAt l (i + d)) 0
  nearestI sum (2 ^ Config.coeffFrac.val)
/-- A converter channel keeps a sample of its source. -/
def convKeep (u ch : Nat) (i v : Int) (s : State) : State :=
  let k := 64 * u + ch
  s.onSrc (fun c => { c with mem := tset (fun _ => []) c.mem k (((i, v) :: tget (fun _ => []) c.mem k).take 256) })

/-- The earliest frozen slot of an action on an object, as the sample it fires at: what a fade before it looks ahead to. -/
def State.frozenAt (s : State) (action p0 : Nat) : Option Nat :=
  (slots.filter (fun i => s.slotState i == slFROZEN && s.rd COLL.SLOT_CTL_ACTION i == action &&
    (if action = 4 then s.rw COLL.SLOT_PARAM0 i % 2048 else s.rw COLL.SLOT_PARAM0 i % 256) == p0)).foldl
    (fun (a : Option Nat) i => let n := ng s.tim.slotN i; match a with | some b => some (min b n) | none => some n) none

/-- A port's fade in HOLD has begun (R194). -/
def State.grpDrops (s : State) (g : Nat) : Bool := let d := ng s.src.dropAt g; decide (d ≠ 0 ∧ d ≤ s.tim.sample + 1)
/-- The gain that a group's state puts on a converted value (R190, R192, R194, R195). -/
def grpGain (g : Nat) (v : Int) (s : State) : Int :=
  let now := s.tim.sample
  if g < 3 then v
  else
    let st := s.grpState g
    if (st ≠ gsLOCKED ∧ st ≠ gsHOLD) ∨ bg s.src.relock g then 0
    else
      let a := ng s.src.fadeAt g
      let v := if now < a then 0 else if now < a + 47 then v * ((now - a + 1 : Nat) : Int) / 48 else v
      let d := ng s.src.dropAt g
      let v := if s.grpDrops g = false then v else if d + 47 ≤ now + 1 then 0 else v * ((47 - (now + 1 - d) : Nat) : Int) / 48
      faded (fadeBefore (s.frozenAt 7 g) now) v

/-- Saturation of a converted value, counted in the group or with the synchronous converters (R181, R202). -/
def convSat (p g : Nat) (v : Int) (s : State) : Int × State :=
  let y := satI 32 v
  if y = v then (v, s)
  else if p = paFIXED ∨ p = paTRACK then
    let s' := s.cnt SRCB.GRP_CLIPS_COUNT g
    (y, if s.rd SRCB.GRP_CLIPS_COUNT g = 0 then s'.raise 0x10 4 (s.grpFns g) else s')
  else
    let s' := s.cnt SRCB.SYNC_CLIP_COUNT
    (y, if s.rd SRCB.SYNC_CLIP_COUNT = 0 then s'.raise 0x10 4 fnsPF0 else s')

/-- One converter channel delivers the value at a position of its source; a port in HOLD fades from the value it converted last. -/
def convert (u ch : Nat) (out : Bool) (p : Pos) (s : State) : Int × State :=
  let path := s.pathOf u
  let g := s.groupOf u
  let k := 64 * u + ch
  let ratio := if path = paTRACK then s.grpRatio g else if path = paFIXED then fixedQ g else 0
  let r := convSat path g (convAt path out ratio (s.convSpan path g out) p (tget (fun _ => []) s.src.mem k)) s
  if path ≠ paTRACK then r
  else
    let v := if s.grpDrops g then ig s.src.last k else r.1
    (grpGain g v r.2, r.2.onSrc (fun c => { c with last := is c.last k v }))

/-! ## The rows -/

/-- ASRC_STAGE_END (R191): the stage of an acquiring group has lasted its ticks. -/
def execAsrcStageEnd (g : Nat) (s : State) : Host.Outcome State Fault Refusal :=
  .next (awake s (let b := ng s.src.stage g
    if 3 ≤ g ∧ g < 256 ∧ s.grpState g = gsACQ ∧ b ≠ 0 ∧ ng s.src.stageAt g + 32 * stageTicks b ≤ s.clock then
      s.onSrc (fun c => { c with stage := ns c.stage g (nextStage b (s.grpBW g)), stageAt := ns c.stageAt g (ng c.stageAt g + 32 * stageTicks b), good := ns c.good g 0 })
    else s))

/-- A tenant reaches only the groups it owns (R186). -/
def grpOwn (g fn : Nat) (s : State) : Option Nat := if may fn (s.grpOwner g) then none else some stNOT_OWNER

/-- Every port of an I²S group is disabled (R185). -/
def State.i2sIdle (s : State) (g : Nat) : Bool := (List.range 4).all (fun p => !s.rb SAPG.PORT_CTL_EN p g)
/-- The bits of a new I2S_BIND change only groups whose ports are all disabled. -/
def bindOk (w : Nat) (s : State) : Bool :=
  (List.range 4).all (fun g => bit w g == bit (s.rw SRCB.I2S_BIND) g || s.i2sIdle g)

/-- A write of I2S_BIND: at a time at which it may not be written it is ignored, and flagged (R185). -/
def bindWrite (w : Nat) (s : State) : State :=
  if bindOk w s then s.putMirrored 0x10 0 0x104 0xF w else s.wb SRCB.GLOBAL_STAT_BIND_IGN true

/-- The effect of the command. -/
def srcGroupBody (g : Nat) (bw : Nat) (range : Nat) (bind : Option Nat) (fn : Nat) (s : State) : Res :=
    if g < 3 ∨ 255 < g ∨ 5 < bw ∨ 2 < range then no stBAD_FIELD
    else match bind with
      | some w =>
        if fn ≠ 0 then no stNOT_OWNER
        else if 15 < w then no stBAD_FIELD
        else done (bindWrite w (s.ww SRCB.GRP_CFG (256 * bw + 16 * range) g))
      | none => done (s.ww SRCB.GRP_CFG (256 * bw + 16 * range) g)
def execSrcGroupConfig (e : Env) (g bw range : Nat) (bind : Option Nat) (s : State) : Host.Outcome State Fault Refusal :=
  .next (runCmd { mirrored := true, code := 0x0660 } e (grpOwn g) (srcGroupBody g bw range bind) s (some (.srcGroupConfig e g bw range bind)))
/-- The status words of a group; zero where the caller may not read it. -/
def grpWords (fn : Nat) (s : State) (g : Nat) : List Nat :=
  if g < 3 ∨ may fn (s.grpOwner g) then
    [s.rw SRCB.GRP_STAT g, s.rw SRCB.GRP_SRC g, s.rw SRCB.GRP_RATIO_HI g, s.rw SRCB.GRP_RATIO_LO g, s.rw SRCB.GRP_PPM g, s.rw SRCB.GRP_PHI g,
     s.rw SRCB.GRP_ERR_MAX g, s.rw SRCB.GRP_EVTS g, s.rw SRCB.GRP_CLIPS g, s.rw SRCB.GRP_FAULTS g]
  else List.replicate 10 0
def execSrcStatus (e : Env) (gs : List Nat) (s : State) : Host.Outcome State Fault Refusal :=
  .next (runCmd { read := true } e anyone (fun fn s =>
    if gs = [] ∨ 64 < gs.length ∨ gs.any (255 < ·) then no stBAD_FIELD else retL s 10 (gs.flatMap (grpWords fn s))) s)
/-- SRC_RELOCK (R203): arms a slot. -/
def execSrcRelock (e : Env) (g : Nat) (a : SlotArgs) (s : State) : Host.Outcome State Fault Refusal :=
  .next (runCmd { mirrored := true, code := 0x0662, modes := armModes } e (armOwn 7 g)
    (fun fn s => if 255 < g ∨ 7 < a.tbsel then no stBAD_FIELD else armNew fn { a with action := 7, p0 := g, p1 := 0 } s) s)

/-- The owner of a user's stream or port; ports belong to PF0. -/
def State.userOwner (s : State) (kind i : Nat) : Nat := if kind = 0 then s.rxOwner i else if kind = 1 then s.txOwner i else 0
/-- PATH_STAT as a caller sees it for one user (R200). -/
def pathWord (fn : Nat) (s : State) (q : Nat × Nat) : Nat :=
  if may fn (s.userOwner q.1 q.2) then s.pathOf (ukey q.1 q.2) * 2 ^ 28 + s.groupOf (ukey q.1 q.2) else 0
def execSrcPathQuery (e : Env) (keys : List (Nat × Nat)) (s : State) : Host.Outcome State Fault Refusal :=
  .next (runCmd { read := true } e anyone (fun fn s =>
    if keys = [] ∨ 64 < keys.length ∨ keys.any (fun k => 5 < k.1 || 1023 < k.2) then no stBAD_FIELD
    else retL s 1 (keys.map (pathWord fn s))) s)

/-- RELOCK: a write of GRP_CFG with bit 31, for the caller's group (R195, R200, R201). -/
def regRelock (fn w : Nat) (s : State) : State :=
  let g := s.rd SRCB.GRP_SEL_GROUP fn
    if g < 3 ∨ may (actsAs fn) (s.grpOwner g) = false then s
    else (s.writeRW SRCB.GRP_CFG w g).onSrc (fun c => { c with relockPend := c.relockPend ++ [g] })
def execRelock (fn w : Nat) (s : State) : Host.Outcome State Fault Refusal := .next (awake s (regRelock fn w s))
/-- I2S_BIND_WRITE (R185). -/
def regI2sBindWrite (fn w : Nat) (s : State) : State :=
  if isPF0 fn then bindWrite w s else s
def execI2sBindWrite (fn w : Nat) (s : State) : Host.Outcome State Fault Refusal := .next (awake s (actNoted 0x10 s (regI2sBindWrite fn w s)))

end Sys2Proof.Machine
end

