-- ==== Sys2Proof/Machine/Rx.lean ====
section
/-!
DEFINITION. Receiving streams (R141–R176): the stream table and its commits, the judging of packets, playout with concealment,
stream states and events, descriptions, announcements and group memberships.
-/
namespace Sys2Proof.Machine

/-! ## Entries -/

/-- The objects that hold the staging registers, and a command's entry while it is judged. -/
def stagObj : Nat := 0x1000
def workObj : Nat := 0x1001
/-- The words of an entry: offsets 0x050 to 0x0B0. -/
def rxEntry : List Nat := (List.range 25).map (fun i => 0x050 + 4 * i)
def entryCopy (pg : Nat) (l : List Nat) (src dst : Nat) (s : State) : State := s.each l (fun s o => s.pw pg dst o (s.gw pg src o))
/-- Return an entry's words to their reset values. -/
def entryReset (pg : Nat) (l : List Nat) (obj : Nat) (s : State) : State :=
  s.each l (fun s o => s.pw pg obj o (resetWord (rkey pg obj o)).toNat)

/-- Samples per packet of a packet-time code at a rate code, 0 where R145 has a dash. -/
def pktPs (pkt rate : Nat) : Nat :=
  let b := [3, 6, 12, 24, 32, 96, 384].getD pkt 0
  match rate / 2 with
  | 0 => if pkt = 0 then 0 else b / 2
  | 1 => b
  | _ => 2 * b
/-- Bytes of a sample in a format (R146). -/
def fmtBytes (fmt : Nat) : Nat := fmt + 2

def State.rxHz (s : State) (i : Nat) : Nat := rateHz (s.rd STRX.CFG_RATE i)
def State.rxCh (s : State) (i : Nat) : Nat := s.rd STRX.CFG_CH i + 1
def State.rxPs (s : State) (i : Nat) : Nat := pktPs (s.rd STRX.CFG_PKT i) (s.rd STRX.CFG_RATE i)
def State.rxState (s : State) (i : Nat) : Nat := s.rd STRX.ST_STAT_STATE i

/-- A leg of an entry: enabled, port, IPv6, destination, UDP port, source (R141). -/
structure Leg where
  en : Bool
  port : Nat
  v6 : Bool
  dst : Nat
  udp : Nat
  src : Nat

/-- An address held in four words: IPv4 in the first, IPv6 from the first word down. -/
def addrOf (s : State) (pg obj off : Nat) (v6 : Bool) : Nat :=
  if v6 then ((s.gw pg obj off * 2 ^ 32 + s.gw pg obj (off + 4)) * 2 ^ 32 + s.gw pg obj (off + 8)) * 2 ^ 32 + s.gw pg obj (off + 12)
  else s.gw pg obj off
/-- Leg 0 A or 1 B of the entry in an object. -/
def State.rxLeg (s : State) (obj leg : Nat) : Leg :=
  let w := s.gw 0x0E obj (0x06C + 4 * leg)
  let v6 := bit w 29
  { en := bit w 31, port := 2 * leg + b2n (bit w 30), v6 := v6, udp := w % 65536
    dst := addrOf s 0x0E obj (0x074 + 32 * leg) v6, src := addrOf s 0x0E obj (0x084 + 32 * leg) v6 }

/-- Every field of the entry in an object is in its range (R141, R145, R173). -/
def rxFieldsOk (s : State) (o : Nat) : Bool :=
  s.rd STRX.CFG_RATE o ≤ 5 && s.rd STRX.CFG_FMT o ≤ 2 && s.rd STRX.CH_BASE_BASE o + s.rxCh o ≤ 8192 &&
    s.rd STRX.DEPTH_DEPTH o % 32 == 0 && 64 ≤ s.rd STRX.DEPTH_DEPTH o && s.rd STRX.DEPTH_DEPTH o ≤ 4096 &&
    1 ≤ s.rd STRX.TIMEOUT_MS o && s.rd STRX.TIMEOUT_MS o ≤ 10000 && s.rxPs o != 0

/-- Two entries' legs name one tuple (R142). -/
def sameTuple (a b : Leg) : Bool := a.en && b.en && a.port == b.port && a.udp == b.udp && a.v6 == b.v6 && a.dst == b.dst
def sharesTuple (s : State) (o j : Nat) : Bool := [0, 1].any (fun l => sameTuple (s.rxLeg o l) (s.rxLeg j l))

/-- The relations that R142 asks of the entry in object `o` for stream `i`. -/
def rxRelOk (s : State) (i o : Nat) : Bool :=
  let base := s.rd STRX.CH_BASE_BASE o
  let ch := s.rxCh o
  let ps := s.rxPs o
  let f := s.rxHz o
  let l := s.rd STRX.LOFS_L o
  let others := s.rx.on.filter (· != i)
  let entries := (s.rx.used.filter (fun e => e.2 && e.1 != i)).map (·.1)
  let sharing := entries.filter (sharesTuple s o)
  others.all (fun j => let b := s.rd STRX.CH_BASE_BASE j; base + ch ≤ b || b + s.rxCh j ≤ base) &&
    ((s.rxLeg o 0).en || (s.rxLeg o 1).en) &&
    [0, 1].all (fun k => let g := s.rxLeg o k
      !g.en || ps * ch * fmtBytes (s.rd STRX.CFG_FMT o) + (if g.v6 then 82 else 62) ≤ s.rd NETP.MAC_CFG_MAX_LEN (i := g.port)) &&
    ps * 96000 ≤ (l - 1) * f && 1 ≤ l && l * f ≤ (s.rd STRX.DEPTH_DEPTH o - ps) * 96000 &&
    (sharing.isEmpty || (s.rb STRX.CFG_SSRC_FIX o && sharing.all (fun j => s.rb STRX.CFG_SSRC_FIX j && s.rw STRX.SSRC j != s.rw STRX.SSRC o)))

/-- The bits of an entry that may change while the stream is not OFF (R168), besides EN. -/
def rxFreeMask (off : Nat) : Nat :=
  match off with
  | 0x050 => 2 ^ 31 + 2 ^ 30
  | 0x060 => 0xFFFFFFFF
  | 0x06C | 0x070 => 2 ^ 31
  | 0x0B4 | 0x0B8 => 0xFFFFFFFF
  | _ => 0
def rxSettled (s : State) (i o : Nat) : Bool :=
  rxEntry.all (fun off => (s.gw 0x0E i off ^^^ s.gw 0x0E o off) &&& (0xFFFFFFFF ^^^ rxFreeMask off) == 0)

/-- The playout runs in use: base and size (R159). -/
def State.rxRuns (s : State) : List (Nat × Nat) :=
  s.rx.on.map (fun j => (s.rd STRX.BUF_BASE_SLOT j, s.rxCh j * s.rd STRX.DEPTH_DEPTH j))
/-- The lowest base at which a run of a size is free. -/
def freeRun (runs : List (Nat × Nat)) (size : Nat) : Option Nat :=
  ((0 :: runs.map (fun r => r.1 + r.2)).filter (fun b =>
    decide (b + size ≤ 4194304) && runs.all (fun r => decide (b + size ≤ r.1) || decide (r.1 + r.2 ≤ b)))).foldl
    (fun (a : Option Nat) b => match a with | some x => some (min x b) | none => some b) none

/-! ## Events and states (R164, R174) -/

/-- Write a stream event. -/
def rxEvent (code i : Nat) (s : State) : State :=
  let fns := fnsOwn (s.rxOwner i)
  if 256 ≤ s.rx.evt.length then
    if s.rb STRX.EVT_STAT_OVF then s else (s.wb STRX.EVT_STAT_OVF true).raise 0x0E 1 fns
  else
    let s := s.onRx (fun r => { r with evt := r.evt ++ [(r.evtSeq, code, i)], evtSeq := (r.evtSeq + 1) % 128 })
    let s := s.wr STRX.EVT_STAT_LEVEL s.rx.evt.length
    if s.rx.evt.length = s.rd STRX.EVT_STAT_THRESH then s.raise 0x0E 0 fns else s

def stOFF : Nat := 0
def stWAIT : Nat := 1
def stACTIVE : Nat := 2
def stGAP : Nat := 3
def stLOST : Nat := 4
def stRESYNC : Nat := 5

/-- A stream changes state (R157, R164). -/
def rxSet (i st : Nat) (s : State) : State :=
  if s.rxState i = st then s
  else
    let s := s.wr STRX.ST_STAT_STATE st i
    let s := if st = stGAP then s.cntr STRX.GAPS i else if st = stLOST then s.cntr STRX.LOSTS i else s
    let s := if st = stLOST ∧ s.rb STRX.CFG_SSRC_FIX i = false then (s.wb STRX.ST_STAT_SSRC_VALID false i).ww STRX.SSRC_SEEN 0 i else s
    let s := if st = stWAIT ∨ st = stGAP ∨ st = stLOST then s.onRx (fun r => { r with strict := bs r.strict i false }) else s
    rxEvent 1 i s

def planeOkFld (p : Nat) : Fld := if p = 0 then STRX.ST_STAT_PLANE_A_OK else STRX.ST_STAT_PLANE_B_OK
/-- Set the status of a plane, with its event (R170). -/
def planeSet (i p : Nat) (v : Bool) (s : State) : State :=
  if s.rb (planeOkFld p) i = v then s else rxEvent 3 i (s.wb (planeOkFld p) v i)

/-! ## Committing (R142, R143, R159, R168, R172, R179) -/

def dropKeys (i : Nat) (t : Tbl α) : Tbl α := t.filter (fun e => e.1 / 2 ^ 64 != i)

/-- Forget what a stream has received. -/
def rxForget (i : Nat) (s : State) : State :=
  s.onRx (fun r => { r with
    buf := dropKeys i r.buf, first := dropKeys i r.first, m := ns r.m i 0, h := tset (fun _ => []) r.h i []
    timed := bs r.timed i false, corr := is r.corr i 0, anchor := os r.anchor i none, realigned := bs r.realigned i false
    arrived := r.arrived.filter (fun a => a.1 != i)
    okAt := os (os r.okAt (2 * i) none) (2 * i + 1) none, seq := os (os r.seq (2 * i) none) (2 * i + 1) none
    cur := tset (fun _ => []) r.cur i [], next := ns r.next i 0, hi := ns r.hi i 0, res := ns r.res i 0 })

/-- What the stream asks of the converters (R177, R183). -/
def rxAsk (s : State) (i o : Nat) : SrcAsk :=
  let rate := s.rd STRX.CFG_RATE o
  let tracked := s.rb STRX.CFG_TIMING o && !s.rb STRX.CFG_LOCK o
  let p := srcPath rate
  { path := if tracked then paTRACK else p.1, fixed := p.2, ch := s.rxCh o, join := none, type := 2, kind := 1, index := i,
    nom := rateHz rate }

/-- The pool registers follow the enabled streams (R173). -/
def rxPool (s : State) : State :=
  let used := (s.rxRuns.map (·.2)).foldl (· + ·) 0
  let ch := (s.rx.on.map s.rxCh).foldl (· + ·) 0
  ((s.wr STRX.POOL_FREE_SLOTS (4194304 - used)).wr STRX.CH_USED_CH ch).wr STRX.EN_COUNT_N s.rx.on.length

/-- Enable the entry that has been stored. -/
def rxEnable (i fn base : Nat) (s : State) : State :=
  let s := srcTake (ukey ukRX i) fn (rxAsk s i i) s
  let s := useTake fn qRXC (s.rxCh i) (useTake fn qRXS 1 s)
  let s := rxForget i (s.ww STRX.BUF_BASE base i)
  let fix := s.rb STRX.CFG_SSRC_FIX i
  let s := ((s.wb STRX.ST_STAT_SSRC_VALID fix i).ww STRX.SSRC_SEEN (if fix then s.rw STRX.SSRC i else 0) i).ww STRX.RTP_CORR 0 i
  rxSet i stWAIT (rxPool (s.onRx (fun r => { r with on := r.on.filter (· < i) ++ [i] ++ r.on.filter (i < ·) })))

/-- A stream's values leave its receive channels. -/
def rxBlank (i : Nat) (s : State) : State :=
  let b := s.rd STRX.CH_BASE_BASE i
  s.onRx (fun r => { r with val := r.val.filter (fun e => e.1 < b || b + s.rxCh i ≤ e.1) })

/-- Disable a stream: its run, converters and quotas are returned (R159, R164). -/
def rxDisable (i : Nat) (s : State) : State :=
  if s.rb STRX.CFG_EN i = false then s
  else
    let fn := s.rxOwner i
    let s := srcGive (ukey ukRX i) s
    let s := useGive fn qRXC (s.rxCh i) (useGive fn qRXS 1 s)
    let s := rxForget i (rxBlank i s)
    let s := (s.wb STRX.CFG_EN false i).wb STRX.ST_STAT_RUN false i
    let s := planeSet i 0 false (planeSet i 1 false s)
    let s := s.onRx (fun r => { r with on := r.on.filter (· != i) })
    rxSet i stOFF (rxPool ((s.wb STRX.ST_STAT_SSRC_VALID false i).ww STRX.SSRC_SEEN 0 i))

/-- The entry of an object becomes the stream's, with its owner. -/
def rxStore (owner i o : Nat) (s : State) : State :=
  ((entryCopy 0x0E (rxEntry.filter (fun x => x != 0x0B4 && x != 0x0B8)) o i s).ww STRX.OWNER owner i).onRx
    (fun r => { r with used := bs r.used i true })
/-- Commit the entry that stands in an object, for a function: the state after it, or the status it is refused with. -/
def rxCommit (fn i o : Nat) (s : State) : Except Nat State :=
  let new := s.rb STRX.CFG_EN o
  let old := s.rb STRX.CFG_EN i
  let created := bg s.rx.used i
  let owner := if created then s.rxOwner i else fn
  if 1023 < i then .error stBAD_FIELD
  else if created && !may fn (s.rxOwner i) then .error stNOT_OWNER
  else if (s.mode = mSAFE ∧ fn ≠ 0) ∨ s.mirrorStandby then .error stMODE_DENY
  else if rxFieldsOk s o = false ∨ rxRelOk s i o = false then .error stBAD_FIELD
  else if old ∧ rxSettled s i o = false then .error stBUSY
  else
    if old then
      if new then
        let s := rxStore owner i o s
        .ok (s.each [0, 1] (fun s p => if (s.rxLeg i p).en then s else planeSet i p false s))
      else .ok (rxStore owner i o (rxDisable i s))
    else if new = false then .ok (rxStore owner i o s)
    else
      let ch := s.rxCh o
      if s.quotaOk owner qRXS 1 = false ∨ s.quotaOk owner qRXC ch = false then .error stQUOTA
      else match srcRefusal owner (rxAsk s i o) s with
        | some st => .error st
        | none =>
          match freeRun s.rxRuns (ch * s.rd STRX.DEPTH_DEPTH o) with
          | none => .error stBUSY
          | some base => .ok (rxEnable i owner base (rxStore owner i o s))

/-- The registers of an entry that a command may write. -/
def rxCfgRegs : List Nat := rxEntry.filter (fun x => x != 0x0B4 && x != 0x0B8)
/-- Every write names a register of an entry and a word. -/
def entryWsOk (l : List Nat) (ws : List RegW) : Bool := ws.all (fun w => l.contains w.off && decide (w.val < 2 ^ 32))
/-- Put a command's fields over an entry in the work object. -/
def entryStage (pg : Nat) (l : List Nat) (from_ : Option Nat) (ws : List RegW) (s : State) : State :=
  let s := match from_ with | some i => entryCopy pg l i workObj s | none => entryReset pg l workObj s
  s.each ws (fun s w => s.pw pg workObj w.off w.val)
/-- A command's commit: its outcome, the work object left clear. -/
def rxCommitRes (fn i : Nat) (from_ : Option Nat) (ws : List RegW) (after : State → State) (s : State) : Res :=
  match rxCommit fn i workObj (entryStage 0x0E rxEntry from_ ws s) with
  | .error st => no st
  | .ok s' => .ok (after (entryReset 0x0E rxEntry workObj s')) i [i] 0 stOK

/-- A commit that waits in the registers is carried out at a tick boundary, if the processor runs (R172, R175). -/
def rxCommitTick (s : State) : State :=
  match s.rx.commit with
  | none => s
  | some (c, k) =>
    if s.fwUp = false ∨ s.tick < k then s
    else
      let fn := c / 1024
      let s := (s.onRx (fun r => { r with commit := none })).wb STRX.ENTRY_CMD_BUSY false
      let s := match rxCommit fn (c % 1024) stagObj s with
        | .error st => s.wr STRX.ENTRY_CMD_RESULT st
        | .ok s' => s'.wr STRX.ENTRY_CMD_RESULT stOK
      s.raise 0x0E 2 (fnsOwn fn)

/-! ## Timing (R151–R153, R165) -/

/-- The stream is timed by a tracked group of its own, whose modelled instants are its source instants (R153, R189). -/
def State.rxTracked (s : State) (i : Nat) : Bool := s.pathOf (ukey ukRX i) == paTRACK
/-- The line of source instants of a stream that no group tracks: by RTP timestamp, or from its anchor at its nominal rate. -/
def State.rxPlain (s : State) (i : Nat) : SrcLine :=
  match og s.rx.anchor i with
  | some (k, x) => { a := x * s.rxHz i - k * (gridSec * 2 ^ 32 : Nat), b := gridSec * 2 ^ 32, den := s.rxHz i * 2 ^ 32 }
  | none => { a := 0, b := gridSec, den := s.rxHz i }
/-- The line on which the source instant of a count lies, and the line at a source instant in grid steps. -/
def State.rxLine (s : State) (i : Nat) (k : Int) : SrcLine :=
  if s.rxTracked i then s.loopFor (s.groupOf (ukey ukRX i)) k else s.rxPlain i
def State.rxLineAt (s : State) (i : Nat) (t : Int) : SrcLine :=
  if s.rxTracked i then s.loopAt (s.groupOf (ukey ukRX i)) t else s.rxPlain i
/-- The stream has an anchor (R153). -/
def State.rxAnchored (s : State) (i : Nat) : Bool :=
  if s.rxTracked i then s.loopOf (s.groupOf (ukey ukRX i)) != [] else (og s.rx.anchor i).isSome

/-- The grid point of pres(k) (R152). -/
def presGrid (c : SrcLine) (l : Nat) (k : Int) : Int := cdivI (c.a + k * c.b) c.den + 125000 * l
/-- The first count whose presentation lies after grid point g. -/
def State.presAfter (s : State) (i : Nat) (g : Int) : Int :=
  let t := g - 125000 * s.rd STRX.LOFS_L i
  let c := s.rxLineAt i t
  (t * c.den - c.a) / c.b + 1
/-- src(k) lies in [g − L, g): the link-offset window (R165). -/
def inWindow (c : SrcLine) (l : Nat) (g k : Int) : Bool :=
  let x := c.a + k * c.b
  decide ((g - 125000 * l) * c.den ≤ x ∧ x < g * c.den)

/-- The count of a packet's first sample from its timestamp (R152). -/
def rtpCount (f o ts : Nat) (corr g : Int) : Int :=
  let now := g / 12 * f / 1000000000
  now + sgn 32 (uns 32 ((ts : Int) - o - (now - corr)))

/-! ## Judging a packet (R154–R158, R161, R162, R166) -/

/-- An RTP packet as its header reads (RFC 3550): none where the header is not whole; the payload is none where CSRC list,
extension or padding exceed the packet. -/
structure Rtp where
  ver : Nat
  pt : Nat
  seq : Nat
  ts : Nat
  ssrc : Nat
  payload : Option (List Byte)

def byteAt (l : List Byte) (i : Nat) : Nat := ((l[i]?).getD 0).toNat
/-- A number from n bytes, most significant first. -/
def beNum (l : List Byte) (i n : Nat) : Nat := (List.range n).foldl (fun a j => a * 256 + byteAt l (i + j)) 0

def rtpParse (l : List Byte) : Option Rtp :=
  if l.length < 12 then none
  else
    let b0 := byteAt l 0
    let h := 12 + 4 * (b0 % 16)
    let h := if bit b0 4 then h + 4 + 4 * beNum l (h + 2) 2 else h
    let pad := if bit b0 5 then byteAt l (l.length - 1) else 0
    let bad := decide (l.length < h + pad)
    some { ver := b0 / 64, pt := byteAt l 1 % 128, seq := beNum l 2 2, ts := beNum l 4 4, ssrc := beNum l 8 4
           payload := if bad then none else some ((l.drop h).take (l.length - h - pad)) }

/-- A stored sample of a format at a byte offset (R24, R147): audio in the high bits, an AM824 label in [7:0]. -/
def rxSample (fmt : Nat) (l : List Byte) (i : Nat) : Int :=
  match fmt with
  | 0 => sgn 16 (beNum l i 2) * 65536
  | 1 => sgn 24 (beNum l i 3) * 256
  | _ => sgn 24 (beNum l (i + 1) 3) * 256 + byteAt l i

def posKey (i : Nat) (k : Int) : Nat := i * 2 ^ 64 + k.toNat

/-- A counter of a stream, by plane where it has one for each. -/
def rxCnt (off i p : Nat) (s : State) : State := s.cntr ⟨0x0E, off + 4 * p⟩ i

/-- Realign a stream on a packet that arrived at g (R166). -/
def rxRealign (i : Nat) (k g : Int) (s : State) : State :=
  let f := s.rxHz i
  let k' := cdivI (g * f) gridSec - s.rxPs i
  let arrival := s.rb STRX.CFG_TIMING i
  let corr := ig s.rx.corr i + (k' - k)
  let count := bg s.rx.realigned i
  let x := k' * gridSec * 2 ^ 32 / f
  let s := s.onRx (fun r => { r with
    buf := dropKeys i r.buf, first := dropKeys i r.first, m := ns r.m i 0, corr := is r.corr i corr
    anchor := os r.anchor i (if arrival && !s.rxTracked i then some (k', x) else none), realigned := bs r.realigned i true, timed := bs r.timed i false })
  let gr := s.groupOf (ukey ukRX i)
  let s := if s.rxTracked i then loopStart gr k' x (s.grpRatio gr) s else s
  let s := if arrival then s else s.ww STRX.RTP_CORR (uns 32 corr) i
  if count then rxEvent 2 i (s.cntr STRX.DISCONT i) else s

/-- Write the positions of an accepted packet that are still unwritten. -/
def rxWrite (i : Nat) (k : Int) (n ch fmt : Nat) (pl : List Byte) (s : State) : State :=
  let b := fmtBytes fmt
  s.onRx (fun r => { r with
    buf := (List.range n).foldl (fun t (j : Nat) =>
      let key := posKey i (k + j)
      if (tget (fun _ => []) t key).isEmpty then
        tset (fun _ => []) t key ((List.range ch).map (fun c => rxSample fmt pl ((j * ch + c) * b)))
      else t) r.buf })

/-- A copy of a position has arrived (R161): the skew to its first copy. -/
def rxSkew (i : Nat) (k g : Int) (s : State) : State :=
  match og s.rx.first (posKey i k) with
  | some a => s.ww STRX.SKEW_MAX (max (s.rw STRX.SKEW_MAX i) (min 0xFFFFFFFF (g - a).natAbs)) i
  | none => s.onRx (fun r => { r with first := os r.first (posKey i k) (some g) })

/-- A packet for stream i on plane p with its arrival stamp g on media time (R155). -/
def rxPacket (i p : Nat) (g : Int) (udp : List Byte) (s : State) : State :=
  let s := rxCnt 0x100 i p s
  match rtpParse udp with
  | none => s.cntr STRX.HDR_ERR i
  | some x =>
    if x.ver ≠ 2 ∨ x.pt ≠ s.rd STRX.CFG_PT i then s.cntr STRX.HDR_ERR i
    else
      let s := match og s.rx.seq (2 * i + p) with
        | some q => if (q + 1) % 65536 = x.seq then s else rxCnt 0x128 i p s
        | none => s
      let s := s.onRx (fun r => { r with seq := os r.seq (2 * i + p) (some x.seq) })
      let st := s.rxState i
      let waits := st == stWAIT || st == stGAP || st == stLOST
      if (st = stACTIVE ∨ st = stGAP ∨ st = stRESYNC) ∧ s.rb STRX.ST_STAT_SSRC_VALID i ∧ x.ssrc ≠ s.rw STRX.SSRC_SEEN i then
        s.cntr STRX.SSRC_ERR i
      else
        let ch := s.rxCh i
        let fmt := s.rd STRX.CFG_FMT i
        let frame := ch * fmtBytes fmt
        let pl := x.payload.getD []
        let n := pl.length / frame
        let ps := s.rxPs i
        if pl.length % frame ≠ 0 ∨ n = 0 ∨ 2 * ps < n then s.cntr STRX.LEN_ERR i
        else
          let f := s.rxHz i
          let l := s.rd STRX.LOFS_L i
          let count := fun (s : State) => rtpCount f (s.rw STRX.MCLK_OFS i) x.ts (ig s.rx.corr i) g
          let arrival := s.rb STRX.CFG_TIMING i
          let cont := inWindow (s.rxLine i (count s)) l g (count s) && !(arrival && !s.rxAnchored i)
          if waits ∧ cont = false ∧ s.rb STRX.CFG_TS_STRICT i then
            let s := s.cntr STRX.TS_ERR i
            if bg s.rx.strict i then s else rxEvent 8 i (s.onRx (fun r => { r with strict := bs r.strict i true }))
          else
            let s := if waits ∧ cont = false then rxRealign i (count s) g s else s
            let k := count s
            let pres := presGrid (s.rxLine i k) l k
            if pres ≤ g + 24000 then rxCnt 0x118 i p s
            else
              let s := planeSet i p (s.rxLeg i p).en (s.onRx (fun r => { r with okAt := os r.okAt (2 * i + p) (some g) }))
              let s := s.ww STRX.MARGIN_MIN (min (s.rw STRX.MARGIN_MIN i) (pres - (g + 24000)).toNat) i
              let s := s.each (List.range n) (fun s j => rxSkew i (k + j) g s)
              let nxt := s.presAfter i g
              if nxt + s.rd STRX.DEPTH_DEPTH i ≤ k + n - 1 then rxCnt 0x120 i p s
              else if (List.range n).all (fun j => !(tget (fun _ => []) s.rx.buf (posKey i (k + j))).isEmpty) then rxCnt 0x110 i p s
              else
                let s := rxWrite i k n ch fmt pl (rxCnt 0x108 i p s)
                let s := if s.rxTracked i then measure (s.groupOf (ukey ukRX i)) k g s else s
                let s := s.onRx (fun r => { r with
                  hi := ns r.hi i (if bg r.timed i then max (ng r.hi i) (k + n).toNat else (k + n).toNat)
                  next := ns r.next i (if bg r.timed i then ng r.next i else (s.presAfter i (s.grid 0)).toNat)
                  timed := bs r.timed i true, lastArr := is r.lastArr i g })
                if waits then
                  let s := if (st = stWAIT ∨ st = stLOST) ∧ s.rb STRX.CFG_SSRC_FIX i = false then
                      rxEvent 4 i ((s.wb STRX.ST_STAT_SSRC_VALID true i).ww STRX.SSRC_SEEN x.ssrc i)
                    else s
                  rxSet i stRESYNC (s.onRx (fun r => { r with res := ns r.res i k.toNat }))
                else s

/-- A packet in its place by arrival stamp, that of plane A first of two with one stamp (R158). -/
def arriveInto (a : Nat × Nat × Int × List Byte) : List (Nat × Nat × Int × List Byte) → List (Nat × Nat × Int × List Byte)
  | [] => [a]
  | b :: t => if a.2.2.1 < b.2.2.1 ∨ (a.2.2.1 = b.2.2.1 ∧ a.2.1 < b.2.1) then a :: b :: t else b :: arriveInto a t
def rxArrive (i p : Nat) (g : Int) (udp : List Byte) (s : State) : State :=
  s.onRx (fun r => { r with arrived := arriveInto (i, p, g, udp) r.arrived })
/-- The packets that have arrived are judged, one at a time in order of arrival stamp (R158). -/
def rxJudge (s : State) : State :=
  let l := s.rx.arrived
  (s.onRx (fun r => { r with arrived := [] })).each l (fun s a => rxPacket a.1 a.2.1 a.2.2.1 a.2.2.2 s)

/-- Receive streams are processed: in the modes of R445, once indices are published. -/
def State.rxRunning (s : State) : Bool := decide (5 ≤ s.mode) && decide (s.mode ≤ 9) && s.tim.published

/-- The stream that a frame belongs to, of those that share its tuple the one with its SSRC (R114, R144, R157). -/
def State.rxMatch (s : State) (port : Nat) (v6 : Bool) (dst src udp ssrc : Nat) : Option Nat :=
  if s.rxRunning = false then none
  else s.rx.on.find? (fun i =>
    let g := s.rxLeg i (planeOf port)
    g.en && g.port == port && g.v6 == v6 && g.dst == dst && g.udp == udp && (g.src == 0 || g.src == src) &&
      (!s.rb STRX.CFG_SSRC_FIX i || s.rw STRX.SSRC i == ssrc))

/-! ## Presentation (R160, R163, R164, R167) -/

/-- N of R163. -/
def concealN (f : Nat) : Nat := cdiv (48 * f) 96000

/-- A stored sample as it is presented, under the concealment gain and a fade. A presented AM824 word is the audio value, its
label zeroed as at the hand-off to conversion, times 256 plus the label, which passes unchanged (R147, R163). -/
def presented (fmt m n : Nat) (fade : Nat × Nat) (x : Int) : Int :=
  if fmt = 2 then faded fade ((x - x % 256) * m / n) * 256 + x % 256 else faded fade (x * m / n)
/-- The audio value of a presented word. -/
def presentedAudio (fmt : Nat) (w : Int) : Int := if fmt = 2 then w / 256 else w

/-- Present one position, collecting its values. -/
def present1 (i : Nat) (acc : List (List Int) × State) (k : Nat) : List (List Int) × State :=
  let s := acc.2
  let f := s.rxHz i
  let n := concealN f
  let fmt := s.rd STRX.CFG_FMT i
  let key := posKey i k
  let x := tget (fun _ => []) s.rx.buf key
  let st := s.rxState i
  let pg := presGrid (s.rxLine i k) (s.rd STRX.LOFS_L i) k
  let shown := (st == stACTIVE || st == stGAP || st == stRESYNC) && decide ((125000 * ng s.rx.startAt i : Nat) ≤ pg) &&
    (s.rb STRX.ST_STAT_RUN i || decide (pg < (125000 * ng s.rx.stopAt i : Nat)))
  let m := if shown = false then ng s.rx.m i else if x.isEmpty then ng s.rx.m i - 1 else min n (ng s.rx.m i + 1)
  let h := if x.isEmpty || !shown then tget (fun _ => []) s.rx.h i else x
  let s := s.onRx (fun r => { r with
    buf := tset (fun _ => []) r.buf key [], first := os r.first key none, m := ns r.m i m, h := tset (fun _ => []) r.h i h })
  let s := if x.isEmpty && shown then s.cntr STRX.CONCEAL i else s
  let fade := minFade (fadeBefore (s.frozenAt 4 i) s.tim.sample) (s.reclaimFade (.rx i) s.tim.sample)
  let vs := (List.range (s.rxCh i)).map (fun c => if shown then presented fmt m n fade (h.getD c 0) else 0)
  let s := if st = stRESYNC ∧ ng s.rx.res i ≤ k then rxSet i stACTIVE s else s
  (acc.1 ++ [vs], s)

/-- Present what falls due at the boundary of the present sample, and hand it to conversion. -/
def present (s : State) (i : Nat) : State :=
  let u := ukey ukRX i
  let from_ := ng s.rx.next i
  let r : List (List Int) × State :=
    if bg s.rx.timed i then
      let e := (s.presAfter i (s.grid 0)).toNat
      let a := ng s.rx.next i
      let a := if a + 64 < e then e - 64 else a
      let r := ((List.range (e - a)).map (· + a)).foldl (present1 i) ([], s)
      (r.1, r.2.onRx (fun x => { x with next := ns x.next i e }))
    else ([], s)
  let s := r.2.onRx (fun x => { x with cur := tset (fun _ => []) x.cur i r.1 })
  let fmt := s.rd STRX.CFG_FMT i
  let base := s.rd STRX.CH_BASE_BASE i
  let audio := presentedAudio fmt
  if s.pathOf u = paDIRECT then
    let v := r.1.getLastD []
    s.onRx (fun x => { x with val := (List.range (s.rxCh i)).foldl (fun t c => is t (base + c) (audio (v.getD c 0))) x.val })
  else
    let g := s.groupOf u
    let pos := if s.rxTracked i then s.trackIn g s.tim.sample else srcPos (s.pathOf u) g (s.rd STRX.LOFS_L i) s.tim.sample
    let at_ : Nat := max from_ (ng s.rx.next i - r.1.length)
    s.each (List.range (s.rxCh i)) (fun s c =>
      let s := s.each ((List.range r.1.length).zip r.1) (fun s v => convKeep u c ((at_ + v.1 : Nat) : Int) (audio (v.2.getD c 0)) s)
      let y := convert u c false pos s
      y.2.onRx (fun x => { x with val := is x.val (base + c) y.1 }))

/-- STREAM_PRESENT: every enabled stream, in the modes that process streams (R144). -/
def rxPresent (s : State) : State := if s.rxRunning then s.each s.rx.on present else s

/-- The value of a receive channel, and whether it presents one (R208). -/
def State.rxValue (s : State) (c : Nat) : Int := ig s.rx.val c
def State.rxOfChan (s : State) (c : Nat) : Option Nat :=
  s.rx.on.find? (fun i => let b := s.rd STRX.CH_BASE_BASE i; decide (b ≤ c) && decide (c < b + s.rxCh i))
def State.rxShows (s : State) (c : Nat) : Bool :=
  match s.rxOfChan c with
  | some i => let st := s.rxState i; s.rxRunning && s.rb STRX.ST_STAT_RUN i && (st == stACTIVE || st == stGAP)
  | none => false

/-- STREAM_START and STREAM_STOP on a receive stream fire at the present sample (R167). -/
def rxStart (i : Nat) (s : State) : State :=
  if s.rxState i = stOFF then s
  else (s.wb STRX.ST_STAT_RUN true i).onRx (fun r => { r with m := ns r.m i 0, startAt := ns r.startAt i s.tim.sample })
def rxStop (i : Nat) (s : State) : State :=
  if s.rxState i = stOFF ∨ s.rb STRX.ST_STAT_RUN i = false then s
  else (s.wb STRX.ST_STAT_RUN false i).onRx (fun r => { r with stopAt := ns r.stopAt i s.tim.sample })

/-- STREAM_LOST: the TIMEOUT of streams in GAP, judged at a tick boundary (R164), where streams are processed (R144). -/
def rxTick (s : State) : State :=
  if s.rxRunning = false then s
  else s.each s.rx.on (fun s i =>
    if s.rxState i = stGAP ∧ ig s.rx.lastArr i + 12000000 * s.rd STRX.TIMEOUT_MS i ≤ s.grid 0 then rxSet i stLOST s else s)

/-- LOCK of streams made from a description, evaluated again as grandmasters change (R148). -/
def sdpLock (s : State) (q : Nat × Nat) : Bool :=
  [0, 1].any (fun p => s.rb TIME.PTP_STAT_GM_VALID (i := p) && s.rd64 TIME.GM_ID_HI TIME.GM_ID_LO (i := p) == q.1 &&
    s.rd TIME.PTP_CTL_DOMAIN (i := p) == q.2)
def rxLockTick (s : State) : State :=
  if s.fwUp = false ∨ s.rx.lockEval = false then s
  else (s.onRx (fun r => { r with lockEval := false })).each s.rx.sdpRef (fun s e => match e.2 with
    | some q => if sdpLock s q = s.rb STRX.CFG_LOCK e.1 then s else rxEvent 5 e.1 (s.wb STRX.CFG_LOCK (sdpLock s q) e.1)
    | none => s)

/-- Clear the counters of a stream (R173). -/
def rxClear (i : Nat) (s : State) : State :=
  let s := s.each (List.range 20) (fun s j => s.pw 0x0E i (0x100 + 4 * j) 0)
  (s.ww STRX.MARGIN_MIN 0x7FFFFFFF i).ww STRX.SKEW_MAX 0 i

/-! ## Memberships and announcements (R149, R150) -/

def isMulticast (v6 : Bool) (a : Nat) : Bool := if v6 then a / 2 ^ 120 == 0xFF else a / 2 ^ 28 == 0xE
/-- A membership: port, IPv6, group, source (0 any). -/
def Member.key (m : Member) : Nat × Bool × Nat × Nat := (m.port, m.v6, m.dst, m.src)
/-- The version of IGMP or MLD that a port reports in: 3 or 2, or that of an earlier querier that is present (R150). -/
def State.groupVer (s : State) (port : Nat) (v6 : Bool) : Nat :=
  let own := if v6 then 2 else 3
  match og s.rx.querier (2 * port + b2n v6) with
  | some (v, t) => if s.clock < t then min own v else own
  | none => own
/-- The port reports each group by itself, as the earlier version has it. -/
def State.groupOld (s : State) (port : Nat) (v6 : Bool) : Bool := s.groupVer port v6 != (if v6 then 2 else 3)
/-- The lengths on the wire of a report of IGMPv3 or MLDv2 on some memberships, and of a message of an earlier version on one. -/
def reportLen (v6 : Bool) (l : List Member) : Nat :=
  let n := fun (m : Member) => if m.src = 0 then 0 else 1
  if v6 then l.foldl (fun a m => a + 20 + 16 * n m) (14 + 40 + 8 + 8 + 4) else l.foldl (fun a m => a + 8 + 4 * n m) (14 + 24 + 8 + 4)
def reportOld (v6 : Bool) : Nat := if v6 then 14 + 40 + 8 + 24 + 4 else 14 + 24 + 8 + 4
/-- Report some memberships of a port. -/
def groupReport (port : Nat) (v6 : Bool) (l : List Member) (s : State) : State :=
  if l = [] then s
  else if s.groupOld port v6 then s.each l (fun s _ => txMgmt port (reportOld v6) s)
  else txMgmt port (reportLen v6 l) s
/-- Report that a membership is left; IGMPv1 has no message for it. -/
def groupLeave (m : Member) (s : State) : State :=
  if s.groupVer m.port m.v6 = 1 ∧ m.v6 = false then s else groupReport m.port m.v6 [m] s
/-- The membership that a leg asks for, if it is enabled (R150). -/
def State.legGroup (s : State) (i leg : Nat) : Option (Nat × Bool × Nat × Nat) :=
  let g := s.rxLeg i leg
  if s.rx.on.contains i && g.en && isMulticast g.v6 g.dst then some (g.port, g.v6, g.dst, g.src) else none
def State.groupWanted (s : State) (k : Nat × Bool × Nat × Nat) : Bool :=
  s.rx.on.any (fun i => s.legGroup i 0 == some k || s.legGroup i 1 == some k)

/-- Firmware leaves the group that it had joined for a leg, unless another enabled leg holds the membership, and joins the one that the leg
asks for now (R150). -/
def memberSync (i leg : Nat) (s : State) : State :=
  let want := s.legGroup i leg
  let old := og s.rx.joined (2 * i + leg)
  if s.fwUp = false ∨ 1023 < i ∨ 1 < leg ∨ want = old then s
  else
    let s := s.onRx (fun r => { r with joined := os r.joined (2 * i + leg) want })
    let s := match old with
      | some k =>
        if s.groupWanted k then s
        else (s.each (s.rx.members.filter (fun m => m.key == k)) (fun s m => groupLeave m s)).onRx (fun r =>
          { r with members := r.members.filter (fun m => m.key != k) })
      | none => s
    match want with
    | some k =>
      if s.rx.members.any (fun m => m.key == k) then s
      else
        let m : Member := ⟨k.1, k.2.1, k.2.2.1, k.2.2.2, some (s.clock + 96000)⟩
        (groupReport k.1 k.2.1 [m] s).onRx (fun r => { r with members := r.members ++ [m] })
    | none => s

/-- A membership query arrives (R150): it waits for its answer, and one of an earlier version makes its querier count as present for the
260 s of RFC 3376 and RFC 3810. -/
def queryReceive (port : Nat) (v6 : Bool) (ver group : Nat) (s : State) : State :=
  let s := if s.rx.asked.contains (port, v6, group) then s else s.onRx (fun r => { r with asked := r.asked ++ [(port, v6, group)] })
  if (if v6 then 2 else 3) ≤ ver ∨ s.groupVer port v6 < ver then s
  else s.onRx (fun r => { r with querier := os r.querier (2 * port + b2n v6) (some (ver, s.clock + 24960000)) })

/-- An event of every stream that came from a session. -/
def sapEvent (id code : Nat) (s : State) : State :=
  s.each s.rx.sapOf (fun s e => if e.2 = some id then rxEvent code e.1 s else s)
/-- Firmware receives an announcement or a deletion (R149). -/
def sapReceive (x : SapIn) (s : State) : State :=
  if s.fwUp = false ∨ s.rx.sapOn = false then s
  else
    match s.rx.sessions.find? (fun q => q.id == x.id) with
    | some q =>
      if x.delete then
        sapEvent x.id 7 (s.onRx (fun r => { r with sessions := r.sessions.filter (fun q => q.id != x.id) }))
      else
        let n : SapSession := ⟨x.id, x.ver, x.text, s.clock, x.every⟩
        let s := s.onRx (fun r => { r with sessions := r.sessions.map (fun q => if q.id = x.id then n else q) })
        if q.ver = x.ver then s else sapEvent x.id 6 s
    | none =>
      if x.delete ∨ 2048 ≤ s.rx.sessions.length then s
      else s.onRx (fun r => { r with sessions := r.sessions ++ [⟨x.id, x.ver, x.text, s.clock, x.every⟩] })

/-! ## The rows -/

/-- SAP_SESSION_EXPIRE (R149): unheard for the longer of an hour and ten intervals. -/
def execSapSessionExpire (id : Nat) (s : State) : Host.Outcome State Fault Refusal :=
  .next (awake s (if s.fwUp then s.onRx (fun r => { r with
      sessions := r.sessions.filter (fun q => !(q.id == id && decide (q.heard + max 345600000 (10 * q.every) ≤ s.clock))) })
    else s))
def execMulticastJoin (i leg : Nat) (s : State) : Host.Outcome State Fault Refusal := .next (awake s (memberSync i leg s))
/-- The answer to a query (R150): every membership of the port it asks for. -/
def queryAnswer (q : Nat × Bool × Nat) (s : State) : State :=
  let l := s.rx.members.filter (fun m => m.port == q.1 && m.v6 == q.2.1 && (q.2.2 == 0 || m.dst == q.2.2))
  (groupReport q.1 q.2.1 l s).onRx (fun r => { r with asked := r.asked.filter (· != q) })
/-- The second unsolicited report of a membership, 1 s after the first (R150). -/
def reportAgain (m : Member) (s : State) : State :=
  (groupReport m.port m.v6 [m] s).onRx (fun r => { r with members := r.members.map (fun x => if x = m then { x with again := none } else x) })
def State.reportDue (s : State) (port dst : Nat) : Option Member :=
  s.rx.members.find? (fun m => m.port == port && m.dst == dst && (match m.again with | some t => decide (t ≤ s.clock) | none => false))
/-- MEMBERSHIP_REPORT (R150): `dst` is the group, 0 for the answer to a general query. -/
def execMembershipReport (port dst : Nat) (query : Bool) (s : State) : Host.Outcome State Fault Refusal :=
  .next (awake s (if s.fwUp = false then s
    else if query then
      match s.rx.asked.find? (fun q => q.1 == port && q.2.2 == dst) with | some q => queryAnswer q s | none => s
    else match s.reportDue port dst with | some m => reportAgain m s | none => s))
/-- STREAM_GAP (R164): no packet accepted by t_exp + 2 × Ps/f. -/
def execStreamGap (i off : Nat) (s : State) : Host.Outcome State Fault Refusal :=
  .next (awake s (let s := rxJudge s
    let c := s.rxLine i (ng s.rx.hi i)
    let x : Int := c.a + (ng s.rx.hi i : Int) * c.b + 3 * s.rxPs i * c.b
    if s.rxRunning ∧ s.rxState i = stACTIVE ∧ x ≤ (s.grid off : Int) * c.den then rxSet i stGAP s else s))
/-- PLANE_CHG (R170): no packet of the plane has passed check 5 within the last 8 × Ps/f. -/
def execPlaneChg (i plane off : Nat) (s : State) : Host.Outcome State Fault Refusal :=
  .next (awake s (let s := rxJudge s
    match og s.rx.okAt (2 * i + plane) with
    | some a =>
      if s.rxRunning ∧ plane < 2 ∧ a * s.rxHz i + 8 * s.rxPs i * gridSec ≤ (s.grid off : Int) * s.rxHz i then planeSet i plane false s else s
    | none => s))

/-- STREAM_START and STREAM_STOP (R176): arm a slot. -/
def streamArm (action : Nat) (e : Env) (tx : Bool) (i : Nat) (a : SlotArgs) (s : State) : State :=
  let p0 := i + 1024 * b2n tx
  runCmd { mirrored := true, code := 0x030D + action, modes := armModes } e (armOwn action p0)
    (fun fn s => if 1023 < i ∨ 7 < a.tbsel then no stBAD_FIELD else armNew fn { a with action := action, p0 := p0, p1 := 0 } s) s
def execStreamStart (e : Env) (tx : Bool) (i : Nat) (a : SlotArgs) (s : State) : Host.Outcome State Fault Refusal :=
  .next (streamArm 3 e tx i a s)
def execStreamStop (e : Env) (tx : Bool) (i : Nat) (a : SlotArgs) (s : State) : Host.Outcome State Fault Refusal :=
  .next (streamArm 4 e tx i a s)

/-- A tenant acts on its own entries, and may create one in an entry that nobody has created (R143). -/
def rxOwnNew (i fn : Nat) (s : State) : Option Nat := if bg s.rx.used i = false ∨ may fn (s.rxOwner i) then none else some stNOT_OWNER
def rxOwn (i fn : Nat) (s : State) : Option Nat := if may fn (s.rxOwner i) then none else some stNOT_OWNER

/-- The effect of the command. -/
def rxAddBody (i : Nat) (ws : List RegW) (fn : Nat) (s : State) : Res :=
    if 1023 < i ∨ entryWsOk rxCfgRegs ws = false then no stBAD_FIELD
    else if s.rb STRX.CFG_EN i then no stBUSY
    else rxCommitRes fn i none ws (fun s => s.onRx (fun r => { r with sdpRef := os r.sdpRef i none, sapOf := os r.sapOf i none }))
      (rxJudge s)
def execStreamRxAdd (e : Env) (i : Nat) (ws : List RegW) (s : State) : Host.Outcome State Fault Refusal :=
  .next (runCmd { mirrored := true, code := 0x0301 } e (rxOwnNew i) (rxAddBody i ws) s (some (.streamRxAdd e i ws)))
/-- PKT of a packet time (R148): the row of R145 whose time is within 1 %. -/
def pktOfNs (ns_ : Nat) : Option Nat :=
  (List.range 7).find? (fun c => let t := [9375, 18750, 37500, 75000, 100000, 300000, 1200000].getD c 0
    decide (100 * ((300 * ns_ : Int) - 1000 * t).natAbs ≤ 1000 * t))
/-- The code of a stream rate in Hz. -/
def rateCode (hz : Nat) : Option Nat := (List.range 6).find? (fun c => rateHz c == hz)
/-- The four words of an address. -/
def addrWords (off : Nat) (v6 : Bool) (a : Nat) : List RegW :=
  if v6 then (List.range 4).map (fun j => ⟨off + 4 * j, 0, 0, a / 2 ^ (32 * (3 - j)) % 2 ^ 32⟩) else [⟨off, 0, 0, a % 2 ^ 32⟩]
/-- The words of a leg from a media description; an item that it lacks leaves the reset value. -/
def legWords (leg port : Nat) (ses : SdpPart) (m : SdpAudio) : List RegW :=
  let p := m.part.or ses
  let v6 := match p.conn with | some c => c.1 | none => false
  ⟨0x06C + 4 * leg, 0, 0, 2 ^ 31 + (port % 2) * 2 ^ 30 + b2n v6 * 2 ^ 29 + m.udp % 65536⟩ ::
    (addrWords (0x074 + 32 * leg) v6 ((p.conn.map (·.2)).getD 0) ++ addrWords (0x084 + 32 * leg) v6 (p.src.getD 0))
/-- The code fields of CFG that a media description gives: FMT, RATE, CH, PT and PKT, or none where a value is not supported. -/
def mediaCodes (m : SdpAudio) : Option (Nat × Nat × Nat × Nat × Nat) :=
  let f := match m.map with
    | some (f, r, c) => (rateCode r).bind (fun rc => if c = 0 ∨ 64 < c then none else some (f, rc, c))
    | none => some (1, 3, 8)
  match f, (match m.ptime with | some t => pktOfNs t | none => some 2) with
  | some (f, rc, c), some pk => some (f, rc, c, m.pt, pk)
  | _, _ => none
/-- LOCK of a description's reference clock, and what is evaluated again as grandmasters change (R148). -/
def clkRef : Option RefClk → Option (Nat × Nat)
  | some .traceable => none
  | some (.gm i d) => some (i, d)
  | _ => some (0, 256)
/-- The fields a description gives, with its reference clock, or none where R148 refuses it. -/
def sdpWords (d : List Byte) (p : RxPlace) (s : State) : Option (List RegW × Option (Nat × Nat)) :=
  match sdpRead d with
  | some (ses, m :: rest, dup) =>
    match mediaCodes m with
    | some (fmt, rc, ch, pt, pk) =>
      if 4096 < d.length ∨ 1 < p.leg ∨ 1 < p.portA ∨ 1 < p.portB ∨ 1 < rest.length ∨ 4095 < p.depth / 2 ∨ 16383 < p.l ∨ 8191 < p.chBase
        ∨ rest.any (fun b => !dup || !m.mid || !b.mid || mediaCodes b != some (fmt, rc, ch, pt, pk)) then none
      else
        let part := m.part.or ses
        let ref := clkRef part.clk
        let lock := match ref with | some q => sdpLock s q | none => true
        let cfg := 2 ^ 31 + b2n part.offset.isNone * 2 ^ 28 + b2n lock * 2 ^ 27 + rc * 2 ^ 24 + fmt * 2 ^ 22 + (ch - 1) * 2 ^ 16 +
          pt * 256 + pk * 16
        let legs := match rest with
          | [] => legWords p.leg (if p.leg = 0 then p.portA else p.portB) ses m ++ [⟨0x06C + 4 * (1 - p.leg), 0, 0, 0x138C⟩]
          | b :: _ => legWords 0 p.portA ses m ++ legWords 1 p.portB ses b
        some ([⟨0x050, 0, 0, cfg⟩, ⟨0x054, 0, 0, p.chBase⟩, ⟨0x058, 0, 0, p.depth⟩, ⟨0x05C, 0, 0, p.l⟩,
               ⟨0x068, 0, 0, part.offset.getD 0 % 2 ^ 32⟩] ++ legs, ref)
    | none => none
  | _ => none
/-- The session whose announcement holds a description (R149). -/
def State.sessionOf (s : State) (d : List Byte) : Option Nat := (s.rx.sessions.find? (fun q => q.text == d)).map (·.id)
/-- The effect of the command. -/
def rxSdpBody (i : Nat) (d : List Byte) (p : RxPlace) (fn : Nat) (s : State) : Res :=
    match sdpWords d p s with
    | none => no stBAD_FIELD
    | some (ws, ref) =>
      if 1023 < i then no stBAD_FIELD
      else if s.rb STRX.CFG_EN i then no stBUSY
      else rxCommitRes fn i none ws (fun s => s.onRx (fun r =>
        { r with sdpRef := os r.sdpRef i ref, sapOf := os r.sapOf i (s.sessionOf d) })) (rxJudge s)
def execStreamRxSdp (e : Env) (i : Nat) (d : List Byte) (p : RxPlace) (s : State) : Host.Outcome State Fault Refusal :=
  .next (runCmd { mirrored := true, code := 0x0302 } e (rxOwnNew i) (rxSdpBody i d p) s (some (.streamRxSdp e i d p)))
/-- The effect of the command. -/
def rxModifyBody (i : Nat) (ws : List RegW) (fn : Nat) (s : State) : Res :=
    if 1023 < i ∨ entryWsOk rxCfgRegs ws = false ∨ bg s.rx.used i = false then no stBAD_FIELD else rxCommitRes fn i (some i) ws id (rxJudge s)
def execStreamRxModify (e : Env) (i : Nat) (ws : List RegW) (s : State) : Host.Outcome State Fault Refusal :=
  .next (runCmd { mirrored := true, code := 0x0303 } e (rxOwn i) (rxModifyBody i ws) s (some (.streamRxModify e i ws)))
/-- The effect of the command. -/
def rxRemoveBody (i : Nat) (_ : Nat) (s : State) : Res :=
    if 1023 < i ∨ bg s.rx.used i = false then no stBAD_FIELD
    else done (((entryReset 0x0E rxEntry i (rxDisable i (rxJudge s))).ww STRX.OWNER 0 i).onRx (fun r =>
      { r with used := bs r.used i false, sdpRef := os r.sdpRef i none, sapOf := os r.sapOf i none }))
def execStreamRxRemove (e : Env) (i : Nat) (s : State) : Host.Outcome State Fault Refusal :=
  .next (runCmd { mirrored := true, code := 0x0304 } e (rxOwn i) (rxRemoveBody i) s (some (.streamRxRemove e i)))
def execStreamRxStatus (e : Env) (is : List Nat) (s : State) : Host.Outcome State Fault Refusal :=
  .next (runCmd { read := true } e (fun fn s => if is.all (fun i => may fn (s.rxOwner i)) then none else some stNOT_OWNER) (fun _ s =>
    if is = [] ∨ 64 < is.length ∨ is.any (1023 < ·) then no stBAD_FIELD
    else retL s 5 (is.flatMap (fun i => [s.rw STRX.ST_STAT i, s.rw STRX.SSRC_SEEN i, s.rw STRX.RTP_CORR i, s.rw STRX.MARGIN_MIN i,
      s.rw STRX.SKEW_MAX i]))) s)
def execStreamRxCounters (e : Env) (i : Nat) (clear : Bool) (s : State) : Host.Outcome State Fault Refusal :=
  .next (runCmd { read := !clear } e (rxOwn i) (fun _ s =>
    if 1023 < i then no stBAD_FIELD
    else ret (if clear then s.onCmd (fun c => { c with clr := c.clr ++ [(0x0E, i)] }) else s)
      ((List.range 20).map (fun j => s.gw 0x0E i (0x100 + 4 * j)))) s)
def execSapConfig (e : Env) (on : Bool) (addrs : List Nat) (s : State) : Host.Outcome State Fault Refusal :=
  .next (runCmd { pf0 := true } e anyone (fun _ s =>
    if addrs.any (fun a => 2 ^ 128 ≤ a) then no stBAD_FIELD
    else
      let as := if addrs = [] then s.rx.sapAddrs else addrs
      let ses := if on then s.rx.sessions else []
      done (s.onRx (fun r => { r with sapOn := on, sapAddrs := as, sessions := ses }))) s)
/-- SAP_LIST (R176): sixteen sessions of a page, each its identity, version and text. -/
def execSapList (e : Env) (page : Nat) (s : State) : Host.Outcome State Fault Refusal :=
  .next (runCmd { read := true } e anyone (fun _ s =>
    ret s (((s.rx.sessions.drop (16 * page)).take 16).flatMap (fun q => [q.id, q.ver, q.text.length] ++ leWords q.text))) s)

/-- EVT_FIFO_READ (R174): the caller's oldest event leaves the FIFO. -/
def evtTake (fn : Nat) (s : State) : State :=
  let f := actsAs fn
  match s.rx.evt.find? (fun e => f == 0 || s.rxOwner e.2.2 == f) with
  | none => s.onRx (fun r => { r with evtOut := ns r.evtOut fn 0 })
  | some e =>
    let w := 2 ^ 31 + e.1 * 2 ^ 24 + e.2.1 * 2 ^ 16 + e.2.2
    let s := s.onRx (fun r => { r with evt := r.evt.erase e, evtOut := ns r.evtOut fn w })
    s.wr STRX.EVT_STAT_LEVEL s.rx.evt.length
def execEvtFifoRead (fn : Nat) (s : State) : Host.Outcome State Fault Refusal := .next (awake s (evtTake fn s))
/-- RX_COMMIT (R172): a write of ENTRY_CMD with bit 31. -/
def regRxCommit (fn w : Nat) (s : State) : State :=
  if bit w 31 && !s.rb STRX.ENTRY_CMD_BUSY then
      (s.wb STRX.ENTRY_CMD_BUSY true).onRx (fun r => { r with commit := some (actsAs fn * 1024 + s.rd STRX.SEL_STREAM fn, s.accTick + (if s.mirrorActive then 2 else 1)) })
    else s
def execRxCommit (fn w : Nat) (s : State) : Host.Outcome State Fault Refusal := .next (awake s (actNoted 0x0E s (regRxCommit fn w s)))
/-- RX_LOAD (R172): the stored entry of the caller's SEL comes into the staging registers. -/
def regRxLoad (fn w : Nat) (s : State) : State :=
  let i := s.rd STRX.SEL_STREAM fn
    if bit w 30 = false ∨ s.rb STRX.ENTRY_CMD_BUSY then s
    else if may (actsAs fn) (s.rxOwner i) = false then s.wr STRX.ENTRY_CMD_RESULT stNOT_OWNER
    else (entryCopy 0x0E rxEntry i stagObj s).wr STRX.ENTRY_CMD_RESULT stOK
def execRxLoad (fn w : Nat) (s : State) : Host.Outcome State Fault Refusal := .next (awake s (regRxLoad fn w s))

end Sys2Proof.Machine
end

