-- ==== Sys2Proof/Machine/Xpnt.lean ====
section
/-!
DEFINITION. The crosspoint (R204–R237): sources and the input vector, sums, population scaling, the output chain and the
alignment delay.
-/
namespace Sys2Proof.Machine

/-! ## Keys -/

/-- The objects of a page whose word at an offset is listed: those whose word differs from its reset word. -/
def State.listed (s : State) (pg off : Nat) : List Nat :=
  s.regs.filterMap (fun e => if e.1 / 2 ^ 32 = pg ∧ e.1 % 2 ^ 12 = off then some (e.1 / 2 ^ 12 % 2 ^ 20) else none)
/-- The signature and output of an X-out. -/
def sigOf (o : Nat) : Nat := o / 64
/-- Signatures 0 to 63. -/
def sigs : List Nat := List.range 64
/-- The key of a delayed value. -/
def histKey (o n : Nat) : Nat := o * 2 ^ 64 + n
/-- The owner of an X-out. -/
def State.xoutOwner (s : State) (o : Nat) : Nat := s.sigOwner (sigOf o)

/-! ## Interrupts of the crosspoint (R236) -/

/-- Set a sticky bit of a function's PEND_STAT and raise its interrupt (R233, R236). -/
def pendSticky (f : Fld) (b fn : Nat) (s : State) : State := (s.wb f true fn).raise 0x11 b [fn]
def selDeny (fn : Nat) (s : State) : State := pendSticky XPNT.PEND_STAT_SEL_DENY 2 fn s
def selErr (fn : Nat) (s : State) : State := pendSticky XPNT.PEND_STAT_SEL_ERR 2 fn s
/-- SIG_STAT.D_DENY of a signature (R228). -/
def dDeny (sig : Nat) (s : State) : State := (s.wb SIG.SIG_STAT_D_DENY true (i := sig)).raise (0x40 + sig) 1 (fnsOwn (s.sigOwner sig))
/-- PEND_STAT.LEVEL of every function. -/
def pendLevel (s : State) : State :=
  s.each fnsAll (fun s fn => s.wr XPNT.PEND_STAT_LEVEL ((s.held.filter (fun h => h.pg == 0x11 && h.fn == fn)).length) fn)

/-! ## Test generators (R213) -/

/-- The value of a generator for a sample. -/
def State.tgValue (s : State) (g n : Nat) : Int :=
  let t := linT (s.rd XPNT.TG_LEVEL_LEVEL g)
  let f := s.rd XPNT.TG_FREQ_FREQ g
  let seed := s.rw XPNT.DITHER_SEED
  match s.rd XPNT.TG_CTL_KIND g with
  | 1 => tgScale t (sinTurn (f * n % 9600000) 9600000 * 2147483647) 300
  | 2 => tgScale t (sgn 32 (ditherZ seed (4096 + g) n % 2 ^ 32)) 0
  | 3 => satI 32 (Config.pink seed g t n)
  | 4 => if n % f = 0 then tgScale t 2147483647 0 else 0
  | 5 => tgScale t 2147483647 0
  | _ => 0

/-! ## Sources (R207–R209) -/

/-- The source that a selector names presents a value. -/
def State.srcShows (s : State) (w : Nat) : Bool :=
  let i := selIndex w
  match selKind w with
  | 1 => s.rxShows i
  | 2 => bg s.xp.locOn i
  | 3 => !(tget (fun _ => []) s.host.pbNow i).isEmpty
  | 4 => bg s.xp.ulOn i
  | 5 => s.rd XPNT.TG_CTL_KIND i != 0
  | _ => false
/-- The value it presents at the sample in progress. -/
def State.srcValue (s : State) (w : Nat) : Int :=
  let i := selIndex w
  match selKind w with
  | 1 => s.rxValue i
  | 2 => ig s.xp.locVal i
  | 3 => faded (s.reclaimFade (.pb i) s.tim.sample) ((tget (fun _ => []) s.host.pbNow i).getD (s.tim.sample % 32) 0)
  | 4 => ig s.xp.ulVal i
  | 5 => s.tgValue i s.tim.sample
  | _ => 0
/-- Its owner, if it has one. -/
def State.srcOwner (s : State) (w : Nat) : Option Nat :=
  let i := selIndex w
  match selKind w with
  | 1 => (s.rxOfChan i).map s.rxOwner
  | 3 => some (s.pbOwner i)
  | 2 => some 0
  | 4 => some 0
  | 5 => some 0
  | _ => none
/-- The function may write the selector (R209). -/
def State.selMay (s : State) (fn w : Nat) : Bool := fn == 0 || selKind w == 0 || s.srcOwner w == some fn
/-- The selector of an X-in. -/
def State.xinSel (s : State) (x : Nat) : Nat := s.rw XPNT.IN_SRC x % 2 ^ 16
/-- Both conditions of R208. -/
def State.xinPresent (s : State) (x : Nat) : Bool :=
  s.srcShows (s.xinSel x) && (s.xinOwner x == 0 || s.srcOwner (s.xinSel x) == some (s.xinOwner x))

/-! ## Trims (R211, R221) -/

/-- The trim ramp of X-in x, or of X-out o at 4096 + o. -/
def State.trimRamp (s : State) (k : Nat) : Nat × Nat × Nat := (og s.xp.trim k).getD (2 ^ 29, 2 ^ 29, 0)
/-- The trim that applies to index n. -/
def State.trimAt (s : State) (k n : Nat) : Nat := let r := s.trimRamp k; lerp r.1 r.2.1 (n + 1 - r.2.2) 64
/-- Head for a new effective trim from the present sample on. -/
def trimTo (k t : Nat) (s : State) : State :=
  if (s.trimRamp k).2.1 = t then s
  else
    let r := (s.trimAt k (s.tim.sample - 1), t, s.tim.sample)
    s.onXp (fun x => { x with trim := os x.trim k (some r) })
/-- The effective trim of an X-in, and of an X-out, follows its registers. -/
def inTrimFix (x : Nat) (s : State) : State :=
  trimTo x (if s.rb XPNT.IN_CFG_MUTE x then 0 else linT (s.rd XPNT.IN_CFG_TRIM x)) s
def outTrimFix (o : Nat) (s : State) : State := trimTo (4096 + o) (linT (s.rd SIG.OUT_TRIM_TRIM (o % 64) (sigOf o))) s

/-! ## The input vector (R20, R210–R212) -/

/-- An X-in's clip: counted, and raised when it is the first (R210, R236). -/
def inClip (x : Nat) (s : State) : State :=
  let first := s.rw XPNT.IN_CLIPS x = 0
  let s := (s.cntr XPNT.IN_CLIPS x).onMet (fun m => { m with clips := ns m.clips x (ng m.clips x + 1) })
  if first then s.raise 0x11 0 (fnsOwn (s.xinOwner x)) else s

/-- The element of R210 before saturation. -/
def elementRaw (v : Int) (t : Nat) (pol : Bool) : Int :=
  let p := (v * t + 2 ^ 28) / 2 ^ 29
  if pol then -p else p

/-- One element of the vector of the present sample. -/
def assemble1 (s : State) (x : Nat) : State :=
  if s.xinPresent x = false then s
  else
    let n := s.tim.sample
    let p := elementRaw (s.srcValue (s.xinSel x)) (s.trimAt x n) (s.rb XPNT.IN_CFG_POL x)
    let v := satI 32 p
    let s := s.wb XPNT.IN_STAT_PRESENT true x
    let s := if p = v then s else inClip x s
    let e := faded (s.reclaimFade (.xin x) n) v
    s.onXp (fun q => { q with vec := is q.vec x e })

/-- X-ins with a selector other than NONE. -/
def State.xinUsed (s : State) : List Nat := s.listed 0x11 0x044

/-- INPUT_VECTOR_ASSEMBLY: the vectors move on, and vector n is formed. -/
def assemble (s : State) : State :=
  let s := s.onXp (fun q => { q with vec2 := q.vec1, vec1 := q.vec, vec := [], act := [] })
  let s := s.each (s.listed 0x11 0x04C) (fun s x => (s.wb XPNT.IN_STAT_PRESENT false x).wb XPNT.IN_STAT_ACTIVE false x)
  s.each s.xinUsed assemble1

/-- Activity of the X-ins in the present vector, once the gates have decided (R212). -/
def activity (s : State) : State :=
  s.each s.xinUsed (fun s x =>
    if s.rb XPNT.IN_STAT_PRESENT x && !s.rb XPNT.IN_CFG_MUTE x && s.rd XPNT.IN_CFG_TRIM x != 0 &&
      (!s.rb XPNT.IN_CFG_GATE_EN x || bg s.met.gate x) then
      (s.wb XPNT.IN_STAT_ACTIVE true x).onXp (fun q => { q with act := bs q.act x true })
    else s)

/-! ## Banks and sums (R217–R219, R238, R249) -/

def State.recto (s : State) (sig : Nat) : Nat := s.rd SIG.BANK_STAT_RECTO_BANK (i := sig)
def State.bank (s : State) (sig b : Nat) : Tbl Nat := tget (fun _ => []) s.scn.banks (2 * sig + b)
def State.rectoBank (s : State) (sig : Nat) : Tbl Nat := s.bank sig (s.recto sig)
def State.versoBank (s : State) (sig : Nat) : Tbl Nat := s.bank sig (1 - s.recto sig)
def setBank (sig b : Nat) (t : Tbl Nat) (s : State) : State :=
  s.onScn (fun c => { c with banks := tset (fun _ => []) c.banks (2 * sig + b) t })
/-- The four codes of a coefficient word. -/
def wordCodes (t : Tbl Nat) (word : Nat) : List Nat := (List.range 4).map (fun j => ng t (4 * word + j))
def State.staleOf (s : State) (sig : Nat) : List Nat := tget (fun _ => []) s.scn.stale sig
def staleSet (sig : Nat) (l : List Nat) (s : State) : State := s.onScn (fun c => { c with stale := tset (fun _ => []) c.stale sig l })
/-- A word's bit in the difference map of R408. -/
def State.mapBit (s : State) (sig word : Nat) : Bool :=
  wordCodes (s.bank sig 0) word != wordCodes (s.bank sig 1) word || (s.staleOf sig).contains word
/-- Verso is written at some words; unless the write is one that clears the map, a word that was different keeps its bit (R408). -/
def versoPut (clears : Bool) (sig : Nat) (words : List Nat) (t : Tbl Nat) (s : State) : State :=
  let words := words.eraseDups
  let was := if clears then [] else words.filter (fun w => s.mapBit sig w)
  let rest := (s.staleOf sig).filter (fun w => !words.contains w)
  let s := setBank sig (1 - s.recto sig) t s
  staleSet sig (rest ++ was.filter (fun w => wordCodes (s.bank sig 0) w == wordCodes (s.bank sig 1) w)) s
/-- The words that either bank holds codes in. -/
def State.wordsUsed (s : State) (sig : Nat) : List Nat := ((s.bank sig 0 ++ s.bank sig 1).map (fun e => e.1 / 4)).eraseDups
/-- Verso becomes equal to recto, and every bit of the map is cleared: copy-over and SCENE_REVERT. -/
def versoEqual (sig : Nat) (s : State) : State := staleSet sig [] (setBank sig (1 - s.recto sig) (s.rectoBank sig) s)
def bkREADY : Nat := 0
def bkRAMP : Nat := 1
def bkCOPY : Nat := 2
def bkLOAD : Nat := 3
def bkHELD : Nat := 4
def State.bankState (s : State) (sig : Nat) : Nat := s.rd SIG.BANK_STAT_STATE (i := sig)

/-- An X-in is visible to a signature (R217). -/
def State.visible (s : State) (x sig : Nat) : Bool :=
  s.sigOwner sig == 0 || s.xinOwner x == s.sigOwner sig || s.rb XPNT.IN_STAT_SHARE x

/-- The X-ins that have a code other than 0 for output j in a bank. -/
def nodesOf (t : Tbl Nat) (j : Nat) : List Nat :=
  (t.filter (fun e => e.1 / 4096 == j)).map (fun e => e.1 % 4096)

/-- The sum of R218 for one X-out over a vector. -/
def State.sumPlain (s : State) (sig j : Nat) (vec : Tbl Int) (t : Tbl Nat) : Int :=
  (nodesOf t j).foldl (fun (a : Int) x => if s.visible x sig then a + term (ig vec x) (ng t (4096 * j + x)) else a) 0
/-- The same during a ramp, at weight W (R219, R249). -/
def State.sumRamp (s : State) (sig j : Nat) (vec : Tbl Int) (r v : Tbl Nat) (w : Nat) : Int :=
  let xs := nodesOf r j ++ (nodesOf v j).filter (fun x => ng r (4096 * j + x) == 0)
  xs.foldl (fun (a : Int) x =>
    if s.visible x sig then a + rampTerm (ig vec x) (ng r (4096 * j + x)) (ng v (4096 * j + x)) w else a) 0

/-- The sum A that makes output index m of an X-out, from vector m − 2. -/
def State.sumFor (s : State) (o m : Nat) : Int :=
  let sig := sigOf o
  if s.bankState sig = bkRAMP then
    let n := s.rd64 SIG.TURN_IDX_HI SIG.TURN_IDX_LO (i := sig)
    s.sumRamp sig (o % 64) s.xp.vec2 (s.rectoBank sig) (s.versoBank sig) (rampWeight (m + 1 - n) (s.rd SIG.TURN_RAMP_RAMP (i := sig)))
  else s.sumPlain sig (o % 64) s.xp.vec2 (s.rectoBank sig)

/-- X-outs with a node in either bank. -/
def State.xoutNodes (s : State) : List Nat :=
  (s.scn.banks.flatMap (fun e => e.2.map (fun n => 64 * (e.1 / 2) + n.1 / 4096))).eraseDups

/-! ## Population scaling (R223–R225) -/

/-- The bank that will form output index m + 1, as it stands before the boundary of sample m: R223 counts on it. `turns` lists
the signatures of turns that start there. -/
def State.countBank (s : State) (starts : List Nat) (sig : Nat) : Tbl Nat :=
  if s.bankState sig = bkRAMP ∨ starts.contains sig then s.versoBank sig else s.rectoBank sig

/-- N(o, n) for the vector last assembled (R223). -/
def State.popCount (s : State) (t : Tbl Nat) (sig j : Nat) : Nat :=
  ((nodesOf t j).filter (fun x => bg s.xp.act x && s.visible x sig)).length
/-- Count the vector last assembled into the N_max of its tick. -/
def popCountAll (starts : List Nat) (extra : Nat → Nat) (s : State) : State :=
  s.each s.xoutNodes (fun s o =>
    let n := min 65535 (s.popCount (s.countBank starts (sigOf o)) (sigOf o) (o % 64) + extra o)
    if ng s.xp.popN o < n then s.onXp (fun q => { q with popN := ns q.popN o n }) else s)

/-- The scaling ramp of an output, and the factor that applies to an index (R225). -/
def State.popRamp (s : State) (o : Nat) : Nat × Nat × Nat := (og s.xp.popK o).getD (2 ^ 31, 2 ^ 31, 0)
def State.popAt (s : State) (o m : Nat) : Nat := let r := s.popRamp o; lerp r.1 r.2.1 (m + 1 - r.2.2) 256

/-- POPULATION_TARGET of one output at a tick boundary; while the firmware restarts the last target stands (R29). -/
def popTick1 (s : State) (o : Nat) : State :=
  let sig := sigOf o
  let j := o % 64
  let n := ng s.xp.popN o
  let c := if s.fwUp then popTarget (s.rd SIG.OUT_CFG_POP_MODE j sig) n (s.rd SIG.OUT_CFG_N0 j sig) else s.rd SIG.OUT_POP_TARGET j sig
  let s := (s.wr SIG.OUT_POP_TARGET c j sig).wr SIG.OUT_POP_N (min n 8191) j sig
  let k := linK c
  if (s.popRamp o).2.1 = k then s
  else
    let r := (s.popAt o (s.tim.sample - 1), k, s.tim.sample)
    s.onXp (fun q => { q with popK := os q.popK o (some r) })
/-- POPULATION_TARGET: the outputs counted in the tick, and those whose scaling may return to unity. -/
def popTick (s : State) : State :=
  let os_ := (s.xp.popN.map (·.1) ++ s.xp.popK.map (·.1) ++ sigs.flatMap (fun g => (s.listed (0x40 + g) 0x800).map (64 * g + ·))).eraseDups
  (s.each os_ popTick1).onXp (fun q => { q with popN := [] })

/-! ## The output chain (R221) -/

def sat56 (x : Int) : Int := satI 56 x
/-- y of R221 before the last saturation. -/
def chainRaw (a : Int) (k t : Nat) (pol : Bool) : Int :=
  let a1 := sat56 (a * k / 2 ^ 31)
  let a2 := sat56 (a1 * t / 2 ^ 29)
  let a2 := if pol then sat56 (-a2) else a2
  (a2 + 256) / 512

/-- OUT_CLIPS (R222, R236). -/
def outClip (o : Nat) (s : State) : State :=
  let first := s.rw SIG.OUT_CLIPS (o % 64) (sigOf o) = 0
  let s := (s.cntr SIG.OUT_CLIPS (o % 64) (sigOf o)).onMet (fun m => { m with clips := ns m.clips (4096 + o) (ng m.clips (4096 + o) + 1) })
  if first then s.raise (0x40 + sigOf o) 0 (fnsOwn (s.xoutOwner o)) else s

/-- OUTPUT_CHAIN for one X-out at the present index: Y, faded by a reclaim of its signature or a tenant's reset (R513, R515). -/
def chain1 (o : Nat) (a : Int) (s : State) : State :=
  let m := s.tim.sample
  let y0 := chainRaw a (s.popAt o m) (s.trimAt (4096 + o) m) (s.rb SIG.OUT_CFG_POL (o % 64) (sigOf o))
  let y := satI 32 y0
  let s := if y = y0 then s else outClip o s
  let y := faded (minFade (s.safeFade m) (minFade (s.reclaimFade (.sig (sigOf o)) m) (s.tenantFade (s.xoutOwner o) m))) y
  s.onXp (fun q => { q with y := is q.y o y, hist := is q.hist (histKey o m) y })

/-- Signatures whose sums miss the strobe hand on the sums of the vector before (R231). -/
def overrun (sig : Nat) (s : State) : State :=
  let s := (s.cntr SIG.OVERRUNS (i := sig)).wb SIG.SIG_STAT_OVERRUN true (i := sig)
  (s.raise (0x40 + sig) 2 (fnsOwn (s.sigOwner sig))).err 0x0206 (0x40 + sig) 0 sig ((s.tim.sample - 2) % 2 ^ 32) none true

/-- SIGNATURE_SUMS: the sums of the present index; signatures that missed the strobe, and X-outs that lost their sum, hand on the
one before (R218, R231, R411). -/
def formSums (missed lost : List Nat) (s : State) : State :=
  let m := s.tim.sample
  let s := s.each (missed.filter (· < 64)) (fun s g => overrun g s)
  let old := s.xp.sums
  let s := s.onXp (fun q => { q with sums := [] })
  s.each (s.xoutNodes ++ old.map (·.1)).eraseDups (fun s o =>
    let a := if missed.contains (sigOf o) || lost.contains o then ig old o else s.sumFor o m
    s.onXp (fun q => { q with sums := is q.sums o a }))

/-- The output values of the present index, from the sums `a` of the X-outs listed; an X-out that is not listed has the sum 0,
which gives the value 0. -/
def chains (os_ : List Nat) (a : Nat → Int) (s : State) : State :=
  let m := s.tim.sample
  let s := s.onXp (fun q => { q with y := [] })
  let s := s.each os_ (fun s o => chain1 o (a o) s)
  s.onXp (fun q => { q with hist := q.hist.filter (fun e => decide
    (m < e.1 % 2 ^ 64 + 64 * s.rd SIG.OUT_ALLOC_BLOCKS (e.1 / 2 ^ 64 % 64) (e.1 / 2 ^ 64 / 64) + 1)) })

/-! ## The alignment delay (R227–R229) -/

def State.alloc (s : State) (o : Nat) : Nat := s.rd SIG.OUT_ALLOC_BLOCKS (o % 64) (sigOf o)
def State.dly (s : State) (o : Nat) : Nat := s.rd SIG.OUT_DLY_D (o % 64) (sigOf o)
/-- Y at index m − D. -/
def State.tap (s : State) (o m d : Nat) : Int := if m < d then 0 else ig s.xp.hist (histKey o (m - d))
/-- A DELAY_ALLOC that changes the output is waiting. -/
def State.allocPending (s : State) (o : Nat) : Bool :=
  match s.xp.alloc with
  | some (_, l) => l.any (fun e => e.1 == o && e.2 != s.alloc o)
  | none => false

/-- What the sinks read of an X-out at the present index. -/
def State.outRead (s : State) (o : Nat) : Int :=
  let m := s.tim.sample
  let v := match og s.xp.xfade o with
    | some (d1, d2, n) =>
      let i := m + 1 - n
      if i ≤ 64 then (((64 - i : Nat) : Int) * s.tap o m d1 + i * s.tap o m d2) / 64 else s.tap o m d2
    | none => s.tap o m (s.dly o)
  let v := match s.xp.alloc with
    | some (k, _) => if s.allocPending o ∧ 32 * (k - 1) ≤ m then v * ((32 - (m + 1 - 32 * (k - 1)) : Nat) : Int) / 32 else v
    | none => v
  let a := ng s.xp.allocAt o
  if a = 0 then v
  else if m + 1 < a then 0
  else
    let i := m + 2 - a
    if 48 ≤ i then v else v * i / 48

/-- A new D applies at the present sample (R228). -/
def dlyApply (o d : Nat) (s : State) : State :=
  let old := s.dly o
  if old = d then s
  else
    let s := s.wr SIG.OUT_DLY_D d (o % 64) (sigOf o)
    let f := if s.rb SIG.OUT_CFG_D_STEP (o % 64) (sigOf o) then none else some (old, d, s.tim.sample)
    s.onXp (fun q => { q with xfade := os q.xfade o f })

/-- A crossfade of D runs at the present sample: a change of D waits for its end. -/
def State.fading (s : State) (o : Nat) : Bool :=
  match og s.xp.xfade o with
  | some (_, _, n) => decide (s.tim.sample < n + 64)
  | none => false

/-- A write of D is ignored: too long for the allocation, or the allocation is about to change (R228, R229). -/
def State.dlyDenied (s : State) (o d : Nat) : Bool := decide (64 * s.alloc o < d) || s.allocPending o

/-- The blocks that a D in force may count on: those allocated, and those that a waiting DELAY_ALLOC leaves. -/
def State.dlyRoom (s : State) (o : Nat) : Nat :=
  match s.xp.alloc with
  | some (_, l) => match l.find? (fun e => e.1 == o) with | some e => min (s.alloc o) e.2 | none => s.alloc o
  | none => s.alloc o
/-- Blocks that a list of allocations needs, and releases. -/
def State.allocSum (s : State) (l : List (Nat × Nat)) : Nat × Nat := (l.foldl (fun a e => a + e.2) 0, l.foldl (fun a e => a + s.alloc e.1) 0)
/-- DELAY_ALLOC_APPLY at the tick it names. -/
def allocTick (s : State) : State :=
  match s.xp.alloc with
  | none => s
  | some (k, l) =>
    if s.tick < k then s
    else
      let q := s.allocSum l
      let s := s.wr XPNT.POOL_FREE_BLOCKS (s.rd XPNT.POOL_FREE_BLOCKS + q.2 - q.1)
      let s := s.each l (fun s e =>
        let o := e.1
        if s.alloc o = e.2 then s
        else
          let s := s.wr SIG.OUT_ALLOC_BLOCKS e.2 (o % 64) (sigOf o)
          let at_ := s.tim.sample + s.dly o + 1
          s.onXp (fun q => { q with hist := q.hist.filter (fun x => x.1 / 2 ^ 64 != o), allocAt := ns q.allocAt o at_ }))
      let s := (s.wb XPNT.POOL_STAT_ALLOC_PEND false).wb XPNT.POOL_STAT_ALLOC_DONE true
      (s.onXp (fun q => { q with alloc := none })).raise 0x11 3 fnsPF0

/-! ## Applying registers at a sample boundary -/

/-- A pending value of the crosspoint's pages reaches its register (R233). -/
def xpApply (s : State) (h : Held) : State := if 0x40 ≤ h.pg ∧ h.off = 0x408 then s else s.applyHeld h
/-- What follows from the values that the registers hold once a boundary's writes are in them: a ramp from the trim reached, a change of D from
the delay in force (R211, R221, R228). -/
def xpFollow (s : State) (h : Held) : State :=
  if 0x40 ≤ h.pg ∧ h.off = 0x408 then
    let o := 64 * (h.pg - 0x40) + h.obj
    let d := h.val % 2 ^ 21
    if 64 * s.dlyRoom o < d then dDeny (h.pg - 0x40) s else dlyApply o d s
  else
    if h.pg = 0x11 ∧ h.off = 0x048 then inTrimFix h.obj s
    else if 0x40 ≤ h.pg ∧ h.off = 0x404 then outTrimFix (64 * (h.pg - 0x40) + h.obj) s
    else s
/-- A pending D whose crossfade has not ended stays pending. -/
def State.dlyWaits (s : State) (h : Held) : Bool := decide (0x40 ≤ h.pg) && h.off == 0x408 && s.fading (64 * (h.pg - 0x40) + h.obj)
/-- The last of the writes of each D. -/
def lastDly : List Held → List Held
  | [] => []
  | h :: t => if h.off == 0x408 && t.any (fun x => x.off == 0x408 && x.pg == h.pg && x.obj == h.obj) then lastDly t else h :: lastDly t
/-- The crosspoint's pending values at a sample boundary. -/
def xpRwb (s : State) : State :=
  let p := fun (h : Held) => (h.pg == 0x11 || decide (0x40 ≤ h.pg)) && !s.dlyWaits h
  let due := s.held.filter (fun h => p h && !h.kept && decide (h.due ≤ s.tim.sample))
  let s := (s.applyDue p xpApply).each (lastDly due) xpFollow
  pendLevel (s.onXp (fun q => { q with inPend := q.inPend.filter (fun n => decide (s.tim.sample < n)) }))

/-- The boundary of a change that a command makes now: the next, or on the active member of a mirror pair R388's. -/
def State.applyAt (s : State) : Nat := if s.mirrorActive then 32 * (s.accTick + 2) else s.nextSample
/-- A register write that a command leaves to a boundary; no store limits it (R233). -/
def cmdHold (pg obj off mask v due : Nat) (s : State) : State :=
  let h : Held := { fn := 16, pg := pg, obj := obj, off := off, mask := mask, val := v &&& mask, kept := false, due := due }
  s.onHeld (fun hs => hs ++ [h])

/-! ## X-ins and their owners (R209, R237) -/

/-- An X-in passes to a function: no source, unity trim, no flags. -/
def xinGive (fn x : Nat) (share : Bool) (s : State) : State :=
  let old := s.xinOwner x
  let s := useTake fn qXIN 1 (useGive old qXIN 1 s)
  let s := (((s.ww XPNT.IN_SRC 0 x).ww XPNT.IN_CFG 0xE800 x).wr XPNT.IN_STAT_OWNER fn x).wb XPNT.IN_STAT_SHARE share x
  let s := s.onHeld (fun hs => hs.filter (fun h => !(h.pg == 0x11 && h.obj == x && (h.off == 0x044 || h.off == 0x048))))
  inTrimFix x (s.onMet (fun m => { m with moved := m.moved ++ [x] }))

/-- IN_ASSIGN at a tick boundary. -/
def assignTick (s : State) : State :=
  let s := s.each s.xp.assign (fun s a =>
    s.each ((List.range a.2.2.1).map (· + a.2.1)) (fun s x =>
      if s.xinOwner x = a.1 then s.wb XPNT.IN_STAT_SHARE a.2.2.2 x else xinGive a.1 x a.2.2.2 s))
  s.onXp (fun q => { q with assign := [] })

/-- How many X-ins an assignment and those that wait would give a function anew. -/
def State.assignNeed (s : State) (t : Nat) (l : List (Nat × Nat × Nat × Bool)) : Nat :=
  (((l.filter (fun a => a.1 == t)).flatMap (fun a => (List.range a.2.2.1).map (· + a.2.1))).filter (fun x => s.xinOwner x != t)).length

/-! ## The rows -/

/-- The X-ins of a command that the caller may not change (R209). -/
def xinOwn (l : List XinW) (fn : Nat) (s : State) : Option Nat :=
  if l.all (fun w => 4096 ≤ w.x || (may fn (s.xinOwner w.x) && (!selOk w.src || s.selMay fn w.src))) then none else some stNOT_OWNER
/-- The bits of IN_CFG that a command writes. -/
def inCfgMask : Nat := 0xE000FFFF
/-- The boundary of an XPNT_INPUT_SET, and whether it is late (R237). -/
def State.inBoundary (s : State) (t : XTiming) : Nat × Bool :=
  match t with
  | .nextSample => (s.applyAt, false)
  | .nextTick => (if s.mirrorActive then 32 * (s.accTick + 2) else 32 * s.nextTick, false)
  | .at n =>
    let late := decide (n < s.tim.sample + 2)
    (max (if late then s.tim.sample + 2 else n) (if s.mirrorActive then 32 * (s.accTick + 2) else 0), late)
def isAt (t : XTiming) : Bool := match t with | .at _ => true | _ => false

def execXpntInputSet (e : Env) (t : XTiming) (l : List XinW) (s : State) : Host.Outcome State Fault Refusal :=
  .next (runCmd { mirrored := true, code := 0x0401 } e (xinOwn l) (fun _ s =>
    if isAt t && (s.mode == mCONFIG || s.mode == mACQUIRE) then no stMODE_DENY
    else if l = [] ∨ 256 < l.length ∨ l.any (fun w => 4096 ≤ w.x || !selOk w.src || 2 ^ 16 ≤ w.src) then no stBAD_FIELD
    else if 4 ≤ s.xp.inPend.length then no stBUSY
    else
      let b := s.inBoundary t
      let s := s.each l (fun s w =>
        cmdHold 0x11 w.x 0x048 inCfgMask w.cfg b.1 (cmdHold 0x11 w.x 0x044 0xFFFF w.src b.1 s))
      let s := s.onXp (fun q => { q with inPend := q.inPend ++ [b.1] })
      .ok s (b.1 % 2 ^ 32) [b.1 % 2 ^ 32, b.1 / 2 ^ 32] 0 (if b.2 then stOK_LATE else stOK)) s)

/-- What a caller reads of an X-in: zero where it does not own it. -/
def xinWords (fn : Nat) (s : State) (x : Nat) : List Nat :=
  if may fn (s.xinOwner x) then [s.rw XPNT.IN_SRC x, s.rw XPNT.IN_CFG x, s.rw XPNT.IN_STAT x, s.rw XPNT.IN_CLIPS x] else [0, 0, 0, 0]
def execXpntInputGet (e : Env) (xs : List Nat) (s : State) : Host.Outcome State Fault Refusal :=
  .next (runCmd { read := true } e anyone (fun fn s =>
    if xs = [] ∨ 256 < xs.length ∨ xs.any (4095 < ·) then no stBAD_FIELD else retL s 4 (xs.flatMap (xinWords fn s))) s)

/-- A signature of the caller's. -/
def sigOwn (sig fn : Nat) (s : State) : Option Nat := if 63 < sig ∨ may fn (s.sigOwner sig) then none else some stNOT_OWNER
/-- A register value that the field rules of R224 and R235 accept. -/
def xoutOk (w : XoutW) : Bool :=
  decide (w.j < 64) &&
    (match w.cfg with | some c => !fieldIgnored 0x40 0x400 29 (fbits c 29 28) && !fieldIgnored 0x40 0x400 12 (fbits c 12 0) | none => true) &&
    (match w.trim with | some t => decide (t < 2 ^ 16) | none => true)
/-- A value of an output that a command gives waits for its boundary (R208, R233). -/
def outHold (sig off mask : Nat) (v : Option Nat) (j : Nat) (s : State) : State :=
  match v with
  | some v => cmdHold (0x40 + sig) j off mask v s.applyAt s
  | none => s
def execXpntOutputSet (e : Env) (sig : Nat) (l : List XoutW) (s : State) : Host.Outcome State Fault Refusal :=
  .next (runCmd { mirrored := true, code := 0x0403 } e (sigOwn sig) (fun _ s =>
    if 63 < sig ∨ l = [] ∨ 64 < l.length ∨ l.all xoutOk = false ∨
        l.any (fun w => match w.dly with | some d => decide (64 * s.alloc (64 * sig + w.j) < d) | none => false) then no stBAD_FIELD
    else if l.any (fun w => w.dly.isSome && s.allocPending (64 * sig + w.j)) then no stBUSY
    else
      done (s.each l (fun s w =>
        outHold sig 0x408 0x1FFFFF w.dly w.j (outHold sig 0x404 0xFFFF w.trim w.j (outHold sig 0x400 0xF8001FFF w.cfg w.j s))))) s)

def execXpntOutputGet (e : Env) (sig : Nat) (s : State) : Host.Outcome State Fault Refusal :=
  .next (runCmd { read := true } e (sigOwn sig) (fun _ s =>
    if 63 < sig then no stBAD_FIELD
    else retL s 6 ((List.range 64).flatMap (fun j => [s.rw SIG.OUT_CFG j sig, s.rw SIG.OUT_TRIM j sig, s.rw SIG.OUT_DLY j sig,
      s.rw SIG.OUT_CLIPS j sig, s.rw SIG.OUT_POP j sig, s.rw SIG.OUT_ALLOC j sig]))) s)

/-- The caller owns every output named. -/
def xoutOwn (os_ : List Nat) (fn : Nat) (s : State) : Option Nat :=
  if os_.all (fun o => 4095 < o || may fn (s.xoutOwner o)) then none else some stNOT_OWNER
def execDelayAlloc (e : Env) (l : List (Nat × Nat)) (s : State) : Host.Outcome State Fault Refusal :=
  .next (runCmd { mirrored := true, code := 0x0405 } e (xoutOwn (l.map (·.1))) (fun fn s =>
    let q := s.allocSum l
    if l = [] ∨ l.any (fun x => 4095 < x.1 || 16384 < x.2 || decide (64 * x.2 < s.dly x.1)) ∨ ¬(l.map (·.1)).Nodup
      ∨ s.rd XPNT.POOL_FREE_BLOCKS + q.2 < q.1 then no stBAD_FIELD
    else if fn ≠ 0 ∧ q.2 < q.1 then no stQUOTA
    else if s.xp.alloc.isSome then no stBUSY
    else
      let k := s.accTick + 2
      retIdx ((s.wb XPNT.POOL_STAT_ALLOC_PEND true).onXp (fun p => { p with alloc := some (k, l) })) (32 * k)) s)

def execDelayPoolStatus (e : Env) (os : List Nat) (s : State) : Host.Outcome State Fault Refusal :=
  .next (runCmd { read := true } e (xoutOwn os) (fun _ s =>
    if 1024 < os.length ∨ os.any (4095 < ·) then no stBAD_FIELD
    else ret s ([s.rw XPNT.POOL_FREE, s.rw XPNT.POOL_STAT] ++ os.map s.alloc)) s)

def tgOk (w : TgW) : Bool := decide (w.g < 16) && decide (w.kind ≤ 5) && decide (1 ≤ w.freq) && decide (w.freq ≤ 4800000) && decide (w.level < 2 ^ 16)
/-- The effect of the command. -/
def testgenBody (l : List TgW) (_ : Nat) (s : State) : Res :=
    if l = [] ∨ 16 < l.length ∨ l.all tgOk = false then no stBAD_FIELD
    else done (s.each l (fun s w =>
      ((s.wr XPNT.TG_CTL_KIND w.kind w.g).wr XPNT.TG_FREQ_FREQ w.freq w.g).wr XPNT.TG_LEVEL_LEVEL w.level w.g))
def execTestgenSet (e : Env) (l : List TgW) (s : State) : Host.Outcome State Fault Refusal :=
  .next (runCmd { pf0 := true, mirrored := true, code := 0x0407 } e anyone (testgenBody l) s (some (.testgenSet e l)))
/-- XPNT_COUNTERS: n X-ins from x and m X-outs from o, all the caller's. -/
def countersOwn (x n o m fn : Nat) (s : State) : Option Nat :=
  if ((List.range n).all (fun j => may fn (s.xinOwner (x + j)))) && ((List.range m).all (fun j => may fn (s.xoutOwner (o + j))))
  then none else some stNOT_OWNER
def execXpntCounters (e : Env) (x n o m : Nat) (clear : Bool) (s : State) : Host.Outcome State Fault Refusal :=
  .next (if 4096 < x + n ∨ 4096 < o + m then
      runCmd { read := !clear } e anyone (fun _ _ => no stBAD_FIELD) s
    else runCmd { read := !clear } e (countersOwn x n o m) (fun _ s =>
      let xs := (List.range n).map (· + x)
      let os_ := (List.range m).map (· + o)
      let ws := xs.map (fun i => s.rw XPNT.IN_CLIPS i) ++ os_.map (fun i => s.rw SIG.OUT_CLIPS (i % 64) (sigOf i))
      let cl := xs.map (fun i => (0x11, i)) ++ os_.map (fun i => (0x40 + sigOf i, i % 64))
      retL (if clear then s.onCmd (fun c => { c with clr := c.clr ++ cl }) else s) 1 ws) s)

/-- R630 for IN_ASSIGN; PF0 is no tenant and needs none. -/
def assignNames (t : Nat) (fn : Nat) (s : State) : Option Nat := if t = 0 then none else namesTenant t false fn s
/-- The effect of the command. -/
def inAssignBody (t : Nat) (x : Nat) (n : Nat) (share : Bool) (_ : Nat) (s : State) : Res :=
    if n = 0 ∨ 4096 < x + n ∨ 7 < t then no stBAD_FIELD
    else
      let l := s.xp.assign ++ [(t, x, n, share)]
      if s.quotaOk t qXIN (s.assignNeed t l) = false then no stQUOTA
      else done (s.onXp (fun q => { q with assign := l }))
def execInAssign (e : Env) (t x n : Nat) (share : Bool) (s : State) : Host.Outcome State Fault Refusal :=
  .next (runCmd { pf0 := true, mirrored := true, code := 0x0409 } e (assignNames t) (inAssignBody t x n share) s (some (.inAssign e t x n share)))
end Sys2Proof.Machine
end

