-- ==== Sys2Proof/Machine/Scenes.lean ====
section
/-!
DEFINITION. Scenes, turns and edits (R238–R269): verso and its lock, the edit FIFO, turn descriptors, turns and stored scenes.
-/
namespace Sys2Proof.Machine

/-! ## Copies of per-function registers -/

/-- A SIG interrupt (R268), for the signature's owner. -/
def sigRaise (g b : Nat) (s : State) : State := s.raise (0x40 + g) b (fnsOwn (s.sigOwner g))

/-! ## The edit FIFO (R252–R254) -/

def fifoSize : Nat := 16384
def State.editUsed (s : State) (fn : Nat) : Nat := (s.scn.fifo.filter (fun e => e.fn == fn)).length
def State.editQuota (s : State) (fn : Nat) : Nat := s.rd TNT.QUOTA_N qEDIT fn
/-- The registers that show the FIFO follow it: LEVEL, USED, SHARE, EDIT_HELD, and the use counted against quotas. -/
def editSync (s : State) : State :=
  let s := s.each (List.range 8) (fun s fn =>
    let u := s.editUsed fn
    let s := overFix fn qEDIT (s.wr TNT.USE_N u qEDIT fn)
    s.each (copies fn) (fun s c =>
      ((s.wr SCNE.EDIT_STAT_LEVEL s.scn.fifo.length c).wr SCNE.EDIT_USE_USED u c).wr SCNE.EDIT_USE_SHARE (s.editQuota fn) c))
  s.each sigs (fun s g => s.wr SIG.EDIT_HELD_N ((s.scn.fifo.filter (fun e => e.sig == g)).length) (i := g))
/-- Count drops of a function. -/
def editDrops (fn n : Nat) (s : State) : State := s.each (copies fn) (fun s c => s.cntr SCNE.EDIT_DROPS c (n := n))
/-- Entries are discarded and counted against who wrote them (R260, R261). -/
def editDiscard (p : Edit → Bool) (s : State) : State :=
  let gone := s.scn.fifo.filter p
  let s := s.onScn (fun c => { c with fifo := c.fifo.filter (fun e => !p e) })
  editSync (s.each gone (fun s e => editDrops e.fn 1 s))
/-- A verso window write that finds no room (R253). -/
def editOvf (fn sig n : Nat) (s : State) : State :=
  let s := s.each (copies fn) (fun s c => s.wb SCNE.EDIT_STAT_EDIT_OVF true c)
  ((editDrops fn 1 s).raise 0x12 0 (copies fn)).err 0x0501 0x12 0 sig n (some fn)

/-- Write codes into verso: a drain clears the difference map where it makes words equal, an edit does not (R408). -/
def versoWrite (drains : Bool) (sig : Nat) (l : List (Nat × Nat)) (s : State) : State :=
  versoPut drains sig (l.map (fun e => e.1 / 4)) (l.foldl (fun t e => ns t e.1 e.2) (s.versoBank sig)) s
/-- All of verso is written: a load, and SCENE_CLEAR. -/
def versoFill (sig : Nat) (t : Tbl Nat) (s : State) : State :=
  versoPut false sig (s.wordsUsed sig ++ t.map (fun e => e.1 / 4)) t s
/-- EDIT_FIFO_DRAIN: the entries of a signature reach verso in the order of acceptance (R254). -/
def drain (sig : Nat) (s : State) : State :=
  let mine := s.scn.fifo.filter (fun e => e.sig == sig)
  let s := versoWrite true sig (mine.map (fun e => (e.node, e.code))) s
  editSync (s.onScn (fun c => { c with fifo := c.fifo.filter (fun e => e.sig != sig) }))

/-! ## The end of a turn or a load (R250, R264) -/

def State.locked (s : State) (g : Nat) : Bool := s.rb SIG.BANK_STAT_LOCKED (i := g)
def State.queuedSig (s : State) (g : Nat) : Bool := s.rb SIG.BANK_STAT_QUEUED (i := g)
def State.unlockIdx (s : State) (g : Nat) : Nat := s.rd64 SIG.UNLOCK_IDX_HI SIG.UNLOCK_IDX_LO (i := g)
def State.turnIdx (s : State) (g : Nat) : Nat := s.rd64 SIG.TURN_IDX_HI SIG.TURN_IDX_LO (i := g)
def State.turnRamp (s : State) (g : Nat) : Nat := s.rd SIG.TURN_RAMP_RAMP (i := g)
/-- b: the first tick boundary strictly after n + Rmp. -/
def copyBoundary (n rmp : Nat) : Nat := 32 * ((n + rmp) / 32 + 1)

/-- The banks change roles at n + Rmp, and in that period copy-over copies the new recto into the new verso, which nothing else writes until it
is unlocked. -/
def rampEnd (g : Nat) (s : State) : State :=
  if s.bankState g = bkRAMP ∧ s.turnIdx g + s.turnRamp g ≤ s.tim.sample then
    let s := versoEqual g (s.wr SIG.BANK_STAT_RECTO_BANK (1 - s.recto g) (i := g))
    sigRaise g 17 (s.wr SIG.BANK_STAT_STATE bkCOPY (i := g))
  else s
/-- Copy-over has ended at b, and in that period the FIFO is drained. -/
def copyEnd (g : Nat) (s : State) : State :=
  if s.bankState g = bkCOPY ∧ bg s.scn.drained g = false ∧ s.unlockIdx g ≤ s.tim.sample + 1 then
    (drain g s).onScn (fun c => { c with drained := bs c.drained g true })
  else s
/-- A load ends at e: its codes and the held edits are in verso. -/
def loadEnd (g : Nat) (s : State) : State :=
  match og s.scn.load g with
  | some (sc, _, e) =>
    if s.bankState g = bkLOAD ∧ e ≤ s.tim.sample then
      let s := drain g (versoFill g sc.codes s)
      sigRaise g 21 (s.onScn (fun c => { c with load := os c.load g none, drained := bs c.drained g true }))
    else s
  | none => s
/-- A signature leaves its lock: READY, or HELD for a queued turn. -/
def unlockSig (g : Nat) (s : State) : State :=
  let s := (s.wr SIG.BANK_STAT_STATE (if s.queuedSig g then bkHELD else bkREADY) (i := g)).wb SIG.BANK_STAT_LOCKED false (i := g)
  s.onScn (fun c => { c with drained := bs c.drained g false })
/-- Verso is unlocked at b + 1, and after a load at e + 1 (R250, R251). -/
def versoUnlock (g : Nat) (s : State) : State :=
  if bg s.scn.drained g ∧ s.unlockIdx g ≤ s.tim.sample then
    if s.bankState g = bkCOPY then sigRaise g 18 (unlockSig g s)
    else if s.bankState g = bkLOAD then unlockSig g s
    else s
  else s
/-- Whatever of these is due by now. -/
def catchUp (g : Nat) (s : State) : State :=
  if s.bankState g = bkREADY ∨ s.bankState g = bkHELD then s else versoUnlock g (loadEnd g (copyEnd g (rampEnd g s)))
/-- What is due before the turns and edits of the present boundary: the drain at b and e is not, which takes in the edits of that boundary. -/
def settle (g : Nat) (s : State) : State := if s.unlockIdx g ≤ s.tim.sample then catchUp g s else rampEnd g s
/-- At the end of a sample period nothing that was due in it is left. -/
def bankStep (s : State) : State := s.each sigs (fun s g => catchUp g s)

/-- A load begins at a: verso is locked (R251, R264). -/
def loadStart (g : Nat) (s : State) : State :=
  match og s.scn.load g with
  | some (_, a, e) =>
    if a ≤ s.tim.sample ∧ s.bankState g ≠ bkLOAD then
      let s := settle g s
      let s := (s.wr SIG.BANK_STAT_STATE bkLOAD (i := g)).wb SIG.BANK_STAT_LOCKED true (i := g)
      (s.wr64 SIG.UNLOCK_IDX_HI SIG.UNLOCK_IDX_LO (e + 1) (i := g)).onScn (fun c => { c with drained := bs c.drained g false })
    else s
  | none => s
def loadsStart (s : State) : State := s.each (s.scn.load.map (·.1)) (fun s g => loadStart g s)

/-! ## Turn descriptors (R244) -/

/-- The signatures a descriptor names. -/
def State.tdMask (s : State) (td : Nat) : Nat := s.rw SCNE.TD_SCOPE_HI td * 2 ^ 32 + s.rw SCNE.TD_SCOPE_LO td
def State.tdScope (s : State) (td : Nat) : List Nat := sigs.filter (fun g => bit (s.tdMask td) g)
def State.tdDefined (s : State) (td : Nat) : Bool := s.rb SCNE.TD_STAT_DEFINED td
/-- The kept scope (R247). -/
def State.tdKeep (s : State) (td : Nat) : List Nat :=
  if s.tdDefined td then (s.tdScope td).filter (fun g => s.tdOwner td == 0 || s.sigOwner g == s.tdOwner td) else []
/-- An ARMED or FROZEN slot names the descriptor. -/
def State.tdNamed (s : State) (td : Nat) : Bool :=
  slots.any (fun i => (s.slotState i == slARMED || s.slotState i == slFROZEN) && s.rd COLL.SLOT_CTL_ACTION i == 1 &&
    s.rw COLL.SLOT_PARAM0 i % 64 == td)
/-- A function may write the descriptor's registers (R244). -/
def State.tdMay (s : State) (fn td : Nat) : Bool := (!s.tdDefined td || may fn (s.tdOwner td)) && !s.tdNamed td
/-- A tenant's scope names only its own signatures. -/
def State.scopeMay (s : State) (fn mask : Nat) : Bool := fn == 0 || sigs.all (fun g => !bit mask g || s.sigOwner g == fn)

/-! ## Firing, starting and dropping turns (R245–R248, R255, R256) -/

/-- TURN_DROP of a turn that is not a command's. -/
def turnDrop (td n : Nat) (scope : List Nat) (s : State) : State :=
  let s := (s.cntr SCNE.TURN_DROPS).raise 0x12 1 fnsAll
  (s.each scope (fun s g => sigRaise g 20 s)).err 0x0503 0x12 0 td n
/-- PARTIAL, with the number of signatures left out. -/
def turnPartial (td n : Nat) (s : State) : State := (s.wb SCNE.TD_STAT_PARTIAL true td).err 0x0504 0x12 0 td n
/-- A turn leaves out the signatures of its scope that it does not keep (R247). -/
def turnOmits (td : Nat) (s : State) : State :=
  let k := (s.tdScope td).length - (s.tdKeep td).length
  if k = 0 then s else turnPartial td k s
/-- Lock the signatures of a turn (R246, R251). -/
def lockTurn (t : Turn) (s : State) : State :=
  s.each t.sigs (fun s g =>
    let s := settle g s
    (s.wb SIG.BANK_STAT_LOCKED true (i := g)).wr64 SIG.UNLOCK_IDX_HI SIG.UNLOCK_IDX_LO (copyBoundary t.start t.rmp + 1) (i := g))

/-- Turns run in the mode (R248); STANDBY and SAFE drop them. -/
def turnsDropped (m : Nat) : Bool := m == mSTANDBY || m == mSAFE

/-- TURN_FIRE: a turn under a descriptor with first sample n is judged now. -/
def turnFire (td n : Nat) (s : State) : State :=
  let s := s.wr64 SCNE.TD_LAST_FIRE_HI SCNE.TD_LAST_FIRE_LO n td
  let scope := s.tdScope td
  let keep := s.tdKeep td
  let s := s.each keep (fun s g => settle g s)
  let s := turnOmits td s
  if keep.isEmpty || turnsDropped s.mode || keep.any s.queuedSig then turnDrop td n scope s
  else
    let busy := keep.filter s.locked
    let start := busy.foldl (fun a g => max a (s.unlockIdx g + 1)) n
    let t : Turn := { td := td, rmp := s.rd SCNE.TURN_CTL_RAMP td, n := n, start := start, sigs := keep }
    let s := (s.wr64 SCNE.TD_LAST_START_HI SCNE.TD_LAST_START_LO start td).onScn (fun c => { c with turns := c.turns ++ [t] })
    if busy.isEmpty then lockTurn t s
    else
      let s := if n < start then s.wb SCNE.TD_STAT_DELAYED true td else s
      s.each keep (fun s g =>
        let s := (s.wb SIG.BANK_STAT_QUEUED true (i := g)).wr SIG.BANK_STAT_QUEUED_TD td (i := g)
        let s := s.wr64 SIG.QSTART_IDX_HI SIG.QSTART_IDX_LO start (i := g)
        let s := if s.locked g then s else s.wr SIG.BANK_STAT_STATE bkHELD (i := g)
        sigRaise g 19 s)

/-- TURN_START of one turn. -/
def turnStart (t : Turn) (s : State) : State :=
  let s := s.each t.sigs (fun s g =>
    let s := settle g s
    let s := ((s.wb SIG.BANK_STAT_QUEUED false (i := g)).wr SIG.BANK_STAT_STATE bkRAMP (i := g)).wb SIG.BANK_STAT_LOCKED true (i := g)
    let s := (s.cntw SIG.GEN_GEN (i := g)).cntw SIG.TURNS_COUNT (i := g)
    let s := s.wr64 SIG.TURN_IDX_HI SIG.TURN_IDX_LO t.start (i := g)
    let s := (s.wr SIG.TURN_RAMP_TD t.td (i := g)).wr SIG.TURN_RAMP_RAMP t.rmp (i := g)
    let s := s.wr64 SIG.UNLOCK_IDX_HI SIG.UNLOCK_IDX_LO (copyBoundary t.start t.rmp + 1) (i := g)
    sigRaise g 16 (s.onScn (fun c => { c with drained := bs c.drained g false })))
  s.cnt SCNE.TD_STAT_FIRES t.td

/-- A TURN action reaches its slot's index (R54): its turn fired one sample before, or fires now if the slot was late. -/
def turnAct (i : Nat) (s : State) : State :=
  let n := ng s.tim.slotN i
  if ng s.scn.fired i = n + 1 then s else turnFire (s.rw COLL.SLOT_PARAM0 i % 64) n s

/-- Slots whose turn fires at the boundary of sample n − 1, n being the next sample. -/
def State.firingSlots (s : State) : List Nat :=
  slots.filter (fun i => s.slotState i == slFROZEN && s.rd COLL.SLOT_CTL_ACTION i == 1 && ng s.tim.slotN i == s.tim.sample + 1 &&
    ng s.scn.fired i != s.tim.sample + 2)

/-- Step 4 of R25: turns whose first sample is the present one start, then those fire whose first sample is the next. -/
def turnStep (s : State) : State :=
  let m := s.tim.sample
  let due := s.scn.turns.filter (fun t => decide (t.start ≤ m))
  let s := s.onScn (fun c => { c with turns := c.turns.filter (fun t => decide (m < t.start)) })
  let s := s.each due (fun s t => turnStart t s)
  let s := s.each (s.scn.turns.filter (fun t => t.start == m + 1)) (fun s t => lockTurn t s)
  let s := s.each s.firingSlots (fun s i =>
    turnFire (s.rw COLL.SLOT_PARAM0 i % 64) (m + 1) (s.onScn (fun c => { c with fired := ns c.fired i (m + 2) })))
  let now := s.scn.now.filter (fun r => decide (r.2 ≤ m + 1))
  let s := s.onScn (fun c => { c with now := c.now.filter (fun r => decide (m + 1 < r.2)) })
  s.each now (fun s r => turnFire r.1 r.2 s)

/-- Signatures whose turn starts at index n, as it stands one sample before the turn fires (R223): the turns that will have fired. -/
def State.startsAt (s : State) (n : Nat) : List Nat :=
  let next := turnStep (s.onTim (fun t => { t with sample := n - 1 }))
  ((s.scn.turns ++ next.scn.turns).filter (fun t => decide (t.start ≤ n))).flatMap (·.sigs)

/-- A turn carried out at once with no ramp, in CONFIG and ACQUIRE (R248). -/
def turnAtOnce (td : Nat) (s : State) : State :=
  let keep := s.tdKeep td
  let s := turnOmits td s
  let s := s.wr64 SCNE.TD_LAST_FIRE_HI SCNE.TD_LAST_FIRE_LO s.idx td
  let s := turnStart { td := td, rmp := 0, n := s.idx, start := s.idx, sigs := keep }
    (s.wr64 SCNE.TD_LAST_START_HI SCNE.TD_LAST_START_LO s.idx td)
  s.each keep (fun s g =>
    let s := sigRaise g 17 (s.wr SIG.BANK_STAT_RECTO_BANK (1 - s.recto g) (i := g))
    sigRaise g 18 (unlockSig g (drain g (versoEqual g s))))
/-- A load is in progress on a kept signature. -/
def State.keepLoads (s : State) (td : Nat) : Bool := (s.tdKeep td).any (fun g => s.bankState g == bkLOAD)
/-- A NOW request in CONFIG or ACQUIRE is carried out, or dropped (R248, R256). -/
def nowAtOnce (td : Nat) (s : State) : State :=
  if s.keepLoads td ∨ (s.tdKeep td).isEmpty then turnDrop td s.idx (s.tdScope td) (turnOmits td s) else turnAtOnce td s
/-- On entry to CONFIG every turn in progress ends, and the queued ones are dropped; a request that belongs to the tick that begins is carried
out at once (R245, R248). -/
def turnsConfig (s : State) : State :=
  let m := s.tim.sample
  let begun := s.scn.turns.filter (fun t => decide (t.start ≤ m))
  let rest := s.scn.turns.filter (fun t => decide (m < t.start))
  let now := s.scn.now
  let s := s.onScn (fun c => { c with turns := [], now := [] })
  let s := s.each begun (fun s t => turnStart t s)
  let s := s.each sigs (fun s g =>
    let s := if s.bankState g = bkRAMP then rampEnd g ((s.wr64 SIG.TURN_IDX_HI SIG.TURN_IDX_LO (min (s.turnIdx g) m) (i := g)).wr SIG.TURN_RAMP_RAMP 0 (i := g)) else s
    if s.bankState g = bkCOPY then sigRaise g 18 (unlockSig g (if bg s.scn.drained g then s else drain g s)) else s)
  let s := s.each rest (fun s t =>
    let s := s.each t.sigs (fun s g =>
      let s := s.wb SIG.BANK_STAT_QUEUED false (i := g)
      if s.bankState g = bkHELD then s.wr SIG.BANK_STAT_STATE bkREADY (i := g) else s)
    turnDrop t.td t.n (s.tdScope t.td) s)
  s.each now (fun s r => nowAtOnce r.1 s)
def atOnce (m : Nat) : Bool := m == mCONFIG || m == mACQUIRE
/-- The first sample of a request for the next tick (R245, R388). -/
def State.nowIndex (s : State) : Nat :=
  if s.mirrorActive then 32 * (s.accTick + 2) else if s.tim.sample % 32 ≤ 29 then 32 * (s.tick + 1) else 32 * (s.tick + 2)

/-! ## Acting on verso at a boundary (R241–R243, R251) -/

/-- The signature is locked, or will be, at a boundary that lies ahead. -/
def State.willLock (s : State) (due g : Nat) : Bool :=
  (s.locked g && decide (due < s.unlockIdx g)) ||
  (match og s.scn.load g with | some (_, a, e) => decide (a ≤ due) && decide (due ≤ e) | none => false) || s.scn.turns.any (fun t => decide (t.start ≤ due + 1) && t.sigs.contains g) ||
  slots.any (fun i => s.slotState i == slFROZEN && s.rd COLL.SLOT_CTL_ACTION i == 1 && decide (ng s.tim.slotN i ≤ due + 1) &&
    ng s.scn.fired i != ng s.tim.slotN i + 1 && (s.tdKeep (s.rw COLL.SLOT_PARAM0 i % 64)).contains g) ||
  s.scn.now.any (fun r => decide (r.2 ≤ due + 1) && (s.tdKeep r.1).contains g)

/-- Nodes that wait for a boundary and will then go into the FIFO, in all and by function. -/
def State.editAhead (s : State) (p : Edit → Bool) : Nat :=
  s.scn.verso.foldl (fun a v => match v.2 with
    | .edits _ l => a + (l.filter (fun e => p e && s.willLock v.1 e.sig)).length
    | _ => a) 0
/-- R253: n more entries fit for a function. -/
def State.editFits (s : State) (fn n : Nat) : Bool :=
  n == 0 || (decide (s.scn.fifo.length + s.editAhead (fun _ => true) + n ≤ fifoSize) &&
    decide (s.editUsed fn + s.editAhead (fun e => e.fn == fn) + n ≤ s.editQuota fn))

/-- Nodes reach verso, or the FIFO where it is locked, and where those do not fit none of the request does (R242, R253); a function that has lost
a signature loses its nodes there. -/
def editApply (window : Bool) (l : List Edit) (s : State) : State :=
  let s := s.each (l.map (·.sig)).eraseDups (fun s g => settle g s)
  let lost := l.filter (fun e => !may e.fn (s.sigOwner e.sig))
  let s := s.each lost (fun s e => editDrops e.fn 1 s)
  let l := l.filter (fun e => may e.fn (s.sigOwner e.sig))
  let held := l.filter (fun e => s.locked e.sig)
  let free := l.filter (fun e => !s.locked e.sig)
  match held with
  | [] => s.each free (fun s e => versoWrite false e.sig [(e.node, e.code)] s)
  | e :: _ =>
    if s.scn.fifo.length + held.length ≤ fifoSize ∧ s.editUsed e.fn + held.length ≤ s.editQuota e.fn then
      let s := s.each free (fun s e => versoWrite false e.sig [(e.node, e.code)] s)
      editSync (s.onScn (fun c => { c with fifo := c.fifo ++ held }))
    else if window then editOvf e.fn e.sig held.length s
    else s
/-- One waiting operation at its boundary. -/
def versoDo (s : State) (o : VersoOp) : State :=
  match o with
  | .edits w l => editApply w l s
  | .revert gs => s.each gs (fun s g =>
      let s := settle g s
      if s.locked g then s.wb SIG.VERSO_STAT_REFUSED true (i := g) else versoEqual g s)
  | .clear gs => s.each gs (fun s g =>
      let s := settle g s
      if s.locked g then s.wb SIG.VERSO_STAT_REFUSED true (i := g) else versoFill g [] s)
/-- What waits for the present boundary, in the order accepted. -/
def versoStep (s : State) : State :=
  let due := s.scn.verso.filter (fun v => decide (v.1 ≤ s.tim.sample))
  let s := s.onScn (fun c => { c with verso := c.verso.filter (fun v => decide (s.tim.sample < v.1)) })
  s.each due (fun s v => versoDo s v.2)
/-- Leave an operation to the boundary of R27 or R388. -/
def versoAdd (o : VersoOp) (s : State) : State := s.onScn (fun c => { c with verso := c.verso ++ [(s.applyAt, o)] })

/-! ## A signature changes owner (R232, R260) -/

/-- The queued turn of a signature leaves it out. -/
def turnLeave (g : Nat) (s : State) : State :=
  if s.queuedSig g = false then s
  else
    let s := s.wb SIG.BANK_STAT_QUEUED false (i := g)
    let s := if s.bankState g = bkHELD then s.wr SIG.BANK_STAT_STATE bkREADY (i := g) else s
    let queued := fun (t : Turn) => t.sigs.contains g && t.start == s.rd64 SIG.QSTART_IDX_HI SIG.QSTART_IDX_LO (i := g)
    let mine := s.scn.turns.filter queued
    let s := s.onScn (fun c => { c with
      turns := (c.turns.map (fun t => if queued t then { t with sigs := t.sigs.filter (· != g) } else t)).filter (fun t => !t.sigs.isEmpty) })
    s.each mine (fun s t =>
      let s := turnPartial t.td 1 s
      if t.sigs = [g] then turnDrop t.td t.n (s.tdScope t.td) s else s)
/-- Give a signature to a function. -/
def sigGive (fn g : Nat) (s : State) : State :=
  let old := s.sigOwner g
  if old = fn then s
  else
    let s := turnLeave g (editDiscard (fun e => e.sig == g && e.fn == old) s)
    let s := s.onHeld (fun hs => hs.filter (fun h => !(h.pg == 0x40 + g && h.fn != 16 && !may (actsAs h.fn) fn)))
    (s.wr SIG.SIG_STAT_OWNER fn (i := g)).onMet (fun m => { m with moved := m.moved ++ (List.range 64).map (4096 + 64 * g + ·) })

/-! ## Stored scenes (R262–R264) -/

/-- The room of the scene store: what the flash has above 28 MiB (R587). -/
def State.storeKiB (s : State) : Nat := (s.flash.sizeMiB - 28) * 1024
def sceneKiB (c : Scene) : Nat := (Config.recordKiB c.codes).val
/-- STORE_STAT.FREE follows the store. -/
def storeFix (s : State) : State :=
  s.wr SCNE.STORE_STAT_FREE (s.storeKiB - s.flash.scenes.foldl (fun a c => a + sceneKiB c) 0)
def sceneSame (a b : Scene) : Bool := a.fn == b.fn && a.id == b.id && a.sig == b.sig
/-- What a save would store. -/
def State.sceneCopy (s : State) (fn : Nat) (w : Nat × Nat × Bool) : Scene :=
  { fn := fn, id := w.1, sig := w.2.1, gen := s.rw SIG.GEN (i := w.2.1), codes := if w.2.2 then s.versoBank w.2.1 else s.rectoBank w.2.1, seq := 0,
    crc := 0 }
/-- Records enter the journal whole, each with its sequence number and CRC; one of the same owner, ID and signature is replaced (R262). -/
def journal (l : List Scene) (s : State) : State :=
  s.each l (fun s c => (flashWrote s).onFlash (fun f =>
    let q := f.sceneSeq + 1
    { f with
      sceneSeq := q
      scenes := f.scenes.filter (fun x => !sceneSame x c) ++
        [{ c with seq := q, crc := Config.recordCrc [c.id, c.sig, c.gen, c.fn, q] c.codes }] }))
/-- The copy of a save is made at a tick boundary. -/
def saveTick (s : State) : State :=
  match s.scn.save with
  | some v => if v.copy.isSome then s else s.onScn (fun c => { c with save := some { v with copy := some (v.what.map (s.sceneCopy v.fn)) } })
  | none => s

/-! ## The rows: events -/

def execRampEnd (sig : Nat) (s : State) : Host.Outcome State Fault Refusal := .next (awake s (if sig < 64 then rampEnd sig s else s))
def execCopyOverEnd (sig : Nat) (s : State) : Host.Outcome State Fault Refusal := .next (awake s (if sig < 64 then copyEnd sig (rampEnd sig s) else s))
def execVersoUnlock (sig : Nat) (s : State) : Host.Outcome State Fault Refusal :=
  .next (awake s (if sig < 64 then catchUp sig s else s))
def execSceneLoadEnd (sig : Nat) (s : State) : Host.Outcome State Fault Refusal :=
  .next (awake s (if sig < 64 then versoUnlock sig (loadEnd sig s) else s))
/-- SCENE_SAVE_DONE: the records are journaled, and the save completes (R263). -/
def execSceneSaveDone (s : State) : Host.Outcome State Fault Refusal :=
  .next (awake s (match s.scn.save with
    | some v =>
      match v.copy with
      | some l =>
        if s.rb FALT.PFAIL_STAT_ASSERTED then s
        else
        let s := storeFix (((journal l s).onScn (fun c => { c with save := none })).wb SCNE.STORE_STAT_BUSY false)
        complete v.env stOK 0 [] true (s.raise 0x12 2 fnsAll)
      | none => s
    | none => s))

/-! ## The rows: commands -/

/-- The caller owns every signature named. -/
def sigsOwn (gs : List Nat) (fn : Nat) (s : State) : Option Nat := if gs.all (fun g => 63 < g || may fn (s.sigOwner g)) then none else some stNOT_OWNER

/-- Edits of a command, all of them or none (R242, R253). -/
def editCmd (l : List NodeW) (fn : Nat) (s : State) : Res :=
  if l = [] ∨ 1024 < l.length ∨ l.any (fun w => 4095 < w.i || 4095 < w.o || 65535 < w.code) then no stBAD_FIELD
  else
    let es := l.map (fun w => ({ fn := fn, sig := sigOf w.o, node := 4096 * (w.o % 64) + w.i, code := w.code } : Edit))
    let n := (es.filter (fun e => s.willLock s.applyAt e.sig)).length
    if s.editFits fn n then done (versoAdd (.edits false es) s) else no stEDIT_FULL
def execSceneEdit (e : Env) (l : List NodeW) (s : State) : Host.Outcome State Fault Refusal :=
  .next (runCmd { mirrored := true, code := 0x0410 } e (sigsOwn (l.map (fun w => sigOf w.o))) (editCmd l) s)
/-- The nodes of a block, in output-major order. -/
def blockNodes (i ni o : Nat) (codes : List Nat) : List NodeW :=
  (List.range codes.length).map (fun k => { i := i + k % ni, o := o + k / ni, code := codes.getD k 0 })
def execSceneEditBlock (e : Env) (i ni o no_ : Nat) (codes : List Nat) (s : State) : Host.Outcome State Fault Refusal :=
  .next (let l := blockNodes i ni o codes
    runCmd { mirrored := true, code := 0x0411 } e (sigsOwn (l.map (fun w => sigOf w.o)))
      (fun fn s => if ni = 0 ∨ no_ = 0 ∨ codes.length ≠ ni * no_ then no stBAD_FIELD else editCmd l fn s) s)
/-- SCENE_READ: the codes of nodes (X-in, X-out). -/
def execSceneRead (e : Env) (verso : Bool) (l : List (Nat × Nat)) (s : State) : Host.Outcome State Fault Refusal :=
  .next (runCmd { read := true } e (sigsOwn (l.map (fun w => sigOf w.2))) (fun _ s =>
    if l = [] ∨ 1024 < l.length ∨ l.any (fun w => 4095 < w.1 || 4095 < w.2) then no stBAD_FIELD
    else retL s 1 (l.map (fun w =>
      let g := sigOf w.2
      ng (if verso then s.versoBank g else s.rectoBank g) (4096 * (w.2 % 64) + w.1)))) s)
/-- SCENE_REVERT and SCENE_CLEAR. -/
def versoCmd (op : List Nat → VersoOp) (gs : List Nat) (s : State) : Res :=
  if gs = [] ∨ gs.any (63 < ·) then no stBAD_FIELD
  else if gs.any (s.willLock s.applyAt) then no stBUSY
  else done (versoAdd (op gs) s)
def execSceneRevert (e : Env) (sigs : List Nat) (s : State) : Host.Outcome State Fault Refusal :=
  .next (runCmd { mirrored := true, code := 0x0413 } e (sigsOwn sigs) (fun _ s => versoCmd .revert sigs s) s)
def execSceneClear (e : Env) (sigs : List Nat) (s : State) : Host.Outcome State Fault Refusal :=
  .next (runCmd { mirrored := true, code := 0x0414 } e (sigsOwn sigs) (fun _ s => versoCmd .clear sigs s) s)

/-- A descriptor that is DEFINED belongs to its owner; a scope names only the caller's signatures (R244, R269). -/
def tdOwn (td scope fn : Nat) (s : State) : Option Nat :=
  if (td < 64 ∧ s.tdDefined td ∧ may fn (s.tdOwner td) = false) ∨ s.scopeMay fn scope = false then some stNOT_OWNER else none
/-- Define a descriptor for a function, and release one. -/
def tdDefine (fn td : Nat) (s : State) : State := (s.wb SCNE.TD_STAT_DEFINED true td).wr SCNE.TD_STAT_OWNER fn td
def tdRelease (td : Nat) (s : State) : State := (s.wb SCNE.TD_STAT_DEFINED false td).wr SCNE.TD_STAT_OWNER 0 td
/-- The effect of the command. -/
def turnDefineBody (td : Nat) (release : Bool) (scope : Nat) (ramp : Nat) (fn : Nat) (s : State) : Res :=
    if 63 < td ∨ 16384 < ramp ∨ 2 ^ 64 ≤ scope ∨ (release ∧ s.tdDefined td = false) then no stBAD_FIELD
    else if s.tdNamed td then no stBUSY
    else if release then done (tdRelease td s)
    else
      let s := (s.wr SCNE.TURN_CTL_RAMP ramp td).ww SCNE.TD_SCOPE_HI (scope / 2 ^ 32) td
      done (tdDefine fn td (s.ww SCNE.TD_SCOPE_LO (scope % 2 ^ 32) td))
def execTurnDefine (e : Env) (td : Nat) (release : Bool) (scope ramp : Nat) (s : State) : Host.Outcome State Fault Refusal :=
  .next (runCmd { mirrored := true, code := 0x0415 } e (tdOwn td (if release then 0 else scope)) (turnDefineBody td release scope ramp) s (some (.turnDefine e td release scope ramp)))
/-- TURN (R245, R248). -/
def execTurn (e : Env) (td : Nat) (a : SlotArgs) (s : State) : Host.Outcome State Fault Refusal :=
  .next (runCmd { mirrored := true, code := 0x0416, modes := fun m => !turnsDropped m } e (tdOwn td 0) (fun fn s =>
    if 63 < td ∨ s.tdDefined td = false ∨ 7 < a.tbsel then no stBAD_FIELD
    else if atOnce s.mode then
      if s.keepLoads td ∨ (s.tdKeep td).isEmpty then no stBUSY else retIdx (turnAtOnce td s) s.idx
    else if a.tbsel = 6 then
      if (s.tdKeep td).isEmpty ∨ (s.tdKeep td).any s.queuedSig then no stBUSY
      else retIdx (s.onScn (fun c => { c with now := c.now ++ [(td, s.nowIndex)] })) s.nowIndex
    else armNew fn { a with action := 1, p0 := td, p1 := 0 } s) s)
def turnWords (s : State) (g : Nat) : List Nat :=
  [s.rw SIG.BANK_STAT (i := g), s.rw SIG.GEN (i := g), s.rw SIG.TURN_IDX_HI (i := g), s.rw SIG.TURN_IDX_LO (i := g), s.rw SIG.TURN_RAMP (i := g),
   s.rw SIG.UNLOCK_IDX_HI (i := g), s.rw SIG.UNLOCK_IDX_LO (i := g), s.rw SIG.QSTART_IDX_HI (i := g), s.rw SIG.QSTART_IDX_LO (i := g)]
def execTurnStatus (e : Env) (sigs : List Nat) (td : Nat) (s : State) : Host.Outcome State Fault Refusal :=
  .next (runCmd { read := true } e (fun fn s => (sigsOwn sigs fn s).or (tdOwn td 0 fn s)) (fun _ s =>
    if 64 < sigs.length ∨ sigs.any (63 < ·) ∨ 63 < td then no stBAD_FIELD
    else ret s (s.rw SCNE.TD_STAT td :: sigs.flatMap (turnWords s))) s)

def execSceneSave (e : Env) (l : List (Nat × Nat × Bool)) (s : State) : Host.Outcome State Fault Refusal :=
  .next (runCmd {} e (sigsOwn (l.map (fun w => w.2.1))) (fun fn s =>
    if l = [] ∨ 8 < l.length ∨ l.any (fun w => 65535 < w.1 || 63 < w.2.1) then no stBAD_FIELD
    else if s.scn.save.isSome then no stBUSY
    else if s.rd SCNE.STORE_STAT_FREE < l.foldl (fun a w => a + sceneKiB (s.sceneCopy fn w)) 0 then no stSTORE_FULL
    else .later ((s.wb SCNE.STORE_STAT_BUSY true).onScn (fun c => { c with save := some { env := e, fn := fn, what := l, copy := none } }))) s)
/-- A record of the caller's. -/
def State.sceneFind (s : State) (fn id src : Nat) : Option Scene := s.flash.scenes.find? (fun c => c.fn == fn && c.id == id && c.sig == src)
/-- A load that begins at the next boundary and ends `dur` samples later, at most 960 (R264). -/
def loadBegin (g : Nat) (c : Scene) (dur : Nat) (s : State) : State :=
  s.onScn (fun x => { x with load := os x.load g (some (c, s.applyAt, s.applyAt + max 1 (min 960 dur))) })
def execSceneLoad (e : Env) (id src dst dur : Nat) (s : State) : Host.Outcome State Fault Refusal :=
  .next (runCmd { mirrored := true, code := 0x0419 } e (sigsOwn [dst]) (fun fn s =>
    match s.sceneFind fn id src with
    | none => no stBAD_FIELD
    | some c =>
      if 63 < dst then no stBAD_FIELD
      else if s.bankState dst = bkHELD ∨ s.willLock s.applyAt dst then no stBUSY
      else done (loadBegin dst c dur s)) s)
def execSceneList (e : Env) (page : Nat) (s : State) : Host.Outcome State Fault Refusal :=
  .next (runCmd { read := true } e anyone (fun fn s =>
    retL s 4 ((((s.flash.scenes.filter (fun c => c.fn == fn)).drop (64 * page)).take 64).flatMap (fun c =>
      [c.id, c.sig, c.gen, sceneKiB c]))) s)
def sceneOwn (id src fn : Nat) (s : State) : Option Nat :=
  if (s.sceneFind fn id src).isNone ∧ s.flash.scenes.any (fun c => c.id == id && c.sig == src) then some stNOT_OWNER else none
def execSceneDelete (e : Env) (id src : Nat) (s : State) : Host.Outcome State Fault Refusal :=
  .next (runCmd {} e (sceneOwn id src) (fun fn s =>
    match s.sceneFind fn id src with
    | none => no stBAD_FIELD
    | some c => done (storeFix (flashWrote (s.onFlash (fun f => { f with scenes := f.scenes.erase c }))))) s)

/-! ## The rows: registers and the window -/

/-- A write of a descriptor's RAMP or scope: it waits for a sample boundary, or is ignored and sets WR_IGN (R244). -/
def tdWrite (fn off w : Nat) (s : State) : State :=
  let td := s.rd SCNE.TD_SEL_TD fn
  let bad := (off == 0x044 && decide (16384 < fbits w 14 0)) || (off == 0x048 && !s.scopeMay (actsAs fn) (w * 2 ^ 32)) ||
    (off == 0x04C && !s.scopeMay (actsAs fn) w)
  if s.mirrorStandby then s
  else if s.tdMay (actsAs fn) td && !bad then s.writeWord fn 0x12 td off .base w
  else s.wb SCNE.TD_STAT_WR_IGN true td
/-- NOW: a write of TURN_CTL with bit 31 (R245, R248). The RAMP field of the write is taken as any write of it is. -/
def regNow (fn w : Nat) (s : State) : State :=
  let td := s.rd SCNE.TD_SEL_TD fn
    if s.mirrorStandby then s
    else if s.tdDefined td ∧ may (actsAs fn) (s.tdOwner td) = false then s.wb SCNE.TD_STAT_WR_IGN true td
    else
    let s := tdWrite fn 0x044 w s
    if bit w 31 = false then s
    else if atOnce s.mode then
      nowAtOnce td s
    else s.onScn (fun c => { c with now := c.now ++ [(td, s.nowIndex)] })
def execNow (fn w : Nat) (s : State) : Host.Outcome State Fault Refusal := .next (awake s (actNoted 0x12 s (regNow fn w s)))
/-- DEFINE: a write of TD_CTL with bit 31 (R244). -/
def defineNow (fn td : Nat) (s : State) : State :=
  if s.tdMay fn td && s.scopeMay fn (s.tdMask td) then tdDefine fn td s else s.wb SCNE.TD_STAT_WR_IGN true td
/-- On the active member of a mirror pair it takes place at R388's boundary, as RELEASE does. -/
def regDefine (fn w : Nat) (s : State) : State :=
  let td := s.rd SCNE.TD_SEL_TD fn
    if s.mirrorStandby ∨ bit w 31 = false then s
    else if s.mirrorActive then mirrorLater (.define (actsAs fn) td) s
    else defineNow (actsAs fn) td s
def execDefine (fn w : Nat) (s : State) : Host.Outcome State Fault Refusal := .next (awake s (actNoted 0x12 s (regDefine fn w s)))
/-- RELEASE: a write of TD_CTL with bit 30 (R244, R266). -/
def releaseNow (fn td : Nat) (s : State) : State :=
  if s.tdDefined td = false then s else if s.tdMay fn td then tdRelease td s else s.wb SCNE.TD_STAT_WR_IGN true td
def regRelease (fn w : Nat) (s : State) : State :=
  let td := s.rd SCNE.TD_SEL_TD fn
    if s.mirrorStandby ∨ bit w 30 = false ∨ s.tdDefined td = false then s
    else if s.mirrorActive then mirrorLater (.release (actsAs fn) td) s
    else releaseNow (actsAs fn) td s
def execRelease (fn w : Nat) (s : State) : Host.Outcome State Fault Refusal := .next (awake s (actNoted 0x12 s (regRelease fn w s)))
/-- VERSO_CTL (R251, R267): refused writes set REFUSED. -/
def versoReg (op : List Nat → VersoOp) (fn sig b w : Nat) (s : State) : State :=
  if 63 < sig ∨ bit w b = false ∨ s.mirrorStandby ∨ may (actsAs fn) (s.sigOwner sig) = false then s
  else if s.willLock s.applyAt sig then s.wb SIG.VERSO_STAT_REFUSED true (i := sig)
  else versoAdd (op [sig]) s
def execVersoClear (fn sig w : Nat) (s : State) : Host.Outcome State Fault Refusal := .next (awake s (actNoted (0x40 + sig) s (versoReg .clear fn sig 1 w s)))
def execVersoRevert (fn sig w : Nat) (s : State) : Host.Outcome State Fault Refusal := .next (awake s (actNoted (0x40 + sig) s (versoReg .revert fn sig 0 w s)))

/-- The nodes of a window write: pairs of bytes with both enabled, at an offset within BAR2 (R240, R241). -/
def windowNodes (fn : Nat) : Nat → List (Option Byte) → List Edit
  | a, x :: y :: t =>
    if a % 2 = 1 then windowNodes fn (a + 1) (y :: t)
    else
      let rest := windowNodes fn (a + 2) t
      match x, y with
      | some l, some h =>
        { fn := fn, sig := a / 0x80000, node := 4096 * (a / 0x2000 % 64) + a / 2 % 4096, code := l.toNat + 256 * h.toNat } :: rest
      | _, _ => rest
  | _, _ => []
/-- VERSO_WINDOW_WRITE (R241, R253). -/
def execVersoWindowWrite (fn ofs : Nat) (bytes : List (Option Byte)) (s : State) : Host.Outcome State Fault Refusal :=
  .next (awake s (actNoted (0x40 + ofs / 0x80000) s (
    let es := ((windowNodes (actsAs fn) ofs bytes).take 128).filter (fun e => decide (e.sig < 64) && may (actsAs fn) (s.sigOwner e.sig))
    let n := (es.filter (fun e => s.willLock s.applyAt e.sig)).length
    if 256 < bytes.length ∨ s.mirrorStandby ∨ es = [] then s
    else if s.editFits (actsAs fn) n then versoAdd (.edits true es) s
    else editOvf (actsAs fn) (ofs / 0x80000) n s)))

end Sys2Proof.Machine
end

