-- ==== Sys2Proof/Machine/Meters.lean ====
section
/-!
DEFINITION. Meters and signal detection (R270–R290): the gates, what is published at each tick, and snapshot records.
-/
namespace Sys2Proof.Machine

/-! ## Owners -/

/-- The owner of a meter (R283). -/
def State.metOwner (s : State) (m : Nat) : Nat := if m < 4096 then s.xinOwner m else s.xoutOwner (m - 4096)

/-! ## Gates (R278, R279) -/

/-- One X-in's gate decides its state for the present vector. -/
def gate1 (s : State) (x : Nat) : State :=
  let g := s.rd METR.MTR_CFG_GATE_PROF x
  let a := (ig s.xp.vec x).natAbs
  let opens := levelGe a 31 (s.rd METR.GATE_PROF_OPEN g)
  let keeps := levelGe a 31 (s.rd METR.GATE_PROF_CLOSE g)
  let s :=
    if bg s.met.gate x then
      if keeps then s.onMet (fun m => { m with hang := ns m.hang x 0 })
      else
        let h := ng s.met.hang x + 1
        let shut := decide (s.rd METR.GATE_HANG_HANG g ≤ h)
        s.onMet (fun m => { m with hang := ns m.hang x h, gate := bs m.gate x (!shut) })
    else if opens then s.onMet (fun m => { m with hang := ns m.hang x 0, gate := bs m.gate x true })
    else s
  if bg s.met.gate x then s.onMet (fun m => { m with opened := bs m.opened x true }) else s
/-- The X-ins whose gate can be open: all of them when a profile opens at level code 0. -/
def State.gateList (s : State) : List Nat :=
  if (List.range 8).any (fun g => s.rd METR.GATE_PROF_OPEN g == 0) then List.range 4096
  else (s.xp.vec.map (·.1) ++ s.met.gate.map (·.1)).eraseDups
/-- GATE_DECIDE. -/
def gates (s : State) : State := s.each s.gateList gate1

/-! ## What a tick gathers -/

/-- Note the elements of the present vector, and the present output values. -/
def metNoteIn (s : State) : State :=
  s.onMet (fun m => { m with vals := s.xp.vec.foldl (fun t e =>
    tset (fun _ => []) t e.1 (tget (fun _ => []) t e.1 ++ [(s.tim.sample % 32, e.2)])) m.vals })
def metNoteOut (s : State) : State :=
  s.onMet (fun m => { m with vals := s.xp.y.foldl (fun t e =>
    tset (fun _ => []) t (4096 + e.1) (tget (fun _ => []) t (4096 + e.1) ++ [(s.tim.sample % 32, e.2)])) m.vals })

/-- The profile words, the profile of each meter and the generations at the first sample of a tick (R275, R281). -/
def metLatch (s : State) : State :=
  if s.tim.sample % 32 ≠ 0 then s
  else
    let prof := (List.range 8).flatMap (fun p => [s.rw METR.BAL_PROF_A p, s.rw METR.BAL_PROF_B p])
    let bal := (s.listed 0x13 0x044).foldl (fun t m => ns t m (s.rd METR.MTR_CFG_BAL_PROF m)) ([] : Tbl Nat)
    let tag := sigs.foldl (fun t g => tset (fun _ => (0, false)) t g
      (s.rw SIG.GEN (i := g), decide (s.turnRamp g ≠ 0 ∧ s.tim.sample < s.turnIdx g + s.turnRamp g))) ([] : Tbl (Nat × Bool))
    s.onMet (fun m => { m with
      prof := prof, bal := bal, tagA := tag
      blocks := m.blocks.map (fun b => match b.2 with
        | some k => if k.start = some s.tim.sample then (b.1, some { k with tags := tag }) else b
        | none => b) })

/-- The largest magnitude of a list of values. -/
def peakOf (l : List Int) : Nat := l.foldl (fun (a : Nat) (x : Int) => max a x.natAbs) 0
/-- The mean of squares of R275. -/
def squares (l : List Int) : Nat := l.foldl (fun (a : Nat) (x : Int) => a + (x * x).toNat / 32) 0
/-- The 32 values of a tick in order. -/
def tickVals (l : List (Nat × Int)) : List Int := (List.range 32).map (fun j => match l.find? (fun (e : Nat × Int) => e.1 == j) with | some e => e.2 | none => 0)
/-- E of R275. -/
def rmsStep (e p c : Nat) : Nat := ((e : Int) + ((p : Int) - e) / c).toNat
/-- H and a of R276. -/
def holdStep (h a p hold decay : Nat) : Nat × Nat :=
  if h ≤ p then (p, 0) else if hold = 0xFFFF then (h, a) else if a < hold then (h, a + 1) else (max p (h - decay), a)

def pubZero : Pub := { peak := 0, tpeak := 0, rms := 0, hold := 0, gate := false, popn := 0, clips := 0, opened := false }
def State.pubOf (s : State) (m : Nat) : Pub := (og s.met.pub m).getD pubZero
/-- The tag of a signature for the block from a mark to now: generation, GEN_DELTA, MIXED (R281). -/
def State.tagSince (s : State) (t : Tbl (Nat × Bool)) (g : Nat) : Nat × Nat × Bool :=
  let a := tget (fun _ => (0, false)) t g
  let gen := s.rw SIG.GEN (i := g)
  let d := (gen + 2 ^ 32 - a.1) % 2 ^ 32
  (gen, min 255 d, decide (0 < d) || a.2)

/-- One meter at the end of a tick (R273). -/
def publish1 (s : State) (m : Nat) : State :=
  let vals := tget (fun _ => []) s.met.vals m
  let xs := tickVals vals
  let p := ng s.met.bal m
  let a := s.met.prof.getD (2 * p) (s.rw METR.BAL_PROF_A p)
  let b := s.met.prof.getD (2 * p + 1) (s.rw METR.BAL_PROF_B p)
  let e := rmsStep (ng s.met.e m) (squares xs) (if bit a 31 then 900 else 30)
  let peak := levelCode (peakOf xs) 31
  let old := tget (fun _ => []) s.met.tail m
  let tp := if m < 4096 then 0 else if peakOf xs = 0 ∧ peakOf old = 0 then 0 else max peak (levelCode (Config.truePeak old xs) 39)
  let h := holdStep (ng s.met.hold m) (ng s.met.age m) (256 * (if bit a 30 ∧ 4096 ≤ m then tp else peak)) (fbits a 15 0) (fbits b 15 0)
  let o := m - 4096
  let pub : Pub := { peak := peak, tpeak := tp, rms := rmsCode e, hold := h.1 / 256, gate := bg s.met.gate m,
                     popn := if m < 4096 then 0 else s.rd SIG.OUT_POP_N (o % 64) (sigOf o), clips := ng s.met.clips m, opened := bg s.met.opened m }
  let tail := if m < 4096 ∨ peakOf (xs.drop 20) = 0 then [] else (xs.drop 20).reverse
  s.onMet (fun t => { t with
    e := ns t.e m e, hold := ns t.hold m h.1, age := ns t.age m h.2, tail := tset (fun _ => []) t.tail m tail,
    pub := os t.pub m (if pub = pubZero then none else some pub) })

/-- A meter that changed owner starts again (R283). -/
def metReset (s : State) (m : Nat) : State :=
  s.onMet (fun t => { t with
    vals := tset (fun _ => []) t.vals m [], clips := ns t.clips m 0, opened := bs t.opened m false, tail := tset (fun _ => []) t.tail m [],
    e := ns t.e m 0, hold := ns t.hold m 0, age := ns t.age m 0, gate := bs t.gate m false, hang := ns t.hang m 0, pub := os t.pub m none
    blocks := t.blocks.map (fun b => (b.1, b.2.map (fun k => { k with meters := os k.meters m none }))) })
/-- The holds whose clear is due (R276). -/
def metClears (s : State) : State :=
  let all := (s.met.hold.map (·.1)).filter (fun m => s.met.clr.contains m || s.met.clrAll.any (fun fn => may fn (s.metOwner m)))
  let s := s.onMet (fun t => { t with hold := all.foldl (fun h m => ns h m 0) t.hold, age := all.foldl (fun h m => ns h m 0) t.age })
  s.onMet (fun t => { t with clr := [], clrAll := [] })
/-- GATE_MAP (R288). -/
def gateMap (s : State) : State :=
  let ws := ((s.listed 0x13 0x100) ++ s.met.gate.map (fun (e : Nat × Bool) => e.1 / 32)).eraseDups
  s.each ws (fun s w => s.ww METR.GATE_MAP
    ((List.range 32).foldl (fun a b => a + b2n ((og s.met.pub (32 * w + b)).getD pubZero).gate * 2 ^ b) 0) w)

/-- Meters that may publish anything but zero. -/
def State.metKeys (s : State) : List Nat :=
  let m := s.met
  (m.vals.map (·.1) ++ m.e.map (·.1) ++ m.hold.map (·.1) ++ m.age.map (·.1) ++ m.pub.map (·.1) ++ m.clips.map (·.1) ++
    m.opened.map (·.1) ++ m.gate.map (·.1) ++ m.tail.map (·.1)).eraseDups

/-! ## Snapshot records (R280, R284–R287) -/

/-- A meter's value over a block, with the tick just published (R280). -/
def pubMerge (a b : Pub) : Pub :=
  { peak := max a.peak b.peak, tpeak := max a.tpeak b.tpeak, rms := b.rms, hold := b.hold, gate := b.gate, popn := max a.popn b.popn,
    clips := a.clips + b.clips, opened := a.opened || b.opened }
/-- A meter that published nothing but zero in the tick. -/
def pubFall (v : Pub) : Pub := { v with rms := 0, hold := 0, gate := false }
/-- The meters a set covers: X-ins and X-outs, as (first, count). -/
def State.setIn (s : State) (n : Nat) : Nat × Nat := (s.rd METR.SNAP_IN_FIRST n, s.rd METR.SNAP_IN_COUNT n)
def State.setOut (s : State) (n : Nat) : Nat × Nat := (s.rd METR.SNAP_OUT_FIRST n, s.rd METR.SNAP_OUT_COUNT n)
def State.setCovers (s : State) (n m : Nat) : Bool :=
  let i := s.setIn n
  let o := s.setOut n
  if m < 4096 then decide (i.1 ≤ m) && decide (m < i.1 + i.2) else decide (o.1 ≤ m - 4096) && decide (m - 4096 < o.1 + o.2)
/-- The signatures that an output range touches. -/
def rangeSigs (r : Nat × Nat) : List Nat := if r.2 = 0 then [] else (List.range (sigOf (r.1 + r.2 - 1) - sigOf r.1 + 1)).map (· + sigOf r.1)
/-- SLOT_SIZE (R287). -/
def State.slotSize (s : State) (n : Nat) : Nat :=
  64 * cdiv (32 + 8 * (s.setIn n).2 + 8 * (rangeSigs (s.setOut n)).length + 12 * (s.setOut n).2) 64

/-- n bytes, little-endian. -/
def leBytes : Nat → Nat → List Byte
  | 0, _ => []
  | n + 1, v => BitVec.ofNat 8 v :: leBytes n (v / 256)
/-- The bytes of a record (R287). -/
def State.snapBytes (s : State) (n : Nat) (k : Block) (start : Nat) (act per : Bool) : List Byte :=
  let own := s.setOwner n
  let i := s.setIn n
  let o := s.setOut n
  let gs := rangeSigs o
  let mine := fun (x : Nat) => may own x
  let ins := (List.range i.2).map (· + i.1)
  let outs := (List.range o.2).map (· + o.1)
  let foreign := ins.any (fun x => !mine (s.xinOwner x)) || outs.any (fun x => !mine (s.xoutOwner x))
  let hdr := leBytes 4 (s.rw METR.SEQ n) ++
    leBytes 4 (2 ^ 31 + b2n foreign * 2 ^ 26 + b2n act * 2 ^ 24 + b2n per * 2 ^ 23 + gs.length) ++ leBytes 8 start ++ leBytes 8 s.tim.sample ++
    leBytes 4 (i.1 * 2 ^ 16 + i.2) ++ leBytes 4 (o.1 * 2 ^ 16 + o.2)
  let val := fun (m : Nat) => (og k.meters m).getD pubZero
  let inE := ins.flatMap (fun x =>
    if mine (s.xinOwner x) then
      let v := val x
      leBytes 2 v.peak ++ leBytes 2 v.rms ++ leBytes 2 v.hold ++
        leBytes 2 (min 255 v.clips * 256 + b2n (s.rb XPNT.IN_STAT_PRESENT x) * 4 + b2n v.opened * 2 + b2n v.gate)
    else leBytes 8 (8 * 2 ^ 48))
  let tags := gs.flatMap (fun g =>
    if mine (s.sigOwner g) then
      let t := s.tagSince k.tags g
      leBytes 4 t.1 ++ leBytes 1 t.2.1 ++ leBytes 1 (g * 4 + b2n t.2.2) ++ leBytes 2 0
    else leBytes 5 0 ++ leBytes 1 (g * 4 + 2) ++ leBytes 2 0)
  let outE := outs.flatMap (fun x =>
    if mine (s.xoutOwner x) then
      let v := val (4096 + x)
      leBytes 2 v.peak ++ leBytes 2 v.tpeak ++ leBytes 2 v.rms ++ leBytes 2 v.hold ++ leBytes 2 (min 65535 v.clips) ++ leBytes 2 (v.popn % 8192)
    else leBytes 12 0)
  let all := hdr ++ inE ++ tags ++ outE
  all ++ leBytes (s.slotSize n - all.length) 0

/-- The snapshot block that a set gathers. -/
def blockPut (n : Nat) (b : Block) (s : State) : State := s.onMet (fun t => { t with blocks := os t.blocks n (some b) })
/-- A METER_SNAPSHOT action fires for the set at the present boundary (R284). -/
def State.snapDue (s : State) (n : Nat) : Bool :=
  slots.any (fun i => (s.slotState i == slARMED || s.slotState i == slFROZEN) && s.rd COLL.SLOT_CTL_ACTION i == 6 &&
    s.rw COLL.SLOT_PARAM0 i % 16 == n && ng s.tim.slotN i == s.tim.sample)
/-- One set at a tick boundary: the tick joins its block, and a record is made at a record boundary (R284). -/
def snapTick1 (runs : Bool) (s : State) (e : Nat × Option Block) : State :=
  let n := e.1
  match e.2 with
  | none => s
  | some k =>
    let j := s.tick
    let k := match k.start with
      | none => k
      | some _ =>
        let kept : Tbl (Option Pub) := k.meters.map (fun (q : Nat × Option Pub) => if (og s.met.pub q.1).isSome then q else (q.1, q.2.map pubFall))
        let all := s.met.pub.foldl (fun t (q : Nat × Option Pub) => match q.2 with
          | some v => if s.setCovers n q.1 then os t q.1 (some (pubMerge ((og t q.1).getD pubZero) v)) else t
          | none => t) kept
        { k with meters := all, act := k.act || s.snapDue n }
    let per := s.rd METR.SNAP_CTL_PERIOD n
    let isPer := decide (per ≠ 0) && decide (j % per = s.rd METR.SNAP_PHASE_PHASE n)
    let fresh : Block := { start := some s.tim.sample, meters := [], tags := s.met.tagA, act := false, lost := k.lost }
    if runs = false ∨ s.tim.published = false then blockPut n { k with start := none, meters := [], act := false } s
    else match k.start with
      | none => blockPut n fresh s
      | some a =>
        if isPer || k.act then
          let r : SnapRec := { set := n, owner := s.setOwner n, bytes := s.snapBytes n k a k.act isPer }
          blockPut n fresh ((s.cntw METR.SEQ_SEQ n).onMet (fun t => { t with recs := t.recs ++ [r] }))
        else blockPut n k s

/-- METER_PUBLISH and the snapshot sets, at the boundary that ends a tick; `runs` says that the crosspoint formed sums. -/
def metPublish (runs : Bool) (s : State) : State :=
  let s := if runs then
      let s := metClears s
      let s := s.each s.metKeys publish1
      let s := (s.each s.met.moved metReset).onMet (fun t => { t with moved := [], vals := [], clips := [], opened := [], pubTick := s.tick - 1 })
      let s := s.onMet (fun t => { t with tags := sigs.foldl (fun u g => tset (fun _ => (0, 0, false)) u g (s.tagSince t.tagA g)) [] })
      gateMap s
    else ((metClears s).each s.met.moved metReset).onMet (fun t => { t with moved := [] })
  s.each s.met.blocks (snapTick1 runs)

/-- METER_SNAPSHOT of a slot: the next tick boundary is a record boundary of the set; where the slot's index is a tick boundary itself, that
boundary has been one (R284). -/
def snapAct (i n : Nat) (s : State) : State :=
  if s.tim.sample % 32 = 0 ∧ ng s.tim.slotN i = s.tim.sample then s
  else s.onMet (fun t => { t with blocks := t.blocks.map (fun b => if b.1 = n then (b.1, b.2.map (fun k => { k with act := true })) else b) })

/-- Disable a set; a record being written is completed. -/
def snapOff (n : Nat) (s : State) : State := (s.wb METR.SNAP_CTL_EN false n).onMet (fun t => { t with blocks := os t.blocks n none })
/-- Why a set cannot be enabled (R285). -/
def State.snapBad (s : State) (n : Nat) : Bool :=
  decide (4096 < (s.setIn n).1 + (s.setIn n).2) || decide (4096 < (s.setOut n).1 + (s.setOut n).2) ||
    decide (s.rd METR.RING_SLOTS_SLOTS n < 2) || decide (s.rw METR.RING_BASE_LO n % 64 ≠ 0)
/-- Enable a set for a function. -/
def snapOn (fn n : Nat) (s : State) : State :=
  let s := (((s.wb METR.SNAP_CTL_EN true n).wr METR.SNAP_CTL_OWNER fn n).wr METR.HEAD_SLOT 0 n).wr METR.SLOT_SIZE_BYTES (s.slotSize n) n
  s.onMet (fun t => { t with blocks := os t.blocks n (some { start := none, meters := [], tags := [], act := false, lost := false }) })
/-- A set is reached by its owner and PF0 while enabled, by anyone else (R285). -/
def State.setMay (s : State) (fn n : Nat) : Bool := !s.rb METR.SNAP_CTL_EN n || may fn (s.setOwner n)
/-- PERIOD and IRQ_EN of a written SNAP_CTL. -/
def ctlFields (n w : Nat) (s : State) : State := (s.wr METR.SNAP_CTL_PERIOD (fbits w 15 0) n).wb METR.SNAP_CTL_IRQ_EN (bit w 30) n
/-- A write of SNAP_CTL (R285). -/
def snapCtl (fn n w : Nat) (s : State) : State :=
  let en := s.rb METR.SNAP_CTL_EN n
  let same := fbits w 15 0 == s.rd METR.SNAP_CTL_PERIOD n && bit w 30 == s.rb METR.SNAP_CTL_IRQ_EN n
  if bit w 31 = false then ctlFields n w (if en then snapOff n s else s)
  else if en then if same then s else s.wb METR.SNAP_STAT_CFG_ERR true n
  else if s.snapBad n then s.wb METR.SNAP_STAT_CFG_ERR true n
  else snapOn fn n (ctlFields n w s)

/-! ## The rows -/

/-- SNAP_RECORD (R286): the oldest record of a set is written, dropped, or meets a DMA error. -/
def execSnapRecord (set : Nat) (ok : Bool) (s : State) : Host.Outcome State Fault Refusal :=
  .next (awake s (match s.met.recs.find? (fun r => r.set == set) with
    | none => s
    | some r =>
      if bg s.host.bmOff r.owner then s else
      let s := s.onMet (fun t => { t with recs := t.recs.erase r })
      let head := s.rd METR.HEAD_SLOT set
      let nxt := (head + 1) % s.rd METR.RING_SLOTS_SLOTS set
      let fns := fnsOwn r.owner
      let at_ := s.rd64 METR.RING_BASE_HI METR.RING_BASE_LO set + head * s.rd METR.SLOT_SIZE_BYTES set
      let ha := s.rd64 METR.HEAD_ADDR_HI METR.HEAD_ADDR_LO set
      if ok = false ∨ s.dmaOk r.owner at_ r.bytes.length = false ∨ (ha ≠ 0 ∧ s.dmaOk r.owner ha 4 = false) then
        (snapOff set (dmaErr r.owner ((s.wb METR.SNAP_STAT_ERR true set).onMet (fun t => { t with recs := t.recs.filter (fun q => q.set != set) })))).raise 0x13 2 fns
      else if nxt = s.rd METR.TAIL_SLOT set then
        let s := s.onMet (fun t => { t with blocks := t.blocks.map (fun b => if b.1 = set then (b.1, b.2.map (fun k => { k with lost := true })) else b) })
        (s.cnt METR.SNAP_STAT_DROPS set).raise 0x13 1 fns
      else
        let lost := match og s.met.blocks set with | some k => k.lost | none => false
        let bytes := if lost then r.bytes.set 7 (r.bytes.getD 7 0 ||| 2#8) else r.bytes
        let s := s.onMet (fun t => { t with
          blocks := t.blocks.map (fun b => if b.1 = set then (b.1, b.2.map (fun k => { k with lost := false })) else b)
          lastRec := some ({ r with bytes := bytes }, at_), lastHead := if ha = 0 then t.lastHead else some (ha, leBytes 4 nxt) })
        let s := s.wr METR.HEAD_SLOT nxt set
        if s.rb METR.SNAP_CTL_IRQ_EN set then s.raise 0x13 0 fns else s))

/-- The words that a meter's latched registers hold (R282); zero for a meter of another owner. -/
def metWords (fn : Nat) (s : State) (m : Nat) : List Nat :=
  if may fn (s.metOwner m) = false ∨ 8191 < m then [0, 0, 0, 0, 0, 0]
  else
    let v := s.pubOf m
    let t := if m < 4096 then (0, 0, false) else tget (fun _ => (0, 0, false)) s.met.tags (sigOf (m - 4096))
    [v.peak * 2 ^ 16 + v.rms, v.hold * 2 ^ 16 + v.tpeak, b2n v.gate * 2 ^ 31 + b2n t.2.2 * 2 ^ 30 + t.2.1 * 2 ^ 16 + v.popn % 8192, t.1,
     s.met.pubTick / 2 ^ 32, s.met.pubTick % 2 ^ 32]
def execMeterRead (e : Env) (ms : List Nat) (s : State) : Host.Outcome State Fault Refusal :=
  .next (runCmd { read := true } e anyone (fun fn s =>
    if ms = [] ∨ 512 < ms.length ∨ ms.any (8191 < ·) then no stBAD_FIELD else retL s 6 (ms.flatMap (metWords fn s))) s)
/-- A gate profile may not close above where it opens (R278). -/
def gateProfOk (w : Nat) : Bool := decide (fbits w 15 0 ≤ fbits w 31 16)
def profOk (w : RegW) : Bool :=
  decide (w.obj < 8) && w.inst == 0 && decide (w.val < 2 ^ 32) && [0x080, 0x084, 0x0C0, 0x0E0].contains w.off && (w.off != 0x0C0 || gateProfOk w.val)
def profMask (off : Nat) : Nat := if off = 0x080 then 0xC000FFFF else if off = 0x0C0 then 0xFFFFFFFF else 0xFFFF
def execMeterProfileSet (e : Env) (ws : List RegW) (s : State) : Host.Outcome State Fault Refusal :=
  .next (runCmd { pf0 := true, mirrored := true, code := 0x0502 } e anyone (fun _ s =>
    if ws = [] ∨ ws.all profOk = false then no stBAD_FIELD
    else done (s.each ws (fun s w => cmdHold 0x13 w.obj w.off (profMask w.off) w.val s.applyAt s))) s)
/-- The caller owns every meter named. -/
def metsOwn (ms : List Nat) (fn : Nat) (s : State) : Option Nat := if ms.all (fun m => 8191 < m || may fn (s.metOwner m)) then none else some stNOT_OWNER
/-- METER_ASSIGN: meters with their MTR_CFG word. -/
def execMeterAssign (e : Env) (l : List (Nat × Nat)) (s : State) : Host.Outcome State Fault Refusal :=
  .next (runCmd { mirrored := true, code := 0x0503 } e (metsOwn (l.map (·.1))) (fun _ s =>
    if l = [] ∨ 1024 < l.length ∨ l.any (fun q => 8191 < q.1 || 2 ^ 11 ≤ q.2 || fbits q.2 7 3 != 0) then no stBAD_FIELD
    else done (s.each l (fun s q => cmdHold 0x13 q.1 0x044 (if q.1 < 4096 then 0x707 else 0x007) q.2 s.applyAt s))) s)
def execMeterTrigger (e : Env) (set : Nat) (a : SlotArgs) (s : State) : Host.Outcome State Fault Refusal :=
  .next (runCmd { mirrored := true, code := 0x0511, modes := armModes } e (armOwn 6 set)
    (fun fn s => if 15 < set ∨ 7 < a.tbsel then no stBAD_FIELD else armNew fn { a with action := 6, p0 := set, p1 := 0 } s) s)
def setOwnRow (set fn : Nat) (s : State) : Option Nat := if 15 < set ∨ s.setMay fn set then none else some stNOT_OWNER
def execSnapStatus (e : Env) (set : Nat) (s : State) : Host.Outcome State Fault Refusal :=
  .next (runCmd { read := true } e (setOwnRow set) (fun _ s =>
    if 15 < set then no stBAD_FIELD
    else ret s [s.rw METR.SNAP_CTL set, s.rw METR.HEAD set, s.rw METR.TAIL set, s.rw METR.SEQ set, s.rw METR.SNAP_STAT set]) s)
def execMeterHoldClear (e : Env) (ms : List Nat) (s : State) : Host.Outcome State Fault Refusal :=
  .next (runCmd {} e (metsOwn ms) (fun _ s =>
    if ms = [] ∨ ms.any (8191 < ·) then no stBAD_FIELD else done (s.onMet (fun t => { t with clr := t.clr ++ ms }))) s)
/-- The bits of GATE_MAP that a function reads (R288). -/
def gateWord (fn : Nat) (s : State) (w : Nat) : Nat :=
  (List.range 32).foldl (fun a b => a + b2n (bit (s.rw METR.GATE_MAP w) b && may fn (s.xinOwner (32 * w + b))) * 2 ^ b) 0
def execGateRead (e : Env) (s : State) : Host.Outcome State Fault Refusal :=
  .next (runCmd { read := true } e anyone (fun fn s => ret s ((List.range 128).map (gateWord fn s))) s)

/-- The configuration registers of a set. -/
def snapRegs : List Nat := [0x304, 0x308, 0x30C, 0x310, 0x314, 0x318, 0x328, 0x32C]
def snapWsOk (set : Nat) (ws : List RegW) : Bool :=
  ws.all (fun w => (w.off == 0x300 || snapRegs.contains w.off) && w.obj == set && w.inst == 0 && decide (w.val < 2 ^ 32))
/-- Write configuration registers of a disabled set. -/
def snapPut (set : Nat) (ws : List RegW) (s : State) : State :=
  let s := s.each (ws.filter (fun w => w.off != 0x300)) (fun s w => s.writeWord 0 0x13 set w.off .base w.val)
  s.wr METR.SLOT_SIZE_BYTES (s.slotSize set) set
/-- SNAP_CONFIG (R285, R290). -/
def execSnapConfig (e : Env) (set : Nat) (ws : List RegW) (s : State) : Host.Outcome State Fault Refusal :=
  .next (runCmd {} e (setOwnRow set) (fun fn s =>
    let ctl := (ws.find? (fun w => w.off == 0x300)).map (·.val)
    let ends := match ctl with | some w => !bit w 31 | none => false
    if 15 < set ∨ ws = [] ∨ snapWsOk set ws = false then no stBAD_FIELD
    else if s.rb METR.SNAP_CTL_EN set && !ends then
      let s' := snapPut set ws s
      let kept := snapRegs.all (fun r => s'.gw 0x13 set r == s.gw 0x13 set r) &&
        (match ctl with | some w => fbits w 15 0 == s.rd METR.SNAP_CTL_PERIOD set && bit w 30 == s.rb METR.SNAP_CTL_IRQ_EN set | none => true)
      if kept then done s else no stBUSY
    else
      let s := if s.rb METR.SNAP_CTL_EN set then snapOff set s else s
      let s := snapPut set ws s
      match ctl with
      | none => done s
      | some w => if bit w 31 && s.snapBad set then no stBAD_FIELD else done (snapCtl fn set w s)) s)
/-- SNAP_CTL_WRITE (R285). -/
def regSnapCtlWrite (fn set w : Nat) (s : State) : State :=
  if set < 16 ∧ s.setMay (actsAs fn) set then snapCtl (actsAs fn) set w s else s
def execSnapCtlWrite (fn set w : Nat) (s : State) : Host.Outcome State Fault Refusal := .next (awake s (regSnapCtlWrite fn set w s))

/-- MTR_VAL0_READ (R282): the reader's latched registers. -/
def regMtrVal0Read (fn : Nat) (s : State) : State :=
  let m := s.rd METR.MTR_IDX_METER fn
  match metWords (actsAs fn) s m with
  | [a, b, c, d, h, l] =>
    (((((s.ww METR.MTR_VAL0 a fn).ww METR.MTR_VAL1 b fn).ww METR.MTR_FLAGS c fn).ww METR.MTR_GEN d fn).ww METR.MTR_TICK_HI h fn).ww METR.MTR_TICK_LO l fn
  | _ => s
def execMtrVal0Read (fn : Nat) (s : State) : Host.Outcome State Fault Refusal := .next (awake s (regMtrVal0Read fn s))
/-- A write of MTR_CFG: its profile fields wait for a sample boundary; an output meter has no gate profile (R288). -/
def mtrCfgWrite (fn w : Nat) (s : State) : State :=
  let m := s.rd METR.MTR_IDX_METER fn
  if 8191 < m ∨ s.mirrorStandby then s
  else s.writeWord fn 0x13 m 0x044 .base (if m < 4096 then w else fput w 10 8 0)
/-- CLR_HOLD: a write of MTR_CFG with bit 31 (R276, R283). -/
def regClrHold (fn w : Nat) (s : State) : State :=
  let m := s.rd METR.MTR_IDX_METER fn
    if may (actsAs fn) (s.metOwner m) = false then s
    else
      let s := mtrCfgWrite fn w s
      if bit w 31 then s.onMet (fun t => { t with clr := t.clr ++ [m] }) else s
def execClrHold (fn w : Nat) (s : State) : Host.Outcome State Fault Refusal := .next (awake s (regClrHold fn w s))
def regHoldClrAll (fn w : Nat) (s : State) : State :=
  if bit w 0 then s.onMet (fun t => { t with clrAll := t.clrAll ++ [actsAs fn] }) else s
def execHoldClrAll (fn w : Nat) (s : State) : Host.Outcome State Fault Refusal := .next (awake s (regHoldClrAll fn w s))

end Sys2Proof.Machine
end

