-- ==== Sys2Proof/Machine/Tx.lean ====
section
/-!
DEFINITION. Transmitting streams (R291–R314): the stream table and its commits, port load, the values that a stream carries,
the packets and when they are due, planes, descriptions and announcements.
-/
namespace Sys2Proof.Machine

/-! ## Entries -/

/-- The words of an entry: offsets 0x050 to 0x09C, and the channel-status block. -/
def txEntry : List Nat := (List.range 20).map (fun i => 0x050 + 4 * i) ++ (List.range 6).map (fun i => 0x0B0 + 4 * i)
def State.txHz (s : State) (i : Nat) : Nat := rateHz (s.rd STTX.CFG_RATE i)
def State.txCh (s : State) (i : Nat) : Nat := s.rd STTX.CFG_CH i + 1
def State.txPs (s : State) (i : Nat) : Nat := pktPs (s.rd STTX.CFG_PKT i) (s.rd STTX.CFG_RATE i)
def State.txState (s : State) (i : Nat) : Nat := s.rd STTX.ST_STAT_STATE i
def txOFF : Nat := 0
def txIDLE : Nat := 1
def txRUN : Nat := 2

/-- A leg of a transmit entry (R291). -/
structure TxLeg where
  en : Bool
  port : Nat
  v6 : Bool
  tag : Bool
  pcp : Nat
  udp : Nat
  vid : Nat
  sport : Nat
  dst : Nat
/-- Leg 0 A or 1 B of the entry in an object. -/
def State.txLeg (s : State) (o leg : Nat) : TxLeg :=
  let w := s.gw 0x0F o (0x06C + 4 * leg)
  let x := s.gw 0x0F o (0x074 + 4 * leg)
  let v6 := bit w 29
  { en := bit w 31, port := 2 * leg + b2n (bit w 30), v6 := v6, tag := bit w 28, pcp := fbits w 26 24, udp := w % 65536
    vid := fbits x 27 16, sport := x % 65536, dst := addrOf s 0x0F o (0x080 + 16 * leg) v6 }

/-- The frame length of a leg (R298). -/
def State.txLen (s : State) (o leg : Nat) : Nat :=
  let g := s.txLeg o leg
  14 + 4 * b2n g.tag + (if g.v6 then 40 else 20) + 8 + 12 + s.txPs o * s.txCh o * fmtBytes (s.rd STTX.CFG_FMT o) + 4

/-- Every field of the entry in an object is in its range (R291, R292). -/
def txFieldsOk (s : State) (o : Nat) : Bool :=
  s.rd STTX.CFG_RATE o ≤ 5 && s.rd STTX.CFG_FMT o ≤ 2 && s.rd STTX.CH_BASE_BASE o + s.txCh o ≤ 8192 && s.txPs o != 0 &&
    1 ≤ s.rd STTX.IP_CFG_TTL o && (s.rb STTX.CFG_PHASE_AUTO o || decide (s.rd STTX.PHASE_PHASE o < s.txPs o))

/-- Two legs send to one destination (R292). -/
def sameDst (a b : TxLeg) : Bool := a.en && b.en && a.v6 == b.v6 && a.dst == b.dst && a.udp == b.udp

/-- The relations that R292 asks of the entry in object `o` for stream `i`. -/
def txRelOk (s : State) (i o : Nat) : Bool :=
  let base := s.rd STTX.CH_BASE_BASE o
  let ch := s.txCh o
  (s.tx.on.filter (· != i)).all (fun j =>
    let b := s.rd STTX.CH_BASE_BASE j
    (base + ch ≤ b || b + s.txCh j ≤ base) && [0, 1].all (fun l => !sameDst (s.txLeg o l) (s.txLeg j l))) &&
  ((s.txLeg o 0).en || (s.txLeg o 1).en) &&
  [0, 1].all (fun l => !(s.txLeg o l).en || decide (s.txLen o l ≤ s.rd NETP.MAC_CFG_MAX_LEN (i := (s.txLeg o l).port)))

/-- The bits of an entry that may change while the stream is not OFF (R304), besides EN. -/
def txFreeMask (off : Nat) : Nat :=
  if off = 0x050 then 2 ^ 31
  else if off = 0x06C ∨ off = 0x070 then 2 ^ 31 + 7 * 2 ^ 24
  else if off = 0x07C then 0x3FFF
  else if 0x0B0 ≤ off then 0xFFFFFFFF else 0
/-- A commit of an entry leaves the fields that may not change; a PHASE that firmware chose stands whatever the entry names. -/
def txSettled (s : State) (i o : Nat) : Bool :=
  txEntry.all (fun off => (off == 0x058 && s.rb STTX.CFG_PHASE_AUTO o) ||
    (s.gw 0x0F i off ^^^ s.gw 0x0F o off) &&& (0xFFFFFFFF ^^^ txFreeMask off) == 0)

/-! ## Selectors (R293) -/

/-- R293 accepts the selector. -/
def txSelOk (w : Nat) : Bool :=
  decide (selIndex w < (match selKind w with | 0 => 1 | 1 => 4096 | 2 => 8192 | 3 => 48 | 4 => 512 | _ => 0))
def isPatch (w : Nat) : Bool := selKind w == 2
/-- The enabled stream that a transmit channel lies in, and its owner (R311). -/
def State.txOfChan (s : State) (c : Nat) : Option Nat :=
  s.tx.on.find? (fun i => let b := s.rd STTX.CH_BASE_BASE i; decide (b ≤ c) && decide (c < b + s.txCh i))
def State.txChOwner (s : State) (c : Nat) : Nat := match s.txOfChan c with | some i => s.txOwner i | none => 0
/-- The selector that a channel will have: its latest pending value, else the one in force. -/
def State.txWant (s : State) (c : Nat) : Nat :=
  match s.held.reverse.find? (fun h => h.pg == 0x0F && h.off == 0x144 && h.obj == c) with
  | some h => h.val
  | none => s.rw STTX.TXCH_SRC c
def countIf (p : Nat → Bool) (l : List Nat) : Nat := (l.filter p).length
/-- Direct patches, as they will be, among the channels of an entry and of the enabled streams but one. -/
def State.patchWant (s : State) (o : Nat) : Nat :=
  countIf (fun c => isPatch (s.txWant (s.rd STTX.CH_BASE_BASE o + c))) (List.range (s.txCh o))
def sumOf (f : Nat → Nat) (l : List Nat) : Nat := l.foldl (fun a x => a + f x) 0
def State.patchTotal (s : State) : Nat := sumOf s.patchWant s.tx.on
/-- Direct patches in force in a stream. -/
def State.patchNow (s : State) (i : Nat) : Nat :=
  countIf (fun c => isPatch (s.rw STTX.TXCH_SRC (s.rd STTX.CH_BASE_BASE i + c))) (List.range (s.txCh i))
/-- PATCH_USED and the owners' use follow the selectors in force. -/
def patchSync (s : State) : State :=
  let s := s.wr STTX.PATCH_USED_CH (sumOf s.patchNow s.tx.on)
  s.each (List.range 7) (fun s f =>
    overFix (f + 1) qPATCH (s.wr TNT.USE_N (sumOf s.patchNow (s.tx.on.filter (fun i => s.txOwner i == f + 1))) qPATCH (f + 1)))

/-! ## Port load and phase (R300, R301) -/

/-- Boundaries between packets, and the residue class of the due boundaries at a phase; none in the 44.1 kHz family. -/
def txClass (rate ps phase : Nat) : Option (Nat × Nat) :=
  let f := rateHz rate
  if rate % 2 = 0 then none else some (ps * 96000 / f, cdiv ((phase + ps) * 96000) f % (ps * 96000 / f))
/-- The load that an entry at a phase puts on a port at a residue. -/
def State.txLoadOf (s : State) (o phase port r : Nat) : Nat :=
  let due := match txClass (s.rd STTX.CFG_RATE o) (s.txPs o) phase with
    | none => true
    | some (p, c) => r % p == c
  if due then
    sumOf (fun l => let g := s.txLeg o l
      if g.en && g.port == port then frameGrid (s.rd NETP.PORT_CTL_RATE (i := port)) (s.txLen o l) else 0) [0, 1]
  else 0
/-- The load of a port at a residue with the streams of a list of objects, each at its phase. -/
def State.txLoad (s : State) (l : List (Nat × Nat)) (port r : Nat) : Nat :=
  l.foldl (fun a x => a + s.txLoadOf x.1 x.2 port r)
    (frameGrid (s.rd NETP.PORT_CTL_RATE (i := port)) (s.rd NETP.MAC_CFG_MAX_LEN (i := port)))
def State.txPlan (s : State) (l : List Nat) : List (Nat × Nat) := l.map (fun i => (i, s.rd STTX.PHASE_PHASE i))
/-- The largest load of a port; without streams it is the same at every residue. -/
def State.txPeak (s : State) (l : List (Nat × Nat)) (port : Nat) : Nat :=
  (List.range (if l.isEmpty then 1 else 384)).foldl (fun a r => max a (s.txLoad l port r)) 0
/-- The largest load of the ports of an entry's legs if it takes a phase. -/
def State.phaseLoad (s : State) (others : List (Nat × Nat)) (o phase : Nat) : Nat :=
  [0, 1].foldl (fun a l => let g := s.txLeg o l; if g.en then max a (s.txPeak (others ++ [(o, phase)]) g.port) else a) 0
/-- The phase of least load, the lowest among equals. -/
def State.bestPhase (s : State) (others : List (Nat × Nat)) (o : Nat) : Nat :=
  ((List.range (s.txPs o)).foldl (fun (b : Nat × Nat) p =>
    let x := s.phaseLoad others o p
    if p = 0 ∨ x < b.2 then (p, x) else b) (0, 0)).1
/-- The entry in object `o` for stream `i` at a phase raises the load of a port at a residue above one sample (R301). -/
def State.loadOver (s : State) (i o phase : Nat) : Bool :=
  let others := s.txPlan (s.tx.on.filter (· != i))
  let now := s.txPlan s.tx.on
  [0, 1].any (fun l => let g := s.txLeg o l
    g.en && (List.range 384).any (fun r =>
      let x := s.txLoad (others ++ [(o, phase)]) g.port r
      decide (125000 < x ∧ s.txLoad now g.port r < x)))
/-- PORT_LOADn. -/
def txLoads (s : State) : State :=
  s.each ports (fun s n => s.wr STTX.PORT_LOAD_G (s.txPeak (s.txPlan s.tx.on) n) n)

/-! ## Bytes on the wire (R298) -/

/-- n bytes of a number, most significant first. -/
def beBytes (n v : Nat) : List Byte := (leBytes n v).reverse
/-- The ones' complement sum of the 16-bit words of some bytes, and the checksum. -/
def sum16 : List Byte → Nat
  | [] => 0
  | [a] => a.toNat * 256
  | a :: b :: t => a.toNat * 256 + b.toNat + sum16 t
def checksum (l : List Byte) : Nat :=
  let x := sum16 l
  let x := x % 65536 + x / 65536
  let x := x % 65536 + x / 65536
  0xFFFF - x
/-- A UDP checksum: 0 is sent as all ones. -/
def udpSum (l : List Byte) : Nat := let c := checksum l; if c = 0 then 0xFFFF else c

/-- The FCS of a frame: the CRC of IEEE 802.3, sent low byte first. -/
def fcsStep : Nat → Nat → Nat
  | 0, c => c
  | n + 1, c => fcsStep n (if c % 2 = 1 then (c / 2) ^^^ 0xEDB88320 else c / 2)
def fcs (l : List Byte) : Nat := (l.foldl (fun c b => fcsStep 8 (c ^^^ b.toNat)) 0xFFFFFFFF) ^^^ 0xFFFFFFFF

/-- A UDP datagram in its IP packet (R298). -/
def ipUdp (v6 : Bool) (src dst sport dport ttl dscp : Nat) (pl : List Byte) : List Byte :=
  let n := 8 + pl.length
  let ports_ := beBytes 2 sport ++ beBytes 2 dport ++ beBytes 2 n
  if v6 then
    let pseudo := beBytes 16 src ++ beBytes 16 dst ++ beBytes 4 n ++ beBytes 4 17
    beBytes 4 (6 * 2 ^ 28 + dscp * 4 * 2 ^ 20) ++ beBytes 2 n ++ beBytes 1 17 ++ beBytes 1 ttl ++ beBytes 16 src ++
      beBytes 16 dst ++ ports_ ++ beBytes 2 (udpSum (pseudo ++ ports_ ++ [0, 0] ++ pl)) ++ pl
  else
    let pseudo := beBytes 4 src ++ beBytes 4 dst ++ beBytes 2 17 ++ beBytes 2 n
    let h := beBytes 2 (0x4500 + dscp * 4) ++ beBytes 2 (20 + n) ++ beBytes 2 0 ++ beBytes 2 0x4000 ++ beBytes 1 ttl ++ beBytes 1 17
    let a := beBytes 4 src ++ beBytes 4 dst
    h ++ beBytes 2 (checksum (h ++ a)) ++ a ++ ports_ ++ beBytes 2 (udpSum (pseudo ++ ports_ ++ [0, 0] ++ pl)) ++ pl

/-- The address of a port for a version: the IPv4 address, or the first of its IPv6 addresses, else the link-local one. An address that another
node was found to use is not used (R131). -/
def State.portIp (s : State) (port : Nat) (v6 : Bool) : Nat :=
  match og s.flash.addrs port with
  | some a =>
    if v6 then (if a.ip6a != 0 && !(tget (fun _ => []) s.net.dup port).contains a.ip6a then a.ip6a else linkLocal (s.portMac port))
    else a.ip4
  | none => if v6 then linkLocal (s.portMac port) else 0

/-! ## Descriptions and announcements (R308, R309) -/

/-- A number in decimal, and in `n` hexadecimal digits. -/
def decDigits : Nat → Nat → List Byte
  | 0, _ => []
  | n + 1, v => (if v < 10 then [] else decDigits n (v / 10)) ++ [BitVec.ofNat 8 (48 + v % 10)]
def dec (v : Nat) : List Byte := decDigits 40 v
def hexDigit (up : Bool) (d : Nat) : Byte := BitVec.ofNat 8 (if d < 10 then 48 + d else (if up then 55 else 87) + d)
def hexN (up : Bool) (n v : Nat) : List Byte := (List.range n).map (fun j => hexDigit up (v / 16 ^ (n - 1 - j) % 16))
def joinB (sep : List Byte) : List (List Byte) → List Byte
  | [] => []
  | [a] => a
  | a :: t => a ++ sep ++ joinB sep t
def ipText (v6 : Bool) (a : Nat) : List Byte :=
  if v6 then joinB (asc ":") ((List.range 8).map (fun j => hexN false 4 (a / 65536 ^ (7 - j) % 65536)))
  else joinB (asc ".") ((List.range 4).map (fun j => dec (a / 256 ^ (3 - j) % 256)))
def macText (n a : Nat) : List Byte := joinB (asc "-") ((List.range n).map (fun j => hexN true 2 (a / 256 ^ (n - 1 - j) % 256)))
def ipVer (v6 : Bool) : List Byte := asc (if v6 then "IP6 " else "IP4 ")
def eol : List Byte := [13, 10]

/-- The ts-refclk line of a port: its plane's grandmaster while media time follows a PTP candidate, else the port's address. -/
def State.refclkText (s : State) (port : Nat) : List Byte :=
  let p := planeOf port
  let ptp := match s.selected with | some c => decide (c ≤ 1) | none => false
  if ptp then
    asc "a=ts-refclk:ptp=IEEE1588-2008:" ++ macText 8 (s.rd64 TIME.GM_ID_HI TIME.GM_ID_LO (i := p)) ++ asc ":" ++
      dec (s.rd TIME.PTP_CTL_DOMAIN (i := p))
  else asc "a=ts-refclk:localmac=" ++ macText 6 (s.portMac port)

/-- The media description of a leg. -/
def State.sdpLeg (s : State) (i leg : Nat) (dup : Bool) : List Byte :=
  let g := s.txLeg i leg
  let hz := s.txHz i
  let us := (2 * s.txPs i * 1000000 + hz) / (2 * hz)
  let fmt := match s.rd STTX.CFG_FMT i with | 0 => "L16/" | 1 => "L24/" | _ => "AM824/"
  let pt := dec (s.rd STTX.CFG_PT i)
  let own := s.portIp g.port g.v6
  asc "m=audio " ++ dec g.udp ++ asc " RTP/AVP " ++ pt ++ eol ++
  asc "c=IN " ++ ipVer g.v6 ++ ipText g.v6 g.dst ++
    (if !g.v6 && isMulticast g.v6 g.dst then asc "/" ++ dec (s.rd STTX.IP_CFG_TTL i) else []) ++ eol ++
  asc "a=source-filter: incl IN " ++ ipVer g.v6 ++ ipText g.v6 g.dst ++ asc " " ++ ipText g.v6 own ++ eol ++
  asc "a=rtpmap:" ++ pt ++ asc " " ++ asc fmt ++ dec hz ++ asc "/" ++ dec (s.txCh i) ++ eol ++
  asc "a=ptime:" ++ dec (us / 1000) ++ asc "." ++ dec (us / 100 % 10) ++ dec (us / 10 % 10) ++ dec (us % 10) ++ eol ++
  s.refclkText g.port ++ eol ++
  asc "a=mediaclk:direct=" ++ dec (s.rw STTX.MCLK_OFS i) ++ eol ++
  (if dup then asc (if leg = 0 then "a=mid:A" else "a=mid:B") ++ eol else [])

/-- The origin of a description: session, version and the address of the leg A port, or of the leg B port where leg A is disabled. -/
def State.sdpOrigin (s : State) (i ver : Nat) : List Byte :=
  let a := s.txLeg i 0
  let g := if a.en then a else s.txLeg i 1
  asc "o=- " ++ dec (s.rw STTX.SSRC i) ++ asc " " ++ dec ver ++ asc " IN " ++ ipVer g.v6 ++ ipText g.v6 (s.portIp g.port g.v6)
/-- The description of a stream (R308). -/
def State.sdpText (s : State) (i : Nat) : List Byte :=
  let a := s.txLeg i 0
  let b := s.txLeg i 1
  let dup := a.en && b.en
  asc "v=0" ++ eol ++ s.sdpOrigin i (ng s.tx.ver i) ++ eol ++
  asc "s=" ++ tget (fun _ => []) s.tx.names i ++ eol ++ asc "t=0 0" ++ eol ++
  (if dup then asc "a=group:DUP A B" ++ eol else []) ++
  (if a.en then s.sdpLeg i 0 dup else []) ++ (if b.en then s.sdpLeg i 1 dup else [])

/-- Versions follow changes of a ts-refclk line (R308). -/
def sdpTick (s : State) : State :=
  if s.fwUp = false then s
  else s.each ports (fun s p =>
    let t := s.refclkText p
    if tget (fun _ => []) s.tx.refTxt p = t then s
    else s.onTx (fun x =>
      let hit := x.on.filter (fun i => [0, 1].any (fun l => (s.txLeg i l).en && (s.txLeg i l).port == p))
      { x with refTxt := tset (fun _ => []) x.refTxt p t, ver := hit.foldl (fun v i => ns v i (ng v i + 1)) x.ver }))

/-- A SAP message of RFC 2974: version 1, the originating source's version, deletion or announcement, no authentication, the hash, the source,
then what it carries. -/
def sapMessage (v6 del : Bool) (hash src : Nat) (pl : List Byte) : List Byte :=
  beBytes 1 (0x20 + 16 * b2n v6 + 4 * b2n del) ++ beBytes 1 0 ++ beBytes 2 (hash % 65536) ++ beBytes (if v6 then 16 else 4) src ++ pl
/-- Its frame on the port of a leg: to 239.255.255.255 or FF0E::2:7FFE, UDP 9875 (R309). -/
def State.sapFrame (s : State) (port : Nat) (v6 del : Bool) (hash : Nat) (pl : List Byte) : List Byte :=
  let src := s.portIp port v6
  let dst := if v6 then 0xFF0E * 2 ^ 112 + 0x27FFE else 0xEFFFFFFF
  let ip := ipUdp v6 src dst 9875 9875 255 0 (sapMessage v6 del hash src pl)
  let mac := if v6 then 0x3333 * 2 ^ 32 + dst % 2 ^ 32 else 0x01005E * 2 ^ 24 + dst % 2 ^ 23
  let f := beBytes 6 mac ++ beBytes 6 (s.portMac port) ++ beBytes 2 (if v6 then 0x86DD else 0x0800) ++ ip
  f ++ leBytes 4 (fcs f)
/-- Send a message of a version on the port of each enabled leg: the description, or a deletion with its origin. -/
def sapSend (i ver : Nat) (del : Bool) (s : State) : State :=
  let pl := if del then s.sdpOrigin i ver ++ eol else asc "application/sdp" ++ [0] ++ s.sdpText i
  s.each [0, 1] (fun s l =>
    let g := s.txLeg i l
    if g.en then
      let b := s.sapFrame g.port g.v6 del ver pl
      txPut g.port (txKey g.port 3) { kind := .mgmt, len := max 64 b.length, bytes := b, held := false } s
    else s)
/-- An announcement is due: the first, a new version, or a part of the interval has passed since the last, in thirds (R309). -/
def State.sapDue (s : State) (i thirds : Nat) : Bool :=
  ng s.tx.sapVer i != ng s.tx.ver i + 1 || decide (ng s.tx.sapAt i + thirds * 32000 * s.rd STTX.SAP_TX_CFG_INTERVAL ≤ s.clock)
/-- Announce a running stream; delete the announcement of one that has left RUN (R309). -/
def sapAnnounce (thirds i : Nat) (s : State) : State :=
  if s.fwUp = false ∨ s.rb STTX.SAP_TX_CFG_EN = false then s
  else if s.txState i = txRUN ∧ s.rb STTX.CFG_ANNOUNCE i then
    if s.sapDue i thirds then
      (sapSend i (ng s.tx.ver i) false s).onTx (fun t => { t with sapVer := ns t.sapVer i (ng t.ver i + 1), sapAt := ns t.sapAt i s.clock })
    else s
  else if ng s.tx.sapVer i = 0 then s
  else (sapSend i (ng s.tx.sapVer i - 1) true s).onTx (fun t => { t with sapVer := ns t.sapVer i 0, sapAt := ns t.sapAt i 0 })
/-- The announcements at a tick boundary: new versions and deletions go out, and what has waited four thirds of the interval (R309). -/
def sapTick (s : State) : State :=
  s.each (s.tx.on ++ (s.tx.sapVer.map (·.1)).filter (fun i => !s.tx.on.contains i)) (fun s i => sapAnnounce 4 i s)

/-! ## Committing (R291, R292, R302, R304) -/

def txUkey (i : Nat) : Nat := ukey ukTX i
/-- What the stream asks of the converters (R178). -/
def txAsk (s : State) (o : Nat) : SrcAsk :=
  let p := sinkPath (s.rd STTX.CFG_RATE o)
  { path := p.1, fixed := p.2, ch := s.txCh o, join := none, type := 0, kind := 0, index := 0, nom := 0 }
/-- The global registers follow the enabled streams. -/
def txPool (s : State) : State :=
  txLoads (patchSync ((s.wr STTX.CH_USED_CH (sumOf s.txCh s.tx.on)).wr STTX.EN_COUNT_N s.tx.on.length))

/-- The next hop of a destination: itself, or the gateway where an IPv4 destination lies outside the port's prefix. -/
def State.nextHop (s : State) (port : Nat) (v6 : Bool) (dst : Nat) : Nat :=
  match og s.flash.addrs port with
  | some a => if v6 || a.gateway == 0 || dst / 2 ^ (32 - a.prefix4) == a.ip4 / 2 ^ (32 - a.prefix4) then dst else a.gateway
  | none => dst
/-- The destination MAC address, if it is mapped or resolved (R298). -/
def State.dstMac (s : State) (port : Nat) (v6 : Bool) (dst : Nat) : Option Nat :=
  if isMulticast v6 dst then
    some (if v6 then 0x3333 * 2 ^ 32 + dst % 2 ^ 32 else 0x01005E * 2 ^ 24 + dst % 2 ^ 23)
  else ((tget (fun _ => []) s.net.neigh port).find? (fun e => e.1 == s.nextHop port v6 dst)).map (fun e => e.2.2)

/-- The leg may send: enabled, its link up, its destination resolved (R305). -/
def State.txLegOk (s : State) (i leg : Nat) : Bool :=
  let g := s.txLeg i leg
  g.en && s.linkUp g.port && (s.dstMac g.port g.v6 g.dst).isSome
/-- A member of a mirror pair keeps this leg to itself (R306). -/
def State.txSupp (s : State) (leg : Nat) : Bool :=
  s.rd ULNK.HIER_CFG_ROLE == 2 && (if s.rb ULNK.HIER_STAT_A_MEMBER then leg == 1 else leg == 0)
def legOkFld (leg : Nat) : Fld := if leg = 0 then STTX.ST_STAT_LEG_A_OK else STTX.ST_STAT_LEG_B_OK
/-- The leg flags of a stream, with their event (R313). -/
def txLegs (s : State) (i : Nat) : State :=
  let en := s.rb STTX.CFG_EN i
  let s := s.wb STTX.ST_STAT_MIRROR_SUPP (en && [0, 1].any (fun l => (s.txLeg i l).en && s.txSupp l)) i
  s.each [0, 1] (fun s l =>
    let v := en && s.txLegOk i l
    if s.rb (legOkFld l) i = v then s else (s.wb (legOkFld l) v i).raise 0x0F 3 (fnsOwn (s.txOwner i)))

/-- Enable the entry that has been stored. -/
def txEnable (i fn : Nat) (s : State) : State :=
  let s := srcTake (txUkey i) fn (txAsk s i) s
  let s := useTake fn qTXC (s.txCh i) (useTake fn qTXS 1 s)
  let s := s.onTx (fun t => { t with
    on := t.on.filter (· < i) ++ [i] ++ t.on.filter (i < ·), win := tset (fun _ => []) t.win i []
    buf := tset (fun _ => []) t.buf i [] })
  txLegs (txPool (s.wr STTX.ST_STAT_STATE txIDLE i)) i

/-- Disable a stream: what it held is returned, and its announcement is deleted. -/
def txDisable (i : Nat) (s : State) : State :=
  if s.rb STTX.CFG_EN i = false then s
  else
    let fn := s.txOwner i
    let s := srcGive (txUkey i) s
    let s := useGive fn qTXC (s.txCh i) (useGive fn qTXS 1 s)
    let s := (s.wb STTX.CFG_EN false i).wr STTX.ST_STAT_STATE txOFF i
    let s := s.onTx (fun t => { t with
      on := t.on.filter (· != i), closing := t.closing.filter (· != i), win := tset (fun _ => []) t.win i []
      buf := tset (fun _ => []) t.buf i [] })
    sapAnnounce 4 i (txLegs (txPool s) i)

/-- The entry of an object becomes the stream's, with its owner and its phase. -/
def txStore (owner i o phase : Nat) (s : State) : State :=
  let s := (entryCopy 0x0F txEntry o i s).ww STTX.OWNER owner i
  let s := (s.ww STTX.PHASE phase i).ww STTX.FRAME_LEN (s.txLen o 1 * 65536 + s.txLen o 0) i
  s.onTx (fun t => { t with used := bs t.used i true, ver := ns t.ver i (ng t.ver i + 1) })
/-- Commit the entry that stands in an object, for a function: the state after it, or the status it is refused with. -/
def txCommit (fn i o : Nat) (s : State) : Except Nat State :=
  let new := s.rb STTX.CFG_EN o
  let old := s.rb STTX.CFG_EN i
  let created := bg s.tx.used i
  let owner := if created then s.txOwner i else fn
  if 1023 < i then .error stBAD_FIELD
  else if created && !may fn (s.txOwner i) then .error stNOT_OWNER
  else if (s.mode = mSAFE ∧ fn ≠ 0) ∨ s.mirrorStandby then .error stMODE_DENY
  else if txFieldsOk s o = false ∨ txRelOk s i o = false then .error stBAD_FIELD
  else if old ∧ txSettled s i o = false then .error stBUSY
  else
    let others := s.txPlan (s.tx.on.filter (· != i))
    let phase :=
      if old then s.rd STTX.PHASE_PHASE i
      else if new && s.rb STTX.CFG_PHASE_AUTO o then s.bestPhase others o else s.rd STTX.PHASE_PHASE o
    if new = false then .ok (txStore owner i o phase (txDisable i s))
    else
      let ch := s.txCh o
      let pw := s.patchWant o
      if old = false ∧ (s.quotaOk owner qTXS 1 = false ∨ s.quotaOk owner qTXC ch = false ∨ s.quotaOk owner qPATCH pw = false) then
        .error stQUOTA
      else if s.loadOver i o phase then .error stBUSY
      else if old then .ok (txLegs (txPool (txStore owner i o phase s)) i)
      else if 4096 < s.patchTotal + pw then .error stBUSY
      else match srcRefusal owner (txAsk s o) s with
        | some st => .error st
        | none => .ok (txEnable i owner (txStore owner i o phase s))

/-- A command's commit: its outcome with the phase, the work object left clear. -/
def txCommitRes (fn i : Nat) (from_ : Option Nat) (ws : List RegW) (after : State → State) (s : State) : Res :=
  match txCommit fn i workObj (entryStage 0x0F txEntry from_ ws s) with
  | .error st => no st
  | .ok s' =>
    let s' := after (entryReset 0x0F txEntry workObj s')
    .ok s' (s'.rd STTX.PHASE_PHASE i) [s'.rd STTX.PHASE_PHASE i] 0 stOK

/-- A commit that waits in the registers is carried out at a tick boundary, if the processor runs (R172, R311). -/
def txCommitTick (s : State) : State :=
  match s.tx.commit with
  | none => s
  | some (c, k) =>
    if s.fwUp = false ∨ s.tick < k then s
    else
      let fn := c / 1024
      let s := (s.onTx (fun t => { t with commit := none })).wb STTX.ENTRY_CMD_BUSY false
      let was := txEntry.map (s.gw 0x0F (c % 1024))
      let s := match txCommit fn (c % 1024) stagObj s with
        | .error st => s.wr STTX.ENTRY_CMD_RESULT st
        | .ok s' => (s'.wr STTX.ENTRY_CMD_RESULT stOK).onTx (fun t => { t with prev := some (c % 1024, was) })
      s.raise 0x0F 0 (fnsOwn fn)

/-! ## What a stream sample holds (R294, R295, R299) -/

/-- The stream samples whose instants lie in the sample period that ends at boundary b, its end included. -/
def txSpan (f b : Nat) : List Nat :=
  let lo := if b = 0 then 0 else (b - 1) * f / 96000 + 1
  (List.range (b * f / 96000 + 1 - lo)).map (· + lo)

/-- The selector of a channel in the terms of R207, for the kinds that R208 knows. -/
def txAsXin (w : Nat) : Nat :=
  match selKind w with
  | 2 => skRXCH * 8192 + selIndex w
  | 3 => skLOCAL * 8192 + selIndex w
  | 4 => skHOSTPB * 8192 + selIndex w
  | _ => 0
/-- The source of a channel of a stream owned by `fn` is present (R294); the X-outs of a device that is not the end of its column
are not (R368). -/
def State.txShows (s : State) (fn w : Nat) : Bool :=
  match selKind w with
  | 0 => false
  | 1 => s.rb ULNK.HIER_POS_END && (fn == 0 || s.xoutOwner (selIndex w) == fn)
  | _ => s.srcShows (txAsXin w) && (fn == 0 || s.srcOwner (txAsXin w) == some fn)
/-- The internal value it gives at the present sample. -/
def State.txValue (s : State) (fn w : Nat) : Int :=
  if s.txShows fn w = false then 0
  else if selKind w = 1 then s.outRead (selIndex w) else s.srcValue (txAsXin w)

/-- A patch between streams of one rate: the receive stream. -/
def State.samePatch (s : State) (i w : Nat) : Option Nat :=
  if isPatch w then
    match s.rxOfChan (selIndex w) with
    | some j => if s.rd STRX.CFG_RATE j = s.rd STTX.CFG_RATE i then some j else none
    | none => none
  else none
/-- What receive stream j presented at a count, of a channel of its own. -/
def State.patched (s : State) (j c : Nat) (k : Int) : Int :=
  match (tget (fun _ => []) s.tx.hist j).find? (fun e => decide ((e.1 : Int) ≤ k ∧ k < e.1 + e.2.length)) with
  | some e => ((e.2.getD (k - e.1).toNat []).getD c 0)
  | none => 0
/-- Keep what a receive stream has presented in this sample, for its patches. -/
def patchKeep (s : State) (j : Nat) : State :=
  let v := tget (fun _ => []) s.rx.cur j
  let l := tget (fun _ => []) s.tx.hist j ++ (if v.isEmpty then [] else [(ng s.rx.next j - v.length, v)])
  s.onTx (fun t => { t with hist := tset (fun _ => []) t.hist j (l.drop (l.length - 6)) })

/-- The bits of a sample in a format. -/
def fmtBits (fmt : Nat) : Nat := if fmt = 0 then 16 else 24
/-- The export of an internal value in a stream's format: from an X-out with the output's dither (R226, R298). -/
def State.txExport (s : State) (i w n : Nat) (y : Int) : Int :=
  let o := selIndex w
  let dith := selKind w == 1 && s.rb SIG.OUT_CFG_DITHER (o % 64) (sigOf o)
  exportWord dith (s.rw XPNT.DITHER_SEED) o n (fmtBits (s.rd STTX.CFG_FMT i)) y

/-- The factor that fades put on a stream's values at the present sample (R513, R515). -/
def State.txFade (s : State) (i : Nat) : Nat × Nat :=
  minFade (s.reclaimFade (.tx i) s.tim.sample) (s.tenantFade (s.txOwner i) s.tim.sample)

/-- Pending selectors of a stream's channels that apply to a packet whose first sample is k₀ (R304). -/
def txSelApply (i k : Nat) (s : State) : State :=
  let base := s.rd STTX.CH_BASE_BASE i
  let ch := s.txCh i
  let f := s.txHz i
  let p := fun (h : Held) => h.pg == 0x0F && h.off == 0x144 && decide (base ≤ h.obj) && decide (h.obj < base + ch) && !h.kept
    && decide (h.due * f < k * 96000)
  if s.held.any p then
    let l := s.held.filter p
    patchSync ((s.onHeld (fun hs => hs.filter (fun h => !p h))).each l (fun s h => s.applyHeld h))
  else s

/-- The value of one channel for stream sample k: `n` is the index that dither counts with. -/
def txSample (i k c : Nat) (s : State) : TxVal × State :=
  let fn := s.txOwner i
  let w := s.rw STTX.TXCH_SRC (s.rd STTX.CH_BASE_BASE i + c)
  let shows := s.txShows fn w
  match s.samePatch i w with
  | some j =>
    let d := cdiv (s.rd STRX.LOFS_L j * s.rxHz j) 96000
    let x := if shows then s.patched j (selIndex w - s.rd STRX.CH_BASE_BASE j) ((k : Int) - d) else 0
    let am := s.rd STRX.CFG_FMT j == 2
    let a := faded (s.txFade i) (presentedAudio (s.rd STRX.CFG_FMT j) x)
    ({ word := s.txExport i w k a, present := shows, label := if am && shows then some (x % 256).toNat else none }, s)
  | none =>
    let u := txUkey i
    if s.pathOf u = paDIRECT then
      ({ word := s.txExport i w k (faded (s.txFade i) (s.txValue fn w)), present := shows, label := none }, s)
    else
      let y := convert u c true (sinkPos (s.pathOf u) (s.groupOf u) k) s
      ({ word := y.2.txExport i w k y.1, present := shows, label := none }, y.2)

/-- A stream forms the samples whose instants have come: converters take the value of the present index first. -/
def txCapture (s : State) (i : Nat) : State :=
  let fn := s.txOwner i
  let u := txUkey i
  let ps := s.txPs i
  let s :=
    if s.pathOf u = paDIRECT then s
    else s.each (List.range (s.txCh i)) (fun s c =>
      convKeep u c s.tim.sample (faded (s.txFade i) (s.txValue fn (s.rw STTX.TXCH_SRC (s.rd STTX.CH_BASE_BASE i + c)))) s)
  s.each (txSpan (s.txHz i) s.tim.sample) (fun s k =>
    let s := if k % ps = s.rd STTX.PHASE_PHASE i then txSelApply i k s else s
    let r := (List.range (s.txCh i)).foldl (fun (a : List TxVal × State) c =>
      let y := txSample i k c a.2
      (a.1 ++ [y.1], y.2)) ([], s)
    r.2.onTx (fun t =>
      let l := tget (fun _ => []) t.buf i ++ [(k, r.1)]
      { t with buf := tset (fun _ => []) t.buf i (l.drop (l.length - (2 * ps + 4))) }))
/-- TXCH_STAT of a channel: its source is present at the current sample for the owner of its stream (R294, R311). -/
def State.txchStat (s : State) (c : Nat) : Nat :=
  b2n (s.txShows (s.txChOwner c) (s.rw STTX.TXCH_SRC c)) * 2 ^ 31 + b2n (s.rb STTX.TXCH_STAT_SEL_ERR c) * 2 ^ 30

/-- Pending selectors of channels outside every enabled stream apply at their boundary. -/
def txSelFree (s : State) : State :=
  s.applyDue (fun h => h.pg == 0x0F && (s.txOfChan h.obj).isNone) (fun s h => s.applyHeld h)

/-! ## Packets (R296–R299) -/

/-- CRCC of AES3 over bytes 0 to 22 of a channel-status block. -/
def crccStep : Nat → Nat → Nat
  | 0, c => c
  | n + 1, c => crccStep n (if c % 2 = 1 then (c / 2) ^^^ 0xB8 else c / 2)
def crcc (l : List Nat) : Nat := l.foldl (fun c b => crccStep 8 (c ^^^ b)) 0xFF

/-- The channel-status block of a stream, as bytes (R299). -/
def State.txCs (s : State) (i : Nat) : List Nat :=
  let l := (List.range 24).map (fun b => s.gw 0x0F i (0x0B0 + b / 4 * 4) / 2 ^ (8 * (b % 4)) % 256)
  if s.rb STTX.CFG_CS_CRC i then l.take 23 ++ [crcc (l.take 23)] else l
def ones (w : Nat) : Nat := countIf (fun b => w.testBit b) (List.range 32)
/-- The label of a word of an AM824 stream (R299). -/
def State.txLabel (s : State) (i k c : Nat) (x : TxVal) : Nat :=
  match x.label with
  | some l => l
  | none =>
    if s.rb STTX.CFG_LABEL_MODE i = false then 0x40
    else
      let n := k % 192
      let cb := ((s.txCs i).getD (n / 8) 0) / 2 ^ (n % 8) % 2
      let v := b2n !x.present
      let pac := if n = 0 then 0 else if c % 2 = 0 then 2 else 3
      let p := (ones (uns 24 x.word) + v + cb) % 2
      16 * pac + 8 * p + 4 * cb + v
/-- The bytes of one sample of one channel. -/
def State.txWordBytes (s : State) (i k c : Nat) (x : TxVal) : List Byte :=
  match s.rd STTX.CFG_FMT i with
  | 0 => beBytes 2 (uns 16 x.word)
  | 1 => beBytes 3 (uns 24 x.word)
  | _ => beBytes 1 (s.txLabel i k c x) ++ beBytes 3 (uns 24 x.word)

/-- The payload of the packet that begins at k₀. -/
def State.txPayload (s : State) (i k0 : Nat) : List Byte :=
  let l := tget (fun _ => []) s.tx.buf i
  (List.range (s.txPs i)).flatMap (fun j =>
    let v := match l.find? (fun e => e.1 == k0 + j) with | some e => e.2 | none => []
    (List.range (s.txCh i)).flatMap (fun c => s.txWordBytes i (k0 + j) c (v.getD c ⟨0, false, none⟩)))

/-- Sequence number and timestamp (R295, R296). -/
def State.txSeq (s : State) (i k0 : Nat) : Nat :=
  (s.rd STTX.SEQ_BASE_BASE i + (k0 - s.rd STTX.PHASE_PHASE i) / s.txPs i) % 65536
def State.txTs (s : State) (i k0 : Nat) : Nat :=
  uns 32 ((k0 : Int) - s.rd STTX.TS_SHIFT_SHIFT i + s.rw STTX.MCLK_OFS i)

/-- RTP header and payload (R298). -/
def State.txRtp (s : State) (i k0 : Nat) (mark : Bool) : List Byte :=
  beBytes 1 0x80 ++ beBytes 1 (128 * b2n mark + s.rd STTX.CFG_PT i) ++ beBytes 2 (s.txSeq i k0) ++ beBytes 4 (s.txTs i k0) ++
    beBytes 4 (s.rw STTX.SSRC i) ++ s.txPayload i k0

/-- The Ethernet frame of a leg (R298). -/
def State.txFrame (s : State) (i leg mac : Nat) (rtp : List Byte) : List Byte :=
  let g := s.txLeg i leg
  let ip := ipUdp g.v6 (s.portIp g.port g.v6) g.dst g.sport g.udp (s.rd STTX.IP_CFG_TTL i) (s.rd STTX.IP_CFG_DSCP i) rtp
  let tag := if g.tag then beBytes 2 0x8100 ++ beBytes 2 (g.pcp * 8192 + g.vid) else []
  let f := beBytes 6 mac ++ beBytes 6 (s.portMac g.port) ++ tag ++ beBytes 2 (if g.v6 then 0x86DD else 0x0800) ++ ip
  f ++ leBytes 4 (fcs f)

/-- A counter of a stream by leg, with its event when it leaves 0 (R313). -/
def txCnt (off leg : Nat) (ev : Option Nat) (i : Nat) (s : State) : State :=
  let r : Reg := ⟨0x0F, off + 4 * leg⟩
  let s' := s.cntr r i
  match ev with
  | some b => if s.rw r i = 0 then s'.raise 0x0F b (fnsOwn (s.txOwner i)) else s'
  | none => s'

/-- Use of a neighbour entry (R131). -/
def neighUse (port addr : Nat) (s : State) : State :=
  let l := (tget (fun _ => []) s.net.neigh port).map (fun e => if e.1 = addr then (e.1, s.clock, e.2.2) else e)
  s.onNet (fun n => { n with neigh := tset (fun _ => []) n.neigh port l })

/-- Place the packet that begins at k₀ into Q0 of a leg's port, or count why not (R305, R307). -/
def txPlace (i : Nat) (rtp : List Byte) (s : State) (leg : Nat) : State :=
  let g := s.txLeg i leg
  if g.en = false ∨ s.txSupp leg then s
  else match s.dstMac g.port g.v6 g.dst with
    | none => txCnt 0x118 leg (some 2) i s
    | some mac =>
      if s.linkUp g.port = false ∨ 2048 ≤ (s.txList (txKey g.port 0)).length then txCnt 0x110 leg (some 2) i s
      else
        let f : TxFrame := { kind := .audio i leg s.tim.sample, len := s.txLen i leg, bytes := s.txFrame i leg mac rtp, held := false }
        txPut g.port (txKey g.port 0) f (if isMulticast g.v6 g.dst then s else neighUse g.port (s.nextHop g.port g.v6 g.dst) s)

/-- The talker sends in this mode (R303). -/
def talks (m : Nat) : Bool := running m || m == mMIRROR

/-- Packets of a stream due at the boundary of the present sample (R297, R302). -/
def txDue (s : State) (i : Nat) : State :=
  let ps := s.txPs i
  s.each (txSpan (s.txHz i) s.tim.sample) (fun s e =>
    if e < ps ∨ (e - ps) % ps ≠ s.rd STTX.PHASE_PHASE i then s
    else
      let k0 := e - ps
      let l := (tget (fun _ => []) s.tx.win i).filter (fun w => match w.2 with | some z => decide (k0 < z) | none => true)
      let s := s.onTx (fun t => { t with win := tset (fun _ => []) t.win i l })
      match l.find? (fun w => decide (w.1 ≤ k0)) with
      | none => s
      | some w =>
        if (talks s.mode = false ∧ s.md.safeAt ≠ some s.tim.sample) ∨ s.uma.copying ∨ s.flt.stop then s
        else
          let rtp := s.txRtp i k0 (s.rb STTX.CFG_MARK_START i && decide (k0 < w.1 + ps))
          s.each [0, 1] (txPlace i rtp))
/-- Put words into an entry. -/
def entryPut (i : Nat) (ws : List Nat) (s : State) : State := s.each (txEntry.zip ws) (fun s x => s.pw 0x0F i x.1 x.2)
/-- The packets of a stream that are due now; a commit that completed at this boundary applies from the next (R304). -/
def txSend (s : State) (i : Nat) : State :=
  match s.tx.prev with
  | some (j, ws) =>
    if i = j ∧ s.tx.on.contains i then
      let now := txEntry.map (s.gw 0x0F i)
      entryPut i now (txDue (entryPut i ws s) i)
    else txDue s i
  | none => txDue s i

/-- The talker at a boundary: samples whose instants have come are formed, then packets that are due are placed in ascending
stream number; streams that a reclaim has stopped close behind their last packet. -/
def talker (s : State) : State :=
  let s := s.each s.rx.on patchKeep
  let s := txSelFree s
  let s := s.each s.tx.on txCapture
  let s := s.each s.tx.on txLegs
  let s := (s.each s.tx.on txSend).onTx (fun t => { t with prev := none })
  s.each s.tx.closing (fun s i => if (tget (fun _ => []) s.tx.win i).isEmpty then txDisable i s else s)

/-- STREAM_START and STREAM_STOP on a transmit stream fire at the present sample (R302). -/
def txFirst (i : Nat) (s : State) : Nat := cdiv (s.tim.sample * s.txHz i) 96000
def txStartNow (i : Nat) (s : State) : State :=
  if s.txState i ≠ txIDLE then s
  else (s.wr STTX.ST_STAT_STATE txRUN i).onTx (fun t =>
    { t with win := tset (fun _ => []) t.win i (tget (fun _ => []) t.win i ++ [(txFirst i s, none)]) })
def txStopNow (i : Nat) (s : State) : State :=
  if s.txState i ≠ txRUN then s
  else (s.wr STTX.ST_STAT_STATE txIDLE i).onTx (fun t =>
    { t with win := tset (fun _ => []) t.win i ((tget (fun _ => []) t.win i).map (fun w => match w.2 with
      | none => (w.1, some (txFirst i s))
      | some z => (w.1, some z))) })
/-- A reclaimed stream stops at the present sample and closes behind its last packet (R513). -/
def txReclaim (i : Nat) (s : State) : State :=
  let s := txStopNow i s
  s.onTx (fun t => { t with closing := t.closing.filter (· != i) ++ [i] })

/-! ## The rows -/

def execSapTxAnnounce (i : Nat) (s : State) : Host.Outcome State Fault Refusal := .next (awake s (if i < 1024 then sapAnnounce 2 i s else s))

def txOwnNew (i fn : Nat) (s : State) : Option Nat := if bg s.tx.used i = false ∨ may fn (s.txOwner i) then none else some stNOT_OWNER
def txOwn (i fn : Nat) (s : State) : Option Nat := if may fn (s.txOwner i) then none else some stNOT_OWNER
def txCfgRegs : List Nat := txEntry

/-- The effect of the command. -/
def txAddBody (i : Nat) (name : List Byte) (ws : List RegW) (fn : Nat) (s : State) : Res :=
    if 1023 < i ∨ 32 < name.length ∨ entryWsOk txCfgRegs ws = false then no stBAD_FIELD
    else if s.rb STTX.CFG_EN i then no stBUSY
    else txCommitRes fn i none ws (fun s => s.onTx (fun t => { t with names := tset (fun _ => []) t.names i name })) s
def execStreamTxAdd (e : Env) (i : Nat) (name : List Byte) (ws : List RegW) (s : State) : Host.Outcome State Fault Refusal :=
  .next (runCmd { mirrored := true, code := 0x0330 } e (txOwnNew i) (txAddBody i name ws) s (some (.streamTxAdd e i name ws)))
/-- The effect of the command. -/
def txModifyBody (i : Nat) (ws : List RegW) (fn : Nat) (s : State) : Res :=
    if 1023 < i ∨ entryWsOk txCfgRegs ws = false ∨ bg s.tx.used i = false then no stBAD_FIELD
    else txCommitRes fn i (some i) ws id s
def execStreamTxModify (e : Env) (i : Nat) (ws : List RegW) (s : State) : Host.Outcome State Fault Refusal :=
  .next (runCmd { mirrored := true, code := 0x0331 } e (txOwn i) (txModifyBody i ws) s (some (.streamTxModify e i ws)))
/-- The effect of the command. -/
def txRemoveBody (i : Nat) (_ : Nat) (s : State) : Res :=
    if 1023 < i ∨ bg s.tx.used i = false then no stBAD_FIELD
    else
      let s := (entryReset 0x0F txEntry i (txDisable i s)).ww STTX.FRAME_LEN 0 i
      done ((s.ww STTX.OWNER 0 i).onTx (fun t => { t with used := bs t.used i false, names := tset (fun _ => []) t.names i [] }))
def execStreamTxRemove (e : Env) (i : Nat) (s : State) : Host.Outcome State Fault Refusal :=
  .next (runCmd { mirrored := true, code := 0x0332 } e (txOwn i) (txRemoveBody i) s (some (.streamTxRemove e i)))
def execStreamTxStatus (e : Env) (is : List Nat) (s : State) : Host.Outcome State Fault Refusal :=
  .next (runCmd { read := true } e (fun fn s => if is.all (fun i => may fn (s.txOwner i)) then none else some stNOT_OWNER) (fun _ s =>
    if is = [] ∨ 64 < is.length ∨ is.any (1023 < ·) then no stBAD_FIELD
    else retL s 4 (is.flatMap (fun i => [s.rw STTX.ST_STAT i, s.rw STTX.PHASE i, s.rw STTX.FRAME_LEN i, s.rw STTX.DEP_MAX i]))) s)
def execStreamTxCounters (e : Env) (i : Nat) (clear : Bool) (s : State) : Host.Outcome State Fault Refusal :=
  .next (runCmd { read := !clear } e (txOwn i) (fun _ s =>
    if 1023 < i then no stBAD_FIELD
    else ret (if clear then s.onCmd (fun c => { c with clr := c.clr ++ [(0x0F, i)] }) else s)
      ((List.range 8).map (fun j => s.gw 0x0F i (0x100 + 4 * j)))) s)

/-- How a list of selector writes would change the direct patches of enabled streams, of one owner or of all. -/
def patchGain (s : State) (p : Nat → Bool) (l : List (Nat × Nat)) : Int :=
  l.foldl (fun (a : Int) x => match s.txOfChan x.1 with
    | some i => if p i then a + b2n (isPatch x.2) - b2n (isPatch (s.txWant x.1)) else a
    | none => a) 0
/-- Direct patches of a tenant's streams, as they will be. -/
def State.patchOf (s : State) (fn : Nat) : Nat := sumOf s.patchWant (s.tx.on.filter (fun i => s.txOwner i == fn))
/-- Of several writes to one channel the last counts. -/
def lastPer : List (Nat × Nat) → List (Nat × Nat)
  | [] => []
  | x :: t => if t.any (fun y => y.1 == x.1) then lastPer t else x :: lastPer t
/-- Why a list of selector writes is refused (R292, R293). -/
def txSelRefusal (s : State) (ws : List (Nat × Nat)) : Option Nat :=
  let l := lastPer ws
  let ovr := (List.range 7).any (fun f =>
    let g := patchGain s (fun i => s.txOwner i == f + 1) l
    decide (0 < g ∧ (s.rd TNT.QUOTA_N qPATCH (f + 1) : Int) < s.patchOf (f + 1) + g))
  if ovr then some stQUOTA
  else
    let g := patchGain s (fun _ => true) l
    if 0 < g ∧ 4096 < (s.patchTotal : Int) + g then some stBUSY else none
/-- A write of TXCH_SRC by a register: refused selectors set SEL_ERR, and a channel of another's stream is left alone (R311). -/
def txSrcWrite (fn c w : Nat) (s : State) : State :=
  if may (actsAs fn) (s.txChOwner c) = false then s
  else if txSelOk (w % 65536) = false ∨ (txSelRefusal s [(c, w % 65536)]).isSome then s.wb STTX.TXCH_STAT_SEL_ERR true c
  else s.hold fn 0x0F c 0x144 0xFFFF w
def execTxchSet (e : Env) (l : List (Nat × Nat)) (s : State) : Host.Outcome State Fault Refusal :=
  .next (runCmd { mirrored := true, code := 0x0335 } e (fun fn s => if l.all (fun x => may fn (s.txChOwner x.1)) then none else some stNOT_OWNER)
    (fun _ s =>
      if 1024 < l.length ∨ l.any (fun x => 8191 < x.1 || 65535 < x.2 || !txSelOk x.2) then no stBAD_FIELD
      else match txSelRefusal s l with
        | some st => no st
        | none =>
          done (s.onHeld (fun hs => hs ++ l.map (fun x =>
            { fn := 16, pg := 0x0F, obj := x.1, off := 0x144, mask := 0xFFFF, val := x.2, kept := false, due := s.rwbDue 0x0F 0x144 })))) s)
def execStreamTxSdp (e : Env) (i : Nat) (s : State) : Host.Outcome State Fault Refusal :=
  .next (runCmd { read := true } e (txOwn i) (fun _ s =>
    if 1023 < i ∨ s.rb STTX.CFG_EN i = false then no stBAD_FIELD else ret s (leWords (s.sdpText i))) s)
def execSapTxConfig (e : Env) (on : Bool) (sec : Nat) (s : State) : Host.Outcome State Fault Refusal :=
  .next (runCmd { pf0 := true } e anyone (fun _ s =>
    if sec = 0 ∨ 300 < sec then no stBAD_FIELD
    else done ((s.wb STTX.SAP_TX_CFG_EN on).wr STTX.SAP_TX_CFG_INTERVAL sec)) s)
def execTxLoadQuery (e : Env) (port : Nat) (s : State) : Host.Outcome State Fault Refusal :=
  .next (runCmd { read := true } e anyone (fun _ s =>
    if 3 < port then no stBAD_FIELD else ret s ((List.range 384).map (s.txLoad (s.txPlan s.tx.on) port))) s)

/-- TX_COMMIT and TX_LOAD (R311): writes of ENTRY_CMD with bit 31 and bit 30. -/
def regTxCommit (fn w : Nat) (s : State) : State :=
  if bit w 31 && !s.rb STTX.ENTRY_CMD_BUSY then
      (s.wb STTX.ENTRY_CMD_BUSY true).onTx (fun t => { t with commit := some (actsAs fn * 1024 + s.rd STTX.SEL_STREAM fn, s.accTick + (if s.mirrorActive then 2 else 1)) })
    else s
def execTxCommit (fn w : Nat) (s : State) : Host.Outcome State Fault Refusal := .next (awake s (actNoted 0x0F s (regTxCommit fn w s)))
def regTxLoad (fn w : Nat) (s : State) : State :=
  let i := s.rd STTX.SEL_STREAM fn
    if bit w 30 = false ∨ s.rb STTX.ENTRY_CMD_BUSY then s
    else if may (actsAs fn) (s.txOwner i) = false then s.wr STTX.ENTRY_CMD_RESULT stNOT_OWNER
    else (entryCopy 0x0F txEntry i stagObj s).wr STTX.ENTRY_CMD_RESULT stOK
def execTxLoad (fn w : Nat) (s : State) : Host.Outcome State Fault Refusal := .next (awake s (regTxLoad fn w s))

end Sys2Proof.Machine
end

