-- ==== Sys2Proof/Machine/Local.lean ====
section
/-!
DEFINITION. Local audio ports and clock pins (R315–R348): I²S ports with their word slips, AES3 receivers and transmitters,
reference inputs and clock outputs.
-/
namespace Sys2Proof.Machine

/-! ## Objects -/

/-- Port p is port q of group g, whose page is instance g. -/
def grpOf (p : Nat) : Nat := p / 4
def prtOf (p : Nat) : Nat := p % 4
def State.i2sRd (s : State) (f : Fld) (p : Nat) : Nat := s.rd f (prtOf p) (grpOf p)
def State.i2sRb (s : State) (f : Fld) (p : Nat) : Bool := s.rb f (prtOf p) (grpOf p)
def i2sWr (f : Fld) (v p : Nat) (s : State) : State := s.wr f v (prtOf p) (grpOf p)
def i2sCnt (r : Reg) (p : Nat) (s : State) (n : Nat := 1) : State := s.cntr r (prtOf p) (grpOf p) n
def State.i2sState (s : State) (p : Nat) : Nat := s.i2sRd SAPG.PORT_STAT_STATE p
def i2sOFF : Nat := 0
def i2sREADY : Nat := 1
def i2sRUN : Nat := 2
def i2sIn (p : Nat) : Nat := ukey ukI2SI p
def i2sOut (p : Nat) : Nat := ukey ukI2SO p
/-- Bits of a WLEN or SLOT code. -/
def wlenBits (c : Nat) : Nat := match c with | 0 => 16 | 1 => 24 | _ => 32

def State.pairs (t : Tbl (List α)) (p : Nat) : List α := tget (fun _ => []) t p
def lset [DecidableEq α] (t : Tbl (List α)) (p : Nat) (l : List α) : Tbl (List α) := tset (fun _ => []) t p l

/-- The state of a port changes, with GRP_STAT (R344, R347). -/
def i2sSet (p st : Nat) (s : State) : State :=
  if s.i2sState p = st then s
  else
    let s := i2sWr SAPG.PORT_STAT_STATE st p s
    let m := 2 ^ prtOf p
    let put := fun (old : Nat) (v : Bool) => if v then old ||| m else old - (old &&& m)
    let s := s.wr SAPG.GRP_STAT_READY (put (s.rd SAPG.GRP_STAT_READY (i := grpOf p)) (st == i2sREADY)) (i := grpOf p)
    let s := s.wr SAPG.GRP_STAT_RUN (put (s.rd SAPG.GRP_STAT_RUN (i := grpOf p)) (st == i2sRUN)) (i := grpOf p)
    if st = i2sRUN then s.raise (0x14 + grpOf p) 3 fnsAll else s
/-- CFG_ERR of a port (R317, R347). -/
def i2sErr (p : Nat) (s : State) : State := (i2sWr SAPG.PORT_STAT_CFG_ERR 1 p s).raise (0x14 + grpOf p) 2 fnsAll
/-- CLK_OK of a port (R328, R347). -/
def i2sClk (p : Nat) (v : Bool) (s : State) : State :=
  if s.i2sRb SAPG.PORT_STAT_CLK_OK p = v then s
  else (i2sWr SAPG.PORT_STAT_CLK_OK (b2n v) p s).raise (0x14 + grpOf p) 1 fnsAll

/-! ## Enabling and stopping an I²S port (R317, R322, R324) -/

/-- The ratio group of a port, if it has a direction in use. -/
def State.i2sGroup (s : State) (p : Nat) : Option Nat :=
  if s.pathOf (i2sIn p) = paTRACK then some (s.groupOf (i2sIn p)) else if s.pathOf (i2sOut p) = paTRACK then some (s.groupOf (i2sOut p)) else none
/-- The ratio group that a port shares with the enabled ports of its bound I²S group (R185). -/
def State.i2sJoin (s : State) (p : Nat) : Option Nat :=
  if bit (s.rw SRCB.I2S_BIND) (grpOf p) then (s.loc.i2s.filter (fun q => grpOf q == grpOf p)).findSome? s.i2sGroup else none
/-- What a port asks of the pool, for a number of channels. -/
def State.i2sAsk (s : State) (p ch : Nat) (join : Option Nat) : SrcAsk :=
  { path := paTRACK, fixed := 0, ch := ch, join := join, type := 3, kind := 2, index := p, nom := s.i2sRd SAPG.NOM_HZ p }
def State.i2sCh (s : State) (p : Nat) : Nat := 2 * b2n (s.i2sRb SAPG.PORT_CTL_IN_EN p) + 2 * b2n (s.i2sRb SAPG.PORT_CTL_OUT_EN p)
/-- Why an enable of the port would be refused (R184). -/
def State.i2sRefusal (s : State) (p : Nat) : Option Nat :=
  if s.i2sCh p = 0 then none else srcRefusal 0 (s.i2sAsk p (s.i2sCh p) (s.i2sJoin p)) s

/-- The ratio group of a bound I²S group measures from the lowest-numbered enabled port, with its NOM (R185, R189). -/
def i2sIndex (q : Nat) (s : State) : State :=
  let l := s.loc.i2s.filter (fun p => grpOf p == q)
  if bit (s.rw SRCB.I2S_BIND) q = false then s
  else match l.head?, l.findSome? s.i2sGroup with
    | some p, some g => (s.wr SRCB.GRP_SRC_INDEX p g).wr SRCB.GRP_NOM_HZ (s.i2sRd SAPG.NOM_HZ p) g
    | _, _ => s

/-- Empty both FIFOs and wait for the first pairs (R324, R328). -/
def i2sPrime (p : Nat) (s : State) : State :=
  s.onLoc (fun l => { l with
    inF := lset l.inF p [], outF := lset l.outF p [], inWait := ns l.inWait p 3, outWait := ns l.outWait p 2
    swapIn := bs l.swapIn p false, swapOut := bs l.swapOut p false, sdo := is (is l.sdo (2 * p) 0) (2 * p + 1) 0 })

/-- A write of EN = 1 is applied: READY, with its ratio group; refused converters leave the port disabled. -/
def i2sReady (p : Nat) (s : State) : State :=
  match s.i2sRefusal p with
  | some _ => i2sErr p (i2sWr SAPG.PORT_CTL_EN 0 p s)
  | none =>
    let join := s.i2sJoin p
    let inn := s.i2sRb SAPG.PORT_CTL_IN_EN p
    let out := s.i2sRb SAPG.PORT_CTL_OUT_EN p
    let s := if inn then srcTake (i2sIn p) 0 (s.i2sAsk p 2 join) s else s
    let join := if inn then some (s.groupOf (i2sIn p)) else join
    let s := if out then srcTake (i2sOut p) 0 (s.i2sAsk p 2 join) s else s
    let s := i2sPrime p (s.onLoc (fun l => { l with i2s := l.i2s.filter (· < p) ++ [p] ++ l.i2s.filter (p < ·), startAt := os l.startAt p none }))
    i2sSet p i2sREADY (i2sIndex (grpOf p) s)

/-- The port stops (R324). -/
def i2sOff (p : Nat) (s : State) : State :=
  let s := srcGive (i2sOut p) (srcGive (i2sIn p) s)
  let s := i2sPrime p (s.onLoc (fun l => { l with
    i2s := l.i2s.filter (· != p), halt := bs l.halt p false, restart := bs l.restart p false, startAt := os l.startAt p none }))
  i2sIndex (grpOf p) (i2sWr SAPG.PORT_STAT_SWAPPED 0 p (i2sSet p i2sOFF s))

/-- The fields of PORT_CTL that R317 guards: all but EN and RESTART. -/
def i2sGuard : Nat := 2 ^ 30 + 2 ^ 29 + 2 ^ 28 + 0x33
/-- What a write of PORT_CTL would break (R317). -/
def State.i2sBad (s : State) (p w : Nat) : Bool :=
  let old := s.rw SAPG.PORT_CTL (prtOf p) (grpOf p)
  let reserved := fbits w 5 4 == 3 || fbits w 1 0 == 3
  let changed := (w &&& i2sGuard) != (old &&& i2sGuard)
  reserved || (bit old 31 && changed) || (bit w 31 && !bit old 31 && decide (wlenBits (fbits w 1 0) < wlenBits (fbits w 5 4)))
/-- A write of PORT_CTL (R317, R322, R324, R327): guarded fields are ignored where the rule says so; a disable takes effect. -/
def i2sCtlWrite (p w : Nat) (s : State) : State :=
  let q := prtOf p
  let g := grpOf p
  let old := s.rw SAPG.PORT_CTL q g
  let s := if bit w 27 then s.onLoc (fun l => { l with restart := bs l.restart p true }) else s
  let s :=
    if s.i2sBad p w then
      i2sErr p (if bit old 31 then s.ww SAPG.PORT_CTL (fput old 31 31 (b2n (bit w 31))) q g else s)
    else s.ww SAPG.PORT_CTL (w &&& (i2sGuard + 2 ^ 31)) q g
  if s.i2sRb SAPG.PORT_CTL_EN p ∨ s.i2sState p = i2sOFF then s
  else if s.i2sRb SAPG.PORT_STAT_CLK_OK p then s.onLoc (fun l => { l with halt := bs l.halt p true })
  else i2sOff p s
/-- A write of NOM, only while EN = 0. -/
def i2sNomWrite (p w : Nat) (s : State) : State :=
  if s.i2sRb SAPG.PORT_CTL_EN p ∨ w % 2 ^ 18 < 8000 ∨ 216000 < w % 2 ^ 18 then i2sErr p s else i2sWr SAPG.NOM_HZ (w % 2 ^ 18) p s

/-- PORT_START on an I²S group fires at the present sample (R323). -/
def i2sStart (g : Nat) (s : State) : State :=
  s.each (s.loc.i2s.filter (fun p => grpOf p == g)) (fun s p =>
    if s.i2sState p = i2sREADY then s.onLoc (fun l => { l with startAt := os l.startAt p (some s.tim.sample) }) else s)

/-! ## A frame-start edge (R316, R318, R319, R325–R329) -/

/-- The value of a shifted word in Q1.31; missing bits are zero. -/
def i2sValue (wlen : Nat) (x : I2sWord) : Int :=
  let w := if wlen ≤ x.n then x.bits / 2 ^ (x.n - wlen) % 2 ^ wlen else x.bits * 2 ^ (wlen - x.n) % 2 ^ wlen
  sgn wlen w * (2 ^ (32 - wlen) : Nat)

/-- Words enter the input FIFO of a port in RUN; one that meets it full is lost (R325). -/
def i2sShift (p wlen : Nat) (s : State) (x : I2sWord) : State :=
  let s := if x.n < wlen then i2sCnt SAPG.BCLK_ERR p s else s
  let l := State.pairs s.loc.inF p
  if s.i2sState p ≠ i2sRUN then s
  else if x.lost ∨ 16 ≤ l.length then i2sCnt SAPG.FIFO_ERR p s
  else s.onLoc (fun q => { q with inF := lset q.inF p (l ++ [(i2sValue wlen x, x.slot1)]) })

/-- From the first slot-0 word that a slot-1 word follows. -/
def realign : List (Int × Bool) → List (Int × Bool)
  | a :: b :: t => if a.2 = false ∧ b.2 = true then a :: b :: t else realign (b :: t)
  | _ => []

/-- A slip is counted (R325). -/
def i2sSlip (p : Nat) (s : State) : State :=
  (i2sWr SAPG.PORT_STAT_SLIP 1 p (i2sCnt SAPG.SLIPS p s)).raise (0x14 + grpOf p) 0 fnsAll
/-- One restart of a direction (R326). -/
def i2sRestarted (p : Nat) (s : State) : State := i2sCnt SAPG.MUTED_FRAMES p (i2sCnt SAPG.RESTARTS p s)

/-- Take a pair from a FIFO at an edge: the pair that is handed or driven, the words that stay, whether the pair slipped,
whether the direction restarted. -/
def takePair (auto force : Bool) (l : List (Int × Bool)) : (Int × Int) × List (Int × Bool) × Bool × Bool :=
  match l with
  | a :: b :: t =>
    let slip := !(a.2 == false && b.2 == true)
    if force ∨ (slip ∧ auto) then ((0, 0), realign l, slip, true)
    else ((a.1, b.1), t, slip, false)
  | _ => ((if auto || force then 0 else (l.headD (0, false)).1, 0), [], true, auto || force)

/-- A pair of samples is handed to a source's converters, at the edge of count j. -/
def locHand (u : Nat) (j : Int) (v : Int × Int) (s : State) : State := convKeep u 1 j v.2 (convKeep u 0 j v.1 s)
/-- The input direction at the edge of count j: the sample handed to conversion. -/
def i2sInEdge (p : Nat) (j : Int) (force : Bool) (s : State) : State :=
  if s.i2sState p ≠ i2sRUN then locHand (i2sIn p) j (0, 0) (s.onLoc (fun l => { l with inF := lset l.inF p [] }))
  else
    let w := ng s.loc.inWait p
    if 1 < w then locHand (i2sIn p) j (0, 0) (s.onLoc (fun l => { l with inWait := ns l.inWait p (w - 1) }))
    else
      let auto := s.i2sRb SAPG.PORT_CTL_AUTO_RESTART p
      let r := takePair auto (force && bg s.loc.swapIn p) (State.pairs s.loc.inF p)
      let s := locHand (i2sIn p) j r.1 (s.onLoc (fun l => { l with
        inWait := ns l.inWait p 0, inF := lset l.inF p r.2.1, swapIn := bs l.swapIn p (r.2.2.1 && !r.2.2.2) }))
      let s := if r.2.2.1 then i2sSlip p s else s
      if r.2.2.2 then i2sRestarted p s else s

/-- Pending selectors of a port apply to a frame whose sink sample, of count j, has its instant after their boundary (R321). -/
def i2sSel (p : Nat) (j : Int) (s : State) : State :=
  let c := s.loopFor (s.groupOf (i2sOut p)) j
  s.applyDue (fun h => h.pg == 0x14 + grpOf p && h.obj == prtOf p && (h.off == 0x108 || h.off == 0x10C) &&
    decide ((h.due : Int) * 125000 * c.den < c.a + j * c.b)) (fun s h => s.applyHeld h)
def State.i2sSrc (s : State) (p c : Nat) : Nat := s.gw (0x14 + grpOf p) (prtOf p) (0x108 + 4 * c)

/-- Export of a local output channel's value at w bits (R24, R226). -/
def State.locExport (s : State) (sel n w : Nat) (y : Int) : Int :=
  let o := selIndex sel
  exportWord (selKind sel == 1 && s.rb SIG.OUT_CFG_DITHER (o % 64) (sigOf o)) (s.rw XPNT.DITHER_SEED) o n w y

/-- Local outputs run (R445); in PREROLL and SAFE they send zeros, in the other modes SDO and AES_TX are low (R447). -/
def State.locRun (s : State) : Bool := running s.mode || s.mode == mMIRROR || s.mode == mTEST
def State.locZero (s : State) : Bool := s.mode == mPREROLL || s.mode == mSAFE

/-- Sink sample j of an output: the converted value, exported at the port's width. -/
def i2sOutSample (p w c : Nat) (j : Int) (s : State) : Int × State :=
  let r := convert (i2sOut p) c true (s.trackOut (s.groupOf (i2sOut p)) j) s
  (r.2.locExport (s.i2sSrc p c) s.tim.sample w r.1, r.2)
/-- The pair that a frame sends; outside the modes in which local outputs run, zeros. -/
def i2sDrive (p : Nat) (v : Int × Int) (s : State) : State :=
  let v := if s.locRun then v else (0, 0)
  s.onLoc (fun q => { q with sdo := is (is q.sdo (2 * p) v.1) (2 * p + 1) v.2 })
/-- What stands in the output FIFO. -/
def i2sKeep (p : Nat) (l : List (Int × Bool)) (s : State) : State := s.onLoc (fun q => { q with outF := lset q.outF p l })
/-- The output direction at the edge of count j: sink sample j enters the FIFO, and the frame that starts takes the pair two before it. -/
def i2sOutEdge (p under : Nat) (j : Int) (force : Bool) (s : State) : State :=
  let s := i2sSel p j s
  let w := wlenBits (s.i2sRd SAPG.PORT_CTL_WLEN p)
  let a := i2sOutSample p w 0 j s
  let b := i2sOutSample p w 1 j a.2
  let s := b.2
  let l := State.pairs s.loc.outF p ++ [(a.1, false), (b.1, true)]
  let ovr := l.length - 16
  let l := l.take 16
  let s := if ovr = 0 then s else i2sCnt SAPG.FIFO_ERR p s ovr
  let wt := ng s.loc.outWait p
  if 0 < wt then i2sDrive p (0, 0) (i2sKeep p l (s.onLoc (fun q => { q with outWait := ns q.outWait p (wt - 1) })))
  else if s.i2sState p ≠ i2sRUN then i2sDrive p (0, 0) (i2sKeep p (l.drop 2) s)
  else if 0 < under then
    let r := s.freshI
    let s := i2sCnt SAPG.FIFO_ERR p (i2sKeep p (l.drop (2 - min 2 under)) r.2) (min 2 under)
    i2sDrive p (if under = 1 then (l.headD (0, false)).1 else r.1, r.1) s
  else
    let auto := s.i2sRb SAPG.PORT_CTL_AUTO_RESTART p
    let r := takePair auto (force && bg s.loc.swapOut p) l
    let s := i2sDrive p r.1 (i2sKeep p r.2.1 (s.onLoc (fun q => { q with swapOut := bs q.swapOut p (r.2.2.1 && !r.2.2.2) })))
    let s := if r.2.2.1 then i2sSlip p s else s
    if r.2.2.2 then i2sRestarted p s else s

/-- A WS edge that starts a frame, in the order of R329. -/
def i2sEdge (p off : Nat) (x : I2sIn) (s : State) : State :=
  let g := s.grid off
  let was := s.i2sRb SAPG.PORT_STAT_CLK_OK p
  let s := i2sClk p true (s.onLoc (fun l => { l with clkAt := ns l.clkAt p (s.clockGrid off + 1) }))
  let s := if was then i2sWr SAPG.PORT_STAT_BCLK_FRAME (min 255 x.bclk) p s else s
  if s.i2sState p = i2sOFF then s
  else if bg s.loc.halt p then i2sOff p s
  else
    let rg := s.i2sGroup p
    let s := match rg with
      | some q => if s.rd SRCB.GRP_SRC_INDEX q = p then measureEdge q g s else s
      | none => s
    let j := match rg with | some q => s.edgeCount q g | none => 0
    let inn := s.i2sRb SAPG.PORT_CTL_IN_EN p
    let out := s.i2sRb SAPG.PORT_CTL_OUT_EN p
    let s :=
      if was = false then
        let s := i2sPrime p s
        let s := if s.i2sState p = i2sRUN then i2sCnt SAPG.MUTED_FRAMES p (i2sCnt SAPG.RESTARTS p s) (2 * b2n out) else s
        if inn then s.onLoc (fun l => { l with inWait := ns l.inWait p 4 }) else s
      else if inn then s.each x.words (i2sShift p (wlenBits (s.i2sRd SAPG.PORT_CTL_WLEN p)))
      else s
    let force := bg s.loc.restart p && was
    let s := s.onLoc (fun l => { l with restart := bs l.restart p false })
    let s := match og s.loc.startAt p with
      | some n =>
        if 125000 * n ≤ g ∧ s.i2sState p = i2sREADY then
          i2sSet p i2sRUN (s.onLoc (fun l => { l with startAt := os l.startAt p none, inWait := ns l.inWait p 4 }))
        else s
      | none => s
    let s := if inn then i2sInEdge p j force s else s
    let s := if out then i2sOutEdge p x.under j force s else s
    i2sWr SAPG.PORT_STAT_SWAPPED (b2n (bg s.loc.swapIn p || bg s.loc.swapOut p)) p s

/-- No WS edge for 4 periods of NOM (R328). -/
def i2sLoss (p off : Nat) (s : State) : State :=
  let at_ := ng s.loc.clkAt p
  if s.i2sRb SAPG.PORT_STAT_CLK_OK p ∧ 4 * gridSec ≤ (s.clockGrid off + 1 - at_) * s.i2sRd SAPG.NOM_HZ p then
    let s := i2sClk p false (i2sCnt SAPG.CLK_LOSSES p s)
    if bg s.loc.halt p then i2sOff p s
    else s.onLoc (fun l => { l with sdo := is (is l.sdo (2 * p) 0) (2 * p + 1) 0 })
  else s

/-! ## AES3 receivers (R330–R334) -/

def arOFF : Nat := 0
def arSEARCH : Nat := 1
def arLOCKED : Nat := 2
def State.arState (s : State) (r : Nat) : Nat := s.rd AESP.RX_STAT_STATE r
def arSet (r st : Nat) (s : State) : State :=
  if s.arState r = st then s else (s.wr AESP.RX_STAT_STATE st r).raise 0x18 0 fnsAll
def arCfgErr (r : Nat) (s : State) : State := s.wb AESP.RX_STAT_CFG_ERR true r
def arKey (r : Nat) : Nat := ukey ukARX r
def State.arAsk (s : State) (r : Nat) : SrcAsk :=
  { path := paTRACK, fixed := 0, ch := 2, join := none, type := 4, kind := 3, index := r, nom := s.rd AESP.RX_NOM_HZ r }
/-- N of R334. -/
def arN (nom : Nat) : Nat := cdiv (48 * nom) 96000

/-- Forget the block in progress. -/
def arBlock (r : Nat) (s : State) : State :=
  s.onLoc (fun l => { l with
    rxC := ns (ns l.rxC (2 * r) 0) (2 * r + 1) 0, rxU := ns (ns l.rxU (2 * r) 0) (2 * r + 1) 0
    rxV := bs (bs l.rxV (2 * r) false) (2 * r + 1) false, rxBad := bs l.rxBad r false, rxPos := ns l.rxPos r 0 })

/-- A receiver is enabled or disabled at a tick boundary (R345). -/
def arEnable (r : Nat) (s : State) : State :=
  match srcRefusal 0 (s.arAsk r) s with
  | some _ => arCfgErr r (s.wb AESP.RX_CTL_EN false r)
  | none =>
    let s := srcTake (arKey r) 0 (s.arAsk r) s
    arSet r arSEARCH (arBlock r (s.onLoc (fun l => { l with rxs := l.rxs.filter (· != r) ++ [r], rxZ := ns l.rxZ r 0 })))
def arDisable (r : Nat) (s : State) : State :=
  arSet r arOFF (arBlock r ((srcGive (arKey r) s).onLoc (fun l => { l with
    rxs := l.rxs.filter (· != r), rxDelay := lset l.rxDelay r [], rxZ := ns l.rxZ r 0
    rxClean := bs l.rxClean r false })))

/-- An error counter of a receiver, with its event when it leaves 0 (R347). -/
def arErrCnt (f : Reg) (r : Nat) (s : State) : State :=
  let s' := s.cntr f r
  if s.rw f r = 0 then s'.raise 0x18 2 fnsAll else s'

/-- One sample of a channel (R334): the value presented. -/
def arSample (r c sub : Nat) (viol : Bool) (s : State) : Int × State :=
  let k := 2 * r + c
  let par := ones (sub % 2 ^ 28) % 2 == 1
  let s := if par then arErrCnt AESP.RX_PARITY_ERR r s else s
  let s := if viol then arErrCnt AESP.RX_BIPHASE_ERR r s else s
  let s := if par || viol then s.onLoc (fun l => { l with rxBad := bs l.rxBad r true }) else s
  let a := sub % 2 ^ 24
  let a := if s.rb AESP.RX_CTL_AUX_ZERO r then a / 16 * 16 else a
  let x := sgn 24 a * 256
  let n := arN (s.rd AESP.RX_NOM_HZ r)
  let m := n - ng s.loc.rxFall k
  if par || viol || (bit sub 24 && s.rb AESP.RX_CTL_V_ERR r) then
    let h := ng s.loc.rxHold k + 1
    let s := s.cntr AESP.RX_HELD r
    let s := if 4 < h ∧ m = n then (s.cntr AESP.RX_MUTES r).raise 0x18 3 fnsAll else s
    let m := if 4 < h then m - 1 else m
    (ig s.loc.rxGood k * m / n, s.onLoc (fun l => { l with rxHold := ns l.rxHold k h, rxFall := ns l.rxFall k (n - m) }))
  else
    let m := min n (m + 1)
    (x * m / n, s.onLoc (fun l => { l with rxHold := ns l.rxHold k 0, rxFall := ns l.rxFall k (n - m), rxGood := is l.rxGood k x }))

/-- The published words of a channel: C at `off`, U at `off` + 0x40. -/
def arWords (s : State) (r off : Nat) : Nat := (List.range 6).foldl (fun a w => a + s.gw 0x18 r (off + 4 * w) * 2 ^ (32 * w)) 0
def arPut (r off v : Nat) (s : State) : State := s.each (List.range 6) (fun s w => s.pw 0x18 r (off + 4 * w) (v / 2 ^ (32 * w) % 2 ^ 32))
/-- A complete block is published (R333). -/
def arPublish (r : Nat) (s : State) : State :=
  let s := s.each [0, 1] (fun s c =>
    let k := 2 * r + c
    let cs := ng s.loc.rxC k
    let bytes := (List.range 24).map (fun b => cs / 256 ^ b % 256)
    let s := arPut r (0x180 + 24 * c) (ng s.loc.rxU k) s
    if bit cs 0 && crcc (bytes.take 23) != bytes.getD 23 0 then arErrCnt AESP.RX_CRCC_ERR r s
    else if arWords s r (0x140 + 24 * c) = cs then s
    else
      let s := arPut r (0x140 + 24 * c) cs s
      if s.rb AESP.RX_STAT_CS_CHG r then s else (s.wb AESP.RX_STAT_CS_CHG true r).raise 0x18 1 fnsAll)
  let s := s.wb AESP.RX_STAT_PRO (bit (arWords s r 0x140) 0) r
  let s := s.wr AESP.RX_STAT_VFLAG (b2n (bg s.loc.rxV (2 * r)) + 2 * b2n (bg s.loc.rxV (2 * r + 1))) r
  let s := s.wr AESP.RX_BLK_SEQ_SEQ (s.rd AESP.RX_BLK_SEQ_SEQ r + 1) r
  let bad := bg s.loc.rxBad r
  arBlock r (s.onLoc (fun l => { l with rxClean := bs l.rxClean r !bad }))

/-- Candidate 6 is present while its receiver is enabled and its loss detector has seen an edge since it last fired, and locked while the
receiver is, with a clean last block (R75, R77). -/
def cand6 (s : State) : State :=
  let r := s.rd REFS.CAND_CFG_SRC 6
  s.onRef (fun q => { q with
    present := bs q.present 6 (s.arState r != arOFF && !bg q.stopped 6)
    notLocked := bs q.notLocked 6 (s.arState r != arLOCKED || !bg s.loc.rxClean r) })
/-- The phase of a stamp against the nearest boundary of a rate, in units of 1/2000 grid step (R75, R76). -/
def wordPhase (hz : Nat) (g : Int) : Int :=
  let per : Int := gridSec * 2000
  let x := (g * 2000 * hz) % per
  (if 2 * x ≤ per then x else x - per) / (hz : Int)

/-- A receiver in SEARCH takes a frame: two Z preambles 192 frames apart, with valid preambles between them, lock it (R331). -/
def arSearch (r : Nat) (x : AesIn) (s : State) : State :=
  let z := if x.ok then ng s.loc.rxZ r else 0
  if x.z ∧ z = 192 then
    arSet r arLOCKED (arBlock r (s.onLoc (fun l => { l with
      rxZ := ns l.rxZ r 0, rxHold := ns (ns l.rxHold (2 * r) 0) (2 * r + 1) 0, rxFall := ns (ns l.rxFall (2 * r) 0) (2 * r + 1) 0
      rxDelay := lset l.rxDelay r [] })))
  else
    let n := if x.z then 1 else if z = 0 then 0 else z + 1
    s.onLoc (fun l => { l with rxZ := ns l.rxZ r (if 192 < n then 0 else n) })
/-- A frame of a LOCKED receiver: its samples, its C, U and V bits (R331–R334). -/
def arTake (r : Nat) (x : AesIn) (s : State) : State :=
  let s := if x.z ∧ ng s.loc.rxPos r ≠ 0 then arBlock r (s.cntr AESP.RX_BLK_ERR r) else s
  let pos := ng s.loc.rxPos r
  let a := arSample r 0 x.s0 x.v0 s
  let b := arSample r 1 x.s1 x.v1 a.2
  let s := b.2.onLoc (fun l =>
    let gather := fun (t : Tbl Nat) (c n : Nat) (v : Bool) => ns t (2 * r + c) (ng t (2 * r + c) + b2n v * 2 ^ n)
    { l with
      rxC := gather (gather l.rxC 0 pos (bit x.s0 26)) 1 pos (bit x.s1 26)
      rxU := gather (gather l.rxU 0 pos (bit x.s0 25)) 1 pos (bit x.s1 25)
      rxV := bs (bs l.rxV (2 * r) (bg l.rxV (2 * r) || bit x.s0 24)) (2 * r + 1) (bg l.rxV (2 * r + 1) || bit x.s1 24)
      rxPos := ns l.rxPos r (pos + 1), rxDelay := lset l.rxDelay r (State.pairs l.rxDelay r ++ [(a.1, b.1)]) })
  if pos = 191 then arPublish r s else s
/-- The sample of the frame before the last is handed to conversion at the end of a frame, where the preamble of the third frame after it starts
(R332); `j` is the count of that preamble. -/
def arHand (r : Nat) (j : Int) (s : State) : State :=
  match State.pairs s.loc.rxDelay r with
  | v :: a :: b :: t => locHand (arKey r) j v (s.onLoc (fun l => { l with rxDelay := lset l.rxDelay r (a :: b :: t) }))
  | _ => s
/-- A frame ends at `off` (R331–R334). The start of its first preamble is what its group, and candidate 6, measure. -/
def arFrame (r off : Nat) (x : AesIn) (s : State) : State :=
  if s.arState r = arOFF then s
  else
    let t : Int := (s.grid off : Int) - x.len
    let g := s.groupOf (arKey r)
    let s := (s.wr AESP.RX_STAT_DET_RATE x.rate r).onLoc (fun l => { l with rxAt := ns l.rxAt r (s.clockGrid off + 1 - x.len) })
    let s := measureEdge g t s
    let s := if s.arState r = arSEARCH then arSearch r x s else s
    let s := if s.arState r = arLOCKED then arHand r (s.edgeCount g t + 1) (arTake r x s) else s
    if s.rd REFS.CAND_CFG_SRC 6 = r then
      cand6 (s.onRef (fun q => { q with
        stopped := bs q.stopped 6 false, e := is q.e 6 (wordPhase (rateHz (s.rd REFS.CAND_CFG_RATE 6)) t) }))
    else s

/-- No valid preamble for 4 frame periods of NOM (R331). -/
def arLoss (r off : Nat) (s : State) : State :=
  if s.arState r = arLOCKED ∧ 4 * gridSec ≤ (s.clockGrid off + 1 - ng s.loc.rxAt r) * s.rd AESP.RX_NOM_HZ r then
    let s := arSet r arSEARCH (arBlock r ((s.cntr AESP.RX_LOCK_LOSSES r).onLoc (fun l => { l with rxZ := ns l.rxZ r 0, rxClean := bs l.rxClean r false })))
    if s.rd REFS.CAND_CFG_SRC 6 = r then cand6 s else s
  else s

/-! ## AES3 transmitters (R335–R338) -/

def atOFF : Nat := 0
def atIDLE : Nat := 1
def atRUN : Nat := 2
def State.atState (s : State) (t : Nat) : Nat := s.rd AESP.TX_STAT_STATE t
def atSet (t st : Nat) (s : State) : State :=
  if s.atState t = st then s else (s.wr AESP.TX_STAT_STATE st t).raise 0x18 4 fnsAll
def atKey (t : Nat) : Nat := ukey ukATX t
/-- The output bit of a transmitter among those of R90. -/
def atOut (t : Nat) : Nat := 4 + t
def State.atAsk (s : State) (t : Nat) : SrcAsk :=
  let p := sinkPath (s.rd AESP.TX_CTL_RATE t)
  { path := p.1, fixed := p.2, ch := 2, join := none, type := 0, kind := 0, index := 0, nom := 0 }
def atCfgErr (t : Nat) (s : State) : State := s.wb AESP.TX_STAT_CFG_ERR true t
/-- ZERO of a transmitter (R338). -/
def atZero (t : Nat) (s : State) : State :=
  let v := s.atState t != atOFF && !s.rb CLKG.MPLL_STAT_LOCK
  if s.rb AESP.TX_STAT_ZERO t = v then s else (s.wb AESP.TX_STAT_ZERO v t).raise 0x18 4 fnsAll

def atEnable (t : Nat) (s : State) : State :=
  match srcRefusal 0 (s.atAsk t) s with
  | some _ => atCfgErr t (s.wb AESP.TX_CTL_EN false t)
  | none =>
    let s := srcTake (atKey t) 0 (s.atAsk t) s
    let s := s.onLoc (fun l => { l with
      txs := l.txs.filter (· < t) ++ [t] ++ l.txs.filter (t < ·), txPos := ns l.txPos t 192, txFade := ns l.txFade t 0
      txDark := bs l.txDark t !s.rb CLKG.MPLL_STAT_LOCK })
    atSet t atIDLE (s.onRef (fun r => { r with outPend := ns r.outPend (atOut t) 0, ao := is r.ao (atOut t) 0 }))
def atStop (t : Nat) (s : State) : State :=
  atZero t (atSet t atOFF ((srcGive (atKey t) s).onLoc (fun l => { l with
    txs := l.txs.filter (· != t), txGo := bs l.txGo t false, txOut := ns (ns l.txOut (2 * t) 0) (2 * t + 1) 0 })))

/-- A start of a transmitter at the present sample (R336): the first frame after it is a Z preamble. -/
def atStart (t : Nat) (s : State) : State :=
  if s.atState t ≠ atIDLE then s
  else
    let f := rateHz (s.rd AESP.TX_CTL_RATE t)
    atSet t atRUN (s.onLoc (fun l => { l with txFrom := ns l.txFrom t (cdiv (s.tim.sample * f) 96000), txPos := ns l.txPos t 192 }))

/-- A write of TX_CTL (R335, R336). -/
def atCtlWrite (t w : Nat) (s : State) : State :=
  let old := s.rw AESP.TX_CTL t
  let bad := decide (5 < fbits w 2 0) || (bit old 31 && fbits w 2 0 != fbits old 2 0)
  let rate := if bad then fbits old 2 0 else fbits w 2 0
  let s := if bad then atCfgErr t s else s
  let s := s.ww AESP.TX_CTL (fput (w &&& 0xE0000000) 2 0 rate) t
  let s := if bit w 28 then s.onLoc (fun l => { l with txGo := bs l.txGo t true }) else s
  if bit w 27 ∧ s.atState t = atRUN then atSet t atIDLE s else s
/-- A write of RX_CTL and of RX_NOM. -/
def arCtlWrite (r w : Nat) (s : State) : State := s.ww AESP.RX_CTL (w &&& 0xE0000000) r
def arNomWrite (r w : Nat) (s : State) : State :=
  if s.rb AESP.RX_CTL_EN r ∨ w % 2 ^ 18 < 8000 ∨ 216000 < w % 2 ^ 18 then arCfgErr r s else s.wr AESP.RX_NOM_HZ (w % 2 ^ 18) r

/-- The earliest frozen ALIGN that names an output (R91). -/
def State.alignFrozen (s : State) (o : Nat) : Option Nat :=
  (slots.filter (fun i => s.slotState i == slFROZEN && s.rd COLL.SLOT_CTL_ACTION i == 8 && bit (s.rw COLL.SLOT_PARAM0 i) o)).foldl
    (fun (a : Option Nat) i => let n := ng s.tim.slotN i; match a with | some b => some (min b n) | none => some n) none

/-- The channel-status block that is sent (R337). -/
def State.atCs (s : State) (t : Nat) : List Nat :=
  let l := (List.range 24).map (fun b => s.gw 0x18 t (0x910 + b / 4 * 4) / 2 ^ (8 * (b % 4)) % 256)
  if s.rb AESP.TX_CTL_CRC_GEN t && bit (l.getD 0 0) 0 then l.take 23 ++ [crcc (l.take 23)] else l
/-- Time slots 4 to 31 of a subframe in frame i of a block (R337). -/
def State.atSub (s : State) (t i : Nat) (v : Bool) (audio : Int) : Nat :=
  let c := (s.atCs t).getD (i / 8) 0 / 2 ^ (i % 8) % 2
  let u := if s.rb AESP.TX_CTL_U_EN t then s.gw 0x18 t (0x928 + i / 32 * 4) / 2 ^ (i % 32) % 2 else 0
  let w := uns 24 audio + b2n v * 2 ^ 24 + u * 2 ^ 25 + c * 2 ^ 26
  w + (ones w % 2) * 2 ^ 27

/-- A transmitter at a boundary: its converter takes the value of the present index, and frames whose instants have come are
formed. -/
def atCapture (s : State) (t : Nat) : State :=
  let u := atKey t
  let rc := s.rd AESP.TX_CTL_RATE t
  let f := rateHz rc
  let b := s.tim.sample
  let o := atOut t
  let out := fun (s : State) (c : Nat) =>
    let d := ng s.loc.txFade t
    let fi : Nat × Nat := if d = 0 then noFade else if b + 1 < d then (0, 1) else (min 48 (b + 2 - d), 48)
    faded (minFade (fadeBefore (s.alignFrozen o) b) fi) (s.txValue 0 (s.gw 0x18 t (0x908 + 4 * c)))
  let direct := s.pathOf u == paDIRECT
  let s := if direct then s else s.each [0, 1] (fun s c => convKeep u c b (out s c) s)
  let s := s.each (txSpan f b) (fun s k =>
    if s.atState t = atOFF then s
    else if s.rb AESP.TX_CTL_EN t = false then atStop t s
    else if s.locRun = false ∧ s.locZero = false then s.onLoc (fun l => { l with txOut := ns (ns l.txOut (2 * t) 0) (2 * t + 1) 0 })
    else
      let i := ng s.loc.txPos t % 192
      let due := s.atState t == atRUN && decide (ng s.loc.txFrom t ≤ k)
      let live := s.locRun && due && s.rb CLKG.MPLL_STAT_LOCK && !bg s.loc.txDark t
      let s := if due then s.onLoc (fun l => { l with txFrom := ns l.txFrom t 0 }) else s
      let mute := ng s.ref.outPend o != 0
      s.each [0, 1] (fun s c =>
        let sel := s.gw 0x18 t (0x908 + 4 * c)
        let y := if direct then (out s c, s) else convert u c true (sinkPos (s.pathOf u) (s.groupOf u) k) s
        let a := if live && !mute then y.2.locExport sel k 24 y.1 else 0
        let sub := y.2.atSub t i (!live || !s.txShows 0 sel) a
        y.2.onLoc (fun l => { l with txOut := ns l.txOut (2 * t + c) sub })) |>.onLoc (fun l => { l with txPos := ns l.txPos t (ng l.txPos t + 1) }))
  atZero t s

/-- A new block begins (R337): what waits for a block start applies; an ALIGN ends with it (R91). -/
def atBlock (t : Nat) (s : State) : State :=
  if s.atState t = atOFF then s
  else
    let o := atOut t
    let al := ng s.ref.outPend o != 0
    if ng s.loc.txPos t < 192 ∧ al = false then s
    else
      let s := s.applyDue (fun h => h.pg == 0x18 && h.obj == t && decide (0x908 ≤ h.off)) (fun s h => s.applyHeld h)
      let s := s.wr AESP.TX_BLOCKS_COUNT (s.rd AESP.TX_BLOCKS_COUNT t + 1) t
      let s := s.onLoc (fun l => { l with txPos := ns l.txPos t (if al then 0 else ng l.txPos t % 192) })
      if al then
        (s.onRef (fun r => { r with outPend := ns r.outPend o 0, ao := is r.ao o 0 })).onLoc (fun l =>
          { l with txFade := ns l.txFade t (s.tim.sample + 2), txDark := bs l.txDark t (bg l.txDark t && !s.rb CLKG.MPLL_STAT_LOCK) })
      else s

/-! ## Clock pins (R339–R341) -/

/-- The nominal period of a reference input in grid steps, as a fraction, and its tolerance in parts per million. -/
def pinPeriod (s : State) (pin : Nat) : Nat × Nat × Nat :=
  match pin with
  | 0 => (gridSec, rateHz (s.rd REFS.CAND_CFG_RATE 3), 1000)
  | 1 => (gridSec, 1, 1000)
  | _ => (1200, 1, 1000)
/-- The interval between two stamps keeps the tolerance. -/
def pinOk (s : State) (pin d : Nat) : Bool :=
  let p := pinPeriod s pin
  decide (((d * p.2.1 : Nat) - (p.1 : Int)).natAbs * 1000000 ≤ p.1 * p.2.2)
/-- The edge is active (R339). -/
def pinActive (s : State) (pin : Nat) (rising : Bool) : Bool :=
  match pin with
  | 0 => rising != s.rb SYNC.CLKIN_CTL_WCLK_POL
  | 1 => rising != s.rb SYNC.CLKIN_CTL_PPS_POL
  | _ => rising
/-- CLKIN_STAT follows the presence of candidates 3 to 5 (R347). -/
def clkinSync (s : State) : State :=
  s.each [(0, SYNC.CLKIN_STAT_WCLK_PRESENT), (1, SYNC.CLKIN_STAT_PPS_PRESENT), (2, SYNC.CLKIN_STAT_TEN_PRESENT)] (fun s p =>
    let v := bg s.ref.present (3 + p.1)
    if s.rb p.2 = v then s else (s.wb p.2 v).raise 0x19 0 fnsAll)

/-- An edge of WCLK_IN (0), 1PPS_IN (1) or 10MHZ_IN (2): stamped, adjusted and measured (R75, R339). -/
def pinEdge (pin off : Nat) (s : State) : State :=
  let adj := match pin with | 0 => s.rdS SYNC.WCLK_IN_ADJ_ADJ | 1 => s.rdS SYNC.PPS_IN_ADJ_ADJ | _ => 0
  let g : Int := s.grid off - adj
  let c := 3 + pin
  let last := ng s.ref.lastEdge c
  let now := s.clockGrid off + 1
  let good := if last ≠ 0 ∧ pinOk s pin (now - last) then ng s.ref.goodEdges c + 1 else 0
  let s := s.onRef (fun r => { r with
    lastEdge := ns r.lastEdge c now, goodEdges := ns r.goodEdges c (min good 2), stopped := bs r.stopped c false
    present := bs r.present c (if pin = 1 then decide (2 ≤ good) else decide (1 ≤ good)) })
  let s := match pin with
    | 0 => s.onRef (fun r => { r with e := is r.e 3 (wordPhase (rateHz (s.rd REFS.CAND_CFG_RATE 3)) g) })
    | 1 => s.onRef (fun r => { r with e := is r.e 4 (wordPhase 1 g) })
    | _ => s
  clkinSync s

/-- RATE or WIDTH of an output as written. -/
def State.clkWritten (s : State) (o : Nat) : Nat := if o = 0 then s.rd SYNC.WCLK_OUT_CTL_RATE else s.rd SYNC.PPS_OUT_CTL_WIDTH
def State.clkEnReg (s : State) (o : Nat) : Bool := if o = 0 then s.rb SYNC.WCLK_OUT_CTL_EN else s.rb SYNC.PPS_OUT_CTL_EN
/-- An output starts, or takes what has been written, at its boundary edge. -/
def clkTake (o : Nat) (s : State) : State :=
  (s.onRef (fun r => { r with outPend := ns r.outPend o 0, ao := is r.ao o 0, outRun := bs r.outRun o true })).onLoc (fun l =>
    { l with clkSet := ns l.clkSet o (s.clkWritten o) })
/-- A disabled output stops at the end of its high phase, and holds low. -/
def clkStop (o : Nat) (s : State) : State := s.onRef (fun r => { r with outRun := bs r.outRun o false, outPend := ns r.outPend o 0 })
/-- A boundary edge (rising) or the end of the high phase of WCLK_OUT (0) or 1PPS_OUT (1) (R91, R340). -/
def clkEdge (o : Nat) (rising : Bool) (s : State) : State :=
  let run := bg s.ref.outRun o
  let s :=
    if s.clkEnReg o = false then (if run && !(rising && bg s.loc.clkHigh o) then clkStop o s else s)
    else if rising && bg s.loc.clkEn o && (!run || ng s.ref.outPend o != 0) then clkTake o s
    else s
  s.onLoc (fun l => { l with clkHigh := bs l.clkHigh o (rising && bg s.ref.outRun o) })

/-! ## At the boundaries -/

/-- The source of LOCAL channels is usable: its ratio group is LOCKED or HOLD (R208). -/
def State.locLive (s : State) (u : Nat) : Bool := let st := s.grpState (s.groupOf u); st == gsLOCKED || st == gsHOLD
/-- Two channels of a source are converted at the present sample. -/
def locConvert (u ch : Nat) (s : State) : State :=
  let pos := s.trackIn (s.groupOf u) s.tim.sample
  let live := s.locLive u
  let a := convert u 0 false pos s
  let b := convert u 1 false pos a.2
  b.2.onXp (fun x => { x with locVal := is (is x.locVal ch a.1) (ch + 1) b.1, locOn := bs (bs x.locOn ch live) (ch + 1) live })
/-- What the local inputs present at the present sample (R177, R208). -/
def localIn (s : State) : State :=
  let s := s.onXp (fun x => { x with locVal := [], locOn := [] })
  let s := s.each s.loc.i2s (fun s p => if s.i2sRb SAPG.PORT_CTL_IN_EN p then locConvert (i2sIn p) (2 * p) s else s)
  s.each s.loc.rxs (fun s r => locConvert (arKey r) (32 + 2 * r) s)

/-- The local outputs at a boundary: output converters take the value of the present index, transmitters form frames, and
selectors of what is OFF apply. -/
def localOut (s : State) : State :=
  let s := s.applyDue (fun h => (pageClass h.pg == 0x14 && !s.loc.i2s.contains (4 * (h.pg - 0x14) + h.obj))
    || (h.pg == 0x18 && decide (0x908 ≤ h.off) && !s.loc.txs.contains h.obj)) (fun s h => s.applyHeld h)
  let s := s.each s.loc.i2s (fun s p =>
    if s.i2sRb SAPG.PORT_CTL_OUT_EN p then
      s.each [0, 1] (fun s c => convKeep (i2sOut p) c s.tim.sample (s.txValue 0 (s.i2sSrc p c)) s)
    else s)
  clkinSync (s.each s.loc.txs atCapture)

/-- The local ports that are enabled and still OFF: what they ask of the pool, and their enable. Kinds: I²S port, receiver, transmitter. -/
def State.locWaits (s : State) (k i : Nat) : Bool :=
  match k with
  | 0 => s.i2sRb SAPG.PORT_CTL_EN i && s.i2sState i == i2sOFF
  | 1 => s.rb AESP.RX_CTL_EN i && s.arState i == arOFF
  | _ => s.rb AESP.TX_CTL_EN i && s.atState i == atOFF
def State.locRefusal (s : State) (k i : Nat) : Option Nat :=
  match k with | 0 => s.i2sRefusal i | 1 => srcRefusal 0 (s.arAsk i) s | _ => srcRefusal 0 (s.atAsk i) s
def locEnable (k i : Nat) (s : State) : State :=
  if s.locWaits k i = false then s else match k with | 0 => i2sReady i s | 1 => arEnable i s | _ => atEnable i s
/-- In the order in which a tick boundary enables them. -/
def locPorts : List (Nat × Nat) :=
  (List.range 16).map (fun p => (0, p)) ++ (List.range 8).map (fun r => (1, r)) ++ (List.range 8).map (fun t => (2, t))
/-- The first refusal that one of some ports would meet at the next tick boundary (R184). -/
def locRefused (s : State) (l : List (Nat × Nat)) : Option Nat :=
  (locPorts.foldl (fun (a : Option Nat × State) q =>
    (if a.1.isNone && l.contains q && a.2.locWaits q.1 q.2 then a.2.locRefusal q.1 q.2 else a.1, locEnable q.1 q.2 a.2)) (none, s)).1

/-- What registers wait for at a tick boundary: enables, starts and clock outputs (R322, R323, R336, R340, R341, R345). -/
def localTick (s : State) : State :=
  let s := s.each (List.range 8) (fun s r => if s.rb AESP.RX_CTL_EN r || s.arState r == arOFF then s else arDisable r s)
  let s := s.each locPorts (fun s q => locEnable q.1 q.2 s)
  let s := s.each (List.range 4) (fun s g => if bg s.loc.grpStart g then i2sStart g s else s)
  let s := s.each (List.range 8) (fun s t => if bg s.loc.txGo t then atStart t s else s)
  let s := s.onLoc (fun l => { l with grpStart := [], txGo := [] })
  let s := s.each [0, 1] (fun s o =>
    if s.clkEnReg o && !bg s.loc.clkEn o then
      (s.onRef (fun r => { r with ao := is r.ao o 0 })).onLoc (fun l => { l with clkEn := bs l.clkEn o true })
    else if s.clkEnReg o then s else s.onLoc (fun l => { l with clkEn := bs l.clkEn o false }))
  let s := s.each (List.range 4) (fun s i => s.onLoc (fun l => { l with mclk := ns l.mclk i (s.rw SYNC.MCLK_CTL i) }))
  cand6 s

/-- PORT_START fires (R48, R323, R336). -/
def portStart (p0 : Nat) (s : State) : State :=
  let t := p0 % 256
  if t < 4 then i2sStart t s else if 0x10 ≤ t ∧ t ≤ 0x17 then atStart (t - 0x10) s else s

/-! ## The rows -/

def execClockPinEdge (pin : Nat) (rising : Bool) (off : Nat) (s : State) : Host.Outcome State Fault Refusal :=
  .next (awake s (if s.bankUp 9 ∧ pin < 3 ∧ pinActive s pin rising then pinEdge pin off s else s))
def execI2sFrameEdge (p off : Nat) (x : I2sIn) (s : State) : Host.Outcome State Fault Refusal :=
  .next (awake s (if p < 16 ∧ s.bankUp (12 + p / 4) then i2sEdge p off x s else s))
def execI2sClockLoss (p off : Nat) (s : State) : Host.Outcome State Fault Refusal := .next (awake s (if p < 16 then i2sLoss p off s else s))
def execAes3FrameRx (r off : Nat) (x : AesIn) (s : State) : Host.Outcome State Fault Refusal := .next (awake s (if r < 8 ∧ s.bankUp 11 then arFrame r off x s else s))
def execAes3LockLoss (r off : Nat) (s : State) : Host.Outcome State Fault Refusal := .next (awake s (if r < 8 then arLoss r off s else s))
def execAes3TxBlockStart (t : Nat) (s : State) : Host.Outcome State Fault Refusal := .next (awake s (if t < 8 then atBlock t s else s))
def execClockOutEdge (o : Nat) (rising : Bool) (s : State) : Host.Outcome State Fault Refusal := .next (awake s (if o < 2 then clkEdge o rising s else s))

/-- Every write of a configuration command names an object, one of the registers and a word. -/
def locWsOk (ws : List RegW) (insts objs : Nat) (regs : List Nat) : Bool :=
  ws.all (fun w => decide (w.inst < insts ∧ w.obj < objs ∧ w.val < 2 ^ 32) && regs.contains w.off)
def i2sWsStep (w : RegW) (s : State) : State :=
  let p := 4 * w.inst + w.obj
  if w.off = 0x100 then i2sCtlWrite p w.val s else i2sNomWrite p w.val s
/-- I2S_CONFIG: each write is judged on the state that those before it leave. -/
def i2sCfg (s : State) : List RegW → Except Nat State
  | [] => .ok s
  | w :: t =>
    let p := 4 * w.inst + w.obj
    let on := s.i2sRb SAPG.PORT_CTL_EN p
    if w.off = 0x100 then
      if s.i2sBad p w.val then .error (if on ∧ fbits w.val 5 4 ≠ 3 ∧ fbits w.val 1 0 ≠ 3 then stBUSY else stBAD_FIELD)
      else i2sCfg (i2sWsStep w s) t
    else if w.val < 8000 ∨ 216000 < w.val then .error stBAD_FIELD
    else if on then .error stBUSY
    else i2sCfg (i2sWsStep w s) t
/-- The outcome of a configuration: refused where the pool would refuse the enable of a port that it names (R184). -/
def locDone (k : Nat) (l : List Nat) (s : State) : Res :=
  match locRefused s (l.map (fun i => (k, i))) with | some st => no st | none => done s
def execI2sConfig (e : Env) (ws : List RegW) (s : State) : Host.Outcome State Fault Refusal :=
  .next (runCmd { pf0 := true } e anyone (fun _ s =>
    if locWsOk ws 4 4 [0x100, 0x12C] = false then no stBAD_FIELD
    else match i2sCfg s ws with
      | .error st => no st
      | .ok s' => locDone 0 (ws.map (fun w => 4 * w.inst + w.obj)) s') s)
/-- The counters of a port: SLIPS to CLK_LOSSES. -/
def i2sCounters : List Nat := (List.range 6).map (fun j => 0x110 + 4 * j)
def execI2sStatus (e : Env) (ps : List Nat) (clear : Bool) (s : State) : Host.Outcome State Fault Refusal :=
  .next (runCmd { read := !clear } e (fun fn _ => if clear && fn != 0 then some stNOT_OWNER else none) (fun _ s =>
    if ps = [] ∨ 16 < ps.length ∨ ps.any (15 < ·) then no stBAD_FIELD
    else
      let l := ps.flatMap (fun p => s.rw SAPG.PORT_STAT (prtOf p) (grpOf p) :: i2sCounters.map (fun o => s.gw (0x14 + grpOf p) (prtOf p) o))
      retL (if clear then s.onCmd (fun c => { c with clr := c.clr ++ ps.map (fun p => (0x14 + grpOf p, prtOf p)) }) else s) 7 l) s)
def execPortStart (e : Env) (target : Nat) (a : SlotArgs) (s : State) : Host.Outcome State Fault Refusal :=
  .next (runCmd { modes := armModes } e (armOwn 2 target) (fun fn s =>
    if (3 < target ∧ (target < 0x10 ∨ 0x17 < target)) ∨ 7 < a.tbsel then no stBAD_FIELD
    else armNew fn { a with action := 2, p0 := target, p1 := 0 } s) s)
/-- The page, object and offset of the selector of a local output channel (R320). -/
def locOutReg (ch : Nat) : Nat × Nat × Nat :=
  if ch < 32 then (0x14 + ch / 8, ch / 2 % 4, 0x108 + 4 * (ch % 2)) else (0x18, (ch - 32) / 2, 0x908 + 4 * (ch % 2))
def execLocalOutSet (e : Env) (l : List (Nat × Nat)) (s : State) : Host.Outcome State Fault Refusal :=
  .next (runCmd { pf0 := true, mirrored := true, code := 0x0623 } e anyone (fun _ s =>
    if 48 < l.length ∨ l.any (fun x => 47 < x.1 || 65535 < x.2 || !txSelOk x.2) then no stBAD_FIELD
    else done (s.each l (fun s x => let r := locOutReg x.1; s.hold 16 r.1 r.2.1 r.2.2 0xFFFF x.2))) s)
def execAes3RxConfig (e : Env) (ws : List RegW) (s : State) : Host.Outcome State Fault Refusal :=
  .next (runCmd { pf0 := true } e anyone (fun _ s =>
    if locWsOk ws 1 8 [0x100, 0x12C] = false ∨ ws.any (fun w => w.off == 0x12C && (decide (w.val < 8000) || decide (216000 < w.val))) then no stBAD_FIELD
    else if ws.any (fun w => w.off == 0x12C && s.rb AESP.RX_CTL_EN w.obj) then no stBUSY
    else locDone 1 (ws.map (·.obj)) (s.each ws (fun s w => if w.off = 0x100 then arCtlWrite w.obj w.val s else arNomWrite w.obj w.val s))) s)
def execAes3RxStatus (e : Env) (r : Nat) (s : State) : Host.Outcome State Fault Refusal :=
  .next (runCmd { read := true } e anyone (fun _ s =>
    if 7 < r then no stBAD_FIELD
    else ret s ([s.rw AESP.RX_STAT r, s.rw AESP.RX_BLK_SEQ r] ++ (List.range 7).map (fun j => s.gw 0x18 r (0x10C + 4 * j)) ++
      (List.range 12).map (fun j => s.gw 0x18 r (0x140 + 4 * j)) ++ (List.range 12).map (fun j => s.gw 0x18 r (0x180 + 4 * j)))) s)
def execAes3TxConfig (e : Env) (ws : List RegW) (s : State) : Host.Outcome State Fault Refusal :=
  .next (runCmd { pf0 := true } e anyone (fun _ s =>
    let csu := (List.range 12).map (fun j => 0x910 + 4 * j)
    if locWsOk ws 1 8 (0x900 :: csu) = false ∨ ws.any (fun w => w.off == 0x900 && decide (5 < fbits w.val 2 0)) then no stBAD_FIELD
    else if ws.any (fun w => w.off == 0x900 && s.rb AESP.TX_CTL_EN w.obj && fbits w.val 2 0 != s.rd AESP.TX_CTL_RATE w.obj) then no stBUSY
    else locDone 2 (ws.map (·.obj)) (s.each ws (fun s w => if w.off = 0x900 then atCtlWrite w.obj w.val s else s.hold 16 0x18 w.obj w.off 0xFFFFFFFF w.val))) s)
def execAes3TxStatus (e : Env) (ts : List Nat) (s : State) : Host.Outcome State Fault Refusal :=
  .next (runCmd { read := true } e anyone (fun _ s =>
    if ts = [] ∨ 8 < ts.length ∨ ts.any (7 < ·) then no stBAD_FIELD
    else retL s 2 (ts.flatMap (fun t => [s.rw AESP.TX_STAT t, s.rw AESP.TX_BLOCKS t]))) s)
def clkpinRegs : List Nat := [0x040, 0x048, 0x04C, 0x050, 0x054, 0x060]
def execClkpinConfig (e : Env) (ws : List RegW) (s : State) : Host.Outcome State Fault Refusal :=
  .next (runCmd { pf0 := true } e anyone (fun _ s =>
    if cfgOk 0x19 1 clkpinRegs ws && ws.all (fun w => w.obj == 0 || (w.off == 0x060 && decide (w.obj < 4))) then done (cfgWrite 0x19 ws s)
    else no stBAD_FIELD) s)
def execClkpinStatus (e : Env) (s : State) : Host.Outcome State Fault Refusal :=
  .next (runCmd { read := true } e anyone (fun _ s =>
    ret s ([s.rw SYNC.CLKIN_STAT, s.rw SYNC.CLKIN_CTL, s.rw SYNC.WCLK_IN_ADJ, s.rw SYNC.PPS_IN_ADJ, b2n (bg s.ref.outRun 0), ng s.loc.clkSet 0,
      b2n (bg s.ref.outRun 1), ng s.loc.clkSet 1] ++ (List.range 4).map (ng s.loc.mclk))) s)

/-- GRP_START (R323): a write of GRP_CTL.START waits for the tick boundary. -/
def regGrpStart (fn g w : Nat) (s : State) : State :=
  if isPF0 fn && g < 4 && bit w 31 then s.onLoc (fun l => { l with grpStart := bs l.grpStart g true }) else s
def execGrpStart (fn g w : Nat) (s : State) : Host.Outcome State Fault Refusal := .next (awake s (regGrpStart fn g w s))
/-- RESTART, I2S_PORT_ENABLE and I2S_PORT_DISABLE are writes of PORT_CTL with the bit each names. -/
def execRestart (fn p w : Nat) (s : State) : Host.Outcome State Fault Refusal :=
  .next (awake s (if isPF0 fn && p < 16 then i2sCtlWrite p (fput w 27 27 1) s else s))
def execI2sPortEnable (fn p w : Nat) (s : State) : Host.Outcome State Fault Refusal :=
  .next (awake s (if isPF0 fn && p < 16 then i2sCtlWrite p (fput w 31 31 1) s else s))
def execI2sPortDisable (fn p w : Nat) (s : State) : Host.Outcome State Fault Refusal :=
  .next (awake s (if isPF0 fn && p < 16 then i2sCtlWrite p (fput w 31 31 0) s else s))
def execAesRxEnable (fn r w : Nat) (s : State) : Host.Outcome State Fault Refusal := .next (awake s (if isPF0 fn && r < 8 then arCtlWrite r w s else s))
def execAesTxEnable (fn t w : Nat) (s : State) : Host.Outcome State Fault Refusal := .next (awake s (if isPF0 fn && t < 8 then atCtlWrite t w s else s))
def execTxStart (fn t w : Nat) (s : State) : Host.Outcome State Fault Refusal :=
  .next (awake s (if isPF0 fn && t < 8 then atCtlWrite t (fput w 28 28 1) s else s))
def execTxStop (fn t w : Nat) (s : State) : Host.Outcome State Fault Refusal :=
  .next (awake s (if isPF0 fn && t < 8 then atCtlWrite t (fput w 27 27 1) s else s))
/-- CLOCK_OUT_ENABLE (R340): a write of WCLK_OUT_CTL or PPS_OUT_CTL. -/
def execClockOutEnable (fn o w : Nat) (s : State) : Host.Outcome State Fault Refusal :=
  .next (awake s (if isPF0 fn && o < 2 then s.writeWord fn 0x19 0 (0x050 + 4 * o) .base w else s))
/-- MCLK_CHANGE (R341): the word written is in force from the next tick boundary. -/
def execMclkChange (fn i w : Nat) (s : State) : Host.Outcome State Fault Refusal :=
  .next (awake s (if isPF0 fn && i < 4 then s.writeWord fn 0x19 i 0x060 .base w else s))

end Sys2Proof.Machine
end

