-- ==== Sys2Proof/Machine/Umarun.lean ====
section
/-!
DEFINITION. Umarun links and multi-device systems (R349–R400): block lock, deskew and training, cells, time transfer, partial
sums, population counts and relay channels, management messages, grids and mirror pairs.
-/
namespace Sys2Proof.Machine

/-! ## Links -/

def links : List Nat := List.range 6
def pairs3 : List Nat := [0, 1, 2]
def lkOFF : Nat := 0
def lkLOCK : Nat := 1
def lkDESKEW : Nat := 2
def lkTRAIN : Nat := 3
def lkUP : Nat := 4
def roNONE : Nat := 0
def roGRID : Nat := 1
def roMIRROR : Nat := 2

def State.linkState (s : State) (l : Nat) : Nat := s.rd ULNK.LINK_STAT_STATE (i := l)
def State.role (s : State) : Nat := s.rd ULNK.HIER_CFG_ROLE
def State.devId (s : State) : Nat := s.rd ULNK.HIER_CFG_ID
/-- The bits of a pair: 0 PSUM_IN, 1 PSUM_OUT, 2 RELAY_IN, 3 RELAY_OUT, 4 TIME_PARENT, 5 MIRROR. -/
def State.pairHas (s : State) (p b : Nat) : Bool := bit (s.rw ULNK.PAIR_ROLE) (8 * p + b)
def State.pairWith (s : State) (b : Nat) : Option Nat := pairs3.find? (fun p => s.pairHas p b)
/-- The pair toward a device, if ROUTE names one. -/
def State.routeTo (s : State) (dst : Nat) : Option Nat :=
  match fbits (s.rw ULNK.ROUTE) (2 * dst + 1) (2 * dst) with | 0 => none | n + 1 => some n
/-- The link's PEER names a different device from its partner link (R364). -/
def State.oddLink (s : State) (l : Nat) : Bool :=
  let o := l + 1 - 2 * (l % 2)
  s.rb ULNK.PEER_VALID (i := l) && s.rb ULNK.PEER_VALID (i := o) && s.rd ULNK.PEER_ID (i := l) != s.rd ULNK.PEER_ID (i := o)
/-- The links of a pair that carry its cells (R364). -/
def State.linksOf (s : State) (p : Nat) : List Nat := [2 * p, 2 * p + 1].filter (fun l => s.linkState l == lkUP && !s.oddLink l)
/-- The device at the other end of a pair. -/
def State.pairPeer (s : State) (p : Nat) : Nat :=
  match s.linksOf p with | l :: _ => s.rd ULNK.PEER_ID (i := l) | [] => 0
/-- Modes in which SUM cells are sent (R395). -/
def sumModes (m : Nat) : Bool := 5 ≤ m && m != mSAFE
/-- The mode and the role let links come up (R366, R395). -/
def State.mayUp (s : State) : Bool := 5 ≤ s.mode && s.role != roNONE

/-- The hierarchy's summary of its links (R394, R398). -/
def hierFix (s : State) : State :=
  let used := pairs3.filter (fun p => fbits (s.rw ULNK.PAIR_ROLE) (8 * p + 5) (8 * p) != 0)
  let up := fun (p : Nat) => countIf (fun l => s.linkState l == lkUP) [2 * p, 2 * p + 1]
  let st := if s.role = roNONE then 0
    else if links.any (fun l => s.rb ULNK.LINK_STAT_PEER_MISMATCH (i := l)) then 3
    else if used.all (fun p => up p != 0) then 2 else 1
  (s.wb ULNK.HIER_STAT_PAIR_SINGLE (s.role != roNONE && used.any (fun p => up p == 1))).wr ULNK.HIER_STAT_STATE st

/-- SUM_OK (R377). -/
def sumOkFix (l : Nat) (s : State) : State :=
  s.wb ULNK.LINK_STAT_SUM_OK (s.linkState l == lkUP && decide (s.rdS ULNK.DELAY_G (i := l) ≤ 90000)) (i := l)

/-- A link enters a state; LINK_CHG tells of a change (R399). -/
def linkSet (l st : Nat) (s : State) : State :=
  if s.linkState l = st then s
  else hierFix (sumOkFix l ((s.wr ULNK.LINK_STAT_STATE st (i := l)).raise (0x1A + l) 0 fnsAll))

/-- What a link has waiting and has counted is dropped. -/
def linkForget (l : Nat) (s : State) : State :=
  s.onUma (fun u => { u with
    good := ns u.good l 0, bad := ns u.bad l 0, trainOk := ns u.trainOk l 0, rdyRx := ns u.rdyRx l 0, rdyTx := ns u.rdyTx l 0
    rxSeq := os u.rxSeq l none, sumQ := tset (fun _ => []) u.sumQ l [], mgmtQ := tset (fun _ => []) u.mgmtQ l []
    timeDue := bs u.timeDue l false, echo := os u.echo l none, ds := tset (fun _ => []) u.ds l []
    thetas := tset (fun _ => []) u.thetas l [], mgr := os u.mgr l none })

/-- The lanes of a link acquire block lock anew. -/
def lanesForget (l : Nat) (s : State) : State :=
  s.each (List.range 4) (fun s p => s.onUma (fun u => { u with
    lane := tset (fun _ => ULane.reset) u.lane (4 * l + p) { tget (fun _ => ULane.reset) u.lane (4 * l + p) with bad := 0, run := 0 } }))
/-- A link returns to LOCK, with RETRAINS where R354 counts it: block lock is acquired anew. -/
def linkLock (l : Nat) (count : Bool) (s : State) : State :=
  let s := if count then s.cnt ULNK.LINK_STAT_RETRAINS (i := l) else s
  linkSet l lkLOCK (lanesForget l (linkForget l (s.wr ULNK.LINK_STAT_LANE_LOCK 0 (i := l))))
/-- A link is off: its transmitter stops, and its peer is no longer known. -/
def linkOff (l : Nat) (s : State) : State :=
  let s := (s.wb ULNK.PEER_VALID false (i := l)).onUma (fun u => { u with slot := ns u.slot l 0 })
  linkSet l lkOFF (lanesForget l (linkForget l (s.wr ULNK.LINK_STAT_LANE_LOCK 0 (i := l))))
def linkTrain (l g : Nat) (s : State) : State :=
  linkSet l lkTRAIN ((linkForget l s).onUma (fun u => { u with trainAt := ns u.trainAt l g }))
/-- TRAIN is complete: the link comes up where the mode and the role let it (R354, R366, R395). -/
def linkTry (l g : Nat) (s : State) : State :=
  if s.linkState l = lkTRAIN ∧ 8 ≤ ng s.uma.rdyRx l ∧ 8 ≤ ng s.uma.rdyTx l ∧ s.mayUp then
    linkSet l lkUP (s.onUma (fun u => { u with lastGood := ns u.lastGood l g }))
  else s

/-- The links at a tick boundary follow the mode, the role and LINK_CTL.EN (R366, R395). -/
def linksTick (s : State) : State :=
  s.each links (fun s l =>
    let run := 3 ≤ s.mode && s.rb ULNK.LINK_CTL_EN (i := l)
    if !run then (if s.linkState l = lkOFF then s else linkOff l s)
    else if s.linkState l = lkOFF then linkLock l false s
    else if s.linkState l = lkUP ∧ s.mayUp = false then linkTrain l (s.clockGrid 0) s
    else linkTry l (s.clockGrid 0) s)

/-- The links of a TPLL fail with it (R98, R394). -/
def linksFail (b : Bool) (s : State) : State :=
  s.each links (fun s l => if l % 2 = b2n b ∧ s.linkState l ≠ lkOFF ∧ s.linkState l ≠ lkLOCK then linkLock l true s else s)

/-- A write of LINK_CTL (R354): EN and LANE_POL are stored, a start or a stop takes place, RETRAIN acts. -/
def linkCtl (l w : Nat) (s : State) : State :=
  let s := s.writeRW ULNK.LINK_CTL w (i := l)
  if s.rb ULNK.LINK_CTL_EN (i := l) = false then linkOff l s
  else if s.linkState l = lkOFF then (if 3 ≤ s.mode then linkLock l false s else s)
  else if bit w 30 ∧ s.linkState l ≠ lkLOCK then linkLock l true s
  else s

/-! ## Lanes (R350–R353) -/

/-- The scrambler 1 + x³⁹ + x⁵⁸ over one block, after the 58 bits sent before it, oldest at bit 0. -/
def scramble (p : BitVec 58) (d : BitVec 64) : BitVec 64 :=
  let a : BitVec 39 := d.setWidth 39 ^^^ (p >>> 19).setWidth 39 ^^^ p.setWidth 39
  let w : BitVec 97 := a ++ p
  let b : BitVec 25 := (d >>> 39).setWidth 25 ^^^ (w >>> 58).setWidth 25 ^^^ (w >>> 39).setWidth 25
  b ++ a
/-- The descrambler over one block, after the 58 bits received before it. -/
def descramble (p : BitVec 58) (x : BitVec 64) : BitVec 64 :=
  let w : BitVec 122 := x ++ p
  x ^^^ (w >>> 19).setWidth 64 ^^^ w.setWidth 64
/-- The last 58 bits of a block. -/
def lastBits (x : BitVec 64) : BitVec 58 := (x >>> 6).setWidth 58

/-- Sync headers of data and control blocks. -/
def hdData : BitVec 2 := 0b01
def hdCtl : BitVec 2 := 0b10
/-- Eight bytes as the bits of a block, byte 0 lowest. -/
def blockBits (l : List Byte) : BitVec 64 := BitVec.ofNat 64 (leNat l)
/-- The alignment marker of a logical lane (R351). -/
def markerBits (l : Nat) : BitVec 64 :=
  let h : List Byte := [0x4B, 0x55, BitVec.ofNat 8 l, 0xA5]
  blockBits (h ++ h)
/-- The logical lane that a marker names. -/
def markerLane (b : UBlock) : Option Nat := if b.hdr = hdCtl then (List.range 4).find? (fun l => b.bits == markerBits l) else none
/-- Set bits of a window. -/
def weight (w : BitVec 64) : Nat := countIf (fun j => w.getLsbD j) (List.range 64)

/-- A lane acquires block lock; with all four the link goes on (R353, R354). -/
def laneLock (l p : Nat) (s : State) : State :=
  let s := s.wr ULNK.LINK_STAT_LANE_LOCK (s.rd ULNK.LINK_STAT_LANE_LOCK (i := l) ||| 2 ^ p) (i := l)
  if s.linkState l = lkLOCK ∧ s.rd ULNK.LINK_STAT_LANE_LOCK (i := l) = 15 then linkSet l lkDESKEW s else s
/-- A lane loses block lock. -/
def laneLoss (l p : Nat) (s : State) : State :=
  if s.linkState l = lkLOCK then
    let m := s.rd ULNK.LINK_STAT_LANE_LOCK (i := l)
    s.wr ULNK.LINK_STAT_LANE_LOCK (m - (m &&& 2 ^ p)) (i := l)
  else linkLock l true s
/-- A physical lane takes a block: it is inverted where LANE_POL says so, its header counts for block lock, and its bits are descrambled. -/
def laneTake (l p : Nat) (b : UBlock) (s : State) : UBlock × State :=
  let inv := bit (s.rd ULNK.LINK_CTL_LANE_POL (i := l)) p
  let h := if inv then ~~~ b.hdr else b.hdr
  let x := if inv then ~~~ b.bits else b.bits
  let q := tget (fun _ => ULane.reset) s.uma.lane (4 * l + p)
  let bad := h == 0 || h == 3
  let run := if bad then 0 else min 64 (q.run + 1)
  let win := (q.bad <<< 1) ||| (if bad then 1 else 0)
  let s := s.onUma (fun u => { u with lane := tset (fun _ => ULane.reset) u.lane (4 * l + p) ⟨lastBits x, win, run⟩ })
  let locked := bit (s.rd ULNK.LINK_STAT_LANE_LOCK (i := l)) p
  let s := if !locked && run == 64 then laneLock l p s else if locked && bad && decide (16 ≤ weight win) then laneLoss l p s else s
  (⟨h, descramble q.prev x⟩, s)
/-- It takes blocks in their order. -/
def laneTakes (l p : Nat) : List UBlock → State → List UBlock × State
  | [], s => ([], s)
  | b :: t, s =>
    let x := laneTake l p b s
    let y := laneTakes l p t x.2
    (x.1 :: y.1, y.2)

/-- The cell that eight blocks on each physical lane carry: block 4i + l is the i-th on logical lane l (R352). -/
def State.cellFrom (s : State) (l : Nat) (bs : List (List UBlock)) : List Byte :=
  let map := s.rd ULNK.PEER_LANE_MAP (i := l)
  let of := fun (k : Nat) => ((List.range 4).find? (fun p => map / 16 ^ p % 4 == k)).getD k
  (List.range 8).flatMap (fun i => (List.range 4).flatMap (fun k =>
    leBytes 8 (((bs.getD (of k) []).getD i ⟨0, 0⟩).bits.toNat)))
/-- A lane of a link sends blocks: each is scrambled. -/
def laneSend : BitVec 58 → List UBlock → List UBlock × BitVec 58
  | p, [] => ([], p)
  | p, b :: t =>
    let x := scramble p b.bits
    let r := laneSend (lastBits x) t
    (⟨b.hdr, x⟩ :: r.1, r.2)
/-- What a cell slot puts on a logical lane: before the first of 2047 cells the marker, after the last seven zero blocks (R351, R352). -/
def laneBlocks (slot k : Nat) (cell : List Byte) : List UBlock :=
  (if slot = 0 then [⟨hdCtl, markerBits k⟩] else []) ++
  (List.range 8).map (fun i => ⟨hdData, blockBits ((cell.drop (8 * (4 * i + k))).take 8)⟩) ++
  (if slot = 2046 then List.replicate 7 ⟨hdData, 0⟩ else [])
/-- A link sends a cell on its four lanes. -/
def laneCell (l : Nat) (cell : List Byte) (s : State) : State :=
  let slot := ng s.uma.slot l
  let out := (List.range 4).map (fun k => laneSend (tget (fun _ => 0) s.uma.scr (4 * l + k)) (laneBlocks slot k cell))
  let s := s.each ((List.range 4).zip out) (fun s x => s.onUma (fun u => { u with scr := tset (fun _ => 0) u.scr (4 * l + x.1) x.2.2 }))
  s.onUma (fun u => { u with slot := ns u.slot l (if slot = 2046 then 0 else slot + 1), sent := tset (fun _ => []) u.sent l (out.map (·.1)) })

/-! ## Cells (R356–R359) -/

def cyIDLE : Nat := 0
def cySUM : Nat := 1
def cyTIME : Nat := 2
def cyMGMT : Nat := 3
def cyTRAIN : Nat := 0xA
def cellBits (hdr hi lo : Nat) : Nat := fbits hdr hi lo
/-- Bytes of a cell as a number. -/
def cellNum (c : List Byte) (at_ n : Nat) : Nat := beNat ((c.drop at_).take n)
/-- A cell's header with its type and type-specific fields. -/
def State.cellHdr (s : State) (type dst tsf : Nat) : Nat :=
  type * 2 ^ 60 + s.devId * 2 ^ 56 + dst % 16 * 2 ^ 52 + tsf % 2 ^ 48
/-- A whole cell: header, payload filled to 240 bytes, trailer (R356, R357). -/
def cellBytes (c : UCell) (seq : Nat) : List Byte :=
  let a := beBytes 8 c.hdr ++ c.pl.take 240 ++ List.replicate (240 - c.pl.length) 0
  let z := beBytes 2 (seq % 65536) ++ beBytes 1 c.flags ++ beBytes 1 0
  a ++ beBytes 4 (crc32 (a ++ z)) ++ z
/-- Check 1 of R358. -/
def cellCrcOk (c : List Byte) : Bool := c.length == 256 && crc32 (c.take 248 ++ c.drop 252) == cellNum c 248 4

/-- Counters of a link; the first CRC_ERR and SUM_LATE raise their bits (R399). -/
def linkCnt (r : Reg) (l : Nat) (ev : Option Nat) (s : State) : State :=
  let first := s.rw r (i := l) = 0
  let s := s.cntr r (i := l)
  match ev with | some b => if first then s.raise (0x1A + l) b fnsAll else s | none => s
/-- MGMT_DROP of a link; 6 stands for the Ethernet ports, which have no such counter (R384). -/
def mgmtDrop (l : Nat) (s : State) : State := if l < 6 then s.cntr ULNK.MGMT_DROP (i := l) else s

/-- A time as TIME cells carry it (R370): 6 bytes of seconds, 4 of nanoseconds, one of fraction. -/
def timeBytes (g : Nat) : List Byte := beBytes 6 (g / gridSec) ++ beBytes 4 (g / 12 % 1000000000) ++ beBytes 1 (stampFrac (g % 12))
/-- The grid point such a time names. -/
def timeAt (c : List Byte) (at_ : Nat) : Nat :=
  12 * (cellNum c at_ 6 * 1000000000 + cellNum c (at_ + 6) 4) + (cellNum c (at_ + 10) 1 * 12 + 128) / 256

/-- PEER_MISMATCH of a link. -/
def mismatch (l : Nat) (s : State) : State :=
  hierFix ((s.wb ULNK.LINK_STAT_PEER_MISMATCH true (i := l)).raise (0x1A + l) 2 fnsAll)

/-- TRAIN_CELL (R355, R364). -/
def trainCell (l g hdr : Nat) (s : State) : State :=
  let src := fbits hdr 59 56
  let same := decide (fbits hdr 31 0 = s.rw ULNK.DIGEST_SRC)
  let s := ((s.wb ULNK.PEER_VALID true (i := l)).wr ULNK.PEER_ID src (i := l)).wr ULNK.PEER_LINK (fbits hdr 37 35) (i := l)
  let s := if same && !s.oddLink l then s else mismatch l s
  let s := if s.oddLink l then mismatch (l + 1 - 2 * (l % 2)) s else s
  if s.linkState l ≠ lkTRAIN then s
  else
    let ok := same && fbits hdr 47 40 == 1
    linkTry l g (s.onUma (fun u => { u with
      trainOk := ns u.trainOk l (if ok then ng u.trainOk l + 1 else if same && decide (8 ≤ ng u.trainOk l) then ng u.trainOk l else 0)
      rdyRx := ns u.rdyRx l (if bit hdr 39 then ng u.rdyRx l + 1 else 0) }))

/-! ## Management messages (R360–R362, R382–R384) -/

/-- A device is heard (R398). -/
def memberHear (id : Nat) (s : State) : State :=
  let m := s.rd ULNK.HIER_STAT_MEMBERS
  let s := s.onUma (fun u => { u with heard := ns u.heard id s.clock })
  if bit m id then s else (s.wr ULNK.HIER_STAT_MEMBERS (m ||| 2 ^ id)).raise 0x1A 13 fnsAll

/-- A MGMT cell waits on both links of a pair (R364). -/
def mgmtPair (c : UCell) (s : State) (p : Nat) : State :=
  s.each (s.linksOf p) (fun s l =>
    s.onUma (fun u => { u with mgmtQ := tset (fun _ => []) u.mgmtQ l (tget (fun _ => []) u.mgmtQ l ++ [c]) }))

/-- The peer of R384: version 6 where a word beyond the first is set. -/
def State.umoePeer (s : State) : Bool × Nat :=
  let w := fun (r : Reg) => s.rw r
  if w ULNK.UMOE_PEER1 = 0 ∧ w ULNK.UMOE_PEER2 = 0 ∧ w ULNK.UMOE_PEER3 = 0 then (false, w ULNK.UMOE_PEER0)
  else (true, w ULNK.UMOE_PEER0 * 2 ^ 96 + w ULNK.UMOE_PEER1 * 2 ^ 64 + w ULNK.UMOE_PEER2 * 2 ^ 32 + w ULNK.UMOE_PEER3)
/-- A MGMT cell leaves in a datagram on Q2 (R384). -/
def umoeSend (c : UCell) (s : State) : State :=
  if s.rb ULNK.UMOE_CTL_EN = false then s
  else
    let port := s.rd ULNK.UMOE_CTL_PORT
    let a := s.umoePeer
    match s.dstMac port a.1 a.2 with
    | none => s
    | some mac =>
      let q := (ng s.uma.txSeq 6 + 1) % 65536
      let ip := ipUdp a.1 (s.portIp port a.1) a.2 50718 50718 64 0 (cellBytes c q)
      let f := beBytes 6 mac ++ beBytes 6 (s.portMac port) ++ beBytes 2 (if a.1 then 0x86DD else 0x0800) ++ ip
      let s := s.onUma (fun u => { u with txSeq := ns u.txSeq 6 q })
      let f := f ++ leBytes 4 (fcs f)
      txPut port (txKey port 2) { kind := .umarun, len := f.length, bytes := f, held := false } s

/-- Number a message and place its cells on pairs (R360, R361). -/
def mgmtSend (ps : List Nat) (dst kind : Nat) (body : List Byte) (s : State) : State :=
  let m := beBytes 2 kind ++ beBytes 2 body.length ++ body
  let cs := chunks 240 256 m
  let id := (s.uma.msgId + 1) % 65536
  let s := s.onUma (fun u => { u with msgId := id })
  s.each ((List.range cs.length).zip cs) (fun s x =>
    let h := s.cellHdr cyMGMT dst (id * 2 ^ 32 + x.1 * 2 ^ 24 + (cs.length - 1) * 2 ^ 16 + x.2.length)
    s.each ps (mgmtPair ⟨h, x.2, 0⟩))
/-- A message to a device, by ROUTE; without a route its cells are dropped (R382). -/
def mgmtTo (dst kind : Nat) (body : List Byte) (s : State) : State :=
  match s.routeTo dst with
  | some p => mgmtSend [p] dst kind body s
  | none => s.onUma (fun u => { u with msgId := (u.msgId + 1) % 65536 })
/-- A message whose body only the firmware knows. -/
def fwTo (dst kind : Nat) (s : State) : State :=
  let x := s.fresh
  mgmtTo dst kind ((Config.fwBody x.1).take 61436) x.2

/-- A completion as it travels (R482, R361): SQ_HEAD and PHASE zero, then the response. -/
def cplBytes (c : Completion) : List Byte :=
  leBytes 2 c.tag ++ leBytes 2 c.status ++ leBytes 4 c.result ++ leBytes 4 (4 * c.resp.length) ++ leBytes 4 0 ++
    c.resp.flatMap (leBytes 4)
/-- The completions of tunnelled commands go to their senders (R383). -/
def tunFlush (s : State) : State :=
  let l := s.uma.tunCpl
  (s.onUma (fun u => { u with tunCpl := [] })).each l (fun s t => mgmtTo t.dst 0x0003 (beBytes 2 t.msg ++ cplBytes t.c) s)

/-- TUNNEL_CMD: the command waits in the tunnel's queue of 64 (R528). -/
def tunnelCmd (src msg : Nat) (body : List Byte) (s : State) : State :=
  if body.length < 16 then s
  else if 64 ≤ s.cmd.tunQ then
    let c : Completion := { tr := .tunnel src, fn := 0, tag := leNat ((body.drop 4).take 2), status := stBUSY, result := 0, resp := [] }
    let q := s.uma.tunCpl ++ [⟨src, msg, c⟩]
    s.onUma (fun u => { u with tunCpl := q })
  else
    let q := s.uma.tunWait ++ [(src, msg, leNat ((body.drop 4).take 2))]
    (s.onCmd (fun c => { c with tunQ := c.tunQ + 1 })).onUma (fun u => { u with tunWait := q })
/-- TUNNEL_CPL: the command that waits for it completes with what the other device answered. -/
def tunnelCpl (body : List Byte) (s : State) : State :=
  let id := beNat (body.take 2)
  let c := body.drop 2
  match s.uma.tunnels.find? (fun t => t.msg == id) with
  | none => s
  | some t =>
    if c.length < 16 then s
    else
      let s := s.onUma (fun u => { u with tunnels := u.tunnels.erase t })
      complete t.env (leNat ((c.drop 2).take 2)) (leNat ((c.drop 4).take 4)) (leWords (c.drop 16)) true s

/-- A change that the active member accepted in tick k takes place here at the boundary of tick k + 2 (R388); a change of mode is shown as
pending until then, and before SAFE its fade runs as on the active member (R452, R464). -/
def forwarded (k : Nat) (c : MirrorCopy) (s : State) : State :=
  let s := s.onUma (fun u => { u with changes := u.changes ++ [(k + 2, c)] })
  match c.mode with
  | some m =>
    ((s.wb MODE.STATE_PEND_VALID true).wr MODE.STATE_PEND m).onMd (fun d => { d with
      fadeAt := if m = 0xA ∧ carries s.mode then some (32 * (k + 1)) else d.fadeAt })
  | none => s
/-- A grid turn's messages at a device that is not the manager, and a forwarded change at the standby (R385, R388). -/
def fwMessage (src : Nat) (m : FwMsg) (s : State) : State :=
  match m with
  | .reserve td =>
    let s := fwTo src 0x0101 s
    if s.tdDefined td then
      match s.freeSlotNo with
      | some i =>
        let q := s.uma.resv ++ [(td, i, s.clock)]
        s.onUma (fun u => { u with resv := q })
      | none => s
    else s
  | .arm n =>
    match s.uma.resv with
    | [] => s
    | (td, i, _) :: t =>
      let s := s.onUma (fun u => { u with resv := t })
      let a : SlotArgs := { action := 1, tbsel := 7, late := false, secHi := 0, secLo := n / 2 ^ 32, ns := n % 2 ^ 32, p0 := td,
                            p1 := 0, period := 0 }
      let s' := slotWrite i a s
      if (armRefusal 0 i s').isSome then s else armSlot 0 i s'
  | .release => s.onUma (fun u => { u with resv := [] })
  | .change k c => if s.mirrorStandby then forwarded k c s else s
  | .other => s

/-- MGMT_MESSAGE: a message that is whole, from a link of a pair (R361, R362). -/
def mgmtMessage (src l msg : Nat) (m : List Byte) (fw : FwMsg) (s : State) : State :=
  let kind := beNat (m.take 2)
  let body := m.drop 4
  if m.length < 4 ∨ beNat ((m.drop 2).take 2) ≠ body.length then mgmtDrop l s
  else if kind = 0x0001 then
    if body.length ≠ 520 then mgmtDrop l s
    else if l < 6 && s.pairHas (l / 2) 2 then
      let k := beNat (body.take 8)
      s.onUma (fun u => { u with maps := ((k, body.drop 8) :: u.maps.filter (fun x => x.1 != k)).take 4 })
    else s
  else if kind = 0x0002 then tunnelCmd src msg body s
  else if kind = 0x0003 then tunnelCpl body s
  else if (0x0100 ≤ kind ∧ kind ≤ 0x01FF ∧ s.role = roGRID) ∨ (0x0200 ≤ kind ∧ kind ≤ 0x02FF ∧ s.role = roMIRROR) then
    fwMessage src fw s
  else mgmtDrop l s

/-- A MGMT cell reaches the management processor: its message is put together (R360). -/
def mgmtDeliver (l g hdr : Nat) (pl : List Byte) (fw : FwMsg) (s : State) : State :=
  let src := fbits hdr 59 56
  let msg := fbits hdr 47 32
  let frag := fbits hdr 31 24
  let last := fbits hdr 23 16
  let len := fbits hdr 7 0
  let stale := fun (p : UPart) => p.src == src && p.msg == msg && decide (p.at_ + 12000000 ≤ g)
  let s := s.each (s.uma.parts.filter stale) (fun s p => mgmtDrop p.link s)
  let s := s.onUma (fun u => { u with parts := u.parts.filter (fun p => !stale p) })
  let old := s.uma.parts.find? (fun p => p.src == src && p.msg == msg)
  if last < frag ∨ len = 0 ∨ 240 < len ∨ old.any (fun p => p.last != last) then mgmtDrop l s
  else
    let p : UPart := match old with
      | some p => { p with frags := p.frags ++ [(frag, pl.take len)] }
      | none => { src := src, msg := msg, last := last, at_ := g, link := l, frags := [(frag, pl.take len)] }
    let rest := s.uma.parts.filter (fun p => !(p.src == src && p.msg == msg))
    if (List.range (p.last + 1)).all (fun j => p.frags.any (fun f => f.1 == j)) then
      let m := (List.range (p.last + 1)).flatMap (fun j => ((p.frags.find? (fun f => f.1 == j)).map (·.2)).getD [])
      mgmtMessage src l msg m fw (s.onUma (fun u => { u with parts := rest }))
    else s.onUma (fun u => { u with parts := rest ++ [p] })

/-- MGMT_CELL: the first copy of a cell is forwarded and delivered (R365, R382). `l` is the link it came on, 6 for a port. -/
def mgmtCell (l g hdr : Nat) (pl : List Byte) (fw : FwMsg) (s : State) : State :=
  let src := fbits hdr 59 56
  let dst := fbits hdr 55 52
  let bc := bit hdr 51
  let key := (src, fbits hdr 47 32, fbits hdr 31 24)
  let live := s.uma.seen.filter (fun x => decide (s.clock < x.2.2.2 + 96))
  if live.any (fun x => (x.1, x.2.1, x.2.2.1) == key) || (bc && src == s.devId) then
    if l < 6 then s.cntr ULNK.MGMT_DUP (i := l) else s
  else
    let s := s.onUma (fun u => { u with seen := live ++ [(key.1, key.2.1, key.2.2, s.clock)] })
    let c : UCell := ⟨hdr, pl, 0⟩
    let s :=
      if bc then
        let s := s.each (pairs3.filter (fun p => l = 6 || p != l / 2)) (mgmtPair c)
        if l = 6 then s else umoeSend c s
      else if dst = s.devId then s
      else match s.routeTo dst with
        | some p => mgmtPair c s p
        | none => mgmtDrop l s
    if bc || dst == s.devId then mgmtDeliver l g hdr pl fw s else s

/-! ## Time transfer (R370–R372) -/

/-- The pair that time comes from: TIME_PARENT, or on the B member of a mirror pair its MIRROR pair (R374). -/
def State.parentPair (s : State) : Option Nat :=
  if s.role = roGRID then s.pairWith 4
  else if s.role = roMIRROR ∧ s.devId = 1 then s.pairWith 5
  else none

/-- HIER_STAT.MIRROR changes (R399). -/
def mirrorSet (v : Nat) (s : State) : State :=
  if s.rd ULNK.HIER_STAT_MIRROR = v then s else (s.wr ULNK.HIER_STAT_MIRROR v).raise 0x1A 11 fnsAll
/-- A copy is pending, or has been taken (R387, R450). -/
def copySet (v : Bool) (s : State) : State := (condNote (s.wb MODE.COND_MIRROR_COPY v)).onUma (fun u => { u with copying := v })

/-- MIRROR_DIVERGED (R393). -/
def diverged (theirs : Nat) (s : State) : State :=
  let s := ((s.wb ULNK.HIER_STAT_DIVERGED true).raise 0x1A 12 fnsAll).err 0x0403 0x1A 0 s.uma.digest theirs
  if s.rd ULNK.HIER_STAT_MIRROR = 2 then copySet true s else s

/-- TIME_CELL: the measurement of R371, what the sender says of the manager, and on a mirror pair its state and digest. -/
def timeCell (l g hdr : Nat) (c : List Byte) (s : State) : State :=
  let t1 := timeAt c 8
  let t3 := timeAt c 20
  let t4 := timeAt c 32
  let a := s.rdS ULNK.TIME_ASYM_A (i := l)
  let d2 : Int := ((g : Int) - t1) + ((t4 : Int) - t3)
  let th2 : Int := ((g : Int) - t1) - ((t4 : Int) - t3) - a
  let ds := tget (fun _ => []) s.uma.ds l
  let n : Int := ds.length
  let sum := ds.foldl (fun (x : Int) y => x + y) 0
  let fresh := decide (g < t3 + 8000001 ∧ t3 ≤ g ∧ t1 < t4 + 8000001 ∧ t4 ≤ t1)
  let near := decide (ds.length < 16) || decide ((d2 * n - sum).natAbs ≤ 48 * ds.length)
  let s :=
    if fresh && near then
      let s := (s.wrS ULNK.DELAY_G (d2 / 2) (i := l)).wrS ULNK.THETA_G (th2 / 2) (i := l)
      sumOkFix l (s.onUma (fun u => { u with
        ds := tset (fun _ => []) u.ds l ((d2 :: ds).take 16)
        thetas := tset (fun _ => []) u.thetas l (th2 :: tget (fun _ => []) u.thetas l) }))
    else s
  let ofs := sgn 32 (cellNum c 44 4)
  let st := cellNum c 48 1 % 4
  let hops := cellNum c 49 1
  let mir := cellNum c 50 1
  let dig := cellNum c 52 4
  let s := s.onUma (fun u => { u with
    echo := os u.echo l (some (t1, g)), mgr := os u.mgr l (some (ofs, st, hops)), peer := tset (fun _ => (0, 0)) u.peer l (mir, dig) })
  let s := memberHear (fbits hdr 59 56) s
  if s.role = roMIRROR ∧ s.pairHas (l / 2) 5 then
    let s := s.onUma (fun u => { u with partnerAt := s.clock })
    if (s.rd ULNK.HIER_STAT_MIRROR = 1 ∨ s.rd ULNK.HIER_STAT_MIRROR = 2) ∧ s.uma.copying = false ∧ t1 / 4000000 = s.tick
        ∧ dig ≠ s.uma.digest then diverged dig s
    else s
  else s

/-- The payload of a TIME cell that leaves at a grid point. -/
def State.timePayload (s : State) (l g : Nat) : List Byte :=
  let mgr := s.devId = 0
  let e := og s.uma.echo l
  let echo := match e with
    | some (a, b) => timeBytes a ++ [0] ++ timeBytes b ++ [0]
    | none => List.replicate 24 0
  let ofs : Int := if mgr then 0 else ig s.tim.ofs 2 / 2000
  timeBytes g ++ [0] ++ echo ++ beBytes 4 (uns 32 ofs) ++ beBytes 1 (if mgr then s.rd REFS.STAT_STATE else s.uma.mgrState) ++
    beBytes 1 (if mgr then 0 else s.rd ULNK.TIME_STAT_HOPS) ++
    beBytes 1 (s.rd ULNK.HIER_STAT_MIRROR + 4 * s.rd ULNK.HIER_STAT_A_MEMBER) ++ [0] ++
    beBytes 4 (if s.role = roMIRROR then s.uma.digest else 0)

/-- TB2_UPDATE (R372): a worker's TB2 from the measurements of the tick, or its loss. -/
def tb2Tick (s : State) : State :=
  match s.parentPair with
  | none => s
  | some p =>
    let ls := [2 * p, 2 * p + 1].filter (fun l => !s.oddLink l)
    let th := ls.flatMap (fun l => tget (fun _ => []) s.uma.thetas l)
    let from_ := ls.find? (fun l => !(tget (fun _ => []) s.uma.thetas l).isEmpty && (og s.uma.mgr l).isSome)
    let s := s.onUma (fun u => { u with thetas := [] })
    match from_.bind (fun l => og s.uma.mgr l) with
    | some (ofs, st, hops) =>
      let ok := st == 2 || st == 3
      let sum := th.foldl (fun (x : Int) y => x + y) 0
      let v : Int := -(1000 * sum / (th.length : Int)) + 2000 * ofs
      let s := s.onTim (fun t => { t with ofs := is t.ofs 2 v, set := bs t.set 2 true })
      let s := (s.wb TIME.TB_STAT_VALID true (i := 2)).wr ULNK.TIME_STAT_HOPS (min 255 (hops + 1))
      (s.onRef (fun r => { r with present := bs r.present 2 true, notLocked := bs r.notLocked 2 (!ok) })).onUma (fun u => { u with mgrState := st })
    | none =>
      let s := s.onRef (fun r => { r with present := bs r.present 2 false, notLocked := bs r.notLocked 2 false })
      let s := s.wr ULNK.TIME_STAT_HOPS 255
      if s.rb TIME.TB_STAT_VALID (i := 2) then (s.wb TIME.TB_STAT_VALID false (i := 2)).raise 0x1A 10 fnsAll else s

/-! ## Partial sums, population counts, relay channels (R375–R381) -/

/-- Cells in a set, and values in a cell, by KIND. -/
def kindCells (k : Nat) : Nat := match k with | 0 => 103 | 1 => 35 | _ => 69
/-- Values of a payload: `n` bytes each. -/
def payloadVals (n : Nat) (pl : List Byte) : List Nat := (chunks n 240 (pl.take (240 / n * n))).map beNat
def State.depth (s : State) : Nat := s.rd ULNK.HIER_POS_DEPTH
/-- The IDX that a cell of a KIND must carry now: a vector, a tick or a presentation index (R376, R379, R381). -/
def State.sumIdx (s : State) (kind : Nat) : Option Nat :=
  let p := s.tim.sample
  match kind with
  | 0 => if p < 1 + s.depth then none else some (p - 1 - s.depth)
  | 1 => if p % 32 + 1 = s.depth ∧ 32 ≤ p then some (p / 32 - 1) else none
  | _ => if p = 0 then none else some (p - 1)

/-- SUM_CELL: judged by link, KIND, place and index, merged between the links of the pair, and kept for the next boundary. -/
def sumCell (l hdr : Nat) (pl : List Byte) (flags : Nat) (s : State) : State :=
  let kind := fbits hdr 43 42
  let cell := fbits hdr 41 35
  let idx := fbits hdr 31 0
  let p := l / 2
  if kind = 3 then s.cntr ULNK.HDR_ERR (i := l)
  else if s.rb ULNK.LINK_STAT_SUM_OK (i := l) = false ∨ s.oddLink l ∨ s.pairHas p (if kind = 2 then 2 else 0) = false
      ∨ sumModes s.mode = false then s
  else if kindCells kind ≤ cell ∨ (kind ≠ 2 ∧ fbits hdr 47 44 ≠ s.rd ULNK.HIER_POS_COL) then linkCnt ULNK.IDX_ERR l none s
  else match s.sumIdx kind with
    | none => linkCnt ULNK.IDX_ERR l none s
    | some want =>
      let d := (want % 2 ^ 32 + 2 ^ 32 - idx) % 2 ^ 32
      if d ≠ 0 then (if d < 2 ^ 31 then linkCnt ULNK.SUM_LATE l (some 3) s else linkCnt ULNK.IDX_ERR l none s)
      else
        let have_ := match kind with
          | 0 => (og s.uma.psGot cell).isSome
          | 1 => s.uma.popCells.contains cell
          | _ => (og s.uma.relGot cell).isSome
        if have_ then linkCnt ULNK.SUM_DUP l none s
        else
          let s := linkCnt ULNK.SUM_FIRST l none s
          match kind with
          | 0 => s.onUma (fun u => { u with psGot := os u.psGot cell (some ((payloadVals 6 pl).map (sgn 48), bit flags 0)) })
          | 1 =>
            let vs := (List.range 120).zip (payloadVals 2 pl)
            (s.onUma (fun u => { u with popCells := cell :: u.popCells })).each vs (fun s v =>
              if 120 * cell + v.1 < 4096 then s.onUma (fun u => { u with popGot := ns u.popGot (120 * cell + v.1) v.2 }) else s)
          | _ => s.onUma (fun u => { u with relGot := os u.relGot cell (some ((payloadVals 4 pl).map (sgn 32))) })

/-- A cell of a set is missing for an index: the count of misses in a row, and the record of the first (R378). -/
def missErr (first : Bool) (p idx : Nat) (s : State) : State := if first then s.err 0x0401 0x1A p p (idx % 2 ^ 32) none true else s

/-- PSUM_MISS: the partial sums for vector n settle, from the cells that came or from those before (R378). The last part names
the cells that carried SAT, and those held. -/
def psumSettle (n : Nat) (s : State) : State × List Nat × List Nat :=
  match s.pairWith 0 with
  | none => (s, [], [])
  | some p =>
    let r := (List.range 103).foldl (fun (a : State × List Nat × List Nat) c =>
      let s := a.1
      match og s.uma.psGot c with
      | some (vs, sat) =>
        (s.onUma (fun u => { u with psUse := tset (fun _ => []) u.psUse c vs, psMiss := ns u.psMiss c 0 }),
          if sat then c :: a.2.1 else a.2.1, a.2.2)
      | none =>
        let m := ng s.uma.psMiss c + 1
        let s := missErr (m == 1) p n ((s.cntr ULNK.PSUM_MISS).raise 0x1A 8 fnsAll)
        let s := s.onUma (fun u => { u with psMiss := ns u.psMiss c m, psUse := if m ≤ 4 then u.psUse else tset (fun _ => []) u.psUse c [] })
        (s, a.2.1, if m ≤ 4 then c :: a.2.2 else a.2.2)) (s, [], [])
    (r.1.onUma (fun u => { u with psGot := [] }), r.2.1, r.2.2)

/-- p_in of an X-out. -/
def State.psumIn (s : State) (o : Nat) : Int := (tget (fun _ => []) s.uma.psUse (o / 40)).getD (o % 40) 0
/-- p before saturation, and p (R375). -/
def psumRaw (own : Int) (pin : Int) : Int := pin + own / 256
def sat48 (x : Int) : Int := satI 48 x

/-- A SUM cell for a pair. -/
def State.sumHdr (s : State) (p kind cell idx : Nat) : Nat :=
  s.cellHdr cySUM (s.pairPeer p) (s.rd ULNK.HIER_POS_COL * 2 ^ 44 + kind * 2 ^ 42 + cell * 2 ^ 35 + idx % 2 ^ 32)

/-- The PSUM cells of vector n from the sums `a`: `sat` and `held` name the cells received so (R375, R376, R378). -/
def psumCells (p n : Nat) (a : Tbl Int) (sat held : List Nat) (s : State) : State × List UCell :=
  (List.range 103).foldl (fun (r : State × List UCell) c =>
    let os_ := ((List.range 40).map (· + 40 * c)).filter (· < 4096)
    let raw := os_.map (fun o => psumRaw (ig a o) (s.psumIn o))
    let n48 := (raw.filter (fun x => sat48 x != x)).length
    let s' := if n48 = 0 then r.1 else (r.1.cntr ULNK.PSUM_SAT (n := n48)).raise 0x1A 9 fnsAll
    let fl := b2n (n48 != 0 || sat.contains c) + 2 * b2n (held.contains c)
    (s', r.2 ++ [⟨s.sumHdr p 0 c n, raw.flatMap (fun x => beBytes 6 (uns 48 (sat48 x))), fl⟩])) (s, [])

/-- The counts of a tick, with those received from above (R379): at depth d, at sample 32(k + 1) + d. -/
def popSettle (s : State) : State :=
  let s := if s.depth ≠ 0 ∧ s.uma.popCells.length < 35 then (s.cntr ULNK.PSUM_MISS).raise 0x1A 8 fnsAll else s
  let l := (s.uma.popOwn.map (·.1) ++ s.uma.popGot.map (·.1)).eraseDups
  let cap := fun (n : Nat) => if s.rb ULNK.HIER_POS_END then n else min 65535 n
  s.onUma (fun u => { u with
    popSum := l.foldl (fun (t : Tbl Nat) (o : Nat) => ns t o (cap (ng u.popOwn o + ng u.popGot o))) [], popGot := [], popCells := [] })
def popCellsOut (p k : Nat) (s : State) : List UCell :=
  (List.range 35).map (fun c =>
    ⟨s.sumHdr p 1 c k, (((List.range 120).map (· + 120 * c)).filter (· < 4096)).flatMap (fun o => beBytes 2 (ng s.uma.popSum o)), 0⟩)
/-- Population counts of a grid at a tick boundary (R379): the end device scales from the column's count of the tick before. -/
def popHier (s : State) : State :=
  if s.role ≠ roGRID then s
  else
    let own := s.xp.popN
    let tot := if s.rb ULNK.HIER_POS_END then s.uma.popSum else []
    (s.onXp (fun q => { q with popN := tot })).onUma (fun u => { u with popOwn := own, popSum := [] })

/-- The channels with a selector other than NONE. -/
def State.uoutUsed (s : State) : List Nat := (s.listed 0x1A 0x244).filter (fun c => selKind (s.rw ULNK.UOUT_SRC c) != 0)
/-- UOUT_STAT.HIGH. -/
def uoutHigh (s : State) : State := s.wr ULNK.UOUT_STAT_HIGH (s.uoutUsed.foldl max 0)
/-- The relay cells of index n, from the values kept at its boundary (R380). -/
def relayCells (p n : Nat) (s : State) : List UCell :=
  if s.uoutUsed.isEmpty then []
  else (List.range (s.uoutUsed.foldl max 0 / 60 + 1)).map (fun c =>
    ⟨s.sumHdr p 2 c n, (((List.range 60).map (· + 60 * c)).filter (· < 4096)).flatMap (fun i => beBytes 4 (uns 32 (ig s.uma.relOut i))), 0⟩)
/-- Keep what the sources of the relay channels present at the present index (R380). -/
def relayKeep (s : State) : State :=
  if pairs3.any (fun p => s.pairHas p 3) = false then s
  else s.onUma (fun u => { u with relOut := s.uoutUsed.foldl (fun t c => is t c (s.txValue 0 (s.rw ULNK.UOUT_SRC c))) [] })

/-- RELAY_MAP (R362): the presence mask of a tick, on every pair that relays. -/
def relayMap (s : State) : State :=
  let mask := (List.range 512).map (fun b => BitVec.ofNat 8
    ((List.range 8).foldl (fun m j => if selKind (s.rw ULNK.UOUT_SRC (8 * b + j)) != 0 then m + 2 ^ j else m) 0))
  s.each (pairs3.filter (fun p => s.pairHas p 3)) (fun s p => mgmtSend [p] (s.pairPeer p) 0x0001 (beBytes 8 s.tick ++ mask) s)

/-- The map in force for an index marks a channel present. -/
def mapBit (m : List Byte) (i : Nat) : Bool := bit (m.getD (i / 8) 0).toNat (i % 8)
def State.mapFor (s : State) (n : Nat) : Option (List Byte) :=
  (s.uma.maps.foldl (fun (b : Option (Nat × List Byte)) x =>
    if n / 32 < x.1 then b else match b with | some y => if y.1 < x.1 then some x else b | none => some x) none).map (·.2)

/-- The ULINK inputs of the present sample (R381): the values the peer presented two samples before. -/
def umaIn (s : State) : State :=
  let s := s.onXp (fun q => { q with ulVal := [], ulOn := [] })
  match s.pairWith 2 with
  | none => s
  | some p =>
    let got := s.uma.relGot
    let s := s.onUma (fun u => { u with relGot := [] })
    if s.tim.sample < 2 ∨ sumModes s.mode = false then s
    else match s.mapFor (s.tim.sample - 2) with
      | none => s
      | some m =>
        s.each (List.range 69) (fun s c =>
          let is_ := (List.range 60).filter (fun j => 60 * c + j < 4096 && mapBit m (60 * c + j))
          match og got c with
          | some vs =>
            let s := s.onUma (fun u => { u with relMiss := ns u.relMiss c 0 })
            s.each is_ (fun s j => s.onXp (fun q => { q with
              ulVal := is q.ulVal (60 * c + j) (vs.getD j 0), ulOn := bs q.ulOn (60 * c + j) true }))
          | none =>
            if is_.isEmpty then s
            else
              let k := ng s.uma.relMiss c + 1
              missErr (k == 1) p (s.tim.sample - 2)
                ((s.cntr ULNK.RELAY_MISS).onUma (fun u => { u with relMiss := ns u.relMiss c k })))

/-- Cells for the links of a pair that carry sums. -/
def sumQPut (p : Nat) (cs : List UCell) (s : State) : State :=
  s.each ((s.linksOf p).filter (fun l => s.rb ULNK.LINK_STAT_SUM_OK (i := l))) (fun s l =>
    s.onUma (fun u => { u with sumQ := tset (fun _ => []) u.sumQ l (tget (fun _ => []) u.sumQ l ++ cs) }))
/-- The sums and output values of a boundary, with what the hierarchy adds, and the SUM cells it sends (R221, R368, R375–R380). -/
def umaOutputs (missed lost : List Nat) (s : State) : State :=
  let s := formSums missed lost s
  let m := s.tim.sample
  let on := sumModes s.mode
  let s := s.onUma (fun u => { u with sumQ := [], timeDue := [] })
  let s :=
    if s.role ≠ roGRID then chains (s.xp.sums.map (·.1)) (ig s.xp.sums) s
    else
      let d := s.depth
      let past : List (Tbl Int) := (s.xp.sums :: s.uma.past).take 16
      let s := s.onUma (fun u => { u with past := past })
      let a : Tbl Int := past.getD d []
      let r := if on && decide (2 + d ≤ m) then psumSettle (m - 2 - d) s else (s, [], [])
      let s := r.1
      let s :=
        if s.rb ULNK.HIER_POS_END then
          let ks := (a.map (fun (e : Nat × Int) => e.1) ++ (s.uma.psUse.flatMap (fun (e : Nat × List Int) => (List.range 40).map (· + 40 * e.1))).filter (· < 4096)).eraseDups
          chains ks (fun o => sat56 (256 * s.psumIn o + ig a o)) s
        else
          let s := chains [] (fun _ => 0) s
          match s.pairWith 1 with
          | some p =>
            if on && decide (2 + d ≤ m) then
              let x := psumCells p (m - 2 - d) a r.2.1 r.2.2 s
              sumQPut p x.2 x.1
            else s
          | none => s
      if on && m % 32 == d then
        let s := popSettle s
        match s.pairWith 1 with
        | some p => if 32 ≤ m then sumQPut p (popCellsOut p (m / 32 - 1) s) s else s
        | none => s
      else s
  let s := if on && decide (1 ≤ m) then s.each (pairs3.filter (fun p => s.pairHas p 3)) (fun s p => sumQPut p (relayCells p (m - 1) s) s) else s
  if m % 32 = 0 ∧ s.role ≠ roNONE then
    let s := s.each links (fun s l => if s.linkState l = lkUP then s.onUma (fun u => { u with timeDue := bs u.timeDue l true }) else s)
    relayMap s
  else s

/-- The end of a boundary's work on the links: relay values are kept, completions of tunnelled commands leave. -/
def umaEnd (s : State) : State := tunFlush (relayKeep s)

/-- The RWB values of the links' pages at a sample boundary: relay selectors. -/
def umaRwb (s : State) : State :=
  if s.held.any (fun h => pageClass h.pg == 0x1A) then uoutHigh (s.applyDue (fun h => pageClass h.pg == 0x1A) (fun s h => s.applyHeld h))
  else s

/-! ## Roles (R366–R368, R374) -/

/-- Parameters that R367 accepts. -/
def hierOk (p : HierP) : Bool :=
  let has := fun (b : Nat) => countIf (fun w => bit w b) p.pairs
  let grid := p.role == roGRID
  decide (p.role ≤ 2) && decide (p.id < 16) && decide (p.col < 16) && decide (p.depth < 16) && decide (p.h < 16) &&
    p.pairs.length == 3 && p.pairs.all (· < 64) && p.route.length == 16 && p.route.all (· ≤ 3) && decide (p.members < 65536) &&
    (p.role == roNONE || (
    decide (p.depth ≤ p.h) && (has 0 == 0) == (p.depth == 0) && (has 1 == 0) == (p.depth == p.h) &&
    (has 4 == 0 || p.id != 0) && (!grid || has 4 != 0 || p.id == 0) &&
    has 0 ≤ 1 && has 1 ≤ 1 && has 2 ≤ 1 && has 4 ≤ 1 && has 5 ≤ 1 && (!grid || has 5 == 0) &&
    p.pairs.all (fun w => !bit w 5 || w == 32) && (p.role != roMIRROR || (decide (p.id ≤ 1) && p.members == 3))))

/-- The parameters as one list, for the digest. -/
def hierList (p : HierP) : List Nat := [p.role, p.id, p.col, p.depth, p.h] ++ p.pairs ++ p.route ++ [p.members]

/-- Install parameters at a tick boundary (R366, R368, R374, R387). -/
def hierInstall (p : HierP) (s : State) : State :=
  let none_ := p.role == roNONE
  let grid := p.role == roGRID
  let s := (s.wr ULNK.HIER_CFG_ROLE p.role).wr ULNK.HIER_CFG_ID (if none_ then 0 else p.id)
  let s := s.ww ULNK.HIER_POS (if grid then p.col * 2 ^ 24 + p.depth * 2 ^ 16 + p.h * 2 ^ 8 + b2n (p.depth == p.h) else 1)
  let s := s.ww ULNK.PAIR_ROLE (if none_ then 0 else ((List.range 3).foldl (fun a j => a + p.pairs.getD j 0 * 2 ^ (8 * j)) 0))
  let s := s.ww ULNK.ROUTE (if none_ then 0 else ((List.range 16).foldl (fun a j => a + p.route.getD j 0 * 4 ^ j) 0))
  let s := s.ww ULNK.DIGEST_SRC (if none_ then 0 else Config.hierDigest (hierList p) % 2 ^ 32)
  let s := s.onUma (fun u => { u with
    hier := if none_ then none else some p, sumQ := [], psGot := [], psUse := [], psMiss := [], past := [], popOwn := [], popGot := []
    popCells := [], popSum := [], relGot := [], relMiss := [], relOut := [], maps := [], thetas := [], mgr := [], copyAt := none
    takeover := false, fwd := 0, digDue := [], alone := [], changes := [], resv := [], partnerAt := s.clock })
  let s := s.wr ULNK.TIME_STAT_HOPS (if !none_ && p.id == 0 then 0 else 255)
  let s := (mirrorSet 0 s).wb ULNK.HIER_STAT_A_MEMBER (p.role == roMIRROR && p.id == 0)
  let s := copySet (p.role == roMIRROR && p.id == 1) s
  let s := if none_ then s.wr ULNK.HIER_STAT_MEMBERS 0 else s
  let s :=
    if s.parentPair.isSome then (s.wb REFS.SEL_CTL_FORCE_EN true).wr REFS.SEL_CTL_FORCE_IDX 2
    else
      let s := s.onRef (fun r => { r with present := bs r.present 2 false })
      if s.rd REFS.SEL_CTL_FORCE_IDX = 2 then s.wb REFS.SEL_CTL_FORCE_EN false else s
  hierFix s

/-- HIER_JOIN takes effect at the tick boundary. -/
def joinTick (s : State) : State :=
  match s.uma.join with
  | none => s
  | some p => hierInstall p (s.onUma (fun u => { u with join := none }))

/-! ## Mirror pairs (R386–R393) -/

/-- The words that a copy or a change carries (R389): no counter, no status but owners, descriptors, slots and allocations. -/
def mirroredWord (pg off : Nat) : Bool :=
  match pageClass pg with
  | 0x0E => decide (0x050 ≤ off) && decide (off < 0x0BC)
  | 0x0F => (decide (0x050 ≤ off) && decide (off < 0x0CC)) || off == 0x144 || off == 0x148
  | 0x11 => mirroredReg pg off || off == 0x04C
  | 0x12 => decide (0x044 ≤ off) && decide (off < 0x054)
  | 0x40 => decide (0x400 ≤ off) && decide (off < 0x410)
  | _ => mirroredReg pg off

/-- Put a copy, or a change, into the state: streams that it changes are disabled and, where it enables them, enabled again;
then words, codes, slots and held edits (R387–R389). -/
def installCopy (x : MirrorCopy) (s : State) : State :=
  let ws := x.words.filter (fun w => mirroredWord w.pg w.off)
  let touched := fun (pg : Nat) => ((ws.filter (fun w => w.pg == pg && w.obj < 1024 && 0x050 ≤ w.off && w.off < 0x0C8)).map (·.obj)).eraseDups
  let rxs := touched 0x0E
  let txs := touched 0x0F
  let s := s.each rxs (fun s i => rxDisable i s)
  let s := s.each txs (fun s i => txDisable i s)
  let s := s.each ws (fun s w => s.pw w.pg w.obj w.off w.val)
  let s := s.each rxs (fun s i =>
    let s := s.onRx (fun r => { r with used := bs r.used i true })
    if s.rb STRX.CFG_EN i then rxEnable i (s.rxOwner i) (s.rw STRX.BUF_BASE i) s else s)
  let s := s.each txs (fun s i =>
    let s := s.onTx (fun t => { t with used := bs t.used i true })
    if s.rb STTX.CFG_EN i then txEnable i (s.txOwner i) s else s)
  let s := s.each (ws.filter (fun w => w.pg == 0x11 && w.off == 0x048)) (fun s w => inTrimFix w.obj s)
  let s := s.each (ws.filter (fun w => 0x40 ≤ w.pg && w.off == 0x404)) (fun s w => outTrimFix (64 * (w.pg - 0x40) + w.obj) s)
  let s := s.each x.nodes (fun s n => s.onScn (fun c => { c with
    banks := tset (fun _ => []) c.banks n.1 (ns (tget (fun _ => []) c.banks n.1) n.2.1 n.2.2) }))
  let s := s.onTim (fun t => { t with slotN := x.slots.foldl (fun a e => ns a e.1 e.2) t.slotN })
  let s := s.onScn (fun c => { c with fifo := c.fifo ++ x.edits.map (fun e => ⟨e.1, e.2.1, e.2.2.1, e.2.2.2⟩) })
  let s := match x.mode with | some m => s.onUma (fun u => { u with modeReq := some m }) | none => s
  armedFix s

/-- A member discards its state before it takes a full copy (R392). -/
def mirrorDiscard (s : State) : State :=
  let s := s.each s.rx.on (fun s i => rxDisable i s)
  let s := s.each s.tx.on (fun s i => txDisable i s)
  s.onScn (fun c => { c with banks := [], fifo := [] })

/-- A change counts in the digest (R393): its form is the firmware's. -/
def digestStep (s : State) : State :=
  let x := s.fresh
  x.2.onUma (fun u => { u with digest := x.1 % 2 ^ 32 })

/-- What a command does that waited whole for its boundary (R388), with the transport it answers on. -/
def laterBody : Instr → Option (Env × (Nat → State → Res))
  | .streamRxAdd e i ws => some (e, fun fn s => rxAddBody i ws fn s)
  | .streamRxSdp e i d p => some (e, fun fn s => rxSdpBody i d p fn s)
  | .streamRxModify e i ws => some (e, fun fn s => rxModifyBody i ws fn s)
  | .streamRxRemove e i => some (e, fun fn s => rxRemoveBody i fn s)
  | .streamTxAdd e i name ws => some (e, fun fn s => txAddBody i name ws fn s)
  | .streamTxModify e i ws => some (e, fun fn s => txModifyBody i ws fn s)
  | .streamTxRemove e i => some (e, fun fn s => txRemoveBody i fn s)
  | .turnDefine e td release scope ramp => some (e, fun fn s => turnDefineBody td release scope ramp fn s)
  | .testgenSet e l => some (e, fun fn s => testgenBody l fn s)
  | .inAssign e t x n share => some (e, fun fn s => inAssignBody t x n share fn s)
  | .srcGroupConfig e g bw range bind => some (e, fun fn s => srcGroupBody g bw range bind fn s)
  | .collCancel e slot => some (e, fun fn s => collCancelBody slot fn s)
  | _ => none
/-- A change that waited takes place: a command completes, and counts in the digest if it is carried out. -/
def laterDo (x : Later) (s : State) : State :=
  match x with
  | .cmd i =>
    match laterBody i with
    | some (e, body) =>
      match body (callerOf e) s with
      | .no st x => complete e st x [] true s
      | r => digestStep (finish {} e s r)
    | none => s
  | .define fn td => defineNow fn td s
  | .release fn td => releaseNow fn td s
  | .cancel fn slot w => slotCancelNow fn slot w s
/-- Changes at the boundary named for them (R388): the standby applies what was forwarded; both count them. -/
def changesTick (s : State) : State :=
  let due := s.uma.changes.filter (fun c => c.1 ≤ s.tick)
  let n := (s.uma.digDue.filter (· ≤ s.tick)).length
  let s := s.onUma (fun u => { u with changes := u.changes.filter (fun c => s.tick < c.1), digDue := u.digDue.filter (s.tick < ·) })
  let s := s.each due (fun s c => digestStep (installCopy c.2 s))
  let mine := s.uma.later.filter (fun c => c.1 ≤ s.tick)
  let s := if s.fwUp then (s.onUma (fun u => { u with later := u.later.filter (fun c => s.tick < c.1) })).each mine (fun s c => laterDo c.2 s) else s
  s.each (List.range n) (fun s _ => digestStep s)

/-- The copying member may enter MIRROR_STANDBY now (R387, R450). -/
def State.mirrorReady (s : State) : Bool :=
  s.uma.copying && (match s.uma.copyAt with | some k => decide (k ≤ s.tick) | none => false) &&
    s.rd REFS.STAT_STATE == rfLOCKED && (s.mode == mPREROLL || running s.mode || s.mode == mMIRROR)
/-- It does: the mode is the caller's to change. -/
def mirrorEnter (s : State) : State := mirrorSet 2 ((copySet false s).onUma (fun u => { u with copyAt := none, alone := [] }))
/-- Pairing ends on the member that stays active. -/
def activeTick (s : State) : State :=
  match s.uma.copyAt with
  | some k => if k ≤ s.tick ∧ s.uma.copying = false then mirrorSet 1 (s.onUma (fun u => { u with copyAt := none, alone := [] })) else s
  | none => s

/-- The hierarchy's part of a tick boundary, before the references are judged. -/
def umaTick (s : State) : State :=
  hierFix (activeTick (changesTick (tb2Tick (linksTick (joinTick s)))))

/-! ## The rows: links -/

/-- Blocks that a lane receives outside cells and marker sets: those of a link on its way to block lock, and the zero blocks before a
marker set. -/
def execBlockLock (l lane : Nat) (bs : List UBlock) (s : State) : Host.Outcome State Fault Refusal :=
  .next (awake s (if 5 < l ∨ 3 < lane ∨ s.linkState l = lkOFF then s else (laneTakes l lane bs s).2))

/-- A marker set whose four markers came within 64 blocks and name each lane once: the logical lanes of the physical lanes. -/
def markersOf (skew : Nat) (bs : List UBlock) : Option (List Nat) :=
  let m := bs.filterMap markerLane
  if m.length = 4 ∧ m.Nodup ∧ skew ≤ 64 * 66 then some m else none
/-- Deskew is judged by a marker set (R353, R354). -/
def markerJudge (l g skew : Nat) (bs : List UBlock) (s : State) : State :=
  if s.linkState l < lkDESKEW then s
  else match markersOf skew bs with
  | some m =>
    let map := m.getD 0 0 + 16 * m.getD 1 0 + 256 * m.getD 2 0 + 4096 * m.getD 3 0
    let s := (s.wr ULNK.LANE_SKEW_UI skew (i := l)).wr ULNK.PEER_LANE_MAP map (i := l)
    let s := s.onUma (fun u => { u with good := ns u.good l (ng u.good l + 1), bad := ns u.bad l 0 })
    if s.linkState l = lkDESKEW ∧ 4 ≤ ng s.uma.good l then linkTrain l g s else s
  | none =>
    if 1 ≤ ng s.uma.bad l then linkLock l true s
    else s.onUma (fun u => { u with good := ns u.good l 0, bad := ns u.bad l 1 })
/-- Each physical lane takes the blocks in its list. -/
def lanesTake (l : Nat) (bs : List (List UBlock)) (s : State) : List (List UBlock) × State :=
  ((List.range 4).zip bs).foldl (fun (a : List (List UBlock) × State) x =>
    let y := laneTakes l x.1 x.2 a.2
    (a.1 ++ [y.1], y.2)) ([], s)
def execMarkerSet (l off : Nat) (bs : List UBlock) (early late : Nat) (s : State) : Host.Outcome State Fault Refusal :=
  .next (awake s (if 5 < l ∨ s.linkState l = lkOFF ∨ bs.length ≠ 4 then s
  else
    let r := lanesTake l (bs.map (fun b => [b])) s
    markerJudge l (s.clockGrid off) (late - early) (r.1.flatMap id) r.2))

def execTrainTimeout (l off : Nat) (s : State) : Host.Outcome State Fault Refusal :=
  .next (awake s (if l < 6 ∧ s.linkState l = lkTRAIN ∧ ng s.uma.trainAt l + 120000000 < s.clockGrid off then linkLock l false s else s))

/-- 1024 cell times are 230,686.9 grid steps (R352, R354). -/
def execCellTimeout (l off : Nat) (s : State) : Host.Outcome State Fault Refusal :=
  .next (awake s (if l < 6 ∧ s.linkState l = lkUP ∧ ng s.uma.lastGood l + 230687 ≤ s.clockGrid off then linkLock l true s else s))

/-- The cells of a device that is part of a hierarchy, on a link in UP; a stand-alone device ignores them (R366). -/
def cellDeliver (l off hdr : Nat) (c : List Byte) (fw : FwMsg) (s : State) : State :=
  let type := fbits hdr 63 60
  let pl := (c.drop 8).take 240
  if type = cyTRAIN then trainCell l (s.clockGrid off) hdr s
  else if s.role = roNONE ∨ s.linkState l ≠ lkUP then s
  else if type = cySUM then sumCell l hdr pl (cellNum c 254 1) s
  else if type = cyTIME then timeCell l (s.grid off) hdr c s
  else if type = cyMGMT then
    let s := memberHear (fbits hdr 59 56) s
    if s.oddLink l then s else mgmtCell l (s.clockGrid off) hdr pl fw s
  else s

/-- A cell that passes the checks is delivered. -/
def cellTake (l off hdr : Nat) (c : List Byte) (fw : FwMsg) (s : State) : State :=
  cellDeliver l off hdr c fw (s.onUma (fun u => { u with lastGood := ns u.lastGood l (s.clockGrid off) }))
/-- A cell breaks a run of consecutive good TRAIN cells (R354, R355). -/
def trainBreak (l : Nat) (s : State) : State :=
  s.onUma (fun u => { u with rdyRx := ns u.rdyRx l 0, trainOk := ns u.trainOk l (if 8 ≤ ng u.trainOk l then ng u.trainOk l else 0) })
/-- The checks of R358 in order, then the handler of the cell's type. -/
def cellReceive (l off : Nat) (c : List Byte) (fw : FwMsg) (s : State) : State :=
  let hdr := cellNum c 0 8
  let type := fbits hdr 63 60
  let seq := cellNum c 252 2
  let s := s.cntw ULNK.CELLS_RX_COUNT (i := l)
  if cellCrcOk c = false then trainBreak l (linkCnt ULNK.CRC_ERR l (some 1) s)
  else if 3 < type ∧ type ≠ cyTRAIN then trainBreak l (linkCnt ULNK.HDR_ERR l none s)
  else
    match og s.uma.rxSeq l with
    | none => cellTake l off hdr c fw (s.onUma (fun u => { u with rxSeq := os u.rxSeq l (some seq) }))
    | some q =>
      let d := (seq + 65536 - q) % 65536
      if type = cyIDLE then cellTake l off hdr c fw s
      else if d = 0 ∨ 32768 ≤ d then trainBreak l (linkCnt ULNK.SEQ_ERR l none s)
      else cellTake l off hdr c fw ((s.cntr ULNK.SEQ_GAP (i := l) (n := d - 1)).onUma (fun u => { u with rxSeq := os u.rxSeq l (some seq) }))
/-- CELL_RECEIVE: the blocks of a cell slot on the four physical lanes; a link that is past DESKEW judges the cell in them. -/
def execCellReceive (l off : Nat) (bs : List (List UBlock)) (fw : FwMsg) (s : State) : Host.Outcome State Fault Refusal :=
  .next (awake s (if 5 < l ∨ s.linkState l = lkOFF ∨ bs.map List.length ≠ [8, 8, 8, 8] then s
  else
    let r := lanesTake l bs s
    if lkTRAIN ≤ r.2.linkState l then cellReceive l off (r.2.cellFrom l r.1) fw r.2 else r.2))

/-- The next MGMT cell of a link, or an idle cell. -/
def State.nextMgmt (s : State) (l : Nat) (idle : UCell) : UCell × Bool × State :=
  match tget (fun _ => []) s.uma.mgmtQ l with
  | c :: t => (c, true, s.onUma (fun u => { u with mgmtQ := tset (fun _ => []) u.mgmtQ l t }))
  | [] => (idle, false, s)
/-- The cell of the next slot, and the state without it (R363): PSUM cells start 64 ns after the strobe (R376). -/
def State.nextCell (s : State) (l off : Nat) : UCell × Bool × State :=
  let g := s.grid off
  let peer := s.rd ULNK.PEER_ID (i := l)
  let idle : UCell := ⟨s.cellHdr cyIDLE peer 0, [], 0⟩
  if s.linkState l = lkTRAIN then
    let rdy := decide (8 ≤ ng s.uma.trainOk l)
    let tsf := 2 ^ 40 + b2n rdy * 2 ^ 39 + s.rd ULNK.PEER_VALID (i := l) * 2 ^ 38 + l * 2 ^ 35 + s.rw ULNK.DIGEST_SRC
    (⟨s.cellHdr cyTRAIN peer tsf, [], 0⟩, true, if rdy then s.onUma (fun u => { u with rdyTx := ns u.rdyTx l (ng u.rdyTx l + 1) }) else s)
  else if s.linkState l ≠ lkUP then (idle, false, s)
  else
    match tget (fun _ => []) s.uma.sumQ l with
    | c :: t =>
      if fbits c.hdr 43 42 = 0 ∧ off < 768 then s.nextMgmt l idle
      else (c, true, s.onUma (fun u => { u with sumQ := tset (fun _ => []) u.sumQ l t }))
    | [] =>
      if bg s.uma.timeDue l then
        (⟨s.cellHdr cyTIME peer 0, s.timePayload l g, 0⟩, true, s.onUma (fun u => { u with timeDue := bs u.timeDue l false }))
      else s.nextMgmt l idle
def execCellSend (l off : Nat) (s : State) : Host.Outcome State Fault Refusal :=
  .next (awake s (if 5 < l ∨ s.linkState l = lkOFF then s
  else
    let x := s.nextCell l off
    let seq := if x.2.1 then (ng s.uma.txSeq l + 1) % 65536 else ng s.uma.txSeq l
    let s := x.2.2.cntw ULNK.CELLS_TX_COUNT (i := l)
    linkTry l (s.clockGrid off) (laneCell l (cellBytes x.1 seq) (s.onUma (fun u => { u with txSeq := ns u.txSeq l seq })))))

def execMgmtFragmentDiscard (src msg off : Nat) (s : State) : Host.Outcome State Fault Refusal :=
  .next (awake s (match s.uma.parts.find? (fun p => p.src == src && p.msg == msg) with
  | some p =>
    if p.at_ + 12000000 ≤ s.clockGrid off then mgmtDrop p.link (s.onUma (fun u => { u with parts := u.parts.erase p })) else s
  | none => s))

def execMemberTimeout (dev : Nat) (s : State) : Host.Outcome State Fault Refusal :=
  .next (awake s (let m := s.rd ULNK.HIER_STAT_MEMBERS
  if dev < 16 ∧ bit m dev ∧ ng s.uma.heard dev + 96000 ≤ s.clock then
    (s.wr ULNK.HIER_STAT_MEMBERS (m - 2 ^ dev)).raise 0x1A 13 fnsAll
  else s))

def execReservationExpire (td : Nat) (s : State) : Host.Outcome State Fault Refusal :=
  .next (awake s (match s.uma.resv.find? (fun r => r.1 == td) with
  | some r => if r.2.2 + 960 ≤ s.clock then s.onUma (fun u => { u with resv := u.resv.erase r }) else s
  | none => s))

def execTunnelTimeout (msg : Nat) (s : State) : Host.Outcome State Fault Refusal :=
  .next (awake s (match s.uma.tunnels.find? (fun t => t.msg == msg) with
  | some t =>
    if t.since + 9600 ≤ s.clock then
      complete t.env stBUSY 0 [] true (s.onUma (fun u => { u with tunnels := u.tunnels.erase t }))
    else s
  | none => s))

def execLinkEnable (fn l w : Nat) (s : State) : Host.Outcome State Fault Refusal :=
  .next (awake s (if isPF0 fn ∧ l < 6 then linkCtl l w s else s))
def execRetrain (fn l w : Nat) (s : State) : Host.Outcome State Fault Refusal :=
  .next (awake s (if isPF0 fn ∧ l < 6 then linkCtl l w s else s))

/-! ## The rows: the mirror pair's events -/

def execMirrorLost (s : State) : Host.Outcome State Fault Refusal :=
  .next (awake s (let m := s.rd ULNK.HIER_STAT_MIRROR
  if s.role = roMIRROR ∧ (m = 1 ∨ m = 2) ∧ s.uma.partnerAt + 96 ≤ s.clock then
    let s := ((mirrorSet 3 s).cntr ULNK.MIRROR_LOSSES).err 0x0402 0x1A 0 0 0 none (s.beyond kdMIRROR)
    if m = 2 ∧ s.rb ULNK.MIRROR_CTL_AUTO_TAKEOVER then s.onUma (fun u => { u with takeover := true }) else s
  else s))

/-- The pair's links carry cells. -/
def State.mirrorLink (s : State) : Bool := match s.pairWith 5 with | some p => !(s.linksOf p).isEmpty | none => false

def execMirrorCopyComplete (k : Nat) (x : MirrorCopy) (s : State) : Host.Outcome State Fault Refusal :=
  .next (awake s (if s.role = roMIRROR ∧ s.mirrorLink ∧ s.uma.copyAt = none then
    let s := if s.uma.copying then installCopy x (mirrorDiscard s) else s
    s.onUma (fun u => { u with copyAt := some (max k s.nextTick) })
  else s))

def execMirrorRepair (since : Nat) (s : State) : Host.Outcome State Fault Refusal :=
  .next (awake s (if s.role = roMIRROR ∧ s.rd ULNK.HIER_STAT_MIRROR = 3 ∧ s.mirrorLink ∧ s.uma.copying = false then
    let wins := running s.mode && (decide (s.uma.runSince < since) || (s.uma.runSince == since && s.rb ULNK.HIER_STAT_A_MEMBER))
    let s := s.onUma (fun u => { u with partnerAt := s.clock, takeover := false })
    if wins then s
    else
      let l := s.uma.alone
      let s := s.each l (fun s c => s.err 0x0404 0x1A 0 c 0)
      copySet true (s.onUma (fun u => { u with alone := [] }))
  else s))

def execMirrorForward (s : State) : Host.Outcome State Fault Refusal :=
  .next (awake s (if s.mirrorActive ∧ 0 < s.uma.fwd then
    fwTo (1 - s.devId) 0x0200 (s.onUma (fun u => { u with fwd := u.fwd - 1 }))
  else s))

/-! ## The rows: commands (R400) -/

def execUlinkConfig (e : Env) (ws : List RegW) (s : State) : Host.Outcome State Fault Refusal :=
  .next (runCmd { pf0 := true } e anyone (fun _ s =>
    if ws = [] ∨ cfgOk 0x1A 6 [0x040, 0x054] ws = false then no stBAD_FIELD
    else done (s.each ws (fun s w => if w.off = 0x040 then linkCtl w.inst w.val s else cfgWrite 0x1A [w] s))) s)

def ulinkWords (s : State) (l : Nat) : List Nat :=
  [0x044, 0x048, 0x04C, 0x050, 0x058].map (s.gw (0x1A + l) 0) ++ (List.range 12).map (fun j => s.gw (0x1A + l) 0 (0x100 + 4 * j))
def execUlinkStatus (e : Env) (ls : List Nat) (s : State) : Host.Outcome State Fault Refusal :=
  .next (runCmd { pf0 := true, read := true } e anyone (fun _ s =>
    if ls = [] ∨ 6 < ls.length ∨ ls.any (5 < ·) then no stBAD_FIELD else retL s 17 (ls.flatMap (ulinkWords s))) s)

def execUlinkRetrain (e : Env) (l : Nat) (s : State) : Host.Outcome State Fault Refusal :=
  .next (runCmd { pf0 := true } e anyone (fun _ s =>
    if 5 < l then no stBAD_FIELD
    else done (linkCtl l (s.rw ULNK.LINK_CTL (i := l) ||| 2 ^ 30) s)) s)

def execHierJoin (e : Env) (p : HierP) (s : State) : Host.Outcome State Fault Refusal :=
  .next (runCmd { pf0 := true, crit := true } e anyone (fun _ s =>
    if hierOk p = false then no stBAD_FIELD
    else done (flashWrote ((s.onUma (fun u => { u with join := some p })).onFlash (fun f => { f with hier := some p })))) s)

def execHierStatus (e : Env) (others : List Nat) (s : State) : Host.Outcome State Fault Refusal :=
  .next (runCmd { pf0 := true, read := true } e anyone (fun _ s =>
    let more := if s.role = roGRID ∧ s.devId = 0 then others.take 16 else []
    ret s ([0x200, 0x204, 0x208, 0x20C, 0x210, 0x214, 0x218, 0x21C, 0x220, 0x224, 0x228].map (s.gw 0x1A 0) ++ more)) s)

/-- R380 accepts the selector. -/
def uoutSelOk (w : Nat) : Bool := txSelOk w && selKind w != 1 && selKind w != 2
def execRelaySet (e : Env) (l : List (Nat × Nat)) (s : State) : Host.Outcome State Fault Refusal :=
  .next (runCmd { pf0 := true } e anyone (fun _ s =>
    if l = [] ∨ 1024 < l.length ∨ l.any (fun x => 4095 < x.1 || 65535 < x.2 || !uoutSelOk x.2) then no stBAD_FIELD
    else done (s.each l (fun s x => cmdHold 0x1A x.1 0x244 0xFFFF x.2 s.nextSample s))) s)

/-- GRID_TURN (R385): `replies` are the results of the other devices' reservations, as device, status and slot. A failure releases what was
reserved. -/
def gridTurn (mask td : Nat) (a : SlotArgs) (replies : List (Nat × Nat × Nat)) (s : State) : Res :=
  let me := s.devId
  let own := bit mask me
  let others := (List.range 16).filter (fun d => bit mask d && d != me)
  let tell := fun (s : State) => s.each others (fun s d => fwTo d 0x0100 s)
  let ask := tell s
  let bad := others.findSome? (fun d => match replies.find? (fun r => r.1 == d) with
    | some r => if r.2.1 = stOK then none else some r.2.1
    | none => some stBUSY)
  let mine := if own = false then none else if s.tdDefined td = false then some stBAD_FIELD else if s.freeSlotNo.isNone then some stBUSY else none
  match mine.or bad with
  | some st => .ok (tell ask) 0 [] 0 st
  | none =>
    let i := s.freeSlotNo.getD 0
    let s' := slotWrite i { a with action := 1, p0 := td, p1 := 0, period := 0, late := false } ask
    match (if a.tbsel = 6 then none else if own then armRefusal 0 i s' else if s.baseValid (slotBase a.tbsel) then none else some stBUSY) with
    | some st => .ok (tell ask) 0 [] 0 st
    | none =>
      let n := if a.tbsel = 6 then 32 * (s.accTick + 4) else s'.slotIndex i (s.ltcResolve s.ltcArmRate a.ns (s.grid 0))
      if n < s.tim.sample + 64 then .ok (tell ask) 0 [] 0 stBUSY
      else
        let b : SlotArgs := { action := 1, tbsel := 7, late := false, secHi := 0, secLo := n / 2 ^ 32, ns := n % 2 ^ 32, p0 := td,
                              p1 := 0, period := 0 }
        let s := tell ask
        let s := if own then armSlot 0 i (slotWrite i b s) else s
        let on := (List.range 16).filter (fun d => bit mask d)
        .ok s (n % 2 ^ 32) ([n % 2 ^ 32, n / 2 ^ 32] ++ on.flatMap (fun d =>
          [d, if d = me then i else ((replies.find? (fun r => r.1 == d)).map (fun r => r.2.2)).getD 0])) 0 stOK
def execGridTurn (e : Env) (mask td : Nat) (a : SlotArgs) (replies : List (Nat × Nat × Nat)) (s : State) : Host.Outcome State Fault Refusal :=
  .next (runCmd { pf0 := true, modes := armModes } e anyone (fun _ s =>
    if s.role ≠ roGRID ∨ s.devId ≠ 0 ∨ 63 < td ∨ mask = 0 ∨ 65535 < mask ∨ 7 < a.tbsel then no stBAD_FIELD
    else gridTurn mask td a replies s) s)

def execUmarunTunnel (e : Env) (dst : Nat) (bytes : List Byte) (s : State) : Host.Outcome State Fault Refusal :=
  .next (runCmd { pf0 := true, noTunnel := true } e anyone (fun _ s =>
    if 15 < dst ∨ bytes.length < 16 ∨ 61436 < bytes.length then no stBAD_FIELD
    else
      let s := mgmtTo dst 0x0002 bytes s
      let t : Tunnel := { msg := s.uma.msgId, env := e, since := s.clock }
      .later (s.onUma (fun u => { u with tunnels := u.tunnels ++ [t] }))) s)

def execMirrorTakeover (e : Env) (s : State) : Host.Outcome State Fault Refusal :=
  .next (runCmd { pf0 := true, crit := true, modes := (· == mMIRROR) } e anyone (fun _ s =>
    done (s.onUma (fun u => { u with takeover := true }))) s)

/-- MIRROR_STATUS; how far a copy has come is the firmware's to say. -/
def execMirrorStatus (e : Env) (s : State) : Host.Outcome State Fault Refusal :=
  .next (runCmd { pf0 := true, read := true } e anyone (fun _ s =>
    let x := s.fresh
    let s := if s.uma.copying then x.2 else s
    let theirs := match s.pairWith 5 with | some p => (tget (fun _ => (0, 0)) s.uma.peer (2 * p)).2 | none => 0
    ret s [s.rd ULNK.HIER_STAT_MIRROR, s.rd ULNK.HIER_STAT_DIVERGED, s.rw ULNK.MIRROR_LOSSES, s.uma.digest, theirs,
      if s.uma.copying then x.1 % 2 ^ 32 else 0]) s)

end Sys2Proof.Machine
end

