-- ==== Sys2Proof/Machine/Faults.lean ====
section
/-!
DEFINITION. Fault tolerance (R401–R443): memory words, residues and recomputes, patrol and the guard signature, redundancy
state, the management processor's restarts, the errata ring and its log, power loss.
-/
namespace Sys2Proof.Machine

/-! ## The guard signature (R412–R417) -/

def gdIDLE : Nat := 0
def gdPATROL : Nat := 1
def gdLOADING : Nat := 2
def gdREPLACING : Nat := 3
def gdOUT : Nat := 4
def sfNORMAL : Nat := 0
def sfSHADOWED : Nat := 1
def sfREPLACED : Nat := 2
def sfPASSED : Nat := 3
def sfFAILED : Nat := 4
def sfRETURNING : Nat := 5
def State.guard (s : State) : Nat := s.rd SIG.FLT_STAT_STATE (i := 64)
def State.guardOf (s : State) : Nat := s.rd SIG.FLT_STAT_TARGET (i := 64)
def State.sigFlt (s : State) (g : Nat) : Nat := s.rd SIG.FLT_STAT_STATE (i := g)
/-- Functions that may read a signature's page; the guard's is everyone's (R439). -/
def State.sigFns (s : State) (g : Nat) : List Nat := if g = 64 then fnsAll else fnsOwn (s.sigOwner g)
/-- The guard is in use, from the moment that a tip-in is decided, or out of service (R416). -/
def State.guardUsed (s : State) : Bool := s.flt.tip.isSome || s.guard == gdREPLACING || s.guard == gdOUT
/-- The signature hands its own sums on: no tip-in has replaced it. -/
def State.inService (s : State) (g : Nat) : Bool := decide (s.sigFlt g ≤ sfSHADOWED)
/-- A fault of a signature lies outside the model: the guard replaces another one or is out of service (R402, R416). -/
def State.sigBeyond (s : State) (g : Nat) : Bool := s.guard == gdOUT || ((s.guardUsed || s.beyond kdSIG) && s.guardOf != g)
/-- The signature whose banks a signature holds: the guard has copies of those of its target, from the load of R415 on. -/
def State.banksOf (s : State) (g : Nat) : Option Nat :=
  if g < 64 then some g else if s.guard = gdPATROL ∨ s.guard = gdREPLACING then some s.guardOf else none

/-- The guard takes a state with its target; patrol shows a dwell (R412). -/
def guardSet (st g : Nat) (s : State) : State :=
  let s := (s.wr SIG.FLT_STAT_STATE st (i := 64)).wr SIG.FLT_STAT_TARGET g (i := 64)
  (s.wb FALT.PATROL_STAT_ACTIVE (st == gdPATROL)).wr FALT.PATROL_STAT_TARGET g
def sigFltSet (g st : Nat) (s : State) : State := s.wr SIG.FLT_STAT_STATE st (i := g)
/-- A dwell ends: its signature is no longer shadowed. -/
def dwellEnd (s : State) : State :=
  if s.guard = gdPATROL ∧ s.flt.tip = none then guardSet gdIDLE (s.guardOf) (if s.sigFlt s.guardOf = sfSHADOWED then sigFltSet s.guardOf sfNORMAL s else s)
  else s

/-- TIP_IN: the guard's sums are handed on in place of a signature's, so that output index `idx` is the first from the guard (R414). -/
def tipIn (g idx : Nat) (s : State) : State :=
  (s.onFlt (fun f => { f with tip := some (g, idx, false) })).err 0x0203 (0x40 + g) 0 g (idx % 2 ^ 32)
/-- The guard leaves service (R413, R409): `why` is the record's detail. -/
def guardOut (why : Nat) (s : State) : State := (guardSet gdOUT s.guardOf (dwellEnd s)).err 0x0205 0x80 0 why 0
/-- A hand-over has come to its index: the guard replaces the signature, whose built-in test starts (R414), or the signature forms its outputs
again and the guard is free, unless it has a hard word (R409, R417). -/
def handOver (s : State) : State :=
  match s.flt.tip with
  | some (g, idx, back) =>
    if s.tim.sample < idx then s
    else
      let s := s.onFlt (fun f => { f with tip := none })
      if back then
        let s := s.wr64 SIG.RETURN_IDX_HI SIG.RETURN_IDX_LO idx (i := g)
        let s := (sigFltSet g sfNORMAL (guardSet gdIDLE g s)).onFlt (fun f => { f with nextT := g })
        let s := (s.raise (0x40 + g) 13 (s.sigFns g)).err 0x0208 (0x40 + g) 0 g (idx % 2 ^ 32)
        if s.flt.hardGuard = 0 then s else guardOut 2 s
      else
        let s := sigFltSet g sfREPLACED (guardSet gdREPLACING g s)
        let s := s.wr64 SIG.TIP_IDX_HI SIG.TIP_IDX_LO idx (i := g)
        (s.raise (0x40 + g) 10 (s.sigFns g)).raise 0x80 10 fnsAll
  | none => s

/-- The guard forms the vectors of the signature that it patrols: its load has ended (R412, R415). -/
def State.shadows (s : State) (g : Nat) : Bool := s.guard == gdPATROL && s.guardOf == g && decide (s.flt.dwellAt + 5 ≤ s.clock)
/-- A signature is condemned in the present sample period (R414–R416). -/
def condemn (g : Nat) (s : State) : State :=
  if 63 < g ∨ s.inService g = false ∨ s.guardUsed then s
  else if s.shadows g then tipIn g (s.tim.sample + 2) s
  else if s.guard = gdIDLE ∨ s.guard = gdPATROL then
    (guardSet gdLOADING g (dwellEnd s)).onFlt (fun f => { f with loadAt := s.clock })
  else s

/-- RESIDUE_ERROR and RECOMPUTE (R410, R411) in the sample period in progress: signature, lane (32 is the output chain), X-out,
whether the recompute fails too. The spec names no lanes for a recompute of the chain. -/
def residueErr (s : State) (x : Nat × Nat × Nat × Bool) : State :=
  let g := x.1
  let lane := x.2.1
  if 64 < g ∨ 32 < lane then s
  else
    let o := x.2.2.1
    let oom := s.sigBeyond g
    let inst := if lane = 32 then 0xFF else lane
    let s := (s.cntr SIG.RESIDUE_ERR (i := g)).raise (0x40 + g) 8 (s.sigFns g)
    let s := if lane < 32 then s.ww SIG.LANE_FAULT (s.rw SIG.LANE_FAULT (i := g) ||| 2 ^ lane) (i := g) else s
    let s := (s.err 0x0201 (0x40 + g) inst inst o none oom).cntr SIG.RECOMPUTES (i := g)
    let s := if x.2.2.2 = false then s
      else if lane < 32 then s.err 0x0202 (0x40 + g) inst ((lane + 16 + o % 2) % 32 * 256 + lane) o none true
      else
        let r := s.fresh
        r.2.err 0x0202 (0x40 + g) inst r.1 o none true
    condemn g s

/-- PATROL_MISM: the X-out in which the shadowed signature and the guard differ, and whether the guard lost (R413). -/
def patrolMism (s : State) (x : Nat × Bool) : State :=
  let g := sigOf x.1
  if s.shadows g = false ∨ s.flt.tip.isSome then s
  else
    let s := ((s.cntr SIG.PATROL_MISM (i := g)).cntr SIG.RECOMPUTES (i := g)).raise (0x40 + g) 11 (s.sigFns g)
    let s := s.err 0x0204 (0x40 + g) 0 (b2n x.2 * 2 ^ 31 + g) x.1
    if x.2 then guardOut 1 s else condemn g s

/-- The faults of the sample period in progress, found before its strobe ends it. -/
def sampleFaults (x : SampleIn) (s : State) : State :=
  let l := x.residue ++ s.flt.inject
  let s := s.onFlt (fun f => { f with inject := [] })
  if sumModes s.mode = false then s else (s.each l residueErr).each x.mismatch patrolMism
/-- X-outs whose recompute fails, on the signature that hands them on: they hand on the sum before (R411). -/
def State.lostSums (s : State) (x : SampleIn) : List Nat :=
  (x.residue ++ s.flt.inject).filterMap (fun r =>
    if r.2.2.2 && (if r.1 < 64 then s.inService r.1 else s.guard == gdREPLACING) then some r.2.2.1 else none)

/-- A dwell of 64 ticks has ended without a mismatch. -/
def dwellPass (s : State) : State :=
  if s.guard = gdPATROL ∧ s.flt.tip = none ∧ s.flt.dwellAt + 2048 ≤ s.clock then
    let g := s.guardOf
    let s := dwellEnd (s.cntr SIG.PATROL_PASSES (i := g))
    if g = 63 then s.cnt FALT.PATROL_STAT_ROUNDS else s
  else s
/-- Patrol at a tick boundary (R412): a dwell ends after its 64 ticks, or where patrol does, and the next one begins where the guard is free. -/
def patrolTick (s : State) : State :=
  let on := s.rb FALT.PATROL_CTL_EN && sumModes s.mode
  let s := dwellPass s
  if s.guard = gdPATROL ∧ on = false then dwellEnd s
  else if s.guard = gdIDLE ∧ on then
    let g := s.flt.nextT
    let s := s.onFlt (fun f => { f with nextT := (g + 1) % 64 })
    if s.sigFlt g = sfNORMAL then (guardSet gdPATROL g (sigFltSet g sfSHADOWED s)).onFlt (fun f => { f with dwellAt := s.clock }) else s
  else s

/-- PATROL_DWELL_END, where it is not left to the tick boundary. -/
def execPatrolDwellEnd (s : State) : Host.Outcome State Fault Refusal := .next (awake s (dwellPass s))

/-- GUARD_LOAD_END: the compare of R415 in the period after the copy, for a tip-in or for a return (R417). -/
def execGuardLoadEnd (ok : Bool) (s : State) : Host.Outcome State Fault Refusal :=
  .next (awake s (let g := s.guardOf
  let back := s.guard == gdREPLACING && s.sigFlt g == sfRETURNING
  if (s.guard ≠ gdLOADING ∧ back = false) ∨ s.flt.tip.isSome ∨ s.clock < s.flt.loadAt + 5 then s
  else if ok = false then s.onFlt (fun f => { f with loadAt := s.clock })
  else if back then s.onFlt (fun f => { f with tip := some (g, s.tim.sample + 2, true) })
  else tipIn g (s.tim.sample + 2) s))

def execBistEnd (sig : Nat) (ok : Bool) (s : State) : Host.Outcome State Fault Refusal :=
  .next (awake s (if 63 < sig ∨ s.sigFlt sig ≠ sfREPLACED then s
  else
    let s := (sigFltSet sig (if ok then sfPASSED else sfFAILED) s).raise (0x40 + sig) 12 (s.sigFns sig)
    s.err 0x0207 (0x40 + sig) 0 sig (b2n ok)))

/-! ## Memory (R405–R409) -/

def memCorr (c n : Nat) (s : State) : State := s.cntr ⟨0x20, 0x0C0 + 8 * c⟩ (n := n)
def memUncorr (c : Nat) (s : State) : State := s.cntr ⟨0x20, 0x0C4 + 8 * c⟩
def noXout : Nat := 0xFFFFFFFF
/-- MEM_LOST: a repair has failed, with which the fault lies outside the model (R404). -/
def memLost (pg c addr xo : Nat) (s : State) : State := (s.cntr FALT.MEM_LOST).err 0x0103 pg c addr xo none true
def memRebuilt (pg c addr xo : Nat) (s : State) : State := s.err 0x0102 pg c addr xo none (s.beyond kdWORD)

/-- What a restart takes from the management processor: UDP commands that wait get no reply, tunnelled ones complete with BUSY (R423). -/
def mgmtForget (s : State) : State :=
  let l := s.uma.tunWait
  let s := s.onUma (fun u => { u with
    tunWait := [], tunCpl := u.tunCpl ++ l.map (fun w => ⟨w.1, w.2.1, { tr := .tunnel w.1, fn := 0, tag := w.2.2, status := stBUSY, result := 0, resp := [] }⟩) })
  s.onCmd (fun c => { c with udpQ := 0, tunQ := 0 })
/-- The management processor restarts (R422), or is held after three restarts within 60 s (R424). -/
def mgmtRestart (cause : Nat) (s : State) : State :=
  let now := s.clock
  let l := s.flt.restarts
  let hold := l.length == 3 && decide (now < l.headD 0 + 5760000)
  if s.rb FALT.MGMT_STAT_HALT then s
  else if hold then
    (s.wb FALT.MGMT_STAT_HALT true).err 0x0602 0x20 0 (s.rd FALT.MGMT_STAT_RESTARTS) 0
  else
    let s := ((s.wb FALT.MGMT_STAT_RECOVERING true).wr FALT.MGMT_STAT_LAST_CAUSE cause).cnt FALT.MGMT_STAT_RESTARTS
    let s := s.onFlt (fun f => { f with restarts := (if f.restarts.length = 3 then f.restarts.drop 1 else f.restarts) ++ [now] })
    let s := mgmtForget s
    (icStopAll (s.raise 0x20 3 fnsAll)).err 0x0601 0x20 0 cause 0

/-- SRAM_UNCORRECTABLE: by the class of the memory; `ok` says that the repair succeeds (R406–R408), and of the management processor's memory
that the word is not one of those that keep the counters (R423). -/
def sramFault (at_ : MemAt) (addr : Nat) (ok : Bool) (s : State) : State :=
  match at_ with
  | .coeff g b node =>
    if 64 < g ∨ 1 < b then s
    else
      let word := node / 4
      let own := s.banksOf g
      let xo := match own with | some t => 64 * t + node / 4096 | none => noXout
      let pg := 0x40 + g
      let oom := s.beyond kdWORD || s.sigBeyond g
      let s := (memUncorr 0 s).cntr SIG.RECOMPUTES (i := g)
      if own.any (fun t => !s.mapBit t word) then
        ((s.cntr SIG.ECC_SUB (i := g)).raise pg 9 (s.sigFns g)).err 0x0101 pg 0 addr xo none oom
      else if ok then ((s.cntr SIG.ECC_REBUILD (i := g)).raise pg 9 (s.sigFns g)).err 0x0102 pg 0 addr xo none oom
      else
        let s := memLost pg 0 addr xo s
        match own with
        | some t =>
          if (if g < 64 then s.inService g else s.guard == gdREPLACING) then
            s.onFlt (fun f => { f with zero := f.zero ++ [(t, b, 4 * word)] })
          else s
        | none => s
  | .playout i c =>
    let s := memUncorr 1 s
    if ok then memRebuilt 0x20 1 addr noXout s
    else
      let k := i * 2 ^ 64 + c
      memLost 0x20 1 addr noXout (s.onRx (fun r => { r with buf := r.buf.filter (fun e => e.1 != k), first := os r.first k none }))
  | .delay o n =>
    let s := memUncorr 2 s
    if ok then memRebuilt 0x20 2 addr o s
    else memLost 0x20 2 addr o (s.onXp (fun q => { q with hist := is q.hist (histKey o n) 0 }))
  | .fifo pos =>
    let s := memUncorr 3 s
    if ok then memRebuilt 0x20 3 addr noXout s
    else
      let s := memLost 0x20 3 addr noXout s
      match s.scn.fifo[pos]? with
      | some e => editSync (editDrops e.fn 1 (s.onScn (fun c => { c with fifo := c.fifo.eraseIdx pos })))
      | none => s
  | .twice =>
    let s := memUncorr 4 s
    if ok then s else memLost 0x20 4 addr noXout s
  | .ingress port pos =>
    if 3 < port then s
    else
      let l := tget (fun _ => []) s.net.backlog port
      ((memUncorr 5 s).cntr NETP.RX_FCS_ERR (i := port)).onNet (fun n => { n with backlog := tset (fun _ => []) n.backlog port (l.eraseIdx pos) })
  | .txq port k pos =>
    let s := memUncorr 5 s
    let l := s.txList (16 * port + k)
    match l[pos]? with
    | some f =>
      let s := txSet (16 * port + k) (l.eraseIdx pos) s
      match f.kind with
      | .audio i leg _ => txCnt 0x110 leg (some 2) i s
      | _ => hostEnd port f false s
    | none => s
  | .mgmt =>
    let s := if ok then s else s.onFlt (fun f => { f with savedBad := true })
    mgmtRestart 2 ((memUncorr 6 s).err 0x0105 0x20 6 addr 0 none (s.beyond kdWORD))
def execSramUncorrectable (at_ : MemAt) (addr : Nat) (ok : Bool) (s : State) : Host.Outcome State Fault Refusal :=
  .next (awake s (sramFault at_ addr ok s))

/-- A hard word (R409): a coefficient word condemns its signature, one of the guard takes it out of service. -/
def hardWord (s : State) (h : Nat × Nat × Nat) : State :=
  let s := s.cnt FALT.MEM_HARD_COUNT
  if h.1 = 0 then
    let g := h.2.1
    if 64 < g then s
    else
      let s := (s.cnt SIG.HARD_WORDS_COUNT (i := g)).err 0x0104 (0x40 + g) 0 h.2.2 0 none (s.beyond kdWORD || s.sigBeyond g)
      if g = 64 then
        let s := s.onFlt (fun f => { f with hardGuard := f.hardGuard + 1 })
        if s.guardUsed then s else guardOut 2 s
      else condemn g s
  else (s.onFlt (fun f => { f with hardOther := f.hardOther + 1 })).err 0x0104 0x20 h.1 h.2.2 0 none (s.beyond kdWORD)

def execScrubPass (x : ScrubIn) (s : State) : Host.Outcome State Fault Refusal :=
  .next (awake s (let s := s.cntw FALT.SCRUB_STAT_PASSES
  let s := s.each (x.corr.filter (fun c => c.1 < 7)) (fun s c =>
    let s := memCorr c.1 c.2.2 s
    if c.1 = 0 ∧ c.2.1 ≤ 64 then s.cntr SIG.ECC_CORR (i := c.2.1) (n := c.2.2) else s)
  let s := s.each (x.hard.filter (fun h => h.1 < 7)) hardWord
  if x.late then (s.wb FALT.SCRUB_STAT_LATE true).raise 0x20 5 fnsAll else s))

/-! ## Redundancy state (R420, R421) -/

/-- FAULT_N is low while a CRITICAL record is not acknowledged, or under FN_REDUND while an enabled bit is set. -/
def faultPin (s : State) : State :=
  s.wb FALT.FALT_STAT_FAULT_N (s.rb FALT.FALT_STAT_CRIT_PEND ||
    (s.rb FALT.FALT_CTL_FN_REDUND && (s.rw FALT.REDUND &&& s.rw FALT.REDUND_MASK) % 4096 != 0))
/-- The bits of REDUND. -/
def State.redund (s : State) : List Bool :=
  [ s.guard == gdREPLACING, s.guard == gdOUT || s.flt.hardGuard != 0, !s.cpllLock (1 - s.rd CLKG.CPLL_STAT_ACTIVE),
    !s.rb CLKG.TPLL_STAT_A_LOCK, !s.rb CLKG.TPLL_STAT_B_LOCK, !(s.linkUp 0 || s.linkUp 1), !(s.linkUp 2 || s.linkUp 3),
    s.rb ULNK.HIER_STAT_PAIR_SINGLE, s.rd ULNK.HIER_STAT_MIRROR == 3, decide ((cands.filter s.qualified).length < 2),
    s.rb FALT.MGMT_STAT_HALT, s.flt.hardOther != 0 ]
/-- REDUND at a tick boundary. -/
def redundTick (s : State) : State :=
  let v := ((List.range 12).zip s.redund).foldl (fun a b => if b.2 then a + 2 ^ b.1 else a) 0
  let s := if s.rw FALT.REDUND = v then s else (s.ww FALT.REDUND v).raise 0x20 2 fnsAll
  faultPin s

/-- ERRATA (R429): raised at a tick boundary for the tick before it. -/
def errataTick (s : State) : State :=
  if s.flt.made then (s.onFlt (fun f => { f with made := false })).raise 0x20 0 fnsAll else s

/-! ## The ring, its log and the last words (R425–R437) -/

/-- The records held, by position (R431). -/
def State.ring (s : State) : List ErrRec := s.flt.pres ++ s.flt.recent
/-- The eight words of a record (R425). -/
def recWords (r : ErrRec) : List Nat :=
  [r.seq, r.code + r.inst % 256 * 2 ^ 16 + r.page % 256 * 2 ^ 24, r.sev + (b2n r.oom + 2 * b2n r.fn.isSome) * 2 ^ 8 + r.fn.getD 0 * 2 ^ 16,
    r.count, r.idx % 2 ^ 32, r.idx / 2 ^ 32 % 2 ^ 32, r.d0, r.d1]
def errBytes (r : ErrRec) : List Byte := (recWords r).flatMap (leBytes 4)
/-- Records that no append has taken yet. -/
def State.unflushed (s : State) : List ErrRec := s.ring.filter (fun r => s.flt.flushNext ≤ r.seq)

/-- Put records into the log, which holds 16,320 entries and gives up a sector of 64 at a time (R430, R588). -/
def logAppend (l : List ErrRec) (s : State) : State :=
  (if l = [] then s else flashWrote s).onFlash (fun f =>
    let next := match f.errLog.getLast? with | some e => e.2.1 + 1 | none => 0
    let log := f.errLog ++ ((List.range l.length).zip l).map (fun e => (e.2, next + e.1, f.bootSeq))
    { f with errLog := if 16320 < log.length then log.drop ((log.length - 16320 + 63) / 64 * 64) else log })

def execErrataFlush (s : State) : Host.Outcome State Fault Refusal :=
  .next (awake s (if s.cmdUp = false ∨ s.clock < s.flt.flushAt + 96000 then s
  else
    let s := s.onFlt (fun f => { f with flushAt := s.clock })
    match s.unflushed with
    | [] => s
    | l =>
      let last := l.foldl (fun a r => max a r.seq) 0
      (logAppend l (s.ww FALT.ERR_FLUSH_SEQ last)).onFlt (fun f => { f with flushNext := last + 1 })))

/-- Insert by severity, then by age: the most severe first, among equals the most recent (R434). -/
def sevInsert (r : ErrRec) : List ErrRec → List ErrRec
  | [] => [r]
  | x :: t => if x.sev < r.sev ∨ (x.sev = r.sev ∧ x.seq < r.seq) then r :: x :: t else x :: sevInsert r t
/-- The last-words record (R435). -/
def State.lastWords (s : State) : List Byte :=
  let rs := (s.unflushed.foldl (fun l r => sevInsert r l) []).take 6
  let recs := rs.flatMap errBytes
  let a := leBytes 4 0x4C575244 ++ leBytes 4 s.flash.bootSeq ++ leBytes 8 s.idx ++ leBytes 4 (s.rw FALT.ERR_SEQ) ++
    leBytes 4 (s.rw FALT.ERR_OVF) ++ leBytes 2 (s.rw FALT.REDUND) ++ leBytes 1 s.mode ++ leBytes 1 rs.length ++
    leBytes 4 (s.rw FALT.ERR_FLUSH_SEQ) ++ List.replicate 24 0
  let b := recs ++ List.replicate (192 - recs.length) 0
  a ++ leBytes 4 (crc32 (a ++ b)) ++ List.replicate 4 0xFF ++ b

def flashBits (s : State) : State := (s.wb LSIO.QSPI_STAT_BUSY s.ls.run.isSome).wb LSIO.QSPI_STAT_SUSPENDED (!s.ls.susp.isEmpty)
/-- The program or erase in progress is suspended for the last words (R434), and resumes if the supplies stay (R436). -/
def flashHalt (s : State) : State := flashBits (s.onLs (fun l => { l with run := none, susp := l.run.toList ++ l.susp }))
def flashGoOn (s : State) : State :=
  match s.ls.run, s.ls.susp with
  | none, p :: t => flashBits (s.onLs (fun l => { l with run := some p, susp := t }))
  | _, _ => s

/-- PFAIL_N falls (R432, R434): what holds no more operations of the flash or commands up is the last words' program. -/
def execPfailAssert (s : State) : Host.Outcome State Fault Refusal :=
  .next (if s.rb FALT.PFAIL_STAT_ASSERTED ∨ s.bankUp 0 = false then s
  else
    let r := s.lastWords
    (flashHalt (s.wb FALT.PFAIL_STAT_ASSERTED true)).onFlt (fun f => { f with lw := some r }))

/-- The page program ends; with no erased page there is none (R433, R434). Where PFAIL_N has risen again, the record is consumed (R436). -/
def execLastwordsDone (s : State) : Host.Outcome State Fault Refusal :=
  .next (match s.flt.lw with
  | some r =>
    if s.flash.lwFree = 0 then s
    else
      let s := s.onFlash (fun f => { f with lw := f.lw ++ [(r, !s.rb FALT.PFAIL_STAT_ASSERTED)], lwFree := f.lwFree - 1 })
      ((s.wb FALT.PFAIL_STAT_LW_DONE true).wr FALT.PFAIL_STAT_LW_FREE s.flash.lwFree).onFlt (fun f => { f with lw := none })
  | none => s)

/-- PFAIL_GLITCH: PFAIL_N rises with the supplies in range (R436). The record that was written is consumed; a sector is erased
when no page is. -/
def execPfailGlitch (us : Nat) (s : State) : Host.Outcome State Fault Refusal :=
  .next (if s.rb FALT.PFAIL_STAT_ASSERTED = false then s
  else
    let wrote := s.rb FALT.PFAIL_STAT_LW_DONE
    let s := (s.wb FALT.PFAIL_STAT_ASSERTED false).wb FALT.PFAIL_STAT_GLITCH true
    let s := ((flashGoOn s).raise 0x20 4 fnsAll).err 0x0701 0x20 0 us 0
    let s := if wrote ∧ s.flt.lw = none then s.onFlash (fun f => { f with lw := f.lw.dropLast ++ (f.lw.drop (f.lw.length - 1)).map (fun e => (e.1, true)) }) else s
    if s.flash.lwFree = 0 then
      ((s.onFlt (fun f => { f with lw := none })).onFlash (fun f => { f with lw := f.lw.drop 15, lwFree := 15 })).wr FALT.PFAIL_STAT_LW_FREE 15
    else s)

/-- LASTWORDS_RECOVER (R437), at boot: the newest record that was not consumed is logged and made readable. -/
def lwRecover (s : State) : State :=
  let s := s.wr FALT.PFAIL_STAT_LW_FREE s.flash.lwFree
  match s.flash.lw.reverse.find? (fun e => !e.2) with
  | none => s
  | some (r, _) =>
    let n := (r.getD 0x1B 0).toNat
    let word := fun (a : Nat) => leNat ((r.drop a).take 4)
    let recs := (List.range n).map (fun j =>
      let a := 0x40 + 32 * j
      ({ seq := word a, code := word (a + 4) % 65536, inst := word (a + 4) / 65536 % 256, page := word (a + 4) / 2 ^ 24
         sev := word (a + 8) % 8, oom := bit (word (a + 8)) 8, fn := if bit (word (a + 8)) 9 then some (fbits (word (a + 8)) 18 16) else none
         count := word (a + 12), idx := word (a + 16) + word (a + 20) * 2 ^ 32, d0 := word (a + 24), d1 := word (a + 28), tick := 0 } : ErrRec))
    let s := logAppend recs s
    let s := s.onFlash (fun f => { f with lw := f.lw.map (fun e => if e.1 = r then (e.1, true) else e) })
    (s.onFlt (fun f => { f with lwRead := r })).err 0x0702 0x20 0 (word 4) n

/-! ## Clocks and the management processor (R419, R422–R424) -/

/-- CORE_CYCLE_MONITOR: fewer than 15,000 core cycles in a sample period stop the talker from the next boundary. -/
def execCoreCycleMonitor (cycles : Nat) (s : State) : Host.Outcome State Fault Refusal :=
  .next (if cycles < 15000 then s.onFlt (fun f => { f with stop := true }) else s)

def execWatchdogFire (s : State) : Host.Outcome State Fault Refusal :=
  .next (awake s (if s.fwUp ∧ s.flt.kickAt + 96 * s.rd FALT.WDT_CTL_TIMEOUT ≤ s.clock then mgmtRestart 1 s else s))
def execMgmtException (sram : Bool) (s : State) : Host.Outcome State Fault Refusal :=
  .next (awake s (if s.mode < 3 then s else mgmtRestart (if sram then 2 else 3) s))
/-- Firmware runs again: it rejoins its multicast groups, and UDP commands that came during the restart get no reply (R422, R423). -/
def mgmtBegin (s : State) : State :=
  let s := if s.flt.savedBad then
      (s.each (List.range 16) (fun s t => s.wr64 SECU.SLOT_CTR_HI SECU.SLOT_CTR_LO (ng s.flash.savedS t + 1023) t)).onFlt (fun f => { f with savedBad := false })
    else s
  (s.onRx (fun r => { r with joined := [], members := [] })).onNet (fun n => { n with
    backlog := n.backlog.map (fun e => (e.1, e.2.map (fun w => { w with mute := true }))) })
/-- A restart completes: the watchdog's period begins anew. -/
def execMgmtRestartDone (s : State) : Host.Outcome State Fault Refusal :=
  .next (awake s (if s.rb FALT.MGMT_STAT_RECOVERING then
    mgmtBegin (icBegin ((s.wb FALT.MGMT_STAT_RECOVERING false).onFlt (fun f => { f with kickAt := s.clock })))
  else s))
/-- MGMT_RESTART: PF0 writes RESTART; a hold ends only so, over PCIe (R424). -/
def regMgmtRestart (fn w : Nat) (s : State) : State :=
  if isPF0 fn = false ∨ bit w 31 = false ∨ s.mode < 3 then s
  else if s.rb FALT.MGMT_STAT_HALT then
    if fn = 0 then mgmtRestart 4 ((s.wb FALT.MGMT_STAT_HALT false).onFlt (fun f => { f with restarts := [] })) else s
  else mgmtRestart 4 s
def execMgmtRestart (fn w : Nat) (s : State) : Host.Outcome State Fault Refusal := .next (awake s (regMgmtRestart fn w s))
def regKick (fn w : Nat) (s : State) : State :=
  if isPF0 fn = false then s
  else
    let s := s.writeRW FALT.WDT_CTL w
    if bit w 31 then s.onFlt (fun f => { f with kickAt := s.clock }) else s
def execKick (fn w : Nat) (s : State) : Host.Outcome State Fault Refusal := .next (awake s (regKick fn w s))
def regFaultAck (fn w : Nat) (s : State) : State :=
  if isPF0 fn = false then s
  else
    let s := s.writeRW FALT.FALT_CTL w
    faultPin (if bit w 0 then s.wb FALT.FALT_STAT_CRIT_PEND false else s)
def execFaultAck (fn w : Nat) (s : State) : Host.Outcome State Fault Refusal := .next (awake s (regFaultAck fn w s))

/-- ERR_REC0_READ: the selected record is latched for the reader, PF0 alone (R431). -/
def regErrRec0Read (fn : Nat) (s : State) : State :=
  if isPF0 fn = false then s
  else
    let ws := match s.ring[s.rd FALT.ERR_SEL_POS fn]? with | some r => recWords r | none => List.replicate 8 0
    s.each ((List.range 8).zip ws) (fun s x => s.pw 0x20 fn (0x084 + 4 * x.1) x.2)
def execErrRec0Read (fn : Nat) (s : State) : Host.Outcome State Fault Refusal := .next (awake s (regErrRec0Read fn s))

/-! ## The commands (R443) -/

def execFaultStatus (e : Env) (s : State) : Host.Outcome State Fault Refusal :=
  .next (runCmd { pf0 := true, read := true } e anyone (fun _ s =>
    ret s ([s.rw FALT.REDUND, s.rw FALT.FALT_STAT, s.rw FALT.PATROL_STAT, s.rw FALT.MGMT_STAT] ++
      (List.range 14).map (fun j => s.gw 0x20 0 (0x0C0 + 4 * j)) ++ [s.rw FALT.MEM_LOST, s.rw FALT.MEM_HARD] ++
      (List.range 65).map (fun g => s.rw SIG.FLT_STAT (i := g)))) s)
def execErrataRead (e : Env) (pos n : Nat) (s : State) : Host.Outcome State Fault Refusal :=
  .next (runCmd { pf0 := true, read := true } e anyone (fun _ s =>
    if 63 < pos ∨ n = 0 ∨ 64 < n then no stBAD_FIELD else retL s 8 (((s.ring.drop pos).take n).flatMap recWords)) s)
def execErrataClear (e : Env) (s : State) : Host.Outcome State Fault Refusal :=
  .next (runCmd { pf0 := true } e anyone (fun _ s =>
    if s.unflushed ≠ [] then no stBUSY
    else
      let s := s.onFlt (fun f => { f with pres := [], recent := [] })
      done ((s.ww FALT.ERR_STAT 0).ww FALT.ERR_OVF 0)) s)
/-- Log entries from a record SEQ on, as R588 lays them out. -/
def logWords (x : ErrRec × Nat × Nat) : List Nat :=
  let b := recWords x.1 ++ [x.2.1 % 2 ^ 32, x.2.2 % 2 ^ 32] ++ List.replicate 5 0
  b ++ [crc32 (b.flatMap (leBytes 4))]
def execErrataLogRead (e : Env) (seq n : Nat) (s : State) : Host.Outcome State Fault Refusal :=
  .next (runCmd { pf0 := true, read := true } e anyone (fun _ s =>
    if n = 0 ∨ 64 < n then no stBAD_FIELD
    else retL s 16 (((s.flash.errLog.filter (fun x => seq ≤ x.1.seq)).take n).flatMap logWords)) s)
def execLastwordsRead (e : Env) (s : State) : Host.Outcome State Fault Refusal :=
  .next (runCmd { pf0 := true, read := true } e anyone (fun _ s => ret s (leWords s.flt.lwRead)) s)
def execPatrolConfig (e : Env) (on : Bool) (s : State) : Host.Outcome State Fault Refusal :=
  .next (runCmd { pf0 := true } e anyone (fun _ s => done (s.wb FALT.PATROL_CTL_EN on)) s)
def execSigRelease (e : Env) (sig : Nat) (s : State) : Host.Outcome State Fault Refusal :=
  .next (runCmd { pf0 := true } e anyone (fun _ s =>
    if 63 < sig then no stBAD_FIELD
    else if s.sigFlt sig = sfREPLACED then no stBUSY
    else if s.sigFlt sig = sfFAILED then no stHW_FAULT
    else if s.sigFlt sig = sfPASSED then done ((sigFltSet sig sfRETURNING s).onFlt (fun f => { f with loadAt := s.clock }))
    else no stBAD_FIELD) s)
def execTipInForce (e : Env) (sig : Nat) (s : State) : Host.Outcome State Fault Refusal :=
  .next (runCmd { pf0 := true } e anyone (fun _ s =>
    if 63 < sig then no stBAD_FIELD
    else if s.guardUsed || s.guard == gdLOADING then no stBUSY
    else done (condemn sig s)) s)
/-- FAULT_INJECT: a residue error shows at the next boundary; a word's fault and a loss of lock act as the fault itself. -/
def execFaultInject (e : Env) (x : Inject) (s : State) : Host.Outcome State Fault Refusal :=
  .next (runCmd { pf0 := true, modes := (· == mTEST) } e anyone (fun _ s =>
    match x with
    | .residue g l o =>
      if 64 < g ∨ 31 < l ∨ 4095 < o then no stBAD_FIELD
      else done (s.onFlt (fun f => { f with inject := f.inject ++ [(g, l, o, false)] }))
    | .word a addr => done (sramFault a addr true s)
    | .cpll => done (cpllLoss s)) s)
def execWdtConfig (e : Env) (ms : Nat) (s : State) : Host.Outcome State Fault Refusal :=
  .next (runCmd { pf0 := true } e anyone (fun _ s =>
    if ms < 10 ∨ 1000 < ms then no stBAD_FIELD else done (s.wr FALT.WDT_CTL_TIMEOUT ms)) s)

end Sys2Proof.Machine
end

