-- ==== Sys2Proof/Machine/Flash.lean ====
section
/-!
DEFINITION. The flash: firmware images and their checks (R542, R543), what registers show of it, and the order in which
programs and erases run and end (R587, R589).
-/
namespace Sys2Proof.Machine

/-! ## Images -/

def hdrLE (h : List Byte) (ofs n : Nat) : Nat := leNat ((h.drop ofs).take n)
def hdrBE (h : List Byte) (ofs n : Nat) : Nat := beNat ((h.drop ofs).take n)
def imgKey (g : Image) : Nat := hdrLE g.hdr 0x006 2
def imgLen (g : Image) : Nat := hdrLE g.hdr 0x008 4
def imgVersion (g : Image) : Nat := hdrLE g.hdr 0x00C 4
def imgSvn (g : Image) : Nat := hdrLE g.hdr 0x010 4
def imgFlags (g : Image) : Nat := hdrLE g.hdr 0x014 4
/-- Bytes of a firmware slot (R587). -/
def slotBytes : Nat := 12 * 2 ^ 20

/-- The first check of R543 that an image fails, or 0. -/
def imageCheck (g : Image) (s : State) : Nat :=
  if hdrLE g.hdr 0 4 ≠ 0x58465749 ∨ hdrLE g.hdr 4 2 ≠ 1 ∨ imgLen g = 0 ∨ imgLen g % 4096 ≠ 0 ∨ slotBytes - 512 < imgLen g
      ∨ g.hdr.length ≠ 512 ∨ g.body.length ≠ imgLen g then 1
  else if 3 < imgKey g ∨ bit s.flash.revoked (imgKey g) ∨
      sha384 ((g.hdr.drop 0x070).take 97) ≠ tget (fun _ => []) s.flash.keyHash (imgKey g) then 2
  else if hdrLE g.hdr 0x070 1 ≠ 4 ∨ ecdsaVerify (hdrBE g.hdr 0x071 48) (hdrBE g.hdr 0x0A1 48) (hdrBE g.hdr 0x100 48)
      (hdrBE g.hdr 0x130 48) (beNat (sha384 (g.hdr.take 0x100))) = false then 3
  else if imgSvn g < s.flash.svnFloor ∨ 63 < imgSvn g then 4
  else if sha384 g.body ≠ (g.hdr.drop 0x040).take 48 then 5
  else 0

/-- The check of what a slot holds; an empty slot fails the first. -/
def slotCheck (sl : Nat) (s : State) : Nat := match og s.flash.image sl with | some g => imageCheck g s | none => 1

/-! ## What registers show of flash and of one-time-programmable memory -/

/-- A key slot's state (R551). -/
def keyShow (s : State) (t : Nat) : State :=
  let s := s.wb SECU.SLOT_STAT_ACTIVE (og s.flash.keys t).isSome t
  if t = 0 then s.wb SECU.SEC_STAT_PROVISIONED (og s.flash.keys 0).isSome else s
def bootShow (s : State) : State := (s.wb SECU.FW_STAT_TRIAL s.flash.trial).wr SECU.FW_STAT_TRIES (min 3 s.flash.tries)
def otpShow (s : State) : State := (s.wr SECU.SEC_STAT_SVN_FLOOR s.flash.svnFloor).wr SECU.SEC_STAT_KEY_REVOKED s.flash.revoked
/-- The version of the image in a slot, 0 if it is invalid. -/
def slotVersion (sl : Nat) (s : State) : Nat :=
  match og s.flash.image sl with
  | some g => if imageCheck g s = 0 then imgVersion g else 0
  | none => 0
def versionShow (s : State) : State := (s.ww SECU.FW_VER_A (slotVersion 0 s)).ww SECU.FW_VER_B (slotVersion 1 s)
def keySlots : List Nat := List.range 16
/-- Everything, as firmware starts: also the counters, at S + 1023 (R533). -/
def flashShow (s : State) : State :=
  let s := versionShow (otpShow (bootShow (s.each keySlots keyShow)))
  let s := s.each keySlots (fun s t => s.wr64 SECU.SLOT_CTR_HI SECU.SLOT_CTR_LO (ng s.flash.savedS t + 1023) t)
  let s := s.wr LSIO.QSPI_STAT_SIZE_LOG2 (20 + Nat.log2 s.flash.sizeMiB)
  storeFix (s.wr FALT.PFAIL_STAT_LW_FREE s.flash.lwFree)

/-- The other slot than the one that booted. -/
def State.stagingSlot (s : State) : Nat := 1 - s.rd SECU.FW_STAT_ACTIVE_SLOT

/-- Everything that a factory erase takes (R549). -/
def eraseAll (s : State) : State :=
  s.onFlash (fun f => { f with
    keys := [], config := none, bootScenes := [], addrs := [], scenes := [], errLog := [], lw := [], lwFree := 30, erasePend := false })

/-! ## Operations -/

/-- FW_STAT.STAGE: 0 IDLE, 1 OPEN, 2 STAGED, 3 INVALID (R552). -/
def stageSet (v : Nat) (s : State) : State :=
  if s.rd SECU.FW_STAT_STAGE = v then s else (s.wr SECU.FW_STAT_STAGE v).raise 0x23 2 fnsPF0

/-- A slot has been loaded or retired (R552). -/
def keyChange (t : Nat) (s : State) : State := (keyShow s t).raise 0x23 1 (if 1 ≤ t ∧ t ≤ 7 then fnsOwn t else fnsPF0)
def keyPut (t key : Nat) (s : State) : State :=
  let s := s.onFlash (fun f => { f with keys := os f.keys t (some key) })
  keyChange t (s.cnt SECU.SLOT_STAT_LOADS t)
def keyRetire (t : Nat) (s : State) : State :=
  if (og s.flash.keys t).isNone then s else keyChange t (s.onFlash (fun f => { f with keys := os f.keys t none }))

/-- What an operation has done when it ends. -/
def flashEffect (w : FlashWhat) (s : State) : State :=
  match w with
  | .config c l => s.onFlash (fun f => { f with config := some c, bootScenes := l })
  | .keyLoad t k => keyPut t k s
  | .keyRetire t => keyRetire t s
  | .activate =>
    let sl := s.stagingSlot
    bootShow ((s.onFlash (fun f => { f with bootSlot := sl, trial := true, tries := 0 })).onMd (fun m => { m with restart := true }))
  | .erase => (eraseAll s).onMd (fun m => { m with restart := true })
  | .stage ofs d =>
    s.onFlash (fun f => { f with staged := ((List.range d.length).zip d).foldl (fun t e => tset (fun _ => 0xFF) t (ofs + e.1) e.2) f.staged })

/-- What a failed operation leaves: what waited for it does so no longer. -/
def flashFail (w : FlashWhat) (s : State) : State :=
  match w with
  | .activate => (s.wb SECU.SEC_STAT_ACT_PEND false).onCmd (fun c => { c with restartPend := false })
  | .erase =>
    ((s.wb SECU.SEC_STAT_ERASE_PEND false).onCmd (fun c => { c with restartPend := false })).onFlash (fun f => { f with erasePend := false })
  | _ => s

/-- ERASES and PROGRAMS: a staging write programs its pages; the spec does not say how many sectors and pages the others take. -/
def flashCount (w : FlashWhat) (s : State) : State :=
  match w with
  | .stage _ d => s.cntr LSIO.PROGRAMS (n := cdiv d.length 256)
  | _ => flashWrote s

/-- The first waiting operation of the highest place. -/
def firstOp : List FlashOp → Option FlashOp
  | [] => none
  | x :: t => match firstOp t with | some y => if y.prio < x.prio then some y else some x | none => some x
/-- With none in progress, the waiting operation of the highest place starts, unless a suspended one stands before it (R589), and none while PFAIL_N is asserted (R432). -/
def flashNext (s : State) : State :=
  if s.ls.run.isSome ∨ s.rb FALT.PFAIL_STAT_ASSERTED then flashBits s
  else match firstOp s.ls.wait with
    | none => flashBits s
    | some x =>
      let ahead := match s.ls.susp.head? with | some p => decide (p.prio ≤ x.prio) | none => false
      if ahead then flashBits s
      else flashBits (s.onLs (fun l => { l with run := some x, wait := l.wait.erase x }))
def flashAdd (prio : Nat) (e : Env) (fn : Nat) (w : FlashWhat) (s : State) : State :=
  flashNext (s.onLs (fun l => { l with wait := l.wait ++ [⟨prio, e, fn, w⟩] }))
def State.flashOps (s : State) : List FlashOp := s.ls.run.toList ++ s.ls.susp ++ s.ls.wait

/-! ## The rows -/

/-- FLASH_SUSPEND: an operation of a higher place suspends the one in progress. -/
def execFlashSuspend (s : State) : Host.Outcome State Fault Refusal :=
  .next (awake s (match s.ls.run, firstOp s.ls.wait with
  | some r, some x =>
    if x.prio < r.prio ∧ s.rb FALT.PFAIL_STAT_ASSERTED = false then flashBits (s.onLs (fun l => { l with run := some x, wait := l.wait.erase x, susp := r :: l.susp })) else s
  | _, _ => s))

/-- FLASH_RESUME: the operation suspended last resumes once the higher one has finished. -/
def execFlashResume (s : State) : Host.Outcome State Fault Refusal :=
  .next (awake s (if s.rb FALT.PFAIL_STAT_ASSERTED then s else match s.ls.run, s.ls.susp with
  | none, p :: t => flashNext (flashBits (s.onLs (fun l => { l with run := some p, susp := t })))
  | _, _ => s))

/-- FLASH_OPERATION_DONE: the operation in progress ends and completes its command; a failure leaves what was there before. -/
def execFlashOperationDone (ok : Bool) (s : State) : Host.Outcome State Fault Refusal :=
  .next (awake s (match s.ls.run with
  | none => s
  | some op =>
    let s := s.onLs (fun l => { l with run := none })
    let s := flashCount op.what s
    let s := if ok then complete op.env stOK 0 [] true (flashEffect op.what s)
      else complete op.env stHW_FAULT 0 [] true (flashFail op.what (s.wb LSIO.QSPI_STAT_ERR true))
    flashNext s))

/-- Sizes of the regions of R587, in KiB, in address order. -/
def flashRegions (s : State) : List Nat := [4, 4, 8, 8, 40, 64, 128, 768, 1024, 2048, 12288, 12288, s.storeKiB]
/-- Free bytes of a region: of the last-words area, the log, the erased regions and the scene store; the spec does not say how
much the records of the others take. -/
def regionFree (i : Nat) (s : State) : Nat × State :=
  match i with
  | 3 => (256 * s.flash.lwFree, s)
  | 4 => (40 * 1024, s)
  | 8 => (2 ^ 20 - 64 * s.flash.errLog.length, s)
  | 9 => (2 ^ 21, s)
  | 12 => (1024 * s.rd SCNE.STORE_STAT_FREE, s)
  | _ => s.fresh
def execFlashInfo (e : Env) (sfdp : List Nat) (s : State) : Host.Outcome State Fault Refusal :=
  .next (runCmd { pf0 := true, read := true } e anyone (fun _ s =>
    let r : List Nat × State := ((List.range 13).zip (flashRegions s)).foldl (fun (a : List Nat × State) (x : Nat × Nat) =>
      let f := regionFree x.1 a.2
      (a.1 ++ [1024 * x.2, f.1], f.2)) ([], s)
    ret r.2 ([s.rw LSIO.QSPI_STAT, s.rw LSIO.QSPI_ID, s.rw LSIO.QSPI_CLK, s.rw LSIO.ERASES, s.rw LSIO.PROGRAMS] ++ sfdp ++ r.1)) s)

end Sys2Proof.Machine
end

