-- ==== Sys2Proof/Machine/Modes.lean ====
section
/-!
DEFINITION. Operating modes and start-up (R444–R473): what each entry does, what is judged at a tick boundary, reset, boot,
STANDBY and the startup configuration.
-/
namespace Sys2Proof.Machine

/-! ## Reset and boot (R456–R459) -/

/-- The always-on fields of BOOT_STAT (R470, R471). -/
def alwaysOn : Nat := fmask 29 29 + fmask 25 24 + fmask 21 20 + fmask 15 0

/-- The device as reset leaves it: flash, one-time-programmable memory, the always-on fields and what the monitors last read stay
(R457, R470, R625); commands that come from outside still wait. -/
def resetDevice (s : State) : State :=
  let r : State := { State.reset with
    flash := s.flash, free := s.free, pending := s.pending, ls := { LsS.reset with grade := s.ls.grade } }
  let r := r.ww MODE.BOOT_STAT (s.rw MODE.BOOT_STAT &&& alwaysOn)
  let r := (r.ww PWR.RAIL_STAT (s.rw PWR.RAIL_STAT)).ww PWR.BANK_STAT (s.rw PWR.BANK_STAT)
  let r := r.each (List.range 8) (fun r i => r.ww PWR.TEMP (s.rw PWR.TEMP i) i)
  let r := r.wb FALT.PFAIL_STAT_ASSERTED (s.rb FALT.PFAIL_STAT_ASSERTED)
  if s.ls.grade then r.wr LSIO.THERM_CTL_WARN 0x0640 else r

/-- BOOT begins: STATE holds its reset values (R471), and the boot is counted. -/
def bootBegin (s : State) : State := s.cntw MODE.BOOT_STAT_BOOTS

/-- RESET_N low, or a supply out of range (R453); `ao` says that VDD_AO was lost, and the always-on fields with it. -/
def resetAssert (ao : Bool) (s : State) : State :=
  let r := (resetDevice s).wr MODE.STATE_CODE mRESET
  if ao then r.ww MODE.BOOT_STAT 0 else r.wb MODE.BOOT_STAT_WAKE false

/-- The device restarts as a pulse of RESET_N would restart it (R545, R549). -/
def restartDevice (s : State) : State := bootBegin ((resetDevice s).wb MODE.BOOT_STAT_WAKE false)

/-- The boot ROM boots a slot, with the drive of the flash bank set for its read clock (R458, R607). -/
def bootPick (sl : Nat) (fallback : Bool) (s : State) : State :=
  let s := ((s.ww PWR.IO_CFG 0x22 2).wr MODE.BOOT_STAT_SLOT sl).wb MODE.BOOT_STAT_FALLBACK fallback
  let s := (s.wb MODE.BOOT_STAT_ROM_ERR false).wr SECU.FW_STAT_ACTIVE_SLOT sl
  bootShow (s.onMd (fun m => { m with picked := some sl }))

/-- Steps 1 to 5 of R458. -/
def bootSelect (s : State) : State :=
  let p := s.flash.bootSlot % 2
  let s := if s.flash.trial then s.onFlash (fun f => { f with tries := f.tries + 1 }) else s
  let ovr := s.flash.trial && decide (3 < s.flash.tries)
  let s := if ovr then s.onFlash (fun f => { f with trial := false }) else s
  let p := if ovr then 1 - p else p
  if slotCheck p s = 0 then bootPick p ovr s
  else if slotCheck (1 - p) s = 0 then bootPick (1 - p) true s
  else (s.wb MODE.BOOT_STAT_ROM_ERR true).wb FALT.FALT_STAT_FAULT_N true

/-! ## The startup configuration (R460) -/

/-- The bits of a register that the startup configuration holds: the fields that are written of the registers that R389 and R460
name, with the owner, the buffer and the allocation of what they configure. -/
def cfgMask (pg off : Nat) : Nat :=
  let rw := match accRow pg off with
    | some r => r.flds.foldl (fun m f => if f.acc = .rw ∨ f.acc = .rwb then m ||| fmask f.hi f.lo else m) 0
    | none => 0
  match pageClass pg with
  | 0x00 => if off = 0x048 ∨ off = 0x04C then rw else 0
  | 0x03 => rw
  | 0x04 => if off = 0x0A0 ∨ off = 0x0BC then rw else 0
  | 0x0A => if 0x040 ≤ off then rw else 0
  | 0x0E => if off = 0x0B4 ∨ off = 0x0B8 then 0xFFFFFFFF else if rxEntry.contains off then rw else 0
  | 0x0F => if off = 0x0A0 then 0xFFFFFFFF else if txEntry.contains off ∨ off = 0x144 then rw else 0
  | 0x10 => if off = 0x044 ∨ off = 0x104 then rw else 0
  | 0x11 => if off = 0x044 ∨ off = 0x048 ∨ off = 0x05C ∨ 0x100 ≤ off then rw else 0
  | 0x12 => if off = 0x050 then fmask 31 31 + fmask 26 24 else if off = 0x044 ∨ off = 0x048 ∨ off = 0x04C then rw else 0
  | 0x13 => if 0x080 ≤ off ∧ off < 0x100 then rw else 0
  | 0x14 => if off = 0x108 ∨ off = 0x10C then rw else 0
  | 0x18 => if off = 0x908 ∨ off = 0x90C then rw else 0
  | 0x40 => if off = 0x900 then 0xFFFFFFFF else if off = 0x400 ∨ off = 0x404 ∨ off = 0x408 then rw else 0
  | _ => 0

def keyPg (k : Nat) : Nat := k / 2 ^ 32
def keyObj (k : Nat) : Nat := k / 2 ^ 12 % 2 ^ 20
def keyOff (k : Nat) : Nat := k % 2 ^ 12

/-- The words to be stored: those of objects, not of the staging places of streams. -/
def State.configWords (s : State) : Tbl Word :=
  (s.regs.filter (fun e => cfgMask (keyPg e.1) (keyOff e.1) != 0 &&
    !((keyPg e.1 == 0x0E || keyPg e.1 == 0x0F) && decide (1024 ≤ keyObj e.1) && keyOff e.1 != 0x144))).map (fun e =>
    let m := BitVec.ofNat 32 (cfgMask (keyPg e.1) (keyOff e.1))
    (e.1, (e.2 &&& m) ||| (resetWord e.1 &&& ~~~m)))

/-- Put a stored configuration into force, on registers at their reset values. -/
def restoreConfig (c : Tbl Word) (s : State) : State :=
  let s := s.each c (fun s e => s.pw (keyPg e.1) (keyObj e.1) (keyOff e.1) e.2.toNat)
  let objs := fun (pg : Nat) => ((c.filter (fun e => keyPg e.1 == pg && decide (keyObj e.1 < 1024) && keyOff e.1 != 0x144)).map (fun e => keyObj e.1)).eraseDups
  let s := s.each (objs 0x0E) (fun s i =>
    let s := s.onRx (fun r => { r with used := bs r.used i true })
    if s.rb STRX.CFG_EN i then rxEnable i (s.rxOwner i) (s.rw STRX.BUF_BASE i) s else s)
  let s := s.each (objs 0x0F) (fun s i =>
    let s := s.onTx (fun t => { t with used := bs t.used i true })
    if s.rb STTX.CFG_EN i then txEnable i (s.txOwner i) s else s)
  let s := s.each (c.filter (fun e => keyPg e.1 == 0x11 && keyOff e.1 == 0x048)) (fun s e => inTrimFix (keyObj e.1) s)
  s.each (c.filter (fun e => decide (0x40 ≤ keyPg e.1))) (fun s e =>
    if keyOff e.1 = 0x404 then outTrimFix (64 * (keyPg e.1 - 0x40) + keyObj e.1) s
    else if keyOff e.1 = 0x900 then s.wr XPNT.POOL_FREE_BLOCKS (s.rd XPNT.POOL_FREE_BLOCKS + 16 - s.alloc (64 * (keyPg e.1 - 0x40) + keyObj e.1))
    else s)

/-- A boot scene goes into verso and is turned with no ramp (R248, R264, R460). -/
def bootScene (s : State) (x : Nat × Nat) : State :=
  match s.flash.scenes.find? (fun c => c.id == x.2 && c.sig == x.1) with
  | none => (s.onScn (fun c => { c with banks := tset (fun _ => []) (tset (fun _ => []) c.banks (2 * x.1) []) (2 * x.1 + 1) [] })).wb MODE.COND_SCENE_MISS true
  | some c =>
    let g := x.1
    let s := sigRaise g 21 (staleSet g [] (setBank g 0 c.codes (setBank g 1 c.codes s)))
    let s := s.wr SIG.BANK_STAT_RECTO_BANK (1 - s.recto g) (i := g)
    let s := (s.cntw SIG.GEN_GEN (i := g)).cntw SIG.TURNS_COUNT (i := g)
    let s := (s.wr64 SIG.TURN_IDX_HI SIG.TURN_IDX_LO 0 (i := g)).wr SIG.TURN_RAMP_RAMP 0 (i := g)
    sigRaise g 18 (sigRaise g 17 (sigRaise g 16 s))

/-! ## Entering a mode (R455) -/

/-- Media time is stepped, and the boundary at which indices are published is fixed (R84). -/
def stepMedia (s : State) : State :=
  let e : Int := match s.selected with
    | some c => if s.carriesPhase c then s.candE c / uGrid else 0
    | none => 0
  let stepped := s.selected.any s.carriesPhase
  let n1 := if stepped then (cdivI (125000 * (s.tim.sample : Int) + e + 62500) 125000).toNat else s.tim.sample + 1
  let d := e * uGrid
  let s := s.onRef (fun r => { r with e := [3, 4, 6].foldl (fun t c => is t c (ig t c - d)) r.e, winOpen := false, winDone := none })
  let g := s.grid 0
  let old := ig s.tim.ofs 3
  let s := s.onTim (fun t => { t with
    ofs := [0, 1, 2, 3].foldl (fun o b => is o b (ig o b - d)) t.ofs, ltcOfs := [(g, old)], pubAt := some (32 * cdiv n1 32) })
  aoShift d (s.onMd (fun m => { m with stepTo := some (n1 - 1) }))

/-- Indices are published from this tick boundary on, and every enabled receive stream enters WAIT (R84, R455). -/
def publish (s : State) : State :=
  match s.tim.pubAt with
  | some n =>
    if s.tim.published ∨ s.tim.sample < n then s
    else
      let s := s.onTim (fun t => { t with published := true })
      if s.mode = mPREROLL then s.each s.rx.on (fun s i => rxSet i stWAIT (rxForget i s)) else s
  | none => s

/-- The clock outputs, LTC_OUT and the transmitters that are not OFF are aligned at the tick boundary after it. -/
def publishAlign (s : State) : State :=
  if s.tim.published ∧ s.tim.pubAt.isSome then
    let m := 7 + (List.range 8).foldl (fun a t => if s.atState t = atOFF then a else a + 2 ^ (4 + t)) 0
    (s.onTim (fun t => { t with pubAt := none })).onRef (fun r => { r with alignPend := r.alignPend ||| m })
  else s

/-- What STANDBY keeps powered: the port at 10GBASE-R without FEC with its module, and the wake detector with its patterns, pattern 0 built
from the port's addresses (R133, R467). -/
def wakePattern0 (p : Nat) (s : State) : List (Nat × Nat) :=
  let mac := natBE 6 (s.portMac p)
  let ip := natBE 4 (match og s.flash.addrs p with | some a => a.ip4 | none => 0)
  let put := fun (l : List (Nat × Nat)) (at_ : Nat) (b : List Byte) =>
    ((List.range b.length).zip b).foldl (fun l e => l.set (at_ + e.1) (e.2.toNat, 255)) l
  put (put (put (put (put (List.replicate 128 (0, 0)) 0 mac) 12 [0x08, 0x00]) 23 [17]) 30 ip) 36 (natBE 2 50717)

def enterStandby (s : State) : State :=
  let p := s.rd MODE.STANDBY_CTL_PORT
  let s := match s.unflushed with | [] => s | l => logAppend l s
  let r := (resetDevice s).wr MODE.STATE_CODE mSTANDBY
  let r := r.wb FALT.FALT_STAT_FAULT_N (s.rb FALT.FALT_STAT_FAULT_N)
  let r := ((r.wr NETP.PORT_CTL_RATE 3 (i := p)).wr NETP.PORT_CTL_FEC 0 (i := p)).ww NETP.MAC_CFG (s.rw NETP.MAC_CFG (i := p)) (i := p)
  let r := (r.ww NETP.QSFP_CTL (s.rw NETP.QSFP_CTL (i := p)) (i := p)).ww NETP.QSFP_STAT (s.rw NETP.QSFP_STAT (i := p)) (i := p)
  let w := tset (fun _ => []) s.net.wake 0 (wakePattern0 p s)
  (r.onNet (fun n => { n with wake := w, lpOff := bs n.lpOff p (bg s.net.lpOff p) })).onMd (fun m => { m with wakePort := p, wakeEn := s.rd NETP.WAKE_CTL_PAT_EN (i := p) })

/-- Take a mode into force at the boundary of the present sample. -/
def enterMode (m : Nat) (freerun : Bool) (s : State) : State :=
  if m = mSTANDBY then enterStandby s
  else
    let old := s.mode
    let s := ((s.wr MODE.STATE_PREV old).wr MODE.STATE_CODE m).cnt MODE.STATE_CHANGES
    let s := (s.wr64 MODE.ENTRY_IDX_HI MODE.ENTRY_IDX_LO s.idx).ww MODE.MODE_AGE 0
    let s := s.raise 0x00 0 fnsAll
    let s := s.onMd (fun d => { d with
      ticks := 0, steady := 0, endDue := none, groupDue := none, fadeAt := if m = mSAFE then d.fadeAt else none
      safeAt := if m = mSAFE ∧ talks old then some s.tim.sample else none, startup := d.startup && m == mCONFIG })
    let s := if m = mCONFIG then
        let s := turnsConfig (cancelArmed (fun s i => s.slotState i == slARMED || s.slotState i == slFROZEN) s)
        (s.onTim (fun t => { t with published := false, pubAt := none })).each ports gclSusp
      else s
    let s := if m = mPREROLL ∨ (m = mTEST ∧ old = mCONFIG) then stepMedia s else s
    let s := if m = mPREROLL then
        (s.wb MODE.COND_FREERUN_START freerun).onMd (fun d => { d with noSel := freerun && s.selected.isNone })
      else s
    if running m ∧ running old = false then
      (s.onUma (fun u => { u with runSince := s.tim.sample })).onFlt (fun f => { f with stop := false })
    else s

/-! ## What is judged at a tick boundary -/

/-- MODE_SET: the targets that the table of R453 allows from a mode. -/
def setAllowed (m target : Nat) : Bool :=
  if target = mACQUIRE then m == mCONFIG
  else if target = mPREROLL then m == mACQUIRE
  else if target = mCONFIG then m == mACQUIRE || m == mPREROLL || m == mTEST || m == mSAFE
  else if target = mSAFE then m == mCONFIG || m == mACQUIRE || m == mPREROLL || running m || m == mMIRROR || m == mTEST
  else if target = mTEST ∨ target = mSTANDBY then m == mCONFIG || m == mSAFE
  else false
/-- The modes that the thermal limit leads to SAFE. -/
def thermFrom (m : Nat) : Bool := setAllowed m mSAFE

/-- The mode of the running group (R448, R449). -/
def State.groupMode (s : State) : Nat :=
  let st := s.rd REFS.STAT_STATE
  if (s.rw FALT.REDUND &&& s.rw FALT.REDUND_MASK) % 4096 != 0 then mDEGRADED
  else if st = rfHOLDOVER then mHOLDOVER
  else if st = rfACQUIRE ∧ running s.mode then s.mode
  else if s.mode = mHOLDOVER ∧ st ≠ rfLOCKED then mHOLDOVER
  else mRUN

def pendClear (s : State) : State :=
  ((s.wb MODE.STATE_PEND_VALID false).wr MODE.STATE_PEND 0).onMd (fun m => { m with req := none })

/-- The first event of R454 that acts at this boundary. A MODE_SET that the table no longer allows is dropped. -/
def modeAct (s : State) : State :=
  let therm := s.md.thermDue && thermFrom s.mode
  let s := s.onMd (fun m => { m with thermDue := false })
  if therm then
    let s := enterMode mSAFE false s
    ((s.wb MODE.COND_THERM true).raise 0x00 3 fnsAll).onMd (fun m => { m with cool := 0 })
  else
    let set := match s.md.req with
      | some (t, k) => if k ≤ s.tick then some t else s.uma.modeReq
      | none => s.uma.modeReq
    let s := s.onUma (fun u => { u with modeReq := none })
    let s := if set.isSome then pendClear s else s
    let take := set.filter (setAllowed s.mode)
    match take with
    | some t => enterMode t false s
    | none =>
      let s := if set = some mSAFE ∧ s.mode ≠ mSAFE then s.onMd (fun m => { m with fadeAt := none }) else s
      if s.uma.takeover then
        let s := s.onUma (fun u => { u with takeover := false })
        if s.mode = mMIRROR then
          let s := if s.rd ULNK.HIER_STAT_MIRROR = 3 then s else mirrorSet 1 s
          enterMode s.groupMode false s
        else s
      else if s.mirrorReady then mirrorEnter (enterMode mMIRROR false s)
      else match s.md.endDue with
        | some (t, f) => enterMode (if t = mRUN then s.groupMode else t) f s
        | none => match s.md.groupDue with
          | some t => if running s.mode then enterMode t false s else s
          | none => s

/-- ACQ_TIMEOUT seconds have passed in ACQUIRE, and the device may go on without a reference (R461). -/
def acqExpired (s : State) : State :=
  if s.mode = mACQUIRE ∧ s.rb MODE.MODE_CTL_FREERUN_OK ∧ s.rd MODE.MODE_CTL_ACQ_TIMEOUT ≤ s.rw MODE.MODE_AGE ∧ s.md.endDue = none then
    s.onMd (fun m => { m with endDue := some (mPREROLL, true) })
  else s
/-- Preroll ends (R463). -/
def State.prerollOver (s : State) : Bool :=
  let n := s.rd MODE.PREROLL_CTL_PRE_MIN
  s.mode == mPREROLL && decide (n < s.md.ticks) &&
    (s.md.noSel || (!s.rb REFS.STAT_SLEW && decide (n ≤ s.md.steady)))
def prerollEnds (s : State) : State := if s.prerollOver then s.onMd (fun m => { m with endDue := some (mRUN, false) }) else s
/-- The thermal limit (R466): SAFE at the next tick boundary, with the fade of R464 over the tick before it. -/
def thermReached (s : State) : State :=
  if 32 ≤ s.md.hot ∧ thermFrom s.mode ∧ s.md.thermDue = false then
    s.onMd (fun m => { m with thermDue := true, fadeAt := if carries s.mode then some (32 * s.tick) else none })
  else s

/-- What the tick shows for the next one: the end of ACQUIRE or of preroll, the thermal limit, and the mode of the running group (R448,
R453). -/
def modeObserve (s : State) : State :=
  let s := thermReached (prerollEnds (acqExpired s))
  let s := if s.mode = mACQUIRE ∧ s.rd REFS.STAT_STATE = rfLOCKED then s.onMd (fun m => { m with endDue := some (mPREROLL, false) }) else s
  s.onMd (fun m => { m with groupDue := if running s.mode && s.groupMode != s.mode then some s.groupMode else none })

/-- SENSOR_READ: the supplies (R600), the junction sensors (R616), the thermal counts (R466) and THERM_N (R594). -/
def sensorTick (x : TickIn) (s : State) : State :=
  let s := s.wr PWR.RAIL_STAT_OK x.rails
  let s := s.each x.temps (fun s p =>
    if 7 < p.1 then s
    else match p.2 with
      | some t => (s.wb PWR.TEMP_VALID true p.1).wrS PWR.TEMP_TJ t p.1
      | none => (s.wb PWR.TEMP_VALID false p.1).raise 0x01 2 fnsAll)
  let l := ((List.range 8).filter (fun i => s.rb PWR.TEMP_VALID i)).map (fun i => s.rdS PWR.TEMP_TJ i)
  let tj := match l with | [] => s.rdS MODE.THERM_STAT_TJ | a :: t => t.foldl max a
  let s := s.wrS MODE.THERM_STAT_TJ tj
  let s := s.onMd (fun m => { m with hot := if s.shutdown ≤ tj then m.hot + 1 else 0, cool := if tj < s.shutdown - 160 then m.cool + 1 else 0 })
  let s := if 3000 ≤ s.md.cool then s.wb MODE.COND_THERM false else s
  let w := s.rdS LSIO.THERM_CTL_WARN
  let was := bit (s.rd LSIO.PIN_STAT_LOW) 1
  let low := decide (w ≤ tj) || (was && decide (w - 80 ≤ tj))
  if low = was then s
  else
    let s := s.wr LSIO.PIN_STAT_LOW (if low then s.rd LSIO.PIN_STAT_LOW ||| 2 else s.rd LSIO.PIN_STAT_LOW - 2)
    if low then s.raise 0x24 5 fnsAll else s

/-- The bits of COND that follow the state, and their interrupt (R471, R472). -/
def condTick (s : State) : State :=
  let st := s.rd REFS.STAT_STATE
  let s := s.wb MODE.COND_REDUND_ANY ((s.rw FALT.REDUND &&& s.rw FALT.REDUND_MASK) % 4096 != 0)
  condNote ((s.wb MODE.COND_REF_ACQ (s.ref.everLocked && st == rfACQUIRE)).wb MODE.COND_REF_HOLD (st == rfHOLDOVER))

/-- MODE_CHANGE and what goes with it at a tick boundary, after the references and the redundancy have been judged. -/
def modeTick (x : TickIn) (s : State) : State :=
  let s := modeAct (publishAlign s)
  if s.mode < 3 then s
  else
    let near := match s.selected with
      | some c => decide ((s.candE c).natAbs < s.rd MODE.PREROLL_CTL_PRE_WIN * uNs)
      | none => false
    let s := s.onMd (fun m => { m with ticks := m.ticks + 1, steady := if near then m.steady + 1 else 0 })
    let s := s.ww MODE.MODE_AGE (min 0xFFFFFFFF ((s.md.ticks - 1) / 3000))
    condTick (modeObserve (sensorTick x s))

/-! ## The rows -/

def execResetAssert (ao : Bool) (s : State) : Host.Outcome State Fault Refusal := .next (resetAssert ao s)
def execResetRelease (s : State) : Host.Outcome State Fault Refusal :=
  .next (if s.mode = mRESET then bootBegin (s.wr MODE.STATE_CODE mBOOT) else s)
/-- A frame's first 128 bytes match a wake pattern that is loaded: in every byte of the pattern the bits that its mask has. A byte that the
frame does not have matches only where the mask is 0. -/
def wakeHit (pat : List (Nat × Nat)) (l : List Byte) : Bool :=
  !pat.isEmpty && ((List.range pat.length).zip pat).all (fun e =>
    e.2.2 == 0 || (decide (e.1 < l.length) && byteAt l e.1 &&& e.2.2 == e.2.1 &&& e.2.2))
/-- The lowest enabled pattern that a frame at the wake port meets: one with a good FCS and a length from 64 bytes to MAX_LEN (R133). -/
def State.wakePat (s : State) (l : List Byte) : Option Nat :=
  let n := l.length
  if n < 64 ∨ s.rd NETP.MAC_CFG_MAX_LEN (i := s.md.wakePort) < n ∨ leNat (l.drop (n - 4)) ≠ fcs (l.take (n - 4)) then none
  else (List.range 4).find? (fun p => bit s.md.wakeEn p && wakeHit (tget (fun _ => []) s.net.wake p) l)
/-- WAKE_MATCH (R468): a frame that matches an enabled pattern of the wake port starts BOOT. -/
def execWakeMatch (port : Nat) (frame : List Byte) (s : State) : Host.Outcome State Fault Refusal :=
  .next (match if s.mode = mSTANDBY ∧ port = s.md.wakePort then s.wakePat frame else none with
  | none => s
  | some pat =>
    let r := bootBegin (resetDevice s)
    let r := ((r.wb MODE.BOOT_STAT_WAKE true).wr MODE.BOOT_STAT_WAKE_PORT port).wr MODE.BOOT_STAT_WAKE_PAT pat
    r.wb MODE.COND_RESUMED true)
/-- The boot ROM locks both core PLLs and TPLL-A before it selects an image (R458); the core PLL that PREF names is active (R104). -/
def bootLocks (s : State) : State :=
  let s := (cpllSet 1 true (cpllSet 0 true s)).wr CLKG.CPLL_STAT_ACTIVE (s.rd CLKG.CPLL_CTL_PREF)
  (s.wb CLKG.TPLL_STAT_A_LOCK true).wb CLKG.TPLL_STAT_TS_SRC false
def execBootImageSelect (s : State) : Host.Outcome State Fault Refusal :=
  .next (if s.mode = mBOOT ∧ s.md.picked = none then bootSelect (bootLocks s) else s)

/-- FIRMWARE_RUNNING (R459): an interrupted factory erase is completed first (R549); `ms` is the time since RESET_N rose. -/
def execFirmwareRunning (ms : Nat) (s : State) : Host.Outcome State Fault Refusal :=
  .next (if s.mode ≠ mBOOT ∨ s.md.picked = none ∨ s.rb FALT.PFAIL_STAT_ASSERTED then s
  else
    let s := if s.flash.erasePend then eraseAll s else s
    let s := s.onFlash (fun f => { f with bootSeq := f.bootSeq + 1 })
    let s := match s.flash.config with
      | some c => restoreConfig c s
      | none => s.wb MODE.COND_CFG_DEFAULT true
    let s := flashShow s
    let s := s.onUma (fun u => { u with join := s.flash.hier })
    let s := lwRecover (s.onFlt (fun f => { f with kickAt := s.clock }))
    let s := icBegin s
    let s := (s.wr MODE.BOOT_MS_MS (min 0xFFFF ms)).onMd (fun m => { m with startup := true, cond := s.rw MODE.COND })
    let s := if s.rb MODE.BOOT_STAT_FALLBACK then s.raise 0x00 2 fnsAll else s
    enterMode mCONFIG false s)
/-- BOOT_SCENES_DONE (R460): start-up ends; AUTO_START leads to ACQUIRE. -/
def execBootScenesDone (s : State) : Host.Outcome State Fault Refusal :=
  .next (if s.mode ≠ mCONFIG ∨ s.md.startup = false then s
  else
    let s := (condNote (s.each s.flash.bootScenes bootScene)).onMd (fun m => { m with startup := false })
    if s.rb MODE.MODE_CTL_AUTO_START then s.onMd (fun m => { m with endDue := some (mACQUIRE, false) }) else s)
/-- ACQ_TIMEOUT (R461). -/
def execAcqTimeout (s : State) : Host.Outcome State Fault Refusal :=
  .next (acqExpired s)
/-- PREROLL_END (R463). -/
def execPrerollEnd (s : State) : Host.Outcome State Fault Refusal :=
  .next (prerollEnds s)
/-- THERMAL_LIMIT (R466). -/
def execThermalLimit (s : State) : Host.Outcome State Fault Refusal :=
  .next (thermReached s)

/-- MODE_SET (R451, R452). The conditions on the present mode that need more than the table of R453: the thermal limit (R466),
unlocked debug access (R548) and a mirror standby. -/
def modeDenied (target : Nat) (s : State) : Bool :=
  !setAllowed s.mode target || s.rd ULNK.HIER_STAT_MIRROR == 2 ||
    (s.mode == mSAFE && target != mSTANDBY && s.rb MODE.COND_THERM) ||
    (s.rb SECU.SEC_STAT_DBG_UNLOCKED && target != mSAFE && target != mTEST && target != mSTANDBY)
/-- STANDBY waits for what is being written to flash (R467). -/
def State.flashSaving (s : State) : Bool :=
  s.scn.save.isSome || s.rd SECU.FW_STAT_STAGE == 1 ||
    s.flashOps.any (fun o => match o.what with | .config _ _ => true | .stage _ _ => true | _ => false)
def modeSet (target : Nat) (s : State) : Res :=
  if 15 < target then no stBAD_FIELD
  else if modeDenied target s then no stMODE_DENY
  else if s.md.req.isSome ∨ (target = mSTANDBY ∧ s.flashSaving) then no stBUSY
  else
    let k := s.accTick + 2
    let at_ := if s.tim.published && !atOnce s.mode then 32 * k else 0
    let s := (s.wb MODE.STATE_PEND_VALID true).wr MODE.STATE_PEND target
    let s := (s.raise 0x00 1 fnsAll).onMd (fun m => { m with
      req := some (target, k), fadeAt := if target = mSAFE ∧ carries s.mode then some (32 * (k - 1)) else m.fadeAt })
    retIdx (mirrorNote 0x0102 s) at_
def execModeSet (e : Env) (target : Nat) (s : State) : Host.Outcome State Fault Refusal :=
  .next (runCmd { crit := target == mSAFE || target == mTEST || target == mSTANDBY, block := true, pf0 := true, code := 0x0102 }
    e anyone (fun _ s => modeSet target s) s)

/-- DEVICE_IDENTITY: the ordering code (0 C, 1 E), silicon revision B, the serial number, the versions of slots A and B. -/
def execDeviceIdentity (e : Env) (s : State) : Host.Outcome State Fault Refusal :=
  .next (runCmd { read := true } e anyone (fun _ s =>
    ret s [b2n s.ls.grade, 0x02, s.flash.serial % 2 ^ 32, s.flash.serial / 2 ^ 32 % 2 ^ 32, s.rw SECU.FW_VER_A, s.rw SECU.FW_VER_B]) s)
def execModeStatus (e : Env) (s : State) : Host.Outcome State Fault Refusal :=
  .next (runCmd { read := true } e anyone (fun _ s =>
    ret s [s.rw MODE.STATE, s.rw MODE.COND, s.rw MODE.ENTRY_IDX_HI, s.rw MODE.ENTRY_IDX_LO, s.rw MODE.MODE_AGE, s.rw MODE.BOOT_STAT,
      s.rw MODE.BOOT_MS, s.rw MODE.THERM_STAT]) s)
def execModeConfig (e : Env) (ws : List RegW) (s : State) : Host.Outcome State Fault Refusal :=
  .next (runCmd { pf0 := true } e anyone (fun _ s =>
    if cfgOk 0x00 1 [0x048, 0x04C, 0x064] ws then done (cfgWrite 0x00 ws s) else no stBAD_FIELD) s)
/-- CONFIG_SAVE: the record is what stands when the command is accepted; it completes once the record is journaled. -/
def execConfigSave (e : Env) (scenes : List (Nat × Nat)) (s : State) : Host.Outcome State Fault Refusal :=
  .next (runCmd { pf0 := true } e anyone (fun fn s =>
    if scenes.any (fun x => 63 < x.1 || 65535 < x.2) ∨ 64 < scenes.length then no stBAD_FIELD
    else .later (flashAdd 6 e fn (.config s.configWords scenes) s)) s)
/-- CONFIG_READ: a page holds 256 entries: page, object, offset and word of a register; boot scenes have page 0xFFFF. -/
def execConfigRead (e : Env) (page : Nat) (s : State) : Host.Outcome State Fault Refusal :=
  .next (runCmd { pf0 := true, read := true } e anyone (fun _ s =>
    let l : List (List Nat) := (s.flash.config.getD []).map (fun (x : Nat × Word) => [keyPg x.1, keyObj x.1, keyOff x.1, x.2.toNat]) ++
      s.flash.bootScenes.map (fun (x : Nat × Nat) => [0xFFFF, x.1, x.2, 0])
    retL s 4 ((l.drop (256 * page)).take 256).flatten) s)

end Sys2Proof.Machine
end

