-- ==== Sys2Proof/Machine/Host.lean ====
section
/-!
DEFINITION. The host interface and tenants (R474–R524, R630): MSI-X messages, command rings, buffers and their misuse, host
DMA rings, receive filters, quotas, reclaims, function resets and the life of a tenant.
-/
namespace Sys2Proof.Machine

/-! ## Modes (R445, R447) -/

/-- Host audio DMA runs, and runs with zeros, in a mode. -/
def hostAudio (m : Nat) : Bool := (5 ≤ m && m ≤ 9) || m == mTEST
def hostZero (m : Nat) : Bool := m == mPREROLL

/-! ## The endpoint (R474, R475) -/

/-- The device ID and the class code of a function. -/
def pcieIdent (fn : Nat) : Nat × Nat := (if fn = 0 then 0x4096 else 0x4097, 0x040100)
/-- The bytes of a function's BARs, and whether they are prefetchable. -/
def pcieBar (bar : Nat) : Option (Nat × Bool) :=
  match bar with
  | 0 => some (16 * 2 ^ 20, false)
  | 2 => some (64 * 2 ^ 20, true)
  | 4 => some (16 * 2 ^ 10, false)
  | _ => none

/-! ## DMA rings -/

def kCAP : Nat := 0
def kPB : Nat := 1
def kTX : Nat := 2
def kRX : Nat := 3
def State.ringKind (s : State) (k : Nat) : Nat := s.rd HOST.RING_CTL_KIND k
def State.ringState (s : State) (k : Nat) : Nat := s.rd HOST.RING_STAT_STATE k
def rsOFF : Nat := 0
def rsWAIT : Nat := 1
def rsRUN : Nat := 2
def rsERROR : Nat := 3
def State.ringRuns (s : State) (k : Nat) : Bool := s.ringState k == rsWAIT || s.ringState k == rsRUN
def isAudio (kind : Nat) : Bool := kind ≤ 1
/-- Every DMA ring: its function and number. -/
def allRings : List (Nat × Nat) := (List.range 8).flatMap (fun fn => (List.range 16).map (fun q => (fn, q)))
/-- The object of a mask word. -/
def mobj (fn q g : Nat) : Nat := rk fn (q + 16 * g)
def maskOff (hi : Bool) : Nat := if hi then 0x604 else 0x600
def State.startTick (s : State) (k : Nat) : Nat := s.rd64 HOST.START_TICK_HI HOST.START_TICK_LO k
def State.descList (s : State) (k : Nat) : List Desc := tget (fun _ => []) s.host.descs k
def descSet (k : Nat) (l : List Desc) (s : State) : State := s.onHost (fun h => { h with descs := tset (fun _ => []) h.descs k l })

/-- A word of a ring's mask as it stands for the block of tick T (R500). -/
def State.maskAt (s : State) (fn q g : Nat) (hi : Bool) (t : Nat) : Nat :=
  (s.held.filter (fun h => h.pg == 0x21 && h.obj == mobj fn q g && h.off == maskOff hi && !h.kept && decide (h.due ≤ 32 * t))).foldl
    (fun w h => (w &&& (0xFFFFFFFF ^^^ h.mask)) ||| h.val) (s.gw 0x21 (mobj fn q g) (maskOff hi))
/-- Who owns a channel of a ring's kind. -/
def State.chOwner (s : State) (pb : Bool) (c : Nat) : Nat := if pb then s.pbOwner c else s.capOwner c
def wordBits (w base : Nat) : List Nat := ((List.range 32).filter (fun b => w.testBit b)).map (base + ·)
/-- The channels of a ring's block of tick T, in the order of R500. -/
def State.ringChans (s : State) (fn q t : Nat) : List Nat :=
  let pb := s.ringKind (rk fn q) == kPB
  ((List.range 8).flatMap (fun g => wordBits (s.maskAt fn q g false t) (64 * g) ++ wordBits (s.maskAt fn q g true t) (64 * g + 32))).filter
    (fun c => s.chOwner pb c == fn)
/-- Bytes of a sample under a packing (R500). -/
def packBytes (pack : Nat) : Nat := if pack = 0 then 3 else 4
def State.blockBytes (s : State) (fn q t : Nat) : Nat :=
  32 * (s.ringChans fn q t).length * packBytes (s.rd HOST.RING_CTL_PACK (rk fn q))
/-- BLOCK_BYTES follows the masks in force. -/
def blockFix (fn q : Nat) (s : State) : State := s.wr HOST.BLOCK_BYTES_N (s.blockBytes fn q s.tick) (rk fn q)

/-- The byte order of one packed word (R502). -/
def packWord (pack : Nat) (v : Int) : List Byte :=
  match pack with
  | 0 => leBytes 3 (uns 24 v)
  | 1 => leBytes 4 (uns 32 v)
  | 2 => leBytes 4 (uns 32 (v * 256))
  | _ => leBytes 4 (uns 32 v)
/-- The playback value of a word (R502). -/
def unpackWord (pack x : Nat) : Int :=
  match pack with
  | 0 => sgn 24 (x % 2 ^ 24) * 256
  | 1 => sgn 24 (x % 2 ^ 24) * 256
  | 2 => sgn 24 (x / 256 % 2 ^ 24) * 256
  | _ => sgn 32 (x % 2 ^ 32)

/-! ## Buffers (R490–R494) -/

def handleIdx (h : Nat) : Nat := h % 65536
def handleGen (h : Nat) : Nat := h / 65536
/-- The buffer of a handle that is valid for a function (R491). -/
def State.bufOf (s : State) (fn h : Nat) : Option Buf :=
  match og s.host.bufs (handleIdx h) with
  | some b => if b.owner = fn ∧ ng s.host.bufGen (handleIdx h) = handleGen h then some b else none
  | none => none
def bufPut (i : Nat) (b : Option Buf) (s : State) : State := s.onHost (fun h => { h with bufs := os h.bufs i b })
/-- Who holds a buffer changes; a buffer that is gone stays gone. -/
def bufHold (fn h : Nat) (held : Bool) (s : State) : State :=
  match s.bufOf fn h with
  | some b => bufPut (handleIdx h) (some { b with held := held }) s
  | none => s
/-- BUF_USED follows the table. -/
def bufUsed (fn : Nat) (s : State) : State :=
  let n := (s.host.bufs.filter (fun e => match e.2 with | some b => b.owner == fn | none => false)).length
  s.wr TNT.BUF_USED_N n (i := fn)
/-- The misuse of R492 that returning or releasing a handle would be. -/
def State.misuse (s : State) (fn h : Nat) : Option Nat :=
  match s.bufOf fn h with
  | none => some stBUF_FOREIGN
  | some b => if b.held then some stBUF_OWNED else none
/-- A refusal of R492: counted, logged (R493) and raised (R523). -/
def logMisuse (fn st ring h : Nat) (s : State) : State :=
  let s := if st = stBUF_OWNED then s.cntr TNT.BUF_OWNED_CNT (i := fn) else s.cntr TNT.BUF_FOREIGN_CNT (i := fn)
  let p := s.rd TNT.LOG_HEAD_POS (i := fn)
  let s := ((s.ww TNT.LOG0 (st + ring * 65536) p fn).ww TNT.LOG1 (h % 2 ^ 32) p fn).ww TNT.LOG2 (s.idx % 2 ^ 32) p fn
  let s := (s.ww TNT.LOG3 (s.idx / 2 ^ 32) p fn).wr TNT.LOG_HEAD_POS (p + 1) (i := fn)
  s.raise 0x21 1 (copies fn)

/-! ## Write-backs (R495–R497) -/

/-- A DMA ring enters ERROR (R488, R489, R523). -/
def ringError (fn q : Nat) (s : State) : State :=
  (s.wr HOST.RING_STAT_STATE rsERROR (rk fn q)).raise 0x21 2 (copies fn)

/-- Write a descriptor back; its buffer passes to the host unless it was refused, and the ring interrupts under R497. -/
def writeBack (fn q : Nat) (d : Desc) (w : WriteBack) (s : State) : State :=
  let k := rk fn q
  let s := if d.st = stBUF_OWNED ∨ d.st = stBUF_FOREIGN then s else bufHold fn d.d.handle false s
  let s := (s.cntw HOST.DONE_COUNT k).onHost (fun h => { h with lastWb := some w, every := ns h.every k (ng h.every k + 1) })
  let v := s.rd HOST.RING_CTL_VECTOR k
  let full := decide (2 ^ s.rd HOST.RING_CTL_EVERY k ≤ ng s.host.every k)
  let s := if full then s.onHost (fun h => { h with every := ns h.every k 0 }) else s
  if full || w.status != stOK then s.msi fn v else s
/-- A write-back that carries no data. -/
def plainWb (fn q : Nat) (d : Desc) (st : Nat) (s : State) : WriteBack :=
  { fn := fn, ring := q, handle := d.d.handle, status := st, trunc := false, maskChg := false, port := 0, lenDone := 0,
    idx := if isAudio (s.ringKind (rk fn q)) then 32 * d.serve else 0, stamp := none }

/-- Write back every refused descriptor that has come to the head of its ring (R496). -/
def descFlushL (fn q : Nat) : List Desc → State → State × List Desc
  | [], s => (s, [])
  | d :: t, s => if d.st = stOK then (s, d :: t) else descFlushL fn q t (writeBack fn q d (plainWb fn q d d.st s) s)
def descFlush (fn q : Nat) (s : State) : State :=
  let r := descFlushL fn q (s.descList (rk fn q)) s
  descSet (rk fn q) r.2 r.1

/-- An audio tick is lost to its ring: late, and for a capture dropped (R503). -/
def tickLate (k : Nat) (s : State) : State :=
  let s := s.cntr HOST.LATE k
  if s.ringKind k = kCAP then s.cntr HOST.DROPPED k else s
/-- The descriptor at the head has come too late or offers too little: its tick is lost. -/
def headLost (fn q st : Nat) (s : State) : State :=
  match s.descList (rk fn q) with
  | [] => s
  | d :: t => descFlush fn q (descSet (rk fn q) ({ d with st := st } :: t) (tickLate (rk fn q) s))

/-- What the buffer of a descriptor offers. -/
def State.offered (s : State) (fn : Nat) (d : Desc) : Nat :=
  match s.bufOf fn d.d.handle with | some b => min d.d.len b.size | none => 0
/-- The function's window lets the block touch the first bytes of a descriptor's buffer. -/
def State.bufDma (s : State) (fn : Nat) (d : Desc) (n : Nat) : Bool :=
  match s.bufOf fn d.d.handle with | some b => s.dmaOk fn b.addr n | none => false
/-- A DMA of a DMA ring fails (R488). -/
def ringDmaErr (fn q : Nat) (s : State) : State := ringError fn q (dmaErr fn s)

/-! ## Descriptors fetched (R496, R503, R506) -/

/-- A descriptor joins its ring, and what stands finished at the head is written back. -/
def descPut (fn q : Nat) (d : Desc) (s : State) : State :=
  descFlush fn q (descSet (rk fn q) (s.descList (rk fn q) ++ [d]) s)
/-- A 16-bit field at a place of a frame. -/
def put16 (l : List Byte) (i v : Nat) : List Byte := (l.set i (BitVec.ofNat 8 (v / 256))).set (i + 1) (BitVec.ofNat 8 v)
/-- The checksums that a descriptor asks the MAC to compute (R134, R310): the IPv4 header's, and that of a UDP datagram that is no
fragment; the headers are found after a C-tag too. -/
def csumInsert (ip udp : Bool) (l : List Byte) : List Byte :=
  let o := if beNum l 12 2 = 0x8100 then 18 else 14
  let v4 := beNum l (o - 2) 2 == 0x0800 && byteAt l o / 16 == 4
  let v6 := beNum l (o - 2) 2 == 0x86DD
  let u := if v4 then o + 4 * (byteAt l o % 16) else o + 40
  let isUdp := if v4 then byteAt l (o + 9) == 17 && beNum l (o + 6) 2 % 0x4000 == 0 else v6 && byteAt l (o + 6) == 17
  let l := if udp && isUdp then
      let n := beNum l (u + 4) 2
      let a := if v4 then (l.drop (o + 12)).take 8 else (l.drop (o + 8)).take 32
      let pseudo := a ++ (if v4 then beBytes 2 17 ++ beBytes 2 n else beBytes 4 n ++ beBytes 4 17)
      put16 l (u + 6) (udpSum (pseudo ++ ((put16 l (u + 6) 0).drop u).take n))
    else l
  if ip && v4 then put16 l (o + 10) (checksum (((put16 l (o + 10) 0).drop o).take (u - o))) else l
/-- A fetched NET_TX descriptor: a frame for the function's host queue, or a refusal. -/
def netTx (fn q : Nat) (d : Desc) (s : State) : State :=
  let k := rk fn q
  let port := s.rd HOST.RING_CTL_PORT k
  if d.d.len + 4 < 64 ∨ s.rd NETP.MAC_CFG_MAX_LEN (i := port) < d.d.len + 4 ∨ s.offered fn d < d.d.len then
    descPut fn q { d with st := stBAD_FIELD } s
  else if s.bufDma fn d d.d.len = false then ringDmaErr fn q s
  else
    let f : TxFrame :=
      { kind := .host fn q d.d.handle, len := d.d.len + 4, held := false, bytes := csumInsert d.d.ipCsum d.d.udpCsum (d.d.frame.take d.d.len) }
    txPut port (hostKey port fn) f (descPut fn q d s)

/-- DESCRIPTOR_FETCH: the ring takes its next pending descriptor. -/
def descFetch (fn q : Nat) (d : DescIn) (s : State) : State :=
  let k := rk fn q
  let head := s.rd HOST.HEAD_IDX k
  if 7 < fn ∨ 15 < q ∨ s.ringRuns k = false ∨ head = ng s.host.dmaTail k then s
  else if s.dmaOk fn (s.rd64 HOST.BASE_HI HOST.BASE_LO k + 32 * head) 32 = false then ringDmaErr fn q s
  else
    let j := ng s.host.fetched k
    let kind := s.ringKind k
    let serve := if isAudio kind then s.startTick k + j else 0
    let s := (s.wr HOST.HEAD_IDX ((head + 1) % s.rd HOST.SIZE_N k) k).onHost (fun h => { h with fetched := ns h.fetched k (j + 1) })
    match s.misuse fn d.handle with
    | some st =>
      let l := s.descList k ++ [{ d := d, serve := serve, st := st }]
      descFlush fn q (descSet k l (logMisuse fn st q d.handle s))
    | none =>
      let s := bufHold fn d.handle true s
      let x : Desc := { d := d, serve := serve, st := stOK }
      if kind = kTX then netTx fn q x s
      else if kind = kRX then descSet k (s.descList k ++ [x]) s
      else
        let late := if kind = kPB then decide (serve ≤ s.accTick + 1) else decide (serve + 1 < s.accTick)
        if late then descFlush fn q (descSet k (s.descList k ++ [{ x with st := stBUF_LATE }]) (tickLate k s))
        else descSet k (s.descList k ++ [x]) s

/-! ## Audio blocks (R499–R504) -/

/-- Spread the words of a playback block over its channels. -/
def pbSpread (pack : Nat) (chans words : List Nat) (t : Tbl (List Int)) : Tbl (List Int) :=
  ((List.range chans.length).zip chans).foldl (fun t e =>
    tset (fun _ => []) t e.2 ((List.range 32).map (fun n => unpackWord pack (words.getD (n * chans.length + e.1) 0)))) t

/-- The block of tick T is the first under a changed mask: one that is noted, or that a pending mask word changes. -/
def State.maskNew (s : State) (fn q t : Nat) : Bool :=
  (tget (fun _ => []) s.host.maskChg (rk fn q)).contains t ||
    (List.range 8).any (fun g => s.maskAt fn q g false (t - 1) != s.maskAt fn q g false t || s.maskAt fn q g true (t - 1) != s.maskAt fn q g true t)

/-- PLAYBACK_FETCH: the block of the next tick is read and its descriptor written back (R31, R504). -/
def pbFetch (fn q : Nat) (words : List Nat) (s : State) : State :=
  let k := rk fn q
  match s.descList k with
  | [] => s
  | d :: t =>
    let next := s.tick + 1
    if 7 < fn ∨ 15 < q ∨ s.ringRuns k = false ∨ s.ringKind k ≠ kPB ∨ d.st ≠ stOK ∨ d.serve ≠ next then s
    else
      let ch := s.ringChans fn q next
      let n := s.blockBytes fn q next
      if words.length ≠ 32 * ch.length then s
      else if s.offered fn d < n then headLost fn q stBAD_FIELD s
      else if s.bufDma fn d n = false then ringDmaErr fn q s
      else
        let pb := if hostZero s.mode then s.host.pbNext else pbSpread (s.rd HOST.RING_CTL_PACK k) ch words s.host.pbNext
        let w := { plainWb fn q d stOK s with lenDone := n, maskChg := s.maskNew fn q next }
        let s := (descSet k t s).onHost (fun h => { h with pbNext := pb })
        descFlush fn q (writeBack fn q d w s)

/-- CAPTURE_WRITEBACK in tick T: the block of the tick before is written and its descriptor written back (R32, R504). -/
def capWrite (now fn q : Nat) (s : State) : State :=
  let k := rk fn q
  match s.descList k, og s.host.capLast k with
  | d :: t, some ws =>
    let pack := s.rd HOST.RING_CTL_PACK k
    let n := ws.length * packBytes pack
    if 7 < fn ∨ 15 < q ∨ s.ringKind k ≠ kCAP ∨ s.ringState k = rsERROR ∨ d.st ≠ stOK ∨ d.serve + 1 ≠ now then s
    else
      let s := s.onHost (fun h => { h with capLast := os h.capLast k none })
      if s.offered fn d < n then headLost fn q stBAD_FIELD s
      else if s.bufDma fn d n = false then ringDmaErr fn q s
      else
        let w := { plainWb fn q d stOK s with lenDone := n, maskChg := s.maskNew fn q d.serve }
        let data := (ws.flatMap (packWord pack)).map (·.toNat)
        descFlush fn q (writeBack fn q d w ((descSet k t s).onHost (fun h => { h with lastData := data })))
  | _, _ => s

/-- The word that a capture channel's value gives its block (R499, R502). -/
def State.capWord (s : State) (fn pack c : Nat) : Int :=
  if hostZero s.mode then 0
  else
    let sel := s.rw HOST.CAPCH_SRC c % 65536
    let v := s.txValue fn sel
    if pack = 3 then v else s.locExport sel s.tim.sample 24 v
/-- Every running capture ring takes the values of the present sample. -/
def capSample (s : State) : State :=
  s.each allRings (fun s r =>
    let k := rk r.1 r.2
    if s.ringState k = rsRUN ∧ s.ringKind k = kCAP then
      let ws := (s.ringChans r.1 r.2 s.tick).map (s.capWord r.1 (s.rd HOST.RING_CTL_PACK k))
      s.onHost (fun h => { h with capNow := os h.capNow k (some ((og h.capNow k).getD [] ++ ws)) })
    else s)

/-! ## Masks (R500, R501) -/

/-- The block of the tick that begins at this boundary, or at the one that ends this sample period, is the first under a changed mask; or the
one after it, for a playback ring whose block has been read. -/
def maskMark (k ahead : Nat) (s : State) : State :=
  let t := (s.tim.sample + 1) / 32 + ahead
  let l := (tget (fun _ => []) s.host.maskChg k).filter (fun u => decide (t ≤ u + 2 ∧ u ≠ t)) ++ [t]
  s.onHost (fun h => { h with maskChg := tset (fun _ => []) h.maskChg k l })

/-- Another ring of the same kind carries a channel, or will under a pending mask. -/
def State.carriedBy (s : State) (fn q : Nat) (pb : Bool) (c : Nat) : Bool :=
  let g := c / 64
  let hi := decide (32 ≤ c % 64)
  let b := c % 32
  allRings.any (fun r => r != (fn, q) && (s.ringKind (rk r.1 r.2) == kPB) == pb &&
    (bit (s.gw 0x21 (mobj r.1 r.2 g) (maskOff hi)) b ||
      s.held.any (fun h => h.pg == 0x21 && h.obj == mobj r.1 r.2 g && h.off == maskOff hi && bit h.val b)))
/-- Why a mask word may not be written, if it may not (R501). -/
def State.maskRefusal (s : State) (fn q g : Nat) (hi : Bool) (v : Nat) : Option Nat :=
  let pb := s.ringKind (rk fn q) == kPB
  let cs := wordBits v (64 * g + if hi then 32 else 0)
  if cs.any (fun c => s.chOwner pb c != fn) then some stNOT_OWNER
  else if cs.any (s.carriedBy fn q pb) then some stBUSY else none
/-- A mask word waits for the block of tick k + 2 (R500). -/
def maskHold (by_ fn q g : Nat) (hi : Bool) (v : Nat) (s : State) : State :=
  let due := 32 * (s.accTick + 2)
  let h : Held := { fn := by_, pg := 0x21, obj := mobj fn q g, off := maskOff hi, mask := 0xFFFFFFFF, val := v % 2 ^ 32,
                    kept := bit (s.gw 0x21 by_ 0x01C) 0, due := due }
  s.onHeld (fun hs => hs.filter (fun x => !(x.pg == 0x21 && x.obj == h.obj && x.off == h.off && (x.due == due || x.kept))) ++ [h])
/-- A written mask word: ignored as a whole where R501 refuses it. -/
def maskWrite (by_ fn q g : Nat) (hi : Bool) (v : Nat) (s : State) : State :=
  if (s.maskRefusal fn q g hi v).isSome then s.wb HOST.RING_STAT_MASK_DENY true (rk fn q) else maskHold by_ fn q g hi v s
/-- The ring and group of a mask object. -/
def mkRing (obj : Nat) : Nat × Nat × Nat := (obj % 16, obj / 16 % 16, obj / 256)
/-- A held value of the HOST page is applied; a mask that changes marks the ring's block. -/
def hostApply (s : State) (h : Held) : State :=
  let old := s.gw 0x21 h.obj h.off
  let s := s.applyHeld h
  if h.off = 0x600 ∨ h.off = 0x604 then
    let r := mkRing h.obj
    let k := rk r.1 r.2.1
    let s := if s.gw 0x21 h.obj h.off ≠ old then maskMark k 0 s else s
    blockFix r.1 r.2.1 s
  else s
/-- A channel leaves the rings of a function (R501). -/
def chanLeave (pb : Bool) (fn c : Nat) (s : State) : State :=
  let g := c / 64
  let off := maskOff (decide (32 ≤ c % 64))
  let m := 0xFFFFFFFF ^^^ 2 ^ (c % 32)
  s.each (List.range 16) (fun s q =>
    let k := rk fn q
    if (s.ringKind k == kPB) ≠ pb then s
    else
      let s := s.onHeld (fun hs => hs.map (fun h => if h.pg == 0x21 && h.obj == mobj fn q g && h.off == off then { h with val := h.val &&& m } else h))
      let w := s.gw 0x21 (mobj fn q g) off
      if bit w (c % 32) then blockFix fn q (maskMark k (b2n pb) (s.pw 0x21 (mobj fn q g) off (w &&& m))) else s)
/-- A host channel passes to a function. -/
def chanGive (pb : Bool) (fn c : Nat) (s : State) : State :=
  let old := s.chOwner pb c
  if old = fn then s
  else
    let s := chanLeave pb old c s
    if pb then
      useTake fn qPB 1 (useGive old qPB 1 (s.onHost (fun h => { h with
        pbOwner := ns h.pbOwner c fn, pbNow := tset (fun _ => []) h.pbNow c [], pbNext := tset (fun _ => []) h.pbNext c [] })))
    else useTake fn qCAP 1 (useGive old qCAP 1 (s.onHost (fun h => { h with capOwner := ns h.capOwner c fn })))

/-! ## Rings start and stop (R505) -/

/-- What a ring holds is forgotten: it stands as before it was first enabled. -/
def ringForget (k : Nat) (s : State) : State :=
  (descSet k [] s).onHost (fun h => { h with
    fetched := ns h.fetched k 0, startPend := bs h.startPend k false, every := ns h.every k 0, maskChg := tset (fun _ => []) h.maskChg k [],
    capNow := os h.capNow k none, capLast := os h.capLast k none })
/-- EN is written as 1 to a ring that is OFF. -/
def ringOn (fn q : Nat) (s : State) : State :=
  let k := rk fn q
  let s := (ringForget k (s.wr HOST.HEAD_IDX 0 k)).onHost (fun h => { h with dmaTail := ns h.dmaTail k 0, bmOff := bs h.bmOff fn false })
  if isAudio (s.ringKind k) then s.onHost (fun h => { h with startPend := bs h.startPend k true }) else s.wr HOST.RING_STAT_STATE rsRUN k
/-- EN is written as 0. -/
def ringOff (fn q : Nat) (s : State) : State :=
  let k := rk fn q
  let l := if s.ringKind k = kPB then s.ringChans fn q s.tick else []
  let s := s.onHost (fun h => { h with pbNext := l.foldl (fun t c => tset (fun _ => []) t c []) h.pbNext })
  ringForget k (s.wr HOST.RING_STAT_STATE rsOFF k)
/-- A write of RING_CTL. -/
def ringCtl (fn q w : Nat) (s : State) : State :=
  let k := rk fn q
  let s := s.writeRW HOST.RING_CTL w k
  let s := if s.rb HOST.RING_CTL_EN k then
      if s.ringState k = rsOFF ∧ bg s.host.startPend k = false then ringOn fn q s else s
    else ringOff fn q s
  blockFix fn q s
/-- A register of a ring that is written only while EN = 0 (R520, R521). -/
def ringReg (fn q off w : Nat) (s : State) : State :=
  if off = 0x100 then ringCtl fn q w s
  else if (off = 0x108 ∨ off = 0x10C ∨ off = 0x110) ∧ s.rb HOST.RING_CTL_EN (rk fn q) then s
  else s.writeWord fn 0x21 (rk fn q) off .base w

/-- RING_START at the boundary of tick b: an enabled ring waits for its start tick, and runs from it. -/
def ringStart (b : Nat) (s : State) (r : Nat × Nat) : State :=
  let k := rk r.1 r.2
  let s :=
    if bg s.host.startPend k then
      let s := (s.onHost (fun h => { h with startPend := bs h.startPend k false })).wr HOST.RING_STAT_STATE rsWAIT k
      if s.startTick k < b + 2 then
        (s.wr64 HOST.START_TICK_HI HOST.START_TICK_LO (b + 2) k).wb HOST.RING_STAT_START_LATE true k
      else s
    else s
  if s.ringState k = rsWAIT ∧ s.startTick k ≤ b then s.wr HOST.RING_STAT_STATE rsRUN k else s

/-- At the boundary of tick b, a held audio descriptor whose tick has passed unserved is late (R503). -/
def ringLate (b : Nat) (s : State) (r : Nat × Nat) : State :=
  match s.descList (rk r.1 r.2) with
  | [] => s
  | d :: _ =>
    let gone := if s.ringKind (rk r.1 r.2) = kPB then decide (d.serve ≤ b) else decide (d.serve + 1 < b)
    if isAudio (s.ringKind (rk r.1 r.2)) && d.st == stOK && gone then headLost r.1 r.2 stBUF_LATE s else s

/-- An audio ring stops where its mode does not run it: what it holds is written back with MODE_DENY, but at SAFE's entry for
the capture block of the tick before (R464, R505). -/
def ringDeny (s : State) (r : Nat × Nat) : State :=
  let k := rk r.1 r.2
  if isAudio (s.ringKind k) = false ∨ hostAudio s.mode then s
  else
    let s := s.onHost (fun h => { h with startPend := bs h.startPend k false })
    if s.ringRuns k then
      let keep := fun (d : Desc) => s.mode == mSAFE && s.ringKind k == kCAP && d.serve + 1 == s.tick
      let l := (s.descList k).map (fun d => if d.st = stOK ∧ keep d = false then { d with st := stMODE_DENY } else d)
      let s := if s.mode = mSAFE then s else s.onHost (fun h => { h with capLast := os h.capLast k none })
      let s := s.onHost (fun h => { h with capNow := os h.capNow k none })
      descFlush r.1 r.2 (descSet k l (s.wr HOST.RING_STAT_STATE rsOFF k))
    else s

/-! ## Network rings (R506–R508) -/

/-- The stamp fields of a media grid point for a ring's base: STAMP_NS, STAMP_FRAC, BASE. -/
def State.ringStamp (s : State) (k port : Nat) (g : Int) : Nat × Nat × Nat :=
  let b := if s.rb HOST.RING_CTL_TS_BASE k then planeOf port else 4
  let t := if b < 4 then g + ig s.tim.ofs b / 2000 else g
  (stampNs t, stampFr t, b)

/-- A frame goes into the buffer of the ring's next descriptor (R507); `tr` says that its port has truncated it (R112). -/
def netRx (fn q port : Nat) (g : Option Int) (tr : Bool) (frame : List Byte) (s : State) : State :=
  let k := rk fn q
  let miss := s.cntr NETP.RX_QUEUE_DROP (i := port)
  if s.ringRuns k = false ∨ s.ringKind k ≠ kRX then miss
  else match (s.descList k).head? with
    | none => miss
    | some d =>
      let n := min frame.length (s.offered fn d)
      if s.bufDma fn d n = false then ringDmaErr fn q s
      else
        let w := { plainWb fn q d stOK s with
          trunc := tr || decide (n < frame.length), port := port, lenDone := n, stamp := g.map (s.ringStamp k port) }
        let s := (descSet k ((s.descList k).drop 1) s).onHost (fun h => { h with lastData := (frame.take n).map (·.toNat) })
        descFlush fn q (writeBack fn q d w s)

/-- The frame meets a filter: where it arrived and every field the filter names. -/
def filterMeets (x : FilterArgs) (port ety : Nat) (ip : Option (Nat × Nat × Option Nat)) : Bool :=
  bit x.ports port && (match x.etherType with | some e => e == ety | none => true) &&
  (match x.ipDst with | some a => (match ip with | some i => i.1 == a | none => false) | none => true) &&
  (match x.proto with | some p => (match ip with | some i => i.2.1 == p | none => false) | none => true) &&
  (match x.dport with | some d => (match ip with | some i => i.2.2 == some d | none => false) | none => true)
/-- The lowest-numbered filter that a frame meets (R508). -/
def State.filterFor (s : State) (port ety : Nat) (ip : Option (Nat × Nat × Option Nat)) : Option Filter :=
  (List.range 64).findSome? (fun i => match og s.host.filters i with
    | some f => if filterMeets f.x port ety ip then some f else none
    | none => none)
def filterPut (i : Nat) (f : Option Filter) (s : State) : State :=
  let old := og s.host.filters i
  let s := match old with | some o => useGive o.fn qFILT 1 s | none => s
  let s := match f with | some n => useTake n.fn qFILT 1 s | none => s
  s.onHost (fun h => { h with filters := os h.filters i f })

/-- HOST_FRAME_DEPARTED (R310, R506): the oldest host frame that has left a port, or was discarded, is written back. -/
def hostDeparted (port off : Nat) (s : State) : State :=
  let s := txSettle port (s.grid off) s
  match s.net.hostDone.find? (fun x => x.port == port) with
  | none => s
  | some x =>
    let s := s.onNet (fun n => { n with hostDone := n.hostDone.erase x })
    let k := rk x.fn x.ring
    match (s.descList k).find? (fun d => d.d.handle == x.handle && d.st == stOK) with
    | none => s
    | some d =>
      if s.ringRuns k = false then s
      else
        let w := { plainWb x.fn x.ring d (if x.sent then stOK else stLINK_DOWN) s with
          port := port, lenDone := if x.sent then d.d.len else 0
          stamp := x.stamp.map (s.ringStamp k port) }
        descFlush x.fn x.ring (writeBack x.fn x.ring d w (descSet k ((s.descList k).erase d) s))

/-! ## Command rings (R483–R487) -/

/-- The ring's number of fetched entries that have not completed. -/
def State.startedIn (s : State) (fn r : Nat) : Nat := (s.cmd.started.filter (fun x => x.fn == fn && x.ring == r)).length
def State.startedOf (s : State) (fn : Nat) : Nat := (s.cmd.started.filter (fun x => x.fn == fn)).length
/-- An entry of the ring may be fetched: one is pending, not ORDERED and waiting for those before it (R481), and a completion slot can be
reserved for it (R483). -/
def State.entryReady (s : State) (fn r : Nat) : Bool :=
  let k := rk fn r
  let n := ringSize (s.rd CMDQ.SIZES_CQ_SIZE k)
  let used := (s.rd CMDQ.CQ_TAIL_IDX k + n - ng s.host.cqHead k) % n
  s.rd CMDQ.CQ_STAT_STATE k == 1 && !(bg s.host.ordWait k && decide (0 < s.startedIn fn r)) && s.rd CMDQ.SQ_HEAD_IDX k != ng s.host.sqTail k && decide (used + s.startedIn fn r + 1 < n)
/-- The ring a function is served from: the highest PRIO with an entry ready, equal ones in turn (R484). -/
def State.ringFor (s : State) (fn : Nat) : Option Nat :=
  let ready := (List.range 8).filter (s.entryReady fn)
  let top := ready.foldl (fun a r => max a (s.rd CMDQ.CQ_CTL_PRIO (rk fn r))) 0
  let best := ready.filter (fun r => s.rd CMDQ.CQ_CTL_PRIO (rk fn r) == top)
  let last := ng s.cmd.lastRing fn
  match best.find? (fun r => decide (last ≤ r)) with | some r => some r | none => best.head?
/-- The function may be served. -/
def State.fnReady (s : State) (fn : Nat) : Bool :=
  (fn == 0 || s.tenant fn == 1) && decide (s.startedOf fn < 64) && (s.ringFor fn).isSome
/-- One round of R484. -/
def fetchRound : List Nat := [0, 0, 1, 2, 3, 4, 5, 6, 7]
/-- The opcodes of the command tables, as ranges. -/
def opcodeRanges : List (Nat × Nat) :=
  [(0x101, 0x106), (0x110, 0x111), (0x201, 0x202), (0x210, 0x212), (0x220, 0x220), (0x230, 0x231), (0x240, 0x245), (0x250, 0x251),
   (0x301, 0x306), (0x310, 0x311), (0x320, 0x321), (0x330, 0x338), (0x401, 0x409), (0x410, 0x41B), (0x501, 0x505), (0x510, 0x512),
   (0x601, 0x606), (0x620, 0x623), (0x630, 0x633), (0x640, 0x641), (0x660, 0x663), (0x680, 0x683), (0x690, 0x692), (0x6A0, 0x6A1),
   (0x6B0, 0x6B1), (0x701, 0x703), (0x710, 0x712), (0x720, 0x721), (0x730, 0x731), (0x801, 0x805), (0x810, 0x812), (0x820, 0x820),
   (0x830, 0x830), (0x901, 0x90B), (0xA01, 0xA04), (0xA10, 0xA16), (0xA20, 0xA21), (0xA30, 0xA30), (0xA40, 0xA40), (0xB01, 0xB03),
   (0xB10, 0xB12), (0xB20, 0xB21)]
def opcodeKnown (o : Nat) : Bool := opcodeRanges.any (fun r => decide (r.1 ≤ o) && decide (o ≤ r.2))

/-- COMMAND_FETCH: the next entry in the order of R484 starts. An ORDERED entry waits for the earlier ones of its ring, and the others
are served meanwhile (R481). The parameters are fetched with it, where they are not in line.
An entry whose opcode no table holds completes at once (R530). -/
def commandFetch (x : SubEntry) (s : State) : State :=
  if s.cmdUp = false then s
  else
    let l := s.cmd.round ++ fetchRound
    match l.dropWhile (fun fn => !s.fnReady fn) with
    | [] => s
    | fn :: rest =>
      match s.ringFor fn with
      | none => s
      | some r =>
        let k := rk fn r
        let head := s.rd CMDQ.SQ_HEAD_IDX k
        if s.dmaOk fn (s.rd64 CMDQ.SQ_BASE_HI CMDQ.SQ_BASE_LO k + 64 * head) 64 = false then cqError k 3 (dmaErr fn s)
        else if x.ordered && decide (0 < s.startedIn fn r) then s.onHost (fun h => { h with ordWait := bs h.ordWait k true })
        else if 32 < x.paramLen ∧ x.paramLen ≤ 65536 ∧ s.dmaOk fn x.paramAddr x.paramLen = false then cqError k 3 (dmaErr fn s)
        else
          let s := s.onHost (fun h => { h with ordWait := bs h.ordWait k false })
          let rest := if fetchRound.length ≤ rest.length then rest.take (rest.length - fetchRound.length) else rest
          let s := (s.wr CMDQ.SQ_HEAD_IDX ((head + 1) % ringSize (s.rd CMDQ.SIZES_SQ_SIZE k)) k).onCmd (fun c => { c with
            started := c.started ++ [⟨fn, r, x⟩], round := rest, lastRing := ns c.lastRing fn (r + 1) })
          if opcodeKnown x.opcode then s
          else
            let e : Env := { tr := .pcie r, fn := fn, tag := x.tag, lenOk := true, bytes := [], auth := none, respMax := 0 }
            complete e stBAD_OPCODE 0 [] false s

/-- The commands of a ring that have not completed are dropped with it (R485). -/
def cqGone (fn r : Nat) (s : State) : State :=
  (s.onCmd (fun c => { c with started := c.started.filter (fun x => !(x.fn == fn && x.ring == r)) })).onHost (fun h =>
    { h with ordWait := bs h.ordWait (rk fn r) false })
/-- A write of CQ_CTL (R520): EN restarts the ring's indices, or stops it. -/
def cqCtl (fn r w : Nat) (s : State) : State :=
  let k := rk fn r
  let was := s.rb CMDQ.CQ_CTL_EN k
  let s := s.writeRW CMDQ.CQ_CTL w k
  if s.rb CMDQ.CQ_CTL_EN k then
    if was then s
    else
      let s := (((cqGone fn r s).ww CMDQ.CQ_STAT 0 k).wr CMDQ.CQ_STAT_STATE 1 k).wr CMDQ.SQ_HEAD_IDX 0 k
      (s.wr CMDQ.CQ_TAIL_IDX 0 k).onHost (fun h => { h with
        sqTail := ns h.sqTail k 0, cqHead := ns h.cqHead k 0, coal := ns h.coal k 0, phase0 := bs h.phase0 k false,
        bmOff := bs h.bmOff fn false })
  else (cqGone fn r s).ww CMDQ.CQ_STAT 0 k
/-- A register of a command ring that is written only while EN = 0. -/
def cqReg (fn r off w : Nat) (s : State) : State :=
  if off = 0x100 then cqCtl fn r w s
  else if s.rb CMDQ.CQ_CTL_EN (rk fn r) then s
  else s.writeWord fn 0x22 (rk fn r) off .base w

/-- The function's doorbells are heard (R487). -/
def State.rings (s : State) (fn : Nat) : Bool := fn == 0 || (decide (fn ≤ 7) && s.tenant fn == 1)

/-! ## Tenants (R509–R518) -/

/-- The largest value a quota may have (R509). -/
def quotaLimit : List Nat := [4096, 1024, 8192, 1024, 8192, 4096, 512, 512, 2048, 16384, 16384, 64]
/-- The quota a resource will have once what waits is applied. -/
def State.quotaSoon (s : State) (t r : Nat) : Nat :=
  match (s.host.quotaPend.filter (fun q => q.1 == t && q.2.1 == r)).getLast? with
  | some q => q.2.2
  | none => match og s.host.creation t with
    | some c => match (c.quotas.filter (fun q => q.1 == r)).getLast? with | some q => q.2 | none => 0
    | none => s.rd TNT.QUOTA_N r t
/-- Quotas that may be given to a tenant (R510). -/
def quotasOk (t : Nat) (l : List (Nat × Nat)) (fresh : Bool) (s : State) : Bool :=
  let own := match (l.filter (fun q => q.1 == qEDIT)).getLast? with
    | some q => q.2
    | none => if fresh then 0 else s.quotaSoon t qEDIT
  l.all (fun q => decide (q.1 < 12) && decide (q.2 ≤ quotaLimit.getD q.1 0)) &&
    decide (own + ((List.range 8).filter (fun x => x != 0 && x != t)).foldl (fun a x => a + s.quotaSoon x qEDIT) 0 ≤ 16384)
/-- PF0 holds what the tenants leave of the edit FIFO. -/
def editShare (s : State) : State :=
  editSync (s.wr TNT.QUOTA_N (16384 - (List.range 7).foldl (fun a x => a + s.rd TNT.QUOTA_N qEDIT (x + 1)) 0) qEDIT 0)
def quotaPut (t r v : Nat) (s : State) : State :=
  let s := overFix t r (s.wr TNT.QUOTA_N v r t)
  if r = qEDIT then editShare s else s

/-- A signature passes to a function, and SIGS follows. -/
def sigMove (fn g : Nat) (s : State) : State :=
  let old := s.sigOwner g
  let s := sigGive fn g s
  let sigs := fun (s : State) (t : Nat) => s.rd64 TNT.SIGS_HI TNT.SIGS_LO (i := t)
  if old = fn then s
  else
    let s := s.wr64 TNT.SIGS_HI TNT.SIGS_LO (sigs s old - (sigs s old &&& 2 ^ g)) (i := old)
    s.wr64 TNT.SIGS_HI TNT.SIGS_LO (sigs s fn ||| 2 ^ g) (i := fn)

/-- The function owns an item (R513). -/
def State.owns (s : State) (t : Nat) (it : Item) : Bool :=
  match it with
  | .sig n => n < 64 && s.sigOwner n == t
  | .xin n => n < 4096 && s.xinOwner n == t
  | .rx n => s.rx.on.contains n && s.rxOwner n == t
  | .tx n => s.tx.on.contains n && s.txOwner n == t
  | .cap n => n < 512 && s.capOwner n == t
  | .pb n => n < 512 && s.pbOwner n == t
  | .filter n => n < 64 && (match og s.host.filters n with | some f => f.fn == t | none => false)
  | .edits => true
/-- Everything a tenant owns that a reclaim takes back. -/
def State.itemsOf (s : State) (t : Nat) : List Item :=
  (((List.range 64).map Item.sig) ++ (List.range 4096).map Item.xin ++ s.rx.on.map Item.rx ++ s.tx.on.map Item.tx
    ++ (List.range 512).map Item.cap ++ (List.range 512).map Item.pb ++ (List.range 64).map Item.filter).filter (s.owns t)
/-- What becomes of an item at the end of its fade (R513). -/
def takeBack (t : Nat) (s : State) (it : Item) : State :=
  if s.owns t it = false then s
  else match it with
  | .sig n => staleSet n [] (setBank n 0 [] (setBank n 1 [] (sigMove 0 n s)))
  | .xin n => xinGive 0 n false s
  | .rx n => rxDisable n s
  | .tx n => txReclaim n s
  | .cap n => chanGive false 0 n s
  | .pb n => chanGive true 0 n s
  | .filter n => filterPut n none s
  | .edits => s
/-- A reclaim begins with the next tick (R513): edits are discarded at once. Also answer the boundary it ends at. -/
def reclaim (t : Nat) (items : List Item) (destroy : Bool) (s : State) : State :=
  let s := if items.contains .edits then editDiscard (fun e => e.fn == t) s else s
  s.onHost (fun h => { h with reclaims := h.reclaims ++ [⟨t, items, 32 * s.nextTick, destroy⟩] })
def State.reclaimEnd (s : State) : Nat := if s.tim.published then 32 * (s.accTick + 9) else 0
/-- The tenant becomes ABSENT: its quotas return to 0 and its OVER bits clear (R509, R518). -/
def tenantGone (t : Nat) (s : State) : State :=
  let s := s.each (s.itemsOf t) (takeBack t)
  let s := s.each (List.range 12) (fun s r => s.wr TNT.QUOTA_N 0 r t)
  let s := if s.rd TNT.TNT_STAT_OVER (i := t) = 0 then s else (s.wr TNT.TNT_STAT_OVER 0 (i := t)).raise (0x25 + t) 0 (fnsOwn t)
  let s := (s.wr TNT.TNT_CTL_STATE 0 (i := t)).wb TNT.TNT_STAT_SILENCED false (i := t)
  editShare (s.onHost (fun h => { h with
    rampOut := os h.rampOut t none, rampIn := os h.rampIn t none, inFlr := bs h.inFlr t false
    quotaPend := h.quotaPend.filter (fun q => q.1 != t), sigPend := h.sigPend.filter (fun q => q.2 != t)
    chPend := h.chPend.filter (fun q => q.2.2 != t) }))
/-- RECLAIM_COMPLETE: every reclaim of the function whose fade has ended. -/
def reclaimDone (t : Nat) (s : State) : State :=
  let p := fun (r : Reclaim) => r.fn == t && decide (r.start + 256 ≤ s.tim.sample + 1)
  let due := s.host.reclaims.filter p
  let s := s.each due (fun s r => s.each r.items (takeBack t))
  let s := s.onHost (fun h => { h with reclaims := h.reclaims.filter (fun r => !p r) })
  if due.any (·.destroy) then tenantGone t s else s

/-- Steps 1 to 3 of R514, and the ring registers of step 5. -/
def fnStop (fn : Nat) (s : State) : State :=
  let s := s.onCmd (fun c => { c with started := c.started.filter (fun x => x.fn != fn), round := c.round.filter (· != fn) })
  let pb := (List.range 512).filter (fun c => s.pbOwner c == fn)
  let s := s.each (List.range 16) (fun s q =>
    let k := rk fn q
    let s := ringForget k (s.each ((List.range 12).map (fun i => 0x100 + 4 * i)) (fun s o => s.pw 0x21 k o (resetWord (rkey 0x21 k o)).toNat))
    s.each (List.range 8) (fun s g => (s.pw 0x21 (mobj fn q g) 0x600 0).pw 0x21 (mobj fn q g) 0x604 0))
  let s := s.each (List.range 8) (fun s r =>
    let k := rk fn r
    s.each ((List.range 10).map (fun i => 0x100 + 4 * i)) (fun s o => s.pw 0x22 k o (resetWord (rkey 0x22 k o)).toNat))
  let s := s.onHeld (fun hs => hs.filter (fun h => !(h.pg == 0x21 && (h.off == 0x600 || h.off == 0x604) && (mkRing h.obj).1 == fn)))
  let ks := (List.range 16).map (rk fn)
  let mine := s.host.bufs.filter (fun e => match e.2 with | some b => b.owner == fn | none => false)
  let s := s.onHost (fun h => { h with
    dmaTail := ks.foldl (fun t k => ns t k 0) h.dmaTail, sqTail := ks.foldl (fun t k => ns t k 0) h.sqTail
    cqHead := ks.foldl (fun t k => ns t k 0) h.cqHead, ordWait := ks.foldl (fun t k => bs t k false) h.ordWait, coal := ks.foldl (fun t k => ns t k 0) h.coal
    phase0 := ks.foldl (fun t k => bs t k false) h.phase0
    pbNext := pb.foldl (fun t c => tset (fun _ => []) t c []) h.pbNext
    bufs := mine.foldl (fun t e => os t e.1 none) h.bufs })
  bufUsed fn (useGive fn qBUF mine.length s)
/-- The rest of step 5: PAGE_VEC and the MSI-X table. -/
def fnVectors (fn : Nat) (s : State) : State :=
  let s := s.each (List.range 45) (fun s p => s.ww HOST.PAGE_VEC 0 (fn + 16 * p))
  (s.ww HOST.PAGE_VEC_SIG 0 fn).onHost (fun h => { h with
    msiDue := h.msiDue.filter (fun m => m.1 != fn)
    msiOpen := (List.range 64).foldl (fun t v => bs t (64 * fn + v) false) h.msiOpen
    msiPend := (List.range 64).foldl (fun t v => bs t (64 * fn + v) false) h.msiPend })
/-- Step 4 of R514: slots, edits and snapshot sets. -/
def fnCancel (fn : Nat) (s : State) : State :=
  let s := cancelArmed (fun s i => s.slotState i == slARMED && s.rd COLL.SLOT_CTL_OWNER i == fn) s
  let s := editDiscard (fun e => e.fn == fn) s
  s.each (List.range 16) (fun s n => if s.rb METR.SNAP_CTL_EN n && s.setOwner n == fn then snapOff n s else s)

/-- A Function Level Reset (R514–R518); with its configuration space the function's Bus Master Enable is reset. -/
def flr (fn : Nat) (s : State) : State :=
  if 7 < fn then s
  else
    let st := s.tenant fn
    let s := (fnVectors fn (fnStop fn s)).onHost (fun h => { h with bmOff := bs h.bmOff fn true })
    if fn = 0 then s
    else
      let s := s.cnt TNT.TNT_STAT_FLRS (i := fn)
      if st = 0 then s.raise (0x25 + fn) 1 fnsPF0
      else
        let s := fnCancel fn s
        let s := if st = 1 then s.wr TNT.TNT_CTL_STATE 2 (i := fn) else s
        let s := s.onHost (fun h => { h with inFlr := bs h.inFlr fn true })
        if s.rb TNT.TNT_CTL_FLR_MODE (i := fn) && (og s.host.rampOut fn).isNone &&
            !(s.rb TNT.TNT_STAT_SILENCED (i := fn) && (og s.host.rampIn fn).isNone) then
          let at_ := 32 * s.nextTick
          s.onHost (fun h => { h with rampOut := os h.rampOut fn (some at_) })
        else s
/-- FLR_COMPLETE: the reset of a tenant's function ends (R518, R523). -/
def flrDone (fn : Nat) (s : State) : State :=
  if fn = 0 ∨ bg s.host.inFlr fn = false then s
  else
    let s := s.onHost (fun h => { h with inFlr := bs h.inFlr fn false })
    let s := if s.tenant fn = 2 then s.wr TNT.TNT_CTL_STATE 1 (i := fn) else s
    s.raise (0x25 + fn) 1 (fnsOwn fn)
/-- RAMP_OUT_SILENCED (R515). -/
def silence (fn : Nat) (s : State) : State :=
  match og s.host.rampOut fn with
  | some st =>
    if st + 256 ≤ s.tim.sample + 1 then
      (s.wb TNT.TNT_STAT_SILENCED true (i := fn)).onHost (fun h => { h with rampOut := os h.rampOut fn none, rampIn := os h.rampIn fn none })
    else s
  | none => s

/-! ## The host interface at a tick boundary -/

/-- A created tenant becomes ACTIVE (R518). -/
def activate (s : State) (t : Nat) : State :=
  match og s.host.creation t with
  | none => s
  | some c =>
    let s := s.onHost (fun h => { h with creation := os h.creation t none })
    if s.tenant t ≠ 0 then s
    else
      let s := (s.wr TNT.TNT_CTL_STATE 1 (i := t)).wb TNT.TNT_CTL_FLR_MODE c.flrMode (i := t)
      let s := (s.wr64 TNT.DMA_WIN_BASE_HI TNT.DMA_WIN_BASE_LO c.base (i := t)).wr64 TNT.DMA_WIN_LIMIT_HI TNT.DMA_WIN_LIMIT_LO c.limit (i := t)
      s.each c.quotas (fun s q => quotaPut t q.1 q.2 s)
/-- What has come to its end by this boundary, where RECLAIM_COMPLETE and RAMP_OUT_SILENCED have not done it (R513, R515), and what commands
left for it: tenants, quotas, signatures, host channels (R498, R510, R512, R518). -/
def tenantTick (s : State) : State :=
  let s := s.each [1, 2, 3, 4, 5, 6, 7] (fun s t => silence t (reclaimDone t s))
  let s := s.each [1, 2, 3, 4, 5, 6, 7] activate
  let q := s.host.quotaPend
  let g := s.host.sigPend
  let c := s.host.chPend
  let s := s.onHost (fun h => { h with quotaPend := [], sigPend := [], chPend := [] })
  let s := s.each q (fun s q => if s.tenant q.1 = 0 then s else quotaPut q.1 q.2.1 q.2.2 s)
  let s := s.each g (fun s g => if s.sigOwner g.1 = 0 ∧ (s.tenant g.2 = 1 ∨ s.tenant g.2 = 2) then sigMove g.2 g.1 s else s)
  s.each c (fun s c => if c.2.2 = 0 ∨ s.tenant c.2.2 = 1 ∨ s.tenant c.2.2 = 2 then chanGive c.1 c.2.2 c.2.1 s else s)
/-- A fade in begins: SILENCED clears; one that has ended is forgotten (R515). -/
def rampTick (b : Nat) (s : State) (fn : Nat) : State :=
  match og s.host.rampIn fn with
  | none => s
  | some st =>
    let s := if 32 * b = st then s.wb TNT.TNT_STAT_SILENCED false (i := fn) else s
    if st + 256 ≤ 32 * b then s.onHost (fun h => { h with rampIn := os h.rampIn fn none }) else s
/-- The host interface at the boundary of the tick in progress: a block that the tick before should have written is written at its end
(R32), blocks move on, masks and selectors apply, rings start. -/
def hostTick (s : State) : State :=
  let b := s.tick
  let s := s.each allRings (fun s r => capWrite (b - 1) r.1 r.2 s)
  let s := s.onHost (fun h => { h with pbNow := h.pbNext, pbNext := [], capLast := h.capNow, capNow := [] })
  let s := s.applyDue (fun h => h.pg == 0x21) hostApply
  let s := s.each allRings (ringLate b)
  let s := s.each allRings (ringStart b)
  s.each [1, 2, 3, 4, 5, 6, 7] (rampTick b)
/-- What the mode of this boundary does to the audio rings. -/
def hostModeTick (s : State) : State := if hostAudio s.mode then s else s.each allRings ringDeny

/-! ## The rows: messages and doorbells -/

/-- MSIX_MESSAGE: the next message due is sent, or pends on a masked vector (R480). -/
def execMsixMessage (s : State) : Host.Outcome State Fault Refusal :=
  .next (awake s (match s.host.msiDue with
    | [] => s
    | m :: t =>
      let s := s.onHost (fun h => { h with msiDue := t })
      let k := 64 * m.1 + m.2
      if bg s.host.msiOpen k then s.onHost (fun h => { h with msiSent := some m }) else s.onHost (fun h => { h with msiPend := bs h.msiPend k true })))
def execMsixUnmask (fn v : Nat) (s : State) : Host.Outcome State Fault Refusal :=
  .next (awake s (if 7 < fn ∨ 63 < v then s
    else
      let k := 64 * fn + v
      let p := bg s.host.msiPend k
      let s := s.onHost (fun h => { h with msiOpen := bs h.msiOpen k true, msiPend := bs h.msiPend k false })
      if p then s.onHost (fun h => { h with msiSent := some (fn, v) }) else s))
def execSqTail (fn r v : Nat) (s : State) : Host.Outcome State Fault Refusal :=
  .next (awake s (if 7 < r ∨ s.rings fn = false ∨ s.rd CMDQ.CQ_STAT_STATE (rk fn r) ≠ 1 then s
    else if ringSize (s.rd CMDQ.SIZES_SQ_SIZE (rk fn r)) ≤ v % 4096 then cqError (rk fn r) 1 s
    else s.onHost (fun h => { h with sqTail := ns h.sqTail (rk fn r) (v % 4096) })))
def execCqHead (fn r v : Nat) (s : State) : Host.Outcome State Fault Refusal :=
  .next (awake s (if 7 < r ∨ s.rings fn = false ∨ s.rd CMDQ.CQ_STAT_STATE (rk fn r) ≠ 1 then s
    else if ringSize (s.rd CMDQ.SIZES_CQ_SIZE (rk fn r)) ≤ v % 4096 then cqError (rk fn r) 2 s
    else s.onHost (fun h => { h with cqHead := ns h.cqHead (rk fn r) (v % 4096) })))
/-- DMA_TAIL; an index that the ring does not have is ignored. -/
def execDmaTail (fn q v : Nat) (s : State) : Host.Outcome State Fault Refusal :=
  .next (awake s (if 7 < fn ∨ 15 < q ∨ s.rb HOST.RING_CTL_EN (rk fn q) = false ∨ s.rd HOST.SIZE_N (rk fn q) ≤ v % 65536 then s
    else s.onHost (fun h => { h with dmaTail := ns h.dmaTail (rk fn q) (v % 65536) })))
def execCommandFetch (x : SubEntry) (s : State) : Host.Outcome State Fault Refusal := .next (awake s (commandFetch x s))
/-- COMPLETION_INTERRUPT (R485): the completions written since the last one are enough, or the first is old enough. -/
def execCompletionInterrupt (fn r elapsedUs : Nat) (s : State) : Host.Outcome State Fault Refusal :=
  .next (awake s (if 7 < fn ∨ 7 < r then s
    else
      let k := rk fn r
      let n := ng s.host.coal k
      let coalN := s.rd CMDQ.CQ_CTL_COAL_N k
      if n ≠ 0 ∧ (coalN ≤ n ∨ s.rd CMDQ.CQ_CTL_COAL_US k ≤ elapsedUs) then
        (s.onHost (fun h => { h with coal := ns h.coal k 0 })).msi fn (s.rd CMDQ.CQ_CTL_VECTOR k)
      else s))
/-- RING_ERROR (R486): a running command ring stops for a cause of CQ_STAT. -/
def execRingError (fn r cause : Nat) (s : State) : Host.Outcome State Fault Refusal :=
  .next (awake s (if 7 < fn ∨ 7 < r ∨ cause = 0 ∨ 4 < cause ∨ s.rd CMDQ.CQ_STAT_STATE (rk fn r) ≠ 1 then s else cqError (rk fn r) cause s))
/-- DMA_ERROR (R488): a DMA of a DMA ring or of a command ring ends in an error completion. -/
def execDmaError (fn : Nat) (dma : Bool) (q : Nat) (s : State) : Host.Outcome State Fault Refusal :=
  .next (awake s (if 7 < fn then s
    else if dma then if 15 < q ∨ s.ringRuns (rk fn q) = false then s else ringDmaErr fn q s
    else if 7 < q ∨ s.rd CMDQ.CQ_STAT_STATE (rk fn q) ≠ 1 then s
    else cqError (rk fn q) 3 (dmaErr fn s)))
/-- BUS_MASTER_CLEAR (R489). -/
def execBusMasterClear (fn : Nat) (s : State) : Host.Outcome State Fault Refusal :=
  .next (if 7 < fn then s
    else
      let s := s.onHost (fun h => { h with bmOff := bs h.bmOff fn true })
      let s := s.each (List.range 8) (fun s r => if s.rd CMDQ.CQ_STAT_STATE (rk fn r) = 1 then cqError (rk fn r) 4 s else s)
      s.each (List.range 16) (fun s q => if s.ringRuns (rk fn q) then ringError fn q s else s))
def execCqEnable (fn r w : Nat) (s : State) : Host.Outcome State Fault Refusal :=
  .next (awake s (if 7 < fn ∨ 7 < r then s else cqCtl fn r w s))
def execRingEnable (fn q w : Nat) (s : State) : Host.Outcome State Fault Refusal :=
  .next (awake s (if 7 < fn ∨ 15 < q then s else ringCtl fn q w s))
def execMaskWrite (fn q g : Nat) (hi : Bool) (v : Nat) (s : State) : Host.Outcome State Fault Refusal :=
  .next (awake s (if 7 < fn ∨ 15 < q ∨ 7 < g then s else maskWrite fn fn q g hi v s))
def execDescriptorFetch (fn q : Nat) (d : DescIn) (s : State) : Host.Outcome State Fault Refusal := .next (awake s (descFetch fn q d s))
def execPlaybackFetch (fn q : Nat) (words : List Nat) (s : State) : Host.Outcome State Fault Refusal := .next (awake s (pbFetch fn q words s))
def execCaptureWriteback (fn q : Nat) (s : State) : Host.Outcome State Fault Refusal := .next (awake s (capWrite s.tick fn q s))
def execHostFrameDeparted (port off : Nat) (s : State) : Host.Outcome State Fault Refusal := .next (awake s (hostDeparted port off s))
def execFlr (fn : Nat) (s : State) : Host.Outcome State Fault Refusal := .next (flr fn s)
def execFlrComplete (fn : Nat) (s : State) : Host.Outcome State Fault Refusal := .next (flrDone fn s)
/-- PCIE_RESET (R516): a function reset of every function at the same moment. -/
def execPcieReset (s : State) : Host.Outcome State Fault Refusal := .next (s.each (List.range 8) (fun s fn => flr fn s))
def execRampOutSilenced (fn : Nat) (s : State) : Host.Outcome State Fault Refusal := .next (awake s (silence fn s))
def execReclaimComplete (fn : Nat) (s : State) : Host.Outcome State Fault Refusal := .next (awake s (reclaimDone fn s))

/-! ## The rows: tenants -/

def execTenantCreate (e : Env) (t : Nat) (quotas : List (Nat × Nat)) (flrMode : Bool) (base limit : Nat) (s : State) :
    Host.Outcome State Fault Refusal :=
  .next (runCmd { crit := true, pf0 := true } e (fun _ s =>
      if t = 0 ∨ 7 < t ∨ s.tenant t = 1 then some stBAD_FIELD
      else if s.tenant t ≠ 0 ∨ (og s.host.creation t).isSome then some stBUSY else none)
    (fun _ s =>
      if quotasOk t quotas true s = false ∨ 2 ^ 64 ≤ base ∨ 2 ^ 64 ≤ limit then no stBAD_FIELD
      else
        let c : Creation := { quotas := quotas, flrMode := flrMode, base := base, limit := limit }
        retIdx (s.onHost (fun h => { h with creation := os h.creation t (some c) })) (if s.tim.published then 32 * s.nextTick else 0)) s)
/-- TENANT_DESTROY (R518): the function stops as a reset would stop it, its key slot is retired (R536), and a reclaim begins. -/
def execTenantDestroy (e : Env) (t : Nat) (s : State) : Host.Outcome State Fault Refusal :=
  .next (runCmd { crit := true, pf0 := true } e (namesTenant t false) (fun _ s =>
    let items := s.itemsOf t ++ [.edits]
    let s' := keyRetire t (fnCancel t (fnStop t s))
    retIdx (reclaim t items true (s'.wr TNT.TNT_CTL_STATE 3 (i := t))) s.reclaimEnd) s)
def execQuotaSet (e : Env) (t : Nat) (quotas : List (Nat × Nat)) (s : State) : Host.Outcome State Fault Refusal :=
  .next (runCmd { crit := true, pf0 := true } e (namesTenant t true) (fun _ s =>
    if quotasOk t quotas false s = false then no stBAD_FIELD
    else done (s.onHost (fun h => { h with quotaPend := h.quotaPend ++ quotas.map (fun q => (t, q.1, q.2)) }))) s)
def execRevoke (e : Env) (t : Nat) (items : List Item) (s : State) : Host.Outcome State Fault Refusal :=
  .next (runCmd { crit := true, pf0 := true } e (namesTenant t false) (fun _ s =>
    if items.all (s.owns t) then retIdx (reclaim t items false s) s.reclaimEnd else no stBAD_FIELD) s)
/-- A function's own page, or any for PF0. -/
def ownPage (t fn : Nat) (_ : State) : Option Nat := if fn = 0 ∨ fn = t then none else some stNOT_OWNER
def execTenantStatus (e : Env) (t : Nat) (s : State) : Host.Outcome State Fault Refusal :=
  .next (runCmd { read := true } e (ownPage t) (fun _ s =>
    if 7 < t then no stBAD_FIELD
    else ret s ([s.rw TNT.TNT_CTL (i := t), s.rw TNT.TNT_STAT (i := t)] ++ (List.range 12).map (fun r => s.rw TNT.QUOTA r t)
      ++ (List.range 12).map (fun r => s.rw TNT.USE r t) ++ [s.rw TNT.SIGS_HI (i := t), s.rw TNT.SIGS_LO (i := t)])) s)
def execSigAssign (e : Env) (t : Nat) (sigs : List Nat) (s : State) : Host.Outcome State Fault Refusal :=
  .next (runCmd { pf0 := true } e (namesTenant t false) (fun _ s =>
    if sigs = [] ∨ sigs.any (fun g => 63 < g || s.sigOwner g != 0) then no stBAD_FIELD
    else done (s.onHost (fun h => { h with sigPend := h.sigPend ++ sigs.map (fun g => (g, t)) }))) s)
def execSigReturn (e : Env) (sigs : List Nat) (s : State) : Host.Outcome State Fault Refusal :=
  .next (runCmd {} e (fun fn s => if fn = 0 ∨ sigs.any (fun g => 63 < g || s.sigOwner g != fn) then some stNOT_OWNER else none) (fun fn s =>
    if sigs = [] then no stBAD_FIELD else retIdx (reclaim fn (sigs.map Item.sig) false s) s.reclaimEnd) s)
def execTenantResume (e : Env) (t : Nat) (s : State) : Host.Outcome State Fault Refusal :=
  .next (runCmd {} e (fun fn s => if fn = 0 then namesTenant t true fn s else if fn = t then none else some stNOT_OWNER) (fun _ s =>
    if s.tenant t = 2 ∨ (og s.host.rampOut t).isSome ∨ (og s.host.rampIn t).isSome then no stBUSY
    else if s.rb TNT.TNT_STAT_SILENCED (i := t) then
      let at_ := 32 * s.nextTick
      done (s.onHost (fun h => { h with rampIn := os h.rampIn t (some at_) }))
    else done s) s)
/-- Channels that a list, and what waits, would give a function anew. -/
def State.chNeed (s : State) (pb : Bool) (t : Nat) (l : List Nat) : Nat :=
  let wait := (s.host.chPend.filter (fun c => c.1 == pb && c.2.2 == t)).map (·.2.1)
  ((l ++ wait).eraseDups.filter (fun c => s.chOwner pb c != t)).length
def execHostchAssign (e : Env) (t : Nat) (cap pb : List Nat) (s : State) : Host.Outcome State Fault Refusal :=
  .next (runCmd { pf0 := true } e (fun fn s => if t = 0 then none else namesTenant t false fn s) (fun _ s =>
    if cap.any (511 < ·) ∨ pb.any (511 < ·) then no stBAD_FIELD
    else if s.quotaOk t qCAP (s.chNeed false t cap) = false ∨ s.quotaOk t qPB (s.chNeed true t pb) = false then no stQUOTA
    else done (s.onHost (fun h => { h with
      chPend := h.chPend ++ cap.map (fun c => (false, c, t)) ++ pb.map (fun c => (true, c, t)) }))) s)
/-- The entries of a misuse log, oldest first (R493). -/
def State.misuseLog (s : State) (t : Nat) : List Nat :=
  let p := s.rd TNT.LOG_HEAD_POS (i := t)
  (((List.range 16).map (fun i => (p + i) % 16)).filter (fun i => s.rw TNT.LOG0 i t != 0)).flatMap (fun i =>
    [s.rw TNT.LOG0 i t, s.rw TNT.LOG1 i t, s.rw TNT.LOG2 i t, s.rw TNT.LOG3 i t])
def execMisuseLogRead (e : Env) (t : Nat) (s : State) : Host.Outcome State Fault Refusal :=
  .next (runCmd { read := true } e (ownPage t) (fun _ s => if 7 < t then no stBAD_FIELD else retL s 4 (s.misuseLog t)) s)
def execTenantConfig (e : Env) (t : Nat) (flrMode : Bool) (base limit : Nat) (s : State) : Host.Outcome State Fault Refusal :=
  .next (runCmd { pf0 := true } e (namesTenant t false) (fun _ s =>
    if 2 ^ 64 ≤ base ∨ 2 ^ 64 ≤ limit then no stBAD_FIELD
    else done (((s.wb TNT.TNT_CTL_FLR_MODE flrMode (i := t)).wr64 TNT.DMA_WIN_BASE_HI TNT.DMA_WIN_BASE_LO base (i := t)).wr64
      TNT.DMA_WIN_LIMIT_HI TNT.DMA_WIN_LIMIT_LO limit (i := t))) s)

/-! ## The rows: buffers, rings, filters -/

/-- The lowest free entry of the buffer table. -/
def State.freeBuf (s : State) : Option Nat := (List.range 16384).find? (fun i => (og s.host.bufs i).isNone)
def execBufRegister (e : Env) (addr size : Nat) (s : State) : Host.Outcome State Fault Refusal :=
  .next (runCmd { pcieOnly := true } e anyone (fun fn s =>
    if addr % 64 ≠ 0 ∨ 2 ^ 64 ≤ addr ∨ size < 64 ∨ 4 * 2 ^ 20 < size then no stBAD_FIELD
    else if s.quotaOk fn qBUF 1 = false then no stQUOTA
    else match s.freeBuf with
      | none => no stBUSY
      | some i =>
        let g := (ng s.host.bufGen i + 1) % 65536
        let s := (bufPut i (some { owner := fn, addr := addr, size := size, held := false }) s).onHost (fun h => { h with bufGen := ns h.bufGen i g })
        .ok (bufUsed fn (useTake fn qBUF 1 s)) (i + 65536 * g) [] 0 stOK) s)
def execBufRelease (e : Env) (handle : Nat) (s : State) : Host.Outcome State Fault Refusal :=
  .next (runCmd { pcieOnly := true } e anyone (fun fn s =>
    match s.misuse fn handle with
    | some st => .later (complete e st 0 [] true (logMisuse fn st 0xFF handle s))
    | none => done (bufUsed fn (useGive fn qBUF 1 (bufPut (handleIdx handle) none s)))) s)
def execBufQuery (e : Env) (handles : List Nat) (s : State) : Host.Outcome State Fault Refusal :=
  .next (runCmd { pcieOnly := true, read := true } e anyone (fun fn s =>
    if 256 < handles.length then no stBAD_FIELD
    else retL s 4 (handles.flatMap (fun h => match s.bufOf fn h with
      | some b => [1 + b2n b.held, b.size, b.addr % 2 ^ 32, b.addr / 2 ^ 32]
      | none => [0, 0, 0, 0]))) s)
/-- The registers that RING_CONFIG writes. -/
def ringRegs : List Nat := [0x100, 0x108, 0x10C, 0x110, 0x118, 0x11C]
/-- Mask words of groups, low and high. -/
def maskWords (masks : List (Nat × Nat)) : List (Nat × Bool × Nat) :=
  masks.flatMap (fun m => [(m.1, false, m.2 % 2 ^ 32), (m.1, true, m.2 / 2 ^ 32)])
/-- RING_CONFIG (R501, R524): the masks are judged under the KIND the command leaves, and EN is written last. -/
def execRingConfig (e : Env) (q : Nat) (ws : List RegW) (masks : List (Nat × Nat)) (s : State) : Host.Outcome State Fault Refusal :=
  .next (runCmd { pcieOnly := true } e anyone (fun fn s =>
    if 15 < q ∨ cfgOk 0x21 1 ringRegs ws = false ∨ masks.any (fun m => 7 < m.1 || 2 ^ 64 ≤ m.2) then no stBAD_FIELD
    else
      let ctl := (ws.filter (fun w => w.off == 0x100)).getLast?
      let s1 := s.each (ws.filter (fun w => w.off != 0x100)) (fun s w => ringReg fn q w.off w.val s)
      let s2 := match ctl with
        | some w => s1.writeRW HOST.RING_CTL (fput w.val 31 31 (b2n (s1.rb HOST.RING_CTL_EN (rk fn q)))) (rk fn q)
        | none => s1
      match (maskWords masks).findSome? (fun m => s2.maskRefusal fn q m.1 m.2.1 m.2.2) with
      | some st => no st
      | none =>
        let s3 := s2.each (maskWords masks) (fun s m => maskHold fn fn q m.1 m.2.1 m.2.2 s)
        done (match ctl with | some w => ringCtl fn q w.val s3 | none => s3)) s)
def execRingStatus (e : Env) (rings : List Nat) (s : State) : Host.Outcome State Fault Refusal :=
  .next (runCmd { pcieOnly := true, read := true } e anyone (fun fn s =>
    if 16 < rings.length ∨ rings.any (15 < ·) then no stBAD_FIELD
    else retL s 7 (rings.flatMap (fun q =>
      let k := rk fn q
      [s.rw HOST.RING_STAT k, s.rw HOST.HEAD k, s.rw HOST.START_TICK_HI k, s.rw HOST.START_TICK_LO k, s.rw HOST.LATE k,
        s.rw HOST.DROPPED k, s.rw HOST.DONE k]))) s)
def execCapchSet (e : Env) (sels : List (Nat × Nat)) (s : State) : Host.Outcome State Fault Refusal :=
  .next (runCmd { pcieOnly := true } e (fun fn s => if sels.all (fun x => s.capOwner x.1 == fn) then none else some stNOT_OWNER) (fun _ s =>
    if 512 < sels.length ∨ sels.any (fun x => 511 < x.1 || 65535 < x.2 || !txSelOk x.2) then no stBAD_FIELD
    else
      let due := s.rwbDue 0x21 0x048
      done (s.onHeld (fun hs => hs ++ sels.map (fun x =>
        { fn := 16, pg := 0x21, obj := x.1, off := 0x048, mask := 0xFFFF, val := x.2, kept := false, due := due })))) s)
/-- The fields a filter names have their widths. -/
def filterOk (x : FilterArgs) : Bool :=
  let fits := fun (o : Option Nat) (n : Nat) => match o with | some v => decide (v < 2 ^ n) | none => true
  fits x.etherType 16 && fits x.ipDst 128 && fits x.proto 8 && fits x.dport 16
/-- Another function's filter. -/
def filterOwn (f fn : Nat) (s : State) : Option Nat :=
  match og s.host.filters f with | some x => if x.fn = fn then none else some stNOT_OWNER | none => none
def execRxfilterSet (e : Env) (f : Nat) (x : FilterArgs) (s : State) : Host.Outcome State Fault Refusal :=
  .next (runCmd { pcieOnly := true } e (filterOwn f) (fun fn s =>
    if 63 < f ∨ 15 < x.ring ∨ 15 < x.ports ∨ filterOk x = false ∨ s.ringKind (rk fn x.ring) ≠ kRX then no stBAD_FIELD
    else if (og s.host.filters f).isNone && !s.quotaOk fn qFILT 1 then no stQUOTA
    else done (filterPut f (some ⟨fn, x⟩) s)) s)
def execRxfilterClear (e : Env) (f : Nat) (s : State) : Host.Outcome State Fault Refusal :=
  .next (runCmd { pcieOnly := true } e (filterOwn f) (fun _ s =>
    if 63 < f ∨ (og s.host.filters f).isNone then no stBAD_FIELD else done (filterPut f none s)) s)

end Sys2Proof.Machine
end

