-- ==== Sys2Proof/Machine/PortOps.lean ====
section
/-!
DEFINITION. What happens on the ports and to their PLLs: links, modules, frames that leave, and TPLL loss (R98, R109, R115, R132,
R297).
-/
namespace Sys2Proof.Machine

/-! ## Links (R109, R117) -/

/-- A frame that a failed link discards: counted, and an audio packet also in DROP of its leg (R117, R305). -/
def lostFrame (port : Nat) (s : State) (f : TxFrame) : State :=
  let s := txDrop port f s
  match f.kind with
  | .audio i leg _ => txCnt 0x110 leg (some 2) i s
  | _ => s
/-- PORT_STAT.LINK falls at the present boundary: everything queued is discarded. -/
def linkFall (port : Nat) (s : State) : State :=
  let s := s.onNet (fun n => { n with failing := bs n.failing port false })
  if s.linkUp port = false then s
  else
    let s := ((s.wb NETP.PORT_STAT_LINK false (i := port)).cnt NETP.PORT_STAT_LINK_DOWNS (i := port)).raise (0x0A + port) 0 fnsAll
    let r := txFlush port (s.grid 0) s
    r.2.each r.1 (lostFrame port)
/-- A condition of the link fails: it reports down at the next sample boundary (R109). -/
def linkFail (port : Nat) (s : State) : State :=
  if s.linkUp port then s.onNet (fun n => { n with failing := bs n.failing port true }) else s
/-- The links that have failed fall at a sample boundary; frames that have ended are counted. -/
def linkStep (s : State) : State :=
  s.each ports (fun s p => if bg s.net.failing p then linkFall p s else txSettle p (s.grid 0) s)
/-- What a port's receiver shows: FEC alignment and faults (R109). -/
def linkShow (port : Nat) (fec : Bool) (x : LinkIn) (s : State) : State :=
  ((s.wb NETP.PORT_STAT_FEC_LOCK fec (i := port)).wb NETP.PORT_STAT_LOCAL_FAULT x.loc (i := port)).wb NETP.PORT_STAT_REMOTE_FAULT
    x.rem (i := port)
/-- LINK_UP at a tick boundary: the port's conditions have held for 32 samples (R109). -/
def linkRise (s : State) (port : Nat) : State :=
  if 3 < port ∨ s.linkUp port ∨ s.rb NETP.PORT_CTL_EN (i := port) = false ∨ s.tpllLock (planeOf port) = false then s
  else
    let s := linkShow port (s.rd NETP.PORT_CTL_FEC (i := port) != 0) ⟨false, false⟩ s
    let s := (s.wb NETP.PORT_STAT_LINK true (i := port)).raise (0x0A + port) 0 fnsAll
    if s.fwUp then dadStart port (s.addrs6 port) s else s

/-- A write of PORT_CTL: a combination that R107 does not have is ignored and flagged. -/
def portCtlWrite (fn port w : Nat) (s : State) : State :=
  if portCtlOk w then s.writeWord fn (0x0A + port) 0 0x040 .base w
  else (s.wb NETP.PORT_STAT_CFG_ERR true (i := port)).raise (0x0A + port) 6 fnsAll
/-- What of PORT_CTL retrains a port: RATE, FEC, and TRAIN except at 10GBASE-R, where it is ignored (R109, R110); and EN. -/
def trainKey (w : Nat) : Nat × Nat × Bool × Bool := (fbits w 6 4, fbits w 2 0, fbits w 6 4 != 3 && bit w 12, bit w 31)
/-- PORT_CTL_APPLY: an applied value retrains the port when RATE, FEC or TRAIN changes or EN rises, and takes the link down when
EN is 0 (R109). The ports that retrain are collected. -/
def portApply (s : State) (h : Held) : State :=
  let p := h.pg - 0x0A
  if h.off ≠ 0x040 then s.applyHeld h
  else
    let old := s.rw NETP.PORT_CTL (i := p)
    let s := s.applyHeld h
    let new := s.rw NETP.PORT_CTL (i := p)
    if trainKey new = trainKey old then s else linkFall p s
/-- A port's pending PORT_CTL would retrain it. -/
def State.retrains (s : State) (p : Nat) : Bool :=
  s.held.any (fun h => h.pg == 0x0A + p && h.off == 0x040 && !h.kept && decide (h.due ≤ s.tim.sample) &&
    trainKey h.val != trainKey (s.rw NETP.PORT_CTL (i := p)))
/-- The latencies of R124 follow the rate and FEC in force. -/
def latFix (s : State) (p : Nat) : State :=
  let l := tsLat (s.rd NETP.PORT_CTL_RATE (i := p)) (s.rd NETP.PORT_CTL_FEC (i := p))
  (s.ww NETP.TS_LAT_RX l.1 (i := p)).ww NETP.TS_LAT_TX l.2 (i := p)
/-- The ports at a tick boundary. -/
def portTick (good : List Nat) (s : State) : State :=
  let re := ports.filter s.retrains
  let off := s.gclOff
  let s := s.applyDue (fun h => pageClass h.pg == 0x0A) portApply
  let s := s.each ports latFix
  let s := s.each (good.filter (fun p => !re.contains p)) linkRise
  s.each ports (fun s p => gclTick (off p) s p)

/-! ## Frames that leave (R115, R297) -/

/-- A started audio packet is counted, with its lateness (R297, R312). -/
def audioLeft (port off v : Nat) (f : TxFrame) (s : State) : State :=
  match f.kind with
  | .audio i leg due =>
    let t := (s.txStamp port off v).getD (s.grid off)
    let s := txCnt 0x100 leg none i s
    let d := (t - 125000 * (due : Int)).toNat
    let s := if s.rw STTX.DEP_MAX i < d then s.ww STTX.DEP_MAX (min 0xFFFFFFFF d) i else s
    if 125000 * ((due : Int) + 1) < t then txCnt 0x108 leg (some 1) i s else s
  | _ => s
/-- The MAC looks for a frame to start at a grid point of the sample (R115). -/
def frameStart (port off v : Nat) (s : State) : State :=
  if 3 < port then s
  else match txTry port off v s with
    | (s, some f) => audioLeft port off v f s
    | (s, none) => s

/-! ## TPLL-A and TPLL-B (R74, R98) -/

/-- The lock of a TPLL changes, and with that of TPLL-A the counter of the media DPLL: DPLL_COUNTER_CHANGE (R74) applies the offset measured
last. What media time then moves by is a free value of at most 2 grid steps (log entry 120). -/
def tpllShow (b : Nat) (v : Bool) (s : State) : State :=
  let was := s.rb CLKG.TPLL_STAT_TS_SRC
  let s := if b = 0 then s.wb CLKG.TPLL_STAT_A_LOCK v else s.wb CLKG.TPLL_STAT_B_LOCK v
  let src := !s.rb CLKG.TPLL_STAT_A_LOCK
  if src = was then s
  else
    let r := s.freshI
    let s := (r.2.wb CLKG.TPLL_STAT_TS_SRC src).onRef (fun q => { q with cntAdd := if src then q.cntOfs else 0 })
    mediaMove (clampI (-2) 2 r.1 * uGrid) s
/-- The stamps of a port are marked invalid (R98): those of the frames that are in progress or wait for their write-back, and of those in the
ingress FIFO. -/
def stampsVoid (p : Nat) (s : State) : State :=
  s.onNet (fun n => { n with
    inFlight := n.inFlight.map (fun e => if e.1 = p then (e.1, e.2.map (fun f => (f.1, { f.2 with stamp := none }))) else e)
    hostDone := n.hostDone.map (fun x => if x.port = p then { x with stamp := none } else x)
    backlog := n.backlog.map (fun e => if e.1 = p then (e.1, e.2.map (fun w => { w with stamp := none })) else e) })
/-- TPLL_LOSS: the plane's links fail with their SerDes reference, and the DPLL takes the other counter. -/
def tpllLoss (b : Nat) (s : State) : State :=
  if s.tpllLock b = false then s
  else
    let s := tpllShow b false s
    let s := if b = 0 then s.cnt CLKG.TPLL_STAT_A_LOSS else s.cnt CLKG.TPLL_STAT_B_LOSS
    let s := (s.raise 0x02 1 fnsAll).err 0x0303 0x02 0 b 0 none (!s.tpllLock (1 - b) || s.beyond kdPLANE)
    let s := s.each [2 * b, 2 * b + 1] (fun s p => stampsVoid p (linkFail p (linkShow p false ⟨true, false⟩ s)))
    linksFail (b == 1) s

/-! ## The rows -/

/-- LINK_DOWN (R109). -/
def execLinkDown (port : Nat) (fec : Bool) (st : LinkIn) (s : State) : Host.Outcome State Fault Refusal :=
  .next (awake s (if 3 < port ∨ s.linkUp port = false then s else linkFail port (linkShow port fec st s)))
def execFrameTransmit (port : Nat) (x : TxStart) (s : State) : Host.Outcome State Fault Refusal :=
  .next (awake s (frameStart port x.off x.v s))
/-- GATE_ENTRY_CHANGE (R118): the next entry's gates open or close, and a frame that they held may start. -/
def execGateEntryChange (port : Nat) (x : TxStart) (s : State) : Host.Outcome State Fault Refusal :=
  .next (awake s (if s.gating port then frameStart port x.off x.v s else s))
/-- A module's presence is shown, and what its interrupt pin cannot show of a cage that is empty (R132). -/
def qsfpSeen (port : Nat) (present : Bool) (s : State) : State :=
  let s := if s.rb NETP.QSFP_STAT_PRESENT (i := port) = present then s
    else (s.wb NETP.QSFP_STAT_PRESENT present (i := port)).raise (0x0A + port) 1 fnsAll
  if present then s else s.wb NETP.QSFP_STAT_INT false (i := port)
/-- The firmware identifies an inserted module, and takes it out of low power where its class allows (R132). -/
def qsfpRead (port : Nat) (x : QsfpIn) (s : State) : State :=
  let s := modSelect port s
  let low := decide (1 ≤ x.pwrClass ∧ x.pwrClass ≤ 7)
  let s := (s.wr NETP.QSFP_STAT_IDENT x.ident (i := port)).wr NETP.QSFP_STAT_PWR_CLASS x.pwrClass (i := port)
  (s.wb NETP.QSFP_STAT_HIGH_PWR_DENIED (7 < x.pwrClass) (i := port)).onNet (fun n => { n with lpOff := bs n.lpOff port low })
/-- The firmware clears what it showed of a removed module, and the link is down (R132). -/
def qsfpGone (port : Nat) (s : State) : State :=
  let s := s.ww NETP.QSFP_STAT 0 (i := port)
  linkFail port (if s.modReach port then s.onNet (fun n => { n with lpOff := bs n.lpOff port false }) else s)
/-- QSFP_INSERT_REMOVE (R132): while the module's controller is isolated, LPMODE stays as it stands (R575). -/
def execQsfpInsertRemove (port : Nat) (x : QsfpIn) (s : State) : Host.Outcome State Fault Refusal :=
  .next (awake s (if 3 < port ∨ s.bankUp 4 = false then s
    else
      let s := qsfpSeen port x.present s
      let auto := s.rb NETP.QSFP_CTL_AUTO (i := port) && s.fwUp
      if auto = false ∨ (x.present ∧ s.modReach port = false) then s
      else if x.present then qsfpRead port x s else qsfpGone port s))
def execTpllLoss (b : Bool) (s : State) : Host.Outcome State Fault Refusal := .next (tpllLoss (b2n b) s)
/-- TPLL_RELOCK: the plane returns once its links have trained again. -/
def execTpllRelock (b : Bool) (s : State) : Host.Outcome State Fault Refusal := .next (tpllShow (b2n b) true s)

end Sys2Proof.Machine
end

