-- ==== Sys2Proof/Machine/Frame.lean ====
section
/-!
DEFINITION. A frame received on a network port (R110–R114, R123, R131, R507, R526): its checks, its stamp, its one destination,
and what the management processor does with the frames that are its own.
-/
namespace Sys2Proof.Machine

/-! ## Headers -/

/-- The tag and the EtherType of a frame (R111, check 4): whether its tagging is allowed, the EtherType, and what follows. -/
structure Eth where
  tagOk : Bool
  ety : Nat
  l3 : List Byte

def State.ethOf (s : State) (port : Nat) (f : List Byte) : Eth :=
  let a := beNum f 12 2
  if a = 0x8100 then
    let vid := beNum f 14 2 % 4096
    let b := beNum f 16 2
    let listed := (List.range 8).any (fun i => s.rd NETP.VID_LIST_VID i (i := port) == vid)
    { tagOk := vid != 0 && listed && b != 0x8100 && b != 0x88A8, ety := b, l3 := f.drop 18 }
  else { tagOk := a != 0x88A8, ety := a, l3 := f.drop 14 }

/-- An IP packet: version 6 or 4, whether the IPv4 header holds (check 5), addresses, protocol, whether it is a fragment or has
extension headers, and its payload. -/
structure IpPkt where
  v6 : Bool
  hdrOk : Bool
  src : Nat
  dst : Nat
  proto : Nat
  frag : Bool
  ext : Bool
  pl : List Byte

/-- The protocol beyond IPv6 extension headers (RFC 8200): protocol, fragment or not, payload. -/
def ip6Walk : Nat → Nat → Bool → List Byte → Nat × Bool × List Byte
  | 0, p, fr, l => (p, fr, l)
  | n + 1, p, fr, l =>
    if p = 0 ∨ p = 43 ∨ p = 60 then ip6Walk n (byteAt l 0) fr (l.drop (8 + 8 * byteAt l 1))
    else if p = 44 then ip6Walk n (byteAt l 0) true (l.drop 8)
    else (p, fr, l)

def ipOf (ety : Nat) (l : List Byte) : Option IpPkt :=
  if ety = 0x0800 then
    let n := 4 * (byteAt l 0 % 16)
    let ok := byteAt l 0 / 16 == 4 && decide (20 ≤ n) && decide (n ≤ l.length) && checksum (l.take n) == 0
    some { v6 := false, hdrOk := ok, src := beNum l 12 4, dst := beNum l 16 4, proto := byteAt l 9
           frag := beNum l 6 2 % 0x4000 != 0, ext := false, pl := (l.take (beNum l 2 2)).drop n }
  else if ety = 0x86DD then
    let w := ip6Walk 8 (byteAt l 6) false ((l.drop 40).take (beNum l 4 2))
    some { v6 := true, hdrOk := true, src := beNum l 8 16, dst := beNum l 24 16, proto := w.1, frag := w.2.1
           ext := [0, 43, 44, 60].contains (byteAt l 6), pl := w.2.2 }
  else none

def IpPkt.udp (p : IpPkt) : Bool := p.proto == 17 && !p.frag
/-- Check 6: the UDP checksum holds, or over IPv4 there is none. -/
def IpPkt.udpOk (p : IpPkt) : Bool :=
  let n := beNum p.pl 4 2
  let c := beNum p.pl 6 2
  let a := if p.v6 then 16 else 4
  let pseudo := beBytes a p.src ++ beBytes a p.dst ++ (if p.v6 then beBytes 4 n ++ beBytes 4 17 else beBytes 2 17 ++ beBytes 2 n)
  decide (8 ≤ n) && decide (n ≤ p.pl.length) && (if c = 0 then !p.v6 else checksum (pseudo ++ p.pl.take n) == 0)
def IpPkt.dport (p : IpPkt) : Option Nat := if p.udp then some (beNum p.pl 2 2) else none
def IpPkt.payload (p : IpPkt) : List Byte := (p.pl.take (beNum p.pl 4 2)).drop 8

/-! ## Destinations (R114) -/

inductive RxDest where
  | pause
  | ptp (v6 : Bool)
  | audio (i : Nat) (udp : List Byte)
  | mgmt
  | host (f : Filter)
  | none_

/-- 224.0.1.129, 224.0.0.107, FF0E::181 and FF02::6B. -/
def ptpAddrs (v6 : Bool) : List Nat := if v6 then [0xFF0E * 2 ^ 112 + 0x181, 0xFF02 * 2 ^ 112 + 0x6B] else [0xE0000181, 0xE000006B]
def icmpMgmt : List Nat := [130, 131, 132, 133, 134, 135, 136, 137, 143]

/-- Row 3: the frames of the management processor, and the datagrams of R384. -/
def State.isMgmt (s : State) (ety : Nat) (ip : Option IpPkt) : Bool :=
  ety == 0x0806 || match ip with
  | none => false
  | some p => (!p.v6 && p.proto == 2) || (p.v6 && p.proto == 58 && icmpMgmt.contains (byteAt p.pl 0)) ||
      p.dport == some 9875 || p.dport == some (s.rd SECU.UDP_CTL_PORT) || (s.rb ULNK.UMOE_CTL_EN && p.dport == some 50718)

/-- The one destination of a frame that has passed its checks; a truncated frame goes to no audio stream and to no PTP engine
(R112), and IEEE 1722 and MACsec frames go nowhere (R135). -/
def State.rxDest (s : State) (port : Nat) (trunc : Bool) (e : Eth) (ip : Option IpPkt) : RxDest :=
  if e.ety = 0x8808 then .pause
  else if e.ety = 0x22F0 ∨ e.ety = 0x88E5 then .none_
  else
    let special : Option RxDest := if trunc then none else match ip with
      | none => none
      | some p =>
        if p.udp = false then none
        else if (p.dport = some 319 ∨ p.dport = some 320) ∧ (ptpAddrs p.v6 ++ s.ownAddrs port p.v6).contains p.dst then some (.ptp p.v6)
        else if p.ext then none
        else (s.rxMatch port p.v6 p.dst p.src (beNum p.pl 2 2) (beNum p.payload 8 4)).map (fun i => .audio i p.payload)
    match special with
    | some d => d
    | none =>
      if s.isMgmt e.ety ip then .mgmt
      else match s.filterFor port e.ety (ip.map (fun p => (p.dst, p.proto, p.dport))) with
        | some f => .host f
        | none => .none_

/-! ## The management processor's frames (R131, R149, R384, R526) -/

/-- A neighbour shows its MAC address; the cache holds 256 of a port. -/
def neighLearn (port addr mac : Nat) (s : State) : State :=
  let l := tget (fun _ => []) s.net.neigh port
  let rest := l.filter (fun e => e.1 != addr)
  if addr = 0 ∨ 256 ≤ rest.length then s
  else s.onNet (fun n => { n with neigh := tset (fun _ => []) n.neigh port (rest ++ [(addr, s.clock, mac)]) })

/-- ARP (RFC 826): the sender is learned, a request for the port's address answered. -/
def arpReceive (port : Nat) (l : List Byte) (s : State) : State :=
  if l.length < 28 then s
  else
    let s := neighLearn port (beNum l 14 4) (beNum l 8 6) s
    if beNum l 6 2 = 1 ∧ (s.ownAddrs port false).contains (beNum l 24 4) then txMgmt port 64 s else s

/-- Neighbour discovery (RFC 4861): a solicitation for an address of the port is answered; the addresses shown are learned. A solicitation
from no address and an advertisement show that another node uses, or probes for, an address under detection (R131, RFC 4862). -/
def ndReceive (port : Nat) (p : IpPkt) (s : State) : State :=
  let t := byteAt p.pl 0
  let target := beNum p.pl 8 16
  if p.pl.length < 24 then s
  else if t = 135 then
    let s := if p.src = 0 then dadHit port target s else s
    let s := if byteAt p.pl 24 = 1 ∧ 32 ≤ p.pl.length then neighLearn port p.src (beNum p.pl 26 6) s else s
    if (s.ownAddrs port true).contains target then txMgmt port 90 s else s
  else if t = 136 then
    let s := dadHit port target s
    if byteAt p.pl 24 = 2 ∧ 32 ≤ p.pl.length then neighLearn port target (beNum p.pl 26 6) s else s
  else s

/-- A datagram of R384 holds one whole MGMT cell. -/
def umoeReceive (g : Nat) (c : List Byte) (fw : FwMsg) (s : State) : State :=
  let hdr := cellNum c 0 8
  if cellCrcOk c && fbits hdr 63 60 == cyMGMT then mgmtCell 6 g hdr ((c.drop 8).take 240) fw s else s

/-- UDP_COMMAND (R526): malformed datagrams are dropped, a datagram whose reply is kept receives it again, a full queue drops,
and any other waits for the management processor; one with an undefined opcode completes there at once. -/
def udpCommand (port : Nat) (p : IpPkt) (s : State) : State :=
  let b := p.payload
  if s.fwUp = false ∨ s.rb SECU.UDP_CTL_EN = false ∨ bit (s.rd SECU.UDP_CTL_PORTS) port = false ∨
      (s.ownAddrs port p.v6).contains p.dst = false then s
  else if b.length < 16 ∨ b.length ≠ 16 + leNat ((b.drop 8).take 4) then s.cntr SECU.UDP_MALFORMED
  else
    let slot := byteAt b 16
    let resend := if b.length < 56 then none else
      (tget (fun _ => []) s.cmd.kept slot).find? (fun k => k.counter == leNat ((b.drop 24).take 8) && k.mac == (b.drop 40).take 16)
    match resend with
    | some k => txMgmt port (replyLen p.v6 k.reply) (s.cntr SECU.UDP_RESENT)
    | none =>
      if 64 ≤ s.cmd.udpQ then s.cntr SECU.UDP_DROPPED
      else
        let s := s.onCmd (fun c => { c with udpQ := c.udpQ + 1 })
        if opcodeKnown (leNat (b.take 2)) then s
        else
          let e : Env := { tr := .udp port p.v6 p.src (beNum p.pl 0 2), fn := 0, tag := leNat ((b.drop 4).take 2), lenOk := true
                           bytes := b, auth := none, respMax := 0 }
          complete e stBAD_OPCODE 0 [] false s

/-- A frame reaches the management processor; `mute` says that a UDP command in it is dropped. -/
def mgmtReceive (port : Nat) (trunc mute : Bool) (e : Eth) (ip : Option IpPkt) (x : FrameIn) (s : State) : State :=
  if s.fwUp = false then s
  else if e.ety = 0x0806 then arpReceive port e.l3 s
  else match ip with
  | none => s
  | some p =>
    if p.v6 ∧ p.proto = 58 then
      if byteAt p.pl 0 = 130 then queryReceive port true (if 28 ≤ p.pl.length then 2 else 1) (beNum p.pl 8 16) s else ndReceive port p s
    else if p.v6 = false ∧ p.proto = 2 then
      if byteAt p.pl 0 = 0x11 then
        queryReceive port false (if 12 ≤ p.pl.length then 3 else if byteAt p.pl 1 = 0 then 1 else 2) (beNum p.pl 4 4) s
      else s
    else if p.dport = some (s.rd SECU.UDP_CTL_PORT) then (if mute then s else udpCommand port p s)
    else if trunc then s
    else if p.dport = some 9875 then
      match x.sap with
      | some m => if s.rx.sapAddrs.contains p.dst then sapReceive m s else s
      | none => s
    else if p.dport = some 50718 then umoeReceive (s.clockGrid 0) p.payload x.fw s
    else s

/-! ## The receive path -/

/-- The FIFO can fill (R113): in CONFIG, ACQUIRE, SAFE and TEST, and in the recovery of the management processor. -/
def State.fifoFills (s : State) : Bool :=
  [mCONFIG, mACQUIRE, mSAFE, mTEST].contains s.mode || s.rb FALT.MGMT_STAT_RECOVERING
/-- Count a wrapping pair of registers on. -/
def cntPair (h l : Reg) (port n : Nat) (s : State) : State :=
  s.wr64 h l ((s.rd64 h l (i := port) + n) % 2 ^ 64) (i := port)

/-- What the checks of R111 make of a frame: whether it is truncated, the frame that goes on, its headers, and the counter of the first
check that drops it. -/
structure Checked where
  trunc : Bool
  f : List Byte
  e : Eth
  ip : Option IpPkt
  bad : Option Reg
/-- The checks of R111 in their order. -/
def State.checked (s : State) (port : Nat) (x : FrameIn) : Checked :=
  let n := x.bytes.length
  let whole := x.bytes.take (n - 4)
  let maxLen := s.rd NETP.MAC_CFG_MAX_LEN (i := port)
  let trunc := decide (maxLen < n)
  let f := if trunc then x.bytes.take maxLen else whole
  let e := s.ethOf port f
  let ip := ipOf e.ety e.l3
  { trunc := trunc, f := f, e := e, ip := ip
    bad :=
      if n < 64 then some NETP.RX_RUNT
      else if 0 < x.fecUncorr ∨ leNat (x.bytes.drop (n - 4)) ≠ fcs whole then some NETP.RX_FCS_ERR
      else
        let r := if e.tagOk = false then some NETP.RX_VID_DROP
          else if ip.any (fun p => !p.hdrOk) then some NETP.RX_IP_CSUM_ERR
          else if ip.any (fun p => p.udp && !trunc && !p.udpOk) then some NETP.RX_UDP_CSUM_ERR
          else none
        if trunc then r.map (fun _ => NETP.RX_OVERSIZE) else r }
/-- The frame is bound for the management processor. -/
def State.mgmtBound (s : State) (port : Nat) (c : Checked) : Bool :=
  c.bad.isNone && match s.rxDest port c.trunc c.e c.ip with | .mgmt => true | _ => false
/-- In recovery, audio and PTP frames bypass the backlog. -/
def State.bypass (s : State) (port : Nat) (c : Checked) : Bool :=
  s.rb FALT.MGMT_STAT_RECOVERING && c.bad.isNone &&
    match s.rxDest port c.trunc c.e c.ip with | .ptp _ => true | .audio .. => true | _ => false

/-- The frame reaches its destination. A truncated frame has been counted already, and no counter counts it again (R111). -/
def rxDeliver (port : Nat) (c : Checked) (w : Waiting) (s : State) : State :=
  let count := fun (r : Reg) => if c.trunc then s else s.cntr r (i := port)
  match s.rxDest port c.trunc c.e c.ip with
  | .pause => count NETP.RX_PAUSE
  | .ptp v6 =>
    match w.x.ptp, w.stamp with
    | some m, some g => if v6 = s.rb TIME.PTP_CTL_IPV6 (i := planeOf port) then ptpMessage port g m s else s
    | _, _ => s
  | .audio i udp => match w.stamp with | some g => rxArrive i (planeOf port) g udp s | none => s
  | .mgmt => if w.x.room then mgmtReceive port c.trunc w.mute c.e c.ip w.x s else count NETP.RX_QUEUE_DROP
  | .host t => netRx t.fn t.x.ring port w.stamp c.trunc c.f s
  | .none_ => count NETP.RX_NO_MATCH

/-- A frame leaves the ingress FIFO: it is counted under R111, and one that passes is delivered. -/
def frameJudge (port : Nat) (w : Waiting) (s : State) : State :=
  let c := s.checked port w.x
  match c.bad with
  | some r => s.cntr r (i := port)
  | none =>
    let s := if c.trunc then s.cntr NETP.RX_OVERSIZE (i := port)
      else cntPair NETP.RX_OCTETS_HI NETP.RX_OCTETS_LO port w.x.bytes.length
        (cntPair NETP.RX_FRAMES_HI NETP.RX_FRAMES_LO port 1 s)
    rxDeliver port c w s

/-- Frames leave the ingress FIFO in order (R113): one bound for the management processor only where that takes it, of which it takes `k`,
and any other at line rate. Answered are the frames that stay and how many the processor could still take. -/
def fifoRun (port : Nat) : Nat → List Waiting → State → Nat × List Waiting × State
  | k, [], s => (k, [], s)
  | k, w :: t, s =>
    if s.mgmtBound port (s.checked port w.x) then
      match k with
      | 0 => (0, w :: t, s)
      | k + 1 => fifoRun port k t (frameJudge port w s)
    else fifoRun port k t (frameJudge port w s)
def State.backlogOf (s : State) (port : Nat) : List Waiting := tget (fun _ => []) s.net.backlog port
/-- The ingress FIFO gives up what it can, the frames of a list last in it. -/
def fifoFlow (port k : Nat) (new : List Waiting) (s : State) : Nat × State :=
  let r := fifoRun port k (s.backlogOf port ++ new) s
  (r.1, r.2.2.onNet (fun n => { n with backlog := tset (fun _ => []) n.backlog port r.2.1 }))
/-- The octets that wait in the ingress FIFO of 256 KiB. -/
def State.fifoUsed (s : State) (port : Nat) : Nat := (s.backlogOf port).foldl (fun a w => a + w.x.bytes.length) 0

/-- A frame has arrived whole: the codewords it came in are counted, and it enters the ingress FIFO, which drains at line rate or, in the
modes of R113, as the management processor takes its frames. -/
def frameReceive (port off : Nat) (x : FrameIn) (s : State) : State :=
  let s := if x.fecCorr = 0 then s else cntPair NETP.FEC_CORR_HI NETP.FEC_CORR_LO port x.fecCorr s
  let s := if x.fecUncorr = 0 then s else (s.cntr NETP.FEC_UNCORR (i := port) (n := x.fecUncorr)).raise (0x0A + port) 3 fnsAll
  let w : Waiting := { x := x, stamp := s.rxStamp port off x.v, g := s.grid off, mute := false }
  if s.fifoFills = false then (fifoFlow port ((s.backlogOf port).length + 1) [w] s).2
  else if s.bypass port (s.checked port x) then frameJudge port w s
  else
    let r := fifoFlow port (if s.fwUp then x.taken else 0) [] s
    if 262144 < r.2.fifoUsed port + x.bytes.length then (r.2.cntr NETP.RX_OVF (i := port)).raise (0x0A + port) 4 fnsAll
    else (fifoFlow port r.1 [w] r.2).2

/-- The ingress FIFOs at a tick boundary: outside the modes of R113 they drain, and in them the management processor has taken a number of
frames that the spec does not state. -/
def fifoTick (s : State) (port : Nat) : State :=
  if s.backlogOf port = [] then s
  else if s.fifoFills = false then (fifoFlow port (s.backlogOf port).length [] s).2
  else if s.fwUp then
    let r := s.fresh
    (fifoFlow port r.1 [] r.2).2
  else s

/-- FRAME_RECEIVE (R111): a frame arrives whole on a port whose link is up. -/
def execFrameReceive (port off : Nat) (x : FrameIn) (s : State) : Host.Outcome State Fault Refusal :=
  .next (awake s (if port < 4 ∧ s.linkUp port then frameReceive port off x s else s))

end Sys2Proof.Machine
end

