-- ==== Sys2Proof/Machine/Security.lean ====
section
/-!
DEFINITION. Keys, firmware and debug access (R531–R553).
-/
namespace Sys2Proof.Machine

/-! ## Keys (R535–R537) -/

/-- The slots whose KEY_LOAD and KEY_RETIRE of a target are permitted, beside the target's own tenant. -/
def keySlotsFor (t sl : Nat) : Bool := sl == 0 || (1 ≤ t && t ≤ 7 && 8 ≤ sl && sl ≤ 14)
/-- The bytes that a wrapping key is derived from: "WXKEK", T, COUNTER. -/
def kekText (t counter : Nat) : List Byte := asc "WXKEK" ++ natLE 1 t ++ natLE 8 counter
/-- The key that wraps a load: of the slot that authenticates it, or the provisioning key. -/
def State.wrapKey (s : State) (a : AuthBlk) : Nat := if a.slot = 0xFF then s.flash.prov else (og s.flash.keys a.slot).getD 0
def isProv (e : Env) : Bool := match e.auth with | some a => a.slot == 0xFF | none => false

def execKeyLoad (e : Env) (t : Nat) (wrapped : List Byte) (s : State) : Host.Outcome State Fault Refusal :=
  .next (runCmd { crit := true, prov := t == 0, slots := keySlotsFor t,
                  modes := fun m => (1 ≤ t && t ≤ 7) || m == mSAFE || (t == 0 && isProv e) } e
    (fun fn _ => if fn = 0 ∨ fn = t then none else some stNOT_OWNER) (fun fn s =>
      if 15 < t ∨ wrapped.length ≠ 40 then no stBAD_FIELD
      else match e.auth with
        | none => no stBAD_FIELD
        | some a =>
          match aesUnwrap (hmac256 (s.wrapKey a) (kekText t a.counter)) wrapped with
          | none => no stAUTH_FAIL
          | some k => .later (flashAdd 3 e fn (.keyLoad t k) s)) s)
def execKeyRetire (e : Env) (t : Nat) (s : State) : Host.Outcome State Fault Refusal :=
  .next (runCmd { crit := true, pf0 := true, slots := keySlotsFor t, modes := fun m => (1 ≤ t && t ≤ 7) || m == mSAFE } e anyone
    (fun fn s => if t = 0 ∨ 15 < t then no stBAD_FIELD else .later (flashAdd 3 e fn (.keyRetire t) s)) s)
def execKeyStatus (e : Env) (s : State) : Host.Outcome State Fault Refusal :=
  .next (runCmd { read := true } e anyone (fun fn s =>
    let l := if fn = 0 then keySlots else [fn]
    retL s 3 (l.flatMap (fun t => [s.rw SECU.SLOT_STAT t, s.rw SECU.SLOT_CTR_HI t, s.rw SECU.SLOT_CTR_LO t]))) s)
def secCounters : List Nat := (List.range 7).map (fun i => 0x060 + 4 * i)
def execSecStatus (e : Env) (s : State) : Host.Outcome State Fault Refusal :=
  .next (runCmd { read := true } e anyone (fun fn s =>
    ret s ([s.rw SECU.SEC_STAT, s.rw SECU.FW_STAT, s.rw SECU.FW_VER_A, s.rw SECU.FW_VER_B] ++
      if fn = 0 then secCounters.map (s.gw 0x23 0) else [])) s)

/-! ## Staging (R544) -/

/-- The transport, whatever its ring, port or sender. -/
def trKind (t : Transport) : Nat := match t with | .pcie _ => 0 | .udp .. => 1 | .spi => 2 | .tunnel _ => 3
/-- The session is the caller's: its function, and its transport. -/
def sessionOwn (tr : Option Transport) (fn : Nat) (s : State) : Option Nat :=
  match s.cmd.session with
  | some x => if x.fn = fn ∧ (match tr with | some t => trKind t == trKind x.tr | none => true) = true then none else some stNOT_OWNER
  | none => some stNOT_OWNER
/-- The staging slot holds no image: the sector of its header is erased. -/
def slotErase (s : State) : State :=
  let sl := s.stagingSlot
  versionShow ((s.cntr LSIO.ERASES).onFlash (fun f => { f with image := os f.image sl none, staged := [] }))
/-- A session ends without an image: the slot is INVALID. -/
def stageEnd (s : State) : State := stageSet 3 (slotErase (s.onCmd (fun c => { c with session := none })))
/-- What has been staged, read as an image. -/
def State.stagedImage (s : State) : Image :=
  let byte := fun (i : Nat) => tget (fun _ => 0xFF#8) s.flash.staged i
  let hdr := (List.range 512).map byte
  { hdr := hdr, body := (List.range (min (slotBytes - 512) (hdrLE hdr 0x008 4))).map (fun i => byte (512 + i)) }
def State.stageBusy (s : State) : Bool := s.flashOps.any (fun o => match o.what with | .stage _ _ => true | _ => false)

def execFwStageOpen (e : Env) (s : State) : Host.Outcome State Fault Refusal :=
  .next (runCmd { crit := true, pf0 := true } e anyone (fun fn s =>
    if s.cmd.session.isSome ∨ s.flash.trial then no stBUSY
    else
      let x : Session := { fn := fn, tr := e.tr, last := s.clock }
      done (stageSet 1 (slotErase (s.onCmd (fun c => { c with session := some x }))))) s)
def execFwStageWrite (e : Env) (ofs : Nat) (data : List Byte) (s : State) : Host.Outcome State Fault Refusal :=
  .next (runCmd {} e (sessionOwn (some e.tr)) (fun fn s =>
    if ofs % 256 ≠ 0 ∨ 65536 < data.length ∨ slotBytes < ofs + data.length then no stBAD_FIELD
    else
      let now := s.clock
      .later (flashAdd 7 e fn (.stage ofs data) (s.onCmd (fun c => { c with session := c.session.map (fun x => { x with last := now }) })))) s)
/-- FW_STAGE_CLOSE: the image is verified; it waits for the writes that are still in progress. -/
def execFwStageClose (e : Env) (s : State) : Host.Outcome State Fault Refusal :=
  .next (runCmd {} e (sessionOwn (some e.tr)) (fun _ s =>
    if s.stageBusy then no stBUSY
    else
      let g := s.stagedImage
      let f := imageCheck g s
      if f = 0 then
        let sl := s.stagingSlot
        let s := s.onFlash (fun x => { x with image := os x.image sl (some g) })
        done (stageSet 2 (versionShow ((s.wr SECU.FW_STAT_FAIL_CHECK 0).onCmd (fun c => { c with session := none }))))
      else .later (complete e stIMAGE_BAD f [] true (stageEnd (s.wr SECU.FW_STAT_FAIL_CHECK f)))) s)
def execFwStageAbort (e : Env) (s : State) : Host.Outcome State Fault Refusal :=
  .next (runCmd {} e (sessionOwn none) (fun _ s => done (stageEnd s)) s)
/-- 60 s without a write end the session. -/
def stageTimeout (s : State) : State :=
  match s.cmd.session with
  | some x => if x.last + 60 * 96000 ≤ s.clock then stageEnd s else s
  | none => s
def execStageTimeout (s : State) : Host.Outcome State Fault Refusal := .next (awake s (stageTimeout s))

/-! ## Activation and confirmation (R545, R546) -/

def execFwActivate (e : Env) (s : State) : Host.Outcome State Fault Refusal :=
  .next (runCmd { crit := true, pf0 := true, modes := (· == mSAFE) } e anyone (fun fn s =>
    if s.rd SECU.FW_STAT_STAGE = 2 then
      .later (flashAdd 4 e fn .activate ((s.wb SECU.SEC_STAT_ACT_PEND true).onCmd (fun c => { c with restartPend := true })))
    else no stBUSY) s)
/-- The trial image is confirmed: the trial flag clears, the floor rises, keys are revoked. -/
def confirm (s : State) : State :=
  if s.flash.trial = false then s
  else
    let s := bootShow (s.onFlash (fun f => { f with trial := false }))
    match og s.flash.image (s.rd SECU.FW_STAT_ACTIVE_SLOT) with
    | none => s
    | some g =>
      let up := bit (imgFlags g) 0 && decide (s.flash.svnFloor < imgSvn g)
      let rv := fbits (imgFlags g) 7 4
      let gone := rv - (rv &&& 2 ^ imgKey g)
      otpShow (s.onFlash (fun f => { f with svnFloor := if up then imgSvn g else f.svnFloor, revoked := f.revoked ||| gone }))
def execFwConfirm (e : Env) (s : State) : Host.Outcome State Fault Refusal :=
  .next (runCmd { pf0 := true } e anyone (fun _ s => done (confirm s)) s)
/-- CONFIRM_SEC seconds in the running group without a break confirm the image. -/
def confirmTimer (s : State) : State :=
  let n := s.rd SECU.FW_CTL_CONFIRM_SEC
  if n ≠ 0 ∧ 96000 * n ≤ s.cmd.runFor then confirm s else s
def execFwConfirmTimer (s : State) : Host.Outcome State Fault Refusal := .next (awake s (confirmTimer s))
/-- The 512 bytes of a slot's header; flash without an image reads as erased. -/
def State.hdrWords (s : State) (sl : Nat) : List Nat :=
  match og s.flash.image sl with
  | some g => (chunks 4 128 g.hdr).map leNat
  | none => (List.range 128).map (fun i => leNat ((List.range 4).map (fun j =>
      if s.stagingSlot = sl then tget (fun _ => 0xFF#8) s.flash.staged (4 * i + j) else 0xFF#8)))
def execFwStatus (e : Env) (s : State) : Host.Outcome State Fault Refusal :=
  .next (runCmd { pf0 := true, read := true } e anyone (fun _ s => ret s ([s.rw SECU.FW_STAT] ++ s.hdrWords 0 ++ s.hdrWords 1)) s)

/-! ## Debug access, factory erase, UDP settings (R547–R549, R553) -/

/-- Which parts of debug access are open. -/
def dbgSet (parts : Nat) (s : State) : State :=
  let was := s.rb SECU.SEC_STAT_DBG_UNLOCKED
  let s := (s.wr SECU.DBG_SCOPE_OPEN parts).wb SECU.SEC_STAT_DBG_UNLOCKED (parts != 0)
  if was = (parts != 0) then s else s.raise 0x23 3 fnsPF0
def execDebugUnlock (e : Env) (parts : Nat) (s : State) : Host.Outcome State Fault Refusal :=
  .next (runCmd { crit := true, pf0 := true, slots := (· == 15), modes := fun m => m == mSAFE || m == mTEST } e anyone (fun _ s =>
    if 3 < parts then no stBAD_FIELD
    else done (s.onCmd (fun c => { c with dbgPend := some (c.dbgPend.getD 0 ||| parts) }))) s)
def execDebugLock (e : Env) (s : State) : Host.Outcome State Fault Refusal :=
  .next (runCmd { pf0 := true } e anyone (fun _ s => done (dbgSet 0 (s.onCmd (fun c => { c with dbgPend := none })))) s)
def execFactoryErase (e : Env) (s : State) : Host.Outcome State Fault Refusal :=
  .next (runCmd { crit := true, pf0 := true, slots := (· == 0), modes := (· == mSAFE) } e anyone (fun fn s =>
    let s := (s.wb SECU.SEC_STAT_ERASE_PEND true).onCmd (fun c => { c with restartPend := true })
    .later (flashAdd 6 e fn .erase (s.onFlash (fun f => { f with erasePend := true })))) s)
def execMgmtUdpConfig (e : Env) (w : Nat) (s : State) : Host.Outcome State Fault Refusal :=
  .next (runCmd { pf0 := true } e anyone (fun _ s =>
    if 2 ^ 32 ≤ w ∨ w &&& 0x7FF00000 ≠ 0 then no stBAD_FIELD else done (s.onCmd (fun c => { c with udpPend := some w }))) s)

/-- Security at a tick boundary: counters cleared, debug parts opened, UDP settings applied, the time in the running group, and what firmware
does at the end of a time where its event has not done it. -/
def secTick (s : State) : State :=
  let s := if s.cmd.secClr then s.each secCounters (fun s o => s.pw 0x23 0 o 0) else s
  let s := match s.cmd.dbgPend with | some p => dbgSet (s.rd SECU.DBG_SCOPE_OPEN ||| p) s | none => s
  let s := match s.cmd.udpPend with | some w => s.ww SECU.UDP_CTL w | none => s
  let n := if running s.mode then s.cmd.runFor + 32 else 0
  let s := s.onCmd (fun c => { c with secClr := false, dbgPend := none, udpPend := none, authRaised := false, runFor := n })
  if s.fwUp then confirmTimer (stageTimeout s) else s

end Sys2Proof.Machine
end

