-- ==== Sys2Proof/Machine/Boundary.lean ====
section
/-!
DEFINITION. The boundaries that media time marks: the sample boundary with its five steps (R25) and the tick boundary every 32
samples (R16), and the order in which the blocks act at each.
-/
namespace Sys2Proof.Machine

/-! ## Counters that a CLEAR clears (R136, R173, R234, R311, R396, R404, R596) -/

def offsets (base n : Nat) : List Nat := (List.range n).map (fun i => base + 4 * i)
def zeroRegs (pg obj : Nat) (l : List Nat) (s : State) : State := s.each l (fun s o => s.pw pg obj o 0)
/-- Clear the counters that one request names: a page and an object. -/
def clearOne (s : State) (c : Nat × Nat) : State :=
  let pg := c.1
  let o := c.2
  if pageClass pg = 0x0A then zeroRegs pg 0 (offsets 0x200 36) s
  else if pg = 0x0E then (if o < 1024 then rxClear o s else s.each (List.range 1024) (fun s i => rxClear i s))
  else if pg = 0x0F then
    if o < 1024 then zeroRegs 0x0F o (offsets 0x100 8) s
    else s.each (List.range 1024) (fun s i => zeroRegs 0x0F i (offsets 0x100 8) s)
  else if pg = 0x10 then zeroRegs 0x10 o [0x060, 0x068, 0x06C, 0x070] s
  else if pg = 0x11 then
    if o < 4096 then s.ww XPNT.IN_CLIPS 0 o
    else s.each (s.listed 0x11 XPNT.IN_CLIPS.off) (fun s x => if s.xinOwner x = o - 4096 then s.ww XPNT.IN_CLIPS 0 x else s)
  else if pageClass pg = 0x14 then zeroRegs pg o (offsets 0x110 6) s
  else if pg = 0x18 then zeroRegs 0x18 o (offsets 0x10C 7) s
  else if pg = 0x1A ∧ o = 1 then zeroRegs 0x1A 0 (offsets 0x21C 4) s
  else if pageClass pg = 0x1A then zeroRegs pg 0 (offsets 0x100 12) s
  else if pg = 0x20 then (zeroRegs 0x20 0 (offsets 0x0C0 16) s).ww FALT.MEM_LOST 0
  else if pg = 0x24 then (if o < 4 then zeroRegs 0x24 o (offsets 0x108 3) s else zeroRegs 0x24 0 (offsets 0x308 3) s)
  else if 0x40 ≤ pg then
    if o < 64 then s.ww SIG.OUT_CLIPS 0 o (pg - 0x40) else zeroRegs pg 0 (offsets 0x064 9) s
  else s
def clearTick (s : State) : State :=
  let l := s.cmd.clr
  s.each l clearOne |>.onCmd (fun c => { c with clr := [] })

/-! ## The tick boundary (R16, R25 step 1) -/

/-- The pending values of the management pages (R568); the host pages and the ports apply their own. -/
def tickRwb (s : State) : State :=
  let s := s.applyDue (fun h => h.pg == 0x24) gpioApply
  s.applyDue (fun h => tickPage h.pg && h.pg != 0x24 && h.pg != 0x21 && pageClass h.pg != 0x0A) State.applyHeld

/-- What media time, its references and the ports that carry it do at a tick boundary; the collator then recomputes from that
tick's offsets (R35, R51). -/
def timeTick (x : TickIn) (s : State) : State :=
  let s := tb3Note (ig s.tim.ofs 3) (ltcTick (tbSets s))
  let s := umaTick s
  let s := refTick { x with ofs := if s.parentPair.isSome then x.ofs.filter (fun p => p.1 != 2) else x.ofs } s
  publishOfs (collRecompute (s.each [0, 1] ptpTick))

/-- What streams and local ports do at a tick boundary; what they enable there starts its ratio group there (R190). -/
def audioTick (s : State) : State :=
  let s := srcTick (txCommitTick (rxCommitTick (localTick s)))
  sapTick (sdpTick (rxLockTick (rxTick s)))

/-- What the crosspoint and the meters publish for the tick that ends (R224, R228, R263, R273, R379). -/
def sumTick (runs : Bool) (s : State) : State :=
  let s := tenantTick (assignTick s)
  let s := popHier (if runs then popCountAll (s.startsAt (s.tim.sample + 1)) (fun _ => 0) s else s)
  let s := if runs then popTick s else s.onXp (fun q => { q with popN := [] })
  metPublish runs (saveTick (allocTick s))

/-- Everything that acts at the boundary of the tick that `s.tim.sample` begins, in order; a restart of the device comes
last (R545, R549). -/
def tickWork (x : TickIn) (s : State) : State :=
  let runs := sumModes s.mode && s.tim.published
  let s := sumTick runs (tickRwb (publish s))
  let s := (txLoads (portTick x.linkGood (audioTick (timeTick x s)))).each ports fifoTick
  let s := errataTick (redundTick (patrolTick s))
  let s := hostTick (secTick (clearTick s))
  let s := modeTick x s
  if s.mode < 3 then s
  else
    let s := hostModeTick s
    if s.md.restart then restartDevice s else s

/-- A tick at whose boundary nothing was measured. -/
def TickIn.still (s : State) : TickIn :=
  { ofs := [], freq := none, cfreq := [], cntOfs := none, temps := [], linkGood := [], rails := s.rd PWR.RAIL_STAT_OK }

def State.at (s : State) (n : Nat) : State := s.onTim (fun t => { t with sample := n })
/-- The present sample period is the last of its tick. -/
def State.tickEnds (s : State) : Bool := (s.tim.sample + 1) % 32 == 0
/-- The work of the tick boundary that ends the present sample period, done once. -/
def tickOnce (x : TickIn) (s : State) : State :=
  if s.tickEnds = false ∨ s.tim.tickDone then s
  else
    let p := s.tim.sample
    let s := tickWork x ((bankStep (rxJudge s)).at (p + 1))
    if s.mode < 3 then s else (s.at p).onTim (fun t => { t with tickDone := true })

/-! ## The sample boundary (R25) -/

/-- A collator slot's action (R48): TURN, PORT_START, STREAM_START, STREAM_STOP, GPIO_PULSE, METER_SNAPSHOT, ASRC_RELOCK, ALIGN. -/
def collAct (s : State) (i : Nat) : State :=
  let p := s.rw COLL.SLOT_PARAM0 i
  let st := p % 1024
  match s.rd COLL.SLOT_CTL_ACTION i with
  | 1 => turnAct i s
  | 2 => portStart p s
  | 3 => if bit p 10 then txStartNow st s else rxStart st s
  | 4 => if bit p 10 then txStopNow st s else rxStop st s
  | 5 => pinPulse (p % 64) (bit p 6) (s.rw COLL.SLOT_PARAM1 i) s.tim.sample s
  | 6 => snapAct i (p % 16) s
  | 7 => relockNow (p % 256) s
  | 8 => alignFire (p % 4096) s
  | _ => s

/-- Step 2: pending values of XPNT and the signatures, SCNE, METR, and the links' selectors. -/
def sampleRwb (s : State) : State :=
  umaRwb ((xpRwb s).applyDue (fun h => h.pg == 0x12 || h.pg == 0x13) State.applyHeld)

/-- Links that have failed fall and scene loads begin, then steps 3 and 4: collator actions in slot order, relocks that wait, turns. -/
def sampleActs (s : State) : State :=
  let s := pulseEdges s.tim.sample (fireSlots collAct (loadsStart (linkStep (handOver s))))
  let rl := s.src.relockPend
  let s := (s.onSrc (fun c => { c with relockPend := [] })).each rl (fun s g => relockNow g s)
  versoStep (turnStep s)

/-- The input vector of the present sample, with gates and activity (R210–R212, R278). -/
def vectorStep (s : State) : State := metNoteIn (activity (gates (assemble s)))
/-- No crosspoint runs: its values are gone. -/
def vectorOff (s : State) : State := s.onXp (fun q => { q with vec := [], vec1 := [], vec2 := [], act := [] })

/-- The sums and what follows from them; a coefficient word that memory has lost reads 0 in these sums alone (R407). -/
def sumStep (missed lost : List Nat) (s : State) : State :=
  let z := s.flt.zero
  if z.isEmpty then umaOutputs missed lost s
  else
    let banks := s.scn.banks
    let s := z.foldl (fun s e => setBank e.1 e.2.1 ((List.range 4).foldl (fun t j => ns t (e.2.2 + j) 0) (s.bank e.1 e.2.1)) s) s
    let s := umaOutputs missed lost s
    (s.onScn (fun c => { c with banks := banks })).onFlt (fun f => { f with zero := [] })

/-- Step 5 and the other per-sample work. -/
def sampleFlow (missed lost : List Nat) (s : State) : State :=
  let runs := sumModes s.mode && s.tim.published
  let s := umaIn (localIn (rxPresent ((metLatch s).each ports gclCycle)))
  let s := if runs then vectorStep s else vectorOff s
  let s := sumStep (if runs then missed else []) (if runs then lost else []) s
  let s := if runs then metNoteOut s else s
  capSample (umaEnd (localOut (talker s)))

/-- What the end of the present sample period does before the index advances: the faults found in it, and at the end of a tick the
tick boundary's work where TICK_BOUNDARY has not done it. -/
def periodWork (x : SampleIn) (s : State) : State :=
  let s := bankStep (sampleFaults x (rxJudge s))
  if s.tickEnds then tickOnce (TickIn.still s) s
  else if sumModes s.mode && s.tim.published then popCountAll (s.startsAt (s.tim.sample + 2)) (fun _ => 0) s
  else s
/-- The index of the next sample period (R14); a step of media time takes effect here (R75). -/
def State.nextIndex (s : State) : Nat := s.md.stepTo.getD (s.tim.sample + 1)
/-- An index moved by d. -/
def moved (d : Int) (n : Nat) : Nat := ((n : Int) + d).toNat
/-- Media time steps, and the next sample period has index `new` in place of n: what waits for a boundary waits for the same one, the first
boundary or tick boundary after the step standing for the first before it (R27, R84), and what runs by its index goes on. -/
def rebase (n new : Nat) (s : State) : State :=
  let d : Int := (new : Int) - n
  let td : Int := (cdiv new 32 : Int) - cdiv n 32
  let mvT := fun (t : Tbl (Option Nat)) => t.map (fun e => (e.1, e.2.map (moved d)))
  let mvR := fun (t : Tbl (Option (Nat × Nat × Nat))) => t.map (fun e => (e.1, e.2.map (fun r => (r.1, r.2.1, moved d r.2.2))))
  let s := s.onHeld (fun l => l.map (fun h => { h with due := if tickPage h.pg then moved (32 * td) h.due else moved d h.due }))
  let s := s.onHost (fun h => { h with
    reclaims := h.reclaims.map (fun r => { r with start := moved (32 * td) r.start }), rampOut := mvT h.rampOut, rampIn := mvT h.rampIn })
  let s := s.onMd (fun m => { m with req := m.req.map (fun r => (r.1, moved td r.2)) })
  let mvF := fun (f : TxFrame) => match f.kind with
    | .audio i leg due => { f with kind := .audio i leg (moved d due) }
    | _ => f
  let s := s.onNet (fun x => { x with
    inFlight := x.inFlight.map (fun e => (e.1, e.2.map (fun f => (moved (125000 * d) f.1, mvF f.2))))
    txq := x.txq.map (fun e => (e.1, e.2.map mvF)) })
  let s := s.onRx (fun r => { r with commit := r.commit.map (fun c => (c.1, moved td c.2)) })
  let s := s.onFlt (fun f => { f with tip := f.tip.map (fun t => (t.1, moved d t.2.1, t.2.2)) })
  let mvK := fun (i k : Nat) => moved (cdivI (d * s.txHz i) 96000) k
  let s := s.onTx (fun t => { t with commit := t.commit.map (fun c => (c.1, moved td c.2)), win := t.win.map (fun e => (e.1, e.2.map (fun w => (mvK e.1 w.1, w.2.map (mvK e.1))))) })
  let s := s.onSrc (fun c =>
    let sh := fun (t : Tbl (Option (Int × Int))) => t.map (fun e => (e.1, e.2.map (fun m => (m.1, m.2 + 125000 * d))))
    let mvN := fun (t : Tbl Nat) => t.map (fun e => (e.1, moved d e.2))
    { c with
      loop := c.loop.map (fun e => (e.1, e.2.map (fun q => (q.1, q.2.1 + 125000 * d * 2 ^ 32, q.2.2))))
      meas := sh c.meas, prev := sh c.prev, fadeAt := mvN c.fadeAt
      dropAt := c.dropAt.map (fun e => (e.1, if e.2 = 0 then 0 else moved d e.2)) })
  let s := s.onLoc (fun l => { l with
    startAt := mvT l.startAt, txFade := l.txFade.map (fun e => (e.1, if e.2 = 0 then 0 else moved d e.2)) })
  let s := s.onXp (fun x => { x with
    trim := mvR x.trim, xfade := mvR x.xfade, popK := mvR x.popK, alloc := x.alloc.map (fun a => (moved td a.1, a.2))
    inPend := x.inPend.map (moved d), hist := (x.hist.filter (fun e => decide (-d ≤ (e.1 % 2 ^ 64 : Nat)))).map (fun e => (moved d e.1, e.2))
    allocAt := x.allocAt.map (fun e => (e.1, if e.2 = 0 then 0 else moved d e.2)) })
  s.onUma (fun u => { u with
    copyAt := u.copyAt.map (moved td), digDue := u.digDue.map (moved td), changes := u.changes.map (fun c => (moved td c.1, c.2))
    later := u.later.map (fun c => (moved td c.1, c.2)) })
/-- The next sample period begins. -/
def nextPeriod (s : State) : State :=
  let n := s.nextIndex
  let s := if n = s.tim.sample + 1 then s else rebase (s.tim.sample + 1) n s
  (s.onTim (fun t => { t with sample := n, count := t.count + 1, tickDone := false })).onMd (fun m => { m with stepTo := none })
/-- The boundary that ends the present sample period and begins the next. -/
def boundary (x : SampleIn) (s : State) : State :=
  let lost := s.lostSums x
  let s := periodWork x s
  if s.mode < 3 then s else sampleFlow x.overrun lost (sampleActs (sampleRwb (nextPeriod s)))

/-! ## The rows -/

/-- SAMPLE_BOUNDARY: there is none in RESET, BOOT and STANDBY (R446). -/
def execSampleBoundary (x : SampleIn) (s : State) : Host.Outcome State Fault Refusal :=
  .next (if s.mode < 3 then s else boundary x s)
/-- TICK_BOUNDARY: the last sample period of a tick ends with it. -/
def execTickBoundary (x : TickIn) (s : State) : Host.Outcome State Fault Refusal :=
  .next (if s.mode < 3 then s else tickOnce x s)

end Sys2Proof.Machine
end

