-- ==== Sys2Proof/Machine/RegAccess.lean ====
section
/-!
DEFINITION. Register accesses through BAR0 (R554–R569): views, the page header, who may write what, what a write of each
register does, what a read returns and does, and the rows that are register writes.
-/
namespace Sys2Proof.Machine

/-! ## Where an offset leads -/

/-- The canonical offset and the block number of an offset in a page: a mask of a ring counts as block q + 16g. -/
def regPlace (pg off : Nat) : Nat × Nat :=
  if off < 0x040 then (off, 0)
  else if pg = 0x21 ∧ 0x600 ≤ off ∧ off < 0xA00 then (0x600 + off % 8, (off - 0x600) / 0x40 + 16 * (off % 0x40 / 8))
  else match (regionsOf (pageClass pg)).find? (fun r => decide (r.base ≤ off) && decide (off < r.base + r.stride * r.count)) with
  | some r => (r.base + (off - r.base) % r.stride, (off - r.base) / r.stride)
  | none => (off, 0)

/-- Registers that a page of the class does not have: PTP and LTC registers of other planes, hierarchy registers beyond ULNK0,
the output registers of the guard (R70, R138, R205, R396). -/
def regGone (pg off : Nat) : Bool :=
  (0x04 ≤ pg && pg ≤ 0x06 && 0x080 ≤ off && off < 0x0A0) || ((pg == 0x06 || pg == 0x07) && 0x0A0 ≤ off) ||
  (0x1B ≤ pg && pg ≤ 0x1F && 0x200 ≤ off) || (pg == 0x80 && 0x400 ≤ off)

/-- Registers of a repeating block that are reached through a selector, and registers held per function: the object a caller
reaches at an offset (R559). -/
def State.regObj (s : State) (fn pg off i : Nat) : Nat :=
  let f := actsAs fn
  if off < 0x040 then fn
  else match pageClass pg with
  | 0x08 => if off = 0x068 then fn else i
  | 0x0E => if off = 0x040 then fn else if off = 0x044 ∨ 0x180 ≤ off then 0
      else if off < 0x0B4 then stagObj else s.rd STRX.SEL_STREAM fn
  | 0x0F => if off = 0x040 ∨ off = 0x140 then fn else if off = 0x044 then 0
      else if off = 0x144 ∨ off = 0x148 then s.rd STTX.TXCH_IDX_CH fn else if off = 0x1A0 then i else if 0x180 ≤ off then 0
      else if off < 0x0A0 ∨ (0x0B0 ≤ off ∧ off < 0x0C8) then stagObj else s.rd STTX.SEL_STREAM fn
  | 0x10 => if off = 0x040 ∨ off = 0x108 then fn else if off < 0x100 then s.rd SRCB.GRP_SEL_GROUP fn else i
  | 0x11 => if off = 0x040 ∨ off = 0x058 then fn else if off < 0x058 then s.rd XPNT.IN_IDX_XIN fn else i
  | 0x12 => if off = 0x040 ∨ off = 0x080 ∨ off = 0x084 ∨ off = 0x08C then fn else if off < 0x080 then s.rd SCNE.TD_SEL_TD fn else 0
  | 0x13 => if off = 0x044 then s.rd METR.MTR_IDX_METER fn else if off < 0x060 then fn else i
  | 0x1A => if off = 0x240 then fn else if off = 0x244 then s.rd ULNK.UOUT_IDX_CH fn else 0
  | 0x20 => if 0x080 ≤ off ∧ off ≤ 0x0A0 then fn else 0
  | 0x21 => if off = 0x040 ∨ off = 0x04C then f else if off = 0x044 then fn else if off = 0x048 then s.rd HOST.CAPCH_IDX_CH fn
      else if 0xAC0 ≤ off then f else f + 16 * i
  | 0x22 => f + 16 * i
  | _ => i

/-- The selectors, which every caller writes in its own copy. -/
def isSelector (pg off : Nat) : Bool :=
  [(0x08, 0x068), (0x0E, 0x040), (0x0F, 0x040), (0x0F, 0x140), (0x10, 0x040), (0x10, 0x108), (0x11, 0x040), (0x12, 0x040),
    (0x13, 0x040), (0x21, 0x044)].contains (pg, off)
/-- The pages that PF0 alone writes (R568). -/
def pf0Page (pg : Nat) : Bool :=
  let c := pageClass pg
  !([0x08, 0x0E, 0x0F, 0x10, 0x11, 0x12, 0x13, 0x21, 0x22, 0x40].contains c)

/-! ## Views -/

/-- What an alias view writes: the RW fields as the view leaves them, no other bit (R554). -/
def aliasWord (flds : List AccFld) (view : View) (old v : Nat) : Nat :=
  flds.foldl (fun w f =>
    match f.acc with
    | .rw =>
      let o := fbits old f.hi f.lo
      let x := fbits v f.hi f.lo
      fput w f.hi f.lo (match view with
        | .set => o ||| x
        | .clear => o - (o &&& x)
        | .toggle => o ^^^ x
        | .base => x)
    | _ => w) 0
def hasRW (flds : List AccFld) : Bool := flds.any (fun f => f.acc == .rw)
def hasAction (flds : List AccFld) (w : Nat) : Bool := flds.any (fun f => (f.acc == .w1s || f.acc == .wo) && fbits w f.hi f.lo != 0)
/-- A base-view write, or the RW fields alone as an alias view leaves them. -/
def regPut (fn pg obj off : Nat) (base : Bool) (w : Nat) (s : State) : State :=
  if base then s.writeWord fn pg obj off .base w else s.writeRW ⟨pg, off⟩ w obj
/-- Counters to clear at the next tick boundary. -/
def clrAt (pg obj : Nat) (s : State) : State := s.onCmd (fun c => { c with clr := c.clr ++ [(pg, obj)] })

/-! ## The page header (R556, R557, R560, R563) -/

/-- The bits of INT_STAT, INT_EN and INT_FORCE that a page defines (R105, R139, R175, R202, R236, R268, R289, R313, R347, R399,
R442, R472, R523, R552, R597, R627, and R69). -/
def intMask (pg : Nat) : Nat :=
  match pageClass pg with
  | 0x00 => 0x1F
  | 0x01 => 0x07
  | 0x02 => 0x0F
  | 0x03 => 0x3F
  | 0x04 => if pg ≤ 0x05 then 0x700 else 0
  | 0x09 => 0x03
  | 0x0A => 0x7F
  | 0x0E => 0x07
  | 0x0F => 0x0F
  | 0x10 => 0x1F
  | 0x11 => 0x0F
  | 0x12 => 0x07
  | 0x13 => 0x07
  | 0x14 => 0x0F
  | 0x18 => 0x1F
  | 0x19 => 0x01
  | 0x1A => if pg = 0x1A then 0x3F0F else 0x0F
  | 0x20 => 0x3F
  | 0x21 => 0x07
  | 0x23 => 0x0F
  | 0x24 => 0x7F
  | 0x25 => 0x03
  | 0x40 => 0x3F3F07
  | _ => 0

/-- The values that a caller holds on a page are released: they apply together at the first boundary that follows (R563). -/
def applyGo (fn pg : Nat) (s : State) : State :=
  let mine := fun (h : Held) => h.fn == fn && h.pg == pg && h.kept
  let due := fun (h : Held) => if pg = 0x21 ∧ 0x600 ≤ h.off then 32 * (s.accTick + 2) else s.rwbDue pg h.off
  let out := (s.held.filter mine).map (fun h => { h with kept := false, due := due h })
  s.onHeld (fun hs => hs.filter (fun h => !mine h) ++ out)

/-- A write of a header register. -/
def hdrWrite (fn pg off : Nat) (base : Bool) (w : Nat) (s : State) : State :=
  match off with
  | 0x008 => regPut fn pg fn 0x008 base w s
  | 0x00C => if base then s.writeWord fn pg fn 0x00C .base w else s
  | 0x010 => if base then s.pw pg fn 0x010 (s.gw pg fn 0x010 - (s.gw pg fn 0x010 &&& w)) else s
  | 0x014 =>
    let old := s.gw pg fn 0x014
    let new := w &&& intMask pg
    let s := s.pw pg fn 0x014 new
    if s.gw pg fn 0x010 &&& (new - (new &&& old)) ≠ 0 ∧ fn < 8 then
      match s.pageVec fn pg with
      | some v => s.msi fn v
      | none => s
    else s
  | 0x018 => if base then s.each ((List.range 32).filter (fun b => bit (w &&& intMask pg) b)) (fun s b => s.raise1 pg b fn) else s
  | 0x01C =>
    let old := bit (s.gw pg fn 0x01C) 0
    let s := s.pw pg fn 0x01C (w % 2)
    let hold := bit w 0
    let s := if base ∧ bit w 31 then
        applyGo fn pg (s.onHeld (fun hs => hs.map (fun h => if h.fn == fn && h.pg == pg then { h with kept := true } else h)))
      else if hold = old then s
      else s.onHeld (fun hs => hs.map (fun h => if h.fn == fn && h.pg == pg then { h with kept := hold } else h))
    if base ∧ bit w 31 ∧ s.held.any (fun h => h.fn == fn && h.pg == pg && mirroredReg pg h.off) then mirrorNote (pg * 65536) s else s
  | _ => s

/-! ## What writes of the pages' own registers do -/

def wClkg (fn off : Nat) (base : Bool) (w : Nat) (s : State) : State :=
  if off = 0x040 then (if base ∧ bit w 8 then regCpllSwap fn w s else s.writeRW CLKG.CPLL_CTL w)
  else if off = 0x048 then regSscModeWrite fn w s
  else if off = 0x064 then (if base then regMpllPstepWrite fn w s else s)
  else regPut fn 0x02 0 off base w s

def wRefs (fn off i : Nat) (base : Bool) (w : Nat) (s : State) : State :=
  if off = 0x080 then (if base then regAlignCmd fn w s else s) else regPut fn 0x03 i off base w s

def wTime (fn pg off : Nat) (base : Bool) (w : Nat) (s : State) : State :=
  if off = 0x040 then
    if base ∧ bit w 31 then regSetGo fn (pg - 0x04) w s else followWrite (pg - 0x04) w s
  else regPut fn pg 0 off base w s

def wEvtc (fn off : Nat) (base : Bool) (w : Nat) (s : State) : State :=
  let s := regPut fn 0x09 0 off base w s
  if off = 0x04C then evtLevel s else s

/-- A slot's registers: a FREE slot takes them, another only ARM and CANCEL (R58); CANCEL is judged before ARM. -/
def wSlot (fn slot off : Nat) (base : Bool) (w : Nat) (s : State) : State :=
  let ign := s.wb COLL.COLL_STAT_WR_IGN true
  if off = 0x100 then
    if base ∧ (bit w 30 ∨ bit w 31) then
      let s := if s.slotState slot = slFREE then s.writeRW COLL.SLOT_CTL w slot else s
      let s := if bit w 30 then regSlotCancel fn slot w s else s
      if bit w 31 then regSlotArm fn slot w s else s
    else if s.slotState slot = slFREE then s.writeRW COLL.SLOT_CTL w slot
    else if fbits w 7 0 ≠ fbits (s.rw COLL.SLOT_CTL slot) 7 0 then ign
    else s
  else if off = 0x11C then s
  else if s.slotState slot = slFREE then regPut fn 0x08 slot off base w s
  else ign

def wColl (g fn off i : Nat) (base : Bool) (w : Nat) (s : State) : State :=
  if off = 0x040 then (if base ∧ bit w 0 then snapshot g s else s)
  else if 0x100 ≤ off then wSlot fn i off base w s
  else regPut fn 0x08 0 off base w s

def wNetp (g fn port off i : Nat) (base : Bool) (w : Nat) (s : State) : State :=
  if off = 0x040 then (if base then portCtlWrite fn port w s else s)
  else if off = 0x074 then (if base ∧ bit w 0 then clrAt (0x0A + port) 0 s else s)
  else if off = 0x080 then
    if base ∧ bit w 30 then regGclSwap fn port w s
    else if base then (gclCtlWrite port w s).hold fn (0x0A + port) 0 0x080 (2 ^ 31) w
    else gclCtlWrite port w s
  else if off = 0x100 then (if s.rb NETP.GCL_STAT_SWAP_PEND (i := port) then s else regPut fn (0x0A + port) i off base w s)
  else if off = 0x0C0 ∧ base ∧ bit w 1 then regQsfpReset fn port w g s
  else regPut fn (0x0A + port) i off base w s

/-- The stream entry staging registers take a write while no commit is in progress (R171, R172). -/
def wStrx (fn off obj : Nat) (base : Bool) (w : Nat) (s : State) : State :=
  let i := s.rd STRX.SEL_STREAM fn
  if off = 0x044 then
    let s := if base ∧ bit w 31 then regRxCommit fn w s else s
    if base ∧ bit w 30 then regRxLoad fn w s else s
  else if off < 0x0B4 then
    if (rxOwnNew i (actsAs fn) s).isSome ∨ s.rb STRX.ENTRY_CMD_BUSY then s else regPut fn 0x0E obj off base w s
  else if isPF0 fn = false then s
  else if off = 0x18C then
    let s := if base ∧ bit w 0 then clrAt 0x0E i s else s
    if base ∧ bit w 1 then clrAt 0x0E 1024 s else s
  else
    let s := regPut fn 0x0E 0 off base w s
    if off = 0x194 ∧ s.rd STRX.EVT_STAT_THRESH ≤ s.rx.evt.length then
      s.each (s.rx.evt.map (fun e => s.rxOwner e.2.2)) (fun s fn => s.raise 0x0E 0 (fnsOwn fn))
    else s

def wSttx (fn off obj : Nat) (base : Bool) (w : Nat) (s : State) : State :=
  let i := s.rd STTX.SEL_STREAM fn
  let c := s.rd STTX.TXCH_IDX_CH fn
  if off = 0x044 then
    let s := if base ∧ bit w 31 then regTxCommit fn w s else s
    if base ∧ bit w 30 then regTxLoad fn w s else s
  else if off < 0x0C8 then
    if (txOwnNew i (actsAs fn) s).isSome ∨ s.rb STTX.ENTRY_CMD_BUSY then s else regPut fn 0x0F obj off base w s
  else if off = 0x144 then (if base then txSrcWrite fn c w s else s)
  else if off = 0x148 then (if may (actsAs fn) (s.txChOwner c) then regPut fn 0x0F c off base w s else s)
  else if isPF0 fn = false then s
  else if off = 0x18C then
    let s := if base ∧ bit w 0 then clrAt 0x0F i s else s
    if base ∧ bit w 1 then clrAt 0x0F 1024 s else s
  else regPut fn 0x0F obj off base w s

/-- Writing GRP_STAT with EVT set clears EVT, and the group's bit of EVT_MAP with it (R201). -/
def evtClear (fn g w : Nat) (s : State) : State :=
  let s := s.writeWord fn 0x10 g 0x048 .base w
  if bit w 19 then
    let m := s.rw SRCB.EVT_MAP (g / 32)
    s.ww SRCB.EVT_MAP (m - (m &&& 2 ^ (g % 32))) (g / 32)
  else s
def wSrcb (fn off : Nat) (base : Bool) (w : Nat) (s : State) : State :=
  let g := s.rd SRCB.GRP_SEL_GROUP fn
  if off < 0x100 then
    if may (actsAs fn) (s.grpOwner g) = false then s
    else if off = 0x044 then
      if base ∧ bit w 31 then regRelock fn w s else if g < 3 then s else s.writeRW SRCB.GRP_CFG w g
    else if off = 0x048 then (if base then evtClear fn g w s else s)
    else if off = 0x074 then (if base ∧ bit w 0 then clrAt 0x10 g s else s)
    else s
  else if isPF0 fn = false then s
  else if off = 0x104 then regI2sBindWrite fn w s
  else regPut fn 0x10 0 off base w s

/-- The selector and the flags of an X-in (R207, R209, R233). -/
def wXin (fn off : Nat) (base : Bool) (w : Nat) (s : State) : State :=
  let x := s.rd XPNT.IN_IDX_XIN fn
  if off = 0x054 then
    if base = false then s
    else
      let s := if bit w 0 then (if may (actsAs fn) (s.xinOwner x) then clrAt 0x11 x s else selDeny fn s) else s
      if bit w 1 then clrAt 0x11 (4096 + actsAs fn) s else s
  else if may (actsAs fn) (s.xinOwner x) = false then selDeny fn s
  else if base = false then s
  else if off = 0x044 then
    if selOk (w % 2 ^ 16) = false then selErr fn s
    else if s.selMay (actsAs fn) (w % 2 ^ 16) = false then selDeny fn s
    else pendLevel (s.writeWord fn 0x11 x 0x044 .base w)
  else pendLevel (s.writeWord fn 0x11 x off .base w)
def wXpnt (fn off obj : Nat) (base : Bool) (w : Nat) (s : State) : State :=
  if off < 0x058 then wXin fn off base w s
  else if off = 0x058 ∨ off = 0x064 then regPut fn 0x11 obj off base w s
  else if isPF0 fn then regPut fn 0x11 obj off base w s
  else s

def wScne (fn off obj : Nat) (base : Bool) (w : Nat) (s : State) : State :=
  if off = 0x044 then (if base then (if bit w 31 then regNow fn w s else tdWrite fn 0x044 w s) else s)
  else if off = 0x048 ∨ off = 0x04C then (if base then tdWrite fn off w s else s)
  else if off = 0x050 then
    if s.tdDefined obj ∧ may (actsAs fn) (s.tdOwner obj) = false then s else regPut fn 0x12 obj off base w s
  else if off = 0x064 then
    if base then
      let s := if bit w 31 then regDefine fn w s else s
      if bit w 30 then regRelease fn w s else s
    else s
  else regPut fn 0x12 obj off base w s

/-- A register of a snapshot set (R285): an enabled set keeps its configuration. -/
def wSnap (fn set off : Nat) (base : Bool) (w : Nat) (s : State) : State :=
  if off = 0x300 then regSnapCtlWrite fn set w s
  else if s.setMay (actsAs fn) set = false then s
  else if off = 0x324 ∨ off = 0x330 then regPut fn 0x13 set off base w s
  else if s.rb METR.SNAP_CTL_EN set then
    if (regPut fn 0x13 set off base w s).gw 0x13 set off = s.gw 0x13 set off then s else s.wb METR.SNAP_STAT_CFG_ERR true set
  else snapPut set [⟨off, set, 0, w⟩] s
def wMetr (fn off i : Nat) (base : Bool) (w : Nat) (s : State) : State :=
  if off = 0x044 then (if base then regClrHold fn w s else s)
  else if off = 0x060 then (if base then regHoldClrAll fn w s else s)
  else if 0x300 ≤ off then wSnap fn i off base w s
  else if isPF0 fn = false ∨ (off = 0x0C0 ∧ gateProfOk w = false) then s
  else regPut fn 0x13 i off base w s

def wSapg (fn grp off i : Nat) (base : Bool) (w : Nat) (s : State) : State :=
  if off = 0x040 then (if base then regGrpStart fn grp w s else s)
  else if off = 0x100 then i2sCtlWrite (4 * grp + i) w s
  else if off = 0x128 then (if base ∧ bit w 0 then clrAt (0x14 + grp) i s else s)
  else if off = 0x12C then i2sNomWrite (4 * grp + i) w s
  else if (off = 0x108 ∨ off = 0x10C) ∧ txSelOk (w % 65536) = false then s
  else regPut fn (0x14 + grp) i off base w s
def wAesp (fn off i : Nat) (base : Bool) (w : Nat) (s : State) : State :=
  if off = 0x100 then arCtlWrite i w s
  else if off = 0x128 then (if base ∧ bit w 0 then clrAt 0x18 i s else s)
  else if off = 0x12C then arNomWrite i w s
  else if off = 0x900 then atCtlWrite i w s
  else if (off = 0x908 ∨ off = 0x90C) ∧ txSelOk (w % 65536) = false then s
  else regPut fn 0x18 i off base w s

def wUlnk (fn l off obj : Nat) (base : Bool) (w : Nat) (s : State) : State :=
  if off = 0x040 then linkCtl l w s
  else if off = 0x044 then (if base then hierFix (s.writeWord fn (0x1A + l) 0 0x044 .base w) else s)
  else if off = 0x180 then (if base ∧ bit w 0 then clrAt (0x1A + l) 0 s else s)
  else if off = 0x22C then (if base ∧ bit w 0 then clrAt 0x1A 1 s else s)
  else if off = 0x244 ∧ uoutSelOk (w % 65536) = false then (if base then s.wb ULNK.UOUT_STAT_SEL_ERR true else s)
  else regPut fn (0x1A + l) obj off base w s

def wFalt (fn off obj : Nat) (base : Bool) (w : Nat) (s : State) : State :=
  if off = 0x040 then (if base then regFaultAck fn w s else faultPin (s.writeRW FALT.FALT_CTL w))
  else if off = 0x060 then (if base then regKick fn w s else s.writeRW FALT.WDT_CTL w)
  else if off = 0x064 then (if base then regMgmtRestart fn w s else s)
  else if off = 0x108 then (if base ∧ bit w 0 then clrAt 0x20 0 s else s)
  else regPut fn 0x20 obj off base w s

/-- The HOST page: rings through their own rules, the selector of a capture channel for its owner (R499, R521). -/
def wHost (fn off i obj : Nat) (base : Bool) (w : Nat) (s : State) : State :=
  let f := actsAs fn
  if off = 0x048 then
    if base = false ∨ s.capOwner obj ≠ f ∨ txSelOk (w % 65536) = false then s else s.writeWord fn 0x21 obj 0x048 .base w
  else if off = 0x104 then regPut fn 0x21 obj off base w s
  else if 0x100 ≤ off ∧ off < 0x140 then ringReg f i off w s
  else if off = 0x600 ∨ off = 0x604 then (if base then maskWrite fn f (i % 16) (i / 16) (off == 0x604) w s else s)
  else regPut fn 0x21 obj off base w s

def wSecu (fn off i : Nat) (base : Bool) (w : Nat) (s : State) : State :=
  if off = 0x07C then (if base ∧ bit w 0 then s.onCmd (fun c => { c with secClr := true }) else s)
  else regPut fn 0x23 i off base w s

def wLsio (fn off i : Nat) (base : Bool) (w : Nat) (s : State) : State :=
  if off = 0x100 then icCtl i w s
  else if off = 0x114 then (if base ∧ bit w 0 then clrAt 0x24 i s else s)
  else if off = 0x200 then uartAfter s i (regPut fn 0x24 i 0x200 base (uartWord ⟨0x200, i, 0, w⟩) s)
  else if off = 0x208 then uartAfter s i (regPut fn 0x24 i 0x208 base w s)
  else if off = 0x300 ∧ fn = 8 then s
  else if off = 0x314 then (if base ∧ bit w 0 then clrAt 0x24 4 s else s)
  else if off = 0x484 ∧ s.warnOk w = false then s
  else regPut fn 0x24 i off base w s

/-- A SIG page: its owner's outputs, and PF0's fault registers (R232, R439). -/
def wSig (fn g off i : Nat) (base : Bool) (w : Nat) (s : State) : State :=
  if g ≠ 64 ∧ may (actsAs fn) (s.sigOwner g) = false then s
  else if isPF0 fn = false ∧ (g = 64 ∨ (0x060 ≤ off ∧ off < 0x0C0)) then s
  else if off = 0x044 then (if base ∧ bit w 0 then s.each (List.range 64) (fun s j => clrAt (0x40 + g) j s) else s)
  else if off = 0x098 then (if base ∧ bit w 0 then clrAt (0x40 + g) 64 s else s)
  else if off = 0x0EC then
    if base then
      let s := if bit w 1 then versoReg .clear fn g 1 w s else s
      if bit w 0 then versoReg .revert fn g 0 w s else s
    else s
  else if off = 0x408 ∧ base ∧ s.dlyDenied (64 * g + i) (fbits w 20 0) then dDeny g s
  else regPut fn (0x40 + g) i off base w s

/-- A write that reaches a page's own registers. -/
def pageWrite (g fn pg off i obj : Nat) (base : Bool) (w : Nat) (s : State) : State :=
  match pageClass pg with
  | 0x00 => condNote (regPut fn 0x00 0 off base w s)
  | 0x02 => wClkg fn off base w s
  | 0x03 => wRefs fn off i base w s
  | 0x04 => wTime fn pg off base w s
  | 0x08 => wColl g fn off i base w s
  | 0x09 => wEvtc fn off base w s
  | 0x0A => wNetp g fn (pg - 0x0A) off i base w s
  | 0x0E => wStrx fn off obj base w s
  | 0x0F => wSttx fn off obj base w s
  | 0x10 => wSrcb fn off base w s
  | 0x11 => wXpnt fn off obj base w s
  | 0x12 => wScne fn off obj base w s
  | 0x13 => wMetr fn off i base w s
  | 0x14 => wSapg fn (pg - 0x14) off i base w s
  | 0x18 => wAesp fn off i base w s
  | 0x1A => wUlnk fn (pg - 0x1A) off obj base w s
  | 0x20 => wFalt fn off obj base w s
  | 0x21 => wHost fn off i obj base w s
  | 0x22 => cqReg (actsAs fn) i off w s
  | 0x23 => wSecu fn off i base w s
  | 0x24 => wLsio fn off i base w s
  | 0x40 => wSig fn (pg - 0x40) off i base w s
  | _ => regPut fn pg obj off base w s

/-- A SIG page is out of a caller's reach, its header with it (R232). -/
def State.sigShut (s : State) (fn pg : Nat) : Bool :=
  decide (0x40 ≤ pg) && decide (pg ≤ 0x80) && !isPF0 fn && (pg == 0x80 || s.sigOwner (pg - 0x40) != actsAs fn)

/-- A page shows nothing of itself to a caller, its header neither: another owner's SIG page, another tenant's TNT page (R232, R476). -/
def State.shut (s : State) (fn pg : Nat) : Bool :=
  s.sigShut fn pg || (pageClass pg == 0x25 && !isPF0 fn && pg != 0x25 + fn)

/-- BAR0 serves the page: every page with firmware to run it, in BOOT the MODE page alone, none before (R459, R470). -/
def State.served (s : State) (pg : Nat) : Bool := pageKnown pg && (decide (3 ≤ s.mode) || (s.mode == mBOOT && pg == 0))

/-- A register write of one aligned word through a view, at grid point g of the sample period (R554–R566). -/
def regWrite (g fn pg off : Nat) (view : View) (v : Nat) (s : State) : State :=
  let p := regPlace pg off
  match accRow pg p.1 with
  | none => s
  | some r =>
    let base := decide (view = .base)
    if 8 < fn ∨ s.served pg = false ∨ regGone pg off ∨ (base = false ∧ hasRW r.flds = false) then s
    else
      let obj := s.regObj fn pg p.1 p.2
      let w := if base then v % 2 ^ 32 else aliasWord r.flds view (s.gw pg obj p.1) v
      if off < 0x040 then (if s.shut fn pg then s else hdrWrite fn pg off base w s)
      else if isSelector pg p.1 then regPut fn pg obj p.1 base w s
      else if (mirroredReg pg p.1 && s.mirrorStandby && !(pg == 0x13 && base && bit w 31)) || (pf0Page pg && !isPF0 fn) then s
      else
        let t := pageWrite g fn pg p.1 p.2 obj base w s
        if mirroredReg pg p.1 && (decide (t.held ≠ s.held) || t.gw pg obj p.1 != s.gw pg obj p.1 || (base && hasAction r.flds w)) then
          mirrorNote (pg * 65536) t
        else t

/-- A word with a byte enable clear is ignored, and flagged for the writing function (R556). -/
def accErr (fn pg : Nat) (s : State) : State := if s.served pg ∧ fn ≤ 8 ∧ s.shut fn pg = false then s.wb ⟨⟨pg, 0x00C⟩, 29, 29⟩ true fn else s

/-- The view, page and offset of a BAR0 offset. -/
def barView (bar : Nat) : View := match bar / 0x1000 % 4 with | 0 => .base | 1 => .set | 2 => .clear | _ => .toggle
def barPage (bar : Nat) : Nat := bar / 0x4000
/-- A write of a BAR0 word with its byte enables. -/
def barWrite (g fn bar w be : Nat) (s : State) : State :=
  if bar % 4 ≠ 0 ∨ be % 16 ≠ 15 then accErr fn (barPage bar) s
  else regWrite g fn (barPage bar) (bar % 0x1000) (barView bar) w s

/-! ## Reads -/

/-- The mode IRQ_N is low in: a page's interrupt line of the SPI copy is active, or a completion waits (R594). -/
def State.irqLow (s : State) : Bool :=
  decide (3 ≤ s.mode) &&
  (s.regs.any (fun e => keyOff e.1 == 0x010 && keyObj e.1 == 8 && (e.2.toNat &&& s.gw (keyPg e.1) 8 0x014) != 0) ||
    (s.rb LSIO.IRQ_CTL_RESP && decide (s.cmd.spi ≠ [])))
/-- FAULT_N is low, and THERM_N is (R594). -/
def State.faultLow (s : State) : Bool := s.rb FALT.FALT_STAT_FAULT_N || s.rb MODE.BOOT_STAT_ROM_ERR
def State.thermLow (s : State) : Bool := (s.rd LSIO.PIN_STAT_LOW).testBit 1
/-- MODE_ST[3:0] and REF_ST[1:0] (R82, R444, R457). -/
def State.modeSt (s : State) : Nat := s.mode
def State.refSt (s : State) : Nat := if s.mode = mRESET then 0 else s.rd REFS.STAT_STATE
/-- IDCODE of the test access port (R593). -/
def jtagIdcode : Nat := 0x24096B87

/-- The offset that follows the highest register of a page (R557). -/
def pageTop (pg : Nat) : Nat :=
  let c := pageClass pg
  let rows := (accOf c).map (fun r => r.off + 4)
  let regs := (regionsOf c).map (fun r =>
    match ((accOf c).filter (fun x => decide (r.base ≤ x.off) && decide (x.off < r.base + r.stride))).map (fun x => x.off + 4) with
    | [] => 0
    | a :: t => t.foldl max a + r.stride * (r.count - 1))
  (rows ++ regs).foldl max 0

/-- The page shows the object of an offset to a caller (R171, R186, R232, R233, R283, R311, R431, R439, R476, R550). -/
def State.shows (s : State) (fn pg off i : Nat) : Bool :=
  let f := actsAs fn
  f == 0 || (decide (off < 0x040) && !s.shut fn pg) ||
  match pageClass pg with
  | 0x08 => decide (off < 0x100) || s.slotState i == slFREE || s.rd COLL.SLOT_CTL_OWNER i == f
  | 0x0E => off == 0x040 || off == 0x044 || decide (0x180 ≤ off) || (rxOwnNew (s.rd STRX.SEL_STREAM fn) f s).isNone
  | 0x0F => off == 0x040 || off == 0x044 || off == 0x140 || decide (0x180 ≤ off) ||
      (if off = 0x144 ∨ off = 0x148 then s.txChOwner (s.rd STTX.TXCH_IDX_CH fn) == f else (txOwnNew (s.rd STTX.SEL_STREAM fn) f s).isNone)
  | 0x10 => off == 0x040 || decide (0x100 ≤ off) || decide (s.rd SRCB.GRP_SEL_GROUP fn < 3) || s.grpOwner (s.rd SRCB.GRP_SEL_GROUP fn) == f
  | 0x11 => off == 0x040 || decide (0x058 ≤ off) || s.xinOwner (s.rd XPNT.IN_IDX_XIN fn) == f
  | 0x13 => if off = 0x044 then s.metOwner (s.rd METR.MTR_IDX_METER fn) == f else decide (off < 0x300) || s.setMay f i
  | 0x20 => !(decide (0x084 ≤ off) && decide (off ≤ 0x0A0))
  | 0x23 => [0x040, 0x048, 0x050, 0x054].contains off || (decide (0x100 ≤ off) && i == f)
  | 0x25 => pg == 0x25 + f
  | 0x40 => if pg = 0x80 then decide (0x060 ≤ off) && decide (off < 0x0C0) else !s.sigShut fn pg
  | _ => true

/-- The scene registers of SIG64 show the signature that the guard shadows or replaces (R267). -/
def State.guardScene (s : State) (pg off i : Nat) : Option Nat :=
  if pg = 0x80 ∧ 0x0C0 ≤ off ∧ off < 0x100 ∧ (s.guard = gdPATROL ∨ s.guard = gdREPLACING) then some (s.gw (0x40 + s.guardOf) i off)
  else none

/-- n of the slot that a caller's PEEK_SEL names, which a tenant sees of its own slots alone (R57, R58). -/
def State.peekIdx (s : State) (fn : Nat) : Nat :=
  let i := fbits (s.gw 0x08 fn 0x068) 5 0
  if (slotOwn i (actsAs fn) s).isNone then ng s.tim.slotN i else 0

/-- The value of a register whose word the block works out when it is read. -/
def State.derived (s : State) (fn pg off i : Nat) : Option Nat :=
  let f := actsAs fn
  let mine := s.held.filter (fun h => h.fn == fn && h.pg == pg)
  if off = 0x004 then some (pageCount (pageClass pg) * 65536 + pageTop pg)
  else if off = 0x00C then some (s.gw pg fn 0x00C + b2n (mine != []) * 2 ^ 31 + b2n (mine.any (fun h => h.kept)) * 2 ^ 30)
  else if pg = 0x80 ∧ 0x0C0 ≤ off then s.guardScene pg off i
  else match pageClass pg, off with
  | 0x08, 0x048 => some (s.idx / 2 ^ 32)
  | 0x08, 0x04C => some (s.idx % 2 ^ 32)
  | 0x08, 0x06C => some (s.peekIdx fn / 2 ^ 32)
  | 0x08, 0x070 => some (s.peekIdx fn % 2 ^ 32)
  | 0x0F, 0x148 => some (s.txchStat (s.rd STTX.TXCH_IDX_CH fn))
  | 0x10, 0x10C => let w := s.gw 0x10 fn 0x108; some (pathWord f s (fbits w 15 12, fbits w 9 0))
  | 0x13, 0x100 => some (gateWord f s i)
  | 0x20, 0x0C0 => some (s.gw 0x20 0 (0x0C0 + 8 * i))
  | 0x20, 0x0C4 => some (s.gw 0x20 0 (0x0C4 + 8 * i))
  | 0x21, 0x048 =>
    let c := s.rd HOST.CAPCH_IDX_CH fn
    some (if s.capOwner c = f then s.readWord fn 0x21 c 0x048 else 0)
  | 0x21, 0x04C => some (s.capOwner (s.rd HOST.CAPCH_IDX_CH fn) * 65536)
  | 0x24, 0x304 => some (s.rw LSIO.SPI_STAT + b2n (fn == 8) * 2 ^ 31 + s.cmd.spi.length)
  | 0x24, 0x480 => some (b2n (s.rb FALT.PFAIL_STAT_ASSERTED) + 2 * b2n s.thermLow + 4 * b2n s.faultLow + 8 * b2n s.irqLow)
  | _, _ => none

/-- What a read of a register returns to a caller, apart from what the read does. -/
def State.regRead (s : State) (fn pg off : Nat) : Nat :=
  let p := regPlace pg off
  if (accRow pg p.1).isNone ∨ s.served pg = false ∨ regGone pg off ∨ s.shows fn pg p.1 p.2 = false then 0
  else match s.derived fn pg p.1 p.2 with
  | some v => v
  | none => s.readWord fn pg (s.regObj fn pg p.1 p.2) p.1

/-- A byte of BAR2, as a function reads it (R232, R240, R241): verso as it stands, without edits that are still held, and recto. -/
def State.windowByte (s : State) (fn ofs : Nat) : Byte :=
  let g := ofs / 0x80000 % 64
  if ofs < 0x4000000 ∧ may (actsAs fn) (s.sigOwner g) ∧ 3 ≤ s.mode then
    let t := if ofs < 0x2000000 then s.versoBank g else s.rectoBank g
    BitVec.ofNat 8 (ng t (4096 * (ofs / 0x2000 % 64) + ofs / 2 % 4096) / 256 ^ (ofs % 2))
  else 0
/-- A read of n bytes of BAR2. -/
def State.windowRead (s : State) (fn ofs n : Nat) : List Byte := (List.range n).map (fun k => s.windowByte fn (ofs + k))

/-- A read with what it does (R567): the value returned and the state after it. -/
def regReadDo (fn pg off : Nat) (s : State) : Nat × State :=
  let v := s.regRead fn pg off
  if s.served pg = false then (0, s)
  else if pg = 0x09 ∧ off = 0x05C then (v, evtDrop 1 s)
  else if pg = 0x0E ∧ off = 0x190 then let t := evtTake fn s; (ng t.rx.evtOut fn, t)
  else if pg = 0x13 ∧ off = 0x048 then let t := regMtrVal0Read fn s; (t.regRead fn pg off, t)
  else if pg = 0x20 ∧ off = 0x084 then let t := regErrRec0Read fn s; (t.regRead fn pg off, t)
  else if pg = 0x08 ∧ 0x100 ≤ off ∧ off < 0x900 ∧ off % 0x20 = 0x1C then (v, freeSlot (actsAs fn) ((off - 0x100) / 0x20) s)
  else (v, s)

/-! ## The rows that are register writes -/

/-- REGISTER_WRITE: a function writes a word of BAR0. -/
def execRegisterWrite (fn off bar w be : Nat) (s : State) : Host.Outcome State Fault Refusal := .next (barWrite off fn bar w be s)
/-- GO: a write of APPLY with bit 31 (R563). -/
def execGo (fn pg w : Nat) (s : State) : Host.Outcome State Fault Refusal := .next (regWrite 0 fn pg 0x01C .base (fput w 31 31 1) s)
/-- INT_FORCE (R560). -/
def execIntForce (fn pg w : Nat) (s : State) : Host.Outcome State Fault Refusal := .next (regWrite 0 fn pg 0x018 .base w s)
/-- INT_STAT_CLEAR (R560). -/
def execIntStatClear (fn pg w : Nat) (s : State) : Host.Outcome State Fault Refusal := .next (regWrite 0 fn pg 0x010 .base w s)

/-- The counter-clear register of a page's object: a port or receiver by its number; on pages with two, 0 is the first and, on
LSIO, 4 the SPI target's. -/
def cntCtl (pg obj : Nat) : Nat :=
  match pageClass pg with
  | 0x0A => 0x074
  | 0x0E => 0x18C
  | 0x0F => 0x18C
  | 0x10 => 0x074
  | 0x11 => 0x054
  | 0x14 => 0x128 + 0x40 * obj
  | 0x18 => 0x128 + 0x100 * obj
  | 0x1A => if obj = 0 then 0x180 else 0x22C
  | 0x20 => 0x108
  | 0x23 => 0x07C
  | 0x24 => if obj = 4 then 0x314 else 0x114 + 0x40 * obj
  | 0x40 => if obj = 0 then 0x044 else 0x098
  | _ => 0
/-- COUNTER_CLEAR: a write of a CNT_CTL register with CLEAR; the counters clear at the next tick boundary. -/
def execCounterClear (fn pg obj w : Nat) (s : State) : Host.Outcome State Fault Refusal :=
  .next (if bit w 0 then regWrite 0 fn pg (cntCtl pg obj) .base 1 s else s)
/-- CLEAR_ALL: a write of CNT_CTL with bit 1 (R173, R234, R311). -/
def execClearAll (fn pg w : Nat) (s : State) : Host.Outcome State Fault Refusal :=
  .next (if bit w 1 then regWrite 0 fn pg (cntCtl pg 0) .base 2 s else s)

end Sys2Proof.Machine
end

