-- ==== Sys2Proof/Machine/Spi.lean ====
section
/-!
DEFINITION. The SPI target (R581–R585): register transactions, the status byte, commands and their completions, and the recovery
image.
-/
namespace Sys2Proof.Machine

/-- The target answers: it is enabled, and its pins and the core have power. -/
def State.spiOn (s : State) : Bool := s.rb LSIO.SPI_CTL_EN && s.bankUp 3 && (s.mode == mBOOT || decide (3 ≤ s.mode))
/-- The recovery state of R458. -/
def State.recovery (s : State) : Bool := s.mode == mBOOT && s.rb MODE.BOOT_STAT_ROM_ERR
/-- A transaction is counted. -/
def spiTrans (s : State) : State := s.cntw LSIO.SPI_TRANS_COUNT
/-- A transaction is dropped whole (R582). -/
def spiDrop (crc : Bool) (s : State) : State :=
  let s := if crc then s.cntr LSIO.SPI_CRC_ERR else s.cntr LSIO.SPI_FRAME_ERR
  (s.onLs (fun x => { x with lastErr := true })).raise 0x24 4 fnsAll
/-- A transaction of the working state, with the condition its fields meet: dropped in the recovery state. -/
def spiWork (ok : Bool) (f : State → State) (s : State) : State :=
  if s.spiOn = false then s
  else
    let s := spiTrans s
    if s.recovery ∨ ok = false then spiDrop false s else f s
/-- What the target returns, apart from dummy bytes. -/
def spiOut (l : List Byte) (s : State) : State := s.onLs (fun x => { x with miso := l })

/-- Words of a REG_WRITE, each at the next offset (R556, R582). -/
def spiWords (g : Nat) : Nat → List Nat → State → State
  | _, [], s => s
  | bar, w :: t, s => spiWords g (bar + 4) t (if bar < 2 ^ 24 then barWrite g 8 bar w 15 s else s)
def execSpiRegWrite (off ofs : Nat) (words : List Nat) (s : State) : Host.Outcome State Fault Refusal :=
  .next (spiWork (decide (ofs < 2 ^ 24)) (spiWords off ofs words) s)

/-- Words of a REG_READ, with what each read does (R567). -/
def spiReads : Nat → Nat → State → List Byte → List Byte × State
  | 0, _, s, acc => (acc, s)
  | n + 1, bar, s, acc =>
    let r := if bar < 2 ^ 24 then regReadDo 8 (barPage bar) (bar % 0x1000) s else (0, s)
    spiReads n (bar + 4) r.2 (acc ++ natBE 4 r.1)
def execSpiRegRead (ofs n : Nat) (s : State) : Host.Outcome State Fault Refusal :=
  .next (spiWork (decide (ofs < 2 ^ 24) && decide (1 ≤ n) && decide (n ≤ 1024)) (fun s =>
    let r := spiReads n (ofs / 4 * 4) s []
    spiOut (r.1 ++ natBE 4 (crc32 ([0x0B] ++ natBE 3 ofs ++ natBE 2 n ++ r.1))) r.2) s)

/-- The status byte (R583). -/
def State.spiStatus (s : State) : Nat :=
  128 * b2n s.recovery + 64 * b2n (s.mode == mBOOT) + 32 * b2n s.ls.lastErr + 16 * b2n (decide (64 ≤ s.cmd.spiQ)) +
    8 * b2n (decide (s.cmd.spi ≠ []))
def execSpiStatus (s : State) : Host.Outcome State Fault Refusal :=
  .next (if s.spiOn then spiOut [BitVec.ofNat 8 s.spiStatus] ((spiTrans s).onLs (fun x => { x with lastErr := false })) else s)

/-- CMD_SEND (R528, R584): a command joins the queue; a full queue and a restart of the management processor answer BUSY, an
unknown opcode BAD_OPCODE. With every place for a completion taken or reserved, BUSY cannot be answered, and the transaction is dropped. -/
def spiCommand (b : List Byte) (s : State) : State :=
  let e : Env := { tr := .spi, fn := 0, tag := leNat ((b.drop 4).take 2), lenOk := true, bytes := b, auth := none, respMax := 0 }
  let queued := s.onCmd (fun c => { c with spiQ := c.spiQ + 1 })
  if s.mode < 3 then spiDrop false s
  else if s.fwUp = false ∨ 64 ≤ s.cmd.spiQ then (if s.spiPlace then complete e stBUSY 0 [] false queued else spiDrop false s)
  else if opcodeKnown (leNat (b.take 2)) then queued
  else if s.spiPlace then complete e stBAD_OPCODE 0 [] false queued
  else queued.onCmd (fun c => { c with spiBad := c.spiBad ++ [e] })
def execCmdSend (bytes : List Byte) (s : State) : Host.Outcome State Fault Refusal :=
  .next (spiWork (decide (16 ≤ bytes.length) && decide (bytes.length ≤ 65552)) (spiCommand bytes) s)

/-- RESP_READ: the oldest completion not acknowledged with its response, or a length of 0. -/
def execRespRead (s : State) : Host.Outcome State Fault Refusal :=
  .next (spiWork true (fun s =>
    let b := match s.cmd.spi with | [] => [] | c :: _ => cplBytes c
    let m := natBE 4 b.length ++ b
    spiOut (m ++ natBE 4 (crc32 (0x11 :: m))) s) s)
/-- RESP_ACK: the oldest completion goes, and its place is free. -/
def spiAck (s : State) : State :=
  let s := s.onCmd (fun c => { c with spi := c.spi.drop 1 })
  match s.cmd.spiBad with
  | [] => s
  | e :: t => if s.spiPlace then complete e stBAD_OPCODE 0 [] false (s.onCmd (fun c => { c with spiBad := t })) else s
def execRespAck (s : State) : Host.Outcome State Fault Refusal :=
  .next (spiWork true spiAck s)

/-- A transaction of the recovery state. -/
def spiRec (ok : Bool) (f : State → State) (s : State) : State :=
  if s.spiOn = false then s
  else
    let s := spiTrans s
    if s.recovery = false ∨ ok = false then spiDrop false s else f s
def execImageWrite (ofs : Nat) (data : List Byte) (s : State) : Host.Outcome State Fault Refusal :=
  .next (spiRec (ofs % 256 == 0 && decide (256 ≤ data.length) && decide (data.length ≤ 4096) && data.length % 256 == 0 &&
      decide (ofs + data.length ≤ 2 ^ 24)) (fun s =>
    s.onLs (fun x => { x with recBuf := ((List.range data.length).zip data).foldl (fun t b => os t (ofs + b.1) (some b.2)) x.recBuf })) s)
/-- The image in the recovery buffer; what no IMAGE_WRITE has placed is open. -/
def State.recImage (s : State) (len : Nat) : Image :=
  let byte := fun i => (og s.ls.recBuf i).getD (BitVec.ofNat 8 (Config.freeNat (s.free + i)))
  { hdr := (List.range (min 512 len)).map byte, body := (List.range (len - 512)).map (fun i => byte (512 + i)) }
/-- The recovery buffer is emptied. -/
def recGone (s : State) : State := s.onLs (fun x => { x with recBuf := [] })
/-- IMAGE_END (R458, R585): a good image goes into slot A and the boot ROM starts again at its first step. -/
def imageEnd (len : Nat) (s : State) : State :=
  if 2 ^ 24 < len then (recGone s).onLs (fun x => { x with lastErr := true })
  else
    let g := s.recImage len
    let s := { s with free := s.free + len }
    if imageCheck g s = 0 then
      faultPin ((versionShow ((recGone s).onFlash (fun f => { f with image := os f.image 0 (some g) }))).wb MODE.BOOT_STAT_ROM_ERR false)
    else (recGone s).onLs (fun x => { x with lastErr := true })
def execImageEnd (len : Nat) (s : State) : Host.Outcome State Fault Refusal := .next (spiRec true (imageEnd len) s)

/-- SPI_TRANSACTION_DROP: a CRC that fails, or another cause (R582). -/
def execSpiTransactionDrop (crc : Bool) (s : State) : Host.Outcome State Fault Refusal :=
  .next (if s.spiOn then spiDrop crc (spiTrans s) else s)

end Sys2Proof.Machine
end

