-- ==== Sys2Proof/Machine/Dispatch.lean ====
section
/-!
DEFINITION. Which meaning each command has: one arm per constructor.
-/
namespace Sys2Proof.Machine

def exec (i : Instr) (s : State) : Host.Outcome State Fault Refusal :=
  match i with
  | .sampleBoundary x => Sys2Proof.Machine.execSampleBoundary x s
  | .tickBoundary x => Sys2Proof.Machine.execTickBoundary x s
  | .guardLoadEnd ok => Sys2Proof.Machine.execGuardLoadEnd ok s
  | .patrolDwellEnd => Sys2Proof.Machine.execPatrolDwellEnd s
  | .bistEnd sig ok => Sys2Proof.Machine.execBistEnd sig ok s
  | .sramUncorrectable at_ addr ok => Sys2Proof.Machine.execSramUncorrectable at_ addr ok s
  | .scrubPass x => Sys2Proof.Machine.execScrubPass x s
  | .errataFlush => Sys2Proof.Machine.execErrataFlush s
  | .snapRecord set ok => Sys2Proof.Machine.execSnapRecord set ok s
  | .driftWindowEnd ys => Sys2Proof.Machine.execDriftWindowEnd ys s
  | .candidateLoss cand => Sys2Proof.Machine.execCandidateLoss cand s
  | .clockPinEdge pin rising off => Sys2Proof.Machine.execClockPinEdge pin rising off s
  | .cpllLockLoss => Sys2Proof.Machine.execCpllLockLoss s
  | .coreCycleMonitor cycles => Sys2Proof.Machine.execCoreCycleMonitor cycles s
  | .tpllLoss b => Sys2Proof.Machine.execTpllLoss b s
  | .tpllRelock b => Sys2Proof.Machine.execTpllRelock b s
  | .mpllLoss => Sys2Proof.Machine.execMpllLoss s
  | .mpllRelock => Sys2Proof.Machine.execMpllRelock s
  | .sscChangeDone => Sys2Proof.Machine.execSscChangeDone s
  | .phaseStepDone => Sys2Proof.Machine.execPhaseStepDone s
  | .frameReceive port off x => Sys2Proof.Machine.execFrameReceive port off x s
  | .masterLoss port => Sys2Proof.Machine.execMasterLoss port s
  | .delayReqSend port => Sys2Proof.Machine.execDelayReqSend port s
  | .sapSessionExpire id => Sys2Proof.Machine.execSapSessionExpire id s
  | .sapTxAnnounce i0 => Sys2Proof.Machine.execSapTxAnnounce i0 s
  | .multicastJoin i0 leg => Sys2Proof.Machine.execMulticastJoin i0 leg s
  | .membershipReport port dst query => Sys2Proof.Machine.execMembershipReport port dst query s
  | .neighbourAgeOut port addr => Sys2Proof.Machine.execNeighbourAgeOut port addr s
  | .linkDown port fec st => Sys2Proof.Machine.execLinkDown port fec st s
  | .qsfpInsertRemove port x => Sys2Proof.Machine.execQsfpInsertRemove port x s
  | .qsfpMonitor port alarms int => Sys2Proof.Machine.execQsfpMonitor port alarms int s
  | .wakeMatch port frame => Sys2Proof.Machine.execWakeMatch port frame s
  | .frameTransmit port x => Sys2Proof.Machine.execFrameTransmit port x s
  | .hostFrameDeparted port off => Sys2Proof.Machine.execHostFrameDeparted port off s
  | .streamGap i0 off => Sys2Proof.Machine.execStreamGap i0 off s
  | .planeChg i0 plane off => Sys2Proof.Machine.execPlaneChg i0 plane off s
  | .streamStart e tx i0 a => Sys2Proof.Machine.execStreamStart e tx i0 a s
  | .streamStop e tx i0 a => Sys2Proof.Machine.execStreamStop e tx i0 a s
  | .asrcStageEnd g => Sys2Proof.Machine.execAsrcStageEnd g s
  | .i2sFrameEdge p off x => Sys2Proof.Machine.execI2sFrameEdge p off x s
  | .i2sClockLoss p off => Sys2Proof.Machine.execI2sClockLoss p off s
  | .aes3FrameRx r off x => Sys2Proof.Machine.execAes3FrameRx r off x s
  | .aes3LockLoss r off => Sys2Proof.Machine.execAes3LockLoss r off s
  | .ltcFrameRx edge x => Sys2Proof.Machine.execLtcFrameRx edge x s
  | .evtInEdge off pin x => Sys2Proof.Machine.execEvtInEdge off pin x s
  | .gpioEdge pin rising => Sys2Proof.Machine.execGpioEdge pin rising s
  | .rampEnd sig => Sys2Proof.Machine.execRampEnd sig s
  | .copyOverEnd sig => Sys2Proof.Machine.execCopyOverEnd sig s
  | .versoUnlock sig => Sys2Proof.Machine.execVersoUnlock sig s
  | .sceneLoadEnd sig => Sys2Proof.Machine.execSceneLoadEnd sig s
  | .sceneSaveDone => Sys2Proof.Machine.execSceneSaveDone s
  | .acqTimeout => Sys2Proof.Machine.execAcqTimeout s
  | .prerollEnd => Sys2Proof.Machine.execPrerollEnd s
  | .thermalLimit => Sys2Proof.Machine.execThermalLimit s
  | .railExc rail => Sys2Proof.Machine.execRailExc rail s
  | .bankChg b level => Sys2Proof.Machine.execBankChg b level s
  | .resetAssert ao => Sys2Proof.Machine.execResetAssert ao s
  | .resetRelease => Sys2Proof.Machine.execResetRelease s
  | .bootImageSelect => Sys2Proof.Machine.execBootImageSelect s
  | .firmwareRunning ms => Sys2Proof.Machine.execFirmwareRunning ms s
  | .bootScenesDone => Sys2Proof.Machine.execBootScenesDone s
  | .pfailAssert => Sys2Proof.Machine.execPfailAssert s
  | .lastwordsDone => Sys2Proof.Machine.execLastwordsDone s
  | .pfailGlitch us => Sys2Proof.Machine.execPfailGlitch us s
  | .watchdogFire => Sys2Proof.Machine.execWatchdogFire s
  | .mgmtRestartDone => Sys2Proof.Machine.execMgmtRestartDone s
  | .mgmtException sram => Sys2Proof.Machine.execMgmtException sram s
  | .flr fn => Sys2Proof.Machine.execFlr fn s
  | .flrComplete fn => Sys2Proof.Machine.execFlrComplete fn s
  | .pcieReset => Sys2Proof.Machine.execPcieReset s
  | .busMasterClear fn => Sys2Proof.Machine.execBusMasterClear fn s
  | .rampOutSilenced fn => Sys2Proof.Machine.execRampOutSilenced fn s
  | .reclaimComplete fn => Sys2Proof.Machine.execReclaimComplete fn s
  | .commandFetch entry => Sys2Proof.Machine.execCommandFetch entry s
  | .completionInterrupt fn r elapsedUs => Sys2Proof.Machine.execCompletionInterrupt fn r elapsedUs s
  | .ringError fn r cause => Sys2Proof.Machine.execRingError fn r cause s
  | .dmaError fn dma q => Sys2Proof.Machine.execDmaError fn dma q s
  | .descriptorFetch fn q d => Sys2Proof.Machine.execDescriptorFetch fn q d s
  | .playbackFetch fn q words => Sys2Proof.Machine.execPlaybackFetch fn q words s
  | .captureWriteback fn q => Sys2Proof.Machine.execCaptureWriteback fn q s
  | .msixMessage => Sys2Proof.Machine.execMsixMessage s
  | .msixUnmask fn v => Sys2Proof.Machine.execMsixUnmask fn v s
  | .spiRegWrite off ofs words => Sys2Proof.Machine.execSpiRegWrite off ofs words s
  | .spiRegRead ofs n => Sys2Proof.Machine.execSpiRegRead ofs n s
  | .spiStatus => Sys2Proof.Machine.execSpiStatus s
  | .cmdSend bytes => Sys2Proof.Machine.execCmdSend bytes s
  | .respRead => Sys2Proof.Machine.execRespRead s
  | .respAck => Sys2Proof.Machine.execRespAck s
  | .imageWrite ofs data => Sys2Proof.Machine.execImageWrite ofs data s
  | .imageEnd len => Sys2Proof.Machine.execImageEnd len s
  | .spiTransactionDrop crc => Sys2Proof.Machine.execSpiTransactionDrop crc s
  | .uartFrameRx u rxd => Sys2Proof.Machine.execUartFrameRx u rxd s
  | .i2cTransferDone i0 outcome seg n data lines => Sys2Proof.Machine.execI2cTransferDone i0 outcome seg n data lines s
  | .i2cBusCheck i0 x pulses => Sys2Proof.Machine.execI2cBusCheck i0 x pulses s
  | .flashSuspend => Sys2Proof.Machine.execFlashSuspend s
  | .flashResume => Sys2Proof.Machine.execFlashResume s
  | .fwConfirmTimer => Sys2Proof.Machine.execFwConfirmTimer s
  | .stageTimeout => Sys2Proof.Machine.execStageTimeout s
  | .blockLock l lane bs => Sys2Proof.Machine.execBlockLock l lane bs s
  | .markerSet l off bs early late => Sys2Proof.Machine.execMarkerSet l off bs early late s
  | .trainTimeout l off => Sys2Proof.Machine.execTrainTimeout l off s
  | .cellTimeout l off => Sys2Proof.Machine.execCellTimeout l off s
  | .cellReceive l off bs fw => Sys2Proof.Machine.execCellReceive l off bs fw s
  | .mgmtFragmentDiscard src msg off => Sys2Proof.Machine.execMgmtFragmentDiscard src msg off s
  | .mirrorLost => Sys2Proof.Machine.execMirrorLost s
  | .mirrorCopyComplete k x => Sys2Proof.Machine.execMirrorCopyComplete k x s
  | .mirrorRepair since => Sys2Proof.Machine.execMirrorRepair since s
  | .mirrorForward => Sys2Proof.Machine.execMirrorForward s
  | .tunnelTimeout msg => Sys2Proof.Machine.execTunnelTimeout msg s
  | .reservationExpire td => Sys2Proof.Machine.execReservationExpire td s
  | .deviceIdentity e => Sys2Proof.Machine.execDeviceIdentity e s
  | .modeSet e target => Sys2Proof.Machine.execModeSet e target s
  | .modeStatus e => Sys2Proof.Machine.execModeStatus e s
  | .modeConfig e ws => Sys2Proof.Machine.execModeConfig e ws s
  | .configSave e scenes => Sys2Proof.Machine.execConfigSave e scenes s
  | .configRead e page => Sys2Proof.Machine.execConfigRead e page s
  | .pwrStatus e => Sys2Proof.Machine.execPwrStatus e s
  | .ioConfig e l => Sys2Proof.Machine.execIoConfig e l s
  | .timeSnapshot e off => Sys2Proof.Machine.execTimeSnapshot e off s
  | .tbSet e tb sec ns => Sys2Proof.Machine.execTbSet e tb sec ns s
  | .collArm e a => Sys2Proof.Machine.execCollArm e a s
  | .collCancel e slot => Sys2Proof.Machine.execCollCancel e slot s
  | .collQuery e slot => Sys2Proof.Machine.execCollQuery e slot s
  | .ltcConfig e ws => Sys2Proof.Machine.execLtcConfig e ws s
  | .evtConfig e ws => Sys2Proof.Machine.execEvtConfig e ws s
  | .evtRead e n => Sys2Proof.Machine.execEvtRead e n s
  | .refConfig e ws => Sys2Proof.Machine.execRefConfig e ws s
  | .refStatus e => Sys2Proof.Machine.execRefStatus e s
  | .alignNow e mask => Sys2Proof.Machine.execAlignNow e mask s
  | .clkConfig e ws => Sys2Proof.Machine.execClkConfig e ws s
  | .mpllStep e n => Sys2Proof.Machine.execMpllStep e n s
  | .clkStatus e => Sys2Proof.Machine.execClkStatus e s
  | .ptpConfig e ws => Sys2Proof.Machine.execPtpConfig e ws s
  | .ptpStatus e plane => Sys2Proof.Machine.execPtpStatus e plane s
  | .streamRxAdd e i0 ws => Sys2Proof.Machine.execStreamRxAdd e i0 ws s
  | .streamRxSdp e i0 d p => Sys2Proof.Machine.execStreamRxSdp e i0 d p s
  | .streamRxModify e i0 ws => Sys2Proof.Machine.execStreamRxModify e i0 ws s
  | .streamRxRemove e i0 => Sys2Proof.Machine.execStreamRxRemove e i0 s
  | .streamRxStatus e is => Sys2Proof.Machine.execStreamRxStatus e is s
  | .streamRxCounters e i0 clear => Sys2Proof.Machine.execStreamRxCounters e i0 clear s
  | .sapConfig e on addrs => Sys2Proof.Machine.execSapConfig e on addrs s
  | .sapList e page => Sys2Proof.Machine.execSapList e page s
  | .streamTxAdd e i0 name ws => Sys2Proof.Machine.execStreamTxAdd e i0 name ws s
  | .streamTxModify e i0 ws => Sys2Proof.Machine.execStreamTxModify e i0 ws s
  | .streamTxRemove e i0 => Sys2Proof.Machine.execStreamTxRemove e i0 s
  | .streamTxStatus e is => Sys2Proof.Machine.execStreamTxStatus e is s
  | .streamTxCounters e i0 clear => Sys2Proof.Machine.execStreamTxCounters e i0 clear s
  | .txchSet e l => Sys2Proof.Machine.execTxchSet e l s
  | .streamTxSdp e i0 => Sys2Proof.Machine.execStreamTxSdp e i0 s
  | .sapTxConfig e on sec => Sys2Proof.Machine.execSapTxConfig e on sec s
  | .txLoadQuery e port => Sys2Proof.Machine.execTxLoadQuery e port s
  | .xpntInputSet e t l => Sys2Proof.Machine.execXpntInputSet e t l s
  | .xpntInputGet e xs => Sys2Proof.Machine.execXpntInputGet e xs s
  | .xpntOutputSet e sig l => Sys2Proof.Machine.execXpntOutputSet e sig l s
  | .xpntOutputGet e sig => Sys2Proof.Machine.execXpntOutputGet e sig s
  | .delayAlloc e l => Sys2Proof.Machine.execDelayAlloc e l s
  | .delayPoolStatus e os => Sys2Proof.Machine.execDelayPoolStatus e os s
  | .testgenSet e l => Sys2Proof.Machine.execTestgenSet e l s
  | .xpntCounters e x n o m clear => Sys2Proof.Machine.execXpntCounters e x n o m clear s
  | .inAssign e t x n share => Sys2Proof.Machine.execInAssign e t x n share s
  | .sceneEdit e l => Sys2Proof.Machine.execSceneEdit e l s
  | .sceneEditBlock e i0 ni o no codes => Sys2Proof.Machine.execSceneEditBlock e i0 ni o no codes s
  | .sceneRead e verso l => Sys2Proof.Machine.execSceneRead e verso l s
  | .sceneRevert e sigs => Sys2Proof.Machine.execSceneRevert e sigs s
  | .sceneClear e sigs => Sys2Proof.Machine.execSceneClear e sigs s
  | .turnDefine e td release scope ramp => Sys2Proof.Machine.execTurnDefine e td release scope ramp s
  | .turn e td a => Sys2Proof.Machine.execTurn e td a s
  | .turnStatus e sigs td => Sys2Proof.Machine.execTurnStatus e sigs td s
  | .sceneSave e l => Sys2Proof.Machine.execSceneSave e l s
  | .sceneLoad e id src dst dur => Sys2Proof.Machine.execSceneLoad e id src dst dur s
  | .sceneList e page => Sys2Proof.Machine.execSceneList e page s
  | .sceneDelete e id src => Sys2Proof.Machine.execSceneDelete e id src s
  | .meterRead e ms => Sys2Proof.Machine.execMeterRead e ms s
  | .meterProfileSet e ws => Sys2Proof.Machine.execMeterProfileSet e ws s
  | .meterAssign e l => Sys2Proof.Machine.execMeterAssign e l s
  | .meterHoldClear e ms => Sys2Proof.Machine.execMeterHoldClear e ms s
  | .gateRead e => Sys2Proof.Machine.execGateRead e s
  | .snapConfig e set ws => Sys2Proof.Machine.execSnapConfig e set ws s
  | .meterTrigger e set a => Sys2Proof.Machine.execMeterTrigger e set a s
  | .snapStatus e set => Sys2Proof.Machine.execSnapStatus e set s
  | .netPortConfig e ws => Sys2Proof.Machine.execNetPortConfig e ws s
  | .netPortStatus e port => Sys2Proof.Machine.execNetPortStatus e port s
  | .netAddrSet e port a => Sys2Proof.Machine.execNetAddrSet e port a s
  | .gclLoad e port cycle phase l => Sys2Proof.Machine.execGclLoad e port cycle phase l s
  | .qsfpRead e port n mem => Sys2Proof.Machine.execQsfpRead e port n mem s
  | .wakePattern e i0 pat => Sys2Proof.Machine.execWakePattern e i0 pat s
  | .i2sConfig e ws => Sys2Proof.Machine.execI2sConfig e ws s
  | .i2sStatus e ps clear => Sys2Proof.Machine.execI2sStatus e ps clear s
  | .portStart e target a => Sys2Proof.Machine.execPortStart e target a s
  | .localOutSet e l => Sys2Proof.Machine.execLocalOutSet e l s
  | .aes3RxConfig e ws => Sys2Proof.Machine.execAes3RxConfig e ws s
  | .aes3RxStatus e r => Sys2Proof.Machine.execAes3RxStatus e r s
  | .aes3TxConfig e ws => Sys2Proof.Machine.execAes3TxConfig e ws s
  | .aes3TxStatus e ts => Sys2Proof.Machine.execAes3TxStatus e ts s
  | .clkpinConfig e ws => Sys2Proof.Machine.execClkpinConfig e ws s
  | .clkpinStatus e => Sys2Proof.Machine.execClkpinStatus e s
  | .srcGroupConfig e g bw range bind => Sys2Proof.Machine.execSrcGroupConfig e g bw range bind s
  | .srcStatus e gs => Sys2Proof.Machine.execSrcStatus e gs s
  | .srcRelock e g a => Sys2Proof.Machine.execSrcRelock e g a s
  | .srcPathQuery e keys => Sys2Proof.Machine.execSrcPathQuery e keys s
  | .i2cConfig e ws => Sys2Proof.Machine.execI2cConfig e ws s
  | .i2cXfer e i0 segs => Sys2Proof.Machine.execI2cXfer e i0 segs s
  | .i2cStatus e is clear => Sys2Proof.Machine.execI2cStatus e is clear s
  | .i2cBusClear e i0 => Sys2Proof.Machine.execI2cBusClear e i0 s
  | .uartConfig e ws => Sys2Proof.Machine.execUartConfig e ws s
  | .uartWrite e u data => Sys2Proof.Machine.execUartWrite e u data s
  | .uartRead e u n => Sys2Proof.Machine.execUartRead e u n s
  | .gpioConfig e l => Sys2Proof.Machine.execGpioConfig e l s
  | .gpioRead e clear => Sys2Proof.Machine.execGpioRead e clear s
  | .flashInfo e sfdp => Sys2Proof.Machine.execFlashInfo e sfdp s
  | .ctrlpinConfig e ws => Sys2Proof.Machine.execCtrlpinConfig e ws s
  | .ulinkConfig e ws => Sys2Proof.Machine.execUlinkConfig e ws s
  | .ulinkStatus e ls => Sys2Proof.Machine.execUlinkStatus e ls s
  | .ulinkRetrain e l => Sys2Proof.Machine.execUlinkRetrain e l s
  | .hierJoin e p => Sys2Proof.Machine.execHierJoin e p s
  | .hierStatus e others => Sys2Proof.Machine.execHierStatus e others s
  | .relaySet e l => Sys2Proof.Machine.execRelaySet e l s
  | .gridTurn e mask td a replies => Sys2Proof.Machine.execGridTurn e mask td a replies s
  | .umarunTunnel e dst bytes => Sys2Proof.Machine.execUmarunTunnel e dst bytes s
  | .mirrorTakeover e => Sys2Proof.Machine.execMirrorTakeover e s
  | .mirrorStatus e => Sys2Proof.Machine.execMirrorStatus e s
  | .faultStatus e => Sys2Proof.Machine.execFaultStatus e s
  | .errataRead e pos n => Sys2Proof.Machine.execErrataRead e pos n s
  | .errataClear e => Sys2Proof.Machine.execErrataClear e s
  | .errataLogRead e seq n => Sys2Proof.Machine.execErrataLogRead e seq n s
  | .lastwordsRead e => Sys2Proof.Machine.execLastwordsRead e s
  | .patrolConfig e on => Sys2Proof.Machine.execPatrolConfig e on s
  | .sigRelease e sig => Sys2Proof.Machine.execSigRelease e sig s
  | .tipInForce e sig => Sys2Proof.Machine.execTipInForce e sig s
  | .faultInject e x => Sys2Proof.Machine.execFaultInject e x s
  | .wdtConfig e ms => Sys2Proof.Machine.execWdtConfig e ms s
  | .tenantCreate e t quotas flrMode base limit => Sys2Proof.Machine.execTenantCreate e t quotas flrMode base limit s
  | .tenantDestroy e t => Sys2Proof.Machine.execTenantDestroy e t s
  | .quotaSet e t quotas => Sys2Proof.Machine.execQuotaSet e t quotas s
  | .revoke e t items => Sys2Proof.Machine.execRevoke e t items s
  | .tenantStatus e t => Sys2Proof.Machine.execTenantStatus e t s
  | .sigAssign e t sigs => Sys2Proof.Machine.execSigAssign e t sigs s
  | .sigReturn e sigs => Sys2Proof.Machine.execSigReturn e sigs s
  | .tenantResume e t => Sys2Proof.Machine.execTenantResume e t s
  | .hostchAssign e t cap pb => Sys2Proof.Machine.execHostchAssign e t cap pb s
  | .misuseLogRead e t => Sys2Proof.Machine.execMisuseLogRead e t s
  | .tenantConfig e t flrMode base limit => Sys2Proof.Machine.execTenantConfig e t flrMode base limit s
  | .secStatus e => Sys2Proof.Machine.execSecStatus e s
  | .keyLoad e t wrapped => Sys2Proof.Machine.execKeyLoad e t wrapped s
  | .keyRetire e t => Sys2Proof.Machine.execKeyRetire e t s
  | .keyStatus e => Sys2Proof.Machine.execKeyStatus e s
  | .fwStatus e => Sys2Proof.Machine.execFwStatus e s
  | .fwStageOpen e => Sys2Proof.Machine.execFwStageOpen e s
  | .fwStageWrite e ofs data => Sys2Proof.Machine.execFwStageWrite e ofs data s
  | .fwStageClose e => Sys2Proof.Machine.execFwStageClose e s
  | .fwActivate e => Sys2Proof.Machine.execFwActivate e s
  | .fwConfirm e => Sys2Proof.Machine.execFwConfirm e s
  | .fwStageAbort e => Sys2Proof.Machine.execFwStageAbort e s
  | .debugUnlock e parts => Sys2Proof.Machine.execDebugUnlock e parts s
  | .debugLock e => Sys2Proof.Machine.execDebugLock e s
  | .factoryErase e => Sys2Proof.Machine.execFactoryErase e s
  | .mgmtUdpConfig e w => Sys2Proof.Machine.execMgmtUdpConfig e w s
  | .bufRegister e addr size => Sys2Proof.Machine.execBufRegister e addr size s
  | .bufRelease e handle => Sys2Proof.Machine.execBufRelease e handle s
  | .bufQuery e handles => Sys2Proof.Machine.execBufQuery e handles s
  | .ringConfig e q ws masks => Sys2Proof.Machine.execRingConfig e q ws masks s
  | .ringStatus e rings => Sys2Proof.Machine.execRingStatus e rings s
  | .capchSet e sels => Sys2Proof.Machine.execCapchSet e sels s
  | .rxfilterSet e f x => Sys2Proof.Machine.execRxfilterSet e f x s
  | .rxfilterClear e f => Sys2Proof.Machine.execRxfilterClear e f s
  | .registerWrite fn off bar w be => Sys2Proof.Machine.execRegisterWrite fn off bar w be s
  | .snapshotReq fn off => Sys2Proof.Machine.execSnapshotReq fn off s
  | .slotArm fn slot w => Sys2Proof.Machine.execSlotArm fn slot w s
  | .slotCancel fn slot w => Sys2Proof.Machine.execSlotCancel fn slot w s
  | .slotStatRead fn slot => Sys2Proof.Machine.execSlotStatRead fn slot s
  | .entry3Read fn => Sys2Proof.Machine.execEntry3Read fn s
  | .evtFifoRead fn => Sys2Proof.Machine.execEvtFifoRead fn s
  | .mtrVal0Read fn => Sys2Proof.Machine.execMtrVal0Read fn s
  | .errRec0Read fn => Sys2Proof.Machine.execErrRec0Read fn s
  | .setGo fn tb w => Sys2Proof.Machine.execSetGo fn tb w s
  | .rxCommit fn w => Sys2Proof.Machine.execRxCommit fn w s
  | .rxLoad fn w => Sys2Proof.Machine.execRxLoad fn w s
  | .txCommit fn w => Sys2Proof.Machine.execTxCommit fn w s
  | .txLoad fn w => Sys2Proof.Machine.execTxLoad fn w s
  | .counterClear fn pg obj w => Sys2Proof.Machine.execCounterClear fn pg obj w s
  | .clearAll fn pg w => Sys2Proof.Machine.execClearAll fn pg w s
  | .alignCmd fn w => Sys2Proof.Machine.execAlignCmd fn w s
  | .cpllSwap fn w => Sys2Proof.Machine.execCpllSwap fn w s
  | .mpllPstepWrite fn w => Sys2Proof.Machine.execMpllPstepWrite fn w s
  | .sscModeWrite fn w => Sys2Proof.Machine.execSscModeWrite fn w s
  | .gclSwap fn port w => Sys2Proof.Machine.execGclSwap fn port w s
  | .qsfpReset fn port w off => Sys2Proof.Machine.execQsfpReset fn port w off s
  | .now fn w => Sys2Proof.Machine.execNow fn w s
  | .define fn w => Sys2Proof.Machine.execDefine fn w s
  | .release fn w => Sys2Proof.Machine.execRelease fn w s
  | .versoClear fn sig w => Sys2Proof.Machine.execVersoClear fn sig w s
  | .versoRevert fn sig w => Sys2Proof.Machine.execVersoRevert fn sig w s
  | .versoWindowWrite fn ofs bytes => Sys2Proof.Machine.execVersoWindowWrite fn ofs bytes s
  | .clrHold fn w => Sys2Proof.Machine.execClrHold fn w s
  | .holdClrAll fn w => Sys2Proof.Machine.execHoldClrAll fn w s
  | .snapCtlWrite fn set w => Sys2Proof.Machine.execSnapCtlWrite fn set w s
  | .relock fn w => Sys2Proof.Machine.execRelock fn w s
  | .i2sBindWrite fn w => Sys2Proof.Machine.execI2sBindWrite fn w s
  | .grpStart fn g w => Sys2Proof.Machine.execGrpStart fn g w s
  | .restart fn p w => Sys2Proof.Machine.execRestart fn p w s
  | .i2sPortEnable fn p w => Sys2Proof.Machine.execI2sPortEnable fn p w s
  | .i2sPortDisable fn p w => Sys2Proof.Machine.execI2sPortDisable fn p w s
  | .aesRxEnable fn r w => Sys2Proof.Machine.execAesRxEnable fn r w s
  | .aesTxEnable fn t w => Sys2Proof.Machine.execAesTxEnable fn t w s
  | .txStart fn t w => Sys2Proof.Machine.execTxStart fn t w s
  | .txStop fn t w => Sys2Proof.Machine.execTxStop fn t w s
  | .clockOutEnable fn o w => Sys2Proof.Machine.execClockOutEnable fn o w s
  | .mclkChange fn i0 w => Sys2Proof.Machine.execMclkChange fn i0 w s
  | .linkEnable fn l w => Sys2Proof.Machine.execLinkEnable fn l w s
  | .retrain fn l w => Sys2Proof.Machine.execRetrain fn l w s
  | .faultAck fn w => Sys2Proof.Machine.execFaultAck fn w s
  | .kick fn w => Sys2Proof.Machine.execKick fn w s
  | .mgmtRestart fn w => Sys2Proof.Machine.execMgmtRestart fn w s
  | .sqTail fn r v => Sys2Proof.Machine.execSqTail fn r v s
  | .cqHead fn r v => Sys2Proof.Machine.execCqHead fn r v s
  | .dmaTail fn q v => Sys2Proof.Machine.execDmaTail fn q v s
  | .cqEnable fn r w => Sys2Proof.Machine.execCqEnable fn r w s
  | .ringEnable fn q w => Sys2Proof.Machine.execRingEnable fn q w s
  | .maskWrite fn q g hi v => Sys2Proof.Machine.execMaskWrite fn q g hi v s
  | .go fn pg w => Sys2Proof.Machine.execGo fn pg w s
  | .intForce fn pg w => Sys2Proof.Machine.execIntForce fn pg w s
  | .intStatClear fn pg w => Sys2Proof.Machine.execIntStatClear fn pg w s
  | .busClear fn i0 w => Sys2Proof.Machine.execBusClear fn i0 w s
  | .i2cEnable fn i0 w => Sys2Proof.Machine.execI2cEnable fn i0 w s
  | .cpllRelock => Sys2Proof.Machine.execCpllRelock s
  | .standbyCpllLockLoss => Sys2Proof.Machine.execStandbyCpllLockLoss s
  | .pllPhaseExcursion plls => Sys2Proof.Machine.execPllPhaseExcursion plls s
  | .gateEntryChange port x => Sys2Proof.Machine.execGateEntryChange port x s
  | .aes3TxBlockStart t => Sys2Proof.Machine.execAes3TxBlockStart t s
  | .ltcOutFrame => Sys2Proof.Machine.execLtcOutFrame s
  | .clockOutEdge o rising => Sys2Proof.Machine.execClockOutEdge o rising s
  | .cellSend l off => Sys2Proof.Machine.execCellSend l off s
  | .uartFrameTx u => Sys2Proof.Machine.execUartFrameTx u s
  | .flashOperationDone ok => Sys2Proof.Machine.execFlashOperationDone ok s
  | .memberTimeout dev => Sys2Proof.Machine.execMemberTimeout dev s

end Sys2Proof.Machine
end

