-- ==== Sys2Proof/Machine/Step.lean ====
section
/-!
DEFINITION. One step of the block: the command at the front of the queue acts on the state with the rest of the queue.
-/
namespace Sys2Proof.Machine

/-- Take the command at the front of the queue and carry it out; with no command waiting the block idles. -/
def step (s : State) : Host.Outcome State Fault Refusal :=
  match s.pending with
  | [] => .next s
  | c :: rest => exec c { s with pending := rest }

/-- Put a command at the front of the queue. -/
def State.queue (s : State) (c : Instr) : State := { s with pending := c :: s.pending }

/-- Put the command that a word spells at the front of the queue; the table gives no row any bits, so no word spells one. -/
def State.withFetchWord (s : State) (nbits w : Nat) : State :=
  match Sys2Proof.decodeTableWord nbits w with
  | some c => s.queue c
  | none => s

end Sys2Proof.Machine
end

