-- ==== Sys2Proof/Safety.lean ====
section
/-!
DEFINITION. The terms in which statements about runs are made: the form that every reachable state has, a command that passes
every check of R539, and the completion with OK.
-/
namespace Sys2Proof.Machine

/-- The register file is in its canonical form: places strictly rising, none listed at its reset word. -/
def Inv (s : State) : Prop := twf resetWord s.regs = true

/-- The management processor takes the command, and the checks 1 to 6 of R539 that need no parameter find nothing to refuse. -/
def judged (o : Opc) (e : Env) (own : Nat → State → Option Nat) (s : State) : Bool :=
  taken e s && (preCheck o e s).isNone && (midCheck o e own (accept o e s)).isNone

/-- A list of one to `n` items, each as `p` asks. -/
def listed {α : Type} (l : List α) (n : Nat) (p : α → Prop) : Prop := l ≠ [] ∧ l.length ≤ n ∧ ∀ x ∈ l, p x

/-- A response of n words fits the place that the command gives for it, and by UDP the frame (R526, R527). -/
def fits (s : State) (e : Env) (n : Nat) : Bool := decide (4 * n ≤ s.respLimit e) || n == 0

/-- A change to mirrored state is noted for the partner (R388, R392). -/
def noted (o : Opc) (s : State) : State := if o.mirrored && !o.read then mirrorNote o.code s else s

/-- The command completes with OK, a result word and a response, its effect being the state `t`. -/
def okWith (o : Opc) (e : Env) (result : Nat) (resp : List Nat) (t : State) : Host.Outcome State Fault Refusal :=
  .next (complete e stOK result resp true (noted o t))

/-- The command is carried out, and its completion comes with a later event. -/
def laterWith (o : Opc) (t : State) : Host.Outcome State Fault Refusal := .next (noted o t)

/-- The command `c`, judged under `o` and `own`, carries out its effect wherever `ok` holds of the state after acceptance and the
response fits: it completes with OK, the result word `r`, the response `ws` and the state `f`, each of the state after acceptance. -/
def completes (o : Opc) (own : Nat → State → Option Nat) (c : Env → Instr) (ok : Env → State → Prop)
    (r : Env → State → Nat) (ws : Env → State → List Nat) (f : Env → State → State) : Prop :=
  ∀ (e : Env) (s : State), judged o e own s = true → ok e (accept o e s) → fits (accept o e s) e (ws e (accept o e s)).length = true →
    exec (c e) s = okWith o e (r e (accept o e s)) (ws e (accept o e s)) (f e (accept o e s))

/-- The command only answers: no effect but its completion. -/
def queries (o : Opc) (own : Nat → State → Option Nat) (c : Env → Instr) (ok : Env → State → Prop)
    (ws : Env → State → List Nat) : Prop := completes o own c ok (fun _ _ => 0) ws (fun _ s => s)

/-- The command acts and returns nothing. -/
def acts (o : Opc) (own : Nat → State → Option Nat) (c : Env → Instr) (ok : Env → State → Prop)
    (f : Env → State → State) : Prop := completes o own c ok (fun _ _ => 0) (fun _ _ => []) f

/-- The command acts and returns a sample index (R482). -/
def actsAt (o : Opc) (own : Nat → State → Option Nat) (c : Env → Instr) (ok : Env → State → Prop)
    (n : Env → State → Nat) (f : Env → State → State) : Prop :=
  completes o own c ok (fun e s => n e s % 2 ^ 32) (fun e s => [n e s % 2 ^ 32, n e s / 2 ^ 32]) f

/-- The command arms the lowest free collator slot with the arguments `a`, and returns the slot and the index it computes (R50). -/
def arms (o : Opc) (own : Nat → State → Option Nat) (c : Env → Instr) (a : SlotArgs) : Prop :=
  ∀ i : Nat, completes o own c
    (fun e s => s.freeSlotNo = some i ∧ armRefusal (callerOf e) i (slotWrite i a s) = none) (fun _ _ => i)
    (fun e s => [i, ng (armSlot (callerOf e) i (slotWrite i a s)).tim.slotN i % 2 ^ 32,
      ng (armSlot (callerOf e) i (slotWrite i a s)).tim.slotN i / 2 ^ 32])
    (fun e s => armSlot (callerOf e) i (slotWrite i a s))

/-- The command begins what a later event completes. -/
def begins (o : Opc) (own : Nat → State → Option Nat) (c : Env → Instr) (ok : Env → State → Prop)
    (f : Env → State → State) : Prop :=
  ∀ (e : Env) (s : State), judged o e own s = true → ok e (accept o e s) → exec (c e) s = laterWith o (f e (accept o e s))

/-- On the active member of a mirror pair the command is forwarded, and waits whole for the boundary of R388. -/
def defers (o : Opc) (own : Nat → State → Option Nat) (c : Env → Instr) : Prop :=
  ∀ (e : Env) (s : State), judged o e own s = true → (accept o e s).mirrorActive = true →
    exec (c e) s = .next (deferred (c e) (accept o e s))

/-- An event or a register access that the running device takes (R446, R457, R467). -/
def up (s : State) : Bool := decide (3 ≤ s.mode)

/-- The event or access `c` has the effect `f` wherever the device runs and `ok` holds. -/
def happens (c : Instr) (ok : State → Prop) (f : State → State) : Prop :=
  ∀ s : State, up s = true → ok s → exec c s = .next (f s)

/-- An event or an access of the register file or the SPI target, in whichever mode `ok` allows. -/
def occurs (c : Instr) (ok : State → Prop) (f : State → State) : Prop := ∀ s : State, ok s → exec c s = .next (f s)

end Sys2Proof.Machine
end

