-- ==== Sys2Proof/Certificates/Slice0/Obligations.lean ====
section
/-!
DEFINITION. The statements for the provers. A statement about a command is made in the words of Safety.lean: `queries`, `acts`,
`actsAt`, `begins` and `happens` each say that the command answers a next state, and which one; what an equation does not name,
it leaves as it was.
-/
open Sys2Proof Sys2Proof.Machine

/-! ## What answers read -/

/-- References, clocks, network time and the collator: what their status commands return (R71, R106, R139, R140). -/
def Obligations.TimeQueriesAnswer : Prop :=
  queries { read := true } anyone .refStatus (fun _ _ => True) (fun _ s =>
    [s.rw REFS.STAT, s.rw REFS.HOLD_AGE, s.rw REFS.HOLD_FREQ, s.rw REFS.ENS] ++
      (List.range 8).flatMap (fun c => [s.rw REFS.CAND_STAT c, s.rw REFS.CAND_YOFS c, s.rw REFS.CAND_DEV c])) ∧
  queries { read := true } anyone .clkStatus (fun _ _ => True) (fun _ s =>
    [s.rw CLKG.CPLL_STAT, s.rw CLKG.SSC_STAT, s.rw CLKG.TPLL_STAT, s.rw CLKG.MPLL_STAT, s.rw CLKG.MPLL_PHASE, s.rw CLKG.LOCK_EVT]) ∧
  queries { read := true } anyone .clkpinStatus (fun _ _ => True) (fun _ s =>
    [s.rw SYNC.CLKIN_STAT, s.rw SYNC.CLKIN_CTL, s.rw SYNC.WCLK_IN_ADJ, s.rw SYNC.PPS_IN_ADJ, b2n (bg s.ref.outRun 0),
      ng s.loc.clkSet 0, b2n (bg s.ref.outRun 1), ng s.loc.clkSet 1] ++ (List.range 4).map (ng s.loc.mclk)) ∧
  (∀ plane < 2, queries { read := true } anyone (.ptpStatus · plane) (fun _ _ => True) (fun _ s =>
    [s.rw TIME.PTP_STAT (i := plane), s.rw TIME.GM_ID_HI (i := plane), s.rw TIME.GM_ID_LO (i := plane),
      s.rw TIME.GM_QUAL (i := plane), s.rw TIME.OFFSET (i := plane), s.rw TIME.MPD (i := plane)] ++
    [2 * plane, 2 * plane + 1].flatMap (fun port => match og s.net.master port with
      | some m => [uns 8 m.logAnn, uns 8 m.logSync] | none => [0x80, 0x80]))) ∧
  (∀ slot < 64, completes { read := true } (slotOwn slot) (.collQuery · slot) (fun _ _ => True) (fun _ _ => 0)
    (fun _ s => [s.slotState slot, ng s.tim.slotN slot % 2 ^ 32, ng s.tim.slotN slot / 2 ^ 32, s.rd COLL.SLOT_STAT_WAS_LATE slot] ++
      if s.rd COLL.SLOT_CTL_TBSEL slot = 5 then [ng s.tim.slotRate slot] else [])
    (fun e s => freeSlot (callerOf e) slot s)) ∧
  (∀ off, completes { read := true } anyone (.timeSnapshot · off) (fun _ _ => True) (fun _ _ => 0)
    (fun _ s => snapWords (snapshot off s)) (fun _ s => snapshot off s))

/-- Network ports, streams and SAP: what their status commands return; a read of a module selects it (R132, R140, R176, R312). -/
def Obligations.StreamQueriesAnswer : Prop :=
  (∀ port < 4, queries { read := true } anyone (.netPortStatus · port) (fun _ _ => True) (fun _ s =>
    [s.rw NETP.PORT_STAT (i := port), s.rw NETP.QSFP_STAT (i := port)] ++ netCounters.map (fun o => s.gw (0x0A + port) 0 o))) ∧
  (∀ port n mem, port < 4 → n ≤ 128 → completes { read := true } anyone (.qsfpRead · port n mem)
    (fun _ s => s.rb NETP.QSFP_STAT_PRESENT (i := port) = true) (fun _ _ => 0) (fun _ _ => mem.take n) (fun _ s => modSelect port s)) ∧
  (∀ port < 4, queries { read := true } anyone (.txLoadQuery · port) (fun _ _ => True)
    (fun _ s => (List.range 384).map (s.txLoad (s.txPlan s.tx.on) port))) ∧
  (∀ is, listed is 64 (· < 1024) → queries { read := true }
    (fun fn s => if is.all (fun i => may fn (s.rxOwner i)) then none else some stNOT_OWNER) (.streamRxStatus · is) (fun _ _ => True)
    (fun _ s => is.flatMap (fun i => [s.rw STRX.ST_STAT i, s.rw STRX.SSRC_SEEN i, s.rw STRX.RTP_CORR i, s.rw STRX.MARGIN_MIN i,
      s.rw STRX.SKEW_MAX i]))) ∧
  (∀ is, listed is 64 (· < 1024) → queries { read := true }
    (fun fn s => if is.all (fun i => may fn (s.txOwner i)) then none else some stNOT_OWNER) (.streamTxStatus · is) (fun _ _ => True)
    (fun _ s => is.flatMap (fun i => [s.rw STTX.ST_STAT i, s.rw STTX.PHASE i, s.rw STTX.FRAME_LEN i, s.rw STTX.DEP_MAX i]))) ∧
  (∀ i < 1024, queries { read := true } (txOwn i) (.streamTxSdp · i) (fun _ s => s.rb STTX.CFG_EN i = true)
    (fun _ s => leWords (s.sdpText i))) ∧
  (∀ page, queries { read := true } anyone (.sapList · page) (fun _ _ => True) (fun _ s =>
    ((s.rx.sessions.drop (16 * page)).take 16).flatMap (fun q => [q.id, q.ver, q.text.length] ++ leWords q.text)))

/-- Counters read by a command, which may also ask for them to be cleared at the next tick boundary (R176, R234, R312, R345,
R588). The words are those before the clear. -/
def Obligations.CounterQueriesAnswer : Prop :=
  (∀ i clear, i < 1024 → completes { read := !clear } (rxOwn i) (.streamRxCounters · i clear) (fun _ _ => True) (fun _ _ => 0)
    (fun _ s => (List.range 20).map (fun j => s.gw 0x0E i (0x100 + 4 * j)))
    (fun _ s => if clear then s.onCmd (fun c => { c with clr := c.clr ++ [(0x0E, i)] }) else s)) ∧
  (∀ i clear, i < 1024 → completes { read := !clear } (txOwn i) (.streamTxCounters · i clear) (fun _ _ => True) (fun _ _ => 0)
    (fun _ s => (List.range 8).map (fun j => s.gw 0x0F i (0x100 + 4 * j)))
    (fun _ s => if clear then s.onCmd (fun c => { c with clr := c.clr ++ [(0x0F, i)] }) else s)) ∧
  (∀ x n o m clear, x + n ≤ 4096 → o + m ≤ 4096 → completes { read := !clear } (countersOwn x n o m)
    (.xpntCounters · x n o m clear) (fun _ _ => True) (fun _ _ => 0)
    (fun _ s => ((List.range n).map (· + x)).map (fun i => s.rw XPNT.IN_CLIPS i) ++
      ((List.range m).map (· + o)).map (fun i => s.rw SIG.OUT_CLIPS (i % 64) (sigOf i)))
    (fun _ s => if clear then s.onCmd (fun c => { c with clr := c.clr ++ (((List.range n).map (· + x)).map (fun i => (0x11, i)) ++
      ((List.range m).map (· + o)).map (fun i => (0x40 + sigOf i, i % 64))) }) else s)) ∧
  (∀ ps clear, listed ps 16 (· < 16) → completes { read := !clear }
    (fun fn _ => if clear && fn != 0 then some stNOT_OWNER else none) (.i2sStatus · ps clear) (fun _ _ => True) (fun _ _ => 0)
    (fun _ s => ps.flatMap (fun p => s.rw SAPG.PORT_STAT (prtOf p) (grpOf p) :: i2sCounters.map (fun o => s.gw (0x14 + grpOf p) (prtOf p) o)))
    (fun _ s => if clear then s.onCmd (fun c => { c with clr := c.clr ++ ps.map (fun p => (0x14 + grpOf p, prtOf p)) }) else s)) ∧
  (∀ is clear, listed is 4 (· < 4) → completes { pf0 := true, read := true } anyone (.i2cStatus · is clear) (fun _ _ => True)
    (fun _ _ => 0) (fun _ s => is.flatMap (fun i => [s.rw LSIO.I2C_STAT i, s.rw LSIO.I2C_CLEARS i, s.rw LSIO.I2C_NACKS i,
      s.rw LSIO.I2C_TIMEOUTS i]))
    (fun _ s => if clear then s.onCmd (fun c => { c with clr := c.clr ++ is.map (fun i => (0x24, i)) }) else s))

/-- The crosspoint, the scenes and the turns: what their status commands return (R236, R268). -/
def Obligations.CrosspointQueriesAnswer : Prop :=
  (∀ xs, listed xs 256 (· < 4096) → queries { read := true } anyone (.xpntInputGet · xs) (fun _ _ => True)
    (fun e s => xs.flatMap (fun x => if may (callerOf e) (s.xinOwner x) then
      [s.rw XPNT.IN_SRC x, s.rw XPNT.IN_CFG x, s.rw XPNT.IN_STAT x, s.rw XPNT.IN_CLIPS x] else [0, 0, 0, 0]))) ∧
  (∀ sig < 64, queries { read := true } (sigOwn sig) (.xpntOutputGet · sig) (fun _ _ => True) (fun _ s =>
    (List.range 64).flatMap (fun j => [s.rw SIG.OUT_CFG j sig, s.rw SIG.OUT_TRIM j sig, s.rw SIG.OUT_DLY j sig,
      s.rw SIG.OUT_CLIPS j sig, s.rw SIG.OUT_POP j sig, s.rw SIG.OUT_ALLOC j sig]))) ∧
  (∀ os : List Nat, os.length ≤ 1024 → (∀ x ∈ os, x < 4096) → queries { read := true } (xoutOwn os) (.delayPoolStatus · os) (fun _ _ => True)
    (fun _ s => [s.rw XPNT.POOL_FREE, s.rw XPNT.POOL_STAT] ++ os.map s.alloc)) ∧
  (∀ verso l, listed l 1024 (fun w => w.1 < 4096 ∧ w.2 < 4096) → queries { read := true } (sigsOwn (l.map (fun w => sigOf w.2)))
    (.sceneRead · verso l) (fun _ _ => True) (fun _ s => l.map (fun w =>
      ng (if verso then s.versoBank (sigOf w.2) else s.rectoBank (sigOf w.2)) (4096 * (w.2 % 64) + w.1)))) ∧
  (∀ sigs td, sigs.length ≤ 64 → (∀ g ∈ sigs, g < 64) → td < 64 → queries { read := true }
    (fun fn s => (sigsOwn sigs fn s).or (tdOwn td 0 fn s)) (.turnStatus · sigs td) (fun _ _ => True) (fun _ s => s.rw SCNE.TD_STAT td :: sigs.flatMap (fun g =>
      [s.rw SIG.BANK_STAT (i := g), s.rw SIG.GEN (i := g), s.rw SIG.TURN_IDX_HI (i := g), s.rw SIG.TURN_IDX_LO (i := g),
        s.rw SIG.TURN_RAMP (i := g), s.rw SIG.UNLOCK_IDX_HI (i := g), s.rw SIG.UNLOCK_IDX_LO (i := g),
        s.rw SIG.QSTART_IDX_HI (i := g), s.rw SIG.QSTART_IDX_LO (i := g)]))) ∧
  (∀ page, queries { read := true } anyone (.sceneList · page) (fun _ _ => True) (fun e s =>
    (((s.flash.scenes.filter (fun c => c.fn == callerOf e)).drop (64 * page)).take 64).flatMap (fun c =>
      [c.id, c.sig, c.gen, sceneKiB c])))

/-- Meters, gates, snapshots and rate conversion: what their status commands return; another function's meters and groups read
zero (R186, R203, R288). -/
def Obligations.MeterQueriesAnswer : Prop :=
  (∀ ms, listed ms 512 (· < 8192) → queries { read := true } anyone (.meterRead · ms) (fun _ _ => True)
    (fun e s => ms.flatMap (metWords (callerOf e) s))) ∧
  queries { read := true } anyone .gateRead (fun _ _ => True) (fun e s => (List.range 128).map (gateWord (callerOf e) s)) ∧
  (∀ set < 16, queries { read := true } (setOwnRow set) (.snapStatus · set) (fun _ _ => True) (fun _ s =>
    [s.rw METR.SNAP_CTL set, s.rw METR.HEAD set, s.rw METR.TAIL set, s.rw METR.SEQ set, s.rw METR.SNAP_STAT set])) ∧
  (∀ gs, listed gs 64 (· < 256) → queries { read := true } anyone (.srcStatus · gs) (fun _ _ => True) (fun e s =>
    gs.flatMap (fun g => if g < 3 ∨ may (callerOf e) (s.grpOwner g) = true then
      [s.rw SRCB.GRP_STAT g, s.rw SRCB.GRP_SRC g, s.rw SRCB.GRP_RATIO_HI g, s.rw SRCB.GRP_RATIO_LO g, s.rw SRCB.GRP_PPM g,
        s.rw SRCB.GRP_PHI g, s.rw SRCB.GRP_ERR_MAX g, s.rw SRCB.GRP_EVTS g, s.rw SRCB.GRP_CLIPS g, s.rw SRCB.GRP_FAULTS g]
      else List.replicate 10 0))) ∧
  (∀ keys, listed keys 64 (fun k => k.1 < 6 ∧ k.2 < 1024) → queries { read := true } anyone (.srcPathQuery · keys)
    (fun _ _ => True) (fun e s => keys.map (fun q => if may (callerOf e) (s.userOwner q.1 q.2) then
      s.pathOf (ukey q.1 q.2) * 2 ^ 28 + s.groupOf (ukey q.1 q.2) else 0)))

/-- Local audio ports, general-purpose pins, UARTs, Umarun links and the mirror pair: what their status commands return (R345,
R400, R588). GPIO_READ may clear the pins' event bits, and UART_READ takes from the receive FIFO what it returns. How
far a mirror copy has come is a free value. -/
def Obligations.PortQueriesAnswer : Prop :=
  (∀ r < 8, queries { read := true } anyone (.aes3RxStatus · r) (fun _ _ => True) (fun _ s =>
    [s.rw AESP.RX_STAT r, s.rw AESP.RX_BLK_SEQ r] ++ (List.range 7).map (fun j => s.gw 0x18 r (0x10C + 4 * j)) ++
      (List.range 12).map (fun j => s.gw 0x18 r (0x140 + 4 * j)) ++ (List.range 12).map (fun j => s.gw 0x18 r (0x180 + 4 * j)))) ∧
  (∀ ts, listed ts 8 (· < 8) → queries { read := true } anyone (.aes3TxStatus · ts) (fun _ _ => True) (fun _ s =>
    ts.flatMap (fun t => [s.rw AESP.TX_STAT t, s.rw AESP.TX_BLOCKS t]))) ∧
  (∀ clear, completes { pf0 := true } anyone (.gpioRead · clear) (fun _ _ => True) (fun _ _ => 0)
    (fun _ s => (List.range 32).map (fun i => s.rw LSIO.GPIO i))
    (fun _ s => if clear then s.each (List.range 32) (fun s i => s.wb LSIO.GPIO_EVT false i) else s)) ∧
  (∀ u n, u < 2 → 0 < n → n ≤ 1024 → completes { pf0 := true } anyone (.uartRead · u n) (fun _ _ => True) (fun _ _ => 0)
    (fun _ s => let l := (s.uartRx u).take n
      [s.rw LSIO.UART_STAT u, l.length] ++ leWords (l.map (·.1)) ++ leWords (bitMap (l.map (·.2))))
    (fun _ s => uartRxPut u ((s.uartRx u).drop n) s)) ∧
  (∀ ls, listed ls 6 (· < 6) → queries { pf0 := true, read := true } anyone (.ulinkStatus · ls) (fun _ _ => True) (fun _ s =>
    ls.flatMap (fun l => [0x044, 0x048, 0x04C, 0x050, 0x058].map (s.gw (0x1A + l) 0) ++
      (List.range 12).map (fun j => s.gw (0x1A + l) 0 (0x100 + 4 * j))))) ∧
  (∀ others, queries { pf0 := true, read := true } anyone (.hierStatus · others) (fun _ _ => True) (fun _ s =>
    [0x200, 0x204, 0x208, 0x20C, 0x210, 0x214, 0x218, 0x21C, 0x220, 0x224, 0x228].map (s.gw 0x1A 0) ++
      if s.role = roGRID ∧ s.devId = 0 then others.take 16 else [])) ∧
  completes { pf0 := true, read := true } anyone .mirrorStatus (fun _ _ => True) (fun _ _ => 0)
    (fun _ s => [s.rd ULNK.HIER_STAT_MIRROR, s.rd ULNK.HIER_STAT_DIVERGED, s.rw ULNK.MIRROR_LOSSES, s.uma.digest,
      match s.pairWith 5 with | some p => (tget (fun _ => (0, 0)) s.uma.peer (2 * p)).2 | none => 0,
      if s.uma.copying then s.fresh.1 % 2 ^ 32 else 0]) (fun _ s => if s.uma.copying then s.fresh.2 else s)

/-- The device, its mode, its supplies and its faults: what their status commands return (R443, R451, R626). -/
def Obligations.DeviceQueriesAnswer : Prop :=
  queries { read := true } anyone .deviceIdentity (fun _ _ => True) (fun _ s =>
    [b2n s.ls.grade, 0x02, s.flash.serial % 2 ^ 32, s.flash.serial / 2 ^ 32 % 2 ^ 32, s.rw SECU.FW_VER_A, s.rw SECU.FW_VER_B]) ∧
  queries { read := true } anyone .modeStatus (fun _ _ => True) (fun _ s =>
    [s.rw MODE.STATE, s.rw MODE.COND, s.rw MODE.ENTRY_IDX_HI, s.rw MODE.ENTRY_IDX_LO, s.rw MODE.MODE_AGE, s.rw MODE.BOOT_STAT,
      s.rw MODE.BOOT_MS, s.rw MODE.THERM_STAT]) ∧
  queries { read := true } anyone .pwrStatus (fun _ _ => True) (fun _ s =>
    [s.rw PWR.RAIL_STAT, s.rw PWR.BANK_STAT] ++ (List.range 8).map (fun i => s.rw PWR.TEMP i) ++
      (List.range 16).map (fun b => s.rw PWR.IO_CFG b)) ∧
  (∀ page, queries { pf0 := true, read := true } anyone (.configRead · page) (fun _ _ => True) (fun _ s =>
    ((((s.flash.config.getD []).map (fun x => [keyPg x.1, keyObj x.1, keyOff x.1, x.2.toNat]) ++
      s.flash.bootScenes.map (fun x => [0xFFFF, x.1, x.2, 0])).drop (256 * page)).take 256).flatten)) ∧
  queries { pf0 := true, read := true } anyone .faultStatus (fun _ _ => True) (fun _ s =>
    [s.rw FALT.REDUND, s.rw FALT.FALT_STAT, s.rw FALT.PATROL_STAT, s.rw FALT.MGMT_STAT] ++
      (List.range 14).map (fun j => s.gw 0x20 0 (0x0C0 + 4 * j)) ++ [s.rw FALT.MEM_LOST, s.rw FALT.MEM_HARD] ++
      (List.range 65).map (fun g => s.rw SIG.FLT_STAT (i := g))) ∧
  (∀ pos n, pos < 64 → 0 < n → n ≤ 64 → queries { pf0 := true, read := true } anyone (.errataRead · pos n) (fun _ _ => True)
    (fun _ s => ((s.ring.drop pos).take n).flatMap recWords)) ∧
  (∀ seq n, 0 < n → n ≤ 64 → queries { pf0 := true, read := true } anyone (.errataLogRead · seq n) (fun _ _ => True)
    (fun _ s => ((s.flash.errLog.filter (fun x => seq ≤ x.1.seq)).take n).flatMap logWords)) ∧
  queries { pf0 := true, read := true } anyone .lastwordsRead (fun _ _ => True) (fun _ s => leWords s.flt.lwRead)

/-- Tenants, buffers, rings, keys, firmware and flash: what their status commands return (R487, R493, R529, R534, R541, R552,
R588). A tenant sees its own key slot and no security counter. -/
def Obligations.HostQueriesAnswer : Prop :=
  (∀ t < 8, queries { read := true } (ownPage t) (.tenantStatus · t) (fun _ _ => True) (fun _ s =>
    [s.rw TNT.TNT_CTL (i := t), s.rw TNT.TNT_STAT (i := t)] ++ (List.range 12).map (fun r => s.rw TNT.QUOTA r t)
      ++ (List.range 12).map (fun r => s.rw TNT.USE r t) ++ [s.rw TNT.SIGS_HI (i := t), s.rw TNT.SIGS_LO (i := t)])) ∧
  (∀ t < 8, queries { read := true } (ownPage t) (.misuseLogRead · t) (fun _ _ => True) (fun _ s => s.misuseLog t)) ∧
  (∀ handles, handles.length ≤ 256 → queries { pcieOnly := true, read := true } anyone (.bufQuery · handles) (fun _ _ => True)
    (fun e s => handles.flatMap (fun h => match s.bufOf (callerOf e) h with
      | some b => [1 + b2n b.held, b.size, b.addr % 2 ^ 32, b.addr / 2 ^ 32]
      | none => [0, 0, 0, 0]))) ∧
  (∀ rings, rings.length ≤ 16 → (∀ q ∈ rings, q < 16) → queries { pcieOnly := true, read := true } anyone (.ringStatus · rings)
    (fun _ _ => True) (fun e s => rings.flatMap (fun q => let k := rk (callerOf e) q
      [s.rw HOST.RING_STAT k, s.rw HOST.HEAD k, s.rw HOST.START_TICK_HI k, s.rw HOST.START_TICK_LO k, s.rw HOST.LATE k,
        s.rw HOST.DROPPED k, s.rw HOST.DONE k]))) ∧
  queries { read := true } anyone .keyStatus (fun _ _ => True) (fun e s =>
    (if callerOf e = 0 then List.range 16 else [callerOf e]).flatMap (fun t =>
      [s.rw SECU.SLOT_STAT t, s.rw SECU.SLOT_CTR_HI t, s.rw SECU.SLOT_CTR_LO t])) ∧
  queries { read := true } anyone .secStatus (fun _ _ => True) (fun e s =>
    [s.rw SECU.SEC_STAT, s.rw SECU.FW_STAT, s.rw SECU.FW_VER_A, s.rw SECU.FW_VER_B] ++
      if callerOf e = 0 then (List.range 7).map (fun i => s.gw 0x23 0 (0x060 + 4 * i)) else []) ∧
  queries { pf0 := true, read := true } anyone .fwStatus (fun _ _ => True) (fun _ s =>
    [s.rw SECU.FW_STAT] ++ s.hdrWords 0 ++ s.hdrWords 1) ∧
  (∀ sfdp, ∃ free : State → List Nat × State, completes { pf0 := true, read := true } anyone (.flashInfo · sfdp) (fun _ _ => True)
    (fun _ _ => 0) (fun _ s => [s.rw LSIO.QSPI_STAT, s.rw LSIO.QSPI_ID, s.rw LSIO.QSPI_CLK, s.rw LSIO.ERASES, s.rw LSIO.PROGRAMS] ++
      sfdp ++ (free s).1) (fun _ s => (free s).2) ∧
    ∀ s, (free s).1.length = 26 ∧ (List.range 13).map (fun i => (free s).1.getD (2 * i) 0) = (flashRegions s).map (1024 * ·) ∧
      (free s).2.flash = s.flash ∧ (free s).2.regs = s.regs)

/-! ## What configuration commands do -/

/-- A configuration command whose registers all stand on one page class writes each of them in order, as a base-view write, and
refuses the whole list where one is not its own or out of range. -/
def Obligations.ConfigurationCommandsWrite : Prop :=
  (∀ ws, cfgOk 0x00 1 [0x048, 0x04C, 0x064] ws = true → acts { pf0 := true } anyone (.modeConfig · ws) (fun _ _ => True)
    (fun _ s => cfgWrite 0x00 ws s)) ∧
  (∀ ws, cfgOk 0x04 4 [0x080, 0x090, 0x094] ws = true → (∀ w ∈ ws, w.inst = 3 ∧ w.obj = 0) →
    acts { pf0 := true } anyone (.ltcConfig · ws) (fun _ _ => True) (fun _ s => cfgWrite 0x04 ws s)) ∧
  (∀ ws, cfgOk 0x09 1 [0x040, 0x044, 0x048, 0x04C, 0x060] ws = true → (∀ w ∈ ws, w.obj = 0) →
    acts { pf0 := true } anyone (.evtConfig · ws) (fun _ _ => True)
      (fun _ s => if ∃ w ∈ ws, w.off = 0x04C then evtLevel (cfgWrite 0x09 ws s) else cfgWrite 0x09 ws s)) ∧
  (∀ ws, cfgOk 0x03 1 refCfgRegs ws = true → (∀ w ∈ ws, w.obj = 0 ∨ (w.off = 0x100 ∧ w.obj < 8)) →
    acts { pf0 := true } anyone (.refConfig · ws) (fun _ _ => True) (fun _ s => cfgWrite 0x03 ws s)) ∧
  (∀ ws, cfgOk 0x04 2 ptpCfgRegs ws = true → (∀ w ∈ ws, w.obj = 0) →
    acts { pf0 := true } anyone (.ptpConfig · ws) (fun _ _ => True) (fun _ s => cfgWrite 0x04 ws s)) ∧
  (∀ ws, cfgOk 0x0A 4 portCfgRegs ws = true → (∀ w ∈ ws, (w.off = 0x040 → portCtlOk w.val = true ∧ w.obj = 0) ∧
      (w.off ≠ 0x040 → w.obj = 0 ∨ ((w.off = 0x0A0 ∨ w.off = 0x0E0) ∧ w.obj < 8))) →
    acts { pf0 := true } anyone (.netPortConfig · ws) (fun _ _ => True) (fun _ s => cfgWrite 0x0A ws s)) ∧
  (∀ ws, cfgOk 0x19 1 clkpinRegs ws = true → (∀ w ∈ ws, w.obj = 0 ∨ (w.off = 0x060 ∧ w.obj < 4)) →
    acts { pf0 := true } anyone (.clkpinConfig · ws) (fun _ _ => True) (fun _ s => cfgWrite 0x19 ws s)) ∧
  (∀ ws, ws ≠ [] → cfgOk 0x24 1 [0x484, 0x488] ws = true → (∀ w ∈ ws, w.obj = 0) → acts { pf0 := true } anyone (.ctrlpinConfig · ws)
    (fun _ s => ∀ w ∈ ws, w.off = 0x484 → s.warnOk w.val = true) (fun _ s => cfgWrite 0x24 ws s)) ∧
  (∀ ws, ws ≠ [] → cfgOk 0x24 1 [0x200, 0x208] ws = true → (∀ w ∈ ws, w.obj < 2) → acts { pf0 := true } anyone (.uartConfig · ws)
    (fun _ _ => True) (fun _ s => s.each ws (fun s w => uartAfter s w.obj (s.writeWord 16 0x24 w.obj w.off .base (uartWord w))))) ∧
  (∀ l, listed l 32 (fun x => x.1 < 32 ∧ x.2 < 2 ^ 32 ∧ fbits x.2 31 30 ≠ 3 ∧ fbits x.2 27 26 ≠ 3) →
    acts { pf0 := true } anyone (.gpioConfig · l) (fun _ _ => True) (fun _ s => s.each l (fun s x => s.writeWord 16 0x24 x.1 0x400 .base x.2))) ∧
  (∀ l, listed l 16 (fun x => x.1 < 16 ∧ x.2 < 2 ^ 32 ∧ fbits x.2 5 4 ≠ 3) →
    acts { pf0 := true } anyone (.ioConfig · l) (fun _ _ => True) (fun _ s => s.each l (fun s x => s.writeWord 16 0x01 x.1 0x080 .base x.2)))

/-- Configuration commands of links, buses and audio ports: what each write of the list does beside storing its word. I2S_CONFIG
judges each write on the state that those before it leave, and audio ports are configured only where the pool holds them. -/
def Obligations.PortConfigurationActs : Prop :=
  (∀ ws, ws ≠ [] → cfgOk 0x1A 6 [0x040, 0x054] ws = true → acts { pf0 := true } anyone (.ulinkConfig · ws) (fun _ _ => True)
    (fun _ s => s.each ws (fun s w => if w.off = 0x040 then linkCtl w.inst w.val s else cfgWrite 0x1A [w] s))) ∧
  (∀ ws, listed ws 4 (·.obj < 4) → cfgOk 0x24 1 [0x100] ws = true → acts { pf0 := true } anyone (.i2cConfig · ws) (fun _ _ => True)
    (fun _ s => s.each ws (fun s w => icCtl w.obj w.val s))) ∧
  (∀ ws t, locWsOk ws 4 4 [0x100, 0x12C] = true → ∀ (e : Env) (s : State), judged { pf0 := true } e anyone s = true →
    i2sCfg (accept { pf0 := true } e s) ws = .ok t → locRefused t ((ws.map (fun w => 4 * w.inst + w.obj)).map (fun i => (0, i))) = none → exec (.i2sConfig e ws) s = okWith { pf0 := true } e 0 [] t) ∧
  (∀ ws, locWsOk ws 1 8 [0x100, 0x12C] = true → (∀ w ∈ ws, w.off = 0x12C → 8000 ≤ w.val ∧ w.val ≤ 216000) →
    acts { pf0 := true } anyone (.aes3RxConfig · ws) (fun _ s => (∀ w ∈ ws, w.off = 0x12C → s.rb AESP.RX_CTL_EN w.obj = false) ∧
      locRefused (s.each ws (fun s w => if w.off = 0x100 then arCtlWrite w.obj w.val s else arNomWrite w.obj w.val s))
        ((ws.map (·.obj)).map (fun i => (1, i))) = none)
      (fun _ s => s.each ws (fun s w => if w.off = 0x100 then arCtlWrite w.obj w.val s else arNomWrite w.obj w.val s))) ∧
  (∀ ws, locWsOk ws 1 8 (0x900 :: (List.range 12).map (fun j => 0x910 + 4 * j)) = true → (∀ w ∈ ws, w.off = 0x900 → fbits w.val 2 0 ≤ 5) →
    acts { pf0 := true } anyone (.aes3TxConfig · ws)
      (fun _ s => (∀ w ∈ ws, w.off = 0x900 → s.rb AESP.TX_CTL_EN w.obj = true → fbits w.val 2 0 = s.rd AESP.TX_CTL_RATE w.obj) ∧
        locRefused (s.each ws (fun s w => if w.off = 0x900 then atCtlWrite w.obj w.val s else s.hold 16 0x18 w.obj w.off 0xFFFFFFFF w.val))
          ((ws.map (·.obj)).map (fun i => (2, i))) = none)
      (fun _ s => s.each ws (fun s w => if w.off = 0x900 then atCtlWrite w.obj w.val s else s.hold 16 0x18 w.obj w.off 0xFFFFFFFF w.val))) ∧
  (∀ ws, cfgOk 0x02 1 [0x040, 0x048, 0x070] ws = true → (∀ w ∈ ws, w.obj = 0) → acts { pf0 := true } anyone (.clkConfig · ws)
    (fun _ s => s.mode = mCONFIG ∨ s.mode = mTEST ∨ ∀ w ∈ ws, w.off = 0x048 → w.val % 4 = s.rd CLKG.SSC_CTL_MODE)
    (fun _ s => (cfgWrite 0x02 (ws.filter (fun w => w.off != 0x048)) s).each (ws.filter (fun w => w.off == 0x048))
      (fun s w => sscStart (w.val % 4) s)))

/-- Single settings that a command makes: watchdog, patrol, SAP announcements, test generators, DMA windows, rate-conversion
groups, port addresses, wake patterns and the UDP settings. -/
def Obligations.SettingsAreStored : Prop :=
  (∀ ms, 10 ≤ ms → ms ≤ 1000 → acts { pf0 := true } anyone (.wdtConfig · ms) (fun _ _ => True) (fun _ s => s.wr FALT.WDT_CTL_TIMEOUT ms)) ∧
  (∀ on, acts { pf0 := true } anyone (.patrolConfig · on) (fun _ _ => True) (fun _ s => s.wb FALT.PATROL_CTL_EN on)) ∧
  (∀ on sec, 0 < sec → sec ≤ 300 → acts { pf0 := true } anyone (.sapTxConfig · on sec) (fun _ _ => True)
    (fun _ s => (s.wb STTX.SAP_TX_CFG_EN on).wr STTX.SAP_TX_CFG_INTERVAL sec)) ∧
  (∀ l, listed l 16 (fun w => w.g < 16 ∧ w.kind ≤ 5 ∧ 1 ≤ w.freq ∧ w.freq ≤ 4800000 ∧ w.level < 2 ^ 16) →
    acts { pf0 := true, mirrored := true, code := 0x0407 } anyone (.testgenSet · l) (fun _ s => s.mirrorActive = false) (fun _ s => s.each l (fun s w =>
      ((s.wr XPNT.TG_CTL_KIND w.kind w.g).wr XPNT.TG_FREQ_FREQ w.freq w.g).wr XPNT.TG_LEVEL_LEVEL w.level w.g))) ∧
  (∀ t mode base limit, base < 2 ^ 64 → limit < 2 ^ 64 → acts { pf0 := true } (namesTenant t false) (.tenantConfig · t mode base limit)
    (fun _ _ => True) (fun _ s => ((s.wb TNT.TNT_CTL_FLR_MODE mode (i := t)).wr64 TNT.DMA_WIN_BASE_HI TNT.DMA_WIN_BASE_LO base (i := t)).wr64
      TNT.DMA_WIN_LIMIT_HI TNT.DMA_WIN_LIMIT_LO limit (i := t))) ∧
  (∀ g bw range, 3 ≤ g → g < 256 → bw ≤ 5 → range ≤ 2 → acts { mirrored := true, code := 0x0660 } (grpOwn g)
    (.srcGroupConfig · g bw range none) (fun _ s => s.mirrorActive = false) (fun _ s => s.ww SRCB.GRP_CFG (256 * bw + 16 * range) g)) ∧
  (∀ g bw range w, 3 ≤ g → g < 256 → bw ≤ 5 → range ≤ 2 → w < 16 → acts { mirrored := true, code := 0x0660 } (grpOwn g)
    (.srcGroupConfig · g bw range (some w)) (fun e s => callerOf e = 0 ∧ s.mirrorActive = false)
    (fun _ s => bindWrite w (s.ww SRCB.GRP_CFG (256 * bw + 16 * range) g))) ∧
  (∀ l g bw range bind, defers { pf0 := true, mirrored := true, code := 0x0407 } anyone (.testgenSet · l) ∧
    defers { mirrored := true, code := 0x0660 } (grpOwn g) (.srcGroupConfig · g bw range bind)) ∧
  (∀ port a, port < 4 → a.prefix4 ≤ 32 → a.ip4 < 2 ^ 32 → a.gateway < 2 ^ 32 → a.ip6a < 2 ^ 128 → a.ip6b < 2 ^ 128 →
    acts { pf0 := true } anyone (.netAddrSet · port a) (fun _ _ => True)
      (fun _ s => dadStart port ([a.ip6a, a.ip6b].filter (· != 0))
        (flashWrote (s.onFlash (fun f => { f with addrs := os f.addrs port (some a) }))))) ∧
  (∀ i pat, 0 < i → i ≤ 3 → pat.length ≤ 128 → (∀ x ∈ pat, x.1 < 256 ∧ x.2 < 256) → acts { pf0 := true } anyone (.wakePattern · i pat)
    (fun _ _ => True) (fun _ s => s.onNet (fun n => { n with wake := tset (fun _ => []) n.wake i pat }))) ∧
  (∀ w, w < 2 ^ 32 → w &&& 0x7FF00000 = 0 → acts { pf0 := true } anyone (.mgmtUdpConfig · w) (fun _ _ => True)
    (fun _ s => s.onCmd (fun c => { c with udpPend := some w }))) ∧
  (∀ on addrs, (∀ a ∈ addrs, a < 2 ^ 128) → acts { pf0 := true } anyone (.sapConfig · on addrs) (fun _ _ => True)
    (fun _ s => s.onRx (fun r => { r with sapOn := on, sapAddrs := if addrs = [] then s.rx.sapAddrs else addrs,
                                          sessions := if on then s.rx.sessions else [] })))

/-! ## Timed actions and turns -/

/-- Each command that arms a collator slot takes the lowest free one, with the action it names (R50, R71, R176, R203, R290, R345). -/
def Obligations.ArmingCommandsArm : Prop :=
  (∀ a : SlotArgs, a.action ≤ 15 → a.tbsel ≤ 7 →
    arms { mirrored := true, code := 0x0210, modes := armModes } (armOwn a.action a.p0) (.collArm · a) a) ∧
  (∀ g (a : SlotArgs), g < 256 → a.tbsel ≤ 7 → arms { mirrored := true, code := 0x0662, modes := armModes } (armOwn 7 g)
    (.srcRelock · g a) { a with action := 7, p0 := g, p1 := 0 }) ∧
  (∀ set (a : SlotArgs), set < 16 → a.tbsel ≤ 7 → arms { mirrored := true, code := 0x0511, modes := armModes } (armOwn 6 set)
    (.meterTrigger · set a) { a with action := 6, p0 := set, p1 := 0 }) ∧
  (∀ target (a : SlotArgs), (target ≤ 3 ∨ (0x10 ≤ target ∧ target ≤ 0x17)) → a.tbsel ≤ 7 → arms { modes := armModes } (armOwn 2 target)
    (.portStart · target a) { a with action := 2, p0 := target, p1 := 0 }) ∧
  (∀ tx i (a : SlotArgs), i < 1024 → a.tbsel ≤ 7 → arms { mirrored := true, code := 0x0310, modes := armModes }
    (armOwn 3 (i + 1024 * b2n tx)) (.streamStart · tx i a) { a with action := 3, p0 := i + 1024 * b2n tx, p1 := 0 }) ∧
  (∀ tx i (a : SlotArgs), i < 1024 → a.tbsel ≤ 7 → arms { mirrored := true, code := 0x0311, modes := armModes }
    (armOwn 4 (i + 1024 * b2n tx)) (.streamStop · tx i a) { a with action := 4, p0 := i + 1024 * b2n tx, p1 := 0 })

/-- Slots, time bases, alignment and turns: a cancelled slot, a set waiting for its tick boundary, an ALIGN, a phase step, a
descriptor defined or released, and a turn at once, at the next tick or armed (R56, R59, R91, R99, R244, R245, R248). -/
def Obligations.TimedActionsAct : Prop :=
  (∀ slot < 64, acts { mirrored := true, code := 0x0211 } (slotOwn slot) (.collCancel · slot) (fun _ s => (cancelJudge slot s).1 = stOK ∧ s.mirrorActive = false)
    (fun _ s => if (cancelJudge slot s).2 then cancelSlot slot s else s)) ∧
  (∀ slot (s : State), (s.slotState slot = slARMED → cancelJudge slot s = (stOK, true)) ∧
    (s.slotState slot = slFROZEN → s.rw COLL.SLOT_PERIOD slot ≠ 0 → cancelJudge slot s = (stOK, true)) ∧
    (s.slotState slot = slDONE ∨ s.slotState slot = slMISSED ∨ s.slotState slot = slCANCELLED → cancelJudge slot s = (stOK, false))) ∧
  (∀ tb sec ns, (tb = 2 ∨ tb = 3) → setOk sec ns = true → acts { pf0 := true } anyone (.tbSet · tb sec ns)
    (fun _ s => tb = 3 ∨ s.rd REFS.STAT_STATE = 0) (fun _ s => s.onTim (fun t => { t with setPend := os t.setPend tb (some (timeGrid sec ns)) }))) ∧
  (∀ mask, mask &&& 0xFF7 = mask → actsAt { pf0 := true } anyone (.alignNow · mask) (fun _ _ => True)
    (fun _ s => if s.tim.published then 32 * s.nextTick else 0) (fun _ s => s.onRef (fun r => { r with alignPend := r.alignPend ||| mask }))) ∧
  (∀ n : Int, -32768 ≤ n → n ≤ 32767 → acts { pf0 := true } anyone (.mpllStep · n) (fun _ s => s.rb CLKG.MPLL_STAT_PSTEP_BUSY = false)
    (fun _ s => (s.wb CLKG.MPLL_STAT_PSTEP_BUSY true).onRef (fun r => { r with pstep := n }))) ∧
  (∀ td scope ramp, td < 64 → ramp ≤ 16384 → scope < 2 ^ 64 → acts { mirrored := true, code := 0x0415 } (tdOwn td scope)
    (.turnDefine · td false scope ramp) (fun _ s => s.tdNamed td = false ∧ s.mirrorActive = false) (fun e s =>
      ((((s.wr SCNE.TURN_CTL_RAMP ramp td).ww SCNE.TD_SCOPE_HI (scope / 2 ^ 32) td).ww SCNE.TD_SCOPE_LO (scope % 2 ^ 32) td).wb
        SCNE.TD_STAT_DEFINED true td).wr SCNE.TD_STAT_OWNER (callerOf e) td)) ∧
  (∀ td scope ramp, td < 64 → ramp ≤ 16384 → scope < 2 ^ 64 → acts { mirrored := true, code := 0x0415 } (tdOwn td 0)
    (.turnDefine · td true scope ramp) (fun _ s => s.tdNamed td = false ∧ s.tdDefined td = true ∧ s.mirrorActive = false) (fun _ s =>
      (s.wb SCNE.TD_STAT_DEFINED false td).wr SCNE.TD_STAT_OWNER 0 td)) ∧
  (∀ td (a : SlotArgs), td < 64 → a.tbsel ≤ 7 → actsAt { mirrored := true, code := 0x0416, modes := fun m => !turnsDropped m } (tdOwn td 0)
    (.turn · td a) (fun _ s => s.tdDefined td = true ∧ atOnce s.mode = true ∧ s.keepLoads td = false ∧ (s.tdKeep td).isEmpty = false)
    (fun _ s => s.idx) (fun _ s => turnAtOnce td s)) ∧
  (∀ td (a : SlotArgs), td < 64 → a.tbsel = 6 → actsAt { mirrored := true, code := 0x0416, modes := fun m => !turnsDropped m } (tdOwn td 0)
    (.turn · td a) (fun _ s => s.tdDefined td = true ∧ atOnce s.mode = false ∧ (s.tdKeep td).isEmpty = false ∧ (s.tdKeep td).any s.queuedSig = false)
    (fun _ s => s.nowIndex) (fun _ s => s.onScn (fun c => { c with now := c.now ++ [(td, s.nowIndex)] }))) ∧
  (∀ mask td (a : SlotArgs), td < 64 → 0 < mask → mask < 65536 → a.tbsel = 6 → ∀ i, completes { pf0 := true, modes := armModes } anyone
    (.gridTurn · mask td a []) (fun _ s => s.role = roGRID ∧ s.devId = 0 ∧ (∀ d < 16, bit mask d = true → d = 0) ∧ bit mask 0 = true ∧
      s.tdDefined td = true ∧ s.freeSlotNo = some i ∧ s.tim.sample + 64 ≤ 32 * (s.accTick + 4))
    (fun _ s => 32 * (s.accTick + 4) % 2 ^ 32) (fun _ s => [32 * (s.accTick + 4) % 2 ^ 32, 32 * (s.accTick + 4) / 2 ^ 32, 0, i])
    (fun _ s => armSlot 0 i (slotWrite i
      { action := 1, tbsel := 7, late := false, secHi := 0, secLo := 32 * (s.accTick + 4) / 2 ^ 32,
        ns := 32 * (s.accTick + 4) % 2 ^ 32, p0 := td, p1 := 0, period := 0 } s))) ∧
  (∀ slot td release scope ramp, defers { mirrored := true, code := 0x0211 } (slotOwn slot) (.collCancel · slot) ∧
    defers { mirrored := true, code := 0x0415 } (tdOwn td (if release then 0 else scope)) (.turnDefine · td release scope ramp))

/-! ## Streams -/

/-- A stream entry that a command commits: the entry of the caller's words passes every check, is stored or enabled, and the work
object is left clear; a removed entry is disabled and returns to its reset values; on the active member of a mirror pair the change
waits for the boundary that both members share (R143, R144, R148, R172, R176, R312, R388). -/
def Obligations.StreamEntriesCommit : Prop :=
  (∀ i ws t, i < 1024 → entryWsOk rxCfgRegs ws = true → completes { mirrored := true, code := 0x0301 } (rxOwnNew i) (.streamRxAdd · i ws)
    (fun e s => s.rb STRX.CFG_EN i = false ∧ s.mirrorActive = false ∧
      rxCommit (callerOf e) i workObj (entryStage 0x0E rxEntry none ws (rxJudge s)) = .ok t)
    (fun _ _ => i) (fun _ _ => [i]) (fun _ _ => (entryReset 0x0E rxEntry workObj t).onRx (fun r =>
      { r with sdpRef := os r.sdpRef i none, sapOf := os r.sapOf i none }))) ∧
  (∀ i d p ws ref t, i < 1024 → completes { mirrored := true, code := 0x0302 } (rxOwnNew i) (.streamRxSdp · i d p)
    (fun e s => sdpWords d p s = some (ws, ref) ∧ s.rb STRX.CFG_EN i = false ∧ s.mirrorActive = false ∧
      rxCommit (callerOf e) i workObj (entryStage 0x0E rxEntry none ws (rxJudge s)) = .ok t)
    (fun _ _ => i) (fun _ _ => [i]) (fun _ _ => (entryReset 0x0E rxEntry workObj t).onRx (fun r => { r with
      sdpRef := os r.sdpRef i ref, sapOf := os r.sapOf i ((entryReset 0x0E rxEntry workObj t).sessionOf d) }))) ∧
  (∀ i ws t, i < 1024 → entryWsOk rxCfgRegs ws = true → completes { mirrored := true, code := 0x0303 } (rxOwn i) (.streamRxModify · i ws)
    (fun e s => bg s.rx.used i = true ∧ s.mirrorActive = false ∧
      rxCommit (callerOf e) i workObj (entryStage 0x0E rxEntry (some i) ws (rxJudge s)) = .ok t)
    (fun _ _ => i) (fun _ _ => [i]) (fun _ _ => entryReset 0x0E rxEntry workObj t)) ∧
  (∀ i < 1024, acts { mirrored := true, code := 0x0304 } (rxOwn i) (.streamRxRemove · i)
    (fun _ s => bg s.rx.used i = true ∧ s.mirrorActive = false)
    (fun _ s => ((entryReset 0x0E rxEntry i (rxDisable i (rxJudge s))).ww STRX.OWNER 0 i).onRx (fun r =>
      { r with used := bs r.used i false, sdpRef := os r.sdpRef i none, sapOf := os r.sapOf i none }))) ∧
  (∀ i name ws t, i < 1024 → name.length ≤ 32 → entryWsOk txCfgRegs ws = true →
    let t' : State := (entryReset 0x0F txEntry workObj t).onTx (fun x => { x with names := tset (fun _ => []) x.names i name })
    completes { mirrored := true, code := 0x0330 } (txOwnNew i) (.streamTxAdd · i name ws)
      (fun e s => s.rb STTX.CFG_EN i = false ∧ s.mirrorActive = false ∧ txCommit (callerOf e) i workObj (entryStage 0x0F txEntry none ws s) = .ok t)
      (fun _ _ => t'.rd STTX.PHASE_PHASE i) (fun _ _ => [t'.rd STTX.PHASE_PHASE i]) (fun _ _ => t')) ∧
  (∀ i ws t, i < 1024 → entryWsOk txCfgRegs ws = true →
    let t' : State := entryReset 0x0F txEntry workObj t
    completes { mirrored := true, code := 0x0331 } (txOwn i) (.streamTxModify · i ws)
      (fun e s => bg s.tx.used i = true ∧ s.mirrorActive = false ∧ txCommit (callerOf e) i workObj (entryStage 0x0F txEntry (some i) ws s) = .ok t)
      (fun _ _ => t'.rd STTX.PHASE_PHASE i) (fun _ _ => [t'.rd STTX.PHASE_PHASE i]) (fun _ _ => t')) ∧
  (∀ i < 1024, acts { mirrored := true, code := 0x0332 } (txOwn i) (.streamTxRemove · i)
    (fun _ s => bg s.tx.used i = true ∧ s.mirrorActive = false)
    (fun _ s => (((entryReset 0x0F txEntry i (txDisable i s)).ww STTX.FRAME_LEN 0 i).ww STTX.OWNER 0 i).onTx (fun t =>
      { t with used := bs t.used i false, names := tset (fun _ => []) t.names i [] }))) ∧
  (∀ i ws d p name, defers { mirrored := true, code := 0x0301 } (rxOwnNew i) (.streamRxAdd · i ws) ∧
    defers { mirrored := true, code := 0x0302 } (rxOwnNew i) (.streamRxSdp · i d p) ∧
    defers { mirrored := true, code := 0x0303 } (rxOwn i) (.streamRxModify · i ws) ∧
    defers { mirrored := true, code := 0x0304 } (rxOwn i) (.streamRxRemove · i) ∧
    defers { mirrored := true, code := 0x0330 } (txOwnNew i) (.streamTxAdd · i name ws) ∧
    defers { mirrored := true, code := 0x0331 } (txOwn i) (.streamTxModify · i ws) ∧
    defers { mirrored := true, code := 0x0332 } (txOwn i) (.streamTxRemove · i))

/-! ## The crosspoint, scenes and meters -/

/-- What a command gives an X-in, an X-out, a selector, a profile or a meter waits for its boundary; no write of a register keeps
it back (R208, R209, R233, R288, R311, R320, R380, R499). -/
def Obligations.SettingsWaitForTheirBoundary : Prop :=
  (∀ t l (e : Env) (s : State), let o : Opc := { mirrored := true, code := 0x0401 }
    let a := accept o e s
    let n := (a.inBoundary t).1
    judged o e (xinOwn l) s = true → fits a e 2 = true → (isAt t = true → a.mode ≠ mCONFIG ∧ a.mode ≠ mACQUIRE) →
    listed l 256 (fun w => w.x < 4096 ∧ selOk w.src = true ∧ w.src < 2 ^ 16) → a.xp.inPend.length < 4 →
    exec (.xpntInputSet e t l) s = .next (complete e (if (a.inBoundary t).2 then stOK_LATE else stOK) (n % 2 ^ 32)
      [n % 2 ^ 32, n / 2 ^ 32] true (noted o ((a.each l (fun s w =>
        cmdHold 0x11 w.x 0x048 inCfgMask w.cfg n (cmdHold 0x11 w.x 0x044 0xFFFF w.src n s))).onXp
          (fun q => { q with inPend := q.inPend ++ [n] }))))) ∧
  (∀ sig l, sig < 64 → listed l 64 (fun w => xoutOk w = true) → acts { mirrored := true, code := 0x0403 } (sigOwn sig)
    (.xpntOutputSet · sig l)
    (fun _ s => ∀ w ∈ l, ∀ d, w.dly = some d → d ≤ 64 * s.alloc (64 * sig + w.j) ∧ s.allocPending (64 * sig + w.j) = false)
    (fun _ s => s.each l (fun s w =>
      outHold sig 0x408 0x1FFFFF w.dly w.j (outHold sig 0x404 0xFFFF w.trim w.j (outHold sig 0x400 0xF8001FFF w.cfg w.j s))))) ∧
  (∀ l, l.length ≤ 1024 → (∀ x ∈ l, x.1 < 8192 ∧ x.2 < 65536 ∧ txSelOk x.2 = true) → acts { mirrored := true, code := 0x0335 }
    (fun fn s => if l.all (fun x => may fn (s.txChOwner x.1)) then none else some stNOT_OWNER) (.txchSet · l)
    (fun _ s => txSelRefusal s l = none) (fun _ s => s.onHeld (fun hs => hs ++ l.map (fun x =>
      { fn := 16, pg := 0x0F, obj := x.1, off := 0x144, mask := 0xFFFF, val := x.2, kept := false, due := s.rwbDue 0x0F 0x144 })))) ∧
  (∀ l, l.length ≤ 512 → (∀ x ∈ l, x.1 < 512 ∧ x.2 < 65536 ∧ txSelOk x.2 = true) → acts { pcieOnly := true }
    (fun fn s => if l.all (fun x => s.capOwner x.1 == fn) then none else some stNOT_OWNER) (.capchSet · l) (fun _ _ => True)
    (fun _ s => s.onHeld (fun hs => hs ++ l.map (fun x =>
      { fn := 16, pg := 0x21, obj := x.1, off := 0x048, mask := 0xFFFF, val := x.2, kept := false, due := s.rwbDue 0x21 0x048 })))) ∧
  (∀ l, listed l 1024 (fun x => x.1 < 4096 ∧ x.2 < 65536 ∧ uoutSelOk x.2 = true) → acts { pf0 := true } anyone (.relaySet · l)
    (fun _ _ => True) (fun _ s => s.each l (fun s x => cmdHold 0x1A x.1 0x244 0xFFFF x.2 s.nextSample s))) ∧
  (∀ l, l.length ≤ 48 → (∀ x ∈ l, x.1 < 48 ∧ x.2 < 65536 ∧ txSelOk x.2 = true) → acts { pf0 := true, mirrored := true, code := 0x0623 }
    anyone (.localOutSet · l) (fun _ _ => True) (fun _ s => s.each l (fun s x =>
      s.hold 16 (locOutReg x.1).1 (locOutReg x.1).2.1 (locOutReg x.1).2.2 0xFFFF x.2))) ∧
  (∀ ws, ws ≠ [] → ws.all profOk = true → acts { pf0 := true, mirrored := true, code := 0x0502 } anyone (.meterProfileSet · ws)
    (fun _ _ => True) (fun _ s => s.each ws (fun s w => cmdHold 0x13 w.obj w.off (profMask w.off) w.val s.applyAt s))) ∧
  (∀ l, listed l 1024 (fun q => q.1 < 8192 ∧ q.2 < 2 ^ 11 ∧ fbits q.2 7 3 = 0) → acts { mirrored := true, code := 0x0503 } (metsOwn (l.map (·.1)))
    (.meterAssign · l)
    (fun _ _ => True) (fun _ s => s.each l (fun s q => cmdHold 0x13 q.1 0x044 (if q.1 < 4096 then 0x707 else 0x007) q.2 s.applyAt s))) ∧
  (∀ ms, ms ≠ [] → (∀ m ∈ ms, m < 8192) → acts {} (metsOwn ms) (.meterHoldClear · ms) (fun _ _ => True)
    (fun _ s => s.onMet (fun t => { t with clr := t.clr ++ ms })))

/-- Scene edits, the verso operations, and the scene store: edits that fit wait for the next boundary, a save is begun, a load
holds its signature, and a stored record is deleted (R241, R251, R253, R263–R265). -/
def Obligations.SceneCommandsAct : Prop :=
  (∀ l, listed l 1024 (fun w => w.i < 4096 ∧ w.o < 4096 ∧ w.code < 65536) → acts { mirrored := true, code := 0x0410 }
    (sigsOwn (l.map (fun w => sigOf w.o))) (.sceneEdit · l)
    (fun e s => s.editFits (callerOf e) ((l.filter (fun w => s.willLock s.applyAt (sigOf w.o))).length) = true)
    (fun e s => versoAdd (.edits false (l.map (fun w =>
      { fn := callerOf e, sig := sigOf w.o, node := 4096 * (w.o % 64) + w.i, code := w.code }))) s)) ∧
  (∀ i ni o no_ codes, 0 < ni → 0 < no_ → codes.length = ni * no_ → i + ni ≤ 4096 → o + no_ ≤ 4096 → ni * no_ ≤ 1024 →
    (∀ c ∈ codes, c < 65536) → acts { mirrored := true, code := 0x0411 } (sigsOwn ((blockNodes i ni o codes).map (fun w => sigOf w.o)))
      (.sceneEditBlock · i ni o no_ codes)
      (fun e s => s.editFits (callerOf e) (((blockNodes i ni o codes).filter (fun w => s.willLock s.applyAt (sigOf w.o))).length) = true)
      (fun e s => versoAdd (.edits false ((blockNodes i ni o codes).map (fun w =>
        { fn := callerOf e, sig := sigOf w.o, node := 4096 * (w.o % 64) + w.i, code := w.code }))) s)) ∧
  (∀ gs, gs ≠ [] → (∀ g ∈ gs, g < 64) → acts { mirrored := true, code := 0x0413 } (sigsOwn gs) (.sceneRevert · gs)
    (fun _ s => ∀ g ∈ gs, s.willLock s.applyAt g = false) (fun _ s => versoAdd (.revert gs) s)) ∧
  (∀ gs, gs ≠ [] → (∀ g ∈ gs, g < 64) → acts { mirrored := true, code := 0x0414 } (sigsOwn gs) (.sceneClear · gs)
    (fun _ s => ∀ g ∈ gs, s.willLock s.applyAt g = false) (fun _ s => versoAdd (.clear gs) s)) ∧
  (∀ l, listed l 8 (fun w => w.1 < 65536 ∧ w.2.1 < 64) → begins {} (sigsOwn (l.map (fun w => w.2.1))) (.sceneSave · l)
    (fun e s => s.scn.save = none ∧ l.foldl (fun a w => a + sceneKiB (s.sceneCopy (callerOf e) w)) 0 ≤ s.rd SCNE.STORE_STAT_FREE)
    (fun e s => (s.wb SCNE.STORE_STAT_BUSY true).onScn (fun c => { c with
      save := some { env := e, fn := callerOf e, what := l, copy := none } }))) ∧
  (∀ id src dst dur c, dst < 64 → acts { mirrored := true, code := 0x0419 } (sigsOwn [dst]) (.sceneLoad · id src dst dur)
    (fun e s => s.sceneFind (callerOf e) id src = some c ∧ s.bankState dst ≠ bkHELD ∧ s.willLock s.applyAt dst = false)
    (fun _ s => loadBegin dst c dur s)) ∧
  (∀ id src c, acts {} (sceneOwn id src) (.sceneDelete · id src) (fun e s => s.sceneFind (callerOf e) id src = some c)
    (fun _ s => storeFix (flashWrote (s.onFlash (fun f => { f with scenes := f.scenes.erase c })))))

/-! ## Tenants and what they own -/

/-- Tenants are created, destroyed, limited and resumed: a creation and a quota wait for a tick boundary, a destruction retires the
key and begins a reclaim, a resume begins a ramp (R509, R513, R518, R519, R536). -/
def Obligations.TenantCommandsAct : Prop :=
  (∀ t quotas mode base limit, base < 2 ^ 64 → limit < 2 ^ 64 → actsAt { crit := true, pf0 := true }
    (fun _ s => if t = 0 ∨ 7 < t ∨ s.tenant t = 1 then some stBAD_FIELD
      else if s.tenant t ≠ 0 ∨ (og s.host.creation t).isSome then some stBUSY else none)
    (.tenantCreate · t quotas mode base limit) (fun _ s => quotasOk t quotas true s = true)
    (fun _ s => if s.tim.published then 32 * s.nextTick else 0)
    (fun _ s => s.onHost (fun h => { h with creation := os h.creation t (some { quotas := quotas, flrMode := mode, base := base, limit := limit }) }))) ∧
  (∀ t, actsAt { crit := true, pf0 := true } (namesTenant t false) (.tenantDestroy · t) (fun _ _ => True) (fun _ s => s.reclaimEnd)
    (fun _ s => reclaim t (s.itemsOf t ++ [.edits]) true ((keyRetire t (fnCancel t (fnStop t s))).wr TNT.TNT_CTL_STATE 3 (i := t)))) ∧
  (∀ t quotas, acts { crit := true, pf0 := true } (namesTenant t true) (.quotaSet · t quotas) (fun _ s => quotasOk t quotas false s = true)
    (fun _ s => s.onHost (fun h => { h with quotaPend := h.quotaPend ++ quotas.map (fun q => (t, q.1, q.2)) }))) ∧
  (∀ t items, actsAt { crit := true, pf0 := true } (namesTenant t false) (.revoke · t items) (fun _ s => items.all (s.owns t) = true)
    (fun _ s => s.reclaimEnd) (fun _ s => reclaim t items false s)) ∧
  (∀ t, acts {} (fun fn s => if fn = 0 then namesTenant t true fn s else if fn = t then none else some stNOT_OWNER) (.tenantResume · t)
    (fun _ s => s.tenant t ≠ 2 ∧ og s.host.rampOut t = none ∧ og s.host.rampIn t = none ∧ s.rb TNT.TNT_STAT_SILENCED (i := t) = true)
    (fun _ s => s.onHost (fun h => { h with rampIn := os h.rampIn t (some (32 * s.nextTick)) }))) ∧
  (∀ sigs, sigs ≠ [] → actsAt {} (fun fn s => if fn = 0 ∨ sigs.any (fun g => 63 < g || s.sigOwner g != fn) then some stNOT_OWNER else none)
    (.sigReturn · sigs) (fun _ _ => True) (fun _ s => s.reclaimEnd) (fun e s => reclaim (callerOf e) (sigs.map Item.sig) false s))

/-- X-ins, signatures, host channels and delay blocks are given out: what fits the quota waits for its boundary (R209, R227, R237,
R501, R509, R512). -/
def Obligations.AssignmentsWait : Prop :=
  (∀ t x n share, 0 < n → x + n ≤ 4096 → t < 8 → acts { pf0 := true, mirrored := true, code := 0x0409 } (assignNames t)
    (.inAssign · t x n share) (fun _ s => s.mirrorActive = false ∧ s.quotaOk t qXIN (s.assignNeed t (s.xp.assign ++ [(t, x, n, share)])) = true)
    (fun _ s => s.onXp (fun q => { q with assign := s.xp.assign ++ [(t, x, n, share)] }))) ∧
  (∀ t x n share, defers { pf0 := true, mirrored := true, code := 0x0409 } (assignNames t) (.inAssign · t x n share)) ∧
  (∀ l, listed l l.length (fun x => x.1 < 4096 ∧ x.2 ≤ 16384) → (l.map (·.1)).Nodup → actsAt { mirrored := true, code := 0x0405 }
    (xoutOwn (l.map (·.1))) (.delayAlloc · l) (fun e s => (∀ x ∈ l, s.dly x.1 ≤ 64 * x.2) ∧
      (s.allocSum l).1 ≤ s.rd XPNT.POOL_FREE_BLOCKS + (s.allocSum l).2 ∧
      (callerOf e = 0 ∨ (s.allocSum l).1 ≤ (s.allocSum l).2) ∧ s.xp.alloc = none)
    (fun _ s => 32 * (s.accTick + 2))
    (fun _ s => (s.wb XPNT.POOL_STAT_ALLOC_PEND true).onXp (fun p => { p with alloc := some (s.accTick + 2, l) }))) ∧
  (∀ t sigs, sigs ≠ [] → acts { pf0 := true } (namesTenant t false) (.sigAssign · t sigs) (fun _ s => ∀ g ∈ sigs, g < 64 ∧ s.sigOwner g = 0)
    (fun _ s => s.onHost (fun h => { h with sigPend := h.sigPend ++ sigs.map (fun g => (g, t)) }))) ∧
  (∀ t cap pb, (∀ c ∈ cap, c < 512) → (∀ c ∈ pb, c < 512) → acts { pf0 := true }
    (fun fn s => if t = 0 then none else namesTenant t false fn s) (.hostchAssign · t cap pb)
    (fun _ s => s.quotaOk t qCAP (s.chNeed false t cap) = true ∧ s.quotaOk t qPB (s.chNeed true t pb) = true)
    (fun _ s => s.onHost (fun h => { h with chPend := h.chPend ++ cap.map (fun c => (false, c, t)) ++ pb.map (fun c => (true, c, t)) })))

/-- Host buffers, rings and receive filters: the lowest free buffer entry is taken with its next generation, a buffer of the
caller's that the device does not hold is released, a ring's registers are written with EN last, and a filter is stored (R490–R492,
R501, R508, R524). -/
def Obligations.HostResourcesAct : Prop :=
  (∀ addr size i, addr % 64 = 0 → addr < 2 ^ 64 → 64 ≤ size → size ≤ 4 * 2 ^ 20 → completes { pcieOnly := true } anyone
    (.bufRegister · addr size) (fun e s => s.quotaOk (callerOf e) qBUF 1 = true ∧ s.freeBuf = some i)
    (fun _ s => i + 65536 * ((ng s.host.bufGen i + 1) % 65536)) (fun _ _ => [])
    (fun e s => bufUsed (callerOf e) (useTake (callerOf e) qBUF 1
      ((bufPut i (some { owner := callerOf e, addr := addr, size := size, held := false }) s).onHost
        (fun h => { h with bufGen := ns h.bufGen i ((ng s.host.bufGen i + 1) % 65536) }))))) ∧
  (∀ handle, acts { pcieOnly := true } anyone (.bufRelease · handle) (fun e s => s.misuse (callerOf e) handle = none)
    (fun e s => bufUsed (callerOf e) (useGive (callerOf e) qBUF 1 (bufPut (handleIdx handle) none s)))) ∧
  (∀ q ws, q < 16 → cfgOk 0x21 1 ringRegs ws = true → (∀ w ∈ ws, w.off ≠ 0x100) → acts { pcieOnly := true } anyone (.ringConfig · q ws [])
    (fun _ _ => True) (fun e s => s.each ws (fun s w => ringReg (callerOf e) q w.off w.val s))) ∧
  (∀ q w, q < 16 → cfgOk 0x21 1 ringRegs [w] = true → w.off = 0x100 → acts { pcieOnly := true } anyone (.ringConfig · q [w] [])
    (fun _ _ => True) (fun e s => ringCtl (callerOf e) q w.val
      (s.writeRW HOST.RING_CTL (fput w.val 31 31 (b2n (s.rb HOST.RING_CTL_EN (rk (callerOf e) q)))) (rk (callerOf e) q)))) ∧
  (∀ f x, f < 64 → x.ring < 16 → x.ports < 16 → filterOk x = true → acts { pcieOnly := true } (filterOwn f) (.rxfilterSet · f x)
    (fun e s => s.ringKind (rk (callerOf e) x.ring) = kRX ∧ (og s.host.filters f = none → s.quotaOk (callerOf e) qFILT 1 = true))
    (fun e s => filterPut f (some ⟨callerOf e, x⟩) s)) ∧
  (∀ f < 64, acts { pcieOnly := true } (filterOwn f) (.rxfilterClear · f) (fun _ s => og s.host.filters f ≠ none)
    (fun _ s => filterPut f none s))

/-! ## Faults, security, firmware and low-speed buses -/

/-- Faults and recovery at command: the errata ring is cleared when nothing in it is unflushed, a tested signature returns, a
signature is replaced by force, and a fault is injected in TEST (R414, R417, R438, R443). -/
def Obligations.FaultCommandsAct : Prop :=
  acts { pf0 := true } anyone .errataClear (fun _ s => s.unflushed = [])
    (fun _ s => ((s.onFlt (fun f => { f with pres := [], recent := [] })).ww FALT.ERR_STAT 0).ww FALT.ERR_OVF 0) ∧
  (∀ g < 64, acts { pf0 := true } anyone (.sigRelease · g) (fun _ s => s.sigFlt g = sfPASSED)
    (fun _ s => (sigFltSet g sfRETURNING s).onFlt (fun f => { f with loadAt := s.clock }))) ∧
  (∀ g < 64, acts { pf0 := true } anyone (.tipInForce · g) (fun _ s => s.guardUsed = false ∧ s.guard ≠ gdLOADING)
    (fun _ s => condemn g s)) ∧
  (∀ g l o, g ≤ 64 → l < 32 → o < 4096 → acts { pf0 := true, modes := (· == mTEST) } anyone (.faultInject · (.residue g l o)) (fun _ _ => True)
    (fun _ s => s.onFlt (fun f => { f with inject := f.inject ++ [(g, l, o, false)] }))) ∧
  (∀ a addr, acts { pf0 := true, modes := (· == mTEST) } anyone (.faultInject · (.word a addr)) (fun _ _ => True) (fun _ s => sramFault a addr true s)) ∧
  acts { pf0 := true, modes := (· == mTEST) } anyone (.faultInject · .cpll) (fun _ _ => True) (fun _ s => cpllLoss s)

/-- Keys and debug access: a load that unwraps and a retirement join the flash work, a load that does not unwrap
 fails, a debug grant waits for its tick, and a lock
takes all parts away (R534–R537, R547, R548). -/
def Obligations.KeyCommandsAct : Prop :=
  (∀ t wrapped a, t < 16 → wrapped.length = 40 → ∀ (e : Env) (s : State),
    let o : Opc := { crit := true, prov := t == 0, slots := keySlotsFor t,
                     modes := fun m => (1 ≤ t && t ≤ 7) || m == mSAFE || (t == 0 && isProv e) }
    judged o e (fun fn _ => if fn = 0 ∨ fn = t then none else some stNOT_OWNER) s = true → e.auth = some a →
    exec (.keyLoad e t wrapped) s = match aesUnwrap (hmac256 ((accept o e s).wrapKey a) (kekText t a.counter)) wrapped with
      | some k => laterWith o (flashAdd 3 e (callerOf e) (.keyLoad t k) (accept o e s))
      | none => .next (complete e stAUTH_FAIL 0 [] true (accept o e s))) ∧
  (∀ t, 0 < t → t < 16 → begins { crit := true, pf0 := true, slots := keySlotsFor t, modes := fun m => (1 ≤ t && t ≤ 7) || m == mSAFE } anyone
    (.keyRetire · t) (fun _ _ => True) (fun e s => flashAdd 3 e (callerOf e) (.keyRetire t) s)) ∧
  (∀ parts ≤ 3, acts { crit := true, pf0 := true, slots := (· == 15), modes := fun m => m == mSAFE || m == mTEST } anyone
    (.debugUnlock · parts) (fun _ _ => True) (fun _ s => s.onCmd (fun c => { c with dbgPend := some (c.dbgPend.getD 0 ||| parts) }))) ∧
  acts { pf0 := true } anyone .debugLock (fun _ _ => True) (fun _ s => dbgSet 0 (s.onCmd (fun c => { c with dbgPend := none })))

/-- Firmware: a staging session is opened, written, closed on its image, which the checks of R543 judge, or aborted; activation
and factory erase join the flash work and hold back every later change; a trial image is confirmed (R544–R546, R549). -/
def Obligations.FirmwareCommandsAct : Prop :=
  acts { crit := true, pf0 := true } anyone .fwStageOpen (fun _ s => s.cmd.session = none ∧ s.flash.trial = false)
    (fun e s => stageSet 1 (slotErase (s.onCmd (fun c => { c with session := some { fn := callerOf e, tr := e.tr, last := s.clock } })))) ∧
  (∀ ofs data, ofs % 256 = 0 → data.length ≤ 65536 → ofs + data.length ≤ 12 * 2 ^ 20 → ∀ (e : Env) (s : State),
    judged {} e (sessionOwn (some e.tr)) s = true → exec (.fwStageWrite e ofs data) s = laterWith {} (flashAdd 7 e (callerOf e) (.stage ofs data)
      ((accept {} e s).onCmd (fun c => { c with session := c.session.map (fun x => { x with last := (accept {} e s).clock }) })))) ∧
  (∀ (e : Env) (s : State), let a := accept {} e s
    let f := imageCheck a.stagedImage a
    judged {} e (sessionOwn (some e.tr)) s = true → a.stageBusy = false →
    exec (.fwStageClose e) s = if f = 0 then okWith {} e 0 [] (stageSet 2 (versionShow
        (((a.onFlash (fun x => { x with image := os x.image a.stagingSlot (some a.stagedImage) })).wr SECU.FW_STAT_FAIL_CHECK 0).onCmd
          (fun c => { c with session := none }))))
      else laterWith {} (complete e stIMAGE_BAD f [] true (stageEnd (a.wr SECU.FW_STAT_FAIL_CHECK f)))) ∧
  acts {} (sessionOwn none) .fwStageAbort (fun _ _ => True)
    (fun _ s => stageSet 3 (slotErase (s.onCmd (fun c => { c with session := none })))) ∧
  begins { crit := true, pf0 := true, modes := (· == mSAFE) } anyone .fwActivate (fun _ s => s.rd SECU.FW_STAT_STAGE = 2)
    (fun e s => flashAdd 4 e (callerOf e) .activate ((s.wb SECU.SEC_STAT_ACT_PEND true).onCmd (fun c => { c with restartPend := true }))) ∧
  (∀ g, acts { pf0 := true } anyone .fwConfirm (fun _ s => s.flash.trial = true ∧
      og s.flash.image ((bootShow (s.onFlash (fun f => { f with trial := false }))).rd SECU.FW_STAT_ACTIVE_SLOT) = some g)
    (fun _ s => otpShow ((bootShow (s.onFlash (fun f => { f with trial := false }))).onFlash (fun f => { f with
      svnFloor := if bit (imgFlags g) 0 && decide (s.flash.svnFloor < imgSvn g) then imgSvn g else f.svnFloor,
      revoked := f.revoked ||| (fbits (imgFlags g) 7 4 - (fbits (imgFlags g) 7 4 &&& 2 ^ imgKey g)) })))) ∧
  begins { crit := true, pf0 := true, slots := (· == 0), modes := (· == mSAFE) } anyone .factoryErase (fun _ _ => True)
    (fun e s => flashAdd 6 e (callerOf e) .erase (((s.wb SECU.SEC_STAT_ERASE_PEND true).onCmd (fun c => { c with restartPend := true })).onFlash
      (fun f => { f with erasePend := true })))

/-- Modes, saved settings, transmit gates and snapshots: a mode requested waits two ticks with MODE_CHG raised, a configuration is
saved as it stands, a gate list waits for its cycle, and a disabled snapshot set takes its registers (R120, R285, R451, R452, R588). -/
def Obligations.ModeAndSaveCommandsAct : Prop :=
  (∀ target, target < 16 → ∀ (e : Env) (s : State),
    let o : Opc := { crit := target == mSAFE || target == mTEST || target == mSTANDBY, block := true, pf0 := true, code := 0x0102 }
    let a := accept o e s
    let n := if a.tim.published && !atOnce a.mode then 32 * (a.accTick + 2) else 0
    judged o e anyone s = true → fits a e 2 = true → modeDenied target a = false → a.md.req = none →
    (target = mSTANDBY → a.flashSaving = false) → exec (.modeSet e target) s = okWith o e (n % 2 ^ 32) [n % 2 ^ 32, n / 2 ^ 32]
      (mirrorNote 0x0102 ((((a.wb MODE.STATE_PEND_VALID true).wr MODE.STATE_PEND target).raise 0x00 1 fnsAll).onMd
        (fun m => { m with req := some (target, a.accTick + 2),
                           fadeAt := if target = mSAFE ∧ carries a.mode then some (32 * (a.accTick + 1)) else m.fadeAt })))) ∧
  (∀ scenes, scenes.length ≤ 64 → (∀ x ∈ scenes, x.1 < 64 ∧ x.2 < 65536) → begins { pf0 := true } anyone (.configSave · scenes)
    (fun _ _ => True) (fun e s => flashAdd 6 e (callerOf e) (.config s.configWords scenes) s)) ∧
  (∀ port cycle phase l, port < 4 → 0 < cycle → cycle ≤ 384 → phase < cycle → l.length ≤ 16 → (∀ x ∈ l, x.1 < 256 ∧ x.2 < 2 ^ 20) →
    actsAt { pf0 := true } anyone (.gclLoad · port cycle phase l) (fun _ s => s.rb NETP.GCL_STAT_SWAP_PEND (i := port) = false)
      (fun _ s => s.swapAt port) (fun _ s => gclRequest port
        (((s.wr NETP.GCL_CTL_CYCLE cycle (i := port)).wr NETP.GCL_CTL_PHASE phase (i := port)).each (List.range 16) (fun s i =>
          (s.wr NETP.GCL_PEND_MASK (l.getD i (0xFF, 0)).1 i (i := port)).wr NETP.GCL_PEND_INTERVAL (l.getD i (0xFF, 0)).2 i (i := port))))) ∧
  (∀ set ws, set < 16 → ws ≠ [] → snapWsOk set ws = true → (∀ w ∈ ws, w.off ≠ 0x300) → acts {} (setOwnRow set) (.snapConfig · set ws)
    (fun _ s => s.rb METR.SNAP_CTL_EN set = false) (fun _ s => snapPut set ws s)) ∧
  (∀ n, n ≤ 16 → ∀ (e : Env) (s : State), let a := accept {} e s
    judged {} e anyone s = true → fits a e (4 * min n a.tim.evt.length) = true →
    exec (.evtRead e n) s = okWith {} e (min n a.tim.evt.length)
      ((a.tim.evt.take (min n a.tim.evt.length)).flatMap (fun x => [x.w0, x.w1, x.w2, x.w3])) (evtDrop (min n a.tim.evt.length) a))

/-- Buses and links at command: a transfer, a bus check and bytes to send are queued, a link is retrained, a hierarchy is joined, a
message is tunnelled, and a mirror standby takes over (R363, R383, R388, R397, R572–R574, R580). -/
def Obligations.BusCommandsAct : Prop :=
  (∀ i segs, i < 3 → segsOk segs = true → begins { pf0 := true } anyone (.i2cXfer · i segs)
    (fun e s => 4 * cdiv (bytesRead segs) 4 ≤ s.respLimit e ∧ (i < 2 → s.rb NETP.QSFP_CTL_AUTO (i := 2 * i) = false ∧ s.rb NETP.QSFP_CTL_AUTO (i := 2 * i + 1) = false) ∧
      s.icState i ≠ icISOLATED ∧ s.icState i ≠ icOFF)
    (fun e s => icSet i icBUSY (xferSet i (s.xfersOf i ++ [⟨e, segs⟩]) s))) ∧
  (∀ i segs, i < 3 → segsOk segs = true → completes { pf0 := true } anyone (.i2cXfer · i segs)
    (fun e s => 4 * cdiv (bytesRead segs) 4 ≤ s.respLimit e ∧ (i < 2 → s.rb NETP.QSFP_CTL_AUTO (i := 2 * i) = false ∧ s.rb NETP.QSFP_CTL_AUTO (i := 2 * i + 1) = false) ∧
      s.icState i = icISOLATED) (fun _ _ => 4) (fun _ _ => []) (fun _ s => s)) ∧
  (∀ i < 4, begins { pf0 := true } anyone (.i2cBusClear · i) (fun _ s => s.rb LSIO.I2C_CTL_EN i = true ∧ s.icState i ≠ icOFF)
    (fun e s => icCheck i (s.onLs (fun x => { x with checkFor := tset (fun _ => []) x.checkFor i (s.checksOf i ++ [e]) })))) ∧
  (∀ u data, u < 2 → data ≠ [] → data.length ≤ 1024 → begins { pf0 := true } anyone (.uartWrite · u data)
    (fun _ s => u = 0 → s.rb LSIO.UART_CTL_CONSOLE 0 = false)
    (fun e s => uartPump u (s.onLs (fun x => { x with wrQ := tset (fun _ => []) x.wrQ u (tget (fun _ => []) s.ls.wrQ u ++ [(e, data)]) })))) ∧
  (∀ l < 6, acts { pf0 := true } anyone (.ulinkRetrain · l) (fun _ _ => True)
    (fun _ s => linkCtl l (s.rw ULNK.LINK_CTL (i := l) ||| 2 ^ 30) s)) ∧
  (∀ p, hierOk p = true → acts { pf0 := true, crit := true } anyone (.hierJoin · p) (fun _ _ => True)
    (fun _ s => flashWrote ((s.onUma (fun u => { u with join := some p })).onFlash (fun f => { f with hier := some p })))) ∧
  (∀ dst bytes, dst < 16 → 16 ≤ bytes.length → bytes.length ≤ 61436 → begins { pf0 := true, noTunnel := true } anyone
    (.umarunTunnel · dst bytes) (fun _ _ => True) (fun e s => (mgmtTo dst 0x0002 bytes s).onUma (fun u => { u with
      tunnels := u.tunnels ++ [{ msg := (mgmtTo dst 0x0002 bytes s).uma.msgId, env := e, since := (mgmtTo dst 0x0002 bytes s).clock }] }))) ∧
  acts { pf0 := true, crit := true, modes := (· == mMIRROR) } anyone .mirrorTakeover (fun _ _ => True)
    (fun _ s => s.onUma (fun u => { u with takeover := true }))

/-! ## Register rows -/

/-- The collator's and the time bases' registers: a SET_GO by PF0 waits for its boundary or is denied, a FREE slot that passes every
check is armed, an ARMED one is cancelled by its owner, reading a slot's status frees a finished one, a snapshot is taken, and the
oldest captured event leaves its FIFO (R50, R56–R59, R68, R71, R91). -/
def Obligations.TimeRegistersAct : Prop :=
  (∀ fn w, isPF0 fn = true → happens (.setGo fn 2 w) (fun s => setOk (s.rd64 TIME.SET_SEC_HI TIME.SET_SEC_LO (i := 2))
        (s.rw TIME.SET_NS (i := 2)) = true ∧ s.rd REFS.STAT_STATE = 0)
    (fun s => s.onTim (fun t => { t with setPend := os t.setPend 2 (some
      (timeGrid (s.rd64 TIME.SET_SEC_HI TIME.SET_SEC_LO (i := 2)) (s.rw TIME.SET_NS (i := 2)))) }))) ∧
  (∀ fn w, isPF0 fn = true → happens (.setGo fn 3 w) (fun s => setOk ((followWrite 3 w s).rd64 TIME.SET_SEC_HI TIME.SET_SEC_LO (i := 3))
        ((followWrite 3 w s).rw TIME.SET_NS (i := 3)) = true)
    (fun s => (followWrite 3 w s).onTim (fun t => { t with setPend := os t.setPend 3 (some
      (timeGrid ((followWrite 3 w s).rd64 TIME.SET_SEC_HI TIME.SET_SEC_LO (i := 3)) ((followWrite 3 w s).rw TIME.SET_NS (i := 3)))) }))) ∧
  (∀ fn tb w, isPF0 fn = true → tb < 2 → happens (.setGo fn tb w) (fun _ => True)
    (fun s => s.wb TIME.TB_STAT_SET_DENY true (i := tb))) ∧
  (∀ fn slot w, slot < 64 → happens (.slotArm fn slot w) (fun s => s.slotState slot = slFREE ∧ armRefusal (actsAs fn) slot
      (((s.wr COLL.SLOT_CTL_ACTION (fbits w 3 0) slot).wr COLL.SLOT_CTL_TBSEL (fbits w 6 4) slot).wr COLL.SLOT_CTL_LATE (fbits w 7 7) slot) = none)
    (fun s => actNoted 0x08 s (armSlot (actsAs fn) slot
      (((s.wr COLL.SLOT_CTL_ACTION (fbits w 3 0) slot).wr COLL.SLOT_CTL_TBSEL (fbits w 6 4) slot).wr COLL.SLOT_CTL_LATE (fbits w 7 7) slot)))) ∧
  (∀ fn slot w, slot < 64 → happens (.slotCancel fn slot w) (fun s => s.slotState slot = slARMED ∧ s.mirrorActive = false ∧
      may (actsAs fn) (s.rd COLL.SLOT_CTL_OWNER slot) = true ∧ fbits w 7 0 = fbits (s.rw COLL.SLOT_CTL slot) 7 0)
    (fun s => actNoted 0x08 s (armedFix (s.wr COLL.SLOT_STAT_STATE slCANCELLED slot)))) ∧
  (∀ fn slot w, slot < 64 → happens (.slotCancel fn slot w) (fun s => s.slotState slot ≠ slFREE ∧ s.mirrorActive = false ∧
      may (actsAs fn) (s.rd COLL.SLOT_CTL_OWNER slot) = false ∧ fbits w 7 0 = fbits (s.rw COLL.SLOT_CTL slot) 7 0)
    (fun s => actNoted 0x08 s (s.wb COLL.COLL_STAT_CANCEL_DENY true))) ∧
  (∀ fn slot w, happens (.slotCancel fn slot w) (fun s => s.mirrorActive = true)
    (fun s => actNoted 0x08 s (mirrorLater (.cancel fn slot w) s))) ∧
  (∀ fn slot, slot < 64 → happens (.slotStatRead fn slot) (fun s =>
      (s.slotState slot = slDONE ∨ s.slotState slot = slMISSED ∨ s.slotState slot = slCANCELLED) ∧
      s.rd COLL.SLOT_CTL_OWNER slot = actsAs fn) (fun s => s.ww COLL.SLOT_STAT slFREE slot)) ∧
  (∀ fn, fn ≤ 8 → happens (.entry3Read fn) (fun _ => True) (fun s => evtSync (s.onTim (fun t => { t with evt := t.evt.drop 1 })))) ∧
  (∀ fn off, fn ≤ 8 → happens (.snapshotReq fn off) (fun _ => True) (snapshot off)) ∧
  (∀ fn w, isPF0 fn = true → happens (.alignCmd fn w) (fun _ => True) (fun s => s.onRef (fun r => { r with alignPend := r.alignPend ||| (w % 4096 &&& 0xFF7) })))

/-- The clock registers, gates, QSFP modules and rate-conversion groups: PF0's writes act, a write of a page for PF0 by a tenant
does nothing (R96, R99, R104, R120, R137, R185, R195, R323, R340, R341, R568). -/
def Obligations.ClockRegistersAct : Prop :=
  (∀ fn w, isPF0 fn = true → happens (.cpllSwap fn w) (fun s => (s.writeRW CLKG.CPLL_CTL w).cpllLock (1 - (s.writeRW CLKG.CPLL_CTL w).rd CLKG.CPLL_STAT_ACTIVE) = true)
    (fun s => (s.writeRW CLKG.CPLL_CTL w).wr CLKG.CPLL_STAT_ACTIVE (1 - (s.writeRW CLKG.CPLL_CTL w).rd CLKG.CPLL_STAT_ACTIVE))) ∧
  (∀ fn w, isPF0 fn = true → happens (.mpllPstepWrite fn w) (fun s => s.rb CLKG.MPLL_STAT_PSTEP_BUSY = false)
    (fun s => (s.wb CLKG.MPLL_STAT_PSTEP_BUSY true).onRef (fun r => { r with pstep := sgn 16 (w % 2 ^ 16) }))) ∧
  (∀ fn w, isPF0 fn = true → happens (.sscModeWrite fn w) (fun s => (s.mode = mCONFIG ∨ s.mode = mTEST) ∧ w % 4 ≠ 3 ∧ w % 4 ≠ s.rd CLKG.SSC_CTL_MODE)
    (fun s => (s.wr CLKG.SSC_CTL_MODE (w % 4)).wb CLKG.SSC_STAT_BUSY true)) ∧
  (∀ fn port w, isPF0 fn = true → port < 4 → happens (.gclSwap fn port w) (fun _ => True)
    (fun s => gclRequest port ((gclCtlWrite port w s).hold fn (0x0A + port) 0 0x080 (2 ^ 31) w))) ∧
  (∀ fn port w off, isPF0 fn = true → port < 4 → happens (.qsfpReset fn port w off) (fun _ => True)
    (fun s => (s.writeRW NETP.QSFP_CTL w (i := port)).onNet (fun n => { n with rstUntil := ns n.rstUntil port (s.clockGrid off + 120000) }))) ∧
  (∀ fn w g, 3 ≤ g → happens (.relock fn w) (fun s => s.rd SRCB.GRP_SEL_GROUP fn = g ∧ may (actsAs fn) (s.grpOwner g) = true)
    (fun s => (s.writeRW SRCB.GRP_CFG w g).onSrc (fun c => { c with relockPend := c.relockPend ++ [g] }))) ∧
  (∀ fn w, isPF0 fn = true → happens (.i2sBindWrite fn w) (fun s => bindOk w s = true)
    (fun s => actNoted 0x10 s (s.putMirrored 0x10 0 0x104 0xF w))) ∧
  (∀ fn w, isPF0 fn = true → happens (.i2sBindWrite fn w) (fun s => bindOk w s = false)
    (fun s => actNoted 0x10 s (s.wb SRCB.GLOBAL_STAT_BIND_IGN true))) ∧
  (∀ fn g w, isPF0 fn = true → g < 4 → bit w 31 = true → happens (.grpStart fn g w) (fun _ => True)
    (fun s => s.onLoc (fun l => { l with grpStart := bs l.grpStart g true }))) ∧
  (∀ fn o w, isPF0 fn = true → o < 2 → happens (.clockOutEnable fn o w) (fun _ => True) (fun s => s.writeWord fn 0x19 0 (0x050 + 4 * o) .base w)) ∧
  (∀ fn i w, isPF0 fn = true → i < 4 → happens (.mclkChange fn i w) (fun _ => True) (fun s => s.writeWord fn 0x19 i 0x060 .base w)) ∧
  (∀ fn w, isPF0 fn = false → happens (.cpllSwap fn w) (fun _ => True) id ∧ happens (.mpllPstepWrite fn w) (fun _ => True) id ∧
    happens (.sscModeWrite fn w) (fun _ => True) id ∧ happens (.i2sBindWrite fn w) (fun _ => True) id ∧
    happens (.alignCmd fn w) (fun _ => True) id)

/-- Stream entries by registers: a commit waits for the next tick, a load copies the caller's stored entry into the staging
registers or reports NOT_OWNER, and the caller's oldest event leaves the FIFO (R171, R172, R174, R311). -/
def Obligations.StreamRegistersAct : Prop :=
  (∀ fn w, bit w 31 = true → happens (.rxCommit fn w) (fun s => s.rb STRX.ENTRY_CMD_BUSY = false)
    (fun s => actNoted 0x0E s ((s.wb STRX.ENTRY_CMD_BUSY true).onRx (fun r =>
      { r with commit := some (actsAs fn * 1024 + s.rd STRX.SEL_STREAM fn, s.accTick + if s.mirrorActive then 2 else 1) })))) ∧
  (∀ fn w i, bit w 30 = true → happens (.rxLoad fn w) (fun s => s.rd STRX.SEL_STREAM fn = i ∧ s.rb STRX.ENTRY_CMD_BUSY = false ∧
      may (actsAs fn) (s.rxOwner i) = true) (fun s => (entryCopy 0x0E rxEntry i stagObj s).wr STRX.ENTRY_CMD_RESULT stOK)) ∧
  (∀ fn w i, bit w 30 = true → happens (.rxLoad fn w) (fun s => s.rd STRX.SEL_STREAM fn = i ∧ s.rb STRX.ENTRY_CMD_BUSY = false ∧
      may (actsAs fn) (s.rxOwner i) = false) (fun s => s.wr STRX.ENTRY_CMD_RESULT stNOT_OWNER)) ∧
  (∀ fn w, bit w 31 = true → happens (.txCommit fn w) (fun s => s.rb STTX.ENTRY_CMD_BUSY = false)
    (fun s => actNoted 0x0F s ((s.wb STTX.ENTRY_CMD_BUSY true).onTx (fun r =>
      { r with commit := some (actsAs fn * 1024 + s.rd STTX.SEL_STREAM fn, s.accTick + if s.mirrorActive then 2 else 1) })))) ∧
  (∀ fn w i, bit w 30 = true → happens (.txLoad fn w) (fun s => s.rd STTX.SEL_STREAM fn = i ∧ s.rb STTX.ENTRY_CMD_BUSY = false ∧
      may (actsAs fn) (s.txOwner i) = true) (fun s => (entryCopy 0x0F txEntry i stagObj s).wr STTX.ENTRY_CMD_RESULT stOK)) ∧
  (∀ fn e, happens (.evtFifoRead fn) (fun s => s.rx.evt.find? (fun e => actsAs fn == 0 || s.rxOwner e.2.2 == actsAs fn) = some e)
    (fun s =>
      (s.onRx (fun r => { r with evt := r.evt.erase e, evtOut := ns r.evtOut fn (2 ^ 31 + e.1 * 2 ^ 24 + e.2.1 * 2 ^ 16 + e.2.2) })).wr
        STRX.EVT_STAT_LEVEL (s.rx.evt.erase e).length))

/-- Turns and verso by registers and by the window: a request for now waits for its sample, a descriptor is defined or released by
who may, the verso operations wait for a boundary or set REFUSED, and window bytes become node edits (R240, R244, R245, R251,
R253). -/
def Obligations.SceneRegistersAct : Prop :=
  (∀ fn w td, bit w 31 = true → happens (.now fn w) (fun s => s.rd SCNE.TD_SEL_TD fn = td ∧ s.mirrorStandby = false ∧
      (s.tdDefined td = true → may (actsAs fn) (s.tdOwner td) = true) ∧ atOnce (tdWrite fn 0x044 w s).mode = false)
    (fun s => actNoted 0x12 s ((tdWrite fn 0x044 w s).onScn (fun c =>
      { c with now := c.now ++ [(td, (tdWrite fn 0x044 w s).nowIndex)] })))) ∧
  (∀ fn w td, bit w 31 = true → happens (.now fn w) (fun s => s.rd SCNE.TD_SEL_TD fn = td ∧ s.mirrorStandby = false ∧
      (s.tdDefined td = true → may (actsAs fn) (s.tdOwner td) = true) ∧ atOnce (tdWrite fn 0x044 w s).mode = true)
    (fun s => actNoted 0x12 s (nowAtOnce td (tdWrite fn 0x044 w s)))) ∧
  (∀ fn w td, bit w 31 = true → happens (.define fn w) (fun s => s.rd SCNE.TD_SEL_TD fn = td ∧ s.mirrorStandby = false ∧
      s.mirrorActive = false ∧ s.tdMay (actsAs fn) td = true ∧ s.scopeMay (actsAs fn) (s.tdMask td) = true)
    (fun s => actNoted 0x12 s ((s.wb SCNE.TD_STAT_DEFINED true td).wr SCNE.TD_STAT_OWNER (actsAs fn) td))) ∧
  (∀ fn w td, bit w 30 = true → happens (.release fn w) (fun s => s.rd SCNE.TD_SEL_TD fn = td ∧ s.mirrorStandby = false ∧
      s.mirrorActive = false ∧ s.tdDefined td = true ∧ s.tdMay (actsAs fn) td = true)
    (fun s => actNoted 0x12 s ((s.wb SCNE.TD_STAT_DEFINED false td).wr SCNE.TD_STAT_OWNER 0 td))) ∧
  (∀ fn w td, bit w 31 = true → happens (.define fn w) (fun s => s.rd SCNE.TD_SEL_TD fn = td ∧ s.mirrorStandby = false ∧
      s.mirrorActive = true) (fun s => actNoted 0x12 s (mirrorLater (.define (actsAs fn) td) s))) ∧
  (∀ fn w td, bit w 30 = true → happens (.release fn w) (fun s => s.rd SCNE.TD_SEL_TD fn = td ∧ s.mirrorStandby = false ∧
      s.tdDefined td = true ∧ s.mirrorActive = true) (fun s => actNoted 0x12 s (mirrorLater (.release (actsAs fn) td) s))) ∧
  (∀ fn sig w, sig < 64 → bit w 1 = true → happens (.versoClear fn sig w) (fun s => s.mirrorStandby = false ∧
      may (actsAs fn) (s.sigOwner sig) = true ∧ s.willLock s.applyAt sig = false)
    (fun s => actNoted (0x40 + sig) s (versoAdd (.clear [sig]) s))) ∧
  (∀ fn sig w, sig < 64 → bit w 0 = true → happens (.versoRevert fn sig w) (fun s => s.mirrorStandby = false ∧
      may (actsAs fn) (s.sigOwner sig) = true ∧ s.willLock s.applyAt sig = false)
    (fun s => actNoted (0x40 + sig) s (versoAdd (.revert [sig]) s))) ∧
  (∀ fn sig w, sig < 64 → happens (.versoClear fn sig w) (fun s => bit w 1 = true ∧ s.mirrorStandby = false ∧
      may (actsAs fn) (s.sigOwner sig) = true ∧ s.willLock s.applyAt sig = true)
    (fun s => actNoted (0x40 + sig) s (s.wb SIG.VERSO_STAT_REFUSED true (i := sig)))) ∧
  (∀ fn sig w, sig < 64 → happens (.versoRevert fn sig w) (fun s => bit w 0 = true ∧ s.mirrorStandby = false ∧
      may (actsAs fn) (s.sigOwner sig) = true ∧ s.willLock s.applyAt sig = true)
    (fun s => actNoted (0x40 + sig) s (s.wb SIG.VERSO_STAT_REFUSED true (i := sig)))) ∧
  (∀ fn ofs bytes es, bytes.length ≤ 256 → es ≠ [] → happens (.versoWindowWrite fn ofs bytes) (fun s => s.mirrorStandby = false ∧
      es = ((windowNodes (actsAs fn) ofs bytes).take 128).filter (fun e => decide (e.sig < 64) && may (actsAs fn) (s.sigOwner e.sig)) ∧
      s.editFits (actsAs fn) (es.filter (fun e => s.willLock s.applyAt e.sig)).length = true)
    (fun s => actNoted (0x40 + ofs / 0x80000) s (versoAdd (.edits true es) s)))

/-- Meters and snapshots by registers: enabling a set that is good, clearing holds, and latching a meter's words for the reader
(R282, R285, R288). -/
def Obligations.MeterRegistersAct : Prop :=
  (∀ fn set w, set < 16 → bit w 31 = true → happens (.snapCtlWrite fn set w) (fun s => s.setMay (actsAs fn) set = true ∧
      s.rb METR.SNAP_CTL_EN set = false ∧ s.snapBad set = false) (fun s => snapOn (actsAs fn) set (ctlFields set w s))) ∧
  (∀ fn set w, set < 16 → bit w 31 = true → happens (.snapCtlWrite fn set w) (fun s => s.setMay (actsAs fn) set = true ∧
      s.rb METR.SNAP_CTL_EN set = false ∧ s.snapBad set = true) (fun s => s.wb METR.SNAP_STAT_CFG_ERR true set)) ∧
  (∀ fn w m, bit w 31 = true → happens (.clrHold fn w) (fun s => s.rd METR.MTR_IDX_METER fn = m ∧ may (actsAs fn) (s.metOwner m) = true)
    (fun s => (mtrCfgWrite fn w s).onMet (fun t => { t with clr := t.clr ++ [m] }))) ∧
  (∀ fn w, bit w 0 = true → happens (.holdClrAll fn w) (fun _ => True) (fun s => s.onMet (fun t => { t with clrAll := t.clrAll ++ [actsAs fn] }))) ∧
  (∀ fn m a b c d h l, happens (.mtrVal0Read fn) (fun s => s.rd METR.MTR_IDX_METER fn = m ∧ metWords (actsAs fn) s m = [a, b, c, d, h, l])
    (fun s => (((((s.ww METR.MTR_VAL0 a fn).ww METR.MTR_VAL1 b fn).ww METR.MTR_FLAGS c fn).ww METR.MTR_GEN d fn).ww
      METR.MTR_TICK_HI h fn).ww METR.MTR_TICK_LO l fn))

/-- Local ports, links and I²C controllers by registers, for PF0 (R323, R324, R331, R336, R354, R574, R575). -/
def Obligations.PortRegistersAct : Prop :=
  (∀ fn p w, isPF0 fn = true → p < 16 → happens (.restart fn p w) (fun _ => True) (i2sCtlWrite p (fput w 27 27 1))) ∧
  (∀ fn p w, isPF0 fn = true → p < 16 → happens (.i2sPortEnable fn p w) (fun _ => True) (i2sCtlWrite p (fput w 31 31 1))) ∧
  (∀ fn p w, isPF0 fn = true → p < 16 → happens (.i2sPortDisable fn p w) (fun _ => True) (i2sCtlWrite p (fput w 31 31 0))) ∧
  (∀ fn r w, isPF0 fn = true → r < 8 → happens (.aesRxEnable fn r w) (fun _ => True) (fun s => s.ww AESP.RX_CTL (w &&& 0xE0000000) r)) ∧
  (∀ fn t w, isPF0 fn = true → t < 8 → happens (.aesTxEnable fn t w) (fun _ => True) (atCtlWrite t w)) ∧
  (∀ fn t w, isPF0 fn = true → t < 8 → happens (.txStart fn t w) (fun _ => True) (atCtlWrite t (fput w 28 28 1))) ∧
  (∀ fn t w, isPF0 fn = true → t < 8 → happens (.txStop fn t w) (fun _ => True) (atCtlWrite t (fput w 27 27 1))) ∧
  (∀ fn l w, isPF0 fn = true → l < 6 → happens (.linkEnable fn l w) (fun _ => True) (linkCtl l w)) ∧
  (∀ fn l w, isPF0 fn = true → l < 6 → happens (.retrain fn l w) (fun _ => True) (linkCtl l w)) ∧
  (∀ fn i w, isPF0 fn = true → i < 4 → happens (.busClear fn i w) (fun _ => True) (icCtl i w)) ∧
  (∀ fn i w, isPF0 fn = true → i < 4 → happens (.i2cEnable fn i w) (fun _ => True) (icCtl i w)) ∧
  (∀ t w s, bit (s.rw AESP.TX_CTL t) 31 = false → fbits w 2 0 ≤ 5 → bit w 28 = false → bit w 27 = false →
    atCtlWrite t w s = s.ww AESP.TX_CTL (fput (w &&& 0xE0000000) 2 0 (fbits w 2 0)) t)

/-- Faults and rings by registers: an acknowledged critical record, the watchdog's kick, a restart of the management processor that
PF0 asks for, the selected record latched for its reader, ring indices within the ring, a ring enabled, and a mask word held for its
block (R422, R424, R431, R440, R486, R497, R498, R500, R501). -/
def Obligations.RingAndFaultRegistersAct : Prop :=
  (∀ fn w, isPF0 fn = true → bit w 0 = true → happens (.faultAck fn w) (fun _ => True) (fun s => faultPin ((s.writeRW FALT.FALT_CTL w).wb FALT.FALT_STAT_CRIT_PEND false))) ∧
  (∀ fn w, isPF0 fn = true → bit w 31 = true → happens (.kick fn w) (fun _ => True)
    (fun s => (s.writeRW FALT.WDT_CTL w).onFlt (fun f => { f with kickAt := (s.writeRW FALT.WDT_CTL w).clock }))) ∧
  (∀ fn w, isPF0 fn = true → bit w 31 = true → happens (.mgmtRestart fn w) (fun s => s.rb FALT.MGMT_STAT_HALT = false) (mgmtRestart 4)) ∧
  (∀ fn r, isPF0 fn = true → happens (.errRec0Read fn) (fun s => s.ring[s.rd FALT.ERR_SEL_POS fn]? = some r)
    (fun s => s.each ((List.range 8).zip (recWords r)) (fun s x => s.pw 0x20 fn (0x084 + 4 * x.1) x.2))) ∧
  (∀ fn r v, r < 8 → happens (.sqTail fn r v) (fun s => s.rings fn = true ∧ s.rd CMDQ.CQ_STAT_STATE (rk fn r) = 1 ∧
      v % 4096 < ringSize (s.rd CMDQ.SIZES_SQ_SIZE (rk fn r))) (fun s => s.onHost (fun h => { h with sqTail := ns h.sqTail (rk fn r) (v % 4096) }))) ∧
  (∀ fn r v, r < 8 → happens (.sqTail fn r v) (fun s => s.rings fn = true ∧ s.rd CMDQ.CQ_STAT_STATE (rk fn r) = 1 ∧
      ringSize (s.rd CMDQ.SIZES_SQ_SIZE (rk fn r)) ≤ v % 4096)
    (fun s => (s.wr CMDQ.CQ_STAT_STATE 2 (rk fn r)).wr CMDQ.CQ_STAT_ERR_CAUSE 1 (rk fn r))) ∧
  (∀ fn r v, r < 8 → happens (.cqHead fn r v) (fun s => s.rings fn = true ∧ s.rd CMDQ.CQ_STAT_STATE (rk fn r) = 1 ∧
      v % 4096 < ringSize (s.rd CMDQ.SIZES_CQ_SIZE (rk fn r))) (fun s => s.onHost (fun h => { h with cqHead := ns h.cqHead (rk fn r) (v % 4096) }))) ∧
  (∀ fn q v, fn < 8 → q < 16 → happens (.dmaTail fn q v) (fun s => s.rb HOST.RING_CTL_EN (rk fn q) = true ∧ v % 65536 < s.rd HOST.SIZE_N (rk fn q))
    (fun s => s.onHost (fun h => { h with dmaTail := ns h.dmaTail (rk fn q) (v % 65536) }))) ∧
  (∀ fn r w, fn < 8 → r < 8 → happens (.cqEnable fn r w) (fun s => (s.writeRW CMDQ.CQ_CTL w (rk fn r)).rb CMDQ.CQ_CTL_EN (rk fn r) = false)
    (fun s => (cqGone fn r (s.writeRW CMDQ.CQ_CTL w (rk fn r))).ww CMDQ.CQ_STAT 0 (rk fn r))) ∧
  (∀ fn r w, fn < 8 → r < 8 → happens (.cqEnable fn r w) (fun s => s.rb CMDQ.CQ_CTL_EN (rk fn r) = false ∧
      (s.writeRW CMDQ.CQ_CTL w (rk fn r)).rb CMDQ.CQ_CTL_EN (rk fn r) = true)
    (fun s => let k := rk fn r
      (((((cqGone fn r (s.writeRW CMDQ.CQ_CTL w k)).ww CMDQ.CQ_STAT 0 k).wr CMDQ.CQ_STAT_STATE 1 k).wr CMDQ.SQ_HEAD_IDX 0 k).wr
        CMDQ.CQ_TAIL_IDX 0 k).onHost (fun h => { h with
          sqTail := ns h.sqTail k 0, cqHead := ns h.cqHead k 0, coal := ns h.coal k 0, phase0 := bs h.phase0 k false,
          bmOff := bs h.bmOff fn false }))) ∧
  (∀ fn q w, fn < 8 → q < 16 → happens (.ringEnable fn q w) (fun s => s.ringState (rk fn q) = rsOFF ∧ bg s.host.startPend (rk fn q) = false ∧
      (s.writeRW HOST.RING_CTL w (rk fn q)).rb HOST.RING_CTL_EN (rk fn q) = true ∧
      (s.writeRW HOST.RING_CTL w (rk fn q)).ringState (rk fn q) = rsOFF ∧ bg (s.writeRW HOST.RING_CTL w (rk fn q)).host.startPend (rk fn q) = false)
    (fun s => blockFix fn q (ringOn fn q (s.writeRW HOST.RING_CTL w (rk fn q))))) ∧
  (∀ fn q g hi v, fn < 8 → q < 16 → g < 8 → happens (.maskWrite fn q g hi v) (fun s => s.maskRefusal fn q g hi v = none) (maskHold fn fn q g hi v)) ∧
  (∀ fn q g hi v, fn < 8 → q < 16 → g < 8 → happens (.maskWrite fn q g hi v) (fun s => s.maskRefusal fn q g hi v ≠ none)
    (fun s => s.wb HOST.RING_STAT_MASK_DENY true (rk fn q)))

/-- Register access over PCIe. On the pages that need no more than the register file (PWR, SYNC), a whole word written to
the base view is written by each field's access, and an alias view writes the RW fields alone; so it is on MODE and EVTC, where a word written to the
base view may show a condition of the mode or reach the level of the FIFO. A word with a byte enable clear is ignored and flagged. Of the page header: GO releases what the caller holds on the page, INT_STAT clears what is written as 1,
INT_FORCE raises. CLEAR and CLEAR_ALL wait for the next tick boundary (R554, R556, R560, R563). -/
def Obligations.RegistersAreWritten : Prop :=
  (∀ fn g bar w pg p i r, pg = barPage bar → pg ∈ [0x01, 0x19] → regPlace pg (bar % 0x1000) = (p, i) → accRow pg p = some r →
    bar % 4 = 0 → barView bar = .base → 0x040 ≤ p → isPF0 fn = true → fn ≤ 8 →
    occurs (.registerWrite fn g bar w 15) (fun s => s.served pg = true) (fun s => s.writeWord fn pg i p .base (w % 2 ^ 32))) ∧
  (∀ fn g bar w pg p i r, pg = barPage bar → pg ∈ [0x01, 0x19] → regPlace pg (bar % 0x1000) = (p, i) → accRow pg p = some r →
    bar % 4 = 0 → barView bar ≠ .base → hasRW r.flds = true → 0x040 ≤ p → isPF0 fn = true → fn ≤ 8 →
    occurs (.registerWrite fn g bar w 15) (fun s => s.served pg = true)
      (fun s => s.writeRW ⟨pg, p⟩ (aliasWord r.flds (barView bar) (s.gw pg i p) w) i)) ∧
  (∀ fn g bar w p i r, barPage bar = 0x00 → regPlace 0x00 (bar % 0x1000) = (p, i) → accRow 0x00 p = some r →
    bar % 4 = 0 → barView bar = .base → 0x040 ≤ p → isPF0 fn = true → fn ≤ 8 → i = 0 →
    occurs (.registerWrite fn g bar w 15) (fun s => s.served 0x00 = true) (fun s => condNote (s.writeWord fn 0x00 0 p .base (w % 2 ^ 32)))) ∧
  (∀ fn g bar w p i r, barPage bar = 0x09 → regPlace 0x09 (bar % 0x1000) = (p, i) → accRow 0x09 p = some r →
    bar % 4 = 0 → barView bar = .base → 0x040 ≤ p → isPF0 fn = true → fn ≤ 8 → i = 0 →
    occurs (.registerWrite fn g bar w 15) (fun s => s.served 0x09 = true) (fun s =>
      if p = 0x04C then evtLevel (s.writeWord fn 0x09 0 p .base (w % 2 ^ 32)) else s.writeWord fn 0x09 0 p .base (w % 2 ^ 32))) ∧
  (∀ fn g bar w be, bar % 4 ≠ 0 ∨ be % 16 ≠ 15 → occurs (.registerWrite fn g bar w be)
    (fun s => s.served (barPage bar) = true ∧ fn ≤ 8 ∧ s.shut fn (barPage bar) = false) (fun s => s.wb ⟨⟨barPage bar, 0x00C⟩, 29, 29⟩ true fn)) ∧
  (∀ fn pg w, fn ≤ 8 → occurs (.go fn pg w) (fun s => s.served pg = true ∧ s.shut fn pg = false) (fun s =>
    let t := applyGo fn pg ((s.pw pg fn 0x01C (fput w 31 31 1 % 2 ^ 32 % 2)).onHeld
      (fun hs => hs.map (fun h => if h.fn == fn && h.pg == pg then { h with kept := true } else h)))
    if t.held.any (fun h => h.fn == fn && h.pg == pg && mirroredReg pg h.off) then mirrorNote (pg * 65536) t else t)) ∧
  (∀ fn pg w, fn ≤ 8 → occurs (.intStatClear fn pg w) (fun s => s.served pg = true ∧ s.shut fn pg = false)
    (fun s => s.pw pg fn 0x010 (s.gw pg fn 0x010 - (s.gw pg fn 0x010 &&& w % 2 ^ 32)))) ∧
  (∀ fn pg w, fn ≤ 8 → occurs (.intForce fn pg w) (fun s => s.served pg = true ∧ s.shut fn pg = false)
    (fun s => s.each ((List.range 32).filter (fun b => bit (w % 2 ^ 32 &&& intMask pg) b)) (fun s b => s.raise1 pg b fn))) ∧
  (∀ fn w port, isPF0 fn = true → bit w 0 = true → port < 4 → fn ≤ 8 → occurs (.counterClear fn (0x0A + port) 0 w) (fun s => 3 ≤ s.mode)
    (fun s => s.onCmd (fun c => { c with clr := c.clr ++ [(0x0A + port, 0)] }))) ∧
  (∀ fn w pg, isPF0 fn = true → bit w 1 = true → pg = 0x0E ∨ pg = 0x0F → fn ≤ 8 → occurs (.clearAll fn pg w)
    (fun s => 3 ≤ s.mode) (fun s => s.onCmd (fun c => { c with clr := c.clr ++ [(pg, 1024)] })))

/-! ## Rows that the clocks, the references and the pins cause -/

/-- Core clock, TPLLs and MPLL: a loss with a locked standby moves the core clock and counts a failover; a loss without one is
recorded as CRITICAL; a TPLL that falls out of lock takes its links with it; the MPLL's return asks every output it feeds to align;
spread and phase step end; an excursion of an enabled PLL counts (R95–R101, R419). -/
def Obligations.PllsFollowTheirEvents : Prop :=
  occurs .cpllLockLoss (fun s => (cpllSet (s.rd CLKG.CPLL_STAT_ACTIVE) false s).cpllLock (1 - s.rd CLKG.CPLL_STAT_ACTIVE) = true) (fun s =>
    let a := s.rd CLKG.CPLL_STAT_ACTIVE
    let t := ((cpllSet a false s).wr CLKG.CPLL_STAT_ACTIVE (1 - a)).cnt CLKG.CPLL_STAT_FAILOVERS
    (t.raise 0x02 0 fnsAll).err 0x0301 0x02 0 (1 - a) 0 none (t.beyond kdCPLL)) ∧
  occurs .cpllLockLoss (fun s => (cpllSet (s.rd CLKG.CPLL_STAT_ACTIVE) false s).cpllLock (1 - s.rd CLKG.CPLL_STAT_ACTIVE) = false)
    (fun s => (cpllSet (s.rd CLKG.CPLL_STAT_ACTIVE) false s).err 0x0302 0x02 0 0 0 none true) ∧
  occurs .standbyCpllLockLoss (fun _ => True) (fun s => cpllSet (1 - s.rd CLKG.CPLL_STAT_ACTIVE) false s) ∧
  occurs .cpllRelock (fun s => s.cpllLock (1 - s.rd CLKG.CPLL_STAT_ACTIVE) = false) (fun s => cpllSet (1 - s.rd CLKG.CPLL_STAT_ACTIVE) true s) ∧
  occurs .cpllRelock (fun s => s.cpllLock (1 - s.rd CLKG.CPLL_STAT_ACTIVE) = true) (fun s => cpllSet (s.rd CLKG.CPLL_STAT_ACTIVE) true s) ∧
  occurs .mpllLoss (fun _ => True) (fun s => (((s.wb CLKG.MPLL_STAT_LOCK false).onLoc (fun l =>
    { l with txDark := (List.range 8).foldl (fun d t => bs d t (l.txs.contains t)) [] })).raise 0x02 2 fnsAll).err 0x0304 0x02 0 0 0) ∧
  occurs .mpllRelock (fun _ => True) (fun s => (s.wb CLKG.MPLL_STAT_LOCK true).onRef (fun r => { r with alignPend := r.alignPend ||| 0xFF7 })) ∧
  (∀ b, occurs (.tpllLoss b) (fun s => s.tpllLock (b2n b) = true) (fun s =>
    let t := (tpllShow (b2n b) false s).cnt (if b then CLKG.TPLL_STAT_B_LOSS else CLKG.TPLL_STAT_A_LOSS)
    let u := (t.raise 0x02 1 fnsAll).err 0x0303 0x02 0 (b2n b) 0 none (!t.tpllLock (1 - b2n b) || t.beyond kdPLANE)
    linksFail b (u.each [2 * b2n b, 2 * b2n b + 1] (fun s p => stampsVoid p (linkFail p (linkShow p false ⟨true, false⟩ s)))))) ∧
  (∀ b, occurs (.tpllLoss b) (fun s => s.tpllLock (b2n b) = false) id) ∧
  (∀ b, occurs (.tpllRelock b) (fun _ => True) (tpllShow (b2n b) true)) ∧
  happens .sscChangeDone (fun s => s.rb CLKG.SSC_STAT_BUSY = true ∧ s.cpllLock (1 - s.rd CLKG.CPLL_STAT_ACTIVE) = true) (fun s =>
    let t := s.wr CLKG.CPLL_STAT_ACTIVE (1 - s.rd CLKG.CPLL_STAT_ACTIVE)
    ((t.wb CLKG.SSC_STAT_BUSY false).onRef (fun r => { r with ssc := t.rd CLKG.SSC_CTL_MODE })).raise 0x02 3 fnsAll) ∧
  happens .sscChangeDone (fun s => s.rb CLKG.SSC_STAT_BUSY = true ∧ s.cpllLock (1 - s.rd CLKG.CPLL_STAT_ACTIVE) = false)
    (fun s => ((s.wb CLKG.SSC_STAT_BUSY false).onRef (fun r => { r with ssc := s.rd CLKG.SSC_CTL_MODE })).raise 0x02 3 fnsAll) ∧
  happens .phaseStepDone (fun s => s.rb CLKG.MPLL_STAT_PSTEP_BUSY = true) (fun s =>
    let n := s.rdS CLKG.MPLL_PHASE_STEPS
    let t := aoShift (stepUnits (n + s.ref.pstep) - stepUnits n) (s.wrS CLKG.MPLL_PHASE_STEPS (n + s.ref.pstep))
    alignPublish ((t.wb CLKG.MPLL_STAT_PSTEP_BUSY false).onRef (fun r => { r with pstep := 0 }))) ∧
  (∀ plls, occurs (.pllPhaseExcursion plls) (fun s => plls &&& s.rd CLKG.LOCK_MASK_MASK ≠ 0) (fun s => s.cntw CLKG.LOCK_EVT_COUNT)) ∧
  (∀ plls, occurs (.pllPhaseExcursion plls) (fun s => plls &&& s.rd CLKG.LOCK_MASK_MASK = 0) id) ∧
  (∀ n, 15000 ≤ n → occurs (.coreCycleMonitor n) (fun _ => True) id) ∧
  (∀ n, n < 15000 → occurs (.coreCycleMonitor n) (fun _ => True) (fun s => s.onFlt (fun f => { f with stop := true })))

/-- Candidates, clock pins, event pins, LTC, conversion groups and general-purpose pins. The end of a drift window judges the window that the
boundary has closed, once; the loss of a candidate stops its measurement; the active edge of a clock pin is measured; an output starts with its
settings at a rising edge and stops at a falling one; an event edge past the glitch filter is stored, or counted as lost where the FIFO is full;
an LTC frame is shown and, in FOLLOW, judged; a frame that is sent carries the timecode of its source; a stage of an acquisition that has run its
time gives way to the next; an edge at a pin that EDGE enables is flagged. Where the supply of its pins is off, an edge is as if absent (R60, R63,
R65–R69, R77, R85–R87, R91, R191, R339, R340, R592, R600, R601). -/
def Obligations.EdgesAreTaken : Prop :=
  (∀ ys, happens (.driftWindowEnd ys) (fun s => s.ref.winDone = none) id) ∧
  (∀ ys, happens (.driftWindowEnd ys) (fun s => s.ref.winDone ≠ none) (driftWindow ys)) ∧
  (∀ c, 3 ≤ c → c ≤ 6 → happens (.candidateLoss c) (fun _ => True) (fun s => s.onRef (fun r =>
    { r with present := bs r.present c false, stopped := bs r.stopped c true, goodEdges := ns r.goodEdges c 0, lastEdge := ns r.lastEdge c 0 }))) ∧
  (∀ pin rising off, pin < 3 → happens (.clockPinEdge pin rising off) (fun s => s.bankUp 9 = true ∧ pinActive s pin rising = true) (pinEdge pin off)) ∧
  (∀ pin rising off, happens (.clockPinEdge pin rising off) (fun s => s.bankUp 9 = false ∨ pinActive s pin rising = false) id) ∧
  (∀ o, o < 2 → happens (.clockOutEdge o true) (fun s => s.clkEnReg o = true ∧ bg s.loc.clkEn o = true ∧ bg s.ref.outRun o = false)
    (fun s => (clkTake o s).onLoc (fun l => { l with clkHigh := bs l.clkHigh o true }))) ∧
  (∀ o, o < 2 → happens (.clockOutEdge o false) (fun s => s.clkEnReg o = false ∧ bg s.ref.outRun o = true)
    (fun s => (s.onRef (fun r => { r with outRun := bs r.outRun o false, outPend := ns r.outPend o 0 })).onLoc (fun l =>
      { l with clkHigh := bs l.clkHigh o false }))) ∧
  (∀ off pin rising hold, happens (.evtInEdge off pin ⟨rising, hold⟩) (fun s => s.bankUp 8 = false ∨ hold < evtFilter ∨
    og s.tim.evtIn pin = some rising) id) ∧
  (∀ off pin rising hold, evtFilter ≤ hold → happens (.evtInEdge off pin ⟨rising, hold⟩) (fun s => s.bankUp 8 = true ∧
      og s.tim.evtIn pin ≠ some rising ∧ evtTaken off pin rising s = false)
    (fun s => s.onTim (fun t => { t with evtIn := os t.evtIn pin (some rising) }))) ∧
  (∀ off pin rising hold, evtFilter ≤ hold → happens (.evtInEdge off pin ⟨rising, hold⟩) (fun s => s.bankUp 8 = true ∧
      og s.tim.evtIn pin ≠ some rising ∧ evtTaken off pin rising s = true ∧ 64 ≤ s.tim.evt.length) (fun s =>
    let t := s.onTim (fun t => { t with evtIn := os t.evtIn pin (some rising), evtLast := ns t.evtLast pin (s.grid off + 1) })
    ((t.wb EVTC.FIFO_STAT_OVF true).onTim (fun t => { t with evtLost := min 0xFFFFFFFF (t.evtLost + 1) })).raise 0x09 1 fnsAll)) ∧
  (∀ off pin rising hold, evtFilter ≤ hold → happens (.evtInEdge off pin ⟨rising, hold⟩) (fun s => s.bankUp 8 = true ∧
      og s.tim.evtIn pin ≠ some rising ∧ evtTaken off pin rising s = true ∧ s.tim.evt.length < 64) (fun s =>
    let b := s.rd EVTC.EVT_TB_BASE
    let st := s.baseAt b (s.grid off / 16 * 16)
    evtLevel (evtSync (s.onTim (fun t => { t with
      evtIn := os t.evtIn pin (some rising), evtLast := ns t.evtLast pin (s.grid off + 1)
      evt := t.evt ++ [{ w0 := t.evtSeq % 256 * 2 ^ 24 + b2n (s.baseValid b) * 2 ^ 12 + b * 2 ^ 8 + b2n rising * 2 ^ 7 + pin
                         w1 := stampNs st, w2 := s.idx % 2 ^ 24 * 2 ^ 8 + stampFr st, w3 := t.evtLost }]
      evtSeq := (t.evtSeq + 1) % 256, evtLost := 0 }))))) ∧
  (∀ edge x, x.sync = true → x.rate ≤ 4 → x.reverse = false → happens (.ltcFrameRx edge x) (fun s => s.bankUp 9 = true) (fun s =>
    let t := (((s.wr TIME.LTC_IN_TC_ADDR x.addr (i := 3)).ww TIME.LTC_IN_UB x.ub (i := 3)).wb TIME.LTC_IN_STAT_REVERSE false (i := 3)).wr
      TIME.LTC_IN_STAT_RATE x.rate (i := 3)
    (if t.rb TIME.TB_CTL_LTC_FOLLOW (i := 3) then ltcJudge edge x t else t).onTim (fun t => { t with ltcLast := some (edge, x.addr) }))) ∧
  (∀ edge x, x.sync = true → x.rate ≤ 4 → x.reverse = true → happens (.ltcFrameRx edge x) (fun s => s.bankUp 9 = true) (fun s =>
    ((s.wr TIME.LTC_IN_TC_ADDR x.addr (i := 3)).ww TIME.LTC_IN_UB x.ub (i := 3)).wb TIME.LTC_IN_STAT_REVERSE true (i := 3))) ∧
  (∀ edge x, happens (.ltcFrameRx edge x) (fun s => s.bankUp 9 = false ∨ x.sync = false ∨ 4 < x.rate) id) ∧
  happens .ltcOutFrame (fun s => s.tim.ltcOutWait = false) (fun s =>
    let t := s.wb TIME.LTC_OUT_STAT_FREEWHEEL (!s.baseValid s.tim.ltcOut.2.1) (i := 3)
    t.onTim (fun q => { q with ltcOutFrames := q.ltcOutFrames + 1, ltcOutTc := t.ltcOutNow })) ∧
  happens .ltcOutFrame (fun s => s.tim.ltcOutWait = true) (fun s =>
    let u := (s.onTim (fun t => { t with
      ltcOut := (s.rd TIME.LTC_OUT_CTL_RATE (i := 3), s.rd TIME.LTC_OUT_CTL_SRC (i := 3), s.rdS TIME.LTC_OUT_OFS_OFS (i := 3))
      ltcOutWait := false })).onRef (fun r => { r with ao := is r.ao 2 0 })
    let t := u.wb TIME.LTC_OUT_STAT_FREEWHEEL (!u.baseValid u.tim.ltcOut.2.1) (i := 3)
    t.onTim (fun q => { q with ltcOutFrames := q.ltcOutFrames + 1, ltcOutTc := t.ltcOutNow })) ∧
  (∀ g b, 3 ≤ g → g < 256 → b ≠ 0 → happens (.asrcStageEnd g) (fun s => ng s.src.stage g = b ∧ s.grpState g = gsACQ ∧
      ng s.src.stageAt g + 32 * stageTicks b ≤ s.clock) (fun s => s.onSrc (fun c => { c with
        stage := ns c.stage g (nextStage b (s.grpBW g)), stageAt := ns c.stageAt g (ng c.stageAt g + 32 * stageTicks b), good := ns c.good g 0 }))) ∧
  (∀ g, happens (.asrcStageEnd g) (fun s => s.grpState g ≠ gsACQ ∨ s.clock < ng s.src.stageAt g + 32 * stageTicks (ng s.src.stage g)) id) ∧
  (∀ pin rising, pin ≤ 31 → happens (.gpioEdge pin rising) (fun s => s.bankUp (6 + pin / 16) = true ∧ s.rb LSIO.GPIO_IN pin ≠ rising ∧
      bit ((s.wb LSIO.GPIO_IN rising pin).rd LSIO.GPIO_EDGE pin) (b2n (!rising)) = true)
    (fun s => ((s.wb LSIO.GPIO_IN rising pin).wb LSIO.GPIO_EVT true pin).raise 0x24 3 fnsAll)) ∧
  (∀ pin rising, pin ≤ 31 → happens (.gpioEdge pin rising) (fun s => s.bankUp (6 + pin / 16) = true ∧ s.rb LSIO.GPIO_IN pin ≠ rising ∧
      bit ((s.wb LSIO.GPIO_IN rising pin).rd LSIO.GPIO_EDGE pin) (b2n (!rising)) = false) (fun s => s.wb LSIO.GPIO_IN rising pin)) ∧
  (∀ pin rising, happens (.gpioEdge pin rising) (fun s => s.bankUp (6 + pin / 16) = false ∨ s.rb LSIO.GPIO_IN pin = rising) id)

/-! ## Rows that the network causes -/

/-- Network ports. A master that is overdue is lost, and its plane chooses again; a delay request that is due goes out on Q1, and with 16
unanswered the master is lost; an address unheard for 300 s leaves the cache; a link that fails shows its faults and is marked to fall at the
next sample boundary; a module's presence is shown, and with AUTO the firmware reads an inserted module, clears a removed one, and shows the
alarms of a present one; the MAC starts a frame, at once or as a gate opens; the write-back of a host frame that has left is made; a frame that
arrives on a link that is up is judged, and on one that is down is lost (R109, R111, R115, R118, R127, R130–R132, R137, R310, R506, R575, R600). -/
def Obligations.PortsFollowTheirEvents : Prop :=
  (∀ port, happens (.masterLoss port) (fun s => s.fwUp = true ∧ masterOverdue port s = true)
    (fun s => gmUpdate (planeOf port) (s.onNet (fun n => { n with master := os n.master port none, unans := ns n.unans port 0 })))) ∧
  (∀ port, happens (.masterLoss port) (fun s => s.fwUp = false ∨ masterOverdue port s = false) id) ∧
  (∀ port, port < 4 → happens (.delayReqSend port) (fun s => s.fwUp = true ∧ s.rb TIME.PTP_CTL_EN (i := planeOf port) = true ∧
      (og s.net.master port).isSome = true ∧ ng s.net.reqAt port ≤ s.clock ∧ 16 ≤ ng s.net.unans port) (masterLost port)) ∧
  (∀ port, port < 4 → happens (.delayReqSend port) (fun s => s.fwUp = true ∧ s.rb TIME.PTP_CTL_EN (i := planeOf port) = true ∧
      (og s.net.master port).isSome = true ∧ ng s.net.reqAt port ≤ s.clock ∧ ng s.net.unans port < 16) (fun s => txPut port (txKey port 1)
        { kind := .ptp, len := max 64 (14 + (if s.rb TIME.PTP_CTL_IPV6 (i := planeOf port) then 40 else 20) + 8 +
            (if s.rb TIME.PTP_CTL_DELAY_MECH (i := planeOf port) then 54 else 44) + 4), bytes := [], held := false }
        (s.onNet (fun n => { n with
          unans := ns n.unans port (ng n.unans port + 1), reqAt := ns n.reqAt port (s.clock + logSamples (ig n.reqInt port)) })))) ∧
  (∀ port, happens (.delayReqSend port) (fun s => s.clock < ng s.net.reqAt port ∨ (og s.net.master port).isNone = true) id) ∧
  (∀ port a, happens (.neighbourAgeOut port a) (fun s => s.fwUp = true) (fun s =>
    let l := (tget (fun _ => []) s.net.neigh port).filter (fun e => !(e.1 == a && decide (e.2.1 + 28800000 ≤ s.clock)))
    s.onNet (fun n => { n with neigh := tset (fun _ => []) n.neigh port l }))) ∧
  (∀ port fec x, port < 4 → happens (.linkDown port fec x) (fun s => s.linkUp port = true)
    (fun s => linkFail port (linkShow port fec x s))) ∧
  (∀ port fec x, port < 4 → happens (.linkDown port fec x) (fun s => s.linkUp port = false) id) ∧
  (∀ port x, happens (.qsfpInsertRemove port x) (fun s => s.bankUp 4 = false) id) ∧
  (∀ port x, port < 4 → happens (.qsfpInsertRemove port x) (fun s => s.bankUp 4 = true ∧
      ((qsfpSeen port x.present s).rb NETP.QSFP_CTL_AUTO (i := port) = false ∨ (qsfpSeen port x.present s).fwUp = false))
    (qsfpSeen port x.present)) ∧
  (∀ port x, port < 4 → x.present = true → happens (.qsfpInsertRemove port x) (fun s => s.bankUp 4 = true ∧
      (qsfpSeen port true s).rb NETP.QSFP_CTL_AUTO (i := port) = true ∧ (qsfpSeen port true s).fwUp = true ∧
      (qsfpSeen port true s).modReach port = true) (fun s => qsfpRead port x (qsfpSeen port true s))) ∧
  (∀ port x, port < 4 → x.present = false → happens (.qsfpInsertRemove port x) (fun s => s.bankUp 4 = true ∧
      (qsfpSeen port false s).rb NETP.QSFP_CTL_AUTO (i := port) = true ∧ (qsfpSeen port false s).fwUp = true)
    (fun s => qsfpGone port (qsfpSeen port false s))) ∧
  (∀ port a int, port < 4 → happens (.qsfpMonitor port a int) (fun s => s.bankUp 4 = true) (qsfpMonitor port a int)) ∧
  (∀ port a int, happens (.qsfpMonitor port a int) (fun s => s.bankUp 4 = false) id) ∧
  (∀ port a int, port < 4 → ∀ s : State, (s.wb NETP.QSFP_STAT_INT int (i := port)).rb NETP.QSFP_CTL_AUTO (i := port) = false →
    qsfpMonitor port a int s = s.wb NETP.QSFP_STAT_INT int (i := port)) ∧
  (∀ port off v, port < 4 → happens (.frameTransmit port ⟨off, v⟩) (fun s => (txTry port off v s).2 = none) (fun s => (txTry port off v s).1)) ∧
  (∀ port off v f, port < 4 → happens (.frameTransmit port ⟨off, v⟩) (fun s => (txTry port off v s).2 = some f)
    (fun s => audioLeft port off v f (txTry port off v s).1)) ∧
  (∀ port off v, happens (.gateEntryChange port ⟨off, v⟩) (fun s => s.gating port = true) (frameStart port off v)) ∧
  (∀ port off v, happens (.gateEntryChange port ⟨off, v⟩) (fun s => s.gating port = false) id) ∧
  (∀ port off x, happens (.hostFrameDeparted port off) (fun s =>
      (txSettle port (s.grid off) s).net.hostDone.find? (fun x => x.port == port) = some x ∧
      (txSettle port (s.grid off) s).ringRuns (rk x.fn x.ring) = false)
    (fun s => (txSettle port (s.grid off) s).onNet (fun n => { n with hostDone := n.hostDone.erase x }))) ∧
  (∀ port off x d t, happens (.hostFrameDeparted port off) (fun s => t = txSettle port (s.grid off) s ∧
      t.net.hostDone.find? (fun x => x.port == port) = some x ∧
      (t.descList (rk x.fn x.ring)).find? (fun d => d.d.handle == x.handle && d.st == stOK) = some d ∧ t.ringRuns (rk x.fn x.ring) = true)
    (fun _ => let u := t.onNet (fun n => { n with hostDone := n.hostDone.erase x })
      let k := rk x.fn x.ring
      descFlush x.fn x.ring (writeBack x.fn x.ring d { plainWb x.fn x.ring d (if x.sent then stOK else stLINK_DOWN) u with
        port := port, lenDone := if x.sent then d.d.len else 0, stamp := x.stamp.map (u.ringStamp k port) }
        (descSet k ((u.descList k).erase d) u)))) ∧
  (∀ port off x, port < 4 → happens (.frameReceive port off x) (fun s => s.linkUp port = true) (frameReceive port off x)) ∧
  (∀ port off x, happens (.frameReceive port off x) (fun s => s.linkUp port = false) id)

/-- Streams and SAP. A session unheard for the longer of an hour and ten intervals expires; a stream in RUN is announced on the port of each
enabled leg once two thirds of the interval have passed, and its deletion is sent after it has left; a leg's membership is joined, with the
membership it held before left where no other leg holds it; a query is answered, and a membership is reported a second time; an ACTIVE stream
without a packet by its time goes to GAP; a plane without one shows it (R149, R150, R164, R170, R309). -/
def Obligations.StreamsFollowTheirEvents : Prop :=
  (∀ id, happens (.sapSessionExpire id) (fun s => s.fwUp = true) (fun s => s.onRx (fun r => { r with
    sessions := r.sessions.filter (fun q => !(q.id == id && decide (q.heard + max 345600000 (10 * q.every) ≤ s.clock))) }))) ∧
  (∀ i, i < 1024 → happens (.sapTxAnnounce i) (fun s => s.fwUp = false ∨ s.rb STTX.SAP_TX_CFG_EN = false) id) ∧
  (∀ i, i < 1024 → happens (.sapTxAnnounce i) (fun s => s.fwUp = true ∧ s.rb STTX.SAP_TX_CFG_EN = true ∧ s.txState i = txRUN ∧
      s.rb STTX.CFG_ANNOUNCE i = true ∧ s.sapDue i 2 = true) (fun s => (sapSend i (ng s.tx.ver i) false s).onTx (fun t => { t with
        sapVer := ns t.sapVer i (ng t.ver i + 1), sapAt := ns t.sapAt i s.clock }))) ∧
  (∀ i, i < 1024 → happens (.sapTxAnnounce i) (fun s => s.fwUp = true ∧ s.rb STTX.SAP_TX_CFG_EN = true ∧ s.txState i ≠ txRUN ∧
      ng s.tx.sapVer i ≠ 0) (fun s => (sapSend i (ng s.tx.sapVer i - 1) true s).onTx (fun t => { t with
        sapVer := ns t.sapVer i 0, sapAt := ns t.sapAt i 0 }))) ∧
  (∀ i leg k, i < 1024 → leg < 2 → happens (.multicastJoin i leg) (fun s => s.fwUp = true ∧ s.legGroup i leg = some k ∧
      og s.rx.joined (2 * i + leg) = none ∧ s.rx.members.any (fun m => m.key == k) = false)
    (fun s => let m : Member := ⟨k.1, k.2.1, k.2.2.1, k.2.2.2, some (s.clock + 96000)⟩
      let u := s.onRx (fun r => { r with joined := os r.joined (2 * i + leg) (some k) })
      (groupReport k.1 k.2.1 [m] u).onRx (fun r => { r with members := r.members ++ [m] }))) ∧
  (∀ i leg k, i < 1024 → leg < 2 → happens (.multicastJoin i leg) (fun s => s.fwUp = true ∧ s.legGroup i leg = none ∧
      og s.rx.joined (2 * i + leg) = some k ∧
      (s.onRx (fun r => { r with joined := os r.joined (2 * i + leg) none })).groupWanted k = false)
    (fun s => let u := s.onRx (fun r => { r with joined := os r.joined (2 * i + leg) none })
      (u.each (u.rx.members.filter (fun m => m.key == k)) (fun s m => groupLeave m s)).onRx (fun r =>
        { r with members := r.members.filter (fun m => m.key != k) }))) ∧
  (∀ i leg, i < 1024 → leg < 2 → happens (.multicastJoin i leg) (fun s => s.fwUp = true) (memberSync i leg)) ∧
  (∀ port dst q, happens (.membershipReport port dst true) (fun s => s.fwUp = true ∧
      s.rx.asked.find? (fun q => q.1 == port && q.2.2 == dst) = some q)
    (fun s => (groupReport q.1 q.2.1 (s.rx.members.filter (fun m => m.port == q.1 && m.v6 == q.2.1 && (q.2.2 == 0 || m.dst == q.2.2))) s).onRx
      (fun r => { r with asked := r.asked.filter (· != q) }))) ∧
  (∀ port dst m, happens (.membershipReport port dst false) (fun s => s.fwUp = true ∧ s.reportDue port dst = some m)
    (fun s => (groupReport m.port m.v6 [m] s).onRx (fun r =>
      { r with members := r.members.map (fun x => if x = m then { x with again := none } else x) }))) ∧
  (∀ i off, happens (.streamGap i off) (fun s => let t := rxJudge s
      let c := t.rxLine i (ng t.rx.hi i)
      t.rxRunning = true ∧ t.rxState i = stACTIVE ∧
      c.a + (ng t.rx.hi i : Int) * c.b + 3 * t.rxPs i * c.b ≤ (t.grid off : Int) * c.den) (fun s => rxSet i stGAP (rxJudge s))) ∧
  (∀ i off, happens (.streamGap i off) (fun s => (rxJudge s).rxRunning = false ∨ (rxJudge s).rxState i ≠ stACTIVE) rxJudge) ∧
  (∀ i plane off a, plane < 2 → happens (.planeChg i plane off) (fun s => let t := rxJudge s
      t.rxRunning = true ∧ og t.rx.okAt (2 * i + plane) = some a ∧
      a * t.rxHz i + 8 * t.rxPs i * gridSec ≤ (t.grid off : Int) * t.rxHz i) (fun s => planeSet i plane false (rxJudge s))) ∧
  (∀ i plane off, happens (.planeChg i plane off) (fun s => (rxJudge s).rxRunning = false) rxJudge)

/-- Local audio ports. A frame edge of an I²S port shows its clock, and moves the frames of a port that is not OFF; a clock absent for 4
frames of NOM_HZ is counted and shown as lost, and the outputs of a port that goes on are held low; an AES3 frame is shown, measured, searched for
a block or taken, and handed on; a receiver without a frame for 4 frames returns to SEARCH; a transmitter's block starts with the words written
for it, at its 192nd frame or as the port is aligned. Where the supply of a port's pins is off, its edges are as if absent (R328, R329, R331–R333,
R335, R337, R600, R601). -/
def Obligations.LocalPortsFollowTheirEvents : Prop :=
  (∀ p off x, p < 16 → happens (.i2sFrameEdge p off x) (fun s => s.bankUp (12 + p / 4) = true) (i2sEdge p off x)) ∧
  (∀ p off x, happens (.i2sFrameEdge p off x) (fun s => s.bankUp (12 + p / 4) = false) id) ∧
  (∀ p off x, p < 16 → happens (.i2sFrameEdge p off x) (fun s => s.bankUp (12 + p / 4) = true ∧ s.i2sRb SAPG.PORT_STAT_CLK_OK p = true ∧
      (i2sWr SAPG.PORT_STAT_BCLK_FRAME (min 255 x.bclk) p (i2sClk p true
        (s.onLoc (fun l => { l with clkAt := ns l.clkAt p (s.clockGrid off + 1) })))).i2sState p = i2sOFF)
    (fun s => i2sWr SAPG.PORT_STAT_BCLK_FRAME (min 255 x.bclk) p (i2sClk p true
      (s.onLoc (fun l => { l with clkAt := ns l.clkAt p (s.clockGrid off + 1) }))))) ∧
  (∀ p off x, p < 16 → happens (.i2sFrameEdge p off x) (fun s => s.bankUp (12 + p / 4) = true ∧ s.i2sRb SAPG.PORT_STAT_CLK_OK p = false ∧
      (i2sClk p true (s.onLoc (fun l => { l with clkAt := ns l.clkAt p (s.clockGrid off + 1) }))).i2sState p = i2sOFF)
    (fun s => i2sClk p true (s.onLoc (fun l => { l with clkAt := ns l.clkAt p (s.clockGrid off + 1) })))) ∧
  (∀ p off, happens (.i2sClockLoss p off) (fun s => s.i2sRb SAPG.PORT_STAT_CLK_OK p = false) id) ∧
  (∀ p off, p < 16 → happens (.i2sClockLoss p off) (fun s => s.i2sRb SAPG.PORT_STAT_CLK_OK p = true ∧
      4 * gridSec ≤ (s.clockGrid off + 1 - ng s.loc.clkAt p) * s.i2sRd SAPG.NOM_HZ p ∧
      bg (i2sClk p false (i2sCnt SAPG.CLK_LOSSES p s)).loc.halt p = false)
    (fun s => (i2sClk p false (i2sCnt SAPG.CLK_LOSSES p s)).onLoc (fun l => { l with sdo := is (is l.sdo (2 * p) 0) (2 * p + 1) 0 }))) ∧
  (∀ p off, p < 16 → happens (.i2sClockLoss p off) (fun s => s.i2sRb SAPG.PORT_STAT_CLK_OK p = true ∧
      4 * gridSec ≤ (s.clockGrid off + 1 - ng s.loc.clkAt p) * s.i2sRd SAPG.NOM_HZ p ∧
      bg (i2sClk p false (i2sCnt SAPG.CLK_LOSSES p s)).loc.halt p = true)
    (fun s => i2sOff p (i2sClk p false (i2sCnt SAPG.CLK_LOSSES p s)))) ∧
  (∀ r off x, happens (.aes3FrameRx r off x) (fun s => s.bankUp 11 = false ∨ s.arState r = arOFF) id) ∧
  (∀ r off x, r < 8 → happens (.aes3FrameRx r off x) (fun s => s.bankUp 11 = true ∧ s.arState r ≠ arOFF) (fun s =>
    let g := s.groupOf (arKey r)
    let t : Int := (s.grid off : Int) - x.len
    let u := measureEdge g t ((s.wr AESP.RX_STAT_DET_RATE x.rate r).onLoc (fun l =>
      { l with rxAt := ns l.rxAt r (s.clockGrid off + 1 - x.len) }))
    let u := if u.arState r = arSEARCH then arSearch r x u else u
    let u := if u.arState r = arLOCKED then arHand r (u.edgeCount g t + 1) (arTake r x u) else u
    if u.rd REFS.CAND_CFG_SRC 6 = r then cand6 (u.onRef (fun q => { q with
      stopped := bs q.stopped 6 false, e := is q.e 6 (wordPhase (rateHz (u.rd REFS.CAND_CFG_RATE 6)) t) })) else u)) ∧
  (∀ r off, r < 8 → happens (.aes3LockLoss r off) (fun s => s.arState r = arLOCKED ∧
      4 * gridSec ≤ (s.clockGrid off + 1 - ng s.loc.rxAt r) * s.rd AESP.RX_NOM_HZ r)
    (fun s => let u := arSet r arSEARCH (arBlock r ((s.cntr AESP.RX_LOCK_LOSSES r).onLoc (fun l =>
      { l with rxZ := ns l.rxZ r 0, rxClean := bs l.rxClean r false })))
      if u.rd REFS.CAND_CFG_SRC 6 = r then cand6 u else u)) ∧
  (∀ r off, happens (.aes3LockLoss r off) (fun s => s.arState r ≠ arLOCKED) id) ∧
  (∀ t, t < 8 → happens (.aes3TxBlockStart t) (fun s => s.atState t ≠ atOFF ∧ 192 ≤ ng s.loc.txPos t ∧ ng s.ref.outPend (atOut t) = 0) (fun s =>
    let u := s.applyDue (fun h => h.pg == 0x18 && h.obj == t && decide (0x908 ≤ h.off)) (fun s h => s.applyHeld h)
    (u.wr AESP.TX_BLOCKS_COUNT (u.rd AESP.TX_BLOCKS_COUNT t + 1) t).onLoc (fun l => { l with txPos := ns l.txPos t (ng l.txPos t % 192) }))) ∧
  (∀ t, t < 8 → happens (.aes3TxBlockStart t) (fun s => s.atState t ≠ atOFF ∧ ng s.ref.outPend (atOut t) ≠ 0) (fun s =>
    let u := s.applyDue (fun h => h.pg == 0x18 && h.obj == t && decide (0x908 ≤ h.off)) (fun s h => s.applyHeld h)
    let u := (u.wr AESP.TX_BLOCKS_COUNT (u.rd AESP.TX_BLOCKS_COUNT t + 1) t).onLoc (fun l => { l with txPos := ns l.txPos t 0 })
    (u.onRef (fun r => { r with outPend := ns r.outPend (atOut t) 0, ao := is r.ao (atOut t) 0 })).onLoc (fun l =>
      { l with txFade := ns l.txFade t (u.tim.sample + 2), txDark := bs l.txDark t (bg l.txDark t && !u.rb CLKG.MPLL_STAT_LOCK) }))) ∧
  (∀ t, happens (.aes3TxBlockStart t) (fun s => s.atState t = atOFF) id)

/-- Turns, loads, saves and snapshots. The ramp of a turn ends n + Rmp after its start, with recto in the bank of the new scene and verso, in
STATE COPY, equal to it; copy-over ends by draining the held edits at b; verso unlocks at b + 1; a load ends with the scene's codes in verso, the
held edits over them, and unlocks one sample later; a save ends with its records in the journal and its command complete; a record goes into its
ring and moves HEAD, is counted as dropped where the ring is full, or ends its set in error where it cannot be written (R243, R245, R250, R251,
R258, R263, R264, R287, R288, R487). -/
def Obligations.ScenesFollowTheirEvents : Prop :=
  (∀ g, g < 64 → happens (.rampEnd g) (fun s => s.bankState g = bkRAMP ∧ s.turnIdx g + s.turnRamp g ≤ s.tim.sample) (fun s =>
    sigRaise g 17 ((versoEqual g (s.wr SIG.BANK_STAT_RECTO_BANK (1 - s.recto g) (i := g))).wr SIG.BANK_STAT_STATE bkCOPY (i := g)))) ∧
  (∀ g, happens (.rampEnd g) (fun s => s.bankState g ≠ bkRAMP ∨ s.tim.sample < s.turnIdx g + s.turnRamp g) id) ∧
  (∀ g, g < 64 → happens (.copyOverEnd g) (fun s => s.bankState g = bkCOPY ∧ bg s.scn.drained g = false ∧ s.unlockIdx g ≤ s.tim.sample + 1)
    (fun s => (drain g s).onScn (fun c => { c with drained := bs c.drained g true }))) ∧
  (∀ g, happens (.copyOverEnd g) (fun s => s.bankState g = bkCOPY ∧ (bg s.scn.drained g = true ∨ s.tim.sample + 1 < s.unlockIdx g)) id) ∧
  (∀ g, g < 64 → happens (.copyOverEnd g) (fun s => s.bankState g = bkRAMP) (fun s => copyEnd g (rampEnd g s))) ∧
  (∀ g, g < 64 → happens (.versoUnlock g) (fun s => s.bankState g = bkCOPY ∧ bg s.scn.drained g = true ∧ s.unlockIdx g ≤ s.tim.sample)
    (fun s => sigRaise g 18 (unlockSig g s))) ∧
  (∀ g, g < 64 → happens (.versoUnlock g) (fun s => s.bankState g = bkLOAD ∧ og s.scn.load g = none ∧ bg s.scn.drained g = true ∧
    s.unlockIdx g ≤ s.tim.sample) (unlockSig g)) ∧
  (∀ g, happens (.versoUnlock g) (fun s => s.bankState g = bkREADY ∨ s.bankState g = bkHELD) id) ∧
  (∀ g sc a e, g < 64 → happens (.sceneLoadEnd g) (fun s => og s.scn.load g = some (sc, a, e) ∧ s.bankState g = bkLOAD ∧ e ≤ s.tim.sample)
    (fun s => versoUnlock g (sigRaise g 21 ((drain g (versoFill g sc.codes s)).onScn (fun c =>
      { c with load := os c.load g none, drained := bs c.drained g true }))))) ∧
  (∀ g sc a e, happens (.sceneLoadEnd g) (fun s => og s.scn.load g = some (sc, a, e) ∧ s.tim.sample < e ∧ bg s.scn.drained g = false) id) ∧
  (∀ v l, happens .sceneSaveDone (fun s => s.scn.save = some v ∧ v.copy = some l ∧ s.rb FALT.PFAIL_STAT_ASSERTED = false) (fun s =>
    complete v.env stOK 0 [] true ((storeFix (((journal l s).onScn (fun c => { c with save := none })).wb SCNE.STORE_STAT_BUSY false)).raise
      0x12 2 fnsAll))) ∧
  happens .sceneSaveDone (fun s => s.scn.save = none ∨ s.rb FALT.PFAIL_STAT_ASSERTED = true) id ∧
  (∀ set ok r t at_ ha nxt, happens (.snapRecord set ok) (fun s => s.met.recs.find? (fun r => r.set == set) = some r ∧
      bg s.host.bmOff r.owner = false ∧ t = s.onMet (fun m => { m with recs := m.recs.erase r }) ∧
      at_ = t.rd64 METR.RING_BASE_HI METR.RING_BASE_LO set + t.rd METR.HEAD_SLOT set * t.rd METR.SLOT_SIZE_BYTES set ∧
      ha = t.rd64 METR.HEAD_ADDR_HI METR.HEAD_ADDR_LO set ∧ nxt = (t.rd METR.HEAD_SLOT set + 1) % t.rd METR.RING_SLOTS_SLOTS set ∧
      ok = true ∧ t.dmaOk r.owner at_ r.bytes.length = true ∧ (ha ≠ 0 → t.dmaOk r.owner ha 4 = true) ∧ nxt ≠ t.rd METR.TAIL_SLOT set)
    (fun _ =>
      let lost := match og t.met.blocks set with | some k => k.lost | none => false
      let u := (t.onMet (fun m => { m with
        blocks := m.blocks.map (fun b => if b.1 = set then (b.1, b.2.map (fun k => { k with lost := false })) else b)
        lastRec := some ({ r with bytes := if lost then r.bytes.set 7 (r.bytes.getD 7 0 ||| 2#8) else r.bytes }, at_)
        lastHead := if ha = 0 then m.lastHead else some (ha, leBytes 4 nxt) })).wr METR.HEAD_SLOT nxt set
      if u.rb METR.SNAP_CTL_IRQ_EN set then u.raise 0x13 0 (fnsOwn r.owner) else u)) ∧
  (∀ set r t, happens (.snapRecord set true) (fun s => s.met.recs.find? (fun r => r.set == set) = some r ∧
      bg s.host.bmOff r.owner = false ∧ t = s.onMet (fun m => { m with recs := m.recs.erase r }) ∧
      t.dmaOk r.owner (t.rd64 METR.RING_BASE_HI METR.RING_BASE_LO set + t.rd METR.HEAD_SLOT set * t.rd METR.SLOT_SIZE_BYTES set)
        r.bytes.length = true ∧
      (t.rd64 METR.HEAD_ADDR_HI METR.HEAD_ADDR_LO set ≠ 0 → t.dmaOk r.owner (t.rd64 METR.HEAD_ADDR_HI METR.HEAD_ADDR_LO set) 4 = true) ∧
      (t.rd METR.HEAD_SLOT set + 1) % t.rd METR.RING_SLOTS_SLOTS set = t.rd METR.TAIL_SLOT set)
    (fun _ =>
      let u := t.onMet (fun m =>
        { m with blocks := m.blocks.map (fun b => if b.1 = set then (b.1, b.2.map (fun k => { k with lost := true })) else b) })
      (u.cnt METR.SNAP_STAT_DROPS set).raise 0x13 1 (fnsOwn r.owner))) ∧
  (∀ set r, happens (.snapRecord set false) (fun s => s.met.recs.find? (fun r => r.set == set) = some r ∧ bg s.host.bmOff r.owner = false) (fun s =>
    let t := s.onMet (fun t => { t with recs := t.recs.erase r })
    (snapOff set (dmaErr r.owner ((t.wb METR.SNAP_STAT_ERR true set).onMet (fun t => { t with recs := t.recs.filter (fun q => q.set != set) })))).raise
      0x13 2 (fnsOwn r.owner))) ∧
  (∀ set ok, happens (.snapRecord set ok) (fun s => s.met.recs.find? (fun r => r.set == set) = none) id)

/-! ## Rows of the modes, the supplies and the monitors -/

/-- Modes, reset and boot. An acquisition's time-out and the end of PREROLL are acted on at the next tick boundary; the thermal limit asks for
SAFE; the boot scenes are put in and AUTO_START asks for ACQUIRE; RESET_N empties the device of all but flash and the always-on fields; its release
begins BOOT; the boot ROM takes the image that its slot, the trial count and the checks allow, or stays in recovery; the firmware shows the flash,
restores the saved configuration or says that there is none, and enters CONFIG; a frame that an enabled wake pattern matches leaves STANDBY
(R446, R448, R451, R457–R468, R546). -/
def Obligations.ModesFollowTheirEvents : Prop :=
  occurs .acqTimeout (fun s => s.mode = mACQUIRE ∧ s.rb MODE.MODE_CTL_FREERUN_OK = true ∧ s.rd MODE.MODE_CTL_ACQ_TIMEOUT ≤ s.rw MODE.MODE_AGE ∧
    s.md.endDue = none) (fun s => s.onMd (fun m => { m with endDue := some (mPREROLL, true) })) ∧
  occurs .acqTimeout (fun s => s.mode ≠ mACQUIRE ∨ s.rb MODE.MODE_CTL_FREERUN_OK = false ∨
    s.rw MODE.MODE_AGE < s.rd MODE.MODE_CTL_ACQ_TIMEOUT) id ∧
  occurs .prerollEnd (fun s => s.prerollOver = true) (fun s => s.onMd (fun m => { m with endDue := some (mRUN, false) })) ∧
  occurs .prerollEnd (fun s => s.prerollOver = false) id ∧
  occurs .thermalLimit (fun s => 32 ≤ s.md.hot ∧ thermFrom s.mode = true ∧ s.md.thermDue = false)
    (fun s => s.onMd (fun m => { m with thermDue := true, fadeAt := if carries s.mode then some (32 * s.tick) else none })) ∧
  occurs .thermalLimit (fun s => s.md.hot < 32 ∨ thermFrom s.mode = false) id ∧
  (∀ t, occurs .bootScenesDone (fun s => s.mode = mCONFIG ∧ s.md.startup = true ∧
      t = (condNote (s.each s.flash.bootScenes bootScene)).onMd (fun m => { m with startup := false }) ∧ t.rb MODE.MODE_CTL_AUTO_START = true)
    (fun _ => t.onMd (fun m => { m with endDue := some (mACQUIRE, false) }))) ∧
  (∀ t, occurs .bootScenesDone (fun s => s.mode = mCONFIG ∧ s.md.startup = true ∧
      t = (condNote (s.each s.flash.bootScenes bootScene)).onMd (fun m => { m with startup := false }) ∧ t.rb MODE.MODE_CTL_AUTO_START = false)
    (fun _ => t)) ∧
  occurs (.resetAssert false) (fun _ => True) (fun s => ((resetDevice s).wr MODE.STATE_CODE mRESET).wb MODE.BOOT_STAT_WAKE false) ∧
  occurs (.resetAssert true) (fun _ => True) (fun s => ((resetDevice s).wr MODE.STATE_CODE mRESET).ww MODE.BOOT_STAT 0) ∧
  (∀ s : State, (resetDevice s).flash = s.flash ∧ (resetDevice s).pending = s.pending ∧ (resetDevice s).free = s.free ∧
    (resetDevice s).tim = State.reset.tim ∧ (resetDevice s).rx = State.reset.rx ∧ (resetDevice s).scn = State.reset.scn) ∧
  occurs .resetRelease (fun s => s.mode = mRESET) (fun s => (s.wr MODE.STATE_CODE mBOOT).cntw MODE.BOOT_STAT_BOOTS) ∧
  occurs .resetRelease (fun s => s.mode ≠ mRESET) id ∧
  occurs .bootImageSelect (fun s => s.mode = mBOOT ∧ s.md.picked = none) (fun s => bootSelect (bootLocks s)) ∧
  occurs .bootImageSelect (fun s => s.mode ≠ mBOOT ∨ s.md.picked ≠ none) id ∧
  (∀ s p late t, late = (s.flash.trial && decide (3 < s.flash.tries + 1)) → p = (if late then 1 - s.flash.bootSlot % 2 else s.flash.bootSlot % 2) →
    t = (if s.flash.trial then s.onFlash (fun f => { f with tries := f.tries + 1, trial := !late }) else s) →
    bootSelect s = if slotCheck p t = 0 then bootPick p late t
      else if slotCheck (1 - p) t = 0 then bootPick (1 - p) true t
      else (t.wb MODE.BOOT_STAT_ROM_ERR true).wb FALT.FALT_STAT_FAULT_N true) ∧
  (∀ ms sl, occurs (.firmwareRunning ms) (fun s => s.mode = mBOOT ∧ s.md.picked = some sl ∧ s.rb FALT.PFAIL_STAT_ASSERTED = false) (fun s =>
    let t := (if s.flash.erasePend then eraseAll s else s).onFlash (fun f => { f with bootSeq := f.bootSeq + 1 })
    let t := flashShow (match t.flash.config with | some c => restoreConfig c t | none => t.wb MODE.COND_CFG_DEFAULT true)
    let t := t.onUma (fun u => { u with join := t.flash.hier })
    let t := icBegin (lwRecover (t.onFlt (fun f => { f with kickAt := t.clock })))
    let t := (t.wr MODE.BOOT_MS_MS (min 0xFFFF ms)).onMd (fun m => { m with startup := true, cond := t.rw MODE.COND })
    enterMode mCONFIG false (if t.rb MODE.BOOT_STAT_FALLBACK then t.raise 0x00 2 fnsAll else t))) ∧
  (∀ ms, occurs (.firmwareRunning ms) (fun s => s.mode ≠ mBOOT ∨ s.md.picked = none ∨ s.rb FALT.PFAIL_STAT_ASSERTED = true) id) ∧
  (∀ port frame pat, occurs (.wakeMatch port frame) (fun s => s.mode = mSTANDBY ∧ port = s.md.wakePort ∧ s.wakePat frame = some pat)
    (fun s => ((((bootBegin (resetDevice s)).wb MODE.BOOT_STAT_WAKE true).wr MODE.BOOT_STAT_WAKE_PORT port).wr
      MODE.BOOT_STAT_WAKE_PAT pat).wb MODE.COND_RESUMED true)) ∧
  (∀ port frame, occurs (.wakeMatch port frame) (fun s => s.mode ≠ mSTANDBY ∨ port ≠ s.md.wakePort ∨ s.wakePat frame = none) id) ∧
  (∀ (s : State) l pat, s.wakePat l = some pat → 64 ≤ l.length ∧ pat < 4 ∧ bit s.md.wakeEn pat = true ∧
    wakeHit (tget (fun _ => []) s.net.wake pat) l = true)

/-- Supplies, last words, the management processor and memory. An excursion of a supply and a bank's change are flagged; PFAIL_N stops the flash
and forms the last words, which the flash takes while it has a page for them; a glitch is recorded and the flash goes on; the watchdog and an
exception restart the processor, and the end of a restart begins its work; the error log is flushed once a second; a scrub pass counts itself, the
words it corrected and the hard words it found; an error without correction is counted, repaired or lost by the class of its memory (R406–R409,
R422–R424, R430, R432–R436, R626, R627). -/
def Obligations.MonitorsFollowTheirEvents : Prop :=
  (∀ rail, rail ≤ 5 → occurs (.railExc rail) (fun s => 3 ≤ s.mode ∧ bit (s.rd PWR.RAIL_STAT_EXC) rail = false)
    (fun s => ((s.wr PWR.RAIL_STAT_OK (if bit (s.rd PWR.RAIL_STAT_OK) rail then s.rd PWR.RAIL_STAT_OK - 2 ^ rail else s.rd PWR.RAIL_STAT_OK)).wr
      PWR.RAIL_STAT_EXC (s.rd PWR.RAIL_STAT_EXC + 2 ^ rail)).raise 0x01 0 fnsAll)) ∧
  (∀ rail, rail ≤ 5 → occurs (.railExc rail) (fun s => 3 ≤ s.mode ∧ bit (s.rd PWR.RAIL_STAT_EXC) rail = true)
    (fun s => s.wr PWR.RAIL_STAT_OK (if bit (s.rd PWR.RAIL_STAT_OK) rail then s.rd PWR.RAIL_STAT_OK - 2 ^ rail else s.rd PWR.RAIL_STAT_OK))) ∧
  (∀ b level, b ≤ 15 → level ≤ 3 → occurs (.bankChg b level) (fun s => fbits (s.rw PWR.BANK_STAT) (2 * b + 1) (2 * b) ≠ level)
    (fun s => (s.ww PWR.BANK_STAT (fput (s.rw PWR.BANK_STAT) (2 * b + 1) (2 * b) level)).raise 0x01 1 fnsAll)) ∧
  (∀ b level, occurs (.bankChg b level) (fun s => fbits (s.rw PWR.BANK_STAT) (2 * b + 1) (2 * b) = level) id) ∧
  occurs .pfailAssert (fun s => s.rb FALT.PFAIL_STAT_ASSERTED = false ∧ s.bankUp 0 = true)
    (fun s => (flashHalt (s.wb FALT.PFAIL_STAT_ASSERTED true)).onFlt (fun f => { f with lw := some s.lastWords })) ∧
  occurs .pfailAssert (fun s => s.rb FALT.PFAIL_STAT_ASSERTED = true ∨ s.bankUp 0 = false) id ∧
  (∀ r, occurs .lastwordsDone (fun s => s.flt.lw = some r ∧ s.flash.lwFree ≠ 0) (fun s =>
    let t := s.onFlash (fun f => { f with lw := f.lw ++ [(r, !s.rb FALT.PFAIL_STAT_ASSERTED)], lwFree := f.lwFree - 1 })
    ((t.wb FALT.PFAIL_STAT_LW_DONE true).wr FALT.PFAIL_STAT_LW_FREE t.flash.lwFree).onFlt (fun f => { f with lw := none }))) ∧
  occurs .lastwordsDone (fun s => s.flt.lw = none ∨ s.flash.lwFree = 0) id ∧
  (∀ us t u, occurs (.pfailGlitch us) (fun s => s.rb FALT.PFAIL_STAT_ASSERTED = true ∧
      t = ((flashGoOn ((s.wb FALT.PFAIL_STAT_ASSERTED false).wb FALT.PFAIL_STAT_GLITCH true)).raise 0x20 4 fnsAll).err 0x0701 0x20 0 us 0 ∧
      u = (if s.rb FALT.PFAIL_STAT_LW_DONE = true ∧ t.flt.lw = none then t.onFlash (fun f =>
        { f with lw := f.lw.dropLast ++ (f.lw.drop (f.lw.length - 1)).map (fun e => (e.1, true)) }) else t))
    (fun _ => if u.flash.lwFree = 0 then
      ((u.onFlt (fun f => { f with lw := none })).onFlash (fun f => { f with lw := f.lw.drop 15, lwFree := 15 })).wr FALT.PFAIL_STAT_LW_FREE 15
      else u)) ∧
  (∀ us, occurs (.pfailGlitch us) (fun s => s.rb FALT.PFAIL_STAT_ASSERTED = false) id) ∧
  happens .watchdogFire (fun s => s.fwUp = true ∧ s.flt.kickAt + 96 * s.rd FALT.WDT_CTL_TIMEOUT ≤ s.clock) (mgmtRestart 1) ∧
  happens .watchdogFire (fun s => s.fwUp = false ∨ s.clock < s.flt.kickAt + 96 * s.rd FALT.WDT_CTL_TIMEOUT) id ∧
  (∀ sram, happens (.mgmtException sram) (fun _ => True) (mgmtRestart (if sram then 2 else 3))) ∧
  (∀ cause (s : State), s.rb FALT.MGMT_STAT_HALT = true → mgmtRestart cause s = s) ∧
  (∀ cause (s : State) t0, s.rb FALT.MGMT_STAT_HALT = false → s.flt.restarts.length = 3 → s.flt.restarts.headD 0 = t0 →
    s.clock < t0 + 5760000 → mgmtRestart cause s = (s.wb FALT.MGMT_STAT_HALT true).err 0x0602 0x20 0 (s.rd FALT.MGMT_STAT_RESTARTS) 0) ∧
  (∀ cause (s : State), s.rb FALT.MGMT_STAT_HALT = false → s.flt.restarts.length < 3 → mgmtRestart cause s =
    (icStopAll ((mgmtForget ((((s.wb FALT.MGMT_STAT_RECOVERING true).wr FALT.MGMT_STAT_LAST_CAUSE cause).cnt FALT.MGMT_STAT_RESTARTS).onFlt
      (fun f => { f with restarts := f.restarts ++ [s.clock] }))).raise 0x20 3 fnsAll)).err 0x0601 0x20 0 cause 0) ∧
  happens .mgmtRestartDone (fun s => s.rb FALT.MGMT_STAT_RECOVERING = true)
    (fun s => mgmtBegin (icBegin ((s.wb FALT.MGMT_STAT_RECOVERING false).onFlt (fun f => { f with kickAt := s.clock })))) ∧
  happens .mgmtRestartDone (fun s => s.rb FALT.MGMT_STAT_RECOVERING = false) id ∧
  (∀ r l, happens .errataFlush (fun s => s.cmdUp = true ∧ s.flt.flushAt + 96000 ≤ s.clock ∧ s.unflushed = r :: l) (fun s =>
    let last := (r :: l).foldl (fun a r => max a r.seq) 0
    (logAppend (r :: l) ((s.onFlt (fun f => { f with flushAt := s.clock })).ww FALT.ERR_FLUSH_SEQ last)).onFlt (fun f =>
      { f with flushNext := last + 1 }))) ∧
  happens .errataFlush (fun s => s.cmdUp = true ∧ s.flt.flushAt + 96000 ≤ s.clock ∧ s.unflushed = [])
    (fun s => s.onFlt (fun f => { f with flushAt := s.clock })) ∧
  happens .errataFlush (fun s => s.cmdUp = false ∨ s.clock < s.flt.flushAt + 96000) id ∧
  (∀ x, happens (.scrubPass x) (fun _ => True) (fun s =>
    let t := (s.cntw FALT.SCRUB_STAT_PASSES).each (x.corr.filter (fun c => c.1 < 7)) (fun s c =>
      if c.1 = 0 ∧ c.2.1 ≤ 64 then (memCorr c.1 c.2.2 s).cntr SIG.ECC_CORR (i := c.2.1) (n := c.2.2) else memCorr c.1 c.2.2 s)
    let t := t.each (x.hard.filter (fun h => h.1 < 7)) hardWord
    if x.late then (t.wb FALT.SCRUB_STAT_LATE true).raise 0x20 5 fnsAll else t)) ∧
  (∀ g b node addr ok t, g ≤ 64 → b ≤ 1 → happens (.sramUncorrectable (.coeff g b node) addr ok) (fun s => s.banksOf g = some t ∧
      s.mapBit t (node / 4) = false) (fun s =>
    ((((memUncorr 0 s).cntr SIG.RECOMPUTES (i := g)).cntr SIG.ECC_SUB (i := g)).raise (0x40 + g) 9
      (((memUncorr 0 s).cntr SIG.RECOMPUTES (i := g)).sigFns g)).err 0x0101 (0x40 + g) 0 addr (64 * t + node / 4096) none
        (s.beyond kdWORD || s.sigBeyond g))) ∧
  (∀ g b node addr t, g ≤ 64 → b ≤ 1 → happens (.sramUncorrectable (.coeff g b node) addr true) (fun s => s.banksOf g = some t ∧
      s.mapBit t (node / 4) = true) (fun s =>
    ((((memUncorr 0 s).cntr SIG.RECOMPUTES (i := g)).cntr SIG.ECC_REBUILD (i := g)).raise (0x40 + g) 9
      (((memUncorr 0 s).cntr SIG.RECOMPUTES (i := g)).sigFns g)).err 0x0102 (0x40 + g) 0 addr (64 * t + node / 4096) none
        (s.beyond kdWORD || s.sigBeyond g))) ∧
  (∀ g b node addr t, g < 64 → b ≤ 1 → happens (.sramUncorrectable (.coeff g b node) addr false) (fun s => s.banksOf g = some t ∧
      s.mapBit t (node / 4) = true ∧
      (memLost (0x40 + g) 0 addr (64 * t + node / 4096) ((memUncorr 0 s).cntr SIG.RECOMPUTES (i := g))).inService g = true) (fun s =>
    (memLost (0x40 + g) 0 addr (64 * t + node / 4096) ((memUncorr 0 s).cntr SIG.RECOMPUTES (i := g))).onFlt (fun f =>
      { f with zero := f.zero ++ [(t, b, 4 * (node / 4))] }))) ∧
  (∀ i c addr, happens (.sramUncorrectable (.playout i c) addr true) (fun _ => True) (fun s => memRebuilt 0x20 1 addr noXout (memUncorr 1 s))) ∧
  (∀ i c addr, happens (.sramUncorrectable (.playout i c) addr false) (fun _ => True) (fun s => memLost 0x20 1 addr noXout
    ((memUncorr 1 s).onRx (fun r => { r with buf := r.buf.filter (fun e => e.1 != i * 2 ^ 64 + c), first := os r.first (i * 2 ^ 64 + c) none })))) ∧
  (∀ o n addr, happens (.sramUncorrectable (.delay o n) addr true) (fun _ => True) (fun s => memRebuilt 0x20 2 addr o (memUncorr 2 s))) ∧
  (∀ o n addr, happens (.sramUncorrectable (.delay o n) addr false) (fun _ => True)
    (fun s => memLost 0x20 2 addr o ((memUncorr 2 s).onXp (fun q => { q with hist := is q.hist (histKey o n) 0 })))) ∧
  (∀ pos addr, happens (.sramUncorrectable (.fifo pos) addr true) (fun _ => True) (fun s => memRebuilt 0x20 3 addr noXout (memUncorr 3 s))) ∧
  (∀ pos addr e, happens (.sramUncorrectable (.fifo pos) addr false) (fun s => (memLost 0x20 3 addr noXout (memUncorr 3 s)).scn.fifo[pos]? = some e)
    (fun s => editSync (editDrops e.fn 1 ((memLost 0x20 3 addr noXout (memUncorr 3 s)).onScn (fun c => { c with fifo := c.fifo.eraseIdx pos }))))) ∧
  (∀ addr, happens (.sramUncorrectable .twice addr true) (fun _ => True) (memUncorr 4)) ∧
  (∀ addr, happens (.sramUncorrectable .twice addr false) (fun _ => True) (fun s => memLost 0x20 4 addr noXout (memUncorr 4 s))) ∧
  (∀ port pos addr ok, port < 4 → happens (.sramUncorrectable (.ingress port pos) addr ok) (fun _ => True) (fun s =>
    let l := (tget (fun _ => []) s.net.backlog port).eraseIdx pos
    ((memUncorr 5 s).cntr NETP.RX_FCS_ERR (i := port)).onNet (fun n => { n with backlog := tset (fun _ => []) n.backlog port l }))) ∧
  (∀ port k pos addr ok f i leg due, happens (.sramUncorrectable (.txq port k pos) addr ok) (fun s =>
      ((memUncorr 5 s).txList (16 * port + k))[pos]? = some f ∧ f.kind = .audio i leg due)
    (fun s => txCnt 0x110 leg (some 2) i (txSet (16 * port + k) (((memUncorr 5 s).txList (16 * port + k)).eraseIdx pos) (memUncorr 5 s)))) ∧
  (∀ addr, happens (.sramUncorrectable .mgmt addr true) (fun _ => True) (fun s =>
    mgmtRestart 2 ((memUncorr 6 s).err 0x0105 0x20 6 addr 0 none (s.beyond kdWORD)))) ∧
  (∀ addr, happens (.sramUncorrectable .mgmt addr false) (fun _ => True) (fun s =>
    mgmtRestart 2 ((memUncorr 6 (s.onFlt (fun f => { f with savedBad := true }))).err 0x0105 0x20 6 addr 0 none
      ((s.onFlt (fun f => { f with savedBad := true })).beyond kdWORD)))) ∧
  (∀ m addr ok, happens (.sramUncorrectable m addr ok) (fun _ => True) (sramFault m addr ok))

/-- The guard. A load that compares equal has the guard tip in for the signature it loaded, or returns a tested signature to itself, two samples on;
one that does not is tried again; within the five sample periods of a load nothing is judged. A dwell of 2048 samples ends, counted, and after
signature 63 as a round; the built-in test of a replaced signature passes or fails (R412–R417). -/
def Obligations.GuardFollowsItsEvents : Prop :=
  (∀ g, happens (.guardLoadEnd true) (fun s => s.guardOf = g ∧ s.guard = gdLOADING ∧ s.flt.tip = none ∧ s.flt.loadAt + 5 ≤ s.clock)
    (fun s => (s.onFlt (fun f => { f with tip := some (g, s.tim.sample + 2, false) })).err 0x0203 (0x40 + g) 0 g ((s.tim.sample + 2) % 2 ^ 32))) ∧
  (∀ g, happens (.guardLoadEnd true) (fun s => s.guardOf = g ∧ s.guard = gdREPLACING ∧ s.sigFlt g = sfRETURNING ∧ s.flt.tip = none ∧
      s.flt.loadAt + 5 ≤ s.clock) (fun s => s.onFlt (fun f => { f with tip := some (g, s.tim.sample + 2, true) }))) ∧
  happens (.guardLoadEnd false) (fun s => (s.guard = gdLOADING ∨ (s.guard = gdREPLACING ∧ s.sigFlt s.guardOf = sfRETURNING)) ∧
    s.flt.tip = none ∧ s.flt.loadAt + 5 ≤ s.clock) (fun s => s.onFlt (fun f => { f with loadAt := s.clock })) ∧
  (∀ ok, happens (.guardLoadEnd ok) (fun s => s.clock < s.flt.loadAt + 5 ∨ s.flt.tip ≠ none ∨
    (s.guard ≠ gdLOADING ∧ (s.guard ≠ gdREPLACING ∨ s.sigFlt s.guardOf ≠ sfRETURNING))) id) ∧
  happens .patrolDwellEnd (fun s => s.guard = gdPATROL ∧ s.flt.tip = none ∧ s.flt.dwellAt + 2048 ≤ s.clock ∧ s.guardOf ≠ 63)
    (fun s => dwellEnd (s.cntr SIG.PATROL_PASSES (i := s.guardOf))) ∧
  happens .patrolDwellEnd (fun s => s.guard = gdPATROL ∧ s.flt.tip = none ∧ s.flt.dwellAt + 2048 ≤ s.clock ∧ s.guardOf = 63)
    (fun s => (dwellEnd (s.cntr SIG.PATROL_PASSES (i := 63))).cnt FALT.PATROL_STAT_ROUNDS) ∧
  happens .patrolDwellEnd (fun s => s.guard ≠ gdPATROL ∨ s.flt.tip ≠ none ∨ s.clock < s.flt.dwellAt + 2048) id ∧
  (∀ g, g ≤ 63 → happens (.bistEnd g true) (fun s => s.sigFlt g = sfREPLACED) (fun s =>
    let t := s.wr SIG.FLT_STAT_STATE sfPASSED (i := g)
    (t.raise (0x40 + g) 12 (s.sigFns g)).err 0x0207 (0x40 + g) 0 g 1)) ∧
  (∀ g, g ≤ 63 → happens (.bistEnd g false) (fun s => s.sigFlt g = sfREPLACED) (fun s =>
    let t := s.wr SIG.FLT_STAT_STATE sfFAILED (i := g)
    (t.raise (0x40 + g) 12 (s.sigFns g)).err 0x0207 (0x40 + g) 0 g 0)) ∧
  (∀ g ok, happens (.bistEnd g ok) (fun s => s.sigFlt g ≠ sfREPLACED) id)

/-! ## Rows of the host interface -/

/-- Functions. PF0's reset stops what it runs, masks its vectors and clears Bus Master Enable; a tenant's does so too, counts, cancels what it armed,
makes it RESETTING and, where FLR_MODE asks for it, begins its ramp at the next tick boundary; of a function without a tenant it is reported to
PF0; a PCIe reset does so for every function; the end of a tenant's reset brings it back ACTIVE; clearing Bus Master Enable stops the rings that
run; a ramp of 256 samples ends in silence; a reclaim that is due takes its objects back, and a destruction then ends the tenant (R488, R489,
R513–R519). -/
def Obligations.FunctionsFollowTheirEvents : Prop :=
  occurs (.flr 0) (fun _ => True) (fun s => (fnVectors 0 (fnStop 0 s)).onHost (fun h => { h with bmOff := bs h.bmOff 0 true })) ∧
  (∀ fn, 0 < fn → fn < 8 → occurs (.flr fn) (fun s => s.tenant fn = 0) (fun s =>
    (((fnVectors fn (fnStop fn s)).onHost (fun h => { h with bmOff := bs h.bmOff fn true })).cnt TNT.TNT_STAT_FLRS (i := fn)).raise
      (0x25 + fn) 1 fnsPF0)) ∧
  (∀ fn, 0 < fn → fn < 8 → occurs (.flr fn) (fun s => s.tenant fn ≠ 0) (fun s =>
    let t := fnCancel fn (((fnVectors fn (fnStop fn s)).onHost (fun h => { h with bmOff := bs h.bmOff fn true })).cnt TNT.TNT_STAT_FLRS (i := fn))
    let t := (if s.tenant fn = 1 then t.wr TNT.TNT_CTL_STATE 2 (i := fn) else t).onHost (fun h => { h with inFlr := bs h.inFlr fn true })
    if t.rb TNT.TNT_CTL_FLR_MODE (i := fn) && (og t.host.rampOut fn).isNone &&
        !(t.rb TNT.TNT_STAT_SILENCED (i := fn) && (og t.host.rampIn fn).isNone) then
      t.onHost (fun h => { h with rampOut := os h.rampOut fn (some (32 * t.nextTick)) })
    else t)) ∧
  (∀ fn, 7 < fn → occurs (.flr fn) (fun _ => True) id) ∧
  (∀ fn, 0 < fn → occurs (.flrComplete fn) (fun s => bg s.host.inFlr fn = true) (fun s =>
    let t := s.onHost (fun h => { h with inFlr := bs h.inFlr fn false })
    (if t.tenant fn = 2 then t.wr TNT.TNT_CTL_STATE 1 (i := fn) else t).raise (0x25 + fn) 1 (fnsOwn fn))) ∧
  (∀ fn, occurs (.flrComplete fn) (fun s => fn = 0 ∨ bg s.host.inFlr fn = false) id) ∧
  occurs .pcieReset (fun _ => True) (fun s => flr 7 (flr 6 (flr 5 (flr 4 (flr 3 (flr 2 (flr 1 (flr 0 s)))))))) ∧
  (∀ fn, fn < 8 → occurs (.busMasterClear fn) (fun _ => True) (fun s =>
    let t := (s.onHost (fun h => { h with bmOff := bs h.bmOff fn true })).each (List.range 8)
      (fun s r => if s.rd CMDQ.CQ_STAT_STATE (rk fn r) = 1 then cqError (rk fn r) 4 s else s)
    t.each (List.range 16) (fun s q => if s.ringRuns (rk fn q) then ringError fn q s else s))) ∧
  (∀ fn st, happens (.rampOutSilenced fn) (fun s => og s.host.rampOut fn = some st ∧ st + 256 ≤ s.tim.sample + 1)
    (fun s => (s.wb TNT.TNT_STAT_SILENCED true (i := fn)).onHost (fun h => { h with rampOut := os h.rampOut fn none, rampIn := os h.rampIn fn none }))) ∧
  (∀ fn st, happens (.rampOutSilenced fn) (fun s => og s.host.rampOut fn = some st ∧ s.tim.sample + 1 < st + 256) id) ∧
  (∀ fn, happens (.rampOutSilenced fn) (fun s => og s.host.rampOut fn = none) id) ∧
  (∀ fn, happens (.reclaimComplete fn) (fun _ => True) (fun s =>
    let due := s.host.reclaims.filter (fun r => r.fn == fn && decide (r.start + 256 ≤ s.tim.sample + 1))
    let t := (s.each due (fun s r => s.each r.items (takeBack fn))).onHost (fun h => { h with
      reclaims := h.reclaims.filter (fun r => !(r.fn == fn && decide (r.start + 256 ≤ s.tim.sample + 1))) })
    if due.any (·.destroy) then tenantGone fn t else t))

/-- Rings, blocks and messages. While commands are taken, the next entry in the order of R484 starts: one whose opcode no table holds completes at
once with BAD_OPCODE, an ORDERED one waits for the entries of its ring before it, and one that the DMA window keeps out stops its ring. Completions
coalesce into one message; an error stops its ring; a message is sent where its vector is open, waits where it is masked, and is sent as the mask
goes. A fetched descriptor takes its buffer and its place, a transmit one as a frame; one that names a buffer it may not is completed so; a block
of playback words is taken at its tick, and a block of capture words is written back at the end of its own (R481, R484–R488, R490, R503–R505,
R509, R530). -/
def Obligations.RingsFollowTheirEvents : Prop :=
  (∀ x, happens (.commandFetch x) (fun s => s.cmdUp = false ∨ (s.cmd.round ++ fetchRound).dropWhile (fun f => !s.fnReady f) = []) id) ∧
  (∀ x fn r rest k, opcodeKnown x.opcode = true → k = rk fn r → happens (.commandFetch x) (fun s => s.cmdUp = true ∧
      (s.cmd.round ++ fetchRound).dropWhile (fun f => !s.fnReady f) = fn :: rest ∧ s.ringFor fn = some r ∧
      s.dmaOk fn (s.rd64 CMDQ.SQ_BASE_HI CMDQ.SQ_BASE_LO k + 64 * s.rd CMDQ.SQ_HEAD_IDX k) 64 = true ∧
      (x.ordered = true → s.startedIn fn r = 0) ∧ (32 < x.paramLen → x.paramLen ≤ 65536 → s.dmaOk fn x.paramAddr x.paramLen = true)) (fun s =>
    let t := s.onHost (fun h => { h with ordWait := bs h.ordWait k false })
    (t.wr CMDQ.SQ_HEAD_IDX ((s.rd CMDQ.SQ_HEAD_IDX k + 1) % ringSize (t.rd CMDQ.SIZES_SQ_SIZE k)) k).onCmd (fun c => { c with
      started := c.started ++ [⟨fn, r, x⟩], lastRing := ns c.lastRing fn (r + 1)
      round := if fetchRound.length ≤ rest.length then rest.take (rest.length - fetchRound.length) else rest }))) ∧
  (∀ x fn r rest k, opcodeKnown x.opcode = false → k = rk fn r → happens (.commandFetch x) (fun s => s.cmdUp = true ∧
      (s.cmd.round ++ fetchRound).dropWhile (fun f => !s.fnReady f) = fn :: rest ∧ s.ringFor fn = some r ∧
      s.dmaOk fn (s.rd64 CMDQ.SQ_BASE_HI CMDQ.SQ_BASE_LO k + 64 * s.rd CMDQ.SQ_HEAD_IDX k) 64 = true ∧
      (x.ordered = true → s.startedIn fn r = 0) ∧ (32 < x.paramLen → x.paramLen ≤ 65536 → s.dmaOk fn x.paramAddr x.paramLen = true)) (fun s =>
    let t := s.onHost (fun h => { h with ordWait := bs h.ordWait k false })
    complete { tr := .pcie r, fn := fn, tag := x.tag, lenOk := true, bytes := [], auth := none, respMax := 0 } stBAD_OPCODE 0 [] false
      ((t.wr CMDQ.SQ_HEAD_IDX ((s.rd CMDQ.SQ_HEAD_IDX k + 1) % ringSize (t.rd CMDQ.SIZES_SQ_SIZE k)) k).onCmd (fun c => { c with
        started := c.started ++ [⟨fn, r, x⟩], lastRing := ns c.lastRing fn (r + 1)
        round := if fetchRound.length ≤ rest.length then rest.take (rest.length - fetchRound.length) else rest })))) ∧
  (∀ x fn r rest k, k = rk fn r → happens (.commandFetch x) (fun s => s.cmdUp = true ∧
      (s.cmd.round ++ fetchRound).dropWhile (fun f => !s.fnReady f) = fn :: rest ∧ s.ringFor fn = some r ∧
      s.dmaOk fn (s.rd64 CMDQ.SQ_BASE_HI CMDQ.SQ_BASE_LO k + 64 * s.rd CMDQ.SQ_HEAD_IDX k) 64 = false) (fun s => cqError k 3 (dmaErr fn s))) ∧
  (∀ x fn r rest k, x.ordered = true → k = rk fn r → happens (.commandFetch x) (fun s => s.cmdUp = true ∧
      (s.cmd.round ++ fetchRound).dropWhile (fun f => !s.fnReady f) = fn :: rest ∧ s.ringFor fn = some r ∧
      s.dmaOk fn (s.rd64 CMDQ.SQ_BASE_HI CMDQ.SQ_BASE_LO k + 64 * s.rd CMDQ.SQ_HEAD_IDX k) 64 = true ∧ 0 < s.startedIn fn r)
    (fun s => s.onHost (fun h => { h with ordWait := bs h.ordWait k true }))) ∧
  (∀ fn r us, fn < 8 → r < 8 → happens (.completionInterrupt fn r us) (fun s => ng s.host.coal (rk fn r) ≠ 0 ∧
      (s.rd CMDQ.CQ_CTL_COAL_N (rk fn r) ≤ ng s.host.coal (rk fn r) ∨ s.rd CMDQ.CQ_CTL_COAL_US (rk fn r) ≤ us))
    (fun s => (s.onHost (fun h => { h with coal := ns h.coal (rk fn r) 0 })).msi fn (s.rd CMDQ.CQ_CTL_VECTOR (rk fn r)))) ∧
  (∀ fn r us, happens (.completionInterrupt fn r us) (fun s => ng s.host.coal (rk fn r) = 0 ∨
      (ng s.host.coal (rk fn r) < s.rd CMDQ.CQ_CTL_COAL_N (rk fn r) ∧ us < s.rd CMDQ.CQ_CTL_COAL_US (rk fn r))) id) ∧
  (∀ fn r cause, fn < 8 → r < 8 → 0 < cause → cause ≤ 4 → happens (.ringError fn r cause) (fun s => s.rd CMDQ.CQ_STAT_STATE (rk fn r) = 1)
    (fun s => (s.wr CMDQ.CQ_STAT_STATE 2 (rk fn r)).wr CMDQ.CQ_STAT_ERR_CAUSE cause (rk fn r))) ∧
  (∀ fn r cause, happens (.ringError fn r cause) (fun s => s.rd CMDQ.CQ_STAT_STATE (rk fn r) ≠ 1) id) ∧
  (∀ fn q, fn < 8 → q < 16 → happens (.dmaError fn true q) (fun s => s.ringRuns (rk fn q) = true) (fun s => ringError fn q (dmaErr fn s))) ∧
  (∀ fn r, fn < 8 → r < 8 → happens (.dmaError fn false r) (fun s => s.rd CMDQ.CQ_STAT_STATE (rk fn r) = 1) (fun s => cqError (rk fn r) 3 (dmaErr fn s))) ∧
  (∀ fn q, happens (.dmaError fn true q) (fun s => s.ringRuns (rk fn q) = false) id ∧
    happens (.dmaError fn false q) (fun s => s.rd CMDQ.CQ_STAT_STATE (rk fn q) ≠ 1) id) ∧
  (∀ fn v t, happens .msixMessage (fun s => s.host.msiDue = (fn, v) :: t ∧ bg s.host.msiOpen (64 * fn + v) = true)
    (fun s => s.onHost (fun h => { h with msiDue := t, msiSent := some (fn, v) }))) ∧
  (∀ fn v t, happens .msixMessage (fun s => s.host.msiDue = (fn, v) :: t ∧ bg s.host.msiOpen (64 * fn + v) = false)
    (fun s => s.onHost (fun h => { h with msiDue := t, msiPend := bs h.msiPend (64 * fn + v) true }))) ∧
  happens .msixMessage (fun s => s.host.msiDue = []) id ∧
  (∀ fn v, fn < 8 → v ≤ 63 → happens (.msixUnmask fn v) (fun s => bg s.host.msiPend (64 * fn + v) = true) (fun s => s.onHost (fun h => { h with
    msiOpen := bs h.msiOpen (64 * fn + v) true, msiPend := bs h.msiPend (64 * fn + v) false, msiSent := some (fn, v) }))) ∧
  (∀ fn v, fn < 8 → v ≤ 63 → happens (.msixUnmask fn v) (fun s => bg s.host.msiPend (64 * fn + v) = false) (fun s => s.onHost (fun h => { h with
    msiOpen := bs h.msiOpen (64 * fn + v) true, msiPend := bs h.msiPend (64 * fn + v) false }))) ∧
  (∀ fn q d, happens (.descriptorFetch fn q d) (fun s => s.ringRuns (rk fn q) = false ∨ s.rd HOST.HEAD_IDX (rk fn q) = ng s.host.dmaTail (rk fn q)) id) ∧
  (∀ fn q d, fn < 8 → q < 16 → happens (.descriptorFetch fn q d) (fun s => s.ringRuns (rk fn q) = true ∧
      s.rd HOST.HEAD_IDX (rk fn q) ≠ ng s.host.dmaTail (rk fn q) ∧
      s.dmaOk fn (s.rd64 HOST.BASE_HI HOST.BASE_LO (rk fn q) + 32 * s.rd HOST.HEAD_IDX (rk fn q)) 32 = false)
    (fun s => ringError fn q (dmaErr fn s))) ∧
  (∀ fn q d u kd serve, fn < 8 → q < 16 → happens (.descriptorFetch fn q d) (fun s => let k := rk fn q
      s.ringRuns k = true ∧ s.rd HOST.HEAD_IDX k ≠ ng s.host.dmaTail k ∧ s.ringKind k = kd ∧
      s.dmaOk fn (s.rd64 HOST.BASE_HI HOST.BASE_LO k + 32 * s.rd HOST.HEAD_IDX k) 32 = true ∧
      serve = (if isAudio kd then s.startTick k + ng s.host.fetched k else 0) ∧
      u = (s.wr HOST.HEAD_IDX ((s.rd HOST.HEAD_IDX k + 1) % s.rd HOST.SIZE_N k) k).onHost (fun h =>
        { h with fetched := ns h.fetched k (ng s.host.fetched k + 1) }))
    (fun _ => match u.misuse fn d.handle with
      | some st => descFlush fn q (descSet (rk fn q) (u.descList (rk fn q) ++ [{ d := d, serve := serve, st := st }]) (logMisuse fn st q d.handle u))
      | none =>
        let t := bufHold fn d.handle true u
        let x : Desc := { d := d, serve := serve, st := stOK }
        if kd = kTX then netTx fn q x t
        else if kd ≠ kRX ∧ (if kd = kPB then decide (serve ≤ t.accTick + 1) else decide (serve + 1 < t.accTick)) = true then
          descFlush fn q (descSet (rk fn q) (t.descList (rk fn q) ++ [{ x with st := stBUF_LATE }]) (tickLate (rk fn q) t))
        else descSet (rk fn q) (t.descList (rk fn q) ++ [x]) t)) ∧
  (∀ fn q ws d l, fn < 8 → q < 16 → happens (.playbackFetch fn q ws) (fun s => s.descList (rk fn q) = d :: l ∧ s.ringRuns (rk fn q) = true ∧
      s.ringKind (rk fn q) = kPB ∧ d.st = stOK ∧ d.serve = s.tick + 1 ∧ ws.length = 32 * (s.ringChans fn q (s.tick + 1)).length ∧
      s.blockBytes fn q (s.tick + 1) ≤ s.offered fn d ∧ s.bufDma fn d (s.blockBytes fn q (s.tick + 1)) = true) (fun s =>
    let k := rk fn q
    let pb := if hostZero s.mode then s.host.pbNext
      else pbSpread (s.rd HOST.RING_CTL_PACK k) (s.ringChans fn q (s.tick + 1)) ws s.host.pbNext
    descFlush fn q (writeBack fn q d { plainWb fn q d stOK s with
      lenDone := s.blockBytes fn q (s.tick + 1), maskChg := s.maskNew fn q (s.tick + 1) }
      ((descSet k l s).onHost (fun h => { h with pbNext := pb }))))) ∧
  (∀ fn q ws, happens (.playbackFetch fn q ws) (fun s => s.descList (rk fn q) = [] ∨ s.ringRuns (rk fn q) = false) id) ∧
  (∀ fn q ws d l t, fn < 8 → q < 16 → happens (.captureWriteback fn q) (fun s => s.descList (rk fn q) = d :: l ∧
      og s.host.capLast (rk fn q) = some ws ∧ s.ringKind (rk fn q) = kCAP ∧ s.ringState (rk fn q) ≠ rsERROR ∧ d.st = stOK ∧
      d.serve + 1 = s.tick ∧ t = s.onHost (fun h => { h with capLast := os h.capLast (rk fn q) none }) ∧
      ws.length * packBytes (s.rd HOST.RING_CTL_PACK (rk fn q)) ≤ t.offered fn d ∧
      t.bufDma fn d (ws.length * packBytes (s.rd HOST.RING_CTL_PACK (rk fn q))) = true) (fun s =>
    let k := rk fn q
    let pack := s.rd HOST.RING_CTL_PACK k
    descFlush fn q (writeBack fn q d { plainWb fn q d stOK t with lenDone := ws.length * packBytes pack, maskChg := t.maskNew fn q d.serve }
      ((descSet k l t).onHost (fun h => { h with lastData := (ws.flatMap (packWord pack)).map (·.toNat) }))))) ∧
  (∀ fn q, happens (.captureWriteback fn q) (fun s => og s.host.capLast (rk fn q) = none) id)

/-! ## Rows of the SPI target, the serial interfaces and the flash -/

/-- The SPI target. A transaction counts. A register transfer writes or reads word by word, and what is read is returned with its CRC. The status
byte is returned and clears the last error. A command joins the queue, an unknown opcode completes with BAD_OPCODE or waits for a place, and a full
queue or firmware that is down answers BUSY, or the transaction is dropped where no place is left. The oldest completion is read, a length of 0
where none waits, and is acknowledged, after which a refusal that waits for a place takes it. An image is gathered in the recovery state, and a good
one goes into slot A. A transaction that is not of the target's state, or whose fields do not fit, is dropped and counted, as is one that fails its
check, and a target that is off does nothing (R458, R528, R581–R585). -/
def Obligations.SpiTransactionsAct : Prop :=
  (∀ g ofs ws, ofs < 2 ^ 24 → occurs (.spiRegWrite g ofs ws) (fun s => s.spiOn = true ∧ s.recovery = false)
    (fun s => spiWords g ofs ws (spiTrans s))) ∧
  (∀ g ofs ws, occurs (.spiRegWrite g ofs ws) (fun s => s.spiOn = true ∧ (s.recovery = true ∨ 2 ^ 24 ≤ ofs)) (fun s => spiDrop false (spiTrans s))) ∧
  (∀ ofs n, ofs < 2 ^ 24 → 1 ≤ n → n ≤ 1024 → occurs (.spiRegRead ofs n) (fun s => s.spiOn = true ∧ s.recovery = false) (fun s =>
    let r := spiReads n (ofs / 4 * 4) (spiTrans s) []
    spiOut (r.1 ++ natBE 4 (crc32 ([0x0B] ++ natBE 3 ofs ++ natBE 2 n ++ r.1))) r.2)) ∧
  (∀ ofs n, occurs (.spiRegRead ofs n) (fun s => s.spiOn = true ∧ (s.recovery = true ∨ 2 ^ 24 ≤ ofs ∨ n = 0 ∨ 1024 < n))
    (fun s => spiDrop false (spiTrans s))) ∧
  occurs .spiStatus (fun s => s.spiOn = true)
    (fun s => spiOut [BitVec.ofNat 8 s.spiStatus] ((spiTrans s).onLs (fun x => { x with lastErr := false }))) ∧
  (∀ b e, e = ({ tr := .spi, fn := 0, tag := leNat ((b.drop 4).take 2), lenOk := true, bytes := b, auth := none, respMax := 0 } : Env) →
    16 ≤ b.length → b.length ≤ 65552 →
    (opcodeKnown (leNat (b.take 2)) = true → occurs (.cmdSend b) (fun s => s.spiOn = true ∧ s.recovery = false ∧ 3 ≤ s.mode ∧
        s.fwUp = true ∧ s.cmd.spiQ < 64) (fun s => (spiTrans s).onCmd (fun c => { c with spiQ := c.spiQ + 1 }))) ∧
    (opcodeKnown (leNat (b.take 2)) = false → occurs (.cmdSend b) (fun s => s.spiOn = true ∧ s.recovery = false ∧ 3 ≤ s.mode ∧
        s.fwUp = true ∧ s.cmd.spiQ < 64 ∧ s.spiPlace = true)
      (fun s => complete e stBAD_OPCODE 0 [] false ((spiTrans s).onCmd (fun c => { c with spiQ := c.spiQ + 1 })))) ∧
    (opcodeKnown (leNat (b.take 2)) = false → occurs (.cmdSend b) (fun s => s.spiOn = true ∧ s.recovery = false ∧ 3 ≤ s.mode ∧
        s.fwUp = true ∧ s.cmd.spiQ < 64 ∧ s.spiPlace = false)
      (fun s => (spiTrans s).onCmd (fun c => { c with spiQ := c.spiQ + 1, spiBad := c.spiBad ++ [e] }))) ∧
    occurs (.cmdSend b) (fun s => s.spiOn = true ∧ s.recovery = false ∧ 3 ≤ s.mode ∧ (s.fwUp = false ∨ 64 ≤ s.cmd.spiQ) ∧ s.spiPlace = true)
      (fun s => complete e stBUSY 0 [] false ((spiTrans s).onCmd (fun c => { c with spiQ := c.spiQ + 1 }))) ∧
    occurs (.cmdSend b) (fun s => s.spiOn = true ∧ s.recovery = false ∧ (s.mode < 3 ∨ ((s.fwUp = false ∨ 64 ≤ s.cmd.spiQ) ∧ s.spiPlace = false)))
      (fun s => spiDrop false (spiTrans s))) ∧
  (∀ b, occurs (.cmdSend b) (fun s => s.spiOn = true ∧ (s.recovery = true ∨ b.length < 16 ∨ 65552 < b.length)) (fun s => spiDrop false (spiTrans s))) ∧
  (∀ c l, occurs .respRead (fun s => s.spiOn = true ∧ s.recovery = false ∧ s.cmd.spi = c :: l) (fun s =>
    spiOut (natBE 4 (cplBytes c).length ++ cplBytes c ++ natBE 4 (crc32 (0x11 :: (natBE 4 (cplBytes c).length ++ cplBytes c)))) (spiTrans s))) ∧
  occurs .respRead (fun s => s.spiOn = true ∧ s.recovery = false ∧ s.cmd.spi = [])
    (fun s => spiOut (natBE 4 0 ++ natBE 4 (crc32 (0x11 :: natBE 4 0))) (spiTrans s)) ∧
  occurs .respAck (fun s => s.spiOn = true ∧ s.recovery = false ∧ s.cmd.spiBad = [])
    (fun s => (spiTrans s).onCmd (fun c => { c with spi := c.spi.drop 1 })) ∧
  (∀ e t, occurs .respAck (fun s => s.spiOn = true ∧ s.recovery = false ∧ s.cmd.spiBad = e :: t ∧ (s.cmd.spi.drop 1).length + s.cmd.spiRun < 64)
    (fun s => complete e stBAD_OPCODE 0 [] false ((spiTrans s).onCmd (fun c => { c with spi := c.spi.drop 1, spiBad := t })))) ∧
  occurs .respRead (fun s => s.spiOn = true ∧ s.recovery = true) (fun s => spiDrop false (spiTrans s)) ∧
  occurs .respAck (fun s => s.spiOn = true ∧ s.recovery = true) (fun s => spiDrop false (spiTrans s)) ∧
  (∀ ofs d, ofs % 256 = 0 → 256 ≤ d.length → d.length ≤ 4096 → d.length % 256 = 0 → ofs + d.length ≤ 2 ^ 24 → occurs (.imageWrite ofs d)
    (fun s => s.spiOn = true ∧ s.recovery = true) (fun s => (spiTrans s).onLs (fun x => { x with
      recBuf := ((List.range d.length).zip d).foldl (fun t b => os t (ofs + b.1) (some b.2)) x.recBuf }))) ∧
  (∀ ofs d, occurs (.imageWrite ofs d) (fun s => s.spiOn = true ∧ (s.recovery = false ∨ ofs % 256 ≠ 0 ∨ d.length < 256 ∨ 4096 < d.length ∨
    d.length % 256 ≠ 0 ∨ 2 ^ 24 < ofs + d.length)) (fun s => spiDrop false (spiTrans s))) ∧
  (∀ len, 2 ^ 24 < len → occurs (.imageEnd len) (fun s => s.spiOn = true ∧ s.recovery = true)
    (fun s => (recGone (spiTrans s)).onLs (fun x => { x with lastErr := true }))) ∧
  (∀ len, len ≤ 2 ^ 24 → occurs (.imageEnd len) (fun s => s.spiOn = true ∧ s.recovery = true) (fun s =>
    let t := recGone ({ spiTrans s with free := (spiTrans s).free + len })
    if imageCheck ((spiTrans s).recImage len) ({ spiTrans s with free := (spiTrans s).free + len }) = 0 then
      faultPin ((versionShow (t.onFlash (fun f => { f with image := os f.image 0 (some ((spiTrans s).recImage len)) }))).wb
        MODE.BOOT_STAT_ROM_ERR false)
    else t.onLs (fun x => { x with lastErr := true }))) ∧
  (∀ len, occurs (.imageEnd len) (fun s => s.spiOn = true ∧ s.recovery = false) (fun s => spiDrop false (spiTrans s))) ∧
  occurs (.spiTransactionDrop true) (fun s => s.spiOn = true)
    (fun s => (((spiTrans s).cntr LSIO.SPI_CRC_ERR).onLs (fun x => { x with lastErr := true })).raise 0x24 4 fnsAll) ∧
  occurs (.spiTransactionDrop false) (fun s => s.spiOn = true)
    (fun s => (((spiTrans s).cntr LSIO.SPI_FRAME_ERR).onLs (fun x => { x with lastErr := true })).raise 0x24 4 fnsAll) ∧
  (∀ g ofs ws n b d len crc, ∀ c ∈ [Instr.spiRegWrite g ofs ws, .spiRegRead ofs n, .spiStatus, .cmdSend b, .respRead, .respAck, .imageWrite ofs d,
    .imageEnd len, .spiTransactionDrop crc], occurs c (fun s => s.spiOn = false) id)

/-- UARTs, I²C and flash. A UART takes the sub-samples of RXD in turn while its pins have power: a falling edge starts a frame, a start bit that is
high by the majority of its middle sub-samples is noise, and the frame ends with the middle of its first stop bit; a full receive FIFO drops and
counts a byte, another byte is stored, with its error flags; a sent byte's bits are driven and leave the FIFO, which takes further bytes that wait.
The end of a transfer completes its command with the outcome, the segment, the bytes transferred and the bytes read, counts a NACK or a time-out,
and checks the bus after a time-out. A check of the bus ends free, or freed by a pulse and counted, or isolates the bus. A higher flash operation
suspends a lower one, which resumes after it, and neither happens while power fails; one that ends completes its command with OK or HW_FAULT. A trial
image that runs long enough is confirmed. A staging session left alone for a minute ends (R543, R546, R573–R575, R577–R580, R586, R589). -/
def Obligations.SerialAndFlashFollowTheirEvents : Prop :=
  (∀ u rxd, u ≤ 1 → happens (.uartFrameRx u rxd) (fun s => s.bankUp 3 = true) (fun s => s.each rxd (uartSample u))) ∧
  (∀ u rxd, happens (.uartFrameRx u rxd) (fun s => s.bankUp 3 = false) id) ∧
  (∀ u b s t, t = (s : State).onLs (fun x => { x with rxLow := bs x.rxLow u (!b) }) →
    (s.rb LSIO.UART_CTL_EN u = true → tget (fun _ => []) s.ls.rxPart u = [] → bg s.ls.rxLow u = false → b = false →
      uartSample u s b = uartPart u [b] t) ∧
    (∀ l, s.rb LSIO.UART_CTL_EN u = true → tget (fun _ => []) s.ls.rxPart u = l → l.length = 9 → bitTaken (l ++ [b]) 0 = true →
      uartSample u s b = uartPart u [] t) ∧
    (∀ l, s.rb LSIO.UART_CTL_EN u = true → tget (fun _ => []) s.ls.rxPart u = l → (l.length < 9 ∨ (l.length = 9 ∧ bitTaken (l ++ [b]) 0 = false) ∨
        (9 < l.length ∧ l.length + 1 < 16 * (1 + s.dataBits u + s.parityBits u) + 10)) → l ≠ [] → uartSample u s b = uartPart u (l ++ [b]) t) ∧
    (∀ l, s.rb LSIO.UART_CTL_EN u = true → tget (fun _ => []) s.ls.rxPart u = l →
      l.length + 1 = 16 * (1 + s.dataBits u + s.parityBits u) + 10 → uartSample u s b = uartTake u (l ++ [b]) (uartPart u [] t)) ∧
    (s.rb LSIO.UART_CTL_EN u = false → uartSample u s b = uartPart u [] t)) ∧
  (∀ u d bad low brk s, 64 ≤ ((s : State).uartRx u).length →
    uartRecv u d bad low brk s = uartSticky LSIO.UART_STAT_RX_OVF u (s.cntr LSIO.UART_RX_DROPS u)) ∧
  (∀ u d bad low brk s, ((s : State).uartRx u).length < 64 → uartRecv u d bad low brk s =
    let t := uartRxPut u (s.uartRx u ++ [(d, brk || bad || low)]) s
    let t := if brk then uartSticky LSIO.UART_STAT_BREAK u t
      else let v := if bad then uartSticky LSIO.UART_STAT_PARITY_ERR u t else t
        if low then uartSticky LSIO.UART_STAT_FRAME_ERR u v else v
    if (s.uartRx u).length + 1 = t.rd LSIO.UART_RX_THRESH_N u then t.raise 0x24 1 fnsAll else t) ∧
  (∀ u b l, u ≤ 1 → happens (.uartFrameTx u) (fun s => s.rb LSIO.UART_CTL_EN u = true ∧ s.uartTx u = b :: l ∧ s.fwUp = true)
    (fun s => uartPump u (uartTxPut u l (s.onLs (fun x => { x with txd := tset (fun _ => []) x.txd u (s.frameBits u b) }))))) ∧
  (∀ u b l, u ≤ 1 → happens (.uartFrameTx u) (fun s => s.rb LSIO.UART_CTL_EN u = true ∧ s.uartTx u = b :: l ∧ s.fwUp = false)
    (fun s => uartTxPut u l (s.onLs (fun x => { x with txd := tset (fun _ => []) x.txd u (s.frameBits u b) })))) ∧
  (∀ u, happens (.uartFrameTx u) (fun s => s.rb LSIO.UART_CTL_EN u = false ∨ s.uartTx u = []) id) ∧
  (∀ i out seg n data lines x rest, i ≤ 3 → out ≤ 5 → out ≠ 4 → xferFits x.segs out seg n data.length = true →
    happens (.i2cTransferDone i out seg n data lines) (fun s => s.fwUp = true ∧ bg s.ls.check i = false ∧ s.icState i = icBUSY ∧
      s.xfersOf i = x :: rest) (fun s =>
    let t := s.wr LSIO.I2C_STAT_LINES (lines % 4) i
    let t := icFree i (xferSet i rest (if out = 1 ∨ out = 2 then t.cntr LSIO.I2C_NACKS i else if out = 3 then t.cntr LSIO.I2C_TIMEOUTS i else t))
    complete x.env stOK (out + 2 ^ 8 * seg + 2 ^ 16 * n) (leWords data) true (if out = 3 then icCheck i t else t))) ∧
  (∀ i out seg n data lines, happens (.i2cTransferDone i out seg n data lines) (fun s => s.fwUp = false ∨ bg s.ls.check i = true ∨
    s.icState i ≠ icBUSY ∨ s.xfersOf i = []) id) ∧
  (∀ i scl sda pulses, i ≤ 3 → happens (.i2cBusCheck i ⟨scl, sda⟩ pulses) (fun s => s.fwUp = true ∧ s.rb LSIO.I2C_CTL_EN i = true ∧
      s.icState i ≠ icOFF ∧ (s.icState i ≠ icISOLATED ∨ bg s.ls.check i = true)) (fun s =>
    if scl = false then icIsolate i ((s.wr LSIO.I2C_STAT_LINES (2 * b2n sda) i).wb LSIO.I2C_STAT_STUCK_SCL true i)
    else if sda = true then icFree i (icChecked i 0 (s.wr LSIO.I2C_STAT_LINES 3 i))
    else if ∃ p ∈ pulses.take 9, p = true then icFree i (icChecked i 0 ((s.wr LSIO.I2C_STAT_LINES 3 i).cntr LSIO.I2C_CLEARS i))
    else icIsolate i ((s.wr LSIO.I2C_STAT_LINES 1 i).wb LSIO.I2C_STAT_STUCK_SDA true i))) ∧
  (∀ i scl sda pulses, happens (.i2cBusCheck i ⟨scl, sda⟩ pulses) (fun s => s.fwUp = false ∨ s.rb LSIO.I2C_CTL_EN i = false ∨ s.icState i = icOFF ∨
    (s.icState i = icISOLATED ∧ bg s.ls.check i = false)) id) ∧
  (∀ r x, x.prio < r.prio → happens .flashSuspend (fun s => s.ls.run = some r ∧ firstOp s.ls.wait = some x ∧ s.rb FALT.PFAIL_STAT_ASSERTED = false)
    (fun s => flashBits (s.onLs (fun l => { l with run := some x, wait := l.wait.erase x, susp := r :: l.susp })))) ∧
  happens .flashSuspend (fun s => s.ls.run = none ∨ firstOp s.ls.wait = none ∨ s.rb FALT.PFAIL_STAT_ASSERTED = true) id ∧
  (∀ r x, r.prio ≤ x.prio → happens .flashSuspend (fun s => s.ls.run = some r ∧ firstOp s.ls.wait = some x) id) ∧
  (∀ p t, happens .flashResume (fun s => s.ls.run = none ∧ s.ls.susp = p :: t ∧ s.rb FALT.PFAIL_STAT_ASSERTED = false)
    (fun s => flashNext (flashBits (s.onLs (fun l => { l with run := some p, susp := t }))))) ∧
  happens .flashResume (fun s => s.ls.run ≠ none ∨ s.ls.susp = [] ∨ s.rb FALT.PFAIL_STAT_ASSERTED = true) id ∧
  (∀ op, happens (.flashOperationDone true) (fun s => s.ls.run = some op) (fun s =>
    flashNext (complete op.env stOK 0 [] true (flashEffect op.what (flashCount op.what (s.onLs (fun l => { l with run := none }))))))) ∧
  (∀ op, happens (.flashOperationDone false) (fun s => s.ls.run = some op) (fun s =>
    flashNext (complete op.env stHW_FAULT 0 [] true (flashFail op.what
      ((flashCount op.what (s.onLs (fun l => { l with run := none }))).wb LSIO.QSPI_STAT_ERR true))))) ∧
  (∀ ok, happens (.flashOperationDone ok) (fun s => s.ls.run = none) id) ∧
  happens .fwConfirmTimer (fun s => s.rd SECU.FW_CTL_CONFIRM_SEC ≠ 0 ∧ 96000 * s.rd SECU.FW_CTL_CONFIRM_SEC ≤ s.cmd.runFor) confirm ∧
  happens .fwConfirmTimer (fun s => s.rd SECU.FW_CTL_CONFIRM_SEC = 0 ∨ s.cmd.runFor < 96000 * s.rd SECU.FW_CTL_CONFIRM_SEC ∨ s.flash.trial = false) id ∧
  (∀ x, happens .stageTimeout (fun s => s.cmd.session = some x ∧ x.last + 60 * 96000 ≤ s.clock)
    (fun s => stageSet 3 (slotErase (s.onCmd (fun c => { c with session := none }))))) ∧
  happens .stageTimeout (fun s => s.cmd.session = none) id ∧
  (∀ x, happens .stageTimeout (fun s => s.cmd.session = some x ∧ s.clock < x.last + 60 * 96000) id)

/-! ## Rows of the hierarchy -/

/-- Umarun links and hierarchy. Each lane takes the blocks it receives, inverted where LANE_POL asks for it: 64 valid headers in a row give it block lock, and 16 invalid ones of 64 take
it away. A marker set is judged by its four markers and their skew. Of a link in DESKEW the fourth good set in a row leads to TRAIN; a second bad set
in a row leads back to LOCK, as do 10 ms in TRAIN and 1024 cell times in UP without a good cell. The cells of a link past DESKEW are checked by their
CRC, type and sequence number, and a good one is delivered. A cell slot sends the next cell, numbered where it is no IDLE cell, as the blocks of its lanes.
A message that lacks cells for 1 ms is discarded, a member unheard for a second leaves, a reservation ends after 10 ms, and a tunnelled command that
has no answer for 100 ms completes with BUSY (R350–R358, R361, R363, R383, R385, R398). -/
def Obligations.LinksFollowTheirEvents : Prop :=
  (∀ l lane bs, l ≤ 5 → lane ≤ 3 → happens (.blockLock l lane bs) (fun s => s.linkState l ≠ lkOFF) (fun s => (laneTakes l lane bs s).2)) ∧
  (∀ l lane bs, happens (.blockLock l lane bs) (fun s => s.linkState l = lkOFF) id) ∧
  (∀ l p (b : UBlock) s, l ≤ 5 → p ≤ 3 →
    let inv := bit ((s : State).rd ULNK.LINK_CTL_LANE_POL (i := l)) p
    let h := if inv then ~~~ b.hdr else b.hdr
    let x := if inv then ~~~ b.bits else b.bits
    let q := tget (fun _ => ULane.reset) s.uma.lane (4 * l + p)
    let t := fun (x : ULane) => s.onUma (fun u => { u with lane := tset (fun _ => ULane.reset) u.lane (4 * l + p) x })
    let locked := bit (s.rd ULNK.LINK_STAT_LANE_LOCK (i := l)) p
    ((h = hdData ∨ h = hdCtl) → locked = false → 63 ≤ q.run → (laneTake l p b s).2 = laneLock l p (t ⟨lastBits x, q.bad <<< 1, 64⟩)) ∧
    ((h = hdData ∨ h = hdCtl) → (locked = true ∨ q.run < 63) → (laneTake l p b s).2 = t ⟨lastBits x, q.bad <<< 1, min 64 (q.run + 1)⟩) ∧
    ((h = 0 ∨ h = 3) → locked = true → 16 ≤ weight (q.bad <<< 1 ||| 1) →
      (laneTake l p b s).2 = laneLoss l p (t ⟨lastBits x, q.bad <<< 1 ||| 1, 0⟩)) ∧
    ((h = 0 ∨ h = 3) → (locked = false ∨ weight (q.bad <<< 1 ||| 1) < 16) → (laneTake l p b s).2 = t ⟨lastBits x, q.bad <<< 1 ||| 1, 0⟩) ∧
    (laneTake l p b s).1 = ⟨h, descramble q.prev x⟩) ∧
  (∀ l off bs early late, l ≤ 5 → bs.length = 4 → happens (.markerSet l off bs early late) (fun s => s.linkState l ≠ lkOFF) (fun s =>
    let r := lanesTake l (bs.map (fun b => [b])) s
    markerJudge l (s.clockGrid off) (late - early) (r.1.flatMap id) r.2)) ∧
  (∀ l off bs early late, happens (.markerSet l off bs early late) (fun s => s.linkState l = lkOFF) id) ∧
  (∀ l g skew bs s, (s : State).linkState l < lkDESKEW → markerJudge l g skew bs s = s) ∧
  (∀ l g skew bs m s t, lkDESKEW ≤ (s : State).linkState l → markersOf skew bs = some m →
    t = ((s.wr ULNK.LANE_SKEW_UI skew (i := l)).wr ULNK.PEER_LANE_MAP (m.getD 0 0 + 16 * m.getD 1 0 + 256 * m.getD 2 0 + 4096 * m.getD 3 0) (i := l)).onUma
      (fun u => { u with good := ns u.good l (ng s.uma.good l + 1), bad := ns u.bad l 0 }) →
    markerJudge l g skew bs s = if t.linkState l = lkDESKEW ∧ 4 ≤ ng t.uma.good l then linkTrain l g t else t) ∧
  (∀ l g skew bs s, lkDESKEW ≤ (s : State).linkState l → markersOf skew bs = none → 1 ≤ ng s.uma.bad l → markerJudge l g skew bs s = linkLock l true s) ∧
  (∀ l g skew bs s, lkDESKEW ≤ (s : State).linkState l → markersOf skew bs = none → ng s.uma.bad l = 0 →
    markerJudge l g skew bs s = s.onUma (fun u => { u with good := ns u.good l 0, bad := ns u.bad l 1 })) ∧
  (∀ l off, l < 6 → happens (.trainTimeout l off) (fun s => s.linkState l = lkTRAIN ∧ ng s.uma.trainAt l + 120000000 < s.clockGrid off) (linkLock l false)) ∧
  (∀ l off, happens (.trainTimeout l off) (fun s => s.linkState l ≠ lkTRAIN ∨ s.clockGrid off ≤ ng s.uma.trainAt l + 120000000) id) ∧
  (∀ l off, l < 6 → happens (.cellTimeout l off) (fun s => s.linkState l = lkUP ∧ ng s.uma.lastGood l + 230687 ≤ s.clockGrid off) (linkLock l true)) ∧
  (∀ l off, happens (.cellTimeout l off) (fun s => s.linkState l ≠ lkUP ∨ s.clockGrid off < ng s.uma.lastGood l + 230687) id) ∧
  (∀ l off bs fw, l ≤ 5 → bs.map List.length = [8, 8, 8, 8] → happens (.cellReceive l off bs fw)
    (fun s => s.linkState l ≠ lkOFF ∧ (lanesTake l bs s).2.linkState l < lkTRAIN) (fun s => (lanesTake l bs s).2)) ∧
  (∀ l off bs fw, l ≤ 5 → bs.map List.length = [8, 8, 8, 8] → happens (.cellReceive l off bs fw)
    (fun s => s.linkState l ≠ lkOFF ∧ lkTRAIN ≤ (lanesTake l bs s).2.linkState l)
    (fun s => cellReceive l off ((lanesTake l bs s).2.cellFrom l (lanesTake l bs s).1) fw (lanesTake l bs s).2)) ∧
  (∀ l off bs fw, happens (.cellReceive l off bs fw) (fun s => s.linkState l = lkOFF) id) ∧
  (∀ l off c fw s, let t := (s : State).cntw ULNK.CELLS_RX_COUNT (i := l)
    let type := fbits (cellNum c 0 8) 63 60
    let seq := cellNum c 252 2
    (cellCrcOk c = false → cellReceive l off c fw s = trainBreak l (linkCnt ULNK.CRC_ERR l (some 1) t)) ∧
    (cellCrcOk c = true → 3 < type → type ≠ cyTRAIN → cellReceive l off c fw s = trainBreak l (linkCnt ULNK.HDR_ERR l none t)) ∧
    (cellCrcOk c = true → (type ≤ 3 ∨ type = cyTRAIN) → og t.uma.rxSeq l = none →
      cellReceive l off c fw s = cellTake l off (cellNum c 0 8) c fw (t.onUma (fun u => { u with rxSeq := os u.rxSeq l (some seq) }))) ∧
    (∀ q, cellCrcOk c = true → type = cyIDLE → og t.uma.rxSeq l = some q → cellReceive l off c fw s = cellTake l off (cellNum c 0 8) c fw t) ∧
    (∀ q, cellCrcOk c = true → (type ≤ 3 ∨ type = cyTRAIN) → type ≠ cyIDLE → og t.uma.rxSeq l = some q →
      ((seq + 65536 - q) % 65536 = 0 ∨ 32768 ≤ (seq + 65536 - q) % 65536) →
      cellReceive l off c fw s = trainBreak l (linkCnt ULNK.SEQ_ERR l none t)) ∧
    (∀ q, cellCrcOk c = true → (type ≤ 3 ∨ type = cyTRAIN) → type ≠ cyIDLE → og t.uma.rxSeq l = some q →
      1 ≤ (seq + 65536 - q) % 65536 → (seq + 65536 - q) % 65536 < 32768 →
      cellReceive l off c fw s = cellTake l off (cellNum c 0 8) c fw
        ((t.cntr ULNK.SEQ_GAP (i := l) (n := (seq + 65536 - q) % 65536 - 1)).onUma (fun u => { u with rxSeq := os u.rxSeq l (some seq) })))) ∧
  (∀ l off, l ≤ 5 → happens (.cellSend l off) (fun s => s.linkState l ≠ lkOFF) (fun s =>
    let x := s.nextCell l off
    let seq := if x.2.1 then (ng s.uma.txSeq l + 1) % 65536 else ng s.uma.txSeq l
    let t := x.2.2.cntw ULNK.CELLS_TX_COUNT (i := l)
    linkTry l (t.clockGrid off) (laneCell l (cellBytes x.1 seq) (t.onUma (fun u => { u with txSeq := ns u.txSeq l seq }))))) ∧
  (∀ l off, happens (.cellSend l off) (fun s => s.linkState l = lkOFF) id) ∧
  (∀ src msg off p, happens (.mgmtFragmentDiscard src msg off) (fun s => s.uma.parts.find? (fun p => p.src == src && p.msg == msg) = some p ∧
      p.at_ + 12000000 ≤ s.clockGrid off) (fun s => mgmtDrop p.link (s.onUma (fun u => { u with parts := u.parts.erase p })))) ∧
  (∀ src msg off, happens (.mgmtFragmentDiscard src msg off) (fun s => s.uma.parts.find? (fun p => p.src == src && p.msg == msg) = none) id) ∧
  (∀ src msg off p, happens (.mgmtFragmentDiscard src msg off) (fun s => s.uma.parts.find? (fun p => p.src == src && p.msg == msg) = some p ∧
      s.clockGrid off < p.at_ + 12000000) id) ∧
  (∀ d, d < 16 → happens (.memberTimeout d) (fun s => bit (s.rd ULNK.HIER_STAT_MEMBERS) d = true ∧ ng s.uma.heard d + 96000 ≤ s.clock)
    (fun s => (s.wr ULNK.HIER_STAT_MEMBERS (s.rd ULNK.HIER_STAT_MEMBERS - 2 ^ d)).raise 0x1A 13 fnsAll)) ∧
  (∀ d, happens (.memberTimeout d) (fun s => bit (s.rd ULNK.HIER_STAT_MEMBERS) d = false ∨ s.clock < ng s.uma.heard d + 96000) id) ∧
  (∀ td r, happens (.reservationExpire td) (fun s => s.uma.resv.find? (fun r => r.1 == td) = some r ∧ r.2.2 + 960 ≤ s.clock)
    (fun s => s.onUma (fun u => { u with resv := u.resv.erase r }))) ∧
  (∀ td, happens (.reservationExpire td) (fun s => s.uma.resv.find? (fun r => r.1 == td) = none) id) ∧
  (∀ td r, happens (.reservationExpire td) (fun s => s.uma.resv.find? (fun r => r.1 == td) = some r ∧ s.clock < r.2.2 + 960) id) ∧
  (∀ msg t, happens (.tunnelTimeout msg) (fun s => s.uma.tunnels.find? (fun t => t.msg == msg) = some t ∧ t.since + 9600 ≤ s.clock)
    (fun s => complete t.env stBUSY 0 [] true (s.onUma (fun u => { u with tunnels := u.tunnels.erase t })))) ∧
  (∀ msg, happens (.tunnelTimeout msg) (fun s => s.uma.tunnels.find? (fun t => t.msg == msg) = none) id) ∧
  (∀ msg t, happens (.tunnelTimeout msg) (fun s => s.uma.tunnels.find? (fun t => t.msg == msg) = some t ∧ s.clock < t.since + 9600) id)

/-- The mirror pair. A partner unheard for 96 samples is lost: MIRROR shows it, MIRROR_LOSSES counts it, the error is logged, and a standby with
AUTO_TAKEOVER set goes to take over. A copy is taken into force at the tick named for it, or the next where that has passed; the copying member
installs it first. A repaired link makes the member that has run for less, or the one in slot B where both have run equally long, log what it did alone and copy the other. Each change waiting
to be forwarded goes to the partner in turn (R387, R388, R391, R392). -/
def Obligations.MirrorFollowsItsEvents : Prop :=
  happens .mirrorLost (fun s => s.role = roMIRROR ∧ s.rd ULNK.HIER_STAT_MIRROR = 1 ∧ s.uma.partnerAt + 96 ≤ s.clock)
    (fun s => ((mirrorSet 3 s).cntr ULNK.MIRROR_LOSSES).err 0x0402 0x1A 0 0 0 none (s.beyond kdMIRROR)) ∧
  (∀ t, happens .mirrorLost (fun s => s.role = roMIRROR ∧ s.rd ULNK.HIER_STAT_MIRROR = 2 ∧ s.uma.partnerAt + 96 ≤ s.clock ∧
      t = ((mirrorSet 3 s).cntr ULNK.MIRROR_LOSSES).err 0x0402 0x1A 0 0 0 none (s.beyond kdMIRROR))
    (fun _ => if t.rb ULNK.MIRROR_CTL_AUTO_TAKEOVER then t.onUma (fun u => { u with takeover := true }) else t)) ∧
  happens .mirrorLost (fun s => s.role ≠ roMIRROR ∨ (s.rd ULNK.HIER_STAT_MIRROR ≠ 1 ∧ s.rd ULNK.HIER_STAT_MIRROR ≠ 2) ∨ s.clock < s.uma.partnerAt + 96) id ∧
  (∀ k x, happens (.mirrorCopyComplete k x) (fun s => s.role = roMIRROR ∧ s.mirrorLink = true ∧ s.uma.copyAt = none ∧ s.uma.copying = false)
    (fun s => s.onUma (fun u => { u with copyAt := some (max k s.nextTick) }))) ∧
  (∀ k x, happens (.mirrorCopyComplete k x) (fun s => s.role = roMIRROR ∧ s.mirrorLink = true ∧ s.uma.copyAt = none ∧ s.uma.copying = true)
    (fun s => (installCopy x (mirrorDiscard s)).onUma (fun u => { u with copyAt := some (max k (installCopy x (mirrorDiscard s)).nextTick) }))) ∧
  (∀ k x, happens (.mirrorCopyComplete k x) (fun s => s.role ≠ roMIRROR ∨ s.mirrorLink = false ∨ s.uma.copyAt ≠ none) id) ∧
  (∀ since, happens (.mirrorRepair since) (fun s => s.role = roMIRROR ∧ s.rd ULNK.HIER_STAT_MIRROR = 3 ∧ s.mirrorLink = true ∧
      s.uma.copying = false ∧ running s.mode = true ∧
      (s.uma.runSince < since ∨ (s.uma.runSince = since ∧ s.rb ULNK.HIER_STAT_A_MEMBER = true)))
    (fun s => s.onUma (fun u => { u with partnerAt := s.clock, takeover := false }))) ∧
  (∀ since, happens (.mirrorRepair since) (fun s => s.role = roMIRROR ∧ s.rd ULNK.HIER_STAT_MIRROR = 3 ∧ s.mirrorLink = true ∧
      s.uma.copying = false ∧ (running s.mode = false ∨ since < s.uma.runSince ∨
        (s.uma.runSince = since ∧ s.rb ULNK.HIER_STAT_A_MEMBER = false))) (fun s =>
    let t := (s.onUma (fun u => { u with partnerAt := s.clock, takeover := false })).each s.uma.alone (fun s c => s.err 0x0404 0x1A 0 c 0)
    copySet true (t.onUma (fun u => { u with alone := [] })))) ∧
  (∀ since, happens (.mirrorRepair since) (fun s => s.role ≠ roMIRROR ∨ s.rd ULNK.HIER_STAT_MIRROR ≠ 3 ∨ s.mirrorLink = false ∨
    s.uma.copying = true) id) ∧
  happens .mirrorForward (fun s => s.mirrorActive = true ∧ 0 < s.uma.fwd)
    (fun s => fwTo (1 - s.devId) 0x0200 (s.onUma (fun u => { u with fwd := u.fwd - 1 }))) ∧
  happens .mirrorForward (fun s => s.mirrorActive = false ∨ s.uma.fwd = 0) id

/-! ## Boundaries -/

/-- SAMPLE_BOUNDARY ends a period with its work, and begins the next with the actions of R25 and the flow of samples; unless the
work leaves a mode with boundaries, the index then rises by one (R14), or by a step of media time where one is due (R84). TICK_BOUNDARY
does a tick's work once, at the end of the tick's last period, and moves no index. -/
def Obligations.BoundariesAdvance : Prop :=
  (∀ x, occurs (.sampleBoundary x) (fun s => 3 ≤ s.mode ∧ 3 ≤ (periodWork x s).mode)
    (fun s => sampleFlow x.overrun (s.lostSums x) (sampleActs (sampleRwb (nextPeriod (periodWork x s)))))) ∧
  (∀ x s, 3 ≤ s.mode → 3 ≤ (periodWork x s).mode → ∃ t, exec (.sampleBoundary x) s = .next t ∧ t.tim.sample = (periodWork x s).nextIndex) ∧
  (∀ x s, 3 ≤ s.mode → 3 ≤ (periodWork x s).mode → (periodWork x s).md.stepTo = none →
    ∃ t, exec (.sampleBoundary x) s = .next t ∧ t.tim.sample = s.tim.sample + 1) ∧
  (∀ x s, s.mode < 3 → exec (.sampleBoundary x) s = .next s ∧ exec (.tickBoundary (TickIn.still s)) s = .next s) ∧
  (∀ x, occurs (.tickBoundary x) (fun s => 3 ≤ s.mode ∧ (s.tickEnds = false ∨ s.tim.tickDone = true)) id) ∧
  (∀ x, occurs (.tickBoundary x) (fun s => 3 ≤ s.mode ∧ s.tickEnds = true ∧ s.tim.tickDone = false ∧
      3 ≤ (tickWork x ((bankStep (rxJudge s)).at (s.tim.sample + 1))).mode)
    (fun s => ((tickWork x ((bankStep (rxJudge s)).at (s.tim.sample + 1))).at s.tim.sample).onTim (fun t => { t with tickDone := true }))) ∧
  (∀ x s, 3 ≤ s.mode → s.tickEnds = true → s.tim.tickDone = false → 3 ≤ (tickWork x ((bankStep (rxJudge s)).at (s.tim.sample + 1))).mode →
    ∃ t, exec (.tickBoundary x) s = .next t ∧ t.tim.sample = s.tim.sample ∧ t.tim.tickDone = true)

/-! ## The whole machine -/

/-- A step carries out the command at the front of the queue on the state with the rest of the queue, and idles where none waits. -/
def Obligations.StepRunsTheFrontCommand : Prop :=
  (∀ (s : State) c q, s.pending = c :: q → step s = exec c { s with pending := q }) ∧
  (∀ s : State, s.pending = [] → step s = .next s)

/-- The state after reset has the form that every step keeps. -/
def Obligations.ResetMeetsTheInvariant : Prop := Inv State.reset

/-- Whatever command waits first, the step answers a next state, and that state has the invariant's form, the rest of the queue, no
free value that was used before, the device's serial number and provisioning key as they were (R537, R549), and a
security-version floor no lower (R546). -/
def Obligations.EveryStepKeepsTheInvariant : Prop :=
  ∀ s : State, Inv s → ∃ t, step s = .next t ∧ Inv t ∧ t.pending = s.pending.tail ∧ s.free ≤ t.free ∧
    t.flash.serial = s.flash.serial ∧ t.flash.prov = s.flash.prov ∧ s.flash.svnFloor ≤ t.flash.svnFloor

/-- No command but SAMPLE_BOUNDARY, and TICK_BOUNDARY, RESET_ASSERT, WAKE_MATCH and FIRMWARE_RUNNING, which may restart the device or
enter a mode anew, moves the sample index: not a management command, not a register write, not another event (R14). -/
def Obligations.OnlyBoundariesMoveTheIndex : Prop :=
  ∀ (c : Instr) (s t : State), exec c s = .next t → t.tim.sample ≠ s.tim.sample →
    (∃ x, c = .sampleBoundary x) ∨ (∃ x, c = .tickBoundary x) ∨ (∃ ao, c = .resetAssert ao) ∨ (∃ p q, c = .wakeMatch p q) ∨
      ∃ ms, c = .firmwareRunning ms

/-- Some of the values that reset leaves, from the register tables: no mode with boundaries, no index published, no command
waiting, and the fields that start at other values than 0. -/
def Obligations.ResetValues : Prop :=
  State.reset.mode < 3 ∧ State.reset.tim.published = false ∧ State.reset.pending = [] ∧
  State.reset.rd MODE.MODE_CTL_ACQ_TIMEOUT = 60 ∧ State.reset.rd MODE.PREROLL_CTL_PRE_MIN = 3000 ∧
  State.reset.rd REFS.SEL_CTL_MARGIN = 0x10 ∧ State.reset.rd EVTC.FIFO_STAT_THRESH = 1 ∧ State.reset.rd STRX.DEPTH_DEPTH 1023 = 512 ∧
  State.reset.rd STRX.TIMEOUT_MS 0 = 100 ∧ State.reset.rd STRX.POOL_FREE_SLOTS = 0x400000 ∧ State.reset.rd STRX.EVT_STAT_THRESH = 1 ∧
  State.reset.rd SRCB.POOL_GRP_FREE = 253 ∧ State.reset.rd SRCB.POOL_CH_FREE = 2048 ∧ State.reset.rd FALT.WDT_CTL_TIMEOUT = 100 ∧
  State.reset.rd SECU.FW_CTL_CONFIRM_SEC = 60

/-- A register word reads back as written, a field does, and every other word is left as it was. -/
def Obligations.RegistersReadBack : Prop :=
  (∀ (s : State) pg obj off v, (s.pw pg obj off v).gw pg obj off = v % 2 ^ 32) ∧
  (∀ (s : State) pg obj off v pg' obj' off', off < 2 ^ 12 → off' < 2 ^ 12 → obj < 2 ^ 20 → obj' < 2 ^ 20 → (pg', obj', off') ≠ (pg, obj, off) →
    (s.pw pg obj off v).gw pg' obj' off' = s.gw pg' obj' off') ∧
  (∀ (s : State) (f : Fld) v obj i, f.lo ≤ f.hi → f.hi < 32 → (s.wr f v obj i).rd f obj i = v % 2 ^ (f.hi - f.lo + 1)) ∧
  (∀ (s : State) (f g : Fld) v obj i, f.reg = g.reg → f.lo ≤ f.hi → g.lo ≤ g.hi → g.hi < 32 → g.hi < f.lo ∨ f.hi < g.lo →
    (s.wr f v obj i).rd g obj i = s.rd g obj i)

/-- An event sets its bit of INT_STAT in the copy of each function that it is raised for, and no other word; a bit that rises while it is
enabled makes one message due on the page's vector, a bit that stands already none; INT_STAT_CLEAR clears in the caller's copy
what is written as 1 and leaves every other bit (R480, R560). -/
def Obligations.InterruptFlagsRiseAndClear : Prop :=
  (∀ (s : State) pg b fns fn, fn ∈ fns → b < 32 → bit ((s.raise pg b fns).gw pg fn 0x010) b = true) ∧
  (∀ (s : State) pg b fns pg' obj' off', off' ≠ 0x010 → off' < 2 ^ 12 → (s.raise pg b fns).gw pg' obj' off' = s.gw pg' obj' off') ∧
  (∀ (s : State) pg b fn, bit (s.gw pg fn 0x010) b = true → s.raise1 pg b fn = s) ∧
  (∀ (s : State) pg b fn v, fn < 8 → bit (s.gw pg fn 0x010) b = false → bit (s.gw pg fn 0x014) b = true → s.pageVec fn pg = some v →
    (s.raise1 pg b fn).host.msiDue = s.host.msiDue ++ [(fn, v)]) ∧
  (∀ (s : State) pg b fn, bit (s.gw pg fn 0x014) b = false → (s.raise1 pg b fn).host.msiDue = s.host.msiDue) ∧
  (∀ (s : State) fn pg w b, fn ≤ 8 → s.served pg = true → s.shut fn pg = false → b < 32 → ∃ t, exec (.intStatClear fn pg w) s = .next t ∧
    bit (t.gw pg fn 0x010) b = (bit (s.gw pg fn 0x010) b && !bit w b))

/-- The crossfade of R249. For output index n + i − 1 the sum of every node of a signature in its ramp takes the weight
W_i = floor(i × 65,536 / Rmp), with W_Rmp = 65,536; the combined term is t_r + (((t_v − t_r) × W_i) >> 16); it lies between t_r and t_v,
at i = Rmp it is t_v, and a code of 0 in a bank gives a term of 0 from that bank. -/
def Obligations.RampFollowsR249 : Prop :=
  (∀ (s : State) o n i rmp, s.bankState (sigOf o) = bkRAMP → s.rd64 SIG.TURN_IDX_HI SIG.TURN_IDX_LO (i := sigOf o) = n →
    s.rd SIG.TURN_RAMP_RAMP (i := sigOf o) = rmp → 1 ≤ i → i ≤ rmp →
    s.sumFor o (n + i - 1) = s.sumRamp (sigOf o) (o % 64) s.xp.vec2 (s.rectoBank (sigOf o)) (s.versoBank (sigOf o)) (i * 65536 / rmp)) ∧
  (∀ rmp, 1 ≤ rmp → rmp * 65536 / rmp = 65536) ∧
  (∀ x cr cv w, rampTerm x cr cv w = term x cr + ((term x cv - term x cr) * w) >>> 16) ∧
  (∀ x cr cv i rmp, 1 ≤ i → i ≤ rmp → min (term x cr) (term x cv) ≤ rampTerm x cr cv (i * 65536 / rmp) ∧
    rampTerm x cr cv (i * 65536 / rmp) ≤ max (term x cr) (term x cv)) ∧
  (∀ x cr cv rmp, 1 ≤ rmp → rampTerm x cr cv (rmp * 65536 / rmp) = term x cv) ∧
  (∀ x, term x 0 = 0)

/-- The limit of R527 on a response. Where it exceeds RESP_MAX, a command whose response is a list of entries of `n` words returns the
whole entries that fit and completes with OK_TRUNC; any other command completes with BAD_FIELD, on the state before its effect. -/
def Obligations.ResponsesFitTheirPlace : Prop :=
  (∀ o e s t r ws n st, (s : State).respLimit e < 4 * ws.length → 0 < n →
    finish o e s (.ok t r ws n st) = complete e stOK_TRUNC r (ws.take (s.respLimit e / (4 * n) * n)) true (noted o t)) ∧
  (∀ o e s t r ws st, (s : State).respLimit e < 4 * ws.length → ws ≠ [] → finish o e s (.ok t r ws 0 st) = complete e stBAD_FIELD 0 [] true s) ∧
  (∀ (s : State) (e : Env) n, 0 < n → 4 * (s.respLimit e / (4 * n) * n) ≤ s.respLimit e ∧
    s.respLimit e < 4 * ((s.respLimit e / (4 * n) + 1) * n)) ∧
  (∀ (s : State) e, (∀ p v6 a b, e.tr ≠ .udp p v6 a b) → s.respLimit e = e.respMax)

/-- R592: each edge at a pin that EDGE enables (bit 0 the rising, bit 1 the falling) sets the pin's EVT and raises INT_STAT.GPIO. -/
def Obligations.GpioEdgesAreFlagged : Prop :=
  ∀ (s : State) pin rising, 3 ≤ s.mode → pin ≤ 31 → s.rb LSIO.GPIO_IN pin ≠ rising →
    s.bankUp (6 + pin / 16) = true → bit (s.rd LSIO.GPIO_EDGE pin) (if rising then 0 else 1) = true →
    ∃ t, exec (.gpioEdge pin rising) s = .next t ∧ t.rb LSIO.GPIO_IN pin = rising ∧ t.rb LSIO.GPIO_EVT pin = true ∧
      ∀ fn ∈ fnsAll, bit (t.gw 0x24 fn 0x010) 3 = true

/-- The order of R539, as every opcode is judged: a command that is not taken waits; the first check that fails decides the status;
what checks 1 to 4 refuse records no counter, what a later check refuses does. -/
def Obligations.CommandsAreJudgedInOrder : Prop :=
  ∀ (o : Opc) (e : Env) (own : Nat → State → Option Nat) (body : Nat → State → Res) (s : State),
    let form := e.lenOk = true ∧ (o.authForm e = true → e.auth.isSome = true)
    let there := ¬ (o.pcieOnly = true ∧ isPcie e = false) ∧ ¬ (o.noTunnel = true ∧ isTunnel e = true)
    let fresh := ∀ sl c, counterSlot s o e = some (sl, c) → s.cLast sl < c
    let a := accept o e s
    (taken e s = false → runCmd o e own body s = s) ∧
    (taken e s = true → ¬ form → runCmd o e own body s = complete e stBAD_FIELD 0 [] false s) ∧
    (taken e s = true → form → ¬ there → runCmd o e own body s = complete e stBAD_OPCODE 0 [] false s) ∧
    (taken e s = true → form → there → authCheck o e s = false → runCmd o e own body s = complete e stAUTH_FAIL 0 [] false s) ∧
    (taken e s = true → form → there → authCheck o e s = true → ¬ fresh → runCmd o e own body s = complete e stREPLAY 0 [] false s) ∧
    (taken e s = true → form → there → authCheck o e s = true → fresh → o.pf0 = true → callerOf e ≠ 0 →
      runCmd o e own body s = complete e stNOT_OWNER 0 [] true a) ∧
    (∀ st, taken e s = true → form → there → authCheck o e s = true → fresh → (o.pf0 = true → callerOf e = 0) → own (callerOf e) a = some st →
      runCmd o e own body s = complete e st 0 [] true a) ∧
    (taken e s = true → form → there → authCheck o e s = true → fresh → (o.pf0 = true → callerOf e = 0) → own (callerOf e) a = none →
      o.modes a.mode = false → runCmd o e own body s = complete e stMODE_DENY 0 [] true a)

/-- Acceptance records the counter before the command acts, journals it when it is 1024 or more above the saved value, and touches no
other slot (R533). -/
def Obligations.CountersAreRecorded : Prop :=
  ∀ (o : Opc) (e : Env) (s : State) sl c, counterSlot s o e = some (sl, c) → sl < 16 → c < 2 ^ 64 →
    (accept o e s).cLast sl = c ∧
    (ng s.flash.savedS sl + 1024 ≤ c → ng (accept o e s).flash.savedS sl = c) ∧
    (c < ng s.flash.savedS sl + 1024 → ng (accept o e s).flash.savedS sl = ng s.flash.savedS sl) ∧
    ∀ sl' < 16, sl' ≠ sl → (accept o e s).cLast sl' = s.cLast sl' ∧ ng (accept o e s).flash.savedS sl' = ng s.flash.savedS sl'
end

