-- ==== Sys2Proof/Laws/Tables.lean ====
section
/-!
SUPPORT. The laws of a sparse table: a write keeps its canonical form, reads back at its key and leaves every other key.
-/
namespace Sys2Proof.Machine
variable {α : Type}

theorem tget_tins_same (d : Nat → α) (k : Nat) (v : α) (t : Tbl α) (h : ∀ e ∈ t, e.1 ≠ k) : tget d (tins k v t) k = v := by
  induction t with
  | nil => simp [tins, tget]
  | cons e t ih =>
    obtain ⟨j, w⟩ := e
    simp only [tins]
    split
    · simp [tget]
    · have hj : j ≠ k := h (j, w) (by simp)
      simp [tget, hj, ih (fun e he => h e (by simp [he]))]

theorem tget_tins_other (d : Nat → α) (k j : Nat) (v : α) (t : Tbl α) (h : j ≠ k) : tget d (tins k v t) j = tget d t j := by
  induction t with
  | nil => simp [tins, tget, Ne.symm h]
  | cons e t ih =>
    obtain ⟨i, w⟩ := e
    simp only [tins]
    split
    · simp [tget, Ne.symm h]
    · simp [tget, ih]

theorem tget_filter_other (d : Nat → α) (k j : Nat) (t : Tbl α) (h : j ≠ k) :
    tget d (t.filter (fun e => e.1 != k)) j = tget d t j := by
  induction t with
  | nil => rfl
  | cons e t ih =>
    obtain ⟨i, w⟩ := e
    by_cases hi : i = k
    · simp [tget, hi, ih, Ne.symm h]
    · simp [tget, hi, ih]

theorem tget_filter_same (d : Nat → α) (k : Nat) (t : Tbl α) : tget d (t.filter (fun e => e.1 != k)) k = d k := by
  induction t with
  | nil => rfl
  | cons e t ih =>
    obtain ⟨i, w⟩ := e
    by_cases hi : i = k
    · simp [hi, ih]
    · simp [tget, hi, ih]

/-- A key just written reads the value written. -/
@[simp] theorem tget_tset_same [DecidableEq α] (d : Nat → α) (t : Tbl α) (k : Nat) (v : α) : tget d (tset d t k v) k = v := by
  unfold tset
  split
  · rename_i h; rw [tget_filter_same, h]
  · exact tget_tins_same d k v _ (by simp)

/-- A write leaves every other key. -/
theorem tget_tset_other [DecidableEq α] (d : Nat → α) (t : Tbl α) (k j : Nat) (v : α) (h : j ≠ k) :
    tget d (tset d t k v) j = tget d t j := by
  unfold tset
  split
  · exact tget_filter_other d k j t h
  · rw [tget_tins_other d k j v _ h, tget_filter_other d k j t h]

/-- Every key of a table lies above a bound. -/
theorem tsorted_cons (j : Nat) (w : α) (t : Tbl α) :
    tsorted ((j, w) :: t) = true ↔ (∀ e ∈ t, j < e.1) ∧ tsorted t = true := by
  induction t generalizing j w with
  | nil => simp [tsorted]
  | cons e t ih =>
    obtain ⟨k, x⟩ := e
    have ht : ∀ y, tsorted ((k, x) :: t) = tsorted ((k, y) :: t) := by
      intro y; cases t <;> simp [tsorted]
    simp only [tsorted, Bool.and_eq_true, decide_eq_true_eq, List.mem_cons, forall_eq_or_imp, ih k x]
    constructor
    · rintro ⟨h1, h2, h3⟩; exact ⟨⟨h1, fun e he => Nat.lt_trans h1 (h2 e he)⟩, h2, h3⟩
    · rintro ⟨⟨h1, _⟩, h2, h3⟩; exact ⟨h1, h2, h3⟩

theorem tsorted_filter (p : Nat × α → Bool) (t : Tbl α) (h : tsorted t = true) : tsorted (t.filter p) = true := by
  induction t with
  | nil => rfl
  | cons e t ih =>
    obtain ⟨j, w⟩ := e
    rw [tsorted_cons] at h
    by_cases hp : p (j, w)
    · rw [List.filter_cons_of_pos hp, tsorted_cons]
      exact ⟨fun e he => h.1 e (List.mem_filter.mp he).1, ih h.2⟩
    · rw [List.filter_cons_of_neg hp]; exact ih h.2

theorem mem_tins (k : Nat) (v : α) (t : Tbl α) (e : Nat × α) : e ∈ tins k v t ↔ e = (k, v) ∨ e ∈ t := by
  induction t with
  | nil => simp [tins]
  | cons f t ih =>
    obtain ⟨j, w⟩ := f
    simp only [tins]
    split
    · simp
    · simp only [List.mem_cons, ih]
      constructor
      · rintro (h | h | h)
        · exact .inr (.inl h)
        · exact .inl h
        · exact .inr (.inr h)
      · rintro (h | h | h)
        · exact .inr (.inl h)
        · exact .inl h
        · exact .inr (.inr h)

theorem tsorted_tins (k : Nat) (v : α) (t : Tbl α) (h : tsorted t = true) (hk : ∀ e ∈ t, e.1 ≠ k) :
    tsorted (tins k v t) = true := by
  induction t with
  | nil => rfl
  | cons f t ih =>
    obtain ⟨j, w⟩ := f
    have hj : j ≠ k := hk (j, w) (by simp)
    simp only [tins]
    have h' := h
    rw [tsorted_cons] at h'
    split
    · rename_i hlt
      rw [tsorted_cons]
      refine ⟨fun e he => ?_, h⟩
      rcases List.mem_cons.mp he with rfl | he
      · exact hlt
      · exact Nat.lt_trans hlt (h'.1 e he)
    · rename_i hlt
      rw [tsorted_cons]
      refine ⟨fun e he => ?_, ih h'.2 (fun e he => hk e (by simp [he]))⟩
      rcases (mem_tins k v t e).mp he with rfl | he
      · show j < k; omega
      · exact h'.1 e he

/-- A write keeps the canonical form. -/
theorem twf_tset [DecidableEq α] (d : Nat → α) (t : Tbl α) (k : Nat) (v : α) (h : twf d t = true) :
    twf d (tset d t k v) = true := by
  simp only [twf, Bool.and_eq_true, List.all_eq_true, decide_eq_true_eq] at h ⊢
  unfold tset
  split
  · exact ⟨tsorted_filter _ t h.1, fun e he => h.2 e (List.mem_filter.mp he).1⟩
  · rename_i hv
    refine ⟨tsorted_tins k v _ (tsorted_filter _ t h.1) (by simp), fun e he => ?_⟩
    rcases (mem_tins k v _ e).mp he with rfl | he
    · exact hv
    · exact h.2 e (List.mem_filter.mp he).1

end Sys2Proof.Machine
end

