-- ==== Sys2Proof/Laws/State.lean ====
section
/-!
SUPPORT. What each named update of the state does to each field: one lemma a field, for the simplifier, so that no proof unfolds
a record.
-/
namespace Sys2Proof.Machine
variable (s : State)

@[simp] theorem State.onHeld_regs (f) : (s.onHeld f).regs = s.regs := rfl
@[simp] theorem State.onHeld_held (f) : (s.onHeld f).held = f s.held := rfl
@[simp] theorem State.onHeld_tim (f) : (s.onHeld f).tim = s.tim := rfl
@[simp] theorem State.onHeld_ref (f) : (s.onHeld f).ref = s.ref := rfl
@[simp] theorem State.onHeld_flt (f) : (s.onHeld f).flt = s.flt := rfl
@[simp] theorem State.onHeld_cmd (f) : (s.onHeld f).cmd = s.cmd := rfl
@[simp] theorem State.onHeld_host (f) : (s.onHeld f).host = s.host := rfl
@[simp] theorem State.onHeld_flash (f) : (s.onHeld f).flash = s.flash := rfl
@[simp] theorem State.onHeld_net (f) : (s.onHeld f).net = s.net := rfl
@[simp] theorem State.onHeld_src (f) : (s.onHeld f).src = s.src := rfl
@[simp] theorem State.onHeld_rx (f) : (s.onHeld f).rx = s.rx := rfl
@[simp] theorem State.onHeld_xp (f) : (s.onHeld f).xp = s.xp := rfl
@[simp] theorem State.onHeld_scn (f) : (s.onHeld f).scn = s.scn := rfl
@[simp] theorem State.onHeld_met (f) : (s.onHeld f).met = s.met := rfl
@[simp] theorem State.onHeld_tx (f) : (s.onHeld f).tx = s.tx := rfl
@[simp] theorem State.onHeld_loc (f) : (s.onHeld f).loc = s.loc := rfl
@[simp] theorem State.onHeld_uma (f) : (s.onHeld f).uma = s.uma := rfl
@[simp] theorem State.onHeld_md (f) : (s.onHeld f).md = s.md := rfl
@[simp] theorem State.onHeld_ls (f) : (s.onHeld f).ls = s.ls := rfl
@[simp] theorem State.onHeld_free (f) : (s.onHeld f).free = s.free := rfl
@[simp] theorem State.onHeld_pending (f) : (s.onHeld f).pending = s.pending := rfl
@[simp] theorem State.onHeld_gw (f pg o off) : (s.onHeld f).gw pg o off = s.gw pg o off := rfl

@[simp] theorem State.onTim_regs (f) : (s.onTim f).regs = s.regs := rfl
@[simp] theorem State.onTim_held (f) : (s.onTim f).held = s.held := rfl
@[simp] theorem State.onTim_tim (f) : (s.onTim f).tim = f s.tim := rfl
@[simp] theorem State.onTim_ref (f) : (s.onTim f).ref = s.ref := rfl
@[simp] theorem State.onTim_flt (f) : (s.onTim f).flt = s.flt := rfl
@[simp] theorem State.onTim_cmd (f) : (s.onTim f).cmd = s.cmd := rfl
@[simp] theorem State.onTim_host (f) : (s.onTim f).host = s.host := rfl
@[simp] theorem State.onTim_flash (f) : (s.onTim f).flash = s.flash := rfl
@[simp] theorem State.onTim_net (f) : (s.onTim f).net = s.net := rfl
@[simp] theorem State.onTim_src (f) : (s.onTim f).src = s.src := rfl
@[simp] theorem State.onTim_rx (f) : (s.onTim f).rx = s.rx := rfl
@[simp] theorem State.onTim_xp (f) : (s.onTim f).xp = s.xp := rfl
@[simp] theorem State.onTim_scn (f) : (s.onTim f).scn = s.scn := rfl
@[simp] theorem State.onTim_met (f) : (s.onTim f).met = s.met := rfl
@[simp] theorem State.onTim_tx (f) : (s.onTim f).tx = s.tx := rfl
@[simp] theorem State.onTim_loc (f) : (s.onTim f).loc = s.loc := rfl
@[simp] theorem State.onTim_uma (f) : (s.onTim f).uma = s.uma := rfl
@[simp] theorem State.onTim_md (f) : (s.onTim f).md = s.md := rfl
@[simp] theorem State.onTim_ls (f) : (s.onTim f).ls = s.ls := rfl
@[simp] theorem State.onTim_free (f) : (s.onTim f).free = s.free := rfl
@[simp] theorem State.onTim_pending (f) : (s.onTim f).pending = s.pending := rfl
@[simp] theorem State.onTim_gw (f pg o off) : (s.onTim f).gw pg o off = s.gw pg o off := rfl

@[simp] theorem State.onRef_regs (f) : (s.onRef f).regs = s.regs := rfl
@[simp] theorem State.onRef_held (f) : (s.onRef f).held = s.held := rfl
@[simp] theorem State.onRef_tim (f) : (s.onRef f).tim = s.tim := rfl
@[simp] theorem State.onRef_ref (f) : (s.onRef f).ref = f s.ref := rfl
@[simp] theorem State.onRef_flt (f) : (s.onRef f).flt = s.flt := rfl
@[simp] theorem State.onRef_cmd (f) : (s.onRef f).cmd = s.cmd := rfl
@[simp] theorem State.onRef_host (f) : (s.onRef f).host = s.host := rfl
@[simp] theorem State.onRef_flash (f) : (s.onRef f).flash = s.flash := rfl
@[simp] theorem State.onRef_net (f) : (s.onRef f).net = s.net := rfl
@[simp] theorem State.onRef_src (f) : (s.onRef f).src = s.src := rfl
@[simp] theorem State.onRef_rx (f) : (s.onRef f).rx = s.rx := rfl
@[simp] theorem State.onRef_xp (f) : (s.onRef f).xp = s.xp := rfl
@[simp] theorem State.onRef_scn (f) : (s.onRef f).scn = s.scn := rfl
@[simp] theorem State.onRef_met (f) : (s.onRef f).met = s.met := rfl
@[simp] theorem State.onRef_tx (f) : (s.onRef f).tx = s.tx := rfl
@[simp] theorem State.onRef_loc (f) : (s.onRef f).loc = s.loc := rfl
@[simp] theorem State.onRef_uma (f) : (s.onRef f).uma = s.uma := rfl
@[simp] theorem State.onRef_md (f) : (s.onRef f).md = s.md := rfl
@[simp] theorem State.onRef_ls (f) : (s.onRef f).ls = s.ls := rfl
@[simp] theorem State.onRef_free (f) : (s.onRef f).free = s.free := rfl
@[simp] theorem State.onRef_pending (f) : (s.onRef f).pending = s.pending := rfl
@[simp] theorem State.onRef_gw (f pg o off) : (s.onRef f).gw pg o off = s.gw pg o off := rfl

@[simp] theorem State.onFlt_regs (f) : (s.onFlt f).regs = s.regs := rfl
@[simp] theorem State.onFlt_held (f) : (s.onFlt f).held = s.held := rfl
@[simp] theorem State.onFlt_tim (f) : (s.onFlt f).tim = s.tim := rfl
@[simp] theorem State.onFlt_ref (f) : (s.onFlt f).ref = s.ref := rfl
@[simp] theorem State.onFlt_flt (f) : (s.onFlt f).flt = f s.flt := rfl
@[simp] theorem State.onFlt_cmd (f) : (s.onFlt f).cmd = s.cmd := rfl
@[simp] theorem State.onFlt_host (f) : (s.onFlt f).host = s.host := rfl
@[simp] theorem State.onFlt_flash (f) : (s.onFlt f).flash = s.flash := rfl
@[simp] theorem State.onFlt_net (f) : (s.onFlt f).net = s.net := rfl
@[simp] theorem State.onFlt_src (f) : (s.onFlt f).src = s.src := rfl
@[simp] theorem State.onFlt_rx (f) : (s.onFlt f).rx = s.rx := rfl
@[simp] theorem State.onFlt_xp (f) : (s.onFlt f).xp = s.xp := rfl
@[simp] theorem State.onFlt_scn (f) : (s.onFlt f).scn = s.scn := rfl
@[simp] theorem State.onFlt_met (f) : (s.onFlt f).met = s.met := rfl
@[simp] theorem State.onFlt_tx (f) : (s.onFlt f).tx = s.tx := rfl
@[simp] theorem State.onFlt_loc (f) : (s.onFlt f).loc = s.loc := rfl
@[simp] theorem State.onFlt_uma (f) : (s.onFlt f).uma = s.uma := rfl
@[simp] theorem State.onFlt_md (f) : (s.onFlt f).md = s.md := rfl
@[simp] theorem State.onFlt_ls (f) : (s.onFlt f).ls = s.ls := rfl
@[simp] theorem State.onFlt_free (f) : (s.onFlt f).free = s.free := rfl
@[simp] theorem State.onFlt_pending (f) : (s.onFlt f).pending = s.pending := rfl
@[simp] theorem State.onFlt_gw (f pg o off) : (s.onFlt f).gw pg o off = s.gw pg o off := rfl

@[simp] theorem State.onCmd_regs (f) : (s.onCmd f).regs = s.regs := rfl
@[simp] theorem State.onCmd_held (f) : (s.onCmd f).held = s.held := rfl
@[simp] theorem State.onCmd_tim (f) : (s.onCmd f).tim = s.tim := rfl
@[simp] theorem State.onCmd_ref (f) : (s.onCmd f).ref = s.ref := rfl
@[simp] theorem State.onCmd_flt (f) : (s.onCmd f).flt = s.flt := rfl
@[simp] theorem State.onCmd_cmd (f) : (s.onCmd f).cmd = f s.cmd := rfl
@[simp] theorem State.onCmd_host (f) : (s.onCmd f).host = s.host := rfl
@[simp] theorem State.onCmd_flash (f) : (s.onCmd f).flash = s.flash := rfl
@[simp] theorem State.onCmd_net (f) : (s.onCmd f).net = s.net := rfl
@[simp] theorem State.onCmd_src (f) : (s.onCmd f).src = s.src := rfl
@[simp] theorem State.onCmd_rx (f) : (s.onCmd f).rx = s.rx := rfl
@[simp] theorem State.onCmd_xp (f) : (s.onCmd f).xp = s.xp := rfl
@[simp] theorem State.onCmd_scn (f) : (s.onCmd f).scn = s.scn := rfl
@[simp] theorem State.onCmd_met (f) : (s.onCmd f).met = s.met := rfl
@[simp] theorem State.onCmd_tx (f) : (s.onCmd f).tx = s.tx := rfl
@[simp] theorem State.onCmd_loc (f) : (s.onCmd f).loc = s.loc := rfl
@[simp] theorem State.onCmd_uma (f) : (s.onCmd f).uma = s.uma := rfl
@[simp] theorem State.onCmd_md (f) : (s.onCmd f).md = s.md := rfl
@[simp] theorem State.onCmd_ls (f) : (s.onCmd f).ls = s.ls := rfl
@[simp] theorem State.onCmd_free (f) : (s.onCmd f).free = s.free := rfl
@[simp] theorem State.onCmd_pending (f) : (s.onCmd f).pending = s.pending := rfl
@[simp] theorem State.onCmd_gw (f pg o off) : (s.onCmd f).gw pg o off = s.gw pg o off := rfl

@[simp] theorem State.onHost_regs (f) : (s.onHost f).regs = s.regs := rfl
@[simp] theorem State.onHost_held (f) : (s.onHost f).held = s.held := rfl
@[simp] theorem State.onHost_tim (f) : (s.onHost f).tim = s.tim := rfl
@[simp] theorem State.onHost_ref (f) : (s.onHost f).ref = s.ref := rfl
@[simp] theorem State.onHost_flt (f) : (s.onHost f).flt = s.flt := rfl
@[simp] theorem State.onHost_cmd (f) : (s.onHost f).cmd = s.cmd := rfl
@[simp] theorem State.onHost_host (f) : (s.onHost f).host = f s.host := rfl
@[simp] theorem State.onHost_flash (f) : (s.onHost f).flash = s.flash := rfl
@[simp] theorem State.onHost_net (f) : (s.onHost f).net = s.net := rfl
@[simp] theorem State.onHost_src (f) : (s.onHost f).src = s.src := rfl
@[simp] theorem State.onHost_rx (f) : (s.onHost f).rx = s.rx := rfl
@[simp] theorem State.onHost_xp (f) : (s.onHost f).xp = s.xp := rfl
@[simp] theorem State.onHost_scn (f) : (s.onHost f).scn = s.scn := rfl
@[simp] theorem State.onHost_met (f) : (s.onHost f).met = s.met := rfl
@[simp] theorem State.onHost_tx (f) : (s.onHost f).tx = s.tx := rfl
@[simp] theorem State.onHost_loc (f) : (s.onHost f).loc = s.loc := rfl
@[simp] theorem State.onHost_uma (f) : (s.onHost f).uma = s.uma := rfl
@[simp] theorem State.onHost_md (f) : (s.onHost f).md = s.md := rfl
@[simp] theorem State.onHost_ls (f) : (s.onHost f).ls = s.ls := rfl
@[simp] theorem State.onHost_free (f) : (s.onHost f).free = s.free := rfl
@[simp] theorem State.onHost_pending (f) : (s.onHost f).pending = s.pending := rfl
@[simp] theorem State.onHost_gw (f pg o off) : (s.onHost f).gw pg o off = s.gw pg o off := rfl

@[simp] theorem State.onFlash_regs (f) : (s.onFlash f).regs = s.regs := rfl
@[simp] theorem State.onFlash_held (f) : (s.onFlash f).held = s.held := rfl
@[simp] theorem State.onFlash_tim (f) : (s.onFlash f).tim = s.tim := rfl
@[simp] theorem State.onFlash_ref (f) : (s.onFlash f).ref = s.ref := rfl
@[simp] theorem State.onFlash_flt (f) : (s.onFlash f).flt = s.flt := rfl
@[simp] theorem State.onFlash_cmd (f) : (s.onFlash f).cmd = s.cmd := rfl
@[simp] theorem State.onFlash_host (f) : (s.onFlash f).host = s.host := rfl
@[simp] theorem State.onFlash_flash (f) : (s.onFlash f).flash = f s.flash := rfl
@[simp] theorem State.onFlash_net (f) : (s.onFlash f).net = s.net := rfl
@[simp] theorem State.onFlash_src (f) : (s.onFlash f).src = s.src := rfl
@[simp] theorem State.onFlash_rx (f) : (s.onFlash f).rx = s.rx := rfl
@[simp] theorem State.onFlash_xp (f) : (s.onFlash f).xp = s.xp := rfl
@[simp] theorem State.onFlash_scn (f) : (s.onFlash f).scn = s.scn := rfl
@[simp] theorem State.onFlash_met (f) : (s.onFlash f).met = s.met := rfl
@[simp] theorem State.onFlash_tx (f) : (s.onFlash f).tx = s.tx := rfl
@[simp] theorem State.onFlash_loc (f) : (s.onFlash f).loc = s.loc := rfl
@[simp] theorem State.onFlash_uma (f) : (s.onFlash f).uma = s.uma := rfl
@[simp] theorem State.onFlash_md (f) : (s.onFlash f).md = s.md := rfl
@[simp] theorem State.onFlash_ls (f) : (s.onFlash f).ls = s.ls := rfl
@[simp] theorem State.onFlash_free (f) : (s.onFlash f).free = s.free := rfl
@[simp] theorem State.onFlash_pending (f) : (s.onFlash f).pending = s.pending := rfl
@[simp] theorem State.onFlash_gw (f pg o off) : (s.onFlash f).gw pg o off = s.gw pg o off := rfl

@[simp] theorem State.onNet_regs (f) : (s.onNet f).regs = s.regs := rfl
@[simp] theorem State.onNet_held (f) : (s.onNet f).held = s.held := rfl
@[simp] theorem State.onNet_tim (f) : (s.onNet f).tim = s.tim := rfl
@[simp] theorem State.onNet_ref (f) : (s.onNet f).ref = s.ref := rfl
@[simp] theorem State.onNet_flt (f) : (s.onNet f).flt = s.flt := rfl
@[simp] theorem State.onNet_cmd (f) : (s.onNet f).cmd = s.cmd := rfl
@[simp] theorem State.onNet_host (f) : (s.onNet f).host = s.host := rfl
@[simp] theorem State.onNet_flash (f) : (s.onNet f).flash = s.flash := rfl
@[simp] theorem State.onNet_net (f) : (s.onNet f).net = f s.net := rfl
@[simp] theorem State.onNet_src (f) : (s.onNet f).src = s.src := rfl
@[simp] theorem State.onNet_rx (f) : (s.onNet f).rx = s.rx := rfl
@[simp] theorem State.onNet_xp (f) : (s.onNet f).xp = s.xp := rfl
@[simp] theorem State.onNet_scn (f) : (s.onNet f).scn = s.scn := rfl
@[simp] theorem State.onNet_met (f) : (s.onNet f).met = s.met := rfl
@[simp] theorem State.onNet_tx (f) : (s.onNet f).tx = s.tx := rfl
@[simp] theorem State.onNet_loc (f) : (s.onNet f).loc = s.loc := rfl
@[simp] theorem State.onNet_uma (f) : (s.onNet f).uma = s.uma := rfl
@[simp] theorem State.onNet_md (f) : (s.onNet f).md = s.md := rfl
@[simp] theorem State.onNet_ls (f) : (s.onNet f).ls = s.ls := rfl
@[simp] theorem State.onNet_free (f) : (s.onNet f).free = s.free := rfl
@[simp] theorem State.onNet_pending (f) : (s.onNet f).pending = s.pending := rfl
@[simp] theorem State.onNet_gw (f pg o off) : (s.onNet f).gw pg o off = s.gw pg o off := rfl

@[simp] theorem State.onSrc_regs (f) : (s.onSrc f).regs = s.regs := rfl
@[simp] theorem State.onSrc_held (f) : (s.onSrc f).held = s.held := rfl
@[simp] theorem State.onSrc_tim (f) : (s.onSrc f).tim = s.tim := rfl
@[simp] theorem State.onSrc_ref (f) : (s.onSrc f).ref = s.ref := rfl
@[simp] theorem State.onSrc_flt (f) : (s.onSrc f).flt = s.flt := rfl
@[simp] theorem State.onSrc_cmd (f) : (s.onSrc f).cmd = s.cmd := rfl
@[simp] theorem State.onSrc_host (f) : (s.onSrc f).host = s.host := rfl
@[simp] theorem State.onSrc_flash (f) : (s.onSrc f).flash = s.flash := rfl
@[simp] theorem State.onSrc_net (f) : (s.onSrc f).net = s.net := rfl
@[simp] theorem State.onSrc_src (f) : (s.onSrc f).src = f s.src := rfl
@[simp] theorem State.onSrc_rx (f) : (s.onSrc f).rx = s.rx := rfl
@[simp] theorem State.onSrc_xp (f) : (s.onSrc f).xp = s.xp := rfl
@[simp] theorem State.onSrc_scn (f) : (s.onSrc f).scn = s.scn := rfl
@[simp] theorem State.onSrc_met (f) : (s.onSrc f).met = s.met := rfl
@[simp] theorem State.onSrc_tx (f) : (s.onSrc f).tx = s.tx := rfl
@[simp] theorem State.onSrc_loc (f) : (s.onSrc f).loc = s.loc := rfl
@[simp] theorem State.onSrc_uma (f) : (s.onSrc f).uma = s.uma := rfl
@[simp] theorem State.onSrc_md (f) : (s.onSrc f).md = s.md := rfl
@[simp] theorem State.onSrc_ls (f) : (s.onSrc f).ls = s.ls := rfl
@[simp] theorem State.onSrc_free (f) : (s.onSrc f).free = s.free := rfl
@[simp] theorem State.onSrc_pending (f) : (s.onSrc f).pending = s.pending := rfl
@[simp] theorem State.onSrc_gw (f pg o off) : (s.onSrc f).gw pg o off = s.gw pg o off := rfl

@[simp] theorem State.onRx_regs (f) : (s.onRx f).regs = s.regs := rfl
@[simp] theorem State.onRx_held (f) : (s.onRx f).held = s.held := rfl
@[simp] theorem State.onRx_tim (f) : (s.onRx f).tim = s.tim := rfl
@[simp] theorem State.onRx_ref (f) : (s.onRx f).ref = s.ref := rfl
@[simp] theorem State.onRx_flt (f) : (s.onRx f).flt = s.flt := rfl
@[simp] theorem State.onRx_cmd (f) : (s.onRx f).cmd = s.cmd := rfl
@[simp] theorem State.onRx_host (f) : (s.onRx f).host = s.host := rfl
@[simp] theorem State.onRx_flash (f) : (s.onRx f).flash = s.flash := rfl
@[simp] theorem State.onRx_net (f) : (s.onRx f).net = s.net := rfl
@[simp] theorem State.onRx_src (f) : (s.onRx f).src = s.src := rfl
@[simp] theorem State.onRx_rx (f) : (s.onRx f).rx = f s.rx := rfl
@[simp] theorem State.onRx_xp (f) : (s.onRx f).xp = s.xp := rfl
@[simp] theorem State.onRx_scn (f) : (s.onRx f).scn = s.scn := rfl
@[simp] theorem State.onRx_met (f) : (s.onRx f).met = s.met := rfl
@[simp] theorem State.onRx_tx (f) : (s.onRx f).tx = s.tx := rfl
@[simp] theorem State.onRx_loc (f) : (s.onRx f).loc = s.loc := rfl
@[simp] theorem State.onRx_uma (f) : (s.onRx f).uma = s.uma := rfl
@[simp] theorem State.onRx_md (f) : (s.onRx f).md = s.md := rfl
@[simp] theorem State.onRx_ls (f) : (s.onRx f).ls = s.ls := rfl
@[simp] theorem State.onRx_free (f) : (s.onRx f).free = s.free := rfl
@[simp] theorem State.onRx_pending (f) : (s.onRx f).pending = s.pending := rfl
@[simp] theorem State.onRx_gw (f pg o off) : (s.onRx f).gw pg o off = s.gw pg o off := rfl

@[simp] theorem State.onXp_regs (f) : (s.onXp f).regs = s.regs := rfl
@[simp] theorem State.onXp_held (f) : (s.onXp f).held = s.held := rfl
@[simp] theorem State.onXp_tim (f) : (s.onXp f).tim = s.tim := rfl
@[simp] theorem State.onXp_ref (f) : (s.onXp f).ref = s.ref := rfl
@[simp] theorem State.onXp_flt (f) : (s.onXp f).flt = s.flt := rfl
@[simp] theorem State.onXp_cmd (f) : (s.onXp f).cmd = s.cmd := rfl
@[simp] theorem State.onXp_host (f) : (s.onXp f).host = s.host := rfl
@[simp] theorem State.onXp_flash (f) : (s.onXp f).flash = s.flash := rfl
@[simp] theorem State.onXp_net (f) : (s.onXp f).net = s.net := rfl
@[simp] theorem State.onXp_src (f) : (s.onXp f).src = s.src := rfl
@[simp] theorem State.onXp_rx (f) : (s.onXp f).rx = s.rx := rfl
@[simp] theorem State.onXp_xp (f) : (s.onXp f).xp = f s.xp := rfl
@[simp] theorem State.onXp_scn (f) : (s.onXp f).scn = s.scn := rfl
@[simp] theorem State.onXp_met (f) : (s.onXp f).met = s.met := rfl
@[simp] theorem State.onXp_tx (f) : (s.onXp f).tx = s.tx := rfl
@[simp] theorem State.onXp_loc (f) : (s.onXp f).loc = s.loc := rfl
@[simp] theorem State.onXp_uma (f) : (s.onXp f).uma = s.uma := rfl
@[simp] theorem State.onXp_md (f) : (s.onXp f).md = s.md := rfl
@[simp] theorem State.onXp_ls (f) : (s.onXp f).ls = s.ls := rfl
@[simp] theorem State.onXp_free (f) : (s.onXp f).free = s.free := rfl
@[simp] theorem State.onXp_pending (f) : (s.onXp f).pending = s.pending := rfl
@[simp] theorem State.onXp_gw (f pg o off) : (s.onXp f).gw pg o off = s.gw pg o off := rfl

@[simp] theorem State.onScn_regs (f) : (s.onScn f).regs = s.regs := rfl
@[simp] theorem State.onScn_held (f) : (s.onScn f).held = s.held := rfl
@[simp] theorem State.onScn_tim (f) : (s.onScn f).tim = s.tim := rfl
@[simp] theorem State.onScn_ref (f) : (s.onScn f).ref = s.ref := rfl
@[simp] theorem State.onScn_flt (f) : (s.onScn f).flt = s.flt := rfl
@[simp] theorem State.onScn_cmd (f) : (s.onScn f).cmd = s.cmd := rfl
@[simp] theorem State.onScn_host (f) : (s.onScn f).host = s.host := rfl
@[simp] theorem State.onScn_flash (f) : (s.onScn f).flash = s.flash := rfl
@[simp] theorem State.onScn_net (f) : (s.onScn f).net = s.net := rfl
@[simp] theorem State.onScn_src (f) : (s.onScn f).src = s.src := rfl
@[simp] theorem State.onScn_rx (f) : (s.onScn f).rx = s.rx := rfl
@[simp] theorem State.onScn_xp (f) : (s.onScn f).xp = s.xp := rfl
@[simp] theorem State.onScn_scn (f) : (s.onScn f).scn = f s.scn := rfl
@[simp] theorem State.onScn_met (f) : (s.onScn f).met = s.met := rfl
@[simp] theorem State.onScn_tx (f) : (s.onScn f).tx = s.tx := rfl
@[simp] theorem State.onScn_loc (f) : (s.onScn f).loc = s.loc := rfl
@[simp] theorem State.onScn_uma (f) : (s.onScn f).uma = s.uma := rfl
@[simp] theorem State.onScn_md (f) : (s.onScn f).md = s.md := rfl
@[simp] theorem State.onScn_ls (f) : (s.onScn f).ls = s.ls := rfl
@[simp] theorem State.onScn_free (f) : (s.onScn f).free = s.free := rfl
@[simp] theorem State.onScn_pending (f) : (s.onScn f).pending = s.pending := rfl
@[simp] theorem State.onScn_gw (f pg o off) : (s.onScn f).gw pg o off = s.gw pg o off := rfl

@[simp] theorem State.onMet_regs (f) : (s.onMet f).regs = s.regs := rfl
@[simp] theorem State.onMet_held (f) : (s.onMet f).held = s.held := rfl
@[simp] theorem State.onMet_tim (f) : (s.onMet f).tim = s.tim := rfl
@[simp] theorem State.onMet_ref (f) : (s.onMet f).ref = s.ref := rfl
@[simp] theorem State.onMet_flt (f) : (s.onMet f).flt = s.flt := rfl
@[simp] theorem State.onMet_cmd (f) : (s.onMet f).cmd = s.cmd := rfl
@[simp] theorem State.onMet_host (f) : (s.onMet f).host = s.host := rfl
@[simp] theorem State.onMet_flash (f) : (s.onMet f).flash = s.flash := rfl
@[simp] theorem State.onMet_net (f) : (s.onMet f).net = s.net := rfl
@[simp] theorem State.onMet_src (f) : (s.onMet f).src = s.src := rfl
@[simp] theorem State.onMet_rx (f) : (s.onMet f).rx = s.rx := rfl
@[simp] theorem State.onMet_xp (f) : (s.onMet f).xp = s.xp := rfl
@[simp] theorem State.onMet_scn (f) : (s.onMet f).scn = s.scn := rfl
@[simp] theorem State.onMet_met (f) : (s.onMet f).met = f s.met := rfl
@[simp] theorem State.onMet_tx (f) : (s.onMet f).tx = s.tx := rfl
@[simp] theorem State.onMet_loc (f) : (s.onMet f).loc = s.loc := rfl
@[simp] theorem State.onMet_uma (f) : (s.onMet f).uma = s.uma := rfl
@[simp] theorem State.onMet_md (f) : (s.onMet f).md = s.md := rfl
@[simp] theorem State.onMet_ls (f) : (s.onMet f).ls = s.ls := rfl
@[simp] theorem State.onMet_free (f) : (s.onMet f).free = s.free := rfl
@[simp] theorem State.onMet_pending (f) : (s.onMet f).pending = s.pending := rfl
@[simp] theorem State.onMet_gw (f pg o off) : (s.onMet f).gw pg o off = s.gw pg o off := rfl

@[simp] theorem State.onTx_regs (f) : (s.onTx f).regs = s.regs := rfl
@[simp] theorem State.onTx_held (f) : (s.onTx f).held = s.held := rfl
@[simp] theorem State.onTx_tim (f) : (s.onTx f).tim = s.tim := rfl
@[simp] theorem State.onTx_ref (f) : (s.onTx f).ref = s.ref := rfl
@[simp] theorem State.onTx_flt (f) : (s.onTx f).flt = s.flt := rfl
@[simp] theorem State.onTx_cmd (f) : (s.onTx f).cmd = s.cmd := rfl
@[simp] theorem State.onTx_host (f) : (s.onTx f).host = s.host := rfl
@[simp] theorem State.onTx_flash (f) : (s.onTx f).flash = s.flash := rfl
@[simp] theorem State.onTx_net (f) : (s.onTx f).net = s.net := rfl
@[simp] theorem State.onTx_src (f) : (s.onTx f).src = s.src := rfl
@[simp] theorem State.onTx_rx (f) : (s.onTx f).rx = s.rx := rfl
@[simp] theorem State.onTx_xp (f) : (s.onTx f).xp = s.xp := rfl
@[simp] theorem State.onTx_scn (f) : (s.onTx f).scn = s.scn := rfl
@[simp] theorem State.onTx_met (f) : (s.onTx f).met = s.met := rfl
@[simp] theorem State.onTx_tx (f) : (s.onTx f).tx = f s.tx := rfl
@[simp] theorem State.onTx_loc (f) : (s.onTx f).loc = s.loc := rfl
@[simp] theorem State.onTx_uma (f) : (s.onTx f).uma = s.uma := rfl
@[simp] theorem State.onTx_md (f) : (s.onTx f).md = s.md := rfl
@[simp] theorem State.onTx_ls (f) : (s.onTx f).ls = s.ls := rfl
@[simp] theorem State.onTx_free (f) : (s.onTx f).free = s.free := rfl
@[simp] theorem State.onTx_pending (f) : (s.onTx f).pending = s.pending := rfl
@[simp] theorem State.onTx_gw (f pg o off) : (s.onTx f).gw pg o off = s.gw pg o off := rfl

@[simp] theorem State.onLoc_regs (f) : (s.onLoc f).regs = s.regs := rfl
@[simp] theorem State.onLoc_held (f) : (s.onLoc f).held = s.held := rfl
@[simp] theorem State.onLoc_tim (f) : (s.onLoc f).tim = s.tim := rfl
@[simp] theorem State.onLoc_ref (f) : (s.onLoc f).ref = s.ref := rfl
@[simp] theorem State.onLoc_flt (f) : (s.onLoc f).flt = s.flt := rfl
@[simp] theorem State.onLoc_cmd (f) : (s.onLoc f).cmd = s.cmd := rfl
@[simp] theorem State.onLoc_host (f) : (s.onLoc f).host = s.host := rfl
@[simp] theorem State.onLoc_flash (f) : (s.onLoc f).flash = s.flash := rfl
@[simp] theorem State.onLoc_net (f) : (s.onLoc f).net = s.net := rfl
@[simp] theorem State.onLoc_src (f) : (s.onLoc f).src = s.src := rfl
@[simp] theorem State.onLoc_rx (f) : (s.onLoc f).rx = s.rx := rfl
@[simp] theorem State.onLoc_xp (f) : (s.onLoc f).xp = s.xp := rfl
@[simp] theorem State.onLoc_scn (f) : (s.onLoc f).scn = s.scn := rfl
@[simp] theorem State.onLoc_met (f) : (s.onLoc f).met = s.met := rfl
@[simp] theorem State.onLoc_tx (f) : (s.onLoc f).tx = s.tx := rfl
@[simp] theorem State.onLoc_loc (f) : (s.onLoc f).loc = f s.loc := rfl
@[simp] theorem State.onLoc_uma (f) : (s.onLoc f).uma = s.uma := rfl
@[simp] theorem State.onLoc_md (f) : (s.onLoc f).md = s.md := rfl
@[simp] theorem State.onLoc_ls (f) : (s.onLoc f).ls = s.ls := rfl
@[simp] theorem State.onLoc_free (f) : (s.onLoc f).free = s.free := rfl
@[simp] theorem State.onLoc_pending (f) : (s.onLoc f).pending = s.pending := rfl
@[simp] theorem State.onLoc_gw (f pg o off) : (s.onLoc f).gw pg o off = s.gw pg o off := rfl

@[simp] theorem State.onUma_regs (f) : (s.onUma f).regs = s.regs := rfl
@[simp] theorem State.onUma_held (f) : (s.onUma f).held = s.held := rfl
@[simp] theorem State.onUma_tim (f) : (s.onUma f).tim = s.tim := rfl
@[simp] theorem State.onUma_ref (f) : (s.onUma f).ref = s.ref := rfl
@[simp] theorem State.onUma_flt (f) : (s.onUma f).flt = s.flt := rfl
@[simp] theorem State.onUma_cmd (f) : (s.onUma f).cmd = s.cmd := rfl
@[simp] theorem State.onUma_host (f) : (s.onUma f).host = s.host := rfl
@[simp] theorem State.onUma_flash (f) : (s.onUma f).flash = s.flash := rfl
@[simp] theorem State.onUma_net (f) : (s.onUma f).net = s.net := rfl
@[simp] theorem State.onUma_src (f) : (s.onUma f).src = s.src := rfl
@[simp] theorem State.onUma_rx (f) : (s.onUma f).rx = s.rx := rfl
@[simp] theorem State.onUma_xp (f) : (s.onUma f).xp = s.xp := rfl
@[simp] theorem State.onUma_scn (f) : (s.onUma f).scn = s.scn := rfl
@[simp] theorem State.onUma_met (f) : (s.onUma f).met = s.met := rfl
@[simp] theorem State.onUma_tx (f) : (s.onUma f).tx = s.tx := rfl
@[simp] theorem State.onUma_loc (f) : (s.onUma f).loc = s.loc := rfl
@[simp] theorem State.onUma_uma (f) : (s.onUma f).uma = f s.uma := rfl
@[simp] theorem State.onUma_md (f) : (s.onUma f).md = s.md := rfl
@[simp] theorem State.onUma_ls (f) : (s.onUma f).ls = s.ls := rfl
@[simp] theorem State.onUma_free (f) : (s.onUma f).free = s.free := rfl
@[simp] theorem State.onUma_pending (f) : (s.onUma f).pending = s.pending := rfl
@[simp] theorem State.onUma_gw (f pg o off) : (s.onUma f).gw pg o off = s.gw pg o off := rfl

@[simp] theorem State.onMd_regs (f) : (s.onMd f).regs = s.regs := rfl
@[simp] theorem State.onMd_held (f) : (s.onMd f).held = s.held := rfl
@[simp] theorem State.onMd_tim (f) : (s.onMd f).tim = s.tim := rfl
@[simp] theorem State.onMd_ref (f) : (s.onMd f).ref = s.ref := rfl
@[simp] theorem State.onMd_flt (f) : (s.onMd f).flt = s.flt := rfl
@[simp] theorem State.onMd_cmd (f) : (s.onMd f).cmd = s.cmd := rfl
@[simp] theorem State.onMd_host (f) : (s.onMd f).host = s.host := rfl
@[simp] theorem State.onMd_flash (f) : (s.onMd f).flash = s.flash := rfl
@[simp] theorem State.onMd_net (f) : (s.onMd f).net = s.net := rfl
@[simp] theorem State.onMd_src (f) : (s.onMd f).src = s.src := rfl
@[simp] theorem State.onMd_rx (f) : (s.onMd f).rx = s.rx := rfl
@[simp] theorem State.onMd_xp (f) : (s.onMd f).xp = s.xp := rfl
@[simp] theorem State.onMd_scn (f) : (s.onMd f).scn = s.scn := rfl
@[simp] theorem State.onMd_met (f) : (s.onMd f).met = s.met := rfl
@[simp] theorem State.onMd_tx (f) : (s.onMd f).tx = s.tx := rfl
@[simp] theorem State.onMd_loc (f) : (s.onMd f).loc = s.loc := rfl
@[simp] theorem State.onMd_uma (f) : (s.onMd f).uma = s.uma := rfl
@[simp] theorem State.onMd_md (f) : (s.onMd f).md = f s.md := rfl
@[simp] theorem State.onMd_ls (f) : (s.onMd f).ls = s.ls := rfl
@[simp] theorem State.onMd_free (f) : (s.onMd f).free = s.free := rfl
@[simp] theorem State.onMd_pending (f) : (s.onMd f).pending = s.pending := rfl
@[simp] theorem State.onMd_gw (f pg o off) : (s.onMd f).gw pg o off = s.gw pg o off := rfl

@[simp] theorem State.onLs_regs (f) : (s.onLs f).regs = s.regs := rfl
@[simp] theorem State.onLs_held (f) : (s.onLs f).held = s.held := rfl
@[simp] theorem State.onLs_tim (f) : (s.onLs f).tim = s.tim := rfl
@[simp] theorem State.onLs_ref (f) : (s.onLs f).ref = s.ref := rfl
@[simp] theorem State.onLs_flt (f) : (s.onLs f).flt = s.flt := rfl
@[simp] theorem State.onLs_cmd (f) : (s.onLs f).cmd = s.cmd := rfl
@[simp] theorem State.onLs_host (f) : (s.onLs f).host = s.host := rfl
@[simp] theorem State.onLs_flash (f) : (s.onLs f).flash = s.flash := rfl
@[simp] theorem State.onLs_net (f) : (s.onLs f).net = s.net := rfl
@[simp] theorem State.onLs_src (f) : (s.onLs f).src = s.src := rfl
@[simp] theorem State.onLs_rx (f) : (s.onLs f).rx = s.rx := rfl
@[simp] theorem State.onLs_xp (f) : (s.onLs f).xp = s.xp := rfl
@[simp] theorem State.onLs_scn (f) : (s.onLs f).scn = s.scn := rfl
@[simp] theorem State.onLs_met (f) : (s.onLs f).met = s.met := rfl
@[simp] theorem State.onLs_tx (f) : (s.onLs f).tx = s.tx := rfl
@[simp] theorem State.onLs_loc (f) : (s.onLs f).loc = s.loc := rfl
@[simp] theorem State.onLs_uma (f) : (s.onLs f).uma = s.uma := rfl
@[simp] theorem State.onLs_md (f) : (s.onLs f).md = s.md := rfl
@[simp] theorem State.onLs_ls (f) : (s.onLs f).ls = f s.ls := rfl
@[simp] theorem State.onLs_free (f) : (s.onLs f).free = s.free := rfl
@[simp] theorem State.onLs_pending (f) : (s.onLs f).pending = s.pending := rfl
@[simp] theorem State.onLs_gw (f pg o off) : (s.onLs f).gw pg o off = s.gw pg o off := rfl

theorem State.pw_regs {pg obj off v} : (s.pw pg obj off v).regs = tset resetWord s.regs (rkey pg obj off) (BitVec.ofNat 32 v) := by
  unfold State.pw; with_reducible rfl
@[simp] theorem State.pw_held (pg o off v) : (s.pw pg o off v).held = s.held := by unfold State.pw; with_reducible rfl
@[simp] theorem State.pw_tim (pg o off v) : (s.pw pg o off v).tim = s.tim := by unfold State.pw; with_reducible rfl
@[simp] theorem State.pw_ref (pg o off v) : (s.pw pg o off v).ref = s.ref := by unfold State.pw; with_reducible rfl
@[simp] theorem State.pw_flt (pg o off v) : (s.pw pg o off v).flt = s.flt := by unfold State.pw; with_reducible rfl
@[simp] theorem State.pw_cmd (pg o off v) : (s.pw pg o off v).cmd = s.cmd := by unfold State.pw; with_reducible rfl
@[simp] theorem State.pw_host (pg o off v) : (s.pw pg o off v).host = s.host := by unfold State.pw; with_reducible rfl
@[simp] theorem State.pw_flash (pg o off v) : (s.pw pg o off v).flash = s.flash := by unfold State.pw; with_reducible rfl
@[simp] theorem State.pw_net (pg o off v) : (s.pw pg o off v).net = s.net := by unfold State.pw; with_reducible rfl
@[simp] theorem State.pw_src (pg o off v) : (s.pw pg o off v).src = s.src := by unfold State.pw; with_reducible rfl
@[simp] theorem State.pw_rx (pg o off v) : (s.pw pg o off v).rx = s.rx := by unfold State.pw; with_reducible rfl
@[simp] theorem State.pw_xp (pg o off v) : (s.pw pg o off v).xp = s.xp := by unfold State.pw; with_reducible rfl
@[simp] theorem State.pw_scn (pg o off v) : (s.pw pg o off v).scn = s.scn := by unfold State.pw; with_reducible rfl
@[simp] theorem State.pw_met (pg o off v) : (s.pw pg o off v).met = s.met := by unfold State.pw; with_reducible rfl
@[simp] theorem State.pw_tx (pg o off v) : (s.pw pg o off v).tx = s.tx := by unfold State.pw; with_reducible rfl
@[simp] theorem State.pw_loc (pg o off v) : (s.pw pg o off v).loc = s.loc := by unfold State.pw; with_reducible rfl
@[simp] theorem State.pw_uma (pg o off v) : (s.pw pg o off v).uma = s.uma := by unfold State.pw; with_reducible rfl
@[simp] theorem State.pw_md (pg o off v) : (s.pw pg o off v).md = s.md := by unfold State.pw; with_reducible rfl
@[simp] theorem State.pw_ls (pg o off v) : (s.pw pg o off v).ls = s.ls := by unfold State.pw; with_reducible rfl
@[simp] theorem State.pw_free (pg o off v) : (s.pw pg o off v).free = s.free := by unfold State.pw; with_reducible rfl
@[simp] theorem State.pw_pending (pg o off v) : (s.pw pg o off v).pending = s.pending := by unfold State.pw; with_reducible rfl

@[simp] theorem State.ww_held (r v o i) : (s.ww r v o i).held = s.held := by simp [State.ww]
@[simp] theorem State.ww_tim (r v o i) : (s.ww r v o i).tim = s.tim := by simp [State.ww]
@[simp] theorem State.ww_ref (r v o i) : (s.ww r v o i).ref = s.ref := by simp [State.ww]
@[simp] theorem State.ww_flt (r v o i) : (s.ww r v o i).flt = s.flt := by simp [State.ww]
@[simp] theorem State.ww_cmd (r v o i) : (s.ww r v o i).cmd = s.cmd := by simp [State.ww]
@[simp] theorem State.ww_host (r v o i) : (s.ww r v o i).host = s.host := by simp [State.ww]
@[simp] theorem State.ww_flash (r v o i) : (s.ww r v o i).flash = s.flash := by simp [State.ww]
@[simp] theorem State.ww_net (r v o i) : (s.ww r v o i).net = s.net := by simp [State.ww]
@[simp] theorem State.ww_src (r v o i) : (s.ww r v o i).src = s.src := by simp [State.ww]
@[simp] theorem State.ww_rx (r v o i) : (s.ww r v o i).rx = s.rx := by simp [State.ww]
@[simp] theorem State.ww_xp (r v o i) : (s.ww r v o i).xp = s.xp := by simp [State.ww]
@[simp] theorem State.ww_scn (r v o i) : (s.ww r v o i).scn = s.scn := by simp [State.ww]
@[simp] theorem State.ww_met (r v o i) : (s.ww r v o i).met = s.met := by simp [State.ww]
@[simp] theorem State.ww_tx (r v o i) : (s.ww r v o i).tx = s.tx := by simp [State.ww]
@[simp] theorem State.ww_loc (r v o i) : (s.ww r v o i).loc = s.loc := by simp [State.ww]
@[simp] theorem State.ww_uma (r v o i) : (s.ww r v o i).uma = s.uma := by simp [State.ww]
@[simp] theorem State.ww_md (r v o i) : (s.ww r v o i).md = s.md := by simp [State.ww]
@[simp] theorem State.ww_ls (r v o i) : (s.ww r v o i).ls = s.ls := by simp [State.ww]
@[simp] theorem State.ww_free (r v o i) : (s.ww r v o i).free = s.free := by simp [State.ww]
@[simp] theorem State.ww_pending (r v o i) : (s.ww r v o i).pending = s.pending := by simp [State.ww]

@[simp] theorem State.wr_held (f v o i) : (s.wr f v o i).held = s.held := by simp [State.wr]
@[simp] theorem State.wr_tim (f v o i) : (s.wr f v o i).tim = s.tim := by simp [State.wr]
@[simp] theorem State.wr_ref (f v o i) : (s.wr f v o i).ref = s.ref := by simp [State.wr]
@[simp] theorem State.wr_flt (f v o i) : (s.wr f v o i).flt = s.flt := by simp [State.wr]
@[simp] theorem State.wr_cmd (f v o i) : (s.wr f v o i).cmd = s.cmd := by simp [State.wr]
@[simp] theorem State.wr_host (f v o i) : (s.wr f v o i).host = s.host := by simp [State.wr]
@[simp] theorem State.wr_flash (f v o i) : (s.wr f v o i).flash = s.flash := by simp [State.wr]
@[simp] theorem State.wr_net (f v o i) : (s.wr f v o i).net = s.net := by simp [State.wr]
@[simp] theorem State.wr_src (f v o i) : (s.wr f v o i).src = s.src := by simp [State.wr]
@[simp] theorem State.wr_rx (f v o i) : (s.wr f v o i).rx = s.rx := by simp [State.wr]
@[simp] theorem State.wr_xp (f v o i) : (s.wr f v o i).xp = s.xp := by simp [State.wr]
@[simp] theorem State.wr_scn (f v o i) : (s.wr f v o i).scn = s.scn := by simp [State.wr]
@[simp] theorem State.wr_met (f v o i) : (s.wr f v o i).met = s.met := by simp [State.wr]
@[simp] theorem State.wr_tx (f v o i) : (s.wr f v o i).tx = s.tx := by simp [State.wr]
@[simp] theorem State.wr_loc (f v o i) : (s.wr f v o i).loc = s.loc := by simp [State.wr]
@[simp] theorem State.wr_uma (f v o i) : (s.wr f v o i).uma = s.uma := by simp [State.wr]
@[simp] theorem State.wr_md (f v o i) : (s.wr f v o i).md = s.md := by simp [State.wr]
@[simp] theorem State.wr_ls (f v o i) : (s.wr f v o i).ls = s.ls := by simp [State.wr]
@[simp] theorem State.wr_free (f v o i) : (s.wr f v o i).free = s.free := by simp [State.wr]
@[simp] theorem State.wr_pending (f v o i) : (s.wr f v o i).pending = s.pending := by simp [State.wr]

@[simp] theorem State.wrS_held (f v o i) : (s.wrS f v o i).held = s.held := by simp [State.wrS]
@[simp] theorem State.wrS_tim (f v o i) : (s.wrS f v o i).tim = s.tim := by simp [State.wrS]
@[simp] theorem State.wrS_ref (f v o i) : (s.wrS f v o i).ref = s.ref := by simp [State.wrS]
@[simp] theorem State.wrS_flt (f v o i) : (s.wrS f v o i).flt = s.flt := by simp [State.wrS]
@[simp] theorem State.wrS_cmd (f v o i) : (s.wrS f v o i).cmd = s.cmd := by simp [State.wrS]
@[simp] theorem State.wrS_host (f v o i) : (s.wrS f v o i).host = s.host := by simp [State.wrS]
@[simp] theorem State.wrS_flash (f v o i) : (s.wrS f v o i).flash = s.flash := by simp [State.wrS]
@[simp] theorem State.wrS_net (f v o i) : (s.wrS f v o i).net = s.net := by simp [State.wrS]
@[simp] theorem State.wrS_src (f v o i) : (s.wrS f v o i).src = s.src := by simp [State.wrS]
@[simp] theorem State.wrS_rx (f v o i) : (s.wrS f v o i).rx = s.rx := by simp [State.wrS]
@[simp] theorem State.wrS_xp (f v o i) : (s.wrS f v o i).xp = s.xp := by simp [State.wrS]
@[simp] theorem State.wrS_scn (f v o i) : (s.wrS f v o i).scn = s.scn := by simp [State.wrS]
@[simp] theorem State.wrS_met (f v o i) : (s.wrS f v o i).met = s.met := by simp [State.wrS]
@[simp] theorem State.wrS_tx (f v o i) : (s.wrS f v o i).tx = s.tx := by simp [State.wrS]
@[simp] theorem State.wrS_loc (f v o i) : (s.wrS f v o i).loc = s.loc := by simp [State.wrS]
@[simp] theorem State.wrS_uma (f v o i) : (s.wrS f v o i).uma = s.uma := by simp [State.wrS]
@[simp] theorem State.wrS_md (f v o i) : (s.wrS f v o i).md = s.md := by simp [State.wrS]
@[simp] theorem State.wrS_ls (f v o i) : (s.wrS f v o i).ls = s.ls := by simp [State.wrS]
@[simp] theorem State.wrS_free (f v o i) : (s.wrS f v o i).free = s.free := by simp [State.wrS]
@[simp] theorem State.wrS_pending (f v o i) : (s.wrS f v o i).pending = s.pending := by simp [State.wrS]

@[simp] theorem State.wb_held (f v o i) : (s.wb f v o i).held = s.held := by simp [State.wb]
@[simp] theorem State.wb_tim (f v o i) : (s.wb f v o i).tim = s.tim := by simp [State.wb]
@[simp] theorem State.wb_ref (f v o i) : (s.wb f v o i).ref = s.ref := by simp [State.wb]
@[simp] theorem State.wb_flt (f v o i) : (s.wb f v o i).flt = s.flt := by simp [State.wb]
@[simp] theorem State.wb_cmd (f v o i) : (s.wb f v o i).cmd = s.cmd := by simp [State.wb]
@[simp] theorem State.wb_host (f v o i) : (s.wb f v o i).host = s.host := by simp [State.wb]
@[simp] theorem State.wb_flash (f v o i) : (s.wb f v o i).flash = s.flash := by simp [State.wb]
@[simp] theorem State.wb_net (f v o i) : (s.wb f v o i).net = s.net := by simp [State.wb]
@[simp] theorem State.wb_src (f v o i) : (s.wb f v o i).src = s.src := by simp [State.wb]
@[simp] theorem State.wb_rx (f v o i) : (s.wb f v o i).rx = s.rx := by simp [State.wb]
@[simp] theorem State.wb_xp (f v o i) : (s.wb f v o i).xp = s.xp := by simp [State.wb]
@[simp] theorem State.wb_scn (f v o i) : (s.wb f v o i).scn = s.scn := by simp [State.wb]
@[simp] theorem State.wb_met (f v o i) : (s.wb f v o i).met = s.met := by simp [State.wb]
@[simp] theorem State.wb_tx (f v o i) : (s.wb f v o i).tx = s.tx := by simp [State.wb]
@[simp] theorem State.wb_loc (f v o i) : (s.wb f v o i).loc = s.loc := by simp [State.wb]
@[simp] theorem State.wb_uma (f v o i) : (s.wb f v o i).uma = s.uma := by simp [State.wb]
@[simp] theorem State.wb_md (f v o i) : (s.wb f v o i).md = s.md := by simp [State.wb]
@[simp] theorem State.wb_ls (f v o i) : (s.wb f v o i).ls = s.ls := by simp [State.wb]
@[simp] theorem State.wb_free (f v o i) : (s.wb f v o i).free = s.free := by simp [State.wb]
@[simp] theorem State.wb_pending (f v o i) : (s.wb f v o i).pending = s.pending := by simp [State.wb]

@[simp] theorem State.wr64_held (h l v o i) : (s.wr64 h l v o i).held = s.held := by simp [State.wr64]
@[simp] theorem State.wr64_tim (h l v o i) : (s.wr64 h l v o i).tim = s.tim := by simp [State.wr64]
@[simp] theorem State.wr64_ref (h l v o i) : (s.wr64 h l v o i).ref = s.ref := by simp [State.wr64]
@[simp] theorem State.wr64_flt (h l v o i) : (s.wr64 h l v o i).flt = s.flt := by simp [State.wr64]
@[simp] theorem State.wr64_cmd (h l v o i) : (s.wr64 h l v o i).cmd = s.cmd := by simp [State.wr64]
@[simp] theorem State.wr64_host (h l v o i) : (s.wr64 h l v o i).host = s.host := by simp [State.wr64]
@[simp] theorem State.wr64_flash (h l v o i) : (s.wr64 h l v o i).flash = s.flash := by simp [State.wr64]
@[simp] theorem State.wr64_net (h l v o i) : (s.wr64 h l v o i).net = s.net := by simp [State.wr64]
@[simp] theorem State.wr64_src (h l v o i) : (s.wr64 h l v o i).src = s.src := by simp [State.wr64]
@[simp] theorem State.wr64_rx (h l v o i) : (s.wr64 h l v o i).rx = s.rx := by simp [State.wr64]
@[simp] theorem State.wr64_xp (h l v o i) : (s.wr64 h l v o i).xp = s.xp := by simp [State.wr64]
@[simp] theorem State.wr64_scn (h l v o i) : (s.wr64 h l v o i).scn = s.scn := by simp [State.wr64]
@[simp] theorem State.wr64_met (h l v o i) : (s.wr64 h l v o i).met = s.met := by simp [State.wr64]
@[simp] theorem State.wr64_tx (h l v o i) : (s.wr64 h l v o i).tx = s.tx := by simp [State.wr64]
@[simp] theorem State.wr64_loc (h l v o i) : (s.wr64 h l v o i).loc = s.loc := by simp [State.wr64]
@[simp] theorem State.wr64_uma (h l v o i) : (s.wr64 h l v o i).uma = s.uma := by simp [State.wr64]
@[simp] theorem State.wr64_md (h l v o i) : (s.wr64 h l v o i).md = s.md := by simp [State.wr64]
@[simp] theorem State.wr64_ls (h l v o i) : (s.wr64 h l v o i).ls = s.ls := by simp [State.wr64]
@[simp] theorem State.wr64_free (h l v o i) : (s.wr64 h l v o i).free = s.free := by simp [State.wr64]
@[simp] theorem State.wr64_pending (h l v o i) : (s.wr64 h l v o i).pending = s.pending := by simp [State.wr64]

@[simp] theorem State.cnt_held (f o i n) : (s.cnt f o i n).held = s.held := by simp [State.cnt]
@[simp] theorem State.cnt_tim (f o i n) : (s.cnt f o i n).tim = s.tim := by simp [State.cnt]
@[simp] theorem State.cnt_ref (f o i n) : (s.cnt f o i n).ref = s.ref := by simp [State.cnt]
@[simp] theorem State.cnt_flt (f o i n) : (s.cnt f o i n).flt = s.flt := by simp [State.cnt]
@[simp] theorem State.cnt_cmd (f o i n) : (s.cnt f o i n).cmd = s.cmd := by simp [State.cnt]
@[simp] theorem State.cnt_host (f o i n) : (s.cnt f o i n).host = s.host := by simp [State.cnt]
@[simp] theorem State.cnt_flash (f o i n) : (s.cnt f o i n).flash = s.flash := by simp [State.cnt]
@[simp] theorem State.cnt_net (f o i n) : (s.cnt f o i n).net = s.net := by simp [State.cnt]
@[simp] theorem State.cnt_src (f o i n) : (s.cnt f o i n).src = s.src := by simp [State.cnt]
@[simp] theorem State.cnt_rx (f o i n) : (s.cnt f o i n).rx = s.rx := by simp [State.cnt]
@[simp] theorem State.cnt_xp (f o i n) : (s.cnt f o i n).xp = s.xp := by simp [State.cnt]
@[simp] theorem State.cnt_scn (f o i n) : (s.cnt f o i n).scn = s.scn := by simp [State.cnt]
@[simp] theorem State.cnt_met (f o i n) : (s.cnt f o i n).met = s.met := by simp [State.cnt]
@[simp] theorem State.cnt_tx (f o i n) : (s.cnt f o i n).tx = s.tx := by simp [State.cnt]
@[simp] theorem State.cnt_loc (f o i n) : (s.cnt f o i n).loc = s.loc := by simp [State.cnt]
@[simp] theorem State.cnt_uma (f o i n) : (s.cnt f o i n).uma = s.uma := by simp [State.cnt]
@[simp] theorem State.cnt_md (f o i n) : (s.cnt f o i n).md = s.md := by simp [State.cnt]
@[simp] theorem State.cnt_ls (f o i n) : (s.cnt f o i n).ls = s.ls := by simp [State.cnt]
@[simp] theorem State.cnt_free (f o i n) : (s.cnt f o i n).free = s.free := by simp [State.cnt]
@[simp] theorem State.cnt_pending (f o i n) : (s.cnt f o i n).pending = s.pending := by simp [State.cnt]

@[simp] theorem State.cntw_held (f o i n) : (s.cntw f o i n).held = s.held := by simp [State.cntw]
@[simp] theorem State.cntw_tim (f o i n) : (s.cntw f o i n).tim = s.tim := by simp [State.cntw]
@[simp] theorem State.cntw_ref (f o i n) : (s.cntw f o i n).ref = s.ref := by simp [State.cntw]
@[simp] theorem State.cntw_flt (f o i n) : (s.cntw f o i n).flt = s.flt := by simp [State.cntw]
@[simp] theorem State.cntw_cmd (f o i n) : (s.cntw f o i n).cmd = s.cmd := by simp [State.cntw]
@[simp] theorem State.cntw_host (f o i n) : (s.cntw f o i n).host = s.host := by simp [State.cntw]
@[simp] theorem State.cntw_flash (f o i n) : (s.cntw f o i n).flash = s.flash := by simp [State.cntw]
@[simp] theorem State.cntw_net (f o i n) : (s.cntw f o i n).net = s.net := by simp [State.cntw]
@[simp] theorem State.cntw_src (f o i n) : (s.cntw f o i n).src = s.src := by simp [State.cntw]
@[simp] theorem State.cntw_rx (f o i n) : (s.cntw f o i n).rx = s.rx := by simp [State.cntw]
@[simp] theorem State.cntw_xp (f o i n) : (s.cntw f o i n).xp = s.xp := by simp [State.cntw]
@[simp] theorem State.cntw_scn (f o i n) : (s.cntw f o i n).scn = s.scn := by simp [State.cntw]
@[simp] theorem State.cntw_met (f o i n) : (s.cntw f o i n).met = s.met := by simp [State.cntw]
@[simp] theorem State.cntw_tx (f o i n) : (s.cntw f o i n).tx = s.tx := by simp [State.cntw]
@[simp] theorem State.cntw_loc (f o i n) : (s.cntw f o i n).loc = s.loc := by simp [State.cntw]
@[simp] theorem State.cntw_uma (f o i n) : (s.cntw f o i n).uma = s.uma := by simp [State.cntw]
@[simp] theorem State.cntw_md (f o i n) : (s.cntw f o i n).md = s.md := by simp [State.cntw]
@[simp] theorem State.cntw_ls (f o i n) : (s.cntw f o i n).ls = s.ls := by simp [State.cntw]
@[simp] theorem State.cntw_free (f o i n) : (s.cntw f o i n).free = s.free := by simp [State.cntw]
@[simp] theorem State.cntw_pending (f o i n) : (s.cntw f o i n).pending = s.pending := by simp [State.cntw]

@[simp] theorem State.cntr_held (r o i n) : (s.cntr r o i n).held = s.held := by simp [State.cntr]
@[simp] theorem State.cntr_tim (r o i n) : (s.cntr r o i n).tim = s.tim := by simp [State.cntr]
@[simp] theorem State.cntr_ref (r o i n) : (s.cntr r o i n).ref = s.ref := by simp [State.cntr]
@[simp] theorem State.cntr_flt (r o i n) : (s.cntr r o i n).flt = s.flt := by simp [State.cntr]
@[simp] theorem State.cntr_cmd (r o i n) : (s.cntr r o i n).cmd = s.cmd := by simp [State.cntr]
@[simp] theorem State.cntr_host (r o i n) : (s.cntr r o i n).host = s.host := by simp [State.cntr]
@[simp] theorem State.cntr_flash (r o i n) : (s.cntr r o i n).flash = s.flash := by simp [State.cntr]
@[simp] theorem State.cntr_net (r o i n) : (s.cntr r o i n).net = s.net := by simp [State.cntr]
@[simp] theorem State.cntr_src (r o i n) : (s.cntr r o i n).src = s.src := by simp [State.cntr]
@[simp] theorem State.cntr_rx (r o i n) : (s.cntr r o i n).rx = s.rx := by simp [State.cntr]
@[simp] theorem State.cntr_xp (r o i n) : (s.cntr r o i n).xp = s.xp := by simp [State.cntr]
@[simp] theorem State.cntr_scn (r o i n) : (s.cntr r o i n).scn = s.scn := by simp [State.cntr]
@[simp] theorem State.cntr_met (r o i n) : (s.cntr r o i n).met = s.met := by simp [State.cntr]
@[simp] theorem State.cntr_tx (r o i n) : (s.cntr r o i n).tx = s.tx := by simp [State.cntr]
@[simp] theorem State.cntr_loc (r o i n) : (s.cntr r o i n).loc = s.loc := by simp [State.cntr]
@[simp] theorem State.cntr_uma (r o i n) : (s.cntr r o i n).uma = s.uma := by simp [State.cntr]
@[simp] theorem State.cntr_md (r o i n) : (s.cntr r o i n).md = s.md := by simp [State.cntr]
@[simp] theorem State.cntr_ls (r o i n) : (s.cntr r o i n).ls = s.ls := by simp [State.cntr]
@[simp] theorem State.cntr_free (r o i n) : (s.cntr r o i n).free = s.free := by simp [State.cntr]
@[simp] theorem State.cntr_pending (r o i n) : (s.cntr r o i n).pending = s.pending := by simp [State.cntr]

@[simp] theorem State.cnt64_held (h l o i n) : (s.cnt64 h l o i n).held = s.held := by simp [State.cnt64]
@[simp] theorem State.cnt64_tim (h l o i n) : (s.cnt64 h l o i n).tim = s.tim := by simp [State.cnt64]
@[simp] theorem State.cnt64_ref (h l o i n) : (s.cnt64 h l o i n).ref = s.ref := by simp [State.cnt64]
@[simp] theorem State.cnt64_flt (h l o i n) : (s.cnt64 h l o i n).flt = s.flt := by simp [State.cnt64]
@[simp] theorem State.cnt64_cmd (h l o i n) : (s.cnt64 h l o i n).cmd = s.cmd := by simp [State.cnt64]
@[simp] theorem State.cnt64_host (h l o i n) : (s.cnt64 h l o i n).host = s.host := by simp [State.cnt64]
@[simp] theorem State.cnt64_flash (h l o i n) : (s.cnt64 h l o i n).flash = s.flash := by simp [State.cnt64]
@[simp] theorem State.cnt64_net (h l o i n) : (s.cnt64 h l o i n).net = s.net := by simp [State.cnt64]
@[simp] theorem State.cnt64_src (h l o i n) : (s.cnt64 h l o i n).src = s.src := by simp [State.cnt64]
@[simp] theorem State.cnt64_rx (h l o i n) : (s.cnt64 h l o i n).rx = s.rx := by simp [State.cnt64]
@[simp] theorem State.cnt64_xp (h l o i n) : (s.cnt64 h l o i n).xp = s.xp := by simp [State.cnt64]
@[simp] theorem State.cnt64_scn (h l o i n) : (s.cnt64 h l o i n).scn = s.scn := by simp [State.cnt64]
@[simp] theorem State.cnt64_met (h l o i n) : (s.cnt64 h l o i n).met = s.met := by simp [State.cnt64]
@[simp] theorem State.cnt64_tx (h l o i n) : (s.cnt64 h l o i n).tx = s.tx := by simp [State.cnt64]
@[simp] theorem State.cnt64_loc (h l o i n) : (s.cnt64 h l o i n).loc = s.loc := by simp [State.cnt64]
@[simp] theorem State.cnt64_uma (h l o i n) : (s.cnt64 h l o i n).uma = s.uma := by simp [State.cnt64]
@[simp] theorem State.cnt64_md (h l o i n) : (s.cnt64 h l o i n).md = s.md := by simp [State.cnt64]
@[simp] theorem State.cnt64_ls (h l o i n) : (s.cnt64 h l o i n).ls = s.ls := by simp [State.cnt64]
@[simp] theorem State.cnt64_free (h l o i n) : (s.cnt64 h l o i n).free = s.free := by simp [State.cnt64]
@[simp] theorem State.cnt64_pending (h l o i n) : (s.cnt64 h l o i n).pending = s.pending := by simp [State.cnt64]

@[simp] theorem State.msi_regs (fn v) : (s.msi fn v).regs = s.regs := by unfold State.msi; rw [State.onHost_regs]
@[simp] theorem State.msi_held (fn v) : (s.msi fn v).held = s.held := by unfold State.msi; rw [State.onHost_held]
@[simp] theorem State.msi_tim (fn v) : (s.msi fn v).tim = s.tim := by unfold State.msi; rw [State.onHost_tim]
@[simp] theorem State.msi_ref (fn v) : (s.msi fn v).ref = s.ref := by unfold State.msi; rw [State.onHost_ref]
@[simp] theorem State.msi_flt (fn v) : (s.msi fn v).flt = s.flt := by unfold State.msi; rw [State.onHost_flt]
@[simp] theorem State.msi_cmd (fn v) : (s.msi fn v).cmd = s.cmd := by unfold State.msi; rw [State.onHost_cmd]
@[simp] theorem State.msi_flash (fn v) : (s.msi fn v).flash = s.flash := by unfold State.msi; rw [State.onHost_flash]
@[simp] theorem State.msi_net (fn v) : (s.msi fn v).net = s.net := by unfold State.msi; rw [State.onHost_net]
@[simp] theorem State.msi_src (fn v) : (s.msi fn v).src = s.src := by unfold State.msi; rw [State.onHost_src]
@[simp] theorem State.msi_rx (fn v) : (s.msi fn v).rx = s.rx := by unfold State.msi; rw [State.onHost_rx]
@[simp] theorem State.msi_xp (fn v) : (s.msi fn v).xp = s.xp := by unfold State.msi; rw [State.onHost_xp]
@[simp] theorem State.msi_scn (fn v) : (s.msi fn v).scn = s.scn := by unfold State.msi; rw [State.onHost_scn]
@[simp] theorem State.msi_met (fn v) : (s.msi fn v).met = s.met := by unfold State.msi; rw [State.onHost_met]
@[simp] theorem State.msi_tx (fn v) : (s.msi fn v).tx = s.tx := by unfold State.msi; rw [State.onHost_tx]
@[simp] theorem State.msi_loc (fn v) : (s.msi fn v).loc = s.loc := by unfold State.msi; rw [State.onHost_loc]
@[simp] theorem State.msi_uma (fn v) : (s.msi fn v).uma = s.uma := by unfold State.msi; rw [State.onHost_uma]
@[simp] theorem State.msi_md (fn v) : (s.msi fn v).md = s.md := by unfold State.msi; rw [State.onHost_md]
@[simp] theorem State.msi_ls (fn v) : (s.msi fn v).ls = s.ls := by unfold State.msi; rw [State.onHost_ls]
@[simp] theorem State.msi_free (fn v) : (s.msi fn v).free = s.free := by unfold State.msi; rw [State.onHost_free]
@[simp] theorem State.msi_pending (fn v) : (s.msi fn v).pending = s.pending := by unfold State.msi; rw [State.onHost_pending]
/-- Every field but the registers and the host's is the same. -/
structure Calm (s t : State) : Prop where
  held : t.held = s.held
  tim : t.tim = s.tim
  ref : t.ref = s.ref
  flt : t.flt = s.flt
  cmd : t.cmd = s.cmd
  flash : t.flash = s.flash
  net : t.net = s.net
  src : t.src = s.src
  rx : t.rx = s.rx
  xp : t.xp = s.xp
  scn : t.scn = s.scn
  met : t.met = s.met
  tx : t.tx = s.tx
  loc : t.loc = s.loc
  uma : t.uma = s.uma
  md : t.md = s.md
  ls : t.ls = s.ls
  free : t.free = s.free
  pending : t.pending = s.pending
theorem Calm.refl : Calm s s := ⟨rfl, rfl, rfl, rfl, rfl, rfl, rfl, rfl, rfl, rfl, rfl, rfl, rfl, rfl, rfl, rfl, rfl, rfl, rfl⟩
theorem Calm.cut {s0 s : State} {P : Prop} (h : Calm s0 s) (k : Calm s0 s → P) : P := k h
theorem Calm.ite {s0 a b : State} {c : Prop} [Decidable c] (ha : Calm s0 a) (hb : Calm s0 b) : Calm s0 (if c then a else b) := by
  split
  · exact ha
  · exact hb
theorem Calm.pw {s0 s : State} {pg o f v} (h : Calm s0 s) : Calm s0 (s.pw pg o f v) :=
  ⟨(State.pw_held ..).trans h.held, (State.pw_tim ..).trans h.tim, (State.pw_ref ..).trans h.ref, (State.pw_flt ..).trans h.flt, (State.pw_cmd ..).trans h.cmd, (State.pw_flash ..).trans h.flash, (State.pw_net ..).trans h.net, (State.pw_src ..).trans h.src, (State.pw_rx ..).trans h.rx, (State.pw_xp ..).trans h.xp, (State.pw_scn ..).trans h.scn, (State.pw_met ..).trans h.met, (State.pw_tx ..).trans h.tx, (State.pw_loc ..).trans h.loc, (State.pw_uma ..).trans h.uma, (State.pw_md ..).trans h.md, (State.pw_ls ..).trans h.ls, (State.pw_free ..).trans h.free, (State.pw_pending ..).trans h.pending⟩
theorem Calm.msi {s0 s : State} {fn v} (h : Calm s0 s) : Calm s0 (s.msi fn v) :=
  ⟨(State.msi_held ..).trans h.held, (State.msi_tim ..).trans h.tim, (State.msi_ref ..).trans h.ref, (State.msi_flt ..).trans h.flt, (State.msi_cmd ..).trans h.cmd, (State.msi_flash ..).trans h.flash, (State.msi_net ..).trans h.net, (State.msi_src ..).trans h.src, (State.msi_rx ..).trans h.rx, (State.msi_xp ..).trans h.xp, (State.msi_scn ..).trans h.scn, (State.msi_met ..).trans h.met, (State.msi_tx ..).trans h.tx, (State.msi_loc ..).trans h.loc, (State.msi_uma ..).trans h.uma, (State.msi_md ..).trans h.md, (State.msi_ls ..).trans h.ls, (State.msi_free ..).trans h.free, (State.msi_pending ..).trans h.pending⟩
theorem Calm.raise1 {s0 s : State} {pg b fn} (h : Calm s0 s) : Calm s0 (s.raise1 pg b fn) := by
  unfold State.raise1
  repeat' (first | with_reducible assumption | (extract_lets +onlyGivenNames x; refine @Calm.cut s0 x _ ?_ (fun hx => ?_); unfold x; clear x; rotate_left; clear_value x; rotate_right) |
    (extract_lets +onlyGivenNames x; clear_value x) | with_reducible apply Calm.ite | with_reducible apply Calm.pw | with_reducible apply Calm.msi | split)
theorem Calm.raise {s0 s : State} {pg b fns} (h : Calm s0 s) : Calm s0 (s.raise pg b fns) := by
  unfold State.raise State.each
  induction fns generalizing s with
  | nil => exact h
  | cons fn l ih => exact ih (.raise1 h)
@[simp] theorem State.raise1_held (pg b fn) : (s.raise1 pg b fn).held = s.held := (Calm.raise1 (.refl s)).held
@[simp] theorem State.raise_held (pg b fns) : (s.raise pg b fns).held = s.held := (Calm.raise (.refl s)).held
@[simp] theorem State.raise1_tim (pg b fn) : (s.raise1 pg b fn).tim = s.tim := (Calm.raise1 (.refl s)).tim
@[simp] theorem State.raise_tim (pg b fns) : (s.raise pg b fns).tim = s.tim := (Calm.raise (.refl s)).tim
@[simp] theorem State.raise1_ref (pg b fn) : (s.raise1 pg b fn).ref = s.ref := (Calm.raise1 (.refl s)).ref
@[simp] theorem State.raise_ref (pg b fns) : (s.raise pg b fns).ref = s.ref := (Calm.raise (.refl s)).ref
@[simp] theorem State.raise1_flt (pg b fn) : (s.raise1 pg b fn).flt = s.flt := (Calm.raise1 (.refl s)).flt
@[simp] theorem State.raise_flt (pg b fns) : (s.raise pg b fns).flt = s.flt := (Calm.raise (.refl s)).flt
@[simp] theorem State.raise1_cmd (pg b fn) : (s.raise1 pg b fn).cmd = s.cmd := (Calm.raise1 (.refl s)).cmd
@[simp] theorem State.raise_cmd (pg b fns) : (s.raise pg b fns).cmd = s.cmd := (Calm.raise (.refl s)).cmd
@[simp] theorem State.raise1_flash (pg b fn) : (s.raise1 pg b fn).flash = s.flash := (Calm.raise1 (.refl s)).flash
@[simp] theorem State.raise_flash (pg b fns) : (s.raise pg b fns).flash = s.flash := (Calm.raise (.refl s)).flash
@[simp] theorem State.raise1_net (pg b fn) : (s.raise1 pg b fn).net = s.net := (Calm.raise1 (.refl s)).net
@[simp] theorem State.raise_net (pg b fns) : (s.raise pg b fns).net = s.net := (Calm.raise (.refl s)).net
@[simp] theorem State.raise1_src (pg b fn) : (s.raise1 pg b fn).src = s.src := (Calm.raise1 (.refl s)).src
@[simp] theorem State.raise_src (pg b fns) : (s.raise pg b fns).src = s.src := (Calm.raise (.refl s)).src
@[simp] theorem State.raise1_rx (pg b fn) : (s.raise1 pg b fn).rx = s.rx := (Calm.raise1 (.refl s)).rx
@[simp] theorem State.raise_rx (pg b fns) : (s.raise pg b fns).rx = s.rx := (Calm.raise (.refl s)).rx
@[simp] theorem State.raise1_xp (pg b fn) : (s.raise1 pg b fn).xp = s.xp := (Calm.raise1 (.refl s)).xp
@[simp] theorem State.raise_xp (pg b fns) : (s.raise pg b fns).xp = s.xp := (Calm.raise (.refl s)).xp
@[simp] theorem State.raise1_scn (pg b fn) : (s.raise1 pg b fn).scn = s.scn := (Calm.raise1 (.refl s)).scn
@[simp] theorem State.raise_scn (pg b fns) : (s.raise pg b fns).scn = s.scn := (Calm.raise (.refl s)).scn
@[simp] theorem State.raise1_met (pg b fn) : (s.raise1 pg b fn).met = s.met := (Calm.raise1 (.refl s)).met
@[simp] theorem State.raise_met (pg b fns) : (s.raise pg b fns).met = s.met := (Calm.raise (.refl s)).met
@[simp] theorem State.raise1_tx (pg b fn) : (s.raise1 pg b fn).tx = s.tx := (Calm.raise1 (.refl s)).tx
@[simp] theorem State.raise_tx (pg b fns) : (s.raise pg b fns).tx = s.tx := (Calm.raise (.refl s)).tx
@[simp] theorem State.raise1_loc (pg b fn) : (s.raise1 pg b fn).loc = s.loc := (Calm.raise1 (.refl s)).loc
@[simp] theorem State.raise_loc (pg b fns) : (s.raise pg b fns).loc = s.loc := (Calm.raise (.refl s)).loc
@[simp] theorem State.raise1_uma (pg b fn) : (s.raise1 pg b fn).uma = s.uma := (Calm.raise1 (.refl s)).uma
@[simp] theorem State.raise_uma (pg b fns) : (s.raise pg b fns).uma = s.uma := (Calm.raise (.refl s)).uma
@[simp] theorem State.raise1_md (pg b fn) : (s.raise1 pg b fn).md = s.md := (Calm.raise1 (.refl s)).md
@[simp] theorem State.raise_md (pg b fns) : (s.raise pg b fns).md = s.md := (Calm.raise (.refl s)).md
@[simp] theorem State.raise1_ls (pg b fn) : (s.raise1 pg b fn).ls = s.ls := (Calm.raise1 (.refl s)).ls
@[simp] theorem State.raise_ls (pg b fns) : (s.raise pg b fns).ls = s.ls := (Calm.raise (.refl s)).ls
@[simp] theorem State.raise1_free (pg b fn) : (s.raise1 pg b fn).free = s.free := (Calm.raise1 (.refl s)).free
@[simp] theorem State.raise_free (pg b fns) : (s.raise pg b fns).free = s.free := (Calm.raise (.refl s)).free
@[simp] theorem State.raise1_pending (pg b fn) : (s.raise1 pg b fn).pending = s.pending := (Calm.raise1 (.refl s)).pending
@[simp] theorem State.raise_pending (pg b fns) : (s.raise pg b fns).pending = s.pending := (Calm.raise (.refl s)).pending
/-- Every field but the registers, the host's and the fault ring's is the same. -/
structure Apart (s t : State) : Prop where
  held : t.held = s.held
  tim : t.tim = s.tim
  ref : t.ref = s.ref
  cmd : t.cmd = s.cmd
  flash : t.flash = s.flash
  net : t.net = s.net
  src : t.src = s.src
  rx : t.rx = s.rx
  xp : t.xp = s.xp
  scn : t.scn = s.scn
  met : t.met = s.met
  tx : t.tx = s.tx
  loc : t.loc = s.loc
  uma : t.uma = s.uma
  md : t.md = s.md
  ls : t.ls = s.ls
  free : t.free = s.free
  pending : t.pending = s.pending
theorem Apart.refl : Apart s s := ⟨rfl, rfl, rfl, rfl, rfl, rfl, rfl, rfl, rfl, rfl, rfl, rfl, rfl, rfl, rfl, rfl, rfl, rfl⟩
theorem Apart.cut {s0 s : State} {P : Prop} (h : Apart s0 s) (k : Apart s0 s → P) : P := k h
theorem Apart.ite {s0 a b : State} {c : Prop} [Decidable c] (ha : Apart s0 a) (hb : Apart s0 b) : Apart s0 (if c then a else b) := by
  split
  · exact ha
  · exact hb
theorem Apart.onFlt {s0 s : State} {f} (h : Apart s0 s) : Apart s0 (s.onFlt f) :=
  ⟨(State.onFlt_held ..).trans h.held, (State.onFlt_tim ..).trans h.tim, (State.onFlt_ref ..).trans h.ref, (State.onFlt_cmd ..).trans h.cmd, (State.onFlt_flash ..).trans h.flash, (State.onFlt_net ..).trans h.net, (State.onFlt_src ..).trans h.src, (State.onFlt_rx ..).trans h.rx, (State.onFlt_xp ..).trans h.xp, (State.onFlt_scn ..).trans h.scn, (State.onFlt_met ..).trans h.met, (State.onFlt_tx ..).trans h.tx, (State.onFlt_loc ..).trans h.loc, (State.onFlt_uma ..).trans h.uma, (State.onFlt_md ..).trans h.md, (State.onFlt_ls ..).trans h.ls, (State.onFlt_free ..).trans h.free, (State.onFlt_pending ..).trans h.pending⟩
theorem Apart.wr {s0 s : State} {f v o i} (h : Apart s0 s) : Apart s0 (s.wr f v o i) :=
  ⟨(State.wr_held ..).trans h.held, (State.wr_tim ..).trans h.tim, (State.wr_ref ..).trans h.ref, (State.wr_cmd ..).trans h.cmd, (State.wr_flash ..).trans h.flash, (State.wr_net ..).trans h.net, (State.wr_src ..).trans h.src, (State.wr_rx ..).trans h.rx, (State.wr_xp ..).trans h.xp, (State.wr_scn ..).trans h.scn, (State.wr_met ..).trans h.met, (State.wr_tx ..).trans h.tx, (State.wr_loc ..).trans h.loc, (State.wr_uma ..).trans h.uma, (State.wr_md ..).trans h.md, (State.wr_ls ..).trans h.ls, (State.wr_free ..).trans h.free, (State.wr_pending ..).trans h.pending⟩
theorem Apart.wb {s0 s : State} {f v o i} (h : Apart s0 s) : Apart s0 (s.wb f v o i) :=
  ⟨(State.wb_held ..).trans h.held, (State.wb_tim ..).trans h.tim, (State.wb_ref ..).trans h.ref, (State.wb_cmd ..).trans h.cmd, (State.wb_flash ..).trans h.flash, (State.wb_net ..).trans h.net, (State.wb_src ..).trans h.src, (State.wb_rx ..).trans h.rx, (State.wb_xp ..).trans h.xp, (State.wb_scn ..).trans h.scn, (State.wb_met ..).trans h.met, (State.wb_tx ..).trans h.tx, (State.wb_loc ..).trans h.loc, (State.wb_uma ..).trans h.uma, (State.wb_md ..).trans h.md, (State.wb_ls ..).trans h.ls, (State.wb_free ..).trans h.free, (State.wb_pending ..).trans h.pending⟩
theorem Apart.cntw {s0 s : State} {f o i n} (h : Apart s0 s) : Apart s0 (s.cntw f o i n) :=
  ⟨(State.cntw_held ..).trans h.held, (State.cntw_tim ..).trans h.tim, (State.cntw_ref ..).trans h.ref, (State.cntw_cmd ..).trans h.cmd, (State.cntw_flash ..).trans h.flash, (State.cntw_net ..).trans h.net, (State.cntw_src ..).trans h.src, (State.cntw_rx ..).trans h.rx, (State.cntw_xp ..).trans h.xp, (State.cntw_scn ..).trans h.scn, (State.cntw_met ..).trans h.met, (State.cntw_tx ..).trans h.tx, (State.cntw_loc ..).trans h.loc, (State.cntw_uma ..).trans h.uma, (State.cntw_md ..).trans h.md, (State.cntw_ls ..).trans h.ls, (State.cntw_free ..).trans h.free, (State.cntw_pending ..).trans h.pending⟩
theorem Apart.cntr {s0 s : State} {r o i n} (h : Apart s0 s) : Apart s0 (s.cntr r o i n) :=
  ⟨(State.cntr_held ..).trans h.held, (State.cntr_tim ..).trans h.tim, (State.cntr_ref ..).trans h.ref, (State.cntr_cmd ..).trans h.cmd, (State.cntr_flash ..).trans h.flash, (State.cntr_net ..).trans h.net, (State.cntr_src ..).trans h.src, (State.cntr_rx ..).trans h.rx, (State.cntr_xp ..).trans h.xp, (State.cntr_scn ..).trans h.scn, (State.cntr_met ..).trans h.met, (State.cntr_tx ..).trans h.tx, (State.cntr_loc ..).trans h.loc, (State.cntr_uma ..).trans h.uma, (State.cntr_md ..).trans h.md, (State.cntr_ls ..).trans h.ls, (State.cntr_free ..).trans h.free, (State.cntr_pending ..).trans h.pending⟩
theorem Apart.raise {s0 s : State} {pg b fns} (h : Apart s0 s) : Apart s0 (s.raise pg b fns) :=
  ⟨(State.raise_held ..).trans h.held, (State.raise_tim ..).trans h.tim, (State.raise_ref ..).trans h.ref, (State.raise_cmd ..).trans h.cmd, (State.raise_flash ..).trans h.flash, (State.raise_net ..).trans h.net, (State.raise_src ..).trans h.src, (State.raise_rx ..).trans h.rx, (State.raise_xp ..).trans h.xp, (State.raise_scn ..).trans h.scn, (State.raise_met ..).trans h.met, (State.raise_tx ..).trans h.tx, (State.raise_loc ..).trans h.loc, (State.raise_uma ..).trans h.uma, (State.raise_md ..).trans h.md, (State.raise_ls ..).trans h.ls, (State.raise_free ..).trans h.free, (State.raise_pending ..).trans h.pending⟩
theorem Apart.errStore {s0 s : State} {r} (h : Apart s0 s) : Apart s0 (errStore r s) := by
  unfold Machine.errStore
  exact .ite (.onFlt h) (.ite (.onFlt h) (.cntr (.onFlt h)))
theorem Apart.err {s0 s : State} {c pg i d0 d1 fn oom} (h : Apart s0 s) : Apart s0 (s.err c pg i d0 d1 fn oom) := by
  unfold State.err
  repeat' (first | with_reducible assumption | (extract_lets +onlyGivenNames x; refine @Apart.cut s0 x _ ?_ (fun hx => ?_); unfold x; clear x; rotate_left; clear_value x; rotate_right) |
    (extract_lets +onlyGivenNames x; clear_value x) | with_reducible apply Apart.ite | with_reducible apply Apart.onFlt | with_reducible apply Apart.errStore | with_reducible apply Apart.wr | with_reducible apply Apart.wb | with_reducible apply Apart.cntw | with_reducible apply Apart.raise | split)
@[simp] theorem State.err_held (c pg i d0 d1 fn oom) : (s.err c pg i d0 d1 fn oom).held = s.held := (Apart.err (.refl s)).held
@[simp] theorem State.err_tim (c pg i d0 d1 fn oom) : (s.err c pg i d0 d1 fn oom).tim = s.tim := (Apart.err (.refl s)).tim
@[simp] theorem State.err_ref (c pg i d0 d1 fn oom) : (s.err c pg i d0 d1 fn oom).ref = s.ref := (Apart.err (.refl s)).ref
@[simp] theorem State.err_cmd (c pg i d0 d1 fn oom) : (s.err c pg i d0 d1 fn oom).cmd = s.cmd := (Apart.err (.refl s)).cmd
@[simp] theorem State.err_flash (c pg i d0 d1 fn oom) : (s.err c pg i d0 d1 fn oom).flash = s.flash := (Apart.err (.refl s)).flash
@[simp] theorem State.err_net (c pg i d0 d1 fn oom) : (s.err c pg i d0 d1 fn oom).net = s.net := (Apart.err (.refl s)).net
@[simp] theorem State.err_src (c pg i d0 d1 fn oom) : (s.err c pg i d0 d1 fn oom).src = s.src := (Apart.err (.refl s)).src
@[simp] theorem State.err_rx (c pg i d0 d1 fn oom) : (s.err c pg i d0 d1 fn oom).rx = s.rx := (Apart.err (.refl s)).rx
@[simp] theorem State.err_xp (c pg i d0 d1 fn oom) : (s.err c pg i d0 d1 fn oom).xp = s.xp := (Apart.err (.refl s)).xp
@[simp] theorem State.err_scn (c pg i d0 d1 fn oom) : (s.err c pg i d0 d1 fn oom).scn = s.scn := (Apart.err (.refl s)).scn
@[simp] theorem State.err_met (c pg i d0 d1 fn oom) : (s.err c pg i d0 d1 fn oom).met = s.met := (Apart.err (.refl s)).met
@[simp] theorem State.err_tx (c pg i d0 d1 fn oom) : (s.err c pg i d0 d1 fn oom).tx = s.tx := (Apart.err (.refl s)).tx
@[simp] theorem State.err_loc (c pg i d0 d1 fn oom) : (s.err c pg i d0 d1 fn oom).loc = s.loc := (Apart.err (.refl s)).loc
@[simp] theorem State.err_uma (c pg i d0 d1 fn oom) : (s.err c pg i d0 d1 fn oom).uma = s.uma := (Apart.err (.refl s)).uma
@[simp] theorem State.err_md (c pg i d0 d1 fn oom) : (s.err c pg i d0 d1 fn oom).md = s.md := (Apart.err (.refl s)).md
@[simp] theorem State.err_ls (c pg i d0 d1 fn oom) : (s.err c pg i d0 d1 fn oom).ls = s.ls := (Apart.err (.refl s)).ls
@[simp] theorem State.err_free (c pg i d0 d1 fn oom) : (s.err c pg i d0 d1 fn oom).free = s.free := (Apart.err (.refl s)).free
@[simp] theorem State.err_pending (c pg i d0 d1 fn oom) : (s.err c pg i d0 d1 fn oom).pending = s.pending := (Apart.err (.refl s)).pending

end Sys2Proof.Machine
end

