-- ==== Sys2Proof/Laws/Cmd.lean ====
section
/-!
SUPPORT. What `runCmd` does, once for every opcode: a judged command comes to its own part, and each answer of that part ends in
its completion; every other command leaves the state, or completes with the first status that R539 finds.
-/
namespace Sys2Proof.Machine

variable {o : Opc} {e : Env} {row : Option Instr} {own : Nat → State → Option Nat} {body : Nat → State → Res} {s : State}

/-- A judged command comes to its own part, unless it waits for the boundary of R388. -/
theorem runCmd_judged (h : judged o e own s = true) (hr : row = none ∨ (accept o e s).mirrorActive = false := by exact .inl rfl) :
    runCmd o e own body s row = finish o e (accept o e s) (body (callerOf e) (accept o e s)) := by
  simp only [judged, Bool.and_eq_true, Option.isNone_iff_eq_none] at h
  rcases hr with rfl | hr
  · simp [runCmd, h.1.1, h.1.2, h.2]
  · simp [runCmd, h.1.1, h.1.2, h.2, hr]

/-- On the active member of a mirror pair it waits. -/
theorem runCmd_deferred {i : Instr} (h : judged o e own s = true) (hm : (accept o e s).mirrorActive = true) :
    runCmd o e own body s (some i) = deferred i (accept o e s) := by
  simp only [judged, Bool.and_eq_true, Option.isNone_iff_eq_none] at h
  simp [runCmd, h.1.1, h.1.2, h.2, hm]

/-- A command that is not taken waits (R432, R445, R487, R584). -/
theorem runCmd_waits (h : taken e s = false) : runCmd o e own body s row = s := by simp [runCmd, h]

/-- A command that fails one of the checks 1 to 4 completes with that check's status, its counter unrecorded. -/
theorem runCmd_pre {st : Nat} (h : taken e s = true) (h1 : preCheck o e s = some st) :
    runCmd o e own body s row = complete e st 0 [] false s := by simp [runCmd, h, h1]

/-- A command refused after its acceptance (R533). -/
theorem runCmd_mid {st : Nat} (h : taken e s = true) (h1 : preCheck o e s = none)
    (h2 : midCheck o e own (accept o e s) = some st) :
    runCmd o e own body s row = complete e st 0 [] true (accept o e s) := by simp [runCmd, h, h1, h2]

theorem finish_no {st r : Nat} : finish o e s (.no st r) = complete e st r [] true s := rfl
theorem finish_later {t : State} : finish o e s (.later t) = noted o t := rfl
theorem finish_done {t : State} : finish o e s (done t) = complete e stOK 0 [] true (noted o t) := by simp [finish, done, noted]
theorem finish_ok {t : State} {r n st : Nat} {ws : List Nat} (h : fits s e ws.length = true) :
    finish o e s (.ok t r ws n st) = complete e st r ws true (noted o t) := by
  simp [fits] at h
  simp [finish, noted, h]
theorem finish_ret {t : State} {ws : List Nat} (h : fits s e ws.length = true) :
    finish o e s (ret t ws) = complete e stOK 0 ws true (noted o t) := finish_ok h
theorem finish_retL {t : State} {n : Nat} {ws : List Nat} (h : fits s e ws.length = true) :
    finish o e s (retL t n ws) = complete e stOK 0 ws true (noted o t) := finish_ok h
theorem finish_retIdx {t : State} {n : Nat} (h : fits s e 2 = true) :
    finish o e s (retIdx t n) = complete e stOK (n % 2 ^ 32) [n % 2 ^ 32, n / 2 ^ 32] true (noted o t) := finish_ok h

/-- A command whose row runs `body`, and whose part answers OK, completes as `completes` says. -/
theorem completes_intro {c : Env → Instr} {ok : Env → State → Prop} {r : Env → State → Nat} {ws : Env → State → List Nat}
    {f : Env → State → State} {body : Env → Nat → State → Res}
    {row : Env → Option Instr} (hc : ∀ e s, exec (c e) s = .next (runCmd o e own (body e) s (row e)))
    (hb : ∀ e s, ok e s → ∃ n, body e (callerOf e) s = .ok (f e s) (r e s) (ws e s) n stOK)
    (hr : ∀ e s, ok e s → row e = none ∨ s.mirrorActive = false := by exact fun _ _ _ => .inl rfl) : completes o own c ok r ws f := by
  intro e s h k m
  obtain ⟨n, hn⟩ := hb e _ k
  rw [hc, runCmd_judged h (hr e _ k), hn, finish_ok m]; rfl

/-- The same for a command that a later event completes. -/
theorem begins_intro {c : Env → Instr} {ok : Env → State → Prop} {f : Env → State → State} {body : Env → Nat → State → Res}
    {row : Env → Option Instr} (hc : ∀ e s, exec (c e) s = .next (runCmd o e own (body e) s (row e)))
    (hb : ∀ e s, ok e s → body e (callerOf e) s = .later (f e s))
    (hr : ∀ e s, ok e s → row e = none ∨ s.mirrorActive = false := by exact fun _ _ _ => .inl rfl) : begins o own c ok f := by
  intro e s h k
  rw [hc, runCmd_judged h (hr e _ k), hb e _ k]; rfl
/-- A command that waits whole on the active member of a mirror pair. -/
theorem defers_intro {c : Env → Instr} {body : Env → Nat → State → Res}
    (hc : ∀ e s, exec (c e) s = .next (runCmd o e own (body e) s (some (c e)))) : defers o own c := by
  intro e s h m
  rw [hc, runCmd_deferred h m]

/-- A running device takes an event. -/
theorem awake_up {t : State} (h : up s = true) : awake s t = t := by
  have h' : 3 ≤ s.mode := of_decide_eq_true h
  simp [awake, Nat.not_lt.mpr h']

/-- In RESET, BOOT and STANDBY an event has no effect. -/
theorem awake_down {t : State} (h : up s = false) : awake s t = s := by
  have h' : ¬ 3 ≤ s.mode := of_decide_eq_false h
  simp [awake, Nat.lt_of_not_le h']

/-- The same for a row that an event or an access is. -/
theorem happens_intro {c : Instr} {ok : State → Prop} {f g : State → State}
    (hc : ∀ s, exec c s = .next (awake s (g s))) (hb : ∀ s, ok s → g s = f s) : happens c ok f := by
  intro s h k
  rw [hc, awake_up h, hb s k]

end Sys2Proof.Machine
end

