-- ==== Sys2Proof/Laws/Regs.lean ====
section
/-!
SUPPORT. Reading registers after writing them: a word, a field, a pair; what raising an interrupt and recording a fault leave.
-/
namespace Sys2Proof.Machine

/-! ## Fields of a word -/

theorem fput_eq (w hi lo v : Nat) :
    fput w hi lo v = w / 2 ^ (hi + 1) * 2 ^ (hi + 1) + (v % 2 ^ (hi - lo + 1)) * 2 ^ lo + w % 2 ^ lo := by
  simp [fput, Nat.shiftRight_eq_div_pow, Nat.shiftLeft_eq]

theorem fbits_eq (w hi lo : Nat) : fbits w hi lo = w / 2 ^ lo % 2 ^ (hi - lo + 1) := by
  simp [fbits, Nat.shiftRight_eq_div_pow]

/-- A field lies below its upper end. -/
theorem fbits_mod (w hi lo k : Nat) (hl : lo ≤ hi) (h : hi < k) : fbits (w % 2 ^ k) hi lo = fbits w hi lo := by
  rw [fbits_eq, fbits_eq]
  have e : 2 ^ k = 2 ^ lo * 2 ^ (k - lo) := by rw [← Nat.pow_add]; congr 1; omega
  rw [e, Nat.mod_mul_right_div_self]
  exact Nat.mod_mod_of_dvd _ (Nat.pow_dvd_pow 2 (by omega))

theorem fbits_lt (w hi lo : Nat) : fbits w hi lo < 2 ^ (hi - lo + 1) := by
  rw [fbits_eq]; exact Nat.mod_lt _ (Nat.two_pow_pos _)

/-- The upper part of a word with a field replaced. -/
theorem fput_div (w hi lo v : Nat) (hl : lo ≤ hi) : fput w hi lo v / 2 ^ (hi + 1) = w / 2 ^ (hi + 1) := by
  rw [fput_eq]
  have h1 : w % 2 ^ lo < 2 ^ lo := Nat.mod_lt _ (Nat.two_pow_pos _)
  have h2 : v % 2 ^ (hi - lo + 1) < 2 ^ (hi - lo + 1) := Nat.mod_lt _ (Nat.two_pow_pos _)
  have e : 2 ^ (hi + 1) = 2 ^ (hi - lo + 1) * 2 ^ lo := by rw [← Nat.pow_add]; congr 1; omega
  have h3 : v % 2 ^ (hi - lo + 1) * 2 ^ lo + w % 2 ^ lo < 2 ^ (hi + 1) := by
    have h4 : (v % 2 ^ (hi - lo + 1) + 1) * 2 ^ lo ≤ 2 ^ (hi - lo + 1) * 2 ^ lo := Nat.mul_le_mul_right _ h2
    rw [e]; rw [Nat.add_mul] at h4; omega
  rw [Nat.add_assoc, Nat.add_comm, Nat.add_mul_div_right _ _ (Nat.two_pow_pos _), Nat.div_eq_of_lt h3]
  omega

/-- The part of a word from a field on. -/
theorem fput_div_lo (w hi lo v : Nat) (hl : lo ≤ hi) :
    fput w hi lo v / 2 ^ lo = w / 2 ^ (hi + 1) * 2 ^ (hi - lo + 1) + v % 2 ^ (hi - lo + 1) := by
  rw [fput_eq]
  have h1 : w % 2 ^ lo < 2 ^ lo := Nat.mod_lt _ (Nat.two_pow_pos _)
  have e : 2 ^ (hi + 1) = 2 ^ (hi - lo + 1) * 2 ^ lo := by rw [← Nat.pow_add]; congr 1; omega
  have e2 : w / 2 ^ (hi + 1) * 2 ^ (hi + 1) + v % 2 ^ (hi - lo + 1) * 2 ^ lo + w % 2 ^ lo =
      w % 2 ^ lo + (w / 2 ^ (hi + 1) * 2 ^ (hi - lo + 1) + v % 2 ^ (hi - lo + 1)) * 2 ^ lo := by
    rw [e, Nat.add_mul, Nat.mul_assoc]; omega
  rw [e2, Nat.add_mul_div_right _ _ (Nat.two_pow_pos _), Nat.div_eq_of_lt h1, Nat.zero_add]

theorem fput_mod_lo (w hi lo v : Nat) (hl : lo ≤ hi) : fput w hi lo v % 2 ^ lo = w % 2 ^ lo := by
  rw [fput_eq]
  have e : 2 ^ (hi + 1) = 2 ^ (hi - lo + 1) * 2 ^ lo := by rw [← Nat.pow_add]; congr 1; omega
  have e2 : w / 2 ^ (hi + 1) * 2 ^ (hi + 1) + v % 2 ^ (hi - lo + 1) * 2 ^ lo + w % 2 ^ lo =
      w % 2 ^ lo + (w / 2 ^ (hi + 1) * 2 ^ (hi - lo + 1) + v % 2 ^ (hi - lo + 1)) * 2 ^ lo := by
    rw [e, Nat.add_mul, Nat.mul_assoc]; omega
  rw [e2, Nat.add_mul_mod_self_right, Nat.mod_mod]

/-- A field just replaced. -/
theorem fbits_fput_same (w hi lo v : Nat) (hl : lo ≤ hi) : fbits (fput w hi lo v) hi lo = v % 2 ^ (hi - lo + 1) := by
  rw [fbits_eq, fput_div_lo _ _ _ _ hl, Nat.add_comm, Nat.add_mul_mod_self_right, Nat.mod_mod]

/-- A field below, and a field above, one just replaced. -/
theorem fbits_fput_below (w hi lo v h' l' : Nat) (hl : lo ≤ hi) (h'' : l' ≤ h') (hd : h' < lo) :
    fbits (fput w hi lo v) h' l' = fbits w h' l' := by
  rw [← fbits_mod _ _ _ lo h'' hd, fput_mod_lo _ _ _ _ hl, fbits_mod _ _ _ _ h'' hd]

theorem fbits_fput_above (w hi lo v h' l' : Nat) (hl : lo ≤ hi) (hd : hi < l') :
    fbits (fput w hi lo v) h' l' = fbits w h' l' := by
  have e : 2 ^ l' = 2 ^ (hi + 1) * 2 ^ (l' - (hi + 1)) := by rw [← Nat.pow_add]; congr 1; omega
  rw [fbits_eq, fbits_eq, e, ← Nat.div_div_eq_div_mul, ← Nat.div_div_eq_div_mul, fput_div _ _ _ _ hl]

/-! ## Words -/

theorem rkey_ne_off {p o f p' o' f' : Nat} (hf : f < 2 ^ 12) (hf' : f' < 2 ^ 12) (h : f ≠ f') : rkey p o f ≠ rkey p' o' f' := by
  unfold rkey; omega

theorem rkey_ne_page {p o f p' o' f' : Nat} (ho : o < 2 ^ 20) (hf : f < 2 ^ 12) (ho' : o' < 2 ^ 20) (hf' : f' < 2 ^ 12) (h : p ≠ p') :
    rkey p o f ≠ rkey p' o' f' := by
  unfold rkey; omega

theorem rkey_ne_obj {p o f p' o' f' : Nat} (ho : o < 2 ^ 20) (hf : f < 2 ^ 12) (ho' : o' < 2 ^ 20) (hf' : f' < 2 ^ 12) (h : o ≠ o') :
    rkey p o f ≠ rkey p' o' f' := by
  unfold rkey; omega

variable {s : State}

@[simp] theorem gw_msi (s : State) (fn v pg o off : Nat) : (s.msi fn v).gw pg o off = s.gw pg o off := by
  unfold State.msi; rw [State.onHost_gw]

theorem gw_lt (s : State) (pg o off : Nat) : s.gw pg o off < 2 ^ 32 := by unfold State.gw; exact BitVec.isLt _

/-- A word just written. -/
theorem gw_pw_same (s : State) (pg o off v : Nat) : (s.pw pg o off v).gw pg o off = v % 2 ^ 32 := by
  unfold State.gw; rw [State.pw_regs, tget_tset_same, BitVec.toNat_ofNat]

/-- A write leaves every other word. -/
theorem gw_pw_other (s : State) (pg o off v pg' o' off' : Nat) (h : rkey pg' o' off' ≠ rkey pg o off) :
    (s.pw pg o off v).gw pg' o' off' = s.gw pg' o' off' := by
  unfold State.gw; rw [State.pw_regs, tget_tset_other _ _ _ _ _ h]

theorem rw_ww_same (s : State) (r : Reg) (v o i : Nat) : (s.ww r v o i).rw r o i = v % 2 ^ 32 := by
  unfold State.rw State.ww; exact gw_pw_same ..

theorem gw_ww_other (s : State) (r : Reg) (v o i pg' o' off' : Nat) (h : rkey pg' o' off' ≠ rkey (r.page + i) o r.off) :
    (s.ww r v o i).gw pg' o' off' = s.gw pg' o' off' := by
  unfold State.ww; exact gw_pw_other _ _ _ _ _ _ _ _ h

theorem gw_wr_other (s : State) (f : Fld) (v o i pg' o' off' : Nat) (h : rkey pg' o' off' ≠ rkey (f.reg.page + i) o f.reg.off) :
    (s.wr f v o i).gw pg' o' off' = s.gw pg' o' off' := by
  unfold State.wr; exact gw_ww_other _ _ _ _ _ _ _ _ h

theorem gw_wb_other (s : State) (f : Fld) (v : Bool) (o i pg' o' off' : Nat) (h : rkey pg' o' off' ≠ rkey (f.reg.page + i) o f.reg.off) :
    (s.wb f v o i).gw pg' o' off' = s.gw pg' o' off' := by
  unfold State.wb; exact gw_wr_other _ _ _ _ _ _ _ _ h

/-- A field just written. -/
theorem rd_wr_same (s : State) (f : Fld) (v o i : Nat) (hl : f.lo ≤ f.hi) (hh : f.hi < 32) :
    (s.wr f v o i).rd f o i = v % 2 ^ (f.hi - f.lo + 1) := by
  unfold State.rd State.wr
  rw [rw_ww_same, fbits_mod _ _ _ _ hl hh, fbits_fput_same _ _ _ _ hl]

/-- Another field of the same register. -/
theorem rd_wr_field (s : State) (f g : Fld) (v o i : Nat) (hr : f.reg = g.reg) (hl : f.lo ≤ f.hi) (hl' : g.lo ≤ g.hi) (hh : g.hi < 32)
    (hd : g.hi < f.lo ∨ f.hi < g.lo) : (s.wr f v o i).rd g o i = s.rd g o i := by
  unfold State.rd State.wr
  rw [hr, rw_ww_same, fbits_mod _ _ _ _ hl' hh]
  rcases hd with hd | hd
  · exact fbits_fput_below _ _ _ _ _ _ hl hl' hd
  · exact fbits_fput_above _ _ _ _ _ _ hl hd

/-- A write of one register leaves every field of another. -/
theorem rd_wr_other (s : State) (f g : Fld) (v o i o' i' : Nat)
    (h : rkey (g.reg.page + i') o' g.reg.off ≠ rkey (f.reg.page + i) o f.reg.off) : (s.wr f v o i).rd g o' i' = s.rd g o' i' := by
  unfold State.rd State.rw; rw [gw_wr_other _ _ _ _ _ _ _ _ h]
theorem rb_wr_other (s : State) (f g : Fld) (v o i o' i' : Nat)
    (h : rkey (g.reg.page + i') o' g.reg.off ≠ rkey (f.reg.page + i) o f.reg.off) : (s.wr f v o i).rb g o' i' = s.rb g o' i' := by
  unfold State.rb; rw [rd_wr_other _ _ _ _ _ _ _ _ h]

theorem rb_wb_same (s : State) (f : Fld) (v : Bool) (o i : Nat) (hl : f.lo ≤ f.hi) (hh : f.hi < 32) : (s.wb f v o i).rb f o i = v := by
  unfold State.rb State.wb
  rw [rd_wr_same _ _ _ _ _ hl hh]
  have h2 : 1 < 2 ^ (f.hi - f.lo + 1) := Nat.one_lt_two_pow (by omega)
  cases v
  · simp [b2n]
  · simp only [b2n, if_true]; rw [Nat.mod_eq_of_lt h2]; rfl

/-! ## Pairs of registers -/

/-- A 64-bit value just written. -/
theorem rd64_wr64_same (s : State) (h l : Reg) (v o i : Nat) (hv : v < 2 ^ 64) (hh : h.off < 2 ^ 12) (hl : l.off < 2 ^ 12)
    (hn : h.off ≠ l.off) : (s.wr64 h l v o i).rd64 h l o i = v := by
  unfold State.rd64 State.wr64
  rw [rw_ww_same]
  unfold State.rw
  rw [gw_ww_other _ _ _ _ _ _ _ _ (rkey_ne_off hh hl hn)]
  have e := rw_ww_same s h (v / 2 ^ 32 % 2 ^ 32) o i
  unfold State.rw at e
  rw [e]
  omega

/-- A pair elsewhere is left as it was. -/
theorem rd64_ww_other (s : State) (r h l : Reg) (v o i o' i' : Nat) (h1 : rkey (h.page + i') o' h.off ≠ rkey (r.page + i) o r.off)
    (h2 : rkey (l.page + i') o' l.off ≠ rkey (r.page + i) o r.off) : (s.ww r v o i).rd64 h l o' i' = s.rd64 h l o' i' := by
  unfold State.rd64 State.rw
  rw [gw_ww_other _ _ _ _ _ _ _ _ h1, gw_ww_other _ _ _ _ _ _ _ _ h2]

/-! ## Bits cleared by writing 1 -/

/-- Taking the common bits from a word clears them. -/
theorem sub_and_bit (a x b : Nat) : (a - (a &&& x)).testBit b = (a.testBit b && !x.testBit b) := by
  have h : a = (a ^^^ (a &&& x)) + (a &&& x) := by
    have ha : a < 2 ^ a := Nat.lt_two_pow_self
    have hm : a &&& x < 2 ^ a := Nat.lt_of_le_of_lt Nat.and_le_left ha
    have hx : a ^^^ (a &&& x) < 2 ^ a := Nat.xor_lt_two_pow ha hm
    have e0 : (a ^^^ (a &&& x)) &&& (a &&& x) = 0 := by
      apply Nat.eq_of_testBit_eq; intro i; simp; cases a.testBit i <;> cases x.testBit i <;> simp
    have e : (BitVec.ofNat a (a ^^^ (a &&& x)) &&& BitVec.ofNat a (a &&& x)) = 0#a := by
      apply BitVec.eq_of_toNat_eq
      simp only [BitVec.toNat_and, BitVec.toNat_ofNat, Nat.mod_eq_of_lt hm, Nat.mod_eq_of_lt hx, e0, Nat.zero_mod]
    have e2 := BitVec.toNat_add_of_and_eq_zero e
    rw [BitVec.add_eq_or_of_and_eq_zero _ _ e] at e2
    simp only [BitVec.toNat_or, BitVec.toNat_ofNat, Nat.mod_eq_of_lt hm, Nat.mod_eq_of_lt hx] at e2
    rw [← e2]
    apply Nat.eq_of_testBit_eq; intro i; simp; cases a.testBit i <;> cases x.testBit i <;> simp
  have h2 : a - (a &&& x) = a ^^^ (a &&& x) := by omega
  rw [h2]; simp; cases a.testBit b <;> cases x.testBit b <;> simp

/-! ## Interrupts -/

/-- Raising an event changes no word but INT_STAT of its page (R560). -/
theorem gw_raise1 (s : State) (pg b fn pg' o' off' : Nat) (h : rkey pg' o' off' ≠ rkey pg fn 0x010) :
    (s.raise1 pg b fn).gw pg' o' off' = s.gw pg' o' off' := by
  unfold State.raise1
  dsimp only
  split
  · with_reducible rfl
  · split
    · split
      · rw [gw_msi, gw_pw_other _ _ _ _ _ _ _ _ h]
      · rw [gw_pw_other _ _ _ _ _ _ _ _ h]
    · rw [gw_pw_other _ _ _ _ _ _ _ _ h]

theorem gw_raise (s : State) (pg b : Nat) (fns : List Nat) (pg' o' off' : Nat) (h : ∀ fn ∈ fns, rkey pg' o' off' ≠ rkey pg fn 0x010) :
    (s.raise pg b fns).gw pg' o' off' = s.gw pg' o' off' := by
  unfold State.raise State.each
  induction fns generalizing s with
  | nil => rfl
  | cons fn l ih =>
    rw [List.foldl_cons, ih _ (fun f hf => h f (List.mem_cons_of_mem _ hf)), gw_raise1 _ _ _ _ _ _ _ (h fn (List.mem_cons_self ..))]

/-- No register but INT_STAT lies at its offset. -/
theorem gw_raise_off (s : State) (pg b : Nat) (fns : List Nat) (pg' o' off' : Nat) (h : off' ≠ 0x010) (hf : off' < 2 ^ 12) :
    (s.raise pg b fns).gw pg' o' off' = s.gw pg' o' off' :=
  gw_raise _ _ _ _ _ _ _ (fun _ _ => rkey_ne_off hf (by decide) h)

theorem bit_raise1 (s : State) (pg b fn : Nat) (hb : b < 32) : bit ((s.raise1 pg b fn).gw pg fn 0x010) b = true := by
  unfold State.raise1
  dsimp only
  have hv : ∀ v : Nat, bit ((v ||| 2 ^ b) % 2 ^ 32) b = true := by
    intro v; simp only [bit, Nat.testBit_mod_two_pow, hb, decide_true, Bool.true_and, Nat.testBit_or, Nat.testBit_two_pow_self, Bool.or_true]
  split
  · assumption
  · split
    · split
      · rw [gw_msi, gw_pw_same]; exact hv _
      · rw [gw_pw_same]; exact hv _
    · rw [gw_pw_same]; exact hv _

/-- A bit once set stays set while others are raised. -/
theorem bit_raise1_mono (s : State) (pg b fn fn' : Nat) (c : Nat) (hc : c < 32) (h : bit (s.gw pg fn' 0x010) c = true) :
    bit ((s.raise1 pg b fn).gw pg fn' 0x010) c = true := by
  by_cases hk : rkey pg fn' 0x010 = rkey pg fn 0x010
  · have hf : fn' = fn := by unfold rkey at hk; omega
    subst hf
    unfold State.raise1
    dsimp only
    have hv : bit ((s.gw pg fn' 0x010 ||| 2 ^ b) % 2 ^ 32) c = true := by
      simp only [bit, Nat.testBit_mod_two_pow, hc, decide_true, Bool.true_and, Nat.testBit_or]
      simp only [bit] at h; rw [h]; rfl
    split
    · exact h
    · split
      · split
        · rw [gw_msi, gw_pw_same]; exact hv
        · rw [gw_pw_same]; exact hv
      · rw [gw_pw_same]; exact hv
  · rw [gw_raise1 _ _ _ _ _ _ _ hk]; exact h

theorem bit_raise_mono (s : State) (pg b : Nat) (fns : List Nat) (fn' c : Nat) (hc : c < 32) (h : bit (s.gw pg fn' 0x010) c = true) :
    bit ((s.raise pg b fns).gw pg fn' 0x010) c = true := by
  unfold State.raise State.each
  induction fns generalizing s with
  | nil => exact h
  | cons f l ih => exact ih _ (bit_raise1_mono _ _ _ _ _ _ hc h)

/-- An event sets its bit in the copy of every function it is raised for (R560). -/
theorem bit_raise (s : State) (pg b : Nat) (fns : List Nat) (fn : Nat) (hf : fn ∈ fns) (hb : b < 32) :
    bit ((s.raise pg b fns).gw pg fn 0x010) b = true := by
  unfold State.raise State.each
  induction fns generalizing s with
  | nil => cases hf
  | cons f l ih =>
    rw [List.foldl_cons]
    rcases List.mem_cons.mp hf with rfl | hf
    · exact bit_raise_mono _ _ _ l _ _ hb (bit_raise1 _ _ _ _ hb)
    · exact ih _ hf

/-! ## The errata ring -/

/-- Recording a fault writes the registers of page 0x20 only (R427, R442). -/
theorem gw_err (s : State) (c pg i d0 d1 : Nat) (fn : Option Nat) (oom : Bool) (pg' o' off' : Nat) (hp : pg' ≠ 0x20) (ho : o' < 2 ^ 20)
    (hf : off' < 2 ^ 12) : (s.err c pg i d0 d1 fn oom).gw pg' o' off' = s.gw pg' o' off' := by
  have hk : ∀ p f, p = 0x20 → f < 2 ^ 12 → rkey pg' o' off' ≠ rkey (p + 0) 0 f :=
    fun p f hp' h => rkey_ne_page ho hf (by decide) h (by omega)
  have hi : ∀ fn ∈ fnsAll, rkey pg' o' off' ≠ rkey 0x20 fn 0x010 := fun fn hm =>
    rkey_ne_page ho hf (by simp [fnsAll] at hm; omega) (by decide) hp
  have e0 : ∀ (t : State) (f : Fld) v, f.reg.page = 0x20 → f.reg.off < 2 ^ 12 → (t.wr f v).gw pg' o' off' = t.gw pg' o' off' :=
    fun t f v h1 h2 => gw_wr_other _ _ _ _ _ _ _ _ (hk _ _ h1 h2)
  have e0' : ∀ (t : State) (f : Fld) v, f.reg.page = 0x20 → f.reg.off < 2 ^ 12 → (t.wb f v).gw pg' o' off' = t.gw pg' o' off' :=
    fun t f v h1 h2 => gw_wb_other _ _ _ _ _ _ _ _ (hk _ _ h1 h2)
  have e1 : ∀ t : State, (t.cntw FALT.ERR_SEQ_SEQ).gw pg' o' off' = t.gw pg' o' off' := fun t => by
    unfold State.cntw; rw [e0 _ _ _ rfl (by decide)]
  have e2 : ∀ t : State, (t.cntr FALT.ERR_OVF).gw pg' o' off' = t.gw pg' o' off' := fun t => by
    unfold State.cntr; rw [gw_ww_other _ _ _ _ _ _ _ _ (hk _ _ rfl (by decide))]
  have e3 : ∀ (r : ErrRec) (t : State), (errStore r t).gw pg' o' off' = t.gw pg' o' off' := fun r t => by
    unfold errStore
    split
    · rw [State.onFlt_gw]
    · split
      · rw [State.onFlt_gw]
      · rw [e2, State.onFlt_gw]
  unfold State.err
  dsimp only
  split
  · rw [State.onFlt_gw, State.onFlt_gw]
  · split
    · rw [gw_raise _ _ _ _ _ _ _ hi, e0' _ _ _ rfl (by decide), e0' _ _ _ rfl (by decide), e0' _ _ _ rfl (by decide),
        e0 _ _ _ rfl (by decide), e3, e1, State.onFlt_gw]
    · rw [e0' _ _ _ rfl (by decide), e0 _ _ _ rfl (by decide), e3, e1, State.onFlt_gw]

end Sys2Proof.Machine
end

