-- ==== Sys2Proof/Laws/Device.lean ====
section
/-! SUPPORT. What the shared operations of the SPI target, the scene banks and the device's reset can do. -/
namespace Sys2Proof.Machine

/-! ## The SPI target: a transaction counts, and changes neither the mode nor what waits -/

theorem spiTrans_mode (s : State) : (spiTrans s).mode = s.mode := by
  unfold spiTrans State.mode State.cntw; rw [rd_wr_other _ _ _ _ _ _ _ _ (by decide)]
theorem spiTrans_recovery (s : State) : (spiTrans s).recovery = s.recovery := by
  unfold State.recovery; rw [spiTrans_mode]
  unfold spiTrans State.cntw; rw [rb_wr_other _ _ _ _ _ _ _ _ (by decide)]
theorem spiTrans_fwUp (s : State) : (spiTrans s).fwUp = s.fwUp := by
  unfold State.fwUp; rw [spiTrans_mode]
  unfold spiTrans State.cntw; rw [rb_wr_other _ _ _ _ _ _ _ _ (by decide), rb_wr_other _ _ _ _ _ _ _ _ (by decide)]
theorem spiTrans_cmd (s : State) : (spiTrans s).cmd = s.cmd := by unfold spiTrans; simp [State.cntw]
theorem spiTrans_spiPlace (s : State) : (spiTrans s).spiPlace = s.spiPlace := by unfold State.spiPlace; rw [spiTrans_cmd]

theorem spiWork_ok {ok : Bool} {f : State → State} {s : State} (h : s.spiOn = true) (h2 : s.recovery = false) (h3 : ok = true) :
    spiWork ok f s = f (spiTrans s) := by
  unfold spiWork; rw [if_neg (by simp [h])]; simp only []; rw [if_neg]; rw [spiTrans_recovery, h2, h3]; simp
theorem spiWork_drop {ok : Bool} {f : State → State} {s : State} (h : s.spiOn = true) (h2 : s.recovery = true ∨ ok = false) :
    spiWork ok f s = spiDrop false (spiTrans s) := by
  unfold spiWork; rw [if_neg (by simp [h])]; simp only []; rw [if_pos]; rw [spiTrans_recovery]; exact h2
theorem spiRec_ok {ok : Bool} {f : State → State} {s : State} (h : s.spiOn = true) (h2 : s.recovery = true) (h3 : ok = true) :
    spiRec ok f s = f (spiTrans s) := by
  unfold spiRec; rw [if_neg (by simp [h])]; simp only []; rw [if_neg]; rw [spiTrans_recovery, h2, h3]; simp
theorem spiRec_drop {ok : Bool} {f : State → State} {s : State} (h : s.spiOn = true) (h2 : s.recovery = false ∨ ok = false) :
    spiRec ok f s = spiDrop false (spiTrans s) := by
  unfold spiRec; rw [if_neg (by simp [h])]; simp only []; rw [if_pos]; rw [spiTrans_recovery]; exact h2

/-! ## The scene banks: an event of another bank state does nothing -/

theorem rampEnd_other (g : Nat) (s : State) (h : s.bankState g ≠ bkRAMP) : rampEnd g s = s := if_neg (fun x => h x.1)
theorem copyEnd_other (g : Nat) (s : State) (h : s.bankState g ≠ bkCOPY ∨ bg s.scn.drained g = true) : copyEnd g s = s :=
  if_neg (fun x => by rcases h with h | h; exact h x.1; rw [h] at x; exact absurd x.2.1 (by simp))
theorem loadEnd_other (g : Nat) (s : State) (h : s.bankState g ≠ bkLOAD ∨ og s.scn.load g = none) : loadEnd g s = s := by
  unfold loadEnd; split
  · rename_i sc a e hl; exact if_neg (fun x => by rcases h with h | h; exact h x.1; rw [h] at hl; cases hl)
  · rfl

/-! ## The device's reset: whatever no register holds comes from the state after reset, from flash or from the queue -/

theorem each_keeps_part {α β : Type} (F : State → β) (l : List α) (g : State → α → State) (hg : ∀ s a, F (g s a) = F s) (s : State) :
    F (s.each l g) = F s := by
  unfold State.each
  induction l generalizing s with
  | nil => rfl
  | cons a l ih => rw [List.foldl_cons, ih, hg]
theorem resetDevice_part {β : Type} (F : State → β) (hw : ∀ s r v o i, F (State.ww s r v o i) = F s) (s : State) :
    F (resetDevice s) = F { State.reset with
      flash := s.flash, free := s.free, pending := s.pending, ls := { LsS.reset with grade := s.ls.grade } } := by
  have key : ∀ R : State, F (
      let r : State := { R with flash := s.flash, free := s.free, pending := s.pending, ls := { LsS.reset with grade := s.ls.grade } }
      let r := r.ww MODE.BOOT_STAT (s.rw MODE.BOOT_STAT &&& alwaysOn)
      let r := (r.ww PWR.RAIL_STAT (s.rw PWR.RAIL_STAT)).ww PWR.BANK_STAT (s.rw PWR.BANK_STAT)
      let r := r.each (List.range 8) (fun r i => r.ww PWR.TEMP (s.rw PWR.TEMP i) i)
      let r := r.wb FALT.PFAIL_STAT_ASSERTED (s.rb FALT.PFAIL_STAT_ASSERTED)
      if s.ls.grade then r.wr LSIO.THERM_CTL_WARN 0x0640 else r) =
      F { R with flash := s.flash, free := s.free, pending := s.pending, ls := { LsS.reset with grade := s.ls.grade } } := by
    intro R; simp only []
    generalize LsS.reset = Q
    split <;> simp only [State.wr, State.wb, hw] <;> rw [each_keeps_part F _ _ (fun s a => hw _ _ _ _ _)] <;> simp only [hw]
  exact key State.reset

end Sys2Proof.Machine
end

