-- ==== Sys2Proof/Laws/Keeps.lean ====
section
/-!
SUPPORT. What every operation keeps, whatever it does: the commands that wait, the canonical form of the register file, free
values used once only, the serial number, the provisioning key, the security-version floor, and the sample index where `kb`
holds (`kb` is False for the few operations that move it). The files Laws/Keeps… hold one lemma for each operation; a proof
cites the lemma and does not unfold the operation.
-/
namespace Sys2Proof.Machine

/-- What `t` has kept of `s`. -/
structure Keeps (kb : Prop) (s t : State) : Prop where
  pending : t.pending = s.pending
  regs : twf resetWord s.regs = true → twf resetWord t.regs = true
  free : s.free ≤ t.free
  sample : kb → t.tim.sample = s.tim.sample
  serial : t.flash.serial = s.flash.serial
  prov : t.flash.prov = s.flash.prov
  floor : s.flash.svnFloor ≤ t.flash.svnFloor

theorem Keeps.refl {kb : Prop} (s : State) : Keeps kb s s := ⟨rfl, id, Nat.le_refl _, fun _ => rfl, rfl, rfl, Nat.le_refl _⟩

/-- A fact about an intermediate state, for the rest of a proof. -/
theorem cut {kb : Prop} {s0 s : State} {P : Prop} (h : Keeps kb s0 s) (k : Keeps kb s0 s → P) : P := k h

/-- The same for a local operation. -/
theorem cutF {kb : Prop} {s0 : State} {f : State → State} {P : Prop} (h : ∀ s, Keeps kb s0 s → Keeps kb s0 (f s))
    (k : (∀ s, Keeps kb s0 s → Keeps kb s0 (f s)) → P) : P := k h

theorem cutF2 {kb : Prop} {s0 : State} {α : Type} {f : State → α → State} {P : Prop} (h : ∀ s x, Keeps kb s0 s → Keeps kb s0 (f s x))
    (k : (∀ s x, Keeps kb s0 s → Keeps kb s0 (f s x)) → P) : P := k h

/-- The same for what an opcode's own part answers. -/
@[irreducible] def ResKeeps (kb : Prop) (s0 : State) : Res → Prop
  | .no _ _ => True
  | .ok s _ _ _ _ => Keeps kb s0 s
  | .later s => Keeps kb s0 s

/-- The same for an operation that answers more than a state. -/
def Keeps1 (kb : Prop) (s0 : State) (p : State × α) : Prop := Keeps kb s0 p.1
def Keeps2 (kb : Prop) (s0 : State) (p : α × State) : Prop := Keeps kb s0 p.2
def Keeps3 (kb : Prop) (s0 : State) (p : α × β × State) : Prop := Keeps kb s0 p.2.2
@[irreducible] def KeepsE (kb : Prop) (s0 : State) : Except ε State → Prop
  | .ok t => Keeps kb s0 t
  | .error _ => True

variable {kb : Prop} {s0 s : State}

theorem cut1 {kb : Prop} {α : Type} {s0 : State} {p : State × α} {P : Prop} (h : Keeps1 kb s0 p) (k : Keeps kb s0 p.1 → P) : P := k h
theorem cut2 {kb : Prop} {α : Type} {s0 : State} {p : α × State} {P : Prop} (h : Keeps2 kb s0 p) (k : Keeps kb s0 p.2 → P) : P := k h
theorem cut3 {kb : Prop} {α β : Type} {s0 : State} {p : α × β × State} {P : Prop} (h : Keeps3 kb s0 p) (k : Keeps kb s0 p.2.2 → P) : P := k h

theorem foldl_keeps {β : Type _} {l : List β} {f : State → β → State} (hf : ∀ p x, Keeps kb s0 p → Keeps kb s0 (f p x)) (h : Keeps kb s0 s) :
    Keeps kb s0 (l.foldl f s) := by
  induction l generalizing s with
  | nil => exact h
  | cons x l ih => exact ih (hf s x h)
theorem foldl1_keeps {α β : Type _} {l : List β} {p : State × α} {f : State × α → β → State × α}
    (hf : ∀ p x, Keeps kb s0 p.1 → Keeps1 kb s0 (f p x)) (h : Keeps kb s0 p.1) : Keeps1 kb s0 (l.foldl f p) := by
  induction l generalizing p with
  | nil => exact h
  | cons x l ih => exact ih (hf p x h)
theorem foldl2_keeps {α β : Type _} {l : List β} {p : α × State} {f : α × State → β → α × State}
    (hf : ∀ p x, Keeps kb s0 p.2 → Keeps2 kb s0 (f p x)) (h : Keeps kb s0 p.2) : Keeps2 kb s0 (l.foldl f p) := by
  induction l generalizing p with
  | nil => exact h
  | cons x l ih => exact ih (hf p x h)
theorem id_keeps (h : Keeps kb s0 s) : Keeps kb s0 (id s) := h

theorem ite_keeps {c : Prop} [Decidable c] {a b : State} (ha : Keeps kb s0 a) (hb : Keeps kb s0 b) : Keeps kb s0 (if c then a else b) := by
  split
  · exact ha
  · exact hb
theorem iteR_keeps {c : Prop} [Decidable c] {a b : Res} (ha : ResKeeps kb s0 a) (hb : ResKeeps kb s0 b) :
    ResKeeps kb s0 (if c then a else b) := by
  split
  · exact ha
  · exact hb

theorem iteE_keeps {c : Prop} [Decidable c] {a b : Except ε State} (ha : KeepsE kb s0 a) (hb : KeepsE kb s0 b) :
    KeepsE kb s0 (if c then a else b) := by
  split
  · exact ha
  · exact hb

theorem mk1_keeps {a : α} (h : Keeps kb s0 s) : Keeps1 kb s0 (s, a) := h
theorem mk2_keeps {a : α} (h : Keeps kb s0 s) : Keeps2 kb s0 (a, s) := h
theorem mk3_keeps {a : α} {b : β} (h : Keeps kb s0 s) : Keeps3 kb s0 (a, b, s) := h
theorem ok_keeps (h : Keeps kb s0 s) : KeepsE kb s0 (Except.ok s : Except ε State) := by unfold KeepsE; exact h
theorem ok_elim (h : KeepsE kb s0 (Except.ok s : Except ε State)) : Keeps kb s0 s := by unfold KeepsE at h; exact h
theorem error_keeps {e : ε} : KeepsE kb s0 (Except.error e) := by unfold KeepsE; trivial

theorem mk_keeps {a1 a3 a4 a5 a6 a8 a9 a10 a11 a12 a13 a14 a15 a16 a17 a18} (h : Keeps kb s0 s) :
    Keeps kb s0 (State.mk s.regs a1 s.tim a3 a4 a5 a6 s.flash a8 a9 a10 a11 a12 a13 a14 a15 a16 a17 a18 s.free s.pending) :=
  ⟨h.pending, h.regs, h.free, h.sample, h.serial, h.prov, h.floor⟩

theorem mk_free_keeps {a1 a3 a4 a5 a6 a8 a9 a10 a11 a12 a13 a14 a15 a16 a17 a18 n} (h : Keeps kb s0 s) :
    Keeps kb s0 (State.mk s.regs a1 s.tim a3 a4 a5 a6 s.flash a8 a9 a10 a11 a12 a13 a14 a15 a16 a17 a18 (s.free + n) s.pending) :=
  ⟨h.pending, h.regs, Nat.le_trans h.free (Nat.le_add_right _ _), h.sample, h.serial, h.prov, h.floor⟩

theorem State.onTim_keeps {f : TimeS → TimeS} (hf : kb → ∀ x, (f x).sample = x.sample) (h : Keeps kb s0 s) : Keeps kb s0 (s.onTim f) :=
  ⟨h.pending, h.regs, h.free, fun hb => (hf hb _).trans (h.sample hb), h.serial, h.prov, h.floor⟩

theorem State.onFlash_keeps_at {f : FlashS → FlashS}
    (hf : (f s.flash).serial = s.flash.serial ∧ (f s.flash).prov = s.flash.prov ∧ s.flash.svnFloor ≤ (f s.flash).svnFloor)
    (h : Keeps kb s0 s) : Keeps kb s0 (s.onFlash f) :=
  ⟨h.pending, h.regs, h.free, h.sample, hf.1.trans h.serial, hf.2.1.trans h.prov, Nat.le_trans h.floor hf.2.2⟩

theorem State.onFlash_keeps {f : FlashS → FlashS}
    (hf : ∀ x, (f x).serial = x.serial ∧ (f x).prov = x.prov ∧ x.svnFloor ≤ (f x).svnFloor)
    (h : Keeps kb s0 s) : Keeps kb s0 (s.onFlash f) := State.onFlash_keeps_at (hf _) h

theorem State.pw_keeps {pg obj off v} (h : Keeps kb s0 s) : Keeps kb s0 (s.pw pg obj off v) := by
  refine ⟨by rw [State.pw_pending, h.pending], fun w => ?_, by rw [State.pw_free]; exact h.free,
    by rw [State.pw_tim]; exact h.sample, by rw [State.pw_flash]; exact h.serial, by rw [State.pw_flash]; exact h.prov,
    by rw [State.pw_flash]; exact h.floor⟩
  rw [State.pw_regs]; exact twf_tset _ _ _ _ (h.regs w)

theorem State.each_keeps {α : Type _} {l : List α} {f : State → α → State} (h : Keeps kb s0 s)
    (hf : ∀ s x, Keeps kb s0 s → Keeps kb s0 (f s x)) : Keeps kb s0 (s.each l f) := by
  unfold State.each
  induction l generalizing s with
  | nil => exact h
  | cons x l ih => exact ih (hf s x h)

theorem State.iff_keeps {c : Bool} {f : State → State} (h : Keeps kb s0 s) (hf : ∀ s, Keeps kb s0 s → Keeps kb s0 (f s)) :
    Keeps kb s0 (s.iff c f) := by
  unfold State.iff; split
  · exact hf s h
  · exact h

theorem State.fresh_keeps {v t} (h : Keeps kb s0 s) (e : State.fresh s = (v, t)) : Keeps kb s0 t := by
  unfold State.fresh at e; cases e; exact mk_free_keeps h

theorem State.fresh_keeps' (h : Keeps kb s0 s) : Keeps2 kb s0 (State.fresh s) := by unfold State.fresh; exact mk_free_keeps h

theorem State.freshI_keeps' (h : Keeps kb s0 s) : Keeps2 kb s0 (State.freshI s) := by unfold State.freshI; exact mk_free_keeps h

theorem State.fresh_keeps2 (h : Keeps kb s0 s) : Keeps kb s0 (State.fresh s).2 := State.fresh_keeps' h
theorem State.freshI_keeps2 (h : Keeps kb s0 s) : Keeps kb s0 (State.freshI s).2 := State.freshI_keeps' h

theorem State.freshI_keeps {v t} (h : Keeps kb s0 s) (e : State.freshI s = (v, t)) : Keeps kb s0 t := by
  unfold State.freshI at e; cases e; exact mk_free_keeps h

theorem awake_keeps {s t : State} (h : Keeps kb s0 s) (ht : Keeps kb s0 t) : Keeps kb s0 (awake s t) := by
  unfold awake; split
  · exact h
  · exact ht

theorem resNo_keeps {st r : Nat} : ResKeeps kb s0 (.no st r) := by unfold ResKeeps; trivial
theorem resOk_keeps {r ws n st} (h : Keeps kb s0 s) : ResKeeps kb s0 (.ok s r ws n st) := by unfold ResKeeps; exact h
theorem resLater_keeps (h : Keeps kb s0 s) : ResKeeps kb s0 (.later s) := by unfold ResKeeps; exact h
theorem resOk_elim {r ws n st} (h : ResKeeps kb s0 (.ok s r ws n st)) : Keeps kb s0 s := by unfold ResKeeps at h; exact h
theorem resLater_elim (h : ResKeeps kb s0 (.later s)) : Keeps kb s0 s := by unfold ResKeeps at h; exact h
theorem no_keeps {st : Nat} : ResKeeps kb s0 (no st) := resNo_keeps
theorem done_keeps (h : Keeps kb s0 s) : ResKeeps kb s0 (done s) := resOk_keeps h
theorem ret_keeps {ws} (h : Keeps kb s0 s) : ResKeeps kb s0 (ret s ws) := resOk_keeps h
theorem retL_keeps {n ws} (h : Keeps kb s0 s) : ResKeeps kb s0 (retL s n ws) := resOk_keeps h
theorem retIdx_keeps {n} (h : Keeps kb s0 s) : ResKeeps kb s0 (retIdx s n) := resOk_keeps h

end Sys2Proof.Machine
end

