-- ==== Sys2Proof/Laws/KeepsOps.lean ====
section
/-!
SUPPORT. Every operation of Machine/Ops.lean keeps what `Keeps` says.
-/
namespace Sys2Proof.Machine
set_option linter.all false
variable {kb : Prop} {s0 s : State}

theorem State.onHeld_keeps {a1} (h : Keeps kb s0 s) : Keeps kb s0 (State.onHeld s a1) := by
  unfold State.onHeld
  repeat' (first | with_reducible assumption | (extract_lets +onlyGivenNames x; refine @cut kb s0 x _ ?_ (fun hx => ?_); unfold x; clear x; rotate_left; clear_value x; rotate_right) | (extract_lets +onlyGivenNames x; clear_value x) | (with_reducible apply mk_keeps; first | with_reducible assumption) | with_reducible apply ite_keeps | split)
theorem State.ww_keeps {a1 a2 a3 a4} (h : Keeps kb s0 s) : Keeps kb s0 (State.ww s a1 a2 a3 a4) := by
  unfold State.ww
  repeat' (first | with_reducible assumption | (extract_lets +onlyGivenNames x; refine @cut kb s0 x _ ?_ (fun hx => ?_); unfold x; clear x; rotate_left; clear_value x; rotate_right) | (extract_lets +onlyGivenNames x; clear_value x) | with_reducible apply State.pw_keeps | with_reducible apply ite_keeps | split)
theorem State.wr_keeps {a1 a2 a3 a4} (h : Keeps kb s0 s) : Keeps kb s0 (State.wr s a1 a2 a3 a4) := by
  unfold State.wr
  repeat' (first | with_reducible assumption | (extract_lets +onlyGivenNames x; refine @cut kb s0 x _ ?_ (fun hx => ?_); unfold x; clear x; rotate_left; clear_value x; rotate_right) | (extract_lets +onlyGivenNames x; clear_value x) | with_reducible apply State.ww_keeps | with_reducible apply ite_keeps | split)
theorem State.cnt_keeps {a1 a2 a3 a4} (h : Keeps kb s0 s) : Keeps kb s0 (State.cnt s a1 a2 a3 a4) := by
  unfold State.cnt
  repeat' (first | with_reducible assumption | (extract_lets +onlyGivenNames x; refine @cut kb s0 x _ ?_ (fun hx => ?_); unfold x; clear x; rotate_left; clear_value x; rotate_right) | (extract_lets +onlyGivenNames x; clear_value x) | with_reducible apply State.wr_keeps | with_reducible apply ite_keeps | split)
theorem State.wr64_keeps {a1 a2 a3 a4 a5} (h : Keeps kb s0 s) : Keeps kb s0 (State.wr64 s a1 a2 a3 a4 a5) := by
  unfold State.wr64
  repeat' (first | with_reducible assumption | (extract_lets +onlyGivenNames x; refine @cut kb s0 x _ ?_ (fun hx => ?_); unfold x; clear x; rotate_left; clear_value x; rotate_right) | (extract_lets +onlyGivenNames x; clear_value x) | with_reducible apply State.ww_keeps | with_reducible apply ite_keeps | split)
theorem State.cnt64_keeps {a1 a2 a3 a4 a5} (h : Keeps kb s0 s) : Keeps kb s0 (State.cnt64 s a1 a2 a3 a4 a5) := by
  unfold State.cnt64
  repeat' (first | with_reducible assumption | (extract_lets +onlyGivenNames x; refine @cut kb s0 x _ ?_ (fun hx => ?_); unfold x; clear x; rotate_left; clear_value x; rotate_right) | (extract_lets +onlyGivenNames x; clear_value x) | with_reducible apply State.wr64_keeps | with_reducible apply ite_keeps | split)
theorem State.cntr_keeps {a1 a2 a3 a4} (h : Keeps kb s0 s) : Keeps kb s0 (State.cntr s a1 a2 a3 a4) := by
  unfold State.cntr
  repeat' (first | with_reducible assumption | (extract_lets +onlyGivenNames x; refine @cut kb s0 x _ ?_ (fun hx => ?_); unfold x; clear x; rotate_left; clear_value x; rotate_right) | (extract_lets +onlyGivenNames x; clear_value x) | with_reducible apply State.ww_keeps | with_reducible apply ite_keeps | split)
theorem State.cntw_keeps {a1 a2 a3 a4} (h : Keeps kb s0 s) : Keeps kb s0 (State.cntw s a1 a2 a3 a4) := by
  unfold State.cntw
  repeat' (first | with_reducible assumption | (extract_lets +onlyGivenNames x; refine @cut kb s0 x _ ?_ (fun hx => ?_); unfold x; clear x; rotate_left; clear_value x; rotate_right) | (extract_lets +onlyGivenNames x; clear_value x) | with_reducible apply State.wr_keeps | with_reducible apply ite_keeps | split)
theorem State.onFlt_keeps {a1} (h : Keeps kb s0 s) : Keeps kb s0 (State.onFlt s a1) := by
  unfold State.onFlt
  repeat' (first | with_reducible assumption | (extract_lets +onlyGivenNames x; refine @cut kb s0 x _ ?_ (fun hx => ?_); unfold x; clear x; rotate_left; clear_value x; rotate_right) | (extract_lets +onlyGivenNames x; clear_value x) | (with_reducible apply mk_keeps; first | with_reducible assumption) | with_reducible apply ite_keeps | split)
theorem errStore_keeps {a0} (h : Keeps kb s0 s) : Keeps kb s0 (errStore a0 s) := by
  unfold errStore
  repeat' (first | with_reducible assumption | (extract_lets +onlyGivenNames x; refine @cut kb s0 x _ ?_ (fun hx => ?_); unfold x; clear x; rotate_left; clear_value x; rotate_right) | (extract_lets +onlyGivenNames x; clear_value x) | with_reducible apply State.onFlt_keeps | with_reducible apply State.cntr_keeps | with_reducible apply ite_keeps | split)
theorem State.wb_keeps {a1 a2 a3 a4} (h : Keeps kb s0 s) : Keeps kb s0 (State.wb s a1 a2 a3 a4) := by
  unfold State.wb
  repeat' (first | with_reducible assumption | (extract_lets +onlyGivenNames x; refine @cut kb s0 x _ ?_ (fun hx => ?_); unfold x; clear x; rotate_left; clear_value x; rotate_right) | (extract_lets +onlyGivenNames x; clear_value x) | with_reducible apply State.wr_keeps | with_reducible apply ite_keeps | split)
theorem State.onHost_keeps {a1} (h : Keeps kb s0 s) : Keeps kb s0 (State.onHost s a1) := by
  unfold State.onHost
  repeat' (first | with_reducible assumption | (extract_lets +onlyGivenNames x; refine @cut kb s0 x _ ?_ (fun hx => ?_); unfold x; clear x; rotate_left; clear_value x; rotate_right) | (extract_lets +onlyGivenNames x; clear_value x) | (with_reducible apply mk_keeps; first | with_reducible assumption) | with_reducible apply ite_keeps | split)
theorem State.msi_keeps {a1 a2} (h : Keeps kb s0 s) : Keeps kb s0 (State.msi s a1 a2) := by
  unfold State.msi
  repeat' (first | with_reducible assumption | (extract_lets +onlyGivenNames x; refine @cut kb s0 x _ ?_ (fun hx => ?_); unfold x; clear x; rotate_left; clear_value x; rotate_right) | (extract_lets +onlyGivenNames x; clear_value x) | with_reducible apply State.onHost_keeps | with_reducible apply ite_keeps | split)
theorem State.raise1_keeps {a1 a2 a3} (h : Keeps kb s0 s) : Keeps kb s0 (State.raise1 s a1 a2 a3) := by
  unfold State.raise1
  repeat' (first | with_reducible assumption | (extract_lets +onlyGivenNames x; refine @cut kb s0 x _ ?_ (fun hx => ?_); unfold x; clear x; rotate_left; clear_value x; rotate_right) | (extract_lets +onlyGivenNames x; clear_value x) | with_reducible apply State.pw_keeps | with_reducible apply State.msi_keeps | with_reducible apply ite_keeps | split)
theorem State.raise_keeps {a1 a2 a3} (h : Keeps kb s0 s) : Keeps kb s0 (State.raise s a1 a2 a3) := by
  unfold State.raise
  repeat' (first | with_reducible assumption | (extract_lets +onlyGivenNames x; refine @cut kb s0 x _ ?_ (fun hx => ?_); unfold x; clear x; rotate_left; clear_value x; rotate_right) | (extract_lets +onlyGivenNames x; clear_value x) | with_reducible refine State.each_keeps ?_ (fun _ _ _ => ?_) | with_reducible apply State.raise1_keeps | with_reducible apply ite_keeps | split)
theorem State.err_keeps {a1 a2 a3 a4 a5 a6 a7} (h : Keeps kb s0 s) : Keeps kb s0 (State.err s a1 a2 a3 a4 a5 a6 a7) := by
  unfold State.err
  repeat' (first | with_reducible assumption | (extract_lets +onlyGivenNames x; refine @cut kb s0 x _ ?_ (fun hx => ?_); unfold x; clear x; rotate_left; clear_value x; rotate_right) | (extract_lets +onlyGivenNames x; clear_value x) | with_reducible apply State.onFlt_keeps | with_reducible apply errStore_keeps | with_reducible apply State.cntw_keeps | with_reducible apply State.wr_keeps | with_reducible apply State.wb_keeps | with_reducible apply State.raise_keeps | with_reducible apply ite_keeps | split)
theorem State.onUma_keeps {a1} (h : Keeps kb s0 s) : Keeps kb s0 (State.onUma s a1) := by
  unfold State.onUma
  repeat' (first | with_reducible assumption | (extract_lets +onlyGivenNames x; refine @cut kb s0 x _ ?_ (fun hx => ?_); unfold x; clear x; rotate_left; clear_value x; rotate_right) | (extract_lets +onlyGivenNames x; clear_value x) | (with_reducible apply mk_keeps; first | with_reducible assumption) | with_reducible apply ite_keeps | split)
theorem State.onCmd_keeps {a1} (h : Keeps kb s0 s) : Keeps kb s0 (State.onCmd s a1) := by
  unfold State.onCmd
  repeat' (first | with_reducible assumption | (extract_lets +onlyGivenNames x; refine @cut kb s0 x _ ?_ (fun hx => ?_); unfold x; clear x; rotate_left; clear_value x; rotate_right) | (extract_lets +onlyGivenNames x; clear_value x) | (with_reducible apply mk_keeps; first | with_reducible assumption) | with_reducible apply ite_keeps | split)
theorem State.onLoc_keeps {a1} (h : Keeps kb s0 s) : Keeps kb s0 (State.onLoc s a1) := by
  unfold State.onLoc
  repeat' (first | with_reducible assumption | (extract_lets +onlyGivenNames x; refine @cut kb s0 x _ ?_ (fun hx => ?_); unfold x; clear x; rotate_left; clear_value x; rotate_right) | (extract_lets +onlyGivenNames x; clear_value x) | (with_reducible apply mk_keeps; first | with_reducible assumption) | with_reducible apply ite_keeps | split)
theorem State.onLs_keeps {a1} (h : Keeps kb s0 s) : Keeps kb s0 (State.onLs s a1) := by
  unfold State.onLs
  repeat' (first | with_reducible assumption | (extract_lets +onlyGivenNames x; refine @cut kb s0 x _ ?_ (fun hx => ?_); unfold x; clear x; rotate_left; clear_value x; rotate_right) | (extract_lets +onlyGivenNames x; clear_value x) | (with_reducible apply mk_keeps; first | with_reducible assumption) | with_reducible apply ite_keeps | split)
theorem State.onMd_keeps {a1} (h : Keeps kb s0 s) : Keeps kb s0 (State.onMd s a1) := by
  unfold State.onMd
  repeat' (first | with_reducible assumption | (extract_lets +onlyGivenNames x; refine @cut kb s0 x _ ?_ (fun hx => ?_); unfold x; clear x; rotate_left; clear_value x; rotate_right) | (extract_lets +onlyGivenNames x; clear_value x) | (with_reducible apply mk_keeps; first | with_reducible assumption) | with_reducible apply ite_keeps | split)
theorem State.onMet_keeps {a1} (h : Keeps kb s0 s) : Keeps kb s0 (State.onMet s a1) := by
  unfold State.onMet
  repeat' (first | with_reducible assumption | (extract_lets +onlyGivenNames x; refine @cut kb s0 x _ ?_ (fun hx => ?_); unfold x; clear x; rotate_left; clear_value x; rotate_right) | (extract_lets +onlyGivenNames x; clear_value x) | (with_reducible apply mk_keeps; first | with_reducible assumption) | with_reducible apply ite_keeps | split)
theorem State.onNet_keeps {a1} (h : Keeps kb s0 s) : Keeps kb s0 (State.onNet s a1) := by
  unfold State.onNet
  repeat' (first | with_reducible assumption | (extract_lets +onlyGivenNames x; refine @cut kb s0 x _ ?_ (fun hx => ?_); unfold x; clear x; rotate_left; clear_value x; rotate_right) | (extract_lets +onlyGivenNames x; clear_value x) | (with_reducible apply mk_keeps; first | with_reducible assumption) | with_reducible apply ite_keeps | split)
theorem State.onRef_keeps {a1} (h : Keeps kb s0 s) : Keeps kb s0 (State.onRef s a1) := by
  unfold State.onRef
  repeat' (first | with_reducible assumption | (extract_lets +onlyGivenNames x; refine @cut kb s0 x _ ?_ (fun hx => ?_); unfold x; clear x; rotate_left; clear_value x; rotate_right) | (extract_lets +onlyGivenNames x; clear_value x) | (with_reducible apply mk_keeps; first | with_reducible assumption) | with_reducible apply ite_keeps | split)
theorem State.onRx_keeps {a1} (h : Keeps kb s0 s) : Keeps kb s0 (State.onRx s a1) := by
  unfold State.onRx
  repeat' (first | with_reducible assumption | (extract_lets +onlyGivenNames x; refine @cut kb s0 x _ ?_ (fun hx => ?_); unfold x; clear x; rotate_left; clear_value x; rotate_right) | (extract_lets +onlyGivenNames x; clear_value x) | (with_reducible apply mk_keeps; first | with_reducible assumption) | with_reducible apply ite_keeps | split)
theorem State.onScn_keeps {a1} (h : Keeps kb s0 s) : Keeps kb s0 (State.onScn s a1) := by
  unfold State.onScn
  repeat' (first | with_reducible assumption | (extract_lets +onlyGivenNames x; refine @cut kb s0 x _ ?_ (fun hx => ?_); unfold x; clear x; rotate_left; clear_value x; rotate_right) | (extract_lets +onlyGivenNames x; clear_value x) | (with_reducible apply mk_keeps; first | with_reducible assumption) | with_reducible apply ite_keeps | split)
theorem State.onSrc_keeps {a1} (h : Keeps kb s0 s) : Keeps kb s0 (State.onSrc s a1) := by
  unfold State.onSrc
  repeat' (first | with_reducible assumption | (extract_lets +onlyGivenNames x; refine @cut kb s0 x _ ?_ (fun hx => ?_); unfold x; clear x; rotate_left; clear_value x; rotate_right) | (extract_lets +onlyGivenNames x; clear_value x) | (with_reducible apply mk_keeps; first | with_reducible assumption) | with_reducible apply ite_keeps | split)
theorem State.onTx_keeps {a1} (h : Keeps kb s0 s) : Keeps kb s0 (State.onTx s a1) := by
  unfold State.onTx
  repeat' (first | with_reducible assumption | (extract_lets +onlyGivenNames x; refine @cut kb s0 x _ ?_ (fun hx => ?_); unfold x; clear x; rotate_left; clear_value x; rotate_right) | (extract_lets +onlyGivenNames x; clear_value x) | (with_reducible apply mk_keeps; first | with_reducible assumption) | with_reducible apply ite_keeps | split)
theorem State.onXp_keeps {a1} (h : Keeps kb s0 s) : Keeps kb s0 (State.onXp s a1) := by
  unfold State.onXp
  repeat' (first | with_reducible assumption | (extract_lets +onlyGivenNames x; refine @cut kb s0 x _ ?_ (fun hx => ?_); unfold x; clear x; rotate_left; clear_value x; rotate_right) | (extract_lets +onlyGivenNames x; clear_value x) | (with_reducible apply mk_keeps; first | with_reducible assumption) | with_reducible apply ite_keeps | split)
theorem State.wrS_keeps {a1 a2 a3 a4} (h : Keeps kb s0 s) : Keeps kb s0 (State.wrS s a1 a2 a3 a4) := by
  unfold State.wrS
  repeat' (first | with_reducible assumption | (extract_lets +onlyGivenNames x; refine @cut kb s0 x _ ?_ (fun hx => ?_); unfold x; clear x; rotate_left; clear_value x; rotate_right) | (extract_lets +onlyGivenNames x; clear_value x) | with_reducible apply State.wr_keeps | with_reducible apply ite_keeps | split)
theorem flashWrote_keeps  (h : Keeps kb s0 s) : Keeps kb s0 (flashWrote s) := by
  unfold flashWrote
  repeat' (first | with_reducible assumption | (extract_lets +onlyGivenNames x; refine @cut kb s0 x _ ?_ (fun hx => ?_); unfold x; clear x; rotate_left; clear_value x; rotate_right) | (extract_lets +onlyGivenNames x; refine @cut1 kb _ s0 x _ ?_ (fun hx => ?_); unfold x; clear x; rotate_left; clear_value x; rotate_right) | (extract_lets +onlyGivenNames x; refine @cut2 kb _ s0 x _ ?_ (fun hx => ?_); unfold x; clear x; rotate_left; clear_value x; rotate_right) | (extract_lets +onlyGivenNames x; clear_value x) | with_reducible refine State.fresh_keeps ?_ (by assumption) | with_reducible apply State.fresh_keeps2 | with_reducible apply State.cntr_keeps | with_reducible apply ite_keeps | with_reducible apply State.fresh_keeps' | split | with_reducible apply mk1_keeps | with_reducible apply mk2_keeps)
theorem condNote_keeps  (h : Keeps kb s0 s) : Keeps kb s0 (condNote s) := by
  unfold condNote
  repeat' (first | with_reducible assumption | (extract_lets +onlyGivenNames x; refine @cut kb s0 x _ ?_ (fun hx => ?_); unfold x; clear x; rotate_left; clear_value x; rotate_right) | (extract_lets +onlyGivenNames x; clear_value x) | with_reducible apply State.onMd_keeps | with_reducible apply State.raise_keeps | with_reducible apply ite_keeps | split)

end Sys2Proof.Machine
end

