-- ==== Sys2Proof/Laws/KeepsRegFile.lean ====
section
/-!
SUPPORT. Every operation of Machine/RegFile.lean keeps what `Keeps` says.
-/
namespace Sys2Proof.Machine
set_option linter.all false
variable {kb : Prop} {s0 s : State}

theorem State.applyDue_keeps {a1 a2} (hk : ∀ s x, Keeps kb s0 s → Keeps kb s0 (a2 s x)) (h : Keeps kb s0 s) : Keeps kb s0 (State.applyDue s a1 a2) := by
  unfold State.applyDue
  repeat' (first | with_reducible assumption | (extract_lets +onlyGivenNames x; refine @cut kb s0 x _ ?_ (fun hx => ?_); unfold x; clear x; rotate_left; clear_value x; rotate_right) | (extract_lets +onlyGivenNames x; clear_value x) | with_reducible refine hk _ _ ?_ | with_reducible apply State.onHeld_keeps | with_reducible refine State.each_keeps ?_ (fun _ _ _ => ?_) | with_reducible apply ite_keeps | split)
theorem State.applyHeld_keeps {a1} (h : Keeps kb s0 s) : Keeps kb s0 (State.applyHeld s a1) := by
  unfold State.applyHeld
  repeat' (first | with_reducible assumption | (extract_lets +onlyGivenNames x; refine @cut kb s0 x _ ?_ (fun hx => ?_); unfold x; clear x; rotate_left; clear_value x; rotate_right) | (extract_lets +onlyGivenNames x; clear_value x) | with_reducible apply State.pw_keeps | with_reducible apply ite_keeps | split)
theorem State.hold_keeps {a1 a2 a3 a4 a5 a6} (h : Keeps kb s0 s) : Keeps kb s0 (State.hold s a1 a2 a3 a4 a5 a6) := by
  unfold State.hold
  repeat' (first | with_reducible assumption | (extract_lets +onlyGivenNames x; refine @cut kb s0 x _ ?_ (fun hx => ?_); unfold x; clear x; rotate_left; clear_value x; rotate_right) | (extract_lets +onlyGivenNames x; clear_value x) | with_reducible apply State.onHeld_keeps | with_reducible apply State.raise_keeps | with_reducible apply State.wb_keeps | with_reducible apply State.err_keeps | with_reducible apply ite_keeps | split)
theorem State.putMirrored_keeps {a1 a2 a3 a4 a5} (h : Keeps kb s0 s) : Keeps kb s0 (State.putMirrored s a1 a2 a3 a4 a5) := by
  unfold State.putMirrored
  repeat' (first | with_reducible assumption | (extract_lets +onlyGivenNames x; refine @cut kb s0 x _ ?_ (fun hx => ?_); unfold x; clear x; rotate_left; clear_value x; rotate_right) | (extract_lets +onlyGivenNames x; clear_value x) | with_reducible apply State.onHeld_keeps | with_reducible apply State.pw_keeps | with_reducible apply ite_keeps | split)
theorem State.putWord_keeps {a1 a2 a3 a4 a5} (h : Keeps kb s0 s) : Keeps kb s0 (State.putWord s a1 a2 a3 a4 a5) := by
  unfold State.putWord
  repeat' (first | with_reducible assumption | (extract_lets +onlyGivenNames x; refine @cut kb s0 x _ ?_ (fun hx => ?_); unfold x; clear x; rotate_left; clear_value x; rotate_right) | (extract_lets +onlyGivenNames x; clear_value x) | with_reducible apply State.putMirrored_keeps | with_reducible apply State.pw_keeps | with_reducible apply ite_keeps | split)
theorem State.writeRW_keeps {a1 a2 a3 a4} (h : Keeps kb s0 s) : Keeps kb s0 (State.writeRW s a1 a2 a3 a4) := by
  unfold State.writeRW
  repeat' (first | with_reducible assumption | (extract_lets +onlyGivenNames x; refine @cut kb s0 x _ ?_ (fun hx => ?_); unfold x; clear x; rotate_left; clear_value x; rotate_right) | (extract_lets +onlyGivenNames x; clear_value x) | with_reducible apply State.putWord_keeps | with_reducible apply ite_keeps | split)
theorem State.writeWord_keeps {a1 a2 a3 a4 a5 a6} (h : Keeps kb s0 s) : Keeps kb s0 (State.writeWord s a1 a2 a3 a4 a5 a6) := by
  unfold State.writeWord
  repeat' (first | with_reducible assumption | (extract_lets +onlyGivenNames x; refine @cut kb s0 x _ ?_ (fun hx => ?_); unfold x; clear x; rotate_left; clear_value x; rotate_right) | (extract_lets +onlyGivenNames x; clear_value x) | with_reducible apply State.putWord_keeps | with_reducible apply State.hold_keeps | with_reducible apply ite_keeps | split)

end Sys2Proof.Machine
end

