-- ==== Sys2Proof/Laws/KeepsTxq.lean ====
section
/-!
SUPPORT. Every operation of Machine/Txq.lean keeps what `Keeps` says.
-/
namespace Sys2Proof.Machine
set_option linter.all false
variable {kb : Prop} {s0 s : State}

theorem txSet_keeps {a0 a1} (h : Keeps kb s0 s) : Keeps kb s0 (txSet a0 a1 s) := by
  unfold txSet
  repeat' (first | with_reducible assumption | (extract_lets +onlyGivenNames x; refine @cut kb s0 x _ ?_ (fun hx => ?_); unfold x; clear x; rotate_left; clear_value x; rotate_right) | (extract_lets +onlyGivenNames x; clear_value x) | with_reducible apply State.onNet_keeps | with_reducible apply ite_keeps | split)
theorem hostEnd_keeps {a0 a1 a2} (h : Keeps kb s0 s) : Keeps kb s0 (hostEnd a0 a1 a2 s) := by
  unfold hostEnd
  repeat' (first | with_reducible assumption | (extract_lets +onlyGivenNames x; refine @cut kb s0 x _ ?_ (fun hx => ?_); unfold x; clear x; rotate_left; clear_value x; rotate_right) | (extract_lets +onlyGivenNames x; clear_value x) | with_reducible apply State.onNet_keeps | with_reducible apply ite_keeps | split)
theorem txDrop_keeps {a0 a1} (h : Keeps kb s0 s) : Keeps kb s0 (txDrop a0 a1 s) := by
  unfold txDrop
  repeat' (first | with_reducible assumption | (extract_lets +onlyGivenNames x; refine @cut kb s0 x _ ?_ (fun hx => ?_); unfold x; clear x; rotate_left; clear_value x; rotate_right) | (extract_lets +onlyGivenNames x; clear_value x) | with_reducible apply hostEnd_keeps | with_reducible apply State.cntr_keeps | with_reducible apply ite_keeps | split)
theorem txPut_keeps {a0 a1 a2} (h : Keeps kb s0 s) : Keeps kb s0 (txPut a0 a1 a2 s) := by
  unfold txPut
  repeat' (first | with_reducible assumption | (extract_lets +onlyGivenNames x; refine @cut kb s0 x _ ?_ (fun hx => ?_); unfold x; clear x; rotate_left; clear_value x; rotate_right) | (extract_lets +onlyGivenNames x; clear_value x) | with_reducible apply txSet_keeps | with_reducible apply txDrop_keeps | with_reducible apply ite_keeps | split)
theorem txMgmt_keeps {a0 a1} (h : Keeps kb s0 s) : Keeps kb s0 (txMgmt a0 a1 s) := by
  unfold txMgmt
  repeat' (first | with_reducible assumption | (extract_lets +onlyGivenNames x; refine @cut kb s0 x _ ?_ (fun hx => ?_); unfold x; clear x; rotate_left; clear_value x; rotate_right) | (extract_lets +onlyGivenNames x; clear_value x) | with_reducible apply txPut_keeps | with_reducible apply ite_keeps | split)

end Sys2Proof.Machine
end

