-- ==== Sys2Proof/Laws/KeepsCmd.lean ====
section
/-!
SUPPORT. Every operation of Machine/Cmd.lean keeps what `Keeps` says.
-/
namespace Sys2Proof.Machine
set_option linter.all false
variable {kb : Prop} {s0 s : State}

theorem accept_keeps {a0 a1} (h : Keeps kb s0 s) : Keeps kb s0 (accept a0 a1 s) := by
  unfold accept
  repeat' (first | with_reducible assumption | (extract_lets +onlyGivenNames x; refine @cut kb s0 x _ ?_ (fun hx => ?_); unfold x; clear x; rotate_left; clear_value x; rotate_right) | (extract_lets +onlyGivenNames x; clear_value x) | with_reducible apply State.onCmd_keeps | with_reducible apply State.wr64_keeps | with_reducible apply flashWrote_keeps | with_reducible refine State.onFlash_keeps (fun _ => ⟨rfl, rfl, Nat.le_refl _⟩) ?_ | with_reducible apply State.cntr_keeps | with_reducible apply ite_keeps | split)
theorem mirrorNote_keeps {a0} (h : Keeps kb s0 s) : Keeps kb s0 (mirrorNote a0 s) := by
  unfold mirrorNote
  repeat' (first | with_reducible assumption | (extract_lets +onlyGivenNames x; refine @cut kb s0 x _ ?_ (fun hx => ?_); unfold x; clear x; rotate_left; clear_value x; rotate_right) | (extract_lets +onlyGivenNames x; clear_value x) | with_reducible apply State.onUma_keeps | with_reducible apply ite_keeps | split)
theorem actNoted_keeps {a0 a1} (h : Keeps kb s0 s) : Keeps kb s0 (actNoted a0 a1 s) := by
  unfold actNoted
  split
  · exact mirrorNote_keeps h
  · exact h
theorem mirrorLater_keeps {a0} (h : Keeps kb s0 s) : Keeps kb s0 (mirrorLater a0 s) := by
  unfold mirrorLater
  repeat' (first | with_reducible assumption | (extract_lets +onlyGivenNames x; refine @cut kb s0 x _ ?_ (fun hx => ?_); unfold x; clear x; rotate_left; clear_value x; rotate_right) | (extract_lets +onlyGivenNames x; clear_value x) | with_reducible apply State.onUma_keeps | with_reducible apply ite_keeps | split)
theorem cqError_keeps {a0 a1} (h : Keeps kb s0 s) : Keeps kb s0 (cqError a0 a1 s) := by
  unfold cqError
  repeat' (first | with_reducible assumption | (extract_lets +onlyGivenNames x; refine @cut kb s0 x _ ?_ (fun hx => ?_); unfold x; clear x; rotate_left; clear_value x; rotate_right) | (extract_lets +onlyGivenNames x; clear_value x) | with_reducible apply State.wr_keeps | with_reducible apply ite_keeps | split)
theorem dmaErr_keeps {a0} (h : Keeps kb s0 s) : Keeps kb s0 (dmaErr a0 s) := by
  unfold dmaErr
  repeat' (first | with_reducible assumption | (extract_lets +onlyGivenNames x; refine @cut kb s0 x _ ?_ (fun hx => ?_); unfold x; clear x; rotate_left; clear_value x; rotate_right) | (extract_lets +onlyGivenNames x; clear_value x) | with_reducible apply State.raise_keeps | with_reducible apply State.cntr_keeps | with_reducible apply ite_keeps | split)
theorem coalFire_keeps {a0 a1} (h : Keeps kb s0 s) : Keeps kb s0 (coalFire a0 a1 s) := by
  unfold coalFire
  repeat' (first | with_reducible assumption | (extract_lets +onlyGivenNames x; refine @cut kb s0 x _ ?_ (fun hx => ?_); unfold x; clear x; rotate_left; clear_value x; rotate_right) | (extract_lets +onlyGivenNames x; clear_value x) | with_reducible apply State.msi_keeps | with_reducible apply State.onHost_keeps | with_reducible apply ite_keeps | split)
theorem pcieDone_keeps {a1 a2} (h : Keeps kb s0 s) : Keeps kb s0 (pcieDone s a1 a2) := by
  unfold pcieDone
  repeat' (first | with_reducible assumption | (extract_lets +onlyGivenNames x; refine @cut kb s0 x _ ?_ (fun hx => ?_); unfold x; clear x; rotate_left; clear_value x; rotate_right) | (extract_lets +onlyGivenNames x; clear_value x) | with_reducible apply State.onCmd_keeps | with_reducible apply State.cntw_keeps | with_reducible apply cqError_keeps | with_reducible apply dmaErr_keeps | with_reducible apply State.wr_keeps | with_reducible apply coalFire_keeps | with_reducible apply State.onHost_keeps | with_reducible apply ite_keeps | split)
theorem udpSend_keeps {a0 a1 a2} (h : Keeps kb s0 s) : Keeps kb s0 (udpSend a0 a1 a2 s) := by
  unfold udpSend
  repeat' (first | with_reducible assumption | (extract_lets +onlyGivenNames x; refine @cut kb s0 x _ ?_ (fun hx => ?_); unfold x; clear x; rotate_left; clear_value x; rotate_right) | (extract_lets +onlyGivenNames x; clear_value x) | with_reducible apply txMgmt_keeps | with_reducible apply State.onCmd_keeps | with_reducible apply ite_keeps | split)
theorem udpWindow_keeps  (h : Keeps kb s0 s) : Keeps kb s0 (udpWindow s) := by
  unfold udpWindow
  repeat' (first | with_reducible assumption | (extract_lets +onlyGivenNames x; refine @cut kb s0 x _ ?_ (fun hx => ?_); unfold x; clear x; rotate_left; clear_value x; rotate_right) | (extract_lets +onlyGivenNames x; clear_value x) | with_reducible apply State.onCmd_keeps | with_reducible apply ite_keeps | split)
theorem udpDone_keeps {a1 a2 a3 a4 a5} (h : Keeps kb s0 s) : Keeps kb s0 (udpDone s a1 a2 a3 a4 a5) := by
  unfold udpDone
  repeat' (first | with_reducible assumption | (extract_lets +onlyGivenNames x; refine @cut kb s0 x _ ?_ (fun hx => ?_); unfold x; clear x; rotate_left; clear_value x; rotate_right) | (extract_lets +onlyGivenNames x; clear_value x) | with_reducible apply State.onCmd_keeps | with_reducible apply udpSend_keeps | with_reducible apply udpWindow_keeps | with_reducible apply State.cntr_keeps | with_reducible apply ite_keeps | split)
theorem tunDone_keeps {a0 a1} (h : Keeps kb s0 s) : Keeps kb s0 (tunDone a0 a1 s) := by
  unfold tunDone
  repeat' (first | with_reducible assumption | (extract_lets +onlyGivenNames x; refine @cut kb s0 x _ ?_ (fun hx => ?_); unfold x; clear x; rotate_left; clear_value x; rotate_right) | (extract_lets +onlyGivenNames x; clear_value x) | with_reducible apply State.onUma_keeps | with_reducible apply ite_keeps | split)
theorem complete_keeps {a0 a1 a2 a3 a4} (h : Keeps kb s0 s) : Keeps kb s0 (complete a0 a1 a2 a3 a4 s) := by
  unfold complete
  repeat' (first | with_reducible assumption | (extract_lets +onlyGivenNames x; refine @cut kb s0 x _ ?_ (fun hx => ?_); unfold x; clear x; rotate_left; clear_value x; rotate_right) | (extract_lets +onlyGivenNames x; clear_value x) | with_reducible apply State.cntr_keeps | with_reducible apply State.raise_keeps | with_reducible apply State.onCmd_keeps | with_reducible apply pcieDone_keeps | with_reducible apply udpDone_keeps | with_reducible apply tunDone_keeps | with_reducible apply ite_keeps | split)
theorem finish_keeps {o e r} (h : Keeps kb s0 s) (hr : ResKeeps kb s0 r) : Keeps kb s0 (finish o e s r) := by
  unfold finish
  have hn : ∀ t, Keeps kb s0 t → Keeps kb s0 (if (o.mirrored && !o.read) = true then mirrorNote o.code t else t) := by
    intro t ht; split
    · exact mirrorNote_keeps ht
    · exact ht
  cases r <;> simp only [] <;>
  repeat' (first | with_reducible assumption | exact resOk_elim hr | exact resLater_elim hr | with_reducible apply complete_keeps | refine hn _ ?_ | split)
theorem cfgWrite_keeps {a0 a1} (h : Keeps kb s0 s) : Keeps kb s0 (cfgWrite a0 a1 s) := by
  unfold cfgWrite
  repeat' (first | with_reducible assumption | (extract_lets +onlyGivenNames x; refine @cut kb s0 x _ ?_ (fun hx => ?_); unfold x; clear x; rotate_left; clear_value x; rotate_right) | (extract_lets +onlyGivenNames x; clear_value x) | with_reducible refine State.each_keeps ?_ (fun _ _ _ => ?_) | with_reducible apply State.writeWord_keeps | with_reducible apply ite_keeps | split)
theorem deferred_keeps {a0} (h : Keeps kb s0 s) : Keeps kb s0 (deferred a0 s) := by
  unfold deferred
  repeat' (first | with_reducible assumption | (extract_lets +onlyGivenNames x; refine @cut kb s0 x _ ?_ (fun hx => ?_); unfold x; clear x; rotate_left; clear_value x; rotate_right) | (extract_lets +onlyGivenNames x; clear_value x) | with_reducible apply State.onUma_keeps | with_reducible apply mirrorLater_keeps | with_reducible apply ite_keeps | split)
theorem runCmd_keeps {o e own body row} (hb : ∀ fn s, Keeps kb s0 s → ResKeeps kb s0 (body fn s)) (h : Keeps kb s0 s) :
    Keeps kb s0 (runCmd o e own body s row) := by
  unfold runCmd
  repeat' (first | with_reducible assumption | with_reducible apply complete_keeps | with_reducible apply accept_keeps |
    with_reducible refine finish_keeps ?_ (hb _ _ ?_) | with_reducible apply deferred_keeps | (extract_lets +onlyGivenNames x; refine @cut kb s0 x _ ?_ (fun hx => ?_); unfold x; clear x; rotate_left; clear_value x; rotate_right) | split)

end Sys2Proof.Machine
end

