-- ==== Sys2Proof/Laws/KeepsLowSpeed.lean ====
section
/-!
SUPPORT. Every operation of Machine/LowSpeed.lean keeps what `Keeps` says.
-/
namespace Sys2Proof.Machine
set_option linter.all false
variable {kb : Prop} {s0 s : State}

theorem icSet_keeps {a0 a1} (h : Keeps kb s0 s) : Keeps kb s0 (icSet a0 a1 s) := by
  unfold icSet
  repeat' (first | with_reducible assumption | (extract_lets +onlyGivenNames x; refine @cut kb s0 x _ ?_ (fun hx => ?_); unfold x; clear x; rotate_left; clear_value x; rotate_right) | (extract_lets +onlyGivenNames x; clear_value x) | with_reducible apply State.wr_keeps | with_reducible apply ite_keeps | split)
theorem icStopAll_keeps  (h : Keeps kb s0 s) : Keeps kb s0 (icStopAll s) := by
  unfold icStopAll
  repeat' (first | with_reducible assumption | (extract_lets +onlyGivenNames x; refine @cut kb s0 x _ ?_ (fun hx => ?_); unfold x; clear x; rotate_left; clear_value x; rotate_right) | (extract_lets +onlyGivenNames x; clear_value x) | with_reducible refine State.each_keeps ?_ (fun _ _ _ => ?_) | with_reducible apply icSet_keeps | with_reducible apply State.onLs_keeps | with_reducible apply ite_keeps | split)
theorem icCheck_keeps {a0} (h : Keeps kb s0 s) : Keeps kb s0 (icCheck a0 s) := by
  unfold icCheck
  repeat' (first | with_reducible assumption | (extract_lets +onlyGivenNames x; refine @cut kb s0 x _ ?_ (fun hx => ?_); unfold x; clear x; rotate_left; clear_value x; rotate_right) | (extract_lets +onlyGivenNames x; clear_value x) | with_reducible apply icSet_keeps | with_reducible apply State.onLs_keeps | with_reducible apply ite_keeps | split)
theorem icCtl_keeps {a0 a1} (h : Keeps kb s0 s) : Keeps kb s0 (icCtl a0 a1 s) := by
  unfold icCtl
  repeat' (first | with_reducible assumption | (extract_lets +onlyGivenNames x; refine @cut kb s0 x _ ?_ (fun hx => ?_); unfold x; clear x; rotate_left; clear_value x; rotate_right) | (extract_lets +onlyGivenNames x; clear_value x) | with_reducible apply State.writeRW_keeps | with_reducible apply icSet_keeps | with_reducible apply State.onLs_keeps | with_reducible apply icCheck_keeps | with_reducible apply ite_keeps | split)
theorem uartPart_keeps {a0 a1} (h : Keeps kb s0 s) : Keeps kb s0 (uartPart a0 a1 s) := by
  unfold uartPart
  repeat' (first | with_reducible assumption | (extract_lets +onlyGivenNames x; refine @cut kb s0 x _ ?_ (fun hx => ?_); unfold x; clear x; rotate_left; clear_value x; rotate_right) | (extract_lets +onlyGivenNames x; clear_value x) | with_reducible apply State.onLs_keeps | with_reducible apply ite_keeps | split)
theorem uartAfter_keeps {a0 a1} (h : Keeps kb s0 s) : Keeps kb s0 (uartAfter a0 a1 s) := by
  unfold uartAfter
  repeat' (first | with_reducible assumption | (extract_lets +onlyGivenNames x; refine @cut kb s0 x _ ?_ (fun hx => ?_); unfold x; clear x; rotate_left; clear_value x; rotate_right) | (extract_lets +onlyGivenNames x; clear_value x) | with_reducible apply uartPart_keeps | with_reducible apply State.raise_keeps | with_reducible apply ite_keeps | split)
theorem gpioEdge_keeps {a0 a1} (h : Keeps kb s0 s) : Keeps kb s0 (gpioEdge a0 a1 s) := by
  unfold gpioEdge
  repeat' (first | with_reducible assumption | (extract_lets +onlyGivenNames x; refine @cut kb s0 x _ ?_ (fun hx => ?_); unfold x; clear x; rotate_left; clear_value x; rotate_right) | (extract_lets +onlyGivenNames x; clear_value x) | with_reducible apply State.wb_keeps | with_reducible apply State.raise_keeps | with_reducible apply ite_keeps | split)
theorem gpioShow_keeps {a0} (h : Keeps kb s0 s) : Keeps kb s0 (gpioShow a0 s) := by
  unfold gpioShow
  repeat' (first | with_reducible assumption | (extract_lets +onlyGivenNames x; refine @cut kb s0 x _ ?_ (fun hx => ?_); unfold x; clear x; rotate_left; clear_value x; rotate_right) | (extract_lets +onlyGivenNames x; clear_value x) | with_reducible apply gpioEdge_keeps | with_reducible apply ite_keeps | split)
theorem gpioApply_keeps {a1} (h : Keeps kb s0 s) : Keeps kb s0 (gpioApply s a1) := by
  unfold gpioApply
  repeat' (first | with_reducible assumption | (extract_lets +onlyGivenNames x; refine @cut kb s0 x _ ?_ (fun hx => ?_); unfold x; clear x; rotate_left; clear_value x; rotate_right) | (extract_lets +onlyGivenNames x; clear_value x) | with_reducible apply State.applyHeld_keeps | with_reducible apply gpioShow_keeps | with_reducible refine State.onTim_keeps (fun _ _ => rfl) ?_ | with_reducible apply ite_keeps | split)
theorem pulseEdges_keeps {a0} (h : Keeps kb s0 s) : Keeps kb s0 (pulseEdges a0 s) := by
  unfold pulseEdges
  repeat' (first | with_reducible assumption | (extract_lets +onlyGivenNames x; refine @cut kb s0 x _ ?_ (fun hx => ?_); unfold x; clear x; rotate_left; clear_value x; rotate_right) | (extract_lets +onlyGivenNames x; clear_value x) | with_reducible refine State.each_keeps ?_ (fun _ _ _ => ?_) | with_reducible apply gpioShow_keeps | with_reducible refine State.onTim_keeps (fun _ _ => rfl) ?_ | with_reducible apply ite_keeps | split)
theorem collIgn_keeps  (h : Keeps kb s0 s) : Keeps kb s0 (collIgn s) := by
  unfold collIgn
  repeat' (first | with_reducible assumption | (extract_lets +onlyGivenNames x; refine @cut kb s0 x _ ?_ (fun hx => ?_); unfold x; clear x; rotate_left; clear_value x; rotate_right) | (extract_lets +onlyGivenNames x; clear_value x) | with_reducible apply State.cntr_keeps | with_reducible apply State.raise_keeps | with_reducible apply ite_keeps | split)
theorem pinPulse_keeps {a0 a1 a2 a3} (h : Keeps kb s0 s) : Keeps kb s0 (pinPulse a0 a1 a2 a3 s) := by
  unfold pinPulse
  repeat' (first | with_reducible assumption | (extract_lets +onlyGivenNames x; refine @cut kb s0 x _ ?_ (fun hx => ?_); unfold x; clear x; rotate_left; clear_value x; rotate_right) | (extract_lets +onlyGivenNames x; clear_value x) | with_reducible apply gpioShow_keeps | with_reducible refine State.onTim_keeps (fun _ _ => rfl) ?_ | with_reducible apply collIgn_keeps | with_reducible apply ite_keeps | split)
theorem icFree_keeps {a0} (h : Keeps kb s0 s) : Keeps kb s0 (icFree a0 s) := by
  unfold icFree
  repeat' (first | with_reducible assumption | (extract_lets +onlyGivenNames x; refine @cut kb s0 x _ ?_ (fun hx => ?_); unfold x; clear x; rotate_left; clear_value x; rotate_right) | (extract_lets +onlyGivenNames x; clear_value x) | with_reducible apply icSet_keeps | with_reducible apply ite_keeps | split)
theorem icChecked_keeps {a0 a1} (h : Keeps kb s0 s) : Keeps kb s0 (icChecked a0 a1 s) := by
  unfold icChecked
  repeat' (first | with_reducible assumption | (extract_lets +onlyGivenNames x; refine @cut kb s0 x _ ?_ (fun hx => ?_); unfold x; clear x; rotate_left; clear_value x; rotate_right) | (extract_lets +onlyGivenNames x; clear_value x) | with_reducible apply State.onLs_keeps | with_reducible refine State.each_keeps ?_ (fun _ _ _ => ?_) | with_reducible apply complete_keeps | with_reducible apply ite_keeps | split)
theorem xferSet_keeps {a0 a1} (h : Keeps kb s0 s) : Keeps kb s0 (xferSet a0 a1 s) := by
  unfold xferSet
  repeat' (first | with_reducible assumption | (extract_lets +onlyGivenNames x; refine @cut kb s0 x _ ?_ (fun hx => ?_); unfold x; clear x; rotate_left; clear_value x; rotate_right) | (extract_lets +onlyGivenNames x; clear_value x) | with_reducible apply State.onLs_keeps | with_reducible apply ite_keeps | split)
theorem icIsolate_keeps {a0} (h : Keeps kb s0 s) : Keeps kb s0 (icIsolate a0 s) := by
  unfold icIsolate
  repeat' (first | with_reducible assumption | (extract_lets +onlyGivenNames x; refine @cut kb s0 x _ ?_ (fun hx => ?_); unfold x; clear x; rotate_left; clear_value x; rotate_right) | (extract_lets +onlyGivenNames x; clear_value x) | with_reducible apply State.onNet_keeps | with_reducible apply icChecked_keeps | with_reducible apply xferSet_keeps | with_reducible apply State.raise_keeps | with_reducible apply icSet_keeps | with_reducible refine State.each_keeps ?_ (fun _ _ _ => ?_) | with_reducible apply complete_keeps | with_reducible apply ite_keeps | split)
theorem busCheck_keeps {a0 a1 a2 a3} (h : Keeps kb s0 s) : Keeps kb s0 (busCheck a0 a1 a2 a3 s) := by
  unfold busCheck
  repeat' (first | with_reducible assumption | (extract_lets +onlyGivenNames x; refine @cut kb s0 x _ ?_ (fun hx => ?_); unfold x; clear x; rotate_left; clear_value x; rotate_right) | (extract_lets +onlyGivenNames x; clear_value x) | with_reducible apply State.wr_keeps | with_reducible apply icFree_keeps | with_reducible apply icChecked_keeps | with_reducible apply State.cntr_keeps | with_reducible apply icIsolate_keeps | with_reducible apply State.wb_keeps | with_reducible apply ite_keeps | split)
theorem execGpioEdge_next {a0 a1} (h : Keeps kb s0 s) : ∃ t, execGpioEdge a0 a1 s = .next t ∧ Keeps kb s0 t := by
  refine ⟨_, rfl, ?_⟩
  repeat' (first | with_reducible assumption | (extract_lets +onlyGivenNames x; refine @cut kb s0 x _ ?_ (fun hx => ?_); unfold x; clear x; rotate_left; clear_value x; rotate_right) | (extract_lets +onlyGivenNames x; clear_value x) | with_reducible refine awake_keeps ?_ ?_ | with_reducible apply gpioEdge_keeps | with_reducible apply ite_keeps | split)
theorem execRailExc_next {a0} (h : Keeps kb s0 s) : ∃ t, execRailExc a0 s = .next t ∧ Keeps kb s0 t := by
  refine ⟨_, rfl, ?_⟩
  repeat' (first | with_reducible assumption | (extract_lets +onlyGivenNames x; refine @cut kb s0 x _ ?_ (fun hx => ?_); unfold x; clear x; rotate_left; clear_value x; rotate_right) | (extract_lets +onlyGivenNames x; clear_value x) | with_reducible apply State.wr_keeps | with_reducible apply State.raise_keeps | with_reducible apply ite_keeps | split)
theorem execBankChg_next {a0 a1} (h : Keeps kb s0 s) : ∃ t, execBankChg a0 a1 s = .next t ∧ Keeps kb s0 t := by
  refine ⟨_, rfl, ?_⟩
  repeat' (first | with_reducible assumption | (extract_lets +onlyGivenNames x; refine @cut kb s0 x _ ?_ (fun hx => ?_); unfold x; clear x; rotate_left; clear_value x; rotate_right) | (extract_lets +onlyGivenNames x; clear_value x) | with_reducible apply State.raise_keeps | with_reducible apply State.ww_keeps | with_reducible apply ite_keeps | split)
theorem icBegin_keeps  (h : Keeps kb s0 s) : Keeps kb s0 (icBegin s) := by
  unfold icBegin
  repeat' (first | with_reducible assumption | (extract_lets +onlyGivenNames x; refine @cut kb s0 x _ ?_ (fun hx => ?_); unfold x; clear x; rotate_left; clear_value x; rotate_right) | (extract_lets +onlyGivenNames x; clear_value x) | with_reducible refine State.each_keeps ?_ (fun _ _ _ => ?_) | with_reducible apply icCheck_keeps | with_reducible apply ite_keeps | split)
theorem uartSticky_keeps {a0 a1} (h : Keeps kb s0 s) : Keeps kb s0 (uartSticky a0 a1 s) := by
  unfold uartSticky
  repeat' (first | with_reducible assumption | (extract_lets +onlyGivenNames x; refine @cut kb s0 x _ ?_ (fun hx => ?_); unfold x; clear x; rotate_left; clear_value x; rotate_right) | (extract_lets +onlyGivenNames x; clear_value x) | with_reducible apply State.raise_keeps | with_reducible apply State.wb_keeps | with_reducible apply ite_keeps | split)
theorem uartRxPut_keeps {a0 a1} (h : Keeps kb s0 s) : Keeps kb s0 (uartRxPut a0 a1 s) := by
  unfold uartRxPut
  repeat' (first | with_reducible assumption | (extract_lets +onlyGivenNames x; refine @cut kb s0 x _ ?_ (fun hx => ?_); unfold x; clear x; rotate_left; clear_value x; rotate_right) | (extract_lets +onlyGivenNames x; clear_value x) | with_reducible apply State.onLs_keeps | with_reducible apply State.wr_keeps | with_reducible apply ite_keeps | split)
theorem uartRecv_keeps {a0 a1 a2 a3 a4} (h : Keeps kb s0 s) : Keeps kb s0 (uartRecv a0 a1 a2 a3 a4 s) := by
  unfold uartRecv
  repeat' (first | with_reducible assumption | (extract_lets +onlyGivenNames x; refine @cut kb s0 x _ ?_ (fun hx => ?_); unfold x; clear x; rotate_left; clear_value x; rotate_right) | (extract_lets +onlyGivenNames x; clear_value x) | with_reducible apply uartSticky_keeps | with_reducible apply State.cntr_keeps | with_reducible apply uartRxPut_keeps | with_reducible apply State.raise_keeps | with_reducible apply ite_keeps | split)
theorem uartTake_keeps {a0 a1} (h : Keeps kb s0 s) : Keeps kb s0 (uartTake a0 a1 s) := by
  unfold uartTake
  repeat' (first | with_reducible assumption | (extract_lets +onlyGivenNames x; refine @cut kb s0 x _ ?_ (fun hx => ?_); unfold x; clear x; rotate_left; clear_value x; rotate_right) | (extract_lets +onlyGivenNames x; clear_value x) | with_reducible apply uartRecv_keeps | with_reducible apply ite_keeps | split)
theorem uartSample_keeps {a0 a2} (h : Keeps kb s0 s) : Keeps kb s0 (uartSample a0 s a2) := by
  unfold uartSample
  repeat' (first | with_reducible assumption | (extract_lets +onlyGivenNames x; refine @cut kb s0 x _ ?_ (fun hx => ?_); unfold x; clear x; rotate_left; clear_value x; rotate_right) | (extract_lets +onlyGivenNames x; clear_value x) | with_reducible apply State.onLs_keeps | with_reducible apply uartPart_keeps | with_reducible apply uartTake_keeps | with_reducible apply ite_keeps | split)
theorem execUartFrameRx_next {a0 a1} (h : Keeps kb s0 s) : ∃ t, execUartFrameRx a0 a1 s = .next t ∧ Keeps kb s0 t := by
  refine ⟨_, rfl, ?_⟩
  repeat' (first | with_reducible assumption | (extract_lets +onlyGivenNames x; refine @cut kb s0 x _ ?_ (fun hx => ?_); unfold x; clear x; rotate_left; clear_value x; rotate_right) | (extract_lets +onlyGivenNames x; clear_value x) | with_reducible refine awake_keeps ?_ ?_ | with_reducible refine State.each_keeps ?_ (fun _ _ _ => ?_) | with_reducible apply uartSample_keeps | with_reducible apply ite_keeps | split)
theorem xferDone_keeps {a0 a1 a2 a3 a4 a5} (h : Keeps kb s0 s) : Keeps kb s0 (xferDone a0 a1 a2 a3 a4 a5 s) := by
  unfold xferDone
  repeat' (first | with_reducible assumption | (extract_lets +onlyGivenNames x; refine @cut kb s0 x _ ?_ (fun hx => ?_); unfold x; clear x; rotate_left; clear_value x; rotate_right) | (extract_lets +onlyGivenNames x; clear_value x) | with_reducible apply State.wr_keeps | with_reducible apply State.cntr_keeps | with_reducible apply icFree_keeps | with_reducible apply xferSet_keeps | with_reducible apply icCheck_keeps | with_reducible apply complete_keeps | with_reducible apply ite_keeps | split)
theorem execI2cTransferDone_next {a0 a1 a2 a3 a4 a5} (h : Keeps kb s0 s) : ∃ t, execI2cTransferDone a0 a1 a2 a3 a4 a5 s = .next t ∧ Keeps kb s0 t := by
  refine ⟨_, rfl, ?_⟩
  repeat' (first | with_reducible assumption | (extract_lets +onlyGivenNames x; refine @cut kb s0 x _ ?_ (fun hx => ?_); unfold x; clear x; rotate_left; clear_value x; rotate_right) | (extract_lets +onlyGivenNames x; clear_value x) | with_reducible refine awake_keeps ?_ ?_ | with_reducible apply xferDone_keeps | with_reducible apply ite_keeps | split)
theorem execI2cBusCheck_next {a0 a1 a2} (h : Keeps kb s0 s) : ∃ t, execI2cBusCheck a0 a1 a2 s = .next t ∧ Keeps kb s0 t := by
  refine ⟨_, rfl, ?_⟩
  repeat' (first | with_reducible assumption | (extract_lets +onlyGivenNames x; refine @cut kb s0 x _ ?_ (fun hx => ?_); unfold x; clear x; rotate_left; clear_value x; rotate_right) | (extract_lets +onlyGivenNames x; clear_value x) | with_reducible refine awake_keeps ?_ ?_ | with_reducible apply busCheck_keeps | with_reducible apply ite_keeps | split)
theorem execPwrStatus_next {a0} (h : Keeps kb s0 s) : ∃ t, execPwrStatus a0 s = .next t ∧ Keeps kb s0 t := by
  refine ⟨_, rfl, ?_⟩
  repeat' (first | with_reducible assumption | (extract_lets +onlyGivenNames x; refine @cut kb s0 x _ ?_ (fun hx => ?_); unfold x; clear x; rotate_left; clear_value x; rotate_right) | (extract_lets +onlyGivenNames x; clear_value x) | with_reducible refine runCmd_keeps (hb := fun _ _ _ => ?_) ?_ | with_reducible apply ret_keeps | with_reducible apply ite_keeps | split)
theorem execIoConfig_next {a0 a1} (h : Keeps kb s0 s) : ∃ t, execIoConfig a0 a1 s = .next t ∧ Keeps kb s0 t := by
  refine ⟨_, rfl, ?_⟩
  repeat' (first | with_reducible assumption | (extract_lets +onlyGivenNames x; refine @cut kb s0 x _ ?_ (fun hx => ?_); unfold x; clear x; rotate_left; clear_value x; rotate_right) | (extract_lets +onlyGivenNames x; clear_value x) | with_reducible refine runCmd_keeps (hb := fun _ _ _ => ?_) ?_ | with_reducible apply done_keeps | with_reducible refine State.each_keeps ?_ (fun _ _ _ => ?_) | with_reducible apply State.writeWord_keeps | with_reducible exact no_keeps | with_reducible apply ite_keeps | split)
theorem execI2cConfig_next {a0 a1} (h : Keeps kb s0 s) : ∃ t, execI2cConfig a0 a1 s = .next t ∧ Keeps kb s0 t := by
  refine ⟨_, rfl, ?_⟩
  repeat' (first | with_reducible assumption | (extract_lets +onlyGivenNames x; refine @cut kb s0 x _ ?_ (fun hx => ?_); unfold x; clear x; rotate_left; clear_value x; rotate_right) | (extract_lets +onlyGivenNames x; clear_value x) | with_reducible refine runCmd_keeps (hb := fun _ _ _ => ?_) ?_ | with_reducible apply done_keeps | with_reducible refine State.each_keeps ?_ (fun _ _ _ => ?_) | with_reducible apply icCtl_keeps | with_reducible exact no_keeps | with_reducible apply ite_keeps | split)
theorem execI2cXfer_next {a0 a1 a2} (h : Keeps kb s0 s) : ∃ t, execI2cXfer a0 a1 a2 s = .next t ∧ Keeps kb s0 t := by
  refine ⟨_, rfl, ?_⟩
  repeat' (first | with_reducible assumption | (extract_lets +onlyGivenNames x; refine @cut kb s0 x _ ?_ (fun hx => ?_); unfold x; clear x; rotate_left; clear_value x; rotate_right) | (extract_lets +onlyGivenNames x; clear_value x) | with_reducible refine runCmd_keeps (hb := fun _ _ _ => ?_) ?_ | with_reducible apply icSet_keeps | with_reducible apply xferSet_keeps | with_reducible exact no_keeps | with_reducible apply resOk_keeps | with_reducible apply resLater_keeps | with_reducible apply ite_keeps | split)
theorem execI2cStatus_next {a0 a1 a2} (h : Keeps kb s0 s) : ∃ t, execI2cStatus a0 a1 a2 s = .next t ∧ Keeps kb s0 t := by
  refine ⟨_, rfl, ?_⟩
  repeat' (first | with_reducible assumption | (extract_lets +onlyGivenNames x; refine @cut kb s0 x _ ?_ (fun hx => ?_); unfold x; clear x; rotate_left; clear_value x; rotate_right) | (extract_lets +onlyGivenNames x; clear_value x) | with_reducible refine runCmd_keeps (hb := fun _ _ _ => ?_) ?_ | with_reducible apply State.onCmd_keeps | with_reducible apply retL_keeps | with_reducible exact no_keeps | with_reducible apply ite_keeps | split)
theorem execI2cBusClear_next {a0 a1} (h : Keeps kb s0 s) : ∃ t, execI2cBusClear a0 a1 s = .next t ∧ Keeps kb s0 t := by
  refine ⟨_, rfl, ?_⟩
  repeat' (first | with_reducible assumption | (extract_lets +onlyGivenNames x; refine @cut kb s0 x _ ?_ (fun hx => ?_); unfold x; clear x; rotate_left; clear_value x; rotate_right) | (extract_lets +onlyGivenNames x; clear_value x) | with_reducible refine runCmd_keeps (hb := fun _ _ _ => ?_) ?_ | with_reducible apply icCheck_keeps | with_reducible apply State.onLs_keeps | with_reducible exact no_keeps | with_reducible apply resLater_keeps | with_reducible apply ite_keeps | split)
theorem execUartConfig_next {a0 a1} (h : Keeps kb s0 s) : ∃ t, execUartConfig a0 a1 s = .next t ∧ Keeps kb s0 t := by
  refine ⟨_, rfl, ?_⟩
  repeat' (first | with_reducible assumption | (extract_lets +onlyGivenNames x; refine @cut kb s0 x _ ?_ (fun hx => ?_); unfold x; clear x; rotate_left; clear_value x; rotate_right) | (extract_lets +onlyGivenNames x; clear_value x) | with_reducible refine runCmd_keeps (hb := fun _ _ _ => ?_) ?_ | with_reducible apply done_keeps | with_reducible refine State.each_keeps ?_ (fun _ _ _ => ?_) | with_reducible apply uartAfter_keeps | with_reducible apply State.writeWord_keeps | with_reducible exact no_keeps | with_reducible apply ite_keeps | split)
theorem uartTxPut_keeps {a0 a1} (h : Keeps kb s0 s) : Keeps kb s0 (uartTxPut a0 a1 s) := by
  unfold uartTxPut
  repeat' (first | with_reducible assumption | (extract_lets +onlyGivenNames x; refine @cut kb s0 x _ ?_ (fun hx => ?_); unfold x; clear x; rotate_left; clear_value x; rotate_right) | (extract_lets +onlyGivenNames x; clear_value x) | with_reducible apply State.onLs_keeps | with_reducible apply State.wr_keeps | with_reducible apply ite_keeps | split)
theorem uartFill_keeps' {a0 a1} (h : Keeps kb s0 s) : Keeps1 kb s0 (uartFill a0 a1 s) := by
  induction a1 generalizing s  with
  | nil => unfold uartFill; repeat' (first | with_reducible assumption | (extract_lets +onlyGivenNames x; refine @cut kb s0 x _ ?_ (fun hx => ?_); unfold x; clear x; rotate_left; clear_value x; rotate_right) | (extract_lets +onlyGivenNames x; clear_value x) | with_reducible apply uartTxPut_keeps | with_reducible apply complete_keeps | split | with_reducible apply mk1_keeps)
  | cons x l ih =>
    unfold uartFill
    repeat' (first | with_reducible assumption | with_reducible apply ih | (extract_lets +onlyGivenNames x; refine @cut kb s0 x _ ?_ (fun hx => ?_); unfold x; clear x; rotate_left; clear_value x; rotate_right) | (extract_lets +onlyGivenNames x; clear_value x) | with_reducible apply uartTxPut_keeps | with_reducible apply complete_keeps | split | with_reducible apply mk1_keeps)
theorem uartFill_keeps2 {a0 a1} (h : Keeps kb s0 s) : Keeps kb s0 (uartFill a0 a1 s).1 := uartFill_keeps' h
theorem uartFill_keeps {a0 a1} {t v1} (h : Keeps kb s0 s) (e : uartFill a0 a1 s = (t, v1)) : Keeps kb s0 t := by
  have k : Keeps1 kb s0 (uartFill a0 a1 s) := uartFill_keeps' h; rw [e] at k; exact k
theorem uartPump_keeps {a0} (h : Keeps kb s0 s) : Keeps kb s0 (uartPump a0 s) := by
  unfold uartPump
  repeat' (first | with_reducible assumption | (extract_lets +onlyGivenNames x; refine @cut kb s0 x _ ?_ (fun hx => ?_); unfold x; clear x; rotate_left; clear_value x; rotate_right) | (extract_lets +onlyGivenNames x; refine @cut1 kb _ s0 x _ ?_ (fun hx => ?_); unfold x; clear x; rotate_left; clear_value x; rotate_right) | (extract_lets +onlyGivenNames x; refine @cut2 kb _ s0 x _ ?_ (fun hx => ?_); unfold x; clear x; rotate_left; clear_value x; rotate_right) | (extract_lets +onlyGivenNames x; clear_value x) | with_reducible refine uartFill_keeps ?_ (by assumption) | with_reducible apply uartFill_keeps2 | with_reducible apply State.onLs_keeps | with_reducible apply ite_keeps | with_reducible apply uartFill_keeps' | split | with_reducible apply mk1_keeps | with_reducible apply mk2_keeps)
theorem execUartWrite_next {a0 a1 a2} (h : Keeps kb s0 s) : ∃ t, execUartWrite a0 a1 a2 s = .next t ∧ Keeps kb s0 t := by
  refine ⟨_, rfl, ?_⟩
  repeat' (first | with_reducible assumption | (extract_lets +onlyGivenNames x; refine @cut kb s0 x _ ?_ (fun hx => ?_); unfold x; clear x; rotate_left; clear_value x; rotate_right) | (extract_lets +onlyGivenNames x; clear_value x) | with_reducible refine runCmd_keeps (hb := fun _ _ _ => ?_) ?_ | with_reducible apply uartPump_keeps | with_reducible apply State.onLs_keeps | with_reducible exact no_keeps | with_reducible apply resLater_keeps | with_reducible apply ite_keeps | split)
theorem execUartRead_next {a0 a1 a2} (h : Keeps kb s0 s) : ∃ t, execUartRead a0 a1 a2 s = .next t ∧ Keeps kb s0 t := by
  refine ⟨_, rfl, ?_⟩
  repeat' (first | with_reducible assumption | (extract_lets +onlyGivenNames x; refine @cut kb s0 x _ ?_ (fun hx => ?_); unfold x; clear x; rotate_left; clear_value x; rotate_right) | (extract_lets +onlyGivenNames x; clear_value x) | with_reducible refine runCmd_keeps (hb := fun _ _ _ => ?_) ?_ | with_reducible apply ret_keeps | with_reducible apply uartRxPut_keeps | with_reducible exact no_keeps | with_reducible apply ite_keeps | split)
theorem execGpioConfig_next {a0 a1} (h : Keeps kb s0 s) : ∃ t, execGpioConfig a0 a1 s = .next t ∧ Keeps kb s0 t := by
  refine ⟨_, rfl, ?_⟩
  repeat' (first | with_reducible assumption | (extract_lets +onlyGivenNames x; refine @cut kb s0 x _ ?_ (fun hx => ?_); unfold x; clear x; rotate_left; clear_value x; rotate_right) | (extract_lets +onlyGivenNames x; clear_value x) | with_reducible refine runCmd_keeps (hb := fun _ _ _ => ?_) ?_ | with_reducible apply done_keeps | with_reducible refine State.each_keeps ?_ (fun _ _ _ => ?_) | with_reducible apply State.writeWord_keeps | with_reducible exact no_keeps | with_reducible apply ite_keeps | split)
theorem execGpioRead_next {a0 a1} (h : Keeps kb s0 s) : ∃ t, execGpioRead a0 a1 s = .next t ∧ Keeps kb s0 t := by
  refine ⟨_, rfl, ?_⟩
  repeat' (first | with_reducible assumption | (extract_lets +onlyGivenNames x; refine @cut kb s0 x _ ?_ (fun hx => ?_); unfold x; clear x; rotate_left; clear_value x; rotate_right) | (extract_lets +onlyGivenNames x; clear_value x) | with_reducible refine runCmd_keeps (hb := fun _ _ _ => ?_) ?_ | with_reducible apply ret_keeps | with_reducible refine State.each_keeps ?_ (fun _ _ _ => ?_) | with_reducible apply State.wb_keeps | with_reducible apply ite_keeps | split)
theorem execCtrlpinConfig_next {a0 a1} (h : Keeps kb s0 s) : ∃ t, execCtrlpinConfig a0 a1 s = .next t ∧ Keeps kb s0 t := by
  refine ⟨_, rfl, ?_⟩
  repeat' (first | with_reducible assumption | (extract_lets +onlyGivenNames x; refine @cut kb s0 x _ ?_ (fun hx => ?_); unfold x; clear x; rotate_left; clear_value x; rotate_right) | (extract_lets +onlyGivenNames x; clear_value x) | with_reducible refine runCmd_keeps (hb := fun _ _ _ => ?_) ?_ | with_reducible apply done_keeps | with_reducible apply cfgWrite_keeps | with_reducible exact no_keeps | with_reducible apply ite_keeps | split)
theorem execBusClear_next {a0 a1 a2} (h : Keeps kb s0 s) : ∃ t, execBusClear a0 a1 a2 s = .next t ∧ Keeps kb s0 t := by
  refine ⟨_, rfl, ?_⟩
  repeat' (first | with_reducible assumption | (extract_lets +onlyGivenNames x; refine @cut kb s0 x _ ?_ (fun hx => ?_); unfold x; clear x; rotate_left; clear_value x; rotate_right) | (extract_lets +onlyGivenNames x; clear_value x) | with_reducible refine awake_keeps ?_ ?_ | with_reducible apply icCtl_keeps | with_reducible apply ite_keeps | split)
theorem execI2cEnable_next {a0 a1 a2} (h : Keeps kb s0 s) : ∃ t, execI2cEnable a0 a1 a2 s = .next t ∧ Keeps kb s0 t := by
  refine ⟨_, rfl, ?_⟩
  repeat' (first | with_reducible assumption | (extract_lets +onlyGivenNames x; refine @cut kb s0 x _ ?_ (fun hx => ?_); unfold x; clear x; rotate_left; clear_value x; rotate_right) | (extract_lets +onlyGivenNames x; clear_value x) | with_reducible refine awake_keeps ?_ ?_ | with_reducible apply icCtl_keeps | with_reducible apply ite_keeps | split)
theorem execUartFrameTx_next {a0} (h : Keeps kb s0 s) : ∃ t, execUartFrameTx a0 s = .next t ∧ Keeps kb s0 t := by
  refine ⟨_, rfl, ?_⟩
  repeat' (first | with_reducible assumption | (extract_lets +onlyGivenNames x; refine @cut kb s0 x _ ?_ (fun hx => ?_); unfold x; clear x; rotate_left; clear_value x; rotate_right) | (extract_lets +onlyGivenNames x; clear_value x) | with_reducible refine awake_keeps ?_ ?_ | with_reducible apply uartTxPut_keeps | with_reducible apply State.onLs_keeps | with_reducible apply uartPump_keeps | with_reducible apply ite_keeps | split)

end Sys2Proof.Machine
end

