-- ==== Sys2Proof/Laws/KeepsOwner.lean ====
section
/-!
SUPPORT. Every operation of Machine/Owner.lean keeps what `Keeps` says.
-/
namespace Sys2Proof.Machine
set_option linter.all false
variable {kb : Prop} {s0 s : State}

theorem overFix_keeps {a0 a1} (h : Keeps kb s0 s) : Keeps kb s0 (overFix a0 a1 s) := by
  unfold overFix
  repeat' (first | with_reducible assumption | (extract_lets +onlyGivenNames x; refine @cut kb s0 x _ ?_ (fun hx => ?_); unfold x; clear x; rotate_left; clear_value x; rotate_right) | (extract_lets +onlyGivenNames x; clear_value x) | with_reducible apply State.raise_keeps | with_reducible apply State.wr_keeps | with_reducible apply ite_keeps | split)
theorem useGive_keeps {a0 a1 a2} (h : Keeps kb s0 s) : Keeps kb s0 (useGive a0 a1 a2 s) := by
  unfold useGive
  repeat' (first | with_reducible assumption | (extract_lets +onlyGivenNames x; refine @cut kb s0 x _ ?_ (fun hx => ?_); unfold x; clear x; rotate_left; clear_value x; rotate_right) | (extract_lets +onlyGivenNames x; clear_value x) | with_reducible apply overFix_keeps | with_reducible apply State.wr_keeps | with_reducible apply ite_keeps | split)
theorem useTake_keeps {a0 a1 a2} (h : Keeps kb s0 s) : Keeps kb s0 (useTake a0 a1 a2 s) := by
  unfold useTake
  repeat' (first | with_reducible assumption | (extract_lets +onlyGivenNames x; refine @cut kb s0 x _ ?_ (fun hx => ?_); unfold x; clear x; rotate_left; clear_value x; rotate_right) | (extract_lets +onlyGivenNames x; clear_value x) | with_reducible apply overFix_keeps | with_reducible apply State.wr_keeps | with_reducible apply ite_keeps | split)

end Sys2Proof.Machine
end

