-- ==== Sys2Proof/Laws/KeepsTime.lean ====
section
/-!
SUPPORT. Every operation of Machine/Time.lean keeps what `Keeps` says.
-/
namespace Sys2Proof.Machine
set_option linter.all false
variable {kb : Prop} {s0 s : State}

theorem slotWrite_keeps {a0 a1} (h : Keeps kb s0 s) : Keeps kb s0 (slotWrite a0 a1 s) := by
  unfold slotWrite
  repeat' (first | with_reducible assumption | (extract_lets +onlyGivenNames x; refine @cut kb s0 x _ ?_ (fun hx => ?_); unfold x; clear x; rotate_left; clear_value x; rotate_right) | (extract_lets +onlyGivenNames x; clear_value x) | with_reducible apply State.wb_keeps | with_reducible apply State.wr_keeps | with_reducible apply State.ww_keeps | with_reducible apply ite_keeps | split)
theorem runLate_keeps {a0 a1} (h : Keeps kb s0 s) : Keeps kb s0 (runLate a0 a1 s) := by
  unfold runLate
  repeat' (first | with_reducible assumption | (extract_lets +onlyGivenNames x; refine @cut kb s0 x _ ?_ (fun hx => ?_); unfold x; clear x; rotate_left; clear_value x; rotate_right) | (extract_lets +onlyGivenNames x; clear_value x) | with_reducible refine State.onTim_keeps (fun _ _ => rfl) ?_ | with_reducible apply State.wr_keeps | with_reducible apply ite_keeps | split)
theorem armedFix_keeps  (h : Keeps kb s0 s) : Keeps kb s0 (armedFix s) := by
  unfold armedFix
  repeat' (first | with_reducible assumption | (extract_lets +onlyGivenNames x; refine @cut kb s0 x _ ?_ (fun hx => ?_); unfold x; clear x; rotate_left; clear_value x; rotate_right) | (extract_lets +onlyGivenNames x; clear_value x) | with_reducible apply State.wr_keeps | with_reducible apply ite_keeps | split)
theorem armSlot_keeps {a0 a1} (h : Keeps kb s0 s) : Keeps kb s0 (armSlot a0 a1 s) := by
  unfold armSlot
  repeat' (first | with_reducible assumption | (extract_lets +onlyGivenNames x; refine @cut kb s0 x _ ?_ (fun hx => ?_); unfold x; clear x; rotate_left; clear_value x; rotate_right) | (extract_lets +onlyGivenNames x; clear_value x) | with_reducible apply State.ww_keeps | with_reducible apply State.wr_keeps | with_reducible refine State.onTim_keeps (fun _ _ => rfl) ?_ | with_reducible apply runLate_keeps | with_reducible apply State.cnt_keeps | with_reducible apply armedFix_keeps | with_reducible apply ite_keeps | split)
theorem armNew_keeps {a0 a1} (h : Keeps kb s0 s) : ResKeeps kb s0 (armNew a0 a1 s) := by
  unfold armNew
  repeat' (first | with_reducible assumption | (extract_lets +onlyGivenNames x; refine @cut kb s0 x _ ?_ (fun hx => ?_); unfold x; clear x; rotate_left; clear_value x; rotate_right) | (extract_lets +onlyGivenNames x; clear_value x) | with_reducible apply slotWrite_keeps | with_reducible apply armSlot_keeps | with_reducible exact no_keeps | with_reducible apply resOk_keeps | with_reducible apply iteR_keeps | split)
theorem followEnter_keeps  (h : Keeps kb s0 s) : Keeps kb s0 (followEnter s) := by
  unfold followEnter
  repeat' (first | with_reducible assumption | (extract_lets +onlyGivenNames x; refine @cut kb s0 x _ ?_ (fun hx => ?_); unfold x; clear x; rotate_left; clear_value x; rotate_right) | (extract_lets +onlyGivenNames x; clear_value x) | with_reducible refine State.onTim_keeps (fun _ _ => rfl) ?_ | with_reducible apply ite_keeps | split)
theorem followLeave_keeps  (h : Keeps kb s0 s) : Keeps kb s0 (followLeave s) := by
  unfold followLeave
  repeat' (first | with_reducible assumption | (extract_lets +onlyGivenNames x; refine @cut kb s0 x _ ?_ (fun hx => ?_); unfold x; clear x; rotate_left; clear_value x; rotate_right) | (extract_lets +onlyGivenNames x; clear_value x) | with_reducible refine State.onTim_keeps (fun _ _ => rfl) ?_ | with_reducible apply ite_keeps | split)
theorem followWrite_keeps {a0 a1} (h : Keeps kb s0 s) : Keeps kb s0 (followWrite a0 a1 s) := by
  unfold followWrite
  repeat' (first | with_reducible assumption | (extract_lets +onlyGivenNames x; refine @cut kb s0 x _ ?_ (fun hx => ?_); unfold x; clear x; rotate_left; clear_value x; rotate_right) | (extract_lets +onlyGivenNames x; clear_value x) | with_reducible apply State.writeRW_keeps | with_reducible apply followEnter_keeps | with_reducible apply followLeave_keeps | with_reducible apply ite_keeps | split)
theorem regSetGo_keeps {a0 a1 a2} (h : Keeps kb s0 s) : Keeps kb s0 (regSetGo a0 a1 a2 s) := by
  unfold regSetGo
  repeat' (first | with_reducible assumption | (extract_lets +onlyGivenNames x; refine @cut kb s0 x _ ?_ (fun hx => ?_); unfold x; clear x; rotate_left; clear_value x; rotate_right) | (extract_lets +onlyGivenNames x; clear_value x) | with_reducible apply followWrite_keeps | with_reducible apply State.wb_keeps | with_reducible refine State.onTim_keeps (fun _ _ => rfl) ?_ | with_reducible apply ite_keeps | split)
theorem snapshot_keeps {a0} (h : Keeps kb s0 s) : Keeps kb s0 (snapshot a0 s) := by
  unfold snapshot
  repeat' (first | with_reducible assumption | (extract_lets +onlyGivenNames x; refine @cut kb s0 x _ ?_ (fun hx => ?_); unfold x; clear x; rotate_left; clear_value x; rotate_right) | (extract_lets +onlyGivenNames x; clear_value x) | with_reducible refine State.each_keeps ?_ (fun _ _ _ => ?_) | with_reducible apply State.ww_keeps | with_reducible apply State.wr64_keeps | with_reducible apply State.cntw_keeps | with_reducible apply ite_keeps | split)
theorem cancelSlot_keeps {a0} (h : Keeps kb s0 s) : Keeps kb s0 (cancelSlot a0 s) := by
  unfold cancelSlot
  repeat' (first | with_reducible assumption | (extract_lets +onlyGivenNames x; refine @cut kb s0 x _ ?_ (fun hx => ?_); unfold x; clear x; rotate_left; clear_value x; rotate_right) | (extract_lets +onlyGivenNames x; clear_value x) | with_reducible apply armedFix_keeps | with_reducible apply State.wr_keeps | with_reducible refine State.onTim_keeps (fun _ _ => rfl) ?_ | with_reducible apply ite_keeps | split)
theorem slotCancelNow_keeps {a0 a1 a2} (h : Keeps kb s0 s) : Keeps kb s0 (slotCancelNow a0 a1 a2 s) := by
  unfold slotCancelNow
  repeat' (first | with_reducible assumption | (extract_lets +onlyGivenNames x; refine @cut kb s0 x _ ?_ (fun hx => ?_); unfold x; clear x; rotate_left; clear_value x; rotate_right) | (extract_lets +onlyGivenNames x; clear_value x) | with_reducible apply State.writeRW_keeps | with_reducible apply State.wb_keeps | with_reducible apply cancelSlot_keeps | with_reducible apply ite_keeps | split)
theorem regSlotCancel_keeps {a0 a1 a2} (h : Keeps kb s0 s) : Keeps kb s0 (regSlotCancel a0 a1 a2 s) := by
  unfold regSlotCancel
  repeat' (first | with_reducible assumption | (extract_lets +onlyGivenNames x; refine @cut kb s0 x _ ?_ (fun hx => ?_); unfold x; clear x; rotate_left; clear_value x; rotate_right) | (extract_lets +onlyGivenNames x; clear_value x) | with_reducible apply mirrorLater_keeps | with_reducible apply slotCancelNow_keeps | with_reducible apply ite_keeps | split)
theorem regSlotArm_keeps {a0 a1 a2} (h : Keeps kb s0 s) : Keeps kb s0 (regSlotArm a0 a1 a2 s) := by
  unfold regSlotArm
  repeat' (first | with_reducible assumption | (extract_lets +onlyGivenNames x; refine @cut kb s0 x _ ?_ (fun hx => ?_); unfold x; clear x; rotate_left; clear_value x; rotate_right) | (extract_lets +onlyGivenNames x; clear_value x) | with_reducible apply State.wr_keeps | with_reducible apply State.wb_keeps | with_reducible apply armSlot_keeps | with_reducible apply ite_keeps | split)
theorem evtLevel_keeps  (h : Keeps kb s0 s) : Keeps kb s0 (evtLevel s) := by
  unfold evtLevel
  repeat' (first | with_reducible assumption | (extract_lets +onlyGivenNames x; refine @cut kb s0 x _ ?_ (fun hx => ?_); unfold x; clear x; rotate_left; clear_value x; rotate_right) | (extract_lets +onlyGivenNames x; clear_value x) | with_reducible apply State.raise_keeps | with_reducible apply ite_keeps | split)
theorem tb3Note_keeps {a0} (h : Keeps kb s0 s) : Keeps kb s0 (tb3Note a0 s) := by
  unfold tb3Note
  repeat' (first | with_reducible assumption | (extract_lets +onlyGivenNames x; refine @cut kb s0 x _ ?_ (fun hx => ?_); unfold x; clear x; rotate_left; clear_value x; rotate_right) | (extract_lets +onlyGivenNames x; clear_value x) | with_reducible refine State.onTim_keeps (fun _ _ => rfl) ?_ | with_reducible apply ite_keeps | split)
theorem ltcTick_keeps  (h : Keeps kb s0 s) : Keeps kb s0 (ltcTick s) := by
  unfold ltcTick
  repeat' (first | with_reducible assumption | (extract_lets +onlyGivenNames x; refine @cut kb s0 x _ ?_ (fun hx => ?_); unfold x; clear x; rotate_left; clear_value x; rotate_right) | (extract_lets +onlyGivenNames x; clear_value x) | with_reducible apply State.wb_keeps | with_reducible apply State.cnt_keeps | with_reducible refine State.onTim_keeps (fun _ _ => rfl) ?_ | with_reducible apply ite_keeps | split)
theorem tbSets_keeps  (h : Keeps kb s0 s) : Keeps kb s0 (tbSets s) := by
  unfold tbSets
  repeat' (first | with_reducible assumption | (extract_lets +onlyGivenNames x; refine @cut kb s0 x _ ?_ (fun hx => ?_); unfold x; clear x; rotate_left; clear_value x; rotate_right) | (extract_lets +onlyGivenNames x; clear_value x) | with_reducible refine State.each_keeps ?_ (fun _ _ _ => ?_) | with_reducible refine State.onTim_keeps (fun _ _ => rfl) ?_ | with_reducible apply State.wb_keeps | with_reducible apply ite_keeps | split)
theorem publishOfs_keeps  (h : Keeps kb s0 s) : Keeps kb s0 (publishOfs s) := by
  unfold publishOfs
  repeat' (first | with_reducible assumption | (extract_lets +onlyGivenNames x; refine @cut kb s0 x _ ?_ (fun hx => ?_); unfold x; clear x; rotate_left; clear_value x; rotate_right) | (extract_lets +onlyGivenNames x; clear_value x) | with_reducible refine State.each_keeps ?_ (fun _ _ _ => ?_) | with_reducible apply State.wr64_keeps | with_reducible apply ite_keeps | split)
theorem recompute1_keeps {a1} (h : Keeps kb s0 s) : Keeps kb s0 (recompute1 s a1) := by
  unfold recompute1
  repeat' (first | with_reducible assumption | (extract_lets +onlyGivenNames x; refine @cut kb s0 x _ ?_ (fun hx => ?_); unfold x; clear x; rotate_left; clear_value x; rotate_right) | (extract_lets +onlyGivenNames x; clear_value x) | with_reducible refine State.onTim_keeps (fun _ _ => rfl) ?_ | with_reducible apply State.wb_keeps | with_reducible apply runLate_keeps | with_reducible apply State.cnt_keeps | with_reducible apply State.wr_keeps | with_reducible apply ite_keeps | split)
theorem collRecompute_keeps  (h : Keeps kb s0 s) : Keeps kb s0 (collRecompute s) := by
  unfold collRecompute
  repeat' (first | with_reducible assumption | (extract_lets +onlyGivenNames x; refine @cut kb s0 x _ ?_ (fun hx => ?_); unfold x; clear x; rotate_left; clear_value x; rotate_right) | (extract_lets +onlyGivenNames x; clear_value x) | with_reducible apply armedFix_keeps | with_reducible refine State.each_keeps ?_ (fun _ _ _ => ?_) | with_reducible apply recompute1_keeps | with_reducible apply ite_keeps | split)
theorem markStale_keeps {a0} (h : Keeps kb s0 s) : Keeps kb s0 (markStale a0 s) := by
  unfold markStale
  repeat' (first | with_reducible assumption | (extract_lets +onlyGivenNames x; refine @cut kb s0 x _ ?_ (fun hx => ?_); unfold x; clear x; rotate_left; clear_value x; rotate_right) | (extract_lets +onlyGivenNames x; clear_value x) | with_reducible refine State.each_keeps ?_ (fun _ _ _ => ?_) | with_reducible apply State.wb_keeps | with_reducible apply ite_keeps | split)
theorem cancelArmed_keeps {a0} (h : Keeps kb s0 s) : Keeps kb s0 (cancelArmed a0 s) := by
  unfold cancelArmed
  repeat' (first | with_reducible assumption | (extract_lets +onlyGivenNames x; refine @cut kb s0 x _ ?_ (fun hx => ?_); unfold x; clear x; rotate_left; clear_value x; rotate_right) | (extract_lets +onlyGivenNames x; clear_value x) | with_reducible apply armedFix_keeps | with_reducible refine State.each_keeps ?_ (fun _ _ _ => ?_) | with_reducible apply State.wr_keeps | with_reducible apply ite_keeps | split)
theorem fire1_keeps {a0 a2} (hk : ∀ s x, Keeps kb s0 s → Keeps kb s0 (a0 s x)) (h : Keeps kb s0 s) : Keeps kb s0 (fire1 a0 s a2) := by
  unfold fire1
  repeat' (first | with_reducible assumption | (extract_lets +onlyGivenNames x; refine @cut kb s0 x _ ?_ (fun hx => ?_); unfold x; clear x; rotate_left; clear_value x; rotate_right) | (extract_lets +onlyGivenNames x; clear_value x) | with_reducible refine hk _ _ ?_ | with_reducible apply State.cnt_keeps | with_reducible apply State.wr_keeps | with_reducible apply State.wb_keeps | with_reducible refine State.onTim_keeps (fun _ _ => rfl) ?_ | with_reducible apply ite_keeps | split)
theorem fireSlots_keeps {a0} (hk : ∀ s x, Keeps kb s0 s → Keeps kb s0 (a0 s x)) (h : Keeps kb s0 s) : Keeps kb s0 (fireSlots a0 s) := by
  unfold fireSlots
  repeat' (first | with_reducible assumption | (extract_lets +onlyGivenNames x; refine @cut kb s0 x _ ?_ (fun hx => ?_); unfold x; clear x; rotate_left; clear_value x; rotate_right) | (extract_lets +onlyGivenNames x; clear_value x) | with_reducible refine hk _ _ ?_ | with_reducible apply armedFix_keeps | with_reducible refine State.each_keeps ?_ (fun _ _ _ => ?_) | with_reducible refine fire1_keeps (hk := fun _ _ _ => ?_) ?_ | with_reducible apply ite_keeps | split)
theorem collCancelBody_keeps {a0 a1} (h : Keeps kb s0 s) : ResKeeps kb s0 (collCancelBody a0 a1 s) := by
  unfold collCancelBody
  repeat' (first | with_reducible assumption | (extract_lets +onlyGivenNames x; refine @cut kb s0 x _ ?_ (fun hx => ?_); unfold x; clear x; rotate_left; clear_value x; rotate_right) | (extract_lets +onlyGivenNames x; clear_value x) | with_reducible apply done_keeps | with_reducible apply cancelSlot_keeps | with_reducible exact no_keeps | with_reducible apply iteR_keeps | split)
theorem evtSync_keeps  (h : Keeps kb s0 s) : Keeps kb s0 (evtSync s) := by
  unfold evtSync
  repeat' (first | with_reducible assumption | (extract_lets +onlyGivenNames x; refine @cut kb s0 x _ ?_ (fun hx => ?_); unfold x; clear x; rotate_left; clear_value x; rotate_right) | (extract_lets +onlyGivenNames x; clear_value x) | with_reducible apply State.wr_keeps | with_reducible apply State.ww_keeps | with_reducible apply ite_keeps | split)
theorem evtDrop_keeps {a0} (h : Keeps kb s0 s) : Keeps kb s0 (evtDrop a0 s) := by
  unfold evtDrop
  repeat' (first | with_reducible assumption | (extract_lets +onlyGivenNames x; refine @cut kb s0 x _ ?_ (fun hx => ?_); unfold x; clear x; rotate_left; clear_value x; rotate_right) | (extract_lets +onlyGivenNames x; clear_value x) | with_reducible apply evtSync_keeps | with_reducible refine State.onTim_keeps (fun _ _ => rfl) ?_ | with_reducible apply ite_keeps | split)
theorem evtEdge_keeps {a0 a1 a2} (h : Keeps kb s0 s) : Keeps kb s0 (evtEdge a0 a1 a2 s) := by
  unfold evtEdge
  repeat' (first | with_reducible assumption | (extract_lets +onlyGivenNames x; refine @cut kb s0 x _ ?_ (fun hx => ?_); unfold x; clear x; rotate_left; clear_value x; rotate_right) | (extract_lets +onlyGivenNames x; clear_value x) | with_reducible refine State.onTim_keeps (fun _ _ => rfl) ?_ | with_reducible apply State.raise_keeps | with_reducible apply State.wb_keeps | with_reducible apply evtLevel_keeps | with_reducible apply evtSync_keeps | with_reducible apply ite_keeps | split)
theorem evtPin_keeps {a0 a1 a2 a3} (h : Keeps kb s0 s) : Keeps kb s0 (evtPin a0 a1 a2 a3 s) := by
  unfold evtPin
  repeat' (first | with_reducible assumption | (extract_lets +onlyGivenNames x; refine @cut kb s0 x _ ?_ (fun hx => ?_); unfold x; clear x; rotate_left; clear_value x; rotate_right) | (extract_lets +onlyGivenNames x; clear_value x) | with_reducible apply evtEdge_keeps | with_reducible refine State.onTim_keeps (fun _ _ => rfl) ?_ | with_reducible apply ite_keeps | split)
theorem ltcJudge_keeps {a0 a1} (h : Keeps kb s0 s) : Keeps kb s0 (ltcJudge a0 a1 s) := by
  unfold ltcJudge
  repeat' (first | with_reducible assumption | (extract_lets +onlyGivenNames x; refine @cut kb s0 x _ ?_ (fun hx => ?_); unfold x; clear x; rotate_left; clear_value x; rotate_right) | (extract_lets +onlyGivenNames x; clear_value x) | with_reducible refine State.onTim_keeps (fun _ _ => rfl) ?_ | with_reducible apply ite_keeps | split)
theorem ltcFrame_keeps {a0 a1} (h : Keeps kb s0 s) : Keeps kb s0 (ltcFrame a0 a1 s) := by
  unfold ltcFrame
  repeat' (first | with_reducible assumption | (extract_lets +onlyGivenNames x; refine @cut kb s0 x _ ?_ (fun hx => ?_); unfold x; clear x; rotate_left; clear_value x; rotate_right) | (extract_lets +onlyGivenNames x; clear_value x) | with_reducible apply State.ww_keeps | with_reducible apply State.wr_keeps | with_reducible apply State.wb_keeps | with_reducible apply ltcJudge_keeps | with_reducible refine State.onTim_keeps (fun _ _ => rfl) ?_ | with_reducible apply ite_keeps | split)
theorem execLtcFrameRx_next {a0 a1} (h : Keeps kb s0 s) : ∃ t, execLtcFrameRx a0 a1 s = .next t ∧ Keeps kb s0 t := by
  refine ⟨_, rfl, ?_⟩
  repeat' (first | with_reducible assumption | (extract_lets +onlyGivenNames x; refine @cut kb s0 x _ ?_ (fun hx => ?_); unfold x; clear x; rotate_left; clear_value x; rotate_right) | (extract_lets +onlyGivenNames x; clear_value x) | with_reducible refine awake_keeps ?_ ?_ | with_reducible apply ltcFrame_keeps | with_reducible apply ite_keeps | split)
theorem execEvtInEdge_next {a0 a1 a2} (h : Keeps kb s0 s) : ∃ t, execEvtInEdge a0 a1 a2 s = .next t ∧ Keeps kb s0 t := by
  refine ⟨_, rfl, ?_⟩
  repeat' (first | with_reducible assumption | (extract_lets +onlyGivenNames x; refine @cut kb s0 x _ ?_ (fun hx => ?_); unfold x; clear x; rotate_left; clear_value x; rotate_right) | (extract_lets +onlyGivenNames x; clear_value x) | with_reducible refine awake_keeps ?_ ?_ | with_reducible apply evtPin_keeps | with_reducible apply ite_keeps | split)
theorem freeSlot_keeps {a0 a1} (h : Keeps kb s0 s) : Keeps kb s0 (freeSlot a0 a1 s) := by
  unfold freeSlot
  repeat' (first | with_reducible assumption | (extract_lets +onlyGivenNames x; refine @cut kb s0 x _ ?_ (fun hx => ?_); unfold x; clear x; rotate_left; clear_value x; rotate_right) | (extract_lets +onlyGivenNames x; clear_value x) | with_reducible apply State.ww_keeps | with_reducible apply ite_keeps | split)
theorem execTimeSnapshot_next {a0 a1} (h : Keeps kb s0 s) : ∃ t, execTimeSnapshot a0 a1 s = .next t ∧ Keeps kb s0 t := by
  refine ⟨_, rfl, ?_⟩
  repeat' (first | with_reducible assumption | (extract_lets +onlyGivenNames x; refine @cut kb s0 x _ ?_ (fun hx => ?_); unfold x; clear x; rotate_left; clear_value x; rotate_right) | (extract_lets +onlyGivenNames x; clear_value x) | with_reducible refine runCmd_keeps (hb := fun _ _ _ => ?_) ?_ | with_reducible apply snapshot_keeps | with_reducible apply ret_keeps | with_reducible apply ite_keeps | split)
theorem execTbSet_next {a0 a1 a2 a3} (h : Keeps kb s0 s) : ∃ t, execTbSet a0 a1 a2 a3 s = .next t ∧ Keeps kb s0 t := by
  refine ⟨_, rfl, ?_⟩
  repeat' (first | with_reducible assumption | (extract_lets +onlyGivenNames x; refine @cut kb s0 x _ ?_ (fun hx => ?_); unfold x; clear x; rotate_left; clear_value x; rotate_right) | (extract_lets +onlyGivenNames x; clear_value x) | with_reducible refine runCmd_keeps (hb := fun _ _ _ => ?_) ?_ | with_reducible apply done_keeps | with_reducible refine State.onTim_keeps (fun _ _ => rfl) ?_ | with_reducible exact no_keeps | with_reducible apply ite_keeps | split)
theorem execCollArm_next {a0 a1} (h : Keeps kb s0 s) : ∃ t, execCollArm a0 a1 s = .next t ∧ Keeps kb s0 t := by
  refine ⟨_, rfl, ?_⟩
  repeat' (first | with_reducible assumption | (extract_lets +onlyGivenNames x; refine @cut kb s0 x _ ?_ (fun hx => ?_); unfold x; clear x; rotate_left; clear_value x; rotate_right) | (extract_lets +onlyGivenNames x; clear_value x) | with_reducible refine runCmd_keeps (hb := fun _ _ _ => ?_) ?_ | with_reducible apply armNew_keeps | with_reducible exact no_keeps | with_reducible apply ite_keeps | split)
theorem execCollCancel_next {a0 a1} (h : Keeps kb s0 s) : ∃ t, execCollCancel a0 a1 s = .next t ∧ Keeps kb s0 t := by
  refine ⟨_, rfl, ?_⟩
  repeat' (first | with_reducible assumption | (extract_lets +onlyGivenNames x; refine @cut kb s0 x _ ?_ (fun hx => ?_); unfold x; clear x; rotate_left; clear_value x; rotate_right) | (extract_lets +onlyGivenNames x; clear_value x) | with_reducible refine runCmd_keeps (hb := fun _ _ _ => ?_) ?_ | with_reducible apply collCancelBody_keeps | with_reducible apply ite_keeps | split)
theorem execCollQuery_next {a0 a1} (h : Keeps kb s0 s) : ∃ t, execCollQuery a0 a1 s = .next t ∧ Keeps kb s0 t := by
  refine ⟨_, rfl, ?_⟩
  repeat' (first | with_reducible assumption | (extract_lets +onlyGivenNames x; refine @cut kb s0 x _ ?_ (fun hx => ?_); unfold x; clear x; rotate_left; clear_value x; rotate_right) | (extract_lets +onlyGivenNames x; clear_value x) | with_reducible refine runCmd_keeps (hb := fun _ _ _ => ?_) ?_ | with_reducible apply ret_keeps | with_reducible apply freeSlot_keeps | with_reducible exact no_keeps | with_reducible apply ite_keeps | split)
theorem execLtcConfig_next {a0 a1} (h : Keeps kb s0 s) : ∃ t, execLtcConfig a0 a1 s = .next t ∧ Keeps kb s0 t := by
  refine ⟨_, rfl, ?_⟩
  repeat' (first | with_reducible assumption | (extract_lets +onlyGivenNames x; refine @cut kb s0 x _ ?_ (fun hx => ?_); unfold x; clear x; rotate_left; clear_value x; rotate_right) | (extract_lets +onlyGivenNames x; clear_value x) | with_reducible refine runCmd_keeps (hb := fun _ _ _ => ?_) ?_ | with_reducible apply done_keeps | with_reducible apply cfgWrite_keeps | with_reducible exact no_keeps | with_reducible apply ite_keeps | split)
theorem execEvtConfig_next {a0 a1} (h : Keeps kb s0 s) : ∃ t, execEvtConfig a0 a1 s = .next t ∧ Keeps kb s0 t := by
  refine ⟨_, rfl, ?_⟩
  repeat' (first | with_reducible assumption | (extract_lets +onlyGivenNames x; refine @cut kb s0 x _ ?_ (fun hx => ?_); unfold x; clear x; rotate_left; clear_value x; rotate_right) | (extract_lets +onlyGivenNames x; clear_value x) | with_reducible refine runCmd_keeps (hb := fun _ _ _ => ?_) ?_ | with_reducible apply done_keeps | with_reducible refine State.iff_keeps ?_ (fun _ _ => ?_) | with_reducible apply cfgWrite_keeps | with_reducible apply evtLevel_keeps | with_reducible exact no_keeps | with_reducible apply ite_keeps | split)
theorem execEvtRead_next {a0 a1} (h : Keeps kb s0 s) : ∃ t, execEvtRead a0 a1 s = .next t ∧ Keeps kb s0 t := by
  refine ⟨_, rfl, ?_⟩
  repeat' (first | with_reducible assumption | (extract_lets +onlyGivenNames x; refine @cut kb s0 x _ ?_ (fun hx => ?_); unfold x; clear x; rotate_left; clear_value x; rotate_right) | (extract_lets +onlyGivenNames x; clear_value x) | with_reducible refine runCmd_keeps (hb := fun _ _ _ => ?_) ?_ | with_reducible apply evtDrop_keeps | with_reducible exact no_keeps | with_reducible apply resOk_keeps | with_reducible apply ite_keeps | split)
theorem execSnapshotReq_next {a0 a1} (h : Keeps kb s0 s) : ∃ t, execSnapshotReq a0 a1 s = .next t ∧ Keeps kb s0 t := by
  refine ⟨_, rfl, ?_⟩
  repeat' (first | with_reducible assumption | (extract_lets +onlyGivenNames x; refine @cut kb s0 x _ ?_ (fun hx => ?_); unfold x; clear x; rotate_left; clear_value x; rotate_right) | (extract_lets +onlyGivenNames x; clear_value x) | with_reducible refine awake_keeps ?_ ?_ | with_reducible apply snapshot_keeps | with_reducible apply ite_keeps | split)
theorem execSlotArm_next {a0 a1 a2} (h : Keeps kb s0 s) : ∃ t, execSlotArm a0 a1 a2 s = .next t ∧ Keeps kb s0 t := by
  refine ⟨_, rfl, ?_⟩
  repeat' (first | with_reducible assumption | (extract_lets +onlyGivenNames x; refine @cut kb s0 x _ ?_ (fun hx => ?_); unfold x; clear x; rotate_left; clear_value x; rotate_right) | (extract_lets +onlyGivenNames x; clear_value x) | with_reducible refine awake_keeps ?_ ?_ | with_reducible apply actNoted_keeps | with_reducible apply regSlotArm_keeps | with_reducible apply ite_keeps | split)
theorem execSlotCancel_next {a0 a1 a2} (h : Keeps kb s0 s) : ∃ t, execSlotCancel a0 a1 a2 s = .next t ∧ Keeps kb s0 t := by
  refine ⟨_, rfl, ?_⟩
  repeat' (first | with_reducible assumption | (extract_lets +onlyGivenNames x; refine @cut kb s0 x _ ?_ (fun hx => ?_); unfold x; clear x; rotate_left; clear_value x; rotate_right) | (extract_lets +onlyGivenNames x; clear_value x) | with_reducible refine awake_keeps ?_ ?_ | with_reducible apply actNoted_keeps | with_reducible apply regSlotCancel_keeps | with_reducible apply ite_keeps | split)
theorem execSlotStatRead_next {a0 a1} (h : Keeps kb s0 s) : ∃ t, execSlotStatRead a0 a1 s = .next t ∧ Keeps kb s0 t := by
  refine ⟨_, rfl, ?_⟩
  repeat' (first | with_reducible assumption | (extract_lets +onlyGivenNames x; refine @cut kb s0 x _ ?_ (fun hx => ?_); unfold x; clear x; rotate_left; clear_value x; rotate_right) | (extract_lets +onlyGivenNames x; clear_value x) | with_reducible refine awake_keeps ?_ ?_ | with_reducible apply freeSlot_keeps | with_reducible apply ite_keeps | split)
theorem execEntry3Read_next {a0} (h : Keeps kb s0 s) : ∃ t, execEntry3Read a0 s = .next t ∧ Keeps kb s0 t := by
  refine ⟨_, rfl, ?_⟩
  repeat' (first | with_reducible assumption | (extract_lets +onlyGivenNames x; refine @cut kb s0 x _ ?_ (fun hx => ?_); unfold x; clear x; rotate_left; clear_value x; rotate_right) | (extract_lets +onlyGivenNames x; clear_value x) | with_reducible refine awake_keeps ?_ ?_ | with_reducible apply evtDrop_keeps | with_reducible apply ite_keeps | split)
theorem execSetGo_next {a0 a1 a2} (h : Keeps kb s0 s) : ∃ t, execSetGo a0 a1 a2 s = .next t ∧ Keeps kb s0 t := by
  refine ⟨_, rfl, ?_⟩
  repeat' (first | with_reducible assumption | (extract_lets +onlyGivenNames x; refine @cut kb s0 x _ ?_ (fun hx => ?_); unfold x; clear x; rotate_left; clear_value x; rotate_right) | (extract_lets +onlyGivenNames x; clear_value x) | with_reducible refine awake_keeps ?_ ?_ | with_reducible apply regSetGo_keeps | with_reducible apply ite_keeps | split)
theorem ltcOutFrame_keeps  (h : Keeps kb s0 s) : Keeps kb s0 (ltcOutFrame s) := by
  unfold ltcOutFrame
  repeat' (first | with_reducible assumption | (extract_lets +onlyGivenNames x; refine @cut kb s0 x _ ?_ (fun hx => ?_); unfold x; clear x; rotate_left; clear_value x; rotate_right) | (extract_lets +onlyGivenNames x; clear_value x) | with_reducible apply State.onRef_keeps | with_reducible refine State.onTim_keeps (fun _ _ => rfl) ?_ | with_reducible apply State.wb_keeps | with_reducible apply ite_keeps | split)
theorem execLtcOutFrame_next  (h : Keeps kb s0 s) : ∃ t, execLtcOutFrame s = .next t ∧ Keeps kb s0 t := by
  refine ⟨_, rfl, ?_⟩
  repeat' (first | with_reducible assumption | (extract_lets +onlyGivenNames x; refine @cut kb s0 x _ ?_ (fun hx => ?_); unfold x; clear x; rotate_left; clear_value x; rotate_right) | (extract_lets +onlyGivenNames x; clear_value x) | with_reducible refine awake_keeps ?_ ?_ | with_reducible apply ltcOutFrame_keeps | with_reducible apply ite_keeps | split)

end Sys2Proof.Machine
end

