-- ==== Sys2Proof/Laws/KeepsRefs.lean ====
section
/-!
SUPPORT. Every operation of Machine/Refs.lean keeps what `Keeps` says.
-/
namespace Sys2Proof.Machine
set_option linter.all false
variable {kb : Prop} {s0 s : State}

theorem alignFire_keeps {a0} (h : Keeps kb s0 s) : Keeps kb s0 (alignFire a0 s) := by
  unfold alignFire
  repeat' (first | with_reducible assumption | (extract_lets +onlyGivenNames x; refine @cut kb s0 x _ ?_ (fun hx => ?_); unfold x; clear x; rotate_left; clear_value x; rotate_right) | (extract_lets +onlyGivenNames x; clear_value x) | with_reducible refine State.onTim_keeps (fun _ _ => rfl) ?_ | with_reducible refine State.each_keeps ?_ (fun _ _ _ => ?_) | with_reducible apply State.onRef_keeps | with_reducible apply ite_keeps | split)
theorem alignPublish_keeps  (h : Keeps kb s0 s) : Keeps kb s0 (alignPublish s) := by
  unfold alignPublish
  repeat' (first | with_reducible assumption | (extract_lets +onlyGivenNames x; refine @cut kb s0 x _ ?_ (fun hx => ?_); unfold x; clear x; rotate_left; clear_value x; rotate_right) | (extract_lets +onlyGivenNames x; clear_value x) | with_reducible refine State.each_keeps ?_ (fun _ _ _ => ?_) | with_reducible apply State.wrS_keeps | with_reducible apply State.wr_keeps | with_reducible apply ite_keeps | split)
theorem aoShift_keeps {a0} (h : Keeps kb s0 s) : Keeps kb s0 (aoShift a0 s) := by
  unfold aoShift
  repeat' (first | with_reducible assumption | (extract_lets +onlyGivenNames x; refine @cut kb s0 x _ ?_ (fun hx => ?_); unfold x; clear x; rotate_left; clear_value x; rotate_right) | (extract_lets +onlyGivenNames x; clear_value x) | with_reducible apply State.onRef_keeps | with_reducible apply ite_keeps | split)
theorem regCpllSwap_keeps {a0 a1} (h : Keeps kb s0 s) : Keeps kb s0 (regCpllSwap a0 a1 s) := by
  unfold regCpllSwap
  repeat' (first | with_reducible assumption | (extract_lets +onlyGivenNames x; refine @cut kb s0 x _ ?_ (fun hx => ?_); unfold x; clear x; rotate_left; clear_value x; rotate_right) | (extract_lets +onlyGivenNames x; clear_value x) | with_reducible apply State.writeRW_keeps | with_reducible apply State.wr_keeps | with_reducible apply ite_keeps | split)
theorem sscStart_keeps {a0} (h : Keeps kb s0 s) : Keeps kb s0 (sscStart a0 s) := by
  unfold sscStart
  repeat' (first | with_reducible assumption | (extract_lets +onlyGivenNames x; refine @cut kb s0 x _ ?_ (fun hx => ?_); unfold x; clear x; rotate_left; clear_value x; rotate_right) | (extract_lets +onlyGivenNames x; clear_value x) | with_reducible apply State.wb_keeps | with_reducible apply State.wr_keeps | with_reducible apply ite_keeps | split)
theorem regSscModeWrite_keeps {a0 a1} (h : Keeps kb s0 s) : Keeps kb s0 (regSscModeWrite a0 a1 s) := by
  unfold regSscModeWrite
  repeat' (first | with_reducible assumption | (extract_lets +onlyGivenNames x; refine @cut kb s0 x _ ?_ (fun hx => ?_); unfold x; clear x; rotate_left; clear_value x; rotate_right) | (extract_lets +onlyGivenNames x; clear_value x) | with_reducible apply sscStart_keeps | with_reducible apply ite_keeps | split)
theorem pstepStart_keeps {a0} (h : Keeps kb s0 s) : Keeps kb s0 (pstepStart a0 s) := by
  unfold pstepStart
  repeat' (first | with_reducible assumption | (extract_lets +onlyGivenNames x; refine @cut kb s0 x _ ?_ (fun hx => ?_); unfold x; clear x; rotate_left; clear_value x; rotate_right) | (extract_lets +onlyGivenNames x; clear_value x) | with_reducible apply State.onRef_keeps | with_reducible apply State.wb_keeps | with_reducible apply ite_keeps | split)
theorem regMpllPstepWrite_keeps {a0 a1} (h : Keeps kb s0 s) : Keeps kb s0 (regMpllPstepWrite a0 a1 s) := by
  unfold regMpllPstepWrite
  repeat' (first | with_reducible assumption | (extract_lets +onlyGivenNames x; refine @cut kb s0 x _ ?_ (fun hx => ?_); unfold x; clear x; rotate_left; clear_value x; rotate_right) | (extract_lets +onlyGivenNames x; clear_value x) | with_reducible apply pstepStart_keeps | with_reducible apply ite_keeps | split)
theorem regAlignCmd_keeps {a0 a1} (h : Keeps kb s0 s) : Keeps kb s0 (regAlignCmd a0 a1 s) := by
  unfold regAlignCmd
  repeat' (first | with_reducible assumption | (extract_lets +onlyGivenNames x; refine @cut kb s0 x _ ?_ (fun hx => ?_); unfold x; clear x; rotate_left; clear_value x; rotate_right) | (extract_lets +onlyGivenNames x; clear_value x) | with_reducible apply State.onRef_keeps | with_reducible apply ite_keeps | split)
theorem cpllSet_keeps {a0 a1} (h : Keeps kb s0 s) : Keeps kb s0 (cpllSet a0 a1 s) := by
  unfold cpllSet
  repeat' (first | with_reducible assumption | (extract_lets +onlyGivenNames x; refine @cut kb s0 x _ ?_ (fun hx => ?_); unfold x; clear x; rotate_left; clear_value x; rotate_right) | (extract_lets +onlyGivenNames x; clear_value x) | with_reducible apply State.wb_keeps | with_reducible apply ite_keeps | split)
theorem refMeasure_keeps {a0} (h : Keeps kb s0 s) : Keeps kb s0 (refMeasure a0 s) := by
  unfold refMeasure
  repeat' (first | with_reducible assumption | (extract_lets +onlyGivenNames x; refine @cut kb s0 x _ ?_ (fun hx => ?_); unfold x; clear x; rotate_left; clear_value x; rotate_right) | (extract_lets +onlyGivenNames x; clear_value x) | with_reducible refine State.each_keeps ?_ (fun _ _ _ => ?_) | with_reducible refine State.onTim_keeps (fun _ _ => rfl) ?_ | with_reducible apply State.onRef_keeps | with_reducible apply ite_keeps | split)
theorem forcedAlign_keeps  (h : Keeps kb s0 s) : Keeps kb s0 (forcedAlign s) := by
  unfold forcedAlign
  repeat' (first | with_reducible assumption | (extract_lets +onlyGivenNames x; refine @cut kb s0 x _ ?_ (fun hx => ?_); unfold x; clear x; rotate_left; clear_value x; rotate_right) | (extract_lets +onlyGivenNames x; clear_value x) | with_reducible refine State.each_keeps ?_ (fun _ _ _ => ?_) | with_reducible apply State.err_keeps | with_reducible apply State.raise_keeps | with_reducible apply State.cnt_keeps | with_reducible apply alignFire_keeps | with_reducible apply ite_keeps | split)
theorem candTimers_keeps  (h : Keeps kb s0 s) : Keeps kb s0 (candTimers s) := by
  unfold candTimers
  repeat' (first | with_reducible assumption | (extract_lets +onlyGivenNames x; refine @cut kb s0 x _ ?_ (fun hx => ?_); unfold x; clear x; rotate_left; clear_value x; rotate_right) | (extract_lets +onlyGivenNames x; clear_value x) | with_reducible refine State.each_keeps ?_ (fun _ _ _ => ?_) | with_reducible apply State.onRef_keeps | with_reducible apply ite_keeps | split)
theorem candStatus_keeps  (h : Keeps kb s0 s) : Keeps kb s0 (candStatus s) := by
  unfold candStatus
  repeat' (first | with_reducible assumption | (extract_lets +onlyGivenNames x; refine @cut kb s0 x _ ?_ (fun hx => ?_); unfold x; clear x; rotate_left; clear_value x; rotate_right) | (extract_lets +onlyGivenNames x; clear_value x) | with_reducible refine State.each_keeps ?_ (fun _ _ _ => ?_) | with_reducible apply State.wr_keeps | with_reducible apply State.wb_keeps | with_reducible apply ite_keeps | split)
theorem slewStop_keeps  (h : Keeps kb s0 s) : Keeps kb s0 (slewStop s) := by
  unfold slewStop
  repeat' (first | with_reducible assumption | (extract_lets +onlyGivenNames x; refine @cut kb s0 x _ ?_ (fun hx => ?_); unfold x; clear x; rotate_left; clear_value x; rotate_right) | (extract_lets +onlyGivenNames x; clear_value x) | with_reducible apply State.onRef_keeps | with_reducible apply State.wb_keeps | with_reducible apply State.raise_keeps | with_reducible apply ite_keeps | split)
theorem holdoverEnter_keeps  (h : Keeps kb s0 s) : Keeps kb s0 (holdoverEnter s) := by
  unfold holdoverEnter
  repeat' (first | with_reducible assumption | (extract_lets +onlyGivenNames x; refine @cut kb s0 x _ ?_ (fun hx => ?_); unfold x; clear x; rotate_left; clear_value x; rotate_right) | (extract_lets +onlyGivenNames x; clear_value x) | with_reducible apply slewStop_keeps | with_reducible apply State.wb_keeps | with_reducible apply State.wrS_keeps | with_reducible apply State.wr_keeps | with_reducible apply State.onRef_keeps | with_reducible apply ite_keeps | split)
theorem refStep_keeps  (h : Keeps kb s0 s) : Keeps kb s0 (refStep s) := by
  unfold refStep
  repeat' (first | with_reducible assumption | (extract_lets +onlyGivenNames x; refine @cut kb s0 x _ ?_ (fun hx => ?_); unfold x; clear x; rotate_left; clear_value x; rotate_right) | (extract_lets +onlyGivenNames x; clear_value x) | with_reducible apply State.onRef_keeps | with_reducible apply State.wr_keeps | with_reducible apply State.wb_keeps | with_reducible apply State.raise_keeps | with_reducible apply State.cnt_keeps | with_reducible apply holdoverEnter_keeps | with_reducible apply ite_keeps | split)
theorem mediaMove_keeps {a0} (h : Keeps kb s0 s) : Keeps kb s0 (mediaMove a0 s) := by
  unfold mediaMove
  repeat' (first | with_reducible assumption | (extract_lets +onlyGivenNames x; refine @cut kb s0 x _ ?_ (fun hx => ?_); unfold x; clear x; rotate_left; clear_value x; rotate_right) | (extract_lets +onlyGivenNames x; clear_value x) | with_reducible apply State.onRef_keeps | with_reducible apply aoShift_keeps | with_reducible refine State.onTim_keeps (fun _ _ => rfl) ?_ | with_reducible apply ite_keeps | split)
theorem slewStep_keeps {a0} (h : Keeps kb s0 s) : Keeps kb s0 (slewStep a0 s) := by
  unfold slewStep
  repeat' (first | with_reducible assumption | (extract_lets +onlyGivenNames x; refine @cut kb s0 x _ ?_ (fun hx => ?_); unfold x; clear x; rotate_left; clear_value x; rotate_right) | (extract_lets +onlyGivenNames x; clear_value x) | with_reducible apply slewStop_keeps | with_reducible apply mediaMove_keeps | with_reducible apply State.onRef_keeps | with_reducible apply State.wb_keeps | with_reducible apply ite_keeps | split)
theorem windowTick_keeps  (h : Keeps kb s0 s) : Keeps kb s0 (windowTick s) := by
  unfold windowTick
  repeat' (first | with_reducible assumption | (extract_lets +onlyGivenNames x; refine @cut kb s0 x _ ?_ (fun hx => ?_); unfold x; clear x; rotate_left; clear_value x; rotate_right) | (extract_lets +onlyGivenNames x; clear_value x) | with_reducible apply State.onRef_keeps | with_reducible apply ite_keeps | split)
theorem refTick_keeps {a0} (h : Keeps kb s0 s) : Keeps kb s0 (refTick a0 s) := by
  unfold refTick
  repeat' (first | with_reducible assumption | (extract_lets +onlyGivenNames x; refine @cut kb s0 x _ ?_ (fun hx => ?_); unfold x; clear x; rotate_left; clear_value x; rotate_right) | (extract_lets +onlyGivenNames x; clear_value x) | with_reducible apply refMeasure_keeps | with_reducible apply forcedAlign_keeps | with_reducible apply State.onRef_keeps | with_reducible apply alignFire_keeps | with_reducible apply candTimers_keeps | with_reducible apply candStatus_keeps | with_reducible apply refStep_keeps | with_reducible apply slewStep_keeps | with_reducible apply State.wr_keeps | with_reducible apply alignPublish_keeps | with_reducible apply windowTick_keeps | with_reducible apply ite_keeps | split)
theorem cpllLoss_keeps  (h : Keeps kb s0 s) : Keeps kb s0 (cpllLoss s) := by
  unfold cpllLoss
  repeat' (first | with_reducible assumption | (extract_lets +onlyGivenNames x; refine @cut kb s0 x _ ?_ (fun hx => ?_); unfold x; clear x; rotate_left; clear_value x; rotate_right) | (extract_lets +onlyGivenNames x; clear_value x) | with_reducible apply cpllSet_keeps | with_reducible apply State.cnt_keeps | with_reducible apply State.wr_keeps | with_reducible apply State.err_keeps | with_reducible apply State.raise_keeps | with_reducible apply ite_keeps | split)
theorem disqualify_keeps {a0 a1} (h : Keeps kb s0 s) : Keeps kb s0 (disqualify a0 a1 s) := by
  unfold disqualify
  repeat' (first | with_reducible assumption | (extract_lets +onlyGivenNames x; refine @cut kb s0 x _ ?_ (fun hx => ?_); unfold x; clear x; rotate_left; clear_value x; rotate_right) | (extract_lets +onlyGivenNames x; clear_value x) | with_reducible apply State.raise_keeps | with_reducible apply State.onRef_keeps | with_reducible apply ite_keeps | split)
theorem driftTest_keeps {a0 a1 a2 a3 a5} (h : Keeps kb s0 s) : Keeps kb s0 (driftTest a0 a1 a2 a3 s a5) := by
  unfold driftTest
  repeat' (first | with_reducible assumption | (extract_lets +onlyGivenNames x; refine @cut kb s0 x _ ?_ (fun hx => ?_); unfold x; clear x; rotate_left; clear_value x; rotate_right) | (extract_lets +onlyGivenNames x; clear_value x) | with_reducible apply disqualify_keeps | with_reducible apply State.onRef_keeps | with_reducible apply State.raise_keeps | with_reducible apply State.wr_keeps | with_reducible apply ite_keeps | split)
theorem windowMiss_keeps {a1} (h : Keeps kb s0 s) : Keeps kb s0 (windowMiss s a1) := by
  unfold windowMiss
  repeat' (first | with_reducible assumption | (extract_lets +onlyGivenNames x; refine @cut kb s0 x _ ?_ (fun hx => ?_); unfold x; clear x; rotate_left; clear_value x; rotate_right) | (extract_lets +onlyGivenNames x; clear_value x) | with_reducible apply State.onRef_keeps | with_reducible apply ite_keeps | split)
theorem requalify_keeps {a0 a1 a2 a4} (h : Keeps kb s0 s) : Keeps kb s0 (requalify a0 a1 a2 s a4) := by
  unfold requalify
  repeat' (first | with_reducible assumption | (extract_lets +onlyGivenNames x; refine @cut kb s0 x _ ?_ (fun hx => ?_); unfold x; clear x; rotate_left; clear_value x; rotate_right) | (extract_lets +onlyGivenNames x; clear_value x) | with_reducible apply State.onRef_keeps | with_reducible apply State.wr_keeps | with_reducible apply ite_keeps | split)
theorem xoNote_keeps {a0 a1} (h : Keeps kb s0 s) : Keeps kb s0 (xoNote a0 a1 s) := by
  unfold xoNote
  repeat' (first | with_reducible assumption | (extract_lets +onlyGivenNames x; refine @cut kb s0 x _ ?_ (fun hx => ?_); unfold x; clear x; rotate_left; clear_value x; rotate_right) | (extract_lets +onlyGivenNames x; clear_value x) | with_reducible apply State.onRef_keeps | with_reducible apply ite_keeps | split)
theorem driftWindow_keeps {a0} (h : Keeps kb s0 s) : Keeps kb s0 (driftWindow a0 s) := by
  unfold driftWindow
  repeat' (first | with_reducible assumption | (extract_lets +onlyGivenNames x; refine @cut kb s0 x _ ?_ (fun hx => ?_); unfold x; clear x; rotate_left; clear_value x; rotate_right) | (extract_lets +onlyGivenNames x; refine @cut1 kb _ s0 x _ ?_ (fun hx => ?_); unfold x; clear x; rotate_left; clear_value x; rotate_right) | (extract_lets +onlyGivenNames x; refine @cut2 kb _ s0 x _ ?_ (fun hx => ?_); unfold x; clear x; rotate_left; clear_value x; rotate_right) | (extract_lets +onlyGivenNames x; clear_value x) | with_reducible apply State.onRef_keeps | with_reducible refine State.each_keeps ?_ (fun _ _ _ => ?_) | with_reducible apply State.wrS_keeps | with_reducible refine State.freshI_keeps ?_ (by assumption) | with_reducible apply State.freshI_keeps2 | with_reducible apply State.wr_keeps | with_reducible apply State.wb_keeps | with_reducible apply windowMiss_keeps | with_reducible apply requalify_keeps | with_reducible apply xoNote_keeps | with_reducible apply driftTest_keeps | with_reducible apply ite_keeps | with_reducible apply State.freshI_keeps' | split | with_reducible apply mk1_keeps | with_reducible apply mk2_keeps)
theorem execDriftWindowEnd_next {a0} (h : Keeps kb s0 s) : ∃ t, execDriftWindowEnd a0 s = .next t ∧ Keeps kb s0 t := by
  refine ⟨_, rfl, ?_⟩
  repeat' (first | with_reducible assumption | (extract_lets +onlyGivenNames x; refine @cut kb s0 x _ ?_ (fun hx => ?_); unfold x; clear x; rotate_left; clear_value x; rotate_right) | (extract_lets +onlyGivenNames x; clear_value x) | with_reducible refine awake_keeps ?_ ?_ | with_reducible apply driftWindow_keeps | with_reducible apply ite_keeps | split)
theorem execCandidateLoss_next {a0} (h : Keeps kb s0 s) : ∃ t, execCandidateLoss a0 s = .next t ∧ Keeps kb s0 t := by
  refine ⟨_, rfl, ?_⟩
  repeat' (first | with_reducible assumption | (extract_lets +onlyGivenNames x; refine @cut kb s0 x _ ?_ (fun hx => ?_); unfold x; clear x; rotate_left; clear_value x; rotate_right) | (extract_lets +onlyGivenNames x; clear_value x) | with_reducible refine awake_keeps ?_ ?_ | with_reducible apply State.onRef_keeps | with_reducible apply ite_keeps | split)
theorem execCpllLockLoss_next  (h : Keeps kb s0 s) : ∃ t, execCpllLockLoss s = .next t ∧ Keeps kb s0 t := by
  refine ⟨_, rfl, ?_⟩
  repeat' (first | with_reducible assumption | (extract_lets +onlyGivenNames x; refine @cut kb s0 x _ ?_ (fun hx => ?_); unfold x; clear x; rotate_left; clear_value x; rotate_right) | (extract_lets +onlyGivenNames x; clear_value x) | with_reducible apply cpllLoss_keeps | with_reducible apply ite_keeps | split)
theorem execMpllLoss_next  (h : Keeps kb s0 s) : ∃ t, execMpllLoss s = .next t ∧ Keeps kb s0 t := by
  refine ⟨_, rfl, ?_⟩
  repeat' (first | with_reducible assumption | (extract_lets +onlyGivenNames x; refine @cut kb s0 x _ ?_ (fun hx => ?_); unfold x; clear x; rotate_left; clear_value x; rotate_right) | (extract_lets +onlyGivenNames x; clear_value x) | with_reducible apply State.err_keeps | with_reducible apply State.raise_keeps | with_reducible apply State.onLoc_keeps | with_reducible apply State.wb_keeps | with_reducible apply ite_keeps | split)
theorem execMpllRelock_next  (h : Keeps kb s0 s) : ∃ t, execMpllRelock s = .next t ∧ Keeps kb s0 t := by
  refine ⟨_, rfl, ?_⟩
  repeat' (first | with_reducible assumption | (extract_lets +onlyGivenNames x; refine @cut kb s0 x _ ?_ (fun hx => ?_); unfold x; clear x; rotate_left; clear_value x; rotate_right) | (extract_lets +onlyGivenNames x; clear_value x) | with_reducible apply State.onRef_keeps | with_reducible apply State.wb_keeps | with_reducible apply ite_keeps | split)
theorem execSscChangeDone_next  (h : Keeps kb s0 s) : ∃ t, execSscChangeDone s = .next t ∧ Keeps kb s0 t := by
  refine ⟨_, rfl, ?_⟩
  repeat' (first | with_reducible assumption | (extract_lets +onlyGivenNames x; refine @cut kb s0 x _ ?_ (fun hx => ?_); unfold x; clear x; rotate_left; clear_value x; rotate_right) | (extract_lets +onlyGivenNames x; clear_value x) | with_reducible refine awake_keeps ?_ ?_ | with_reducible apply State.wr_keeps | with_reducible apply State.raise_keeps | with_reducible apply State.onRef_keeps | with_reducible apply State.wb_keeps | with_reducible apply ite_keeps | split)
theorem pstepDone_keeps  (h : Keeps kb s0 s) : Keeps kb s0 (pstepDone s) := by
  unfold pstepDone
  repeat' (first | with_reducible assumption | (extract_lets +onlyGivenNames x; refine @cut kb s0 x _ ?_ (fun hx => ?_); unfold x; clear x; rotate_left; clear_value x; rotate_right) | (extract_lets +onlyGivenNames x; clear_value x) | with_reducible apply aoShift_keeps | with_reducible apply State.wrS_keeps | with_reducible apply alignPublish_keeps | with_reducible apply State.onRef_keeps | with_reducible apply State.wb_keeps | with_reducible apply ite_keeps | split)
theorem execPhaseStepDone_next  (h : Keeps kb s0 s) : ∃ t, execPhaseStepDone s = .next t ∧ Keeps kb s0 t := by
  refine ⟨_, rfl, ?_⟩
  repeat' (first | with_reducible assumption | (extract_lets +onlyGivenNames x; refine @cut kb s0 x _ ?_ (fun hx => ?_); unfold x; clear x; rotate_left; clear_value x; rotate_right) | (extract_lets +onlyGivenNames x; clear_value x) | with_reducible refine awake_keeps ?_ ?_ | with_reducible apply pstepDone_keeps | with_reducible apply ite_keeps | split)
theorem execRefConfig_next {a0 a1} (h : Keeps kb s0 s) : ∃ t, execRefConfig a0 a1 s = .next t ∧ Keeps kb s0 t := by
  refine ⟨_, rfl, ?_⟩
  repeat' (first | with_reducible assumption | (extract_lets +onlyGivenNames x; refine @cut kb s0 x _ ?_ (fun hx => ?_); unfold x; clear x; rotate_left; clear_value x; rotate_right) | (extract_lets +onlyGivenNames x; clear_value x) | with_reducible refine runCmd_keeps (hb := fun _ _ _ => ?_) ?_ | with_reducible apply done_keeps | with_reducible apply cfgWrite_keeps | with_reducible exact no_keeps | with_reducible apply ite_keeps | split)
theorem execRefStatus_next {a0} (h : Keeps kb s0 s) : ∃ t, execRefStatus a0 s = .next t ∧ Keeps kb s0 t := by
  refine ⟨_, rfl, ?_⟩
  repeat' (first | with_reducible assumption | (extract_lets +onlyGivenNames x; refine @cut kb s0 x _ ?_ (fun hx => ?_); unfold x; clear x; rotate_left; clear_value x; rotate_right) | (extract_lets +onlyGivenNames x; clear_value x) | with_reducible refine runCmd_keeps (hb := fun _ _ _ => ?_) ?_ | with_reducible apply ret_keeps | with_reducible apply ite_keeps | split)
theorem execAlignNow_next {a0 a1} (h : Keeps kb s0 s) : ∃ t, execAlignNow a0 a1 s = .next t ∧ Keeps kb s0 t := by
  refine ⟨_, rfl, ?_⟩
  repeat' (first | with_reducible assumption | (extract_lets +onlyGivenNames x; refine @cut kb s0 x _ ?_ (fun hx => ?_); unfold x; clear x; rotate_left; clear_value x; rotate_right) | (extract_lets +onlyGivenNames x; clear_value x) | with_reducible refine runCmd_keeps (hb := fun _ _ _ => ?_) ?_ | with_reducible apply retIdx_keeps | with_reducible apply State.onRef_keeps | with_reducible exact no_keeps | with_reducible apply ite_keeps | split)
theorem execClkConfig_next {a0 a1} (h : Keeps kb s0 s) : ∃ t, execClkConfig a0 a1 s = .next t ∧ Keeps kb s0 t := by
  refine ⟨_, rfl, ?_⟩
  repeat' (first | with_reducible assumption | (extract_lets +onlyGivenNames x; refine @cut kb s0 x _ ?_ (fun hx => ?_); unfold x; clear x; rotate_left; clear_value x; rotate_right) | (extract_lets +onlyGivenNames x; clear_value x) | with_reducible refine runCmd_keeps (hb := fun _ _ _ => ?_) ?_ | with_reducible apply cfgWrite_keeps | with_reducible apply done_keeps | with_reducible refine State.each_keeps ?_ (fun _ _ _ => ?_) | with_reducible apply sscStart_keeps | with_reducible exact no_keeps | with_reducible apply ite_keeps | split)
theorem execMpllStep_next {a0 a1} (h : Keeps kb s0 s) : ∃ t, execMpllStep a0 a1 s = .next t ∧ Keeps kb s0 t := by
  refine ⟨_, rfl, ?_⟩
  repeat' (first | with_reducible assumption | (extract_lets +onlyGivenNames x; refine @cut kb s0 x _ ?_ (fun hx => ?_); unfold x; clear x; rotate_left; clear_value x; rotate_right) | (extract_lets +onlyGivenNames x; clear_value x) | with_reducible refine runCmd_keeps (hb := fun _ _ _ => ?_) ?_ | with_reducible apply done_keeps | with_reducible apply pstepStart_keeps | with_reducible exact no_keeps | with_reducible apply ite_keeps | split)
theorem execClkStatus_next {a0} (h : Keeps kb s0 s) : ∃ t, execClkStatus a0 s = .next t ∧ Keeps kb s0 t := by
  refine ⟨_, rfl, ?_⟩
  repeat' (first | with_reducible assumption | (extract_lets +onlyGivenNames x; refine @cut kb s0 x _ ?_ (fun hx => ?_); unfold x; clear x; rotate_left; clear_value x; rotate_right) | (extract_lets +onlyGivenNames x; clear_value x) | with_reducible refine runCmd_keeps (hb := fun _ _ _ => ?_) ?_ | with_reducible apply ret_keeps | with_reducible apply ite_keeps | split)
theorem execAlignCmd_next {a0 a1} (h : Keeps kb s0 s) : ∃ t, execAlignCmd a0 a1 s = .next t ∧ Keeps kb s0 t := by
  refine ⟨_, rfl, ?_⟩
  repeat' (first | with_reducible assumption | (extract_lets +onlyGivenNames x; refine @cut kb s0 x _ ?_ (fun hx => ?_); unfold x; clear x; rotate_left; clear_value x; rotate_right) | (extract_lets +onlyGivenNames x; clear_value x) | with_reducible refine awake_keeps ?_ ?_ | with_reducible apply regAlignCmd_keeps | with_reducible apply ite_keeps | split)
theorem execCpllSwap_next {a0 a1} (h : Keeps kb s0 s) : ∃ t, execCpllSwap a0 a1 s = .next t ∧ Keeps kb s0 t := by
  refine ⟨_, rfl, ?_⟩
  repeat' (first | with_reducible assumption | (extract_lets +onlyGivenNames x; refine @cut kb s0 x _ ?_ (fun hx => ?_); unfold x; clear x; rotate_left; clear_value x; rotate_right) | (extract_lets +onlyGivenNames x; clear_value x) | with_reducible refine awake_keeps ?_ ?_ | with_reducible apply regCpllSwap_keeps | with_reducible apply ite_keeps | split)
theorem execMpllPstepWrite_next {a0 a1} (h : Keeps kb s0 s) : ∃ t, execMpllPstepWrite a0 a1 s = .next t ∧ Keeps kb s0 t := by
  refine ⟨_, rfl, ?_⟩
  repeat' (first | with_reducible assumption | (extract_lets +onlyGivenNames x; refine @cut kb s0 x _ ?_ (fun hx => ?_); unfold x; clear x; rotate_left; clear_value x; rotate_right) | (extract_lets +onlyGivenNames x; clear_value x) | with_reducible refine awake_keeps ?_ ?_ | with_reducible apply regMpllPstepWrite_keeps | with_reducible apply ite_keeps | split)
theorem execSscModeWrite_next {a0 a1} (h : Keeps kb s0 s) : ∃ t, execSscModeWrite a0 a1 s = .next t ∧ Keeps kb s0 t := by
  refine ⟨_, rfl, ?_⟩
  repeat' (first | with_reducible assumption | (extract_lets +onlyGivenNames x; refine @cut kb s0 x _ ?_ (fun hx => ?_); unfold x; clear x; rotate_left; clear_value x; rotate_right) | (extract_lets +onlyGivenNames x; clear_value x) | with_reducible refine awake_keeps ?_ ?_ | with_reducible apply regSscModeWrite_keeps | with_reducible apply ite_keeps | split)
theorem execCpllRelock_next  (h : Keeps kb s0 s) : ∃ t, execCpllRelock s = .next t ∧ Keeps kb s0 t := by
  refine ⟨_, rfl, ?_⟩
  repeat' (first | with_reducible assumption | (extract_lets +onlyGivenNames x; refine @cut kb s0 x _ ?_ (fun hx => ?_); unfold x; clear x; rotate_left; clear_value x; rotate_right) | (extract_lets +onlyGivenNames x; clear_value x) | with_reducible apply cpllSet_keeps | with_reducible apply ite_keeps | split)
theorem execStandbyCpllLockLoss_next  (h : Keeps kb s0 s) : ∃ t, execStandbyCpllLockLoss s = .next t ∧ Keeps kb s0 t := by
  refine ⟨_, rfl, ?_⟩
  repeat' (first | with_reducible assumption | (extract_lets +onlyGivenNames x; refine @cut kb s0 x _ ?_ (fun hx => ?_); unfold x; clear x; rotate_left; clear_value x; rotate_right) | (extract_lets +onlyGivenNames x; clear_value x) | with_reducible apply cpllSet_keeps | with_reducible apply ite_keeps | split)
theorem execPllPhaseExcursion_next {a0} (h : Keeps kb s0 s) : ∃ t, execPllPhaseExcursion a0 s = .next t ∧ Keeps kb s0 t := by
  refine ⟨_, rfl, ?_⟩
  repeat' (first | with_reducible assumption | (extract_lets +onlyGivenNames x; refine @cut kb s0 x _ ?_ (fun hx => ?_); unfold x; clear x; rotate_left; clear_value x; rotate_right) | (extract_lets +onlyGivenNames x; clear_value x) | with_reducible apply State.cntw_keeps | with_reducible apply ite_keeps | split)

end Sys2Proof.Machine
end

