-- ==== Sys2Proof/Laws/KeepsNet.lean ====
section
/-!
SUPPORT. Every operation of Machine/Net.lean keeps what `Keeps` says.
-/
namespace Sys2Proof.Machine
set_option linter.all false
variable {kb : Prop} {s0 s : State}

theorem gclRequest_keeps {a0} (h : Keeps kb s0 s) : Keeps kb s0 (gclRequest a0 s) := by
  unfold gclRequest
  repeat' (first | with_reducible assumption | (extract_lets +onlyGivenNames x; refine @cut kb s0 x _ ?_ (fun hx => ?_); unfold x; clear x; rotate_left; clear_value x; rotate_right) | (extract_lets +onlyGivenNames x; clear_value x) | with_reducible apply State.wb_keeps | with_reducible apply ite_keeps | split)
theorem gclCtlWrite_keeps {a0 a1} (h : Keeps kb s0 s) : Keeps kb s0 (gclCtlWrite a0 a1 s) := by
  unfold gclCtlWrite
  repeat' (first | with_reducible assumption | (extract_lets +onlyGivenNames x; refine @cut kb s0 x _ ?_ (fun hx => ?_); unfold x; clear x; rotate_left; clear_value x; rotate_right) | (extract_lets +onlyGivenNames x; clear_value x) | with_reducible apply State.writeRW_keeps | with_reducible apply State.wr_keeps | with_reducible apply ite_keeps | split)
theorem regGclSwap_keeps {a0 a1 a2} (h : Keeps kb s0 s) : Keeps kb s0 (regGclSwap a0 a1 a2 s) := by
  unfold regGclSwap
  repeat' (first | with_reducible assumption | (extract_lets +onlyGivenNames x; refine @cut kb s0 x _ ?_ (fun hx => ?_); unfold x; clear x; rotate_left; clear_value x; rotate_right) | (extract_lets +onlyGivenNames x; clear_value x) | with_reducible apply gclRequest_keeps | with_reducible apply State.hold_keeps | with_reducible apply gclCtlWrite_keeps | with_reducible apply ite_keeps | split)
theorem regQsfpReset_keeps {a0 a1 a2 a3} (h : Keeps kb s0 s) : Keeps kb s0 (regQsfpReset a0 a1 a2 a3 s) := by
  unfold regQsfpReset
  repeat' (first | with_reducible assumption | (extract_lets +onlyGivenNames x; refine @cut kb s0 x _ ?_ (fun hx => ?_); unfold x; clear x; rotate_left; clear_value x; rotate_right) | (extract_lets +onlyGivenNames x; clear_value x) | with_reducible apply State.onNet_keeps | with_reducible apply State.writeRW_keeps | with_reducible apply ite_keeps | split)
theorem txCount_keeps {a0 a1 a2} (h : Keeps kb s0 s) : Keeps kb s0 (txCount a0 a1 a2 s) := by
  unfold txCount
  repeat' (first | with_reducible assumption | (extract_lets +onlyGivenNames x; refine @cut kb s0 x _ ?_ (fun hx => ?_); unfold x; clear x; rotate_left; clear_value x; rotate_right) | (extract_lets +onlyGivenNames x; clear_value x) | with_reducible apply State.wr64_keeps | with_reducible apply State.ww_keeps | with_reducible apply ite_keeps | split)
theorem txSettle_keeps {a0 a1} (h : Keeps kb s0 s) : Keeps kb s0 (txSettle a0 a1 s) := by
  unfold txSettle
  repeat' (first | with_reducible assumption | (extract_lets +onlyGivenNames x; refine @cut kb s0 x _ ?_ (fun hx => ?_); unfold x; clear x; rotate_left; clear_value x; rotate_right) | (extract_lets +onlyGivenNames x; clear_value x) | with_reducible apply hostEnd_keeps | with_reducible apply txCount_keeps | with_reducible apply State.onNet_keeps | with_reducible apply ite_keeps | split)
theorem txFlush_keeps' {a0 a1} (h : Keeps kb s0 s) : Keeps2 kb s0 (txFlush a0 a1 s) := by
  unfold txFlush
  repeat' (first | with_reducible assumption | (extract_lets +onlyGivenNames x; refine @cut kb s0 x _ ?_ (fun hx => ?_); unfold x; clear x; rotate_left; clear_value x; rotate_right) | (extract_lets +onlyGivenNames x; clear_value x) | with_reducible apply txSettle_keeps | with_reducible apply State.onNet_keeps | with_reducible refine State.each_keeps ?_ (fun _ _ _ => ?_) | with_reducible apply txSet_keeps | split | with_reducible apply mk2_keeps)
theorem txFlush_keeps2 {a0 a1} (h : Keeps kb s0 s) : Keeps kb s0 (txFlush a0 a1 s).2 := txFlush_keeps' h
theorem txFlush_keeps {a0 a1} {v0 t} (h : Keeps kb s0 s) (e : txFlush a0 a1 s = (v0, t)) : Keeps kb s0 t := by
  have k : Keeps2 kb s0 (txFlush a0 a1 s) := txFlush_keeps' h; rw [e] at k; exact k
theorem dadStart_keeps {a0 a1} (h : Keeps kb s0 s) : Keeps kb s0 (dadStart a0 a1 s) := by
  unfold dadStart
  repeat' (first | with_reducible assumption | (extract_lets +onlyGivenNames x; refine @cut kb s0 x _ ?_ (fun hx => ?_); unfold x; clear x; rotate_left; clear_value x; rotate_right) | (extract_lets +onlyGivenNames x; clear_value x) | with_reducible apply State.onNet_keeps | with_reducible refine State.each_keeps ?_ (fun _ _ _ => ?_) | with_reducible apply txMgmt_keeps | with_reducible apply ite_keeps | split)
theorem gclSusp_keeps {a1} (h : Keeps kb s0 s) : Keeps kb s0 (gclSusp s a1) := by
  unfold gclSusp
  repeat' (first | with_reducible assumption | (extract_lets +onlyGivenNames x; refine @cut kb s0 x _ ?_ (fun hx => ?_); unfold x; clear x; rotate_left; clear_value x; rotate_right) | (extract_lets +onlyGivenNames x; clear_value x) | with_reducible apply State.wb_keeps | with_reducible apply State.onNet_keeps | with_reducible apply ite_keeps | split)
theorem gclSwapNow_keeps {a0} (h : Keeps kb s0 s) : Keeps kb s0 (gclSwapNow a0 s) := by
  unfold gclSwapNow
  repeat' (first | with_reducible assumption | (extract_lets +onlyGivenNames x; refine @cut kb s0 x _ ?_ (fun hx => ?_); unfold x; clear x; rotate_left; clear_value x; rotate_right) | (extract_lets +onlyGivenNames x; clear_value x) | with_reducible refine State.each_keeps ?_ (fun _ _ _ => ?_) | with_reducible apply State.ww_keeps | with_reducible apply State.wb_keeps | with_reducible apply State.raise_keeps | with_reducible apply State.onNet_keeps | with_reducible apply ite_keeps | split)
theorem gclTick_keeps {a0 a2} (h : Keeps kb s0 s) : Keeps kb s0 (gclTick a0 s a2) := by
  unfold gclTick
  repeat' (first | with_reducible assumption | (extract_lets +onlyGivenNames x; refine @cut kb s0 x _ ?_ (fun hx => ?_); unfold x; clear x; rotate_left; clear_value x; rotate_right) | (extract_lets +onlyGivenNames x; clear_value x) | with_reducible apply gclSusp_keeps | with_reducible apply gclSwapNow_keeps | with_reducible apply ite_keeps | split)
theorem servoSet_keeps {a0 a1} (h : Keeps kb s0 s) : Keeps kb s0 (servoSet a0 a1 s) := by
  unfold servoSet
  repeat' (first | with_reducible assumption | (extract_lets +onlyGivenNames x; refine @cut kb s0 x _ ?_ (fun hx => ?_); unfold x; clear x; rotate_left; clear_value x; rotate_right) | (extract_lets +onlyGivenNames x; clear_value x) | with_reducible apply State.onNet_keeps | with_reducible apply State.wr_keeps | with_reducible apply State.wb_keeps | with_reducible refine State.onTim_keeps (fun _ _ => rfl) ?_ | with_reducible apply markStale_keeps | with_reducible apply State.raise_keeps | with_reducible apply ite_keeps | split)
theorem gmUpdate_keeps {a0} (h : Keeps kb s0 s) : Keeps kb s0 (gmUpdate a0 s) := by
  unfold gmUpdate
  repeat' (first | with_reducible assumption | (extract_lets +onlyGivenNames x; refine @cut kb s0 x _ ?_ (fun hx => ?_); unfold x; clear x; rotate_left; clear_value x; rotate_right) | (extract_lets +onlyGivenNames x; clear_value x) | with_reducible apply State.onRx_keeps | with_reducible apply State.onRef_keeps | with_reducible apply State.wb_keeps | with_reducible apply servoSet_keeps | with_reducible apply State.onNet_keeps | with_reducible apply State.raise_keeps | with_reducible apply State.cnt_keeps | with_reducible apply State.wr64_keeps | with_reducible apply State.wr_keeps | with_reducible apply ite_keeps | split)
theorem ptpTick_keeps {a1} (h : Keeps kb s0 s) : Keeps kb s0 (ptpTick s a1) := by
  unfold ptpTick
  repeat' (first | with_reducible assumption | (extract_lets +onlyGivenNames x; refine @cut kb s0 x _ ?_ (fun hx => ?_); unfold x; clear x; rotate_left; clear_value x; rotate_right) | (extract_lets +onlyGivenNames x; clear_value x) | with_reducible apply State.onNet_keeps | with_reducible apply servoSet_keeps | with_reducible apply gmUpdate_keeps | with_reducible apply State.raise_keeps | with_reducible apply State.wr_keeps | with_reducible apply State.wrS_keeps | with_reducible apply ite_keeps | split)
theorem masterLost_keeps {a0} (h : Keeps kb s0 s) : Keeps kb s0 (masterLost a0 s) := by
  unfold masterLost
  repeat' (first | with_reducible assumption | (extract_lets +onlyGivenNames x; refine @cut kb s0 x _ ?_ (fun hx => ?_); unfold x; clear x; rotate_left; clear_value x; rotate_right) | (extract_lets +onlyGivenNames x; clear_value x) | with_reducible apply gmUpdate_keeps | with_reducible apply State.onNet_keeps | with_reducible apply ite_keeps | split)
theorem masterBar_keeps {a0 a1 a2} (h : Keeps kb s0 s) : Keeps kb s0 (masterBar a0 a1 a2 s) := by
  unfold masterBar
  repeat' (first | with_reducible assumption | (extract_lets +onlyGivenNames x; refine @cut kb s0 x _ ?_ (fun hx => ?_); unfold x; clear x; rotate_left; clear_value x; rotate_right) | (extract_lets +onlyGivenNames x; clear_value x) | with_reducible apply State.onNet_keeps | with_reducible apply ite_keeps | split)
theorem servoOffset_keeps {a0 a1} (h : Keeps kb s0 s) : Keeps kb s0 (servoOffset a0 a1 s) := by
  unfold servoOffset
  repeat' (first | with_reducible assumption | (extract_lets +onlyGivenNames x; refine @cut kb s0 x _ ?_ (fun hx => ?_); unfold x; clear x; rotate_left; clear_value x; rotate_right) | (extract_lets +onlyGivenNames x; clear_value x) | with_reducible apply State.wrS_keeps | with_reducible apply State.onNet_keeps | with_reducible apply servoSet_keeps | with_reducible apply ite_keeps | split)
theorem syncDone_keeps {a0 a1} (h : Keeps kb s0 s) : Keeps kb s0 (syncDone a0 a1 s) := by
  unfold syncDone
  repeat' (first | with_reducible assumption | (extract_lets +onlyGivenNames x; refine @cut kb s0 x _ ?_ (fun hx => ?_); unfold x; clear x; rotate_left; clear_value x; rotate_right) | (extract_lets +onlyGivenNames x; clear_value x) | with_reducible apply State.onNet_keeps | with_reducible apply servoOffset_keeps | with_reducible apply ite_keeps | split)
theorem ptpMessage_keeps {a0 a1 a2} (h : Keeps kb s0 s) : Keeps kb s0 (ptpMessage a0 a1 a2 s) := by
  unfold ptpMessage
  repeat' (first | with_reducible assumption | (extract_lets +onlyGivenNames x; refine @cut kb s0 x _ ?_ (fun hx => ?_); unfold x; clear x; rotate_left; clear_value x; rotate_right) | (extract_lets +onlyGivenNames x; clear_value x) | with_reducible apply masterLost_keeps | with_reducible apply State.onNet_keeps | with_reducible apply gmUpdate_keeps | with_reducible apply masterBar_keeps | with_reducible apply syncDone_keeps | with_reducible apply State.wrS_keeps | with_reducible apply ite_keeps | split)
theorem dadHit_keeps {a0 a1} (h : Keeps kb s0 s) : Keeps kb s0 (dadHit a0 a1 s) := by
  unfold dadHit
  repeat' (first | with_reducible assumption | (extract_lets +onlyGivenNames x; refine @cut kb s0 x _ ?_ (fun hx => ?_); unfold x; clear x; rotate_left; clear_value x; rotate_right) | (extract_lets +onlyGivenNames x; clear_value x) | with_reducible apply State.onNet_keeps | with_reducible apply ite_keeps | split)
theorem gclCycle_keeps {a1} (h : Keeps kb s0 s) : Keeps kb s0 (gclCycle s a1) := by
  unfold gclCycle
  repeat' (first | with_reducible assumption | (extract_lets +onlyGivenNames x; refine @cut kb s0 x _ ?_ (fun hx => ?_); unfold x; clear x; rotate_left; clear_value x; rotate_right) | (extract_lets +onlyGivenNames x; clear_value x) | with_reducible apply State.onNet_keeps | with_reducible apply gclSwapNow_keeps | with_reducible apply ite_keeps | split)
theorem delayReq_keeps {a0} (h : Keeps kb s0 s) : Keeps kb s0 (delayReq a0 s) := by
  unfold delayReq
  repeat' (first | with_reducible assumption | (extract_lets +onlyGivenNames x; refine @cut kb s0 x _ ?_ (fun hx => ?_); unfold x; clear x; rotate_left; clear_value x; rotate_right) | (extract_lets +onlyGivenNames x; clear_value x) | with_reducible apply masterLost_keeps | with_reducible apply txPut_keeps | with_reducible apply State.onNet_keeps | with_reducible apply ite_keeps | split)
theorem execMasterLoss_next {a0} (h : Keeps kb s0 s) : ∃ t, execMasterLoss a0 s = .next t ∧ Keeps kb s0 t := by
  refine ⟨_, rfl, ?_⟩
  repeat' (first | with_reducible assumption | (extract_lets +onlyGivenNames x; refine @cut kb s0 x _ ?_ (fun hx => ?_); unfold x; clear x; rotate_left; clear_value x; rotate_right) | (extract_lets +onlyGivenNames x; clear_value x) | with_reducible refine awake_keeps ?_ ?_ | with_reducible apply masterLost_keeps | with_reducible apply ite_keeps | split)
theorem execDelayReqSend_next {a0} (h : Keeps kb s0 s) : ∃ t, execDelayReqSend a0 s = .next t ∧ Keeps kb s0 t := by
  refine ⟨_, rfl, ?_⟩
  repeat' (first | with_reducible assumption | (extract_lets +onlyGivenNames x; refine @cut kb s0 x _ ?_ (fun hx => ?_); unfold x; clear x; rotate_left; clear_value x; rotate_right) | (extract_lets +onlyGivenNames x; clear_value x) | with_reducible refine awake_keeps ?_ ?_ | with_reducible apply delayReq_keeps | with_reducible apply ite_keeps | split)
theorem execNeighbourAgeOut_next {a0 a1} (h : Keeps kb s0 s) : ∃ t, execNeighbourAgeOut a0 a1 s = .next t ∧ Keeps kb s0 t := by
  refine ⟨_, rfl, ?_⟩
  repeat' (first | with_reducible assumption | (extract_lets +onlyGivenNames x; refine @cut kb s0 x _ ?_ (fun hx => ?_); unfold x; clear x; rotate_left; clear_value x; rotate_right) | (extract_lets +onlyGivenNames x; clear_value x) | with_reducible refine awake_keeps ?_ ?_ | with_reducible apply State.onNet_keeps | with_reducible apply ite_keeps | split)
theorem modSelect_keeps {a0} (h : Keeps kb s0 s) : Keeps kb s0 (modSelect a0 s) := by
  unfold modSelect
  repeat' (first | with_reducible assumption | (extract_lets +onlyGivenNames x; refine @cut kb s0 x _ ?_ (fun hx => ?_); unfold x; clear x; rotate_left; clear_value x; rotate_right) | (extract_lets +onlyGivenNames x; clear_value x) | with_reducible apply State.onNet_keeps | with_reducible apply ite_keeps | split)
theorem qsfpMonitor_keeps {a0 a1 a2} (h : Keeps kb s0 s) : Keeps kb s0 (qsfpMonitor a0 a1 a2 s) := by
  unfold qsfpMonitor
  repeat' (first | with_reducible assumption | (extract_lets +onlyGivenNames x; refine @cut kb s0 x _ ?_ (fun hx => ?_); unfold x; clear x; rotate_left; clear_value x; rotate_right) | (extract_lets +onlyGivenNames x; clear_value x) | with_reducible apply State.wb_keeps | with_reducible apply State.wr_keeps | with_reducible apply State.onNet_keeps | with_reducible apply modSelect_keeps | with_reducible apply State.raise_keeps | with_reducible apply ite_keeps | split)
theorem execQsfpMonitor_next {a0 a1 a2} (h : Keeps kb s0 s) : ∃ t, execQsfpMonitor a0 a1 a2 s = .next t ∧ Keeps kb s0 t := by
  refine ⟨_, rfl, ?_⟩
  repeat' (first | with_reducible assumption | (extract_lets +onlyGivenNames x; refine @cut kb s0 x _ ?_ (fun hx => ?_); unfold x; clear x; rotate_left; clear_value x; rotate_right) | (extract_lets +onlyGivenNames x; clear_value x) | with_reducible refine awake_keeps ?_ ?_ | with_reducible apply qsfpMonitor_keeps | with_reducible apply ite_keeps | split)
theorem txHold_keeps {a0 a1} (h : Keeps kb s0 s) : Keeps kb s0 (txHold a0 a1 s) := by
  unfold txHold
  repeat' (first | with_reducible assumption | (extract_lets +onlyGivenNames x; refine @cut kb s0 x _ ?_ (fun hx => ?_); unfold x; clear x; rotate_left; clear_value x; rotate_right) | (extract_lets +onlyGivenNames x; clear_value x) | with_reducible apply txSet_keeps | with_reducible apply State.cntr_keeps | with_reducible apply ite_keeps | split)
theorem tokenTake_keeps {a0 a1 a2 a3} (h : Keeps kb s0 s) : Keeps kb s0 (tokenTake a0 a1 a2 a3 s) := by
  unfold tokenTake
  repeat' (first | with_reducible assumption | (extract_lets +onlyGivenNames x; refine @cut kb s0 x _ ?_ (fun hx => ?_); unfold x; clear x; rotate_left; clear_value x; rotate_right) | (extract_lets +onlyGivenNames x; clear_value x) | with_reducible apply State.onNet_keeps | with_reducible apply ite_keeps | split)
theorem txStart_keeps {a0 a1 a2 a3 a4 a5 a6 a7} (h : Keeps kb s0 s) : Keeps kb s0 (txStart a0 a1 a2 a3 a4 a5 a6 a7 s) := by
  unfold txStart
  repeat' (first | with_reducible assumption | (extract_lets +onlyGivenNames x; refine @cut kb s0 x _ ?_ (fun hx => ?_); unfold x; clear x; rotate_left; clear_value x; rotate_right) | (extract_lets +onlyGivenNames x; clear_value x) | with_reducible apply txSet_keeps | with_reducible apply State.onNet_keeps | with_reducible apply tokenTake_keeps | with_reducible apply ite_keeps | split)
theorem txPick_keeps' {a0 a1 a2 a3} (h : Keeps kb s0 s) : Keeps1 kb s0 (txPick a0 a1 a2 a3 s) := by
  induction a3 generalizing s  with
  | nil => unfold txPick; repeat' (first | with_reducible assumption | (extract_lets +onlyGivenNames x; refine @cut kb s0 x _ ?_ (fun hx => ?_); unfold x; clear x; rotate_left; clear_value x; rotate_right) | (extract_lets +onlyGivenNames x; clear_value x) | with_reducible apply txHold_keeps | with_reducible apply txStart_keeps | split | with_reducible apply mk1_keeps)
  | cons x l ih =>
    unfold txPick
    repeat' (first | with_reducible assumption | with_reducible apply ih | (extract_lets +onlyGivenNames x; refine @cut kb s0 x _ ?_ (fun hx => ?_); unfold x; clear x; rotate_left; clear_value x; rotate_right) | (extract_lets +onlyGivenNames x; clear_value x) | with_reducible apply txHold_keeps | with_reducible apply txStart_keeps | split | with_reducible apply mk1_keeps)
theorem txPick_keeps2 {a0 a1 a2 a3} (h : Keeps kb s0 s) : Keeps kb s0 (txPick a0 a1 a2 a3 s).1 := txPick_keeps' h
theorem txPick_keeps {a0 a1 a2 a3} {t v1} (h : Keeps kb s0 s) (e : txPick a0 a1 a2 a3 s = (t, v1)) : Keeps kb s0 t := by
  have k : Keeps1 kb s0 (txPick a0 a1 a2 a3 s) := txPick_keeps' h; rw [e] at k; exact k
theorem txTry_keeps' {a0 a1 a2} (h : Keeps kb s0 s) : Keeps1 kb s0 (txTry a0 a1 a2 s) := by
  unfold txTry
  repeat' (first | with_reducible assumption | (extract_lets +onlyGivenNames x; refine @cut kb s0 x _ ?_ (fun hx => ?_); unfold x; clear x; rotate_left; clear_value x; rotate_right) | (extract_lets +onlyGivenNames x; refine @cut1 kb _ s0 x _ ?_ (fun hx => ?_); unfold x; clear x; rotate_left; clear_value x; rotate_right) | (extract_lets +onlyGivenNames x; refine @cut2 kb _ s0 x _ ?_ (fun hx => ?_); unfold x; clear x; rotate_left; clear_value x; rotate_right) | (extract_lets +onlyGivenNames x; clear_value x) | with_reducible apply txSettle_keeps | with_reducible refine txPick_keeps ?_ (by assumption) | with_reducible apply txPick_keeps2 | with_reducible apply State.onNet_keeps | with_reducible apply txPick_keeps' | split | with_reducible apply mk1_keeps)
theorem txTry_keeps2 {a0 a1 a2} (h : Keeps kb s0 s) : Keeps kb s0 (txTry a0 a1 a2 s).1 := txTry_keeps' h
theorem txTry_keeps {a0 a1 a2} {t v1} (h : Keeps kb s0 s) (e : txTry a0 a1 a2 s = (t, v1)) : Keeps kb s0 t := by
  have k : Keeps1 kb s0 (txTry a0 a1 a2 s) := txTry_keeps' h; rw [e] at k; exact k
theorem execPtpConfig_next {a0 a1} (h : Keeps kb s0 s) : ∃ t, execPtpConfig a0 a1 s = .next t ∧ Keeps kb s0 t := by
  refine ⟨_, rfl, ?_⟩
  repeat' (first | with_reducible assumption | (extract_lets +onlyGivenNames x; refine @cut kb s0 x _ ?_ (fun hx => ?_); unfold x; clear x; rotate_left; clear_value x; rotate_right) | (extract_lets +onlyGivenNames x; clear_value x) | with_reducible refine runCmd_keeps (hb := fun _ _ _ => ?_) ?_ | with_reducible apply done_keeps | with_reducible apply cfgWrite_keeps | with_reducible exact no_keeps | with_reducible apply ite_keeps | split)
theorem execPtpStatus_next {a0 a1} (h : Keeps kb s0 s) : ∃ t, execPtpStatus a0 a1 s = .next t ∧ Keeps kb s0 t := by
  refine ⟨_, rfl, ?_⟩
  repeat' (first | with_reducible assumption | (extract_lets +onlyGivenNames x; refine @cut kb s0 x _ ?_ (fun hx => ?_); unfold x; clear x; rotate_left; clear_value x; rotate_right) | (extract_lets +onlyGivenNames x; clear_value x) | with_reducible refine runCmd_keeps (hb := fun _ _ _ => ?_) ?_ | with_reducible apply ret_keeps | with_reducible exact no_keeps | with_reducible apply ite_keeps | split)
theorem execNetPortConfig_next {a0 a1} (h : Keeps kb s0 s) : ∃ t, execNetPortConfig a0 a1 s = .next t ∧ Keeps kb s0 t := by
  refine ⟨_, rfl, ?_⟩
  repeat' (first | with_reducible assumption | (extract_lets +onlyGivenNames x; refine @cut kb s0 x _ ?_ (fun hx => ?_); unfold x; clear x; rotate_left; clear_value x; rotate_right) | (extract_lets +onlyGivenNames x; clear_value x) | with_reducible refine runCmd_keeps (hb := fun _ _ _ => ?_) ?_ | with_reducible apply done_keeps | with_reducible apply cfgWrite_keeps | with_reducible exact no_keeps | with_reducible apply ite_keeps | split)
theorem execNetPortStatus_next {a0 a1} (h : Keeps kb s0 s) : ∃ t, execNetPortStatus a0 a1 s = .next t ∧ Keeps kb s0 t := by
  refine ⟨_, rfl, ?_⟩
  repeat' (first | with_reducible assumption | (extract_lets +onlyGivenNames x; refine @cut kb s0 x _ ?_ (fun hx => ?_); unfold x; clear x; rotate_left; clear_value x; rotate_right) | (extract_lets +onlyGivenNames x; clear_value x) | with_reducible refine runCmd_keeps (hb := fun _ _ _ => ?_) ?_ | with_reducible apply ret_keeps | with_reducible exact no_keeps | with_reducible apply ite_keeps | split)
theorem execNetAddrSet_next {a0 a1 a2} (h : Keeps kb s0 s) : ∃ t, execNetAddrSet a0 a1 a2 s = .next t ∧ Keeps kb s0 t := by
  refine ⟨_, rfl, ?_⟩
  repeat' (first | with_reducible assumption | (extract_lets +onlyGivenNames x; refine @cut kb s0 x _ ?_ (fun hx => ?_); unfold x; clear x; rotate_left; clear_value x; rotate_right) | (extract_lets +onlyGivenNames x; clear_value x) | with_reducible refine runCmd_keeps (hb := fun _ _ _ => ?_) ?_ | with_reducible apply flashWrote_keeps | with_reducible refine State.onFlash_keeps (fun _ => ⟨rfl, rfl, Nat.le_refl _⟩) ?_ | with_reducible apply done_keeps | with_reducible apply dadStart_keeps | with_reducible exact no_keeps | with_reducible apply ite_keeps | split)
theorem execGclLoad_next {a0 a1 a2 a3 a4} (h : Keeps kb s0 s) : ∃ t, execGclLoad a0 a1 a2 a3 a4 s = .next t ∧ Keeps kb s0 t := by
  refine ⟨_, rfl, ?_⟩
  repeat' (first | with_reducible assumption | (extract_lets +onlyGivenNames x; refine @cut kb s0 x _ ?_ (fun hx => ?_); unfold x; clear x; rotate_left; clear_value x; rotate_right) | (extract_lets +onlyGivenNames x; clear_value x) | with_reducible refine runCmd_keeps (hb := fun _ _ _ => ?_) ?_ | with_reducible apply State.wr_keeps | with_reducible refine State.each_keeps ?_ (fun _ _ _ => ?_) | with_reducible apply retIdx_keeps | with_reducible apply gclRequest_keeps | with_reducible exact no_keeps | with_reducible apply ite_keeps | split)
theorem execQsfpRead_next {a0 a1 a2 a3} (h : Keeps kb s0 s) : ∃ t, execQsfpRead a0 a1 a2 a3 s = .next t ∧ Keeps kb s0 t := by
  refine ⟨_, rfl, ?_⟩
  repeat' (first | with_reducible assumption | (extract_lets +onlyGivenNames x; refine @cut kb s0 x _ ?_ (fun hx => ?_); unfold x; clear x; rotate_left; clear_value x; rotate_right) | (extract_lets +onlyGivenNames x; clear_value x) | with_reducible refine runCmd_keeps (hb := fun _ _ _ => ?_) ?_ | with_reducible apply ret_keeps | with_reducible apply modSelect_keeps | with_reducible exact no_keeps | with_reducible apply ite_keeps | split)
theorem execWakePattern_next {a0 a1 a2} (h : Keeps kb s0 s) : ∃ t, execWakePattern a0 a1 a2 s = .next t ∧ Keeps kb s0 t := by
  refine ⟨_, rfl, ?_⟩
  repeat' (first | with_reducible assumption | (extract_lets +onlyGivenNames x; refine @cut kb s0 x _ ?_ (fun hx => ?_); unfold x; clear x; rotate_left; clear_value x; rotate_right) | (extract_lets +onlyGivenNames x; clear_value x) | with_reducible refine runCmd_keeps (hb := fun _ _ _ => ?_) ?_ | with_reducible apply done_keeps | with_reducible apply State.onNet_keeps | with_reducible exact no_keeps | with_reducible apply ite_keeps | split)
theorem execGclSwap_next {a0 a1 a2} (h : Keeps kb s0 s) : ∃ t, execGclSwap a0 a1 a2 s = .next t ∧ Keeps kb s0 t := by
  refine ⟨_, rfl, ?_⟩
  repeat' (first | with_reducible assumption | (extract_lets +onlyGivenNames x; refine @cut kb s0 x _ ?_ (fun hx => ?_); unfold x; clear x; rotate_left; clear_value x; rotate_right) | (extract_lets +onlyGivenNames x; clear_value x) | with_reducible refine awake_keeps ?_ ?_ | with_reducible apply regGclSwap_keeps | with_reducible apply ite_keeps | split)
theorem execQsfpReset_next {a0 a1 a2 a3} (h : Keeps kb s0 s) : ∃ t, execQsfpReset a0 a1 a2 a3 s = .next t ∧ Keeps kb s0 t := by
  refine ⟨_, rfl, ?_⟩
  repeat' (first | with_reducible assumption | (extract_lets +onlyGivenNames x; refine @cut kb s0 x _ ?_ (fun hx => ?_); unfold x; clear x; rotate_left; clear_value x; rotate_right) | (extract_lets +onlyGivenNames x; clear_value x) | with_reducible refine awake_keeps ?_ ?_ | with_reducible apply regQsfpReset_keeps | with_reducible apply ite_keeps | split)

end Sys2Proof.Machine
end

