-- ==== Sys2Proof/Laws/KeepsSrcb.lean ====
section
/-!
SUPPORT. Every operation of Machine/Srcb.lean keeps what `Keeps` says.
-/
namespace Sys2Proof.Machine
set_option linter.all false
variable {kb : Prop} {s0 s : State}

theorem convClear_keeps {a0} (h : Keeps kb s0 s) : Keeps kb s0 (convClear a0 s) := by
  unfold convClear
  repeat' (first | with_reducible assumption | (extract_lets +onlyGivenNames x; refine @cut kb s0 x _ ?_ (fun hx => ?_); unfold x; clear x; rotate_left; clear_value x; rotate_right) | (extract_lets +onlyGivenNames x; clear_value x) | with_reducible apply State.onSrc_keeps | with_reducible apply ite_keeps | split)
theorem srcGive_keeps {a0} (h : Keeps kb s0 s) : Keeps kb s0 (srcGive a0 s) := by
  unfold srcGive
  repeat' (first | with_reducible assumption | (extract_lets +onlyGivenNames x; refine @cut kb s0 x _ ?_ (fun hx => ?_); unfold x; clear x; rotate_left; clear_value x; rotate_right) | (extract_lets +onlyGivenNames x; clear_value x) | with_reducible apply State.wr_keeps | with_reducible apply useGive_keeps | with_reducible apply convClear_keeps | with_reducible apply State.onSrc_keeps | with_reducible apply ite_keeps | split)
theorem srcTake_keeps {a0 a1 a2} (h : Keeps kb s0 s) : Keeps kb s0 (srcTake a0 a1 a2 s) := by
  unfold srcTake
  repeat' (first | with_reducible assumption | (extract_lets +onlyGivenNames x; refine @cut kb s0 x _ ?_ (fun hx => ?_); unfold x; clear x; rotate_left; clear_value x; rotate_right) | (extract_lets +onlyGivenNames x; clear_value x) | with_reducible apply convClear_keeps | with_reducible apply State.onSrc_keeps | with_reducible apply State.wr_keeps | with_reducible apply State.wr64_keeps | with_reducible apply useTake_keeps | with_reducible apply ite_keeps | split)
theorem loopStart_keeps {a0 a1 a2 a3} (h : Keeps kb s0 s) : Keeps kb s0 (loopStart a0 a1 a2 a3 s) := by
  unfold loopStart
  repeat' (first | with_reducible assumption | (extract_lets +onlyGivenNames x; refine @cut kb s0 x _ ?_ (fun hx => ?_); unfold x; clear x; rotate_left; clear_value x; rotate_right) | (extract_lets +onlyGivenNames x; clear_value x) | with_reducible apply State.onSrc_keeps | with_reducible apply ite_keeps | split)
theorem measure_keeps {a0 a1 a2} (h : Keeps kb s0 s) : Keeps kb s0 (measure a0 a1 a2 s) := by
  unfold measure
  repeat' (first | with_reducible assumption | (extract_lets +onlyGivenNames x; refine @cut kb s0 x _ ?_ (fun hx => ?_); unfold x; clear x; rotate_left; clear_value x; rotate_right) | (extract_lets +onlyGivenNames x; clear_value x) | with_reducible apply loopStart_keeps | with_reducible apply State.onSrc_keeps | with_reducible apply ite_keeps | split)
theorem measureEdge_keeps {a0 a1} (h : Keeps kb s0 s) : Keeps kb s0 (measureEdge a0 a1 s) := by
  unfold measureEdge
  repeat' (first | with_reducible assumption | (extract_lets +onlyGivenNames x; refine @cut kb s0 x _ ?_ (fun hx => ?_); unfold x; clear x; rotate_left; clear_value x; rotate_right) | (extract_lets +onlyGivenNames x; clear_value x) | with_reducible apply measure_keeps | with_reducible apply ite_keeps | split)
theorem convKeep_keeps {a0 a1 a2 a3} (h : Keeps kb s0 s) : Keeps kb s0 (convKeep a0 a1 a2 a3 s) := by
  unfold convKeep
  repeat' (first | with_reducible assumption | (extract_lets +onlyGivenNames x; refine @cut kb s0 x _ ?_ (fun hx => ?_); unfold x; clear x; rotate_left; clear_value x; rotate_right) | (extract_lets +onlyGivenNames x; clear_value x) | with_reducible apply State.onSrc_keeps | with_reducible apply ite_keeps | split)
theorem convSat_keeps' {a0 a1 a2} (h : Keeps kb s0 s) : Keeps2 kb s0 (convSat a0 a1 a2 s) := by
  unfold convSat
  repeat' (first | with_reducible assumption | (extract_lets +onlyGivenNames x; refine @cut kb s0 x _ ?_ (fun hx => ?_); unfold x; clear x; rotate_left; clear_value x; rotate_right) | (extract_lets +onlyGivenNames x; clear_value x) | with_reducible apply State.cnt_keeps | with_reducible apply State.raise_keeps | split | with_reducible apply mk2_keeps)
theorem convSat_keeps2 {a0 a1 a2} (h : Keeps kb s0 s) : Keeps kb s0 (convSat a0 a1 a2 s).2 := convSat_keeps' h
theorem convSat_keeps {a0 a1 a2} {v0 t} (h : Keeps kb s0 s) (e : convSat a0 a1 a2 s = (v0, t)) : Keeps kb s0 t := by
  have k : Keeps2 kb s0 (convSat a0 a1 a2 s) := convSat_keeps' h; rw [e] at k; exact k
theorem convert_keeps' {a0 a1 a2 a3} (h : Keeps kb s0 s) : Keeps2 kb s0 (convert a0 a1 a2 a3 s) := by
  unfold convert
  repeat' (first | with_reducible assumption | (extract_lets +onlyGivenNames x; refine @cut kb s0 x _ ?_ (fun hx => ?_); unfold x; clear x; rotate_left; clear_value x; rotate_right) | (extract_lets +onlyGivenNames x; refine @cut1 kb _ s0 x _ ?_ (fun hx => ?_); unfold x; clear x; rotate_left; clear_value x; rotate_right) | (extract_lets +onlyGivenNames x; refine @cut2 kb _ s0 x _ ?_ (fun hx => ?_); unfold x; clear x; rotate_left; clear_value x; rotate_right) | (extract_lets +onlyGivenNames x; clear_value x) | with_reducible refine convSat_keeps ?_ (by assumption) | with_reducible apply convSat_keeps2 | with_reducible apply State.onSrc_keeps | with_reducible apply convSat_keeps' | split | with_reducible apply mk2_keeps)
theorem convert_keeps2 {a0 a1 a2 a3} (h : Keeps kb s0 s) : Keeps kb s0 (convert a0 a1 a2 a3 s).2 := convert_keeps' h
theorem convert_keeps {a0 a1 a2 a3} {v0 t} (h : Keeps kb s0 s) (e : convert a0 a1 a2 a3 s = (v0, t)) : Keeps kb s0 t := by
  have k : Keeps2 kb s0 (convert a0 a1 a2 a3 s) := convert_keeps' h; rw [e] at k; exact k
theorem grpSet_keeps {a0 a1} (h : Keeps kb s0 s) : Keeps kb s0 (grpSet a0 a1 s) := by
  unfold grpSet
  repeat' (first | with_reducible assumption | (extract_lets +onlyGivenNames x; refine @cut kb s0 x _ ?_ (fun hx => ?_); unfold x; clear x; rotate_left; clear_value x; rotate_right) | (extract_lets +onlyGivenNames x; clear_value x) | with_reducible apply State.wb_keeps | with_reducible apply State.wr_keeps | with_reducible apply State.ww_keeps | with_reducible apply State.raise_keeps | with_reducible apply State.cnt_keeps | with_reducible apply ite_keeps | split)
theorem loopTick_keeps {a0 a1 a2} (h : Keeps kb s0 s) : Keeps kb s0 (loopTick a0 a1 a2 s) := by
  unfold loopTick
  repeat' (first | with_reducible assumption | (extract_lets +onlyGivenNames x; refine @cut kb s0 x _ ?_ (fun hx => ?_); unfold x; clear x; rotate_left; clear_value x; rotate_right) | (extract_lets +onlyGivenNames x; clear_value x) | with_reducible apply State.onSrc_keeps | with_reducible apply State.wrS_keeps | with_reducible apply State.wr64_keeps | with_reducible apply ite_keeps | split)
theorem fullAcq_keeps {a0 a1} (h : Keeps kb s0 s) : Keeps kb s0 (fullAcq a0 a1 s) := by
  unfold fullAcq
  repeat' (first | with_reducible assumption | (extract_lets +onlyGivenNames x; refine @cut kb s0 x _ ?_ (fun hx => ?_); unfold x; clear x; rotate_left; clear_value x; rotate_right) | (extract_lets +onlyGivenNames x; clear_value x) | with_reducible apply grpSet_keeps | with_reducible apply State.onSrc_keeps | with_reducible apply ite_keeps | split)
theorem lockAcq_keeps {a0} (h : Keeps kb s0 s) : Keeps kb s0 (lockAcq a0 s) := by
  unfold lockAcq
  repeat' (first | with_reducible assumption | (extract_lets +onlyGivenNames x; refine @cut kb s0 x _ ?_ (fun hx => ?_); unfold x; clear x; rotate_left; clear_value x; rotate_right) | (extract_lets +onlyGivenNames x; clear_value x) | with_reducible apply grpSet_keeps | with_reducible apply State.onSrc_keeps | with_reducible apply ite_keeps | split)
theorem grpLock_keeps {a0} (h : Keeps kb s0 s) : Keeps kb s0 (grpLock a0 s) := by
  unfold grpLock
  repeat' (first | with_reducible assumption | (extract_lets +onlyGivenNames x; refine @cut kb s0 x _ ?_ (fun hx => ?_); unfold x; clear x; rotate_left; clear_value x; rotate_right) | (extract_lets +onlyGivenNames x; clear_value x) | with_reducible apply grpSet_keeps | with_reducible apply State.onSrc_keeps | with_reducible apply State.wr_keeps | with_reducible apply ite_keeps | split)
theorem grpTick_keeps {a1} (h : Keeps kb s0 s) : Keeps kb s0 (grpTick s a1) := by
  unfold grpTick
  repeat' (first | with_reducible assumption | (extract_lets +onlyGivenNames x; refine @cut kb s0 x _ ?_ (fun hx => ?_); unfold x; clear x; rotate_left; clear_value x; rotate_right) | (extract_lets +onlyGivenNames x; clear_value x) | with_reducible apply State.onSrc_keeps | with_reducible apply loopTick_keeps | with_reducible apply State.wr_keeps | with_reducible apply grpSet_keeps | with_reducible apply State.ww_keeps | with_reducible apply fullAcq_keeps | with_reducible apply State.cnt_keeps | with_reducible apply State.raise_keeps | with_reducible apply lockAcq_keeps | with_reducible apply grpLock_keeps | with_reducible apply ite_keeps | split)
theorem srcTick_keeps  (h : Keeps kb s0 s) : Keeps kb s0 (srcTick s) := by
  unfold srcTick
  repeat' (first | with_reducible assumption | (extract_lets +onlyGivenNames x; refine @cut kb s0 x _ ?_ (fun hx => ?_); unfold x; clear x; rotate_left; clear_value x; rotate_right) | (extract_lets +onlyGivenNames x; clear_value x) | with_reducible refine State.each_keeps ?_ (fun _ _ _ => ?_) | with_reducible apply grpSet_keeps | with_reducible apply grpTick_keeps | with_reducible apply ite_keeps | split)
theorem regRelock_keeps {a0 a1} (h : Keeps kb s0 s) : Keeps kb s0 (regRelock a0 a1 s) := by
  unfold regRelock
  repeat' (first | with_reducible assumption | (extract_lets +onlyGivenNames x; refine @cut kb s0 x _ ?_ (fun hx => ?_); unfold x; clear x; rotate_left; clear_value x; rotate_right) | (extract_lets +onlyGivenNames x; clear_value x) | with_reducible apply State.onSrc_keeps | with_reducible apply State.writeRW_keeps | with_reducible apply ite_keeps | split)
theorem bindWrite_keeps {a0} (h : Keeps kb s0 s) : Keeps kb s0 (bindWrite a0 s) := by
  unfold bindWrite
  repeat' (first | with_reducible assumption | (extract_lets +onlyGivenNames x; refine @cut kb s0 x _ ?_ (fun hx => ?_); unfold x; clear x; rotate_left; clear_value x; rotate_right) | (extract_lets +onlyGivenNames x; clear_value x) | with_reducible apply State.putMirrored_keeps | with_reducible apply State.wb_keeps | with_reducible apply ite_keeps | split)
theorem regI2sBindWrite_keeps {a0 a1} (h : Keeps kb s0 s) : Keeps kb s0 (regI2sBindWrite a0 a1 s) := by
  unfold regI2sBindWrite
  repeat' (first | with_reducible assumption | (extract_lets +onlyGivenNames x; refine @cut kb s0 x _ ?_ (fun hx => ?_); unfold x; clear x; rotate_left; clear_value x; rotate_right) | (extract_lets +onlyGivenNames x; clear_value x) | with_reducible apply bindWrite_keeps | with_reducible apply ite_keeps | split)
theorem relockNow_keeps {a0} (h : Keeps kb s0 s) : Keeps kb s0 (relockNow a0 s) := by
  unfold relockNow
  repeat' (first | with_reducible assumption | (extract_lets +onlyGivenNames x; refine @cut kb s0 x _ ?_ (fun hx => ?_); unfold x; clear x; rotate_left; clear_value x; rotate_right) | (extract_lets +onlyGivenNames x; clear_value x) | with_reducible apply fullAcq_keeps | with_reducible apply State.cnt_keeps | with_reducible apply State.onSrc_keeps | with_reducible apply ite_keeps | split)
theorem execAsrcStageEnd_next {a0} (h : Keeps kb s0 s) : ∃ t, execAsrcStageEnd a0 s = .next t ∧ Keeps kb s0 t := by
  refine ⟨_, rfl, ?_⟩
  repeat' (first | with_reducible assumption | (extract_lets +onlyGivenNames x; refine @cut kb s0 x _ ?_ (fun hx => ?_); unfold x; clear x; rotate_left; clear_value x; rotate_right) | (extract_lets +onlyGivenNames x; clear_value x) | with_reducible refine awake_keeps ?_ ?_ | with_reducible apply State.onSrc_keeps | with_reducible apply ite_keeps | split)
theorem srcGroupBody_keeps {a0 a1 a2 a3 a4} (h : Keeps kb s0 s) : ResKeeps kb s0 (srcGroupBody a0 a1 a2 a3 a4 s) := by
  unfold srcGroupBody
  repeat' (first | with_reducible assumption | (extract_lets +onlyGivenNames x; refine @cut kb s0 x _ ?_ (fun hx => ?_); unfold x; clear x; rotate_left; clear_value x; rotate_right) | (extract_lets +onlyGivenNames x; clear_value x) | with_reducible apply done_keeps | with_reducible apply bindWrite_keeps | with_reducible apply State.ww_keeps | with_reducible exact no_keeps | with_reducible apply iteR_keeps | split)
theorem execSrcGroupConfig_next {a0 a1 a2 a3 a4} (h : Keeps kb s0 s) : ∃ t, execSrcGroupConfig a0 a1 a2 a3 a4 s = .next t ∧ Keeps kb s0 t := by
  refine ⟨_, rfl, ?_⟩
  repeat' (first | with_reducible assumption | (extract_lets +onlyGivenNames x; refine @cut kb s0 x _ ?_ (fun hx => ?_); unfold x; clear x; rotate_left; clear_value x; rotate_right) | (extract_lets +onlyGivenNames x; clear_value x) | with_reducible refine runCmd_keeps (hb := fun _ _ _ => ?_) ?_ | with_reducible apply srcGroupBody_keeps | with_reducible apply ite_keeps | split)
theorem execSrcStatus_next {a0 a1} (h : Keeps kb s0 s) : ∃ t, execSrcStatus a0 a1 s = .next t ∧ Keeps kb s0 t := by
  refine ⟨_, rfl, ?_⟩
  repeat' (first | with_reducible assumption | (extract_lets +onlyGivenNames x; refine @cut kb s0 x _ ?_ (fun hx => ?_); unfold x; clear x; rotate_left; clear_value x; rotate_right) | (extract_lets +onlyGivenNames x; clear_value x) | with_reducible refine runCmd_keeps (hb := fun _ _ _ => ?_) ?_ | with_reducible apply retL_keeps | with_reducible exact no_keeps | with_reducible apply ite_keeps | split)
theorem execSrcRelock_next {a0 a1 a2} (h : Keeps kb s0 s) : ∃ t, execSrcRelock a0 a1 a2 s = .next t ∧ Keeps kb s0 t := by
  refine ⟨_, rfl, ?_⟩
  repeat' (first | with_reducible assumption | (extract_lets +onlyGivenNames x; refine @cut kb s0 x _ ?_ (fun hx => ?_); unfold x; clear x; rotate_left; clear_value x; rotate_right) | (extract_lets +onlyGivenNames x; clear_value x) | with_reducible refine runCmd_keeps (hb := fun _ _ _ => ?_) ?_ | with_reducible apply armNew_keeps | with_reducible exact no_keeps | with_reducible apply ite_keeps | split)
theorem execSrcPathQuery_next {a0 a1} (h : Keeps kb s0 s) : ∃ t, execSrcPathQuery a0 a1 s = .next t ∧ Keeps kb s0 t := by
  refine ⟨_, rfl, ?_⟩
  repeat' (first | with_reducible assumption | (extract_lets +onlyGivenNames x; refine @cut kb s0 x _ ?_ (fun hx => ?_); unfold x; clear x; rotate_left; clear_value x; rotate_right) | (extract_lets +onlyGivenNames x; clear_value x) | with_reducible refine runCmd_keeps (hb := fun _ _ _ => ?_) ?_ | with_reducible apply retL_keeps | with_reducible exact no_keeps | with_reducible apply ite_keeps | split)
theorem execRelock_next {a0 a1} (h : Keeps kb s0 s) : ∃ t, execRelock a0 a1 s = .next t ∧ Keeps kb s0 t := by
  refine ⟨_, rfl, ?_⟩
  repeat' (first | with_reducible assumption | (extract_lets +onlyGivenNames x; refine @cut kb s0 x _ ?_ (fun hx => ?_); unfold x; clear x; rotate_left; clear_value x; rotate_right) | (extract_lets +onlyGivenNames x; clear_value x) | with_reducible refine awake_keeps ?_ ?_ | with_reducible apply regRelock_keeps | with_reducible apply ite_keeps | split)
theorem execI2sBindWrite_next {a0 a1} (h : Keeps kb s0 s) : ∃ t, execI2sBindWrite a0 a1 s = .next t ∧ Keeps kb s0 t := by
  refine ⟨_, rfl, ?_⟩
  repeat' (first | with_reducible assumption | (extract_lets +onlyGivenNames x; refine @cut kb s0 x _ ?_ (fun hx => ?_); unfold x; clear x; rotate_left; clear_value x; rotate_right) | (extract_lets +onlyGivenNames x; clear_value x) | with_reducible refine awake_keeps ?_ ?_ | with_reducible apply actNoted_keeps | with_reducible apply regI2sBindWrite_keeps | with_reducible apply ite_keeps | split)

end Sys2Proof.Machine
end

