-- ==== Sys2Proof/Laws/KeepsRx.lean ====
section
/-!
SUPPORT. Every operation of Machine/Rx.lean keeps what `Keeps` says.
-/
namespace Sys2Proof.Machine
set_option linter.all false
variable {kb : Prop} {s0 s : State}

theorem entryCopy_keeps {a0 a1 a2 a3} (h : Keeps kb s0 s) : Keeps kb s0 (entryCopy a0 a1 a2 a3 s) := by
  unfold entryCopy
  repeat' (first | with_reducible assumption | (extract_lets +onlyGivenNames x; refine @cut kb s0 x _ ?_ (fun hx => ?_); unfold x; clear x; rotate_left; clear_value x; rotate_right) | (extract_lets +onlyGivenNames x; clear_value x) | with_reducible refine State.each_keeps ?_ (fun _ _ _ => ?_) | with_reducible apply State.pw_keeps | with_reducible apply ite_keeps | split)
theorem rxStore_keeps {a0 a1 a2} (h : Keeps kb s0 s) : Keeps kb s0 (rxStore a0 a1 a2 s) := by
  unfold rxStore
  repeat' (first | with_reducible assumption | (extract_lets +onlyGivenNames x; refine @cut kb s0 x _ ?_ (fun hx => ?_); unfold x; clear x; rotate_left; clear_value x; rotate_right) | (extract_lets +onlyGivenNames x; clear_value x) | with_reducible apply State.onRx_keeps | with_reducible apply State.ww_keeps | with_reducible apply entryCopy_keeps | with_reducible apply ite_keeps | split)
theorem rxEvent_keeps {a0 a1} (h : Keeps kb s0 s) : Keeps kb s0 (rxEvent a0 a1 s) := by
  unfold rxEvent
  repeat' (first | with_reducible assumption | (extract_lets +onlyGivenNames x; refine @cut kb s0 x _ ?_ (fun hx => ?_); unfold x; clear x; rotate_left; clear_value x; rotate_right) | (extract_lets +onlyGivenNames x; clear_value x) | with_reducible apply State.raise_keeps | with_reducible apply State.wb_keeps | with_reducible apply State.onRx_keeps | with_reducible apply State.wr_keeps | with_reducible apply ite_keeps | split)
theorem planeSet_keeps {a0 a1 a2} (h : Keeps kb s0 s) : Keeps kb s0 (planeSet a0 a1 a2 s) := by
  unfold planeSet
  repeat' (first | with_reducible assumption | (extract_lets +onlyGivenNames x; refine @cut kb s0 x _ ?_ (fun hx => ?_); unfold x; clear x; rotate_left; clear_value x; rotate_right) | (extract_lets +onlyGivenNames x; clear_value x) | with_reducible apply rxEvent_keeps | with_reducible apply State.wb_keeps | with_reducible apply ite_keeps | split)
theorem rxForget_keeps {a0} (h : Keeps kb s0 s) : Keeps kb s0 (rxForget a0 s) := by
  unfold rxForget
  repeat' (first | with_reducible assumption | (extract_lets +onlyGivenNames x; refine @cut kb s0 x _ ?_ (fun hx => ?_); unfold x; clear x; rotate_left; clear_value x; rotate_right) | (extract_lets +onlyGivenNames x; clear_value x) | with_reducible apply State.onRx_keeps | with_reducible apply ite_keeps | split)
theorem rxBlank_keeps {a0} (h : Keeps kb s0 s) : Keeps kb s0 (rxBlank a0 s) := by
  unfold rxBlank
  repeat' (first | with_reducible assumption | (extract_lets +onlyGivenNames x; refine @cut kb s0 x _ ?_ (fun hx => ?_); unfold x; clear x; rotate_left; clear_value x; rotate_right) | (extract_lets +onlyGivenNames x; clear_value x) | with_reducible apply State.onRx_keeps | with_reducible apply ite_keeps | split)
theorem rxSet_keeps {a0 a1} (h : Keeps kb s0 s) : Keeps kb s0 (rxSet a0 a1 s) := by
  unfold rxSet
  repeat' (first | with_reducible assumption | (extract_lets +onlyGivenNames x; refine @cut kb s0 x _ ?_ (fun hx => ?_); unfold x; clear x; rotate_left; clear_value x; rotate_right) | (extract_lets +onlyGivenNames x; clear_value x) | with_reducible apply State.wr_keeps | with_reducible apply State.cntr_keeps | with_reducible apply State.ww_keeps | with_reducible apply State.wb_keeps | with_reducible apply State.onRx_keeps | with_reducible apply rxEvent_keeps | with_reducible apply ite_keeps | split)
theorem rxPool_keeps  (h : Keeps kb s0 s) : Keeps kb s0 (rxPool s) := by
  unfold rxPool
  repeat' (first | with_reducible assumption | (extract_lets +onlyGivenNames x; refine @cut kb s0 x _ ?_ (fun hx => ?_); unfold x; clear x; rotate_left; clear_value x; rotate_right) | (extract_lets +onlyGivenNames x; clear_value x) | with_reducible apply State.wr_keeps | with_reducible apply ite_keeps | split)
theorem rxDisable_keeps {a0} (h : Keeps kb s0 s) : Keeps kb s0 (rxDisable a0 s) := by
  unfold rxDisable
  repeat' (first | with_reducible assumption | (extract_lets +onlyGivenNames x; refine @cut kb s0 x _ ?_ (fun hx => ?_); unfold x; clear x; rotate_left; clear_value x; rotate_right) | (extract_lets +onlyGivenNames x; clear_value x) | with_reducible apply srcGive_keeps | with_reducible apply useGive_keeps | with_reducible apply rxForget_keeps | with_reducible apply rxBlank_keeps | with_reducible apply State.wb_keeps | with_reducible apply planeSet_keeps | with_reducible apply State.onRx_keeps | with_reducible apply rxSet_keeps | with_reducible apply rxPool_keeps | with_reducible apply State.ww_keeps | with_reducible apply ite_keeps | split)
theorem rxEnable_keeps {a0 a1 a2} (h : Keeps kb s0 s) : Keeps kb s0 (rxEnable a0 a1 a2 s) := by
  unfold rxEnable
  repeat' (first | with_reducible assumption | (extract_lets +onlyGivenNames x; refine @cut kb s0 x _ ?_ (fun hx => ?_); unfold x; clear x; rotate_left; clear_value x; rotate_right) | (extract_lets +onlyGivenNames x; clear_value x) | with_reducible apply srcTake_keeps | with_reducible apply useTake_keeps | with_reducible apply rxForget_keeps | with_reducible apply State.ww_keeps | with_reducible apply State.wb_keeps | with_reducible apply rxSet_keeps | with_reducible apply rxPool_keeps | with_reducible apply State.onRx_keeps | with_reducible apply ite_keeps | split)
theorem rxCommit_keeps' {a0 a1 a2} (h : Keeps kb s0 s) : KeepsE kb s0 (rxCommit a0 a1 a2 s) := by
  unfold rxCommit
  repeat' (first | with_reducible apply ok_keeps | with_reducible apply error_keeps | with_reducible apply iteE_keeps | with_reducible assumption | (extract_lets +onlyGivenNames x; refine @cut kb s0 x _ ?_ (fun hx => ?_); unfold x; clear x; rotate_left; clear_value x; rotate_right) | (extract_lets +onlyGivenNames x; clear_value x) | with_reducible apply rxStore_keeps | with_reducible refine State.each_keeps ?_ (fun _ _ _ => ?_) | with_reducible apply planeSet_keeps | with_reducible apply rxDisable_keeps | with_reducible apply rxEnable_keeps | split)
theorem rxCommit_keeps {a0 a1 a2} {t} (h : Keeps kb s0 s) (e : rxCommit a0 a1 a2 s = .ok t) : Keeps kb s0 t := by
  have k : KeepsE kb s0 (rxCommit a0 a1 a2 s) := rxCommit_keeps' h; rw [e] at k; exact ok_elim k
theorem rxCommitTick_keeps  (h : Keeps kb s0 s) : Keeps kb s0 (rxCommitTick s) := by
  unfold rxCommitTick
  repeat' (first | with_reducible assumption | (extract_lets +onlyGivenNames x; refine @cut kb s0 x _ ?_ (fun hx => ?_); unfold x; clear x; rotate_left; clear_value x; rotate_right) | (extract_lets +onlyGivenNames x; clear_value x) | with_reducible apply State.wb_keeps | with_reducible apply State.onRx_keeps | with_reducible refine rxCommit_keeps ?_ (by assumption) | with_reducible apply State.wr_keeps | with_reducible apply State.raise_keeps | with_reducible apply ite_keeps | split)
theorem rxLockTick_keeps  (h : Keeps kb s0 s) : Keeps kb s0 (rxLockTick s) := by
  unfold rxLockTick
  repeat' (first | with_reducible assumption | (extract_lets +onlyGivenNames x; refine @cut kb s0 x _ ?_ (fun hx => ?_); unfold x; clear x; rotate_left; clear_value x; rotate_right) | (extract_lets +onlyGivenNames x; clear_value x) | with_reducible refine State.each_keeps ?_ (fun _ _ _ => ?_) | with_reducible apply State.onRx_keeps | with_reducible apply rxEvent_keeps | with_reducible apply State.wb_keeps | with_reducible apply ite_keeps | split)
theorem rxTick_keeps  (h : Keeps kb s0 s) : Keeps kb s0 (rxTick s) := by
  unfold rxTick
  repeat' (first | with_reducible assumption | (extract_lets +onlyGivenNames x; refine @cut kb s0 x _ ?_ (fun hx => ?_); unfold x; clear x; rotate_left; clear_value x; rotate_right) | (extract_lets +onlyGivenNames x; clear_value x) | with_reducible refine State.each_keeps ?_ (fun _ _ _ => ?_) | with_reducible apply rxSet_keeps | with_reducible apply ite_keeps | split)
theorem regRxCommit_keeps {a0 a1} (h : Keeps kb s0 s) : Keeps kb s0 (regRxCommit a0 a1 s) := by
  unfold regRxCommit
  repeat' (first | with_reducible assumption | (extract_lets +onlyGivenNames x; refine @cut kb s0 x _ ?_ (fun hx => ?_); unfold x; clear x; rotate_left; clear_value x; rotate_right) | (extract_lets +onlyGivenNames x; clear_value x) | with_reducible apply State.onRx_keeps | with_reducible apply State.wb_keeps | with_reducible apply ite_keeps | split)
theorem regRxLoad_keeps {a0 a1} (h : Keeps kb s0 s) : Keeps kb s0 (regRxLoad a0 a1 s) := by
  unfold regRxLoad
  repeat' (first | with_reducible assumption | (extract_lets +onlyGivenNames x; refine @cut kb s0 x _ ?_ (fun hx => ?_); unfold x; clear x; rotate_left; clear_value x; rotate_right) | (extract_lets +onlyGivenNames x; clear_value x) | with_reducible apply State.wr_keeps | with_reducible apply entryCopy_keeps | with_reducible apply ite_keeps | split)
theorem rxCnt_keeps {a0 a1 a2} (h : Keeps kb s0 s) : Keeps kb s0 (rxCnt a0 a1 a2 s) := by
  unfold rxCnt
  repeat' (first | with_reducible assumption | (extract_lets +onlyGivenNames x; refine @cut kb s0 x _ ?_ (fun hx => ?_); unfold x; clear x; rotate_left; clear_value x; rotate_right) | (extract_lets +onlyGivenNames x; clear_value x) | with_reducible apply State.cntr_keeps | with_reducible apply ite_keeps | split)
theorem rxRealign_keeps {a0 a1 a2} (h : Keeps kb s0 s) : Keeps kb s0 (rxRealign a0 a1 a2 s) := by
  unfold rxRealign
  repeat' (first | with_reducible assumption | (extract_lets +onlyGivenNames x; refine @cut kb s0 x _ ?_ (fun hx => ?_); unfold x; clear x; rotate_left; clear_value x; rotate_right) | (extract_lets +onlyGivenNames x; clear_value x) | with_reducible apply State.onRx_keeps | with_reducible apply loopStart_keeps | with_reducible apply State.ww_keeps | with_reducible apply rxEvent_keeps | with_reducible apply State.cntr_keeps | with_reducible apply ite_keeps | split)
theorem rxSkew_keeps {a0 a1 a2} (h : Keeps kb s0 s) : Keeps kb s0 (rxSkew a0 a1 a2 s) := by
  unfold rxSkew
  repeat' (first | with_reducible assumption | (extract_lets +onlyGivenNames x; refine @cut kb s0 x _ ?_ (fun hx => ?_); unfold x; clear x; rotate_left; clear_value x; rotate_right) | (extract_lets +onlyGivenNames x; clear_value x) | with_reducible apply State.ww_keeps | with_reducible apply State.onRx_keeps | with_reducible apply ite_keeps | split)
theorem rxWrite_keeps {a0 a1 a2 a3 a4 a5} (h : Keeps kb s0 s) : Keeps kb s0 (rxWrite a0 a1 a2 a3 a4 a5 s) := by
  unfold rxWrite
  repeat' (first | with_reducible assumption | (extract_lets +onlyGivenNames x; refine @cut kb s0 x _ ?_ (fun hx => ?_); unfold x; clear x; rotate_left; clear_value x; rotate_right) | (extract_lets +onlyGivenNames x; clear_value x) | with_reducible apply State.onRx_keeps | with_reducible apply ite_keeps | split)
theorem rxPacket_keeps {a0 a1 a2 a3} (h : Keeps kb s0 s) : Keeps kb s0 (rxPacket a0 a1 a2 a3 s) := by
  unfold rxPacket
  repeat' (first | with_reducible assumption | (extract_lets +onlyGivenNames x; refine @cut kb s0 x _ ?_ (fun hx => ?_); unfold x; clear x; rotate_left; clear_value x; rotate_right) | (extract_lets +onlyGivenNames x; clear_value x) | with_reducible apply rxCnt_keeps | with_reducible apply State.cntr_keeps | with_reducible apply State.onRx_keeps | with_reducible apply rxEvent_keeps | with_reducible apply rxRealign_keeps | with_reducible apply planeSet_keeps | with_reducible apply State.ww_keeps | with_reducible refine State.each_keeps ?_ (fun _ _ _ => ?_) | with_reducible apply rxSkew_keeps | with_reducible apply rxWrite_keeps | with_reducible apply measure_keeps | with_reducible apply State.wb_keeps | with_reducible apply rxSet_keeps | with_reducible apply ite_keeps | split)
theorem rxJudge_keeps  (h : Keeps kb s0 s) : Keeps kb s0 (rxJudge s) := by
  unfold rxJudge
  repeat' (first | with_reducible assumption | (extract_lets +onlyGivenNames x; refine @cut kb s0 x _ ?_ (fun hx => ?_); unfold x; clear x; rotate_left; clear_value x; rotate_right) | (extract_lets +onlyGivenNames x; clear_value x) | with_reducible refine State.each_keeps ?_ (fun _ _ _ => ?_) | with_reducible apply State.onRx_keeps | with_reducible apply rxPacket_keeps | with_reducible apply ite_keeps | split)
theorem rxArrive_keeps {a0 a1 a2 a3} (h : Keeps kb s0 s) : Keeps kb s0 (rxArrive a0 a1 a2 a3 s) := by
  unfold rxArrive
  repeat' (first | with_reducible assumption | (extract_lets +onlyGivenNames x; refine @cut kb s0 x _ ?_ (fun hx => ?_); unfold x; clear x; rotate_left; clear_value x; rotate_right) | (extract_lets +onlyGivenNames x; clear_value x) | with_reducible apply State.onRx_keeps | with_reducible apply ite_keeps | split)
theorem queryReceive_keeps {a0 a1 a2 a3} (h : Keeps kb s0 s) : Keeps kb s0 (queryReceive a0 a1 a2 a3 s) := by
  unfold queryReceive
  repeat' (first | with_reducible assumption | (extract_lets +onlyGivenNames x; refine @cut kb s0 x _ ?_ (fun hx => ?_); unfold x; clear x; rotate_left; clear_value x; rotate_right) | (extract_lets +onlyGivenNames x; clear_value x) | with_reducible apply State.onRx_keeps | with_reducible apply ite_keeps | split)
theorem sapEvent_keeps {a0 a1} (h : Keeps kb s0 s) : Keeps kb s0 (sapEvent a0 a1 s) := by
  unfold sapEvent
  repeat' (first | with_reducible assumption | (extract_lets +onlyGivenNames x; refine @cut kb s0 x _ ?_ (fun hx => ?_); unfold x; clear x; rotate_left; clear_value x; rotate_right) | (extract_lets +onlyGivenNames x; clear_value x) | with_reducible refine State.each_keeps ?_ (fun _ _ _ => ?_) | with_reducible apply rxEvent_keeps | with_reducible apply ite_keeps | split)
theorem sapReceive_keeps {a0} (h : Keeps kb s0 s) : Keeps kb s0 (sapReceive a0 s) := by
  unfold sapReceive
  repeat' (first | with_reducible assumption | (extract_lets +onlyGivenNames x; refine @cut kb s0 x _ ?_ (fun hx => ?_); unfold x; clear x; rotate_left; clear_value x; rotate_right) | (extract_lets +onlyGivenNames x; clear_value x) | with_reducible apply sapEvent_keeps | with_reducible apply State.onRx_keeps | with_reducible apply ite_keeps | split)
theorem rxClear_keeps {a0} (h : Keeps kb s0 s) : Keeps kb s0 (rxClear a0 s) := by
  unfold rxClear
  repeat' (first | with_reducible assumption | (extract_lets +onlyGivenNames x; refine @cut kb s0 x _ ?_ (fun hx => ?_); unfold x; clear x; rotate_left; clear_value x; rotate_right) | (extract_lets +onlyGivenNames x; clear_value x) | with_reducible refine State.each_keeps ?_ (fun _ _ _ => ?_) | with_reducible apply State.pw_keeps | with_reducible apply State.ww_keeps | with_reducible apply ite_keeps | split)
theorem present1_keeps {i acc k} (h : Keeps kb s0 acc.2) : Keeps2 kb s0 (present1 i acc k) := by
  unfold present1
  repeat' (first | with_reducible assumption | (extract_lets +onlyGivenNames x; refine @cut kb s0 x _ ?_ (fun hx => ?_); unfold x; clear x; rotate_left; clear_value x; rotate_right) | (extract_lets +onlyGivenNames x; clear_value x) | with_reducible apply State.onRx_keeps | with_reducible apply State.cntr_keeps | with_reducible apply rxSet_keeps | with_reducible apply ite_keeps | with_reducible apply mk2_keeps | split)
theorem present_keeps {a1} (h : Keeps kb s0 s) : Keeps kb s0 (present s a1) := by
  unfold present
  repeat' (first | with_reducible assumption | (extract_lets +onlyGivenNames x; refine @cut kb s0 x _ ?_ (fun hx => ?_); unfold x; clear x; rotate_left; clear_value x; rotate_right) | (extract_lets +onlyGivenNames x; refine @cut1 kb _ s0 x _ ?_ (fun hx => ?_); unfold x; clear x; rotate_left; clear_value x; rotate_right) | (extract_lets +onlyGivenNames x; refine @cut2 kb _ s0 x _ ?_ (fun hx => ?_); unfold x; clear x; rotate_left; clear_value x; rotate_right) | (extract_lets +onlyGivenNames x; clear_value x) | with_reducible refine present1_keeps ?_ | with_reducible apply present1_keeps2 | with_reducible apply State.onRx_keeps | with_reducible refine State.each_keeps ?_ (fun _ _ _ => ?_) | with_reducible apply convKeep_keeps | with_reducible refine convert_keeps ?_ (by assumption) | with_reducible apply convert_keeps2 | with_reducible apply ite_keeps | with_reducible refine foldl2_keeps (fun _ _ _ => ?_) ?_ | with_reducible apply mk2_keeps | with_reducible apply present1_keeps' | with_reducible apply convert_keeps' | split | with_reducible apply mk1_keeps | with_reducible apply mk2_keeps)
theorem rxPresent_keeps  (h : Keeps kb s0 s) : Keeps kb s0 (rxPresent s) := by
  unfold rxPresent
  repeat' (first | with_reducible assumption | (extract_lets +onlyGivenNames x; refine @cut kb s0 x _ ?_ (fun hx => ?_); unfold x; clear x; rotate_left; clear_value x; rotate_right) | (extract_lets +onlyGivenNames x; clear_value x) | with_reducible refine State.each_keeps ?_ (fun _ _ _ => ?_) | with_reducible apply present_keeps | with_reducible apply ite_keeps | split)
theorem rxStart_keeps {a0} (h : Keeps kb s0 s) : Keeps kb s0 (rxStart a0 s) := by
  unfold rxStart
  repeat' (first | with_reducible assumption | (extract_lets +onlyGivenNames x; refine @cut kb s0 x _ ?_ (fun hx => ?_); unfold x; clear x; rotate_left; clear_value x; rotate_right) | (extract_lets +onlyGivenNames x; clear_value x) | with_reducible apply State.onRx_keeps | with_reducible apply State.wb_keeps | with_reducible apply ite_keeps | split)
theorem rxStop_keeps {a0} (h : Keeps kb s0 s) : Keeps kb s0 (rxStop a0 s) := by
  unfold rxStop
  repeat' (first | with_reducible assumption | (extract_lets +onlyGivenNames x; refine @cut kb s0 x _ ?_ (fun hx => ?_); unfold x; clear x; rotate_left; clear_value x; rotate_right) | (extract_lets +onlyGivenNames x; clear_value x) | with_reducible apply State.onRx_keeps | with_reducible apply State.wb_keeps | with_reducible apply ite_keeps | split)
theorem entryReset_keeps {a0 a1 a2} (h : Keeps kb s0 s) : Keeps kb s0 (entryReset a0 a1 a2 s) := by
  unfold entryReset
  repeat' (first | with_reducible assumption | (extract_lets +onlyGivenNames x; refine @cut kb s0 x _ ?_ (fun hx => ?_); unfold x; clear x; rotate_left; clear_value x; rotate_right) | (extract_lets +onlyGivenNames x; clear_value x) | with_reducible refine State.each_keeps ?_ (fun _ _ _ => ?_) | with_reducible apply State.pw_keeps | with_reducible apply ite_keeps | split)
theorem entryStage_keeps {a0 a1 a2 a3} (h : Keeps kb s0 s) : Keeps kb s0 (entryStage a0 a1 a2 a3 s) := by
  unfold entryStage
  repeat' (first | with_reducible assumption | (extract_lets +onlyGivenNames x; refine @cut kb s0 x _ ?_ (fun hx => ?_); unfold x; clear x; rotate_left; clear_value x; rotate_right) | (extract_lets +onlyGivenNames x; clear_value x) | with_reducible apply entryCopy_keeps | with_reducible apply entryReset_keeps | with_reducible refine State.each_keeps ?_ (fun _ _ _ => ?_) | with_reducible apply State.pw_keeps | with_reducible apply ite_keeps | split)
theorem evtTake_keeps {a0} (h : Keeps kb s0 s) : Keeps kb s0 (evtTake a0 s) := by
  unfold evtTake
  repeat' (first | with_reducible assumption | (extract_lets +onlyGivenNames x; refine @cut kb s0 x _ ?_ (fun hx => ?_); unfold x; clear x; rotate_left; clear_value x; rotate_right) | (extract_lets +onlyGivenNames x; clear_value x) | with_reducible apply State.onRx_keeps | with_reducible apply State.wr_keeps | with_reducible apply ite_keeps | split)
theorem execSapSessionExpire_next {a0} (h : Keeps kb s0 s) : ∃ t, execSapSessionExpire a0 s = .next t ∧ Keeps kb s0 t := by
  refine ⟨_, rfl, ?_⟩
  repeat' (first | with_reducible assumption | (extract_lets +onlyGivenNames x; refine @cut kb s0 x _ ?_ (fun hx => ?_); unfold x; clear x; rotate_left; clear_value x; rotate_right) | (extract_lets +onlyGivenNames x; clear_value x) | with_reducible refine awake_keeps ?_ ?_ | with_reducible apply State.onRx_keeps | with_reducible apply ite_keeps | split)
theorem groupReport_keeps {a0 a1 a2} (h : Keeps kb s0 s) : Keeps kb s0 (groupReport a0 a1 a2 s) := by
  unfold groupReport
  repeat' (first | with_reducible assumption | (extract_lets +onlyGivenNames x; refine @cut kb s0 x _ ?_ (fun hx => ?_); unfold x; clear x; rotate_left; clear_value x; rotate_right) | (extract_lets +onlyGivenNames x; clear_value x) | with_reducible refine State.each_keeps ?_ (fun _ _ _ => ?_) | with_reducible apply txMgmt_keeps | with_reducible apply ite_keeps | split)
theorem groupLeave_keeps {a0} (h : Keeps kb s0 s) : Keeps kb s0 (groupLeave a0 s) := by
  unfold groupLeave
  repeat' (first | with_reducible assumption | (extract_lets +onlyGivenNames x; refine @cut kb s0 x _ ?_ (fun hx => ?_); unfold x; clear x; rotate_left; clear_value x; rotate_right) | (extract_lets +onlyGivenNames x; clear_value x) | with_reducible apply groupReport_keeps | with_reducible apply ite_keeps | split)
theorem memberSync_keeps {a0 a1} (h : Keeps kb s0 s) : Keeps kb s0 (memberSync a0 a1 s) := by
  unfold memberSync
  repeat' (first | with_reducible assumption | (extract_lets +onlyGivenNames x; refine @cut kb s0 x _ ?_ (fun hx => ?_); unfold x; clear x; rotate_left; clear_value x; rotate_right) | (extract_lets +onlyGivenNames x; clear_value x) | with_reducible apply State.onRx_keeps | with_reducible refine State.each_keeps ?_ (fun _ _ _ => ?_) | with_reducible apply groupLeave_keeps | with_reducible apply groupReport_keeps | with_reducible apply ite_keeps | split)
theorem execMulticastJoin_next {a0 a1} (h : Keeps kb s0 s) : ∃ t, execMulticastJoin a0 a1 s = .next t ∧ Keeps kb s0 t := by
  refine ⟨_, rfl, ?_⟩
  repeat' (first | with_reducible assumption | (extract_lets +onlyGivenNames x; refine @cut kb s0 x _ ?_ (fun hx => ?_); unfold x; clear x; rotate_left; clear_value x; rotate_right) | (extract_lets +onlyGivenNames x; clear_value x) | with_reducible refine awake_keeps ?_ ?_ | with_reducible apply memberSync_keeps | with_reducible apply ite_keeps | split)
theorem queryAnswer_keeps {a0} (h : Keeps kb s0 s) : Keeps kb s0 (queryAnswer a0 s) := by
  unfold queryAnswer
  repeat' (first | with_reducible assumption | (extract_lets +onlyGivenNames x; refine @cut kb s0 x _ ?_ (fun hx => ?_); unfold x; clear x; rotate_left; clear_value x; rotate_right) | (extract_lets +onlyGivenNames x; clear_value x) | with_reducible apply State.onRx_keeps | with_reducible apply groupReport_keeps | with_reducible apply ite_keeps | split)
theorem reportAgain_keeps {a0} (h : Keeps kb s0 s) : Keeps kb s0 (reportAgain a0 s) := by
  unfold reportAgain
  repeat' (first | with_reducible assumption | (extract_lets +onlyGivenNames x; refine @cut kb s0 x _ ?_ (fun hx => ?_); unfold x; clear x; rotate_left; clear_value x; rotate_right) | (extract_lets +onlyGivenNames x; clear_value x) | with_reducible apply State.onRx_keeps | with_reducible apply groupReport_keeps | with_reducible apply ite_keeps | split)
theorem execMembershipReport_next {a0 a1 a2} (h : Keeps kb s0 s) : ∃ t, execMembershipReport a0 a1 a2 s = .next t ∧ Keeps kb s0 t := by
  refine ⟨_, rfl, ?_⟩
  repeat' (first | with_reducible assumption | (extract_lets +onlyGivenNames x; refine @cut kb s0 x _ ?_ (fun hx => ?_); unfold x; clear x; rotate_left; clear_value x; rotate_right) | (extract_lets +onlyGivenNames x; clear_value x) | with_reducible refine awake_keeps ?_ ?_ | with_reducible apply queryAnswer_keeps | with_reducible apply reportAgain_keeps | with_reducible apply ite_keeps | split)
theorem execStreamGap_next {a0 a1} (h : Keeps kb s0 s) : ∃ t, execStreamGap a0 a1 s = .next t ∧ Keeps kb s0 t := by
  refine ⟨_, rfl, ?_⟩
  repeat' (first | with_reducible assumption | (extract_lets +onlyGivenNames x; refine @cut kb s0 x _ ?_ (fun hx => ?_); unfold x; clear x; rotate_left; clear_value x; rotate_right) | (extract_lets +onlyGivenNames x; clear_value x) | with_reducible refine awake_keeps ?_ ?_ | with_reducible apply rxJudge_keeps | with_reducible apply rxSet_keeps | with_reducible apply ite_keeps | split)
theorem execPlaneChg_next {a0 a1 a2} (h : Keeps kb s0 s) : ∃ t, execPlaneChg a0 a1 a2 s = .next t ∧ Keeps kb s0 t := by
  refine ⟨_, rfl, ?_⟩
  repeat' (first | with_reducible assumption | (extract_lets +onlyGivenNames x; refine @cut kb s0 x _ ?_ (fun hx => ?_); unfold x; clear x; rotate_left; clear_value x; rotate_right) | (extract_lets +onlyGivenNames x; clear_value x) | with_reducible refine awake_keeps ?_ ?_ | with_reducible apply rxJudge_keeps | with_reducible apply planeSet_keeps | with_reducible apply ite_keeps | split)
theorem streamArm_keeps {a0 a1 a2 a3 a4} (h : Keeps kb s0 s) : Keeps kb s0 (streamArm a0 a1 a2 a3 a4 s) := by
  unfold streamArm
  repeat' (first | with_reducible assumption | (extract_lets +onlyGivenNames x; refine @cut kb s0 x _ ?_ (fun hx => ?_); unfold x; clear x; rotate_left; clear_value x; rotate_right) | (extract_lets +onlyGivenNames x; clear_value x) | with_reducible refine runCmd_keeps (hb := fun _ _ _ => ?_) ?_ | with_reducible apply armNew_keeps | with_reducible exact no_keeps | with_reducible apply ite_keeps | split)
theorem execStreamStart_next {a0 a1 a2 a3} (h : Keeps kb s0 s) : ∃ t, execStreamStart a0 a1 a2 a3 s = .next t ∧ Keeps kb s0 t := by
  refine ⟨_, rfl, ?_⟩
  repeat' (first | with_reducible assumption | (extract_lets +onlyGivenNames x; refine @cut kb s0 x _ ?_ (fun hx => ?_); unfold x; clear x; rotate_left; clear_value x; rotate_right) | (extract_lets +onlyGivenNames x; clear_value x) | with_reducible apply streamArm_keeps | with_reducible apply ite_keeps | split)
theorem execStreamStop_next {a0 a1 a2 a3} (h : Keeps kb s0 s) : ∃ t, execStreamStop a0 a1 a2 a3 s = .next t ∧ Keeps kb s0 t := by
  refine ⟨_, rfl, ?_⟩
  repeat' (first | with_reducible assumption | (extract_lets +onlyGivenNames x; refine @cut kb s0 x _ ?_ (fun hx => ?_); unfold x; clear x; rotate_left; clear_value x; rotate_right) | (extract_lets +onlyGivenNames x; clear_value x) | with_reducible apply streamArm_keeps | with_reducible apply ite_keeps | split)
theorem rxCommitRes_keeps {a0 a1 a2 a3 a4} (hk : ∀ s, Keeps kb s0 s → Keeps kb s0 (a4 s)) (h : Keeps kb s0 s) : ResKeeps kb s0 (rxCommitRes a0 a1 a2 a3 a4 s) := by
  unfold rxCommitRes
  repeat' (first | with_reducible assumption | (extract_lets +onlyGivenNames x; refine @cut kb s0 x _ ?_ (fun hx => ?_); unfold x; clear x; rotate_left; clear_value x; rotate_right) | (extract_lets +onlyGivenNames x; clear_value x) | with_reducible refine hk _ ?_ | with_reducible refine rxCommit_keeps ?_ (by assumption) | with_reducible apply entryStage_keeps | with_reducible apply entryReset_keeps | with_reducible exact no_keeps | with_reducible apply resOk_keeps | with_reducible apply iteR_keeps | split)
theorem rxAddBody_keeps {a0 a1 a2} (h : Keeps kb s0 s) : ResKeeps kb s0 (rxAddBody a0 a1 a2 s) := by
  unfold rxAddBody
  repeat' (first | with_reducible assumption | (extract_lets +onlyGivenNames x; refine @cut kb s0 x _ ?_ (fun hx => ?_); unfold x; clear x; rotate_left; clear_value x; rotate_right) | (extract_lets +onlyGivenNames x; clear_value x) | with_reducible refine rxCommitRes_keeps (hk := fun _ _ => ?_) ?_ | with_reducible apply State.onRx_keeps | with_reducible apply rxJudge_keeps | with_reducible exact no_keeps | with_reducible apply iteR_keeps | with_reducible apply id_keeps | split)
theorem execStreamRxAdd_next {a0 a1 a2} (h : Keeps kb s0 s) : ∃ t, execStreamRxAdd a0 a1 a2 s = .next t ∧ Keeps kb s0 t := by
  refine ⟨_, rfl, ?_⟩
  repeat' (first | with_reducible assumption | (extract_lets +onlyGivenNames x; refine @cut kb s0 x _ ?_ (fun hx => ?_); unfold x; clear x; rotate_left; clear_value x; rotate_right) | (extract_lets +onlyGivenNames x; clear_value x) | with_reducible refine runCmd_keeps (hb := fun _ _ _ => ?_) ?_ | with_reducible apply rxAddBody_keeps | with_reducible apply ite_keeps | split)
theorem rxSdpBody_keeps {a0 a1 a2 a3} (h : Keeps kb s0 s) : ResKeeps kb s0 (rxSdpBody a0 a1 a2 a3 s) := by
  unfold rxSdpBody
  repeat' (first | with_reducible assumption | (extract_lets +onlyGivenNames x; refine @cut kb s0 x _ ?_ (fun hx => ?_); unfold x; clear x; rotate_left; clear_value x; rotate_right) | (extract_lets +onlyGivenNames x; clear_value x) | with_reducible refine rxCommitRes_keeps (hk := fun _ _ => ?_) ?_ | with_reducible apply State.onRx_keeps | with_reducible apply rxJudge_keeps | with_reducible exact no_keeps | with_reducible apply iteR_keeps | with_reducible apply id_keeps | split)
theorem execStreamRxSdp_next {a0 a1 a2 a3} (h : Keeps kb s0 s) : ∃ t, execStreamRxSdp a0 a1 a2 a3 s = .next t ∧ Keeps kb s0 t := by
  refine ⟨_, rfl, ?_⟩
  repeat' (first | with_reducible assumption | (extract_lets +onlyGivenNames x; refine @cut kb s0 x _ ?_ (fun hx => ?_); unfold x; clear x; rotate_left; clear_value x; rotate_right) | (extract_lets +onlyGivenNames x; clear_value x) | with_reducible refine runCmd_keeps (hb := fun _ _ _ => ?_) ?_ | with_reducible apply rxSdpBody_keeps | with_reducible apply ite_keeps | split)
theorem rxModifyBody_keeps {a0 a1 a2} (h : Keeps kb s0 s) : ResKeeps kb s0 (rxModifyBody a0 a1 a2 s) := by
  unfold rxModifyBody
  repeat' (first | with_reducible assumption | (extract_lets +onlyGivenNames x; refine @cut kb s0 x _ ?_ (fun hx => ?_); unfold x; clear x; rotate_left; clear_value x; rotate_right) | (extract_lets +onlyGivenNames x; clear_value x) | with_reducible refine rxCommitRes_keeps (hk := fun _ _ => ?_) ?_ | with_reducible apply rxJudge_keeps | with_reducible exact no_keeps | with_reducible apply iteR_keeps | with_reducible apply id_keeps | split)
theorem execStreamRxModify_next {a0 a1 a2} (h : Keeps kb s0 s) : ∃ t, execStreamRxModify a0 a1 a2 s = .next t ∧ Keeps kb s0 t := by
  refine ⟨_, rfl, ?_⟩
  repeat' (first | with_reducible assumption | (extract_lets +onlyGivenNames x; refine @cut kb s0 x _ ?_ (fun hx => ?_); unfold x; clear x; rotate_left; clear_value x; rotate_right) | (extract_lets +onlyGivenNames x; clear_value x) | with_reducible refine runCmd_keeps (hb := fun _ _ _ => ?_) ?_ | with_reducible apply rxModifyBody_keeps | with_reducible apply ite_keeps | split)
theorem rxRemoveBody_keeps {a0 a1} (h : Keeps kb s0 s) : ResKeeps kb s0 (rxRemoveBody a0 a1 s) := by
  unfold rxRemoveBody
  repeat' (first | with_reducible assumption | (extract_lets +onlyGivenNames x; refine @cut kb s0 x _ ?_ (fun hx => ?_); unfold x; clear x; rotate_left; clear_value x; rotate_right) | (extract_lets +onlyGivenNames x; clear_value x) | with_reducible apply done_keeps | with_reducible apply State.onRx_keeps | with_reducible apply State.ww_keeps | with_reducible apply entryReset_keeps | with_reducible apply rxDisable_keeps | with_reducible apply rxJudge_keeps | with_reducible exact no_keeps | with_reducible apply iteR_keeps | split)
theorem execStreamRxRemove_next {a0 a1} (h : Keeps kb s0 s) : ∃ t, execStreamRxRemove a0 a1 s = .next t ∧ Keeps kb s0 t := by
  refine ⟨_, rfl, ?_⟩
  repeat' (first | with_reducible assumption | (extract_lets +onlyGivenNames x; refine @cut kb s0 x _ ?_ (fun hx => ?_); unfold x; clear x; rotate_left; clear_value x; rotate_right) | (extract_lets +onlyGivenNames x; clear_value x) | with_reducible refine runCmd_keeps (hb := fun _ _ _ => ?_) ?_ | with_reducible apply rxRemoveBody_keeps | with_reducible apply ite_keeps | split)
theorem execStreamRxStatus_next {a0 a1} (h : Keeps kb s0 s) : ∃ t, execStreamRxStatus a0 a1 s = .next t ∧ Keeps kb s0 t := by
  refine ⟨_, rfl, ?_⟩
  repeat' (first | with_reducible assumption | (extract_lets +onlyGivenNames x; refine @cut kb s0 x _ ?_ (fun hx => ?_); unfold x; clear x; rotate_left; clear_value x; rotate_right) | (extract_lets +onlyGivenNames x; clear_value x) | with_reducible refine runCmd_keeps (hb := fun _ _ _ => ?_) ?_ | with_reducible apply retL_keeps | with_reducible exact no_keeps | with_reducible apply ite_keeps | split)
theorem execStreamRxCounters_next {a0 a1 a2} (h : Keeps kb s0 s) : ∃ t, execStreamRxCounters a0 a1 a2 s = .next t ∧ Keeps kb s0 t := by
  refine ⟨_, rfl, ?_⟩
  repeat' (first | with_reducible assumption | (extract_lets +onlyGivenNames x; refine @cut kb s0 x _ ?_ (fun hx => ?_); unfold x; clear x; rotate_left; clear_value x; rotate_right) | (extract_lets +onlyGivenNames x; clear_value x) | with_reducible refine runCmd_keeps (hb := fun _ _ _ => ?_) ?_ | with_reducible apply ret_keeps | with_reducible apply State.onCmd_keeps | with_reducible exact no_keeps | with_reducible apply ite_keeps | split)
theorem execSapConfig_next {a0 a1 a2} (h : Keeps kb s0 s) : ∃ t, execSapConfig a0 a1 a2 s = .next t ∧ Keeps kb s0 t := by
  refine ⟨_, rfl, ?_⟩
  repeat' (first | with_reducible assumption | (extract_lets +onlyGivenNames x; refine @cut kb s0 x _ ?_ (fun hx => ?_); unfold x; clear x; rotate_left; clear_value x; rotate_right) | (extract_lets +onlyGivenNames x; clear_value x) | with_reducible refine runCmd_keeps (hb := fun _ _ _ => ?_) ?_ | with_reducible apply done_keeps | with_reducible apply State.onRx_keeps | with_reducible exact no_keeps | with_reducible apply ite_keeps | split)
theorem execSapList_next {a0 a1} (h : Keeps kb s0 s) : ∃ t, execSapList a0 a1 s = .next t ∧ Keeps kb s0 t := by
  refine ⟨_, rfl, ?_⟩
  repeat' (first | with_reducible assumption | (extract_lets +onlyGivenNames x; refine @cut kb s0 x _ ?_ (fun hx => ?_); unfold x; clear x; rotate_left; clear_value x; rotate_right) | (extract_lets +onlyGivenNames x; clear_value x) | with_reducible refine runCmd_keeps (hb := fun _ _ _ => ?_) ?_ | with_reducible apply ret_keeps | with_reducible apply ite_keeps | split)
theorem execEvtFifoRead_next {a0} (h : Keeps kb s0 s) : ∃ t, execEvtFifoRead a0 s = .next t ∧ Keeps kb s0 t := by
  refine ⟨_, rfl, ?_⟩
  repeat' (first | with_reducible assumption | (extract_lets +onlyGivenNames x; refine @cut kb s0 x _ ?_ (fun hx => ?_); unfold x; clear x; rotate_left; clear_value x; rotate_right) | (extract_lets +onlyGivenNames x; clear_value x) | with_reducible refine awake_keeps ?_ ?_ | with_reducible apply evtTake_keeps | with_reducible apply ite_keeps | split)
theorem execRxCommit_next {a0 a1} (h : Keeps kb s0 s) : ∃ t, execRxCommit a0 a1 s = .next t ∧ Keeps kb s0 t := by
  refine ⟨_, rfl, ?_⟩
  repeat' (first | with_reducible assumption | (extract_lets +onlyGivenNames x; refine @cut kb s0 x _ ?_ (fun hx => ?_); unfold x; clear x; rotate_left; clear_value x; rotate_right) | (extract_lets +onlyGivenNames x; clear_value x) | with_reducible refine awake_keeps ?_ ?_ | with_reducible apply actNoted_keeps | with_reducible apply regRxCommit_keeps | with_reducible apply ite_keeps | split)
theorem execRxLoad_next {a0 a1} (h : Keeps kb s0 s) : ∃ t, execRxLoad a0 a1 s = .next t ∧ Keeps kb s0 t := by
  refine ⟨_, rfl, ?_⟩
  repeat' (first | with_reducible assumption | (extract_lets +onlyGivenNames x; refine @cut kb s0 x _ ?_ (fun hx => ?_); unfold x; clear x; rotate_left; clear_value x; rotate_right) | (extract_lets +onlyGivenNames x; clear_value x) | with_reducible refine awake_keeps ?_ ?_ | with_reducible apply regRxLoad_keeps | with_reducible apply ite_keeps | split)

end Sys2Proof.Machine
end

