-- ==== Sys2Proof/Laws/KeepsXpnt.lean ====
section
/-!
SUPPORT. Every operation of Machine/Xpnt.lean keeps what `Keeps` says.
-/
namespace Sys2Proof.Machine
set_option linter.all false
variable {kb : Prop} {s0 s : State}

theorem activity_keeps  (h : Keeps kb s0 s) : Keeps kb s0 (activity s) := by
  unfold activity
  repeat' (first | with_reducible assumption | (extract_lets +onlyGivenNames x; refine @cut kb s0 x _ ?_ (fun hx => ?_); unfold x; clear x; rotate_left; clear_value x; rotate_right) | (extract_lets +onlyGivenNames x; clear_value x) | with_reducible refine State.each_keeps ?_ (fun _ _ _ => ?_) | with_reducible apply State.onXp_keeps | with_reducible apply State.wb_keeps | with_reducible apply ite_keeps | split)
theorem allocTick_keeps  (h : Keeps kb s0 s) : Keeps kb s0 (allocTick s) := by
  unfold allocTick
  repeat' (first | with_reducible assumption | (extract_lets +onlyGivenNames x; refine @cut kb s0 x _ ?_ (fun hx => ?_); unfold x; clear x; rotate_left; clear_value x; rotate_right) | (extract_lets +onlyGivenNames x; clear_value x) | with_reducible apply State.wr_keeps | with_reducible refine State.each_keeps ?_ (fun _ _ _ => ?_) | with_reducible apply State.onXp_keeps | with_reducible apply State.wb_keeps | with_reducible apply State.raise_keeps | with_reducible apply ite_keeps | split)
theorem inClip_keeps {a0} (h : Keeps kb s0 s) : Keeps kb s0 (inClip a0 s) := by
  unfold inClip
  repeat' (first | with_reducible assumption | (extract_lets +onlyGivenNames x; refine @cut kb s0 x _ ?_ (fun hx => ?_); unfold x; clear x; rotate_left; clear_value x; rotate_right) | (extract_lets +onlyGivenNames x; clear_value x) | with_reducible apply State.onMet_keeps | with_reducible apply State.cntr_keeps | with_reducible apply State.raise_keeps | with_reducible apply ite_keeps | split)
theorem assemble1_keeps {a1} (h : Keeps kb s0 s) : Keeps kb s0 (assemble1 s a1) := by
  unfold assemble1
  repeat' (first | with_reducible assumption | (extract_lets +onlyGivenNames x; refine @cut kb s0 x _ ?_ (fun hx => ?_); unfold x; clear x; rotate_left; clear_value x; rotate_right) | (extract_lets +onlyGivenNames x; clear_value x) | with_reducible apply State.wb_keeps | with_reducible apply inClip_keeps | with_reducible apply State.onXp_keeps | with_reducible apply ite_keeps | split)
theorem assemble_keeps  (h : Keeps kb s0 s) : Keeps kb s0 (assemble s) := by
  unfold assemble
  repeat' (first | with_reducible assumption | (extract_lets +onlyGivenNames x; refine @cut kb s0 x _ ?_ (fun hx => ?_); unfold x; clear x; rotate_left; clear_value x; rotate_right) | (extract_lets +onlyGivenNames x; clear_value x) | with_reducible apply State.onXp_keeps | with_reducible refine State.each_keeps ?_ (fun _ _ _ => ?_) | with_reducible apply State.wb_keeps | with_reducible apply assemble1_keeps | with_reducible apply ite_keeps | split)
theorem trimTo_keeps {a0 a1} (h : Keeps kb s0 s) : Keeps kb s0 (trimTo a0 a1 s) := by
  unfold trimTo
  repeat' (first | with_reducible assumption | (extract_lets +onlyGivenNames x; refine @cut kb s0 x _ ?_ (fun hx => ?_); unfold x; clear x; rotate_left; clear_value x; rotate_right) | (extract_lets +onlyGivenNames x; clear_value x) | with_reducible apply State.onXp_keeps | with_reducible apply ite_keeps | split)
theorem inTrimFix_keeps {a0} (h : Keeps kb s0 s) : Keeps kb s0 (inTrimFix a0 s) := by
  unfold inTrimFix
  repeat' (first | with_reducible assumption | (extract_lets +onlyGivenNames x; refine @cut kb s0 x _ ?_ (fun hx => ?_); unfold x; clear x; rotate_left; clear_value x; rotate_right) | (extract_lets +onlyGivenNames x; clear_value x) | with_reducible apply trimTo_keeps | with_reducible apply ite_keeps | split)
theorem xinGive_keeps {a0 a1 a2} (h : Keeps kb s0 s) : Keeps kb s0 (xinGive a0 a1 a2 s) := by
  unfold xinGive
  repeat' (first | with_reducible assumption | (extract_lets +onlyGivenNames x; refine @cut kb s0 x _ ?_ (fun hx => ?_); unfold x; clear x; rotate_left; clear_value x; rotate_right) | (extract_lets +onlyGivenNames x; clear_value x) | with_reducible apply useTake_keeps | with_reducible apply useGive_keeps | with_reducible apply State.wb_keeps | with_reducible apply State.wr_keeps | with_reducible apply State.ww_keeps | with_reducible apply State.onHeld_keeps | with_reducible apply inTrimFix_keeps | with_reducible apply State.onMet_keeps | with_reducible apply ite_keeps | split)
theorem assignTick_keeps  (h : Keeps kb s0 s) : Keeps kb s0 (assignTick s) := by
  unfold assignTick
  repeat' (first | with_reducible assumption | (extract_lets +onlyGivenNames x; refine @cut kb s0 x _ ?_ (fun hx => ?_); unfold x; clear x; rotate_left; clear_value x; rotate_right) | (extract_lets +onlyGivenNames x; clear_value x) | with_reducible refine State.each_keeps ?_ (fun _ _ _ => ?_) | with_reducible apply State.wb_keeps | with_reducible apply xinGive_keeps | with_reducible apply State.onXp_keeps | with_reducible apply ite_keeps | split)
theorem setBank_keeps {a0 a1 a2} (h : Keeps kb s0 s) : Keeps kb s0 (setBank a0 a1 a2 s) := by
  unfold setBank
  repeat' (first | with_reducible assumption | (extract_lets +onlyGivenNames x; refine @cut kb s0 x _ ?_ (fun hx => ?_); unfold x; clear x; rotate_left; clear_value x; rotate_right) | (extract_lets +onlyGivenNames x; clear_value x) | with_reducible apply State.onScn_keeps | with_reducible apply ite_keeps | split)
theorem staleSet_keeps {a0 a1} (h : Keeps kb s0 s) : Keeps kb s0 (staleSet a0 a1 s) := by
  unfold staleSet
  repeat' (first | with_reducible assumption | (extract_lets +onlyGivenNames x; refine @cut kb s0 x _ ?_ (fun hx => ?_); unfold x; clear x; rotate_left; clear_value x; rotate_right) | (extract_lets +onlyGivenNames x; clear_value x) | with_reducible apply State.onScn_keeps | with_reducible apply ite_keeps | split)
theorem versoPut_keeps {a0 a1 a2 a3} (h : Keeps kb s0 s) : Keeps kb s0 (versoPut a0 a1 a2 a3 s) := by
  unfold versoPut
  repeat' (first | with_reducible assumption | (extract_lets +onlyGivenNames x; refine @cut kb s0 x _ ?_ (fun hx => ?_); unfold x; clear x; rotate_left; clear_value x; rotate_right) | (extract_lets +onlyGivenNames x; clear_value x) | with_reducible apply setBank_keeps | with_reducible apply staleSet_keeps | with_reducible apply ite_keeps | split)
theorem versoEqual_keeps {a0} (h : Keeps kb s0 s) : Keeps kb s0 (versoEqual a0 s) := by
  unfold versoEqual
  repeat' (first | with_reducible assumption | (extract_lets +onlyGivenNames x; refine @cut kb s0 x _ ?_ (fun hx => ?_); unfold x; clear x; rotate_left; clear_value x; rotate_right) | (extract_lets +onlyGivenNames x; clear_value x) | with_reducible apply staleSet_keeps | with_reducible apply setBank_keeps | with_reducible apply ite_keeps | split)
theorem pendSticky_keeps {a0 a1 a2} (h : Keeps kb s0 s) : Keeps kb s0 (pendSticky a0 a1 a2 s) := by
  unfold pendSticky
  repeat' (first | with_reducible assumption | (extract_lets +onlyGivenNames x; refine @cut kb s0 x _ ?_ (fun hx => ?_); unfold x; clear x; rotate_left; clear_value x; rotate_right) | (extract_lets +onlyGivenNames x; clear_value x) | with_reducible apply State.raise_keeps | with_reducible apply State.wb_keeps | with_reducible apply ite_keeps | split)
theorem selDeny_keeps {a0} (h : Keeps kb s0 s) : Keeps kb s0 (selDeny a0 s) := by
  unfold selDeny
  repeat' (first | with_reducible assumption | (extract_lets +onlyGivenNames x; refine @cut kb s0 x _ ?_ (fun hx => ?_); unfold x; clear x; rotate_left; clear_value x; rotate_right) | (extract_lets +onlyGivenNames x; clear_value x) | with_reducible apply pendSticky_keeps | with_reducible apply ite_keeps | split)
theorem selErr_keeps {a0} (h : Keeps kb s0 s) : Keeps kb s0 (selErr a0 s) := by
  unfold selErr
  repeat' (first | with_reducible assumption | (extract_lets +onlyGivenNames x; refine @cut kb s0 x _ ?_ (fun hx => ?_); unfold x; clear x; rotate_left; clear_value x; rotate_right) | (extract_lets +onlyGivenNames x; clear_value x) | with_reducible apply pendSticky_keeps | with_reducible apply ite_keeps | split)
theorem pendLevel_keeps  (h : Keeps kb s0 s) : Keeps kb s0 (pendLevel s) := by
  unfold pendLevel
  repeat' (first | with_reducible assumption | (extract_lets +onlyGivenNames x; refine @cut kb s0 x _ ?_ (fun hx => ?_); unfold x; clear x; rotate_left; clear_value x; rotate_right) | (extract_lets +onlyGivenNames x; clear_value x) | with_reducible refine State.each_keeps ?_ (fun _ _ _ => ?_) | with_reducible apply State.wr_keeps | with_reducible apply ite_keeps | split)
theorem dDeny_keeps {a0} (h : Keeps kb s0 s) : Keeps kb s0 (dDeny a0 s) := by
  unfold dDeny
  repeat' (first | with_reducible assumption | (extract_lets +onlyGivenNames x; refine @cut kb s0 x _ ?_ (fun hx => ?_); unfold x; clear x; rotate_left; clear_value x; rotate_right) | (extract_lets +onlyGivenNames x; clear_value x) | with_reducible apply State.raise_keeps | with_reducible apply State.wb_keeps | with_reducible apply ite_keeps | split)
theorem popCountAll_keeps {a0 a1} (h : Keeps kb s0 s) : Keeps kb s0 (popCountAll a0 a1 s) := by
  unfold popCountAll
  repeat' (first | with_reducible assumption | (extract_lets +onlyGivenNames x; refine @cut kb s0 x _ ?_ (fun hx => ?_); unfold x; clear x; rotate_left; clear_value x; rotate_right) | (extract_lets +onlyGivenNames x; clear_value x) | with_reducible refine State.each_keeps ?_ (fun _ _ _ => ?_) | with_reducible apply State.onXp_keeps | with_reducible apply ite_keeps | split)
theorem popTick1_keeps {a1} (h : Keeps kb s0 s) : Keeps kb s0 (popTick1 s a1) := by
  unfold popTick1
  repeat' (first | with_reducible assumption | (extract_lets +onlyGivenNames x; refine @cut kb s0 x _ ?_ (fun hx => ?_); unfold x; clear x; rotate_left; clear_value x; rotate_right) | (extract_lets +onlyGivenNames x; clear_value x) | with_reducible apply State.wr_keeps | with_reducible apply State.onXp_keeps | with_reducible apply ite_keeps | split)
theorem popTick_keeps  (h : Keeps kb s0 s) : Keeps kb s0 (popTick s) := by
  unfold popTick
  repeat' (first | with_reducible assumption | (extract_lets +onlyGivenNames x; refine @cut kb s0 x _ ?_ (fun hx => ?_); unfold x; clear x; rotate_left; clear_value x; rotate_right) | (extract_lets +onlyGivenNames x; clear_value x) | with_reducible apply State.onXp_keeps | with_reducible refine State.each_keeps ?_ (fun _ _ _ => ?_) | with_reducible apply popTick1_keeps | with_reducible apply ite_keeps | split)
theorem outTrimFix_keeps {a0} (h : Keeps kb s0 s) : Keeps kb s0 (outTrimFix a0 s) := by
  unfold outTrimFix
  repeat' (first | with_reducible assumption | (extract_lets +onlyGivenNames x; refine @cut kb s0 x _ ?_ (fun hx => ?_); unfold x; clear x; rotate_left; clear_value x; rotate_right) | (extract_lets +onlyGivenNames x; clear_value x) | with_reducible apply trimTo_keeps | with_reducible apply ite_keeps | split)
theorem overrun_keeps {a0} (h : Keeps kb s0 s) : Keeps kb s0 (overrun a0 s) := by
  unfold overrun
  repeat' (first | with_reducible assumption | (extract_lets +onlyGivenNames x; refine @cut kb s0 x _ ?_ (fun hx => ?_); unfold x; clear x; rotate_left; clear_value x; rotate_right) | (extract_lets +onlyGivenNames x; clear_value x) | with_reducible apply State.wb_keeps | with_reducible apply State.cntr_keeps | with_reducible apply State.err_keeps | with_reducible apply State.raise_keeps | with_reducible apply ite_keeps | split)
theorem formSums_keeps {a0 a1} (h : Keeps kb s0 s) : Keeps kb s0 (formSums a0 a1 s) := by
  unfold formSums
  repeat' (first | with_reducible assumption | (extract_lets +onlyGivenNames x; refine @cut kb s0 x _ ?_ (fun hx => ?_); unfold x; clear x; rotate_left; clear_value x; rotate_right) | (extract_lets +onlyGivenNames x; clear_value x) | with_reducible refine State.each_keeps ?_ (fun _ _ _ => ?_) | with_reducible apply overrun_keeps | with_reducible apply State.onXp_keeps | with_reducible apply ite_keeps | split)
theorem outClip_keeps {a0} (h : Keeps kb s0 s) : Keeps kb s0 (outClip a0 s) := by
  unfold outClip
  repeat' (first | with_reducible assumption | (extract_lets +onlyGivenNames x; refine @cut kb s0 x _ ?_ (fun hx => ?_); unfold x; clear x; rotate_left; clear_value x; rotate_right) | (extract_lets +onlyGivenNames x; clear_value x) | with_reducible apply State.onMet_keeps | with_reducible apply State.cntr_keeps | with_reducible apply State.raise_keeps | with_reducible apply ite_keeps | split)
theorem chain1_keeps {a0 a1} (h : Keeps kb s0 s) : Keeps kb s0 (chain1 a0 a1 s) := by
  unfold chain1
  repeat' (first | with_reducible assumption | (extract_lets +onlyGivenNames x; refine @cut kb s0 x _ ?_ (fun hx => ?_); unfold x; clear x; rotate_left; clear_value x; rotate_right) | (extract_lets +onlyGivenNames x; clear_value x) | with_reducible apply outClip_keeps | with_reducible apply State.onXp_keeps | with_reducible apply ite_keeps | split)
theorem chains_keeps {a0 a1} (h : Keeps kb s0 s) : Keeps kb s0 (chains a0 a1 s) := by
  unfold chains
  repeat' (first | with_reducible assumption | (extract_lets +onlyGivenNames x; refine @cut kb s0 x _ ?_ (fun hx => ?_); unfold x; clear x; rotate_left; clear_value x; rotate_right) | (extract_lets +onlyGivenNames x; clear_value x) | with_reducible apply State.onXp_keeps | with_reducible refine State.each_keeps ?_ (fun _ _ _ => ?_) | with_reducible apply chain1_keeps | with_reducible apply ite_keeps | split)
theorem xpApply_keeps {a1} (h : Keeps kb s0 s) : Keeps kb s0 (xpApply s a1) := by
  unfold xpApply
  repeat' (first | with_reducible assumption | (extract_lets +onlyGivenNames x; refine @cut kb s0 x _ ?_ (fun hx => ?_); unfold x; clear x; rotate_left; clear_value x; rotate_right) | (extract_lets +onlyGivenNames x; clear_value x) | with_reducible apply State.applyHeld_keeps | with_reducible apply ite_keeps | split)
theorem dlyApply_keeps {a0 a1} (h : Keeps kb s0 s) : Keeps kb s0 (dlyApply a0 a1 s) := by
  unfold dlyApply
  repeat' (first | with_reducible assumption | (extract_lets +onlyGivenNames x; refine @cut kb s0 x _ ?_ (fun hx => ?_); unfold x; clear x; rotate_left; clear_value x; rotate_right) | (extract_lets +onlyGivenNames x; clear_value x) | with_reducible apply State.wr_keeps | with_reducible apply State.onXp_keeps | with_reducible apply ite_keeps | split)
theorem xpFollow_keeps {a1} (h : Keeps kb s0 s) : Keeps kb s0 (xpFollow s a1) := by
  unfold xpFollow
  repeat' (first | with_reducible assumption | (extract_lets +onlyGivenNames x; refine @cut kb s0 x _ ?_ (fun hx => ?_); unfold x; clear x; rotate_left; clear_value x; rotate_right) | (extract_lets +onlyGivenNames x; clear_value x) | with_reducible apply dDeny_keeps | with_reducible apply dlyApply_keeps | with_reducible apply inTrimFix_keeps | with_reducible apply outTrimFix_keeps | with_reducible apply ite_keeps | split)
theorem xpRwb_keeps  (h : Keeps kb s0 s) : Keeps kb s0 (xpRwb s) := by
  unfold xpRwb
  repeat' (first | with_reducible assumption | (extract_lets +onlyGivenNames x; refine @cut kb s0 x _ ?_ (fun hx => ?_); unfold x; clear x; rotate_left; clear_value x; rotate_right) | (extract_lets +onlyGivenNames x; clear_value x) | with_reducible refine State.each_keeps ?_ (fun _ _ _ => ?_) | with_reducible refine State.applyDue_keeps (hk := fun _ _ _ => ?_) ?_ | with_reducible apply xpApply_keeps | with_reducible apply xpFollow_keeps | with_reducible apply pendLevel_keeps | with_reducible apply State.onXp_keeps | with_reducible apply ite_keeps | split)
theorem cmdHold_keeps {a0 a1 a2 a3 a4 a5} (h : Keeps kb s0 s) : Keeps kb s0 (cmdHold a0 a1 a2 a3 a4 a5 s) := by
  unfold cmdHold
  repeat' (first | with_reducible assumption | (extract_lets +onlyGivenNames x; refine @cut kb s0 x _ ?_ (fun hx => ?_); unfold x; clear x; rotate_left; clear_value x; rotate_right) | (extract_lets +onlyGivenNames x; clear_value x) | with_reducible apply State.onHeld_keeps | with_reducible apply ite_keeps | split)
theorem execXpntInputSet_next {a0 a1 a2} (h : Keeps kb s0 s) : ∃ t, execXpntInputSet a0 a1 a2 s = .next t ∧ Keeps kb s0 t := by
  refine ⟨_, rfl, ?_⟩
  repeat' (first | with_reducible assumption | (extract_lets +onlyGivenNames x; refine @cut kb s0 x _ ?_ (fun hx => ?_); unfold x; clear x; rotate_left; clear_value x; rotate_right) | (extract_lets +onlyGivenNames x; clear_value x) | with_reducible refine runCmd_keeps (hb := fun _ _ _ => ?_) ?_ | with_reducible refine State.each_keeps ?_ (fun _ _ _ => ?_) | with_reducible apply cmdHold_keeps | with_reducible apply State.onXp_keeps | with_reducible exact no_keeps | with_reducible apply resOk_keeps | with_reducible apply ite_keeps | split)
theorem execXpntInputGet_next {a0 a1} (h : Keeps kb s0 s) : ∃ t, execXpntInputGet a0 a1 s = .next t ∧ Keeps kb s0 t := by
  refine ⟨_, rfl, ?_⟩
  repeat' (first | with_reducible assumption | (extract_lets +onlyGivenNames x; refine @cut kb s0 x _ ?_ (fun hx => ?_); unfold x; clear x; rotate_left; clear_value x; rotate_right) | (extract_lets +onlyGivenNames x; clear_value x) | with_reducible refine runCmd_keeps (hb := fun _ _ _ => ?_) ?_ | with_reducible apply retL_keeps | with_reducible exact no_keeps | with_reducible apply ite_keeps | split)
theorem outHold_keeps {a0 a1 a2 a3 a4} (h : Keeps kb s0 s) : Keeps kb s0 (outHold a0 a1 a2 a3 a4 s) := by
  unfold outHold
  repeat' (first | with_reducible assumption | (extract_lets +onlyGivenNames x; refine @cut kb s0 x _ ?_ (fun hx => ?_); unfold x; clear x; rotate_left; clear_value x; rotate_right) | (extract_lets +onlyGivenNames x; clear_value x) | with_reducible apply cmdHold_keeps | with_reducible apply ite_keeps | split)
theorem execXpntOutputSet_next {a0 a1 a2} (h : Keeps kb s0 s) : ∃ t, execXpntOutputSet a0 a1 a2 s = .next t ∧ Keeps kb s0 t := by
  refine ⟨_, rfl, ?_⟩
  repeat' (first | with_reducible assumption | (extract_lets +onlyGivenNames x; refine @cut kb s0 x _ ?_ (fun hx => ?_); unfold x; clear x; rotate_left; clear_value x; rotate_right) | (extract_lets +onlyGivenNames x; clear_value x) | with_reducible refine runCmd_keeps (hb := fun _ _ _ => ?_) ?_ | with_reducible apply done_keeps | with_reducible refine State.each_keeps ?_ (fun _ _ _ => ?_) | with_reducible apply outHold_keeps | with_reducible exact no_keeps | with_reducible apply ite_keeps | split)
theorem execXpntOutputGet_next {a0 a1} (h : Keeps kb s0 s) : ∃ t, execXpntOutputGet a0 a1 s = .next t ∧ Keeps kb s0 t := by
  refine ⟨_, rfl, ?_⟩
  repeat' (first | with_reducible assumption | (extract_lets +onlyGivenNames x; refine @cut kb s0 x _ ?_ (fun hx => ?_); unfold x; clear x; rotate_left; clear_value x; rotate_right) | (extract_lets +onlyGivenNames x; clear_value x) | with_reducible refine runCmd_keeps (hb := fun _ _ _ => ?_) ?_ | with_reducible apply retL_keeps | with_reducible exact no_keeps | with_reducible apply ite_keeps | split)
theorem execDelayAlloc_next {a0 a1} (h : Keeps kb s0 s) : ∃ t, execDelayAlloc a0 a1 s = .next t ∧ Keeps kb s0 t := by
  refine ⟨_, rfl, ?_⟩
  repeat' (first | with_reducible assumption | (extract_lets +onlyGivenNames x; refine @cut kb s0 x _ ?_ (fun hx => ?_); unfold x; clear x; rotate_left; clear_value x; rotate_right) | (extract_lets +onlyGivenNames x; clear_value x) | with_reducible refine runCmd_keeps (hb := fun _ _ _ => ?_) ?_ | with_reducible apply retIdx_keeps | with_reducible apply State.onXp_keeps | with_reducible apply State.wb_keeps | with_reducible exact no_keeps | with_reducible apply ite_keeps | split)
theorem execDelayPoolStatus_next {a0 a1} (h : Keeps kb s0 s) : ∃ t, execDelayPoolStatus a0 a1 s = .next t ∧ Keeps kb s0 t := by
  refine ⟨_, rfl, ?_⟩
  repeat' (first | with_reducible assumption | (extract_lets +onlyGivenNames x; refine @cut kb s0 x _ ?_ (fun hx => ?_); unfold x; clear x; rotate_left; clear_value x; rotate_right) | (extract_lets +onlyGivenNames x; clear_value x) | with_reducible refine runCmd_keeps (hb := fun _ _ _ => ?_) ?_ | with_reducible apply ret_keeps | with_reducible exact no_keeps | with_reducible apply ite_keeps | split)
theorem testgenBody_keeps {a0 a1} (h : Keeps kb s0 s) : ResKeeps kb s0 (testgenBody a0 a1 s) := by
  unfold testgenBody
  repeat' (first | with_reducible assumption | (extract_lets +onlyGivenNames x; refine @cut kb s0 x _ ?_ (fun hx => ?_); unfold x; clear x; rotate_left; clear_value x; rotate_right) | (extract_lets +onlyGivenNames x; clear_value x) | with_reducible apply done_keeps | with_reducible refine State.each_keeps ?_ (fun _ _ _ => ?_) | with_reducible apply State.wr_keeps | with_reducible exact no_keeps | with_reducible apply iteR_keeps | split)
theorem execTestgenSet_next {a0 a1} (h : Keeps kb s0 s) : ∃ t, execTestgenSet a0 a1 s = .next t ∧ Keeps kb s0 t := by
  refine ⟨_, rfl, ?_⟩
  repeat' (first | with_reducible assumption | (extract_lets +onlyGivenNames x; refine @cut kb s0 x _ ?_ (fun hx => ?_); unfold x; clear x; rotate_left; clear_value x; rotate_right) | (extract_lets +onlyGivenNames x; clear_value x) | with_reducible refine runCmd_keeps (hb := fun _ _ _ => ?_) ?_ | with_reducible apply testgenBody_keeps | with_reducible apply ite_keeps | split)
theorem execXpntCounters_next {a0 a1 a2 a3 a4 a5} (h : Keeps kb s0 s) : ∃ t, execXpntCounters a0 a1 a2 a3 a4 a5 s = .next t ∧ Keeps kb s0 t := by
  refine ⟨_, rfl, ?_⟩
  repeat' (first | with_reducible assumption | (extract_lets +onlyGivenNames x; refine @cut kb s0 x _ ?_ (fun hx => ?_); unfold x; clear x; rotate_left; clear_value x; rotate_right) | (extract_lets +onlyGivenNames x; clear_value x) | with_reducible refine runCmd_keeps (hb := fun _ _ _ => ?_) ?_ | with_reducible apply retL_keeps | with_reducible apply State.onCmd_keeps | with_reducible exact no_keeps | with_reducible apply ite_keeps | split)
theorem inAssignBody_keeps {a0 a1 a2 a3 a4} (h : Keeps kb s0 s) : ResKeeps kb s0 (inAssignBody a0 a1 a2 a3 a4 s) := by
  unfold inAssignBody
  repeat' (first | with_reducible assumption | (extract_lets +onlyGivenNames x; refine @cut kb s0 x _ ?_ (fun hx => ?_); unfold x; clear x; rotate_left; clear_value x; rotate_right) | (extract_lets +onlyGivenNames x; clear_value x) | with_reducible apply done_keeps | with_reducible apply State.onXp_keeps | with_reducible exact no_keeps | with_reducible apply iteR_keeps | split)
theorem execInAssign_next {a0 a1 a2 a3 a4} (h : Keeps kb s0 s) : ∃ t, execInAssign a0 a1 a2 a3 a4 s = .next t ∧ Keeps kb s0 t := by
  refine ⟨_, rfl, ?_⟩
  repeat' (first | with_reducible assumption | (extract_lets +onlyGivenNames x; refine @cut kb s0 x _ ?_ (fun hx => ?_); unfold x; clear x; rotate_left; clear_value x; rotate_right) | (extract_lets +onlyGivenNames x; clear_value x) | with_reducible refine runCmd_keeps (hb := fun _ _ _ => ?_) ?_ | with_reducible apply inAssignBody_keeps | with_reducible apply ite_keeps | split)

end Sys2Proof.Machine
end

