-- ==== Sys2Proof/Laws/KeepsScenes.lean ====
section
/-!
SUPPORT. Every operation of Machine/Scenes.lean keeps what `Keeps` says.
-/
namespace Sys2Proof.Machine
set_option linter.all false
variable {kb : Prop} {s0 s : State}

theorem editSync_keeps  (h : Keeps kb s0 s) : Keeps kb s0 (editSync s) := by
  unfold editSync
  repeat' (first | with_reducible assumption | (extract_lets +onlyGivenNames x; refine @cut kb s0 x _ ?_ (fun hx => ?_); unfold x; clear x; rotate_left; clear_value x; rotate_right) | (extract_lets +onlyGivenNames x; clear_value x) | with_reducible refine State.each_keeps ?_ (fun _ _ _ => ?_) | with_reducible apply overFix_keeps | with_reducible apply State.wr_keeps | with_reducible apply ite_keeps | split)
theorem sigRaise_keeps {a0 a1} (h : Keeps kb s0 s) : Keeps kb s0 (sigRaise a0 a1 s) := by
  unfold sigRaise
  repeat' (first | with_reducible assumption | (extract_lets +onlyGivenNames x; refine @cut kb s0 x _ ?_ (fun hx => ?_); unfold x; clear x; rotate_left; clear_value x; rotate_right) | (extract_lets +onlyGivenNames x; clear_value x) | with_reducible apply State.raise_keeps | with_reducible apply ite_keeps | split)
theorem unlockSig_keeps {a0} (h : Keeps kb s0 s) : Keeps kb s0 (unlockSig a0 s) := by
  unfold unlockSig
  repeat' (first | with_reducible assumption | (extract_lets +onlyGivenNames x; refine @cut kb s0 x _ ?_ (fun hx => ?_); unfold x; clear x; rotate_left; clear_value x; rotate_right) | (extract_lets +onlyGivenNames x; clear_value x) | with_reducible apply State.wb_keeps | with_reducible apply State.wr_keeps | with_reducible apply State.onScn_keeps | with_reducible apply ite_keeps | split)
theorem versoUnlock_keeps {a0} (h : Keeps kb s0 s) : Keeps kb s0 (versoUnlock a0 s) := by
  unfold versoUnlock
  repeat' (first | with_reducible assumption | (extract_lets +onlyGivenNames x; refine @cut kb s0 x _ ?_ (fun hx => ?_); unfold x; clear x; rotate_left; clear_value x; rotate_right) | (extract_lets +onlyGivenNames x; clear_value x) | with_reducible apply sigRaise_keeps | with_reducible apply unlockSig_keeps | with_reducible apply ite_keeps | split)
theorem versoWrite_keeps {a0 a1 a2} (h : Keeps kb s0 s) : Keeps kb s0 (versoWrite a0 a1 a2 s) := by
  unfold versoWrite
  repeat' (first | with_reducible assumption | (extract_lets +onlyGivenNames x; refine @cut kb s0 x _ ?_ (fun hx => ?_); unfold x; clear x; rotate_left; clear_value x; rotate_right) | (extract_lets +onlyGivenNames x; clear_value x) | with_reducible apply versoPut_keeps | with_reducible apply ite_keeps | split)
theorem drain_keeps {a0} (h : Keeps kb s0 s) : Keeps kb s0 (drain a0 s) := by
  unfold drain
  repeat' (first | with_reducible assumption | (extract_lets +onlyGivenNames x; refine @cut kb s0 x _ ?_ (fun hx => ?_); unfold x; clear x; rotate_left; clear_value x; rotate_right) | (extract_lets +onlyGivenNames x; clear_value x) | with_reducible apply versoWrite_keeps | with_reducible apply editSync_keeps | with_reducible apply State.onScn_keeps | with_reducible apply ite_keeps | split)
theorem versoFill_keeps {a0 a1} (h : Keeps kb s0 s) : Keeps kb s0 (versoFill a0 a1 s) := by
  unfold versoFill
  repeat' (first | with_reducible assumption | (extract_lets +onlyGivenNames x; refine @cut kb s0 x _ ?_ (fun hx => ?_); unfold x; clear x; rotate_left; clear_value x; rotate_right) | (extract_lets +onlyGivenNames x; clear_value x) | with_reducible apply versoPut_keeps | with_reducible apply ite_keeps | split)
theorem loadEnd_keeps {a0} (h : Keeps kb s0 s) : Keeps kb s0 (loadEnd a0 s) := by
  unfold loadEnd
  repeat' (first | with_reducible assumption | (extract_lets +onlyGivenNames x; refine @cut kb s0 x _ ?_ (fun hx => ?_); unfold x; clear x; rotate_left; clear_value x; rotate_right) | (extract_lets +onlyGivenNames x; clear_value x) | with_reducible apply drain_keeps | with_reducible apply versoFill_keeps | with_reducible apply sigRaise_keeps | with_reducible apply State.onScn_keeps | with_reducible apply ite_keeps | split)
theorem copyEnd_keeps {a0} (h : Keeps kb s0 s) : Keeps kb s0 (copyEnd a0 s) := by
  unfold copyEnd
  repeat' (first | with_reducible assumption | (extract_lets +onlyGivenNames x; refine @cut kb s0 x _ ?_ (fun hx => ?_); unfold x; clear x; rotate_left; clear_value x; rotate_right) | (extract_lets +onlyGivenNames x; clear_value x) | with_reducible apply State.onScn_keeps | with_reducible apply drain_keeps | with_reducible apply ite_keeps | split)
theorem rampEnd_keeps {a0} (h : Keeps kb s0 s) : Keeps kb s0 (rampEnd a0 s) := by
  unfold rampEnd
  repeat' (first | with_reducible assumption | (extract_lets +onlyGivenNames x; refine @cut kb s0 x _ ?_ (fun hx => ?_); unfold x; clear x; rotate_left; clear_value x; rotate_right) | (extract_lets +onlyGivenNames x; clear_value x) | with_reducible apply versoEqual_keeps | with_reducible apply State.wr_keeps | with_reducible apply sigRaise_keeps | with_reducible apply ite_keeps | split)
theorem catchUp_keeps {a0} (h : Keeps kb s0 s) : Keeps kb s0 (catchUp a0 s) := by
  unfold catchUp
  repeat' (first | with_reducible assumption | (extract_lets +onlyGivenNames x; refine @cut kb s0 x _ ?_ (fun hx => ?_); unfold x; clear x; rotate_left; clear_value x; rotate_right) | (extract_lets +onlyGivenNames x; clear_value x) | with_reducible apply versoUnlock_keeps | with_reducible apply loadEnd_keeps | with_reducible apply copyEnd_keeps | with_reducible apply rampEnd_keeps | with_reducible apply ite_keeps | split)
theorem bankStep_keeps  (h : Keeps kb s0 s) : Keeps kb s0 (bankStep s) := by
  unfold bankStep
  repeat' (first | with_reducible assumption | (extract_lets +onlyGivenNames x; refine @cut kb s0 x _ ?_ (fun hx => ?_); unfold x; clear x; rotate_left; clear_value x; rotate_right) | (extract_lets +onlyGivenNames x; clear_value x) | with_reducible refine State.each_keeps ?_ (fun _ _ _ => ?_) | with_reducible apply catchUp_keeps | with_reducible apply ite_keeps | split)
theorem tdWrite_keeps {a0 a1 a2} (h : Keeps kb s0 s) : Keeps kb s0 (tdWrite a0 a1 a2 s) := by
  unfold tdWrite
  repeat' (first | with_reducible assumption | (extract_lets +onlyGivenNames x; refine @cut kb s0 x _ ?_ (fun hx => ?_); unfold x; clear x; rotate_left; clear_value x; rotate_right) | (extract_lets +onlyGivenNames x; clear_value x) | with_reducible apply State.writeWord_keeps | with_reducible apply State.wb_keeps | with_reducible apply ite_keeps | split)
theorem turnDrop_keeps {a0 a1 a2} (h : Keeps kb s0 s) : Keeps kb s0 (turnDrop a0 a1 a2 s) := by
  unfold turnDrop
  repeat' (first | with_reducible assumption | (extract_lets +onlyGivenNames x; refine @cut kb s0 x _ ?_ (fun hx => ?_); unfold x; clear x; rotate_left; clear_value x; rotate_right) | (extract_lets +onlyGivenNames x; clear_value x) | with_reducible apply State.raise_keeps | with_reducible apply State.cntr_keeps | with_reducible apply State.err_keeps | with_reducible refine State.each_keeps ?_ (fun _ _ _ => ?_) | with_reducible apply sigRaise_keeps | with_reducible apply ite_keeps | split)
theorem turnPartial_keeps {a0 a1} (h : Keeps kb s0 s) : Keeps kb s0 (turnPartial a0 a1 s) := by
  unfold turnPartial
  repeat' (first | with_reducible assumption | (extract_lets +onlyGivenNames x; refine @cut kb s0 x _ ?_ (fun hx => ?_); unfold x; clear x; rotate_left; clear_value x; rotate_right) | (extract_lets +onlyGivenNames x; clear_value x) | with_reducible apply State.err_keeps | with_reducible apply State.wb_keeps | with_reducible apply ite_keeps | split)
theorem turnOmits_keeps {a0} (h : Keeps kb s0 s) : Keeps kb s0 (turnOmits a0 s) := by
  unfold turnOmits
  repeat' (first | with_reducible assumption | (extract_lets +onlyGivenNames x; refine @cut kb s0 x _ ?_ (fun hx => ?_); unfold x; clear x; rotate_left; clear_value x; rotate_right) | (extract_lets +onlyGivenNames x; clear_value x) | with_reducible apply turnPartial_keeps | with_reducible apply ite_keeps | split)
theorem settle_keeps {a0} (h : Keeps kb s0 s) : Keeps kb s0 (settle a0 s) := by
  unfold settle
  repeat' (first | with_reducible assumption | (extract_lets +onlyGivenNames x; refine @cut kb s0 x _ ?_ (fun hx => ?_); unfold x; clear x; rotate_left; clear_value x; rotate_right) | (extract_lets +onlyGivenNames x; clear_value x) | with_reducible apply catchUp_keeps | with_reducible apply rampEnd_keeps | with_reducible apply ite_keeps | split)
theorem turnStart_keeps {a0} (h : Keeps kb s0 s) : Keeps kb s0 (turnStart a0 s) := by
  unfold turnStart
  repeat' (first | with_reducible assumption | (extract_lets +onlyGivenNames x; refine @cut kb s0 x _ ?_ (fun hx => ?_); unfold x; clear x; rotate_left; clear_value x; rotate_right) | (extract_lets +onlyGivenNames x; clear_value x) | with_reducible refine State.each_keeps ?_ (fun _ _ _ => ?_) | with_reducible apply settle_keeps | with_reducible apply State.wb_keeps | with_reducible apply State.wr_keeps | with_reducible apply State.cntw_keeps | with_reducible apply State.wr64_keeps | with_reducible apply sigRaise_keeps | with_reducible apply State.onScn_keeps | with_reducible apply State.cnt_keeps | with_reducible apply ite_keeps | split)
theorem turnAtOnce_keeps {a0} (h : Keeps kb s0 s) : Keeps kb s0 (turnAtOnce a0 s) := by
  unfold turnAtOnce
  repeat' (first | with_reducible assumption | (extract_lets +onlyGivenNames x; refine @cut kb s0 x _ ?_ (fun hx => ?_); unfold x; clear x; rotate_left; clear_value x; rotate_right) | (extract_lets +onlyGivenNames x; clear_value x) | with_reducible apply turnOmits_keeps | with_reducible apply State.wr64_keeps | with_reducible apply turnStart_keeps | with_reducible refine State.each_keeps ?_ (fun _ _ _ => ?_) | with_reducible apply sigRaise_keeps | with_reducible apply State.wr_keeps | with_reducible apply unlockSig_keeps | with_reducible apply drain_keeps | with_reducible apply versoEqual_keeps | with_reducible apply ite_keeps | split)
theorem nowAtOnce_keeps {a0} (h : Keeps kb s0 s) : Keeps kb s0 (nowAtOnce a0 s) := by
  unfold nowAtOnce
  repeat' (first | with_reducible assumption | (extract_lets +onlyGivenNames x; refine @cut kb s0 x _ ?_ (fun hx => ?_); unfold x; clear x; rotate_left; clear_value x; rotate_right) | (extract_lets +onlyGivenNames x; clear_value x) | with_reducible apply turnDrop_keeps | with_reducible apply turnOmits_keeps | with_reducible apply turnAtOnce_keeps | with_reducible apply ite_keeps | split)
theorem regNow_keeps {a0 a1} (h : Keeps kb s0 s) : Keeps kb s0 (regNow a0 a1 s) := by
  unfold regNow
  repeat' (first | with_reducible assumption | (extract_lets +onlyGivenNames x; refine @cut kb s0 x _ ?_ (fun hx => ?_); unfold x; clear x; rotate_left; clear_value x; rotate_right) | (extract_lets +onlyGivenNames x; clear_value x) | with_reducible apply State.wb_keeps | with_reducible apply tdWrite_keeps | with_reducible apply nowAtOnce_keeps | with_reducible apply State.onScn_keeps | with_reducible apply ite_keeps | split)
theorem tdDefine_keeps {a0 a1} (h : Keeps kb s0 s) : Keeps kb s0 (tdDefine a0 a1 s) := by
  unfold tdDefine
  repeat' (first | with_reducible assumption | (extract_lets +onlyGivenNames x; refine @cut kb s0 x _ ?_ (fun hx => ?_); unfold x; clear x; rotate_left; clear_value x; rotate_right) | (extract_lets +onlyGivenNames x; clear_value x) | with_reducible apply State.wr_keeps | with_reducible apply State.wb_keeps | with_reducible apply ite_keeps | split)
theorem defineNow_keeps {a0 a1} (h : Keeps kb s0 s) : Keeps kb s0 (defineNow a0 a1 s) := by
  unfold defineNow
  repeat' (first | with_reducible assumption | (extract_lets +onlyGivenNames x; refine @cut kb s0 x _ ?_ (fun hx => ?_); unfold x; clear x; rotate_left; clear_value x; rotate_right) | (extract_lets +onlyGivenNames x; clear_value x) | with_reducible apply tdDefine_keeps | with_reducible apply State.wb_keeps | with_reducible apply ite_keeps | split)
theorem regDefine_keeps {a0 a1} (h : Keeps kb s0 s) : Keeps kb s0 (regDefine a0 a1 s) := by
  unfold regDefine
  repeat' (first | with_reducible assumption | (extract_lets +onlyGivenNames x; refine @cut kb s0 x _ ?_ (fun hx => ?_); unfold x; clear x; rotate_left; clear_value x; rotate_right) | (extract_lets +onlyGivenNames x; clear_value x) | with_reducible apply mirrorLater_keeps | with_reducible apply defineNow_keeps | with_reducible apply ite_keeps | split)
theorem tdRelease_keeps {a0} (h : Keeps kb s0 s) : Keeps kb s0 (tdRelease a0 s) := by
  unfold tdRelease
  repeat' (first | with_reducible assumption | (extract_lets +onlyGivenNames x; refine @cut kb s0 x _ ?_ (fun hx => ?_); unfold x; clear x; rotate_left; clear_value x; rotate_right) | (extract_lets +onlyGivenNames x; clear_value x) | with_reducible apply State.wr_keeps | with_reducible apply State.wb_keeps | with_reducible apply ite_keeps | split)
theorem releaseNow_keeps {a0 a1} (h : Keeps kb s0 s) : Keeps kb s0 (releaseNow a0 a1 s) := by
  unfold releaseNow
  repeat' (first | with_reducible assumption | (extract_lets +onlyGivenNames x; refine @cut kb s0 x _ ?_ (fun hx => ?_); unfold x; clear x; rotate_left; clear_value x; rotate_right) | (extract_lets +onlyGivenNames x; clear_value x) | with_reducible apply tdRelease_keeps | with_reducible apply State.wb_keeps | with_reducible apply ite_keeps | split)
theorem regRelease_keeps {a0 a1} (h : Keeps kb s0 s) : Keeps kb s0 (regRelease a0 a1 s) := by
  unfold regRelease
  repeat' (first | with_reducible assumption | (extract_lets +onlyGivenNames x; refine @cut kb s0 x _ ?_ (fun hx => ?_); unfold x; clear x; rotate_left; clear_value x; rotate_right) | (extract_lets +onlyGivenNames x; clear_value x) | with_reducible apply mirrorLater_keeps | with_reducible apply releaseNow_keeps | with_reducible apply ite_keeps | split)
theorem versoAdd_keeps {a0} (h : Keeps kb s0 s) : Keeps kb s0 (versoAdd a0 s) := by
  unfold versoAdd
  repeat' (first | with_reducible assumption | (extract_lets +onlyGivenNames x; refine @cut kb s0 x _ ?_ (fun hx => ?_); unfold x; clear x; rotate_left; clear_value x; rotate_right) | (extract_lets +onlyGivenNames x; clear_value x) | with_reducible apply State.onScn_keeps | with_reducible apply ite_keeps | split)
theorem versoReg_keeps {a0 a1 a2 a3 a4} (h : Keeps kb s0 s) : Keeps kb s0 (versoReg a0 a1 a2 a3 a4 s) := by
  unfold versoReg
  repeat' (first | with_reducible assumption | (extract_lets +onlyGivenNames x; refine @cut kb s0 x _ ?_ (fun hx => ?_); unfold x; clear x; rotate_left; clear_value x; rotate_right) | (extract_lets +onlyGivenNames x; clear_value x) | with_reducible apply State.wb_keeps | with_reducible apply versoAdd_keeps | with_reducible apply ite_keeps | split)
theorem turnLeave_keeps {a0} (h : Keeps kb s0 s) : Keeps kb s0 (turnLeave a0 s) := by
  unfold turnLeave
  repeat' (first | with_reducible assumption | (extract_lets +onlyGivenNames x; refine @cut kb s0 x _ ?_ (fun hx => ?_); unfold x; clear x; rotate_left; clear_value x; rotate_right) | (extract_lets +onlyGivenNames x; clear_value x) | with_reducible apply State.wb_keeps | with_reducible apply State.wr_keeps | with_reducible apply State.onScn_keeps | with_reducible refine State.each_keeps ?_ (fun _ _ _ => ?_) | with_reducible apply turnPartial_keeps | with_reducible apply turnDrop_keeps | with_reducible apply ite_keeps | split)
theorem editDrops_keeps {a0 a1} (h : Keeps kb s0 s) : Keeps kb s0 (editDrops a0 a1 s) := by
  unfold editDrops
  repeat' (first | with_reducible assumption | (extract_lets +onlyGivenNames x; refine @cut kb s0 x _ ?_ (fun hx => ?_); unfold x; clear x; rotate_left; clear_value x; rotate_right) | (extract_lets +onlyGivenNames x; clear_value x) | with_reducible refine State.each_keeps ?_ (fun _ _ _ => ?_) | with_reducible apply State.cntr_keeps | with_reducible apply ite_keeps | split)
theorem editDiscard_keeps {a0} (h : Keeps kb s0 s) : Keeps kb s0 (editDiscard a0 s) := by
  unfold editDiscard
  repeat' (first | with_reducible assumption | (extract_lets +onlyGivenNames x; refine @cut kb s0 x _ ?_ (fun hx => ?_); unfold x; clear x; rotate_left; clear_value x; rotate_right) | (extract_lets +onlyGivenNames x; clear_value x) | with_reducible apply State.onScn_keeps | with_reducible apply editSync_keeps | with_reducible refine State.each_keeps ?_ (fun _ _ _ => ?_) | with_reducible apply editDrops_keeps | with_reducible apply ite_keeps | split)
theorem sigGive_keeps {a0 a1} (h : Keeps kb s0 s) : Keeps kb s0 (sigGive a0 a1 s) := by
  unfold sigGive
  repeat' (first | with_reducible assumption | (extract_lets +onlyGivenNames x; refine @cut kb s0 x _ ?_ (fun hx => ?_); unfold x; clear x; rotate_left; clear_value x; rotate_right) | (extract_lets +onlyGivenNames x; clear_value x) | with_reducible apply turnLeave_keeps | with_reducible apply editDiscard_keeps | with_reducible apply State.onHeld_keeps | with_reducible apply State.onMet_keeps | with_reducible apply State.wr_keeps | with_reducible apply ite_keeps | split)
theorem saveTick_keeps  (h : Keeps kb s0 s) : Keeps kb s0 (saveTick s) := by
  unfold saveTick
  repeat' (first | with_reducible assumption | (extract_lets +onlyGivenNames x; refine @cut kb s0 x _ ?_ (fun hx => ?_); unfold x; clear x; rotate_left; clear_value x; rotate_right) | (extract_lets +onlyGivenNames x; clear_value x) | with_reducible apply State.onScn_keeps | with_reducible apply ite_keeps | split)
theorem turnsConfig_keeps  (h : Keeps kb s0 s) : Keeps kb s0 (turnsConfig s) := by
  unfold turnsConfig
  repeat' (first | with_reducible assumption | (extract_lets +onlyGivenNames x; refine @cut kb s0 x _ ?_ (fun hx => ?_); unfold x; clear x; rotate_left; clear_value x; rotate_right) | (extract_lets +onlyGivenNames x; clear_value x) | with_reducible apply State.onScn_keeps | with_reducible refine State.each_keeps ?_ (fun _ _ _ => ?_) | with_reducible apply turnStart_keeps | with_reducible apply rampEnd_keeps | with_reducible apply State.wr_keeps | with_reducible apply State.wr64_keeps | with_reducible apply sigRaise_keeps | with_reducible apply unlockSig_keeps | with_reducible apply drain_keeps | with_reducible apply State.wb_keeps | with_reducible apply turnDrop_keeps | with_reducible apply nowAtOnce_keeps | with_reducible apply ite_keeps | split)
theorem lockTurn_keeps {a0} (h : Keeps kb s0 s) : Keeps kb s0 (lockTurn a0 s) := by
  unfold lockTurn
  repeat' (first | with_reducible assumption | (extract_lets +onlyGivenNames x; refine @cut kb s0 x _ ?_ (fun hx => ?_); unfold x; clear x; rotate_left; clear_value x; rotate_right) | (extract_lets +onlyGivenNames x; clear_value x) | with_reducible refine State.each_keeps ?_ (fun _ _ _ => ?_) | with_reducible apply settle_keeps | with_reducible apply State.wr64_keeps | with_reducible apply State.wb_keeps | with_reducible apply ite_keeps | split)
theorem turnFire_keeps {a0 a1} (h : Keeps kb s0 s) : Keeps kb s0 (turnFire a0 a1 s) := by
  unfold turnFire
  repeat' (first | with_reducible assumption | (extract_lets +onlyGivenNames x; refine @cut kb s0 x _ ?_ (fun hx => ?_); unfold x; clear x; rotate_left; clear_value x; rotate_right) | (extract_lets +onlyGivenNames x; clear_value x) | with_reducible apply State.wr64_keeps | with_reducible refine State.each_keeps ?_ (fun _ _ _ => ?_) | with_reducible apply settle_keeps | with_reducible apply turnOmits_keeps | with_reducible apply turnDrop_keeps | with_reducible apply State.onScn_keeps | with_reducible apply lockTurn_keeps | with_reducible apply State.wb_keeps | with_reducible apply State.wr_keeps | with_reducible apply sigRaise_keeps | with_reducible apply ite_keeps | split)
theorem turnAct_keeps {a0} (h : Keeps kb s0 s) : Keeps kb s0 (turnAct a0 s) := by
  unfold turnAct
  repeat' (first | with_reducible assumption | (extract_lets +onlyGivenNames x; refine @cut kb s0 x _ ?_ (fun hx => ?_); unfold x; clear x; rotate_left; clear_value x; rotate_right) | (extract_lets +onlyGivenNames x; clear_value x) | with_reducible apply turnFire_keeps | with_reducible apply ite_keeps | split)
theorem loadStart_keeps {a0} (h : Keeps kb s0 s) : Keeps kb s0 (loadStart a0 s) := by
  unfold loadStart
  repeat' (first | with_reducible assumption | (extract_lets +onlyGivenNames x; refine @cut kb s0 x _ ?_ (fun hx => ?_); unfold x; clear x; rotate_left; clear_value x; rotate_right) | (extract_lets +onlyGivenNames x; clear_value x) | with_reducible apply settle_keeps | with_reducible apply State.wb_keeps | with_reducible apply State.wr_keeps | with_reducible apply State.onScn_keeps | with_reducible apply State.wr64_keeps | with_reducible apply ite_keeps | split)
theorem loadsStart_keeps  (h : Keeps kb s0 s) : Keeps kb s0 (loadsStart s) := by
  unfold loadsStart
  repeat' (first | with_reducible assumption | (extract_lets +onlyGivenNames x; refine @cut kb s0 x _ ?_ (fun hx => ?_); unfold x; clear x; rotate_left; clear_value x; rotate_right) | (extract_lets +onlyGivenNames x; clear_value x) | with_reducible refine State.each_keeps ?_ (fun _ _ _ => ?_) | with_reducible apply loadStart_keeps | with_reducible apply ite_keeps | split)
theorem editOvf_keeps {a0 a1 a2} (h : Keeps kb s0 s) : Keeps kb s0 (editOvf a0 a1 a2 s) := by
  unfold editOvf
  repeat' (first | with_reducible assumption | (extract_lets +onlyGivenNames x; refine @cut kb s0 x _ ?_ (fun hx => ?_); unfold x; clear x; rotate_left; clear_value x; rotate_right) | (extract_lets +onlyGivenNames x; clear_value x) | with_reducible refine State.each_keeps ?_ (fun _ _ _ => ?_) | with_reducible apply State.wb_keeps | with_reducible apply State.err_keeps | with_reducible apply State.raise_keeps | with_reducible apply editDrops_keeps | with_reducible apply ite_keeps | split)
theorem editApply_keeps {a0 a1} (h : Keeps kb s0 s) : Keeps kb s0 (editApply a0 a1 s) := by
  unfold editApply
  repeat' (first | with_reducible assumption | (extract_lets +onlyGivenNames x; refine @cut kb s0 x _ ?_ (fun hx => ?_); unfold x; clear x; rotate_left; clear_value x; rotate_right) | (extract_lets +onlyGivenNames x; clear_value x) | with_reducible refine State.each_keeps ?_ (fun _ _ _ => ?_) | with_reducible apply settle_keeps | with_reducible apply editDrops_keeps | with_reducible apply versoWrite_keeps | with_reducible apply editSync_keeps | with_reducible apply State.onScn_keeps | with_reducible apply editOvf_keeps | with_reducible apply ite_keeps | split)
theorem versoDo_keeps {a1} (h : Keeps kb s0 s) : Keeps kb s0 (versoDo s a1) := by
  unfold versoDo
  repeat' (first | with_reducible assumption | (extract_lets +onlyGivenNames x; refine @cut kb s0 x _ ?_ (fun hx => ?_); unfold x; clear x; rotate_left; clear_value x; rotate_right) | (extract_lets +onlyGivenNames x; clear_value x) | with_reducible apply editApply_keeps | with_reducible refine State.each_keeps ?_ (fun _ _ _ => ?_) | with_reducible apply settle_keeps | with_reducible apply State.wb_keeps | with_reducible apply versoEqual_keeps | with_reducible apply versoFill_keeps | with_reducible apply ite_keeps | split)
theorem versoStep_keeps  (h : Keeps kb s0 s) : Keeps kb s0 (versoStep s) := by
  unfold versoStep
  repeat' (first | with_reducible assumption | (extract_lets +onlyGivenNames x; refine @cut kb s0 x _ ?_ (fun hx => ?_); unfold x; clear x; rotate_left; clear_value x; rotate_right) | (extract_lets +onlyGivenNames x; clear_value x) | with_reducible apply State.onScn_keeps | with_reducible refine State.each_keeps ?_ (fun _ _ _ => ?_) | with_reducible apply versoDo_keeps | with_reducible apply ite_keeps | split)
theorem turnStep_keeps  (h : Keeps kb s0 s) : Keeps kb s0 (turnStep s) := by
  unfold turnStep
  repeat' (first | with_reducible assumption | (extract_lets +onlyGivenNames x; refine @cut kb s0 x _ ?_ (fun hx => ?_); unfold x; clear x; rotate_left; clear_value x; rotate_right) | (extract_lets +onlyGivenNames x; clear_value x) | with_reducible apply State.onScn_keeps | with_reducible refine State.each_keeps ?_ (fun _ _ _ => ?_) | with_reducible apply turnStart_keeps | with_reducible apply lockTurn_keeps | with_reducible apply turnFire_keeps | with_reducible apply ite_keeps | split)
theorem editCmd_keeps {a0 a1} (h : Keeps kb s0 s) : ResKeeps kb s0 (editCmd a0 a1 s) := by
  unfold editCmd
  repeat' (first | with_reducible assumption | (extract_lets +onlyGivenNames x; refine @cut kb s0 x _ ?_ (fun hx => ?_); unfold x; clear x; rotate_left; clear_value x; rotate_right) | (extract_lets +onlyGivenNames x; clear_value x) | with_reducible apply done_keeps | with_reducible apply versoAdd_keeps | with_reducible exact no_keeps | with_reducible apply iteR_keeps | split)
theorem execRampEnd_next {a0} (h : Keeps kb s0 s) : ∃ t, execRampEnd a0 s = .next t ∧ Keeps kb s0 t := by
  refine ⟨_, rfl, ?_⟩
  repeat' (first | with_reducible assumption | (extract_lets +onlyGivenNames x; refine @cut kb s0 x _ ?_ (fun hx => ?_); unfold x; clear x; rotate_left; clear_value x; rotate_right) | (extract_lets +onlyGivenNames x; clear_value x) | with_reducible refine awake_keeps ?_ ?_ | with_reducible apply rampEnd_keeps | with_reducible apply ite_keeps | split)
theorem execCopyOverEnd_next {a0} (h : Keeps kb s0 s) : ∃ t, execCopyOverEnd a0 s = .next t ∧ Keeps kb s0 t := by
  refine ⟨_, rfl, ?_⟩
  repeat' (first | with_reducible assumption | (extract_lets +onlyGivenNames x; refine @cut kb s0 x _ ?_ (fun hx => ?_); unfold x; clear x; rotate_left; clear_value x; rotate_right) | (extract_lets +onlyGivenNames x; clear_value x) | with_reducible refine awake_keeps ?_ ?_ | with_reducible apply copyEnd_keeps | with_reducible apply rampEnd_keeps | with_reducible apply ite_keeps | split)
theorem execVersoUnlock_next {a0} (h : Keeps kb s0 s) : ∃ t, execVersoUnlock a0 s = .next t ∧ Keeps kb s0 t := by
  refine ⟨_, rfl, ?_⟩
  repeat' (first | with_reducible assumption | (extract_lets +onlyGivenNames x; refine @cut kb s0 x _ ?_ (fun hx => ?_); unfold x; clear x; rotate_left; clear_value x; rotate_right) | (extract_lets +onlyGivenNames x; clear_value x) | with_reducible refine awake_keeps ?_ ?_ | with_reducible apply catchUp_keeps | with_reducible apply ite_keeps | split)
theorem execSceneLoadEnd_next {a0} (h : Keeps kb s0 s) : ∃ t, execSceneLoadEnd a0 s = .next t ∧ Keeps kb s0 t := by
  refine ⟨_, rfl, ?_⟩
  repeat' (first | with_reducible assumption | (extract_lets +onlyGivenNames x; refine @cut kb s0 x _ ?_ (fun hx => ?_); unfold x; clear x; rotate_left; clear_value x; rotate_right) | (extract_lets +onlyGivenNames x; clear_value x) | with_reducible refine awake_keeps ?_ ?_ | with_reducible apply versoUnlock_keeps | with_reducible apply loadEnd_keeps | with_reducible apply ite_keeps | split)
theorem storeFix_keeps  (h : Keeps kb s0 s) : Keeps kb s0 (storeFix s) := by
  unfold storeFix
  repeat' (first | with_reducible assumption | (extract_lets +onlyGivenNames x; refine @cut kb s0 x _ ?_ (fun hx => ?_); unfold x; clear x; rotate_left; clear_value x; rotate_right) | (extract_lets +onlyGivenNames x; clear_value x) | with_reducible apply State.wr_keeps | with_reducible apply ite_keeps | split)
theorem journal_keeps {a0} (h : Keeps kb s0 s) : Keeps kb s0 (journal a0 s) := by
  unfold journal
  repeat' (first | with_reducible assumption | (extract_lets +onlyGivenNames x; refine @cut kb s0 x _ ?_ (fun hx => ?_); unfold x; clear x; rotate_left; clear_value x; rotate_right) | (extract_lets +onlyGivenNames x; clear_value x) | with_reducible refine State.each_keeps ?_ (fun _ _ _ => ?_) | with_reducible refine State.onFlash_keeps (fun _ => ⟨rfl, rfl, Nat.le_refl _⟩) ?_ | with_reducible apply flashWrote_keeps | with_reducible apply ite_keeps | split)
theorem execSceneSaveDone_next  (h : Keeps kb s0 s) : ∃ t, execSceneSaveDone s = .next t ∧ Keeps kb s0 t := by
  refine ⟨_, rfl, ?_⟩
  repeat' (first | with_reducible assumption | (extract_lets +onlyGivenNames x; refine @cut kb s0 x _ ?_ (fun hx => ?_); unfold x; clear x; rotate_left; clear_value x; rotate_right) | (extract_lets +onlyGivenNames x; clear_value x) | with_reducible refine awake_keeps ?_ ?_ | with_reducible apply storeFix_keeps | with_reducible apply State.wb_keeps | with_reducible apply State.onScn_keeps | with_reducible apply journal_keeps | with_reducible apply complete_keeps | with_reducible apply State.raise_keeps | with_reducible apply ite_keeps | split)
theorem execSceneEdit_next {a0 a1} (h : Keeps kb s0 s) : ∃ t, execSceneEdit a0 a1 s = .next t ∧ Keeps kb s0 t := by
  refine ⟨_, rfl, ?_⟩
  repeat' (first | with_reducible assumption | (extract_lets +onlyGivenNames x; refine @cut kb s0 x _ ?_ (fun hx => ?_); unfold x; clear x; rotate_left; clear_value x; rotate_right) | (extract_lets +onlyGivenNames x; clear_value x) | with_reducible refine runCmd_keeps (hb := fun _ _ _ => ?_) ?_ | with_reducible apply editCmd_keeps | with_reducible apply ite_keeps | split)
theorem execSceneEditBlock_next {a0 a1 a2 a3 a4 a5} (h : Keeps kb s0 s) : ∃ t, execSceneEditBlock a0 a1 a2 a3 a4 a5 s = .next t ∧ Keeps kb s0 t := by
  refine ⟨_, rfl, ?_⟩
  repeat' (first | with_reducible assumption | (extract_lets +onlyGivenNames x; refine @cut kb s0 x _ ?_ (fun hx => ?_); unfold x; clear x; rotate_left; clear_value x; rotate_right) | (extract_lets +onlyGivenNames x; clear_value x) | with_reducible refine runCmd_keeps (hb := fun _ _ _ => ?_) ?_ | with_reducible apply editCmd_keeps | with_reducible exact no_keeps | with_reducible apply ite_keeps | split)
theorem execSceneRead_next {a0 a1 a2} (h : Keeps kb s0 s) : ∃ t, execSceneRead a0 a1 a2 s = .next t ∧ Keeps kb s0 t := by
  refine ⟨_, rfl, ?_⟩
  repeat' (first | with_reducible assumption | (extract_lets +onlyGivenNames x; refine @cut kb s0 x _ ?_ (fun hx => ?_); unfold x; clear x; rotate_left; clear_value x; rotate_right) | (extract_lets +onlyGivenNames x; clear_value x) | with_reducible refine runCmd_keeps (hb := fun _ _ _ => ?_) ?_ | with_reducible apply retL_keeps | with_reducible exact no_keeps | with_reducible apply ite_keeps | split)
theorem versoCmd_keeps {a0 a1} (h : Keeps kb s0 s) : ResKeeps kb s0 (versoCmd a0 a1 s) := by
  unfold versoCmd
  repeat' (first | with_reducible assumption | (extract_lets +onlyGivenNames x; refine @cut kb s0 x _ ?_ (fun hx => ?_); unfold x; clear x; rotate_left; clear_value x; rotate_right) | (extract_lets +onlyGivenNames x; clear_value x) | with_reducible apply done_keeps | with_reducible apply versoAdd_keeps | with_reducible exact no_keeps | with_reducible apply iteR_keeps | split)
theorem execSceneRevert_next {a0 a1} (h : Keeps kb s0 s) : ∃ t, execSceneRevert a0 a1 s = .next t ∧ Keeps kb s0 t := by
  refine ⟨_, rfl, ?_⟩
  repeat' (first | with_reducible assumption | (extract_lets +onlyGivenNames x; refine @cut kb s0 x _ ?_ (fun hx => ?_); unfold x; clear x; rotate_left; clear_value x; rotate_right) | (extract_lets +onlyGivenNames x; clear_value x) | with_reducible refine runCmd_keeps (hb := fun _ _ _ => ?_) ?_ | with_reducible apply versoCmd_keeps | with_reducible apply ite_keeps | split)
theorem execSceneClear_next {a0 a1} (h : Keeps kb s0 s) : ∃ t, execSceneClear a0 a1 s = .next t ∧ Keeps kb s0 t := by
  refine ⟨_, rfl, ?_⟩
  repeat' (first | with_reducible assumption | (extract_lets +onlyGivenNames x; refine @cut kb s0 x _ ?_ (fun hx => ?_); unfold x; clear x; rotate_left; clear_value x; rotate_right) | (extract_lets +onlyGivenNames x; clear_value x) | with_reducible refine runCmd_keeps (hb := fun _ _ _ => ?_) ?_ | with_reducible apply versoCmd_keeps | with_reducible apply ite_keeps | split)
theorem turnDefineBody_keeps {a0 a1 a2 a3 a4} (h : Keeps kb s0 s) : ResKeeps kb s0 (turnDefineBody a0 a1 a2 a3 a4 s) := by
  unfold turnDefineBody
  repeat' (first | with_reducible assumption | (extract_lets +onlyGivenNames x; refine @cut kb s0 x _ ?_ (fun hx => ?_); unfold x; clear x; rotate_left; clear_value x; rotate_right) | (extract_lets +onlyGivenNames x; clear_value x) | with_reducible apply done_keeps | with_reducible apply tdRelease_keeps | with_reducible apply State.ww_keeps | with_reducible apply State.wr_keeps | with_reducible apply tdDefine_keeps | with_reducible exact no_keeps | with_reducible apply iteR_keeps | split)
theorem execTurnDefine_next {a0 a1 a2 a3 a4} (h : Keeps kb s0 s) : ∃ t, execTurnDefine a0 a1 a2 a3 a4 s = .next t ∧ Keeps kb s0 t := by
  refine ⟨_, rfl, ?_⟩
  repeat' (first | with_reducible assumption | (extract_lets +onlyGivenNames x; refine @cut kb s0 x _ ?_ (fun hx => ?_); unfold x; clear x; rotate_left; clear_value x; rotate_right) | (extract_lets +onlyGivenNames x; clear_value x) | with_reducible refine runCmd_keeps (hb := fun _ _ _ => ?_) ?_ | with_reducible apply turnDefineBody_keeps | with_reducible apply ite_keeps | split)
theorem execTurn_next {a0 a1 a2} (h : Keeps kb s0 s) : ∃ t, execTurn a0 a1 a2 s = .next t ∧ Keeps kb s0 t := by
  refine ⟨_, rfl, ?_⟩
  repeat' (first | with_reducible assumption | (extract_lets +onlyGivenNames x; refine @cut kb s0 x _ ?_ (fun hx => ?_); unfold x; clear x; rotate_left; clear_value x; rotate_right) | (extract_lets +onlyGivenNames x; clear_value x) | with_reducible refine runCmd_keeps (hb := fun _ _ _ => ?_) ?_ | with_reducible apply retIdx_keeps | with_reducible apply turnAtOnce_keeps | with_reducible apply State.onScn_keeps | with_reducible apply armNew_keeps | with_reducible exact no_keeps | with_reducible apply ite_keeps | split)
theorem execTurnStatus_next {a0 a1 a2} (h : Keeps kb s0 s) : ∃ t, execTurnStatus a0 a1 a2 s = .next t ∧ Keeps kb s0 t := by
  refine ⟨_, rfl, ?_⟩
  repeat' (first | with_reducible assumption | (extract_lets +onlyGivenNames x; refine @cut kb s0 x _ ?_ (fun hx => ?_); unfold x; clear x; rotate_left; clear_value x; rotate_right) | (extract_lets +onlyGivenNames x; clear_value x) | with_reducible refine runCmd_keeps (hb := fun _ _ _ => ?_) ?_ | with_reducible apply ret_keeps | with_reducible exact no_keeps | with_reducible apply ite_keeps | split)
theorem execSceneSave_next {a0 a1} (h : Keeps kb s0 s) : ∃ t, execSceneSave a0 a1 s = .next t ∧ Keeps kb s0 t := by
  refine ⟨_, rfl, ?_⟩
  repeat' (first | with_reducible assumption | (extract_lets +onlyGivenNames x; refine @cut kb s0 x _ ?_ (fun hx => ?_); unfold x; clear x; rotate_left; clear_value x; rotate_right) | (extract_lets +onlyGivenNames x; clear_value x) | with_reducible refine runCmd_keeps (hb := fun _ _ _ => ?_) ?_ | with_reducible apply State.onScn_keeps | with_reducible apply State.wb_keeps | with_reducible exact no_keeps | with_reducible apply resLater_keeps | with_reducible apply ite_keeps | split)
theorem loadBegin_keeps {a0 a1 a2} (h : Keeps kb s0 s) : Keeps kb s0 (loadBegin a0 a1 a2 s) := by
  unfold loadBegin
  repeat' (first | with_reducible assumption | (extract_lets +onlyGivenNames x; refine @cut kb s0 x _ ?_ (fun hx => ?_); unfold x; clear x; rotate_left; clear_value x; rotate_right) | (extract_lets +onlyGivenNames x; clear_value x) | with_reducible apply State.onScn_keeps | with_reducible apply ite_keeps | split)
theorem execSceneLoad_next {a0 a1 a2 a3 a4} (h : Keeps kb s0 s) : ∃ t, execSceneLoad a0 a1 a2 a3 a4 s = .next t ∧ Keeps kb s0 t := by
  refine ⟨_, rfl, ?_⟩
  repeat' (first | with_reducible assumption | (extract_lets +onlyGivenNames x; refine @cut kb s0 x _ ?_ (fun hx => ?_); unfold x; clear x; rotate_left; clear_value x; rotate_right) | (extract_lets +onlyGivenNames x; clear_value x) | with_reducible refine runCmd_keeps (hb := fun _ _ _ => ?_) ?_ | with_reducible apply done_keeps | with_reducible apply loadBegin_keeps | with_reducible exact no_keeps | with_reducible apply ite_keeps | split)
theorem execSceneList_next {a0 a1} (h : Keeps kb s0 s) : ∃ t, execSceneList a0 a1 s = .next t ∧ Keeps kb s0 t := by
  refine ⟨_, rfl, ?_⟩
  repeat' (first | with_reducible assumption | (extract_lets +onlyGivenNames x; refine @cut kb s0 x _ ?_ (fun hx => ?_); unfold x; clear x; rotate_left; clear_value x; rotate_right) | (extract_lets +onlyGivenNames x; clear_value x) | with_reducible refine runCmd_keeps (hb := fun _ _ _ => ?_) ?_ | with_reducible apply retL_keeps | with_reducible apply ite_keeps | split)
theorem execSceneDelete_next {a0 a1 a2} (h : Keeps kb s0 s) : ∃ t, execSceneDelete a0 a1 a2 s = .next t ∧ Keeps kb s0 t := by
  refine ⟨_, rfl, ?_⟩
  repeat' (first | with_reducible assumption | (extract_lets +onlyGivenNames x; refine @cut kb s0 x _ ?_ (fun hx => ?_); unfold x; clear x; rotate_left; clear_value x; rotate_right) | (extract_lets +onlyGivenNames x; clear_value x) | with_reducible refine runCmd_keeps (hb := fun _ _ _ => ?_) ?_ | with_reducible apply done_keeps | with_reducible apply storeFix_keeps | with_reducible apply flashWrote_keeps | with_reducible refine State.onFlash_keeps (fun _ => ⟨rfl, rfl, Nat.le_refl _⟩) ?_ | with_reducible exact no_keeps | with_reducible apply ite_keeps | split)
theorem execNow_next {a0 a1} (h : Keeps kb s0 s) : ∃ t, execNow a0 a1 s = .next t ∧ Keeps kb s0 t := by
  refine ⟨_, rfl, ?_⟩
  repeat' (first | with_reducible assumption | (extract_lets +onlyGivenNames x; refine @cut kb s0 x _ ?_ (fun hx => ?_); unfold x; clear x; rotate_left; clear_value x; rotate_right) | (extract_lets +onlyGivenNames x; clear_value x) | with_reducible refine awake_keeps ?_ ?_ | with_reducible apply actNoted_keeps | with_reducible apply regNow_keeps | with_reducible apply ite_keeps | split)
theorem execDefine_next {a0 a1} (h : Keeps kb s0 s) : ∃ t, execDefine a0 a1 s = .next t ∧ Keeps kb s0 t := by
  refine ⟨_, rfl, ?_⟩
  repeat' (first | with_reducible assumption | (extract_lets +onlyGivenNames x; refine @cut kb s0 x _ ?_ (fun hx => ?_); unfold x; clear x; rotate_left; clear_value x; rotate_right) | (extract_lets +onlyGivenNames x; clear_value x) | with_reducible refine awake_keeps ?_ ?_ | with_reducible apply actNoted_keeps | with_reducible apply regDefine_keeps | with_reducible apply ite_keeps | split)
theorem execRelease_next {a0 a1} (h : Keeps kb s0 s) : ∃ t, execRelease a0 a1 s = .next t ∧ Keeps kb s0 t := by
  refine ⟨_, rfl, ?_⟩
  repeat' (first | with_reducible assumption | (extract_lets +onlyGivenNames x; refine @cut kb s0 x _ ?_ (fun hx => ?_); unfold x; clear x; rotate_left; clear_value x; rotate_right) | (extract_lets +onlyGivenNames x; clear_value x) | with_reducible refine awake_keeps ?_ ?_ | with_reducible apply actNoted_keeps | with_reducible apply regRelease_keeps | with_reducible apply ite_keeps | split)
theorem execVersoClear_next {a0 a1 a2} (h : Keeps kb s0 s) : ∃ t, execVersoClear a0 a1 a2 s = .next t ∧ Keeps kb s0 t := by
  refine ⟨_, rfl, ?_⟩
  repeat' (first | with_reducible assumption | (extract_lets +onlyGivenNames x; refine @cut kb s0 x _ ?_ (fun hx => ?_); unfold x; clear x; rotate_left; clear_value x; rotate_right) | (extract_lets +onlyGivenNames x; clear_value x) | with_reducible refine awake_keeps ?_ ?_ | with_reducible apply actNoted_keeps | with_reducible apply versoReg_keeps | with_reducible apply ite_keeps | split)
theorem execVersoRevert_next {a0 a1 a2} (h : Keeps kb s0 s) : ∃ t, execVersoRevert a0 a1 a2 s = .next t ∧ Keeps kb s0 t := by
  refine ⟨_, rfl, ?_⟩
  repeat' (first | with_reducible assumption | (extract_lets +onlyGivenNames x; refine @cut kb s0 x _ ?_ (fun hx => ?_); unfold x; clear x; rotate_left; clear_value x; rotate_right) | (extract_lets +onlyGivenNames x; clear_value x) | with_reducible refine awake_keeps ?_ ?_ | with_reducible apply actNoted_keeps | with_reducible apply versoReg_keeps | with_reducible apply ite_keeps | split)
theorem execVersoWindowWrite_next {a0 a1 a2} (h : Keeps kb s0 s) : ∃ t, execVersoWindowWrite a0 a1 a2 s = .next t ∧ Keeps kb s0 t := by
  refine ⟨_, rfl, ?_⟩
  repeat' (first | with_reducible assumption | (extract_lets +onlyGivenNames x; refine @cut kb s0 x _ ?_ (fun hx => ?_); unfold x; clear x; rotate_left; clear_value x; rotate_right) | (extract_lets +onlyGivenNames x; clear_value x) | with_reducible refine awake_keeps ?_ ?_ | with_reducible apply actNoted_keeps | with_reducible apply versoAdd_keeps | with_reducible apply editOvf_keeps | with_reducible apply ite_keeps | split)

end Sys2Proof.Machine
end

