-- ==== Sys2Proof/Laws/KeepsMeters.lean ====
section
/-!
SUPPORT. Every operation of Machine/Meters.lean keeps what `Keeps` says.
-/
namespace Sys2Proof.Machine
set_option linter.all false
variable {kb : Prop} {s0 s : State}

theorem mtrCfgWrite_keeps {a0 a1} (h : Keeps kb s0 s) : Keeps kb s0 (mtrCfgWrite a0 a1 s) := by
  unfold mtrCfgWrite
  repeat' (first | with_reducible assumption | (extract_lets +onlyGivenNames x; refine @cut kb s0 x _ ?_ (fun hx => ?_); unfold x; clear x; rotate_left; clear_value x; rotate_right) | (extract_lets +onlyGivenNames x; clear_value x) | with_reducible apply State.writeWord_keeps | with_reducible apply ite_keeps | split)
theorem regClrHold_keeps {a0 a1} (h : Keeps kb s0 s) : Keeps kb s0 (regClrHold a0 a1 s) := by
  unfold regClrHold
  repeat' (first | with_reducible assumption | (extract_lets +onlyGivenNames x; refine @cut kb s0 x _ ?_ (fun hx => ?_); unfold x; clear x; rotate_left; clear_value x; rotate_right) | (extract_lets +onlyGivenNames x; clear_value x) | with_reducible apply mtrCfgWrite_keeps | with_reducible apply State.onMet_keeps | with_reducible apply ite_keeps | split)
theorem regHoldClrAll_keeps {a0 a1} (h : Keeps kb s0 s) : Keeps kb s0 (regHoldClrAll a0 a1 s) := by
  unfold regHoldClrAll
  repeat' (first | with_reducible assumption | (extract_lets +onlyGivenNames x; refine @cut kb s0 x _ ?_ (fun hx => ?_); unfold x; clear x; rotate_left; clear_value x; rotate_right) | (extract_lets +onlyGivenNames x; clear_value x) | with_reducible apply State.onMet_keeps | with_reducible apply ite_keeps | split)
theorem ctlFields_keeps {a0 a1} (h : Keeps kb s0 s) : Keeps kb s0 (ctlFields a0 a1 s) := by
  unfold ctlFields
  repeat' (first | with_reducible assumption | (extract_lets +onlyGivenNames x; refine @cut kb s0 x _ ?_ (fun hx => ?_); unfold x; clear x; rotate_left; clear_value x; rotate_right) | (extract_lets +onlyGivenNames x; clear_value x) | with_reducible apply State.wb_keeps | with_reducible apply State.wr_keeps | with_reducible apply ite_keeps | split)
theorem snapOff_keeps {a0} (h : Keeps kb s0 s) : Keeps kb s0 (snapOff a0 s) := by
  unfold snapOff
  repeat' (first | with_reducible assumption | (extract_lets +onlyGivenNames x; refine @cut kb s0 x _ ?_ (fun hx => ?_); unfold x; clear x; rotate_left; clear_value x; rotate_right) | (extract_lets +onlyGivenNames x; clear_value x) | with_reducible apply State.onMet_keeps | with_reducible apply State.wb_keeps | with_reducible apply ite_keeps | split)
theorem snapOn_keeps {a0 a1} (h : Keeps kb s0 s) : Keeps kb s0 (snapOn a0 a1 s) := by
  unfold snapOn
  repeat' (first | with_reducible assumption | (extract_lets +onlyGivenNames x; refine @cut kb s0 x _ ?_ (fun hx => ?_); unfold x; clear x; rotate_left; clear_value x; rotate_right) | (extract_lets +onlyGivenNames x; clear_value x) | with_reducible apply State.wr_keeps | with_reducible apply State.wb_keeps | with_reducible apply State.onMet_keeps | with_reducible apply ite_keeps | split)
theorem snapCtl_keeps {a0 a1 a2} (h : Keeps kb s0 s) : Keeps kb s0 (snapCtl a0 a1 a2 s) := by
  unfold snapCtl
  repeat' (first | with_reducible assumption | (extract_lets +onlyGivenNames x; refine @cut kb s0 x _ ?_ (fun hx => ?_); unfold x; clear x; rotate_left; clear_value x; rotate_right) | (extract_lets +onlyGivenNames x; clear_value x) | with_reducible apply ctlFields_keeps | with_reducible apply snapOff_keeps | with_reducible apply State.wb_keeps | with_reducible apply snapOn_keeps | with_reducible apply ite_keeps | split)
theorem regSnapCtlWrite_keeps {a0 a1 a2} (h : Keeps kb s0 s) : Keeps kb s0 (regSnapCtlWrite a0 a1 a2 s) := by
  unfold regSnapCtlWrite
  repeat' (first | with_reducible assumption | (extract_lets +onlyGivenNames x; refine @cut kb s0 x _ ?_ (fun hx => ?_); unfold x; clear x; rotate_left; clear_value x; rotate_right) | (extract_lets +onlyGivenNames x; clear_value x) | with_reducible apply snapCtl_keeps | with_reducible apply ite_keeps | split)
theorem snapPut_keeps {a0 a1} (h : Keeps kb s0 s) : Keeps kb s0 (snapPut a0 a1 s) := by
  unfold snapPut
  repeat' (first | with_reducible assumption | (extract_lets +onlyGivenNames x; refine @cut kb s0 x _ ?_ (fun hx => ?_); unfold x; clear x; rotate_left; clear_value x; rotate_right) | (extract_lets +onlyGivenNames x; clear_value x) | with_reducible refine State.each_keeps ?_ (fun _ _ _ => ?_) | with_reducible apply State.writeWord_keeps | with_reducible apply State.wr_keeps | with_reducible apply ite_keeps | split)
theorem blockPut_keeps {a0 a1} (h : Keeps kb s0 s) : Keeps kb s0 (blockPut a0 a1 s) := by
  unfold blockPut
  repeat' (first | with_reducible assumption | (extract_lets +onlyGivenNames x; refine @cut kb s0 x _ ?_ (fun hx => ?_); unfold x; clear x; rotate_left; clear_value x; rotate_right) | (extract_lets +onlyGivenNames x; clear_value x) | with_reducible apply State.onMet_keeps | with_reducible apply ite_keeps | split)
theorem metClears_keeps  (h : Keeps kb s0 s) : Keeps kb s0 (metClears s) := by
  unfold metClears
  repeat' (first | with_reducible assumption | (extract_lets +onlyGivenNames x; refine @cut kb s0 x _ ?_ (fun hx => ?_); unfold x; clear x; rotate_left; clear_value x; rotate_right) | (extract_lets +onlyGivenNames x; clear_value x) | with_reducible apply State.onMet_keeps | with_reducible apply ite_keeps | split)
theorem publish1_keeps {a1} (h : Keeps kb s0 s) : Keeps kb s0 (publish1 s a1) := by
  unfold publish1
  repeat' (first | with_reducible assumption | (extract_lets +onlyGivenNames x; refine @cut kb s0 x _ ?_ (fun hx => ?_); unfold x; clear x; rotate_left; clear_value x; rotate_right) | (extract_lets +onlyGivenNames x; clear_value x) | with_reducible apply State.onMet_keeps | with_reducible apply ite_keeps | split)
theorem metReset_keeps {a1} (h : Keeps kb s0 s) : Keeps kb s0 (metReset s a1) := by
  unfold metReset
  repeat' (first | with_reducible assumption | (extract_lets +onlyGivenNames x; refine @cut kb s0 x _ ?_ (fun hx => ?_); unfold x; clear x; rotate_left; clear_value x; rotate_right) | (extract_lets +onlyGivenNames x; clear_value x) | with_reducible apply State.onMet_keeps | with_reducible apply ite_keeps | split)
theorem gateMap_keeps  (h : Keeps kb s0 s) : Keeps kb s0 (gateMap s) := by
  unfold gateMap
  repeat' (first | with_reducible assumption | (extract_lets +onlyGivenNames x; refine @cut kb s0 x _ ?_ (fun hx => ?_); unfold x; clear x; rotate_left; clear_value x; rotate_right) | (extract_lets +onlyGivenNames x; clear_value x) | with_reducible refine State.each_keeps ?_ (fun _ _ _ => ?_) | with_reducible apply State.ww_keeps | with_reducible apply ite_keeps | split)
theorem snapTick1_keeps {a0 a2} (h : Keeps kb s0 s) : Keeps kb s0 (snapTick1 a0 s a2) := by
  unfold snapTick1
  repeat' (first | with_reducible assumption | (extract_lets +onlyGivenNames x; refine @cut kb s0 x _ ?_ (fun hx => ?_); unfold x; clear x; rotate_left; clear_value x; rotate_right) | (extract_lets +onlyGivenNames x; clear_value x) | with_reducible apply blockPut_keeps | with_reducible apply State.onMet_keeps | with_reducible apply State.cntw_keeps | with_reducible apply ite_keeps | split)
theorem metPublish_keeps {a0} (h : Keeps kb s0 s) : Keeps kb s0 (metPublish a0 s) := by
  unfold metPublish
  repeat' (first | with_reducible assumption | (extract_lets +onlyGivenNames x; refine @cut kb s0 x _ ?_ (fun hx => ?_); unfold x; clear x; rotate_left; clear_value x; rotate_right) | (extract_lets +onlyGivenNames x; clear_value x) | with_reducible apply metClears_keeps | with_reducible refine State.each_keeps ?_ (fun _ _ _ => ?_) | with_reducible apply publish1_keeps | with_reducible apply State.onMet_keeps | with_reducible apply metReset_keeps | with_reducible apply gateMap_keeps | with_reducible apply snapTick1_keeps | with_reducible apply ite_keeps | split)
theorem metLatch_keeps  (h : Keeps kb s0 s) : Keeps kb s0 (metLatch s) := by
  unfold metLatch
  repeat' (first | with_reducible assumption | (extract_lets +onlyGivenNames x; refine @cut kb s0 x _ ?_ (fun hx => ?_); unfold x; clear x; rotate_left; clear_value x; rotate_right) | (extract_lets +onlyGivenNames x; clear_value x) | with_reducible apply State.onMet_keeps | with_reducible apply ite_keeps | split)
theorem metNoteIn_keeps  (h : Keeps kb s0 s) : Keeps kb s0 (metNoteIn s) := by
  unfold metNoteIn
  repeat' (first | with_reducible assumption | (extract_lets +onlyGivenNames x; refine @cut kb s0 x _ ?_ (fun hx => ?_); unfold x; clear x; rotate_left; clear_value x; rotate_right) | (extract_lets +onlyGivenNames x; clear_value x) | with_reducible apply State.onMet_keeps | with_reducible apply ite_keeps | split)
theorem gate1_keeps {a1} (h : Keeps kb s0 s) : Keeps kb s0 (gate1 s a1) := by
  unfold gate1
  repeat' (first | with_reducible assumption | (extract_lets +onlyGivenNames x; refine @cut kb s0 x _ ?_ (fun hx => ?_); unfold x; clear x; rotate_left; clear_value x; rotate_right) | (extract_lets +onlyGivenNames x; clear_value x) | with_reducible apply State.onMet_keeps | with_reducible apply ite_keeps | split)
theorem gates_keeps  (h : Keeps kb s0 s) : Keeps kb s0 (gates s) := by
  unfold gates
  repeat' (first | with_reducible assumption | (extract_lets +onlyGivenNames x; refine @cut kb s0 x _ ?_ (fun hx => ?_); unfold x; clear x; rotate_left; clear_value x; rotate_right) | (extract_lets +onlyGivenNames x; clear_value x) | with_reducible refine State.each_keeps ?_ (fun _ _ _ => ?_) | with_reducible apply gate1_keeps | with_reducible apply ite_keeps | split)
theorem metNoteOut_keeps  (h : Keeps kb s0 s) : Keeps kb s0 (metNoteOut s) := by
  unfold metNoteOut
  repeat' (first | with_reducible assumption | (extract_lets +onlyGivenNames x; refine @cut kb s0 x _ ?_ (fun hx => ?_); unfold x; clear x; rotate_left; clear_value x; rotate_right) | (extract_lets +onlyGivenNames x; clear_value x) | with_reducible apply State.onMet_keeps | with_reducible apply ite_keeps | split)
theorem snapAct_keeps {a0 a1} (h : Keeps kb s0 s) : Keeps kb s0 (snapAct a0 a1 s) := by
  unfold snapAct
  repeat' (first | with_reducible assumption | (extract_lets +onlyGivenNames x; refine @cut kb s0 x _ ?_ (fun hx => ?_); unfold x; clear x; rotate_left; clear_value x; rotate_right) | (extract_lets +onlyGivenNames x; clear_value x) | with_reducible apply State.onMet_keeps | with_reducible apply ite_keeps | split)
theorem execSnapRecord_next {a0 a1} (h : Keeps kb s0 s) : ∃ t, execSnapRecord a0 a1 s = .next t ∧ Keeps kb s0 t := by
  refine ⟨_, rfl, ?_⟩
  repeat' (first | with_reducible assumption | (extract_lets +onlyGivenNames x; refine @cut kb s0 x _ ?_ (fun hx => ?_); unfold x; clear x; rotate_left; clear_value x; rotate_right) | (extract_lets +onlyGivenNames x; clear_value x) | with_reducible refine awake_keeps ?_ ?_ | with_reducible apply State.onMet_keeps | with_reducible apply State.raise_keeps | with_reducible apply snapOff_keeps | with_reducible apply dmaErr_keeps | with_reducible apply State.wb_keeps | with_reducible apply State.cnt_keeps | with_reducible apply State.wr_keeps | with_reducible apply ite_keeps | split)
theorem regMtrVal0Read_keeps {a0} (h : Keeps kb s0 s) : Keeps kb s0 (regMtrVal0Read a0 s) := by
  unfold regMtrVal0Read
  repeat' (first | with_reducible assumption | (extract_lets +onlyGivenNames x; refine @cut kb s0 x _ ?_ (fun hx => ?_); unfold x; clear x; rotate_left; clear_value x; rotate_right) | (extract_lets +onlyGivenNames x; clear_value x) | with_reducible apply State.ww_keeps | with_reducible apply ite_keeps | split)
theorem execMeterRead_next {a0 a1} (h : Keeps kb s0 s) : ∃ t, execMeterRead a0 a1 s = .next t ∧ Keeps kb s0 t := by
  refine ⟨_, rfl, ?_⟩
  repeat' (first | with_reducible assumption | (extract_lets +onlyGivenNames x; refine @cut kb s0 x _ ?_ (fun hx => ?_); unfold x; clear x; rotate_left; clear_value x; rotate_right) | (extract_lets +onlyGivenNames x; clear_value x) | with_reducible refine runCmd_keeps (hb := fun _ _ _ => ?_) ?_ | with_reducible apply retL_keeps | with_reducible exact no_keeps | with_reducible apply ite_keeps | split)
theorem execMeterProfileSet_next {a0 a1} (h : Keeps kb s0 s) : ∃ t, execMeterProfileSet a0 a1 s = .next t ∧ Keeps kb s0 t := by
  refine ⟨_, rfl, ?_⟩
  repeat' (first | with_reducible assumption | (extract_lets +onlyGivenNames x; refine @cut kb s0 x _ ?_ (fun hx => ?_); unfold x; clear x; rotate_left; clear_value x; rotate_right) | (extract_lets +onlyGivenNames x; clear_value x) | with_reducible refine runCmd_keeps (hb := fun _ _ _ => ?_) ?_ | with_reducible apply done_keeps | with_reducible refine State.each_keeps ?_ (fun _ _ _ => ?_) | with_reducible apply cmdHold_keeps | with_reducible exact no_keeps | with_reducible apply ite_keeps | split)
theorem execMeterAssign_next {a0 a1} (h : Keeps kb s0 s) : ∃ t, execMeterAssign a0 a1 s = .next t ∧ Keeps kb s0 t := by
  refine ⟨_, rfl, ?_⟩
  repeat' (first | with_reducible assumption | (extract_lets +onlyGivenNames x; refine @cut kb s0 x _ ?_ (fun hx => ?_); unfold x; clear x; rotate_left; clear_value x; rotate_right) | (extract_lets +onlyGivenNames x; clear_value x) | with_reducible refine runCmd_keeps (hb := fun _ _ _ => ?_) ?_ | with_reducible apply done_keeps | with_reducible refine State.each_keeps ?_ (fun _ _ _ => ?_) | with_reducible apply cmdHold_keeps | with_reducible exact no_keeps | with_reducible apply ite_keeps | split)
theorem execMeterHoldClear_next {a0 a1} (h : Keeps kb s0 s) : ∃ t, execMeterHoldClear a0 a1 s = .next t ∧ Keeps kb s0 t := by
  refine ⟨_, rfl, ?_⟩
  repeat' (first | with_reducible assumption | (extract_lets +onlyGivenNames x; refine @cut kb s0 x _ ?_ (fun hx => ?_); unfold x; clear x; rotate_left; clear_value x; rotate_right) | (extract_lets +onlyGivenNames x; clear_value x) | with_reducible refine runCmd_keeps (hb := fun _ _ _ => ?_) ?_ | with_reducible apply done_keeps | with_reducible apply State.onMet_keeps | with_reducible exact no_keeps | with_reducible apply ite_keeps | split)
theorem execGateRead_next {a0} (h : Keeps kb s0 s) : ∃ t, execGateRead a0 s = .next t ∧ Keeps kb s0 t := by
  refine ⟨_, rfl, ?_⟩
  repeat' (first | with_reducible assumption | (extract_lets +onlyGivenNames x; refine @cut kb s0 x _ ?_ (fun hx => ?_); unfold x; clear x; rotate_left; clear_value x; rotate_right) | (extract_lets +onlyGivenNames x; clear_value x) | with_reducible refine runCmd_keeps (hb := fun _ _ _ => ?_) ?_ | with_reducible apply ret_keeps | with_reducible apply ite_keeps | split)
theorem execSnapConfig_next {a0 a1 a2} (h : Keeps kb s0 s) : ∃ t, execSnapConfig a0 a1 a2 s = .next t ∧ Keeps kb s0 t := by
  refine ⟨_, rfl, ?_⟩
  repeat' (first | with_reducible assumption | (extract_lets +onlyGivenNames x; refine @cut kb s0 x _ ?_ (fun hx => ?_); unfold x; clear x; rotate_left; clear_value x; rotate_right) | (extract_lets +onlyGivenNames x; clear_value x) | with_reducible refine runCmd_keeps (hb := fun _ _ _ => ?_) ?_ | with_reducible apply snapPut_keeps | with_reducible apply done_keeps | with_reducible apply snapOff_keeps | with_reducible apply snapCtl_keeps | with_reducible exact no_keeps | with_reducible apply ite_keeps | split)
theorem execMeterTrigger_next {a0 a1 a2} (h : Keeps kb s0 s) : ∃ t, execMeterTrigger a0 a1 a2 s = .next t ∧ Keeps kb s0 t := by
  refine ⟨_, rfl, ?_⟩
  repeat' (first | with_reducible assumption | (extract_lets +onlyGivenNames x; refine @cut kb s0 x _ ?_ (fun hx => ?_); unfold x; clear x; rotate_left; clear_value x; rotate_right) | (extract_lets +onlyGivenNames x; clear_value x) | with_reducible refine runCmd_keeps (hb := fun _ _ _ => ?_) ?_ | with_reducible apply armNew_keeps | with_reducible exact no_keeps | with_reducible apply ite_keeps | split)
theorem execSnapStatus_next {a0 a1} (h : Keeps kb s0 s) : ∃ t, execSnapStatus a0 a1 s = .next t ∧ Keeps kb s0 t := by
  refine ⟨_, rfl, ?_⟩
  repeat' (first | with_reducible assumption | (extract_lets +onlyGivenNames x; refine @cut kb s0 x _ ?_ (fun hx => ?_); unfold x; clear x; rotate_left; clear_value x; rotate_right) | (extract_lets +onlyGivenNames x; clear_value x) | with_reducible refine runCmd_keeps (hb := fun _ _ _ => ?_) ?_ | with_reducible apply ret_keeps | with_reducible exact no_keeps | with_reducible apply ite_keeps | split)
theorem execMtrVal0Read_next {a0} (h : Keeps kb s0 s) : ∃ t, execMtrVal0Read a0 s = .next t ∧ Keeps kb s0 t := by
  refine ⟨_, rfl, ?_⟩
  repeat' (first | with_reducible assumption | (extract_lets +onlyGivenNames x; refine @cut kb s0 x _ ?_ (fun hx => ?_); unfold x; clear x; rotate_left; clear_value x; rotate_right) | (extract_lets +onlyGivenNames x; clear_value x) | with_reducible refine awake_keeps ?_ ?_ | with_reducible apply regMtrVal0Read_keeps | with_reducible apply ite_keeps | split)
theorem execClrHold_next {a0 a1} (h : Keeps kb s0 s) : ∃ t, execClrHold a0 a1 s = .next t ∧ Keeps kb s0 t := by
  refine ⟨_, rfl, ?_⟩
  repeat' (first | with_reducible assumption | (extract_lets +onlyGivenNames x; refine @cut kb s0 x _ ?_ (fun hx => ?_); unfold x; clear x; rotate_left; clear_value x; rotate_right) | (extract_lets +onlyGivenNames x; clear_value x) | with_reducible refine awake_keeps ?_ ?_ | with_reducible apply regClrHold_keeps | with_reducible apply ite_keeps | split)
theorem execHoldClrAll_next {a0 a1} (h : Keeps kb s0 s) : ∃ t, execHoldClrAll a0 a1 s = .next t ∧ Keeps kb s0 t := by
  refine ⟨_, rfl, ?_⟩
  repeat' (first | with_reducible assumption | (extract_lets +onlyGivenNames x; refine @cut kb s0 x _ ?_ (fun hx => ?_); unfold x; clear x; rotate_left; clear_value x; rotate_right) | (extract_lets +onlyGivenNames x; clear_value x) | with_reducible refine awake_keeps ?_ ?_ | with_reducible apply regHoldClrAll_keeps | with_reducible apply ite_keeps | split)
theorem execSnapCtlWrite_next {a0 a1 a2} (h : Keeps kb s0 s) : ∃ t, execSnapCtlWrite a0 a1 a2 s = .next t ∧ Keeps kb s0 t := by
  refine ⟨_, rfl, ?_⟩
  repeat' (first | with_reducible assumption | (extract_lets +onlyGivenNames x; refine @cut kb s0 x _ ?_ (fun hx => ?_); unfold x; clear x; rotate_left; clear_value x; rotate_right) | (extract_lets +onlyGivenNames x; clear_value x) | with_reducible refine awake_keeps ?_ ?_ | with_reducible apply regSnapCtlWrite_keeps | with_reducible apply ite_keeps | split)

end Sys2Proof.Machine
end

