-- ==== Sys2Proof/Laws/KeepsTx.lean ====
section
/-!
SUPPORT. Every operation of Machine/Tx.lean keeps what `Keeps` says.
-/
namespace Sys2Proof.Machine
set_option linter.all false
variable {kb : Prop} {s0 s : State}

theorem txCnt_keeps {a0 a1 a2 a3} (h : Keeps kb s0 s) : Keeps kb s0 (txCnt a0 a1 a2 a3 s) := by
  unfold txCnt
  repeat' (first | with_reducible assumption | (extract_lets +onlyGivenNames x; refine @cut kb s0 x _ ?_ (fun hx => ?_); unfold x; clear x; rotate_left; clear_value x; rotate_right) | (extract_lets +onlyGivenNames x; clear_value x) | with_reducible apply State.cntr_keeps | with_reducible apply State.raise_keeps | with_reducible apply ite_keeps | split)
theorem txStore_keeps {a0 a1 a2 a3} (h : Keeps kb s0 s) : Keeps kb s0 (txStore a0 a1 a2 a3 s) := by
  unfold txStore
  repeat' (first | with_reducible assumption | (extract_lets +onlyGivenNames x; refine @cut kb s0 x _ ?_ (fun hx => ?_); unfold x; clear x; rotate_left; clear_value x; rotate_right) | (extract_lets +onlyGivenNames x; clear_value x) | with_reducible apply State.ww_keeps | with_reducible apply entryCopy_keeps | with_reducible apply State.onTx_keeps | with_reducible apply ite_keeps | split)
theorem sapSend_keeps {a0 a1 a2} (h : Keeps kb s0 s) : Keeps kb s0 (sapSend a0 a1 a2 s) := by
  unfold sapSend
  repeat' (first | with_reducible assumption | (extract_lets +onlyGivenNames x; refine @cut kb s0 x _ ?_ (fun hx => ?_); unfold x; clear x; rotate_left; clear_value x; rotate_right) | (extract_lets +onlyGivenNames x; clear_value x) | with_reducible refine State.each_keeps ?_ (fun _ _ _ => ?_) | with_reducible apply txPut_keeps | with_reducible apply ite_keeps | split)
theorem sapAnnounce_keeps {a0 a1} (h : Keeps kb s0 s) : Keeps kb s0 (sapAnnounce a0 a1 s) := by
  unfold sapAnnounce
  repeat' (first | with_reducible assumption | (extract_lets +onlyGivenNames x; refine @cut kb s0 x _ ?_ (fun hx => ?_); unfold x; clear x; rotate_left; clear_value x; rotate_right) | (extract_lets +onlyGivenNames x; clear_value x) | with_reducible apply State.onTx_keeps | with_reducible apply sapSend_keeps | with_reducible apply ite_keeps | split)
theorem txLegs_keeps {a1} (h : Keeps kb s0 s) : Keeps kb s0 (txLegs s a1) := by
  unfold txLegs
  repeat' (first | with_reducible assumption | (extract_lets +onlyGivenNames x; refine @cut kb s0 x _ ?_ (fun hx => ?_); unfold x; clear x; rotate_left; clear_value x; rotate_right) | (extract_lets +onlyGivenNames x; clear_value x) | with_reducible apply State.wb_keeps | with_reducible refine State.each_keeps ?_ (fun _ _ _ => ?_) | with_reducible apply State.raise_keeps | with_reducible apply ite_keeps | split)
theorem txLoads_keeps  (h : Keeps kb s0 s) : Keeps kb s0 (txLoads s) := by
  unfold txLoads
  repeat' (first | with_reducible assumption | (extract_lets +onlyGivenNames x; refine @cut kb s0 x _ ?_ (fun hx => ?_); unfold x; clear x; rotate_left; clear_value x; rotate_right) | (extract_lets +onlyGivenNames x; clear_value x) | with_reducible refine State.each_keeps ?_ (fun _ _ _ => ?_) | with_reducible apply State.wr_keeps | with_reducible apply ite_keeps | split)
theorem patchSync_keeps  (h : Keeps kb s0 s) : Keeps kb s0 (patchSync s) := by
  unfold patchSync
  repeat' (first | with_reducible assumption | (extract_lets +onlyGivenNames x; refine @cut kb s0 x _ ?_ (fun hx => ?_); unfold x; clear x; rotate_left; clear_value x; rotate_right) | (extract_lets +onlyGivenNames x; clear_value x) | with_reducible apply State.wr_keeps | with_reducible refine State.each_keeps ?_ (fun _ _ _ => ?_) | with_reducible apply overFix_keeps | with_reducible apply ite_keeps | split)
theorem txPool_keeps  (h : Keeps kb s0 s) : Keeps kb s0 (txPool s) := by
  unfold txPool
  repeat' (first | with_reducible assumption | (extract_lets +onlyGivenNames x; refine @cut kb s0 x _ ?_ (fun hx => ?_); unfold x; clear x; rotate_left; clear_value x; rotate_right) | (extract_lets +onlyGivenNames x; clear_value x) | with_reducible apply txLoads_keeps | with_reducible apply patchSync_keeps | with_reducible apply State.wr_keeps | with_reducible apply ite_keeps | split)
theorem txDisable_keeps {a0} (h : Keeps kb s0 s) : Keeps kb s0 (txDisable a0 s) := by
  unfold txDisable
  repeat' (first | with_reducible assumption | (extract_lets +onlyGivenNames x; refine @cut kb s0 x _ ?_ (fun hx => ?_); unfold x; clear x; rotate_left; clear_value x; rotate_right) | (extract_lets +onlyGivenNames x; clear_value x) | with_reducible apply srcGive_keeps | with_reducible apply useGive_keeps | with_reducible apply State.wr_keeps | with_reducible apply State.wb_keeps | with_reducible apply State.onTx_keeps | with_reducible apply sapAnnounce_keeps | with_reducible apply txLegs_keeps | with_reducible apply txPool_keeps | with_reducible apply ite_keeps | split)
theorem txEnable_keeps {a0 a1} (h : Keeps kb s0 s) : Keeps kb s0 (txEnable a0 a1 s) := by
  unfold txEnable
  repeat' (first | with_reducible assumption | (extract_lets +onlyGivenNames x; refine @cut kb s0 x _ ?_ (fun hx => ?_); unfold x; clear x; rotate_left; clear_value x; rotate_right) | (extract_lets +onlyGivenNames x; clear_value x) | with_reducible apply srcTake_keeps | with_reducible apply useTake_keeps | with_reducible apply State.onTx_keeps | with_reducible apply txLegs_keeps | with_reducible apply txPool_keeps | with_reducible apply State.wr_keeps | with_reducible apply ite_keeps | split)
theorem txCommit_keeps' {a0 a1 a2} (h : Keeps kb s0 s) : KeepsE kb s0 (txCommit a0 a1 a2 s) := by
  unfold txCommit
  repeat' (first | with_reducible apply ok_keeps | with_reducible apply error_keeps | with_reducible apply iteE_keeps | with_reducible assumption | (extract_lets +onlyGivenNames x; refine @cut kb s0 x _ ?_ (fun hx => ?_); unfold x; clear x; rotate_left; clear_value x; rotate_right) | (extract_lets +onlyGivenNames x; clear_value x) | with_reducible apply txStore_keeps | with_reducible apply txDisable_keeps | with_reducible apply txLegs_keeps | with_reducible apply txPool_keeps | with_reducible apply txEnable_keeps | split)
theorem txCommit_keeps {a0 a1 a2} {t} (h : Keeps kb s0 s) (e : txCommit a0 a1 a2 s = .ok t) : Keeps kb s0 t := by
  have k : KeepsE kb s0 (txCommit a0 a1 a2 s) := txCommit_keeps' h; rw [e] at k; exact ok_elim k
theorem txCommitTick_keeps  (h : Keeps kb s0 s) : Keeps kb s0 (txCommitTick s) := by
  unfold txCommitTick
  repeat' (first | with_reducible assumption | (extract_lets +onlyGivenNames x; refine @cut kb s0 x _ ?_ (fun hx => ?_); unfold x; clear x; rotate_left; clear_value x; rotate_right) | (extract_lets +onlyGivenNames x; clear_value x) | with_reducible apply State.wb_keeps | with_reducible apply State.onTx_keeps | with_reducible refine txCommit_keeps ?_ (by assumption) | with_reducible apply State.wr_keeps | with_reducible apply State.raise_keeps | with_reducible apply ite_keeps | split)
theorem sapTick_keeps  (h : Keeps kb s0 s) : Keeps kb s0 (sapTick s) := by
  unfold sapTick
  repeat' (first | with_reducible assumption | (extract_lets +onlyGivenNames x; refine @cut kb s0 x _ ?_ (fun hx => ?_); unfold x; clear x; rotate_left; clear_value x; rotate_right) | (extract_lets +onlyGivenNames x; clear_value x) | with_reducible refine State.each_keeps ?_ (fun _ _ _ => ?_) | with_reducible apply sapAnnounce_keeps | with_reducible apply ite_keeps | split)
theorem sdpTick_keeps  (h : Keeps kb s0 s) : Keeps kb s0 (sdpTick s) := by
  unfold sdpTick
  repeat' (first | with_reducible assumption | (extract_lets +onlyGivenNames x; refine @cut kb s0 x _ ?_ (fun hx => ?_); unfold x; clear x; rotate_left; clear_value x; rotate_right) | (extract_lets +onlyGivenNames x; clear_value x) | with_reducible refine State.each_keeps ?_ (fun _ _ _ => ?_) | with_reducible apply State.onTx_keeps | with_reducible apply ite_keeps | split)
theorem regTxCommit_keeps {a0 a1} (h : Keeps kb s0 s) : Keeps kb s0 (regTxCommit a0 a1 s) := by
  unfold regTxCommit
  repeat' (first | with_reducible assumption | (extract_lets +onlyGivenNames x; refine @cut kb s0 x _ ?_ (fun hx => ?_); unfold x; clear x; rotate_left; clear_value x; rotate_right) | (extract_lets +onlyGivenNames x; clear_value x) | with_reducible apply State.onTx_keeps | with_reducible apply State.wb_keeps | with_reducible apply ite_keeps | split)
theorem regTxLoad_keeps {a0 a1} (h : Keeps kb s0 s) : Keeps kb s0 (regTxLoad a0 a1 s) := by
  unfold regTxLoad
  repeat' (first | with_reducible assumption | (extract_lets +onlyGivenNames x; refine @cut kb s0 x _ ?_ (fun hx => ?_); unfold x; clear x; rotate_left; clear_value x; rotate_right) | (extract_lets +onlyGivenNames x; clear_value x) | with_reducible apply State.wr_keeps | with_reducible apply entryCopy_keeps | with_reducible apply ite_keeps | split)
theorem txSrcWrite_keeps {a0 a1 a2} (h : Keeps kb s0 s) : Keeps kb s0 (txSrcWrite a0 a1 a2 s) := by
  unfold txSrcWrite
  repeat' (first | with_reducible assumption | (extract_lets +onlyGivenNames x; refine @cut kb s0 x _ ?_ (fun hx => ?_); unfold x; clear x; rotate_left; clear_value x; rotate_right) | (extract_lets +onlyGivenNames x; clear_value x) | with_reducible apply State.wb_keeps | with_reducible apply State.hold_keeps | with_reducible apply ite_keeps | split)
theorem txStopNow_keeps {a0} (h : Keeps kb s0 s) : Keeps kb s0 (txStopNow a0 s) := by
  unfold txStopNow
  repeat' (first | with_reducible assumption | (extract_lets +onlyGivenNames x; refine @cut kb s0 x _ ?_ (fun hx => ?_); unfold x; clear x; rotate_left; clear_value x; rotate_right) | (extract_lets +onlyGivenNames x; clear_value x) | with_reducible apply State.onTx_keeps | with_reducible apply State.wr_keeps | with_reducible apply ite_keeps | split)
theorem txReclaim_keeps {a0} (h : Keeps kb s0 s) : Keeps kb s0 (txReclaim a0 s) := by
  unfold txReclaim
  repeat' (first | with_reducible assumption | (extract_lets +onlyGivenNames x; refine @cut kb s0 x _ ?_ (fun hx => ?_); unfold x; clear x; rotate_left; clear_value x; rotate_right) | (extract_lets +onlyGivenNames x; clear_value x) | with_reducible apply txStopNow_keeps | with_reducible apply State.onTx_keeps | with_reducible apply ite_keeps | split)
theorem patchKeep_keeps {a1} (h : Keeps kb s0 s) : Keeps kb s0 (patchKeep s a1) := by
  unfold patchKeep
  repeat' (first | with_reducible assumption | (extract_lets +onlyGivenNames x; refine @cut kb s0 x _ ?_ (fun hx => ?_); unfold x; clear x; rotate_left; clear_value x; rotate_right) | (extract_lets +onlyGivenNames x; clear_value x) | with_reducible apply State.onTx_keeps | with_reducible apply ite_keeps | split)
theorem txSelFree_keeps  (h : Keeps kb s0 s) : Keeps kb s0 (txSelFree s) := by
  unfold txSelFree
  repeat' (first | with_reducible assumption | (extract_lets +onlyGivenNames x; refine @cut kb s0 x _ ?_ (fun hx => ?_); unfold x; clear x; rotate_left; clear_value x; rotate_right) | (extract_lets +onlyGivenNames x; clear_value x) | with_reducible refine State.applyDue_keeps (hk := fun _ _ _ => ?_) ?_ | with_reducible apply State.applyHeld_keeps | with_reducible apply ite_keeps | split)
theorem txSelApply_keeps {a0 a1} (h : Keeps kb s0 s) : Keeps kb s0 (txSelApply a0 a1 s) := by
  unfold txSelApply
  repeat' (first | with_reducible assumption | (extract_lets +onlyGivenNames x; refine @cut kb s0 x _ ?_ (fun hx => ?_); unfold x; clear x; rotate_left; clear_value x; rotate_right) | (extract_lets +onlyGivenNames x; clear_value x) | with_reducible apply patchSync_keeps | with_reducible refine State.each_keeps ?_ (fun _ _ _ => ?_) | with_reducible apply State.onHeld_keeps | with_reducible apply State.applyHeld_keeps | with_reducible apply ite_keeps | split)
theorem txSample_keeps' {a0 a1 a2} (h : Keeps kb s0 s) : Keeps2 kb s0 (txSample a0 a1 a2 s) := by
  unfold txSample
  repeat' (first | with_reducible assumption | (extract_lets +onlyGivenNames x; refine @cut kb s0 x _ ?_ (fun hx => ?_); unfold x; clear x; rotate_left; clear_value x; rotate_right) | (extract_lets +onlyGivenNames x; refine @cut1 kb _ s0 x _ ?_ (fun hx => ?_); unfold x; clear x; rotate_left; clear_value x; rotate_right) | (extract_lets +onlyGivenNames x; refine @cut2 kb _ s0 x _ ?_ (fun hx => ?_); unfold x; clear x; rotate_left; clear_value x; rotate_right) | (extract_lets +onlyGivenNames x; clear_value x) | with_reducible refine convert_keeps ?_ (by assumption) | with_reducible apply convert_keeps2 | with_reducible apply convert_keeps' | split | with_reducible apply mk2_keeps)
theorem txSample_keeps2 {a0 a1 a2} (h : Keeps kb s0 s) : Keeps kb s0 (txSample a0 a1 a2 s).2 := txSample_keeps' h
theorem txSample_keeps {a0 a1 a2} {v0 t} (h : Keeps kb s0 s) (e : txSample a0 a1 a2 s = (v0, t)) : Keeps kb s0 t := by
  have k : Keeps2 kb s0 (txSample a0 a1 a2 s) := txSample_keeps' h; rw [e] at k; exact k
theorem txCapture_keeps {a1} (h : Keeps kb s0 s) : Keeps kb s0 (txCapture s a1) := by
  unfold txCapture
  repeat' (first | with_reducible assumption | (extract_lets +onlyGivenNames x; refine @cut kb s0 x _ ?_ (fun hx => ?_); unfold x; clear x; rotate_left; clear_value x; rotate_right) | (extract_lets +onlyGivenNames x; refine @cut1 kb _ s0 x _ ?_ (fun hx => ?_); unfold x; clear x; rotate_left; clear_value x; rotate_right) | (extract_lets +onlyGivenNames x; refine @cut2 kb _ s0 x _ ?_ (fun hx => ?_); unfold x; clear x; rotate_left; clear_value x; rotate_right) | (extract_lets +onlyGivenNames x; clear_value x) | with_reducible refine State.each_keeps ?_ (fun _ _ _ => ?_) | with_reducible apply convKeep_keeps | with_reducible apply txSelApply_keeps | with_reducible refine txSample_keeps ?_ (by assumption) | with_reducible apply txSample_keeps2 | with_reducible apply State.onTx_keeps | with_reducible apply ite_keeps | with_reducible refine foldl2_keeps (fun _ _ _ => ?_) ?_ | with_reducible apply mk2_keeps | with_reducible apply txSample_keeps' | split | with_reducible apply mk1_keeps | with_reducible apply mk2_keeps)
theorem entryPut_keeps {a0 a1} (h : Keeps kb s0 s) : Keeps kb s0 (entryPut a0 a1 s) := by
  unfold entryPut
  repeat' (first | with_reducible assumption | (extract_lets +onlyGivenNames x; refine @cut kb s0 x _ ?_ (fun hx => ?_); unfold x; clear x; rotate_left; clear_value x; rotate_right) | (extract_lets +onlyGivenNames x; clear_value x) | with_reducible refine State.each_keeps ?_ (fun _ _ _ => ?_) | with_reducible apply State.pw_keeps | with_reducible apply ite_keeps | split)
theorem neighUse_keeps {a0 a1} (h : Keeps kb s0 s) : Keeps kb s0 (neighUse a0 a1 s) := by
  unfold neighUse
  repeat' (first | with_reducible assumption | (extract_lets +onlyGivenNames x; refine @cut kb s0 x _ ?_ (fun hx => ?_); unfold x; clear x; rotate_left; clear_value x; rotate_right) | (extract_lets +onlyGivenNames x; clear_value x) | with_reducible apply State.onNet_keeps | with_reducible apply ite_keeps | split)
theorem txPlace_keeps {a0 a1 a3} (h : Keeps kb s0 s) : Keeps kb s0 (txPlace a0 a1 s a3) := by
  unfold txPlace
  repeat' (first | with_reducible assumption | (extract_lets +onlyGivenNames x; refine @cut kb s0 x _ ?_ (fun hx => ?_); unfold x; clear x; rotate_left; clear_value x; rotate_right) | (extract_lets +onlyGivenNames x; clear_value x) | with_reducible apply txCnt_keeps | with_reducible apply txPut_keeps | with_reducible apply neighUse_keeps | with_reducible apply ite_keeps | split)
theorem txDue_keeps {a1} (h : Keeps kb s0 s) : Keeps kb s0 (txDue s a1) := by
  unfold txDue
  repeat' (first | with_reducible assumption | (extract_lets +onlyGivenNames x; refine @cut kb s0 x _ ?_ (fun hx => ?_); unfold x; clear x; rotate_left; clear_value x; rotate_right) | (extract_lets +onlyGivenNames x; clear_value x) | with_reducible refine State.each_keeps ?_ (fun _ _ _ => ?_) | with_reducible apply State.onTx_keeps | with_reducible apply txPlace_keeps | with_reducible apply ite_keeps | split)
theorem txSend_keeps {a1} (h : Keeps kb s0 s) : Keeps kb s0 (txSend s a1) := by
  unfold txSend
  repeat' (first | with_reducible assumption | (extract_lets +onlyGivenNames x; refine @cut kb s0 x _ ?_ (fun hx => ?_); unfold x; clear x; rotate_left; clear_value x; rotate_right) | (extract_lets +onlyGivenNames x; clear_value x) | with_reducible apply entryPut_keeps | with_reducible apply txDue_keeps | with_reducible apply ite_keeps | split)
theorem talker_keeps  (h : Keeps kb s0 s) : Keeps kb s0 (talker s) := by
  unfold talker
  repeat' (first | with_reducible assumption | (extract_lets +onlyGivenNames x; refine @cut kb s0 x _ ?_ (fun hx => ?_); unfold x; clear x; rotate_left; clear_value x; rotate_right) | (extract_lets +onlyGivenNames x; clear_value x) | with_reducible refine State.each_keeps ?_ (fun _ _ _ => ?_) | with_reducible apply patchKeep_keeps | with_reducible apply txSelFree_keeps | with_reducible apply txCapture_keeps | with_reducible apply txLegs_keeps | with_reducible apply State.onTx_keeps | with_reducible apply txSend_keeps | with_reducible apply txDisable_keeps | with_reducible apply ite_keeps | split)
theorem txStartNow_keeps {a0} (h : Keeps kb s0 s) : Keeps kb s0 (txStartNow a0 s) := by
  unfold txStartNow
  repeat' (first | with_reducible assumption | (extract_lets +onlyGivenNames x; refine @cut kb s0 x _ ?_ (fun hx => ?_); unfold x; clear x; rotate_left; clear_value x; rotate_right) | (extract_lets +onlyGivenNames x; clear_value x) | with_reducible apply State.onTx_keeps | with_reducible apply State.wr_keeps | with_reducible apply ite_keeps | split)
theorem execSapTxAnnounce_next {a0} (h : Keeps kb s0 s) : ∃ t, execSapTxAnnounce a0 s = .next t ∧ Keeps kb s0 t := by
  refine ⟨_, rfl, ?_⟩
  repeat' (first | with_reducible assumption | (extract_lets +onlyGivenNames x; refine @cut kb s0 x _ ?_ (fun hx => ?_); unfold x; clear x; rotate_left; clear_value x; rotate_right) | (extract_lets +onlyGivenNames x; clear_value x) | with_reducible refine awake_keeps ?_ ?_ | with_reducible apply sapAnnounce_keeps | with_reducible apply ite_keeps | split)
theorem txCommitRes_keeps {a0 a1 a2 a3 a4} (hk : ∀ s, Keeps kb s0 s → Keeps kb s0 (a4 s)) (h : Keeps kb s0 s) : ResKeeps kb s0 (txCommitRes a0 a1 a2 a3 a4 s) := by
  unfold txCommitRes
  repeat' (first | with_reducible assumption | (extract_lets +onlyGivenNames x; refine @cut kb s0 x _ ?_ (fun hx => ?_); unfold x; clear x; rotate_left; clear_value x; rotate_right) | (extract_lets +onlyGivenNames x; clear_value x) | with_reducible refine hk _ ?_ | with_reducible refine txCommit_keeps ?_ (by assumption) | with_reducible apply entryStage_keeps | with_reducible apply entryReset_keeps | with_reducible exact no_keeps | with_reducible apply resOk_keeps | with_reducible apply iteR_keeps | split)
theorem txAddBody_keeps {a0 a1 a2 a3} (h : Keeps kb s0 s) : ResKeeps kb s0 (txAddBody a0 a1 a2 a3 s) := by
  unfold txAddBody
  repeat' (first | with_reducible assumption | (extract_lets +onlyGivenNames x; refine @cut kb s0 x _ ?_ (fun hx => ?_); unfold x; clear x; rotate_left; clear_value x; rotate_right) | (extract_lets +onlyGivenNames x; clear_value x) | with_reducible refine txCommitRes_keeps (hk := fun _ _ => ?_) ?_ | with_reducible apply State.onTx_keeps | with_reducible exact no_keeps | with_reducible apply iteR_keeps | with_reducible apply id_keeps | split)
theorem execStreamTxAdd_next {a0 a1 a2 a3} (h : Keeps kb s0 s) : ∃ t, execStreamTxAdd a0 a1 a2 a3 s = .next t ∧ Keeps kb s0 t := by
  refine ⟨_, rfl, ?_⟩
  repeat' (first | with_reducible assumption | (extract_lets +onlyGivenNames x; refine @cut kb s0 x _ ?_ (fun hx => ?_); unfold x; clear x; rotate_left; clear_value x; rotate_right) | (extract_lets +onlyGivenNames x; clear_value x) | with_reducible refine runCmd_keeps (hb := fun _ _ _ => ?_) ?_ | with_reducible apply txAddBody_keeps | with_reducible apply ite_keeps | split)
theorem txModifyBody_keeps {a0 a1 a2} (h : Keeps kb s0 s) : ResKeeps kb s0 (txModifyBody a0 a1 a2 s) := by
  unfold txModifyBody
  repeat' (first | with_reducible assumption | (extract_lets +onlyGivenNames x; refine @cut kb s0 x _ ?_ (fun hx => ?_); unfold x; clear x; rotate_left; clear_value x; rotate_right) | (extract_lets +onlyGivenNames x; clear_value x) | with_reducible refine txCommitRes_keeps (hk := fun _ _ => ?_) ?_ | with_reducible exact no_keeps | with_reducible apply iteR_keeps | with_reducible apply id_keeps | split)
theorem execStreamTxModify_next {a0 a1 a2} (h : Keeps kb s0 s) : ∃ t, execStreamTxModify a0 a1 a2 s = .next t ∧ Keeps kb s0 t := by
  refine ⟨_, rfl, ?_⟩
  repeat' (first | with_reducible assumption | (extract_lets +onlyGivenNames x; refine @cut kb s0 x _ ?_ (fun hx => ?_); unfold x; clear x; rotate_left; clear_value x; rotate_right) | (extract_lets +onlyGivenNames x; clear_value x) | with_reducible refine runCmd_keeps (hb := fun _ _ _ => ?_) ?_ | with_reducible apply txModifyBody_keeps | with_reducible apply ite_keeps | split)
theorem txRemoveBody_keeps {a0 a1} (h : Keeps kb s0 s) : ResKeeps kb s0 (txRemoveBody a0 a1 s) := by
  unfold txRemoveBody
  repeat' (first | with_reducible assumption | (extract_lets +onlyGivenNames x; refine @cut kb s0 x _ ?_ (fun hx => ?_); unfold x; clear x; rotate_left; clear_value x; rotate_right) | (extract_lets +onlyGivenNames x; clear_value x) | with_reducible apply State.ww_keeps | with_reducible apply entryReset_keeps | with_reducible apply txDisable_keeps | with_reducible apply done_keeps | with_reducible apply State.onTx_keeps | with_reducible exact no_keeps | with_reducible apply iteR_keeps | split)
theorem execStreamTxRemove_next {a0 a1} (h : Keeps kb s0 s) : ∃ t, execStreamTxRemove a0 a1 s = .next t ∧ Keeps kb s0 t := by
  refine ⟨_, rfl, ?_⟩
  repeat' (first | with_reducible assumption | (extract_lets +onlyGivenNames x; refine @cut kb s0 x _ ?_ (fun hx => ?_); unfold x; clear x; rotate_left; clear_value x; rotate_right) | (extract_lets +onlyGivenNames x; clear_value x) | with_reducible refine runCmd_keeps (hb := fun _ _ _ => ?_) ?_ | with_reducible apply txRemoveBody_keeps | with_reducible apply ite_keeps | split)
theorem execStreamTxStatus_next {a0 a1} (h : Keeps kb s0 s) : ∃ t, execStreamTxStatus a0 a1 s = .next t ∧ Keeps kb s0 t := by
  refine ⟨_, rfl, ?_⟩
  repeat' (first | with_reducible assumption | (extract_lets +onlyGivenNames x; refine @cut kb s0 x _ ?_ (fun hx => ?_); unfold x; clear x; rotate_left; clear_value x; rotate_right) | (extract_lets +onlyGivenNames x; clear_value x) | with_reducible refine runCmd_keeps (hb := fun _ _ _ => ?_) ?_ | with_reducible apply retL_keeps | with_reducible exact no_keeps | with_reducible apply ite_keeps | split)
theorem execStreamTxCounters_next {a0 a1 a2} (h : Keeps kb s0 s) : ∃ t, execStreamTxCounters a0 a1 a2 s = .next t ∧ Keeps kb s0 t := by
  refine ⟨_, rfl, ?_⟩
  repeat' (first | with_reducible assumption | (extract_lets +onlyGivenNames x; refine @cut kb s0 x _ ?_ (fun hx => ?_); unfold x; clear x; rotate_left; clear_value x; rotate_right) | (extract_lets +onlyGivenNames x; clear_value x) | with_reducible refine runCmd_keeps (hb := fun _ _ _ => ?_) ?_ | with_reducible apply ret_keeps | with_reducible apply State.onCmd_keeps | with_reducible exact no_keeps | with_reducible apply ite_keeps | split)
theorem execTxchSet_next {a0 a1} (h : Keeps kb s0 s) : ∃ t, execTxchSet a0 a1 s = .next t ∧ Keeps kb s0 t := by
  refine ⟨_, rfl, ?_⟩
  repeat' (first | with_reducible assumption | (extract_lets +onlyGivenNames x; refine @cut kb s0 x _ ?_ (fun hx => ?_); unfold x; clear x; rotate_left; clear_value x; rotate_right) | (extract_lets +onlyGivenNames x; clear_value x) | with_reducible refine runCmd_keeps (hb := fun _ _ _ => ?_) ?_ | with_reducible apply done_keeps | with_reducible apply State.onHeld_keeps | with_reducible exact no_keeps | with_reducible apply ite_keeps | split)
theorem execStreamTxSdp_next {a0 a1} (h : Keeps kb s0 s) : ∃ t, execStreamTxSdp a0 a1 s = .next t ∧ Keeps kb s0 t := by
  refine ⟨_, rfl, ?_⟩
  repeat' (first | with_reducible assumption | (extract_lets +onlyGivenNames x; refine @cut kb s0 x _ ?_ (fun hx => ?_); unfold x; clear x; rotate_left; clear_value x; rotate_right) | (extract_lets +onlyGivenNames x; clear_value x) | with_reducible refine runCmd_keeps (hb := fun _ _ _ => ?_) ?_ | with_reducible apply ret_keeps | with_reducible exact no_keeps | with_reducible apply ite_keeps | split)
theorem execSapTxConfig_next {a0 a1 a2} (h : Keeps kb s0 s) : ∃ t, execSapTxConfig a0 a1 a2 s = .next t ∧ Keeps kb s0 t := by
  refine ⟨_, rfl, ?_⟩
  repeat' (first | with_reducible assumption | (extract_lets +onlyGivenNames x; refine @cut kb s0 x _ ?_ (fun hx => ?_); unfold x; clear x; rotate_left; clear_value x; rotate_right) | (extract_lets +onlyGivenNames x; clear_value x) | with_reducible refine runCmd_keeps (hb := fun _ _ _ => ?_) ?_ | with_reducible apply done_keeps | with_reducible apply State.wr_keeps | with_reducible apply State.wb_keeps | with_reducible exact no_keeps | with_reducible apply ite_keeps | split)
theorem execTxLoadQuery_next {a0 a1} (h : Keeps kb s0 s) : ∃ t, execTxLoadQuery a0 a1 s = .next t ∧ Keeps kb s0 t := by
  refine ⟨_, rfl, ?_⟩
  repeat' (first | with_reducible assumption | (extract_lets +onlyGivenNames x; refine @cut kb s0 x _ ?_ (fun hx => ?_); unfold x; clear x; rotate_left; clear_value x; rotate_right) | (extract_lets +onlyGivenNames x; clear_value x) | with_reducible refine runCmd_keeps (hb := fun _ _ _ => ?_) ?_ | with_reducible apply ret_keeps | with_reducible exact no_keeps | with_reducible apply ite_keeps | split)
theorem execTxCommit_next {a0 a1} (h : Keeps kb s0 s) : ∃ t, execTxCommit a0 a1 s = .next t ∧ Keeps kb s0 t := by
  refine ⟨_, rfl, ?_⟩
  repeat' (first | with_reducible assumption | (extract_lets +onlyGivenNames x; refine @cut kb s0 x _ ?_ (fun hx => ?_); unfold x; clear x; rotate_left; clear_value x; rotate_right) | (extract_lets +onlyGivenNames x; clear_value x) | with_reducible refine awake_keeps ?_ ?_ | with_reducible apply actNoted_keeps | with_reducible apply regTxCommit_keeps | with_reducible apply ite_keeps | split)
theorem execTxLoad_next {a0 a1} (h : Keeps kb s0 s) : ∃ t, execTxLoad a0 a1 s = .next t ∧ Keeps kb s0 t := by
  refine ⟨_, rfl, ?_⟩
  repeat' (first | with_reducible assumption | (extract_lets +onlyGivenNames x; refine @cut kb s0 x _ ?_ (fun hx => ?_); unfold x; clear x; rotate_left; clear_value x; rotate_right) | (extract_lets +onlyGivenNames x; clear_value x) | with_reducible refine awake_keeps ?_ ?_ | with_reducible apply regTxLoad_keeps | with_reducible apply ite_keeps | split)

end Sys2Proof.Machine
end

