-- ==== Sys2Proof/Laws/KeepsLocal.lean ====
section
/-!
SUPPORT. Every operation of Machine/Local.lean keeps what `Keeps` says.
-/
namespace Sys2Proof.Machine
set_option linter.all false
variable {kb : Prop} {s0 s : State}

theorem arBlock_keeps {a0} (h : Keeps kb s0 s) : Keeps kb s0 (arBlock a0 s) := by
  unfold arBlock
  repeat' (first | with_reducible assumption | (extract_lets +onlyGivenNames x; refine @cut kb s0 x _ ?_ (fun hx => ?_); unfold x; clear x; rotate_left; clear_value x; rotate_right) | (extract_lets +onlyGivenNames x; clear_value x) | with_reducible apply State.onLoc_keeps | with_reducible apply ite_keeps | split)
theorem arCfgErr_keeps {a0} (h : Keeps kb s0 s) : Keeps kb s0 (arCfgErr a0 s) := by
  unfold arCfgErr
  repeat' (first | with_reducible assumption | (extract_lets +onlyGivenNames x; refine @cut kb s0 x _ ?_ (fun hx => ?_); unfold x; clear x; rotate_left; clear_value x; rotate_right) | (extract_lets +onlyGivenNames x; clear_value x) | with_reducible apply State.wb_keeps | with_reducible apply ite_keeps | split)
theorem arCtlWrite_keeps {a0 a1} (h : Keeps kb s0 s) : Keeps kb s0 (arCtlWrite a0 a1 s) := by
  unfold arCtlWrite
  repeat' (first | with_reducible assumption | (extract_lets +onlyGivenNames x; refine @cut kb s0 x _ ?_ (fun hx => ?_); unfold x; clear x; rotate_left; clear_value x; rotate_right) | (extract_lets +onlyGivenNames x; clear_value x) | with_reducible apply State.ww_keeps | with_reducible apply ite_keeps | split)
theorem arSet_keeps {a0 a1} (h : Keeps kb s0 s) : Keeps kb s0 (arSet a0 a1 s) := by
  unfold arSet
  repeat' (first | with_reducible assumption | (extract_lets +onlyGivenNames x; refine @cut kb s0 x _ ?_ (fun hx => ?_); unfold x; clear x; rotate_left; clear_value x; rotate_right) | (extract_lets +onlyGivenNames x; clear_value x) | with_reducible apply State.raise_keeps | with_reducible apply State.wr_keeps | with_reducible apply ite_keeps | split)
theorem arDisable_keeps {a0} (h : Keeps kb s0 s) : Keeps kb s0 (arDisable a0 s) := by
  unfold arDisable
  repeat' (first | with_reducible assumption | (extract_lets +onlyGivenNames x; refine @cut kb s0 x _ ?_ (fun hx => ?_); unfold x; clear x; rotate_left; clear_value x; rotate_right) | (extract_lets +onlyGivenNames x; clear_value x) | with_reducible apply arSet_keeps | with_reducible apply arBlock_keeps | with_reducible apply State.onLoc_keeps | with_reducible apply srcGive_keeps | with_reducible apply ite_keeps | split)
theorem arEnable_keeps {a0} (h : Keeps kb s0 s) : Keeps kb s0 (arEnable a0 s) := by
  unfold arEnable
  repeat' (first | with_reducible assumption | (extract_lets +onlyGivenNames x; refine @cut kb s0 x _ ?_ (fun hx => ?_); unfold x; clear x; rotate_left; clear_value x; rotate_right) | (extract_lets +onlyGivenNames x; clear_value x) | with_reducible apply arCfgErr_keeps | with_reducible apply State.wb_keeps | with_reducible apply srcTake_keeps | with_reducible apply arSet_keeps | with_reducible apply arBlock_keeps | with_reducible apply State.onLoc_keeps | with_reducible apply ite_keeps | split)
theorem arErrCnt_keeps {a0 a1} (h : Keeps kb s0 s) : Keeps kb s0 (arErrCnt a0 a1 s) := by
  unfold arErrCnt
  repeat' (first | with_reducible assumption | (extract_lets +onlyGivenNames x; refine @cut kb s0 x _ ?_ (fun hx => ?_); unfold x; clear x; rotate_left; clear_value x; rotate_right) | (extract_lets +onlyGivenNames x; clear_value x) | with_reducible apply State.cntr_keeps | with_reducible apply State.raise_keeps | with_reducible apply ite_keeps | split)
theorem arSearch_keeps {a0 a1} (h : Keeps kb s0 s) : Keeps kb s0 (arSearch a0 a1 s) := by
  unfold arSearch
  repeat' (first | with_reducible assumption | (extract_lets +onlyGivenNames x; refine @cut kb s0 x _ ?_ (fun hx => ?_); unfold x; clear x; rotate_left; clear_value x; rotate_right) | (extract_lets +onlyGivenNames x; clear_value x) | with_reducible apply arSet_keeps | with_reducible apply arBlock_keeps | with_reducible apply State.onLoc_keeps | with_reducible apply ite_keeps | split)
theorem locHand_keeps {a0 a1 a2} (h : Keeps kb s0 s) : Keeps kb s0 (locHand a0 a1 a2 s) := by
  unfold locHand
  repeat' (first | with_reducible assumption | (extract_lets +onlyGivenNames x; refine @cut kb s0 x _ ?_ (fun hx => ?_); unfold x; clear x; rotate_left; clear_value x; rotate_right) | (extract_lets +onlyGivenNames x; clear_value x) | with_reducible apply convKeep_keeps | with_reducible apply ite_keeps | split)
theorem arHand_keeps {a0 a1} (h : Keeps kb s0 s) : Keeps kb s0 (arHand a0 a1 s) := by
  unfold arHand
  repeat' (first | with_reducible assumption | (extract_lets +onlyGivenNames x; refine @cut kb s0 x _ ?_ (fun hx => ?_); unfold x; clear x; rotate_left; clear_value x; rotate_right) | (extract_lets +onlyGivenNames x; clear_value x) | with_reducible apply locHand_keeps | with_reducible apply State.onLoc_keeps | with_reducible apply ite_keeps | split)
theorem arSample_keeps' {a0 a1 a2 a3} (h : Keeps kb s0 s) : Keeps2 kb s0 (arSample a0 a1 a2 a3 s) := by
  unfold arSample
  repeat' (first | with_reducible assumption | (extract_lets +onlyGivenNames x; refine @cut kb s0 x _ ?_ (fun hx => ?_); unfold x; clear x; rotate_left; clear_value x; rotate_right) | (extract_lets +onlyGivenNames x; clear_value x) | with_reducible apply arErrCnt_keeps | with_reducible apply State.onLoc_keeps | with_reducible apply State.cntr_keeps | with_reducible apply State.raise_keeps | split | with_reducible apply mk2_keeps)
theorem arSample_keeps2 {a0 a1 a2 a3} (h : Keeps kb s0 s) : Keeps kb s0 (arSample a0 a1 a2 a3 s).2 := arSample_keeps' h
theorem arSample_keeps {a0 a1 a2 a3} {v0 t} (h : Keeps kb s0 s) (e : arSample a0 a1 a2 a3 s = (v0, t)) : Keeps kb s0 t := by
  have k : Keeps2 kb s0 (arSample a0 a1 a2 a3 s) := arSample_keeps' h; rw [e] at k; exact k
theorem arPut_keeps {a0 a1 a2} (h : Keeps kb s0 s) : Keeps kb s0 (arPut a0 a1 a2 s) := by
  unfold arPut
  repeat' (first | with_reducible assumption | (extract_lets +onlyGivenNames x; refine @cut kb s0 x _ ?_ (fun hx => ?_); unfold x; clear x; rotate_left; clear_value x; rotate_right) | (extract_lets +onlyGivenNames x; clear_value x) | with_reducible refine State.each_keeps ?_ (fun _ _ _ => ?_) | with_reducible apply State.pw_keeps | with_reducible apply ite_keeps | split)
theorem arPublish_keeps {a0} (h : Keeps kb s0 s) : Keeps kb s0 (arPublish a0 s) := by
  unfold arPublish
  repeat' (first | with_reducible assumption | (extract_lets +onlyGivenNames x; refine @cut kb s0 x _ ?_ (fun hx => ?_); unfold x; clear x; rotate_left; clear_value x; rotate_right) | (extract_lets +onlyGivenNames x; clear_value x) | with_reducible refine State.each_keeps ?_ (fun _ _ _ => ?_) | with_reducible apply arPut_keeps | with_reducible apply arErrCnt_keeps | with_reducible apply State.raise_keeps | with_reducible apply State.wb_keeps | with_reducible apply State.wr_keeps | with_reducible apply arBlock_keeps | with_reducible apply State.onLoc_keeps | with_reducible apply ite_keeps | split)
theorem arTake_keeps {a0 a1} (h : Keeps kb s0 s) : Keeps kb s0 (arTake a0 a1 s) := by
  unfold arTake
  repeat' (first | with_reducible assumption | (extract_lets +onlyGivenNames x; refine @cut kb s0 x _ ?_ (fun hx => ?_); unfold x; clear x; rotate_left; clear_value x; rotate_right) | (extract_lets +onlyGivenNames x; refine @cut1 kb _ s0 x _ ?_ (fun hx => ?_); unfold x; clear x; rotate_left; clear_value x; rotate_right) | (extract_lets +onlyGivenNames x; refine @cut2 kb _ s0 x _ ?_ (fun hx => ?_); unfold x; clear x; rotate_left; clear_value x; rotate_right) | (extract_lets +onlyGivenNames x; clear_value x) | with_reducible apply arBlock_keeps | with_reducible apply State.cntr_keeps | with_reducible refine arSample_keeps ?_ (by assumption) | with_reducible apply arSample_keeps2 | with_reducible apply State.onLoc_keeps | with_reducible apply arPublish_keeps | with_reducible apply ite_keeps | with_reducible apply arSample_keeps' | split | with_reducible apply mk1_keeps | with_reducible apply mk2_keeps)
theorem cand6_keeps  (h : Keeps kb s0 s) : Keeps kb s0 (cand6 s) := by
  unfold cand6
  repeat' (first | with_reducible assumption | (extract_lets +onlyGivenNames x; refine @cut kb s0 x _ ?_ (fun hx => ?_); unfold x; clear x; rotate_left; clear_value x; rotate_right) | (extract_lets +onlyGivenNames x; clear_value x) | with_reducible apply State.onRef_keeps | with_reducible apply ite_keeps | split)
theorem arFrame_keeps {a0 a1 a2} (h : Keeps kb s0 s) : Keeps kb s0 (arFrame a0 a1 a2 s) := by
  unfold arFrame
  repeat' (first | with_reducible assumption | (extract_lets +onlyGivenNames x; refine @cut kb s0 x _ ?_ (fun hx => ?_); unfold x; clear x; rotate_left; clear_value x; rotate_right) | (extract_lets +onlyGivenNames x; clear_value x) | with_reducible apply State.onLoc_keeps | with_reducible apply State.wr_keeps | with_reducible apply measureEdge_keeps | with_reducible apply arSearch_keeps | with_reducible apply arHand_keeps | with_reducible apply arTake_keeps | with_reducible apply cand6_keeps | with_reducible apply State.onRef_keeps | with_reducible apply ite_keeps | split)
theorem arLoss_keeps {a0 a1} (h : Keeps kb s0 s) : Keeps kb s0 (arLoss a0 a1 s) := by
  unfold arLoss
  repeat' (first | with_reducible assumption | (extract_lets +onlyGivenNames x; refine @cut kb s0 x _ ?_ (fun hx => ?_); unfold x; clear x; rotate_left; clear_value x; rotate_right) | (extract_lets +onlyGivenNames x; clear_value x) | with_reducible apply arSet_keeps | with_reducible apply arBlock_keeps | with_reducible apply State.onLoc_keeps | with_reducible apply State.cntr_keeps | with_reducible apply cand6_keeps | with_reducible apply ite_keeps | split)
theorem arNomWrite_keeps {a0 a1} (h : Keeps kb s0 s) : Keeps kb s0 (arNomWrite a0 a1 s) := by
  unfold arNomWrite
  repeat' (first | with_reducible assumption | (extract_lets +onlyGivenNames x; refine @cut kb s0 x _ ?_ (fun hx => ?_); unfold x; clear x; rotate_left; clear_value x; rotate_right) | (extract_lets +onlyGivenNames x; clear_value x) | with_reducible apply arCfgErr_keeps | with_reducible apply State.wr_keeps | with_reducible apply ite_keeps | split)
theorem atBlock_keeps {a0} (h : Keeps kb s0 s) : Keeps kb s0 (atBlock a0 s) := by
  unfold atBlock
  repeat' (first | with_reducible assumption | (extract_lets +onlyGivenNames x; refine @cut kb s0 x _ ?_ (fun hx => ?_); unfold x; clear x; rotate_left; clear_value x; rotate_right) | (extract_lets +onlyGivenNames x; clear_value x) | with_reducible refine State.applyDue_keeps (hk := fun _ _ _ => ?_) ?_ | with_reducible apply State.applyHeld_keeps | with_reducible apply State.wr_keeps | with_reducible apply State.onLoc_keeps | with_reducible apply State.onRef_keeps | with_reducible apply ite_keeps | split)
theorem atZero_keeps {a0} (h : Keeps kb s0 s) : Keeps kb s0 (atZero a0 s) := by
  unfold atZero
  repeat' (first | with_reducible assumption | (extract_lets +onlyGivenNames x; refine @cut kb s0 x _ ?_ (fun hx => ?_); unfold x; clear x; rotate_left; clear_value x; rotate_right) | (extract_lets +onlyGivenNames x; clear_value x) | with_reducible apply State.raise_keeps | with_reducible apply State.wb_keeps | with_reducible apply ite_keeps | split)
theorem atSet_keeps {a0 a1} (h : Keeps kb s0 s) : Keeps kb s0 (atSet a0 a1 s) := by
  unfold atSet
  repeat' (first | with_reducible assumption | (extract_lets +onlyGivenNames x; refine @cut kb s0 x _ ?_ (fun hx => ?_); unfold x; clear x; rotate_left; clear_value x; rotate_right) | (extract_lets +onlyGivenNames x; clear_value x) | with_reducible apply State.raise_keeps | with_reducible apply State.wr_keeps | with_reducible apply ite_keeps | split)
theorem atStop_keeps {a0} (h : Keeps kb s0 s) : Keeps kb s0 (atStop a0 s) := by
  unfold atStop
  repeat' (first | with_reducible assumption | (extract_lets +onlyGivenNames x; refine @cut kb s0 x _ ?_ (fun hx => ?_); unfold x; clear x; rotate_left; clear_value x; rotate_right) | (extract_lets +onlyGivenNames x; clear_value x) | with_reducible apply atZero_keeps | with_reducible apply atSet_keeps | with_reducible apply State.onLoc_keeps | with_reducible apply srcGive_keeps | with_reducible apply ite_keeps | split)
theorem atCapture_keeps {a1} (h : Keeps kb s0 s) : Keeps kb s0 (atCapture s a1) := by
  unfold atCapture
  repeat' (first | with_reducible assumption | (extract_lets +onlyGivenNames x; refine @cut kb s0 x _ ?_ (fun hx => ?_); unfold x; clear x; rotate_left; clear_value x; rotate_right) | (extract_lets +onlyGivenNames x; refine @cut1 kb _ s0 x _ ?_ (fun hx => ?_); unfold x; clear x; rotate_left; clear_value x; rotate_right) | (extract_lets +onlyGivenNames x; refine @cut2 kb _ s0 x _ ?_ (fun hx => ?_); unfold x; clear x; rotate_left; clear_value x; rotate_right) | (extract_lets +onlyGivenNames x; clear_value x) | with_reducible refine State.each_keeps ?_ (fun _ _ _ => ?_) | with_reducible apply convKeep_keeps | with_reducible apply atStop_keeps | with_reducible apply State.onLoc_keeps | with_reducible refine convert_keeps ?_ (by assumption) | with_reducible apply convert_keeps2 | with_reducible apply atZero_keeps | with_reducible apply ite_keeps | with_reducible apply convert_keeps' | split | with_reducible apply mk1_keeps | with_reducible apply mk2_keeps)
theorem atCfgErr_keeps {a0} (h : Keeps kb s0 s) : Keeps kb s0 (atCfgErr a0 s) := by
  unfold atCfgErr
  repeat' (first | with_reducible assumption | (extract_lets +onlyGivenNames x; refine @cut kb s0 x _ ?_ (fun hx => ?_); unfold x; clear x; rotate_left; clear_value x; rotate_right) | (extract_lets +onlyGivenNames x; clear_value x) | with_reducible apply State.wb_keeps | with_reducible apply ite_keeps | split)
theorem atCtlWrite_keeps {a0 a1} (h : Keeps kb s0 s) : Keeps kb s0 (atCtlWrite a0 a1 s) := by
  unfold atCtlWrite
  repeat' (first | with_reducible assumption | (extract_lets +onlyGivenNames x; refine @cut kb s0 x _ ?_ (fun hx => ?_); unfold x; clear x; rotate_left; clear_value x; rotate_right) | (extract_lets +onlyGivenNames x; clear_value x) | with_reducible apply atCfgErr_keeps | with_reducible apply State.ww_keeps | with_reducible apply State.onLoc_keeps | with_reducible apply atSet_keeps | with_reducible apply ite_keeps | split)
theorem atEnable_keeps {a0} (h : Keeps kb s0 s) : Keeps kb s0 (atEnable a0 s) := by
  unfold atEnable
  repeat' (first | with_reducible assumption | (extract_lets +onlyGivenNames x; refine @cut kb s0 x _ ?_ (fun hx => ?_); unfold x; clear x; rotate_left; clear_value x; rotate_right) | (extract_lets +onlyGivenNames x; clear_value x) | with_reducible apply atCfgErr_keeps | with_reducible apply State.wb_keeps | with_reducible apply srcTake_keeps | with_reducible apply State.onLoc_keeps | with_reducible apply atSet_keeps | with_reducible apply State.onRef_keeps | with_reducible apply ite_keeps | split)
theorem atStart_keeps {a0} (h : Keeps kb s0 s) : Keeps kb s0 (atStart a0 s) := by
  unfold atStart
  repeat' (first | with_reducible assumption | (extract_lets +onlyGivenNames x; refine @cut kb s0 x _ ?_ (fun hx => ?_); unfold x; clear x; rotate_left; clear_value x; rotate_right) | (extract_lets +onlyGivenNames x; clear_value x) | with_reducible apply atSet_keeps | with_reducible apply State.onLoc_keeps | with_reducible apply ite_keeps | split)
theorem i2sWr_keeps {a0 a1 a2} (h : Keeps kb s0 s) : Keeps kb s0 (i2sWr a0 a1 a2 s) := by
  unfold i2sWr
  repeat' (first | with_reducible assumption | (extract_lets +onlyGivenNames x; refine @cut kb s0 x _ ?_ (fun hx => ?_); unfold x; clear x; rotate_left; clear_value x; rotate_right) | (extract_lets +onlyGivenNames x; clear_value x) | with_reducible apply State.wr_keeps | with_reducible apply ite_keeps | split)
theorem i2sErr_keeps {a0} (h : Keeps kb s0 s) : Keeps kb s0 (i2sErr a0 s) := by
  unfold i2sErr
  repeat' (first | with_reducible assumption | (extract_lets +onlyGivenNames x; refine @cut kb s0 x _ ?_ (fun hx => ?_); unfold x; clear x; rotate_left; clear_value x; rotate_right) | (extract_lets +onlyGivenNames x; clear_value x) | with_reducible apply State.raise_keeps | with_reducible apply i2sWr_keeps | with_reducible apply ite_keeps | split)
theorem i2sPrime_keeps {a0} (h : Keeps kb s0 s) : Keeps kb s0 (i2sPrime a0 s) := by
  unfold i2sPrime
  repeat' (first | with_reducible assumption | (extract_lets +onlyGivenNames x; refine @cut kb s0 x _ ?_ (fun hx => ?_); unfold x; clear x; rotate_left; clear_value x; rotate_right) | (extract_lets +onlyGivenNames x; clear_value x) | with_reducible apply State.onLoc_keeps | with_reducible apply ite_keeps | split)
theorem i2sSet_keeps {a0 a1} (h : Keeps kb s0 s) : Keeps kb s0 (i2sSet a0 a1 s) := by
  unfold i2sSet
  repeat' (first | with_reducible assumption | (extract_lets +onlyGivenNames x; refine @cut kb s0 x _ ?_ (fun hx => ?_); unfold x; clear x; rotate_left; clear_value x; rotate_right) | (extract_lets +onlyGivenNames x; clear_value x) | with_reducible apply i2sWr_keeps | with_reducible apply State.wr_keeps | with_reducible apply State.raise_keeps | with_reducible apply ite_keeps | split)
theorem i2sIndex_keeps {a0} (h : Keeps kb s0 s) : Keeps kb s0 (i2sIndex a0 s) := by
  unfold i2sIndex
  repeat' (first | with_reducible assumption | (extract_lets +onlyGivenNames x; refine @cut kb s0 x _ ?_ (fun hx => ?_); unfold x; clear x; rotate_left; clear_value x; rotate_right) | (extract_lets +onlyGivenNames x; clear_value x) | with_reducible apply State.wr_keeps | with_reducible apply ite_keeps | split)
theorem i2sReady_keeps {a0} (h : Keeps kb s0 s) : Keeps kb s0 (i2sReady a0 s) := by
  unfold i2sReady
  repeat' (first | with_reducible assumption | (extract_lets +onlyGivenNames x; refine @cut kb s0 x _ ?_ (fun hx => ?_); unfold x; clear x; rotate_left; clear_value x; rotate_right) | (extract_lets +onlyGivenNames x; clear_value x) | with_reducible apply i2sErr_keeps | with_reducible apply i2sWr_keeps | with_reducible apply srcTake_keeps | with_reducible apply i2sPrime_keeps | with_reducible apply State.onLoc_keeps | with_reducible apply i2sSet_keeps | with_reducible apply i2sIndex_keeps | with_reducible apply ite_keeps | split)
theorem locEnable_keeps {a0 a1} (h : Keeps kb s0 s) : Keeps kb s0 (locEnable a0 a1 s) := by
  unfold locEnable
  repeat' (first | with_reducible assumption | (extract_lets +onlyGivenNames x; refine @cut kb s0 x _ ?_ (fun hx => ?_); unfold x; clear x; rotate_left; clear_value x; rotate_right) | (extract_lets +onlyGivenNames x; clear_value x) | with_reducible apply i2sReady_keeps | with_reducible apply arEnable_keeps | with_reducible apply atEnable_keeps | with_reducible apply ite_keeps | split)
theorem i2sStart_keeps {a0} (h : Keeps kb s0 s) : Keeps kb s0 (i2sStart a0 s) := by
  unfold i2sStart
  repeat' (first | with_reducible assumption | (extract_lets +onlyGivenNames x; refine @cut kb s0 x _ ?_ (fun hx => ?_); unfold x; clear x; rotate_left; clear_value x; rotate_right) | (extract_lets +onlyGivenNames x; clear_value x) | with_reducible refine State.each_keeps ?_ (fun _ _ _ => ?_) | with_reducible apply State.onLoc_keeps | with_reducible apply ite_keeps | split)
theorem localTick_keeps  (h : Keeps kb s0 s) : Keeps kb s0 (localTick s) := by
  unfold localTick
  repeat' (first | with_reducible assumption | (extract_lets +onlyGivenNames x; refine @cut kb s0 x _ ?_ (fun hx => ?_); unfold x; clear x; rotate_left; clear_value x; rotate_right) | (extract_lets +onlyGivenNames x; clear_value x) | with_reducible refine State.each_keeps ?_ (fun _ _ _ => ?_) | with_reducible apply arDisable_keeps | with_reducible apply locEnable_keeps | with_reducible apply i2sStart_keeps | with_reducible apply atStart_keeps | with_reducible apply State.onLoc_keeps | with_reducible apply State.onRef_keeps | with_reducible apply cand6_keeps | with_reducible apply ite_keeps | split)
theorem regGrpStart_keeps {a0 a1 a2} (h : Keeps kb s0 s) : Keeps kb s0 (regGrpStart a0 a1 a2 s) := by
  unfold regGrpStart
  repeat' (first | with_reducible assumption | (extract_lets +onlyGivenNames x; refine @cut kb s0 x _ ?_ (fun hx => ?_); unfold x; clear x; rotate_left; clear_value x; rotate_right) | (extract_lets +onlyGivenNames x; clear_value x) | with_reducible apply State.onLoc_keeps | with_reducible apply ite_keeps | split)
theorem i2sOff_keeps {a0} (h : Keeps kb s0 s) : Keeps kb s0 (i2sOff a0 s) := by
  unfold i2sOff
  repeat' (first | with_reducible assumption | (extract_lets +onlyGivenNames x; refine @cut kb s0 x _ ?_ (fun hx => ?_); unfold x; clear x; rotate_left; clear_value x; rotate_right) | (extract_lets +onlyGivenNames x; clear_value x) | with_reducible apply srcGive_keeps | with_reducible apply i2sPrime_keeps | with_reducible apply State.onLoc_keeps | with_reducible apply i2sIndex_keeps | with_reducible apply i2sWr_keeps | with_reducible apply i2sSet_keeps | with_reducible apply ite_keeps | split)
theorem i2sCtlWrite_keeps {a0 a1} (h : Keeps kb s0 s) : Keeps kb s0 (i2sCtlWrite a0 a1 s) := by
  unfold i2sCtlWrite
  repeat' (first | with_reducible assumption | (extract_lets +onlyGivenNames x; refine @cut kb s0 x _ ?_ (fun hx => ?_); unfold x; clear x; rotate_left; clear_value x; rotate_right) | (extract_lets +onlyGivenNames x; clear_value x) | with_reducible apply State.onLoc_keeps | with_reducible apply i2sErr_keeps | with_reducible apply State.ww_keeps | with_reducible apply i2sOff_keeps | with_reducible apply ite_keeps | split)
theorem i2sNomWrite_keeps {a0 a1} (h : Keeps kb s0 s) : Keeps kb s0 (i2sNomWrite a0 a1 s) := by
  unfold i2sNomWrite
  repeat' (first | with_reducible assumption | (extract_lets +onlyGivenNames x; refine @cut kb s0 x _ ?_ (fun hx => ?_); unfold x; clear x; rotate_left; clear_value x; rotate_right) | (extract_lets +onlyGivenNames x; clear_value x) | with_reducible apply i2sErr_keeps | with_reducible apply i2sWr_keeps | with_reducible apply ite_keeps | split)
theorem locConvert_keeps {a0 a1} (h : Keeps kb s0 s) : Keeps kb s0 (locConvert a0 a1 s) := by
  unfold locConvert
  repeat' (first | with_reducible assumption | (extract_lets +onlyGivenNames x; refine @cut kb s0 x _ ?_ (fun hx => ?_); unfold x; clear x; rotate_left; clear_value x; rotate_right) | (extract_lets +onlyGivenNames x; refine @cut1 kb _ s0 x _ ?_ (fun hx => ?_); unfold x; clear x; rotate_left; clear_value x; rotate_right) | (extract_lets +onlyGivenNames x; refine @cut2 kb _ s0 x _ ?_ (fun hx => ?_); unfold x; clear x; rotate_left; clear_value x; rotate_right) | (extract_lets +onlyGivenNames x; clear_value x) | with_reducible refine convert_keeps ?_ (by assumption) | with_reducible apply convert_keeps2 | with_reducible apply State.onXp_keeps | with_reducible apply ite_keeps | with_reducible apply convert_keeps' | split | with_reducible apply mk1_keeps | with_reducible apply mk2_keeps)
theorem localIn_keeps  (h : Keeps kb s0 s) : Keeps kb s0 (localIn s) := by
  unfold localIn
  repeat' (first | with_reducible assumption | (extract_lets +onlyGivenNames x; refine @cut kb s0 x _ ?_ (fun hx => ?_); unfold x; clear x; rotate_left; clear_value x; rotate_right) | (extract_lets +onlyGivenNames x; clear_value x) | with_reducible apply State.onXp_keeps | with_reducible refine State.each_keeps ?_ (fun _ _ _ => ?_) | with_reducible apply locConvert_keeps | with_reducible apply ite_keeps | split)
theorem clkinSync_keeps  (h : Keeps kb s0 s) : Keeps kb s0 (clkinSync s) := by
  unfold clkinSync
  repeat' (first | with_reducible assumption | (extract_lets +onlyGivenNames x; refine @cut kb s0 x _ ?_ (fun hx => ?_); unfold x; clear x; rotate_left; clear_value x; rotate_right) | (extract_lets +onlyGivenNames x; clear_value x) | with_reducible refine State.each_keeps ?_ (fun _ _ _ => ?_) | with_reducible apply State.raise_keeps | with_reducible apply State.wb_keeps | with_reducible apply ite_keeps | split)
theorem localOut_keeps  (h : Keeps kb s0 s) : Keeps kb s0 (localOut s) := by
  unfold localOut
  repeat' (first | with_reducible assumption | (extract_lets +onlyGivenNames x; refine @cut kb s0 x _ ?_ (fun hx => ?_); unfold x; clear x; rotate_left; clear_value x; rotate_right) | (extract_lets +onlyGivenNames x; clear_value x) | with_reducible refine State.applyDue_keeps (hk := fun _ _ _ => ?_) ?_ | with_reducible apply State.applyHeld_keeps | with_reducible refine State.each_keeps ?_ (fun _ _ _ => ?_) | with_reducible apply convKeep_keeps | with_reducible apply clkinSync_keeps | with_reducible apply atCapture_keeps | with_reducible apply ite_keeps | split)
theorem portStart_keeps {a0} (h : Keeps kb s0 s) : Keeps kb s0 (portStart a0 s) := by
  unfold portStart
  repeat' (first | with_reducible assumption | (extract_lets +onlyGivenNames x; refine @cut kb s0 x _ ?_ (fun hx => ?_); unfold x; clear x; rotate_left; clear_value x; rotate_right) | (extract_lets +onlyGivenNames x; clear_value x) | with_reducible apply i2sStart_keeps | with_reducible apply atStart_keeps | with_reducible apply ite_keeps | split)
theorem clkStop_keeps {a0} (h : Keeps kb s0 s) : Keeps kb s0 (clkStop a0 s) := by
  unfold clkStop
  repeat' (first | with_reducible assumption | (extract_lets +onlyGivenNames x; refine @cut kb s0 x _ ?_ (fun hx => ?_); unfold x; clear x; rotate_left; clear_value x; rotate_right) | (extract_lets +onlyGivenNames x; clear_value x) | with_reducible apply State.onRef_keeps | with_reducible apply ite_keeps | split)
theorem clkTake_keeps {a0} (h : Keeps kb s0 s) : Keeps kb s0 (clkTake a0 s) := by
  unfold clkTake
  repeat' (first | with_reducible assumption | (extract_lets +onlyGivenNames x; refine @cut kb s0 x _ ?_ (fun hx => ?_); unfold x; clear x; rotate_left; clear_value x; rotate_right) | (extract_lets +onlyGivenNames x; clear_value x) | with_reducible apply State.onLoc_keeps | with_reducible apply State.onRef_keeps | with_reducible apply ite_keeps | split)
theorem clkEdge_keeps {a0 a1} (h : Keeps kb s0 s) : Keeps kb s0 (clkEdge a0 a1 s) := by
  unfold clkEdge
  repeat' (first | with_reducible assumption | (extract_lets +onlyGivenNames x; refine @cut kb s0 x _ ?_ (fun hx => ?_); unfold x; clear x; rotate_left; clear_value x; rotate_right) | (extract_lets +onlyGivenNames x; clear_value x) | with_reducible apply clkStop_keeps | with_reducible apply clkTake_keeps | with_reducible apply State.onLoc_keeps | with_reducible apply ite_keeps | split)
theorem pinEdge_keeps {a0 a1} (h : Keeps kb s0 s) : Keeps kb s0 (pinEdge a0 a1 s) := by
  unfold pinEdge
  repeat' (first | with_reducible assumption | (extract_lets +onlyGivenNames x; refine @cut kb s0 x _ ?_ (fun hx => ?_); unfold x; clear x; rotate_left; clear_value x; rotate_right) | (extract_lets +onlyGivenNames x; clear_value x) | with_reducible apply State.onRef_keeps | with_reducible apply clkinSync_keeps | with_reducible apply ite_keeps | split)
theorem execClockPinEdge_next {a0 a1 a2} (h : Keeps kb s0 s) : ∃ t, execClockPinEdge a0 a1 a2 s = .next t ∧ Keeps kb s0 t := by
  refine ⟨_, rfl, ?_⟩
  repeat' (first | with_reducible assumption | (extract_lets +onlyGivenNames x; refine @cut kb s0 x _ ?_ (fun hx => ?_); unfold x; clear x; rotate_left; clear_value x; rotate_right) | (extract_lets +onlyGivenNames x; clear_value x) | with_reducible refine awake_keeps ?_ ?_ | with_reducible apply pinEdge_keeps | with_reducible apply ite_keeps | split)
theorem i2sClk_keeps {a0 a1} (h : Keeps kb s0 s) : Keeps kb s0 (i2sClk a0 a1 s) := by
  unfold i2sClk
  repeat' (first | with_reducible assumption | (extract_lets +onlyGivenNames x; refine @cut kb s0 x _ ?_ (fun hx => ?_); unfold x; clear x; rotate_left; clear_value x; rotate_right) | (extract_lets +onlyGivenNames x; clear_value x) | with_reducible apply State.raise_keeps | with_reducible apply i2sWr_keeps | with_reducible apply ite_keeps | split)
theorem i2sCnt_keeps {a0 a1 a3} (h : Keeps kb s0 s) : Keeps kb s0 (i2sCnt a0 a1 s a3) := by
  unfold i2sCnt
  repeat' (first | with_reducible assumption | (extract_lets +onlyGivenNames x; refine @cut kb s0 x _ ?_ (fun hx => ?_); unfold x; clear x; rotate_left; clear_value x; rotate_right) | (extract_lets +onlyGivenNames x; clear_value x) | with_reducible apply State.cntr_keeps | with_reducible apply ite_keeps | split)
theorem i2sShift_keeps {a0 a1 a3} (h : Keeps kb s0 s) : Keeps kb s0 (i2sShift a0 a1 s a3) := by
  unfold i2sShift
  repeat' (first | with_reducible assumption | (extract_lets +onlyGivenNames x; refine @cut kb s0 x _ ?_ (fun hx => ?_); unfold x; clear x; rotate_left; clear_value x; rotate_right) | (extract_lets +onlyGivenNames x; clear_value x) | with_reducible apply i2sCnt_keeps | with_reducible apply State.onLoc_keeps | with_reducible apply ite_keeps | split)
theorem i2sSlip_keeps {a0} (h : Keeps kb s0 s) : Keeps kb s0 (i2sSlip a0 s) := by
  unfold i2sSlip
  repeat' (first | with_reducible assumption | (extract_lets +onlyGivenNames x; refine @cut kb s0 x _ ?_ (fun hx => ?_); unfold x; clear x; rotate_left; clear_value x; rotate_right) | (extract_lets +onlyGivenNames x; clear_value x) | with_reducible apply State.raise_keeps | with_reducible apply i2sWr_keeps | with_reducible apply i2sCnt_keeps | with_reducible apply ite_keeps | split)
theorem i2sRestarted_keeps {a0} (h : Keeps kb s0 s) : Keeps kb s0 (i2sRestarted a0 s) := by
  unfold i2sRestarted
  repeat' (first | with_reducible assumption | (extract_lets +onlyGivenNames x; refine @cut kb s0 x _ ?_ (fun hx => ?_); unfold x; clear x; rotate_left; clear_value x; rotate_right) | (extract_lets +onlyGivenNames x; clear_value x) | with_reducible apply i2sCnt_keeps | with_reducible apply ite_keeps | split)
theorem i2sInEdge_keeps {a0 a1 a2} (h : Keeps kb s0 s) : Keeps kb s0 (i2sInEdge a0 a1 a2 s) := by
  unfold i2sInEdge
  repeat' (first | with_reducible assumption | (extract_lets +onlyGivenNames x; refine @cut kb s0 x _ ?_ (fun hx => ?_); unfold x; clear x; rotate_left; clear_value x; rotate_right) | (extract_lets +onlyGivenNames x; clear_value x) | with_reducible apply locHand_keeps | with_reducible apply State.onLoc_keeps | with_reducible apply i2sSlip_keeps | with_reducible apply i2sRestarted_keeps | with_reducible apply ite_keeps | split)
theorem i2sSel_keeps {a0 a1} (h : Keeps kb s0 s) : Keeps kb s0 (i2sSel a0 a1 s) := by
  unfold i2sSel
  repeat' (first | with_reducible assumption | (extract_lets +onlyGivenNames x; refine @cut kb s0 x _ ?_ (fun hx => ?_); unfold x; clear x; rotate_left; clear_value x; rotate_right) | (extract_lets +onlyGivenNames x; clear_value x) | with_reducible refine State.applyDue_keeps (hk := fun _ _ _ => ?_) ?_ | with_reducible apply State.applyHeld_keeps | with_reducible apply ite_keeps | split)
theorem i2sOutSample_keeps' {a0 a1 a2 a3} (h : Keeps kb s0 s) : Keeps2 kb s0 (i2sOutSample a0 a1 a2 a3 s) := by
  unfold i2sOutSample
  repeat' (first | with_reducible assumption | (extract_lets +onlyGivenNames x; refine @cut kb s0 x _ ?_ (fun hx => ?_); unfold x; clear x; rotate_left; clear_value x; rotate_right) | (extract_lets +onlyGivenNames x; refine @cut1 kb _ s0 x _ ?_ (fun hx => ?_); unfold x; clear x; rotate_left; clear_value x; rotate_right) | (extract_lets +onlyGivenNames x; refine @cut2 kb _ s0 x _ ?_ (fun hx => ?_); unfold x; clear x; rotate_left; clear_value x; rotate_right) | (extract_lets +onlyGivenNames x; clear_value x) | with_reducible refine convert_keeps ?_ (by assumption) | with_reducible apply convert_keeps2 | with_reducible apply convert_keeps' | split | with_reducible apply mk2_keeps)
theorem i2sOutSample_keeps2 {a0 a1 a2 a3} (h : Keeps kb s0 s) : Keeps kb s0 (i2sOutSample a0 a1 a2 a3 s).2 := i2sOutSample_keeps' h
theorem i2sOutSample_keeps {a0 a1 a2 a3} {v0 t} (h : Keeps kb s0 s) (e : i2sOutSample a0 a1 a2 a3 s = (v0, t)) : Keeps kb s0 t := by
  have k : Keeps2 kb s0 (i2sOutSample a0 a1 a2 a3 s) := i2sOutSample_keeps' h; rw [e] at k; exact k
theorem i2sDrive_keeps {a0 a1} (h : Keeps kb s0 s) : Keeps kb s0 (i2sDrive a0 a1 s) := by
  unfold i2sDrive
  repeat' (first | with_reducible assumption | (extract_lets +onlyGivenNames x; refine @cut kb s0 x _ ?_ (fun hx => ?_); unfold x; clear x; rotate_left; clear_value x; rotate_right) | (extract_lets +onlyGivenNames x; clear_value x) | with_reducible apply State.onLoc_keeps | with_reducible apply ite_keeps | split)
theorem i2sKeep_keeps {a0 a1} (h : Keeps kb s0 s) : Keeps kb s0 (i2sKeep a0 a1 s) := by
  unfold i2sKeep
  repeat' (first | with_reducible assumption | (extract_lets +onlyGivenNames x; refine @cut kb s0 x _ ?_ (fun hx => ?_); unfold x; clear x; rotate_left; clear_value x; rotate_right) | (extract_lets +onlyGivenNames x; clear_value x) | with_reducible apply State.onLoc_keeps | with_reducible apply ite_keeps | split)
theorem i2sOutEdge_keeps {a0 a1 a2 a3} (h : Keeps kb s0 s) : Keeps kb s0 (i2sOutEdge a0 a1 a2 a3 s) := by
  unfold i2sOutEdge
  repeat' (first | with_reducible assumption | (extract_lets +onlyGivenNames x; refine @cut kb s0 x _ ?_ (fun hx => ?_); unfold x; clear x; rotate_left; clear_value x; rotate_right) | (extract_lets +onlyGivenNames x; refine @cut1 kb _ s0 x _ ?_ (fun hx => ?_); unfold x; clear x; rotate_left; clear_value x; rotate_right) | (extract_lets +onlyGivenNames x; refine @cut2 kb _ s0 x _ ?_ (fun hx => ?_); unfold x; clear x; rotate_left; clear_value x; rotate_right) | (extract_lets +onlyGivenNames x; clear_value x) | with_reducible apply i2sSel_keeps | with_reducible refine i2sOutSample_keeps ?_ (by assumption) | with_reducible apply i2sOutSample_keeps2 | with_reducible apply i2sCnt_keeps | with_reducible apply i2sDrive_keeps | with_reducible apply i2sKeep_keeps | with_reducible apply State.onLoc_keeps | with_reducible refine State.freshI_keeps ?_ (by assumption) | with_reducible apply State.freshI_keeps2 | with_reducible apply i2sSlip_keeps | with_reducible apply i2sRestarted_keeps | with_reducible apply ite_keeps | with_reducible apply i2sOutSample_keeps' | with_reducible apply State.freshI_keeps' | split | with_reducible apply mk1_keeps | with_reducible apply mk2_keeps)
theorem i2sEdge_keeps {a0 a1 a2} (h : Keeps kb s0 s) : Keeps kb s0 (i2sEdge a0 a1 a2 s) := by
  unfold i2sEdge
  repeat' (first | with_reducible assumption | (extract_lets +onlyGivenNames x; refine @cut kb s0 x _ ?_ (fun hx => ?_); unfold x; clear x; rotate_left; clear_value x; rotate_right) | (extract_lets +onlyGivenNames x; clear_value x) | with_reducible apply i2sClk_keeps | with_reducible apply State.onLoc_keeps | with_reducible apply i2sWr_keeps | with_reducible apply i2sOff_keeps | with_reducible apply measureEdge_keeps | with_reducible apply i2sPrime_keeps | with_reducible apply i2sCnt_keeps | with_reducible refine State.each_keeps ?_ (fun _ _ _ => ?_) | with_reducible apply i2sShift_keeps | with_reducible apply i2sSet_keeps | with_reducible apply i2sInEdge_keeps | with_reducible apply i2sOutEdge_keeps | with_reducible apply ite_keeps | split)
theorem execI2sFrameEdge_next {a0 a1 a2} (h : Keeps kb s0 s) : ∃ t, execI2sFrameEdge a0 a1 a2 s = .next t ∧ Keeps kb s0 t := by
  refine ⟨_, rfl, ?_⟩
  repeat' (first | with_reducible assumption | (extract_lets +onlyGivenNames x; refine @cut kb s0 x _ ?_ (fun hx => ?_); unfold x; clear x; rotate_left; clear_value x; rotate_right) | (extract_lets +onlyGivenNames x; clear_value x) | with_reducible refine awake_keeps ?_ ?_ | with_reducible apply i2sEdge_keeps | with_reducible apply ite_keeps | split)
theorem i2sLoss_keeps {a0 a1} (h : Keeps kb s0 s) : Keeps kb s0 (i2sLoss a0 a1 s) := by
  unfold i2sLoss
  repeat' (first | with_reducible assumption | (extract_lets +onlyGivenNames x; refine @cut kb s0 x _ ?_ (fun hx => ?_); unfold x; clear x; rotate_left; clear_value x; rotate_right) | (extract_lets +onlyGivenNames x; clear_value x) | with_reducible apply i2sClk_keeps | with_reducible apply i2sCnt_keeps | with_reducible apply i2sOff_keeps | with_reducible apply State.onLoc_keeps | with_reducible apply ite_keeps | split)
theorem execI2sClockLoss_next {a0 a1} (h : Keeps kb s0 s) : ∃ t, execI2sClockLoss a0 a1 s = .next t ∧ Keeps kb s0 t := by
  refine ⟨_, rfl, ?_⟩
  repeat' (first | with_reducible assumption | (extract_lets +onlyGivenNames x; refine @cut kb s0 x _ ?_ (fun hx => ?_); unfold x; clear x; rotate_left; clear_value x; rotate_right) | (extract_lets +onlyGivenNames x; clear_value x) | with_reducible refine awake_keeps ?_ ?_ | with_reducible apply i2sLoss_keeps | with_reducible apply ite_keeps | split)
theorem execAes3FrameRx_next {a0 a1 a2} (h : Keeps kb s0 s) : ∃ t, execAes3FrameRx a0 a1 a2 s = .next t ∧ Keeps kb s0 t := by
  refine ⟨_, rfl, ?_⟩
  repeat' (first | with_reducible assumption | (extract_lets +onlyGivenNames x; refine @cut kb s0 x _ ?_ (fun hx => ?_); unfold x; clear x; rotate_left; clear_value x; rotate_right) | (extract_lets +onlyGivenNames x; clear_value x) | with_reducible refine awake_keeps ?_ ?_ | with_reducible apply arFrame_keeps | with_reducible apply ite_keeps | split)
theorem execAes3LockLoss_next {a0 a1} (h : Keeps kb s0 s) : ∃ t, execAes3LockLoss a0 a1 s = .next t ∧ Keeps kb s0 t := by
  refine ⟨_, rfl, ?_⟩
  repeat' (first | with_reducible assumption | (extract_lets +onlyGivenNames x; refine @cut kb s0 x _ ?_ (fun hx => ?_); unfold x; clear x; rotate_left; clear_value x; rotate_right) | (extract_lets +onlyGivenNames x; clear_value x) | with_reducible refine awake_keeps ?_ ?_ | with_reducible apply arLoss_keeps | with_reducible apply ite_keeps | split)
theorem i2sWsStep_keeps {a0} (h : Keeps kb s0 s) : Keeps kb s0 (i2sWsStep a0 s) := by
  unfold i2sWsStep
  repeat' (first | with_reducible assumption | (extract_lets +onlyGivenNames x; refine @cut kb s0 x _ ?_ (fun hx => ?_); unfold x; clear x; rotate_left; clear_value x; rotate_right) | (extract_lets +onlyGivenNames x; clear_value x) | with_reducible apply i2sCtlWrite_keeps | with_reducible apply i2sNomWrite_keeps | with_reducible apply ite_keeps | split)
theorem i2sCfg_keeps' {a1} (h : Keeps kb s0 s) : KeepsE kb s0 (i2sCfg s a1) := by
  induction a1 generalizing s  with
  | nil => unfold i2sCfg; repeat' (first | with_reducible apply ok_keeps | with_reducible apply error_keeps | with_reducible apply iteE_keeps | with_reducible assumption | (extract_lets +onlyGivenNames x; refine @cut kb s0 x _ ?_ (fun hx => ?_); unfold x; clear x; rotate_left; clear_value x; rotate_right) | (extract_lets +onlyGivenNames x; clear_value x) | with_reducible apply i2sWsStep_keeps | split)
  | cons x l ih =>
    unfold i2sCfg
    repeat' (first | with_reducible apply ok_keeps | with_reducible apply error_keeps | with_reducible apply iteE_keeps | with_reducible assumption | with_reducible apply ih | (extract_lets +onlyGivenNames x; refine @cut kb s0 x _ ?_ (fun hx => ?_); unfold x; clear x; rotate_left; clear_value x; rotate_right) | (extract_lets +onlyGivenNames x; clear_value x) | with_reducible apply i2sWsStep_keeps | split)
theorem i2sCfg_keeps {a1} {t} (h : Keeps kb s0 s) (e : i2sCfg s a1 = .ok t) : Keeps kb s0 t := by
  have k : KeepsE kb s0 (i2sCfg s a1) := i2sCfg_keeps' h; rw [e] at k; exact ok_elim k
theorem locDone_keeps {a0 a1} (h : Keeps kb s0 s) : ResKeeps kb s0 (locDone a0 a1 s) := by
  unfold locDone
  repeat' (first | with_reducible assumption | (extract_lets +onlyGivenNames x; refine @cut kb s0 x _ ?_ (fun hx => ?_); unfold x; clear x; rotate_left; clear_value x; rotate_right) | (extract_lets +onlyGivenNames x; clear_value x) | with_reducible apply done_keeps | with_reducible exact no_keeps | with_reducible apply iteR_keeps | split)
theorem execI2sConfig_next {a0 a1} (h : Keeps kb s0 s) : ∃ t, execI2sConfig a0 a1 s = .next t ∧ Keeps kb s0 t := by
  refine ⟨_, rfl, ?_⟩
  repeat' (first | with_reducible assumption | (extract_lets +onlyGivenNames x; refine @cut kb s0 x _ ?_ (fun hx => ?_); unfold x; clear x; rotate_left; clear_value x; rotate_right) | (extract_lets +onlyGivenNames x; clear_value x) | with_reducible refine runCmd_keeps (hb := fun _ _ _ => ?_) ?_ | with_reducible refine i2sCfg_keeps ?_ (by assumption) | with_reducible apply locDone_keeps | with_reducible exact no_keeps | with_reducible apply ite_keeps | split)
theorem execI2sStatus_next {a0 a1 a2} (h : Keeps kb s0 s) : ∃ t, execI2sStatus a0 a1 a2 s = .next t ∧ Keeps kb s0 t := by
  refine ⟨_, rfl, ?_⟩
  repeat' (first | with_reducible assumption | (extract_lets +onlyGivenNames x; refine @cut kb s0 x _ ?_ (fun hx => ?_); unfold x; clear x; rotate_left; clear_value x; rotate_right) | (extract_lets +onlyGivenNames x; clear_value x) | with_reducible refine runCmd_keeps (hb := fun _ _ _ => ?_) ?_ | with_reducible apply retL_keeps | with_reducible apply State.onCmd_keeps | with_reducible exact no_keeps | with_reducible apply ite_keeps | split)
theorem execPortStart_next {a0 a1 a2} (h : Keeps kb s0 s) : ∃ t, execPortStart a0 a1 a2 s = .next t ∧ Keeps kb s0 t := by
  refine ⟨_, rfl, ?_⟩
  repeat' (first | with_reducible assumption | (extract_lets +onlyGivenNames x; refine @cut kb s0 x _ ?_ (fun hx => ?_); unfold x; clear x; rotate_left; clear_value x; rotate_right) | (extract_lets +onlyGivenNames x; clear_value x) | with_reducible refine runCmd_keeps (hb := fun _ _ _ => ?_) ?_ | with_reducible apply armNew_keeps | with_reducible exact no_keeps | with_reducible apply ite_keeps | split)
theorem execLocalOutSet_next {a0 a1} (h : Keeps kb s0 s) : ∃ t, execLocalOutSet a0 a1 s = .next t ∧ Keeps kb s0 t := by
  refine ⟨_, rfl, ?_⟩
  repeat' (first | with_reducible assumption | (extract_lets +onlyGivenNames x; refine @cut kb s0 x _ ?_ (fun hx => ?_); unfold x; clear x; rotate_left; clear_value x; rotate_right) | (extract_lets +onlyGivenNames x; clear_value x) | with_reducible refine runCmd_keeps (hb := fun _ _ _ => ?_) ?_ | with_reducible apply done_keeps | with_reducible refine State.each_keeps ?_ (fun _ _ _ => ?_) | with_reducible apply State.hold_keeps | with_reducible exact no_keeps | with_reducible apply ite_keeps | split)
theorem execAes3RxConfig_next {a0 a1} (h : Keeps kb s0 s) : ∃ t, execAes3RxConfig a0 a1 s = .next t ∧ Keeps kb s0 t := by
  refine ⟨_, rfl, ?_⟩
  repeat' (first | with_reducible assumption | (extract_lets +onlyGivenNames x; refine @cut kb s0 x _ ?_ (fun hx => ?_); unfold x; clear x; rotate_left; clear_value x; rotate_right) | (extract_lets +onlyGivenNames x; clear_value x) | with_reducible refine runCmd_keeps (hb := fun _ _ _ => ?_) ?_ | with_reducible apply locDone_keeps | with_reducible refine State.each_keeps ?_ (fun _ _ _ => ?_) | with_reducible apply arCtlWrite_keeps | with_reducible apply arNomWrite_keeps | with_reducible exact no_keeps | with_reducible apply ite_keeps | split)
theorem execAes3RxStatus_next {a0 a1} (h : Keeps kb s0 s) : ∃ t, execAes3RxStatus a0 a1 s = .next t ∧ Keeps kb s0 t := by
  refine ⟨_, rfl, ?_⟩
  repeat' (first | with_reducible assumption | (extract_lets +onlyGivenNames x; refine @cut kb s0 x _ ?_ (fun hx => ?_); unfold x; clear x; rotate_left; clear_value x; rotate_right) | (extract_lets +onlyGivenNames x; clear_value x) | with_reducible refine runCmd_keeps (hb := fun _ _ _ => ?_) ?_ | with_reducible apply ret_keeps | with_reducible exact no_keeps | with_reducible apply ite_keeps | split)
theorem execAes3TxConfig_next {a0 a1} (h : Keeps kb s0 s) : ∃ t, execAes3TxConfig a0 a1 s = .next t ∧ Keeps kb s0 t := by
  refine ⟨_, rfl, ?_⟩
  repeat' (first | with_reducible assumption | (extract_lets +onlyGivenNames x; refine @cut kb s0 x _ ?_ (fun hx => ?_); unfold x; clear x; rotate_left; clear_value x; rotate_right) | (extract_lets +onlyGivenNames x; clear_value x) | with_reducible refine runCmd_keeps (hb := fun _ _ _ => ?_) ?_ | with_reducible apply locDone_keeps | with_reducible refine State.each_keeps ?_ (fun _ _ _ => ?_) | with_reducible apply atCtlWrite_keeps | with_reducible apply State.hold_keeps | with_reducible exact no_keeps | with_reducible apply ite_keeps | split)
theorem execAes3TxStatus_next {a0 a1} (h : Keeps kb s0 s) : ∃ t, execAes3TxStatus a0 a1 s = .next t ∧ Keeps kb s0 t := by
  refine ⟨_, rfl, ?_⟩
  repeat' (first | with_reducible assumption | (extract_lets +onlyGivenNames x; refine @cut kb s0 x _ ?_ (fun hx => ?_); unfold x; clear x; rotate_left; clear_value x; rotate_right) | (extract_lets +onlyGivenNames x; clear_value x) | with_reducible refine runCmd_keeps (hb := fun _ _ _ => ?_) ?_ | with_reducible apply retL_keeps | with_reducible exact no_keeps | with_reducible apply ite_keeps | split)
theorem execClkpinConfig_next {a0 a1} (h : Keeps kb s0 s) : ∃ t, execClkpinConfig a0 a1 s = .next t ∧ Keeps kb s0 t := by
  refine ⟨_, rfl, ?_⟩
  repeat' (first | with_reducible assumption | (extract_lets +onlyGivenNames x; refine @cut kb s0 x _ ?_ (fun hx => ?_); unfold x; clear x; rotate_left; clear_value x; rotate_right) | (extract_lets +onlyGivenNames x; clear_value x) | with_reducible refine runCmd_keeps (hb := fun _ _ _ => ?_) ?_ | with_reducible apply done_keeps | with_reducible apply cfgWrite_keeps | with_reducible exact no_keeps | with_reducible apply ite_keeps | split)
theorem execClkpinStatus_next {a0} (h : Keeps kb s0 s) : ∃ t, execClkpinStatus a0 s = .next t ∧ Keeps kb s0 t := by
  refine ⟨_, rfl, ?_⟩
  repeat' (first | with_reducible assumption | (extract_lets +onlyGivenNames x; refine @cut kb s0 x _ ?_ (fun hx => ?_); unfold x; clear x; rotate_left; clear_value x; rotate_right) | (extract_lets +onlyGivenNames x; clear_value x) | with_reducible refine runCmd_keeps (hb := fun _ _ _ => ?_) ?_ | with_reducible apply ret_keeps | with_reducible apply ite_keeps | split)
theorem execGrpStart_next {a0 a1 a2} (h : Keeps kb s0 s) : ∃ t, execGrpStart a0 a1 a2 s = .next t ∧ Keeps kb s0 t := by
  refine ⟨_, rfl, ?_⟩
  repeat' (first | with_reducible assumption | (extract_lets +onlyGivenNames x; refine @cut kb s0 x _ ?_ (fun hx => ?_); unfold x; clear x; rotate_left; clear_value x; rotate_right) | (extract_lets +onlyGivenNames x; clear_value x) | with_reducible refine awake_keeps ?_ ?_ | with_reducible apply regGrpStart_keeps | with_reducible apply ite_keeps | split)
theorem execRestart_next {a0 a1 a2} (h : Keeps kb s0 s) : ∃ t, execRestart a0 a1 a2 s = .next t ∧ Keeps kb s0 t := by
  refine ⟨_, rfl, ?_⟩
  repeat' (first | with_reducible assumption | (extract_lets +onlyGivenNames x; refine @cut kb s0 x _ ?_ (fun hx => ?_); unfold x; clear x; rotate_left; clear_value x; rotate_right) | (extract_lets +onlyGivenNames x; clear_value x) | with_reducible refine awake_keeps ?_ ?_ | with_reducible apply i2sCtlWrite_keeps | with_reducible apply ite_keeps | split)
theorem execI2sPortEnable_next {a0 a1 a2} (h : Keeps kb s0 s) : ∃ t, execI2sPortEnable a0 a1 a2 s = .next t ∧ Keeps kb s0 t := by
  refine ⟨_, rfl, ?_⟩
  repeat' (first | with_reducible assumption | (extract_lets +onlyGivenNames x; refine @cut kb s0 x _ ?_ (fun hx => ?_); unfold x; clear x; rotate_left; clear_value x; rotate_right) | (extract_lets +onlyGivenNames x; clear_value x) | with_reducible refine awake_keeps ?_ ?_ | with_reducible apply i2sCtlWrite_keeps | with_reducible apply ite_keeps | split)
theorem execI2sPortDisable_next {a0 a1 a2} (h : Keeps kb s0 s) : ∃ t, execI2sPortDisable a0 a1 a2 s = .next t ∧ Keeps kb s0 t := by
  refine ⟨_, rfl, ?_⟩
  repeat' (first | with_reducible assumption | (extract_lets +onlyGivenNames x; refine @cut kb s0 x _ ?_ (fun hx => ?_); unfold x; clear x; rotate_left; clear_value x; rotate_right) | (extract_lets +onlyGivenNames x; clear_value x) | with_reducible refine awake_keeps ?_ ?_ | with_reducible apply i2sCtlWrite_keeps | with_reducible apply ite_keeps | split)
theorem execAesRxEnable_next {a0 a1 a2} (h : Keeps kb s0 s) : ∃ t, execAesRxEnable a0 a1 a2 s = .next t ∧ Keeps kb s0 t := by
  refine ⟨_, rfl, ?_⟩
  repeat' (first | with_reducible assumption | (extract_lets +onlyGivenNames x; refine @cut kb s0 x _ ?_ (fun hx => ?_); unfold x; clear x; rotate_left; clear_value x; rotate_right) | (extract_lets +onlyGivenNames x; clear_value x) | with_reducible refine awake_keeps ?_ ?_ | with_reducible apply arCtlWrite_keeps | with_reducible apply ite_keeps | split)
theorem execAesTxEnable_next {a0 a1 a2} (h : Keeps kb s0 s) : ∃ t, execAesTxEnable a0 a1 a2 s = .next t ∧ Keeps kb s0 t := by
  refine ⟨_, rfl, ?_⟩
  repeat' (first | with_reducible assumption | (extract_lets +onlyGivenNames x; refine @cut kb s0 x _ ?_ (fun hx => ?_); unfold x; clear x; rotate_left; clear_value x; rotate_right) | (extract_lets +onlyGivenNames x; clear_value x) | with_reducible refine awake_keeps ?_ ?_ | with_reducible apply atCtlWrite_keeps | with_reducible apply ite_keeps | split)
theorem execTxStart_next {a0 a1 a2} (h : Keeps kb s0 s) : ∃ t, execTxStart a0 a1 a2 s = .next t ∧ Keeps kb s0 t := by
  refine ⟨_, rfl, ?_⟩
  repeat' (first | with_reducible assumption | (extract_lets +onlyGivenNames x; refine @cut kb s0 x _ ?_ (fun hx => ?_); unfold x; clear x; rotate_left; clear_value x; rotate_right) | (extract_lets +onlyGivenNames x; clear_value x) | with_reducible refine awake_keeps ?_ ?_ | with_reducible apply atCtlWrite_keeps | with_reducible apply ite_keeps | split)
theorem execTxStop_next {a0 a1 a2} (h : Keeps kb s0 s) : ∃ t, execTxStop a0 a1 a2 s = .next t ∧ Keeps kb s0 t := by
  refine ⟨_, rfl, ?_⟩
  repeat' (first | with_reducible assumption | (extract_lets +onlyGivenNames x; refine @cut kb s0 x _ ?_ (fun hx => ?_); unfold x; clear x; rotate_left; clear_value x; rotate_right) | (extract_lets +onlyGivenNames x; clear_value x) | with_reducible refine awake_keeps ?_ ?_ | with_reducible apply atCtlWrite_keeps | with_reducible apply ite_keeps | split)
theorem execClockOutEnable_next {a0 a1 a2} (h : Keeps kb s0 s) : ∃ t, execClockOutEnable a0 a1 a2 s = .next t ∧ Keeps kb s0 t := by
  refine ⟨_, rfl, ?_⟩
  repeat' (first | with_reducible assumption | (extract_lets +onlyGivenNames x; refine @cut kb s0 x _ ?_ (fun hx => ?_); unfold x; clear x; rotate_left; clear_value x; rotate_right) | (extract_lets +onlyGivenNames x; clear_value x) | with_reducible refine awake_keeps ?_ ?_ | with_reducible apply State.writeWord_keeps | with_reducible apply ite_keeps | split)
theorem execMclkChange_next {a0 a1 a2} (h : Keeps kb s0 s) : ∃ t, execMclkChange a0 a1 a2 s = .next t ∧ Keeps kb s0 t := by
  refine ⟨_, rfl, ?_⟩
  repeat' (first | with_reducible assumption | (extract_lets +onlyGivenNames x; refine @cut kb s0 x _ ?_ (fun hx => ?_); unfold x; clear x; rotate_left; clear_value x; rotate_right) | (extract_lets +onlyGivenNames x; clear_value x) | with_reducible refine awake_keeps ?_ ?_ | with_reducible apply State.writeWord_keeps | with_reducible apply ite_keeps | split)
theorem execAes3TxBlockStart_next {a0} (h : Keeps kb s0 s) : ∃ t, execAes3TxBlockStart a0 s = .next t ∧ Keeps kb s0 t := by
  refine ⟨_, rfl, ?_⟩
  repeat' (first | with_reducible assumption | (extract_lets +onlyGivenNames x; refine @cut kb s0 x _ ?_ (fun hx => ?_); unfold x; clear x; rotate_left; clear_value x; rotate_right) | (extract_lets +onlyGivenNames x; clear_value x) | with_reducible refine awake_keeps ?_ ?_ | with_reducible apply atBlock_keeps | with_reducible apply ite_keeps | split)
theorem execClockOutEdge_next {a0 a1} (h : Keeps kb s0 s) : ∃ t, execClockOutEdge a0 a1 s = .next t ∧ Keeps kb s0 t := by
  refine ⟨_, rfl, ?_⟩
  repeat' (first | with_reducible assumption | (extract_lets +onlyGivenNames x; refine @cut kb s0 x _ ?_ (fun hx => ?_); unfold x; clear x; rotate_left; clear_value x; rotate_right) | (extract_lets +onlyGivenNames x; clear_value x) | with_reducible refine awake_keeps ?_ ?_ | with_reducible apply clkEdge_keeps | with_reducible apply ite_keeps | split)

end Sys2Proof.Machine
end

