-- ==== Sys2Proof/Laws/KeepsUmarun.lean ====
section
/-!
SUPPORT. Every operation of Machine/Umarun.lean keeps what `Keeps` says.
-/
namespace Sys2Proof.Machine
set_option linter.all false
variable {kb : Prop} {s0 s : State}

theorem State.nextMgmt_keeps' {a1 a2} (h : Keeps kb s0 s) : Keeps3 kb s0 (State.nextMgmt s a1 a2) := by
  unfold State.nextMgmt
  repeat' (first | with_reducible assumption | (extract_lets +onlyGivenNames x; refine @cut kb s0 x _ ?_ (fun hx => ?_); unfold x; clear x; rotate_left; clear_value x; rotate_right) | (extract_lets +onlyGivenNames x; clear_value x) | with_reducible apply State.onUma_keeps | split | with_reducible apply mk3_keeps)
theorem State.nextMgmt_keeps2 {a1 a2} (h : Keeps kb s0 s) : Keeps kb s0 (State.nextMgmt s a1 a2).2.2 := State.nextMgmt_keeps' h
theorem State.nextMgmt_keeps {a1 a2} {v0 v1 t} (h : Keeps kb s0 s) (e : State.nextMgmt s a1 a2 = (v0, v1, t)) : Keeps kb s0 t := by
  have k : Keeps3 kb s0 (State.nextMgmt s a1 a2) := State.nextMgmt_keeps' h; rw [e] at k; exact k
theorem State.nextCell_keeps' {a1 a2} (h : Keeps kb s0 s) : Keeps3 kb s0 (State.nextCell s a1 a2) := by
  unfold State.nextCell
  repeat' (first | with_reducible assumption | (extract_lets +onlyGivenNames x; refine @cut kb s0 x _ ?_ (fun hx => ?_); unfold x; clear x; rotate_left; clear_value x; rotate_right) | (extract_lets +onlyGivenNames x; refine @cut1 kb _ s0 x _ ?_ (fun hx => ?_); unfold x; clear x; rotate_left; clear_value x; rotate_right) | (extract_lets +onlyGivenNames x; refine @cut2 kb _ s0 x _ ?_ (fun hx => ?_); unfold x; clear x; rotate_left; clear_value x; rotate_right) | (extract_lets +onlyGivenNames x; refine @cut3 kb _ _ s0 x _ ?_ (fun hx => ?_); unfold x; clear x; rotate_left; clear_value x; rotate_right) | (extract_lets +onlyGivenNames x; clear_value x) | with_reducible apply State.onUma_keeps | with_reducible refine State.nextMgmt_keeps ?_ (by assumption) | with_reducible apply State.nextMgmt_keeps2 | with_reducible apply State.nextMgmt_keeps' | split | with_reducible apply mk3_keeps)
theorem State.nextCell_keeps2 {a1 a2} (h : Keeps kb s0 s) : Keeps kb s0 (State.nextCell s a1 a2).2.2 := State.nextCell_keeps' h
theorem State.nextCell_keeps {a1 a2} {v0 v1 t} (h : Keeps kb s0 s) (e : State.nextCell s a1 a2 = (v0, v1, t)) : Keeps kb s0 t := by
  have k : Keeps3 kb s0 (State.nextCell s a1 a2) := State.nextCell_keeps' h; rw [e] at k; exact k
theorem mirrorSet_keeps {a0} (h : Keeps kb s0 s) : Keeps kb s0 (mirrorSet a0 s) := by
  unfold mirrorSet
  repeat' (first | with_reducible assumption | (extract_lets +onlyGivenNames x; refine @cut kb s0 x _ ?_ (fun hx => ?_); unfold x; clear x; rotate_left; clear_value x; rotate_right) | (extract_lets +onlyGivenNames x; clear_value x) | with_reducible apply State.raise_keeps | with_reducible apply State.wr_keeps | with_reducible apply ite_keeps | split)
theorem activeTick_keeps  (h : Keeps kb s0 s) : Keeps kb s0 (activeTick s) := by
  unfold activeTick
  repeat' (first | with_reducible assumption | (extract_lets +onlyGivenNames x; refine @cut kb s0 x _ ?_ (fun hx => ?_); unfold x; clear x; rotate_left; clear_value x; rotate_right) | (extract_lets +onlyGivenNames x; clear_value x) | with_reducible apply mirrorSet_keeps | with_reducible apply State.onUma_keeps | with_reducible apply ite_keeps | split)
theorem hierFix_keeps  (h : Keeps kb s0 s) : Keeps kb s0 (hierFix s) := by
  unfold hierFix
  repeat' (first | with_reducible assumption | (extract_lets +onlyGivenNames x; refine @cut kb s0 x _ ?_ (fun hx => ?_); unfold x; clear x; rotate_left; clear_value x; rotate_right) | (extract_lets +onlyGivenNames x; clear_value x) | with_reducible apply State.wr_keeps | with_reducible apply State.wb_keeps | with_reducible apply ite_keeps | split)
theorem sumOkFix_keeps {a0} (h : Keeps kb s0 s) : Keeps kb s0 (sumOkFix a0 s) := by
  unfold sumOkFix
  repeat' (first | with_reducible assumption | (extract_lets +onlyGivenNames x; refine @cut kb s0 x _ ?_ (fun hx => ?_); unfold x; clear x; rotate_left; clear_value x; rotate_right) | (extract_lets +onlyGivenNames x; clear_value x) | with_reducible apply State.wb_keeps | with_reducible apply ite_keeps | split)
theorem linkSet_keeps {a0 a1} (h : Keeps kb s0 s) : Keeps kb s0 (linkSet a0 a1 s) := by
  unfold linkSet
  repeat' (first | with_reducible assumption | (extract_lets +onlyGivenNames x; refine @cut kb s0 x _ ?_ (fun hx => ?_); unfold x; clear x; rotate_left; clear_value x; rotate_right) | (extract_lets +onlyGivenNames x; clear_value x) | with_reducible apply hierFix_keeps | with_reducible apply sumOkFix_keeps | with_reducible apply State.raise_keeps | with_reducible apply State.wr_keeps | with_reducible apply ite_keeps | split)
theorem lanesForget_keeps {a0} (h : Keeps kb s0 s) : Keeps kb s0 (lanesForget a0 s) := by
  unfold lanesForget
  repeat' (first | with_reducible assumption | (extract_lets +onlyGivenNames x; refine @cut kb s0 x _ ?_ (fun hx => ?_); unfold x; clear x; rotate_left; clear_value x; rotate_right) | (extract_lets +onlyGivenNames x; clear_value x) | with_reducible refine State.each_keeps ?_ (fun _ _ _ => ?_) | with_reducible apply State.onUma_keeps | with_reducible apply ite_keeps | split)
theorem linkForget_keeps {a0} (h : Keeps kb s0 s) : Keeps kb s0 (linkForget a0 s) := by
  unfold linkForget
  repeat' (first | with_reducible assumption | (extract_lets +onlyGivenNames x; refine @cut kb s0 x _ ?_ (fun hx => ?_); unfold x; clear x; rotate_left; clear_value x; rotate_right) | (extract_lets +onlyGivenNames x; clear_value x) | with_reducible apply State.onUma_keeps | with_reducible apply ite_keeps | split)
theorem linkOff_keeps {a0} (h : Keeps kb s0 s) : Keeps kb s0 (linkOff a0 s) := by
  unfold linkOff
  repeat' (first | with_reducible assumption | (extract_lets +onlyGivenNames x; refine @cut kb s0 x _ ?_ (fun hx => ?_); unfold x; clear x; rotate_left; clear_value x; rotate_right) | (extract_lets +onlyGivenNames x; clear_value x) | with_reducible apply State.onUma_keeps | with_reducible apply State.wb_keeps | with_reducible apply linkSet_keeps | with_reducible apply lanesForget_keeps | with_reducible apply linkForget_keeps | with_reducible apply State.wr_keeps | with_reducible apply ite_keeps | split)
theorem linkLock_keeps {a0 a1} (h : Keeps kb s0 s) : Keeps kb s0 (linkLock a0 a1 s) := by
  unfold linkLock
  repeat' (first | with_reducible assumption | (extract_lets +onlyGivenNames x; refine @cut kb s0 x _ ?_ (fun hx => ?_); unfold x; clear x; rotate_left; clear_value x; rotate_right) | (extract_lets +onlyGivenNames x; clear_value x) | with_reducible apply State.cnt_keeps | with_reducible apply linkSet_keeps | with_reducible apply lanesForget_keeps | with_reducible apply linkForget_keeps | with_reducible apply State.wr_keeps | with_reducible apply ite_keeps | split)
theorem linkCtl_keeps {a0 a1} (h : Keeps kb s0 s) : Keeps kb s0 (linkCtl a0 a1 s) := by
  unfold linkCtl
  repeat' (first | with_reducible assumption | (extract_lets +onlyGivenNames x; refine @cut kb s0 x _ ?_ (fun hx => ?_); unfold x; clear x; rotate_left; clear_value x; rotate_right) | (extract_lets +onlyGivenNames x; clear_value x) | with_reducible apply State.writeRW_keeps | with_reducible apply linkOff_keeps | with_reducible apply linkLock_keeps | with_reducible apply ite_keeps | split)
theorem popHier_keeps  (h : Keeps kb s0 s) : Keeps kb s0 (popHier s) := by
  unfold popHier
  repeat' (first | with_reducible assumption | (extract_lets +onlyGivenNames x; refine @cut kb s0 x _ ?_ (fun hx => ?_); unfold x; clear x; rotate_left; clear_value x; rotate_right) | (extract_lets +onlyGivenNames x; clear_value x) | with_reducible apply State.onUma_keeps | with_reducible apply State.onXp_keeps | with_reducible apply ite_keeps | split)
theorem digestStep_keeps  (h : Keeps kb s0 s) : Keeps kb s0 (digestStep s) := by
  unfold digestStep
  repeat' (first | with_reducible assumption | (extract_lets +onlyGivenNames x; refine @cut kb s0 x _ ?_ (fun hx => ?_); unfold x; clear x; rotate_left; clear_value x; rotate_right) | (extract_lets +onlyGivenNames x; refine @cut1 kb _ s0 x _ ?_ (fun hx => ?_); unfold x; clear x; rotate_left; clear_value x; rotate_right) | (extract_lets +onlyGivenNames x; refine @cut2 kb _ s0 x _ ?_ (fun hx => ?_); unfold x; clear x; rotate_left; clear_value x; rotate_right) | (extract_lets +onlyGivenNames x; clear_value x) | with_reducible refine State.fresh_keeps ?_ (by assumption) | with_reducible apply State.fresh_keeps2 | with_reducible apply State.onUma_keeps | with_reducible apply ite_keeps | with_reducible apply State.fresh_keeps' | split | with_reducible apply mk1_keeps | with_reducible apply mk2_keeps)
theorem installCopy_keeps {a0} (h : Keeps kb s0 s) : Keeps kb s0 (installCopy a0 s) := by
  unfold installCopy
  repeat' (first | with_reducible assumption | (extract_lets +onlyGivenNames x; refine @cut kb s0 x _ ?_ (fun hx => ?_); unfold x; clear x; rotate_left; clear_value x; rotate_right) | (extract_lets +onlyGivenNames x; clear_value x) | with_reducible refine State.each_keeps ?_ (fun _ _ _ => ?_) | with_reducible apply rxDisable_keeps | with_reducible apply txDisable_keeps | with_reducible apply State.pw_keeps | with_reducible apply State.onRx_keeps | with_reducible apply rxEnable_keeps | with_reducible apply State.onTx_keeps | with_reducible apply txEnable_keeps | with_reducible apply inTrimFix_keeps | with_reducible apply outTrimFix_keeps | with_reducible apply State.onScn_keeps | with_reducible refine State.onTim_keeps (fun _ _ => rfl) ?_ | with_reducible apply State.onUma_keeps | with_reducible apply armedFix_keeps | with_reducible apply ite_keeps | split)
theorem laterBody_keeps {i e body} (hb : laterBody i = some (e, body)) (fn : Nat) (h : Keeps kb s0 s) : ResKeeps kb s0 (body fn s) := by
  unfold laterBody at hb
  split at hb <;> simp only [Option.some.injEq, Prod.mk.injEq, reduceCtorEq] at hb <;> obtain ⟨_, rfl⟩ := hb
  · exact rxAddBody_keeps h
  · exact rxSdpBody_keeps h
  · exact rxModifyBody_keeps h
  · exact rxRemoveBody_keeps h
  · exact txAddBody_keeps h
  · exact txModifyBody_keeps h
  · exact txRemoveBody_keeps h
  · exact turnDefineBody_keeps h
  · exact testgenBody_keeps h
  · exact inAssignBody_keeps h
  · exact srcGroupBody_keeps h
  · exact collCancelBody_keeps h
theorem laterDo_keeps {a0} (h : Keeps kb s0 s) : Keeps kb s0 (laterDo a0 s) := by
  unfold laterDo
  split
  · split
    · rename_i e body hb
      have k := laterBody_keeps hb (callerOf e) h
      split
      · exact complete_keeps h
      · exact digestStep_keeps (finish_keeps h k)
    · exact h
  · exact defineNow_keeps h
  · exact releaseNow_keeps h
  · exact slotCancelNow_keeps h
theorem changesTick_keeps  (h : Keeps kb s0 s) : Keeps kb s0 (changesTick s) := by
  unfold changesTick
  repeat' (first | with_reducible assumption | (extract_lets +onlyGivenNames x; refine @cut kb s0 x _ ?_ (fun hx => ?_); unfold x; clear x; rotate_left; clear_value x; rotate_right) | (extract_lets +onlyGivenNames x; clear_value x) | with_reducible apply State.onUma_keeps | with_reducible refine State.each_keeps ?_ (fun _ _ _ => ?_) | with_reducible apply digestStep_keeps | with_reducible apply installCopy_keeps | with_reducible apply laterDo_keeps | with_reducible apply ite_keeps | split)
theorem tb2Tick_keeps  (h : Keeps kb s0 s) : Keeps kb s0 (tb2Tick s) := by
  unfold tb2Tick
  repeat' (first | with_reducible assumption | (extract_lets +onlyGivenNames x; refine @cut kb s0 x _ ?_ (fun hx => ?_); unfold x; clear x; rotate_left; clear_value x; rotate_right) | (extract_lets +onlyGivenNames x; clear_value x) | with_reducible apply State.onUma_keeps | with_reducible refine State.onTim_keeps (fun _ _ => rfl) ?_ | with_reducible apply State.wr_keeps | with_reducible apply State.wb_keeps | with_reducible apply State.onRef_keeps | with_reducible apply State.raise_keeps | with_reducible apply ite_keeps | split)
theorem linkTrain_keeps {a0 a1} (h : Keeps kb s0 s) : Keeps kb s0 (linkTrain a0 a1 s) := by
  unfold linkTrain
  repeat' (first | with_reducible assumption | (extract_lets +onlyGivenNames x; refine @cut kb s0 x _ ?_ (fun hx => ?_); unfold x; clear x; rotate_left; clear_value x; rotate_right) | (extract_lets +onlyGivenNames x; clear_value x) | with_reducible apply linkSet_keeps | with_reducible apply State.onUma_keeps | with_reducible apply linkForget_keeps | with_reducible apply ite_keeps | split)
theorem linkTry_keeps {a0 a1} (h : Keeps kb s0 s) : Keeps kb s0 (linkTry a0 a1 s) := by
  unfold linkTry
  repeat' (first | with_reducible assumption | (extract_lets +onlyGivenNames x; refine @cut kb s0 x _ ?_ (fun hx => ?_); unfold x; clear x; rotate_left; clear_value x; rotate_right) | (extract_lets +onlyGivenNames x; clear_value x) | with_reducible apply linkSet_keeps | with_reducible apply State.onUma_keeps | with_reducible apply ite_keeps | split)
theorem linksTick_keeps  (h : Keeps kb s0 s) : Keeps kb s0 (linksTick s) := by
  unfold linksTick
  repeat' (first | with_reducible assumption | (extract_lets +onlyGivenNames x; refine @cut kb s0 x _ ?_ (fun hx => ?_); unfold x; clear x; rotate_left; clear_value x; rotate_right) | (extract_lets +onlyGivenNames x; clear_value x) | with_reducible refine State.each_keeps ?_ (fun _ _ _ => ?_) | with_reducible apply linkOff_keeps | with_reducible apply linkLock_keeps | with_reducible apply linkTrain_keeps | with_reducible apply linkTry_keeps | with_reducible apply ite_keeps | split)
theorem copySet_keeps {a0} (h : Keeps kb s0 s) : Keeps kb s0 (copySet a0 s) := by
  unfold copySet
  repeat' (first | with_reducible assumption | (extract_lets +onlyGivenNames x; refine @cut kb s0 x _ ?_ (fun hx => ?_); unfold x; clear x; rotate_left; clear_value x; rotate_right) | (extract_lets +onlyGivenNames x; clear_value x) | with_reducible apply State.onUma_keeps | with_reducible apply condNote_keeps | with_reducible apply State.wb_keeps | with_reducible apply ite_keeps | split)
theorem hierInstall_keeps {a0} (h : Keeps kb s0 s) : Keeps kb s0 (hierInstall a0 s) := by
  unfold hierInstall
  repeat' (first | with_reducible assumption | (extract_lets +onlyGivenNames x; refine @cut kb s0 x _ ?_ (fun hx => ?_); unfold x; clear x; rotate_left; clear_value x; rotate_right) | (extract_lets +onlyGivenNames x; clear_value x) | with_reducible apply State.wr_keeps | with_reducible apply State.ww_keeps | with_reducible apply State.onUma_keeps | with_reducible apply State.wb_keeps | with_reducible apply mirrorSet_keeps | with_reducible apply copySet_keeps | with_reducible apply State.onRef_keeps | with_reducible apply hierFix_keeps | with_reducible apply ite_keeps | split)
theorem joinTick_keeps  (h : Keeps kb s0 s) : Keeps kb s0 (joinTick s) := by
  unfold joinTick
  repeat' (first | with_reducible assumption | (extract_lets +onlyGivenNames x; refine @cut kb s0 x _ ?_ (fun hx => ?_); unfold x; clear x; rotate_left; clear_value x; rotate_right) | (extract_lets +onlyGivenNames x; clear_value x) | with_reducible apply hierInstall_keeps | with_reducible apply State.onUma_keeps | with_reducible apply ite_keeps | split)
theorem umaTick_keeps  (h : Keeps kb s0 s) : Keeps kb s0 (umaTick s) := by
  unfold umaTick
  repeat' (first | with_reducible assumption | (extract_lets +onlyGivenNames x; refine @cut kb s0 x _ ?_ (fun hx => ?_); unfold x; clear x; rotate_left; clear_value x; rotate_right) | (extract_lets +onlyGivenNames x; clear_value x) | with_reducible apply hierFix_keeps | with_reducible apply activeTick_keeps | with_reducible apply changesTick_keeps | with_reducible apply tb2Tick_keeps | with_reducible apply linksTick_keeps | with_reducible apply joinTick_keeps | with_reducible apply ite_keeps | split)
theorem mgmtPair_keeps {a0 a2} (h : Keeps kb s0 s) : Keeps kb s0 (mgmtPair a0 s a2) := by
  unfold mgmtPair
  repeat' (first | with_reducible assumption | (extract_lets +onlyGivenNames x; refine @cut kb s0 x _ ?_ (fun hx => ?_); unfold x; clear x; rotate_left; clear_value x; rotate_right) | (extract_lets +onlyGivenNames x; clear_value x) | with_reducible refine State.each_keeps ?_ (fun _ _ _ => ?_) | with_reducible apply State.onUma_keeps | with_reducible apply ite_keeps | split)
theorem umoeSend_keeps {a0} (h : Keeps kb s0 s) : Keeps kb s0 (umoeSend a0 s) := by
  unfold umoeSend
  repeat' (first | with_reducible assumption | (extract_lets +onlyGivenNames x; refine @cut kb s0 x _ ?_ (fun hx => ?_); unfold x; clear x; rotate_left; clear_value x; rotate_right) | (extract_lets +onlyGivenNames x; clear_value x) | with_reducible apply State.onUma_keeps | with_reducible apply txPut_keeps | with_reducible apply ite_keeps | split)
theorem mgmtDrop_keeps {a0} (h : Keeps kb s0 s) : Keeps kb s0 (mgmtDrop a0 s) := by
  unfold mgmtDrop
  repeat' (first | with_reducible assumption | (extract_lets +onlyGivenNames x; refine @cut kb s0 x _ ?_ (fun hx => ?_); unfold x; clear x; rotate_left; clear_value x; rotate_right) | (extract_lets +onlyGivenNames x; clear_value x) | with_reducible apply State.cntr_keeps | with_reducible apply ite_keeps | split)
theorem tunnelCmd_keeps {a0 a1 a2} (h : Keeps kb s0 s) : Keeps kb s0 (tunnelCmd a0 a1 a2 s) := by
  unfold tunnelCmd
  repeat' (first | with_reducible assumption | (extract_lets +onlyGivenNames x; refine @cut kb s0 x _ ?_ (fun hx => ?_); unfold x; clear x; rotate_left; clear_value x; rotate_right) | (extract_lets +onlyGivenNames x; clear_value x) | with_reducible apply State.onUma_keeps | with_reducible apply State.onCmd_keeps | with_reducible apply ite_keeps | split)
theorem tunnelCpl_keeps {a0} (h : Keeps kb s0 s) : Keeps kb s0 (tunnelCpl a0 s) := by
  unfold tunnelCpl
  repeat' (first | with_reducible assumption | (extract_lets +onlyGivenNames x; refine @cut kb s0 x _ ?_ (fun hx => ?_); unfold x; clear x; rotate_left; clear_value x; rotate_right) | (extract_lets +onlyGivenNames x; clear_value x) | with_reducible apply State.onUma_keeps | with_reducible apply complete_keeps | with_reducible apply ite_keeps | split)
theorem mgmtSend_keeps {a0 a1 a2 a3} (h : Keeps kb s0 s) : Keeps kb s0 (mgmtSend a0 a1 a2 a3 s) := by
  unfold mgmtSend
  repeat' (first | with_reducible assumption | (extract_lets +onlyGivenNames x; refine @cut kb s0 x _ ?_ (fun hx => ?_); unfold x; clear x; rotate_left; clear_value x; rotate_right) | (extract_lets +onlyGivenNames x; clear_value x) | with_reducible apply State.onUma_keeps | with_reducible refine State.each_keeps ?_ (fun _ _ _ => ?_) | with_reducible apply mgmtPair_keeps | with_reducible apply ite_keeps | split)
theorem mgmtTo_keeps {a0 a1 a2} (h : Keeps kb s0 s) : Keeps kb s0 (mgmtTo a0 a1 a2 s) := by
  unfold mgmtTo
  repeat' (first | with_reducible assumption | (extract_lets +onlyGivenNames x; refine @cut kb s0 x _ ?_ (fun hx => ?_); unfold x; clear x; rotate_left; clear_value x; rotate_right) | (extract_lets +onlyGivenNames x; clear_value x) | with_reducible apply mgmtSend_keeps | with_reducible apply State.onUma_keeps | with_reducible apply ite_keeps | split)
theorem fwTo_keeps {a0 a1} (h : Keeps kb s0 s) : Keeps kb s0 (fwTo a0 a1 s) := by
  unfold fwTo
  repeat' (first | with_reducible assumption | (extract_lets +onlyGivenNames x; refine @cut kb s0 x _ ?_ (fun hx => ?_); unfold x; clear x; rotate_left; clear_value x; rotate_right) | (extract_lets +onlyGivenNames x; refine @cut1 kb _ s0 x _ ?_ (fun hx => ?_); unfold x; clear x; rotate_left; clear_value x; rotate_right) | (extract_lets +onlyGivenNames x; refine @cut2 kb _ s0 x _ ?_ (fun hx => ?_); unfold x; clear x; rotate_left; clear_value x; rotate_right) | (extract_lets +onlyGivenNames x; clear_value x) | with_reducible refine State.fresh_keeps ?_ (by assumption) | with_reducible apply State.fresh_keeps2 | with_reducible apply mgmtTo_keeps | with_reducible apply ite_keeps | with_reducible apply State.fresh_keeps' | split | with_reducible apply mk1_keeps | with_reducible apply mk2_keeps)
theorem forwarded_keeps {a0 a1} (h : Keeps kb s0 s) : Keeps kb s0 (forwarded a0 a1 s) := by
  unfold forwarded
  repeat' (first | with_reducible assumption | (extract_lets +onlyGivenNames x; refine @cut kb s0 x _ ?_ (fun hx => ?_); unfold x; clear x; rotate_left; clear_value x; rotate_right) | (extract_lets +onlyGivenNames x; clear_value x) | with_reducible apply State.onUma_keeps | with_reducible apply State.onMd_keeps | with_reducible apply State.wr_keeps | with_reducible apply State.wb_keeps | with_reducible apply ite_keeps | split)
theorem fwMessage_keeps {a0 a1} (h : Keeps kb s0 s) : Keeps kb s0 (fwMessage a0 a1 s) := by
  unfold fwMessage
  repeat' (first | with_reducible assumption | (extract_lets +onlyGivenNames x; refine @cut kb s0 x _ ?_ (fun hx => ?_); unfold x; clear x; rotate_left; clear_value x; rotate_right) | (extract_lets +onlyGivenNames x; clear_value x) | with_reducible apply fwTo_keeps | with_reducible apply State.onUma_keeps | with_reducible apply slotWrite_keeps | with_reducible apply armSlot_keeps | with_reducible apply forwarded_keeps | with_reducible apply ite_keeps | split)
theorem mgmtMessage_keeps {a0 a1 a2 a3 a4} (h : Keeps kb s0 s) : Keeps kb s0 (mgmtMessage a0 a1 a2 a3 a4 s) := by
  unfold mgmtMessage
  repeat' (first | with_reducible assumption | (extract_lets +onlyGivenNames x; refine @cut kb s0 x _ ?_ (fun hx => ?_); unfold x; clear x; rotate_left; clear_value x; rotate_right) | (extract_lets +onlyGivenNames x; clear_value x) | with_reducible apply mgmtDrop_keeps | with_reducible apply State.onUma_keeps | with_reducible apply tunnelCmd_keeps | with_reducible apply tunnelCpl_keeps | with_reducible apply fwMessage_keeps | with_reducible apply ite_keeps | split)
theorem mgmtDeliver_keeps {a0 a1 a2 a3 a4} (h : Keeps kb s0 s) : Keeps kb s0 (mgmtDeliver a0 a1 a2 a3 a4 s) := by
  unfold mgmtDeliver
  repeat' (first | with_reducible assumption | (extract_lets +onlyGivenNames x; refine @cut kb s0 x _ ?_ (fun hx => ?_); unfold x; clear x; rotate_left; clear_value x; rotate_right) | (extract_lets +onlyGivenNames x; clear_value x) | with_reducible refine State.each_keeps ?_ (fun _ _ _ => ?_) | with_reducible apply mgmtDrop_keeps | with_reducible apply State.onUma_keeps | with_reducible apply mgmtMessage_keeps | with_reducible apply ite_keeps | split)
theorem mgmtCell_keeps {a0 a1 a2 a3 a4} (h : Keeps kb s0 s) : Keeps kb s0 (mgmtCell a0 a1 a2 a3 a4 s) := by
  unfold mgmtCell
  repeat' (first | with_reducible assumption | (extract_lets +onlyGivenNames x; refine @cut kb s0 x _ ?_ (fun hx => ?_); unfold x; clear x; rotate_left; clear_value x; rotate_right) | (extract_lets +onlyGivenNames x; clear_value x) | with_reducible apply State.cntr_keeps | with_reducible apply State.onUma_keeps | with_reducible refine State.each_keeps ?_ (fun _ _ _ => ?_) | with_reducible apply mgmtPair_keeps | with_reducible apply umoeSend_keeps | with_reducible apply mgmtDrop_keeps | with_reducible apply mgmtDeliver_keeps | with_reducible apply ite_keeps | split)
theorem mirrorEnter_keeps  (h : Keeps kb s0 s) : Keeps kb s0 (mirrorEnter s) := by
  unfold mirrorEnter
  repeat' (first | with_reducible assumption | (extract_lets +onlyGivenNames x; refine @cut kb s0 x _ ?_ (fun hx => ?_); unfold x; clear x; rotate_left; clear_value x; rotate_right) | (extract_lets +onlyGivenNames x; clear_value x) | with_reducible apply mirrorSet_keeps | with_reducible apply State.onUma_keeps | with_reducible apply copySet_keeps | with_reducible apply ite_keeps | split)
theorem missErr_keeps {a0 a1 a2} (h : Keeps kb s0 s) : Keeps kb s0 (missErr a0 a1 a2 s) := by
  unfold missErr
  repeat' (first | with_reducible assumption | (extract_lets +onlyGivenNames x; refine @cut kb s0 x _ ?_ (fun hx => ?_); unfold x; clear x; rotate_left; clear_value x; rotate_right) | (extract_lets +onlyGivenNames x; clear_value x) | with_reducible apply State.err_keeps | with_reducible apply ite_keeps | split)
theorem umaIn_keeps  (h : Keeps kb s0 s) : Keeps kb s0 (umaIn s) := by
  unfold umaIn
  repeat' (first | with_reducible assumption | (extract_lets +onlyGivenNames x; refine @cut kb s0 x _ ?_ (fun hx => ?_); unfold x; clear x; rotate_left; clear_value x; rotate_right) | (extract_lets +onlyGivenNames x; clear_value x) | with_reducible apply State.onXp_keeps | with_reducible apply State.onUma_keeps | with_reducible refine State.each_keeps ?_ (fun _ _ _ => ?_) | with_reducible apply missErr_keeps | with_reducible apply State.cntr_keeps | with_reducible apply ite_keeps | split)
theorem psumSettle_keeps' {a0} (h : Keeps kb s0 s) : Keeps1 kb s0 (psumSettle a0 s) := by
  unfold psumSettle
  repeat' (first | with_reducible assumption | (extract_lets +onlyGivenNames x; refine @cut kb s0 x _ ?_ (fun hx => ?_); unfold x; clear x; rotate_left; clear_value x; rotate_right) | (extract_lets +onlyGivenNames x; refine @cut1 kb _ s0 x _ ?_ (fun hx => ?_); unfold x; clear x; rotate_left; clear_value x; rotate_right) | (extract_lets +onlyGivenNames x; refine @cut2 kb _ s0 x _ ?_ (fun hx => ?_); unfold x; clear x; rotate_left; clear_value x; rotate_right) | (extract_lets +onlyGivenNames x; clear_value x) | with_reducible apply State.onUma_keeps | with_reducible apply missErr_keeps | with_reducible apply State.raise_keeps | with_reducible apply State.cntr_keeps | with_reducible refine foldl1_keeps (fun _ _ _ => ?_) ?_ | with_reducible apply mk1_keeps | split | with_reducible apply mk1_keeps)
theorem psumSettle_keeps2 {a0} (h : Keeps kb s0 s) : Keeps kb s0 (psumSettle a0 s).1 := psumSettle_keeps' h
theorem psumSettle_keeps {a0} {t v1 v2} (h : Keeps kb s0 s) (e : psumSettle a0 s = (t, v1, v2)) : Keeps kb s0 t := by
  have k : Keeps1 kb s0 (psumSettle a0 s) := psumSettle_keeps' h; rw [e] at k; exact k
theorem psumCells_keeps' {a0 a1 a2 a3 a4} (h : Keeps kb s0 s) : Keeps1 kb s0 (psumCells a0 a1 a2 a3 a4 s) := by
  unfold psumCells
  repeat' (first | with_reducible assumption | (extract_lets +onlyGivenNames x; refine @cut kb s0 x _ ?_ (fun hx => ?_); unfold x; clear x; rotate_left; clear_value x; rotate_right) | (extract_lets +onlyGivenNames x; refine @cut1 kb _ s0 x _ ?_ (fun hx => ?_); unfold x; clear x; rotate_left; clear_value x; rotate_right) | (extract_lets +onlyGivenNames x; refine @cut2 kb _ s0 x _ ?_ (fun hx => ?_); unfold x; clear x; rotate_left; clear_value x; rotate_right) | (extract_lets +onlyGivenNames x; clear_value x) | with_reducible apply State.raise_keeps | with_reducible apply State.cntr_keeps | with_reducible refine foldl1_keeps (fun _ _ _ => ?_) ?_ | with_reducible apply mk1_keeps | split | with_reducible apply mk1_keeps)
theorem psumCells_keeps2 {a0 a1 a2 a3 a4} (h : Keeps kb s0 s) : Keeps kb s0 (psumCells a0 a1 a2 a3 a4 s).1 := psumCells_keeps' h
theorem psumCells_keeps {a0 a1 a2 a3 a4} {t v1} (h : Keeps kb s0 s) (e : psumCells a0 a1 a2 a3 a4 s = (t, v1)) : Keeps kb s0 t := by
  have k : Keeps1 kb s0 (psumCells a0 a1 a2 a3 a4 s) := psumCells_keeps' h; rw [e] at k; exact k
theorem sumQPut_keeps {a0 a1} (h : Keeps kb s0 s) : Keeps kb s0 (sumQPut a0 a1 s) := by
  unfold sumQPut
  repeat' (first | with_reducible assumption | (extract_lets +onlyGivenNames x; refine @cut kb s0 x _ ?_ (fun hx => ?_); unfold x; clear x; rotate_left; clear_value x; rotate_right) | (extract_lets +onlyGivenNames x; clear_value x) | with_reducible refine State.each_keeps ?_ (fun _ _ _ => ?_) | with_reducible apply State.onUma_keeps | with_reducible apply ite_keeps | split)
theorem popSettle_keeps  (h : Keeps kb s0 s) : Keeps kb s0 (popSettle s) := by
  unfold popSettle
  repeat' (first | with_reducible assumption | (extract_lets +onlyGivenNames x; refine @cut kb s0 x _ ?_ (fun hx => ?_); unfold x; clear x; rotate_left; clear_value x; rotate_right) | (extract_lets +onlyGivenNames x; clear_value x) | with_reducible apply State.raise_keeps | with_reducible apply State.cntr_keeps | with_reducible apply State.onUma_keeps | with_reducible apply ite_keeps | split)
theorem relayMap_keeps  (h : Keeps kb s0 s) : Keeps kb s0 (relayMap s) := by
  unfold relayMap
  repeat' (first | with_reducible assumption | (extract_lets +onlyGivenNames x; refine @cut kb s0 x _ ?_ (fun hx => ?_); unfold x; clear x; rotate_left; clear_value x; rotate_right) | (extract_lets +onlyGivenNames x; clear_value x) | with_reducible refine State.each_keeps ?_ (fun _ _ _ => ?_) | with_reducible apply mgmtSend_keeps | with_reducible apply ite_keeps | split)
theorem umaOutputs_keeps {a0 a1} (h : Keeps kb s0 s) : Keeps kb s0 (umaOutputs a0 a1 s) := by
  unfold umaOutputs
  repeat' (first | with_reducible assumption | (extract_lets +onlyGivenNames x; refine @cut kb s0 x _ ?_ (fun hx => ?_); unfold x; clear x; rotate_left; clear_value x; rotate_right) | (extract_lets +onlyGivenNames x; refine @cut1 kb _ s0 x _ ?_ (fun hx => ?_); unfold x; clear x; rotate_left; clear_value x; rotate_right) | (extract_lets +onlyGivenNames x; refine @cut2 kb _ s0 x _ ?_ (fun hx => ?_); unfold x; clear x; rotate_left; clear_value x; rotate_right) | (extract_lets +onlyGivenNames x; clear_value x) | with_reducible apply formSums_keeps | with_reducible apply State.onUma_keeps | with_reducible apply chains_keeps | with_reducible refine psumSettle_keeps ?_ (by assumption) | with_reducible apply psumSettle_keeps2 | with_reducible refine psumCells_keeps ?_ (by assumption) | with_reducible apply psumCells_keeps2 | with_reducible apply sumQPut_keeps | with_reducible apply popSettle_keeps | with_reducible refine State.each_keeps ?_ (fun _ _ _ => ?_) | with_reducible apply relayMap_keeps | with_reducible apply ite_keeps | with_reducible apply psumSettle_keeps' | with_reducible apply psumCells_keeps' | split | with_reducible apply mk1_keeps | with_reducible apply mk2_keeps)
theorem tunFlush_keeps  (h : Keeps kb s0 s) : Keeps kb s0 (tunFlush s) := by
  unfold tunFlush
  repeat' (first | with_reducible assumption | (extract_lets +onlyGivenNames x; refine @cut kb s0 x _ ?_ (fun hx => ?_); unfold x; clear x; rotate_left; clear_value x; rotate_right) | (extract_lets +onlyGivenNames x; clear_value x) | with_reducible refine State.each_keeps ?_ (fun _ _ _ => ?_) | with_reducible apply State.onUma_keeps | with_reducible apply mgmtTo_keeps | with_reducible apply ite_keeps | split)
theorem relayKeep_keeps  (h : Keeps kb s0 s) : Keeps kb s0 (relayKeep s) := by
  unfold relayKeep
  repeat' (first | with_reducible assumption | (extract_lets +onlyGivenNames x; refine @cut kb s0 x _ ?_ (fun hx => ?_); unfold x; clear x; rotate_left; clear_value x; rotate_right) | (extract_lets +onlyGivenNames x; clear_value x) | with_reducible apply State.onUma_keeps | with_reducible apply ite_keeps | split)
theorem umaEnd_keeps  (h : Keeps kb s0 s) : Keeps kb s0 (umaEnd s) := by
  unfold umaEnd
  repeat' (first | with_reducible assumption | (extract_lets +onlyGivenNames x; refine @cut kb s0 x _ ?_ (fun hx => ?_); unfold x; clear x; rotate_left; clear_value x; rotate_right) | (extract_lets +onlyGivenNames x; clear_value x) | with_reducible apply tunFlush_keeps | with_reducible apply relayKeep_keeps | with_reducible apply ite_keeps | split)
theorem uoutHigh_keeps  (h : Keeps kb s0 s) : Keeps kb s0 (uoutHigh s) := by
  unfold uoutHigh
  repeat' (first | with_reducible assumption | (extract_lets +onlyGivenNames x; refine @cut kb s0 x _ ?_ (fun hx => ?_); unfold x; clear x; rotate_left; clear_value x; rotate_right) | (extract_lets +onlyGivenNames x; clear_value x) | with_reducible apply State.wr_keeps | with_reducible apply ite_keeps | split)
theorem umaRwb_keeps  (h : Keeps kb s0 s) : Keeps kb s0 (umaRwb s) := by
  unfold umaRwb
  repeat' (first | with_reducible assumption | (extract_lets +onlyGivenNames x; refine @cut kb s0 x _ ?_ (fun hx => ?_); unfold x; clear x; rotate_left; clear_value x; rotate_right) | (extract_lets +onlyGivenNames x; clear_value x) | with_reducible apply uoutHigh_keeps | with_reducible refine State.applyDue_keeps (hk := fun _ _ _ => ?_) ?_ | with_reducible apply State.applyHeld_keeps | with_reducible apply ite_keeps | split)
theorem mismatch_keeps {a0} (h : Keeps kb s0 s) : Keeps kb s0 (mismatch a0 s) := by
  unfold mismatch
  repeat' (first | with_reducible assumption | (extract_lets +onlyGivenNames x; refine @cut kb s0 x _ ?_ (fun hx => ?_); unfold x; clear x; rotate_left; clear_value x; rotate_right) | (extract_lets +onlyGivenNames x; clear_value x) | with_reducible apply hierFix_keeps | with_reducible apply State.raise_keeps | with_reducible apply State.wb_keeps | with_reducible apply ite_keeps | split)
theorem trainCell_keeps {a0 a1 a2} (h : Keeps kb s0 s) : Keeps kb s0 (trainCell a0 a1 a2 s) := by
  unfold trainCell
  repeat' (first | with_reducible assumption | (extract_lets +onlyGivenNames x; refine @cut kb s0 x _ ?_ (fun hx => ?_); unfold x; clear x; rotate_left; clear_value x; rotate_right) | (extract_lets +onlyGivenNames x; clear_value x) | with_reducible apply State.wr_keeps | with_reducible apply State.wb_keeps | with_reducible apply mismatch_keeps | with_reducible apply linkTry_keeps | with_reducible apply State.onUma_keeps | with_reducible apply ite_keeps | split)
theorem linkCnt_keeps {a0 a1 a2} (h : Keeps kb s0 s) : Keeps kb s0 (linkCnt a0 a1 a2 s) := by
  unfold linkCnt
  repeat' (first | with_reducible assumption | (extract_lets +onlyGivenNames x; refine @cut kb s0 x _ ?_ (fun hx => ?_); unfold x; clear x; rotate_left; clear_value x; rotate_right) | (extract_lets +onlyGivenNames x; clear_value x) | with_reducible apply State.cntr_keeps | with_reducible apply State.raise_keeps | with_reducible apply ite_keeps | split)
theorem sumCell_keeps {a0 a1 a2 a3} (h : Keeps kb s0 s) : Keeps kb s0 (sumCell a0 a1 a2 a3 s) := by
  unfold sumCell
  repeat' (first | with_reducible assumption | (extract_lets +onlyGivenNames x; refine @cut kb s0 x _ ?_ (fun hx => ?_); unfold x; clear x; rotate_left; clear_value x; rotate_right) | (extract_lets +onlyGivenNames x; clear_value x) | with_reducible apply State.cntr_keeps | with_reducible apply linkCnt_keeps | with_reducible apply State.onUma_keeps | with_reducible refine State.each_keeps ?_ (fun _ _ _ => ?_) | with_reducible apply ite_keeps | split)
theorem memberHear_keeps {a0} (h : Keeps kb s0 s) : Keeps kb s0 (memberHear a0 s) := by
  unfold memberHear
  repeat' (first | with_reducible assumption | (extract_lets +onlyGivenNames x; refine @cut kb s0 x _ ?_ (fun hx => ?_); unfold x; clear x; rotate_left; clear_value x; rotate_right) | (extract_lets +onlyGivenNames x; clear_value x) | with_reducible apply State.onUma_keeps | with_reducible apply State.raise_keeps | with_reducible apply State.wr_keeps | with_reducible apply ite_keeps | split)
theorem diverged_keeps {a0} (h : Keeps kb s0 s) : Keeps kb s0 (diverged a0 s) := by
  unfold diverged
  repeat' (first | with_reducible assumption | (extract_lets +onlyGivenNames x; refine @cut kb s0 x _ ?_ (fun hx => ?_); unfold x; clear x; rotate_left; clear_value x; rotate_right) | (extract_lets +onlyGivenNames x; clear_value x) | with_reducible apply State.err_keeps | with_reducible apply State.raise_keeps | with_reducible apply State.wb_keeps | with_reducible apply copySet_keeps | with_reducible apply ite_keeps | split)
theorem timeCell_keeps {a0 a1 a2 a3} (h : Keeps kb s0 s) : Keeps kb s0 (timeCell a0 a1 a2 a3 s) := by
  unfold timeCell
  repeat' (first | with_reducible assumption | (extract_lets +onlyGivenNames x; refine @cut kb s0 x _ ?_ (fun hx => ?_); unfold x; clear x; rotate_left; clear_value x; rotate_right) | (extract_lets +onlyGivenNames x; clear_value x) | with_reducible apply State.wrS_keeps | with_reducible apply sumOkFix_keeps | with_reducible apply State.onUma_keeps | with_reducible apply memberHear_keeps | with_reducible apply diverged_keeps | with_reducible apply ite_keeps | split)
theorem cellDeliver_keeps {a0 a1 a2 a3 a4} (h : Keeps kb s0 s) : Keeps kb s0 (cellDeliver a0 a1 a2 a3 a4 s) := by
  unfold cellDeliver
  repeat' (first | with_reducible assumption | (extract_lets +onlyGivenNames x; refine @cut kb s0 x _ ?_ (fun hx => ?_); unfold x; clear x; rotate_left; clear_value x; rotate_right) | (extract_lets +onlyGivenNames x; clear_value x) | with_reducible apply trainCell_keeps | with_reducible apply sumCell_keeps | with_reducible apply timeCell_keeps | with_reducible apply memberHear_keeps | with_reducible apply mgmtCell_keeps | with_reducible apply ite_keeps | split)
theorem trainBreak_keeps {a0} (h : Keeps kb s0 s) : Keeps kb s0 (trainBreak a0 s) := by
  unfold trainBreak
  repeat' (first | with_reducible assumption | (extract_lets +onlyGivenNames x; refine @cut kb s0 x _ ?_ (fun hx => ?_); unfold x; clear x; rotate_left; clear_value x; rotate_right) | (extract_lets +onlyGivenNames x; clear_value x) | with_reducible apply State.onUma_keeps | with_reducible apply ite_keeps | split)
theorem cellTake_keeps {a0 a1 a2 a3 a4} (h : Keeps kb s0 s) : Keeps kb s0 (cellTake a0 a1 a2 a3 a4 s) := by
  unfold cellTake
  repeat' (first | with_reducible assumption | (extract_lets +onlyGivenNames x; refine @cut kb s0 x _ ?_ (fun hx => ?_); unfold x; clear x; rotate_left; clear_value x; rotate_right) | (extract_lets +onlyGivenNames x; clear_value x) | with_reducible apply cellDeliver_keeps | with_reducible apply State.onUma_keeps | with_reducible apply ite_keeps | split)
theorem cellReceive_keeps {a0 a1 a2 a3} (h : Keeps kb s0 s) : Keeps kb s0 (cellReceive a0 a1 a2 a3 s) := by
  unfold cellReceive
  repeat' (first | with_reducible assumption | (extract_lets +onlyGivenNames x; refine @cut kb s0 x _ ?_ (fun hx => ?_); unfold x; clear x; rotate_left; clear_value x; rotate_right) | (extract_lets +onlyGivenNames x; clear_value x) | with_reducible apply State.cntw_keeps | with_reducible apply trainBreak_keeps | with_reducible apply linkCnt_keeps | with_reducible apply cellTake_keeps | with_reducible apply State.onUma_keeps | with_reducible apply State.cntr_keeps | with_reducible apply ite_keeps | split)
theorem linksFail_keeps {a0} (h : Keeps kb s0 s) : Keeps kb s0 (linksFail a0 s) := by
  unfold linksFail
  repeat' (first | with_reducible assumption | (extract_lets +onlyGivenNames x; refine @cut kb s0 x _ ?_ (fun hx => ?_); unfold x; clear x; rotate_left; clear_value x; rotate_right) | (extract_lets +onlyGivenNames x; clear_value x) | with_reducible refine State.each_keeps ?_ (fun _ _ _ => ?_) | with_reducible apply linkLock_keeps | with_reducible apply ite_keeps | split)
theorem laneLock_keeps {a0 a1} (h : Keeps kb s0 s) : Keeps kb s0 (laneLock a0 a1 s) := by
  unfold laneLock
  repeat' (first | with_reducible assumption | (extract_lets +onlyGivenNames x; refine @cut kb s0 x _ ?_ (fun hx => ?_); unfold x; clear x; rotate_left; clear_value x; rotate_right) | (extract_lets +onlyGivenNames x; clear_value x) | with_reducible apply State.wr_keeps | with_reducible apply linkSet_keeps | with_reducible apply ite_keeps | split)
theorem laneLoss_keeps {a0 a1} (h : Keeps kb s0 s) : Keeps kb s0 (laneLoss a0 a1 s) := by
  unfold laneLoss
  repeat' (first | with_reducible assumption | (extract_lets +onlyGivenNames x; refine @cut kb s0 x _ ?_ (fun hx => ?_); unfold x; clear x; rotate_left; clear_value x; rotate_right) | (extract_lets +onlyGivenNames x; clear_value x) | with_reducible apply State.wr_keeps | with_reducible apply linkLock_keeps | with_reducible apply ite_keeps | split)
theorem laneTake_keeps' {a0 a1 a2} (h : Keeps kb s0 s) : Keeps2 kb s0 (laneTake a0 a1 a2 s) := by
  unfold laneTake
  repeat' (first | with_reducible assumption | (extract_lets +onlyGivenNames x; refine @cut kb s0 x _ ?_ (fun hx => ?_); unfold x; clear x; rotate_left; clear_value x; rotate_right) | (extract_lets +onlyGivenNames x; clear_value x) | with_reducible apply State.onUma_keeps | with_reducible apply laneLock_keeps | with_reducible apply laneLoss_keeps | split | with_reducible apply mk2_keeps)
theorem laneTake_keeps2 {a0 a1 a2} (h : Keeps kb s0 s) : Keeps kb s0 (laneTake a0 a1 a2 s).2 := laneTake_keeps' h
theorem laneTake_keeps {a0 a1 a2} {v0 t} (h : Keeps kb s0 s) (e : laneTake a0 a1 a2 s = (v0, t)) : Keeps kb s0 t := by
  have k : Keeps2 kb s0 (laneTake a0 a1 a2 s) := laneTake_keeps' h; rw [e] at k; exact k
theorem laneTakes_keeps' {a0 a1 a2} (h : Keeps kb s0 s) : Keeps2 kb s0 (laneTakes a0 a1 a2 s) := by
  induction a2 generalizing s with
  | nil => exact h
  | cons b t ih => exact ih (laneTake_keeps2 h)
theorem laneTakes_keeps2 {a0 a1 a2} (h : Keeps kb s0 s) : Keeps kb s0 (laneTakes a0 a1 a2 s).2 := laneTakes_keeps' h
theorem laneTakes_keeps {a0 a1 a2} {v0 t} (h : Keeps kb s0 s) (e : laneTakes a0 a1 a2 s = (v0, t)) : Keeps kb s0 t := by
  have k : Keeps2 kb s0 (laneTakes a0 a1 a2 s) := laneTakes_keeps' h; rw [e] at k; exact k
theorem execBlockLock_next {a0 a1 a2} (h : Keeps kb s0 s) : ∃ t, execBlockLock a0 a1 a2 s = .next t ∧ Keeps kb s0 t := by
  refine ⟨_, rfl, ?_⟩
  repeat' (first | with_reducible assumption | (extract_lets +onlyGivenNames x; refine @cut kb s0 x _ ?_ (fun hx => ?_); unfold x; clear x; rotate_left; clear_value x; rotate_right) | (extract_lets +onlyGivenNames x; refine @cut1 kb _ s0 x _ ?_ (fun hx => ?_); unfold x; clear x; rotate_left; clear_value x; rotate_right) | (extract_lets +onlyGivenNames x; refine @cut2 kb _ s0 x _ ?_ (fun hx => ?_); unfold x; clear x; rotate_left; clear_value x; rotate_right) | (extract_lets +onlyGivenNames x; clear_value x) | with_reducible refine awake_keeps ?_ ?_ | with_reducible refine laneTakes_keeps ?_ (by assumption) | with_reducible apply laneTakes_keeps2 | with_reducible apply ite_keeps | with_reducible apply laneTakes_keeps' | split | with_reducible apply mk1_keeps | with_reducible apply mk2_keeps)
theorem lanesTake_keeps' {a0 a1} (h : Keeps kb s0 s) : Keeps2 kb s0 (lanesTake a0 a1 s) := by
  unfold lanesTake
  exact foldl2_keeps (fun _ _ h => laneTakes_keeps2 h) h
theorem lanesTake_keeps2 {a0 a1} (h : Keeps kb s0 s) : Keeps kb s0 (lanesTake a0 a1 s).2 := lanesTake_keeps' h
theorem lanesTake_keeps {a0 a1} {v0 t} (h : Keeps kb s0 s) (e : lanesTake a0 a1 s = (v0, t)) : Keeps kb s0 t := by
  have k : Keeps2 kb s0 (lanesTake a0 a1 s) := lanesTake_keeps' h; rw [e] at k; exact k
theorem markerJudge_keeps {a0 a1 a2 a3} (h : Keeps kb s0 s) : Keeps kb s0 (markerJudge a0 a1 a2 a3 s) := by
  unfold markerJudge
  repeat' (first | with_reducible assumption | (extract_lets +onlyGivenNames x; refine @cut kb s0 x _ ?_ (fun hx => ?_); unfold x; clear x; rotate_left; clear_value x; rotate_right) | (extract_lets +onlyGivenNames x; clear_value x) | with_reducible apply State.wr_keeps | with_reducible apply State.onUma_keeps | with_reducible apply linkTrain_keeps | with_reducible apply linkLock_keeps | with_reducible apply ite_keeps | split)
theorem execMarkerSet_next {a0 a1 a2 a3 a4} (h : Keeps kb s0 s) : ∃ t, execMarkerSet a0 a1 a2 a3 a4 s = .next t ∧ Keeps kb s0 t := by
  refine ⟨_, rfl, ?_⟩
  repeat' (first | with_reducible assumption | (extract_lets +onlyGivenNames x; refine @cut kb s0 x _ ?_ (fun hx => ?_); unfold x; clear x; rotate_left; clear_value x; rotate_right) | (extract_lets +onlyGivenNames x; refine @cut1 kb _ s0 x _ ?_ (fun hx => ?_); unfold x; clear x; rotate_left; clear_value x; rotate_right) | (extract_lets +onlyGivenNames x; refine @cut2 kb _ s0 x _ ?_ (fun hx => ?_); unfold x; clear x; rotate_left; clear_value x; rotate_right) | (extract_lets +onlyGivenNames x; clear_value x) | with_reducible refine awake_keeps ?_ ?_ | with_reducible refine lanesTake_keeps ?_ (by assumption) | with_reducible apply lanesTake_keeps2 | with_reducible apply markerJudge_keeps | with_reducible apply ite_keeps | with_reducible apply lanesTake_keeps' | split | with_reducible apply mk1_keeps | with_reducible apply mk2_keeps)
theorem execTrainTimeout_next {a0 a1} (h : Keeps kb s0 s) : ∃ t, execTrainTimeout a0 a1 s = .next t ∧ Keeps kb s0 t := by
  refine ⟨_, rfl, ?_⟩
  repeat' (first | with_reducible assumption | (extract_lets +onlyGivenNames x; refine @cut kb s0 x _ ?_ (fun hx => ?_); unfold x; clear x; rotate_left; clear_value x; rotate_right) | (extract_lets +onlyGivenNames x; clear_value x) | with_reducible refine awake_keeps ?_ ?_ | with_reducible apply linkLock_keeps | with_reducible apply ite_keeps | split)
theorem execCellTimeout_next {a0 a1} (h : Keeps kb s0 s) : ∃ t, execCellTimeout a0 a1 s = .next t ∧ Keeps kb s0 t := by
  refine ⟨_, rfl, ?_⟩
  repeat' (first | with_reducible assumption | (extract_lets +onlyGivenNames x; refine @cut kb s0 x _ ?_ (fun hx => ?_); unfold x; clear x; rotate_left; clear_value x; rotate_right) | (extract_lets +onlyGivenNames x; clear_value x) | with_reducible refine awake_keeps ?_ ?_ | with_reducible apply linkLock_keeps | with_reducible apply ite_keeps | split)
theorem execCellReceive_next {a0 a1 a2 a3} (h : Keeps kb s0 s) : ∃ t, execCellReceive a0 a1 a2 a3 s = .next t ∧ Keeps kb s0 t := by
  refine ⟨_, rfl, ?_⟩
  repeat' (first | with_reducible assumption | (extract_lets +onlyGivenNames x; refine @cut kb s0 x _ ?_ (fun hx => ?_); unfold x; clear x; rotate_left; clear_value x; rotate_right) | (extract_lets +onlyGivenNames x; refine @cut1 kb _ s0 x _ ?_ (fun hx => ?_); unfold x; clear x; rotate_left; clear_value x; rotate_right) | (extract_lets +onlyGivenNames x; refine @cut2 kb _ s0 x _ ?_ (fun hx => ?_); unfold x; clear x; rotate_left; clear_value x; rotate_right) | (extract_lets +onlyGivenNames x; clear_value x) | with_reducible refine awake_keeps ?_ ?_ | with_reducible refine lanesTake_keeps ?_ (by assumption) | with_reducible apply lanesTake_keeps2 | with_reducible apply cellReceive_keeps | with_reducible apply ite_keeps | with_reducible apply lanesTake_keeps' | split | with_reducible apply mk1_keeps | with_reducible apply mk2_keeps)
theorem execMgmtFragmentDiscard_next {a0 a1 a2} (h : Keeps kb s0 s) : ∃ t, execMgmtFragmentDiscard a0 a1 a2 s = .next t ∧ Keeps kb s0 t := by
  refine ⟨_, rfl, ?_⟩
  repeat' (first | with_reducible assumption | (extract_lets +onlyGivenNames x; refine @cut kb s0 x _ ?_ (fun hx => ?_); unfold x; clear x; rotate_left; clear_value x; rotate_right) | (extract_lets +onlyGivenNames x; clear_value x) | with_reducible refine awake_keeps ?_ ?_ | with_reducible apply mgmtDrop_keeps | with_reducible apply State.onUma_keeps | with_reducible apply ite_keeps | split)
theorem execMirrorLost_next  (h : Keeps kb s0 s) : ∃ t, execMirrorLost s = .next t ∧ Keeps kb s0 t := by
  refine ⟨_, rfl, ?_⟩
  repeat' (first | with_reducible assumption | (extract_lets +onlyGivenNames x; refine @cut kb s0 x _ ?_ (fun hx => ?_); unfold x; clear x; rotate_left; clear_value x; rotate_right) | (extract_lets +onlyGivenNames x; clear_value x) | with_reducible refine awake_keeps ?_ ?_ | with_reducible apply State.err_keeps | with_reducible apply State.cntr_keeps | with_reducible apply mirrorSet_keeps | with_reducible apply State.onUma_keeps | with_reducible apply ite_keeps | split)
theorem mirrorDiscard_keeps  (h : Keeps kb s0 s) : Keeps kb s0 (mirrorDiscard s) := by
  unfold mirrorDiscard
  repeat' (first | with_reducible assumption | (extract_lets +onlyGivenNames x; refine @cut kb s0 x _ ?_ (fun hx => ?_); unfold x; clear x; rotate_left; clear_value x; rotate_right) | (extract_lets +onlyGivenNames x; clear_value x) | with_reducible refine State.each_keeps ?_ (fun _ _ _ => ?_) | with_reducible apply rxDisable_keeps | with_reducible apply txDisable_keeps | with_reducible apply State.onScn_keeps | with_reducible apply ite_keeps | split)
theorem execMirrorCopyComplete_next {a0 a1} (h : Keeps kb s0 s) : ∃ t, execMirrorCopyComplete a0 a1 s = .next t ∧ Keeps kb s0 t := by
  refine ⟨_, rfl, ?_⟩
  repeat' (first | with_reducible assumption | (extract_lets +onlyGivenNames x; refine @cut kb s0 x _ ?_ (fun hx => ?_); unfold x; clear x; rotate_left; clear_value x; rotate_right) | (extract_lets +onlyGivenNames x; clear_value x) | with_reducible refine awake_keeps ?_ ?_ | with_reducible apply installCopy_keeps | with_reducible apply mirrorDiscard_keeps | with_reducible apply State.onUma_keeps | with_reducible apply ite_keeps | split)
theorem execMirrorRepair_next {a0} (h : Keeps kb s0 s) : ∃ t, execMirrorRepair a0 s = .next t ∧ Keeps kb s0 t := by
  refine ⟨_, rfl, ?_⟩
  repeat' (first | with_reducible assumption | (extract_lets +onlyGivenNames x; refine @cut kb s0 x _ ?_ (fun hx => ?_); unfold x; clear x; rotate_left; clear_value x; rotate_right) | (extract_lets +onlyGivenNames x; clear_value x) | with_reducible refine awake_keeps ?_ ?_ | with_reducible apply State.onUma_keeps | with_reducible refine State.each_keeps ?_ (fun _ _ _ => ?_) | with_reducible apply State.err_keeps | with_reducible apply copySet_keeps | with_reducible apply ite_keeps | split)
theorem execMirrorForward_next  (h : Keeps kb s0 s) : ∃ t, execMirrorForward s = .next t ∧ Keeps kb s0 t := by
  refine ⟨_, rfl, ?_⟩
  repeat' (first | with_reducible assumption | (extract_lets +onlyGivenNames x; refine @cut kb s0 x _ ?_ (fun hx => ?_); unfold x; clear x; rotate_left; clear_value x; rotate_right) | (extract_lets +onlyGivenNames x; clear_value x) | with_reducible refine awake_keeps ?_ ?_ | with_reducible apply fwTo_keeps | with_reducible apply State.onUma_keeps | with_reducible apply ite_keeps | split)
theorem execTunnelTimeout_next {a0} (h : Keeps kb s0 s) : ∃ t, execTunnelTimeout a0 s = .next t ∧ Keeps kb s0 t := by
  refine ⟨_, rfl, ?_⟩
  repeat' (first | with_reducible assumption | (extract_lets +onlyGivenNames x; refine @cut kb s0 x _ ?_ (fun hx => ?_); unfold x; clear x; rotate_left; clear_value x; rotate_right) | (extract_lets +onlyGivenNames x; clear_value x) | with_reducible refine awake_keeps ?_ ?_ | with_reducible apply complete_keeps | with_reducible apply State.onUma_keeps | with_reducible apply ite_keeps | split)
theorem execReservationExpire_next {a0} (h : Keeps kb s0 s) : ∃ t, execReservationExpire a0 s = .next t ∧ Keeps kb s0 t := by
  refine ⟨_, rfl, ?_⟩
  repeat' (first | with_reducible assumption | (extract_lets +onlyGivenNames x; refine @cut kb s0 x _ ?_ (fun hx => ?_); unfold x; clear x; rotate_left; clear_value x; rotate_right) | (extract_lets +onlyGivenNames x; clear_value x) | with_reducible refine awake_keeps ?_ ?_ | with_reducible apply State.onUma_keeps | with_reducible apply ite_keeps | split)
theorem execUlinkConfig_next {a0 a1} (h : Keeps kb s0 s) : ∃ t, execUlinkConfig a0 a1 s = .next t ∧ Keeps kb s0 t := by
  refine ⟨_, rfl, ?_⟩
  repeat' (first | with_reducible assumption | (extract_lets +onlyGivenNames x; refine @cut kb s0 x _ ?_ (fun hx => ?_); unfold x; clear x; rotate_left; clear_value x; rotate_right) | (extract_lets +onlyGivenNames x; clear_value x) | with_reducible refine runCmd_keeps (hb := fun _ _ _ => ?_) ?_ | with_reducible apply done_keeps | with_reducible refine State.each_keeps ?_ (fun _ _ _ => ?_) | with_reducible apply linkCtl_keeps | with_reducible apply cfgWrite_keeps | with_reducible exact no_keeps | with_reducible apply ite_keeps | split)
theorem execUlinkStatus_next {a0 a1} (h : Keeps kb s0 s) : ∃ t, execUlinkStatus a0 a1 s = .next t ∧ Keeps kb s0 t := by
  refine ⟨_, rfl, ?_⟩
  repeat' (first | with_reducible assumption | (extract_lets +onlyGivenNames x; refine @cut kb s0 x _ ?_ (fun hx => ?_); unfold x; clear x; rotate_left; clear_value x; rotate_right) | (extract_lets +onlyGivenNames x; clear_value x) | with_reducible refine runCmd_keeps (hb := fun _ _ _ => ?_) ?_ | with_reducible apply retL_keeps | with_reducible exact no_keeps | with_reducible apply ite_keeps | split)
theorem execUlinkRetrain_next {a0 a1} (h : Keeps kb s0 s) : ∃ t, execUlinkRetrain a0 a1 s = .next t ∧ Keeps kb s0 t := by
  refine ⟨_, rfl, ?_⟩
  repeat' (first | with_reducible assumption | (extract_lets +onlyGivenNames x; refine @cut kb s0 x _ ?_ (fun hx => ?_); unfold x; clear x; rotate_left; clear_value x; rotate_right) | (extract_lets +onlyGivenNames x; clear_value x) | with_reducible refine runCmd_keeps (hb := fun _ _ _ => ?_) ?_ | with_reducible apply done_keeps | with_reducible apply linkCtl_keeps | with_reducible exact no_keeps | with_reducible apply ite_keeps | split)
theorem execHierJoin_next {a0 a1} (h : Keeps kb s0 s) : ∃ t, execHierJoin a0 a1 s = .next t ∧ Keeps kb s0 t := by
  refine ⟨_, rfl, ?_⟩
  repeat' (first | with_reducible assumption | (extract_lets +onlyGivenNames x; refine @cut kb s0 x _ ?_ (fun hx => ?_); unfold x; clear x; rotate_left; clear_value x; rotate_right) | (extract_lets +onlyGivenNames x; clear_value x) | with_reducible refine runCmd_keeps (hb := fun _ _ _ => ?_) ?_ | with_reducible apply done_keeps | with_reducible apply flashWrote_keeps | with_reducible refine State.onFlash_keeps (fun _ => ⟨rfl, rfl, Nat.le_refl _⟩) ?_ | with_reducible apply State.onUma_keeps | with_reducible exact no_keeps | with_reducible apply ite_keeps | split)
theorem execHierStatus_next {a0 a1} (h : Keeps kb s0 s) : ∃ t, execHierStatus a0 a1 s = .next t ∧ Keeps kb s0 t := by
  refine ⟨_, rfl, ?_⟩
  repeat' (first | with_reducible assumption | (extract_lets +onlyGivenNames x; refine @cut kb s0 x _ ?_ (fun hx => ?_); unfold x; clear x; rotate_left; clear_value x; rotate_right) | (extract_lets +onlyGivenNames x; clear_value x) | with_reducible refine runCmd_keeps (hb := fun _ _ _ => ?_) ?_ | with_reducible apply ret_keeps | with_reducible apply ite_keeps | split)
theorem execRelaySet_next {a0 a1} (h : Keeps kb s0 s) : ∃ t, execRelaySet a0 a1 s = .next t ∧ Keeps kb s0 t := by
  refine ⟨_, rfl, ?_⟩
  repeat' (first | with_reducible assumption | (extract_lets +onlyGivenNames x; refine @cut kb s0 x _ ?_ (fun hx => ?_); unfold x; clear x; rotate_left; clear_value x; rotate_right) | (extract_lets +onlyGivenNames x; clear_value x) | with_reducible refine runCmd_keeps (hb := fun _ _ _ => ?_) ?_ | with_reducible apply done_keeps | with_reducible refine State.each_keeps ?_ (fun _ _ _ => ?_) | with_reducible apply cmdHold_keeps | with_reducible exact no_keeps | with_reducible apply ite_keeps | split)
theorem gridTurn_keeps {a0 a1 a2 a3} (h : Keeps kb s0 s) : ResKeeps kb s0 (gridTurn a0 a1 a2 a3 s) := by
  unfold gridTurn
  repeat' (first | with_reducible assumption | (extract_lets +onlyGivenNames x; refine @cutF kb s0 x _ (fun _ _ => ?_) (fun hx => ?_); unfold x; clear x; rotate_left; clear_value x; rotate_right) | (extract_lets +onlyGivenNames x; refine @cut kb s0 x _ ?_ (fun hx => ?_); unfold x; clear x; rotate_left; clear_value x; rotate_right) | (extract_lets +onlyGivenNames x; clear_value x) | with_reducible refine State.each_keeps ?_ (fun _ _ _ => ?_) | with_reducible apply fwTo_keeps | with_reducible apply slotWrite_keeps | with_reducible apply armSlot_keeps | with_reducible apply resOk_keeps | with_reducible refine (by assumption : ∀ s, Keeps kb s0 s → Keeps kb s0 ((_ : State → State) s)) _ ?_ | with_reducible apply iteR_keeps | split)
theorem execGridTurn_next {a0 a1 a2 a3 a4} (h : Keeps kb s0 s) : ∃ t, execGridTurn a0 a1 a2 a3 a4 s = .next t ∧ Keeps kb s0 t := by
  refine ⟨_, rfl, ?_⟩
  repeat' (first | with_reducible assumption | (extract_lets +onlyGivenNames x; refine @cut kb s0 x _ ?_ (fun hx => ?_); unfold x; clear x; rotate_left; clear_value x; rotate_right) | (extract_lets +onlyGivenNames x; clear_value x) | with_reducible refine runCmd_keeps (hb := fun _ _ _ => ?_) ?_ | with_reducible apply gridTurn_keeps | with_reducible exact no_keeps | with_reducible apply ite_keeps | split)
theorem execUmarunTunnel_next {a0 a1 a2} (h : Keeps kb s0 s) : ∃ t, execUmarunTunnel a0 a1 a2 s = .next t ∧ Keeps kb s0 t := by
  refine ⟨_, rfl, ?_⟩
  repeat' (first | with_reducible assumption | (extract_lets +onlyGivenNames x; refine @cut kb s0 x _ ?_ (fun hx => ?_); unfold x; clear x; rotate_left; clear_value x; rotate_right) | (extract_lets +onlyGivenNames x; clear_value x) | with_reducible refine runCmd_keeps (hb := fun _ _ _ => ?_) ?_ | with_reducible apply mgmtTo_keeps | with_reducible apply State.onUma_keeps | with_reducible exact no_keeps | with_reducible apply resLater_keeps | with_reducible apply ite_keeps | split)
theorem execMirrorTakeover_next {a0} (h : Keeps kb s0 s) : ∃ t, execMirrorTakeover a0 s = .next t ∧ Keeps kb s0 t := by
  refine ⟨_, rfl, ?_⟩
  repeat' (first | with_reducible assumption | (extract_lets +onlyGivenNames x; refine @cut kb s0 x _ ?_ (fun hx => ?_); unfold x; clear x; rotate_left; clear_value x; rotate_right) | (extract_lets +onlyGivenNames x; clear_value x) | with_reducible refine runCmd_keeps (hb := fun _ _ _ => ?_) ?_ | with_reducible apply done_keeps | with_reducible apply State.onUma_keeps | with_reducible apply ite_keeps | split)
theorem execMirrorStatus_next {a0} (h : Keeps kb s0 s) : ∃ t, execMirrorStatus a0 s = .next t ∧ Keeps kb s0 t := by
  refine ⟨_, rfl, ?_⟩
  repeat' (first | with_reducible assumption | (extract_lets +onlyGivenNames x; refine @cut kb s0 x _ ?_ (fun hx => ?_); unfold x; clear x; rotate_left; clear_value x; rotate_right) | (extract_lets +onlyGivenNames x; refine @cut1 kb _ s0 x _ ?_ (fun hx => ?_); unfold x; clear x; rotate_left; clear_value x; rotate_right) | (extract_lets +onlyGivenNames x; refine @cut2 kb _ s0 x _ ?_ (fun hx => ?_); unfold x; clear x; rotate_left; clear_value x; rotate_right) | (extract_lets +onlyGivenNames x; clear_value x) | with_reducible refine runCmd_keeps (hb := fun _ _ _ => ?_) ?_ | with_reducible refine State.fresh_keeps ?_ (by assumption) | with_reducible apply State.fresh_keeps2 | with_reducible apply ret_keeps | with_reducible apply ite_keeps | with_reducible apply State.fresh_keeps' | split | with_reducible apply mk1_keeps | with_reducible apply mk2_keeps)
theorem execLinkEnable_next {a0 a1 a2} (h : Keeps kb s0 s) : ∃ t, execLinkEnable a0 a1 a2 s = .next t ∧ Keeps kb s0 t := by
  refine ⟨_, rfl, ?_⟩
  repeat' (first | with_reducible assumption | (extract_lets +onlyGivenNames x; refine @cut kb s0 x _ ?_ (fun hx => ?_); unfold x; clear x; rotate_left; clear_value x; rotate_right) | (extract_lets +onlyGivenNames x; clear_value x) | with_reducible refine awake_keeps ?_ ?_ | with_reducible apply linkCtl_keeps | with_reducible apply ite_keeps | split)
theorem execRetrain_next {a0 a1 a2} (h : Keeps kb s0 s) : ∃ t, execRetrain a0 a1 a2 s = .next t ∧ Keeps kb s0 t := by
  refine ⟨_, rfl, ?_⟩
  repeat' (first | with_reducible assumption | (extract_lets +onlyGivenNames x; refine @cut kb s0 x _ ?_ (fun hx => ?_); unfold x; clear x; rotate_left; clear_value x; rotate_right) | (extract_lets +onlyGivenNames x; clear_value x) | with_reducible refine awake_keeps ?_ ?_ | with_reducible apply linkCtl_keeps | with_reducible apply ite_keeps | split)
theorem laneCell_keeps {a0 a1} (h : Keeps kb s0 s) : Keeps kb s0 (laneCell a0 a1 s) := by
  unfold laneCell
  repeat' (first | with_reducible assumption | (extract_lets +onlyGivenNames x; refine @cut kb s0 x _ ?_ (fun hx => ?_); unfold x; clear x; rotate_left; clear_value x; rotate_right) | (extract_lets +onlyGivenNames x; clear_value x) | with_reducible refine State.each_keeps ?_ (fun _ _ _ => ?_) | with_reducible apply State.onUma_keeps | with_reducible apply ite_keeps | split)
theorem execCellSend_next {a0 a1} (h : Keeps kb s0 s) : ∃ t, execCellSend a0 a1 s = .next t ∧ Keeps kb s0 t := by
  refine ⟨_, rfl, ?_⟩
  repeat' (first | with_reducible assumption | (extract_lets +onlyGivenNames x; refine @cut kb s0 x _ ?_ (fun hx => ?_); unfold x; clear x; rotate_left; clear_value x; rotate_right) | (extract_lets +onlyGivenNames x; refine @cut1 kb _ s0 x _ ?_ (fun hx => ?_); unfold x; clear x; rotate_left; clear_value x; rotate_right) | (extract_lets +onlyGivenNames x; refine @cut2 kb _ s0 x _ ?_ (fun hx => ?_); unfold x; clear x; rotate_left; clear_value x; rotate_right) | (extract_lets +onlyGivenNames x; refine @cut3 kb _ _ s0 x _ ?_ (fun hx => ?_); unfold x; clear x; rotate_left; clear_value x; rotate_right) | (extract_lets +onlyGivenNames x; clear_value x) | with_reducible refine awake_keeps ?_ ?_ | with_reducible refine State.nextCell_keeps ?_ (by assumption) | with_reducible apply State.nextCell_keeps2 | with_reducible apply State.cntw_keeps | with_reducible apply linkTry_keeps | with_reducible apply laneCell_keeps | with_reducible apply State.onUma_keeps | with_reducible apply ite_keeps | with_reducible apply State.nextCell_keeps' | split | with_reducible apply mk1_keeps | with_reducible apply mk2_keeps)
theorem execMemberTimeout_next {a0} (h : Keeps kb s0 s) : ∃ t, execMemberTimeout a0 s = .next t ∧ Keeps kb s0 t := by
  refine ⟨_, rfl, ?_⟩
  repeat' (first | with_reducible assumption | (extract_lets +onlyGivenNames x; refine @cut kb s0 x _ ?_ (fun hx => ?_); unfold x; clear x; rotate_left; clear_value x; rotate_right) | (extract_lets +onlyGivenNames x; clear_value x) | with_reducible refine awake_keeps ?_ ?_ | with_reducible apply State.raise_keeps | with_reducible apply State.wr_keeps | with_reducible apply ite_keeps | split)

end Sys2Proof.Machine
end

