-- ==== Sys2Proof/Laws/KeepsFaults.lean ====
section
/-!
SUPPORT. Every operation of Machine/Faults.lean keeps what `Keeps` says.
-/
namespace Sys2Proof.Machine
set_option linter.all false
variable {kb : Prop} {s0 s : State}

theorem faultPin_keeps  (h : Keeps kb s0 s) : Keeps kb s0 (faultPin s) := by
  unfold faultPin
  repeat' (first | with_reducible assumption | (extract_lets +onlyGivenNames x; refine @cut kb s0 x _ ?_ (fun hx => ?_); unfold x; clear x; rotate_left; clear_value x; rotate_right) | (extract_lets +onlyGivenNames x; clear_value x) | with_reducible apply State.wb_keeps | with_reducible apply ite_keeps | split)
theorem regFaultAck_keeps {a0 a1} (h : Keeps kb s0 s) : Keeps kb s0 (regFaultAck a0 a1 s) := by
  unfold regFaultAck
  repeat' (first | with_reducible assumption | (extract_lets +onlyGivenNames x; refine @cut kb s0 x _ ?_ (fun hx => ?_); unfold x; clear x; rotate_left; clear_value x; rotate_right) | (extract_lets +onlyGivenNames x; clear_value x) | with_reducible apply State.writeRW_keeps | with_reducible apply faultPin_keeps | with_reducible apply State.wb_keeps | with_reducible apply ite_keeps | split)
theorem regKick_keeps {a0 a1} (h : Keeps kb s0 s) : Keeps kb s0 (regKick a0 a1 s) := by
  unfold regKick
  repeat' (first | with_reducible assumption | (extract_lets +onlyGivenNames x; refine @cut kb s0 x _ ?_ (fun hx => ?_); unfold x; clear x; rotate_left; clear_value x; rotate_right) | (extract_lets +onlyGivenNames x; clear_value x) | with_reducible apply State.writeRW_keeps | with_reducible apply State.onFlt_keeps | with_reducible apply ite_keeps | split)
theorem mgmtForget_keeps  (h : Keeps kb s0 s) : Keeps kb s0 (mgmtForget s) := by
  unfold mgmtForget
  repeat' (first | with_reducible assumption | (extract_lets +onlyGivenNames x; refine @cut kb s0 x _ ?_ (fun hx => ?_); unfold x; clear x; rotate_left; clear_value x; rotate_right) | (extract_lets +onlyGivenNames x; clear_value x) | with_reducible apply State.onUma_keeps | with_reducible apply State.onCmd_keeps | with_reducible apply ite_keeps | split)
theorem mgmtRestart_keeps {a0} (h : Keeps kb s0 s) : Keeps kb s0 (mgmtRestart a0 s) := by
  unfold mgmtRestart
  repeat' (first | with_reducible assumption | (extract_lets +onlyGivenNames x; refine @cut kb s0 x _ ?_ (fun hx => ?_); unfold x; clear x; rotate_left; clear_value x; rotate_right) | (extract_lets +onlyGivenNames x; clear_value x) | with_reducible apply State.err_keeps | with_reducible apply State.wb_keeps | with_reducible apply State.cnt_keeps | with_reducible apply State.wr_keeps | with_reducible apply State.onFlt_keeps | with_reducible apply mgmtForget_keeps | with_reducible apply icStopAll_keeps | with_reducible apply State.raise_keeps | with_reducible apply ite_keeps | split)
theorem regMgmtRestart_keeps {a0 a1} (h : Keeps kb s0 s) : Keeps kb s0 (regMgmtRestart a0 a1 s) := by
  unfold regMgmtRestart
  repeat' (first | with_reducible assumption | (extract_lets +onlyGivenNames x; refine @cut kb s0 x _ ?_ (fun hx => ?_); unfold x; clear x; rotate_left; clear_value x; rotate_right) | (extract_lets +onlyGivenNames x; clear_value x) | with_reducible apply mgmtRestart_keeps | with_reducible apply State.onFlt_keeps | with_reducible apply State.wb_keeps | with_reducible apply ite_keeps | split)
theorem tipIn_keeps {a0 a1} (h : Keeps kb s0 s) : Keeps kb s0 (tipIn a0 a1 s) := by
  unfold tipIn
  repeat' (first | with_reducible assumption | (extract_lets +onlyGivenNames x; refine @cut kb s0 x _ ?_ (fun hx => ?_); unfold x; clear x; rotate_left; clear_value x; rotate_right) | (extract_lets +onlyGivenNames x; clear_value x) | with_reducible apply State.err_keeps | with_reducible apply State.onFlt_keeps | with_reducible apply ite_keeps | split)
theorem guardSet_keeps {a0 a1} (h : Keeps kb s0 s) : Keeps kb s0 (guardSet a0 a1 s) := by
  unfold guardSet
  repeat' (first | with_reducible assumption | (extract_lets +onlyGivenNames x; refine @cut kb s0 x _ ?_ (fun hx => ?_); unfold x; clear x; rotate_left; clear_value x; rotate_right) | (extract_lets +onlyGivenNames x; clear_value x) | with_reducible apply State.wr_keeps | with_reducible apply State.wb_keeps | with_reducible apply ite_keeps | split)
theorem sigFltSet_keeps {a0 a1} (h : Keeps kb s0 s) : Keeps kb s0 (sigFltSet a0 a1 s) := by
  unfold sigFltSet
  repeat' (first | with_reducible assumption | (extract_lets +onlyGivenNames x; refine @cut kb s0 x _ ?_ (fun hx => ?_); unfold x; clear x; rotate_left; clear_value x; rotate_right) | (extract_lets +onlyGivenNames x; clear_value x) | with_reducible apply State.wr_keeps | with_reducible apply ite_keeps | split)
theorem dwellEnd_keeps  (h : Keeps kb s0 s) : Keeps kb s0 (dwellEnd s) := by
  unfold dwellEnd
  repeat' (first | with_reducible assumption | (extract_lets +onlyGivenNames x; refine @cut kb s0 x _ ?_ (fun hx => ?_); unfold x; clear x; rotate_left; clear_value x; rotate_right) | (extract_lets +onlyGivenNames x; clear_value x) | with_reducible apply guardSet_keeps | with_reducible apply sigFltSet_keeps | with_reducible apply ite_keeps | split)
theorem condemn_keeps {a0} (h : Keeps kb s0 s) : Keeps kb s0 (condemn a0 s) := by
  unfold condemn
  repeat' (first | with_reducible assumption | (extract_lets +onlyGivenNames x; refine @cut kb s0 x _ ?_ (fun hx => ?_); unfold x; clear x; rotate_left; clear_value x; rotate_right) | (extract_lets +onlyGivenNames x; clear_value x) | with_reducible apply tipIn_keeps | with_reducible apply State.onFlt_keeps | with_reducible apply guardSet_keeps | with_reducible apply dwellEnd_keeps | with_reducible apply ite_keeps | split)
theorem residueErr_keeps {a1} (h : Keeps kb s0 s) : Keeps kb s0 (residueErr s a1) := by
  unfold residueErr
  repeat' (first | with_reducible assumption | (extract_lets +onlyGivenNames x; refine @cut kb s0 x _ ?_ (fun hx => ?_); unfold x; clear x; rotate_left; clear_value x; rotate_right) | (extract_lets +onlyGivenNames x; refine @cut1 kb _ s0 x _ ?_ (fun hx => ?_); unfold x; clear x; rotate_left; clear_value x; rotate_right) | (extract_lets +onlyGivenNames x; refine @cut2 kb _ s0 x _ ?_ (fun hx => ?_); unfold x; clear x; rotate_left; clear_value x; rotate_right) | (extract_lets +onlyGivenNames x; clear_value x) | with_reducible apply State.raise_keeps | with_reducible apply State.cntr_keeps | with_reducible apply State.ww_keeps | with_reducible apply State.err_keeps | with_reducible refine State.fresh_keeps ?_ (by assumption) | with_reducible apply State.fresh_keeps2 | with_reducible apply condemn_keeps | with_reducible apply ite_keeps | with_reducible apply State.fresh_keeps' | split | with_reducible apply mk1_keeps | with_reducible apply mk2_keeps)
theorem guardOut_keeps {a0} (h : Keeps kb s0 s) : Keeps kb s0 (guardOut a0 s) := by
  unfold guardOut
  repeat' (first | with_reducible assumption | (extract_lets +onlyGivenNames x; refine @cut kb s0 x _ ?_ (fun hx => ?_); unfold x; clear x; rotate_left; clear_value x; rotate_right) | (extract_lets +onlyGivenNames x; clear_value x) | with_reducible apply State.err_keeps | with_reducible apply guardSet_keeps | with_reducible apply dwellEnd_keeps | with_reducible apply ite_keeps | split)
theorem patrolMism_keeps {a1} (h : Keeps kb s0 s) : Keeps kb s0 (patrolMism s a1) := by
  unfold patrolMism
  repeat' (first | with_reducible assumption | (extract_lets +onlyGivenNames x; refine @cut kb s0 x _ ?_ (fun hx => ?_); unfold x; clear x; rotate_left; clear_value x; rotate_right) | (extract_lets +onlyGivenNames x; clear_value x) | with_reducible apply State.raise_keeps | with_reducible apply State.cntr_keeps | with_reducible apply State.err_keeps | with_reducible apply guardOut_keeps | with_reducible apply condemn_keeps | with_reducible apply ite_keeps | split)
theorem sampleFaults_keeps {a0} (h : Keeps kb s0 s) : Keeps kb s0 (sampleFaults a0 s) := by
  unfold sampleFaults
  repeat' (first | with_reducible assumption | (extract_lets +onlyGivenNames x; refine @cut kb s0 x _ ?_ (fun hx => ?_); unfold x; clear x; rotate_left; clear_value x; rotate_right) | (extract_lets +onlyGivenNames x; clear_value x) | with_reducible apply State.onFlt_keeps | with_reducible refine State.each_keeps ?_ (fun _ _ _ => ?_) | with_reducible apply residueErr_keeps | with_reducible apply patrolMism_keeps | with_reducible apply ite_keeps | split)
theorem errataTick_keeps  (h : Keeps kb s0 s) : Keeps kb s0 (errataTick s) := by
  unfold errataTick
  repeat' (first | with_reducible assumption | (extract_lets +onlyGivenNames x; refine @cut kb s0 x _ ?_ (fun hx => ?_); unfold x; clear x; rotate_left; clear_value x; rotate_right) | (extract_lets +onlyGivenNames x; clear_value x) | with_reducible apply State.raise_keeps | with_reducible apply State.onFlt_keeps | with_reducible apply ite_keeps | split)
theorem redundTick_keeps  (h : Keeps kb s0 s) : Keeps kb s0 (redundTick s) := by
  unfold redundTick
  repeat' (first | with_reducible assumption | (extract_lets +onlyGivenNames x; refine @cut kb s0 x _ ?_ (fun hx => ?_); unfold x; clear x; rotate_left; clear_value x; rotate_right) | (extract_lets +onlyGivenNames x; clear_value x) | with_reducible apply State.raise_keeps | with_reducible apply State.ww_keeps | with_reducible apply faultPin_keeps | with_reducible apply ite_keeps | split)
theorem dwellPass_keeps  (h : Keeps kb s0 s) : Keeps kb s0 (dwellPass s) := by
  unfold dwellPass
  repeat' (first | with_reducible assumption | (extract_lets +onlyGivenNames x; refine @cut kb s0 x _ ?_ (fun hx => ?_); unfold x; clear x; rotate_left; clear_value x; rotate_right) | (extract_lets +onlyGivenNames x; clear_value x) | with_reducible apply dwellEnd_keeps | with_reducible apply State.cntr_keeps | with_reducible apply State.cnt_keeps | with_reducible apply ite_keeps | split)
theorem patrolTick_keeps  (h : Keeps kb s0 s) : Keeps kb s0 (patrolTick s) := by
  unfold patrolTick
  repeat' (first | with_reducible assumption | (extract_lets +onlyGivenNames x; refine @cut kb s0 x _ ?_ (fun hx => ?_); unfold x; clear x; rotate_left; clear_value x; rotate_right) | (extract_lets +onlyGivenNames x; clear_value x) | with_reducible apply dwellPass_keeps | with_reducible apply dwellEnd_keeps | with_reducible apply State.onFlt_keeps | with_reducible apply guardSet_keeps | with_reducible apply sigFltSet_keeps | with_reducible apply ite_keeps | split)
theorem logAppend_keeps {a0} (h : Keeps kb s0 s) : Keeps kb s0 (logAppend a0 s) := by
  unfold logAppend
  repeat' (first | with_reducible assumption | (extract_lets +onlyGivenNames x; refine @cut kb s0 x _ ?_ (fun hx => ?_); unfold x; clear x; rotate_left; clear_value x; rotate_right) | (extract_lets +onlyGivenNames x; clear_value x) | with_reducible refine State.onFlash_keeps (fun _ => ⟨rfl, rfl, Nat.le_refl _⟩) ?_ | with_reducible apply flashWrote_keeps | with_reducible apply ite_keeps | split)
theorem handOver_keeps  (h : Keeps kb s0 s) : Keeps kb s0 (handOver s) := by
  unfold handOver
  repeat' (first | with_reducible assumption | (extract_lets +onlyGivenNames x; refine @cut kb s0 x _ ?_ (fun hx => ?_); unfold x; clear x; rotate_left; clear_value x; rotate_right) | (extract_lets +onlyGivenNames x; clear_value x) | with_reducible apply State.onFlt_keeps | with_reducible apply State.wr64_keeps | with_reducible apply sigFltSet_keeps | with_reducible apply guardSet_keeps | with_reducible apply State.err_keeps | with_reducible apply State.raise_keeps | with_reducible apply guardOut_keeps | with_reducible apply ite_keeps | split)
theorem execGuardLoadEnd_next {a0} (h : Keeps kb s0 s) : ∃ t, execGuardLoadEnd a0 s = .next t ∧ Keeps kb s0 t := by
  refine ⟨_, rfl, ?_⟩
  repeat' (first | with_reducible assumption | (extract_lets +onlyGivenNames x; refine @cut kb s0 x _ ?_ (fun hx => ?_); unfold x; clear x; rotate_left; clear_value x; rotate_right) | (extract_lets +onlyGivenNames x; clear_value x) | with_reducible refine awake_keeps ?_ ?_ | with_reducible apply State.onFlt_keeps | with_reducible apply tipIn_keeps | with_reducible apply ite_keeps | split)
theorem execPatrolDwellEnd_next  (h : Keeps kb s0 s) : ∃ t, execPatrolDwellEnd s = .next t ∧ Keeps kb s0 t := by
  refine ⟨_, rfl, ?_⟩
  repeat' (first | with_reducible assumption | (extract_lets +onlyGivenNames x; refine @cut kb s0 x _ ?_ (fun hx => ?_); unfold x; clear x; rotate_left; clear_value x; rotate_right) | (extract_lets +onlyGivenNames x; clear_value x) | with_reducible refine awake_keeps ?_ ?_ | with_reducible apply dwellPass_keeps | with_reducible apply ite_keeps | split)
theorem execBistEnd_next {a0 a1} (h : Keeps kb s0 s) : ∃ t, execBistEnd a0 a1 s = .next t ∧ Keeps kb s0 t := by
  refine ⟨_, rfl, ?_⟩
  repeat' (first | with_reducible assumption | (extract_lets +onlyGivenNames x; refine @cut kb s0 x _ ?_ (fun hx => ?_); unfold x; clear x; rotate_left; clear_value x; rotate_right) | (extract_lets +onlyGivenNames x; clear_value x) | with_reducible refine awake_keeps ?_ ?_ | with_reducible apply State.raise_keeps | with_reducible apply sigFltSet_keeps | with_reducible apply State.err_keeps | with_reducible apply ite_keeps | split)
theorem memUncorr_keeps {a0} (h : Keeps kb s0 s) : Keeps kb s0 (memUncorr a0 s) := by
  unfold memUncorr
  repeat' (first | with_reducible assumption | (extract_lets +onlyGivenNames x; refine @cut kb s0 x _ ?_ (fun hx => ?_); unfold x; clear x; rotate_left; clear_value x; rotate_right) | (extract_lets +onlyGivenNames x; clear_value x) | with_reducible apply State.cntr_keeps | with_reducible apply ite_keeps | split)
theorem memLost_keeps {a0 a1 a2 a3} (h : Keeps kb s0 s) : Keeps kb s0 (memLost a0 a1 a2 a3 s) := by
  unfold memLost
  repeat' (first | with_reducible assumption | (extract_lets +onlyGivenNames x; refine @cut kb s0 x _ ?_ (fun hx => ?_); unfold x; clear x; rotate_left; clear_value x; rotate_right) | (extract_lets +onlyGivenNames x; clear_value x) | with_reducible apply State.err_keeps | with_reducible apply State.cntr_keeps | with_reducible apply ite_keeps | split)
theorem memRebuilt_keeps {a0 a1 a2 a3} (h : Keeps kb s0 s) : Keeps kb s0 (memRebuilt a0 a1 a2 a3 s) := by
  unfold memRebuilt
  repeat' (first | with_reducible assumption | (extract_lets +onlyGivenNames x; refine @cut kb s0 x _ ?_ (fun hx => ?_); unfold x; clear x; rotate_left; clear_value x; rotate_right) | (extract_lets +onlyGivenNames x; clear_value x) | with_reducible apply State.err_keeps | with_reducible apply ite_keeps | split)
theorem sramFault_keeps {a0 a1 a2} (h : Keeps kb s0 s) : Keeps kb s0 (sramFault a0 a1 a2 s) := by
  unfold sramFault
  repeat' (first | with_reducible assumption | (extract_lets +onlyGivenNames x; refine @cut kb s0 x _ ?_ (fun hx => ?_); unfold x; clear x; rotate_left; clear_value x; rotate_right) | (extract_lets +onlyGivenNames x; clear_value x) | with_reducible apply State.cntr_keeps | with_reducible apply memUncorr_keeps | with_reducible apply State.err_keeps | with_reducible apply State.raise_keeps | with_reducible apply memLost_keeps | with_reducible apply State.onFlt_keeps | with_reducible apply memRebuilt_keeps | with_reducible apply State.onRx_keeps | with_reducible apply State.onXp_keeps | with_reducible apply editSync_keeps | with_reducible apply editDrops_keeps | with_reducible apply State.onScn_keeps | with_reducible apply State.onNet_keeps | with_reducible apply txSet_keeps | with_reducible apply txCnt_keeps | with_reducible apply hostEnd_keeps | with_reducible apply mgmtRestart_keeps | with_reducible apply ite_keeps | split)
theorem execSramUncorrectable_next {a0 a1 a2} (h : Keeps kb s0 s) : ∃ t, execSramUncorrectable a0 a1 a2 s = .next t ∧ Keeps kb s0 t := by
  refine ⟨_, rfl, ?_⟩
  repeat' (first | with_reducible assumption | (extract_lets +onlyGivenNames x; refine @cut kb s0 x _ ?_ (fun hx => ?_); unfold x; clear x; rotate_left; clear_value x; rotate_right) | (extract_lets +onlyGivenNames x; clear_value x) | with_reducible refine awake_keeps ?_ ?_ | with_reducible apply sramFault_keeps | with_reducible apply ite_keeps | split)
theorem memCorr_keeps {a0 a1} (h : Keeps kb s0 s) : Keeps kb s0 (memCorr a0 a1 s) := by
  unfold memCorr
  repeat' (first | with_reducible assumption | (extract_lets +onlyGivenNames x; refine @cut kb s0 x _ ?_ (fun hx => ?_); unfold x; clear x; rotate_left; clear_value x; rotate_right) | (extract_lets +onlyGivenNames x; clear_value x) | with_reducible apply State.cntr_keeps | with_reducible apply ite_keeps | split)
theorem hardWord_keeps {a1} (h : Keeps kb s0 s) : Keeps kb s0 (hardWord s a1) := by
  unfold hardWord
  repeat' (first | with_reducible assumption | (extract_lets +onlyGivenNames x; refine @cut kb s0 x _ ?_ (fun hx => ?_); unfold x; clear x; rotate_left; clear_value x; rotate_right) | (extract_lets +onlyGivenNames x; clear_value x) | with_reducible apply State.cnt_keeps | with_reducible apply State.err_keeps | with_reducible apply State.onFlt_keeps | with_reducible apply guardOut_keeps | with_reducible apply condemn_keeps | with_reducible apply ite_keeps | split)
theorem execScrubPass_next {a0} (h : Keeps kb s0 s) : ∃ t, execScrubPass a0 s = .next t ∧ Keeps kb s0 t := by
  refine ⟨_, rfl, ?_⟩
  repeat' (first | with_reducible assumption | (extract_lets +onlyGivenNames x; refine @cut kb s0 x _ ?_ (fun hx => ?_); unfold x; clear x; rotate_left; clear_value x; rotate_right) | (extract_lets +onlyGivenNames x; clear_value x) | with_reducible refine awake_keeps ?_ ?_ | with_reducible apply State.cntw_keeps | with_reducible refine State.each_keeps ?_ (fun _ _ _ => ?_) | with_reducible apply memCorr_keeps | with_reducible apply State.cntr_keeps | with_reducible apply hardWord_keeps | with_reducible apply State.raise_keeps | with_reducible apply State.wb_keeps | with_reducible apply ite_keeps | split)
theorem execErrataFlush_next  (h : Keeps kb s0 s) : ∃ t, execErrataFlush s = .next t ∧ Keeps kb s0 t := by
  refine ⟨_, rfl, ?_⟩
  repeat' (first | with_reducible assumption | (extract_lets +onlyGivenNames x; refine @cut kb s0 x _ ?_ (fun hx => ?_); unfold x; clear x; rotate_left; clear_value x; rotate_right) | (extract_lets +onlyGivenNames x; clear_value x) | with_reducible refine awake_keeps ?_ ?_ | with_reducible apply State.onFlt_keeps | with_reducible apply logAppend_keeps | with_reducible apply State.ww_keeps | with_reducible apply ite_keeps | split)
theorem execCoreCycleMonitor_next {a0} (h : Keeps kb s0 s) : ∃ t, execCoreCycleMonitor a0 s = .next t ∧ Keeps kb s0 t := by
  refine ⟨_, rfl, ?_⟩
  repeat' (first | with_reducible assumption | (extract_lets +onlyGivenNames x; refine @cut kb s0 x _ ?_ (fun hx => ?_); unfold x; clear x; rotate_left; clear_value x; rotate_right) | (extract_lets +onlyGivenNames x; clear_value x) | with_reducible apply State.onFlt_keeps | with_reducible apply ite_keeps | split)
theorem lwRecover_keeps  (h : Keeps kb s0 s) : Keeps kb s0 (lwRecover s) := by
  unfold lwRecover
  repeat' (first | with_reducible assumption | (extract_lets +onlyGivenNames x; refine @cut kb s0 x _ ?_ (fun hx => ?_); unfold x; clear x; rotate_left; clear_value x; rotate_right) | (extract_lets +onlyGivenNames x; clear_value x) | with_reducible apply State.wr_keeps | with_reducible apply logAppend_keeps | with_reducible refine State.onFlash_keeps (fun _ => ⟨rfl, rfl, Nat.le_refl _⟩) ?_ | with_reducible apply State.err_keeps | with_reducible apply State.onFlt_keeps | with_reducible apply ite_keeps | split)
theorem flashBits_keeps  (h : Keeps kb s0 s) : Keeps kb s0 (flashBits s) := by
  unfold flashBits
  repeat' (first | with_reducible assumption | (extract_lets +onlyGivenNames x; refine @cut kb s0 x _ ?_ (fun hx => ?_); unfold x; clear x; rotate_left; clear_value x; rotate_right) | (extract_lets +onlyGivenNames x; clear_value x) | with_reducible apply State.wb_keeps | with_reducible apply ite_keeps | split)
theorem flashHalt_keeps  (h : Keeps kb s0 s) : Keeps kb s0 (flashHalt s) := by
  unfold flashHalt
  repeat' (first | with_reducible assumption | (extract_lets +onlyGivenNames x; refine @cut kb s0 x _ ?_ (fun hx => ?_); unfold x; clear x; rotate_left; clear_value x; rotate_right) | (extract_lets +onlyGivenNames x; clear_value x) | with_reducible apply flashBits_keeps | with_reducible apply State.onLs_keeps | with_reducible apply ite_keeps | split)
theorem execPfailAssert_next  (h : Keeps kb s0 s) : ∃ t, execPfailAssert s = .next t ∧ Keeps kb s0 t := by
  refine ⟨_, rfl, ?_⟩
  repeat' (first | with_reducible assumption | (extract_lets +onlyGivenNames x; refine @cut kb s0 x _ ?_ (fun hx => ?_); unfold x; clear x; rotate_left; clear_value x; rotate_right) | (extract_lets +onlyGivenNames x; clear_value x) | with_reducible apply State.onFlt_keeps | with_reducible apply flashHalt_keeps | with_reducible apply State.wb_keeps | with_reducible apply ite_keeps | split)
theorem execLastwordsDone_next  (h : Keeps kb s0 s) : ∃ t, execLastwordsDone s = .next t ∧ Keeps kb s0 t := by
  refine ⟨_, rfl, ?_⟩
  repeat' (first | with_reducible assumption | (extract_lets +onlyGivenNames x; refine @cut kb s0 x _ ?_ (fun hx => ?_); unfold x; clear x; rotate_left; clear_value x; rotate_right) | (extract_lets +onlyGivenNames x; clear_value x) | with_reducible refine State.onFlash_keeps (fun _ => ⟨rfl, rfl, Nat.le_refl _⟩) ?_ | with_reducible apply State.onFlt_keeps | with_reducible apply State.wr_keeps | with_reducible apply State.wb_keeps | with_reducible apply ite_keeps | split)
theorem flashGoOn_keeps  (h : Keeps kb s0 s) : Keeps kb s0 (flashGoOn s) := by
  unfold flashGoOn
  repeat' (first | with_reducible assumption | (extract_lets +onlyGivenNames x; refine @cut kb s0 x _ ?_ (fun hx => ?_); unfold x; clear x; rotate_left; clear_value x; rotate_right) | (extract_lets +onlyGivenNames x; clear_value x) | with_reducible apply flashBits_keeps | with_reducible apply State.onLs_keeps | with_reducible apply ite_keeps | split)
theorem execPfailGlitch_next {a0} (h : Keeps kb s0 s) : ∃ t, execPfailGlitch a0 s = .next t ∧ Keeps kb s0 t := by
  refine ⟨_, rfl, ?_⟩
  repeat' (first | with_reducible assumption | (extract_lets +onlyGivenNames x; refine @cut kb s0 x _ ?_ (fun hx => ?_); unfold x; clear x; rotate_left; clear_value x; rotate_right) | (extract_lets +onlyGivenNames x; clear_value x) | with_reducible apply State.wb_keeps | with_reducible apply State.err_keeps | with_reducible apply State.raise_keeps | with_reducible apply flashGoOn_keeps | with_reducible refine State.onFlash_keeps (fun _ => ⟨rfl, rfl, Nat.le_refl _⟩) ?_ | with_reducible apply State.wr_keeps | with_reducible apply State.onFlt_keeps | with_reducible apply ite_keeps | split)
theorem execWatchdogFire_next  (h : Keeps kb s0 s) : ∃ t, execWatchdogFire s = .next t ∧ Keeps kb s0 t := by
  refine ⟨_, rfl, ?_⟩
  repeat' (first | with_reducible assumption | (extract_lets +onlyGivenNames x; refine @cut kb s0 x _ ?_ (fun hx => ?_); unfold x; clear x; rotate_left; clear_value x; rotate_right) | (extract_lets +onlyGivenNames x; clear_value x) | with_reducible refine awake_keeps ?_ ?_ | with_reducible apply mgmtRestart_keeps | with_reducible apply ite_keeps | split)
theorem mgmtBegin_keeps  (h : Keeps kb s0 s) : Keeps kb s0 (mgmtBegin s) := by
  unfold mgmtBegin
  repeat' (first | with_reducible assumption | (extract_lets +onlyGivenNames x; refine @cut kb s0 x _ ?_ (fun hx => ?_); unfold x; clear x; rotate_left; clear_value x; rotate_right) | (extract_lets +onlyGivenNames x; clear_value x) | with_reducible apply State.onFlt_keeps | with_reducible refine State.each_keeps ?_ (fun _ _ _ => ?_) | with_reducible apply State.wr64_keeps | with_reducible apply State.onNet_keeps | with_reducible apply State.onRx_keeps | with_reducible apply ite_keeps | split)
theorem execMgmtRestartDone_next  (h : Keeps kb s0 s) : ∃ t, execMgmtRestartDone s = .next t ∧ Keeps kb s0 t := by
  refine ⟨_, rfl, ?_⟩
  repeat' (first | with_reducible assumption | (extract_lets +onlyGivenNames x; refine @cut kb s0 x _ ?_ (fun hx => ?_); unfold x; clear x; rotate_left; clear_value x; rotate_right) | (extract_lets +onlyGivenNames x; clear_value x) | with_reducible refine awake_keeps ?_ ?_ | with_reducible apply mgmtBegin_keeps | with_reducible apply icBegin_keeps | with_reducible apply State.onFlt_keeps | with_reducible apply State.wb_keeps | with_reducible apply ite_keeps | split)
theorem execMgmtException_next {a0} (h : Keeps kb s0 s) : ∃ t, execMgmtException a0 s = .next t ∧ Keeps kb s0 t := by
  refine ⟨_, rfl, ?_⟩
  repeat' (first | with_reducible assumption | (extract_lets +onlyGivenNames x; refine @cut kb s0 x _ ?_ (fun hx => ?_); unfold x; clear x; rotate_left; clear_value x; rotate_right) | (extract_lets +onlyGivenNames x; clear_value x) | with_reducible refine awake_keeps ?_ ?_ | with_reducible apply mgmtRestart_keeps | with_reducible apply ite_keeps | split)
theorem regErrRec0Read_keeps {a0} (h : Keeps kb s0 s) : Keeps kb s0 (regErrRec0Read a0 s) := by
  unfold regErrRec0Read
  repeat' (first | with_reducible assumption | (extract_lets +onlyGivenNames x; refine @cut kb s0 x _ ?_ (fun hx => ?_); unfold x; clear x; rotate_left; clear_value x; rotate_right) | (extract_lets +onlyGivenNames x; clear_value x) | with_reducible refine State.each_keeps ?_ (fun _ _ _ => ?_) | with_reducible apply State.pw_keeps | with_reducible apply ite_keeps | split)
theorem execFaultStatus_next {a0} (h : Keeps kb s0 s) : ∃ t, execFaultStatus a0 s = .next t ∧ Keeps kb s0 t := by
  refine ⟨_, rfl, ?_⟩
  repeat' (first | with_reducible assumption | (extract_lets +onlyGivenNames x; refine @cut kb s0 x _ ?_ (fun hx => ?_); unfold x; clear x; rotate_left; clear_value x; rotate_right) | (extract_lets +onlyGivenNames x; clear_value x) | with_reducible refine runCmd_keeps (hb := fun _ _ _ => ?_) ?_ | with_reducible apply ret_keeps | with_reducible apply ite_keeps | split)
theorem execErrataRead_next {a0 a1 a2} (h : Keeps kb s0 s) : ∃ t, execErrataRead a0 a1 a2 s = .next t ∧ Keeps kb s0 t := by
  refine ⟨_, rfl, ?_⟩
  repeat' (first | with_reducible assumption | (extract_lets +onlyGivenNames x; refine @cut kb s0 x _ ?_ (fun hx => ?_); unfold x; clear x; rotate_left; clear_value x; rotate_right) | (extract_lets +onlyGivenNames x; clear_value x) | with_reducible refine runCmd_keeps (hb := fun _ _ _ => ?_) ?_ | with_reducible apply retL_keeps | with_reducible exact no_keeps | with_reducible apply ite_keeps | split)
theorem execErrataClear_next {a0} (h : Keeps kb s0 s) : ∃ t, execErrataClear a0 s = .next t ∧ Keeps kb s0 t := by
  refine ⟨_, rfl, ?_⟩
  repeat' (first | with_reducible assumption | (extract_lets +onlyGivenNames x; refine @cut kb s0 x _ ?_ (fun hx => ?_); unfold x; clear x; rotate_left; clear_value x; rotate_right) | (extract_lets +onlyGivenNames x; clear_value x) | with_reducible refine runCmd_keeps (hb := fun _ _ _ => ?_) ?_ | with_reducible apply State.onFlt_keeps | with_reducible apply done_keeps | with_reducible apply State.ww_keeps | with_reducible exact no_keeps | with_reducible apply ite_keeps | split)
theorem execErrataLogRead_next {a0 a1 a2} (h : Keeps kb s0 s) : ∃ t, execErrataLogRead a0 a1 a2 s = .next t ∧ Keeps kb s0 t := by
  refine ⟨_, rfl, ?_⟩
  repeat' (first | with_reducible assumption | (extract_lets +onlyGivenNames x; refine @cut kb s0 x _ ?_ (fun hx => ?_); unfold x; clear x; rotate_left; clear_value x; rotate_right) | (extract_lets +onlyGivenNames x; clear_value x) | with_reducible refine runCmd_keeps (hb := fun _ _ _ => ?_) ?_ | with_reducible apply retL_keeps | with_reducible exact no_keeps | with_reducible apply ite_keeps | split)
theorem execLastwordsRead_next {a0} (h : Keeps kb s0 s) : ∃ t, execLastwordsRead a0 s = .next t ∧ Keeps kb s0 t := by
  refine ⟨_, rfl, ?_⟩
  repeat' (first | with_reducible assumption | (extract_lets +onlyGivenNames x; refine @cut kb s0 x _ ?_ (fun hx => ?_); unfold x; clear x; rotate_left; clear_value x; rotate_right) | (extract_lets +onlyGivenNames x; clear_value x) | with_reducible refine runCmd_keeps (hb := fun _ _ _ => ?_) ?_ | with_reducible apply ret_keeps | with_reducible apply ite_keeps | split)
theorem execPatrolConfig_next {a0 a1} (h : Keeps kb s0 s) : ∃ t, execPatrolConfig a0 a1 s = .next t ∧ Keeps kb s0 t := by
  refine ⟨_, rfl, ?_⟩
  repeat' (first | with_reducible assumption | (extract_lets +onlyGivenNames x; refine @cut kb s0 x _ ?_ (fun hx => ?_); unfold x; clear x; rotate_left; clear_value x; rotate_right) | (extract_lets +onlyGivenNames x; clear_value x) | with_reducible refine runCmd_keeps (hb := fun _ _ _ => ?_) ?_ | with_reducible apply done_keeps | with_reducible apply State.wb_keeps | with_reducible apply ite_keeps | split)
theorem execSigRelease_next {a0 a1} (h : Keeps kb s0 s) : ∃ t, execSigRelease a0 a1 s = .next t ∧ Keeps kb s0 t := by
  refine ⟨_, rfl, ?_⟩
  repeat' (first | with_reducible assumption | (extract_lets +onlyGivenNames x; refine @cut kb s0 x _ ?_ (fun hx => ?_); unfold x; clear x; rotate_left; clear_value x; rotate_right) | (extract_lets +onlyGivenNames x; clear_value x) | with_reducible refine runCmd_keeps (hb := fun _ _ _ => ?_) ?_ | with_reducible apply done_keeps | with_reducible apply State.onFlt_keeps | with_reducible apply sigFltSet_keeps | with_reducible exact no_keeps | with_reducible apply ite_keeps | split)
theorem execTipInForce_next {a0 a1} (h : Keeps kb s0 s) : ∃ t, execTipInForce a0 a1 s = .next t ∧ Keeps kb s0 t := by
  refine ⟨_, rfl, ?_⟩
  repeat' (first | with_reducible assumption | (extract_lets +onlyGivenNames x; refine @cut kb s0 x _ ?_ (fun hx => ?_); unfold x; clear x; rotate_left; clear_value x; rotate_right) | (extract_lets +onlyGivenNames x; clear_value x) | with_reducible refine runCmd_keeps (hb := fun _ _ _ => ?_) ?_ | with_reducible apply done_keeps | with_reducible apply condemn_keeps | with_reducible exact no_keeps | with_reducible apply ite_keeps | split)
theorem execFaultInject_next {a0 a1} (h : Keeps kb s0 s) : ∃ t, execFaultInject a0 a1 s = .next t ∧ Keeps kb s0 t := by
  refine ⟨_, rfl, ?_⟩
  repeat' (first | with_reducible assumption | (extract_lets +onlyGivenNames x; refine @cut kb s0 x _ ?_ (fun hx => ?_); unfold x; clear x; rotate_left; clear_value x; rotate_right) | (extract_lets +onlyGivenNames x; clear_value x) | with_reducible refine runCmd_keeps (hb := fun _ _ _ => ?_) ?_ | with_reducible apply done_keeps | with_reducible apply State.onFlt_keeps | with_reducible apply sramFault_keeps | with_reducible apply cpllLoss_keeps | with_reducible exact no_keeps | with_reducible apply ite_keeps | split)
theorem execWdtConfig_next {a0 a1} (h : Keeps kb s0 s) : ∃ t, execWdtConfig a0 a1 s = .next t ∧ Keeps kb s0 t := by
  refine ⟨_, rfl, ?_⟩
  repeat' (first | with_reducible assumption | (extract_lets +onlyGivenNames x; refine @cut kb s0 x _ ?_ (fun hx => ?_); unfold x; clear x; rotate_left; clear_value x; rotate_right) | (extract_lets +onlyGivenNames x; clear_value x) | with_reducible refine runCmd_keeps (hb := fun _ _ _ => ?_) ?_ | with_reducible apply done_keeps | with_reducible apply State.wr_keeps | with_reducible exact no_keeps | with_reducible apply ite_keeps | split)
theorem execErrRec0Read_next {a0} (h : Keeps kb s0 s) : ∃ t, execErrRec0Read a0 s = .next t ∧ Keeps kb s0 t := by
  refine ⟨_, rfl, ?_⟩
  repeat' (first | with_reducible assumption | (extract_lets +onlyGivenNames x; refine @cut kb s0 x _ ?_ (fun hx => ?_); unfold x; clear x; rotate_left; clear_value x; rotate_right) | (extract_lets +onlyGivenNames x; clear_value x) | with_reducible refine awake_keeps ?_ ?_ | with_reducible apply regErrRec0Read_keeps | with_reducible apply ite_keeps | split)
theorem execFaultAck_next {a0 a1} (h : Keeps kb s0 s) : ∃ t, execFaultAck a0 a1 s = .next t ∧ Keeps kb s0 t := by
  refine ⟨_, rfl, ?_⟩
  repeat' (first | with_reducible assumption | (extract_lets +onlyGivenNames x; refine @cut kb s0 x _ ?_ (fun hx => ?_); unfold x; clear x; rotate_left; clear_value x; rotate_right) | (extract_lets +onlyGivenNames x; clear_value x) | with_reducible refine awake_keeps ?_ ?_ | with_reducible apply regFaultAck_keeps | with_reducible apply ite_keeps | split)
theorem execKick_next {a0 a1} (h : Keeps kb s0 s) : ∃ t, execKick a0 a1 s = .next t ∧ Keeps kb s0 t := by
  refine ⟨_, rfl, ?_⟩
  repeat' (first | with_reducible assumption | (extract_lets +onlyGivenNames x; refine @cut kb s0 x _ ?_ (fun hx => ?_); unfold x; clear x; rotate_left; clear_value x; rotate_right) | (extract_lets +onlyGivenNames x; clear_value x) | with_reducible refine awake_keeps ?_ ?_ | with_reducible apply regKick_keeps | with_reducible apply ite_keeps | split)
theorem execMgmtRestart_next {a0 a1} (h : Keeps kb s0 s) : ∃ t, execMgmtRestart a0 a1 s = .next t ∧ Keeps kb s0 t := by
  refine ⟨_, rfl, ?_⟩
  repeat' (first | with_reducible assumption | (extract_lets +onlyGivenNames x; refine @cut kb s0 x _ ?_ (fun hx => ?_); unfold x; clear x; rotate_left; clear_value x; rotate_right) | (extract_lets +onlyGivenNames x; clear_value x) | with_reducible refine awake_keeps ?_ ?_ | with_reducible apply regMgmtRestart_keeps | with_reducible apply ite_keeps | split)

end Sys2Proof.Machine
end

