-- ==== Sys2Proof/Laws/KeepsFlash.lean ====
section
/-!
SUPPORT. Every operation of Machine/Flash.lean keeps what `Keeps` says.
-/
namespace Sys2Proof.Machine
set_option linter.all false
variable {kb : Prop} {s0 s : State}

theorem bootShow_keeps  (h : Keeps kb s0 s) : Keeps kb s0 (bootShow s) := by
  unfold bootShow
  repeat' (first | with_reducible assumption | (extract_lets +onlyGivenNames x; refine @cut kb s0 x _ ?_ (fun hx => ?_); unfold x; clear x; rotate_left; clear_value x; rotate_right) | (extract_lets +onlyGivenNames x; clear_value x) | with_reducible apply State.wr_keeps | with_reducible apply State.wb_keeps | with_reducible apply ite_keeps | split)
theorem otpShow_keeps  (h : Keeps kb s0 s) : Keeps kb s0 (otpShow s) := by
  unfold otpShow
  repeat' (first | with_reducible assumption | (extract_lets +onlyGivenNames x; refine @cut kb s0 x _ ?_ (fun hx => ?_); unfold x; clear x; rotate_left; clear_value x; rotate_right) | (extract_lets +onlyGivenNames x; clear_value x) | with_reducible apply State.wr_keeps | with_reducible apply ite_keeps | split)
theorem stageSet_keeps {a0} (h : Keeps kb s0 s) : Keeps kb s0 (stageSet a0 s) := by
  unfold stageSet
  repeat' (first | with_reducible assumption | (extract_lets +onlyGivenNames x; refine @cut kb s0 x _ ?_ (fun hx => ?_); unfold x; clear x; rotate_left; clear_value x; rotate_right) | (extract_lets +onlyGivenNames x; clear_value x) | with_reducible apply State.raise_keeps | with_reducible apply State.wr_keeps | with_reducible apply ite_keeps | split)
theorem versionShow_keeps  (h : Keeps kb s0 s) : Keeps kb s0 (versionShow s) := by
  unfold versionShow
  repeat' (first | with_reducible assumption | (extract_lets +onlyGivenNames x; refine @cut kb s0 x _ ?_ (fun hx => ?_); unfold x; clear x; rotate_left; clear_value x; rotate_right) | (extract_lets +onlyGivenNames x; clear_value x) | with_reducible apply State.ww_keeps | with_reducible apply ite_keeps | split)
theorem eraseAll_keeps  (h : Keeps kb s0 s) : Keeps kb s0 (eraseAll s) := by
  unfold eraseAll
  repeat' (first | with_reducible assumption | (extract_lets +onlyGivenNames x; refine @cut kb s0 x _ ?_ (fun hx => ?_); unfold x; clear x; rotate_left; clear_value x; rotate_right) | (extract_lets +onlyGivenNames x; clear_value x) | with_reducible refine State.onFlash_keeps (fun _ => ⟨rfl, rfl, Nat.le_refl _⟩) ?_ | with_reducible apply ite_keeps | split)
theorem keyShow_keeps {a1} (h : Keeps kb s0 s) : Keeps kb s0 (keyShow s a1) := by
  unfold keyShow
  repeat' (first | with_reducible assumption | (extract_lets +onlyGivenNames x; refine @cut kb s0 x _ ?_ (fun hx => ?_); unfold x; clear x; rotate_left; clear_value x; rotate_right) | (extract_lets +onlyGivenNames x; clear_value x) | with_reducible apply State.wb_keeps | with_reducible apply ite_keeps | split)
theorem flashShow_keeps  (h : Keeps kb s0 s) : Keeps kb s0 (flashShow s) := by
  unfold flashShow
  repeat' (first | with_reducible assumption | (extract_lets +onlyGivenNames x; refine @cut kb s0 x _ ?_ (fun hx => ?_); unfold x; clear x; rotate_left; clear_value x; rotate_right) | (extract_lets +onlyGivenNames x; clear_value x) | with_reducible apply versionShow_keeps | with_reducible apply otpShow_keeps | with_reducible apply bootShow_keeps | with_reducible refine State.each_keeps ?_ (fun _ _ _ => ?_) | with_reducible apply keyShow_keeps | with_reducible apply State.wr64_keeps | with_reducible apply State.wr_keeps | with_reducible apply storeFix_keeps | with_reducible apply ite_keeps | split)
theorem execFlashSuspend_next  (h : Keeps kb s0 s) : ∃ t, execFlashSuspend s = .next t ∧ Keeps kb s0 t := by
  refine ⟨_, rfl, ?_⟩
  repeat' (first | with_reducible assumption | (extract_lets +onlyGivenNames x; refine @cut kb s0 x _ ?_ (fun hx => ?_); unfold x; clear x; rotate_left; clear_value x; rotate_right) | (extract_lets +onlyGivenNames x; clear_value x) | with_reducible refine awake_keeps ?_ ?_ | with_reducible apply flashBits_keeps | with_reducible apply State.onLs_keeps | with_reducible apply ite_keeps | split)
theorem flashNext_keeps  (h : Keeps kb s0 s) : Keeps kb s0 (flashNext s) := by
  unfold flashNext
  repeat' (first | with_reducible assumption | (extract_lets +onlyGivenNames x; refine @cut kb s0 x _ ?_ (fun hx => ?_); unfold x; clear x; rotate_left; clear_value x; rotate_right) | (extract_lets +onlyGivenNames x; clear_value x) | with_reducible apply flashBits_keeps | with_reducible apply State.onLs_keeps | with_reducible apply ite_keeps | split)
theorem execFlashResume_next  (h : Keeps kb s0 s) : ∃ t, execFlashResume s = .next t ∧ Keeps kb s0 t := by
  refine ⟨_, rfl, ?_⟩
  repeat' (first | with_reducible assumption | (extract_lets +onlyGivenNames x; refine @cut kb s0 x _ ?_ (fun hx => ?_); unfold x; clear x; rotate_left; clear_value x; rotate_right) | (extract_lets +onlyGivenNames x; clear_value x) | with_reducible refine awake_keeps ?_ ?_ | with_reducible apply flashNext_keeps | with_reducible apply flashBits_keeps | with_reducible apply State.onLs_keeps | with_reducible apply ite_keeps | split)
theorem flashAdd_keeps {a0 a1 a2 a3} (h : Keeps kb s0 s) : Keeps kb s0 (flashAdd a0 a1 a2 a3 s) := by
  unfold flashAdd
  repeat' (first | with_reducible assumption | (extract_lets +onlyGivenNames x; refine @cut kb s0 x _ ?_ (fun hx => ?_); unfold x; clear x; rotate_left; clear_value x; rotate_right) | (extract_lets +onlyGivenNames x; clear_value x) | with_reducible apply flashNext_keeps | with_reducible apply State.onLs_keeps | with_reducible apply ite_keeps | split)
theorem regionFree_keeps' {a0} (h : Keeps kb s0 s) : Keeps2 kb s0 (regionFree a0 s) := by
  unfold regionFree
  repeat' (first | with_reducible assumption | (extract_lets +onlyGivenNames x; refine @cut kb s0 x _ ?_ (fun hx => ?_); unfold x; clear x; rotate_left; clear_value x; rotate_right) | (extract_lets +onlyGivenNames x; refine @cut1 kb _ s0 x _ ?_ (fun hx => ?_); unfold x; clear x; rotate_left; clear_value x; rotate_right) | (extract_lets +onlyGivenNames x; refine @cut2 kb _ s0 x _ ?_ (fun hx => ?_); unfold x; clear x; rotate_left; clear_value x; rotate_right) | (extract_lets +onlyGivenNames x; clear_value x) | with_reducible refine State.fresh_keeps ?_ (by assumption) | with_reducible apply State.fresh_keeps2 | with_reducible apply State.fresh_keeps' | split | with_reducible apply mk2_keeps)
theorem regionFree_keeps2 {a0} (h : Keeps kb s0 s) : Keeps kb s0 (regionFree a0 s).2 := regionFree_keeps' h
theorem regionFree_keeps {a0} {v0 t} (h : Keeps kb s0 s) (e : regionFree a0 s = (v0, t)) : Keeps kb s0 t := by
  have k : Keeps2 kb s0 (regionFree a0 s) := regionFree_keeps' h; rw [e] at k; exact k
theorem execFlashInfo_next {a0 a1} (h : Keeps kb s0 s) : ∃ t, execFlashInfo a0 a1 s = .next t ∧ Keeps kb s0 t := by
  refine ⟨_, rfl, ?_⟩
  repeat' (first | with_reducible assumption | (extract_lets +onlyGivenNames x; refine @cut kb s0 x _ ?_ (fun hx => ?_); unfold x; clear x; rotate_left; clear_value x; rotate_right) | (extract_lets +onlyGivenNames x; refine @cut1 kb _ s0 x _ ?_ (fun hx => ?_); unfold x; clear x; rotate_left; clear_value x; rotate_right) | (extract_lets +onlyGivenNames x; refine @cut2 kb _ s0 x _ ?_ (fun hx => ?_); unfold x; clear x; rotate_left; clear_value x; rotate_right) | (extract_lets +onlyGivenNames x; clear_value x) | with_reducible refine runCmd_keeps (hb := fun _ _ _ => ?_) ?_ | with_reducible refine regionFree_keeps ?_ (by assumption) | with_reducible apply regionFree_keeps2 | with_reducible apply ret_keeps | with_reducible apply ite_keeps | with_reducible refine foldl2_keeps (fun _ _ _ => ?_) ?_ | with_reducible apply mk2_keeps | with_reducible apply regionFree_keeps' | split | with_reducible apply mk1_keeps | with_reducible apply mk2_keeps)
theorem keyChange_keeps {a0} (h : Keeps kb s0 s) : Keeps kb s0 (keyChange a0 s) := by
  unfold keyChange
  repeat' (first | with_reducible assumption | (extract_lets +onlyGivenNames x; refine @cut kb s0 x _ ?_ (fun hx => ?_); unfold x; clear x; rotate_left; clear_value x; rotate_right) | (extract_lets +onlyGivenNames x; clear_value x) | with_reducible apply State.raise_keeps | with_reducible apply keyShow_keeps | with_reducible apply ite_keeps | split)
theorem keyRetire_keeps {a0} (h : Keeps kb s0 s) : Keeps kb s0 (keyRetire a0 s) := by
  unfold keyRetire
  repeat' (first | with_reducible assumption | (extract_lets +onlyGivenNames x; refine @cut kb s0 x _ ?_ (fun hx => ?_); unfold x; clear x; rotate_left; clear_value x; rotate_right) | (extract_lets +onlyGivenNames x; clear_value x) | with_reducible apply keyChange_keeps | with_reducible refine State.onFlash_keeps (fun _ => ⟨rfl, rfl, Nat.le_refl _⟩) ?_ | with_reducible apply ite_keeps | split)
theorem flashCount_keeps {a0} (h : Keeps kb s0 s) : Keeps kb s0 (flashCount a0 s) := by
  unfold flashCount
  repeat' (first | with_reducible assumption | (extract_lets +onlyGivenNames x; refine @cut kb s0 x _ ?_ (fun hx => ?_); unfold x; clear x; rotate_left; clear_value x; rotate_right) | (extract_lets +onlyGivenNames x; clear_value x) | with_reducible apply State.cntr_keeps | with_reducible apply flashWrote_keeps | with_reducible apply ite_keeps | split)
theorem keyPut_keeps {a0 a1} (h : Keeps kb s0 s) : Keeps kb s0 (keyPut a0 a1 s) := by
  unfold keyPut
  repeat' (first | with_reducible assumption | (extract_lets +onlyGivenNames x; refine @cut kb s0 x _ ?_ (fun hx => ?_); unfold x; clear x; rotate_left; clear_value x; rotate_right) | (extract_lets +onlyGivenNames x; clear_value x) | with_reducible refine State.onFlash_keeps (fun _ => ⟨rfl, rfl, Nat.le_refl _⟩) ?_ | with_reducible apply keyChange_keeps | with_reducible apply State.cnt_keeps | with_reducible apply ite_keeps | split)
theorem flashEffect_keeps {a0} (h : Keeps kb s0 s) : Keeps kb s0 (flashEffect a0 s) := by
  unfold flashEffect
  repeat' (first | with_reducible assumption | (extract_lets +onlyGivenNames x; refine @cut kb s0 x _ ?_ (fun hx => ?_); unfold x; clear x; rotate_left; clear_value x; rotate_right) | (extract_lets +onlyGivenNames x; clear_value x) | with_reducible refine State.onFlash_keeps (fun _ => ⟨rfl, rfl, Nat.le_refl _⟩) ?_ | with_reducible apply keyPut_keeps | with_reducible apply keyRetire_keeps | with_reducible apply bootShow_keeps | with_reducible apply State.onMd_keeps | with_reducible apply eraseAll_keeps | with_reducible apply ite_keeps | split)
theorem flashFail_keeps {a0} (h : Keeps kb s0 s) : Keeps kb s0 (flashFail a0 s) := by
  unfold flashFail
  repeat' (first | with_reducible assumption | (extract_lets +onlyGivenNames x; refine @cut kb s0 x _ ?_ (fun hx => ?_); unfold x; clear x; rotate_left; clear_value x; rotate_right) | (extract_lets +onlyGivenNames x; clear_value x) | with_reducible apply State.onCmd_keeps | with_reducible apply State.wb_keeps | with_reducible refine State.onFlash_keeps (fun _ => ⟨rfl, rfl, Nat.le_refl _⟩) ?_ | with_reducible apply ite_keeps | split)
theorem execFlashOperationDone_next {a0} (h : Keeps kb s0 s) : ∃ t, execFlashOperationDone a0 s = .next t ∧ Keeps kb s0 t := by
  refine ⟨_, rfl, ?_⟩
  repeat' (first | with_reducible assumption | (extract_lets +onlyGivenNames x; refine @cut kb s0 x _ ?_ (fun hx => ?_); unfold x; clear x; rotate_left; clear_value x; rotate_right) | (extract_lets +onlyGivenNames x; clear_value x) | with_reducible refine awake_keeps ?_ ?_ | with_reducible apply State.onLs_keeps | with_reducible apply flashCount_keeps | with_reducible apply complete_keeps | with_reducible apply flashEffect_keeps | with_reducible apply flashFail_keeps | with_reducible apply State.wb_keeps | with_reducible apply flashNext_keeps | with_reducible apply ite_keeps | split)

end Sys2Proof.Machine
end

