-- ==== Sys2Proof/Laws/KeepsModes.lean ====
section
/-!
SUPPORT. Every operation of Machine/Modes.lean keeps what `Keeps` says.
-/
namespace Sys2Proof.Machine
set_option linter.all false
variable {kb : Prop} {s0 s : State}

theorem acqExpired_keeps  (h : Keeps kb s0 s) : Keeps kb s0 (acqExpired s) := by
  unfold acqExpired
  repeat' (first | with_reducible assumption | (extract_lets +onlyGivenNames x; refine @cut kb s0 x _ ?_ (fun hx => ?_); unfold x; clear x; rotate_left; clear_value x; rotate_right) | (extract_lets +onlyGivenNames x; clear_value x) | with_reducible apply State.onMd_keeps | with_reducible apply ite_keeps | split)
theorem bootBegin_keeps  (h : Keeps kb s0 s) : Keeps kb s0 (bootBegin s) := by
  unfold bootBegin
  repeat' (first | with_reducible assumption | (extract_lets +onlyGivenNames x; refine @cut kb s0 x _ ?_ (fun hx => ?_); unfold x; clear x; rotate_left; clear_value x; rotate_right) | (extract_lets +onlyGivenNames x; clear_value x) | with_reducible apply State.cntw_keeps | with_reducible apply ite_keeps | split)
theorem bootLocks_keeps  (h : Keeps kb s0 s) : Keeps kb s0 (bootLocks s) := by
  unfold bootLocks
  repeat' (first | with_reducible assumption | (extract_lets +onlyGivenNames x; refine @cut kb s0 x _ ?_ (fun hx => ?_); unfold x; clear x; rotate_left; clear_value x; rotate_right) | (extract_lets +onlyGivenNames x; clear_value x) | with_reducible apply State.wr_keeps | with_reducible apply cpllSet_keeps | with_reducible apply State.wb_keeps | with_reducible apply ite_keeps | split)
theorem bootPick_keeps {a0 a1} (h : Keeps kb s0 s) : Keeps kb s0 (bootPick a0 a1 s) := by
  unfold bootPick
  repeat' (first | with_reducible assumption | (extract_lets +onlyGivenNames x; refine @cut kb s0 x _ ?_ (fun hx => ?_); unfold x; clear x; rotate_left; clear_value x; rotate_right) | (extract_lets +onlyGivenNames x; clear_value x) | with_reducible apply State.wb_keeps | with_reducible apply State.wr_keeps | with_reducible apply State.ww_keeps | with_reducible apply bootShow_keeps | with_reducible apply State.onMd_keeps | with_reducible apply ite_keeps | split)
theorem bootScene_keeps {a1} (h : Keeps kb s0 s) : Keeps kb s0 (bootScene s a1) := by
  unfold bootScene
  repeat' (first | with_reducible assumption | (extract_lets +onlyGivenNames x; refine @cut kb s0 x _ ?_ (fun hx => ?_); unfold x; clear x; rotate_left; clear_value x; rotate_right) | (extract_lets +onlyGivenNames x; clear_value x) | with_reducible apply State.wb_keeps | with_reducible apply State.onScn_keeps | with_reducible apply sigRaise_keeps | with_reducible apply staleSet_keeps | with_reducible apply setBank_keeps | with_reducible apply State.wr_keeps | with_reducible apply State.cntw_keeps | with_reducible apply State.wr64_keeps | with_reducible apply ite_keeps | split)
theorem bootSelect_keeps  (h : Keeps kb s0 s) : Keeps kb s0 (bootSelect s) := by
  unfold bootSelect
  repeat' (first | with_reducible assumption | (extract_lets +onlyGivenNames x; refine @cut kb s0 x _ ?_ (fun hx => ?_); unfold x; clear x; rotate_left; clear_value x; rotate_right) | (extract_lets +onlyGivenNames x; clear_value x) | with_reducible refine State.onFlash_keeps (fun _ => ⟨rfl, rfl, Nat.le_refl _⟩) ?_ | with_reducible apply bootPick_keeps | with_reducible apply State.wb_keeps | with_reducible apply ite_keeps | split)
theorem publish_keeps  (h : Keeps kb s0 s) : Keeps kb s0 (publish s) := by
  unfold publish
  repeat' (first | with_reducible assumption | (extract_lets +onlyGivenNames x; refine @cut kb s0 x _ ?_ (fun hx => ?_); unfold x; clear x; rotate_left; clear_value x; rotate_right) | (extract_lets +onlyGivenNames x; clear_value x) | with_reducible refine State.onTim_keeps (fun _ _ => rfl) ?_ | with_reducible refine State.each_keeps ?_ (fun _ _ _ => ?_) | with_reducible apply rxSet_keeps | with_reducible apply rxForget_keeps | with_reducible apply ite_keeps | split)
theorem resetDevice_keeps (h : Keeps False s0 s) : Keeps False s0 (resetDevice s) := by
  unfold resetDevice
  extract_lets +onlyGivenNames s1 s2 x
  have hx : Keeps False s0 x := ⟨h.pending, fun _ => rfl, h.free, fun k => k.elim, h.serial, h.prov, h.floor⟩
  clear_value x
  repeat' (first | with_reducible assumption | (extract_lets +onlyGivenNames x; refine @cut False s0 x _ ?_ (fun hx => ?_); unfold x; clear x; rotate_left; clear_value x; rotate_right) | with_reducible apply State.ww_keeps | with_reducible apply State.wr_keeps | with_reducible apply State.wb_keeps | with_reducible refine State.each_keeps ?_ (fun _ _ _ => ?_) | with_reducible apply ite_keeps)
theorem enterStandby_keeps  (h : Keeps False s0 s) : Keeps False s0 (enterStandby s) := by
  unfold enterStandby
  repeat' (first | with_reducible assumption | (extract_lets +onlyGivenNames x; refine @cut False s0 x _ ?_ (fun hx => ?_); unfold x; clear x; rotate_left; clear_value x; rotate_right) | (extract_lets +onlyGivenNames x; clear_value x) | with_reducible apply logAppend_keeps | with_reducible apply State.wr_keeps | with_reducible apply resetDevice_keeps | with_reducible apply State.wb_keeps | with_reducible apply State.ww_keeps | with_reducible apply State.onMd_keeps | with_reducible apply State.onNet_keeps | with_reducible apply ite_keeps | split)
theorem stepMedia_keeps  (h : Keeps kb s0 s) : Keeps kb s0 (stepMedia s) := by
  unfold stepMedia
  repeat' (first | with_reducible assumption | (extract_lets +onlyGivenNames x; refine @cut kb s0 x _ ?_ (fun hx => ?_); unfold x; clear x; rotate_left; clear_value x; rotate_right) | (extract_lets +onlyGivenNames x; clear_value x) | with_reducible apply State.onRef_keeps | with_reducible refine State.onTim_keeps (fun _ _ => rfl) ?_ | with_reducible apply aoShift_keeps | with_reducible apply State.onMd_keeps | with_reducible apply ite_keeps | split)
theorem enterMode_keeps {a0 a1} (h : Keeps False s0 s) : Keeps False s0 (enterMode a0 a1 s) := by
  unfold enterMode
  repeat' (first | with_reducible assumption | (extract_lets +onlyGivenNames x; refine @cut False s0 x _ ?_ (fun hx => ?_); unfold x; clear x; rotate_left; clear_value x; rotate_right) | (extract_lets +onlyGivenNames x; clear_value x) | with_reducible apply enterStandby_keeps | with_reducible apply State.cnt_keeps | with_reducible apply State.wr_keeps | with_reducible apply State.ww_keeps | with_reducible apply State.wr64_keeps | with_reducible apply State.raise_keeps | with_reducible apply State.onMd_keeps | with_reducible apply turnsConfig_keeps | with_reducible apply cancelArmed_keeps | with_reducible refine State.each_keeps ?_ (fun _ _ _ => ?_) | with_reducible refine State.onTim_keeps (fun k => k.elim) ?_ | with_reducible apply gclSusp_keeps | with_reducible apply stepMedia_keeps | with_reducible apply State.wb_keeps | with_reducible apply State.onFlt_keeps | with_reducible apply State.onUma_keeps | with_reducible apply ite_keeps | split)
theorem pendClear_keeps  (h : Keeps kb s0 s) : Keeps kb s0 (pendClear s) := by
  unfold pendClear
  repeat' (first | with_reducible assumption | (extract_lets +onlyGivenNames x; refine @cut kb s0 x _ ?_ (fun hx => ?_); unfold x; clear x; rotate_left; clear_value x; rotate_right) | (extract_lets +onlyGivenNames x; clear_value x) | with_reducible apply State.onMd_keeps | with_reducible apply State.wr_keeps | with_reducible apply State.wb_keeps | with_reducible apply ite_keeps | split)
theorem modeAct_keeps  (h : Keeps False s0 s) : Keeps False s0 (modeAct s) := by
  unfold modeAct
  repeat' (first | with_reducible assumption | (extract_lets +onlyGivenNames x; refine @cut False s0 x _ ?_ (fun hx => ?_); unfold x; clear x; rotate_left; clear_value x; rotate_right) | (extract_lets +onlyGivenNames x; clear_value x) | with_reducible apply State.onMd_keeps | with_reducible apply enterMode_keeps | with_reducible apply State.raise_keeps | with_reducible apply State.wb_keeps | with_reducible apply State.onUma_keeps | with_reducible apply pendClear_keeps | with_reducible apply mirrorSet_keeps | with_reducible apply mirrorEnter_keeps | with_reducible apply ite_keeps | split)
theorem publishAlign_keeps  (h : Keeps kb s0 s) : Keeps kb s0 (publishAlign s) := by
  unfold publishAlign
  repeat' (first | with_reducible assumption | (extract_lets +onlyGivenNames x; refine @cut kb s0 x _ ?_ (fun hx => ?_); unfold x; clear x; rotate_left; clear_value x; rotate_right) | (extract_lets +onlyGivenNames x; clear_value x) | with_reducible apply State.onRef_keeps | with_reducible refine State.onTim_keeps (fun _ _ => rfl) ?_ | with_reducible apply ite_keeps | split)
theorem condTick_keeps  (h : Keeps kb s0 s) : Keeps kb s0 (condTick s) := by
  unfold condTick
  repeat' (first | with_reducible assumption | (extract_lets +onlyGivenNames x; refine @cut kb s0 x _ ?_ (fun hx => ?_); unfold x; clear x; rotate_left; clear_value x; rotate_right) | (extract_lets +onlyGivenNames x; clear_value x) | with_reducible apply State.wb_keeps | with_reducible apply condNote_keeps | with_reducible apply ite_keeps | split)
theorem thermReached_keeps  (h : Keeps kb s0 s) : Keeps kb s0 (thermReached s) := by
  unfold thermReached
  repeat' (first | with_reducible assumption | (extract_lets +onlyGivenNames x; refine @cut kb s0 x _ ?_ (fun hx => ?_); unfold x; clear x; rotate_left; clear_value x; rotate_right) | (extract_lets +onlyGivenNames x; clear_value x) | with_reducible apply State.onMd_keeps | with_reducible apply ite_keeps | split)
theorem prerollEnds_keeps  (h : Keeps kb s0 s) : Keeps kb s0 (prerollEnds s) := by
  unfold prerollEnds
  repeat' (first | with_reducible assumption | (extract_lets +onlyGivenNames x; refine @cut kb s0 x _ ?_ (fun hx => ?_); unfold x; clear x; rotate_left; clear_value x; rotate_right) | (extract_lets +onlyGivenNames x; clear_value x) | with_reducible apply State.onMd_keeps | with_reducible apply ite_keeps | split)
theorem modeObserve_keeps  (h : Keeps kb s0 s) : Keeps kb s0 (modeObserve s) := by
  unfold modeObserve
  repeat' (first | with_reducible assumption | (extract_lets +onlyGivenNames x; refine @cut kb s0 x _ ?_ (fun hx => ?_); unfold x; clear x; rotate_left; clear_value x; rotate_right) | (extract_lets +onlyGivenNames x; clear_value x) | with_reducible apply thermReached_keeps | with_reducible apply prerollEnds_keeps | with_reducible apply acqExpired_keeps | with_reducible apply State.onMd_keeps | with_reducible apply ite_keeps | split)
theorem sensorTick_keeps {a0} (h : Keeps kb s0 s) : Keeps kb s0 (sensorTick a0 s) := by
  unfold sensorTick
  repeat' (first | with_reducible assumption | (extract_lets +onlyGivenNames x; refine @cut kb s0 x _ ?_ (fun hx => ?_); unfold x; clear x; rotate_left; clear_value x; rotate_right) | (extract_lets +onlyGivenNames x; clear_value x) | with_reducible apply State.wr_keeps | with_reducible refine State.each_keeps ?_ (fun _ _ _ => ?_) | with_reducible apply State.wrS_keeps | with_reducible apply State.wb_keeps | with_reducible apply State.raise_keeps | with_reducible apply State.onMd_keeps | with_reducible apply ite_keeps | split)
theorem modeTick_keeps {a0} (h : Keeps False s0 s) : Keeps False s0 (modeTick a0 s) := by
  unfold modeTick
  repeat' (first | with_reducible assumption | (extract_lets +onlyGivenNames x; refine @cut False s0 x _ ?_ (fun hx => ?_); unfold x; clear x; rotate_left; clear_value x; rotate_right) | (extract_lets +onlyGivenNames x; clear_value x) | with_reducible apply modeAct_keeps | with_reducible apply publishAlign_keeps | with_reducible apply State.onMd_keeps | with_reducible apply State.ww_keeps | with_reducible apply condTick_keeps | with_reducible apply modeObserve_keeps | with_reducible apply sensorTick_keeps | with_reducible apply ite_keeps | split)
theorem restartDevice_keeps  (h : Keeps False s0 s) : Keeps False s0 (restartDevice s) := by
  unfold restartDevice
  repeat' (first | with_reducible assumption | (extract_lets +onlyGivenNames x; refine @cut False s0 x _ ?_ (fun hx => ?_); unfold x; clear x; rotate_left; clear_value x; rotate_right) | (extract_lets +onlyGivenNames x; clear_value x) | with_reducible apply bootBegin_keeps | with_reducible apply State.wb_keeps | with_reducible apply resetDevice_keeps | with_reducible apply ite_keeps | split)
theorem execWakeMatch_next {a0 a1} (h : Keeps False s0 s) : ∃ t, execWakeMatch a0 a1 s = .next t ∧ Keeps False s0 t := by
  refine ⟨_, rfl, ?_⟩
  repeat' (first | with_reducible assumption | (extract_lets +onlyGivenNames x; refine @cut False s0 x _ ?_ (fun hx => ?_); unfold x; clear x; rotate_left; clear_value x; rotate_right) | (extract_lets +onlyGivenNames x; clear_value x) | with_reducible apply bootBegin_keeps | with_reducible apply resetDevice_keeps | with_reducible apply State.wr_keeps | with_reducible apply State.wb_keeps | with_reducible apply ite_keeps | split)
theorem execAcqTimeout_next  (h : Keeps kb s0 s) : ∃ t, execAcqTimeout s = .next t ∧ Keeps kb s0 t := by
  refine ⟨_, rfl, ?_⟩
  repeat' (first | with_reducible assumption | (extract_lets +onlyGivenNames x; refine @cut kb s0 x _ ?_ (fun hx => ?_); unfold x; clear x; rotate_left; clear_value x; rotate_right) | (extract_lets +onlyGivenNames x; clear_value x) | with_reducible apply acqExpired_keeps | with_reducible apply ite_keeps | split)
theorem execPrerollEnd_next  (h : Keeps kb s0 s) : ∃ t, execPrerollEnd s = .next t ∧ Keeps kb s0 t := by
  refine ⟨_, rfl, ?_⟩
  repeat' (first | with_reducible assumption | (extract_lets +onlyGivenNames x; refine @cut kb s0 x _ ?_ (fun hx => ?_); unfold x; clear x; rotate_left; clear_value x; rotate_right) | (extract_lets +onlyGivenNames x; clear_value x) | with_reducible apply prerollEnds_keeps | with_reducible apply ite_keeps | split)
theorem execThermalLimit_next  (h : Keeps kb s0 s) : ∃ t, execThermalLimit s = .next t ∧ Keeps kb s0 t := by
  refine ⟨_, rfl, ?_⟩
  repeat' (first | with_reducible assumption | (extract_lets +onlyGivenNames x; refine @cut kb s0 x _ ?_ (fun hx => ?_); unfold x; clear x; rotate_left; clear_value x; rotate_right) | (extract_lets +onlyGivenNames x; clear_value x) | with_reducible apply thermReached_keeps | with_reducible apply ite_keeps | split)
theorem resetAssert_keeps {a0} (h : Keeps False s0 s) : Keeps False s0 (resetAssert a0 s) := by
  unfold resetAssert
  repeat' (first | with_reducible assumption | (extract_lets +onlyGivenNames x; refine @cut False s0 x _ ?_ (fun hx => ?_); unfold x; clear x; rotate_left; clear_value x; rotate_right) | (extract_lets +onlyGivenNames x; clear_value x) | with_reducible apply State.wr_keeps | with_reducible apply resetDevice_keeps | with_reducible apply State.ww_keeps | with_reducible apply State.wb_keeps | with_reducible apply ite_keeps | split)
theorem execResetAssert_next {a0} (h : Keeps False s0 s) : ∃ t, execResetAssert a0 s = .next t ∧ Keeps False s0 t := by
  refine ⟨_, rfl, ?_⟩
  repeat' (first | with_reducible assumption | (extract_lets +onlyGivenNames x; refine @cut False s0 x _ ?_ (fun hx => ?_); unfold x; clear x; rotate_left; clear_value x; rotate_right) | (extract_lets +onlyGivenNames x; clear_value x) | with_reducible apply resetAssert_keeps | with_reducible apply ite_keeps | split)
theorem execResetRelease_next  (h : Keeps kb s0 s) : ∃ t, execResetRelease s = .next t ∧ Keeps kb s0 t := by
  refine ⟨_, rfl, ?_⟩
  repeat' (first | with_reducible assumption | (extract_lets +onlyGivenNames x; refine @cut kb s0 x _ ?_ (fun hx => ?_); unfold x; clear x; rotate_left; clear_value x; rotate_right) | (extract_lets +onlyGivenNames x; clear_value x) | with_reducible apply bootBegin_keeps | with_reducible apply State.wr_keeps | with_reducible apply ite_keeps | split)
theorem execBootImageSelect_next  (h : Keeps kb s0 s) : ∃ t, execBootImageSelect s = .next t ∧ Keeps kb s0 t := by
  refine ⟨_, rfl, ?_⟩
  repeat' (first | with_reducible assumption | (extract_lets +onlyGivenNames x; refine @cut kb s0 x _ ?_ (fun hx => ?_); unfold x; clear x; rotate_left; clear_value x; rotate_right) | (extract_lets +onlyGivenNames x; clear_value x) | with_reducible apply bootSelect_keeps | with_reducible apply bootLocks_keeps | with_reducible apply ite_keeps | split)
theorem restoreConfig_keeps {a0} (h : Keeps kb s0 s) : Keeps kb s0 (restoreConfig a0 s) := by
  unfold restoreConfig
  repeat' (first | with_reducible assumption | (extract_lets +onlyGivenNames x; refine @cut kb s0 x _ ?_ (fun hx => ?_); unfold x; clear x; rotate_left; clear_value x; rotate_right) | (extract_lets +onlyGivenNames x; clear_value x) | with_reducible refine State.each_keeps ?_ (fun _ _ _ => ?_) | with_reducible apply State.pw_keeps | with_reducible apply State.onRx_keeps | with_reducible apply rxEnable_keeps | with_reducible apply State.onTx_keeps | with_reducible apply txEnable_keeps | with_reducible apply inTrimFix_keeps | with_reducible apply outTrimFix_keeps | with_reducible apply State.wr_keeps | with_reducible apply ite_keeps | split)
theorem execFirmwareRunning_next {a0} (h : Keeps False s0 s) : ∃ t, execFirmwareRunning a0 s = .next t ∧ Keeps False s0 t := by
  refine ⟨_, rfl, ?_⟩
  repeat' (first | with_reducible assumption | (extract_lets +onlyGivenNames x; refine @cut False s0 x _ ?_ (fun hx => ?_); unfold x; clear x; rotate_left; clear_value x; rotate_right) | (extract_lets +onlyGivenNames x; clear_value x) | with_reducible apply eraseAll_keeps | with_reducible refine State.onFlash_keeps (fun _ => ⟨rfl, rfl, Nat.le_refl _⟩) ?_ | with_reducible apply restoreConfig_keeps | with_reducible apply State.wb_keeps | with_reducible apply flashShow_keeps | with_reducible apply State.onUma_keeps | with_reducible apply lwRecover_keeps | with_reducible apply State.onFlt_keeps | with_reducible apply icBegin_keeps | with_reducible apply State.onMd_keeps | with_reducible apply State.wr_keeps | with_reducible apply State.raise_keeps | with_reducible apply enterMode_keeps | with_reducible apply ite_keeps | split)
theorem execBootScenesDone_next  (h : Keeps kb s0 s) : ∃ t, execBootScenesDone s = .next t ∧ Keeps kb s0 t := by
  refine ⟨_, rfl, ?_⟩
  repeat' (first | with_reducible assumption | (extract_lets +onlyGivenNames x; refine @cut kb s0 x _ ?_ (fun hx => ?_); unfold x; clear x; rotate_left; clear_value x; rotate_right) | (extract_lets +onlyGivenNames x; clear_value x) | with_reducible apply State.onMd_keeps | with_reducible apply condNote_keeps | with_reducible refine State.each_keeps ?_ (fun _ _ _ => ?_) | with_reducible apply bootScene_keeps | with_reducible apply ite_keeps | split)
theorem execDeviceIdentity_next {a0} (h : Keeps kb s0 s) : ∃ t, execDeviceIdentity a0 s = .next t ∧ Keeps kb s0 t := by
  refine ⟨_, rfl, ?_⟩
  repeat' (first | with_reducible assumption | (extract_lets +onlyGivenNames x; refine @cut kb s0 x _ ?_ (fun hx => ?_); unfold x; clear x; rotate_left; clear_value x; rotate_right) | (extract_lets +onlyGivenNames x; clear_value x) | with_reducible refine runCmd_keeps (hb := fun _ _ _ => ?_) ?_ | with_reducible apply ret_keeps | with_reducible apply ite_keeps | split)
theorem modeSet_keeps {a0} (h : Keeps kb s0 s) : ResKeeps kb s0 (modeSet a0 s) := by
  unfold modeSet
  repeat' (first | with_reducible assumption | (extract_lets +onlyGivenNames x; refine @cut kb s0 x _ ?_ (fun hx => ?_); unfold x; clear x; rotate_left; clear_value x; rotate_right) | (extract_lets +onlyGivenNames x; clear_value x) | with_reducible apply State.wr_keeps | with_reducible apply State.wb_keeps | with_reducible apply State.onMd_keeps | with_reducible apply State.raise_keeps | with_reducible apply retIdx_keeps | with_reducible apply mirrorNote_keeps | with_reducible exact no_keeps | with_reducible apply iteR_keeps | split)
theorem execModeSet_next {a0 a1} (h : Keeps kb s0 s) : ∃ t, execModeSet a0 a1 s = .next t ∧ Keeps kb s0 t := by
  refine ⟨_, rfl, ?_⟩
  repeat' (first | with_reducible assumption | (extract_lets +onlyGivenNames x; refine @cut kb s0 x _ ?_ (fun hx => ?_); unfold x; clear x; rotate_left; clear_value x; rotate_right) | (extract_lets +onlyGivenNames x; clear_value x) | with_reducible refine runCmd_keeps (hb := fun _ _ _ => ?_) ?_ | with_reducible apply modeSet_keeps | with_reducible apply ite_keeps | split)
theorem execModeStatus_next {a0} (h : Keeps kb s0 s) : ∃ t, execModeStatus a0 s = .next t ∧ Keeps kb s0 t := by
  refine ⟨_, rfl, ?_⟩
  repeat' (first | with_reducible assumption | (extract_lets +onlyGivenNames x; refine @cut kb s0 x _ ?_ (fun hx => ?_); unfold x; clear x; rotate_left; clear_value x; rotate_right) | (extract_lets +onlyGivenNames x; clear_value x) | with_reducible refine runCmd_keeps (hb := fun _ _ _ => ?_) ?_ | with_reducible apply ret_keeps | with_reducible apply ite_keeps | split)
theorem execModeConfig_next {a0 a1} (h : Keeps kb s0 s) : ∃ t, execModeConfig a0 a1 s = .next t ∧ Keeps kb s0 t := by
  refine ⟨_, rfl, ?_⟩
  repeat' (first | with_reducible assumption | (extract_lets +onlyGivenNames x; refine @cut kb s0 x _ ?_ (fun hx => ?_); unfold x; clear x; rotate_left; clear_value x; rotate_right) | (extract_lets +onlyGivenNames x; clear_value x) | with_reducible refine runCmd_keeps (hb := fun _ _ _ => ?_) ?_ | with_reducible apply done_keeps | with_reducible apply cfgWrite_keeps | with_reducible exact no_keeps | with_reducible apply ite_keeps | split)
theorem execConfigSave_next {a0 a1} (h : Keeps kb s0 s) : ∃ t, execConfigSave a0 a1 s = .next t ∧ Keeps kb s0 t := by
  refine ⟨_, rfl, ?_⟩
  repeat' (first | with_reducible assumption | (extract_lets +onlyGivenNames x; refine @cut kb s0 x _ ?_ (fun hx => ?_); unfold x; clear x; rotate_left; clear_value x; rotate_right) | (extract_lets +onlyGivenNames x; clear_value x) | with_reducible refine runCmd_keeps (hb := fun _ _ _ => ?_) ?_ | with_reducible apply flashAdd_keeps | with_reducible exact no_keeps | with_reducible apply resLater_keeps | with_reducible apply ite_keeps | split)
theorem execConfigRead_next {a0 a1} (h : Keeps kb s0 s) : ∃ t, execConfigRead a0 a1 s = .next t ∧ Keeps kb s0 t := by
  refine ⟨_, rfl, ?_⟩
  repeat' (first | with_reducible assumption | (extract_lets +onlyGivenNames x; refine @cut kb s0 x _ ?_ (fun hx => ?_); unfold x; clear x; rotate_left; clear_value x; rotate_right) | (extract_lets +onlyGivenNames x; clear_value x) | with_reducible refine runCmd_keeps (hb := fun _ _ _ => ?_) ?_ | with_reducible apply retL_keeps | with_reducible apply ite_keeps | split)

end Sys2Proof.Machine
end

