-- ==== Sys2Proof/Laws/KeepsHost.lean ====
section
/-!
SUPPORT. Every operation of Machine/Host.lean keeps what `Keeps` says.
-/
namespace Sys2Proof.Machine
set_option linter.all false
variable {kb : Prop} {s0 s : State}

theorem editShare_keeps  (h : Keeps kb s0 s) : Keeps kb s0 (editShare s) := by
  unfold editShare
  repeat' (first | with_reducible assumption | (extract_lets +onlyGivenNames x; refine @cut kb s0 x _ ?_ (fun hx => ?_); unfold x; clear x; rotate_left; clear_value x; rotate_right) | (extract_lets +onlyGivenNames x; clear_value x) | with_reducible apply editSync_keeps | with_reducible apply State.wr_keeps | with_reducible apply ite_keeps | split)
theorem quotaPut_keeps {a0 a1 a2} (h : Keeps kb s0 s) : Keeps kb s0 (quotaPut a0 a1 a2 s) := by
  unfold quotaPut
  repeat' (first | with_reducible assumption | (extract_lets +onlyGivenNames x; refine @cut kb s0 x _ ?_ (fun hx => ?_); unfold x; clear x; rotate_left; clear_value x; rotate_right) | (extract_lets +onlyGivenNames x; clear_value x) | with_reducible apply overFix_keeps | with_reducible apply State.wr_keeps | with_reducible apply editShare_keeps | with_reducible apply ite_keeps | split)
theorem activate_keeps {a1} (h : Keeps kb s0 s) : Keeps kb s0 (activate s a1) := by
  unfold activate
  repeat' (first | with_reducible assumption | (extract_lets +onlyGivenNames x; refine @cut kb s0 x _ ?_ (fun hx => ?_); unfold x; clear x; rotate_left; clear_value x; rotate_right) | (extract_lets +onlyGivenNames x; clear_value x) | with_reducible apply State.onHost_keeps | with_reducible apply State.wb_keeps | with_reducible apply State.wr_keeps | with_reducible apply State.wr64_keeps | with_reducible refine State.each_keeps ?_ (fun _ _ _ => ?_) | with_reducible apply quotaPut_keeps | with_reducible apply ite_keeps | split)
theorem descSet_keeps {a0 a1} (h : Keeps kb s0 s) : Keeps kb s0 (descSet a0 a1 s) := by
  unfold descSet
  repeat' (first | with_reducible assumption | (extract_lets +onlyGivenNames x; refine @cut kb s0 x _ ?_ (fun hx => ?_); unfold x; clear x; rotate_left; clear_value x; rotate_right) | (extract_lets +onlyGivenNames x; clear_value x) | with_reducible apply State.onHost_keeps | with_reducible apply ite_keeps | split)
theorem ringForget_keeps {a0} (h : Keeps kb s0 s) : Keeps kb s0 (ringForget a0 s) := by
  unfold ringForget
  repeat' (first | with_reducible assumption | (extract_lets +onlyGivenNames x; refine @cut kb s0 x _ ?_ (fun hx => ?_); unfold x; clear x; rotate_left; clear_value x; rotate_right) | (extract_lets +onlyGivenNames x; clear_value x) | with_reducible apply State.onHost_keeps | with_reducible apply descSet_keeps | with_reducible apply ite_keeps | split)
theorem ringOn_keeps {a0 a1} (h : Keeps kb s0 s) : Keeps kb s0 (ringOn a0 a1 s) := by
  unfold ringOn
  repeat' (first | with_reducible assumption | (extract_lets +onlyGivenNames x; refine @cut kb s0 x _ ?_ (fun hx => ?_); unfold x; clear x; rotate_left; clear_value x; rotate_right) | (extract_lets +onlyGivenNames x; clear_value x) | with_reducible apply State.onHost_keeps | with_reducible apply ringForget_keeps | with_reducible apply State.wr_keeps | with_reducible apply ite_keeps | split)
theorem ringOff_keeps {a0 a1} (h : Keeps kb s0 s) : Keeps kb s0 (ringOff a0 a1 s) := by
  unfold ringOff
  repeat' (first | with_reducible assumption | (extract_lets +onlyGivenNames x; refine @cut kb s0 x _ ?_ (fun hx => ?_); unfold x; clear x; rotate_left; clear_value x; rotate_right) | (extract_lets +onlyGivenNames x; clear_value x) | with_reducible apply State.onHost_keeps | with_reducible apply ringForget_keeps | with_reducible apply State.wr_keeps | with_reducible apply ite_keeps | split)
theorem blockFix_keeps {a0 a1} (h : Keeps kb s0 s) : Keeps kb s0 (blockFix a0 a1 s) := by
  unfold blockFix
  repeat' (first | with_reducible assumption | (extract_lets +onlyGivenNames x; refine @cut kb s0 x _ ?_ (fun hx => ?_); unfold x; clear x; rotate_left; clear_value x; rotate_right) | (extract_lets +onlyGivenNames x; clear_value x) | with_reducible apply State.wr_keeps | with_reducible apply ite_keeps | split)
theorem ringCtl_keeps {a0 a1 a2} (h : Keeps kb s0 s) : Keeps kb s0 (ringCtl a0 a1 a2 s) := by
  unfold ringCtl
  repeat' (first | with_reducible assumption | (extract_lets +onlyGivenNames x; refine @cut kb s0 x _ ?_ (fun hx => ?_); unfold x; clear x; rotate_left; clear_value x; rotate_right) | (extract_lets +onlyGivenNames x; clear_value x) | with_reducible apply State.writeRW_keeps | with_reducible apply ringOn_keeps | with_reducible apply ringOff_keeps | with_reducible apply blockFix_keeps | with_reducible apply ite_keeps | split)
theorem ringReg_keeps {a0 a1 a2 a3} (h : Keeps kb s0 s) : Keeps kb s0 (ringReg a0 a1 a2 a3 s) := by
  unfold ringReg
  repeat' (first | with_reducible assumption | (extract_lets +onlyGivenNames x; refine @cut kb s0 x _ ?_ (fun hx => ?_); unfold x; clear x; rotate_left; clear_value x; rotate_right) | (extract_lets +onlyGivenNames x; clear_value x) | with_reducible apply ringCtl_keeps | with_reducible apply State.writeWord_keeps | with_reducible apply ite_keeps | split)
theorem maskHold_keeps {a0 a1 a2 a3 a4 a5} (h : Keeps kb s0 s) : Keeps kb s0 (maskHold a0 a1 a2 a3 a4 a5 s) := by
  unfold maskHold
  repeat' (first | with_reducible assumption | (extract_lets +onlyGivenNames x; refine @cut kb s0 x _ ?_ (fun hx => ?_); unfold x; clear x; rotate_left; clear_value x; rotate_right) | (extract_lets +onlyGivenNames x; clear_value x) | with_reducible apply State.onHeld_keeps | with_reducible apply ite_keeps | split)
theorem maskWrite_keeps {a0 a1 a2 a3 a4 a5} (h : Keeps kb s0 s) : Keeps kb s0 (maskWrite a0 a1 a2 a3 a4 a5 s) := by
  unfold maskWrite
  repeat' (first | with_reducible assumption | (extract_lets +onlyGivenNames x; refine @cut kb s0 x _ ?_ (fun hx => ?_); unfold x; clear x; rotate_left; clear_value x; rotate_right) | (extract_lets +onlyGivenNames x; clear_value x) | with_reducible apply State.wb_keeps | with_reducible apply maskHold_keeps | with_reducible apply ite_keeps | split)
theorem cqGone_keeps {a0 a1} (h : Keeps kb s0 s) : Keeps kb s0 (cqGone a0 a1 s) := by
  unfold cqGone
  repeat' (first | with_reducible assumption | (extract_lets +onlyGivenNames x; refine @cut kb s0 x _ ?_ (fun hx => ?_); unfold x; clear x; rotate_left; clear_value x; rotate_right) | (extract_lets +onlyGivenNames x; clear_value x) | with_reducible apply State.onHost_keeps | with_reducible apply State.onCmd_keeps | with_reducible apply ite_keeps | split)
theorem cqCtl_keeps {a0 a1 a2} (h : Keeps kb s0 s) : Keeps kb s0 (cqCtl a0 a1 a2 s) := by
  unfold cqCtl
  repeat' (first | with_reducible assumption | (extract_lets +onlyGivenNames x; refine @cut kb s0 x _ ?_ (fun hx => ?_); unfold x; clear x; rotate_left; clear_value x; rotate_right) | (extract_lets +onlyGivenNames x; clear_value x) | with_reducible apply State.writeRW_keeps | with_reducible apply State.wr_keeps | with_reducible apply State.ww_keeps | with_reducible apply cqGone_keeps | with_reducible apply State.onHost_keeps | with_reducible apply ite_keeps | split)
theorem cqReg_keeps {a0 a1 a2 a3} (h : Keeps kb s0 s) : Keeps kb s0 (cqReg a0 a1 a2 a3 s) := by
  unfold cqReg
  repeat' (first | with_reducible assumption | (extract_lets +onlyGivenNames x; refine @cut kb s0 x _ ?_ (fun hx => ?_); unfold x; clear x; rotate_left; clear_value x; rotate_right) | (extract_lets +onlyGivenNames x; clear_value x) | with_reducible apply cqCtl_keeps | with_reducible apply State.writeWord_keeps | with_reducible apply ite_keeps | split)
theorem silence_keeps {a0} (h : Keeps kb s0 s) : Keeps kb s0 (silence a0 s) := by
  unfold silence
  repeat' (first | with_reducible assumption | (extract_lets +onlyGivenNames x; refine @cut kb s0 x _ ?_ (fun hx => ?_); unfold x; clear x; rotate_left; clear_value x; rotate_right) | (extract_lets +onlyGivenNames x; clear_value x) | with_reducible apply State.onHost_keeps | with_reducible apply State.wb_keeps | with_reducible apply ite_keeps | split)
theorem sigMove_keeps {a0 a1} (h : Keeps kb s0 s) : Keeps kb s0 (sigMove a0 a1 s) := by
  unfold sigMove
  repeat' (first | with_reducible assumption | (extract_lets +onlyGivenNames x; refine @cut kb s0 x _ ?_ (fun hx => ?_); unfold x; clear x; rotate_left; clear_value x; rotate_right) | (extract_lets +onlyGivenNames x; clear_value x) | with_reducible apply sigGive_keeps | with_reducible apply State.wr64_keeps | with_reducible apply ite_keeps | split)
theorem maskMark_keeps {a0 a1} (h : Keeps kb s0 s) : Keeps kb s0 (maskMark a0 a1 s) := by
  unfold maskMark
  repeat' (first | with_reducible assumption | (extract_lets +onlyGivenNames x; refine @cut kb s0 x _ ?_ (fun hx => ?_); unfold x; clear x; rotate_left; clear_value x; rotate_right) | (extract_lets +onlyGivenNames x; clear_value x) | with_reducible apply State.onHost_keeps | with_reducible apply ite_keeps | split)
theorem chanLeave_keeps {a0 a1 a2} (h : Keeps kb s0 s) : Keeps kb s0 (chanLeave a0 a1 a2 s) := by
  unfold chanLeave
  repeat' (first | with_reducible assumption | (extract_lets +onlyGivenNames x; refine @cut kb s0 x _ ?_ (fun hx => ?_); unfold x; clear x; rotate_left; clear_value x; rotate_right) | (extract_lets +onlyGivenNames x; clear_value x) | with_reducible refine State.each_keeps ?_ (fun _ _ _ => ?_) | with_reducible apply State.onHeld_keeps | with_reducible apply blockFix_keeps | with_reducible apply maskMark_keeps | with_reducible apply State.pw_keeps | with_reducible apply ite_keeps | split)
theorem chanGive_keeps {a0 a1 a2} (h : Keeps kb s0 s) : Keeps kb s0 (chanGive a0 a1 a2 s) := by
  unfold chanGive
  repeat' (first | with_reducible assumption | (extract_lets +onlyGivenNames x; refine @cut kb s0 x _ ?_ (fun hx => ?_); unfold x; clear x; rotate_left; clear_value x; rotate_right) | (extract_lets +onlyGivenNames x; clear_value x) | with_reducible apply chanLeave_keeps | with_reducible apply useTake_keeps | with_reducible apply useGive_keeps | with_reducible apply State.onHost_keeps | with_reducible apply ite_keeps | split)
theorem filterPut_keeps {a0 a1} (h : Keeps kb s0 s) : Keeps kb s0 (filterPut a0 a1 s) := by
  unfold filterPut
  repeat' (first | with_reducible assumption | (extract_lets +onlyGivenNames x; refine @cut kb s0 x _ ?_ (fun hx => ?_); unfold x; clear x; rotate_left; clear_value x; rotate_right) | (extract_lets +onlyGivenNames x; clear_value x) | with_reducible apply useGive_keeps | with_reducible apply useTake_keeps | with_reducible apply State.onHost_keeps | with_reducible apply ite_keeps | split)
theorem takeBack_keeps {a0 a2} (h : Keeps kb s0 s) : Keeps kb s0 (takeBack a0 s a2) := by
  unfold takeBack
  repeat' (first | with_reducible assumption | (extract_lets +onlyGivenNames x; refine @cut kb s0 x _ ?_ (fun hx => ?_); unfold x; clear x; rotate_left; clear_value x; rotate_right) | (extract_lets +onlyGivenNames x; clear_value x) | with_reducible apply staleSet_keeps | with_reducible apply setBank_keeps | with_reducible apply sigMove_keeps | with_reducible apply xinGive_keeps | with_reducible apply rxDisable_keeps | with_reducible apply txReclaim_keeps | with_reducible apply chanGive_keeps | with_reducible apply filterPut_keeps | with_reducible apply ite_keeps | split)
theorem tenantGone_keeps {a0} (h : Keeps kb s0 s) : Keeps kb s0 (tenantGone a0 s) := by
  unfold tenantGone
  repeat' (first | with_reducible assumption | (extract_lets +onlyGivenNames x; refine @cut kb s0 x _ ?_ (fun hx => ?_); unfold x; clear x; rotate_left; clear_value x; rotate_right) | (extract_lets +onlyGivenNames x; clear_value x) | with_reducible refine State.each_keeps ?_ (fun _ _ _ => ?_) | with_reducible apply takeBack_keeps | with_reducible apply State.wr_keeps | with_reducible apply State.raise_keeps | with_reducible apply State.wb_keeps | with_reducible apply editShare_keeps | with_reducible apply State.onHost_keeps | with_reducible apply ite_keeps | split)
theorem reclaimDone_keeps {a0} (h : Keeps kb s0 s) : Keeps kb s0 (reclaimDone a0 s) := by
  unfold reclaimDone
  repeat' (first | with_reducible assumption | (extract_lets +onlyGivenNames x; refine @cut kb s0 x _ ?_ (fun hx => ?_); unfold x; clear x; rotate_left; clear_value x; rotate_right) | (extract_lets +onlyGivenNames x; clear_value x) | with_reducible refine State.each_keeps ?_ (fun _ _ _ => ?_) | with_reducible apply takeBack_keeps | with_reducible apply State.onHost_keeps | with_reducible apply tenantGone_keeps | with_reducible apply ite_keeps | split)
theorem tenantTick_keeps  (h : Keeps kb s0 s) : Keeps kb s0 (tenantTick s) := by
  unfold tenantTick
  repeat' (first | with_reducible assumption | (extract_lets +onlyGivenNames x; refine @cut kb s0 x _ ?_ (fun hx => ?_); unfold x; clear x; rotate_left; clear_value x; rotate_right) | (extract_lets +onlyGivenNames x; clear_value x) | with_reducible refine State.each_keeps ?_ (fun _ _ _ => ?_) | with_reducible apply silence_keeps | with_reducible apply reclaimDone_keeps | with_reducible apply activate_keeps | with_reducible apply State.onHost_keeps | with_reducible apply quotaPut_keeps | with_reducible apply sigMove_keeps | with_reducible apply chanGive_keeps | with_reducible apply ite_keeps | split)
theorem ringError_keeps {a0 a1} (h : Keeps kb s0 s) : Keeps kb s0 (ringError a0 a1 s) := by
  unfold ringError
  repeat' (first | with_reducible assumption | (extract_lets +onlyGivenNames x; refine @cut kb s0 x _ ?_ (fun hx => ?_); unfold x; clear x; rotate_left; clear_value x; rotate_right) | (extract_lets +onlyGivenNames x; clear_value x) | with_reducible apply State.raise_keeps | with_reducible apply State.wr_keeps | with_reducible apply ite_keeps | split)
theorem ringDmaErr_keeps {a0 a1} (h : Keeps kb s0 s) : Keeps kb s0 (ringDmaErr a0 a1 s) := by
  unfold ringDmaErr
  repeat' (first | with_reducible assumption | (extract_lets +onlyGivenNames x; refine @cut kb s0 x _ ?_ (fun hx => ?_); unfold x; clear x; rotate_left; clear_value x; rotate_right) | (extract_lets +onlyGivenNames x; clear_value x) | with_reducible apply ringError_keeps | with_reducible apply dmaErr_keeps | with_reducible apply ite_keeps | split)
theorem bufPut_keeps {a0 a1} (h : Keeps kb s0 s) : Keeps kb s0 (bufPut a0 a1 s) := by
  unfold bufPut
  repeat' (first | with_reducible assumption | (extract_lets +onlyGivenNames x; refine @cut kb s0 x _ ?_ (fun hx => ?_); unfold x; clear x; rotate_left; clear_value x; rotate_right) | (extract_lets +onlyGivenNames x; clear_value x) | with_reducible apply State.onHost_keeps | with_reducible apply ite_keeps | split)
theorem bufHold_keeps {a0 a1 a2} (h : Keeps kb s0 s) : Keeps kb s0 (bufHold a0 a1 a2 s) := by
  unfold bufHold
  repeat' (first | with_reducible assumption | (extract_lets +onlyGivenNames x; refine @cut kb s0 x _ ?_ (fun hx => ?_); unfold x; clear x; rotate_left; clear_value x; rotate_right) | (extract_lets +onlyGivenNames x; clear_value x) | with_reducible apply bufPut_keeps | with_reducible apply ite_keeps | split)
theorem writeBack_keeps {a0 a1 a2 a3} (h : Keeps kb s0 s) : Keeps kb s0 (writeBack a0 a1 a2 a3 s) := by
  unfold writeBack
  repeat' (first | with_reducible assumption | (extract_lets +onlyGivenNames x; refine @cut kb s0 x _ ?_ (fun hx => ?_); unfold x; clear x; rotate_left; clear_value x; rotate_right) | (extract_lets +onlyGivenNames x; clear_value x) | with_reducible apply bufHold_keeps | with_reducible apply State.onHost_keeps | with_reducible apply State.cntw_keeps | with_reducible apply State.msi_keeps | with_reducible apply ite_keeps | split)
theorem descFlushL_keeps' {a0 a1 a2} (h : Keeps kb s0 s) : Keeps1 kb s0 (descFlushL a0 a1 a2 s) := by
  induction a2 generalizing s  with
  | nil => unfold descFlushL; repeat' (first | with_reducible assumption | (extract_lets +onlyGivenNames x; refine @cut kb s0 x _ ?_ (fun hx => ?_); unfold x; clear x; rotate_left; clear_value x; rotate_right) | (extract_lets +onlyGivenNames x; clear_value x) | with_reducible apply writeBack_keeps | split | with_reducible apply mk1_keeps)
  | cons x l ih =>
    unfold descFlushL
    repeat' (first | with_reducible assumption | with_reducible apply ih | (extract_lets +onlyGivenNames x; refine @cut kb s0 x _ ?_ (fun hx => ?_); unfold x; clear x; rotate_left; clear_value x; rotate_right) | (extract_lets +onlyGivenNames x; clear_value x) | with_reducible apply writeBack_keeps | split | with_reducible apply mk1_keeps)
theorem descFlushL_keeps2 {a0 a1 a2} (h : Keeps kb s0 s) : Keeps kb s0 (descFlushL a0 a1 a2 s).1 := descFlushL_keeps' h
theorem descFlushL_keeps {a0 a1 a2} {t v1} (h : Keeps kb s0 s) (e : descFlushL a0 a1 a2 s = (t, v1)) : Keeps kb s0 t := by
  have k : Keeps1 kb s0 (descFlushL a0 a1 a2 s) := descFlushL_keeps' h; rw [e] at k; exact k
theorem descFlush_keeps {a0 a1} (h : Keeps kb s0 s) : Keeps kb s0 (descFlush a0 a1 s) := by
  unfold descFlush
  repeat' (first | with_reducible assumption | (extract_lets +onlyGivenNames x; refine @cut kb s0 x _ ?_ (fun hx => ?_); unfold x; clear x; rotate_left; clear_value x; rotate_right) | (extract_lets +onlyGivenNames x; refine @cut1 kb _ s0 x _ ?_ (fun hx => ?_); unfold x; clear x; rotate_left; clear_value x; rotate_right) | (extract_lets +onlyGivenNames x; refine @cut2 kb _ s0 x _ ?_ (fun hx => ?_); unfold x; clear x; rotate_left; clear_value x; rotate_right) | (extract_lets +onlyGivenNames x; clear_value x) | with_reducible refine descFlushL_keeps ?_ (by assumption) | with_reducible apply descFlushL_keeps2 | with_reducible apply descSet_keeps | with_reducible apply ite_keeps | with_reducible apply descFlushL_keeps' | split | with_reducible apply mk1_keeps | with_reducible apply mk2_keeps)
theorem netRx_keeps {a0 a1 a2 a3 a4 a5} (h : Keeps kb s0 s) : Keeps kb s0 (netRx a0 a1 a2 a3 a4 a5 s) := by
  unfold netRx
  repeat' (first | with_reducible assumption | (extract_lets +onlyGivenNames x; refine @cut kb s0 x _ ?_ (fun hx => ?_); unfold x; clear x; rotate_left; clear_value x; rotate_right) | (extract_lets +onlyGivenNames x; clear_value x) | with_reducible apply State.cntr_keeps | with_reducible apply ringDmaErr_keeps | with_reducible apply State.onHost_keeps | with_reducible apply descSet_keeps | with_reducible apply descFlush_keeps | with_reducible apply writeBack_keeps | with_reducible apply ite_keeps | split)
theorem tickLate_keeps {a0} (h : Keeps kb s0 s) : Keeps kb s0 (tickLate a0 s) := by
  unfold tickLate
  repeat' (first | with_reducible assumption | (extract_lets +onlyGivenNames x; refine @cut kb s0 x _ ?_ (fun hx => ?_); unfold x; clear x; rotate_left; clear_value x; rotate_right) | (extract_lets +onlyGivenNames x; clear_value x) | with_reducible apply State.cntr_keeps | with_reducible apply ite_keeps | split)
theorem headLost_keeps {a0 a1 a2} (h : Keeps kb s0 s) : Keeps kb s0 (headLost a0 a1 a2 s) := by
  unfold headLost
  repeat' (first | with_reducible assumption | (extract_lets +onlyGivenNames x; refine @cut kb s0 x _ ?_ (fun hx => ?_); unfold x; clear x; rotate_left; clear_value x; rotate_right) | (extract_lets +onlyGivenNames x; clear_value x) | with_reducible apply descFlush_keeps | with_reducible apply descSet_keeps | with_reducible apply tickLate_keeps | with_reducible apply ite_keeps | split)
theorem capWrite_keeps {a0 a1 a2} (h : Keeps kb s0 s) : Keeps kb s0 (capWrite a0 a1 a2 s) := by
  unfold capWrite
  repeat' (first | with_reducible assumption | (extract_lets +onlyGivenNames x; refine @cut kb s0 x _ ?_ (fun hx => ?_); unfold x; clear x; rotate_left; clear_value x; rotate_right) | (extract_lets +onlyGivenNames x; clear_value x) | with_reducible apply State.onHost_keeps | with_reducible apply headLost_keeps | with_reducible apply ringDmaErr_keeps | with_reducible apply descFlush_keeps | with_reducible apply writeBack_keeps | with_reducible apply descSet_keeps | with_reducible apply ite_keeps | split)
theorem hostApply_keeps {a1} (h : Keeps kb s0 s) : Keeps kb s0 (hostApply s a1) := by
  unfold hostApply
  repeat' (first | with_reducible assumption | (extract_lets +onlyGivenNames x; refine @cut kb s0 x _ ?_ (fun hx => ?_); unfold x; clear x; rotate_left; clear_value x; rotate_right) | (extract_lets +onlyGivenNames x; clear_value x) | with_reducible apply State.applyHeld_keeps | with_reducible apply maskMark_keeps | with_reducible apply blockFix_keeps | with_reducible apply ite_keeps | split)
theorem ringLate_keeps {a0 a2} (h : Keeps kb s0 s) : Keeps kb s0 (ringLate a0 s a2) := by
  unfold ringLate
  repeat' (first | with_reducible assumption | (extract_lets +onlyGivenNames x; refine @cut kb s0 x _ ?_ (fun hx => ?_); unfold x; clear x; rotate_left; clear_value x; rotate_right) | (extract_lets +onlyGivenNames x; clear_value x) | with_reducible apply headLost_keeps | with_reducible apply ite_keeps | split)
theorem ringStart_keeps {a0 a2} (h : Keeps kb s0 s) : Keeps kb s0 (ringStart a0 s a2) := by
  unfold ringStart
  repeat' (first | with_reducible assumption | (extract_lets +onlyGivenNames x; refine @cut kb s0 x _ ?_ (fun hx => ?_); unfold x; clear x; rotate_left; clear_value x; rotate_right) | (extract_lets +onlyGivenNames x; clear_value x) | with_reducible apply State.wr_keeps | with_reducible apply State.onHost_keeps | with_reducible apply State.wb_keeps | with_reducible apply State.wr64_keeps | with_reducible apply ite_keeps | split)
theorem rampTick_keeps {a0 a2} (h : Keeps kb s0 s) : Keeps kb s0 (rampTick a0 s a2) := by
  unfold rampTick
  repeat' (first | with_reducible assumption | (extract_lets +onlyGivenNames x; refine @cut kb s0 x _ ?_ (fun hx => ?_); unfold x; clear x; rotate_left; clear_value x; rotate_right) | (extract_lets +onlyGivenNames x; clear_value x) | with_reducible apply State.wb_keeps | with_reducible apply State.onHost_keeps | with_reducible apply ite_keeps | split)
theorem hostTick_keeps  (h : Keeps kb s0 s) : Keeps kb s0 (hostTick s) := by
  unfold hostTick
  repeat' (first | with_reducible assumption | (extract_lets +onlyGivenNames x; refine @cut kb s0 x _ ?_ (fun hx => ?_); unfold x; clear x; rotate_left; clear_value x; rotate_right) | (extract_lets +onlyGivenNames x; clear_value x) | with_reducible refine State.each_keeps ?_ (fun _ _ _ => ?_) | with_reducible apply capWrite_keeps | with_reducible apply State.onHost_keeps | with_reducible refine State.applyDue_keeps (hk := fun _ _ _ => ?_) ?_ | with_reducible apply hostApply_keeps | with_reducible apply ringLate_keeps | with_reducible apply ringStart_keeps | with_reducible apply rampTick_keeps | with_reducible apply ite_keeps | split)
theorem ringDeny_keeps {a1} (h : Keeps kb s0 s) : Keeps kb s0 (ringDeny s a1) := by
  unfold ringDeny
  repeat' (first | with_reducible assumption | (extract_lets +onlyGivenNames x; refine @cut kb s0 x _ ?_ (fun hx => ?_); unfold x; clear x; rotate_left; clear_value x; rotate_right) | (extract_lets +onlyGivenNames x; clear_value x) | with_reducible apply State.onHost_keeps | with_reducible apply descFlush_keeps | with_reducible apply descSet_keeps | with_reducible apply State.wr_keeps | with_reducible apply ite_keeps | split)
theorem hostModeTick_keeps  (h : Keeps kb s0 s) : Keeps kb s0 (hostModeTick s) := by
  unfold hostModeTick
  repeat' (first | with_reducible assumption | (extract_lets +onlyGivenNames x; refine @cut kb s0 x _ ?_ (fun hx => ?_); unfold x; clear x; rotate_left; clear_value x; rotate_right) | (extract_lets +onlyGivenNames x; clear_value x) | with_reducible refine State.each_keeps ?_ (fun _ _ _ => ?_) | with_reducible apply ringDeny_keeps | with_reducible apply ite_keeps | split)
theorem capSample_keeps  (h : Keeps kb s0 s) : Keeps kb s0 (capSample s) := by
  unfold capSample
  repeat' (first | with_reducible assumption | (extract_lets +onlyGivenNames x; refine @cut kb s0 x _ ?_ (fun hx => ?_); unfold x; clear x; rotate_left; clear_value x; rotate_right) | (extract_lets +onlyGivenNames x; clear_value x) | with_reducible refine State.each_keeps ?_ (fun _ _ _ => ?_) | with_reducible apply State.onHost_keeps | with_reducible apply ite_keeps | split)
theorem bufUsed_keeps {a0} (h : Keeps kb s0 s) : Keeps kb s0 (bufUsed a0 s) := by
  unfold bufUsed
  repeat' (first | with_reducible assumption | (extract_lets +onlyGivenNames x; refine @cut kb s0 x _ ?_ (fun hx => ?_); unfold x; clear x; rotate_left; clear_value x; rotate_right) | (extract_lets +onlyGivenNames x; clear_value x) | with_reducible apply State.wr_keeps | with_reducible apply ite_keeps | split)
theorem commandFetch_keeps {a0} (h : Keeps kb s0 s) : Keeps kb s0 (commandFetch a0 s) := by
  unfold commandFetch
  repeat' (first | with_reducible assumption | (extract_lets +onlyGivenNames x; refine @cut kb s0 x _ ?_ (fun hx => ?_); unfold x; clear x; rotate_left; clear_value x; rotate_right) | (extract_lets +onlyGivenNames x; clear_value x) | with_reducible apply cqError_keeps | with_reducible apply dmaErr_keeps | with_reducible apply State.onHost_keeps | with_reducible apply State.onCmd_keeps | with_reducible apply State.wr_keeps | with_reducible apply complete_keeps | with_reducible apply ite_keeps | split)
theorem logMisuse_keeps {a0 a1 a2 a3} (h : Keeps kb s0 s) : Keeps kb s0 (logMisuse a0 a1 a2 a3 s) := by
  unfold logMisuse
  repeat' (first | with_reducible assumption | (extract_lets +onlyGivenNames x; refine @cut kb s0 x _ ?_ (fun hx => ?_); unfold x; clear x; rotate_left; clear_value x; rotate_right) | (extract_lets +onlyGivenNames x; clear_value x) | with_reducible apply State.cntr_keeps | with_reducible apply State.ww_keeps | with_reducible apply State.wr_keeps | with_reducible apply State.raise_keeps | with_reducible apply ite_keeps | split)
theorem descPut_keeps {a0 a1 a2} (h : Keeps kb s0 s) : Keeps kb s0 (descPut a0 a1 a2 s) := by
  unfold descPut
  repeat' (first | with_reducible assumption | (extract_lets +onlyGivenNames x; refine @cut kb s0 x _ ?_ (fun hx => ?_); unfold x; clear x; rotate_left; clear_value x; rotate_right) | (extract_lets +onlyGivenNames x; clear_value x) | with_reducible apply descFlush_keeps | with_reducible apply descSet_keeps | with_reducible apply ite_keeps | split)
theorem netTx_keeps {a0 a1 a2} (h : Keeps kb s0 s) : Keeps kb s0 (netTx a0 a1 a2 s) := by
  unfold netTx
  repeat' (first | with_reducible assumption | (extract_lets +onlyGivenNames x; refine @cut kb s0 x _ ?_ (fun hx => ?_); unfold x; clear x; rotate_left; clear_value x; rotate_right) | (extract_lets +onlyGivenNames x; clear_value x) | with_reducible apply descPut_keeps | with_reducible apply ringDmaErr_keeps | with_reducible apply txPut_keeps | with_reducible apply ite_keeps | split)
theorem descFetch_keeps {a0 a1 a2} (h : Keeps kb s0 s) : Keeps kb s0 (descFetch a0 a1 a2 s) := by
  unfold descFetch
  repeat' (first | with_reducible assumption | (extract_lets +onlyGivenNames x; refine @cut kb s0 x _ ?_ (fun hx => ?_); unfold x; clear x; rotate_left; clear_value x; rotate_right) | (extract_lets +onlyGivenNames x; clear_value x) | with_reducible apply ringDmaErr_keeps | with_reducible apply State.onHost_keeps | with_reducible apply State.wr_keeps | with_reducible apply descFlush_keeps | with_reducible apply descSet_keeps | with_reducible apply logMisuse_keeps | with_reducible apply bufHold_keeps | with_reducible apply netTx_keeps | with_reducible apply tickLate_keeps | with_reducible apply ite_keeps | split)
theorem hostDeparted_keeps {a0 a1} (h : Keeps kb s0 s) : Keeps kb s0 (hostDeparted a0 a1 s) := by
  unfold hostDeparted
  repeat' (first | with_reducible assumption | (extract_lets +onlyGivenNames x; refine @cut kb s0 x _ ?_ (fun hx => ?_); unfold x; clear x; rotate_left; clear_value x; rotate_right) | (extract_lets +onlyGivenNames x; clear_value x) | with_reducible apply txSettle_keeps | with_reducible apply State.onNet_keeps | with_reducible apply descFlush_keeps | with_reducible apply writeBack_keeps | with_reducible apply descSet_keeps | with_reducible apply ite_keeps | split)
theorem execHostFrameDeparted_next {a0 a1} (h : Keeps kb s0 s) : ∃ t, execHostFrameDeparted a0 a1 s = .next t ∧ Keeps kb s0 t := by
  refine ⟨_, rfl, ?_⟩
  repeat' (first | with_reducible assumption | (extract_lets +onlyGivenNames x; refine @cut kb s0 x _ ?_ (fun hx => ?_); unfold x; clear x; rotate_left; clear_value x; rotate_right) | (extract_lets +onlyGivenNames x; clear_value x) | with_reducible refine awake_keeps ?_ ?_ | with_reducible apply hostDeparted_keeps | with_reducible apply ite_keeps | split)
theorem fnVectors_keeps {a0} (h : Keeps kb s0 s) : Keeps kb s0 (fnVectors a0 s) := by
  unfold fnVectors
  repeat' (first | with_reducible assumption | (extract_lets +onlyGivenNames x; refine @cut kb s0 x _ ?_ (fun hx => ?_); unfold x; clear x; rotate_left; clear_value x; rotate_right) | (extract_lets +onlyGivenNames x; clear_value x) | with_reducible refine State.each_keeps ?_ (fun _ _ _ => ?_) | with_reducible apply State.ww_keeps | with_reducible apply State.onHost_keeps | with_reducible apply ite_keeps | split)
theorem fnStop_keeps {a0} (h : Keeps kb s0 s) : Keeps kb s0 (fnStop a0 s) := by
  unfold fnStop
  repeat' (first | with_reducible assumption | (extract_lets +onlyGivenNames x; refine @cut kb s0 x _ ?_ (fun hx => ?_); unfold x; clear x; rotate_left; clear_value x; rotate_right) | (extract_lets +onlyGivenNames x; clear_value x) | with_reducible apply State.onCmd_keeps | with_reducible refine State.each_keeps ?_ (fun _ _ _ => ?_) | with_reducible apply ringForget_keeps | with_reducible apply State.pw_keeps | with_reducible apply State.onHeld_keeps | with_reducible apply State.onHost_keeps | with_reducible apply bufUsed_keeps | with_reducible apply useGive_keeps | with_reducible apply ite_keeps | split)
theorem fnCancel_keeps {a0} (h : Keeps kb s0 s) : Keeps kb s0 (fnCancel a0 s) := by
  unfold fnCancel
  repeat' (first | with_reducible assumption | (extract_lets +onlyGivenNames x; refine @cut kb s0 x _ ?_ (fun hx => ?_); unfold x; clear x; rotate_left; clear_value x; rotate_right) | (extract_lets +onlyGivenNames x; clear_value x) | with_reducible apply cancelArmed_keeps | with_reducible apply editDiscard_keeps | with_reducible refine State.each_keeps ?_ (fun _ _ _ => ?_) | with_reducible apply snapOff_keeps | with_reducible apply ite_keeps | split)
theorem flr_keeps {a0} (h : Keeps kb s0 s) : Keeps kb s0 (flr a0 s) := by
  unfold flr
  repeat' (first | with_reducible assumption | (extract_lets +onlyGivenNames x; refine @cut kb s0 x _ ?_ (fun hx => ?_); unfold x; clear x; rotate_left; clear_value x; rotate_right) | (extract_lets +onlyGivenNames x; clear_value x) | with_reducible apply State.onHost_keeps | with_reducible apply fnVectors_keeps | with_reducible apply fnStop_keeps | with_reducible apply State.cnt_keeps | with_reducible apply State.raise_keeps | with_reducible apply fnCancel_keeps | with_reducible apply State.wr_keeps | with_reducible apply ite_keeps | split)
theorem execFlr_next {a0} (h : Keeps kb s0 s) : ∃ t, execFlr a0 s = .next t ∧ Keeps kb s0 t := by
  refine ⟨_, rfl, ?_⟩
  repeat' (first | with_reducible assumption | (extract_lets +onlyGivenNames x; refine @cut kb s0 x _ ?_ (fun hx => ?_); unfold x; clear x; rotate_left; clear_value x; rotate_right) | (extract_lets +onlyGivenNames x; clear_value x) | with_reducible apply flr_keeps | with_reducible apply ite_keeps | split)
theorem flrDone_keeps {a0} (h : Keeps kb s0 s) : Keeps kb s0 (flrDone a0 s) := by
  unfold flrDone
  repeat' (first | with_reducible assumption | (extract_lets +onlyGivenNames x; refine @cut kb s0 x _ ?_ (fun hx => ?_); unfold x; clear x; rotate_left; clear_value x; rotate_right) | (extract_lets +onlyGivenNames x; clear_value x) | with_reducible apply State.onHost_keeps | with_reducible apply State.wr_keeps | with_reducible apply State.raise_keeps | with_reducible apply ite_keeps | split)
theorem execFlrComplete_next {a0} (h : Keeps kb s0 s) : ∃ t, execFlrComplete a0 s = .next t ∧ Keeps kb s0 t := by
  refine ⟨_, rfl, ?_⟩
  repeat' (first | with_reducible assumption | (extract_lets +onlyGivenNames x; refine @cut kb s0 x _ ?_ (fun hx => ?_); unfold x; clear x; rotate_left; clear_value x; rotate_right) | (extract_lets +onlyGivenNames x; clear_value x) | with_reducible apply flrDone_keeps | with_reducible apply ite_keeps | split)
theorem execPcieReset_next  (h : Keeps kb s0 s) : ∃ t, execPcieReset s = .next t ∧ Keeps kb s0 t := by
  refine ⟨_, rfl, ?_⟩
  repeat' (first | with_reducible assumption | (extract_lets +onlyGivenNames x; refine @cut kb s0 x _ ?_ (fun hx => ?_); unfold x; clear x; rotate_left; clear_value x; rotate_right) | (extract_lets +onlyGivenNames x; clear_value x) | with_reducible refine State.each_keeps ?_ (fun _ _ _ => ?_) | with_reducible apply flr_keeps | with_reducible apply ite_keeps | split)
theorem execBusMasterClear_next {a0} (h : Keeps kb s0 s) : ∃ t, execBusMasterClear a0 s = .next t ∧ Keeps kb s0 t := by
  refine ⟨_, rfl, ?_⟩
  repeat' (first | with_reducible assumption | (extract_lets +onlyGivenNames x; refine @cut kb s0 x _ ?_ (fun hx => ?_); unfold x; clear x; rotate_left; clear_value x; rotate_right) | (extract_lets +onlyGivenNames x; clear_value x) | with_reducible apply State.onHost_keeps | with_reducible refine State.each_keeps ?_ (fun _ _ _ => ?_) | with_reducible apply cqError_keeps | with_reducible apply ringError_keeps | with_reducible apply ite_keeps | split)
theorem execRampOutSilenced_next {a0} (h : Keeps kb s0 s) : ∃ t, execRampOutSilenced a0 s = .next t ∧ Keeps kb s0 t := by
  refine ⟨_, rfl, ?_⟩
  repeat' (first | with_reducible assumption | (extract_lets +onlyGivenNames x; refine @cut kb s0 x _ ?_ (fun hx => ?_); unfold x; clear x; rotate_left; clear_value x; rotate_right) | (extract_lets +onlyGivenNames x; clear_value x) | with_reducible refine awake_keeps ?_ ?_ | with_reducible apply silence_keeps | with_reducible apply ite_keeps | split)
theorem execReclaimComplete_next {a0} (h : Keeps kb s0 s) : ∃ t, execReclaimComplete a0 s = .next t ∧ Keeps kb s0 t := by
  refine ⟨_, rfl, ?_⟩
  repeat' (first | with_reducible assumption | (extract_lets +onlyGivenNames x; refine @cut kb s0 x _ ?_ (fun hx => ?_); unfold x; clear x; rotate_left; clear_value x; rotate_right) | (extract_lets +onlyGivenNames x; clear_value x) | with_reducible refine awake_keeps ?_ ?_ | with_reducible apply reclaimDone_keeps | with_reducible apply ite_keeps | split)
theorem execCommandFetch_next {a0} (h : Keeps kb s0 s) : ∃ t, execCommandFetch a0 s = .next t ∧ Keeps kb s0 t := by
  refine ⟨_, rfl, ?_⟩
  repeat' (first | with_reducible assumption | (extract_lets +onlyGivenNames x; refine @cut kb s0 x _ ?_ (fun hx => ?_); unfold x; clear x; rotate_left; clear_value x; rotate_right) | (extract_lets +onlyGivenNames x; clear_value x) | with_reducible refine awake_keeps ?_ ?_ | with_reducible apply commandFetch_keeps | with_reducible apply ite_keeps | split)
theorem execCompletionInterrupt_next {a0 a1 a2} (h : Keeps kb s0 s) : ∃ t, execCompletionInterrupt a0 a1 a2 s = .next t ∧ Keeps kb s0 t := by
  refine ⟨_, rfl, ?_⟩
  repeat' (first | with_reducible assumption | (extract_lets +onlyGivenNames x; refine @cut kb s0 x _ ?_ (fun hx => ?_); unfold x; clear x; rotate_left; clear_value x; rotate_right) | (extract_lets +onlyGivenNames x; clear_value x) | with_reducible refine awake_keeps ?_ ?_ | with_reducible apply State.msi_keeps | with_reducible apply State.onHost_keeps | with_reducible apply ite_keeps | split)
theorem execRingError_next {a0 a1 a2} (h : Keeps kb s0 s) : ∃ t, execRingError a0 a1 a2 s = .next t ∧ Keeps kb s0 t := by
  refine ⟨_, rfl, ?_⟩
  repeat' (first | with_reducible assumption | (extract_lets +onlyGivenNames x; refine @cut kb s0 x _ ?_ (fun hx => ?_); unfold x; clear x; rotate_left; clear_value x; rotate_right) | (extract_lets +onlyGivenNames x; clear_value x) | with_reducible refine awake_keeps ?_ ?_ | with_reducible apply cqError_keeps | with_reducible apply ite_keeps | split)
theorem execDmaError_next {a0 a1 a2} (h : Keeps kb s0 s) : ∃ t, execDmaError a0 a1 a2 s = .next t ∧ Keeps kb s0 t := by
  refine ⟨_, rfl, ?_⟩
  repeat' (first | with_reducible assumption | (extract_lets +onlyGivenNames x; refine @cut kb s0 x _ ?_ (fun hx => ?_); unfold x; clear x; rotate_left; clear_value x; rotate_right) | (extract_lets +onlyGivenNames x; clear_value x) | with_reducible refine awake_keeps ?_ ?_ | with_reducible apply ringDmaErr_keeps | with_reducible apply cqError_keeps | with_reducible apply dmaErr_keeps | with_reducible apply ite_keeps | split)
theorem execDescriptorFetch_next {a0 a1 a2} (h : Keeps kb s0 s) : ∃ t, execDescriptorFetch a0 a1 a2 s = .next t ∧ Keeps kb s0 t := by
  refine ⟨_, rfl, ?_⟩
  repeat' (first | with_reducible assumption | (extract_lets +onlyGivenNames x; refine @cut kb s0 x _ ?_ (fun hx => ?_); unfold x; clear x; rotate_left; clear_value x; rotate_right) | (extract_lets +onlyGivenNames x; clear_value x) | with_reducible refine awake_keeps ?_ ?_ | with_reducible apply descFetch_keeps | with_reducible apply ite_keeps | split)
theorem pbFetch_keeps {a0 a1 a2} (h : Keeps kb s0 s) : Keeps kb s0 (pbFetch a0 a1 a2 s) := by
  unfold pbFetch
  repeat' (first | with_reducible assumption | (extract_lets +onlyGivenNames x; refine @cut kb s0 x _ ?_ (fun hx => ?_); unfold x; clear x; rotate_left; clear_value x; rotate_right) | (extract_lets +onlyGivenNames x; clear_value x) | with_reducible apply headLost_keeps | with_reducible apply ringDmaErr_keeps | with_reducible apply State.onHost_keeps | with_reducible apply descSet_keeps | with_reducible apply descFlush_keeps | with_reducible apply writeBack_keeps | with_reducible apply ite_keeps | split)
theorem execPlaybackFetch_next {a0 a1 a2} (h : Keeps kb s0 s) : ∃ t, execPlaybackFetch a0 a1 a2 s = .next t ∧ Keeps kb s0 t := by
  refine ⟨_, rfl, ?_⟩
  repeat' (first | with_reducible assumption | (extract_lets +onlyGivenNames x; refine @cut kb s0 x _ ?_ (fun hx => ?_); unfold x; clear x; rotate_left; clear_value x; rotate_right) | (extract_lets +onlyGivenNames x; clear_value x) | with_reducible refine awake_keeps ?_ ?_ | with_reducible apply pbFetch_keeps | with_reducible apply ite_keeps | split)
theorem execCaptureWriteback_next {a0 a1} (h : Keeps kb s0 s) : ∃ t, execCaptureWriteback a0 a1 s = .next t ∧ Keeps kb s0 t := by
  refine ⟨_, rfl, ?_⟩
  repeat' (first | with_reducible assumption | (extract_lets +onlyGivenNames x; refine @cut kb s0 x _ ?_ (fun hx => ?_); unfold x; clear x; rotate_left; clear_value x; rotate_right) | (extract_lets +onlyGivenNames x; clear_value x) | with_reducible refine awake_keeps ?_ ?_ | with_reducible apply capWrite_keeps | with_reducible apply ite_keeps | split)
theorem execMsixMessage_next  (h : Keeps kb s0 s) : ∃ t, execMsixMessage s = .next t ∧ Keeps kb s0 t := by
  refine ⟨_, rfl, ?_⟩
  repeat' (first | with_reducible assumption | (extract_lets +onlyGivenNames x; refine @cut kb s0 x _ ?_ (fun hx => ?_); unfold x; clear x; rotate_left; clear_value x; rotate_right) | (extract_lets +onlyGivenNames x; clear_value x) | with_reducible refine awake_keeps ?_ ?_ | with_reducible apply State.onHost_keeps | with_reducible apply ite_keeps | split)
theorem execMsixUnmask_next {a0 a1} (h : Keeps kb s0 s) : ∃ t, execMsixUnmask a0 a1 s = .next t ∧ Keeps kb s0 t := by
  refine ⟨_, rfl, ?_⟩
  repeat' (first | with_reducible assumption | (extract_lets +onlyGivenNames x; refine @cut kb s0 x _ ?_ (fun hx => ?_); unfold x; clear x; rotate_left; clear_value x; rotate_right) | (extract_lets +onlyGivenNames x; clear_value x) | with_reducible refine awake_keeps ?_ ?_ | with_reducible apply State.onHost_keeps | with_reducible apply ite_keeps | split)
theorem execTenantCreate_next {a0 a1 a2 a3 a4 a5} (h : Keeps kb s0 s) : ∃ t, execTenantCreate a0 a1 a2 a3 a4 a5 s = .next t ∧ Keeps kb s0 t := by
  refine ⟨_, rfl, ?_⟩
  repeat' (first | with_reducible assumption | (extract_lets +onlyGivenNames x; refine @cut kb s0 x _ ?_ (fun hx => ?_); unfold x; clear x; rotate_left; clear_value x; rotate_right) | (extract_lets +onlyGivenNames x; clear_value x) | with_reducible refine runCmd_keeps (hb := fun _ _ _ => ?_) ?_ | with_reducible apply retIdx_keeps | with_reducible apply State.onHost_keeps | with_reducible exact no_keeps | with_reducible apply ite_keeps | split)
theorem reclaim_keeps {a0 a1 a2} (h : Keeps kb s0 s) : Keeps kb s0 (reclaim a0 a1 a2 s) := by
  unfold reclaim
  repeat' (first | with_reducible assumption | (extract_lets +onlyGivenNames x; refine @cut kb s0 x _ ?_ (fun hx => ?_); unfold x; clear x; rotate_left; clear_value x; rotate_right) | (extract_lets +onlyGivenNames x; clear_value x) | with_reducible apply editDiscard_keeps | with_reducible apply State.onHost_keeps | with_reducible apply ite_keeps | split)
theorem execTenantDestroy_next {a0 a1} (h : Keeps kb s0 s) : ∃ t, execTenantDestroy a0 a1 s = .next t ∧ Keeps kb s0 t := by
  refine ⟨_, rfl, ?_⟩
  repeat' (first | with_reducible assumption | (extract_lets +onlyGivenNames x; refine @cut kb s0 x _ ?_ (fun hx => ?_); unfold x; clear x; rotate_left; clear_value x; rotate_right) | (extract_lets +onlyGivenNames x; clear_value x) | with_reducible refine runCmd_keeps (hb := fun _ _ _ => ?_) ?_ | with_reducible apply keyRetire_keeps | with_reducible apply fnCancel_keeps | with_reducible apply fnStop_keeps | with_reducible apply retIdx_keeps | with_reducible apply reclaim_keeps | with_reducible apply State.wr_keeps | with_reducible apply ite_keeps | split)
theorem execQuotaSet_next {a0 a1 a2} (h : Keeps kb s0 s) : ∃ t, execQuotaSet a0 a1 a2 s = .next t ∧ Keeps kb s0 t := by
  refine ⟨_, rfl, ?_⟩
  repeat' (first | with_reducible assumption | (extract_lets +onlyGivenNames x; refine @cut kb s0 x _ ?_ (fun hx => ?_); unfold x; clear x; rotate_left; clear_value x; rotate_right) | (extract_lets +onlyGivenNames x; clear_value x) | with_reducible refine runCmd_keeps (hb := fun _ _ _ => ?_) ?_ | with_reducible apply done_keeps | with_reducible apply State.onHost_keeps | with_reducible exact no_keeps | with_reducible apply ite_keeps | split)
theorem execRevoke_next {a0 a1 a2} (h : Keeps kb s0 s) : ∃ t, execRevoke a0 a1 a2 s = .next t ∧ Keeps kb s0 t := by
  refine ⟨_, rfl, ?_⟩
  repeat' (first | with_reducible assumption | (extract_lets +onlyGivenNames x; refine @cut kb s0 x _ ?_ (fun hx => ?_); unfold x; clear x; rotate_left; clear_value x; rotate_right) | (extract_lets +onlyGivenNames x; clear_value x) | with_reducible refine runCmd_keeps (hb := fun _ _ _ => ?_) ?_ | with_reducible apply retIdx_keeps | with_reducible apply reclaim_keeps | with_reducible exact no_keeps | with_reducible apply ite_keeps | split)
theorem execTenantStatus_next {a0 a1} (h : Keeps kb s0 s) : ∃ t, execTenantStatus a0 a1 s = .next t ∧ Keeps kb s0 t := by
  refine ⟨_, rfl, ?_⟩
  repeat' (first | with_reducible assumption | (extract_lets +onlyGivenNames x; refine @cut kb s0 x _ ?_ (fun hx => ?_); unfold x; clear x; rotate_left; clear_value x; rotate_right) | (extract_lets +onlyGivenNames x; clear_value x) | with_reducible refine runCmd_keeps (hb := fun _ _ _ => ?_) ?_ | with_reducible apply ret_keeps | with_reducible exact no_keeps | with_reducible apply ite_keeps | split)
theorem execSigAssign_next {a0 a1 a2} (h : Keeps kb s0 s) : ∃ t, execSigAssign a0 a1 a2 s = .next t ∧ Keeps kb s0 t := by
  refine ⟨_, rfl, ?_⟩
  repeat' (first | with_reducible assumption | (extract_lets +onlyGivenNames x; refine @cut kb s0 x _ ?_ (fun hx => ?_); unfold x; clear x; rotate_left; clear_value x; rotate_right) | (extract_lets +onlyGivenNames x; clear_value x) | with_reducible refine runCmd_keeps (hb := fun _ _ _ => ?_) ?_ | with_reducible apply done_keeps | with_reducible apply State.onHost_keeps | with_reducible exact no_keeps | with_reducible apply ite_keeps | split)
theorem execSigReturn_next {a0 a1} (h : Keeps kb s0 s) : ∃ t, execSigReturn a0 a1 s = .next t ∧ Keeps kb s0 t := by
  refine ⟨_, rfl, ?_⟩
  repeat' (first | with_reducible assumption | (extract_lets +onlyGivenNames x; refine @cut kb s0 x _ ?_ (fun hx => ?_); unfold x; clear x; rotate_left; clear_value x; rotate_right) | (extract_lets +onlyGivenNames x; clear_value x) | with_reducible refine runCmd_keeps (hb := fun _ _ _ => ?_) ?_ | with_reducible apply retIdx_keeps | with_reducible apply reclaim_keeps | with_reducible exact no_keeps | with_reducible apply ite_keeps | split)
theorem execTenantResume_next {a0 a1} (h : Keeps kb s0 s) : ∃ t, execTenantResume a0 a1 s = .next t ∧ Keeps kb s0 t := by
  refine ⟨_, rfl, ?_⟩
  repeat' (first | with_reducible assumption | (extract_lets +onlyGivenNames x; refine @cut kb s0 x _ ?_ (fun hx => ?_); unfold x; clear x; rotate_left; clear_value x; rotate_right) | (extract_lets +onlyGivenNames x; clear_value x) | with_reducible refine runCmd_keeps (hb := fun _ _ _ => ?_) ?_ | with_reducible apply done_keeps | with_reducible apply State.onHost_keeps | with_reducible exact no_keeps | with_reducible apply ite_keeps | split)
theorem execHostchAssign_next {a0 a1 a2 a3} (h : Keeps kb s0 s) : ∃ t, execHostchAssign a0 a1 a2 a3 s = .next t ∧ Keeps kb s0 t := by
  refine ⟨_, rfl, ?_⟩
  repeat' (first | with_reducible assumption | (extract_lets +onlyGivenNames x; refine @cut kb s0 x _ ?_ (fun hx => ?_); unfold x; clear x; rotate_left; clear_value x; rotate_right) | (extract_lets +onlyGivenNames x; clear_value x) | with_reducible refine runCmd_keeps (hb := fun _ _ _ => ?_) ?_ | with_reducible apply done_keeps | with_reducible apply State.onHost_keeps | with_reducible exact no_keeps | with_reducible apply ite_keeps | split)
theorem execMisuseLogRead_next {a0 a1} (h : Keeps kb s0 s) : ∃ t, execMisuseLogRead a0 a1 s = .next t ∧ Keeps kb s0 t := by
  refine ⟨_, rfl, ?_⟩
  repeat' (first | with_reducible assumption | (extract_lets +onlyGivenNames x; refine @cut kb s0 x _ ?_ (fun hx => ?_); unfold x; clear x; rotate_left; clear_value x; rotate_right) | (extract_lets +onlyGivenNames x; clear_value x) | with_reducible refine runCmd_keeps (hb := fun _ _ _ => ?_) ?_ | with_reducible apply retL_keeps | with_reducible exact no_keeps | with_reducible apply ite_keeps | split)
theorem execTenantConfig_next {a0 a1 a2 a3 a4} (h : Keeps kb s0 s) : ∃ t, execTenantConfig a0 a1 a2 a3 a4 s = .next t ∧ Keeps kb s0 t := by
  refine ⟨_, rfl, ?_⟩
  repeat' (first | with_reducible assumption | (extract_lets +onlyGivenNames x; refine @cut kb s0 x _ ?_ (fun hx => ?_); unfold x; clear x; rotate_left; clear_value x; rotate_right) | (extract_lets +onlyGivenNames x; clear_value x) | with_reducible refine runCmd_keeps (hb := fun _ _ _ => ?_) ?_ | with_reducible apply done_keeps | with_reducible apply State.wr64_keeps | with_reducible apply State.wb_keeps | with_reducible exact no_keeps | with_reducible apply ite_keeps | split)
theorem execBufRegister_next {a0 a1 a2} (h : Keeps kb s0 s) : ∃ t, execBufRegister a0 a1 a2 s = .next t ∧ Keeps kb s0 t := by
  refine ⟨_, rfl, ?_⟩
  repeat' (first | with_reducible assumption | (extract_lets +onlyGivenNames x; refine @cut kb s0 x _ ?_ (fun hx => ?_); unfold x; clear x; rotate_left; clear_value x; rotate_right) | (extract_lets +onlyGivenNames x; clear_value x) | with_reducible refine runCmd_keeps (hb := fun _ _ _ => ?_) ?_ | with_reducible apply State.onHost_keeps | with_reducible apply bufPut_keeps | with_reducible apply bufUsed_keeps | with_reducible apply useTake_keeps | with_reducible exact no_keeps | with_reducible apply resOk_keeps | with_reducible apply ite_keeps | split)
theorem execBufRelease_next {a0 a1} (h : Keeps kb s0 s) : ∃ t, execBufRelease a0 a1 s = .next t ∧ Keeps kb s0 t := by
  refine ⟨_, rfl, ?_⟩
  repeat' (first | with_reducible assumption | (extract_lets +onlyGivenNames x; refine @cut kb s0 x _ ?_ (fun hx => ?_); unfold x; clear x; rotate_left; clear_value x; rotate_right) | (extract_lets +onlyGivenNames x; clear_value x) | with_reducible refine runCmd_keeps (hb := fun _ _ _ => ?_) ?_ | with_reducible apply complete_keeps | with_reducible apply logMisuse_keeps | with_reducible apply done_keeps | with_reducible apply bufUsed_keeps | with_reducible apply useGive_keeps | with_reducible apply bufPut_keeps | with_reducible apply resLater_keeps | with_reducible apply ite_keeps | split)
theorem execBufQuery_next {a0 a1} (h : Keeps kb s0 s) : ∃ t, execBufQuery a0 a1 s = .next t ∧ Keeps kb s0 t := by
  refine ⟨_, rfl, ?_⟩
  repeat' (first | with_reducible assumption | (extract_lets +onlyGivenNames x; refine @cut kb s0 x _ ?_ (fun hx => ?_); unfold x; clear x; rotate_left; clear_value x; rotate_right) | (extract_lets +onlyGivenNames x; clear_value x) | with_reducible refine runCmd_keeps (hb := fun _ _ _ => ?_) ?_ | with_reducible apply retL_keeps | with_reducible exact no_keeps | with_reducible apply ite_keeps | split)
theorem execRingConfig_next {a0 a1 a2 a3} (h : Keeps kb s0 s) : ∃ t, execRingConfig a0 a1 a2 a3 s = .next t ∧ Keeps kb s0 t := by
  refine ⟨_, rfl, ?_⟩
  repeat' (first | with_reducible assumption | (extract_lets +onlyGivenNames x; refine @cut kb s0 x _ ?_ (fun hx => ?_); unfold x; clear x; rotate_left; clear_value x; rotate_right) | (extract_lets +onlyGivenNames x; clear_value x) | with_reducible refine runCmd_keeps (hb := fun _ _ _ => ?_) ?_ | with_reducible refine State.each_keeps ?_ (fun _ _ _ => ?_) | with_reducible apply ringReg_keeps | with_reducible apply State.writeRW_keeps | with_reducible apply maskHold_keeps | with_reducible apply done_keeps | with_reducible apply ringCtl_keeps | with_reducible exact no_keeps | with_reducible apply ite_keeps | split)
theorem execRingStatus_next {a0 a1} (h : Keeps kb s0 s) : ∃ t, execRingStatus a0 a1 s = .next t ∧ Keeps kb s0 t := by
  refine ⟨_, rfl, ?_⟩
  repeat' (first | with_reducible assumption | (extract_lets +onlyGivenNames x; refine @cut kb s0 x _ ?_ (fun hx => ?_); unfold x; clear x; rotate_left; clear_value x; rotate_right) | (extract_lets +onlyGivenNames x; clear_value x) | with_reducible refine runCmd_keeps (hb := fun _ _ _ => ?_) ?_ | with_reducible apply retL_keeps | with_reducible exact no_keeps | with_reducible apply ite_keeps | split)
theorem execCapchSet_next {a0 a1} (h : Keeps kb s0 s) : ∃ t, execCapchSet a0 a1 s = .next t ∧ Keeps kb s0 t := by
  refine ⟨_, rfl, ?_⟩
  repeat' (first | with_reducible assumption | (extract_lets +onlyGivenNames x; refine @cut kb s0 x _ ?_ (fun hx => ?_); unfold x; clear x; rotate_left; clear_value x; rotate_right) | (extract_lets +onlyGivenNames x; clear_value x) | with_reducible refine runCmd_keeps (hb := fun _ _ _ => ?_) ?_ | with_reducible apply done_keeps | with_reducible apply State.onHeld_keeps | with_reducible exact no_keeps | with_reducible apply ite_keeps | split)
theorem execRxfilterSet_next {a0 a1 a2} (h : Keeps kb s0 s) : ∃ t, execRxfilterSet a0 a1 a2 s = .next t ∧ Keeps kb s0 t := by
  refine ⟨_, rfl, ?_⟩
  repeat' (first | with_reducible assumption | (extract_lets +onlyGivenNames x; refine @cut kb s0 x _ ?_ (fun hx => ?_); unfold x; clear x; rotate_left; clear_value x; rotate_right) | (extract_lets +onlyGivenNames x; clear_value x) | with_reducible refine runCmd_keeps (hb := fun _ _ _ => ?_) ?_ | with_reducible apply done_keeps | with_reducible apply filterPut_keeps | with_reducible exact no_keeps | with_reducible apply ite_keeps | split)
theorem execRxfilterClear_next {a0 a1} (h : Keeps kb s0 s) : ∃ t, execRxfilterClear a0 a1 s = .next t ∧ Keeps kb s0 t := by
  refine ⟨_, rfl, ?_⟩
  repeat' (first | with_reducible assumption | (extract_lets +onlyGivenNames x; refine @cut kb s0 x _ ?_ (fun hx => ?_); unfold x; clear x; rotate_left; clear_value x; rotate_right) | (extract_lets +onlyGivenNames x; clear_value x) | with_reducible refine runCmd_keeps (hb := fun _ _ _ => ?_) ?_ | with_reducible apply done_keeps | with_reducible apply filterPut_keeps | with_reducible exact no_keeps | with_reducible apply ite_keeps | split)
theorem execSqTail_next {a0 a1 a2} (h : Keeps kb s0 s) : ∃ t, execSqTail a0 a1 a2 s = .next t ∧ Keeps kb s0 t := by
  refine ⟨_, rfl, ?_⟩
  repeat' (first | with_reducible assumption | (extract_lets +onlyGivenNames x; refine @cut kb s0 x _ ?_ (fun hx => ?_); unfold x; clear x; rotate_left; clear_value x; rotate_right) | (extract_lets +onlyGivenNames x; clear_value x) | with_reducible refine awake_keeps ?_ ?_ | with_reducible apply cqError_keeps | with_reducible apply State.onHost_keeps | with_reducible apply ite_keeps | split)
theorem execCqHead_next {a0 a1 a2} (h : Keeps kb s0 s) : ∃ t, execCqHead a0 a1 a2 s = .next t ∧ Keeps kb s0 t := by
  refine ⟨_, rfl, ?_⟩
  repeat' (first | with_reducible assumption | (extract_lets +onlyGivenNames x; refine @cut kb s0 x _ ?_ (fun hx => ?_); unfold x; clear x; rotate_left; clear_value x; rotate_right) | (extract_lets +onlyGivenNames x; clear_value x) | with_reducible refine awake_keeps ?_ ?_ | with_reducible apply cqError_keeps | with_reducible apply State.onHost_keeps | with_reducible apply ite_keeps | split)
theorem execDmaTail_next {a0 a1 a2} (h : Keeps kb s0 s) : ∃ t, execDmaTail a0 a1 a2 s = .next t ∧ Keeps kb s0 t := by
  refine ⟨_, rfl, ?_⟩
  repeat' (first | with_reducible assumption | (extract_lets +onlyGivenNames x; refine @cut kb s0 x _ ?_ (fun hx => ?_); unfold x; clear x; rotate_left; clear_value x; rotate_right) | (extract_lets +onlyGivenNames x; clear_value x) | with_reducible refine awake_keeps ?_ ?_ | with_reducible apply State.onHost_keeps | with_reducible apply ite_keeps | split)
theorem execCqEnable_next {a0 a1 a2} (h : Keeps kb s0 s) : ∃ t, execCqEnable a0 a1 a2 s = .next t ∧ Keeps kb s0 t := by
  refine ⟨_, rfl, ?_⟩
  repeat' (first | with_reducible assumption | (extract_lets +onlyGivenNames x; refine @cut kb s0 x _ ?_ (fun hx => ?_); unfold x; clear x; rotate_left; clear_value x; rotate_right) | (extract_lets +onlyGivenNames x; clear_value x) | with_reducible refine awake_keeps ?_ ?_ | with_reducible apply cqCtl_keeps | with_reducible apply ite_keeps | split)
theorem execRingEnable_next {a0 a1 a2} (h : Keeps kb s0 s) : ∃ t, execRingEnable a0 a1 a2 s = .next t ∧ Keeps kb s0 t := by
  refine ⟨_, rfl, ?_⟩
  repeat' (first | with_reducible assumption | (extract_lets +onlyGivenNames x; refine @cut kb s0 x _ ?_ (fun hx => ?_); unfold x; clear x; rotate_left; clear_value x; rotate_right) | (extract_lets +onlyGivenNames x; clear_value x) | with_reducible refine awake_keeps ?_ ?_ | with_reducible apply ringCtl_keeps | with_reducible apply ite_keeps | split)
theorem execMaskWrite_next {a0 a1 a2 a3 a4} (h : Keeps kb s0 s) : ∃ t, execMaskWrite a0 a1 a2 a3 a4 s = .next t ∧ Keeps kb s0 t := by
  refine ⟨_, rfl, ?_⟩
  repeat' (first | with_reducible assumption | (extract_lets +onlyGivenNames x; refine @cut kb s0 x _ ?_ (fun hx => ?_); unfold x; clear x; rotate_left; clear_value x; rotate_right) | (extract_lets +onlyGivenNames x; clear_value x) | with_reducible refine awake_keeps ?_ ?_ | with_reducible apply maskWrite_keeps | with_reducible apply ite_keeps | split)

end Sys2Proof.Machine
end

