-- ==== Sys2Proof/Laws/KeepsPortOps.lean ====
section
/-!
SUPPORT. Every operation of Machine/PortOps.lean keeps what `Keeps` says.
-/
namespace Sys2Proof.Machine
set_option linter.all false
variable {kb : Prop} {s0 s : State}

theorem audioLeft_keeps {a0 a1 a2 a3} (h : Keeps kb s0 s) : Keeps kb s0 (audioLeft a0 a1 a2 a3 s) := by
  unfold audioLeft
  repeat' (first | with_reducible assumption | (extract_lets +onlyGivenNames x; refine @cut kb s0 x _ ?_ (fun hx => ?_); unfold x; clear x; rotate_left; clear_value x; rotate_right) | (extract_lets +onlyGivenNames x; clear_value x) | with_reducible apply txCnt_keeps | with_reducible apply State.ww_keeps | with_reducible apply ite_keeps | split)
theorem portCtlWrite_keeps {a0 a1 a2} (h : Keeps kb s0 s) : Keeps kb s0 (portCtlWrite a0 a1 a2 s) := by
  unfold portCtlWrite
  repeat' (first | with_reducible assumption | (extract_lets +onlyGivenNames x; refine @cut kb s0 x _ ?_ (fun hx => ?_); unfold x; clear x; rotate_left; clear_value x; rotate_right) | (extract_lets +onlyGivenNames x; clear_value x) | with_reducible apply State.writeWord_keeps | with_reducible apply State.raise_keeps | with_reducible apply State.wb_keeps | with_reducible apply ite_keeps | split)
theorem lostFrame_keeps {a0 a2} (h : Keeps kb s0 s) : Keeps kb s0 (lostFrame a0 s a2) := by
  unfold lostFrame
  repeat' (first | with_reducible assumption | (extract_lets +onlyGivenNames x; refine @cut kb s0 x _ ?_ (fun hx => ?_); unfold x; clear x; rotate_left; clear_value x; rotate_right) | (extract_lets +onlyGivenNames x; clear_value x) | with_reducible apply txDrop_keeps | with_reducible apply txCnt_keeps | with_reducible apply ite_keeps | split)
theorem linkFall_keeps {a0} (h : Keeps kb s0 s) : Keeps kb s0 (linkFall a0 s) := by
  unfold linkFall
  repeat' (first | with_reducible assumption | (extract_lets +onlyGivenNames x; refine @cut kb s0 x _ ?_ (fun hx => ?_); unfold x; clear x; rotate_left; clear_value x; rotate_right) | (extract_lets +onlyGivenNames x; refine @cut1 kb _ s0 x _ ?_ (fun hx => ?_); unfold x; clear x; rotate_left; clear_value x; rotate_right) | (extract_lets +onlyGivenNames x; refine @cut2 kb _ s0 x _ ?_ (fun hx => ?_); unfold x; clear x; rotate_left; clear_value x; rotate_right) | (extract_lets +onlyGivenNames x; clear_value x) | with_reducible apply State.onNet_keeps | with_reducible apply State.raise_keeps | with_reducible apply State.cnt_keeps | with_reducible apply State.wb_keeps | with_reducible refine txFlush_keeps ?_ (by assumption) | with_reducible apply txFlush_keeps2 | with_reducible refine State.each_keeps ?_ (fun _ _ _ => ?_) | with_reducible apply lostFrame_keeps | with_reducible apply ite_keeps | with_reducible apply txFlush_keeps' | split | with_reducible apply mk1_keeps | with_reducible apply mk2_keeps)
theorem portApply_keeps {a1} (h : Keeps kb s0 s) : Keeps kb s0 (portApply s a1) := by
  unfold portApply
  repeat' (first | with_reducible assumption | (extract_lets +onlyGivenNames x; refine @cut kb s0 x _ ?_ (fun hx => ?_); unfold x; clear x; rotate_left; clear_value x; rotate_right) | (extract_lets +onlyGivenNames x; clear_value x) | with_reducible apply State.applyHeld_keeps | with_reducible apply linkFall_keeps | with_reducible apply ite_keeps | split)
theorem latFix_keeps {a1} (h : Keeps kb s0 s) : Keeps kb s0 (latFix s a1) := by
  unfold latFix
  repeat' (first | with_reducible assumption | (extract_lets +onlyGivenNames x; refine @cut kb s0 x _ ?_ (fun hx => ?_); unfold x; clear x; rotate_left; clear_value x; rotate_right) | (extract_lets +onlyGivenNames x; clear_value x) | with_reducible apply State.ww_keeps | with_reducible apply ite_keeps | split)
theorem linkShow_keeps {a0 a1 a2} (h : Keeps kb s0 s) : Keeps kb s0 (linkShow a0 a1 a2 s) := by
  unfold linkShow
  repeat' (first | with_reducible assumption | (extract_lets +onlyGivenNames x; refine @cut kb s0 x _ ?_ (fun hx => ?_); unfold x; clear x; rotate_left; clear_value x; rotate_right) | (extract_lets +onlyGivenNames x; clear_value x) | with_reducible apply State.wb_keeps | with_reducible apply ite_keeps | split)
theorem linkRise_keeps {a1} (h : Keeps kb s0 s) : Keeps kb s0 (linkRise s a1) := by
  unfold linkRise
  repeat' (first | with_reducible assumption | (extract_lets +onlyGivenNames x; refine @cut kb s0 x _ ?_ (fun hx => ?_); unfold x; clear x; rotate_left; clear_value x; rotate_right) | (extract_lets +onlyGivenNames x; clear_value x) | with_reducible apply linkShow_keeps | with_reducible apply State.raise_keeps | with_reducible apply State.wb_keeps | with_reducible apply dadStart_keeps | with_reducible apply ite_keeps | split)
theorem portTick_keeps {a0} (h : Keeps kb s0 s) : Keeps kb s0 (portTick a0 s) := by
  unfold portTick
  repeat' (first | with_reducible assumption | (extract_lets +onlyGivenNames x; refine @cut kb s0 x _ ?_ (fun hx => ?_); unfold x; clear x; rotate_left; clear_value x; rotate_right) | (extract_lets +onlyGivenNames x; clear_value x) | with_reducible refine State.applyDue_keeps (hk := fun _ _ _ => ?_) ?_ | with_reducible apply portApply_keeps | with_reducible refine State.each_keeps ?_ (fun _ _ _ => ?_) | with_reducible apply latFix_keeps | with_reducible apply linkRise_keeps | with_reducible apply gclTick_keeps | with_reducible apply ite_keeps | split)
theorem linkStep_keeps  (h : Keeps kb s0 s) : Keeps kb s0 (linkStep s) := by
  unfold linkStep
  repeat' (first | with_reducible assumption | (extract_lets +onlyGivenNames x; refine @cut kb s0 x _ ?_ (fun hx => ?_); unfold x; clear x; rotate_left; clear_value x; rotate_right) | (extract_lets +onlyGivenNames x; clear_value x) | with_reducible refine State.each_keeps ?_ (fun _ _ _ => ?_) | with_reducible apply linkFall_keeps | with_reducible apply txSettle_keeps | with_reducible apply ite_keeps | split)
theorem tpllShow_keeps {a0 a1} (h : Keeps kb s0 s) : Keeps kb s0 (tpllShow a0 a1 s) := by
  unfold tpllShow
  repeat' (first | with_reducible assumption | (extract_lets +onlyGivenNames x; refine @cut kb s0 x _ ?_ (fun hx => ?_); unfold x; clear x; rotate_left; clear_value x; rotate_right) | (extract_lets +onlyGivenNames x; refine @cut1 kb _ s0 x _ ?_ (fun hx => ?_); unfold x; clear x; rotate_left; clear_value x; rotate_right) | (extract_lets +onlyGivenNames x; refine @cut2 kb _ s0 x _ ?_ (fun hx => ?_); unfold x; clear x; rotate_left; clear_value x; rotate_right) | (extract_lets +onlyGivenNames x; clear_value x) | with_reducible apply State.wb_keeps | with_reducible refine State.freshI_keeps ?_ (by assumption) | with_reducible apply State.freshI_keeps2 | with_reducible apply State.onRef_keeps | with_reducible apply mediaMove_keeps | with_reducible apply ite_keeps | with_reducible apply State.freshI_keeps' | split | with_reducible apply mk1_keeps | with_reducible apply mk2_keeps)
theorem stampsVoid_keeps {a0} (h : Keeps kb s0 s) : Keeps kb s0 (stampsVoid a0 s) := by
  unfold stampsVoid
  repeat' (first | with_reducible assumption | (extract_lets +onlyGivenNames x; refine @cut kb s0 x _ ?_ (fun hx => ?_); unfold x; clear x; rotate_left; clear_value x; rotate_right) | (extract_lets +onlyGivenNames x; clear_value x) | with_reducible apply State.onNet_keeps | with_reducible apply ite_keeps | split)
theorem linkFail_keeps {a0} (h : Keeps kb s0 s) : Keeps kb s0 (linkFail a0 s) := by
  unfold linkFail
  repeat' (first | with_reducible assumption | (extract_lets +onlyGivenNames x; refine @cut kb s0 x _ ?_ (fun hx => ?_); unfold x; clear x; rotate_left; clear_value x; rotate_right) | (extract_lets +onlyGivenNames x; clear_value x) | with_reducible apply State.onNet_keeps | with_reducible apply ite_keeps | split)
theorem tpllLoss_keeps {a0} (h : Keeps kb s0 s) : Keeps kb s0 (tpllLoss a0 s) := by
  unfold tpllLoss
  repeat' (first | with_reducible assumption | (extract_lets +onlyGivenNames x; refine @cut kb s0 x _ ?_ (fun hx => ?_); unfold x; clear x; rotate_left; clear_value x; rotate_right) | (extract_lets +onlyGivenNames x; clear_value x) | with_reducible apply tpllShow_keeps | with_reducible apply State.cnt_keeps | with_reducible apply State.err_keeps | with_reducible apply State.raise_keeps | with_reducible refine State.each_keeps ?_ (fun _ _ _ => ?_) | with_reducible apply stampsVoid_keeps | with_reducible apply linkFail_keeps | with_reducible apply linkShow_keeps | with_reducible apply linksFail_keeps | with_reducible apply ite_keeps | split)
theorem execTpllLoss_next {a0} (h : Keeps kb s0 s) : ∃ t, execTpllLoss a0 s = .next t ∧ Keeps kb s0 t := by
  refine ⟨_, rfl, ?_⟩
  repeat' (first | with_reducible assumption | (extract_lets +onlyGivenNames x; refine @cut kb s0 x _ ?_ (fun hx => ?_); unfold x; clear x; rotate_left; clear_value x; rotate_right) | (extract_lets +onlyGivenNames x; clear_value x) | with_reducible apply tpllLoss_keeps | with_reducible apply ite_keeps | split)
theorem execTpllRelock_next {a0} (h : Keeps kb s0 s) : ∃ t, execTpllRelock a0 s = .next t ∧ Keeps kb s0 t := by
  refine ⟨_, rfl, ?_⟩
  repeat' (first | with_reducible assumption | (extract_lets +onlyGivenNames x; refine @cut kb s0 x _ ?_ (fun hx => ?_); unfold x; clear x; rotate_left; clear_value x; rotate_right) | (extract_lets +onlyGivenNames x; clear_value x) | with_reducible apply tpllShow_keeps | with_reducible apply ite_keeps | split)
theorem execLinkDown_next {a0 a1 a2} (h : Keeps kb s0 s) : ∃ t, execLinkDown a0 a1 a2 s = .next t ∧ Keeps kb s0 t := by
  refine ⟨_, rfl, ?_⟩
  repeat' (first | with_reducible assumption | (extract_lets +onlyGivenNames x; refine @cut kb s0 x _ ?_ (fun hx => ?_); unfold x; clear x; rotate_left; clear_value x; rotate_right) | (extract_lets +onlyGivenNames x; clear_value x) | with_reducible refine awake_keeps ?_ ?_ | with_reducible apply linkFail_keeps | with_reducible apply linkShow_keeps | with_reducible apply ite_keeps | split)
theorem qsfpSeen_keeps {a0 a1} (h : Keeps kb s0 s) : Keeps kb s0 (qsfpSeen a0 a1 s) := by
  unfold qsfpSeen
  repeat' (first | with_reducible assumption | (extract_lets +onlyGivenNames x; refine @cut kb s0 x _ ?_ (fun hx => ?_); unfold x; clear x; rotate_left; clear_value x; rotate_right) | (extract_lets +onlyGivenNames x; clear_value x) | with_reducible apply State.raise_keeps | with_reducible apply State.wb_keeps | with_reducible apply ite_keeps | split)
theorem qsfpRead_keeps {a0 a1} (h : Keeps kb s0 s) : Keeps kb s0 (qsfpRead a0 a1 s) := by
  unfold qsfpRead
  repeat' (first | with_reducible assumption | (extract_lets +onlyGivenNames x; refine @cut kb s0 x _ ?_ (fun hx => ?_); unfold x; clear x; rotate_left; clear_value x; rotate_right) | (extract_lets +onlyGivenNames x; clear_value x) | with_reducible apply modSelect_keeps | with_reducible apply State.wr_keeps | with_reducible apply State.onNet_keeps | with_reducible apply State.wb_keeps | with_reducible apply ite_keeps | split)
theorem qsfpGone_keeps {a0} (h : Keeps kb s0 s) : Keeps kb s0 (qsfpGone a0 s) := by
  unfold qsfpGone
  repeat' (first | with_reducible assumption | (extract_lets +onlyGivenNames x; refine @cut kb s0 x _ ?_ (fun hx => ?_); unfold x; clear x; rotate_left; clear_value x; rotate_right) | (extract_lets +onlyGivenNames x; clear_value x) | with_reducible apply State.ww_keeps | with_reducible apply linkFail_keeps | with_reducible apply State.onNet_keeps | with_reducible apply ite_keeps | split)
theorem execQsfpInsertRemove_next {a0 a1} (h : Keeps kb s0 s) : ∃ t, execQsfpInsertRemove a0 a1 s = .next t ∧ Keeps kb s0 t := by
  refine ⟨_, rfl, ?_⟩
  repeat' (first | with_reducible assumption | (extract_lets +onlyGivenNames x; refine @cut kb s0 x _ ?_ (fun hx => ?_); unfold x; clear x; rotate_left; clear_value x; rotate_right) | (extract_lets +onlyGivenNames x; clear_value x) | with_reducible refine awake_keeps ?_ ?_ | with_reducible apply qsfpSeen_keeps | with_reducible apply qsfpRead_keeps | with_reducible apply qsfpGone_keeps | with_reducible apply ite_keeps | split)
theorem frameStart_keeps {a0 a1 a2} (h : Keeps kb s0 s) : Keeps kb s0 (frameStart a0 a1 a2 s) := by
  unfold frameStart
  repeat' (first | with_reducible assumption | (extract_lets +onlyGivenNames x; refine @cut kb s0 x _ ?_ (fun hx => ?_); unfold x; clear x; rotate_left; clear_value x; rotate_right) | (extract_lets +onlyGivenNames x; refine @cut1 kb _ s0 x _ ?_ (fun hx => ?_); unfold x; clear x; rotate_left; clear_value x; rotate_right) | (extract_lets +onlyGivenNames x; refine @cut2 kb _ s0 x _ ?_ (fun hx => ?_); unfold x; clear x; rotate_left; clear_value x; rotate_right) | (extract_lets +onlyGivenNames x; clear_value x) | with_reducible refine txTry_keeps ?_ (by assumption) | with_reducible apply txTry_keeps2 | with_reducible apply audioLeft_keeps | with_reducible apply ite_keeps | with_reducible apply txTry_keeps' | split | with_reducible apply mk1_keeps | with_reducible apply mk2_keeps)
theorem execFrameTransmit_next {a0 a1} (h : Keeps kb s0 s) : ∃ t, execFrameTransmit a0 a1 s = .next t ∧ Keeps kb s0 t := by
  refine ⟨_, rfl, ?_⟩
  repeat' (first | with_reducible assumption | (extract_lets +onlyGivenNames x; refine @cut kb s0 x _ ?_ (fun hx => ?_); unfold x; clear x; rotate_left; clear_value x; rotate_right) | (extract_lets +onlyGivenNames x; clear_value x) | with_reducible refine awake_keeps ?_ ?_ | with_reducible apply frameStart_keeps | with_reducible apply ite_keeps | split)
theorem execGateEntryChange_next {a0 a1} (h : Keeps kb s0 s) : ∃ t, execGateEntryChange a0 a1 s = .next t ∧ Keeps kb s0 t := by
  refine ⟨_, rfl, ?_⟩
  repeat' (first | with_reducible assumption | (extract_lets +onlyGivenNames x; refine @cut kb s0 x _ ?_ (fun hx => ?_); unfold x; clear x; rotate_left; clear_value x; rotate_right) | (extract_lets +onlyGivenNames x; clear_value x) | with_reducible refine awake_keeps ?_ ?_ | with_reducible apply frameStart_keeps | with_reducible apply ite_keeps | split)

end Sys2Proof.Machine
end

