-- ==== Sys2Proof/Laws/KeepsFrame.lean ====
section
/-!
SUPPORT. Every operation of Machine/Frame.lean keeps what `Keeps` says.
-/
namespace Sys2Proof.Machine
set_option linter.all false
variable {kb : Prop} {s0 s : State}

theorem neighLearn_keeps {a0 a1 a2} (h : Keeps kb s0 s) : Keeps kb s0 (neighLearn a0 a1 a2 s) := by
  unfold neighLearn
  repeat' (first | with_reducible assumption | (extract_lets +onlyGivenNames x; refine @cut kb s0 x _ ?_ (fun hx => ?_); unfold x; clear x; rotate_left; clear_value x; rotate_right) | (extract_lets +onlyGivenNames x; clear_value x) | with_reducible apply State.onNet_keeps | with_reducible apply ite_keeps | split)
theorem arpReceive_keeps {a0 a1} (h : Keeps kb s0 s) : Keeps kb s0 (arpReceive a0 a1 s) := by
  unfold arpReceive
  repeat' (first | with_reducible assumption | (extract_lets +onlyGivenNames x; refine @cut kb s0 x _ ?_ (fun hx => ?_); unfold x; clear x; rotate_left; clear_value x; rotate_right) | (extract_lets +onlyGivenNames x; clear_value x) | with_reducible apply neighLearn_keeps | with_reducible apply txMgmt_keeps | with_reducible apply ite_keeps | split)
theorem cntPair_keeps {a0 a1 a2 a3} (h : Keeps kb s0 s) : Keeps kb s0 (cntPair a0 a1 a2 a3 s) := by
  unfold cntPair
  repeat' (first | with_reducible assumption | (extract_lets +onlyGivenNames x; refine @cut kb s0 x _ ?_ (fun hx => ?_); unfold x; clear x; rotate_left; clear_value x; rotate_right) | (extract_lets +onlyGivenNames x; clear_value x) | with_reducible apply State.wr64_keeps | with_reducible apply ite_keeps | split)
theorem ndReceive_keeps {a0 a1} (h : Keeps kb s0 s) : Keeps kb s0 (ndReceive a0 a1 s) := by
  unfold ndReceive
  repeat' (first | with_reducible assumption | (extract_lets +onlyGivenNames x; refine @cut kb s0 x _ ?_ (fun hx => ?_); unfold x; clear x; rotate_left; clear_value x; rotate_right) | (extract_lets +onlyGivenNames x; clear_value x) | with_reducible apply dadHit_keeps | with_reducible apply neighLearn_keeps | with_reducible apply txMgmt_keeps | with_reducible apply ite_keeps | split)
theorem udpCommand_keeps {a0 a1} (h : Keeps kb s0 s) : Keeps kb s0 (udpCommand a0 a1 s) := by
  unfold udpCommand
  repeat' (first | with_reducible assumption | (extract_lets +onlyGivenNames x; refine @cut kb s0 x _ ?_ (fun hx => ?_); unfold x; clear x; rotate_left; clear_value x; rotate_right) | (extract_lets +onlyGivenNames x; clear_value x) | with_reducible apply State.cntr_keeps | with_reducible apply txMgmt_keeps | with_reducible apply State.onCmd_keeps | with_reducible apply complete_keeps | with_reducible apply ite_keeps | split)
theorem umoeReceive_keeps {a0 a1 a2} (h : Keeps kb s0 s) : Keeps kb s0 (umoeReceive a0 a1 a2 s) := by
  unfold umoeReceive
  repeat' (first | with_reducible assumption | (extract_lets +onlyGivenNames x; refine @cut kb s0 x _ ?_ (fun hx => ?_); unfold x; clear x; rotate_left; clear_value x; rotate_right) | (extract_lets +onlyGivenNames x; clear_value x) | with_reducible apply mgmtCell_keeps | with_reducible apply ite_keeps | split)
theorem mgmtReceive_keeps {a0 a1 a2 a3 a4 a5} (h : Keeps kb s0 s) : Keeps kb s0 (mgmtReceive a0 a1 a2 a3 a4 a5 s) := by
  unfold mgmtReceive
  repeat' (first | with_reducible assumption | (extract_lets +onlyGivenNames x; refine @cut kb s0 x _ ?_ (fun hx => ?_); unfold x; clear x; rotate_left; clear_value x; rotate_right) | (extract_lets +onlyGivenNames x; clear_value x) | with_reducible apply arpReceive_keeps | with_reducible apply queryReceive_keeps | with_reducible apply ndReceive_keeps | with_reducible apply udpCommand_keeps | with_reducible apply sapReceive_keeps | with_reducible apply umoeReceive_keeps | with_reducible apply ite_keeps | split)
theorem rxDeliver_keeps {a0 a1 a2} (h : Keeps kb s0 s) : Keeps kb s0 (rxDeliver a0 a1 a2 s) := by
  unfold rxDeliver
  extract_lets +onlyGivenNames f
  have hf : ∀ r, Keeps kb s0 (f r) := fun r => ite_keeps h (State.cntr_keeps h)
  clear_value f
  repeat' (first | with_reducible assumption | exact hf _ | with_reducible apply ptpMessage_keeps | with_reducible apply rxArrive_keeps | with_reducible apply mgmtReceive_keeps | with_reducible apply netRx_keeps | with_reducible apply ite_keeps | split)
theorem frameJudge_keeps {a0 a1} (h : Keeps kb s0 s) : Keeps kb s0 (frameJudge a0 a1 s) := by
  unfold frameJudge
  repeat' (first | with_reducible assumption | (extract_lets +onlyGivenNames x; refine @cut kb s0 x _ ?_ (fun hx => ?_); unfold x; clear x; rotate_left; clear_value x; rotate_right) | (extract_lets +onlyGivenNames x; clear_value x) | with_reducible apply State.cntr_keeps | with_reducible apply cntPair_keeps | with_reducible apply rxDeliver_keeps | with_reducible apply ite_keeps | split)
theorem fifoRun_keeps' {a0 a1 a2} (h : Keeps kb s0 s) : Keeps3 kb s0 (fifoRun a0 a1 a2 s) := by
  induction a2 generalizing s a1 with
  | nil => unfold fifoRun; exact h
  | cons w t ih =>
    unfold fifoRun
    split
    · split
      · exact h
      · exact ih (frameJudge_keeps h)
    · exact ih (frameJudge_keeps h)
theorem fifoRun_keeps2 {a0 a1 a2} (h : Keeps kb s0 s) : Keeps kb s0 (fifoRun a0 a1 a2 s).2.2 := fifoRun_keeps' h
theorem fifoRun_keeps {a0 a1 a2} {v0 v1 t} (h : Keeps kb s0 s) (e : fifoRun a0 a1 a2 s = (v0, v1, t)) : Keeps kb s0 t := by
  have k : Keeps3 kb s0 (fifoRun a0 a1 a2 s) := fifoRun_keeps' h; rw [e] at k; exact k
theorem fifoFlow_keeps' {a0 a1 a2} (h : Keeps kb s0 s) : Keeps2 kb s0 (fifoFlow a0 a1 a2 s) := by
  unfold fifoFlow
  repeat' (first | with_reducible assumption | (extract_lets +onlyGivenNames x; refine @cut kb s0 x _ ?_ (fun hx => ?_); unfold x; clear x; rotate_left; clear_value x; rotate_right) | (extract_lets +onlyGivenNames x; refine @cut1 kb _ s0 x _ ?_ (fun hx => ?_); unfold x; clear x; rotate_left; clear_value x; rotate_right) | (extract_lets +onlyGivenNames x; refine @cut2 kb _ s0 x _ ?_ (fun hx => ?_); unfold x; clear x; rotate_left; clear_value x; rotate_right) | (extract_lets +onlyGivenNames x; refine @cut3 kb _ _ s0 x _ ?_ (fun hx => ?_); unfold x; clear x; rotate_left; clear_value x; rotate_right) | (extract_lets +onlyGivenNames x; clear_value x) | with_reducible refine fifoRun_keeps ?_ (by assumption) | with_reducible apply fifoRun_keeps2 | with_reducible apply State.onNet_keeps | with_reducible apply fifoRun_keeps' | split | with_reducible apply mk2_keeps)
theorem fifoFlow_keeps2 {a0 a1 a2} (h : Keeps kb s0 s) : Keeps kb s0 (fifoFlow a0 a1 a2 s).2 := fifoFlow_keeps' h
theorem fifoFlow_keeps {a0 a1 a2} {v0 t} (h : Keeps kb s0 s) (e : fifoFlow a0 a1 a2 s = (v0, t)) : Keeps kb s0 t := by
  have k : Keeps2 kb s0 (fifoFlow a0 a1 a2 s) := fifoFlow_keeps' h; rw [e] at k; exact k
theorem fifoTick_keeps {a1} (h : Keeps kb s0 s) : Keeps kb s0 (fifoTick s a1) := by
  unfold fifoTick
  repeat' (first | with_reducible assumption | (extract_lets +onlyGivenNames x; refine @cut kb s0 x _ ?_ (fun hx => ?_); unfold x; clear x; rotate_left; clear_value x; rotate_right) | (extract_lets +onlyGivenNames x; refine @cut1 kb _ s0 x _ ?_ (fun hx => ?_); unfold x; clear x; rotate_left; clear_value x; rotate_right) | (extract_lets +onlyGivenNames x; refine @cut2 kb _ s0 x _ ?_ (fun hx => ?_); unfold x; clear x; rotate_left; clear_value x; rotate_right) | (extract_lets +onlyGivenNames x; clear_value x) | with_reducible refine fifoFlow_keeps ?_ (by assumption) | with_reducible apply fifoFlow_keeps2 | with_reducible refine State.fresh_keeps ?_ (by assumption) | with_reducible apply State.fresh_keeps2 | with_reducible apply ite_keeps | with_reducible apply fifoFlow_keeps' | with_reducible apply State.fresh_keeps' | split | with_reducible apply mk1_keeps | with_reducible apply mk2_keeps)
theorem frameReceive_keeps {a0 a1 a2} (h : Keeps kb s0 s) : Keeps kb s0 (frameReceive a0 a1 a2 s) := by
  unfold frameReceive
  repeat' (first | with_reducible assumption | (extract_lets +onlyGivenNames x; refine @cut kb s0 x _ ?_ (fun hx => ?_); unfold x; clear x; rotate_left; clear_value x; rotate_right) | (extract_lets +onlyGivenNames x; refine @cut1 kb _ s0 x _ ?_ (fun hx => ?_); unfold x; clear x; rotate_left; clear_value x; rotate_right) | (extract_lets +onlyGivenNames x; refine @cut2 kb _ s0 x _ ?_ (fun hx => ?_); unfold x; clear x; rotate_left; clear_value x; rotate_right) | (extract_lets +onlyGivenNames x; clear_value x) | with_reducible apply cntPair_keeps | with_reducible apply State.raise_keeps | with_reducible apply State.cntr_keeps | with_reducible refine fifoFlow_keeps ?_ (by assumption) | with_reducible apply fifoFlow_keeps2 | with_reducible apply frameJudge_keeps | with_reducible apply ite_keeps | with_reducible apply fifoFlow_keeps' | split | with_reducible apply mk1_keeps | with_reducible apply mk2_keeps)
theorem execFrameReceive_next {a0 a1 a2} (h : Keeps kb s0 s) : ∃ t, execFrameReceive a0 a1 a2 s = .next t ∧ Keeps kb s0 t := by
  refine ⟨_, rfl, ?_⟩
  repeat' (first | with_reducible assumption | (extract_lets +onlyGivenNames x; refine @cut kb s0 x _ ?_ (fun hx => ?_); unfold x; clear x; rotate_left; clear_value x; rotate_right) | (extract_lets +onlyGivenNames x; clear_value x) | with_reducible refine awake_keeps ?_ ?_ | with_reducible apply frameReceive_keeps | with_reducible apply ite_keeps | split)

end Sys2Proof.Machine
end

