-- ==== Sys2Proof/Laws/KeepsSecurity.lean ====
section
/-!
SUPPORT. Every operation of Machine/Security.lean keeps what `Keeps` says.
-/
namespace Sys2Proof.Machine
set_option linter.all false
variable {kb : Prop} {s0 s : State}

theorem dbgSet_keeps {a0} (h : Keeps kb s0 s) : Keeps kb s0 (dbgSet a0 s) := by
  unfold dbgSet
  repeat' (first | with_reducible assumption | (extract_lets +onlyGivenNames x; refine @cut kb s0 x _ ?_ (fun hx => ?_); unfold x; clear x; rotate_left; clear_value x; rotate_right) | (extract_lets +onlyGivenNames x; clear_value x) | with_reducible apply State.wb_keeps | with_reducible apply State.wr_keeps | with_reducible apply State.raise_keeps | with_reducible apply ite_keeps | split)
theorem confirm_keeps (h : Keeps kb s0 s) : Keeps kb s0 (confirm s) := by
  unfold confirm
  split
  · exact h
  · extract_lets x
    have hx : Keeps kb s0 x := bootShow_keeps (State.onFlash_keeps (fun _ => ⟨rfl, rfl, Nat.le_refl _⟩) h)
    clear_value x
    split
    · exact hx
    · extract_lets up rv gone
      refine otpShow_keeps (State.onFlash_keeps_at ⟨rfl, rfl, ?_⟩ hx)
      show x.flash.svnFloor ≤ if up = true then _ else _
      split
      · rename_i hu
        simp only [up, Bool.and_eq_true, decide_eq_true_eq] at hu
        exact Nat.le_of_lt hu.2
      · exact Nat.le_refl _
theorem confirmTimer_keeps  (h : Keeps kb s0 s) : Keeps kb s0 (confirmTimer s) := by
  unfold confirmTimer
  repeat' (first | with_reducible assumption | (extract_lets +onlyGivenNames x; refine @cut kb s0 x _ ?_ (fun hx => ?_); unfold x; clear x; rotate_left; clear_value x; rotate_right) | (extract_lets +onlyGivenNames x; clear_value x) | with_reducible apply confirm_keeps | with_reducible apply ite_keeps | split)
theorem slotErase_keeps  (h : Keeps kb s0 s) : Keeps kb s0 (slotErase s) := by
  unfold slotErase
  repeat' (first | with_reducible assumption | (extract_lets +onlyGivenNames x; refine @cut kb s0 x _ ?_ (fun hx => ?_); unfold x; clear x; rotate_left; clear_value x; rotate_right) | (extract_lets +onlyGivenNames x; clear_value x) | with_reducible apply versionShow_keeps | with_reducible refine State.onFlash_keeps (fun _ => ⟨rfl, rfl, Nat.le_refl _⟩) ?_ | with_reducible apply State.cntr_keeps | with_reducible apply ite_keeps | split)
theorem stageEnd_keeps  (h : Keeps kb s0 s) : Keeps kb s0 (stageEnd s) := by
  unfold stageEnd
  repeat' (first | with_reducible assumption | (extract_lets +onlyGivenNames x; refine @cut kb s0 x _ ?_ (fun hx => ?_); unfold x; clear x; rotate_left; clear_value x; rotate_right) | (extract_lets +onlyGivenNames x; clear_value x) | with_reducible apply stageSet_keeps | with_reducible apply slotErase_keeps | with_reducible apply State.onCmd_keeps | with_reducible apply ite_keeps | split)
theorem stageTimeout_keeps  (h : Keeps kb s0 s) : Keeps kb s0 (stageTimeout s) := by
  unfold stageTimeout
  repeat' (first | with_reducible assumption | (extract_lets +onlyGivenNames x; refine @cut kb s0 x _ ?_ (fun hx => ?_); unfold x; clear x; rotate_left; clear_value x; rotate_right) | (extract_lets +onlyGivenNames x; clear_value x) | with_reducible apply stageEnd_keeps | with_reducible apply ite_keeps | split)
theorem secTick_keeps  (h : Keeps kb s0 s) : Keeps kb s0 (secTick s) := by
  unfold secTick
  repeat' (first | with_reducible assumption | (extract_lets +onlyGivenNames x; refine @cut kb s0 x _ ?_ (fun hx => ?_); unfold x; clear x; rotate_left; clear_value x; rotate_right) | (extract_lets +onlyGivenNames x; clear_value x) | with_reducible refine State.each_keeps ?_ (fun _ _ _ => ?_) | with_reducible apply State.pw_keeps | with_reducible apply dbgSet_keeps | with_reducible apply State.ww_keeps | with_reducible apply State.onCmd_keeps | with_reducible apply confirmTimer_keeps | with_reducible apply stageTimeout_keeps | with_reducible apply ite_keeps | split)
theorem execFwConfirmTimer_next  (h : Keeps kb s0 s) : ∃ t, execFwConfirmTimer s = .next t ∧ Keeps kb s0 t := by
  refine ⟨_, rfl, ?_⟩
  repeat' (first | with_reducible assumption | (extract_lets +onlyGivenNames x; refine @cut kb s0 x _ ?_ (fun hx => ?_); unfold x; clear x; rotate_left; clear_value x; rotate_right) | (extract_lets +onlyGivenNames x; clear_value x) | with_reducible refine awake_keeps ?_ ?_ | with_reducible apply confirmTimer_keeps | with_reducible apply ite_keeps | split)
theorem execStageTimeout_next  (h : Keeps kb s0 s) : ∃ t, execStageTimeout s = .next t ∧ Keeps kb s0 t := by
  refine ⟨_, rfl, ?_⟩
  repeat' (first | with_reducible assumption | (extract_lets +onlyGivenNames x; refine @cut kb s0 x _ ?_ (fun hx => ?_); unfold x; clear x; rotate_left; clear_value x; rotate_right) | (extract_lets +onlyGivenNames x; clear_value x) | with_reducible refine awake_keeps ?_ ?_ | with_reducible apply stageTimeout_keeps | with_reducible apply ite_keeps | split)
theorem execSecStatus_next {a0} (h : Keeps kb s0 s) : ∃ t, execSecStatus a0 s = .next t ∧ Keeps kb s0 t := by
  refine ⟨_, rfl, ?_⟩
  repeat' (first | with_reducible assumption | (extract_lets +onlyGivenNames x; refine @cut kb s0 x _ ?_ (fun hx => ?_); unfold x; clear x; rotate_left; clear_value x; rotate_right) | (extract_lets +onlyGivenNames x; clear_value x) | with_reducible refine runCmd_keeps (hb := fun _ _ _ => ?_) ?_ | with_reducible apply ret_keeps | with_reducible apply ite_keeps | split)
theorem execKeyLoad_next {a0 a1 a2} (h : Keeps kb s0 s) : ∃ t, execKeyLoad a0 a1 a2 s = .next t ∧ Keeps kb s0 t := by
  refine ⟨_, rfl, ?_⟩
  repeat' (first | with_reducible assumption | (extract_lets +onlyGivenNames x; refine @cut kb s0 x _ ?_ (fun hx => ?_); unfold x; clear x; rotate_left; clear_value x; rotate_right) | (extract_lets +onlyGivenNames x; clear_value x) | with_reducible refine runCmd_keeps (hb := fun _ _ _ => ?_) ?_ | with_reducible apply flashAdd_keeps | with_reducible exact no_keeps | with_reducible apply resLater_keeps | with_reducible apply ite_keeps | split)
theorem execKeyRetire_next {a0 a1} (h : Keeps kb s0 s) : ∃ t, execKeyRetire a0 a1 s = .next t ∧ Keeps kb s0 t := by
  refine ⟨_, rfl, ?_⟩
  repeat' (first | with_reducible assumption | (extract_lets +onlyGivenNames x; refine @cut kb s0 x _ ?_ (fun hx => ?_); unfold x; clear x; rotate_left; clear_value x; rotate_right) | (extract_lets +onlyGivenNames x; clear_value x) | with_reducible refine runCmd_keeps (hb := fun _ _ _ => ?_) ?_ | with_reducible apply flashAdd_keeps | with_reducible exact no_keeps | with_reducible apply resLater_keeps | with_reducible apply ite_keeps | split)
theorem execKeyStatus_next {a0} (h : Keeps kb s0 s) : ∃ t, execKeyStatus a0 s = .next t ∧ Keeps kb s0 t := by
  refine ⟨_, rfl, ?_⟩
  repeat' (first | with_reducible assumption | (extract_lets +onlyGivenNames x; refine @cut kb s0 x _ ?_ (fun hx => ?_); unfold x; clear x; rotate_left; clear_value x; rotate_right) | (extract_lets +onlyGivenNames x; clear_value x) | with_reducible refine runCmd_keeps (hb := fun _ _ _ => ?_) ?_ | with_reducible apply retL_keeps | with_reducible apply ite_keeps | split)
theorem execFwStatus_next {a0} (h : Keeps kb s0 s) : ∃ t, execFwStatus a0 s = .next t ∧ Keeps kb s0 t := by
  refine ⟨_, rfl, ?_⟩
  repeat' (first | with_reducible assumption | (extract_lets +onlyGivenNames x; refine @cut kb s0 x _ ?_ (fun hx => ?_); unfold x; clear x; rotate_left; clear_value x; rotate_right) | (extract_lets +onlyGivenNames x; clear_value x) | with_reducible refine runCmd_keeps (hb := fun _ _ _ => ?_) ?_ | with_reducible apply ret_keeps | with_reducible apply ite_keeps | split)
theorem execFwStageOpen_next {a0} (h : Keeps kb s0 s) : ∃ t, execFwStageOpen a0 s = .next t ∧ Keeps kb s0 t := by
  refine ⟨_, rfl, ?_⟩
  repeat' (first | with_reducible assumption | (extract_lets +onlyGivenNames x; refine @cut kb s0 x _ ?_ (fun hx => ?_); unfold x; clear x; rotate_left; clear_value x; rotate_right) | (extract_lets +onlyGivenNames x; clear_value x) | with_reducible refine runCmd_keeps (hb := fun _ _ _ => ?_) ?_ | with_reducible apply done_keeps | with_reducible apply stageSet_keeps | with_reducible apply slotErase_keeps | with_reducible apply State.onCmd_keeps | with_reducible exact no_keeps | with_reducible apply ite_keeps | split)
theorem execFwStageWrite_next {a0 a1 a2} (h : Keeps kb s0 s) : ∃ t, execFwStageWrite a0 a1 a2 s = .next t ∧ Keeps kb s0 t := by
  refine ⟨_, rfl, ?_⟩
  repeat' (first | with_reducible assumption | (extract_lets +onlyGivenNames x; refine @cut kb s0 x _ ?_ (fun hx => ?_); unfold x; clear x; rotate_left; clear_value x; rotate_right) | (extract_lets +onlyGivenNames x; clear_value x) | with_reducible refine runCmd_keeps (hb := fun _ _ _ => ?_) ?_ | with_reducible apply flashAdd_keeps | with_reducible apply State.onCmd_keeps | with_reducible exact no_keeps | with_reducible apply resLater_keeps | with_reducible apply ite_keeps | split)
theorem execFwStageClose_next {a0} (h : Keeps kb s0 s) : ∃ t, execFwStageClose a0 s = .next t ∧ Keeps kb s0 t := by
  refine ⟨_, rfl, ?_⟩
  repeat' (first | with_reducible assumption | (extract_lets +onlyGivenNames x; refine @cut kb s0 x _ ?_ (fun hx => ?_); unfold x; clear x; rotate_left; clear_value x; rotate_right) | (extract_lets +onlyGivenNames x; clear_value x) | with_reducible refine runCmd_keeps (hb := fun _ _ _ => ?_) ?_ | with_reducible refine State.onFlash_keeps (fun _ => ⟨rfl, rfl, Nat.le_refl _⟩) ?_ | with_reducible apply done_keeps | with_reducible apply stageSet_keeps | with_reducible apply versionShow_keeps | with_reducible apply State.onCmd_keeps | with_reducible apply State.wr_keeps | with_reducible apply complete_keeps | with_reducible apply stageEnd_keeps | with_reducible exact no_keeps | with_reducible apply resLater_keeps | with_reducible apply ite_keeps | split)
theorem execFwActivate_next {a0} (h : Keeps kb s0 s) : ∃ t, execFwActivate a0 s = .next t ∧ Keeps kb s0 t := by
  refine ⟨_, rfl, ?_⟩
  repeat' (first | with_reducible assumption | (extract_lets +onlyGivenNames x; refine @cut kb s0 x _ ?_ (fun hx => ?_); unfold x; clear x; rotate_left; clear_value x; rotate_right) | (extract_lets +onlyGivenNames x; clear_value x) | with_reducible refine runCmd_keeps (hb := fun _ _ _ => ?_) ?_ | with_reducible apply flashAdd_keeps | with_reducible apply State.onCmd_keeps | with_reducible apply State.wb_keeps | with_reducible exact no_keeps | with_reducible apply resLater_keeps | with_reducible apply ite_keeps | split)
theorem execFwConfirm_next {a0} (h : Keeps kb s0 s) : ∃ t, execFwConfirm a0 s = .next t ∧ Keeps kb s0 t := by
  refine ⟨_, rfl, ?_⟩
  repeat' (first | with_reducible assumption | (extract_lets +onlyGivenNames x; refine @cut kb s0 x _ ?_ (fun hx => ?_); unfold x; clear x; rotate_left; clear_value x; rotate_right) | (extract_lets +onlyGivenNames x; clear_value x) | with_reducible refine runCmd_keeps (hb := fun _ _ _ => ?_) ?_ | with_reducible apply done_keeps | with_reducible apply confirm_keeps | with_reducible apply ite_keeps | split)
theorem execFwStageAbort_next {a0} (h : Keeps kb s0 s) : ∃ t, execFwStageAbort a0 s = .next t ∧ Keeps kb s0 t := by
  refine ⟨_, rfl, ?_⟩
  repeat' (first | with_reducible assumption | (extract_lets +onlyGivenNames x; refine @cut kb s0 x _ ?_ (fun hx => ?_); unfold x; clear x; rotate_left; clear_value x; rotate_right) | (extract_lets +onlyGivenNames x; clear_value x) | with_reducible refine runCmd_keeps (hb := fun _ _ _ => ?_) ?_ | with_reducible apply done_keeps | with_reducible apply stageEnd_keeps | with_reducible apply ite_keeps | split)
theorem execDebugUnlock_next {a0 a1} (h : Keeps kb s0 s) : ∃ t, execDebugUnlock a0 a1 s = .next t ∧ Keeps kb s0 t := by
  refine ⟨_, rfl, ?_⟩
  repeat' (first | with_reducible assumption | (extract_lets +onlyGivenNames x; refine @cut kb s0 x _ ?_ (fun hx => ?_); unfold x; clear x; rotate_left; clear_value x; rotate_right) | (extract_lets +onlyGivenNames x; clear_value x) | with_reducible refine runCmd_keeps (hb := fun _ _ _ => ?_) ?_ | with_reducible apply done_keeps | with_reducible apply State.onCmd_keeps | with_reducible exact no_keeps | with_reducible apply ite_keeps | split)
theorem execDebugLock_next {a0} (h : Keeps kb s0 s) : ∃ t, execDebugLock a0 s = .next t ∧ Keeps kb s0 t := by
  refine ⟨_, rfl, ?_⟩
  repeat' (first | with_reducible assumption | (extract_lets +onlyGivenNames x; refine @cut kb s0 x _ ?_ (fun hx => ?_); unfold x; clear x; rotate_left; clear_value x; rotate_right) | (extract_lets +onlyGivenNames x; clear_value x) | with_reducible refine runCmd_keeps (hb := fun _ _ _ => ?_) ?_ | with_reducible apply done_keeps | with_reducible apply dbgSet_keeps | with_reducible apply State.onCmd_keeps | with_reducible apply ite_keeps | split)
theorem execFactoryErase_next {a0} (h : Keeps kb s0 s) : ∃ t, execFactoryErase a0 s = .next t ∧ Keeps kb s0 t := by
  refine ⟨_, rfl, ?_⟩
  repeat' (first | with_reducible assumption | (extract_lets +onlyGivenNames x; refine @cut kb s0 x _ ?_ (fun hx => ?_); unfold x; clear x; rotate_left; clear_value x; rotate_right) | (extract_lets +onlyGivenNames x; clear_value x) | with_reducible refine runCmd_keeps (hb := fun _ _ _ => ?_) ?_ | with_reducible apply State.onCmd_keeps | with_reducible apply State.wb_keeps | with_reducible apply flashAdd_keeps | with_reducible refine State.onFlash_keeps (fun _ => ⟨rfl, rfl, Nat.le_refl _⟩) ?_ | with_reducible apply resLater_keeps | with_reducible apply ite_keeps | split)
theorem execMgmtUdpConfig_next {a0 a1} (h : Keeps kb s0 s) : ∃ t, execMgmtUdpConfig a0 a1 s = .next t ∧ Keeps kb s0 t := by
  refine ⟨_, rfl, ?_⟩
  repeat' (first | with_reducible assumption | (extract_lets +onlyGivenNames x; refine @cut kb s0 x _ ?_ (fun hx => ?_); unfold x; clear x; rotate_left; clear_value x; rotate_right) | (extract_lets +onlyGivenNames x; clear_value x) | with_reducible refine runCmd_keeps (hb := fun _ _ _ => ?_) ?_ | with_reducible apply done_keeps | with_reducible apply State.onCmd_keeps | with_reducible exact no_keeps | with_reducible apply ite_keeps | split)

end Sys2Proof.Machine
end

