-- ==== Sys2Proof/Laws/KeepsBoundary.lean ====
section
/-!
SUPPORT. Every operation of Machine/Boundary.lean keeps what `Keeps` says.
-/
namespace Sys2Proof.Machine
set_option linter.all false
variable {kb : Prop} {s0 s : State}

theorem State.at_keeps {a1} (h : Keeps False s0 s) : Keeps False s0 (State.at s a1) := by
  unfold State.at
  repeat' (first | with_reducible assumption | (extract_lets +onlyGivenNames x; refine @cut False s0 x _ ?_ (fun hx => ?_); unfold x; clear x; rotate_left; clear_value x; rotate_right) | (extract_lets +onlyGivenNames x; clear_value x) | with_reducible refine State.onTim_keeps (fun k => k.elim) ?_ | with_reducible apply ite_keeps | split)
theorem audioTick_keeps  (h : Keeps kb s0 s) : Keeps kb s0 (audioTick s) := by
  unfold audioTick
  repeat' (first | with_reducible assumption | (extract_lets +onlyGivenNames x; refine @cut kb s0 x _ ?_ (fun hx => ?_); unfold x; clear x; rotate_left; clear_value x; rotate_right) | (extract_lets +onlyGivenNames x; clear_value x) | with_reducible apply srcTick_keeps | with_reducible apply txCommitTick_keeps | with_reducible apply rxCommitTick_keeps | with_reducible apply localTick_keeps | with_reducible apply sapTick_keeps | with_reducible apply sdpTick_keeps | with_reducible apply rxLockTick_keeps | with_reducible apply rxTick_keeps | with_reducible apply ite_keeps | split)
theorem sumTick_keeps {a0} (h : Keeps kb s0 s) : Keeps kb s0 (sumTick a0 s) := by
  unfold sumTick
  repeat' (first | with_reducible assumption | (extract_lets +onlyGivenNames x; refine @cut kb s0 x _ ?_ (fun hx => ?_); unfold x; clear x; rotate_left; clear_value x; rotate_right) | (extract_lets +onlyGivenNames x; clear_value x) | with_reducible apply tenantTick_keeps | with_reducible apply assignTick_keeps | with_reducible apply popHier_keeps | with_reducible apply popCountAll_keeps | with_reducible apply popTick_keeps | with_reducible apply State.onXp_keeps | with_reducible apply metPublish_keeps | with_reducible apply saveTick_keeps | with_reducible apply allocTick_keeps | with_reducible apply ite_keeps | split)
theorem tickRwb_keeps  (h : Keeps kb s0 s) : Keeps kb s0 (tickRwb s) := by
  unfold tickRwb
  repeat' (first | with_reducible assumption | (extract_lets +onlyGivenNames x; refine @cut kb s0 x _ ?_ (fun hx => ?_); unfold x; clear x; rotate_left; clear_value x; rotate_right) | (extract_lets +onlyGivenNames x; clear_value x) | with_reducible refine State.applyDue_keeps (hk := fun _ _ _ => ?_) ?_ | with_reducible apply gpioApply_keeps | with_reducible apply State.applyHeld_keeps | with_reducible apply ite_keeps | split)
theorem timeTick_keeps {a0} (h : Keeps kb s0 s) : Keeps kb s0 (timeTick a0 s) := by
  unfold timeTick
  repeat' (first | with_reducible assumption | (extract_lets +onlyGivenNames x; refine @cut kb s0 x _ ?_ (fun hx => ?_); unfold x; clear x; rotate_left; clear_value x; rotate_right) | (extract_lets +onlyGivenNames x; clear_value x) | with_reducible apply tb3Note_keeps | with_reducible apply ltcTick_keeps | with_reducible apply tbSets_keeps | with_reducible apply umaTick_keeps | with_reducible apply refTick_keeps | with_reducible apply publishOfs_keeps | with_reducible apply collRecompute_keeps | with_reducible refine State.each_keeps ?_ (fun _ _ _ => ?_) | with_reducible apply ptpTick_keeps | with_reducible apply ite_keeps | split)
theorem zeroRegs_keeps {a0 a1 a2} (h : Keeps kb s0 s) : Keeps kb s0 (zeroRegs a0 a1 a2 s) := by
  unfold zeroRegs
  repeat' (first | with_reducible assumption | (extract_lets +onlyGivenNames x; refine @cut kb s0 x _ ?_ (fun hx => ?_); unfold x; clear x; rotate_left; clear_value x; rotate_right) | (extract_lets +onlyGivenNames x; clear_value x) | with_reducible refine State.each_keeps ?_ (fun _ _ _ => ?_) | with_reducible apply State.pw_keeps | with_reducible apply ite_keeps | split)
theorem clearOne_keeps {a1} (h : Keeps kb s0 s) : Keeps kb s0 (clearOne s a1) := by
  unfold clearOne
  repeat' (first | with_reducible assumption | (extract_lets +onlyGivenNames x; refine @cut kb s0 x _ ?_ (fun hx => ?_); unfold x; clear x; rotate_left; clear_value x; rotate_right) | (extract_lets +onlyGivenNames x; clear_value x) | with_reducible apply zeroRegs_keeps | with_reducible apply rxClear_keeps | with_reducible refine State.each_keeps ?_ (fun _ _ _ => ?_) | with_reducible apply State.ww_keeps | with_reducible apply ite_keeps | split)
theorem clearTick_keeps  (h : Keeps kb s0 s) : Keeps kb s0 (clearTick s) := by
  unfold clearTick
  repeat' (first | with_reducible assumption | (extract_lets +onlyGivenNames x; refine @cut kb s0 x _ ?_ (fun hx => ?_); unfold x; clear x; rotate_left; clear_value x; rotate_right) | (extract_lets +onlyGivenNames x; clear_value x) | with_reducible apply State.onCmd_keeps | with_reducible refine State.each_keeps ?_ (fun _ _ _ => ?_) | with_reducible apply clearOne_keeps | with_reducible apply ite_keeps | split)
theorem tickWork_keeps {a0} (h : Keeps False s0 s) : Keeps False s0 (tickWork a0 s) := by
  unfold tickWork
  repeat' (first | with_reducible assumption | (extract_lets +onlyGivenNames x; refine @cut False s0 x _ ?_ (fun hx => ?_); unfold x; clear x; rotate_left; clear_value x; rotate_right) | (extract_lets +onlyGivenNames x; clear_value x) | with_reducible apply sumTick_keeps | with_reducible apply tickRwb_keeps | with_reducible apply publish_keeps | with_reducible refine State.each_keeps ?_ (fun _ _ _ => ?_) | with_reducible apply txLoads_keeps | with_reducible apply portTick_keeps | with_reducible apply audioTick_keeps | with_reducible apply timeTick_keeps | with_reducible apply fifoTick_keeps | with_reducible apply errataTick_keeps | with_reducible apply redundTick_keeps | with_reducible apply patrolTick_keeps | with_reducible apply hostTick_keeps | with_reducible apply secTick_keeps | with_reducible apply clearTick_keeps | with_reducible apply modeTick_keeps | with_reducible apply hostModeTick_keeps | with_reducible apply restartDevice_keeps | with_reducible apply ite_keeps | split)
theorem tickOnce_keeps {a0} (h : Keeps False s0 s) : Keeps False s0 (tickOnce a0 s) := by
  unfold tickOnce
  repeat' (first | with_reducible assumption | (extract_lets +onlyGivenNames x; refine @cut False s0 x _ ?_ (fun hx => ?_); unfold x; clear x; rotate_left; clear_value x; rotate_right) | (extract_lets +onlyGivenNames x; clear_value x) | with_reducible apply tickWork_keeps | with_reducible apply State.at_keeps | with_reducible apply bankStep_keeps | with_reducible apply rxJudge_keeps | with_reducible refine State.onTim_keeps (fun k => k.elim) ?_ | with_reducible apply ite_keeps | split)
theorem periodWork_keeps {a0} (h : Keeps False s0 s) : Keeps False s0 (periodWork a0 s) := by
  unfold periodWork
  repeat' (first | with_reducible assumption | (extract_lets +onlyGivenNames x; refine @cut False s0 x _ ?_ (fun hx => ?_); unfold x; clear x; rotate_left; clear_value x; rotate_right) | (extract_lets +onlyGivenNames x; clear_value x) | with_reducible apply bankStep_keeps | with_reducible apply sampleFaults_keeps | with_reducible apply rxJudge_keeps | with_reducible apply tickOnce_keeps | with_reducible apply popCountAll_keeps | with_reducible apply ite_keeps | split)
theorem vectorStep_keeps  (h : Keeps kb s0 s) : Keeps kb s0 (vectorStep s) := by
  unfold vectorStep
  repeat' (first | with_reducible assumption | (extract_lets +onlyGivenNames x; refine @cut kb s0 x _ ?_ (fun hx => ?_); unfold x; clear x; rotate_left; clear_value x; rotate_right) | (extract_lets +onlyGivenNames x; clear_value x) | with_reducible apply metNoteIn_keeps | with_reducible apply activity_keeps | with_reducible apply gates_keeps | with_reducible apply assemble_keeps | with_reducible apply ite_keeps | split)
theorem vectorOff_keeps  (h : Keeps kb s0 s) : Keeps kb s0 (vectorOff s) := by
  unfold vectorOff
  repeat' (first | with_reducible assumption | (extract_lets +onlyGivenNames x; refine @cut kb s0 x _ ?_ (fun hx => ?_); unfold x; clear x; rotate_left; clear_value x; rotate_right) | (extract_lets +onlyGivenNames x; clear_value x) | with_reducible apply State.onXp_keeps | with_reducible apply ite_keeps | split)
theorem sumStep_keeps {a0 a1} (h : Keeps kb s0 s) : Keeps kb s0 (sumStep a0 a1 s) := by
  unfold sumStep
  repeat' (first | with_reducible assumption | (extract_lets +onlyGivenNames x; refine @cut kb s0 x _ ?_ (fun hx => ?_); unfold x; clear x; rotate_left; clear_value x; rotate_right) | (extract_lets +onlyGivenNames x; clear_value x) | with_reducible apply umaOutputs_keeps | with_reducible apply setBank_keeps | with_reducible apply State.onFlt_keeps | with_reducible apply State.onScn_keeps | with_reducible apply ite_keeps | with_reducible refine foldl_keeps (fun _ _ _ => ?_) ?_ | split)
theorem sampleFlow_keeps {a0 a1} (h : Keeps kb s0 s) : Keeps kb s0 (sampleFlow a0 a1 s) := by
  unfold sampleFlow
  repeat' (first | with_reducible assumption | (extract_lets +onlyGivenNames x; refine @cut kb s0 x _ ?_ (fun hx => ?_); unfold x; clear x; rotate_left; clear_value x; rotate_right) | (extract_lets +onlyGivenNames x; clear_value x) | with_reducible apply umaIn_keeps | with_reducible apply localIn_keeps | with_reducible apply rxPresent_keeps | with_reducible refine State.each_keeps ?_ (fun _ _ _ => ?_) | with_reducible apply metLatch_keeps | with_reducible apply gclCycle_keeps | with_reducible apply vectorStep_keeps | with_reducible apply vectorOff_keeps | with_reducible apply sumStep_keeps | with_reducible apply metNoteOut_keeps | with_reducible apply capSample_keeps | with_reducible apply umaEnd_keeps | with_reducible apply localOut_keeps | with_reducible apply talker_keeps | with_reducible apply ite_keeps | split)
theorem collAct_keeps {a1} (h : Keeps kb s0 s) : Keeps kb s0 (collAct s a1) := by
  unfold collAct
  repeat' (first | with_reducible assumption | (extract_lets +onlyGivenNames x; refine @cut kb s0 x _ ?_ (fun hx => ?_); unfold x; clear x; rotate_left; clear_value x; rotate_right) | (extract_lets +onlyGivenNames x; clear_value x) | with_reducible apply turnAct_keeps | with_reducible apply portStart_keeps | with_reducible apply txStartNow_keeps | with_reducible apply rxStart_keeps | with_reducible apply txStopNow_keeps | with_reducible apply rxStop_keeps | with_reducible apply pinPulse_keeps | with_reducible apply snapAct_keeps | with_reducible apply relockNow_keeps | with_reducible apply alignFire_keeps | with_reducible apply ite_keeps | split)
theorem sampleActs_keeps  (h : Keeps kb s0 s) : Keeps kb s0 (sampleActs s) := by
  unfold sampleActs
  repeat' (first | with_reducible assumption | (extract_lets +onlyGivenNames x; refine @cut kb s0 x _ ?_ (fun hx => ?_); unfold x; clear x; rotate_left; clear_value x; rotate_right) | (extract_lets +onlyGivenNames x; clear_value x) | with_reducible apply pulseEdges_keeps | with_reducible refine fireSlots_keeps (hk := fun _ _ _ => ?_) ?_ | with_reducible apply collAct_keeps | with_reducible apply loadsStart_keeps | with_reducible apply linkStep_keeps | with_reducible apply handOver_keeps | with_reducible refine State.each_keeps ?_ (fun _ _ _ => ?_) | with_reducible apply State.onSrc_keeps | with_reducible apply relockNow_keeps | with_reducible apply versoStep_keeps | with_reducible apply turnStep_keeps | with_reducible apply ite_keeps | split)
theorem sampleRwb_keeps  (h : Keeps kb s0 s) : Keeps kb s0 (sampleRwb s) := by
  unfold sampleRwb
  repeat' (first | with_reducible assumption | (extract_lets +onlyGivenNames x; refine @cut kb s0 x _ ?_ (fun hx => ?_); unfold x; clear x; rotate_left; clear_value x; rotate_right) | (extract_lets +onlyGivenNames x; clear_value x) | with_reducible apply umaRwb_keeps | with_reducible refine State.applyDue_keeps (hk := fun _ _ _ => ?_) ?_ | with_reducible apply xpRwb_keeps | with_reducible apply State.applyHeld_keeps | with_reducible apply ite_keeps | split)
theorem rebase_keeps {a0 a1} (h : Keeps kb s0 s) : Keeps kb s0 (rebase a0 a1 s) := by
  unfold rebase
  repeat' (first | with_reducible assumption | (extract_lets +onlyGivenNames x; refine @cut kb s0 x _ ?_ (fun hx => ?_); unfold x; clear x; rotate_left; clear_value x; rotate_right) | (extract_lets +onlyGivenNames x; clear_value x) | with_reducible apply State.onHeld_keeps | with_reducible apply State.onHost_keeps | with_reducible apply State.onMd_keeps | with_reducible apply State.onNet_keeps | with_reducible apply State.onRx_keeps | with_reducible apply State.onFlt_keeps | with_reducible apply State.onTx_keeps | with_reducible apply State.onSrc_keeps | with_reducible apply State.onLoc_keeps | with_reducible apply State.onXp_keeps | with_reducible apply State.onUma_keeps | with_reducible apply ite_keeps | split)
theorem nextPeriod_keeps  (h : Keeps False s0 s) : Keeps False s0 (nextPeriod s) := by
  unfold nextPeriod
  repeat' (first | with_reducible assumption | (extract_lets +onlyGivenNames x; refine @cut False s0 x _ ?_ (fun hx => ?_); unfold x; clear x; rotate_left; clear_value x; rotate_right) | (extract_lets +onlyGivenNames x; clear_value x) | with_reducible apply rebase_keeps | with_reducible apply State.onMd_keeps | with_reducible refine State.onTim_keeps (fun k => k.elim) ?_ | with_reducible apply ite_keeps | split)
theorem boundary_keeps {a0} (h : Keeps False s0 s) : Keeps False s0 (boundary a0 s) := by
  unfold boundary
  repeat' (first | with_reducible assumption | (extract_lets +onlyGivenNames x; refine @cut False s0 x _ ?_ (fun hx => ?_); unfold x; clear x; rotate_left; clear_value x; rotate_right) | (extract_lets +onlyGivenNames x; clear_value x) | with_reducible apply periodWork_keeps | with_reducible apply sampleFlow_keeps | with_reducible apply sampleActs_keeps | with_reducible apply sampleRwb_keeps | with_reducible apply nextPeriod_keeps | with_reducible apply ite_keeps | split)
theorem execSampleBoundary_next {a0} (h : Keeps False s0 s) : ∃ t, execSampleBoundary a0 s = .next t ∧ Keeps False s0 t := by
  refine ⟨_, rfl, ?_⟩
  repeat' (first | with_reducible assumption | (extract_lets +onlyGivenNames x; refine @cut False s0 x _ ?_ (fun hx => ?_); unfold x; clear x; rotate_left; clear_value x; rotate_right) | (extract_lets +onlyGivenNames x; clear_value x) | with_reducible apply boundary_keeps | with_reducible apply ite_keeps | split)
theorem execTickBoundary_next {a0} (h : Keeps False s0 s) : ∃ t, execTickBoundary a0 s = .next t ∧ Keeps False s0 t := by
  refine ⟨_, rfl, ?_⟩
  repeat' (first | with_reducible assumption | (extract_lets +onlyGivenNames x; refine @cut False s0 x _ ?_ (fun hx => ?_); unfold x; clear x; rotate_left; clear_value x; rotate_right) | (extract_lets +onlyGivenNames x; clear_value x) | with_reducible apply tickOnce_keeps | with_reducible apply ite_keeps | split)

end Sys2Proof.Machine
end

