-- ==== Sys2Proof/Laws/KeepsRegAccess.lean ====
section
/-!
SUPPORT. Every operation of Machine/RegAccess.lean keeps what `Keeps` says.
-/
namespace Sys2Proof.Machine
set_option linter.all false
variable {kb : Prop} {s0 s : State}

theorem accErr_keeps {a0 a1} (h : Keeps kb s0 s) : Keeps kb s0 (accErr a0 a1 s) := by
  unfold accErr
  repeat' (first | with_reducible assumption | (extract_lets +onlyGivenNames x; refine @cut kb s0 x _ ?_ (fun hx => ?_); unfold x; clear x; rotate_left; clear_value x; rotate_right) | (extract_lets +onlyGivenNames x; clear_value x) | with_reducible apply State.wb_keeps | with_reducible apply ite_keeps | split)
theorem applyGo_keeps {a0 a1} (h : Keeps kb s0 s) : Keeps kb s0 (applyGo a0 a1 s) := by
  unfold applyGo
  repeat' (first | with_reducible assumption | (extract_lets +onlyGivenNames x; refine @cut kb s0 x _ ?_ (fun hx => ?_); unfold x; clear x; rotate_left; clear_value x; rotate_right) | (extract_lets +onlyGivenNames x; clear_value x) | with_reducible apply State.onHeld_keeps | with_reducible apply ite_keeps | split)
theorem regPut_keeps {a0 a1 a2 a3 a4 a5} (h : Keeps kb s0 s) : Keeps kb s0 (regPut a0 a1 a2 a3 a4 a5 s) := by
  unfold regPut
  repeat' (first | with_reducible assumption | (extract_lets +onlyGivenNames x; refine @cut kb s0 x _ ?_ (fun hx => ?_); unfold x; clear x; rotate_left; clear_value x; rotate_right) | (extract_lets +onlyGivenNames x; clear_value x) | with_reducible apply State.writeWord_keeps | with_reducible apply State.writeRW_keeps | with_reducible apply ite_keeps | split)
theorem hdrWrite_keeps {a0 a1 a2 a3 a4} (h : Keeps kb s0 s) : Keeps kb s0 (hdrWrite a0 a1 a2 a3 a4 s) := by
  unfold hdrWrite
  repeat' (first | with_reducible assumption | (extract_lets +onlyGivenNames x; refine @cut kb s0 x _ ?_ (fun hx => ?_); unfold x; clear x; rotate_left; clear_value x; rotate_right) | (extract_lets +onlyGivenNames x; clear_value x) | with_reducible apply regPut_keeps | with_reducible apply State.writeWord_keeps | with_reducible apply State.pw_keeps | with_reducible apply State.msi_keeps | with_reducible refine State.each_keeps ?_ (fun _ _ _ => ?_) | with_reducible apply State.raise1_keeps | with_reducible apply applyGo_keeps | with_reducible apply State.onHeld_keeps | with_reducible apply mirrorNote_keeps | with_reducible apply ite_keeps | split)
theorem wClkg_keeps {a0 a1 a2 a3} (h : Keeps kb s0 s) : Keeps kb s0 (wClkg a0 a1 a2 a3 s) := by
  unfold wClkg
  repeat' (first | with_reducible assumption | (extract_lets +onlyGivenNames x; refine @cut kb s0 x _ ?_ (fun hx => ?_); unfold x; clear x; rotate_left; clear_value x; rotate_right) | (extract_lets +onlyGivenNames x; clear_value x) | with_reducible apply regCpllSwap_keeps | with_reducible apply State.writeRW_keeps | with_reducible apply regSscModeWrite_keeps | with_reducible apply regMpllPstepWrite_keeps | with_reducible apply regPut_keeps | with_reducible apply ite_keeps | split)
theorem wRefs_keeps {a0 a1 a2 a3 a4} (h : Keeps kb s0 s) : Keeps kb s0 (wRefs a0 a1 a2 a3 a4 s) := by
  unfold wRefs
  repeat' (first | with_reducible assumption | (extract_lets +onlyGivenNames x; refine @cut kb s0 x _ ?_ (fun hx => ?_); unfold x; clear x; rotate_left; clear_value x; rotate_right) | (extract_lets +onlyGivenNames x; clear_value x) | with_reducible apply regAlignCmd_keeps | with_reducible apply regPut_keeps | with_reducible apply ite_keeps | split)
theorem wTime_keeps {a0 a1 a2 a3 a4} (h : Keeps kb s0 s) : Keeps kb s0 (wTime a0 a1 a2 a3 a4 s) := by
  unfold wTime
  repeat' (first | with_reducible assumption | (extract_lets +onlyGivenNames x; refine @cut kb s0 x _ ?_ (fun hx => ?_); unfold x; clear x; rotate_left; clear_value x; rotate_right) | (extract_lets +onlyGivenNames x; clear_value x) | with_reducible apply regSetGo_keeps | with_reducible apply followWrite_keeps | with_reducible apply regPut_keeps | with_reducible apply ite_keeps | split)
theorem wSlot_keeps {a0 a1 a2 a3 a4} (h : Keeps kb s0 s) : Keeps kb s0 (wSlot a0 a1 a2 a3 a4 s) := by
  unfold wSlot
  repeat' (first | with_reducible assumption | (extract_lets +onlyGivenNames x; refine @cut kb s0 x _ ?_ (fun hx => ?_); unfold x; clear x; rotate_left; clear_value x; rotate_right) | (extract_lets +onlyGivenNames x; clear_value x) | with_reducible apply State.wb_keeps | with_reducible apply State.writeRW_keeps | with_reducible apply regSlotCancel_keeps | with_reducible apply regSlotArm_keeps | with_reducible apply regPut_keeps | with_reducible apply ite_keeps | split)
theorem wColl_keeps {a0 a1 a2 a3 a4 a5} (h : Keeps kb s0 s) : Keeps kb s0 (wColl a0 a1 a2 a3 a4 a5 s) := by
  unfold wColl
  repeat' (first | with_reducible assumption | (extract_lets +onlyGivenNames x; refine @cut kb s0 x _ ?_ (fun hx => ?_); unfold x; clear x; rotate_left; clear_value x; rotate_right) | (extract_lets +onlyGivenNames x; clear_value x) | with_reducible apply snapshot_keeps | with_reducible apply wSlot_keeps | with_reducible apply regPut_keeps | with_reducible apply ite_keeps | split)
theorem wEvtc_keeps {a0 a1 a2 a3} (h : Keeps kb s0 s) : Keeps kb s0 (wEvtc a0 a1 a2 a3 s) := by
  unfold wEvtc
  repeat' (first | with_reducible assumption | (extract_lets +onlyGivenNames x; refine @cut kb s0 x _ ?_ (fun hx => ?_); unfold x; clear x; rotate_left; clear_value x; rotate_right) | (extract_lets +onlyGivenNames x; clear_value x) | with_reducible apply regPut_keeps | with_reducible apply evtLevel_keeps | with_reducible apply ite_keeps | split)
theorem clrAt_keeps {a0 a1} (h : Keeps kb s0 s) : Keeps kb s0 (clrAt a0 a1 s) := by
  unfold clrAt
  repeat' (first | with_reducible assumption | (extract_lets +onlyGivenNames x; refine @cut kb s0 x _ ?_ (fun hx => ?_); unfold x; clear x; rotate_left; clear_value x; rotate_right) | (extract_lets +onlyGivenNames x; clear_value x) | with_reducible apply State.onCmd_keeps | with_reducible apply ite_keeps | split)
theorem wNetp_keeps {a0 a1 a2 a3 a4 a5 a6} (h : Keeps kb s0 s) : Keeps kb s0 (wNetp a0 a1 a2 a3 a4 a5 a6 s) := by
  unfold wNetp
  repeat' (first | with_reducible assumption | (extract_lets +onlyGivenNames x; refine @cut kb s0 x _ ?_ (fun hx => ?_); unfold x; clear x; rotate_left; clear_value x; rotate_right) | (extract_lets +onlyGivenNames x; clear_value x) | with_reducible apply portCtlWrite_keeps | with_reducible apply clrAt_keeps | with_reducible apply regGclSwap_keeps | with_reducible apply State.hold_keeps | with_reducible apply gclCtlWrite_keeps | with_reducible apply regPut_keeps | with_reducible apply regQsfpReset_keeps | with_reducible apply ite_keeps | split)
theorem wStrx_keeps {a0 a1 a2 a3 a4} (h : Keeps kb s0 s) : Keeps kb s0 (wStrx a0 a1 a2 a3 a4 s) := by
  unfold wStrx
  repeat' (first | with_reducible assumption | (extract_lets +onlyGivenNames x; refine @cut kb s0 x _ ?_ (fun hx => ?_); unfold x; clear x; rotate_left; clear_value x; rotate_right) | (extract_lets +onlyGivenNames x; clear_value x) | with_reducible apply regRxCommit_keeps | with_reducible apply regRxLoad_keeps | with_reducible apply regPut_keeps | with_reducible apply clrAt_keeps | with_reducible refine State.each_keeps ?_ (fun _ _ _ => ?_) | with_reducible apply State.raise_keeps | with_reducible apply ite_keeps | split)
theorem wSttx_keeps {a0 a1 a2 a3 a4} (h : Keeps kb s0 s) : Keeps kb s0 (wSttx a0 a1 a2 a3 a4 s) := by
  unfold wSttx
  repeat' (first | with_reducible assumption | (extract_lets +onlyGivenNames x; refine @cut kb s0 x _ ?_ (fun hx => ?_); unfold x; clear x; rotate_left; clear_value x; rotate_right) | (extract_lets +onlyGivenNames x; clear_value x) | with_reducible apply regTxCommit_keeps | with_reducible apply regTxLoad_keeps | with_reducible apply regPut_keeps | with_reducible apply txSrcWrite_keeps | with_reducible apply clrAt_keeps | with_reducible apply ite_keeps | split)
theorem evtClear_keeps {a0 a1 a2} (h : Keeps kb s0 s) : Keeps kb s0 (evtClear a0 a1 a2 s) := by
  unfold evtClear
  repeat' (first | with_reducible assumption | (extract_lets +onlyGivenNames x; refine @cut kb s0 x _ ?_ (fun hx => ?_); unfold x; clear x; rotate_left; clear_value x; rotate_right) | (extract_lets +onlyGivenNames x; clear_value x) | with_reducible apply State.writeWord_keeps | with_reducible apply State.ww_keeps | with_reducible apply ite_keeps | split)
theorem wSrcb_keeps {a0 a1 a2 a3} (h : Keeps kb s0 s) : Keeps kb s0 (wSrcb a0 a1 a2 a3 s) := by
  unfold wSrcb
  repeat' (first | with_reducible assumption | (extract_lets +onlyGivenNames x; refine @cut kb s0 x _ ?_ (fun hx => ?_); unfold x; clear x; rotate_left; clear_value x; rotate_right) | (extract_lets +onlyGivenNames x; clear_value x) | with_reducible apply regRelock_keeps | with_reducible apply State.writeRW_keeps | with_reducible apply evtClear_keeps | with_reducible apply clrAt_keeps | with_reducible apply regI2sBindWrite_keeps | with_reducible apply regPut_keeps | with_reducible apply ite_keeps | split)
theorem wXin_keeps {a0 a1 a2 a3} (h : Keeps kb s0 s) : Keeps kb s0 (wXin a0 a1 a2 a3 s) := by
  unfold wXin
  repeat' (first | with_reducible assumption | (extract_lets +onlyGivenNames x; refine @cut kb s0 x _ ?_ (fun hx => ?_); unfold x; clear x; rotate_left; clear_value x; rotate_right) | (extract_lets +onlyGivenNames x; clear_value x) | with_reducible apply clrAt_keeps | with_reducible apply selDeny_keeps | with_reducible apply selErr_keeps | with_reducible apply pendLevel_keeps | with_reducible apply State.writeWord_keeps | with_reducible apply ite_keeps | split)
theorem wXpnt_keeps {a0 a1 a2 a3 a4} (h : Keeps kb s0 s) : Keeps kb s0 (wXpnt a0 a1 a2 a3 a4 s) := by
  unfold wXpnt
  repeat' (first | with_reducible assumption | (extract_lets +onlyGivenNames x; refine @cut kb s0 x _ ?_ (fun hx => ?_); unfold x; clear x; rotate_left; clear_value x; rotate_right) | (extract_lets +onlyGivenNames x; clear_value x) | with_reducible apply wXin_keeps | with_reducible apply regPut_keeps | with_reducible apply ite_keeps | split)
theorem wScne_keeps {a0 a1 a2 a3 a4} (h : Keeps kb s0 s) : Keeps kb s0 (wScne a0 a1 a2 a3 a4 s) := by
  unfold wScne
  repeat' (first | with_reducible assumption | (extract_lets +onlyGivenNames x; refine @cut kb s0 x _ ?_ (fun hx => ?_); unfold x; clear x; rotate_left; clear_value x; rotate_right) | (extract_lets +onlyGivenNames x; clear_value x) | with_reducible apply regNow_keeps | with_reducible apply tdWrite_keeps | with_reducible apply regPut_keeps | with_reducible apply regDefine_keeps | with_reducible apply regRelease_keeps | with_reducible apply ite_keeps | split)
theorem wSnap_keeps {a0 a1 a2 a3 a4} (h : Keeps kb s0 s) : Keeps kb s0 (wSnap a0 a1 a2 a3 a4 s) := by
  unfold wSnap
  repeat' (first | with_reducible assumption | (extract_lets +onlyGivenNames x; refine @cut kb s0 x _ ?_ (fun hx => ?_); unfold x; clear x; rotate_left; clear_value x; rotate_right) | (extract_lets +onlyGivenNames x; clear_value x) | with_reducible apply regSnapCtlWrite_keeps | with_reducible apply regPut_keeps | with_reducible apply State.wb_keeps | with_reducible apply snapPut_keeps | with_reducible apply ite_keeps | split)
theorem wMetr_keeps {a0 a1 a2 a3 a4} (h : Keeps kb s0 s) : Keeps kb s0 (wMetr a0 a1 a2 a3 a4 s) := by
  unfold wMetr
  repeat' (first | with_reducible assumption | (extract_lets +onlyGivenNames x; refine @cut kb s0 x _ ?_ (fun hx => ?_); unfold x; clear x; rotate_left; clear_value x; rotate_right) | (extract_lets +onlyGivenNames x; clear_value x) | with_reducible apply regClrHold_keeps | with_reducible apply regHoldClrAll_keeps | with_reducible apply wSnap_keeps | with_reducible apply regPut_keeps | with_reducible apply ite_keeps | split)
theorem wSapg_keeps {a0 a1 a2 a3 a4 a5} (h : Keeps kb s0 s) : Keeps kb s0 (wSapg a0 a1 a2 a3 a4 a5 s) := by
  unfold wSapg
  repeat' (first | with_reducible assumption | (extract_lets +onlyGivenNames x; refine @cut kb s0 x _ ?_ (fun hx => ?_); unfold x; clear x; rotate_left; clear_value x; rotate_right) | (extract_lets +onlyGivenNames x; clear_value x) | with_reducible apply regGrpStart_keeps | with_reducible apply i2sCtlWrite_keeps | with_reducible apply clrAt_keeps | with_reducible apply i2sNomWrite_keeps | with_reducible apply regPut_keeps | with_reducible apply ite_keeps | split)
theorem wAesp_keeps {a0 a1 a2 a3 a4} (h : Keeps kb s0 s) : Keeps kb s0 (wAesp a0 a1 a2 a3 a4 s) := by
  unfold wAesp
  repeat' (first | with_reducible assumption | (extract_lets +onlyGivenNames x; refine @cut kb s0 x _ ?_ (fun hx => ?_); unfold x; clear x; rotate_left; clear_value x; rotate_right) | (extract_lets +onlyGivenNames x; clear_value x) | with_reducible apply arCtlWrite_keeps | with_reducible apply clrAt_keeps | with_reducible apply arNomWrite_keeps | with_reducible apply atCtlWrite_keeps | with_reducible apply regPut_keeps | with_reducible apply ite_keeps | split)
theorem wUlnk_keeps {a0 a1 a2 a3 a4 a5} (h : Keeps kb s0 s) : Keeps kb s0 (wUlnk a0 a1 a2 a3 a4 a5 s) := by
  unfold wUlnk
  repeat' (first | with_reducible assumption | (extract_lets +onlyGivenNames x; refine @cut kb s0 x _ ?_ (fun hx => ?_); unfold x; clear x; rotate_left; clear_value x; rotate_right) | (extract_lets +onlyGivenNames x; clear_value x) | with_reducible apply linkCtl_keeps | with_reducible apply hierFix_keeps | with_reducible apply State.writeWord_keeps | with_reducible apply clrAt_keeps | with_reducible apply State.wb_keeps | with_reducible apply regPut_keeps | with_reducible apply ite_keeps | split)
theorem wFalt_keeps {a0 a1 a2 a3 a4} (h : Keeps kb s0 s) : Keeps kb s0 (wFalt a0 a1 a2 a3 a4 s) := by
  unfold wFalt
  repeat' (first | with_reducible assumption | (extract_lets +onlyGivenNames x; refine @cut kb s0 x _ ?_ (fun hx => ?_); unfold x; clear x; rotate_left; clear_value x; rotate_right) | (extract_lets +onlyGivenNames x; clear_value x) | with_reducible apply regFaultAck_keeps | with_reducible apply faultPin_keeps | with_reducible apply State.writeRW_keeps | with_reducible apply regKick_keeps | with_reducible apply regMgmtRestart_keeps | with_reducible apply clrAt_keeps | with_reducible apply regPut_keeps | with_reducible apply ite_keeps | split)
theorem wHost_keeps {a0 a1 a2 a3 a4 a5} (h : Keeps kb s0 s) : Keeps kb s0 (wHost a0 a1 a2 a3 a4 a5 s) := by
  unfold wHost
  repeat' (first | with_reducible assumption | (extract_lets +onlyGivenNames x; refine @cut kb s0 x _ ?_ (fun hx => ?_); unfold x; clear x; rotate_left; clear_value x; rotate_right) | (extract_lets +onlyGivenNames x; clear_value x) | with_reducible apply State.writeWord_keeps | with_reducible apply regPut_keeps | with_reducible apply ringReg_keeps | with_reducible apply maskWrite_keeps | with_reducible apply ite_keeps | split)
theorem wSecu_keeps {a0 a1 a2 a3 a4} (h : Keeps kb s0 s) : Keeps kb s0 (wSecu a0 a1 a2 a3 a4 s) := by
  unfold wSecu
  repeat' (first | with_reducible assumption | (extract_lets +onlyGivenNames x; refine @cut kb s0 x _ ?_ (fun hx => ?_); unfold x; clear x; rotate_left; clear_value x; rotate_right) | (extract_lets +onlyGivenNames x; clear_value x) | with_reducible apply State.onCmd_keeps | with_reducible apply regPut_keeps | with_reducible apply ite_keeps | split)
theorem wLsio_keeps {a0 a1 a2 a3 a4} (h : Keeps kb s0 s) : Keeps kb s0 (wLsio a0 a1 a2 a3 a4 s) := by
  unfold wLsio
  repeat' (first | with_reducible assumption | (extract_lets +onlyGivenNames x; refine @cut kb s0 x _ ?_ (fun hx => ?_); unfold x; clear x; rotate_left; clear_value x; rotate_right) | (extract_lets +onlyGivenNames x; clear_value x) | with_reducible apply icCtl_keeps | with_reducible apply clrAt_keeps | with_reducible apply uartAfter_keeps | with_reducible apply regPut_keeps | with_reducible apply ite_keeps | split)
theorem wSig_keeps {a0 a1 a2 a3 a4 a5} (h : Keeps kb s0 s) : Keeps kb s0 (wSig a0 a1 a2 a3 a4 a5 s) := by
  unfold wSig
  repeat' (first | with_reducible assumption | (extract_lets +onlyGivenNames x; refine @cut kb s0 x _ ?_ (fun hx => ?_); unfold x; clear x; rotate_left; clear_value x; rotate_right) | (extract_lets +onlyGivenNames x; clear_value x) | with_reducible refine State.each_keeps ?_ (fun _ _ _ => ?_) | with_reducible apply clrAt_keeps | with_reducible apply versoReg_keeps | with_reducible apply dDeny_keeps | with_reducible apply regPut_keeps | with_reducible apply ite_keeps | split)
theorem pageWrite_keeps {a0 a1 a2 a3 a4 a5 a6 a7} (h : Keeps kb s0 s) : Keeps kb s0 (pageWrite a0 a1 a2 a3 a4 a5 a6 a7 s) := by
  unfold pageWrite
  repeat' (first | with_reducible assumption | (extract_lets +onlyGivenNames x; refine @cut kb s0 x _ ?_ (fun hx => ?_); unfold x; clear x; rotate_left; clear_value x; rotate_right) | (extract_lets +onlyGivenNames x; clear_value x) | with_reducible apply condNote_keeps | with_reducible apply regPut_keeps | with_reducible apply wClkg_keeps | with_reducible apply wRefs_keeps | with_reducible apply wTime_keeps | with_reducible apply wColl_keeps | with_reducible apply wEvtc_keeps | with_reducible apply wNetp_keeps | with_reducible apply wStrx_keeps | with_reducible apply wSttx_keeps | with_reducible apply wSrcb_keeps | with_reducible apply wXpnt_keeps | with_reducible apply wScne_keeps | with_reducible apply wMetr_keeps | with_reducible apply wSapg_keeps | with_reducible apply wAesp_keeps | with_reducible apply wUlnk_keeps | with_reducible apply wFalt_keeps | with_reducible apply wHost_keeps | with_reducible apply cqReg_keeps | with_reducible apply wSecu_keeps | with_reducible apply wLsio_keeps | with_reducible apply wSig_keeps | with_reducible apply ite_keeps | split)
theorem regWrite_keeps {a0 a1 a2 a3 a4 a5} (h : Keeps kb s0 s) : Keeps kb s0 (regWrite a0 a1 a2 a3 a4 a5 s) := by
  unfold regWrite
  repeat' (first | with_reducible assumption | (extract_lets +onlyGivenNames x; refine @cut kb s0 x _ ?_ (fun hx => ?_); unfold x; clear x; rotate_left; clear_value x; rotate_right) | (extract_lets +onlyGivenNames x; clear_value x) | with_reducible apply hdrWrite_keeps | with_reducible apply regPut_keeps | with_reducible apply pageWrite_keeps | with_reducible apply mirrorNote_keeps | with_reducible apply ite_keeps | split)
theorem barWrite_keeps {a0 a1 a2 a3 a4} (h : Keeps kb s0 s) : Keeps kb s0 (barWrite a0 a1 a2 a3 a4 s) := by
  unfold barWrite
  repeat' (first | with_reducible assumption | (extract_lets +onlyGivenNames x; refine @cut kb s0 x _ ?_ (fun hx => ?_); unfold x; clear x; rotate_left; clear_value x; rotate_right) | (extract_lets +onlyGivenNames x; clear_value x) | with_reducible apply accErr_keeps | with_reducible apply regWrite_keeps | with_reducible apply ite_keeps | split)
theorem regReadDo_keeps' {a0 a1 a2} (h : Keeps kb s0 s) : Keeps2 kb s0 (regReadDo a0 a1 a2 s) := by
  unfold regReadDo
  repeat' (first | with_reducible assumption | (extract_lets +onlyGivenNames x; refine @cut kb s0 x _ ?_ (fun hx => ?_); unfold x; clear x; rotate_left; clear_value x; rotate_right) | (extract_lets +onlyGivenNames x; clear_value x) | with_reducible apply evtDrop_keeps | with_reducible apply evtTake_keeps | with_reducible apply regMtrVal0Read_keeps | with_reducible apply regErrRec0Read_keeps | with_reducible apply freeSlot_keeps | split | with_reducible apply mk2_keeps)
theorem regReadDo_keeps2 {a0 a1 a2} (h : Keeps kb s0 s) : Keeps kb s0 (regReadDo a0 a1 a2 s).2 := regReadDo_keeps' h
theorem regReadDo_keeps {a0 a1 a2} {v0 t} (h : Keeps kb s0 s) (e : regReadDo a0 a1 a2 s = (v0, t)) : Keeps kb s0 t := by
  have k : Keeps2 kb s0 (regReadDo a0 a1 a2 s) := regReadDo_keeps' h; rw [e] at k; exact k
theorem execRegisterWrite_next {a0 a1 a2 a3 a4} (h : Keeps kb s0 s) : ∃ t, execRegisterWrite a0 a1 a2 a3 a4 s = .next t ∧ Keeps kb s0 t := by
  refine ⟨_, rfl, ?_⟩
  repeat' (first | with_reducible assumption | (extract_lets +onlyGivenNames x; refine @cut kb s0 x _ ?_ (fun hx => ?_); unfold x; clear x; rotate_left; clear_value x; rotate_right) | (extract_lets +onlyGivenNames x; clear_value x) | with_reducible apply barWrite_keeps | with_reducible apply ite_keeps | split)
theorem execCounterClear_next {a0 a1 a2 a3} (h : Keeps kb s0 s) : ∃ t, execCounterClear a0 a1 a2 a3 s = .next t ∧ Keeps kb s0 t := by
  refine ⟨_, rfl, ?_⟩
  repeat' (first | with_reducible assumption | (extract_lets +onlyGivenNames x; refine @cut kb s0 x _ ?_ (fun hx => ?_); unfold x; clear x; rotate_left; clear_value x; rotate_right) | (extract_lets +onlyGivenNames x; clear_value x) | with_reducible apply regWrite_keeps | with_reducible apply ite_keeps | split)
theorem execClearAll_next {a0 a1 a2} (h : Keeps kb s0 s) : ∃ t, execClearAll a0 a1 a2 s = .next t ∧ Keeps kb s0 t := by
  refine ⟨_, rfl, ?_⟩
  repeat' (first | with_reducible assumption | (extract_lets +onlyGivenNames x; refine @cut kb s0 x _ ?_ (fun hx => ?_); unfold x; clear x; rotate_left; clear_value x; rotate_right) | (extract_lets +onlyGivenNames x; clear_value x) | with_reducible apply regWrite_keeps | with_reducible apply ite_keeps | split)
theorem execGo_next {a0 a1 a2} (h : Keeps kb s0 s) : ∃ t, execGo a0 a1 a2 s = .next t ∧ Keeps kb s0 t := by
  refine ⟨_, rfl, ?_⟩
  repeat' (first | with_reducible assumption | (extract_lets +onlyGivenNames x; refine @cut kb s0 x _ ?_ (fun hx => ?_); unfold x; clear x; rotate_left; clear_value x; rotate_right) | (extract_lets +onlyGivenNames x; clear_value x) | with_reducible apply regWrite_keeps | with_reducible apply ite_keeps | split)
theorem execIntForce_next {a0 a1 a2} (h : Keeps kb s0 s) : ∃ t, execIntForce a0 a1 a2 s = .next t ∧ Keeps kb s0 t := by
  refine ⟨_, rfl, ?_⟩
  repeat' (first | with_reducible assumption | (extract_lets +onlyGivenNames x; refine @cut kb s0 x _ ?_ (fun hx => ?_); unfold x; clear x; rotate_left; clear_value x; rotate_right) | (extract_lets +onlyGivenNames x; clear_value x) | with_reducible apply regWrite_keeps | with_reducible apply ite_keeps | split)
theorem execIntStatClear_next {a0 a1 a2} (h : Keeps kb s0 s) : ∃ t, execIntStatClear a0 a1 a2 s = .next t ∧ Keeps kb s0 t := by
  refine ⟨_, rfl, ?_⟩
  repeat' (first | with_reducible assumption | (extract_lets +onlyGivenNames x; refine @cut kb s0 x _ ?_ (fun hx => ?_); unfold x; clear x; rotate_left; clear_value x; rotate_right) | (extract_lets +onlyGivenNames x; clear_value x) | with_reducible apply regWrite_keeps | with_reducible apply ite_keeps | split)

end Sys2Proof.Machine
end

