-- ==== Sys2Proof/Laws/KeepsSpi.lean ====
section
/-!
SUPPORT. Every operation of Machine/Spi.lean keeps what `Keeps` says.
-/
namespace Sys2Proof.Machine
set_option linter.all false
variable {kb : Prop} {s0 s : State}

theorem spiTrans_keeps  (h : Keeps kb s0 s) : Keeps kb s0 (spiTrans s) := by
  unfold spiTrans
  repeat' (first | with_reducible assumption | (extract_lets +onlyGivenNames x; refine @cut kb s0 x _ ?_ (fun hx => ?_); unfold x; clear x; rotate_left; clear_value x; rotate_right) | (extract_lets +onlyGivenNames x; clear_value x) | with_reducible apply State.cntw_keeps | with_reducible apply ite_keeps | split)
theorem spiDrop_keeps {a0} (h : Keeps kb s0 s) : Keeps kb s0 (spiDrop a0 s) := by
  unfold spiDrop
  repeat' (first | with_reducible assumption | (extract_lets +onlyGivenNames x; refine @cut kb s0 x _ ?_ (fun hx => ?_); unfold x; clear x; rotate_left; clear_value x; rotate_right) | (extract_lets +onlyGivenNames x; clear_value x) | with_reducible apply State.cntr_keeps | with_reducible apply State.raise_keeps | with_reducible apply State.onLs_keeps | with_reducible apply ite_keeps | split)
theorem spiWork_keeps {a0 a1} (hk : ∀ s, Keeps kb s0 s → Keeps kb s0 (a1 s)) (h : Keeps kb s0 s) : Keeps kb s0 (spiWork a0 a1 s) := by
  unfold spiWork
  repeat' (first | with_reducible assumption | (extract_lets +onlyGivenNames x; refine @cut kb s0 x _ ?_ (fun hx => ?_); unfold x; clear x; rotate_left; clear_value x; rotate_right) | (extract_lets +onlyGivenNames x; clear_value x) | with_reducible refine hk _ ?_ | with_reducible apply spiTrans_keeps | with_reducible apply spiDrop_keeps | with_reducible apply ite_keeps | split)
theorem spiWords_keeps {a0 a1 a2} (h : Keeps kb s0 s) : Keeps kb s0 (spiWords a0 a1 a2 s) := by
  induction a2 generalizing s a1 with
  | nil => unfold spiWords; repeat' (first | with_reducible assumption | (extract_lets +onlyGivenNames x; refine @cut kb s0 x _ ?_ (fun hx => ?_); unfold x; clear x; rotate_left; clear_value x; rotate_right) | (extract_lets +onlyGivenNames x; clear_value x) | with_reducible apply barWrite_keeps | with_reducible apply ite_keeps | split)
  | cons x l ih =>
    unfold spiWords
    repeat' (first | with_reducible assumption | with_reducible apply ih | (extract_lets +onlyGivenNames x; refine @cut kb s0 x _ ?_ (fun hx => ?_); unfold x; clear x; rotate_left; clear_value x; rotate_right) | (extract_lets +onlyGivenNames x; clear_value x) | with_reducible apply barWrite_keeps | with_reducible apply ite_keeps | split)
theorem execSpiRegWrite_next {a0 a1 a2} (h : Keeps kb s0 s) : ∃ t, execSpiRegWrite a0 a1 a2 s = .next t ∧ Keeps kb s0 t := by
  refine ⟨_, rfl, ?_⟩
  repeat' (first | with_reducible assumption | (extract_lets +onlyGivenNames x; refine @cut kb s0 x _ ?_ (fun hx => ?_); unfold x; clear x; rotate_left; clear_value x; rotate_right) | (extract_lets +onlyGivenNames x; clear_value x) | with_reducible refine spiWork_keeps (hk := fun _ _ => ?_) ?_ | with_reducible apply spiWords_keeps | with_reducible apply ite_keeps | split)
theorem spiReads_keeps' {a0 a1 a3} (h : Keeps kb s0 s) : Keeps2 kb s0 (spiReads a0 a1 s a3) := by
  induction a0 generalizing s a1 a3 with
  | zero => unfold spiReads; repeat' (first | with_reducible assumption | (extract_lets +onlyGivenNames x; refine @cut kb s0 x _ ?_ (fun hx => ?_); unfold x; clear x; rotate_left; clear_value x; rotate_right) | (extract_lets +onlyGivenNames x; refine @cut1 kb _ s0 x _ ?_ (fun hx => ?_); unfold x; clear x; rotate_left; clear_value x; rotate_right) | (extract_lets +onlyGivenNames x; refine @cut2 kb _ s0 x _ ?_ (fun hx => ?_); unfold x; clear x; rotate_left; clear_value x; rotate_right) | (extract_lets +onlyGivenNames x; clear_value x) | with_reducible refine regReadDo_keeps ?_ (by assumption) | with_reducible apply regReadDo_keeps2 | with_reducible apply regReadDo_keeps' | split | with_reducible apply mk2_keeps)
  | succ n ih =>
    unfold spiReads
    repeat' (first | with_reducible assumption | with_reducible apply ih | (extract_lets +onlyGivenNames x; refine @cut kb s0 x _ ?_ (fun hx => ?_); unfold x; clear x; rotate_left; clear_value x; rotate_right) | (extract_lets +onlyGivenNames x; refine @cut1 kb _ s0 x _ ?_ (fun hx => ?_); unfold x; clear x; rotate_left; clear_value x; rotate_right) | (extract_lets +onlyGivenNames x; refine @cut2 kb _ s0 x _ ?_ (fun hx => ?_); unfold x; clear x; rotate_left; clear_value x; rotate_right) | (extract_lets +onlyGivenNames x; clear_value x) | with_reducible refine regReadDo_keeps ?_ (by assumption) | with_reducible apply regReadDo_keeps2 | with_reducible apply regReadDo_keeps' | split | with_reducible apply mk2_keeps)
theorem spiReads_keeps2 {a0 a1 a3} (h : Keeps kb s0 s) : Keeps kb s0 (spiReads a0 a1 s a3).2 := spiReads_keeps' h
theorem spiReads_keeps {a0 a1 a3} {v0 t} (h : Keeps kb s0 s) (e : spiReads a0 a1 s a3 = (v0, t)) : Keeps kb s0 t := by
  have k : Keeps2 kb s0 (spiReads a0 a1 s a3) := spiReads_keeps' h; rw [e] at k; exact k
theorem spiOut_keeps {a0} (h : Keeps kb s0 s) : Keeps kb s0 (spiOut a0 s) := by
  unfold spiOut
  repeat' (first | with_reducible assumption | (extract_lets +onlyGivenNames x; refine @cut kb s0 x _ ?_ (fun hx => ?_); unfold x; clear x; rotate_left; clear_value x; rotate_right) | (extract_lets +onlyGivenNames x; clear_value x) | with_reducible apply State.onLs_keeps | with_reducible apply ite_keeps | split)
theorem execSpiRegRead_next {a0 a1} (h : Keeps kb s0 s) : ∃ t, execSpiRegRead a0 a1 s = .next t ∧ Keeps kb s0 t := by
  refine ⟨_, rfl, ?_⟩
  repeat' (first | with_reducible assumption | (extract_lets +onlyGivenNames x; refine @cut kb s0 x _ ?_ (fun hx => ?_); unfold x; clear x; rotate_left; clear_value x; rotate_right) | (extract_lets +onlyGivenNames x; refine @cut1 kb _ s0 x _ ?_ (fun hx => ?_); unfold x; clear x; rotate_left; clear_value x; rotate_right) | (extract_lets +onlyGivenNames x; refine @cut2 kb _ s0 x _ ?_ (fun hx => ?_); unfold x; clear x; rotate_left; clear_value x; rotate_right) | (extract_lets +onlyGivenNames x; clear_value x) | with_reducible refine spiWork_keeps (hk := fun _ _ => ?_) ?_ | with_reducible refine spiReads_keeps ?_ (by assumption) | with_reducible apply spiReads_keeps2 | with_reducible apply spiOut_keeps | with_reducible apply ite_keeps | with_reducible apply spiReads_keeps' | split | with_reducible apply mk1_keeps | with_reducible apply mk2_keeps)
theorem execSpiStatus_next  (h : Keeps kb s0 s) : ∃ t, execSpiStatus s = .next t ∧ Keeps kb s0 t := by
  refine ⟨_, rfl, ?_⟩
  repeat' (first | with_reducible assumption | (extract_lets +onlyGivenNames x; refine @cut kb s0 x _ ?_ (fun hx => ?_); unfold x; clear x; rotate_left; clear_value x; rotate_right) | (extract_lets +onlyGivenNames x; clear_value x) | with_reducible apply spiOut_keeps | with_reducible apply State.onLs_keeps | with_reducible apply spiTrans_keeps | with_reducible apply ite_keeps | split)
theorem spiCommand_keeps {a0} (h : Keeps kb s0 s) : Keeps kb s0 (spiCommand a0 s) := by
  unfold spiCommand
  repeat' (first | with_reducible assumption | (extract_lets +onlyGivenNames x; refine @cut kb s0 x _ ?_ (fun hx => ?_); unfold x; clear x; rotate_left; clear_value x; rotate_right) | (extract_lets +onlyGivenNames x; clear_value x) | with_reducible apply State.onCmd_keeps | with_reducible apply spiDrop_keeps | with_reducible apply complete_keeps | with_reducible apply ite_keeps | split)
theorem execCmdSend_next {a0} (h : Keeps kb s0 s) : ∃ t, execCmdSend a0 s = .next t ∧ Keeps kb s0 t := by
  refine ⟨_, rfl, ?_⟩
  repeat' (first | with_reducible assumption | (extract_lets +onlyGivenNames x; refine @cut kb s0 x _ ?_ (fun hx => ?_); unfold x; clear x; rotate_left; clear_value x; rotate_right) | (extract_lets +onlyGivenNames x; clear_value x) | with_reducible refine spiWork_keeps (hk := fun _ _ => ?_) ?_ | with_reducible apply spiCommand_keeps | with_reducible apply ite_keeps | split)
theorem execRespRead_next  (h : Keeps kb s0 s) : ∃ t, execRespRead s = .next t ∧ Keeps kb s0 t := by
  refine ⟨_, rfl, ?_⟩
  repeat' (first | with_reducible assumption | (extract_lets +onlyGivenNames x; refine @cut kb s0 x _ ?_ (fun hx => ?_); unfold x; clear x; rotate_left; clear_value x; rotate_right) | (extract_lets +onlyGivenNames x; clear_value x) | with_reducible refine spiWork_keeps (hk := fun _ _ => ?_) ?_ | with_reducible apply spiOut_keeps | with_reducible apply ite_keeps | split)
theorem spiAck_keeps  (h : Keeps kb s0 s) : Keeps kb s0 (spiAck s) := by
  unfold spiAck
  repeat' (first | with_reducible assumption | (extract_lets +onlyGivenNames x; refine @cut kb s0 x _ ?_ (fun hx => ?_); unfold x; clear x; rotate_left; clear_value x; rotate_right) | (extract_lets +onlyGivenNames x; clear_value x) | with_reducible apply State.onCmd_keeps | with_reducible apply complete_keeps | with_reducible apply ite_keeps | split)
theorem execRespAck_next  (h : Keeps kb s0 s) : ∃ t, execRespAck s = .next t ∧ Keeps kb s0 t := by
  refine ⟨_, rfl, ?_⟩
  repeat' (first | with_reducible assumption | (extract_lets +onlyGivenNames x; refine @cut kb s0 x _ ?_ (fun hx => ?_); unfold x; clear x; rotate_left; clear_value x; rotate_right) | (extract_lets +onlyGivenNames x; clear_value x) | with_reducible refine spiWork_keeps (hk := fun _ _ => ?_) ?_ | with_reducible apply spiAck_keeps | with_reducible apply ite_keeps | split)
theorem spiRec_keeps {a0 a1} (hk : ∀ s, Keeps kb s0 s → Keeps kb s0 (a1 s)) (h : Keeps kb s0 s) : Keeps kb s0 (spiRec a0 a1 s) := by
  unfold spiRec
  repeat' (first | with_reducible assumption | (extract_lets +onlyGivenNames x; refine @cut kb s0 x _ ?_ (fun hx => ?_); unfold x; clear x; rotate_left; clear_value x; rotate_right) | (extract_lets +onlyGivenNames x; clear_value x) | with_reducible refine hk _ ?_ | with_reducible apply spiTrans_keeps | with_reducible apply spiDrop_keeps | with_reducible apply ite_keeps | split)
theorem execImageWrite_next {a0 a1} (h : Keeps kb s0 s) : ∃ t, execImageWrite a0 a1 s = .next t ∧ Keeps kb s0 t := by
  refine ⟨_, rfl, ?_⟩
  repeat' (first | with_reducible assumption | (extract_lets +onlyGivenNames x; refine @cut kb s0 x _ ?_ (fun hx => ?_); unfold x; clear x; rotate_left; clear_value x; rotate_right) | (extract_lets +onlyGivenNames x; clear_value x) | with_reducible refine spiRec_keeps (hk := fun _ _ => ?_) ?_ | with_reducible apply State.onLs_keeps | with_reducible apply ite_keeps | split)
theorem recGone_keeps  (h : Keeps kb s0 s) : Keeps kb s0 (recGone s) := by
  unfold recGone
  repeat' (first | with_reducible assumption | (extract_lets +onlyGivenNames x; refine @cut kb s0 x _ ?_ (fun hx => ?_); unfold x; clear x; rotate_left; clear_value x; rotate_right) | (extract_lets +onlyGivenNames x; clear_value x) | with_reducible apply State.onLs_keeps | with_reducible apply ite_keeps | split)
theorem imageEnd_keeps {a0} (h : Keeps kb s0 s) : Keeps kb s0 (imageEnd a0 s) := by
  unfold imageEnd
  repeat' (first | with_reducible assumption | (extract_lets +onlyGivenNames x; refine @cut kb s0 x _ ?_ (fun hx => ?_); unfold x; clear x; rotate_left; clear_value x; rotate_right) | (extract_lets +onlyGivenNames x; clear_value x) | with_reducible apply State.onLs_keeps | with_reducible apply recGone_keeps | with_reducible apply faultPin_keeps | with_reducible apply State.wb_keeps | with_reducible apply versionShow_keeps | with_reducible refine State.onFlash_keeps (fun _ => ⟨rfl, rfl, Nat.le_refl _⟩) ?_ | with_reducible apply mk_free_keeps | (with_reducible apply mk_keeps; first | with_reducible assumption | with_reducible apply State.onLs_keeps | with_reducible apply recGone_keeps | with_reducible apply faultPin_keeps | with_reducible apply State.wb_keeps | with_reducible apply versionShow_keeps | with_reducible refine State.onFlash_keeps (fun _ => ⟨rfl, rfl, Nat.le_refl _⟩) ?_) | with_reducible apply ite_keeps | split)
theorem execImageEnd_next {a0} (h : Keeps kb s0 s) : ∃ t, execImageEnd a0 s = .next t ∧ Keeps kb s0 t := by
  refine ⟨_, rfl, ?_⟩
  repeat' (first | with_reducible assumption | (extract_lets +onlyGivenNames x; refine @cut kb s0 x _ ?_ (fun hx => ?_); unfold x; clear x; rotate_left; clear_value x; rotate_right) | (extract_lets +onlyGivenNames x; clear_value x) | with_reducible refine spiRec_keeps (hk := fun _ _ => ?_) ?_ | with_reducible apply imageEnd_keeps | with_reducible apply ite_keeps | split)
theorem execSpiTransactionDrop_next {a0} (h : Keeps kb s0 s) : ∃ t, execSpiTransactionDrop a0 s = .next t ∧ Keeps kb s0 t := by
  refine ⟨_, rfl, ?_⟩
  repeat' (first | with_reducible assumption | (extract_lets +onlyGivenNames x; refine @cut kb s0 x _ ?_ (fun hx => ?_); unfold x; clear x; rotate_left; clear_value x; rotate_right) | (extract_lets +onlyGivenNames x; clear_value x) | with_reducible apply spiDrop_keeps | with_reducible apply spiTrans_keeps | with_reducible apply ite_keeps | split)

end Sys2Proof.Machine
end

