-- ==== Sys2Proof/Laws/Exec.lean ====
section
/-!
SUPPORT. What carrying out any command keeps: each constructor by the lemma of its meaning.
-/
namespace Sys2Proof.Machine

/-- Every command answers a next state, which has kept what `Keeps` says. -/
theorem exec_next (c : Instr) (s : State) : ∃ t, exec c s = .next t ∧ Keeps False s t := by
  cases c
  case sampleBoundary => exact execSampleBoundary_next (Keeps.refl s)
  case tickBoundary => exact execTickBoundary_next (Keeps.refl s)
  case guardLoadEnd => exact execGuardLoadEnd_next (Keeps.refl s)
  case patrolDwellEnd => exact execPatrolDwellEnd_next (Keeps.refl s)
  case bistEnd => exact execBistEnd_next (Keeps.refl s)
  case sramUncorrectable => exact execSramUncorrectable_next (Keeps.refl s)
  case scrubPass => exact execScrubPass_next (Keeps.refl s)
  case errataFlush => exact execErrataFlush_next (Keeps.refl s)
  case snapRecord => exact execSnapRecord_next (Keeps.refl s)
  case driftWindowEnd => exact execDriftWindowEnd_next (Keeps.refl s)
  case candidateLoss => exact execCandidateLoss_next (Keeps.refl s)
  case clockPinEdge => exact execClockPinEdge_next (Keeps.refl s)
  case cpllLockLoss => exact execCpllLockLoss_next (Keeps.refl s)
  case coreCycleMonitor => exact execCoreCycleMonitor_next (Keeps.refl s)
  case tpllLoss => exact execTpllLoss_next (Keeps.refl s)
  case tpllRelock => exact execTpllRelock_next (Keeps.refl s)
  case mpllLoss => exact execMpllLoss_next (Keeps.refl s)
  case mpllRelock => exact execMpllRelock_next (Keeps.refl s)
  case sscChangeDone => exact execSscChangeDone_next (Keeps.refl s)
  case phaseStepDone => exact execPhaseStepDone_next (Keeps.refl s)
  case frameReceive => exact execFrameReceive_next (Keeps.refl s)
  case masterLoss => exact execMasterLoss_next (Keeps.refl s)
  case delayReqSend => exact execDelayReqSend_next (Keeps.refl s)
  case sapSessionExpire => exact execSapSessionExpire_next (Keeps.refl s)
  case sapTxAnnounce => exact execSapTxAnnounce_next (Keeps.refl s)
  case multicastJoin => exact execMulticastJoin_next (Keeps.refl s)
  case membershipReport => exact execMembershipReport_next (Keeps.refl s)
  case neighbourAgeOut => exact execNeighbourAgeOut_next (Keeps.refl s)
  case linkDown => exact execLinkDown_next (Keeps.refl s)
  case qsfpInsertRemove => exact execQsfpInsertRemove_next (Keeps.refl s)
  case qsfpMonitor => exact execQsfpMonitor_next (Keeps.refl s)
  case wakeMatch => exact execWakeMatch_next (Keeps.refl s)
  case frameTransmit => exact execFrameTransmit_next (Keeps.refl s)
  case hostFrameDeparted => exact execHostFrameDeparted_next (Keeps.refl s)
  case streamGap => exact execStreamGap_next (Keeps.refl s)
  case planeChg => exact execPlaneChg_next (Keeps.refl s)
  case streamStart => exact execStreamStart_next (Keeps.refl s)
  case streamStop => exact execStreamStop_next (Keeps.refl s)
  case asrcStageEnd => exact execAsrcStageEnd_next (Keeps.refl s)
  case i2sFrameEdge => exact execI2sFrameEdge_next (Keeps.refl s)
  case i2sClockLoss => exact execI2sClockLoss_next (Keeps.refl s)
  case aes3FrameRx => exact execAes3FrameRx_next (Keeps.refl s)
  case aes3LockLoss => exact execAes3LockLoss_next (Keeps.refl s)
  case ltcFrameRx => exact execLtcFrameRx_next (Keeps.refl s)
  case evtInEdge => exact execEvtInEdge_next (Keeps.refl s)
  case gpioEdge => exact execGpioEdge_next (Keeps.refl s)
  case rampEnd => exact execRampEnd_next (Keeps.refl s)
  case copyOverEnd => exact execCopyOverEnd_next (Keeps.refl s)
  case versoUnlock => exact execVersoUnlock_next (Keeps.refl s)
  case sceneLoadEnd => exact execSceneLoadEnd_next (Keeps.refl s)
  case sceneSaveDone => exact execSceneSaveDone_next (Keeps.refl s)
  case acqTimeout => exact execAcqTimeout_next (Keeps.refl s)
  case prerollEnd => exact execPrerollEnd_next (Keeps.refl s)
  case thermalLimit => exact execThermalLimit_next (Keeps.refl s)
  case railExc => exact execRailExc_next (Keeps.refl s)
  case bankChg => exact execBankChg_next (Keeps.refl s)
  case resetAssert => exact execResetAssert_next (Keeps.refl s)
  case resetRelease => exact execResetRelease_next (Keeps.refl s)
  case bootImageSelect => exact execBootImageSelect_next (Keeps.refl s)
  case firmwareRunning => exact execFirmwareRunning_next (Keeps.refl s)
  case bootScenesDone => exact execBootScenesDone_next (Keeps.refl s)
  case pfailAssert => exact execPfailAssert_next (Keeps.refl s)
  case lastwordsDone => exact execLastwordsDone_next (Keeps.refl s)
  case pfailGlitch => exact execPfailGlitch_next (Keeps.refl s)
  case watchdogFire => exact execWatchdogFire_next (Keeps.refl s)
  case mgmtRestartDone => exact execMgmtRestartDone_next (Keeps.refl s)
  case mgmtException => exact execMgmtException_next (Keeps.refl s)
  case flr => exact execFlr_next (Keeps.refl s)
  case flrComplete => exact execFlrComplete_next (Keeps.refl s)
  case pcieReset => exact execPcieReset_next (Keeps.refl s)
  case busMasterClear => exact execBusMasterClear_next (Keeps.refl s)
  case rampOutSilenced => exact execRampOutSilenced_next (Keeps.refl s)
  case reclaimComplete => exact execReclaimComplete_next (Keeps.refl s)
  case commandFetch => exact execCommandFetch_next (Keeps.refl s)
  case completionInterrupt => exact execCompletionInterrupt_next (Keeps.refl s)
  case ringError => exact execRingError_next (Keeps.refl s)
  case dmaError => exact execDmaError_next (Keeps.refl s)
  case descriptorFetch => exact execDescriptorFetch_next (Keeps.refl s)
  case playbackFetch => exact execPlaybackFetch_next (Keeps.refl s)
  case captureWriteback => exact execCaptureWriteback_next (Keeps.refl s)
  case msixMessage => exact execMsixMessage_next (Keeps.refl s)
  case msixUnmask => exact execMsixUnmask_next (Keeps.refl s)
  case spiRegWrite => exact execSpiRegWrite_next (Keeps.refl s)
  case spiRegRead => exact execSpiRegRead_next (Keeps.refl s)
  case spiStatus => exact execSpiStatus_next (Keeps.refl s)
  case cmdSend => exact execCmdSend_next (Keeps.refl s)
  case respRead => exact execRespRead_next (Keeps.refl s)
  case respAck => exact execRespAck_next (Keeps.refl s)
  case imageWrite => exact execImageWrite_next (Keeps.refl s)
  case imageEnd => exact execImageEnd_next (Keeps.refl s)
  case spiTransactionDrop => exact execSpiTransactionDrop_next (Keeps.refl s)
  case uartFrameRx => exact execUartFrameRx_next (Keeps.refl s)
  case i2cTransferDone => exact execI2cTransferDone_next (Keeps.refl s)
  case i2cBusCheck => exact execI2cBusCheck_next (Keeps.refl s)
  case flashSuspend => exact execFlashSuspend_next (Keeps.refl s)
  case flashResume => exact execFlashResume_next (Keeps.refl s)
  case fwConfirmTimer => exact execFwConfirmTimer_next (Keeps.refl s)
  case stageTimeout => exact execStageTimeout_next (Keeps.refl s)
  case blockLock => exact execBlockLock_next (Keeps.refl s)
  case markerSet => exact execMarkerSet_next (Keeps.refl s)
  case trainTimeout => exact execTrainTimeout_next (Keeps.refl s)
  case cellTimeout => exact execCellTimeout_next (Keeps.refl s)
  case cellReceive => exact execCellReceive_next (Keeps.refl s)
  case mgmtFragmentDiscard => exact execMgmtFragmentDiscard_next (Keeps.refl s)
  case mirrorLost => exact execMirrorLost_next (Keeps.refl s)
  case mirrorCopyComplete => exact execMirrorCopyComplete_next (Keeps.refl s)
  case mirrorRepair => exact execMirrorRepair_next (Keeps.refl s)
  case mirrorForward => exact execMirrorForward_next (Keeps.refl s)
  case tunnelTimeout => exact execTunnelTimeout_next (Keeps.refl s)
  case reservationExpire => exact execReservationExpire_next (Keeps.refl s)
  case deviceIdentity => exact execDeviceIdentity_next (Keeps.refl s)
  case modeSet => exact execModeSet_next (Keeps.refl s)
  case modeStatus => exact execModeStatus_next (Keeps.refl s)
  case modeConfig => exact execModeConfig_next (Keeps.refl s)
  case configSave => exact execConfigSave_next (Keeps.refl s)
  case configRead => exact execConfigRead_next (Keeps.refl s)
  case pwrStatus => exact execPwrStatus_next (Keeps.refl s)
  case ioConfig => exact execIoConfig_next (Keeps.refl s)
  case timeSnapshot => exact execTimeSnapshot_next (Keeps.refl s)
  case tbSet => exact execTbSet_next (Keeps.refl s)
  case collArm => exact execCollArm_next (Keeps.refl s)
  case collCancel => exact execCollCancel_next (Keeps.refl s)
  case collQuery => exact execCollQuery_next (Keeps.refl s)
  case ltcConfig => exact execLtcConfig_next (Keeps.refl s)
  case evtConfig => exact execEvtConfig_next (Keeps.refl s)
  case evtRead => exact execEvtRead_next (Keeps.refl s)
  case refConfig => exact execRefConfig_next (Keeps.refl s)
  case refStatus => exact execRefStatus_next (Keeps.refl s)
  case alignNow => exact execAlignNow_next (Keeps.refl s)
  case clkConfig => exact execClkConfig_next (Keeps.refl s)
  case mpllStep => exact execMpllStep_next (Keeps.refl s)
  case clkStatus => exact execClkStatus_next (Keeps.refl s)
  case ptpConfig => exact execPtpConfig_next (Keeps.refl s)
  case ptpStatus => exact execPtpStatus_next (Keeps.refl s)
  case streamRxAdd => exact execStreamRxAdd_next (Keeps.refl s)
  case streamRxSdp => exact execStreamRxSdp_next (Keeps.refl s)
  case streamRxModify => exact execStreamRxModify_next (Keeps.refl s)
  case streamRxRemove => exact execStreamRxRemove_next (Keeps.refl s)
  case streamRxStatus => exact execStreamRxStatus_next (Keeps.refl s)
  case streamRxCounters => exact execStreamRxCounters_next (Keeps.refl s)
  case sapConfig => exact execSapConfig_next (Keeps.refl s)
  case sapList => exact execSapList_next (Keeps.refl s)
  case streamTxAdd => exact execStreamTxAdd_next (Keeps.refl s)
  case streamTxModify => exact execStreamTxModify_next (Keeps.refl s)
  case streamTxRemove => exact execStreamTxRemove_next (Keeps.refl s)
  case streamTxStatus => exact execStreamTxStatus_next (Keeps.refl s)
  case streamTxCounters => exact execStreamTxCounters_next (Keeps.refl s)
  case txchSet => exact execTxchSet_next (Keeps.refl s)
  case streamTxSdp => exact execStreamTxSdp_next (Keeps.refl s)
  case sapTxConfig => exact execSapTxConfig_next (Keeps.refl s)
  case txLoadQuery => exact execTxLoadQuery_next (Keeps.refl s)
  case xpntInputSet => exact execXpntInputSet_next (Keeps.refl s)
  case xpntInputGet => exact execXpntInputGet_next (Keeps.refl s)
  case xpntOutputSet => exact execXpntOutputSet_next (Keeps.refl s)
  case xpntOutputGet => exact execXpntOutputGet_next (Keeps.refl s)
  case delayAlloc => exact execDelayAlloc_next (Keeps.refl s)
  case delayPoolStatus => exact execDelayPoolStatus_next (Keeps.refl s)
  case testgenSet => exact execTestgenSet_next (Keeps.refl s)
  case xpntCounters => exact execXpntCounters_next (Keeps.refl s)
  case inAssign => exact execInAssign_next (Keeps.refl s)
  case sceneEdit => exact execSceneEdit_next (Keeps.refl s)
  case sceneEditBlock => exact execSceneEditBlock_next (Keeps.refl s)
  case sceneRead => exact execSceneRead_next (Keeps.refl s)
  case sceneRevert => exact execSceneRevert_next (Keeps.refl s)
  case sceneClear => exact execSceneClear_next (Keeps.refl s)
  case turnDefine => exact execTurnDefine_next (Keeps.refl s)
  case turn => exact execTurn_next (Keeps.refl s)
  case turnStatus => exact execTurnStatus_next (Keeps.refl s)
  case sceneSave => exact execSceneSave_next (Keeps.refl s)
  case sceneLoad => exact execSceneLoad_next (Keeps.refl s)
  case sceneList => exact execSceneList_next (Keeps.refl s)
  case sceneDelete => exact execSceneDelete_next (Keeps.refl s)
  case meterRead => exact execMeterRead_next (Keeps.refl s)
  case meterProfileSet => exact execMeterProfileSet_next (Keeps.refl s)
  case meterAssign => exact execMeterAssign_next (Keeps.refl s)
  case meterHoldClear => exact execMeterHoldClear_next (Keeps.refl s)
  case gateRead => exact execGateRead_next (Keeps.refl s)
  case snapConfig => exact execSnapConfig_next (Keeps.refl s)
  case meterTrigger => exact execMeterTrigger_next (Keeps.refl s)
  case snapStatus => exact execSnapStatus_next (Keeps.refl s)
  case netPortConfig => exact execNetPortConfig_next (Keeps.refl s)
  case netPortStatus => exact execNetPortStatus_next (Keeps.refl s)
  case netAddrSet => exact execNetAddrSet_next (Keeps.refl s)
  case gclLoad => exact execGclLoad_next (Keeps.refl s)
  case qsfpRead => exact execQsfpRead_next (Keeps.refl s)
  case wakePattern => exact execWakePattern_next (Keeps.refl s)
  case i2sConfig => exact execI2sConfig_next (Keeps.refl s)
  case i2sStatus => exact execI2sStatus_next (Keeps.refl s)
  case portStart => exact execPortStart_next (Keeps.refl s)
  case localOutSet => exact execLocalOutSet_next (Keeps.refl s)
  case aes3RxConfig => exact execAes3RxConfig_next (Keeps.refl s)
  case aes3RxStatus => exact execAes3RxStatus_next (Keeps.refl s)
  case aes3TxConfig => exact execAes3TxConfig_next (Keeps.refl s)
  case aes3TxStatus => exact execAes3TxStatus_next (Keeps.refl s)
  case clkpinConfig => exact execClkpinConfig_next (Keeps.refl s)
  case clkpinStatus => exact execClkpinStatus_next (Keeps.refl s)
  case srcGroupConfig => exact execSrcGroupConfig_next (Keeps.refl s)
  case srcStatus => exact execSrcStatus_next (Keeps.refl s)
  case srcRelock => exact execSrcRelock_next (Keeps.refl s)
  case srcPathQuery => exact execSrcPathQuery_next (Keeps.refl s)
  case i2cConfig => exact execI2cConfig_next (Keeps.refl s)
  case i2cXfer => exact execI2cXfer_next (Keeps.refl s)
  case i2cStatus => exact execI2cStatus_next (Keeps.refl s)
  case i2cBusClear => exact execI2cBusClear_next (Keeps.refl s)
  case uartConfig => exact execUartConfig_next (Keeps.refl s)
  case uartWrite => exact execUartWrite_next (Keeps.refl s)
  case uartRead => exact execUartRead_next (Keeps.refl s)
  case gpioConfig => exact execGpioConfig_next (Keeps.refl s)
  case gpioRead => exact execGpioRead_next (Keeps.refl s)
  case flashInfo => exact execFlashInfo_next (Keeps.refl s)
  case ctrlpinConfig => exact execCtrlpinConfig_next (Keeps.refl s)
  case ulinkConfig => exact execUlinkConfig_next (Keeps.refl s)
  case ulinkStatus => exact execUlinkStatus_next (Keeps.refl s)
  case ulinkRetrain => exact execUlinkRetrain_next (Keeps.refl s)
  case hierJoin => exact execHierJoin_next (Keeps.refl s)
  case hierStatus => exact execHierStatus_next (Keeps.refl s)
  case relaySet => exact execRelaySet_next (Keeps.refl s)
  case gridTurn => exact execGridTurn_next (Keeps.refl s)
  case umarunTunnel => exact execUmarunTunnel_next (Keeps.refl s)
  case mirrorTakeover => exact execMirrorTakeover_next (Keeps.refl s)
  case mirrorStatus => exact execMirrorStatus_next (Keeps.refl s)
  case faultStatus => exact execFaultStatus_next (Keeps.refl s)
  case errataRead => exact execErrataRead_next (Keeps.refl s)
  case errataClear => exact execErrataClear_next (Keeps.refl s)
  case errataLogRead => exact execErrataLogRead_next (Keeps.refl s)
  case lastwordsRead => exact execLastwordsRead_next (Keeps.refl s)
  case patrolConfig => exact execPatrolConfig_next (Keeps.refl s)
  case sigRelease => exact execSigRelease_next (Keeps.refl s)
  case tipInForce => exact execTipInForce_next (Keeps.refl s)
  case faultInject => exact execFaultInject_next (Keeps.refl s)
  case wdtConfig => exact execWdtConfig_next (Keeps.refl s)
  case tenantCreate => exact execTenantCreate_next (Keeps.refl s)
  case tenantDestroy => exact execTenantDestroy_next (Keeps.refl s)
  case quotaSet => exact execQuotaSet_next (Keeps.refl s)
  case revoke => exact execRevoke_next (Keeps.refl s)
  case tenantStatus => exact execTenantStatus_next (Keeps.refl s)
  case sigAssign => exact execSigAssign_next (Keeps.refl s)
  case sigReturn => exact execSigReturn_next (Keeps.refl s)
  case tenantResume => exact execTenantResume_next (Keeps.refl s)
  case hostchAssign => exact execHostchAssign_next (Keeps.refl s)
  case misuseLogRead => exact execMisuseLogRead_next (Keeps.refl s)
  case tenantConfig => exact execTenantConfig_next (Keeps.refl s)
  case secStatus => exact execSecStatus_next (Keeps.refl s)
  case keyLoad => exact execKeyLoad_next (Keeps.refl s)
  case keyRetire => exact execKeyRetire_next (Keeps.refl s)
  case keyStatus => exact execKeyStatus_next (Keeps.refl s)
  case fwStatus => exact execFwStatus_next (Keeps.refl s)
  case fwStageOpen => exact execFwStageOpen_next (Keeps.refl s)
  case fwStageWrite => exact execFwStageWrite_next (Keeps.refl s)
  case fwStageClose => exact execFwStageClose_next (Keeps.refl s)
  case fwActivate => exact execFwActivate_next (Keeps.refl s)
  case fwConfirm => exact execFwConfirm_next (Keeps.refl s)
  case fwStageAbort => exact execFwStageAbort_next (Keeps.refl s)
  case debugUnlock => exact execDebugUnlock_next (Keeps.refl s)
  case debugLock => exact execDebugLock_next (Keeps.refl s)
  case factoryErase => exact execFactoryErase_next (Keeps.refl s)
  case mgmtUdpConfig => exact execMgmtUdpConfig_next (Keeps.refl s)
  case bufRegister => exact execBufRegister_next (Keeps.refl s)
  case bufRelease => exact execBufRelease_next (Keeps.refl s)
  case bufQuery => exact execBufQuery_next (Keeps.refl s)
  case ringConfig => exact execRingConfig_next (Keeps.refl s)
  case ringStatus => exact execRingStatus_next (Keeps.refl s)
  case capchSet => exact execCapchSet_next (Keeps.refl s)
  case rxfilterSet => exact execRxfilterSet_next (Keeps.refl s)
  case rxfilterClear => exact execRxfilterClear_next (Keeps.refl s)
  case registerWrite => exact execRegisterWrite_next (Keeps.refl s)
  case snapshotReq => exact execSnapshotReq_next (Keeps.refl s)
  case slotArm => exact execSlotArm_next (Keeps.refl s)
  case slotCancel => exact execSlotCancel_next (Keeps.refl s)
  case slotStatRead => exact execSlotStatRead_next (Keeps.refl s)
  case entry3Read => exact execEntry3Read_next (Keeps.refl s)
  case evtFifoRead => exact execEvtFifoRead_next (Keeps.refl s)
  case mtrVal0Read => exact execMtrVal0Read_next (Keeps.refl s)
  case errRec0Read => exact execErrRec0Read_next (Keeps.refl s)
  case setGo => exact execSetGo_next (Keeps.refl s)
  case rxCommit => exact execRxCommit_next (Keeps.refl s)
  case rxLoad => exact execRxLoad_next (Keeps.refl s)
  case txCommit => exact execTxCommit_next (Keeps.refl s)
  case txLoad => exact execTxLoad_next (Keeps.refl s)
  case counterClear => exact execCounterClear_next (Keeps.refl s)
  case clearAll => exact execClearAll_next (Keeps.refl s)
  case alignCmd => exact execAlignCmd_next (Keeps.refl s)
  case cpllSwap => exact execCpllSwap_next (Keeps.refl s)
  case mpllPstepWrite => exact execMpllPstepWrite_next (Keeps.refl s)
  case sscModeWrite => exact execSscModeWrite_next (Keeps.refl s)
  case gclSwap => exact execGclSwap_next (Keeps.refl s)
  case qsfpReset => exact execQsfpReset_next (Keeps.refl s)
  case now => exact execNow_next (Keeps.refl s)
  case define => exact execDefine_next (Keeps.refl s)
  case release => exact execRelease_next (Keeps.refl s)
  case versoClear => exact execVersoClear_next (Keeps.refl s)
  case versoRevert => exact execVersoRevert_next (Keeps.refl s)
  case versoWindowWrite => exact execVersoWindowWrite_next (Keeps.refl s)
  case clrHold => exact execClrHold_next (Keeps.refl s)
  case holdClrAll => exact execHoldClrAll_next (Keeps.refl s)
  case snapCtlWrite => exact execSnapCtlWrite_next (Keeps.refl s)
  case relock => exact execRelock_next (Keeps.refl s)
  case i2sBindWrite => exact execI2sBindWrite_next (Keeps.refl s)
  case grpStart => exact execGrpStart_next (Keeps.refl s)
  case restart => exact execRestart_next (Keeps.refl s)
  case i2sPortEnable => exact execI2sPortEnable_next (Keeps.refl s)
  case i2sPortDisable => exact execI2sPortDisable_next (Keeps.refl s)
  case aesRxEnable => exact execAesRxEnable_next (Keeps.refl s)
  case aesTxEnable => exact execAesTxEnable_next (Keeps.refl s)
  case txStart => exact execTxStart_next (Keeps.refl s)
  case txStop => exact execTxStop_next (Keeps.refl s)
  case clockOutEnable => exact execClockOutEnable_next (Keeps.refl s)
  case mclkChange => exact execMclkChange_next (Keeps.refl s)
  case linkEnable => exact execLinkEnable_next (Keeps.refl s)
  case retrain => exact execRetrain_next (Keeps.refl s)
  case faultAck => exact execFaultAck_next (Keeps.refl s)
  case kick => exact execKick_next (Keeps.refl s)
  case mgmtRestart => exact execMgmtRestart_next (Keeps.refl s)
  case sqTail => exact execSqTail_next (Keeps.refl s)
  case cqHead => exact execCqHead_next (Keeps.refl s)
  case dmaTail => exact execDmaTail_next (Keeps.refl s)
  case cqEnable => exact execCqEnable_next (Keeps.refl s)
  case ringEnable => exact execRingEnable_next (Keeps.refl s)
  case maskWrite => exact execMaskWrite_next (Keeps.refl s)
  case go => exact execGo_next (Keeps.refl s)
  case intForce => exact execIntForce_next (Keeps.refl s)
  case intStatClear => exact execIntStatClear_next (Keeps.refl s)
  case busClear => exact execBusClear_next (Keeps.refl s)
  case i2cEnable => exact execI2cEnable_next (Keeps.refl s)
  case cpllRelock => exact execCpllRelock_next (Keeps.refl s)
  case standbyCpllLockLoss => exact execStandbyCpllLockLoss_next (Keeps.refl s)
  case pllPhaseExcursion => exact execPllPhaseExcursion_next (Keeps.refl s)
  case gateEntryChange => exact execGateEntryChange_next (Keeps.refl s)
  case aes3TxBlockStart => exact execAes3TxBlockStart_next (Keeps.refl s)
  case ltcOutFrame => exact execLtcOutFrame_next (Keeps.refl s)
  case clockOutEdge => exact execClockOutEdge_next (Keeps.refl s)
  case cellSend => exact execCellSend_next (Keeps.refl s)
  case uartFrameTx => exact execUartFrameTx_next (Keeps.refl s)
  case flashOperationDone => exact execFlashOperationDone_next (Keeps.refl s)
  case memberTimeout => exact execMemberTimeout_next (Keeps.refl s)

/-- The rows that may move the sample index. -/
def movesIndex : Instr → Bool
  | .sampleBoundary _ | .tickBoundary _ | .resetAssert _ | .wakeMatch _ _ | .firmwareRunning _ => true
  | _ => false

/-- Every other command leaves the sample index. -/
theorem exec_sample (c : Instr) (s : State) (h : movesIndex c = false) : ∃ t, exec c s = .next t ∧ Keeps True s t := by
  cases c
  case sampleBoundary => exact Bool.noConfusion h
  case tickBoundary => exact Bool.noConfusion h
  case guardLoadEnd => exact execGuardLoadEnd_next (Keeps.refl s)
  case patrolDwellEnd => exact execPatrolDwellEnd_next (Keeps.refl s)
  case bistEnd => exact execBistEnd_next (Keeps.refl s)
  case sramUncorrectable => exact execSramUncorrectable_next (Keeps.refl s)
  case scrubPass => exact execScrubPass_next (Keeps.refl s)
  case errataFlush => exact execErrataFlush_next (Keeps.refl s)
  case snapRecord => exact execSnapRecord_next (Keeps.refl s)
  case driftWindowEnd => exact execDriftWindowEnd_next (Keeps.refl s)
  case candidateLoss => exact execCandidateLoss_next (Keeps.refl s)
  case clockPinEdge => exact execClockPinEdge_next (Keeps.refl s)
  case cpllLockLoss => exact execCpllLockLoss_next (Keeps.refl s)
  case coreCycleMonitor => exact execCoreCycleMonitor_next (Keeps.refl s)
  case tpllLoss => exact execTpllLoss_next (Keeps.refl s)
  case tpllRelock => exact execTpllRelock_next (Keeps.refl s)
  case mpllLoss => exact execMpllLoss_next (Keeps.refl s)
  case mpllRelock => exact execMpllRelock_next (Keeps.refl s)
  case sscChangeDone => exact execSscChangeDone_next (Keeps.refl s)
  case phaseStepDone => exact execPhaseStepDone_next (Keeps.refl s)
  case frameReceive => exact execFrameReceive_next (Keeps.refl s)
  case masterLoss => exact execMasterLoss_next (Keeps.refl s)
  case delayReqSend => exact execDelayReqSend_next (Keeps.refl s)
  case sapSessionExpire => exact execSapSessionExpire_next (Keeps.refl s)
  case sapTxAnnounce => exact execSapTxAnnounce_next (Keeps.refl s)
  case multicastJoin => exact execMulticastJoin_next (Keeps.refl s)
  case membershipReport => exact execMembershipReport_next (Keeps.refl s)
  case neighbourAgeOut => exact execNeighbourAgeOut_next (Keeps.refl s)
  case linkDown => exact execLinkDown_next (Keeps.refl s)
  case qsfpInsertRemove => exact execQsfpInsertRemove_next (Keeps.refl s)
  case qsfpMonitor => exact execQsfpMonitor_next (Keeps.refl s)
  case wakeMatch => exact Bool.noConfusion h
  case frameTransmit => exact execFrameTransmit_next (Keeps.refl s)
  case hostFrameDeparted => exact execHostFrameDeparted_next (Keeps.refl s)
  case streamGap => exact execStreamGap_next (Keeps.refl s)
  case planeChg => exact execPlaneChg_next (Keeps.refl s)
  case streamStart => exact execStreamStart_next (Keeps.refl s)
  case streamStop => exact execStreamStop_next (Keeps.refl s)
  case asrcStageEnd => exact execAsrcStageEnd_next (Keeps.refl s)
  case i2sFrameEdge => exact execI2sFrameEdge_next (Keeps.refl s)
  case i2sClockLoss => exact execI2sClockLoss_next (Keeps.refl s)
  case aes3FrameRx => exact execAes3FrameRx_next (Keeps.refl s)
  case aes3LockLoss => exact execAes3LockLoss_next (Keeps.refl s)
  case ltcFrameRx => exact execLtcFrameRx_next (Keeps.refl s)
  case evtInEdge => exact execEvtInEdge_next (Keeps.refl s)
  case gpioEdge => exact execGpioEdge_next (Keeps.refl s)
  case rampEnd => exact execRampEnd_next (Keeps.refl s)
  case copyOverEnd => exact execCopyOverEnd_next (Keeps.refl s)
  case versoUnlock => exact execVersoUnlock_next (Keeps.refl s)
  case sceneLoadEnd => exact execSceneLoadEnd_next (Keeps.refl s)
  case sceneSaveDone => exact execSceneSaveDone_next (Keeps.refl s)
  case acqTimeout => exact execAcqTimeout_next (Keeps.refl s)
  case prerollEnd => exact execPrerollEnd_next (Keeps.refl s)
  case thermalLimit => exact execThermalLimit_next (Keeps.refl s)
  case railExc => exact execRailExc_next (Keeps.refl s)
  case bankChg => exact execBankChg_next (Keeps.refl s)
  case resetAssert => exact Bool.noConfusion h
  case resetRelease => exact execResetRelease_next (Keeps.refl s)
  case bootImageSelect => exact execBootImageSelect_next (Keeps.refl s)
  case firmwareRunning => exact Bool.noConfusion h
  case bootScenesDone => exact execBootScenesDone_next (Keeps.refl s)
  case pfailAssert => exact execPfailAssert_next (Keeps.refl s)
  case lastwordsDone => exact execLastwordsDone_next (Keeps.refl s)
  case pfailGlitch => exact execPfailGlitch_next (Keeps.refl s)
  case watchdogFire => exact execWatchdogFire_next (Keeps.refl s)
  case mgmtRestartDone => exact execMgmtRestartDone_next (Keeps.refl s)
  case mgmtException => exact execMgmtException_next (Keeps.refl s)
  case flr => exact execFlr_next (Keeps.refl s)
  case flrComplete => exact execFlrComplete_next (Keeps.refl s)
  case pcieReset => exact execPcieReset_next (Keeps.refl s)
  case busMasterClear => exact execBusMasterClear_next (Keeps.refl s)
  case rampOutSilenced => exact execRampOutSilenced_next (Keeps.refl s)
  case reclaimComplete => exact execReclaimComplete_next (Keeps.refl s)
  case commandFetch => exact execCommandFetch_next (Keeps.refl s)
  case completionInterrupt => exact execCompletionInterrupt_next (Keeps.refl s)
  case ringError => exact execRingError_next (Keeps.refl s)
  case dmaError => exact execDmaError_next (Keeps.refl s)
  case descriptorFetch => exact execDescriptorFetch_next (Keeps.refl s)
  case playbackFetch => exact execPlaybackFetch_next (Keeps.refl s)
  case captureWriteback => exact execCaptureWriteback_next (Keeps.refl s)
  case msixMessage => exact execMsixMessage_next (Keeps.refl s)
  case msixUnmask => exact execMsixUnmask_next (Keeps.refl s)
  case spiRegWrite => exact execSpiRegWrite_next (Keeps.refl s)
  case spiRegRead => exact execSpiRegRead_next (Keeps.refl s)
  case spiStatus => exact execSpiStatus_next (Keeps.refl s)
  case cmdSend => exact execCmdSend_next (Keeps.refl s)
  case respRead => exact execRespRead_next (Keeps.refl s)
  case respAck => exact execRespAck_next (Keeps.refl s)
  case imageWrite => exact execImageWrite_next (Keeps.refl s)
  case imageEnd => exact execImageEnd_next (Keeps.refl s)
  case spiTransactionDrop => exact execSpiTransactionDrop_next (Keeps.refl s)
  case uartFrameRx => exact execUartFrameRx_next (Keeps.refl s)
  case i2cTransferDone => exact execI2cTransferDone_next (Keeps.refl s)
  case i2cBusCheck => exact execI2cBusCheck_next (Keeps.refl s)
  case flashSuspend => exact execFlashSuspend_next (Keeps.refl s)
  case flashResume => exact execFlashResume_next (Keeps.refl s)
  case fwConfirmTimer => exact execFwConfirmTimer_next (Keeps.refl s)
  case stageTimeout => exact execStageTimeout_next (Keeps.refl s)
  case blockLock => exact execBlockLock_next (Keeps.refl s)
  case markerSet => exact execMarkerSet_next (Keeps.refl s)
  case trainTimeout => exact execTrainTimeout_next (Keeps.refl s)
  case cellTimeout => exact execCellTimeout_next (Keeps.refl s)
  case cellReceive => exact execCellReceive_next (Keeps.refl s)
  case mgmtFragmentDiscard => exact execMgmtFragmentDiscard_next (Keeps.refl s)
  case mirrorLost => exact execMirrorLost_next (Keeps.refl s)
  case mirrorCopyComplete => exact execMirrorCopyComplete_next (Keeps.refl s)
  case mirrorRepair => exact execMirrorRepair_next (Keeps.refl s)
  case mirrorForward => exact execMirrorForward_next (Keeps.refl s)
  case tunnelTimeout => exact execTunnelTimeout_next (Keeps.refl s)
  case reservationExpire => exact execReservationExpire_next (Keeps.refl s)
  case deviceIdentity => exact execDeviceIdentity_next (Keeps.refl s)
  case modeSet => exact execModeSet_next (Keeps.refl s)
  case modeStatus => exact execModeStatus_next (Keeps.refl s)
  case modeConfig => exact execModeConfig_next (Keeps.refl s)
  case configSave => exact execConfigSave_next (Keeps.refl s)
  case configRead => exact execConfigRead_next (Keeps.refl s)
  case pwrStatus => exact execPwrStatus_next (Keeps.refl s)
  case ioConfig => exact execIoConfig_next (Keeps.refl s)
  case timeSnapshot => exact execTimeSnapshot_next (Keeps.refl s)
  case tbSet => exact execTbSet_next (Keeps.refl s)
  case collArm => exact execCollArm_next (Keeps.refl s)
  case collCancel => exact execCollCancel_next (Keeps.refl s)
  case collQuery => exact execCollQuery_next (Keeps.refl s)
  case ltcConfig => exact execLtcConfig_next (Keeps.refl s)
  case evtConfig => exact execEvtConfig_next (Keeps.refl s)
  case evtRead => exact execEvtRead_next (Keeps.refl s)
  case refConfig => exact execRefConfig_next (Keeps.refl s)
  case refStatus => exact execRefStatus_next (Keeps.refl s)
  case alignNow => exact execAlignNow_next (Keeps.refl s)
  case clkConfig => exact execClkConfig_next (Keeps.refl s)
  case mpllStep => exact execMpllStep_next (Keeps.refl s)
  case clkStatus => exact execClkStatus_next (Keeps.refl s)
  case ptpConfig => exact execPtpConfig_next (Keeps.refl s)
  case ptpStatus => exact execPtpStatus_next (Keeps.refl s)
  case streamRxAdd => exact execStreamRxAdd_next (Keeps.refl s)
  case streamRxSdp => exact execStreamRxSdp_next (Keeps.refl s)
  case streamRxModify => exact execStreamRxModify_next (Keeps.refl s)
  case streamRxRemove => exact execStreamRxRemove_next (Keeps.refl s)
  case streamRxStatus => exact execStreamRxStatus_next (Keeps.refl s)
  case streamRxCounters => exact execStreamRxCounters_next (Keeps.refl s)
  case sapConfig => exact execSapConfig_next (Keeps.refl s)
  case sapList => exact execSapList_next (Keeps.refl s)
  case streamTxAdd => exact execStreamTxAdd_next (Keeps.refl s)
  case streamTxModify => exact execStreamTxModify_next (Keeps.refl s)
  case streamTxRemove => exact execStreamTxRemove_next (Keeps.refl s)
  case streamTxStatus => exact execStreamTxStatus_next (Keeps.refl s)
  case streamTxCounters => exact execStreamTxCounters_next (Keeps.refl s)
  case txchSet => exact execTxchSet_next (Keeps.refl s)
  case streamTxSdp => exact execStreamTxSdp_next (Keeps.refl s)
  case sapTxConfig => exact execSapTxConfig_next (Keeps.refl s)
  case txLoadQuery => exact execTxLoadQuery_next (Keeps.refl s)
  case xpntInputSet => exact execXpntInputSet_next (Keeps.refl s)
  case xpntInputGet => exact execXpntInputGet_next (Keeps.refl s)
  case xpntOutputSet => exact execXpntOutputSet_next (Keeps.refl s)
  case xpntOutputGet => exact execXpntOutputGet_next (Keeps.refl s)
  case delayAlloc => exact execDelayAlloc_next (Keeps.refl s)
  case delayPoolStatus => exact execDelayPoolStatus_next (Keeps.refl s)
  case testgenSet => exact execTestgenSet_next (Keeps.refl s)
  case xpntCounters => exact execXpntCounters_next (Keeps.refl s)
  case inAssign => exact execInAssign_next (Keeps.refl s)
  case sceneEdit => exact execSceneEdit_next (Keeps.refl s)
  case sceneEditBlock => exact execSceneEditBlock_next (Keeps.refl s)
  case sceneRead => exact execSceneRead_next (Keeps.refl s)
  case sceneRevert => exact execSceneRevert_next (Keeps.refl s)
  case sceneClear => exact execSceneClear_next (Keeps.refl s)
  case turnDefine => exact execTurnDefine_next (Keeps.refl s)
  case turn => exact execTurn_next (Keeps.refl s)
  case turnStatus => exact execTurnStatus_next (Keeps.refl s)
  case sceneSave => exact execSceneSave_next (Keeps.refl s)
  case sceneLoad => exact execSceneLoad_next (Keeps.refl s)
  case sceneList => exact execSceneList_next (Keeps.refl s)
  case sceneDelete => exact execSceneDelete_next (Keeps.refl s)
  case meterRead => exact execMeterRead_next (Keeps.refl s)
  case meterProfileSet => exact execMeterProfileSet_next (Keeps.refl s)
  case meterAssign => exact execMeterAssign_next (Keeps.refl s)
  case meterHoldClear => exact execMeterHoldClear_next (Keeps.refl s)
  case gateRead => exact execGateRead_next (Keeps.refl s)
  case snapConfig => exact execSnapConfig_next (Keeps.refl s)
  case meterTrigger => exact execMeterTrigger_next (Keeps.refl s)
  case snapStatus => exact execSnapStatus_next (Keeps.refl s)
  case netPortConfig => exact execNetPortConfig_next (Keeps.refl s)
  case netPortStatus => exact execNetPortStatus_next (Keeps.refl s)
  case netAddrSet => exact execNetAddrSet_next (Keeps.refl s)
  case gclLoad => exact execGclLoad_next (Keeps.refl s)
  case qsfpRead => exact execQsfpRead_next (Keeps.refl s)
  case wakePattern => exact execWakePattern_next (Keeps.refl s)
  case i2sConfig => exact execI2sConfig_next (Keeps.refl s)
  case i2sStatus => exact execI2sStatus_next (Keeps.refl s)
  case portStart => exact execPortStart_next (Keeps.refl s)
  case localOutSet => exact execLocalOutSet_next (Keeps.refl s)
  case aes3RxConfig => exact execAes3RxConfig_next (Keeps.refl s)
  case aes3RxStatus => exact execAes3RxStatus_next (Keeps.refl s)
  case aes3TxConfig => exact execAes3TxConfig_next (Keeps.refl s)
  case aes3TxStatus => exact execAes3TxStatus_next (Keeps.refl s)
  case clkpinConfig => exact execClkpinConfig_next (Keeps.refl s)
  case clkpinStatus => exact execClkpinStatus_next (Keeps.refl s)
  case srcGroupConfig => exact execSrcGroupConfig_next (Keeps.refl s)
  case srcStatus => exact execSrcStatus_next (Keeps.refl s)
  case srcRelock => exact execSrcRelock_next (Keeps.refl s)
  case srcPathQuery => exact execSrcPathQuery_next (Keeps.refl s)
  case i2cConfig => exact execI2cConfig_next (Keeps.refl s)
  case i2cXfer => exact execI2cXfer_next (Keeps.refl s)
  case i2cStatus => exact execI2cStatus_next (Keeps.refl s)
  case i2cBusClear => exact execI2cBusClear_next (Keeps.refl s)
  case uartConfig => exact execUartConfig_next (Keeps.refl s)
  case uartWrite => exact execUartWrite_next (Keeps.refl s)
  case uartRead => exact execUartRead_next (Keeps.refl s)
  case gpioConfig => exact execGpioConfig_next (Keeps.refl s)
  case gpioRead => exact execGpioRead_next (Keeps.refl s)
  case flashInfo => exact execFlashInfo_next (Keeps.refl s)
  case ctrlpinConfig => exact execCtrlpinConfig_next (Keeps.refl s)
  case ulinkConfig => exact execUlinkConfig_next (Keeps.refl s)
  case ulinkStatus => exact execUlinkStatus_next (Keeps.refl s)
  case ulinkRetrain => exact execUlinkRetrain_next (Keeps.refl s)
  case hierJoin => exact execHierJoin_next (Keeps.refl s)
  case hierStatus => exact execHierStatus_next (Keeps.refl s)
  case relaySet => exact execRelaySet_next (Keeps.refl s)
  case gridTurn => exact execGridTurn_next (Keeps.refl s)
  case umarunTunnel => exact execUmarunTunnel_next (Keeps.refl s)
  case mirrorTakeover => exact execMirrorTakeover_next (Keeps.refl s)
  case mirrorStatus => exact execMirrorStatus_next (Keeps.refl s)
  case faultStatus => exact execFaultStatus_next (Keeps.refl s)
  case errataRead => exact execErrataRead_next (Keeps.refl s)
  case errataClear => exact execErrataClear_next (Keeps.refl s)
  case errataLogRead => exact execErrataLogRead_next (Keeps.refl s)
  case lastwordsRead => exact execLastwordsRead_next (Keeps.refl s)
  case patrolConfig => exact execPatrolConfig_next (Keeps.refl s)
  case sigRelease => exact execSigRelease_next (Keeps.refl s)
  case tipInForce => exact execTipInForce_next (Keeps.refl s)
  case faultInject => exact execFaultInject_next (Keeps.refl s)
  case wdtConfig => exact execWdtConfig_next (Keeps.refl s)
  case tenantCreate => exact execTenantCreate_next (Keeps.refl s)
  case tenantDestroy => exact execTenantDestroy_next (Keeps.refl s)
  case quotaSet => exact execQuotaSet_next (Keeps.refl s)
  case revoke => exact execRevoke_next (Keeps.refl s)
  case tenantStatus => exact execTenantStatus_next (Keeps.refl s)
  case sigAssign => exact execSigAssign_next (Keeps.refl s)
  case sigReturn => exact execSigReturn_next (Keeps.refl s)
  case tenantResume => exact execTenantResume_next (Keeps.refl s)
  case hostchAssign => exact execHostchAssign_next (Keeps.refl s)
  case misuseLogRead => exact execMisuseLogRead_next (Keeps.refl s)
  case tenantConfig => exact execTenantConfig_next (Keeps.refl s)
  case secStatus => exact execSecStatus_next (Keeps.refl s)
  case keyLoad => exact execKeyLoad_next (Keeps.refl s)
  case keyRetire => exact execKeyRetire_next (Keeps.refl s)
  case keyStatus => exact execKeyStatus_next (Keeps.refl s)
  case fwStatus => exact execFwStatus_next (Keeps.refl s)
  case fwStageOpen => exact execFwStageOpen_next (Keeps.refl s)
  case fwStageWrite => exact execFwStageWrite_next (Keeps.refl s)
  case fwStageClose => exact execFwStageClose_next (Keeps.refl s)
  case fwActivate => exact execFwActivate_next (Keeps.refl s)
  case fwConfirm => exact execFwConfirm_next (Keeps.refl s)
  case fwStageAbort => exact execFwStageAbort_next (Keeps.refl s)
  case debugUnlock => exact execDebugUnlock_next (Keeps.refl s)
  case debugLock => exact execDebugLock_next (Keeps.refl s)
  case factoryErase => exact execFactoryErase_next (Keeps.refl s)
  case mgmtUdpConfig => exact execMgmtUdpConfig_next (Keeps.refl s)
  case bufRegister => exact execBufRegister_next (Keeps.refl s)
  case bufRelease => exact execBufRelease_next (Keeps.refl s)
  case bufQuery => exact execBufQuery_next (Keeps.refl s)
  case ringConfig => exact execRingConfig_next (Keeps.refl s)
  case ringStatus => exact execRingStatus_next (Keeps.refl s)
  case capchSet => exact execCapchSet_next (Keeps.refl s)
  case rxfilterSet => exact execRxfilterSet_next (Keeps.refl s)
  case rxfilterClear => exact execRxfilterClear_next (Keeps.refl s)
  case registerWrite => exact execRegisterWrite_next (Keeps.refl s)
  case snapshotReq => exact execSnapshotReq_next (Keeps.refl s)
  case slotArm => exact execSlotArm_next (Keeps.refl s)
  case slotCancel => exact execSlotCancel_next (Keeps.refl s)
  case slotStatRead => exact execSlotStatRead_next (Keeps.refl s)
  case entry3Read => exact execEntry3Read_next (Keeps.refl s)
  case evtFifoRead => exact execEvtFifoRead_next (Keeps.refl s)
  case mtrVal0Read => exact execMtrVal0Read_next (Keeps.refl s)
  case errRec0Read => exact execErrRec0Read_next (Keeps.refl s)
  case setGo => exact execSetGo_next (Keeps.refl s)
  case rxCommit => exact execRxCommit_next (Keeps.refl s)
  case rxLoad => exact execRxLoad_next (Keeps.refl s)
  case txCommit => exact execTxCommit_next (Keeps.refl s)
  case txLoad => exact execTxLoad_next (Keeps.refl s)
  case counterClear => exact execCounterClear_next (Keeps.refl s)
  case clearAll => exact execClearAll_next (Keeps.refl s)
  case alignCmd => exact execAlignCmd_next (Keeps.refl s)
  case cpllSwap => exact execCpllSwap_next (Keeps.refl s)
  case mpllPstepWrite => exact execMpllPstepWrite_next (Keeps.refl s)
  case sscModeWrite => exact execSscModeWrite_next (Keeps.refl s)
  case gclSwap => exact execGclSwap_next (Keeps.refl s)
  case qsfpReset => exact execQsfpReset_next (Keeps.refl s)
  case now => exact execNow_next (Keeps.refl s)
  case define => exact execDefine_next (Keeps.refl s)
  case release => exact execRelease_next (Keeps.refl s)
  case versoClear => exact execVersoClear_next (Keeps.refl s)
  case versoRevert => exact execVersoRevert_next (Keeps.refl s)
  case versoWindowWrite => exact execVersoWindowWrite_next (Keeps.refl s)
  case clrHold => exact execClrHold_next (Keeps.refl s)
  case holdClrAll => exact execHoldClrAll_next (Keeps.refl s)
  case snapCtlWrite => exact execSnapCtlWrite_next (Keeps.refl s)
  case relock => exact execRelock_next (Keeps.refl s)
  case i2sBindWrite => exact execI2sBindWrite_next (Keeps.refl s)
  case grpStart => exact execGrpStart_next (Keeps.refl s)
  case restart => exact execRestart_next (Keeps.refl s)
  case i2sPortEnable => exact execI2sPortEnable_next (Keeps.refl s)
  case i2sPortDisable => exact execI2sPortDisable_next (Keeps.refl s)
  case aesRxEnable => exact execAesRxEnable_next (Keeps.refl s)
  case aesTxEnable => exact execAesTxEnable_next (Keeps.refl s)
  case txStart => exact execTxStart_next (Keeps.refl s)
  case txStop => exact execTxStop_next (Keeps.refl s)
  case clockOutEnable => exact execClockOutEnable_next (Keeps.refl s)
  case mclkChange => exact execMclkChange_next (Keeps.refl s)
  case linkEnable => exact execLinkEnable_next (Keeps.refl s)
  case retrain => exact execRetrain_next (Keeps.refl s)
  case faultAck => exact execFaultAck_next (Keeps.refl s)
  case kick => exact execKick_next (Keeps.refl s)
  case mgmtRestart => exact execMgmtRestart_next (Keeps.refl s)
  case sqTail => exact execSqTail_next (Keeps.refl s)
  case cqHead => exact execCqHead_next (Keeps.refl s)
  case dmaTail => exact execDmaTail_next (Keeps.refl s)
  case cqEnable => exact execCqEnable_next (Keeps.refl s)
  case ringEnable => exact execRingEnable_next (Keeps.refl s)
  case maskWrite => exact execMaskWrite_next (Keeps.refl s)
  case go => exact execGo_next (Keeps.refl s)
  case intForce => exact execIntForce_next (Keeps.refl s)
  case intStatClear => exact execIntStatClear_next (Keeps.refl s)
  case busClear => exact execBusClear_next (Keeps.refl s)
  case i2cEnable => exact execI2cEnable_next (Keeps.refl s)
  case cpllRelock => exact execCpllRelock_next (Keeps.refl s)
  case standbyCpllLockLoss => exact execStandbyCpllLockLoss_next (Keeps.refl s)
  case pllPhaseExcursion => exact execPllPhaseExcursion_next (Keeps.refl s)
  case gateEntryChange => exact execGateEntryChange_next (Keeps.refl s)
  case aes3TxBlockStart => exact execAes3TxBlockStart_next (Keeps.refl s)
  case ltcOutFrame => exact execLtcOutFrame_next (Keeps.refl s)
  case clockOutEdge => exact execClockOutEdge_next (Keeps.refl s)
  case cellSend => exact execCellSend_next (Keeps.refl s)
  case uartFrameTx => exact execUartFrameTx_next (Keeps.refl s)
  case flashOperationDone => exact execFlashOperationDone_next (Keeps.refl s)
  case memberTimeout => exact execMemberTimeout_next (Keeps.refl s)

/-- The tick's work, unless it leaves the modes with boundaries, moves no index. -/
theorem tickOnce_sample (x : TickIn) (s : State) (h : 3 ≤ (tickOnce x s).mode) : (tickOnce x s).tim.sample = s.tim.sample := by
  unfold tickOnce at h ⊢
  split
  · rfl
  · rename_i hh
    rw [if_neg hh] at h
    dsimp only at h ⊢
    split
    · rename_i hm; rw [if_pos hm] at h; exact absurd hm (Nat.not_lt.mpr h)
    · generalize tickWork _ _ = v; rfl

/-- The work of a period, likewise. -/
theorem periodWork_sample (x : SampleIn) (s : State) (h : 3 ≤ (periodWork x s).mode) : (periodWork x s).tim.sample = s.tim.sample := by
  have k0 : (bankStep (sampleFaults x (rxJudge s))).tim.sample = s.tim.sample :=
    (bankStep_keeps (kb := True) (sampleFaults_keeps (rxJudge_keeps (Keeps.refl s)))).sample trivial
  rw [← k0]
  unfold periodWork at h ⊢
  dsimp only at h ⊢
  split
  · rename_i ht; rw [if_pos ht] at h; exact tickOnce_sample _ _ h
  · split
    · exact (popCountAll_keeps (kb := True) (Keeps.refl _)).sample trivial
    · rfl

/-- What follows the advance of the index keeps it. -/
theorem flow_sample (missed lost : List Nat) (s : State) :
    (sampleFlow missed lost (sampleActs (sampleRwb s))).tim.sample = s.tim.sample :=
  (sampleFlow_keeps (kb := True) (sampleActs_keeps (sampleRwb_keeps (Keeps.refl s)))).sample trivial

end Sys2Proof.Machine
end

