-- ==== Sys2Proof/WellFormed.lean ====
section
/-!
DEFINITION. Which commands can be sent: a command's operands lie in the ranges that the spec gives whoever sends it. A meaning is
total, and checks what the spec tells the device to check; these are the ranges that no sender leaves.
-/
namespace Sys2Proof

/-- A register word, or the value of a write. -/
def wordOk (w : Nat) : Bool := decide (w < 2 ^ 32)
/-- The function that makes an access: PF0 to PF7, or 8 for the SPI target (R558). -/
def callerOk (fn : Nat) : Bool := decide (fn ≤ 8)
/-- A point of the grid within a sample period: 125,000 steps to the sample (R38). -/
def instantOk (off : Nat) : Bool := decide (off < 125000)
def portOk (port : Nat) : Bool := decide (port < 4)
def planeOk (plane : Nat) : Bool := decide (plane < 2)
def linkOk (l : Nat) : Bool := decide (l < 6)
def laneOk (lane : Nat) : Bool := decide (lane < 4)
/-- GPIO0–31 and the event pins. -/
def pinOk (pin : Nat) : Bool := decide (pin < 40)
def railOk (rail : Nat) : Bool := decide (rail < 6)
def deviceOk (dev : Nat) : Bool := decide (dev < 16)
/-- The writes of a configuration command carry register words. -/
def wordsOk (ws : List RegW) : Bool := ws.all (fun w => wordOk w.val)

/-- The authentication block of R531 has fields of its widths. -/
def AuthBlk.wf (a : AuthBlk) : Bool :=
  decide (a.slot < 256) && decide (a.counter < 2 ^ 64) && decide (a.serial < 2 ^ 64) && a.mac.length == 16
/-- A transport names a ring, a port or a device that exists (R479, R525). -/
def Transport.wf : Transport → Bool
  | .pcie ring => decide (ring < 8)
  | .udp port _ _ sport => portOk port && decide (sport < 2 ^ 16)
  | .spi => true
  | .tunnel dev => deviceOk dev
/-- The header of a management command (R481, R525). -/
def Env.wf (e : Env) : Bool :=
  e.tr.wf && decide (e.fn ≤ 7) && decide (e.tag < 2 ^ 16) && decide (e.respMax ≤ 65536) &&
    match e.auth with | some a => a.wf | none => true

/-- The command can be sent. -/
def Instr.wf : Instr → Bool
  | .sampleBoundary _ => true
  | .tickBoundary _ => true
  | .guardLoadEnd _ => true
  | .patrolDwellEnd => true
  | .bistEnd _ _ => true
  | .sramUncorrectable _ _ _ => true
  | .scrubPass _ => true
  | .errataFlush => true
  | .snapRecord _ _ => true
  | .driftWindowEnd _ => true
  | .candidateLoss _ => true
  | .clockPinEdge pin _ off => pinOk pin && instantOk off
  | .cpllLockLoss => true
  | .coreCycleMonitor _ => true
  | .tpllLoss _ => true
  | .tpllRelock _ => true
  | .mpllLoss => true
  | .mpllRelock => true
  | .sscChangeDone => true
  | .phaseStepDone => true
  | .frameReceive port off _ => portOk port && instantOk off
  | .masterLoss port => portOk port
  | .delayReqSend port => portOk port
  | .sapSessionExpire _ => true
  | .sapTxAnnounce _ => true
  | .multicastJoin _ _ => true
  | .membershipReport port _ _ => portOk port
  | .neighbourAgeOut port _ => portOk port
  | .linkDown port _ _ => portOk port
  | .qsfpInsertRemove port _ => portOk port
  | .qsfpMonitor port _ _ => portOk port
  | .wakeMatch port _ => portOk port
  | .frameTransmit port x => portOk port && instantOk x.off
  | .hostFrameDeparted port off => portOk port && instantOk off
  | .streamGap _ off => instantOk off
  | .planeChg _ plane off => planeOk plane && instantOk off
  | .streamStart e _ _ _ => e.wf
  | .streamStop e _ _ _ => e.wf
  | .asrcStageEnd _ => true
  | .i2sFrameEdge _ off _ => instantOk off
  | .i2sClockLoss _ off => instantOk off
  | .aes3FrameRx _ off _ => instantOk off
  | .aes3LockLoss _ off => instantOk off
  | .ltcFrameRx _ _ => true
  | .evtInEdge off pin _ => instantOk off && pinOk pin
  | .gpioEdge pin _ => pinOk pin
  | .rampEnd _ => true
  | .copyOverEnd _ => true
  | .versoUnlock _ => true
  | .sceneLoadEnd _ => true
  | .sceneSaveDone => true
  | .acqTimeout => true
  | .prerollEnd => true
  | .thermalLimit => true
  | .railExc rail => railOk rail
  | .bankChg _ _ => true
  | .resetAssert _ => true
  | .resetRelease => true
  | .bootImageSelect => true
  | .firmwareRunning _ => true
  | .bootScenesDone => true
  | .pfailAssert => true
  | .lastwordsDone => true
  | .pfailGlitch _ => true
  | .watchdogFire => true
  | .mgmtRestartDone => true
  | .mgmtException _ => true
  | .flr fn => callerOk fn
  | .flrComplete fn => callerOk fn
  | .pcieReset => true
  | .busMasterClear fn => callerOk fn
  | .rampOutSilenced fn => callerOk fn
  | .reclaimComplete fn => callerOk fn
  | .commandFetch _ => true
  | .completionInterrupt fn _ _ => callerOk fn
  | .ringError fn _ _ => callerOk fn
  | .dmaError fn _ _ => callerOk fn
  | .descriptorFetch fn _ _ => callerOk fn
  | .playbackFetch fn _ _ => callerOk fn
  | .captureWriteback fn _ => callerOk fn
  | .msixMessage => true
  | .msixUnmask fn v => callerOk fn && wordOk v
  | .spiRegWrite off _ _ => instantOk off
  | .spiRegRead _ _ => true
  | .spiStatus => true
  | .cmdSend _ => true
  | .respRead => true
  | .respAck => true
  | .imageWrite _ _ => true
  | .imageEnd _ => true
  | .spiTransactionDrop _ => true
  | .uartFrameRx _ _ => true
  | .i2cTransferDone _ _ _ _ _ _ => true
  | .i2cBusCheck _ _ _ => true
  | .flashSuspend => true
  | .flashResume => true
  | .fwConfirmTimer => true
  | .stageTimeout => true
  | .blockLock l lane _ => linkOk l && laneOk lane
  | .markerSet l off bs early late => linkOk l && instantOk off && bs.length == 4 && decide (early ≤ late)
  | .trainTimeout l off => linkOk l && instantOk off
  | .cellTimeout l off => linkOk l && instantOk off
  | .cellReceive l off bs _ => linkOk l && instantOk off && bs.map List.length == [8, 8, 8, 8]
  | .mgmtFragmentDiscard _ _ off => instantOk off
  | .mirrorLost => true
  | .mirrorCopyComplete _ _ => true
  | .mirrorRepair _ => true
  | .mirrorForward => true
  | .tunnelTimeout _ => true
  | .reservationExpire _ => true
  | .deviceIdentity e => e.wf
  | .modeSet e _ => e.wf
  | .modeStatus e => e.wf
  | .modeConfig e ws => e.wf && wordsOk ws
  | .configSave e _ => e.wf
  | .configRead e _ => e.wf
  | .pwrStatus e => e.wf
  | .ioConfig e _ => e.wf
  | .timeSnapshot e off => e.wf && instantOk off
  | .tbSet e _ _ _ => e.wf
  | .collArm e _ => e.wf
  | .collCancel e _ => e.wf
  | .collQuery e _ => e.wf
  | .ltcConfig e ws => e.wf && wordsOk ws
  | .evtConfig e ws => e.wf && wordsOk ws
  | .evtRead e _ => e.wf
  | .refConfig e ws => e.wf && wordsOk ws
  | .refStatus e => e.wf
  | .alignNow e _ => e.wf
  | .clkConfig e ws => e.wf && wordsOk ws
  | .mpllStep e _ => e.wf
  | .clkStatus e => e.wf
  | .ptpConfig e ws => e.wf && wordsOk ws
  | .ptpStatus e plane => e.wf && planeOk plane
  | .streamRxAdd e _ ws => e.wf && wordsOk ws
  | .streamRxSdp e _ _ _ => e.wf
  | .streamRxModify e _ ws => e.wf && wordsOk ws
  | .streamRxRemove e _ => e.wf
  | .streamRxStatus e _ => e.wf
  | .streamRxCounters e _ _ => e.wf
  | .sapConfig e _ _ => e.wf
  | .sapList e _ => e.wf
  | .streamTxAdd e _ _ ws => e.wf && wordsOk ws
  | .streamTxModify e _ ws => e.wf && wordsOk ws
  | .streamTxRemove e _ => e.wf
  | .streamTxStatus e _ => e.wf
  | .streamTxCounters e _ _ => e.wf
  | .txchSet e _ => e.wf
  | .streamTxSdp e _ => e.wf
  | .sapTxConfig e _ _ => e.wf
  | .txLoadQuery e port => e.wf && portOk port
  | .xpntInputSet e _ _ => e.wf
  | .xpntInputGet e _ => e.wf
  | .xpntOutputSet e _ _ => e.wf
  | .xpntOutputGet e _ => e.wf
  | .delayAlloc e _ => e.wf
  | .delayPoolStatus e _ => e.wf
  | .testgenSet e _ => e.wf
  | .xpntCounters e _ _ _ _ _ => e.wf
  | .inAssign e _ _ _ _ => e.wf
  | .sceneEdit e _ => e.wf
  | .sceneEditBlock e _ _ _ _ _ => e.wf
  | .sceneRead e _ _ => e.wf
  | .sceneRevert e _ => e.wf
  | .sceneClear e _ => e.wf
  | .turnDefine e _ _ _ _ => e.wf
  | .turn e _ _ => e.wf
  | .turnStatus e _ _ => e.wf
  | .sceneSave e _ => e.wf
  | .sceneLoad e _ _ _ _ => e.wf
  | .sceneList e _ => e.wf
  | .sceneDelete e _ _ => e.wf
  | .meterRead e _ => e.wf
  | .meterProfileSet e ws => e.wf && wordsOk ws
  | .meterAssign e _ => e.wf
  | .meterHoldClear e _ => e.wf
  | .gateRead e => e.wf
  | .snapConfig e _ ws => e.wf && wordsOk ws
  | .meterTrigger e _ _ => e.wf
  | .snapStatus e _ => e.wf
  | .netPortConfig e ws => e.wf && wordsOk ws
  | .netPortStatus e port => e.wf && portOk port
  | .netAddrSet e port _ => e.wf && portOk port
  | .gclLoad e port _ _ _ => e.wf && portOk port
  | .qsfpRead e port _ _ => e.wf && portOk port
  | .wakePattern e _ _ => e.wf
  | .i2sConfig e ws => e.wf && wordsOk ws
  | .i2sStatus e _ _ => e.wf
  | .portStart e _ _ => e.wf
  | .localOutSet e _ => e.wf
  | .aes3RxConfig e ws => e.wf && wordsOk ws
  | .aes3RxStatus e _ => e.wf
  | .aes3TxConfig e ws => e.wf && wordsOk ws
  | .aes3TxStatus e _ => e.wf
  | .clkpinConfig e ws => e.wf && wordsOk ws
  | .clkpinStatus e => e.wf
  | .srcGroupConfig e _ _ _ _ => e.wf
  | .srcStatus e _ => e.wf
  | .srcRelock e _ _ => e.wf
  | .srcPathQuery e _ => e.wf
  | .i2cConfig e ws => e.wf && wordsOk ws
  | .i2cXfer e _ _ => e.wf
  | .i2cStatus e _ _ => e.wf
  | .i2cBusClear e _ => e.wf
  | .uartConfig e ws => e.wf && wordsOk ws
  | .uartWrite e _ _ => e.wf
  | .uartRead e _ _ => e.wf
  | .gpioConfig e _ => e.wf
  | .gpioRead e _ => e.wf
  | .flashInfo e _ => e.wf
  | .ctrlpinConfig e ws => e.wf && wordsOk ws
  | .ulinkConfig e ws => e.wf && wordsOk ws
  | .ulinkStatus e _ => e.wf
  | .ulinkRetrain e l => e.wf && linkOk l
  | .hierJoin e _ => e.wf
  | .hierStatus e _ => e.wf
  | .relaySet e _ => e.wf
  | .gridTurn e _ _ _ _ => e.wf
  | .umarunTunnel e _ _ => e.wf
  | .mirrorTakeover e => e.wf
  | .mirrorStatus e => e.wf
  | .faultStatus e => e.wf
  | .errataRead e _ _ => e.wf
  | .errataClear e => e.wf
  | .errataLogRead e _ _ => e.wf
  | .lastwordsRead e => e.wf
  | .patrolConfig e _ => e.wf
  | .sigRelease e _ => e.wf
  | .tipInForce e _ => e.wf
  | .faultInject e _ => e.wf
  | .wdtConfig e _ => e.wf
  | .tenantCreate e _ _ _ _ _ => e.wf
  | .tenantDestroy e _ => e.wf
  | .quotaSet e _ _ => e.wf
  | .revoke e _ _ => e.wf
  | .tenantStatus e _ => e.wf
  | .sigAssign e _ _ => e.wf
  | .sigReturn e _ => e.wf
  | .tenantResume e _ => e.wf
  | .hostchAssign e _ _ _ => e.wf
  | .misuseLogRead e _ => e.wf
  | .tenantConfig e _ _ _ _ => e.wf
  | .secStatus e => e.wf
  | .keyLoad e _ _ => e.wf
  | .keyRetire e _ => e.wf
  | .keyStatus e => e.wf
  | .fwStatus e => e.wf
  | .fwStageOpen e => e.wf
  | .fwStageWrite e _ _ => e.wf
  | .fwStageClose e => e.wf
  | .fwActivate e => e.wf
  | .fwConfirm e => e.wf
  | .fwStageAbort e => e.wf
  | .debugUnlock e _ => e.wf
  | .debugLock e => e.wf
  | .factoryErase e => e.wf
  | .mgmtUdpConfig e w => e.wf && wordOk w
  | .bufRegister e _ _ => e.wf
  | .bufRelease e _ => e.wf
  | .bufQuery e _ => e.wf
  | .ringConfig e _ ws _ => e.wf && wordsOk ws
  | .ringStatus e _ => e.wf
  | .capchSet e _ => e.wf
  | .rxfilterSet e _ _ => e.wf
  | .rxfilterClear e _ => e.wf
  | .registerWrite fn off _ w _ => callerOk fn && instantOk off && wordOk w
  | .snapshotReq fn off => callerOk fn && instantOk off
  | .slotArm fn _ w => callerOk fn && wordOk w
  | .slotCancel fn _ w => callerOk fn && wordOk w
  | .slotStatRead fn _ => callerOk fn
  | .entry3Read fn => callerOk fn
  | .evtFifoRead fn => callerOk fn
  | .mtrVal0Read fn => callerOk fn
  | .errRec0Read fn => callerOk fn
  | .setGo fn _ w => callerOk fn && wordOk w
  | .rxCommit fn w => callerOk fn && wordOk w
  | .rxLoad fn w => callerOk fn && wordOk w
  | .txCommit fn w => callerOk fn && wordOk w
  | .txLoad fn w => callerOk fn && wordOk w
  | .counterClear fn _ _ w => callerOk fn && wordOk w
  | .clearAll fn _ w => callerOk fn && wordOk w
  | .alignCmd fn w => callerOk fn && wordOk w
  | .cpllSwap fn w => callerOk fn && wordOk w
  | .mpllPstepWrite fn w => callerOk fn && wordOk w
  | .sscModeWrite fn w => callerOk fn && wordOk w
  | .gclSwap fn port w => callerOk fn && portOk port && wordOk w
  | .qsfpReset fn port w off => callerOk fn && portOk port && wordOk w && instantOk off
  | .now fn w => callerOk fn && wordOk w
  | .define fn w => callerOk fn && wordOk w
  | .release fn w => callerOk fn && wordOk w
  | .versoClear fn _ w => callerOk fn && wordOk w
  | .versoRevert fn _ w => callerOk fn && wordOk w
  | .versoWindowWrite fn _ _ => callerOk fn
  | .clrHold fn w => callerOk fn && wordOk w
  | .holdClrAll fn w => callerOk fn && wordOk w
  | .snapCtlWrite fn _ w => callerOk fn && wordOk w
  | .relock fn w => callerOk fn && wordOk w
  | .i2sBindWrite fn w => callerOk fn && wordOk w
  | .grpStart fn _ w => callerOk fn && wordOk w
  | .restart fn _ w => callerOk fn && wordOk w
  | .i2sPortEnable fn _ w => callerOk fn && wordOk w
  | .i2sPortDisable fn _ w => callerOk fn && wordOk w
  | .aesRxEnable fn _ w => callerOk fn && wordOk w
  | .aesTxEnable fn _ w => callerOk fn && wordOk w
  | .txStart fn _ w => callerOk fn && wordOk w
  | .txStop fn _ w => callerOk fn && wordOk w
  | .clockOutEnable fn _ w => callerOk fn && wordOk w
  | .mclkChange fn _ w => callerOk fn && wordOk w
  | .linkEnable fn l w => callerOk fn && linkOk l && wordOk w
  | .retrain fn l w => callerOk fn && linkOk l && wordOk w
  | .faultAck fn w => callerOk fn && wordOk w
  | .kick fn w => callerOk fn && wordOk w
  | .mgmtRestart fn w => callerOk fn && wordOk w
  | .sqTail fn _ v => callerOk fn && wordOk v
  | .cqHead fn _ v => callerOk fn && wordOk v
  | .dmaTail fn _ v => callerOk fn && wordOk v
  | .cqEnable fn _ w => callerOk fn && wordOk w
  | .ringEnable fn _ w => callerOk fn && wordOk w
  | .maskWrite fn _ _ _ v => callerOk fn && wordOk v
  | .go fn _ w => callerOk fn && wordOk w
  | .intForce fn _ w => callerOk fn && wordOk w
  | .intStatClear fn _ w => callerOk fn && wordOk w
  | .busClear fn _ w => callerOk fn && wordOk w
  | .i2cEnable fn _ w => callerOk fn && wordOk w
  | .cpllRelock => true
  | .standbyCpllLockLoss => true
  | .pllPhaseExcursion _ => true
  | .gateEntryChange port x => portOk port && instantOk x.off
  | .aes3TxBlockStart _ => true
  | .ltcOutFrame => true
  | .clockOutEdge _ _ => true
  | .cellSend l off => linkOk l && instantOk off
  | .uartFrameTx _ => true
  | .flashOperationDone _ => true
  | .memberTimeout dev => deviceOk dev

end Sys2Proof
end

