-- ==== Sys2Proof/Tests/Slice0.lean ====
section
/-!
SUPPORT. Tests: commands that nobody can send, words that spell nothing, steps of a few commands with results worked out from
the spec, and for every statement a state and operands that meet its hypotheses.
-/
namespace Sys2Proof.Tests
open Sys2Proof Sys2Proof.Machine
set_option linter.unusedVariables false
set_option Elab.async false

/-! ## Commands that nobody can send -/

/-- A sender: PF0 through a ring. -/
def pf : Env := { tr := .pcie 0, fn := 0, tag := 0, lenOk := true, bytes := [], auth := none, respMax := 65536 }

theorem test_wf_word : (Instr.kick 0 (2 ^ 32)).wf = false := by decide
theorem test_wf_caller : (Instr.kick 9 0).wf = false := by decide
theorem test_wf_instant : (Instr.snapshotReq 0 125000).wf = false := by decide
theorem test_wf_port : (Instr.netPortStatus pf 4).wf = false := by decide
theorem test_wf_plane : (Instr.ptpStatus pf 2).wf = false := by decide
theorem test_wf_link : (Instr.ulinkRetrain pf 6).wf = false := by decide
theorem test_wf_lane : (Instr.blockLock 0 4 []).wf = false := by decide
theorem test_wf_pin : (Instr.gpioEdge 40 true).wf = false := by decide
theorem test_wf_rail : (Instr.railExc 6).wf = false := by decide
theorem test_wf_device : (Instr.memberTimeout 16).wf = false := by decide
theorem test_wf_words : (Instr.modeConfig pf [⟨0x000, 0, 0, 2 ^ 32⟩]).wf = false := by decide
theorem test_wf_auth_slot : (Instr.fwConfirm { pf with auth := some ⟨256, 0, 0, List.replicate 16 0⟩ }).wf = false := by decide
theorem test_wf_auth_counter : (Instr.fwConfirm { pf with auth := some ⟨0, 2 ^ 64, 0, List.replicate 16 0⟩ }).wf = false := by decide
theorem test_wf_auth_serial : (Instr.fwConfirm { pf with auth := some ⟨0, 0, 2 ^ 64, List.replicate 16 0⟩ }).wf = false := by decide
theorem test_wf_auth_mac : (Instr.fwConfirm { pf with auth := some ⟨0, 0, 0, []⟩ }).wf = false := by decide
theorem test_wf_ring : (Instr.modeStatus { pf with tr := .pcie 8 }).wf = false := by decide
theorem test_wf_udp_port : (Instr.modeStatus { pf with tr := .udp 4 false 0 0 }).wf = false := by decide
theorem test_wf_udp_sport : (Instr.modeStatus { pf with tr := .udp 0 false 0 (2 ^ 16) }).wf = false := by decide
theorem test_wf_tunnel : (Instr.modeStatus { pf with tr := .tunnel 16 }).wf = false := by decide
theorem test_wf_fn : (Instr.modeStatus { pf with fn := 8 }).wf = false := by decide
theorem test_wf_tag : (Instr.modeStatus { pf with tag := 2 ^ 16 }).wf = false := by decide
theorem test_wf_response : (Instr.modeStatus { pf with respMax := 65537 }).wf = false := by decide
theorem test_wf_good : (Instr.modeStatus pf).wf = true := by decide

/-! ## Words: the table gives no row any bits -/

theorem test_no_word (nbits w : Nat) : decodeTableWord nbits w = none := rfl
theorem test_withFetchWord (s : State) (nbits w : Nat) : s.withFetchWord nbits w = s := rfl

/-! ## The spec's worked examples, and the vectors of the standards it names -/

/-- A of the worked example "a 0 dB sum of eight inputs". -/
theorem test_sum_of_eight :
    (([0x20000000, 0x20000000, 0x10000000, 0x10000000, 0x08000000, 0x08000000, -0x10000000, 0x40000000] : List Int).map
      (fun x => term x 0xE800)).sum = 1374389534720 := by decide +kernel
/-- With POP_MODE OFF that output clips. -/
theorem test_sum_clips : chainRaw 1374389534720 (2 ^ 31) (2 ^ 29) false = 2684354560 ∧ satI 32 2684354560 = 0x7FFFFFFF := by
  decide +kernel
/-- With POP_MODE AMPLITUDE and N0 = 1 its target is 0xC3E0, and K_t is 0x0FFF_AB70. -/
theorem test_population_target : popTarget 1 8 1 = 0xC3E0 ∧ linK 0xC3E0 = 0x0FFFAB70 := by decide +kernel
theorem test_population_scaled : chainRaw 1374389534720 0x0FFFAB70 (2 ^ 29) false = 0x13FF964C := by decide +kernel
/-- The target with seven inputs active. -/
theorem test_population_of_seven : popTarget 1 7 1 = 0xC632 := by decide +kernel
/-- The packings of the worked example "one capture block". -/
theorem test_packings : [packWord 0 0x13FF96, packWord 1 0x13FF96, packWord 2 0x13FF96, packWord 3 0x13FF964C] =
    [[0x96, 0xFF, 0x13], [0x96, 0xFF, 0x13, 0x00], [0x00, 0x96, 0xFF, 0x13], [0x4C, 0x96, 0xFF, 0x13]] := by decide +kernel
/-- SHA-256 and SHA-384 of "abc" (FIPS 180-4). -/
theorem test_sha256 : beNat (sha256 [0x61, 0x62, 0x63]) =
    0xba7816bf8f01cfea414140de5dae2223b00361a396177a9cb410ff61f20015ad := by decide +kernel
theorem test_sha384 : beNat (sha384 [0x61, 0x62, 0x63]) =
    0xcb00753f45a35e8bb5a03d699ac65007272c32ab0eded1631a8b605a43ff5bed8086072ba1e7cc2358baeca134c825a7 := by decide +kernel
/-- HMAC-SHA-256 of "Hi There" (RFC 4231, case 1; its key with the zeros that fill 32 bytes). -/
theorem test_hmac : beNat (hmac256 0x0b0b0b0b0b0b0b0b0b0b0b0b0b0b0b0b0b0b0b0b000000000000000000000000
    [0x48, 0x69, 0x20, 0x54, 0x68, 0x65, 0x72, 0x65]) =
    0xb0344c61d8db38535ca8afceaf0bf12b881dc200c9833da726e9376c2e32cff7 := by decide +kernel
/-- AES-256 deciphers the example vector of FIPS 197 (C.3). -/
theorem test_aes256 : aesDecBlock (aesRoundKeys (natBE 32 0x000102030405060708090A0B0C0D0E0F101112131415161718191A1B1C1D1E1F))
    ((natBE 16 0x8EA2B7CA516745BFEAFC49904B496089).map (·.toNat)) =
    (natBE 16 0x00112233445566778899AABBCCDDEEFF).map (·.toNat) := by decide +kernel

/-- Two values of the S-box (FIPS 197, 5.1.1 and figure 14) and their way back. -/
theorem test_sbox : aesSub 0x53 = 0xED ∧ aesSub 0x00 = 0x63 ∧ aesUnsub 0xED = 0x53 ∧ aesUnsub 0x63 = 0x00 := by decide +kernel
/-- The eight bytes of logical lane 3's marker, byte 0 lowest (R351). -/
theorem test_marker : markerBits 3 = 0xA503554BA503554B ∧ markerLane ⟨0b10, 0xA502554BA502554B⟩ = some 2 := by decide +kernel
/-- One bit leaves the descrambler in three places (R350). -/
theorem test_descramble : descramble 0 1 = 1 ||| 1 <<< 39 ||| 1 <<< 58 := by decide +kernel

/-! ## States and senders of the witnesses -/

def inMode (m : Nat) : State := State.reset.wr MODE.STATE_CODE m
/-- The device after reset, in CONFIG. -/
def cfg : State := inMode 3
/-- The device in RUN, with a published index. -/
def run : State := (inMode mRUN).onTim (fun t => { t with sample := 9600000000, count := 9600000000, published := true })
/-- A tenant's sender. -/
def tn (t : Nat) : Env := { pf with fn := t }
/-- A tenant made ACTIVE. -/
def act (t : Nat) (s : State) : State := s.wr TNT.TNT_CTL_STATE 1 (i := t)
/-- PF0 with the authentication block of slot 0 that the key `[]` makes. -/
def crit (sl : Nat) : Env := { pf with auth := some { slot := sl, counter := 1, serial := 0, mac := (hmac256 1 []).take 16 } }
/-- The device with a slot's key loaded. -/
def keyed (sl : Nat) (s : State) : State := s.onFlash (fun f => { f with keys := [(0, some 1), (sl, some 1)] })
def slot0 : SlotArgs := { action := 1, tbsel := 6, late := false, secHi := 0, secLo := 0, ns := 0, p0 := 0, p1 := 0, period := 0 }
def scene0 : Scene := ⟨0, 9, 1, 0, [], 0, 0⟩
def rec0 : ErrRec := ⟨1, 0x0301, 2, 0, 1, false, none, 1, 0, 0, 0, 0⟩
def hier0 : HierP := ⟨0, 0, 0, 0, 0, [0, 0, 0], List.replicate 16 0, 0⟩
def master0 : Master := ⟨1, 1, 128, 6, 0x21, 0, 128, 0, false, 0, 0, 1, 0, 1⟩
def frame0 : FrameIn := ⟨[], 0, 0, true, 0, 0, none, none, .other⟩
def sub0 : SubEntry := ⟨0x0210, 0, false, false, 0, 0, 0⟩
def desc0 (serve : Nat) : Desc := { d := ⟨65536, 64, false, false, []⟩, serve := serve, st := stOK }
def ringRun (fn q kind : Nat) (d : Desc) (s : State) : State :=
  ((s.wr HOST.RING_STAT_STATE rsRUN (rk fn q)).wr HOST.RING_CTL_KIND kind (rk fn q)).onHost (fun h => { h with
    descs := [(rk fn q, [d])], bufs := [(0, some ⟨fn, 0, 64, false⟩)], bufGen := [(0, 1)] })
def cqOn (fn r : Nat) : State := (act fn cfg).wr CMDQ.CQ_STAT_STATE 1 (rk fn r)
def recov : State := ((inMode mBOOT).ww PWR.BANK_STAT (2 ^ 32 - 1)).wb MODE.BOOT_STAT_ROM_ERR true
def cpl0 : Completion := ⟨.spi, 0, 0, 0, 0, []⟩
def cmdBytes : List Byte := [0x10, 0x02] ++ List.replicate 14 0
def copy0 : MirrorCopy := ⟨[], [], [], [], none⟩
def image0 : Image := ⟨[], []⟩
def staging : State := cfg.onCmd (fun c => { c with session := some ⟨0, .pcie 0, 0⟩ })
def snapped : State := (cfg.wr METR.RING_SLOTS_SLOTS 2 15).onMet (fun m => { m with recs := [⟨15, 0, []⟩] })
def rxUsed : State := cfg.onRx (fun r => { r with used := [(1023, true)] })
def txUsed : State := cfg.onTx (fun r => { r with used := [(1023, true)] })
def sdp0 : List Byte := asc "v=0\r\no=- 1 1 IN IP4 10.0.0.1\r\ns=x\r\nc=IN IP4 239.0.0.1/32\r\nt=0 0\r\nm=audio 5004 RTP/AVP 96\r\na=rtpmap:96 L24/96000/1\r\na=ptime:0.125\r\na=mediaclk:direct=0\r\n"
def place0 : RxPlace := ⟨0, 8191, 512, 100, 0, 0⟩
def rxWords : List RegW := ((sdpWords sdp0 place0 cfg).map (·.1)).getD []
def rxRef : Option (Nat × Nat) := (sdpWords sdp0 place0 cfg).bind (·.2)
/-- The active member of a mirror pair in RUN. -/
def mirrorRole : State := (run.wr ULNK.HIER_CFG_ROLE roMIRROR).wr ULNK.HIER_STAT_MIRROR 1
/-- RUN, with the last signature locked. -/
def sigLocked : State := (run.wb SIG.BANK_STAT_LOCKED true (i := 63)).wr64 SIG.UNLOCK_IDX_HI SIG.UNLOCK_IDX_LO 9600000100 (i := 63)
/-- CONFIG, with every bank of pins up. -/
def banked : State := cfg.ww PWR.BANK_STAT (2 ^ 32 - 1)
/-- CONFIG, with the link of port 3 up. -/
def linked : State := cfg.wb NETP.PORT_STAT_LINK true (i := 3)
def snapFull : State := cfg.wr METR.RING_SLOTS_SLOTS 1 15 |>.onMet (fun m => { m with recs := [⟨15, 0, []⟩] })
/-- STANDBY, with a wake pattern on port 3. -/
def asleep : State := ((inMode mSTANDBY).onMd (fun m => { m with wakePort := 3, wakeEn := 8 })).onNet (fun n => { n with wake := [(3, [(0, 255)])] })
/-- A frame that matches it. -/
def wakeFrame : List Byte := List.replicate 60 0 ++ leBytes 4 (fcs (List.replicate 60 0))
theorem ok_some {α : Type} {x : Except Nat α} (h : (match x with | .ok _ => true | .error _ => false) = true) : ∃ t, x = .ok t := by
  cases x with
  | ok t => exact ⟨t, rfl⟩
  | error _ => cases h
def crcRun (c n : Nat) : Nat := (List.replicate n (0 : Byte)).foldl crcByte c
/-- A cell of zeros but for its first byte, with its CRC. -/
def cellOf (t : Byte) (c : Nat) : List Byte := t :: List.replicate 247 0 ++ natBE 4 c ++ List.replicate 4 0
theorem crcRun_add (c m n : Nat) : crcRun c (m + n) = crcRun (crcRun c m) n := by
  unfold crcRun
  rw [← List.replicate_append_replicate, List.foldl_append]
theorem crc32_cell (t : Byte) (n : Nat) :
    crc32 (t :: List.replicate n 0) = crcRun (crcByte 0xFFFFFFFF t) n ^^^ 0xFFFFFFFF := rfl
theorem cellOf_body (t : Byte) (c : Nat) : (cellOf t c).take 248 ++ (cellOf t c).drop 252 = t :: List.replicate 251 0 := by
  unfold cellOf
  rw [List.drop_left' (by simp only [natBE, List.length_cons, List.length_append, List.length_replicate, List.length_nil]), List.append_assoc, List.take_left' (by simp only [List.length_cons, List.length_replicate]), List.cons_append, List.replicate_append_replicate]
theorem cellOf_len (t : Byte) (c : Nat) : (cellOf t c).length = 256 := by
  simp only [cellOf, natBE, List.length_cons, List.length_append, List.length_replicate, List.length_nil]
theorem cellOf_ok (t : Byte) (c : Nat) (hn : cellNum (cellOf t c) 248 4 = c)
    (hc : crcRun (crcByte 0xFFFFFFFF t) 251 ^^^ 0xFFFFFFFF = c) : cellCrcOk (cellOf t c) = true := by
  unfold cellCrcOk
  rw [cellOf_body, crc32_cell, hc, hn, cellOf_len]
  simp
def cellGood : List Byte := cellOf 0 2409285221
theorem crcGood_0 : crcRun 1309196212 63 = 2470006353 := by decide +kernel
theorem crcGood_1 : crcRun 2470006353 63 = 2796358129 := by decide +kernel
theorem crcGood_2 : crcRun 2796358129 63 = 3706027636 := by decide +kernel
theorem crcGood_3 : crcRun 3706027636 62 = 1885682074 := by decide +kernel
theorem cellGood_ok : cellCrcOk cellGood = true := by
  refine cellOf_ok _ _ (by decide +kernel) ?_
  rw [show crcByte 0xFFFFFFFF 0 = 1309196212 by decide +kernel, show 251 = 63 + (63 + (63 + 62)) from rfl, crcRun_add, crcGood_0, crcRun_add,
    crcGood_1, crcRun_add, crcGood_2, crcGood_3]
  rfl
def cellBad : List Byte := cellOf 112 3318816141
theorem crcBad_0 : crcRun 2931597907 63 = 3626009917 := by decide +kernel
theorem crcBad_1 : crcRun 3626009917 63 = 621268806 := by decide +kernel
theorem crcBad_2 : crcRun 621268806 63 = 2893218281 := by decide +kernel
theorem crcBad_3 : crcRun 2893218281 62 = 976151154 := by decide +kernel
theorem cellBad_ok : cellCrcOk cellBad = true := by
  refine cellOf_ok _ _ (by decide +kernel) ?_
  rw [show crcByte 0xFFFFFFFF 112 = 2931597907 by decide +kernel, show 251 = 63 + (63 + (63 + 62)) from rfl, crcRun_add, crcBad_0, crcRun_add,
    crcBad_1, crcRun_add, crcBad_2, crcBad_3]
  rfl
def cellTrain : List Byte := cellOf 160 2013445717
theorem crcTrain_0 : crcRun 3207063994 63 = 3551526954 := by decide +kernel
theorem crcTrain_1 : crcRun 3551526954 63 = 2087492716 := by decide +kernel
theorem crcTrain_2 : crcRun 2087492716 63 = 2773991568 := by decide +kernel
theorem crcTrain_3 : crcRun 2773991568 62 = 2281521578 := by decide +kernel
theorem cellTrain_ok : cellCrcOk cellTrain = true := by
  refine cellOf_ok _ _ (by decide +kernel) ?_
  rw [show crcByte 0xFFFFFFFF 160 = 3207063994 by decide +kernel, show 251 = 63 + (63 + (63 + 62)) from rfl, crcRun_add, crcTrain_0, crcRun_add,
    crcTrain_1, crcRun_add, crcTrain_2, crcTrain_3]
  rfl
def mirrorUp : State := ((run.wr ULNK.HIER_CFG_ROLE roMIRROR).ww ULNK.PAIR_ROLE 32).wr ULNK.LINK_STAT_STATE lkUP
def rxMember (i : Nat) : State := ((cfg.pw 0x0E i 0x070 0xC0000000).pw 0x0E i 0x094 0xE0000001).onRx (fun r => { r with on := [i] })
@[reducible] def can (o : Opc) (own : Nat → State → Option Nat) (ok : Env → State → Prop) (e : Env) (s : State) : Prop :=
  judged o e own s = true ∧ ok e (accept o e s)

/-! ## Steps -/

/-- What a field reads after one command, if the machine goes on. -/
def after (c : Instr) (s : State) (f : State → α) : Option α :=
  match exec c s with
  | .next t => some (f t)
  | _ => none

/-- "A clear-view write": 0x10 to the clear view of LOCK_MASK leaves 0x0F (R562). -/
theorem test_clear_view : after (.registerWrite 0 0 (0x02 * 0x4000 + 0x2000 + 0x070) 0x10 15)
    ((inMode 3).ww CLKG.LOCK_MASK 0x1F) (fun t => t.rw CLKG.LOCK_MASK) = some 0x0F := by decide +kernel
/-- A tenant's write of that page of PF0 is ignored (R554). -/
theorem test_not_tenant : after (.registerWrite 3 0 (0x02 * 0x4000 + 0x2000 + 0x070) 0x10 15)
    ((inMode 3).ww CLKG.LOCK_MASK 0x1F) (fun t => t.rw CLKG.LOCK_MASK) = some 0x1F := by decide +kernel
/-- A bit of INT_STAT that is written 1 clears, and no other (R560). -/
theorem test_int_clear : after (.intStatClear 2 0x0E 0b0110) ((inMode 3).pw 0x0E 2 0x010 0b1100)
    (fun t => t.gw 0x0E 2 0x010) = some 0b1000 := by decide +kernel
/-- A rising edge of a flagged pin sets bit 3 of LSIO's INT_STAT (R592). -/
theorem test_gpio_edge : after (.gpioEdge 5 true) ((inMode 3).wr LSIO.GPIO_EDGE 1 5)
    (fun t => bit (t.gw 0x24 0 0x010) 3) = some true := by decide +kernel
/-- In RESET, BOOT and STANDBY nothing counts samples. -/
theorem test_no_sample : after (.sampleBoundary ⟨[], [], []⟩) State.reset (fun t => t.tim.sample) = some 0 := by decide +kernel

/-! ## Witnesses: for each statement, states and operands that meet the hypotheses of its clauses -/

theorem witness_TimeQueriesAnswer :
    (∃ (e : Env) (s : State), judged { read := true } e anyone s = true) ∧
    (∃ (e : Env) (s : State), judged { read := true } e anyone s = true) ∧
    (∃ (e : Env) (s : State), judged { read := true } e anyone s = true) ∧
    (∃ (plane : Nat) (e : Env) (s : State), plane < 2 ∧ judged { read := true } e anyone s = true) ∧
    (∃ (slot : Nat) (e : Env) (s : State), slot < 64 ∧ judged { read := true } e (slotOwn slot) s = true) ∧
    (∃ (off : Nat) (e : Env) (s : State), judged { read := true } e anyone s = true) := by
  refine ⟨?_, ?_, ?_, ?_, ?_, ?_⟩
  · exact ⟨pf, cfg, by decide +kernel⟩
  · exact ⟨pf, cfg, by decide +kernel⟩
  · exact ⟨pf, cfg, by decide +kernel⟩
  · exact ⟨1, pf, cfg, by decide +kernel⟩
  · exact ⟨63, pf, cfg, by decide +kernel⟩
  · exact ⟨124999, pf, cfg, by decide +kernel⟩

theorem witness_StreamQueriesAnswer :
    (∃ (port : Nat) (e : Env) (s : State), port < 4 ∧ judged { read := true } e anyone s = true) ∧
    (∃ (port : Nat) (n : Nat) (mem : List Nat) (e : Env) (s : State), port < 4 ∧ n ≤ 128 ∧ can { read := true } anyone (fun _ s => s.rb NETP.QSFP_STAT_PRESENT (i := port) = true) e s) ∧
    (∃ (port : Nat) (e : Env) (s : State), port < 4 ∧ judged { read := true } e anyone s = true) ∧
    (∃ (is : List Nat) (e : Env) (s : State), (is ≠ [] ∧ is.length ≤ 64 ∧ ∀ x ∈ is, (· < 1024) x) ∧ judged { read := true } e (fun fn s => if is.all (fun i => may fn (s.rxOwner i)) then none else some stNOT_OWNER) s = true) ∧
    (∃ (is : List Nat) (e : Env) (s : State), (is ≠ [] ∧ is.length ≤ 64 ∧ ∀ x ∈ is, (· < 1024) x) ∧ judged { read := true } e (fun fn s => if is.all (fun i => may fn (s.txOwner i)) then none else some stNOT_OWNER) s = true) ∧
    (∃ (i : Nat) (e : Env) (s : State), i < 1024 ∧ can { read := true } (txOwn i) (fun _ s => s.rb STTX.CFG_EN i = true) e s) ∧
    (∃ (page : Nat) (e : Env) (s : State), judged { read := true } e anyone s = true) := by
  refine ⟨?_, ?_, ?_, ?_, ?_, ?_, ?_⟩
  · exact ⟨3, pf, cfg, by decide +kernel⟩
  · exact ⟨3, 128, [7], pf, cfg.wb NETP.QSFP_STAT_PRESENT true (i := 3), by decide +kernel⟩
  · exact ⟨3, pf, cfg, by decide +kernel⟩
  · exact ⟨[0, 1023], pf, cfg, by decide +kernel⟩
  · exact ⟨[0, 1023], pf, cfg, by decide +kernel⟩
  · exact ⟨1023, pf, cfg.wb STTX.CFG_EN true 1023, by decide +kernel⟩
  · exact ⟨0, pf, cfg, by decide +kernel⟩

theorem witness_CounterQueriesAnswer :
    (∃ (i : Nat) (clear : Bool) (e : Env) (s : State), i < 1024 ∧ judged { read := !clear } e (rxOwn i) s = true) ∧
    (∃ (i : Nat) (clear : Bool) (e : Env) (s : State), i < 1024 ∧ judged { read := !clear } e (txOwn i) s = true) ∧
    (∃ (x : Nat) (n : Nat) (o : Nat) (m : Nat) (clear : Bool) (e : Env) (s : State), x + n ≤ 4096 ∧ o + m ≤ 4096 ∧ judged { read := !clear } e (countersOwn x n o m) s = true) ∧
    (∃ (ps : List Nat) (clear : Bool) (e : Env) (s : State), (ps ≠ [] ∧ ps.length ≤ 16 ∧ ∀ x ∈ ps, (· < 16) x) ∧ judged { read := !clear } e (fun fn _ => if clear && fn != 0 then some stNOT_OWNER else none) s = true) ∧
    (∃ (is : List Nat) (clear : Bool) (e : Env) (s : State), (is ≠ [] ∧ is.length ≤ 4 ∧ ∀ x ∈ is, (· < 4) x) ∧ judged { pf0 := true, read := true } e anyone s = true) := by
  refine ⟨?_, ?_, ?_, ?_, ?_⟩
  · exact ⟨1023, true, pf, cfg, by decide +kernel⟩
  · exact ⟨1023, true, pf, cfg, by decide +kernel⟩
  · exact ⟨4095, 1, 4095, 1, true, pf, cfg, by decide +kernel⟩
  · exact ⟨[15], true, pf, cfg, by decide +kernel⟩
  · exact ⟨[3], true, pf, cfg, by decide +kernel⟩

theorem witness_CrosspointQueriesAnswer :
    (∃ (xs : List Nat) (e : Env) (s : State), (xs ≠ [] ∧ xs.length ≤ 256 ∧ ∀ x ∈ xs, (· < 4096) x) ∧ judged { read := true } e anyone s = true) ∧
    (∃ (sig : Nat) (e : Env) (s : State), sig < 64 ∧ judged { read := true } e (sigOwn sig) s = true) ∧
    (∃ (os : List Nat) (e : Env) (s : State), os.length ≤ 1024 ∧ (∀ x ∈ os, x < 4096) ∧ judged { read := true } e (xoutOwn os) s = true) ∧
    (∃ (verso : Bool) (l : List (Nat × Nat)) (e : Env) (s : State), (l ≠ [] ∧ l.length ≤ 1024 ∧ ∀ x ∈ l, (fun w => w.1 < 4096 ∧ w.2 < 4096) x) ∧ judged { read := true } e (sigsOwn (l.map (fun w => sigOf w.2))) s = true) ∧
    (∃ (sigs : List Nat) (td : Nat) (e : Env) (s : State), sigs.length ≤ 64 ∧ (∀ g ∈ sigs, g < 64) ∧ td < 64 ∧ judged { read := true } e (fun fn s => (sigsOwn sigs fn s).or (tdOwn td 0 fn s)) s = true) ∧
    (∃ (page : Nat) (e : Env) (s : State), judged { read := true } e anyone s = true) := by
  refine ⟨?_, ?_, ?_, ?_, ?_, ?_⟩
  · exact ⟨[4095], pf, cfg, by decide +kernel⟩
  · exact ⟨63, pf, cfg, by decide +kernel⟩
  · exact ⟨[4095], pf, cfg, by decide +kernel⟩
  · exact ⟨true, [(4095, 4095)], pf, cfg, by decide +kernel⟩
  · exact ⟨[63], 63, pf, cfg, by decide +kernel⟩
  · exact ⟨0, pf, cfg, by decide +kernel⟩

theorem witness_MeterQueriesAnswer :
    (∃ (ms : List Nat) (e : Env) (s : State), (ms ≠ [] ∧ ms.length ≤ 512 ∧ ∀ x ∈ ms, (· < 8192) x) ∧ judged { read := true } e anyone s = true) ∧
    (∃ (e : Env) (s : State), judged { read := true } e anyone s = true) ∧
    (∃ (set : Nat) (e : Env) (s : State), set < 16 ∧ judged { read := true } e (setOwnRow set) s = true) ∧
    (∃ (gs : List Nat) (e : Env) (s : State), (gs ≠ [] ∧ gs.length ≤ 64 ∧ ∀ x ∈ gs, (· < 256) x) ∧ judged { read := true } e anyone s = true) ∧
    (∃ (keys : List (Nat × Nat)) (e : Env) (s : State), (keys ≠ [] ∧ keys.length ≤ 64 ∧ ∀ x ∈ keys, (fun k => k.1 < 6 ∧ k.2 < 1024) x) ∧ judged { read := true } e anyone s = true) := by
  refine ⟨?_, ?_, ?_, ?_, ?_⟩
  · exact ⟨[8191], pf, cfg, by decide +kernel⟩
  · exact ⟨pf, cfg, by decide +kernel⟩
  · exact ⟨15, pf, cfg, by decide +kernel⟩
  · exact ⟨[255], pf, cfg, by decide +kernel⟩
  · exact ⟨[(5, 1023)], pf, cfg, by decide +kernel⟩

theorem witness_PortQueriesAnswer :
    (∃ (r : Nat) (e : Env) (s : State), r < 8 ∧ judged { read := true } e anyone s = true) ∧
    (∃ (ts : List Nat) (e : Env) (s : State), (ts ≠ [] ∧ ts.length ≤ 8 ∧ ∀ x ∈ ts, (· < 8) x) ∧ judged { read := true } e anyone s = true) ∧
    (∃ (clear : Bool) (e : Env) (s : State), judged { pf0 := true } e anyone s = true) ∧
    (∃ (u : Nat) (n : Nat) (e : Env) (s : State), u < 2 ∧ 0 < n ∧ n ≤ 1024 ∧ judged { pf0 := true } e anyone s = true) ∧
    (∃ (ls : List Nat) (e : Env) (s : State), (ls ≠ [] ∧ ls.length ≤ 6 ∧ ∀ x ∈ ls, (· < 6) x) ∧ judged { pf0 := true, read := true } e anyone s = true) ∧
    (∃ (others : List Nat) (e : Env) (s : State), judged { pf0 := true, read := true } e anyone s = true) ∧
    (∃ (e : Env) (s : State), judged { pf0 := true, read := true } e anyone s = true) := by
  refine ⟨?_, ?_, ?_, ?_, ?_, ?_, ?_⟩
  · exact ⟨7, pf, cfg, by decide +kernel⟩
  · exact ⟨[7], pf, cfg, by decide +kernel⟩
  · exact ⟨true, pf, cfg, by decide +kernel⟩
  · exact ⟨1, 1024, pf, cfg, by decide +kernel⟩
  · exact ⟨[5], pf, cfg, by decide +kernel⟩
  · exact ⟨[1], pf, cfg, by decide +kernel⟩
  · exact ⟨pf, cfg, by decide +kernel⟩

theorem witness_DeviceQueriesAnswer :
    (∃ (e : Env) (s : State), judged { read := true } e anyone s = true) ∧
    (∃ (e : Env) (s : State), judged { read := true } e anyone s = true) ∧
    (∃ (e : Env) (s : State), judged { read := true } e anyone s = true) ∧
    (∃ (page : Nat) (e : Env) (s : State), judged { pf0 := true, read := true } e anyone s = true) ∧
    (∃ (e : Env) (s : State), judged { pf0 := true, read := true } e anyone s = true) ∧
    (∃ (pos : Nat) (n : Nat) (e : Env) (s : State), pos < 64 ∧ 0 < n ∧ n ≤ 64 ∧ judged { pf0 := true, read := true } e anyone s = true) ∧
    (∃ (seq : Nat) (n : Nat) (e : Env) (s : State), 0 < n ∧ n ≤ 64 ∧ judged { pf0 := true, read := true } e anyone s = true) ∧
    (∃ (e : Env) (s : State), judged { pf0 := true, read := true } e anyone s = true) := by
  refine ⟨?_, ?_, ?_, ?_, ?_, ?_, ?_, ?_⟩
  · exact ⟨pf, cfg, by decide +kernel⟩
  · exact ⟨pf, cfg, by decide +kernel⟩
  · exact ⟨pf, cfg, by decide +kernel⟩
  · exact ⟨0, pf, cfg, by decide +kernel⟩
  · exact ⟨pf, cfg, by decide +kernel⟩
  · exact ⟨63, 64, pf, cfg, by decide +kernel⟩
  · exact ⟨0, 64, pf, cfg, by decide +kernel⟩
  · exact ⟨pf, cfg, by decide +kernel⟩

theorem witness_HostQueriesAnswer :
    (∃ (t : Nat) (e : Env) (s : State), t < 8 ∧ judged { read := true } e (ownPage t) s = true) ∧
    (∃ (t : Nat) (e : Env) (s : State), t < 8 ∧ judged { read := true } e (ownPage t) s = true) ∧
    (∃ (handles : List Nat) (e : Env) (s : State), handles.length ≤ 256 ∧ judged { pcieOnly := true, read := true } e anyone s = true) ∧
    (∃ (rings : List Nat) (e : Env) (s : State), rings.length ≤ 16 ∧ (∀ q ∈ rings, q < 16) ∧ judged { pcieOnly := true, read := true } e anyone s = true) ∧
    (∃ (e : Env) (s : State), judged { read := true } e anyone s = true) ∧
    (∃ (e : Env) (s : State), judged { read := true } e anyone s = true) ∧
    (∃ (e : Env) (s : State), judged { pf0 := true, read := true } e anyone s = true) := by
  refine ⟨?_, ?_, ?_, ?_, ?_, ?_, ?_⟩
  · exact ⟨7, pf, cfg, by decide +kernel⟩
  · exact ⟨7, tn 7, act 7 cfg, by decide +kernel⟩
  · exact ⟨[1], pf, cfg, by decide +kernel⟩
  · exact ⟨[15], pf, cfg, by decide +kernel⟩
  · exact ⟨pf, cfg, by decide +kernel⟩
  · exact ⟨pf, cfg, by decide +kernel⟩
  · exact ⟨pf, cfg, by decide +kernel⟩

theorem witness_ConfigurationCommandsWrite :
    (∃ (ws : List RegW) (e : Env) (s : State), cfgOk 0x00 1 [0x048, 0x04C, 0x064] ws = true ∧ judged { pf0 := true } e anyone s = true) ∧
    (∃ (ws : List RegW) (e : Env) (s : State), cfgOk 0x04 4 [0x080, 0x090, 0x094] ws = true ∧ (∀ w ∈ ws, w.inst = 3 ∧ w.obj = 0) ∧ judged { pf0 := true } e anyone s = true) ∧
    (∃ (ws : List RegW) (e : Env) (s : State), cfgOk 0x09 1 [0x040, 0x044, 0x048, 0x04C, 0x060] ws = true ∧ (∀ w ∈ ws, w.obj = 0) ∧ judged { pf0 := true } e anyone s = true) ∧
    (∃ (ws : List RegW) (e : Env) (s : State), cfgOk 0x03 1 refCfgRegs ws = true ∧ (∀ w ∈ ws, w.obj = 0 ∨ (w.off = 0x100 ∧ w.obj < 8)) ∧ judged { pf0 := true } e anyone s = true) ∧
    (∃ (ws : List RegW) (e : Env) (s : State), cfgOk 0x04 2 ptpCfgRegs ws = true ∧ (∀ w ∈ ws, w.obj = 0) ∧ judged { pf0 := true } e anyone s = true) ∧
    (∃ (ws : List RegW) (e : Env) (s : State), cfgOk 0x0A 4 portCfgRegs ws = true ∧ (∀ w ∈ ws, (w.off = 0x040 → portCtlOk w.val = true ∧ w.obj = 0) ∧ (w.off ≠ 0x040 → w.obj = 0 ∨ ((w.off = 0x0A0 ∨ w.off = 0x0E0) ∧ w.obj < 8))) ∧ judged { pf0 := true } e anyone s = true) ∧
    (∃ (ws : List RegW) (e : Env) (s : State), cfgOk 0x19 1 clkpinRegs ws = true ∧ (∀ w ∈ ws, w.obj = 0 ∨ (w.off = 0x060 ∧ w.obj < 4)) ∧ judged { pf0 := true } e anyone s = true) ∧
    (∃ (ws : List RegW) (e : Env) (s : State), ws ≠ [] ∧ cfgOk 0x24 1 [0x484, 0x488] ws = true ∧ (∀ w ∈ ws, w.obj = 0) ∧ (can { pf0 := true } anyone (fun _ s => ∀ w ∈ ws, w.off = 0x484 → s.warnOk w.val = true) e s)) ∧
    (∃ (ws : List RegW) (e : Env) (s : State), ws ≠ [] ∧ cfgOk 0x24 1 [0x200, 0x208] ws = true ∧ (∀ w ∈ ws, w.obj < 2) ∧ judged { pf0 := true } e anyone s = true) ∧
    (∃ (l : List (Nat × Nat)) (e : Env) (s : State), (l ≠ [] ∧ l.length ≤ 32 ∧ ∀ x ∈ l, (fun x => x.1 < 32 ∧ x.2 < 2 ^ 32 ∧ fbits x.2 31 30 ≠ 3 ∧ fbits x.2 27 26 ≠ 3) x) ∧ judged { pf0 := true } e anyone s = true) ∧
    (∃ (l : List (Nat × Nat)) (e : Env) (s : State), (l ≠ [] ∧ l.length ≤ 16 ∧ ∀ x ∈ l, (fun x => x.1 < 16 ∧ x.2 < 2 ^ 32 ∧ fbits x.2 5 4 ≠ 3) x) ∧ judged { pf0 := true } e anyone s = true) := by
  refine ⟨?_, ?_, ?_, ?_, ?_, ?_, ?_, ?_, ?_, ?_, ?_⟩
  · exact ⟨[⟨0x064, 0, 0, 0⟩], pf, cfg, by decide +kernel⟩
  · exact ⟨[⟨0x094, 0, 3, 0⟩], pf, cfg, by decide +kernel⟩
  · exact ⟨[⟨0x060, 0, 0, 0⟩], pf, cfg, by decide +kernel⟩
  · exact ⟨[⟨0x100, 7, 0, 0⟩], pf, cfg, by decide +kernel⟩
  · exact ⟨[⟨0x0A0, 0, 1, 0x807F0038⟩], pf, cfg, by decide +kernel⟩
  · exact ⟨[⟨0x040, 0, 3, 0x80000002⟩], pf, cfg, by decide +kernel⟩
  · exact ⟨[⟨0x060, 3, 0, 0⟩], pf, cfg, by decide +kernel⟩
  · exact ⟨[⟨0x484, 0, 0, 0⟩], pf, cfg, by decide +kernel⟩
  · exact ⟨[⟨0x200, 1, 0, 0xC000065C⟩], pf, cfg, by decide +kernel⟩
  · exact ⟨[(31, 0xBBFFFFFF)], pf, cfg, by decide +kernel⟩
  · exact ⟨[(15, 0xFFFFFFEF)], pf, cfg, by decide +kernel⟩

theorem witness_PortConfigurationActs :
    (∃ (ws : List RegW) (e : Env) (s : State), ws ≠ [] ∧ cfgOk 0x1A 6 [0x040, 0x054] ws = true ∧ judged { pf0 := true } e anyone s = true) ∧
    (∃ (ws : List RegW) (e : Env) (s : State), (ws ≠ [] ∧ ws.length ≤ 4 ∧ ∀ x ∈ ws, (·.obj < 4) x) ∧ cfgOk 0x24 1 [0x100] ws = true ∧ judged { pf0 := true } e anyone s = true) ∧
    (∃ (ws : List RegW) (t : State) (e : Env) (s : State), locWsOk ws 4 4 [0x100, 0x12C] = true ∧ judged { pf0 := true } e anyone s = true ∧ i2sCfg (accept { pf0 := true } e s) ws = .ok t) ∧
    (∃ (ws : List RegW) (e : Env) (s : State), locWsOk ws 1 8 [0x100, 0x12C] = true ∧ (∀ w ∈ ws, w.off = 0x12C → 8000 ≤ w.val ∧ w.val ≤ 216000) ∧ (can { pf0 := true } anyone (fun _ s => (∀ w ∈ ws, w.off = 0x12C → s.rb AESP.RX_CTL_EN w.obj = false) ∧ locRefused (s.each ws (fun s w => if w.off = 0x100 then arCtlWrite w.obj w.val s else arNomWrite w.obj w.val s)) ((ws.map (·.obj)).map (fun i => (1, i))) = none) e s)) ∧
    (∃ (ws : List RegW) (e : Env) (s : State), locWsOk ws 1 8 (0x900 :: (List.range 12).map (fun j => 0x910 + 4 * j)) = true ∧ (∀ w ∈ ws, w.off = 0x900 → fbits w.val 2 0 ≤ 5) ∧ (can { pf0 := true } anyone (fun _ s => (∀ w ∈ ws, w.off = 0x900 → s.rb AESP.TX_CTL_EN w.obj = true → fbits w.val 2 0 = s.rd AESP.TX_CTL_RATE w.obj) ∧ locRefused (s.each ws (fun s w => if w.off = 0x900 then atCtlWrite w.obj w.val s else s.hold 16 0x18 w.obj w.off 0xFFFFFFFF w.val)) ((ws.map (·.obj)).map (fun i => (2, i))) = none) e s)) ∧
    (∃ (ws : List RegW) (e : Env) (s : State), cfgOk 0x02 1 [0x040, 0x048, 0x070] ws = true ∧ (∀ w ∈ ws, w.obj = 0) ∧ (can { pf0 := true } anyone (fun _ s => s.mode = mCONFIG ∨ s.mode = mTEST ∨ ∀ w ∈ ws, w.off = 0x048 → w.val % 4 = s.rd CLKG.SSC_CTL_MODE) e s)) := by
  refine ⟨?_, ?_, ?_, ?_, ?_, ?_⟩
  · exact ⟨[⟨0x054, 0, 5, 0⟩], pf, cfg, by decide +kernel⟩
  · exact ⟨[⟨0x100, 3, 0, 0x80001901⟩], pf, cfg, by decide +kernel⟩
  · exact let ⟨t, h⟩ := ok_some (x := i2sCfg (accept { pf0 := true } pf cfg) [⟨0x12C, 3, 3, 216000⟩]) (by decide +kernel)
        ⟨[⟨0x12C, 3, 3, 216000⟩], t, pf, cfg, by decide +kernel, by decide +kernel, h⟩
  · exact ⟨[⟨0x12C, 7, 0, 216000⟩], pf, cfg, by decide +kernel⟩
  · exact ⟨[⟨0x900, 7, 0, 5⟩], pf, cfg, by decide +kernel⟩
  · exact ⟨[⟨0x048, 0, 0, 2⟩], pf, cfg, by decide +kernel⟩

theorem witness_SettingsAreStored :
    (∃ (ms : Nat) (e : Env) (s : State), 10 ≤ ms ∧ ms ≤ 1000 ∧ judged { pf0 := true } e anyone s = true) ∧
    (∃ (on : Bool) (e : Env) (s : State), judged { pf0 := true } e anyone s = true) ∧
    (∃ (on : Bool) (sec : Nat) (e : Env) (s : State), 0 < sec ∧ sec ≤ 300 ∧ judged { pf0 := true } e anyone s = true) ∧
    (∃ (l : List TgW) (e : Env) (s : State), (l ≠ [] ∧ l.length ≤ 16 ∧ ∀ x ∈ l, (fun w => w.g < 16 ∧ w.kind ≤ 5 ∧ 1 ≤ w.freq ∧ w.freq ≤ 4800000 ∧ w.level < 2 ^ 16) x) ∧ can { pf0 := true, mirrored := true, code := 0x0407 } anyone (fun _ s => s.mirrorActive = false) e s) ∧
    (∃ (t : Nat) (mode : Bool) (base : Nat) (limit : Nat) (e : Env) (s : State), base < 2 ^ 64 ∧ limit < 2 ^ 64 ∧ judged { pf0 := true } e (namesTenant t false) s = true) ∧
    (∃ (g : Nat) (bw : Nat) (range : Nat) (e : Env) (s : State), 3 ≤ g ∧ g < 256 ∧ bw ≤ 5 ∧ range ≤ 2 ∧ can { mirrored := true, code := 0x0660 } (grpOwn g) (fun _ s => s.mirrorActive = false) e s) ∧
    (∃ (g : Nat) (bw : Nat) (range : Nat) (w : Nat) (e : Env) (s : State), 3 ≤ g ∧ g < 256 ∧ bw ≤ 5 ∧ range ≤ 2 ∧ w < 16 ∧ can { mirrored := true, code := 0x0660 } (grpOwn g) (fun e s => callerOf e = 0 ∧ s.mirrorActive = false) e s) ∧
    (∃ (port : Nat) (a : PortAddr) (e : Env) (s : State), port < 4 ∧ a.prefix4 ≤ 32 ∧ a.ip4 < 2 ^ 32 ∧ a.gateway < 2 ^ 32 ∧ a.ip6a < 2 ^ 128 ∧ a.ip6b < 2 ^ 128 ∧ judged { pf0 := true } e anyone s = true) ∧
    (∃ (i : Nat) (pat : List (Nat × Nat)) (e : Env) (s : State), 0 < i ∧ i ≤ 3 ∧ pat.length ≤ 128 ∧ (∀ x ∈ pat, x.1 < 256 ∧ x.2 < 256) ∧ judged { pf0 := true } e anyone s = true) ∧
    (∃ (w : Nat) (e : Env) (s : State), w < 2 ^ 32 ∧ w &&& 0x7FF00000 = 0 ∧ judged { pf0 := true } e anyone s = true) ∧
    (∃ (on : Bool) (addrs : List Nat) (e : Env) (s : State), (∀ a ∈ addrs, a < 2 ^ 128) ∧ judged { pf0 := true } e anyone s = true) := by
  refine ⟨?_, ?_, ?_, ?_, ?_, ?_, ?_, ?_, ?_, ?_, ?_⟩
  · exact ⟨1000, pf, cfg, by decide +kernel⟩
  · exact ⟨true, pf, cfg, by decide +kernel⟩
  · exact ⟨true, 300, pf, cfg, by decide +kernel⟩
  · exact ⟨[⟨15, 5, 4800000, 65535⟩], pf, cfg, by decide +kernel⟩
  · exact ⟨7, true, 2 ^ 64 - 1, 0, pf, act 7 cfg, by decide +kernel⟩
  · exact ⟨255, 5, 2, pf, cfg, by decide +kernel⟩
  · exact ⟨255, 5, 2, 15, pf, cfg, by decide +kernel⟩
  · exact ⟨3, ⟨2 ^ 32 - 1, 32, 0, 2 ^ 128 - 1, 0⟩, pf, cfg, by decide +kernel⟩
  · exact ⟨3, [(255, 255)], pf, cfg, by decide +kernel⟩
  · exact ⟨0x800FFFFF, pf, cfg, by decide +kernel⟩
  · exact ⟨true, [0, 2 ^ 32 - 1], pf, cfg, by decide +kernel⟩

theorem witness_ArmingCommandsArm :
    (∃ (a : SlotArgs) (i : Nat) (e : Env) (s : State), a.action ≤ 15 ∧ a.tbsel ≤ 7 ∧ judged { mirrored := true, code := 0x0210, modes := armModes } e (armOwn a.action a.p0) s = true ∧ (accept { mirrored := true, code := 0x0210, modes := armModes } e s).freeSlotNo = some i ∧ armRefusal (callerOf e) i (slotWrite i a (accept { mirrored := true, code := 0x0210, modes := armModes } e s)) = none) ∧
    (∃ (g : Nat) (a : SlotArgs) (i : Nat) (e : Env) (s : State), g < 256 ∧ a.tbsel ≤ 7 ∧ judged { mirrored := true, code := 0x0662, modes := armModes } e (armOwn 7 g) s = true ∧ (accept { mirrored := true, code := 0x0662, modes := armModes } e s).freeSlotNo = some i ∧ armRefusal (callerOf e) i (slotWrite i { a with action := 7, p0 := g, p1 := 0 } (accept { mirrored := true, code := 0x0662, modes := armModes } e s)) = none) ∧
    (∃ (set : Nat) (a : SlotArgs) (i : Nat) (e : Env) (s : State), set < 16 ∧ a.tbsel ≤ 7 ∧ judged { mirrored := true, code := 0x0511, modes := armModes } e (armOwn 6 set) s = true ∧ (accept { mirrored := true, code := 0x0511, modes := armModes } e s).freeSlotNo = some i ∧ armRefusal (callerOf e) i (slotWrite i { a with action := 6, p0 := set, p1 := 0 } (accept { mirrored := true, code := 0x0511, modes := armModes } e s)) = none) ∧
    (∃ (target : Nat) (a : SlotArgs) (i : Nat) (e : Env) (s : State), (target ≤ 3 ∨ (0x10 ≤ target ∧ target ≤ 0x17)) ∧ a.tbsel ≤ 7 ∧ judged { modes := armModes } e (armOwn 2 target) s = true ∧ (accept { modes := armModes } e s).freeSlotNo = some i ∧ armRefusal (callerOf e) i (slotWrite i { a with action := 2, p0 := target, p1 := 0 } (accept { modes := armModes } e s)) = none) ∧
    (∃ (tx : Bool) (i : Nat) (a : SlotArgs) (i : Nat) (e : Env) (s : State), i < 1024 ∧ a.tbsel ≤ 7 ∧ judged { mirrored := true, code := 0x0310, modes := armModes } e (armOwn 3 (i + 1024 * b2n tx)) s = true ∧ (accept { mirrored := true, code := 0x0310, modes := armModes } e s).freeSlotNo = some i ∧ armRefusal (callerOf e) i (slotWrite i { a with action := 3, p0 := i + 1024 * b2n tx, p1 := 0 } (accept { mirrored := true, code := 0x0310, modes := armModes } e s)) = none) ∧
    (∃ (tx : Bool) (i : Nat) (a : SlotArgs) (i : Nat) (e : Env) (s : State), i < 1024 ∧ a.tbsel ≤ 7 ∧ judged { mirrored := true, code := 0x0311, modes := armModes } e (armOwn 4 (i + 1024 * b2n tx)) s = true ∧ (accept { mirrored := true, code := 0x0311, modes := armModes } e s).freeSlotNo = some i ∧ armRefusal (callerOf e) i (slotWrite i { a with action := 4, p0 := i + 1024 * b2n tx, p1 := 0 } (accept { mirrored := true, code := 0x0311, modes := armModes } e s)) = none) := by
  refine ⟨?_, ?_, ?_, ?_, ?_, ?_⟩
  · exact ⟨{ slot0 with action := 8 }, 0, pf, run, by decide +kernel⟩
  · exact ⟨255, slot0, 0, pf, run, by decide +kernel⟩
  · exact ⟨15, slot0, 0, pf, run, by decide +kernel⟩
  · exact ⟨0x17, slot0, 0, pf, run, by decide +kernel⟩
  · exact ⟨true, 1023, slot0, 0, pf, run, by decide +kernel⟩
  · exact ⟨true, 1023, slot0, 0, pf, run, by decide +kernel⟩

theorem witness_TimedActionsAct :
    (∃ (slot : Nat) (e : Env) (s : State), slot < 64 ∧ can { mirrored := true, code := 0x0211 } (slotOwn slot) (fun _ s => (cancelJudge slot s).1 = stOK ∧ s.mirrorActive = false) e s) ∧
    (∃ (slot : Nat) (s : State), s.slotState slot = slFROZEN ∧ s.rw COLL.SLOT_PERIOD slot ≠ 0) ∧
    (∃ (tb : Nat) (sec : Nat) (ns : Nat) (e : Env) (s : State), (tb = 2 ∨ tb = 3) ∧ setOk sec ns = true ∧ (can { pf0 := true } anyone (fun _ s => tb = 3 ∨ s.rd REFS.STAT_STATE = 0) e s)) ∧
    (∃ (mask : Nat) (e : Env) (s : State), mask &&& 0xFF7 = mask ∧ judged { pf0 := true } e anyone s = true) ∧
    (∃ (n : Int) (e : Env) (s : State), -32768 ≤ n ∧ n ≤ 32767 ∧ can { pf0 := true } anyone (fun _ s => s.rb CLKG.MPLL_STAT_PSTEP_BUSY = false) e s) ∧
    (∃ (td : Nat) (scope : Nat) (ramp : Nat) (e : Env) (s : State), td < 64 ∧ ramp ≤ 16384 ∧ scope < 2 ^ 64 ∧ can { mirrored := true, code := 0x0415 } (tdOwn td scope) (fun _ s => s.tdNamed td = false ∧ s.mirrorActive = false) e s) ∧
    (∃ (td : Nat) (scope : Nat) (ramp : Nat) (e : Env) (s : State), td < 64 ∧ ramp ≤ 16384 ∧ scope < 2 ^ 64 ∧ can { mirrored := true, code := 0x0415 } (tdOwn td 0) (fun _ s => s.tdNamed td = false ∧ s.tdDefined td = true ∧ s.mirrorActive = false) e s) ∧
    (∃ (td : Nat) (a : SlotArgs) (e : Env) (s : State), td < 64 ∧ a.tbsel ≤ 7 ∧ can { mirrored := true, code := 0x0416, modes := fun m => !turnsDropped m } (tdOwn td 0) (fun _ s => s.tdDefined td = true ∧ atOnce s.mode = true ∧ s.keepLoads td = false ∧ (s.tdKeep td).isEmpty = false) e s) ∧
    (∃ (td : Nat) (a : SlotArgs) (e : Env) (s : State), td < 64 ∧ a.tbsel = 6 ∧ can { mirrored := true, code := 0x0416, modes := fun m => !turnsDropped m } (tdOwn td 0) (fun _ s => s.tdDefined td = true ∧ atOnce s.mode = false ∧ (s.tdKeep td).isEmpty = false ∧ (s.tdKeep td).any s.queuedSig = false) e s) ∧
    (∃ (mask : Nat) (td : Nat) (a : SlotArgs) (i : Nat) (e : Env) (s : State), td < 64 ∧ 0 < mask ∧ mask < 65536 ∧ a.tbsel = 6 ∧ (can { pf0 := true, modes := armModes } anyone (fun _ s => s.role = roGRID ∧ s.devId = 0 ∧ (∀ d < 16, bit mask d = true → d = 0) ∧ bit mask 0 = true ∧ s.tdDefined td = true ∧ s.freeSlotNo = some i ∧ s.tim.sample + 64 ≤ 32 * (s.accTick + 4)) e s)) := by
  refine ⟨?_, ?_, ?_, ?_, ?_, ?_, ?_, ?_, ?_, ?_⟩
  · exact ⟨63, pf, cfg.wr COLL.SLOT_STAT_STATE slARMED 63, by decide +kernel⟩
  · exact ⟨63, (cfg.wr COLL.SLOT_STAT_STATE slFROZEN 63).ww COLL.SLOT_PERIOD 32 63, by decide +kernel⟩
  · exact ⟨2, 2 ^ 34 - 1, 999999999, pf, cfg, by decide +kernel⟩
  · exact ⟨0xFF7, pf, cfg, by decide +kernel⟩
  · exact ⟨-32768, pf, cfg, by decide +kernel⟩
  · exact ⟨63, 2 ^ 64 - 1, 16384, pf, cfg, by decide +kernel⟩
  · exact ⟨63, 0, 0, pf, cfg.wb SCNE.TD_STAT_DEFINED true 63, by decide +kernel⟩
  · exact ⟨63, slot0, pf, (cfg.wb SCNE.TD_STAT_DEFINED true 63).ww SCNE.TD_SCOPE_LO 1 63, by decide +kernel⟩
  · exact ⟨63, slot0, pf, (run.wb SCNE.TD_STAT_DEFINED true 63).ww SCNE.TD_SCOPE_LO 1 63, by decide +kernel⟩
  · exact ⟨1, 63, slot0, 0, pf, (run.wb SCNE.TD_STAT_DEFINED true 63).wr ULNK.HIER_CFG_ROLE roGRID, by decide +kernel⟩

theorem witness_StreamEntriesCommit :
    (∃ (i : Nat) (ws : List RegW) (t : State) (e : Env) (s : State), i < 1024 ∧ entryWsOk rxCfgRegs ws = true ∧ can { mirrored := true, code := 0x0301 } (rxOwnNew i) (fun e s => s.rb STRX.CFG_EN i = false ∧ s.mirrorActive = false ∧ rxCommit (callerOf e) i workObj (entryStage 0x0E rxEntry none ws (rxJudge s)) = .ok t) e s) ∧
    (∃ (i : Nat) (d : List Byte) (p : RxPlace) (ws : List RegW) (ref : Option (Nat × Nat)) (t : State) (e : Env) (s : State), i < 1024 ∧ can { mirrored := true, code := 0x0302 } (rxOwnNew i) (fun e s => sdpWords d p s = some (ws, ref) ∧ s.rb STRX.CFG_EN i = false ∧ s.mirrorActive = false ∧ rxCommit (callerOf e) i workObj (entryStage 0x0E rxEntry none ws (rxJudge s)) = .ok t) e s) ∧
    (∃ (i : Nat) (ws : List RegW) (t : State) (e : Env) (s : State), i < 1024 ∧ entryWsOk rxCfgRegs ws = true ∧ can { mirrored := true, code := 0x0303 } (rxOwn i) (fun e s => bg s.rx.used i = true ∧ s.mirrorActive = false ∧ rxCommit (callerOf e) i workObj (entryStage 0x0E rxEntry (some i) ws (rxJudge s)) = .ok t) e s) ∧
    (∃ (i : Nat) (e : Env) (s : State), i < 1024 ∧ can { mirrored := true, code := 0x0304 } (rxOwn i) (fun _ s => bg s.rx.used i = true ∧ s.mirrorActive = false) e s) ∧
    (∃ (i : Nat) (name : List Byte) (ws : List RegW) (t : State) (e : Env) (s : State), i < 1024 ∧ name.length ≤ 32 ∧ entryWsOk txCfgRegs ws = true ∧ can { mirrored := true, code := 0x0330 } (txOwnNew i) (fun e s => s.rb STTX.CFG_EN i = false ∧ s.mirrorActive = false ∧ txCommit (callerOf e) i workObj (entryStage 0x0F txEntry none ws s) = .ok t) e s) ∧
    (∃ (i : Nat) (ws : List RegW) (t : State) (e : Env) (s : State), i < 1024 ∧ entryWsOk txCfgRegs ws = true ∧ can { mirrored := true, code := 0x0331 } (txOwn i) (fun e s => bg s.tx.used i = true ∧ s.mirrorActive = false ∧ txCommit (callerOf e) i workObj (entryStage 0x0F txEntry (some i) ws s) = .ok t) e s) ∧
    (∃ (i : Nat) (e : Env) (s : State), i < 1024 ∧ can { mirrored := true, code := 0x0332 } (txOwn i) (fun _ s => bg s.tx.used i = true ∧ s.mirrorActive = false) e s) := by
  refine ⟨?_, ?_, ?_, ?_, ?_, ?_, ?_⟩
  · exact let ⟨t, h⟩ := ok_some (x := rxCommit (callerOf pf) 1023 workObj (entryStage 0x0E rxEntry none rxWords (rxJudge (accept { mirrored := true, code := 0x0301 } pf cfg)))) (by decide +kernel)
        ⟨1023, rxWords, t, pf, cfg, by decide, by decide +kernel, by decide +kernel, by decide +kernel, by decide +kernel, h⟩
  · exact let ⟨t, h⟩ := ok_some (x := rxCommit (callerOf pf) 1023 workObj (entryStage 0x0E rxEntry none rxWords (rxJudge (accept { mirrored := true, code := 0x0302 } pf cfg)))) (by decide +kernel)
        ⟨1023, sdp0, place0, rxWords, rxRef, t, pf, cfg, by decide, by decide +kernel, by decide +kernel, by decide +kernel, by decide +kernel, h⟩
  · exact let ⟨t, h⟩ := ok_some (x := rxCommit (callerOf pf) 1023 workObj (entryStage 0x0E rxEntry (some 1023) rxWords (rxJudge (accept { mirrored := true, code := 0x0303 } pf rxUsed)))) (by decide +kernel)
        ⟨1023, rxWords, t, pf, rxUsed, by decide, by decide +kernel, by decide +kernel, by decide +kernel, by decide +kernel, h⟩
  · exact ⟨1023, pf, cfg.onRx (fun r => { r with used := [(1023, true)] }), by decide +kernel⟩
  · exact let ⟨t, h⟩ := ok_some (x := txCommit (callerOf pf) 1023 workObj (entryStage 0x0F txEntry none [] (accept { mirrored := true, code := 0x0330 } pf cfg))) (by decide +kernel)
        ⟨1023, List.replicate 32 65, [], t, pf, cfg, by decide, by decide, by decide +kernel, by decide +kernel, by decide +kernel, by decide +kernel, h⟩
  · exact let ⟨t, h⟩ := ok_some (x := txCommit (callerOf pf) 1023 workObj (entryStage 0x0F txEntry (some 1023) [] (accept { mirrored := true, code := 0x0331 } pf txUsed))) (by decide +kernel)
        ⟨1023, [], t, pf, txUsed, by decide, by decide +kernel, by decide +kernel, by decide +kernel, by decide +kernel, h⟩
  · exact ⟨1023, pf, cfg.onTx (fun r => { r with used := [(1023, true)] }), by decide +kernel⟩

theorem witness_SettingsWaitForTheirBoundary :
    (∃ (t : XTiming) (l : List XinW) (e : Env) (s : State), let a := accept { mirrored := true, code := 0x0401 } e s
  judged { mirrored := true, code := 0x0401 } e (xinOwn l) s = true ∧ fits a e 2 = true ∧ (isAt t = true → a.mode ≠ mCONFIG ∧ a.mode ≠ mACQUIRE) ∧ (l ≠ [] ∧ l.length ≤ 256 ∧ ∀ w ∈ l, w.x < 4096 ∧ selOk w.src = true ∧ w.src < 2 ^ 16) ∧ a.xp.inPend.length < 4) ∧
    (∃ (sig : Nat) (l : List XoutW) (e : Env) (s : State), sig < 64 ∧ (l ≠ [] ∧ l.length ≤ 64 ∧ ∀ x ∈ l, (fun w => xoutOk w = true) x) ∧ (can { mirrored := true, code := 0x0403 } (sigOwn sig) (fun _ s => ∀ w ∈ l, ∀ d, w.dly = some d → d ≤ 64 * s.alloc (64 * sig + w.j) ∧ s.allocPending (64 * sig + w.j) = false) e s)) ∧
    (∃ (l : List (Nat × Nat)) (e : Env) (s : State), l.length ≤ 1024 ∧ (∀ x ∈ l, x.1 < 8192 ∧ x.2 < 65536 ∧ txSelOk x.2 = true) ∧ can { mirrored := true, code := 0x0335 } (fun fn s => if l.all (fun x => may fn (s.txChOwner x.1)) then none else some stNOT_OWNER) (fun _ s => txSelRefusal s l = none) e s) ∧
    (∃ (l : List (Nat × Nat)) (e : Env) (s : State), l.length ≤ 512 ∧ (∀ x ∈ l, x.1 < 512 ∧ x.2 < 65536 ∧ txSelOk x.2 = true) ∧ judged { pcieOnly := true } e (fun fn s => if l.all (fun x => s.capOwner x.1 == fn) then none else some stNOT_OWNER) s = true) ∧
    (∃ (l : List (Nat × Nat)) (e : Env) (s : State), (l ≠ [] ∧ l.length ≤ 1024 ∧ ∀ x ∈ l, (fun x => x.1 < 4096 ∧ x.2 < 65536 ∧ uoutSelOk x.2 = true) x) ∧ judged { pf0 := true } e anyone s = true) ∧
    (∃ (l : List (Nat × Nat)) (e : Env) (s : State), l.length ≤ 48 ∧ (∀ x ∈ l, x.1 < 48 ∧ x.2 < 65536 ∧ txSelOk x.2 = true) ∧ judged { pf0 := true, mirrored := true, code := 0x0623 } e anyone s = true) ∧
    (∃ (ws : List RegW) (e : Env) (s : State), ws ≠ [] ∧ ws.all profOk = true ∧ judged { pf0 := true, mirrored := true, code := 0x0502 } e anyone s = true) ∧
    (∃ (l : List (Nat × Nat)) (e : Env) (s : State), (l ≠ [] ∧ l.length ≤ 1024 ∧ ∀ x ∈ l, (fun q => q.1 < 8192 ∧ q.2 < 2 ^ 11 ∧ fbits q.2 7 3 = 0) x) ∧ judged { mirrored := true, code := 0x0503 } e (metsOwn (l.map (·.1))) s = true) ∧
    (∃ (ms : List Nat) (e : Env) (s : State), ms ≠ [] ∧ (∀ m ∈ ms, m < 8192) ∧ judged {} e (metsOwn ms) s = true) := by
  refine ⟨?_, ?_, ?_, ?_, ?_, ?_, ?_, ?_, ?_⟩
  · exact ⟨.at 0, [⟨4095, 0, 0⟩], pf, run.onXp (fun x => { x with inPend := [1, 2, 3] }), by decide +kernel⟩
  · exact ⟨63, [⟨63, none, none, some 0⟩], pf, cfg, by decide, by decide +kernel, by decide +kernel, fun w hw d hd => by
          simp only [List.mem_singleton] at hw; subst hw; cases hd; decide +kernel⟩
  · exact ⟨[(8191, 0)], pf, cfg, by decide +kernel⟩
  · exact ⟨[(511, 0)], pf, cfg, by decide +kernel⟩
  · exact ⟨[(4095, 0)], pf, cfg, by decide +kernel⟩
  · exact ⟨[(47, 0)], pf, cfg, by decide +kernel⟩
  · exact ⟨[⟨0x080, 7, 0, 0xFFFF⟩], pf, cfg, by decide +kernel⟩
  · exact ⟨[(8191, 0x707)], pf, cfg, by decide +kernel⟩
  · exact ⟨[8191], pf, cfg, by decide +kernel⟩

theorem witness_SceneCommandsAct :
    (∃ (l : List NodeW) (e : Env) (s : State), (l ≠ [] ∧ l.length ≤ 1024 ∧ ∀ x ∈ l, (fun w => w.i < 4096 ∧ w.o < 4096 ∧ w.code < 65536) x) ∧ can { mirrored := true, code := 0x0410 } (sigsOwn (l.map (fun w => sigOf w.o))) (fun e s => s.editFits (callerOf e) ((l.filter (fun w => s.willLock s.applyAt (sigOf w.o))).length) = true) e s) ∧
    (∃ (i : Nat) (ni : Nat) (o : Nat) (no_ : Nat) (codes : List Nat) (e : Env) (s : State), 0 < ni ∧ 0 < no_ ∧ codes.length = ni * no_ ∧ i + ni ≤ 4096 ∧ o + no_ ≤ 4096 ∧ ni * no_ ≤ 1024 ∧ (∀ c ∈ codes, c < 65536) ∧ can { mirrored := true, code := 0x0411 } (sigsOwn ((blockNodes i ni o codes).map (fun w => sigOf w.o))) (fun e s => s.editFits (callerOf e) (((blockNodes i ni o codes).filter (fun w => s.willLock s.applyAt (sigOf w.o))).length) = true) e s) ∧
    (∃ (gs : List Nat) (e : Env) (s : State), gs ≠ [] ∧ (∀ g ∈ gs, g < 64) ∧ can { mirrored := true, code := 0x0413 } (sigsOwn gs) (fun _ s => ∀ g ∈ gs, s.willLock s.applyAt g = false) e s) ∧
    (∃ (gs : List Nat) (e : Env) (s : State), gs ≠ [] ∧ (∀ g ∈ gs, g < 64) ∧ can { mirrored := true, code := 0x0414 } (sigsOwn gs) (fun _ s => ∀ g ∈ gs, s.willLock s.applyAt g = false) e s) ∧
    (∃ (l : List (Nat × Nat × Bool)) (e : Env) (s : State), (l ≠ [] ∧ l.length ≤ 8 ∧ ∀ x ∈ l, (fun w => w.1 < 65536 ∧ w.2.1 < 64) x) ∧ can {} (sigsOwn (l.map (fun w => w.2.1))) (fun e s => s.scn.save = none ∧ l.foldl (fun a w => a + sceneKiB (s.sceneCopy (callerOf e) w)) 0 ≤ s.rd SCNE.STORE_STAT_FREE) e s) ∧
    (∃ (id : Nat) (src : Nat) (dst : Nat) (dur : Nat) (c : Scene) (e : Env) (s : State), dst < 64 ∧ can { mirrored := true, code := 0x0419 } (sigsOwn [dst]) (fun e s => s.sceneFind (callerOf e) id src = some c ∧ s.bankState dst ≠ bkHELD ∧ s.willLock s.applyAt dst = false) e s) ∧
    (∃ (id : Nat) (src : Nat) (c : Scene) (e : Env) (s : State), can {} (sceneOwn id src) (fun e s => s.sceneFind (callerOf e) id src = some c) e s) := by
  refine ⟨?_, ?_, ?_, ?_, ?_, ?_, ?_⟩
  · exact ⟨[⟨4095, 4095, 65535⟩], pf, cfg, by decide +kernel⟩
  · exact ⟨4095, 1, 4095, 1, [65535], pf, cfg, by decide +kernel⟩
  · exact ⟨[63], pf, cfg, by decide +kernel⟩
  · exact ⟨[63], pf, cfg, by decide +kernel⟩
  · exact ⟨[(65535, 63, true)], pf, cfg.wr SCNE.STORE_STAT_FREE 65535, by decide, by decide +kernel, by decide +kernel, by
          rw [show (accept {} pf (cfg.wr SCNE.STORE_STAT_FREE 65535)).rd SCNE.STORE_STAT_FREE = 65535 by decide +kernel]
          have := (Config.recordKiB (State.sceneCopy (accept {} pf (cfg.wr SCNE.STORE_STAT_FREE 65535)) (callerOf pf) (65535, 63, true)).codes).isLt
          simp only [List.foldl, sceneKiB]; omega⟩
  · exact ⟨9, 1, 63, 960, scene0, pf, cfg.onFlash (fun f => { f with scenes := [scene0] }), by decide +kernel⟩
  · exact ⟨9, 1, scene0, pf, cfg.onFlash (fun f => { f with scenes := [scene0] }), by decide +kernel⟩

theorem witness_TenantCommandsAct :
    (∃ (t : Nat) (quotas : List (Nat × Nat)) (mode : Bool) (base : Nat) (limit : Nat) (e : Env) (s : State), base < 2 ^ 64 ∧ limit < 2 ^ 64 ∧ (can { crit := true, pf0 := true } (fun _ s => if t = 0 ∨ 7 < t ∨ s.tenant t = 1 then some stBAD_FIELD else if s.tenant t ≠ 0 ∨ (og s.host.creation t).isSome then some stBUSY else none) (fun _ s => quotasOk t quotas true s = true) e s)) ∧
    (∃ (t : Nat) (e : Env) (s : State), judged { crit := true, pf0 := true } e (namesTenant t false) s = true) ∧
    (∃ (t : Nat) (quotas : List (Nat × Nat)) (e : Env) (s : State), can { crit := true, pf0 := true } (namesTenant t true) (fun _ s => quotasOk t quotas false s = true) e s) ∧
    (∃ (t : Nat) (items : List Item) (e : Env) (s : State), can { crit := true, pf0 := true } (namesTenant t false) (fun _ s => items.all (s.owns t) = true) e s) ∧
    (∃ (t : Nat) (e : Env) (s : State), can {} (fun fn s => if fn = 0 then namesTenant t true fn s else if fn = t then none else some stNOT_OWNER) (fun _ s => s.tenant t ≠ 2 ∧ og s.host.rampOut t = none ∧ og s.host.rampIn t = none ∧ s.rb TNT.TNT_STAT_SILENCED (i := t) = true) e s) ∧
    (∃ (sigs : List Nat) (e : Env) (s : State), sigs ≠ [] ∧ (judged {} e (fun fn s => if fn = 0 ∨ sigs.any (fun g => 63 < g || s.sigOwner g != fn) then some stNOT_OWNER else none) s = true)) := by
  refine ⟨?_, ?_, ?_, ?_, ?_, ?_⟩
  · exact ⟨7, [(0, 1)], true, 0, 2 ^ 64 - 1, crit 8, keyed 8 cfg, by decide +kernel⟩
  · exact ⟨7, crit 8, keyed 8 (act 7 cfg), by decide +kernel⟩
  · exact ⟨7, [(0, 1)], crit 8, keyed 8 (act 7 cfg), by decide +kernel⟩
  · exact ⟨7, [.edits], crit 8, keyed 8 (act 7 cfg), by decide +kernel⟩
  · exact ⟨7, tn 7, (act 7 cfg).wb TNT.TNT_STAT_SILENCED true (i := 7), by decide +kernel⟩
  · exact ⟨[63], tn 7, (act 7 cfg).wr SIG.SIG_STAT_OWNER 7 (i := 63), by decide +kernel⟩

theorem witness_AssignmentsWait :
    (∃ (t : Nat) (x : Nat) (n : Nat) (share : Bool) (e : Env) (s : State), 0 < n ∧ x + n ≤ 4096 ∧ t < 8 ∧ can { pf0 := true, mirrored := true, code := 0x0409 } (assignNames t) (fun _ s => s.mirrorActive = false ∧ s.quotaOk t qXIN (s.assignNeed t (s.xp.assign ++ [(t, x, n, share)])) = true) e s) ∧
    (∃ (l : List (Nat × Nat)) (e : Env) (s : State), (l ≠ [] ∧ l.length ≤ l.length ∧ ∀ x ∈ l, (fun x => x.1 < 4096 ∧ x.2 ≤ 16384) x) ∧ (l.map (·.1)).Nodup ∧ (can { mirrored := true, code := 0x0405 } (xoutOwn (l.map (·.1))) (fun e s => (∀ x ∈ l, s.dly x.1 ≤ 64 * x.2) ∧ (s.allocSum l).1 ≤ s.rd XPNT.POOL_FREE_BLOCKS + (s.allocSum l).2 ∧ (callerOf e = 0 ∨ (s.allocSum l).1 ≤ (s.allocSum l).2) ∧ s.xp.alloc = none) e s)) ∧
    (∃ (t : Nat) (sigs : List Nat) (e : Env) (s : State), sigs ≠ [] ∧ can { pf0 := true } (namesTenant t false) (fun _ s => ∀ g ∈ sigs, g < 64 ∧ s.sigOwner g = 0) e s) ∧
    (∃ (t : Nat) (cap : List Nat) (pb : List Nat) (e : Env) (s : State), (∀ c ∈ cap, c < 512) ∧ (∀ c ∈ pb, c < 512) ∧ can { pf0 := true } (fun fn s => if t = 0 then none else namesTenant t false fn s) (fun _ s => s.quotaOk t qCAP (s.chNeed false t cap) = true ∧ s.quotaOk t qPB (s.chNeed true t pb) = true) e s) := by
  refine ⟨?_, ?_, ?_, ?_⟩
  · exact ⟨7, 4095, 1, false, pf, (act 7 cfg).ww TNT.QUOTA 4096 0 7, by decide +kernel⟩
  · exact ⟨[(4095, 16384)], pf, cfg.wr XPNT.POOL_FREE_BLOCKS 16384, by decide +kernel⟩
  · exact ⟨7, [63], pf, act 7 cfg, by decide +kernel⟩
  · exact ⟨7, [511], [511], pf, ((act 7 cfg).ww TNT.QUOTA 512 qCAP 7).ww TNT.QUOTA 512 qPB 7, by decide +kernel⟩

theorem witness_HostResourcesAct :
    (∃ (addr : Nat) (size : Nat) (i : Nat) (e : Env) (s : State), addr % 64 = 0 ∧ addr < 2 ^ 64 ∧ 64 ≤ size ∧ size ≤ 4 * 2 ^ 20 ∧ can { pcieOnly := true } anyone (fun e s => s.quotaOk (callerOf e) qBUF 1 = true ∧ s.freeBuf = some i) e s) ∧
    (∃ (handle : Nat) (e : Env) (s : State), can { pcieOnly := true } anyone (fun e s => s.misuse (callerOf e) handle = none) e s) ∧
    (∃ (q : Nat) (ws : List RegW) (e : Env) (s : State), q < 16 ∧ cfgOk 0x21 1 ringRegs ws = true ∧ (∀ w ∈ ws, w.off ≠ 0x100) ∧ judged { pcieOnly := true } e anyone s = true) ∧
    (∃ (q : Nat) (w : RegW) (e : Env) (s : State), q < 16 ∧ cfgOk 0x21 1 ringRegs [w] = true ∧ w.off = 0x100 ∧ judged { pcieOnly := true } e anyone s = true) ∧
    (∃ (f : Nat) (x : FilterArgs) (e : Env) (s : State), f < 64 ∧ x.ring < 16 ∧ x.ports < 16 ∧ filterOk x = true ∧ (can { pcieOnly := true } (filterOwn f) (fun e s => s.ringKind (rk (callerOf e) x.ring) = kRX ∧ (og s.host.filters f = none → s.quotaOk (callerOf e) qFILT 1 = true)) e s)) ∧
    (∃ (f : Nat) (e : Env) (s : State), f < 64 ∧ can { pcieOnly := true } (filterOwn f) (fun _ s => og s.host.filters f ≠ none) e s) := by
  refine ⟨?_, ?_, ?_, ?_, ?_, ?_⟩
  · exact ⟨2 ^ 64 - 64, 4 * 2 ^ 20, 0, pf, cfg, by decide +kernel⟩
  · exact ⟨65536, pf, cfg.onHost (fun h => { h with bufs := [(0, some ⟨0, 0, 64, false⟩)], bufGen := [(0, 1)] }), by decide +kernel⟩
  · exact ⟨15, [⟨0x118, 0, 0, 0⟩], pf, cfg, by decide +kernel⟩
  · exact ⟨15, ⟨0x100, 0, 0, 0⟩, pf, cfg, by decide +kernel⟩
  · exact ⟨63, ⟨15, 15, some 0x0800, none, none, none⟩, pf, cfg.wr HOST.RING_CTL_KIND kRX (rk 0 15), by decide +kernel⟩
  · exact ⟨63, pf, cfg.onHost (fun h => { h with filters := [(63, some ⟨0, ⟨15, 15, none, none, none, none⟩⟩)] }), by decide +kernel⟩

theorem witness_FaultCommandsAct :
    (∃ (e : Env) (s : State), can { pf0 := true } anyone (fun _ s => s.unflushed = []) e s) ∧
    (∃ (g : Nat) (e : Env) (s : State), g < 64 ∧ can { pf0 := true } anyone (fun _ s => s.sigFlt g = sfPASSED) e s) ∧
    (∃ (g : Nat) (e : Env) (s : State), g < 64 ∧ can { pf0 := true } anyone (fun _ s => s.guardUsed = false ∧ s.guard ≠ gdLOADING) e s) ∧
    (∃ (g : Nat) (l : Nat) (o : Nat) (e : Env) (s : State), g ≤ 64 ∧ l < 32 ∧ o < 4096 ∧ judged { pf0 := true, modes := (· == mTEST) } e anyone s = true) ∧
    (∃ (a : MemAt) (addr : Nat) (e : Env) (s : State), judged { pf0 := true, modes := (· == mTEST) } e anyone s = true) ∧
    (∃ (e : Env) (s : State), judged { pf0 := true, modes := (· == mTEST) } e anyone s = true) := by
  refine ⟨?_, ?_, ?_, ?_, ?_, ?_⟩
  · exact ⟨pf, cfg, by decide +kernel⟩
  · exact ⟨63, pf, cfg.wr SIG.FLT_STAT_STATE sfPASSED (i := 63), by decide +kernel⟩
  · exact ⟨63, pf, cfg, by decide +kernel⟩
  · exact ⟨64, 31, 4095, pf, inMode mTEST, by decide +kernel⟩
  · exact ⟨.twice, 0, pf, inMode mTEST, by decide +kernel⟩
  · exact ⟨pf, inMode mTEST, by decide +kernel⟩

theorem witness_KeyCommandsAct :
    (∃ (t : Nat) (wrapped : List Byte) (a : AuthBlk) (e : Env) (s : State), t < 16 ∧ wrapped.length = 40 ∧ judged { crit := true, prov := t == 0, slots := keySlotsFor t, modes := fun m => (1 ≤ t && t ≤ 7) || m == mSAFE || (t == 0 && isProv e) } e (fun fn _ => if fn = 0 ∨ fn = t then none else some stNOT_OWNER) s = true ∧ e.auth = some a) ∧
    (∃ (t : Nat) (e : Env) (s : State), 0 < t ∧ t < 16 ∧ judged { crit := true, pf0 := true, slots := keySlotsFor t, modes := fun m => (1 ≤ t && t ≤ 7) || m == mSAFE } e anyone s = true) ∧
    (∃ (parts : Nat) (e : Env) (s : State), parts ≤ 3 ∧ judged { crit := true, pf0 := true, slots := (· == 15), modes := fun m => m == mSAFE || m == mTEST } e anyone s = true) ∧
    (∃ (e : Env) (s : State), judged { pf0 := true } e anyone s = true) := by
  refine ⟨?_, ?_, ?_, ?_⟩
  · exact ⟨15, List.replicate 40 0, { slot := 0, counter := 1, serial := 0, mac := (hmac256 1 []).take 16 }, crit 0, keyed 0 (inMode mSAFE), by decide, by decide, by decide +kernel, rfl⟩
  · exact ⟨15, crit 0, keyed 0 (inMode mSAFE), by decide +kernel⟩
  · exact ⟨3, crit 15, keyed 15 (inMode mTEST), by decide +kernel⟩
  · exact ⟨pf, cfg, by decide +kernel⟩

theorem witness_FirmwareCommandsAct :
    (∃ (e : Env) (s : State), can { crit := true, pf0 := true } anyone (fun _ s => s.cmd.session = none ∧ s.flash.trial = false) e s) ∧
    (∃ (ofs : Nat) (data : List Byte) (e : Env) (s : State), ofs % 256 = 0 ∧ data.length ≤ 65536 ∧ ofs + data.length ≤ 12 * 2 ^ 20 ∧ judged {} e (sessionOwn (some e.tr)) s = true) ∧
    (∃ (e : Env) (s : State), judged {} e (sessionOwn (some e.tr)) s = true ∧ (accept {} e s).stageBusy = false) ∧
    (∃ (e : Env) (s : State), judged {} e (sessionOwn none) s = true) ∧
    (∃ (e : Env) (s : State), can { crit := true, pf0 := true, modes := (· == mSAFE) } anyone (fun _ s => s.rd SECU.FW_STAT_STAGE = 2) e s) ∧
    (∃ (g : Image) (e : Env) (s : State), can { pf0 := true } anyone (fun _ s => s.flash.trial = true ∧ og s.flash.image ((bootShow (s.onFlash (fun f => { f with trial := false }))).rd SECU.FW_STAT_ACTIVE_SLOT) = some g) e s) ∧
    (∃ (e : Env) (s : State), judged { crit := true, pf0 := true, slots := (· == 0), modes := (· == mSAFE) } e anyone s = true) := by
  refine ⟨?_, ?_, ?_, ?_, ?_, ?_, ?_⟩
  · exact ⟨crit 8, keyed 8 cfg, by decide +kernel⟩
  · exact ⟨12 * 2 ^ 20 - 256, [0], pf, staging, by decide +kernel⟩
  · exact ⟨pf, staging, by decide +kernel⟩
  · exact ⟨pf, cfg.onCmd (fun c => { c with session := some ⟨0, .pcie 0, 0⟩ }), by decide +kernel⟩
  · exact ⟨crit 8, keyed 8 ((inMode mSAFE).wr SECU.FW_STAT_STAGE 2), by decide +kernel⟩
  · exact ⟨image0, pf, cfg.onFlash (fun f => { f with trial := true, image := [(0, some image0)] }), by decide +kernel⟩
  · exact ⟨crit 0, keyed 0 (inMode mSAFE), by decide +kernel⟩

theorem witness_ModeAndSaveCommandsAct :
    (∃ (target : Nat) (e : Env) (s : State), let o : Opc := { crit := target == mSAFE || target == mTEST || target == mSTANDBY, block := true, pf0 := true, code := 0x0102 }
  let a := accept o e s
  target < 16 ∧ judged o e anyone s = true ∧ fits a e 2 = true ∧ modeDenied target a = false ∧ a.md.req = none ∧ (target = mSTANDBY → a.flashSaving = false)) ∧
    (∃ (scenes : List (Nat × Nat)) (e : Env) (s : State), scenes.length ≤ 64 ∧ (∀ x ∈ scenes, x.1 < 64 ∧ x.2 < 65536) ∧ judged { pf0 := true } e anyone s = true) ∧
    (∃ (port : Nat) (cycle : Nat) (phase : Nat) (l : List (Nat × Nat)) (e : Env) (s : State), port < 4 ∧ 0 < cycle ∧ cycle ≤ 384 ∧ phase < cycle ∧ l.length ≤ 16 ∧ (∀ x ∈ l, x.1 < 256 ∧ x.2 < 2 ^ 20) ∧ can { pf0 := true } anyone (fun _ s => s.rb NETP.GCL_STAT_SWAP_PEND (i := port) = false) e s) ∧
    (∃ (set : Nat) (ws : List RegW) (e : Env) (s : State), set < 16 ∧ ws ≠ [] ∧ snapWsOk set ws = true ∧ (∀ w ∈ ws, w.off ≠ 0x300) ∧ can {} (setOwnRow set) (fun _ s => s.rb METR.SNAP_CTL_EN set = false) e s) ∧
    (∃ (n : Nat) (e : Env) (s : State), let a := accept {} e s
  n ≤ 16 ∧ judged {} e anyone s = true ∧ fits a e (4 * min n a.tim.evt.length) = true) := by
  refine ⟨?_, ?_, ?_, ?_, ?_⟩
  · exact ⟨mACQUIRE, { pf with auth := some ⟨0xFF, 0, 0, []⟩ }, cfg, by decide +kernel⟩
  · exact ⟨[(63, 65535)], pf, cfg, by decide +kernel⟩
  · exact ⟨3, 384, 383, [(255, 2 ^ 20 - 1)], pf, cfg, by decide +kernel⟩
  · exact ⟨15, [⟨0x310, 15, 0, 0⟩], pf, cfg, by decide +kernel⟩
  · exact ⟨16, pf, cfg.onTim (fun t => { t with evt := List.replicate 64 ⟨0, 0, 0, 0⟩ }), by decide +kernel⟩

theorem witness_BusCommandsAct :
    (∃ (i : Nat) (segs : List I2cSeg) (e : Env) (s : State), i < 3 ∧ segsOk segs = true ∧ (can { pf0 := true } anyone (fun e s => 4 * cdiv (bytesRead segs) 4 ≤ s.respLimit e ∧ (i < 2 → s.rb NETP.QSFP_CTL_AUTO (i := 2 * i) = false ∧ s.rb NETP.QSFP_CTL_AUTO (i := 2 * i + 1) = false) ∧ s.icState i ≠ icISOLATED ∧ s.icState i ≠ icOFF) e s)) ∧
    (∃ (i : Nat) (segs : List I2cSeg) (e : Env) (s : State), i < 3 ∧ segsOk segs = true ∧ (can { pf0 := true } anyone (fun e s => 4 * cdiv (bytesRead segs) 4 ≤ s.respLimit e ∧ (i < 2 → s.rb NETP.QSFP_CTL_AUTO (i := 2 * i) = false ∧ s.rb NETP.QSFP_CTL_AUTO (i := 2 * i + 1) = false) ∧ s.icState i = icISOLATED) e s)) ∧
    (∃ (i : Nat) (e : Env) (s : State), i < 4 ∧ can { pf0 := true } anyone (fun _ s => s.rb LSIO.I2C_CTL_EN i = true ∧ s.icState i ≠ icOFF) e s) ∧
    (∃ (u : Nat) (data : List Byte) (e : Env) (s : State), u < 2 ∧ data ≠ [] ∧ data.length ≤ 1024 ∧ (can { pf0 := true } anyone (fun _ s => u = 0 → s.rb LSIO.UART_CTL_CONSOLE 0 = false) e s)) ∧
    (∃ (l : Nat) (e : Env) (s : State), l < 6 ∧ judged { pf0 := true } e anyone s = true) ∧
    (∃ (p : HierP) (e : Env) (s : State), hierOk p = true ∧ judged { pf0 := true, crit := true } e anyone s = true) ∧
    (∃ (dst : Nat) (bytes : List Byte) (e : Env) (s : State), dst < 16 ∧ 16 ≤ bytes.length ∧ bytes.length ≤ 61436 ∧ judged { pf0 := true, noTunnel := true } e anyone s = true) ∧
    (∃ (e : Env) (s : State), judged { pf0 := true, crit := true, modes := (· == mMIRROR) } e anyone s = true) := by
  refine ⟨?_, ?_, ?_, ?_, ?_, ?_, ?_, ?_⟩
  · exact ⟨2, [⟨127, true, 256, []⟩], pf, cfg.wr LSIO.I2C_STAT_STATE icIDLE 2, by decide +kernel⟩
  · exact ⟨2, [⟨127, true, 256, []⟩], pf, (cfg.wr LSIO.I2C_STAT_STATE icISOLATED 2), by decide +kernel⟩
  · exact ⟨3, pf, (cfg.wr LSIO.I2C_STAT_STATE icIDLE 3).wb LSIO.I2C_CTL_EN true 3, by decide +kernel⟩
  · exact ⟨1, [0], pf, cfg, by decide +kernel⟩
  · exact ⟨5, pf, cfg, by decide +kernel⟩
  · exact ⟨hier0, crit 8, keyed 8 cfg, by decide +kernel⟩
  · exact ⟨15, List.replicate 16 0, pf, cfg, by decide +kernel⟩
  · exact ⟨crit 8, keyed 8 (inMode mMIRROR), by decide +kernel⟩

theorem witness_TimeRegistersAct :
    (∃ (fn : Nat) (w : Nat) (s : State), isPF0 fn = true ∧ up s = true ∧ (setOk (s.rd64 TIME.SET_SEC_HI TIME.SET_SEC_LO (i := 2)) (s.rw TIME.SET_NS (i := 2)) = true ∧ s.rd REFS.STAT_STATE = 0)) ∧
    (∃ (fn : Nat) (w : Nat) (s : State), isPF0 fn = true ∧ up s = true ∧ (setOk ((followWrite 3 w s).rd64 TIME.SET_SEC_HI TIME.SET_SEC_LO (i := 3)) ((followWrite 3 w s).rw TIME.SET_NS (i := 3)) = true)) ∧
    (∃ (fn : Nat) (tb : Nat) (w : Nat) (s : State), isPF0 fn = true ∧ tb < 2 ∧ up s = true) ∧
    (∃ (fn : Nat) (slot : Nat) (w : Nat) (s : State), slot < 64 ∧ up s = true ∧ (s.slotState slot = slFREE ∧ armRefusal (actsAs fn) slot (((s.wr COLL.SLOT_CTL_ACTION (fbits w 3 0) slot).wr COLL.SLOT_CTL_TBSEL (fbits w 6 4) slot).wr COLL.SLOT_CTL_LATE (fbits w 7 7) slot) = none)) ∧
    (∃ (fn : Nat) (slot : Nat) (w : Nat) (s : State), slot < 64 ∧ up s = true ∧ (s.slotState slot = slARMED ∧ s.mirrorActive = false ∧ may (actsAs fn) (s.rd COLL.SLOT_CTL_OWNER slot) = true ∧ fbits w 7 0 = fbits (s.rw COLL.SLOT_CTL slot) 7 0)) ∧
    (∃ (fn : Nat) (slot : Nat) (w : Nat) (s : State), slot < 64 ∧ up s = true ∧ (s.slotState slot ≠ slFREE ∧ s.mirrorActive = false ∧ may (actsAs fn) (s.rd COLL.SLOT_CTL_OWNER slot) = false ∧ fbits w 7 0 = fbits (s.rw COLL.SLOT_CTL slot) 7 0)) ∧
    (∃ (fn : Nat) (slot : Nat) (w : Nat) (s : State), up s = true ∧ (s.mirrorActive = true)) ∧
    (∃ (fn : Nat) (slot : Nat) (s : State), slot < 64 ∧ up s = true ∧ ((s.slotState slot = slDONE ∨ s.slotState slot = slMISSED ∨ s.slotState slot = slCANCELLED) ∧ s.rd COLL.SLOT_CTL_OWNER slot = actsAs fn)) ∧
    (∃ (fn : Nat) (s : State), fn ≤ 8 ∧ up s = true) ∧
    (∃ (fn : Nat) (off : Nat) (s : State), fn ≤ 8 ∧ up s = true) ∧
    (∃ (fn : Nat) (w : Nat) (s : State), isPF0 fn = true ∧ up s = true) := by
  refine ⟨?_, ?_, ?_, ?_, ?_, ?_, ?_, ?_, ?_, ?_, ?_⟩
  · exact ⟨0, 2 ^ 31, cfg, by decide +kernel⟩
  · exact ⟨8, 2 ^ 31, cfg, by decide +kernel⟩
  · exact ⟨8, 1, 2 ^ 31, cfg, by decide +kernel⟩
  · exact ⟨0, 63, 0x68, run, by decide +kernel⟩
  · exact ⟨0, 63, 0, cfg.wr COLL.SLOT_STAT_STATE slARMED 63, by decide +kernel⟩
  · exact ⟨7, 63, 0, cfg.wr COLL.SLOT_STAT_STATE slARMED 63, by decide +kernel⟩
  · exact ⟨0, 63, 0, mirrorRole, by decide +kernel⟩
  · exact ⟨0, 63, cfg.wr COLL.SLOT_STAT_STATE slDONE 63, by decide +kernel⟩
  · exact ⟨8, cfg, by decide +kernel⟩
  · exact ⟨8, 124999, cfg, by decide +kernel⟩
  · exact ⟨8, 0xFFF, cfg, by decide +kernel⟩

theorem witness_ClockRegistersAct :
    (∃ (fn : Nat) (w : Nat) (s : State), isPF0 fn = true ∧ up s = true ∧ ((s.writeRW CLKG.CPLL_CTL w).cpllLock (1 - (s.writeRW CLKG.CPLL_CTL w).rd CLKG.CPLL_STAT_ACTIVE) = true)) ∧
    (∃ (fn : Nat) (w : Nat) (s : State), isPF0 fn = true ∧ up s = true ∧ (s.rb CLKG.MPLL_STAT_PSTEP_BUSY = false)) ∧
    (∃ (fn : Nat) (w : Nat) (s : State), isPF0 fn = true ∧ up s = true ∧ ((s.mode = mCONFIG ∨ s.mode = mTEST) ∧ w % 4 ≠ 3 ∧ w % 4 ≠ s.rd CLKG.SSC_CTL_MODE)) ∧
    (∃ (fn : Nat) (port : Nat) (w : Nat) (s : State), isPF0 fn = true ∧ port < 4 ∧ up s = true) ∧
    (∃ (fn : Nat) (port : Nat) (w : Nat) (off : Nat) (s : State), isPF0 fn = true ∧ port < 4 ∧ up s = true) ∧
    (∃ (fn : Nat) (w : Nat) (g : Nat) (s : State), 3 ≤ g ∧ up s = true ∧ (s.rd SRCB.GRP_SEL_GROUP fn = g ∧ may (actsAs fn) (s.grpOwner g) = true)) ∧
    (∃ (fn : Nat) (w : Nat) (s : State), isPF0 fn = true ∧ up s = true ∧ (bindOk w s = true)) ∧
    (∃ (fn : Nat) (w : Nat) (s : State), isPF0 fn = true ∧ up s = true ∧ (bindOk w s = false)) ∧
    (∃ (fn : Nat) (g : Nat) (w : Nat) (s : State), isPF0 fn = true ∧ g < 4 ∧ bit w 31 = true ∧ up s = true) ∧
    (∃ (fn : Nat) (o : Nat) (w : Nat) (s : State), isPF0 fn = true ∧ o < 2 ∧ up s = true) ∧
    (∃ (fn : Nat) (i : Nat) (w : Nat) (s : State), isPF0 fn = true ∧ i < 4 ∧ up s = true) ∧
    (∃ (fn : Nat) (w : Nat) (s : State), isPF0 fn = false ∧ up s = true) := by
  refine ⟨?_, ?_, ?_, ?_, ?_, ?_, ?_, ?_, ?_, ?_, ?_, ?_⟩
  · exact ⟨0, 2 ^ 31, cfg.wb CLKG.CPLL_STAT_B_LOCK true, by decide +kernel⟩
  · exact ⟨8, 0xFFFF, cfg, by decide +kernel⟩
  · exact ⟨8, 2, cfg, by decide +kernel⟩
  · exact ⟨8, 3, 2 ^ 31, cfg, by decide +kernel⟩
  · exact ⟨8, 3, 0, 124999, cfg, by decide +kernel⟩
  · exact ⟨8, 2 ^ 31, 255, cfg.wr SRCB.GRP_SEL_GROUP 255 8, by decide +kernel⟩
  · exact ⟨8, 15, cfg, by decide +kernel⟩
  · exact ⟨8, 15, cfg.wb SAPG.PORT_CTL_EN true 3 3, by decide +kernel⟩
  · exact ⟨8, 3, 2 ^ 31, cfg, by decide +kernel⟩
  · exact ⟨8, 1, 0, cfg, by decide +kernel⟩
  · exact ⟨8, 3, 0, cfg, by decide +kernel⟩
  · exact ⟨7, 0, cfg, by decide +kernel⟩

theorem witness_StreamRegistersAct :
    (∃ (fn : Nat) (w : Nat) (s : State), bit w 31 = true ∧ up s = true ∧ (s.rb STRX.ENTRY_CMD_BUSY = false)) ∧
    (∃ (fn : Nat) (w : Nat) (i : Nat) (s : State), bit w 30 = true ∧ up s = true ∧ (s.rd STRX.SEL_STREAM fn = i ∧ s.rb STRX.ENTRY_CMD_BUSY = false ∧ may (actsAs fn) (s.rxOwner i) = true)) ∧
    (∃ (fn : Nat) (w : Nat) (i : Nat) (s : State), bit w 30 = true ∧ up s = true ∧ (s.rd STRX.SEL_STREAM fn = i ∧ s.rb STRX.ENTRY_CMD_BUSY = false ∧ may (actsAs fn) (s.rxOwner i) = false)) ∧
    (∃ (fn : Nat) (w : Nat) (s : State), bit w 31 = true ∧ up s = true ∧ (s.rb STTX.ENTRY_CMD_BUSY = false)) ∧
    (∃ (fn : Nat) (w : Nat) (i : Nat) (s : State), bit w 30 = true ∧ up s = true ∧ (s.rd STTX.SEL_STREAM fn = i ∧ s.rb STTX.ENTRY_CMD_BUSY = false ∧ may (actsAs fn) (s.txOwner i) = true)) ∧
    (∃ (fn : Nat) (e : Nat × Nat × Nat) (s : State), up s = true ∧ (s.rx.evt.find? (fun e => actsAs fn == 0 || s.rxOwner e.2.2 == actsAs fn) = some e)) := by
  refine ⟨?_, ?_, ?_, ?_, ?_, ?_⟩
  · exact ⟨7, 2 ^ 31, cfg, by decide +kernel⟩
  · exact ⟨8, 2 ^ 30, 1023, cfg.wr STRX.SEL_STREAM 1023 8, by decide +kernel⟩
  · exact ⟨7, 2 ^ 30, 1023, cfg.wr STRX.SEL_STREAM 1023 7, by decide +kernel⟩
  · exact ⟨7, 2 ^ 31, cfg, by decide +kernel⟩
  · exact ⟨8, 2 ^ 30, 1023, cfg.wr STTX.SEL_STREAM 1023 8, by decide +kernel⟩
  · exact ⟨0, (1, 2, 1023), cfg.onRx (fun r => { r with evt := [(1, 2, 1023)] }), by decide +kernel⟩

theorem witness_SceneRegistersAct :
    (∃ (fn : Nat) (w : Nat) (td : Nat) (s : State), bit w 31 = true ∧ up s = true ∧ (s.rd SCNE.TD_SEL_TD fn = td ∧ s.mirrorStandby = false ∧ (s.tdDefined td = true → may (actsAs fn) (s.tdOwner td) = true) ∧ atOnce (tdWrite fn 0x044 w s).mode = false)) ∧
    (∃ (fn : Nat) (w : Nat) (td : Nat) (s : State), bit w 31 = true ∧ up s = true ∧ (s.rd SCNE.TD_SEL_TD fn = td ∧ s.mirrorStandby = false ∧ (s.tdDefined td = true → may (actsAs fn) (s.tdOwner td) = true) ∧ atOnce (tdWrite fn 0x044 w s).mode = true)) ∧
    (∃ (fn : Nat) (w : Nat) (td : Nat) (s : State), bit w 31 = true ∧ up s = true ∧ (s.rd SCNE.TD_SEL_TD fn = td ∧ s.mirrorStandby = false ∧ s.mirrorActive = false ∧ s.tdMay (actsAs fn) td = true ∧ s.scopeMay (actsAs fn) (s.tdMask td) = true)) ∧
    (∃ (fn : Nat) (w : Nat) (td : Nat) (s : State), bit w 30 = true ∧ up s = true ∧ (s.rd SCNE.TD_SEL_TD fn = td ∧ s.mirrorStandby = false ∧ s.mirrorActive = false ∧ s.tdDefined td = true ∧ s.tdMay (actsAs fn) td = true)) ∧
    (∃ (fn : Nat) (w : Nat) (td : Nat) (s : State), bit w 31 = true ∧ up s = true ∧ (s.rd SCNE.TD_SEL_TD fn = td ∧ s.mirrorStandby = false ∧ s.mirrorActive = true)) ∧
    (∃ (fn : Nat) (w : Nat) (td : Nat) (s : State), bit w 30 = true ∧ up s = true ∧ (s.rd SCNE.TD_SEL_TD fn = td ∧ s.mirrorStandby = false ∧ s.tdDefined td = true ∧ s.mirrorActive = true)) ∧
    (∃ (fn : Nat) (sig : Nat) (w : Nat) (s : State), sig < 64 ∧ bit w 1 = true ∧ up s = true ∧ (s.mirrorStandby = false ∧ may (actsAs fn) (s.sigOwner sig) = true ∧ s.willLock s.applyAt sig = false)) ∧
    (∃ (fn : Nat) (sig : Nat) (w : Nat) (s : State), sig < 64 ∧ bit w 0 = true ∧ up s = true ∧ (s.mirrorStandby = false ∧ may (actsAs fn) (s.sigOwner sig) = true ∧ s.willLock s.applyAt sig = false)) ∧
    (∃ (fn : Nat) (sig : Nat) (w : Nat) (s : State), sig < 64 ∧ up s = true ∧ (bit w 1 = true ∧ s.mirrorStandby = false ∧ may (actsAs fn) (s.sigOwner sig) = true ∧ s.willLock s.applyAt sig = true)) ∧
    (∃ (fn : Nat) (sig : Nat) (w : Nat) (s : State), sig < 64 ∧ up s = true ∧ (bit w 0 = true ∧ s.mirrorStandby = false ∧ may (actsAs fn) (s.sigOwner sig) = true ∧ s.willLock s.applyAt sig = true)) ∧
    (∃ (fn : Nat) (ofs : Nat) (bytes : List (Option Byte)) (es : List Edit) (s : State), bytes.length ≤ 256 ∧ es ≠ [] ∧ up s = true ∧ (s.mirrorStandby = false ∧ es = ((windowNodes (actsAs fn) ofs bytes).take 128).filter (fun e => decide (e.sig < 64) && may (actsAs fn) (s.sigOwner e.sig)) ∧ s.editFits (actsAs fn) (es.filter (fun e => s.willLock s.applyAt e.sig)).length = true)) := by
  refine ⟨?_, ?_, ?_, ?_, ?_, ?_, ?_, ?_, ?_, ?_, ?_⟩
  · exact ⟨0, 2 ^ 31, 63, run.wr SCNE.TD_SEL_TD 63 0, by decide +kernel⟩
  · exact ⟨0, 2 ^ 31, 63, cfg.wr SCNE.TD_SEL_TD 63 0, by decide +kernel⟩
  · exact ⟨0, 2 ^ 31, 63, cfg.wr SCNE.TD_SEL_TD 63 0, by decide +kernel⟩
  · exact ⟨0, 2 ^ 30, 63, (cfg.wr SCNE.TD_SEL_TD 63 0).wb SCNE.TD_STAT_DEFINED true 63, by decide +kernel⟩
  · exact ⟨0, 2 ^ 31, 63, mirrorRole.wr SCNE.TD_SEL_TD 63 0, by decide +kernel⟩
  · exact ⟨0, 2 ^ 30, 63, (mirrorRole.wr SCNE.TD_SEL_TD 63 0).wb SCNE.TD_STAT_DEFINED true 63, by decide +kernel⟩
  · exact ⟨0, 63, 2, cfg, by decide +kernel⟩
  · exact ⟨0, 63, 1, cfg, by decide +kernel⟩
  · exact ⟨0, 63, 2, sigLocked, by decide +kernel⟩
  · exact ⟨0, 63, 1, sigLocked, by decide +kernel⟩
  · exact ⟨0, 0, [some 1, some 0], windowNodes 0 0 [some 1, some 0], cfg, by decide +kernel⟩

theorem witness_MeterRegistersAct :
    (∃ (fn : Nat) (set : Nat) (w : Nat) (s : State), set < 16 ∧ bit w 31 = true ∧ up s = true ∧ (s.setMay (actsAs fn) set = true ∧ s.rb METR.SNAP_CTL_EN set = false ∧ s.snapBad set = false)) ∧
    (∃ (fn : Nat) (set : Nat) (w : Nat) (s : State), set < 16 ∧ bit w 31 = true ∧ up s = true ∧ (s.setMay (actsAs fn) set = true ∧ s.rb METR.SNAP_CTL_EN set = false ∧ s.snapBad set = true)) ∧
    (∃ (fn : Nat) (w : Nat) (m : Nat) (s : State), bit w 31 = true ∧ up s = true ∧ (s.rd METR.MTR_IDX_METER fn = m ∧ may (actsAs fn) (s.metOwner m) = true)) ∧
    (∃ (fn : Nat) (w : Nat) (s : State), bit w 0 = true ∧ up s = true) ∧
    (∃ (fn : Nat) (m : Nat) (a : Nat) (b : Nat) (c : Nat) (d : Nat) (h : Nat) (l : Nat) (s : State), up s = true ∧ (s.rd METR.MTR_IDX_METER fn = m ∧ metWords (actsAs fn) s m = [a, b, c, d, h, l])) := by
  refine ⟨?_, ?_, ?_, ?_, ?_⟩
  · exact ⟨0, 15, 2 ^ 31, cfg.wr METR.RING_SLOTS_SLOTS 2 15, by decide +kernel⟩
  · exact ⟨0, 15, 2 ^ 31, cfg, by decide +kernel⟩
  · exact ⟨0, 2 ^ 31, 8191, cfg.wr METR.MTR_IDX_METER 8191 0, by decide +kernel⟩
  · exact ⟨7, 1, cfg, by decide +kernel⟩
  · exact ⟨0, 8191, 0, 0, 0, 0, 0, 0, cfg.wr METR.MTR_IDX_METER 8191 0, by decide +kernel⟩

theorem witness_PortRegistersAct :
    (∃ (fn : Nat) (p : Nat) (w : Nat) (s : State), isPF0 fn = true ∧ p < 16 ∧ up s = true) ∧
    (∃ (fn : Nat) (p : Nat) (w : Nat) (s : State), isPF0 fn = true ∧ p < 16 ∧ up s = true) ∧
    (∃ (fn : Nat) (p : Nat) (w : Nat) (s : State), isPF0 fn = true ∧ p < 16 ∧ up s = true) ∧
    (∃ (fn : Nat) (r : Nat) (w : Nat) (s : State), isPF0 fn = true ∧ r < 8 ∧ up s = true) ∧
    (∃ (fn : Nat) (t : Nat) (w : Nat) (s : State), isPF0 fn = true ∧ t < 8 ∧ up s = true) ∧
    (∃ (fn : Nat) (t : Nat) (w : Nat) (s : State), isPF0 fn = true ∧ t < 8 ∧ up s = true) ∧
    (∃ (fn : Nat) (t : Nat) (w : Nat) (s : State), isPF0 fn = true ∧ t < 8 ∧ up s = true) ∧
    (∃ (fn : Nat) (l : Nat) (w : Nat) (s : State), isPF0 fn = true ∧ l < 6 ∧ up s = true) ∧
    (∃ (fn : Nat) (l : Nat) (w : Nat) (s : State), isPF0 fn = true ∧ l < 6 ∧ up s = true) ∧
    (∃ (fn : Nat) (i : Nat) (w : Nat) (s : State), isPF0 fn = true ∧ i < 4 ∧ up s = true) ∧
    (∃ (fn : Nat) (i : Nat) (w : Nat) (s : State), isPF0 fn = true ∧ i < 4 ∧ up s = true) ∧
    (∃ (t w : Nat) (s : State), bit (s.rw AESP.TX_CTL t) 31 = false ∧ fbits w 2 0 ≤ 5 ∧ bit w 28 = false ∧ bit w 27 = false) := by
  refine ⟨?_, ?_, ?_, ?_, ?_, ?_, ?_, ?_, ?_, ?_, ?_, ?_⟩
  · exact ⟨8, 15, 0, cfg, by decide +kernel⟩
  · exact ⟨8, 15, 0, cfg, by decide +kernel⟩
  · exact ⟨8, 15, 0, cfg, by decide +kernel⟩
  · exact ⟨8, 7, 0, cfg, by decide +kernel⟩
  · exact ⟨8, 7, 0, cfg, by decide +kernel⟩
  · exact ⟨8, 7, 0, cfg, by decide +kernel⟩
  · exact ⟨8, 7, 0, cfg, by decide +kernel⟩
  · exact ⟨8, 5, 0, cfg, by decide +kernel⟩
  · exact ⟨8, 5, 0, cfg, by decide +kernel⟩
  · exact ⟨8, 3, 0, cfg, by decide +kernel⟩
  · exact ⟨8, 3, 0, cfg, by decide +kernel⟩
  · exact ⟨7, 0xE0000005, cfg, by decide +kernel⟩

theorem witness_RingAndFaultRegistersAct :
    (∃ (fn : Nat) (w : Nat) (s : State), isPF0 fn = true ∧ bit w 0 = true ∧ up s = true) ∧
    (∃ (fn : Nat) (w : Nat) (s : State), isPF0 fn = true ∧ bit w 31 = true ∧ up s = true) ∧
    (∃ (fn : Nat) (w : Nat) (s : State), isPF0 fn = true ∧ bit w 31 = true ∧ up s = true ∧ (s.rb FALT.MGMT_STAT_HALT = false)) ∧
    (∃ (fn : Nat) (r : ErrRec) (s : State), isPF0 fn = true ∧ up s = true ∧ (s.ring[s.rd FALT.ERR_SEL_POS fn]? = some r)) ∧
    (∃ (fn : Nat) (r : Nat) (v : Nat) (s : State), r < 8 ∧ up s = true ∧ (s.rings fn = true ∧ s.rd CMDQ.CQ_STAT_STATE (rk fn r) = 1 ∧ v % 4096 < ringSize (s.rd CMDQ.SIZES_SQ_SIZE (rk fn r)))) ∧
    (∃ (fn : Nat) (r : Nat) (v : Nat) (s : State), r < 8 ∧ up s = true ∧ (s.rings fn = true ∧ s.rd CMDQ.CQ_STAT_STATE (rk fn r) = 1 ∧ ringSize (s.rd CMDQ.SIZES_SQ_SIZE (rk fn r)) ≤ v % 4096)) ∧
    (∃ (fn : Nat) (r : Nat) (v : Nat) (s : State), r < 8 ∧ up s = true ∧ (s.rings fn = true ∧ s.rd CMDQ.CQ_STAT_STATE (rk fn r) = 1 ∧ v % 4096 < ringSize (s.rd CMDQ.SIZES_CQ_SIZE (rk fn r)))) ∧
    (∃ (fn : Nat) (q : Nat) (v : Nat) (s : State), fn < 8 ∧ q < 16 ∧ up s = true ∧ (s.rb HOST.RING_CTL_EN (rk fn q) = true ∧ v % 65536 < s.rd HOST.SIZE_N (rk fn q))) ∧
    (∃ (fn : Nat) (r : Nat) (w : Nat) (s : State), fn < 8 ∧ r < 8 ∧ up s = true ∧ ((s.writeRW CMDQ.CQ_CTL w (rk fn r)).rb CMDQ.CQ_CTL_EN (rk fn r) = false)) ∧
    (∃ (fn : Nat) (r : Nat) (w : Nat) (s : State), fn < 8 ∧ r < 8 ∧ up s = true ∧ (s.rb CMDQ.CQ_CTL_EN (rk fn r) = false ∧ (s.writeRW CMDQ.CQ_CTL w (rk fn r)).rb CMDQ.CQ_CTL_EN (rk fn r) = true)) ∧
    (∃ (fn : Nat) (q : Nat) (w : Nat) (s : State), fn < 8 ∧ q < 16 ∧ up s = true ∧ (s.ringState (rk fn q) = rsOFF ∧ bg s.host.startPend (rk fn q) = false ∧ (s.writeRW HOST.RING_CTL w (rk fn q)).rb HOST.RING_CTL_EN (rk fn q) = true ∧ (s.writeRW HOST.RING_CTL w (rk fn q)).ringState (rk fn q) = rsOFF ∧ bg (s.writeRW HOST.RING_CTL w (rk fn q)).host.startPend (rk fn q) = false)) ∧
    (∃ (fn : Nat) (q : Nat) (g : Nat) (hi : Bool) (v : Nat) (s : State), fn < 8 ∧ q < 16 ∧ g < 8 ∧ up s = true ∧ (s.maskRefusal fn q g hi v = none)) ∧
    (∃ (fn : Nat) (q : Nat) (g : Nat) (hi : Bool) (v : Nat) (s : State), fn < 8 ∧ q < 16 ∧ g < 8 ∧ up s = true ∧ (s.maskRefusal fn q g hi v ≠ none)) := by
  refine ⟨?_, ?_, ?_, ?_, ?_, ?_, ?_, ?_, ?_, ?_, ?_, ?_, ?_⟩
  · exact ⟨8, 1, cfg, by decide +kernel⟩
  · exact ⟨8, 2 ^ 31, cfg, by decide +kernel⟩
  · exact ⟨8, 2 ^ 31, cfg, by decide +kernel⟩
  · exact ⟨0, rec0, cfg.onFlt (fun f => { f with recent := [rec0] }), by decide +kernel⟩
  · exact ⟨7, 7, 4095, (cqOn 7 7).wr CMDQ.SIZES_SQ_SIZE 0 (rk 7 7), by decide +kernel⟩
  · exact ⟨7, 7, 4095, (cqOn 7 7).wr CMDQ.SIZES_SQ_SIZE 4095 (rk 7 7), by decide +kernel⟩
  · exact ⟨7, 7, 4095, (cqOn 7 7).wr CMDQ.SIZES_CQ_SIZE 0 (rk 7 7), by decide +kernel⟩
  · exact ⟨7, 15, 7, (cfg.wb HOST.RING_CTL_EN true (rk 7 15)).wr HOST.SIZE_N 8 (rk 7 15), by decide +kernel⟩
  · exact ⟨7, 7, 0, cfg, by decide +kernel⟩
  · exact ⟨7, 7, 2 ^ 31, cfg, by decide +kernel⟩
  · exact ⟨7, 15, 2 ^ 31, cfg, by decide +kernel⟩
  · exact ⟨0, 15, 7, true, 2 ^ 31, cfg, by decide +kernel⟩
  · exact ⟨7, 15, 7, true, 2 ^ 31, cfg, by decide +kernel⟩

theorem witness_RegistersAreWritten :
    (∃ (fn : Nat) (g : Nat) (bar : Nat) (w : Nat) (pg : Nat) (p : Nat) (i : Nat) (r : RegRow) (s : State), pg = barPage bar ∧ pg ∈ [0x01, 0x19] ∧ regPlace pg (bar % 0x1000) = (p, i) ∧ accRow pg p = some r ∧ bar % 4 = 0 ∧ barView bar = .base ∧ 0x040 ≤ p ∧ isPF0 fn = true ∧ fn ≤ 8 ∧ (s.served pg = true)) ∧
    (∃ (fn : Nat) (g : Nat) (bar : Nat) (w : Nat) (pg : Nat) (p : Nat) (i : Nat) (r : RegRow) (s : State), pg = barPage bar ∧ pg ∈ [0x01, 0x19] ∧ regPlace pg (bar % 0x1000) = (p, i) ∧ accRow pg p = some r ∧ bar % 4 = 0 ∧ barView bar ≠ .base ∧ hasRW r.flds = true ∧ 0x040 ≤ p ∧ isPF0 fn = true ∧ fn ≤ 8 ∧ (s.served pg = true)) ∧
    (∃ (fn : Nat) (g : Nat) (bar : Nat) (w : Nat) (p : Nat) (i : Nat) (r : RegRow) (s : State), barPage bar = 0x00 ∧ regPlace 0x00 (bar % 0x1000) = (p, i) ∧ accRow 0x00 p = some r ∧ bar % 4 = 0 ∧ barView bar = .base ∧ 0x040 ≤ p ∧ isPF0 fn = true ∧ fn ≤ 8 ∧ i = 0 ∧ (s.served 0x00 = true)) ∧
    (∃ (fn : Nat) (g : Nat) (bar : Nat) (w : Nat) (p : Nat) (i : Nat) (r : RegRow) (s : State), barPage bar = 0x09 ∧ regPlace 0x09 (bar % 0x1000) = (p, i) ∧ accRow 0x09 p = some r ∧ bar % 4 = 0 ∧ barView bar = .base ∧ 0x040 ≤ p ∧ isPF0 fn = true ∧ fn ≤ 8 ∧ i = 0 ∧ (s.served 0x09 = true)) ∧
    (∃ (fn : Nat) (g : Nat) (bar : Nat) (w : Nat) (be : Nat) (s : State), (bar % 4 ≠ 0 ∨ be % 16 ≠ 15) ∧ (s.served (barPage bar) = true ∧ fn ≤ 8 ∧ s.shut fn (barPage bar) = false)) ∧
    (∃ (fn : Nat) (pg : Nat) (w : Nat) (s : State), fn ≤ 8 ∧ (s.served pg = true ∧ s.shut fn pg = false)) ∧
    (∃ (fn : Nat) (pg : Nat) (w : Nat) (s : State), fn ≤ 8 ∧ (s.served pg = true ∧ s.shut fn pg = false)) ∧
    (∃ (fn : Nat) (pg : Nat) (w : Nat) (s : State), fn ≤ 8 ∧ (s.served pg = true ∧ s.shut fn pg = false)) ∧
    (∃ (fn : Nat) (w : Nat) (port : Nat) (s : State), isPF0 fn = true ∧ bit w 0 = true ∧ port < 4 ∧ fn ≤ 8 ∧ (3 ≤ s.mode)) ∧
    (∃ (fn : Nat) (w : Nat) (pg : Nat) (s : State), isPF0 fn = true ∧ bit w 1 = true ∧ (pg = 0x0E ∨ pg = 0x0F) ∧ fn ≤ 8 ∧ (3 ≤ s.mode)) := by
  refine ⟨?_, ?_, ?_, ?_, ?_, ?_, ?_, ?_, ?_, ?_⟩
  · exact ⟨8, 0, 0x64048, 2 ^ 32 - 1, 0x19, 0x048, 0, (accRow 0x19 0x048).get (by decide +kernel), cfg, by decide, by decide, by decide +kernel, (Option.some_get _).symm, by decide, by decide, by decide, by decide, by decide, by decide +kernel⟩
  · exact ⟨8, 0, 0x67048, 2 ^ 32 - 1, 0x19, 0x048, 0, (accRow 0x19 0x048).get (by decide +kernel), cfg, by decide, by decide, by decide +kernel, (Option.some_get _).symm, by decide, by decide, by decide +kernel, by decide, by decide, by decide, by decide +kernel⟩
  · exact ⟨8, 0, 0x048, 2 ^ 32 - 1, 0x048, 0, (accRow 0x00 0x048).get (by decide +kernel), cfg, by decide, by decide +kernel, (Option.some_get _).symm, by decide, by decide, by decide, by decide, by decide, by decide, by decide +kernel⟩
  · exact ⟨8, 0, 0x2404C, 2 ^ 32 - 1, 0x04C, 0, (accRow 0x09 0x04C).get (by decide +kernel), cfg, by decide, by decide +kernel, (Option.some_get _).symm, by decide, by decide, by decide, by decide, by decide, by decide, by decide +kernel⟩
  · exact ⟨8, 0, 0x041, 0, 15, cfg, by decide +kernel⟩
  · exact ⟨8, 0x0A, 2 ^ 31, cfg, by decide +kernel⟩
  · exact ⟨8, 0, 2 ^ 32 - 1, cfg, by decide +kernel⟩
  · exact ⟨8, 0, 2 ^ 32 - 1, cfg, by decide +kernel⟩
  · exact ⟨8, 1, 3, cfg, by decide +kernel⟩
  · exact ⟨8, 2, 0x0F, cfg, by decide +kernel⟩

theorem witness_PllsFollowTheirEvents :
    (∃ (s : State), ((cpllSet (s.rd CLKG.CPLL_STAT_ACTIVE) false s).cpllLock (1 - s.rd CLKG.CPLL_STAT_ACTIVE) = true)) ∧
    (∃ (s : State), ((cpllSet (s.rd CLKG.CPLL_STAT_ACTIVE) false s).cpllLock (1 - s.rd CLKG.CPLL_STAT_ACTIVE) = false)) ∧
    (∃ (s : State), (s.cpllLock (1 - s.rd CLKG.CPLL_STAT_ACTIVE) = false)) ∧
    (∃ (s : State), (s.cpllLock (1 - s.rd CLKG.CPLL_STAT_ACTIVE) = true)) ∧
    (∃ (b : Bool) (s : State), (s.tpllLock (b2n b) = true)) ∧
    (∃ (b : Bool) (s : State), (s.tpllLock (b2n b) = false)) ∧
    (∃ (s : State), up s = true ∧ (s.rb CLKG.SSC_STAT_BUSY = true ∧ s.cpllLock (1 - s.rd CLKG.CPLL_STAT_ACTIVE) = true)) ∧
    (∃ (s : State), up s = true ∧ (s.rb CLKG.SSC_STAT_BUSY = true ∧ s.cpllLock (1 - s.rd CLKG.CPLL_STAT_ACTIVE) = false)) ∧
    (∃ (s : State), up s = true ∧ (s.rb CLKG.MPLL_STAT_PSTEP_BUSY = true)) ∧
    (∃ (plls : Nat) (s : State), (plls &&& s.rd CLKG.LOCK_MASK_MASK ≠ 0)) ∧
    (∃ (plls : Nat) (s : State), (plls &&& s.rd CLKG.LOCK_MASK_MASK = 0)) ∧
    (∃ (n : Nat) (s : State), 15000 ≤ n) ∧
    (∃ (n : Nat) (s : State), n < 15000) := by
  refine ⟨?_, ?_, ?_, ?_, ?_, ?_, ?_, ?_, ?_, ?_, ?_, ?_, ?_⟩
  · exact ⟨cfg.wb CLKG.CPLL_STAT_B_LOCK true, by decide +kernel⟩
  · exact ⟨cfg.wb CLKG.CPLL_STAT_B_LOCK false, by decide +kernel⟩
  · exact ⟨cfg.wb CLKG.CPLL_STAT_B_LOCK false, by decide +kernel⟩
  · exact ⟨cfg.wb CLKG.CPLL_STAT_B_LOCK true, by decide +kernel⟩
  · exact ⟨true, cfg.wb CLKG.TPLL_STAT_B_LOCK true, by decide +kernel⟩
  · exact ⟨true, cfg.wb CLKG.TPLL_STAT_B_LOCK false, by decide +kernel⟩
  · exact ⟨(cfg.wb CLKG.SSC_STAT_BUSY true).wb CLKG.CPLL_STAT_B_LOCK true, by decide +kernel⟩
  · exact ⟨(cfg.wb CLKG.SSC_STAT_BUSY true).wb CLKG.CPLL_STAT_B_LOCK false, by decide +kernel⟩
  · exact ⟨cfg.wb CLKG.MPLL_STAT_PSTEP_BUSY true, by decide +kernel⟩
  · exact ⟨1, cfg, by decide +kernel⟩
  · exact ⟨2, cfg.wr CLKG.LOCK_MASK_MASK 1, by decide +kernel⟩
  · exact ⟨15000, cfg, by decide +kernel⟩
  · exact ⟨14999, cfg, by decide +kernel⟩

theorem witness_EdgesAreTaken :
    (∃ (ys : List (Nat × Int)) (s : State), up s = true ∧ (s.ref.winDone = none)) ∧
    (∃ (ys : List (Nat × Int)) (s : State), up s = true ∧ (s.ref.winDone ≠ none)) ∧
    (∃ (c : Nat) (s : State), 3 ≤ c ∧ c ≤ 6 ∧ up s = true) ∧
    (∃ (pin : Nat) (rising : Bool) (off : Nat) (s : State), pin < 3 ∧ up s = true ∧ (s.bankUp 9 = true ∧ pinActive s pin rising = true)) ∧
    (∃ (pin : Nat) (rising : Bool) (off : Nat) (s : State), up s = true ∧ (s.bankUp 9 = false ∨ pinActive s pin rising = false)) ∧
    (∃ (o : Nat) (s : State), o < 2 ∧ up s = true ∧ (s.clkEnReg o = true ∧ bg s.loc.clkEn o = true ∧ bg s.ref.outRun o = false)) ∧
    (∃ (o : Nat) (s : State), o < 2 ∧ up s = true ∧ (s.clkEnReg o = false ∧ bg s.ref.outRun o = true)) ∧
    (∃ (off : Nat) (pin : Nat) (rising : Bool) (hold : Nat) (s : State), up s = true ∧ (s.bankUp 8 = false ∨ hold < evtFilter ∨ og s.tim.evtIn pin = some rising)) ∧
    (∃ (off : Nat) (pin : Nat) (rising : Bool) (hold : Nat) (s : State), evtFilter ≤ hold ∧ up s = true ∧ (s.bankUp 8 = true ∧ og s.tim.evtIn pin ≠ some rising ∧ evtTaken off pin rising s = false)) ∧
    (∃ (off : Nat) (pin : Nat) (rising : Bool) (hold : Nat) (s : State), evtFilter ≤ hold ∧ up s = true ∧ (s.bankUp 8 = true ∧ og s.tim.evtIn pin ≠ some rising ∧ evtTaken off pin rising s = true ∧ 64 ≤ s.tim.evt.length)) ∧
    (∃ (off : Nat) (pin : Nat) (rising : Bool) (hold : Nat) (s : State), evtFilter ≤ hold ∧ up s = true ∧ (s.bankUp 8 = true ∧ og s.tim.evtIn pin ≠ some rising ∧ evtTaken off pin rising s = true ∧ s.tim.evt.length < 64)) ∧
    (∃ (edge : Nat) (x : LtcFrame) (s : State), x.sync = true ∧ x.rate ≤ 4 ∧ x.reverse = false ∧ up s = true ∧ (s.bankUp 9 = true)) ∧
    (∃ (edge : Nat) (x : LtcFrame) (s : State), x.sync = true ∧ x.rate ≤ 4 ∧ x.reverse = true ∧ up s = true ∧ (s.bankUp 9 = true)) ∧
    (∃ (edge : Nat) (x : LtcFrame) (s : State), up s = true ∧ (s.bankUp 9 = false ∨ x.sync = false ∨ 4 < x.rate)) ∧
    (∃ (s : State), up s = true ∧ (s.tim.ltcOutWait = false)) ∧
    (∃ (s : State), up s = true ∧ (s.tim.ltcOutWait = true)) ∧
    (∃ (g : Nat) (b : Nat) (s : State), 3 ≤ g ∧ g < 256 ∧ b ≠ 0 ∧ up s = true ∧ (ng s.src.stage g = b ∧ s.grpState g = gsACQ ∧ ng s.src.stageAt g + 32 * stageTicks b ≤ s.clock)) ∧
    (∃ (g : Nat) (s : State), up s = true ∧ (s.grpState g ≠ gsACQ ∨ s.clock < ng s.src.stageAt g + 32 * stageTicks (ng s.src.stage g))) ∧
    (∃ (pin : Nat) (rising : Bool) (s : State), pin ≤ 31 ∧ up s = true ∧ (s.bankUp (6 + pin / 16) = true ∧ s.rb LSIO.GPIO_IN pin ≠ rising ∧ bit ((s.wb LSIO.GPIO_IN rising pin).rd LSIO.GPIO_EDGE pin) (b2n (!rising)) = true)) ∧
    (∃ (pin : Nat) (rising : Bool) (s : State), pin ≤ 31 ∧ up s = true ∧ (s.bankUp (6 + pin / 16) = true ∧ s.rb LSIO.GPIO_IN pin ≠ rising ∧ bit ((s.wb LSIO.GPIO_IN rising pin).rd LSIO.GPIO_EDGE pin) (b2n (!rising)) = false)) ∧
    (∃ (pin : Nat) (rising : Bool) (s : State), up s = true ∧ (s.bankUp (6 + pin / 16) = false ∨ s.rb LSIO.GPIO_IN pin = rising)) := by
  refine ⟨?_, ?_, ?_, ?_, ?_, ?_, ?_, ?_, ?_, ?_, ?_, ?_, ?_, ?_, ?_, ?_, ?_, ?_, ?_, ?_, ?_⟩
  · exact ⟨[], cfg.onRef (fun r => { r with winDone := none }), by decide +kernel⟩
  · exact ⟨[], cfg.onRef (fun r => { r with winDone := some ([], true) }), by decide +kernel⟩
  · exact ⟨6, cfg, by decide +kernel⟩
  · exact ⟨2, true, 124999, banked, by decide +kernel⟩
  · exact ⟨2, false, 124999, banked, by decide +kernel⟩
  · exact ⟨1, (cfg.wb SYNC.PPS_OUT_CTL_EN true).onLoc (fun l => { l with clkEn := [(1, true)] }), by decide +kernel⟩
  · exact ⟨1, cfg.onRef (fun r => { r with outRun := [(1, true)] }), by decide +kernel⟩
  · exact ⟨124999, 7, true, 239, banked, by decide +kernel⟩
  · exact ⟨124999, 7, true, 240, banked, by decide +kernel⟩
  · exact ⟨124999, 7, true, 240, (banked.ww EVTC.EVT_CTL 0xFFFFFFFF).onTim (fun t => { t with evt := List.replicate 64 ⟨0, 0, 0, 0⟩ }), by decide +kernel⟩
  · exact ⟨124999, 7, true, 240, (banked.ww EVTC.EVT_CTL 0xFFFFFFFF).onTim (fun t => { t with evt := List.replicate 63 ⟨0, 0, 0, 0⟩ }), by decide +kernel⟩
  · exact ⟨0, ⟨0, 4, 0, true, false⟩, banked, by decide +kernel⟩
  · exact ⟨0, ⟨0, 4, 0, true, true⟩, banked, by decide +kernel⟩
  · exact ⟨0, ⟨0, 5, 0, true, false⟩, banked, by decide +kernel⟩
  · exact ⟨cfg, by decide +kernel⟩
  · exact ⟨cfg.onTim (fun t => { t with ltcOutWait := true }), by decide +kernel⟩
  · exact ⟨255, 1, (run.wr SRCB.GRP_STAT_STATE gsACQ 255).onSrc (fun c => { c with stage := [(255, 1)] }), by decide +kernel⟩
  · exact ⟨255, (cfg.wr SRCB.GRP_STAT_STATE gsACQ 255).onSrc (fun c => { c with stage := [(255, 1)], stageAt := [(255, 1)] }), by decide +kernel⟩
  · exact ⟨31, true, banked.wr LSIO.GPIO_EDGE 1 31, by decide +kernel⟩
  · exact ⟨31, true, banked.wr LSIO.GPIO_EDGE 2 31, by decide +kernel⟩
  · exact ⟨31, false, banked, by decide +kernel⟩

theorem witness_PortsFollowTheirEvents :
    (∃ (port : Nat) (s : State), up s = true ∧ (s.fwUp = true ∧ masterOverdue port s = true)) ∧
    (∃ (port : Nat) (s : State), up s = true ∧ (s.fwUp = false ∨ masterOverdue port s = false)) ∧
    (∃ (port : Nat) (s : State), port < 4 ∧ up s = true ∧ (s.fwUp = true ∧ s.rb TIME.PTP_CTL_EN (i := planeOf port) = true ∧ (og s.net.master port).isSome = true ∧ ng s.net.reqAt port ≤ s.clock ∧ 16 ≤ ng s.net.unans port)) ∧
    (∃ (port : Nat) (s : State), port < 4 ∧ up s = true ∧ (s.fwUp = true ∧ s.rb TIME.PTP_CTL_EN (i := planeOf port) = true ∧ (og s.net.master port).isSome = true ∧ ng s.net.reqAt port ≤ s.clock ∧ ng s.net.unans port < 16)) ∧
    (∃ (port : Nat) (s : State), up s = true ∧ (s.clock < ng s.net.reqAt port ∨ (og s.net.master port).isNone = true)) ∧
    (∃ (port : Nat) (a : Nat) (s : State), up s = true ∧ (s.fwUp = true)) ∧
    (∃ (port : Nat) (fec : Bool) (x : LinkIn) (s : State), port < 4 ∧ up s = true ∧ (s.linkUp port = true)) ∧
    (∃ (port : Nat) (fec : Bool) (x : LinkIn) (s : State), port < 4 ∧ up s = true ∧ (s.linkUp port = false)) ∧
    (∃ (port : Nat) (x : QsfpIn) (s : State), up s = true ∧ (s.bankUp 4 = false)) ∧
    (∃ (port : Nat) (x : QsfpIn) (s : State), port < 4 ∧ up s = true ∧ (s.bankUp 4 = true ∧ ((qsfpSeen port x.present s).rb NETP.QSFP_CTL_AUTO (i := port) = false ∨ (qsfpSeen port x.present s).fwUp = false))) ∧
    (∃ (port : Nat) (x : QsfpIn) (s : State), port < 4 ∧ x.present = true ∧ up s = true ∧ (s.bankUp 4 = true ∧ (qsfpSeen port true s).rb NETP.QSFP_CTL_AUTO (i := port) = true ∧ (qsfpSeen port true s).fwUp = true ∧ (qsfpSeen port true s).modReach port = true)) ∧
    (∃ (port : Nat) (x : QsfpIn) (s : State), port < 4 ∧ x.present = false ∧ up s = true ∧ (s.bankUp 4 = true ∧ (qsfpSeen port false s).rb NETP.QSFP_CTL_AUTO (i := port) = true ∧ (qsfpSeen port false s).fwUp = true)) ∧
    (∃ (port : Nat) (a : Nat) (int : Bool) (s : State), port < 4 ∧ up s = true ∧ (s.bankUp 4 = true)) ∧
    (∃ (port : Nat) (a : Nat) (int : Bool) (s : State), up s = true ∧ (s.bankUp 4 = false)) ∧
    (∃ (port : Nat) (int : Bool) (s : State), port < 4 ∧ (s.wb NETP.QSFP_STAT_INT int (i := port)).rb NETP.QSFP_CTL_AUTO (i := port) = false) ∧
    (∃ (port : Nat) (off : Nat) (v : Nat) (s : State), port < 4 ∧ up s = true ∧ ((txTry port off v s).2 = none)) ∧
    (∃ (port : Nat) (off : Nat) (v : Nat) (f : TxFrame) (s : State), port < 4 ∧ up s = true ∧ ((txTry port off v s).2 = some f)) ∧
    (∃ (port : Nat) (off : Nat) (v : Nat) (s : State), up s = true ∧ (s.gating port = true)) ∧
    (∃ (port : Nat) (off : Nat) (v : Nat) (s : State), up s = true ∧ (s.gating port = false)) ∧
    (∃ (port : Nat) (off : Nat) (x : HostDone) (s : State), up s = true ∧ ((txSettle port (s.grid off) s).net.hostDone.find? (fun x => x.port == port) = some x ∧ (txSettle port (s.grid off) s).ringRuns (rk x.fn x.ring) = false)) ∧
    (∃ (port : Nat) (off : Nat) (x : HostDone) (d : Desc) (t : State) (s : State), up s = true ∧ (t = txSettle port (s.grid off) s ∧ t.net.hostDone.find? (fun x => x.port == port) = some x ∧ (t.descList (rk x.fn x.ring)).find? (fun d => d.d.handle == x.handle && d.st == stOK) = some d ∧ t.ringRuns (rk x.fn x.ring) = true)) ∧
    (∃ (port : Nat) (off : Nat) (x : FrameIn) (s : State), port < 4 ∧ up s = true ∧ (s.linkUp port = true)) ∧
    (∃ (port : Nat) (off : Nat) (x : FrameIn) (s : State), up s = true ∧ (s.linkUp port = false)) := by
  refine ⟨?_, ?_, ?_, ?_, ?_, ?_, ?_, ?_, ?_, ?_, ?_, ?_, ?_, ?_, ?_, ?_, ?_, ?_, ?_, ?_, ?_, ?_, ?_⟩
  · exact ⟨3, run.onNet (fun n => { n with master := [(3, some master0)] }), by decide +kernel⟩
  · exact ⟨3, cfg, by decide +kernel⟩
  · exact ⟨3, (cfg.wb TIME.PTP_CTL_EN true (i := 1)).onNet (fun n => { n with master := [(3, some master0)], unans := [(3, 16)] }), by decide +kernel⟩
  · exact ⟨3, (cfg.wb TIME.PTP_CTL_EN true (i := 1)).onNet (fun n => { n with master := [(3, some master0)], unans := [(3, 15)] }), by decide +kernel⟩
  · exact ⟨3, cfg, by decide +kernel⟩
  · exact ⟨3, 1, cfg, by decide +kernel⟩
  · exact ⟨3, true, ⟨true, false⟩, linked, by decide +kernel⟩
  · exact ⟨3, true, ⟨true, false⟩, cfg, by decide +kernel⟩
  · exact ⟨3, ⟨true, 0x11, 5⟩, banked.ww PWR.BANK_STAT 0, by decide +kernel⟩
  · exact ⟨3, ⟨true, 0x11, 5⟩, banked.wb NETP.QSFP_CTL_AUTO false (i := 3), by decide +kernel⟩
  · exact ⟨3, ⟨true, 0x11, 5⟩, ((banked.wb NETP.QSFP_CTL_AUTO true (i := 3)).wr LSIO.I2C_STAT_STATE icIDLE 1), by decide +kernel⟩
  · exact ⟨3, ⟨false, 0, 0⟩, ((banked.wb NETP.QSFP_CTL_AUTO true (i := 3)).wr LSIO.I2C_STAT_STATE icIDLE 1), by decide +kernel⟩
  · exact ⟨3, 0, true, banked, by decide +kernel⟩
  · exact ⟨3, 0, true, banked.ww PWR.BANK_STAT 0, by decide +kernel⟩
  · exact ⟨3, true, cfg.wb NETP.QSFP_CTL_AUTO false (i := 3), by decide +kernel⟩
  · exact ⟨3, 124999, 7, cfg, by decide +kernel⟩
  · exact ⟨3, 124999, 7, ⟨.ptp, 68, [], false, none⟩, linked.onNet (fun n => { n with txq := [(48, [⟨.ptp, 68, [], false, none⟩])] }), by decide +kernel⟩
  · exact ⟨3, 124999, 7, (run.wb NETP.GCL_CTL_EN true (i := 3)).onNet (fun n => { n with gclLive := [(3, true)] }), by decide +kernel⟩
  · exact ⟨3, 124999, 7, cfg, by decide +kernel⟩
  · exact ⟨3, 124999, ⟨7, 15, 1, 3, true, none⟩, cfg.onNet (fun n => { n with hostDone := [⟨7, 15, 1, 3, true, none⟩] }), by decide +kernel⟩
  · exact ⟨3, 124999, ⟨7, 15, 65536, 3, true, some 1⟩, desc0 0, _, (ringRun 7 15 kTX (desc0 0) run).onNet (fun n => { n with hostDone := [⟨7, 15, 65536, 3, true, some 1⟩] }), by decide +kernel, rfl, by decide +kernel, by decide +kernel, by decide +kernel⟩
  · exact ⟨3, 124999, frame0, linked, by decide +kernel⟩
  · exact ⟨3, 124999, frame0, cfg, by decide +kernel⟩

theorem witness_StreamsFollowTheirEvents :
    (∃ (id : Nat) (s : State), up s = true ∧ (s.fwUp = true)) ∧
    (∃ (i : Nat) (s : State), i < 1024 ∧ up s = true ∧ (s.fwUp = false ∨ s.rb STTX.SAP_TX_CFG_EN = false)) ∧
    (∃ (i : Nat) (s : State), i < 1024 ∧ up s = true ∧ (s.fwUp = true ∧ s.rb STTX.SAP_TX_CFG_EN = true ∧ s.txState i = txRUN ∧ s.rb STTX.CFG_ANNOUNCE i = true ∧ s.sapDue i 2 = true)) ∧
    (∃ (i : Nat) (s : State), i < 1024 ∧ up s = true ∧ (s.fwUp = true ∧ s.rb STTX.SAP_TX_CFG_EN = true ∧ s.txState i ≠ txRUN ∧ ng s.tx.sapVer i ≠ 0)) ∧
    (∃ (i : Nat) (leg : Nat) (k : Nat × Bool × Nat × Nat) (s : State), i < 1024 ∧ leg < 2 ∧ up s = true ∧ (s.fwUp = true ∧ s.legGroup i leg = some k ∧ og s.rx.joined (2 * i + leg) = none ∧ s.rx.members.any (fun m => m.key == k) = false)) ∧
    (∃ (i : Nat) (leg : Nat) (k : Nat × Bool × Nat × Nat) (s : State), i < 1024 ∧ leg < 2 ∧ up s = true ∧ (s.fwUp = true ∧ s.legGroup i leg = none ∧ og s.rx.joined (2 * i + leg) = some k ∧ (s.onRx (fun r => { r with joined := os r.joined (2 * i + leg) none })).groupWanted k = false)) ∧
    (∃ (i : Nat) (leg : Nat) (s : State), i < 1024 ∧ leg < 2 ∧ up s = true ∧ (s.fwUp = true)) ∧
    (∃ (port : Nat) (dst : Nat) (q : Nat × Bool × Nat) (s : State), up s = true ∧ (s.fwUp = true ∧ s.rx.asked.find? (fun q => q.1 == port && q.2.2 == dst) = some q)) ∧
    (∃ (port : Nat) (dst : Nat) (m : Member) (s : State), up s = true ∧ (s.fwUp = true ∧ s.reportDue port dst = some m)) ∧
    (∃ (i : Nat) (off : Nat) (s : State), up s = true ∧ (let t := rxJudge s; let c := t.rxLine i (ng t.rx.hi i); t.rxRunning = true ∧ t.rxState i = stACTIVE ∧ c.a + (ng t.rx.hi i : Int) * c.b + 3 * t.rxPs i * c.b ≤ (t.grid off : Int) * c.den)) ∧
    (∃ (i : Nat) (off : Nat) (s : State), up s = true ∧ ((rxJudge s).rxRunning = false ∨ (rxJudge s).rxState i ≠ stACTIVE)) ∧
    (∃ (i : Nat) (plane : Nat) (off : Nat) (a : Int) (s : State), plane < 2 ∧ up s = true ∧ (let t := rxJudge s; t.rxRunning = true ∧ og t.rx.okAt (2 * i + plane) = some a ∧ a * t.rxHz i + 8 * t.rxPs i * gridSec ≤ (t.grid off : Int) * t.rxHz i)) ∧
    (∃ (i : Nat) (plane : Nat) (off : Nat) (s : State), up s = true ∧ ((rxJudge s).rxRunning = false)) := by
  refine ⟨?_, ?_, ?_, ?_, ?_, ?_, ?_, ?_, ?_, ?_, ?_, ?_, ?_⟩
  · exact ⟨1, cfg, by decide +kernel⟩
  · exact ⟨1023, cfg, by decide +kernel⟩
  · exact ⟨1023, ((cfg.wb STTX.SAP_TX_CFG_EN true).wr STTX.ST_STAT_STATE txRUN 1023).wb STTX.CFG_ANNOUNCE true 1023, by decide +kernel⟩
  · exact ⟨1023, (cfg.wb STTX.SAP_TX_CFG_EN true).onTx (fun t => { t with sapVer := [(1023, 1)] }), by decide +kernel⟩
  · exact ⟨1023, 1, ((rxMember 1023).legGroup 1023 1).get (by decide +kernel), rxMember 1023, by decide, by decide, by decide +kernel, by decide +kernel, (Option.some_get _).symm, by decide +kernel, by decide +kernel⟩
  · exact ⟨1023, 1, (3, false, 0xE0000001, 0), cfg.onRx (fun r => { r with joined := [(2047, some (3, false, 0xE0000001, 0))] }), by decide, by decide, by decide +kernel, by decide +kernel, by decide +kernel, by decide +kernel, by decide +kernel⟩
  · exact ⟨1023, 1, cfg, by decide +kernel⟩
  · exact ⟨3, 0xE0000001, (3, false, 0xE0000001), cfg.onRx (fun r => { r with asked := [(3, false, 0xE0000001)] }), by decide +kernel⟩
  · exact ⟨3, 0xE0000001, ⟨3, false, 0xE0000001, 0, some 0⟩, cfg.onRx (fun r => { r with members := [⟨3, false, 0xE0000001, 0, some 0⟩] }), by decide +kernel⟩
  · exact ⟨1023, 124999, run.wr STRX.ST_STAT_STATE stACTIVE 1023, by decide +kernel⟩
  · exact ⟨1023, 124999, cfg, by decide +kernel⟩
  · exact ⟨1023, 1, 124999, 0, run.onRx (fun r => { r with okAt := [(2047, some 0)] }), by decide +kernel⟩
  · exact ⟨1023, 1, 124999, cfg, by decide +kernel⟩

theorem witness_LocalPortsFollowTheirEvents :
    (∃ (p : Nat) (off : Nat) (x : I2sIn) (s : State), p < 16 ∧ up s = true ∧ (s.bankUp (12 + p / 4) = true)) ∧
    (∃ (p : Nat) (off : Nat) (x : I2sIn) (s : State), up s = true ∧ (s.bankUp (12 + p / 4) = false)) ∧
    (∃ (p : Nat) (off : Nat) (x : I2sIn) (s : State), p < 16 ∧ up s = true ∧ (s.bankUp (12 + p / 4) = true ∧ s.i2sRb SAPG.PORT_STAT_CLK_OK p = true ∧ (i2sWr SAPG.PORT_STAT_BCLK_FRAME (min 255 x.bclk) p (i2sClk p true (s.onLoc (fun l => { l with clkAt := ns l.clkAt p (s.clockGrid off + 1) })))).i2sState p = i2sOFF)) ∧
    (∃ (p : Nat) (off : Nat) (x : I2sIn) (s : State), p < 16 ∧ up s = true ∧ (s.bankUp (12 + p / 4) = true ∧ s.i2sRb SAPG.PORT_STAT_CLK_OK p = false ∧ (i2sClk p true (s.onLoc (fun l => { l with clkAt := ns l.clkAt p (s.clockGrid off + 1) }))).i2sState p = i2sOFF)) ∧
    (∃ (p : Nat) (off : Nat) (s : State), up s = true ∧ (s.i2sRb SAPG.PORT_STAT_CLK_OK p = false)) ∧
    (∃ (p : Nat) (off : Nat) (s : State), p < 16 ∧ up s = true ∧ (s.i2sRb SAPG.PORT_STAT_CLK_OK p = true ∧ 4 * gridSec ≤ (s.clockGrid off + 1 - ng s.loc.clkAt p) * s.i2sRd SAPG.NOM_HZ p ∧ bg (i2sClk p false (i2sCnt SAPG.CLK_LOSSES p s)).loc.halt p = false)) ∧
    (∃ (p : Nat) (off : Nat) (s : State), p < 16 ∧ up s = true ∧ (s.i2sRb SAPG.PORT_STAT_CLK_OK p = true ∧ 4 * gridSec ≤ (s.clockGrid off + 1 - ng s.loc.clkAt p) * s.i2sRd SAPG.NOM_HZ p ∧ bg (i2sClk p false (i2sCnt SAPG.CLK_LOSSES p s)).loc.halt p = true)) ∧
    (∃ (r : Nat) (off : Nat) (x : AesIn) (s : State), up s = true ∧ (s.bankUp 11 = false ∨ s.arState r = arOFF)) ∧
    (∃ (r : Nat) (off : Nat) (x : AesIn) (s : State), r < 8 ∧ up s = true ∧ (s.bankUp 11 = true ∧ s.arState r ≠ arOFF)) ∧
    (∃ (r : Nat) (off : Nat) (s : State), r < 8 ∧ up s = true ∧ (s.arState r = arLOCKED ∧ 4 * gridSec ≤ (s.clockGrid off + 1 - ng s.loc.rxAt r) * s.rd AESP.RX_NOM_HZ r)) ∧
    (∃ (r : Nat) (off : Nat) (s : State), up s = true ∧ (s.arState r ≠ arLOCKED)) ∧
    (∃ (t : Nat) (s : State), t < 8 ∧ up s = true ∧ (s.atState t ≠ atOFF ∧ 192 ≤ ng s.loc.txPos t ∧ ng s.ref.outPend (atOut t) = 0)) ∧
    (∃ (t : Nat) (s : State), t < 8 ∧ up s = true ∧ (s.atState t ≠ atOFF ∧ ng s.ref.outPend (atOut t) ≠ 0)) ∧
    (∃ (t : Nat) (s : State), up s = true ∧ (s.atState t = atOFF)) := by
  refine ⟨?_, ?_, ?_, ?_, ?_, ?_, ?_, ?_, ?_, ?_, ?_, ?_, ?_, ?_⟩
  · exact ⟨15, 0, ⟨[], 300, 0⟩, banked, by decide +kernel⟩
  · exact ⟨15, 0, ⟨[], 64, 0⟩, banked.ww PWR.BANK_STAT 0, by decide +kernel⟩
  · exact ⟨15, 124999, ⟨[], 300, 0⟩, banked.wb SAPG.PORT_STAT_CLK_OK true 3 3, by decide +kernel⟩
  · exact ⟨15, 124999, ⟨[], 300, 0⟩, banked, by decide +kernel⟩
  · exact ⟨15, 0, cfg, by decide +kernel⟩
  · exact ⟨15, 0, ((run.wb SAPG.PORT_STAT_CLK_OK true 3 3).wb SAPG.PORT_CTL_EN true 3 3).wr SAPG.NOM_HZ 96000 3 3, by decide +kernel⟩
  · exact ⟨15, 0, (((run.wb SAPG.PORT_STAT_CLK_OK true 3 3).wb SAPG.PORT_CTL_EN true 3 3).wr SAPG.NOM_HZ 96000 3 3).onLoc (fun l => { l with halt := [(15, true)] }), by decide +kernel⟩
  · exact ⟨7, 0, ⟨1, false, true, 0, 0, false, false, 0⟩, cfg, by decide +kernel⟩
  · exact ⟨7, 0, ⟨1, true, true, 0, 0, false, false, 0⟩, banked.wr AESP.RX_STAT_STATE arSEARCH 7, by decide +kernel⟩
  · exact ⟨7, 0, (run.wr AESP.RX_STAT_STATE arLOCKED 7).wr AESP.RX_NOM_HZ 96000 7, by decide +kernel⟩
  · exact ⟨7, 0, cfg, by decide +kernel⟩
  · exact ⟨7, (cfg.wr AESP.TX_STAT_STATE 1 7).onLoc (fun l => { l with txPos := [(7, 192)] }), by decide +kernel⟩
  · exact ⟨7, (cfg.wr AESP.TX_STAT_STATE 1 7).onRef (fun r => { r with outPend := [(11, 1)] }), by decide +kernel⟩
  · exact ⟨7, cfg, by decide +kernel⟩

theorem witness_ScenesFollowTheirEvents :
    (∃ (g : Nat) (s : State), g < 64 ∧ up s = true ∧ (s.bankState g = bkRAMP ∧ s.turnIdx g + s.turnRamp g ≤ s.tim.sample)) ∧
    (∃ (g : Nat) (s : State), up s = true ∧ (s.bankState g ≠ bkRAMP ∨ s.tim.sample < s.turnIdx g + s.turnRamp g)) ∧
    (∃ (g : Nat) (s : State), g < 64 ∧ up s = true ∧ (s.bankState g = bkCOPY ∧ bg s.scn.drained g = false ∧ s.unlockIdx g ≤ s.tim.sample + 1)) ∧
    (∃ (g : Nat) (s : State), up s = true ∧ (s.bankState g = bkCOPY ∧ (bg s.scn.drained g = true ∨ s.tim.sample + 1 < s.unlockIdx g))) ∧
    (∃ (g : Nat) (s : State), g < 64 ∧ up s = true ∧ (s.bankState g = bkRAMP)) ∧
    (∃ (g : Nat) (s : State), g < 64 ∧ up s = true ∧ (s.bankState g = bkCOPY ∧ bg s.scn.drained g = true ∧ s.unlockIdx g ≤ s.tim.sample)) ∧
    (∃ (g : Nat) (s : State), g < 64 ∧ up s = true ∧ (s.bankState g = bkLOAD ∧ og s.scn.load g = none ∧ bg s.scn.drained g = true ∧ s.unlockIdx g ≤ s.tim.sample)) ∧
    (∃ (g : Nat) (s : State), up s = true ∧ (s.bankState g = bkREADY ∨ s.bankState g = bkHELD)) ∧
    (∃ (g : Nat) (sc : Scene) (a : Nat) (e : Nat) (s : State), g < 64 ∧ up s = true ∧ (og s.scn.load g = some (sc, a, e) ∧ s.bankState g = bkLOAD ∧ e ≤ s.tim.sample)) ∧
    (∃ (g : Nat) (sc : Scene) (a : Nat) (e : Nat) (s : State), up s = true ∧ (og s.scn.load g = some (sc, a, e) ∧ s.tim.sample < e ∧ bg s.scn.drained g = false)) ∧
    (∃ (v : Save) (l : List Scene) (s : State), up s = true ∧ (s.scn.save = some v ∧ v.copy = some l ∧ s.rb FALT.PFAIL_STAT_ASSERTED = false)) ∧
    (∃ (s : State), up s = true ∧ (s.scn.save = none ∨ s.rb FALT.PFAIL_STAT_ASSERTED = true)) ∧
    (∃ (set : Nat) (ok : Bool) (r : SnapRec) (t : State) (at_ : Nat) (ha : Nat) (nxt : Nat) (s : State), up s = true ∧ (s.met.recs.find? (fun r => r.set == set) = some r ∧ bg s.host.bmOff r.owner = false ∧ t = s.onMet (fun m => { m with recs := m.recs.erase r }) ∧ at_ = t.rd64 METR.RING_BASE_HI METR.RING_BASE_LO set + t.rd METR.HEAD_SLOT set * t.rd METR.SLOT_SIZE_BYTES set ∧ ha = t.rd64 METR.HEAD_ADDR_HI METR.HEAD_ADDR_LO set ∧ nxt = (t.rd METR.HEAD_SLOT set + 1) % t.rd METR.RING_SLOTS_SLOTS set ∧ ok = true ∧ t.dmaOk r.owner at_ r.bytes.length = true ∧ (ha ≠ 0 → t.dmaOk r.owner ha 4 = true) ∧ nxt ≠ t.rd METR.TAIL_SLOT set)) ∧
    (∃ (set : Nat) (r : SnapRec) (t : State) (s : State), up s = true ∧ (s.met.recs.find? (fun r => r.set == set) = some r ∧ bg s.host.bmOff r.owner = false ∧ t = s.onMet (fun m => { m with recs := m.recs.erase r }) ∧ t.dmaOk r.owner (t.rd64 METR.RING_BASE_HI METR.RING_BASE_LO set + t.rd METR.HEAD_SLOT set * t.rd METR.SLOT_SIZE_BYTES set) r.bytes.length = true ∧ (t.rd64 METR.HEAD_ADDR_HI METR.HEAD_ADDR_LO set ≠ 0 → t.dmaOk r.owner (t.rd64 METR.HEAD_ADDR_HI METR.HEAD_ADDR_LO set) 4 = true) ∧ (t.rd METR.HEAD_SLOT set + 1) % t.rd METR.RING_SLOTS_SLOTS set = t.rd METR.TAIL_SLOT set)) ∧
    (∃ (set : Nat) (r : SnapRec) (s : State), up s = true ∧ (s.met.recs.find? (fun r => r.set == set) = some r ∧ bg s.host.bmOff r.owner = false)) ∧
    (∃ (set : Nat) (ok : Bool) (s : State), up s = true ∧ (s.met.recs.find? (fun r => r.set == set) = none)) := by
  refine ⟨?_, ?_, ?_, ?_, ?_, ?_, ?_, ?_, ?_, ?_, ?_, ?_, ?_, ?_, ?_, ?_⟩
  · exact ⟨63, run.wr SIG.BANK_STAT_STATE bkRAMP (i := 63), by decide +kernel⟩
  · exact ⟨63, (cfg.wr SIG.BANK_STAT_STATE bkRAMP (i := 63)).wr64 SIG.TURN_IDX_HI SIG.TURN_IDX_LO 1 (i := 63), by decide +kernel⟩
  · exact ⟨63, run.wr SIG.BANK_STAT_STATE bkCOPY (i := 63), by decide +kernel⟩
  · exact ⟨63, (run.wr SIG.BANK_STAT_STATE bkCOPY (i := 63)).onScn (fun c => { c with drained := [(63, true)] }), by decide +kernel⟩
  · exact ⟨63, run.wr SIG.BANK_STAT_STATE bkRAMP (i := 63), by decide +kernel⟩
  · exact ⟨63, (run.wr SIG.BANK_STAT_STATE bkCOPY (i := 63)).onScn (fun c => { c with drained := [(63, true)] }), by decide +kernel⟩
  · exact ⟨63, (run.wr SIG.BANK_STAT_STATE bkLOAD (i := 63)).onScn (fun c => { c with drained := [(63, true)] }), by decide +kernel⟩
  · exact ⟨63, run.wr SIG.BANK_STAT_STATE bkHELD (i := 63), by decide +kernel⟩
  · exact ⟨63, scene0, 0, 9600000000, (run.wr SIG.BANK_STAT_STATE bkLOAD (i := 63)).onScn (fun c => { c with load := [(63, some (scene0, 0, 9600000000))] }), by decide +kernel⟩
  · exact ⟨63, scene0, 0, 9600000001, (run.wr SIG.BANK_STAT_STATE bkLOAD (i := 63)).onScn (fun c => { c with load := [(63, some (scene0, 0, 9600000001))] }), by decide +kernel⟩
  · exact ⟨⟨pf, 0, [], some [scene0]⟩, [scene0], cfg.onScn (fun c => { c with save := some ⟨pf, 0, [], some [scene0]⟩ }), by decide +kernel⟩
  · exact ⟨cfg, by decide +kernel⟩
  · exact ⟨15, true, ⟨15, 0, []⟩, snapped.onMet (fun m => { m with recs := m.recs.erase ⟨15, 0, []⟩ }), _, _, _, snapped, by decide +kernel, by decide +kernel, by decide +kernel, rfl, rfl, rfl, rfl, rfl, by decide +kernel⟩
  · exact ⟨15, ⟨15, 0, []⟩, snapFull.onMet (fun m => { m with recs := m.recs.erase ⟨15, 0, []⟩ }), snapFull, by decide +kernel, by decide +kernel, by decide +kernel, rfl, by decide +kernel⟩
  · exact ⟨15, ⟨15, 0, []⟩, snapped, by decide +kernel⟩
  · exact ⟨15, true, cfg, by decide +kernel⟩

theorem witness_ModesFollowTheirEvents :
    (∃ (s : State), (s.mode = mACQUIRE ∧ s.rb MODE.MODE_CTL_FREERUN_OK = true ∧ s.rd MODE.MODE_CTL_ACQ_TIMEOUT ≤ s.rw MODE.MODE_AGE ∧ s.md.endDue = none)) ∧
    (∃ (s : State), (s.mode ≠ mACQUIRE ∨ s.rb MODE.MODE_CTL_FREERUN_OK = false ∨ s.rw MODE.MODE_AGE < s.rd MODE.MODE_CTL_ACQ_TIMEOUT)) ∧
    (∃ (s : State), (s.prerollOver = true)) ∧
    (∃ (s : State), (s.prerollOver = false)) ∧
    (∃ (s : State), (32 ≤ s.md.hot ∧ thermFrom s.mode = true ∧ s.md.thermDue = false)) ∧
    (∃ (s : State), (s.md.hot < 32 ∨ thermFrom s.mode = false)) ∧
    (∃ (t : State) (s : State), (s.mode = mCONFIG ∧ s.md.startup = true ∧ t = (condNote (s.each s.flash.bootScenes bootScene)).onMd (fun m => { m with startup := false }) ∧ t.rb MODE.MODE_CTL_AUTO_START = true)) ∧
    (∃ (t : State) (s : State), (s.mode = mCONFIG ∧ s.md.startup = true ∧ t = (condNote (s.each s.flash.bootScenes bootScene)).onMd (fun m => { m with startup := false }) ∧ t.rb MODE.MODE_CTL_AUTO_START = false)) ∧
    (∃ (s : State), (s.mode = mRESET)) ∧
    (∃ (s : State), (s.mode ≠ mRESET)) ∧
    (∃ (s : State), (s.mode = mBOOT ∧ s.md.picked = none)) ∧
    (∃ (s : State), (s.mode ≠ mBOOT ∨ s.md.picked ≠ none)) ∧
    (∃ (ms : Nat) (sl : Nat) (s : State), (s.mode = mBOOT ∧ s.md.picked = some sl ∧ s.rb FALT.PFAIL_STAT_ASSERTED = false)) ∧
    (∃ (ms : Nat) (s : State), (s.mode ≠ mBOOT ∨ s.md.picked = none ∨ s.rb FALT.PFAIL_STAT_ASSERTED = true)) ∧
    (∃ (port : Nat) (frame : List Byte) (pat : Nat) (s : State), (s.mode = mSTANDBY ∧ port = s.md.wakePort ∧ s.wakePat frame = some pat)) ∧
    (∃ (port : Nat) (frame : List Byte) (s : State), (s.mode ≠ mSTANDBY ∨ port ≠ s.md.wakePort ∨ s.wakePat frame = none)) ∧
    (∃ (s : State) (l : List Byte) (pat : Nat), s.wakePat l = some pat) := by
  refine ⟨?_, ?_, ?_, ?_, ?_, ?_, ?_, ?_, ?_, ?_, ?_, ?_, ?_, ?_, ?_, ?_, ?_⟩
  · exact ⟨((inMode mACQUIRE).wb MODE.MODE_CTL_FREERUN_OK true).ww MODE.MODE_AGE 60, by decide +kernel⟩
  · exact ⟨cfg, by decide +kernel⟩
  · exact ⟨(inMode mPREROLL).onMd (fun m => { m with ticks := 3001, noSel := true }), by decide +kernel⟩
  · exact ⟨(inMode mPREROLL).onMd (fun m => { m with ticks := 3000, noSel := true }), by decide +kernel⟩
  · exact ⟨(inMode mRUN).onMd (fun m => { m with hot := 32 }), by decide +kernel⟩
  · exact ⟨(inMode mRUN).onMd (fun m => { m with hot := 31 }), by decide +kernel⟩
  · exact ⟨_, (cfg.wb MODE.MODE_CTL_AUTO_START true).onMd (fun m => { m with startup := true }), by decide +kernel, by decide +kernel, rfl, by decide +kernel⟩
  · exact ⟨_, (cfg.wb MODE.MODE_CTL_AUTO_START false).onMd (fun m => { m with startup := true }), by decide +kernel, by decide +kernel, rfl, by decide +kernel⟩
  · exact ⟨inMode mRESET, by decide +kernel⟩
  · exact ⟨State.reset, by decide +kernel⟩
  · exact ⟨State.reset, by decide +kernel⟩
  · exact ⟨cfg, by decide +kernel⟩
  · exact ⟨65535, 1, (inMode mBOOT).onMd (fun m => { m with picked := some 1 }), by decide +kernel⟩
  · exact ⟨65535, cfg, by decide +kernel⟩
  · exact ⟨3, wakeFrame, 3, asleep, by decide +kernel⟩
  · exact ⟨2, wakeFrame, asleep, by decide +kernel⟩
  · exact ⟨asleep, wakeFrame, 3, by decide +kernel⟩

theorem witness_MonitorsFollowTheirEvents :
    (∃ (rail : Nat) (s : State), rail ≤ 5 ∧ (3 ≤ s.mode ∧ bit (s.rd PWR.RAIL_STAT_EXC) rail = false)) ∧
    (∃ (rail : Nat) (s : State), rail ≤ 5 ∧ (3 ≤ s.mode ∧ bit (s.rd PWR.RAIL_STAT_EXC) rail = true)) ∧
    (∃ (b : Nat) (level : Nat) (s : State), b ≤ 15 ∧ level ≤ 3 ∧ (fbits (s.rw PWR.BANK_STAT) (2 * b + 1) (2 * b) ≠ level)) ∧
    (∃ (b : Nat) (level : Nat) (s : State), (fbits (s.rw PWR.BANK_STAT) (2 * b + 1) (2 * b) = level)) ∧
    (∃ (s : State), (s.rb FALT.PFAIL_STAT_ASSERTED = false ∧ s.bankUp 0 = true)) ∧
    (∃ (s : State), (s.rb FALT.PFAIL_STAT_ASSERTED = true ∨ s.bankUp 0 = false)) ∧
    (∃ (r : List Byte) (s : State), (s.flt.lw = some r ∧ s.flash.lwFree ≠ 0)) ∧
    (∃ (s : State), (s.flt.lw = none ∨ s.flash.lwFree = 0)) ∧
    (∃ (us : Nat) (t : State) (u : State) (s : State), (s.rb FALT.PFAIL_STAT_ASSERTED = true ∧ t = ((flashGoOn ((s.wb FALT.PFAIL_STAT_ASSERTED false).wb FALT.PFAIL_STAT_GLITCH true)).raise 0x20 4 fnsAll).err 0x0701 0x20 0 us 0 ∧ u = (if s.rb FALT.PFAIL_STAT_LW_DONE = true ∧ t.flt.lw = none then t.onFlash (fun f => { f with lw := f.lw.dropLast ++ (f.lw.drop (f.lw.length - 1)).map (fun e => (e.1, true)) }) else t))) ∧
    (∃ (us : Nat) (s : State), (s.rb FALT.PFAIL_STAT_ASSERTED = false)) ∧
    (∃ (s : State), up s = true ∧ (s.fwUp = true ∧ s.flt.kickAt + 96 * s.rd FALT.WDT_CTL_TIMEOUT ≤ s.clock)) ∧
    (∃ (s : State), up s = true ∧ (s.fwUp = false ∨ s.clock < s.flt.kickAt + 96 * s.rd FALT.WDT_CTL_TIMEOUT)) ∧
    (∃ (sram : Bool) (s : State), up s = true) ∧
    (∃ s : State, s.rb FALT.MGMT_STAT_HALT = true) ∧
    (∃ (s : State) (t0 : Nat), s.rb FALT.MGMT_STAT_HALT = false ∧ s.flt.restarts.length = 3 ∧ s.flt.restarts.headD 0 = t0 ∧ s.clock < t0 + 5760000) ∧
    (∃ s : State, s.rb FALT.MGMT_STAT_HALT = false ∧ s.flt.restarts.length < 3) ∧
    (∃ (s : State), up s = true ∧ (s.rb FALT.MGMT_STAT_RECOVERING = true)) ∧
    (∃ (s : State), up s = true ∧ (s.rb FALT.MGMT_STAT_RECOVERING = false)) ∧
    (∃ (r : ErrRec) (l : List ErrRec) (s : State), up s = true ∧ (s.cmdUp = true ∧ s.flt.flushAt + 96000 ≤ s.clock ∧ s.unflushed = r :: l)) ∧
    (∃ (s : State), up s = true ∧ (s.cmdUp = true ∧ s.flt.flushAt + 96000 ≤ s.clock ∧ s.unflushed = [])) ∧
    (∃ (s : State), up s = true ∧ (s.cmdUp = false ∨ s.clock < s.flt.flushAt + 96000)) ∧
    (∃ (x : ScrubIn) (s : State), up s = true) ∧
    (∃ (g : Nat) (b : Nat) (node : Nat) (addr : Nat) (ok : Bool) (t : Nat) (s : State), g ≤ 64 ∧ b ≤ 1 ∧ up s = true ∧ (s.banksOf g = some t ∧ s.mapBit t (node / 4) = false)) ∧
    (∃ (g : Nat) (b : Nat) (node : Nat) (addr : Nat) (t : Nat) (s : State), g ≤ 64 ∧ b ≤ 1 ∧ up s = true ∧ (s.banksOf g = some t ∧ s.mapBit t (node / 4) = true)) ∧
    (∃ (g : Nat) (b : Nat) (node : Nat) (addr : Nat) (t : Nat) (s : State), g < 64 ∧ b ≤ 1 ∧ up s = true ∧ (s.banksOf g = some t ∧ s.mapBit t (node / 4) = true ∧ (memLost (0x40 + g) 0 addr (64 * t + node / 4096) ((memUncorr 0 s).cntr SIG.RECOMPUTES (i := g))).inService g = true)) ∧
    (∃ (i : Nat) (c : Nat) (addr : Nat) (s : State), up s = true) ∧
    (∃ (i : Nat) (c : Nat) (addr : Nat) (s : State), up s = true) ∧
    (∃ (o : Nat) (n : Nat) (addr : Nat) (s : State), up s = true) ∧
    (∃ (o : Nat) (n : Nat) (addr : Nat) (s : State), up s = true) ∧
    (∃ (pos : Nat) (addr : Nat) (s : State), up s = true) ∧
    (∃ (pos : Nat) (addr : Nat) (e : Edit) (s : State), up s = true ∧ ((memLost 0x20 3 addr noXout (memUncorr 3 s)).scn.fifo[pos]? = some e)) ∧
    (∃ (addr : Nat) (s : State), up s = true) ∧
    (∃ (addr : Nat) (s : State), up s = true) ∧
    (∃ (port : Nat) (pos : Nat) (addr : Nat) (ok : Bool) (s : State), port < 4 ∧ up s = true) ∧
    (∃ (port : Nat) (k : Nat) (pos : Nat) (addr : Nat) (ok : Bool) (f : TxFrame) (i : Nat) (leg : Nat) (due : Nat) (s : State), up s = true ∧ (((memUncorr 5 s).txList (16 * port + k))[pos]? = some f ∧ f.kind = .audio i leg due)) ∧
    (∃ (addr : Nat) (s : State), up s = true) ∧
    (∃ (addr : Nat) (s : State), up s = true) ∧
    (∃ (m : MemAt) (addr : Nat) (ok : Bool) (s : State), up s = true) := by
  refine ⟨?_, ?_, ?_, ?_, ?_, ?_, ?_, ?_, ?_, ?_, ?_, ?_, ?_, ?_, ?_, ?_, ?_, ?_, ?_, ?_, ?_, ?_, ?_, ?_, ?_, ?_, ?_, ?_, ?_, ?_, ?_, ?_, ?_, ?_, ?_, ?_, ?_, ?_⟩
  · exact ⟨5, cfg.wr PWR.RAIL_STAT_OK 0x3F, by decide +kernel⟩
  · exact ⟨5, cfg.wr PWR.RAIL_STAT_EXC 0x3F, by decide +kernel⟩
  · exact ⟨15, 3, cfg.ww PWR.BANK_STAT 0, by decide +kernel⟩
  · exact ⟨15, 3, banked, by decide +kernel⟩
  · exact ⟨banked, by decide +kernel⟩
  · exact ⟨cfg.wb FALT.PFAIL_STAT_ASSERTED true, by decide +kernel⟩
  · exact ⟨[1], (cfg.onFlt (fun f => { f with lw := some [1] })).onFlash (fun f => { f with lwFree := 15 }), by decide +kernel⟩
  · exact ⟨cfg, by decide +kernel⟩
  · exact ⟨9, _, _, cfg.wb FALT.PFAIL_STAT_ASSERTED true, by decide +kernel, rfl, rfl⟩
  · exact ⟨1, cfg, by decide +kernel⟩
  · exact ⟨run, by decide +kernel⟩
  · exact ⟨cfg.onFlt (fun f => { f with kickAt := 1 }), by decide +kernel⟩
  · exact ⟨true, cfg, by decide +kernel⟩
  · exact ⟨cfg.wb FALT.MGMT_STAT_HALT true, by decide +kernel⟩
  · exact ⟨cfg.onFlt (fun f => { f with restarts := [0, 1, 2] }), 0, by decide +kernel⟩
  · exact ⟨cfg.onFlt (fun f => { f with restarts := [0, 1] }), by decide +kernel⟩
  · exact ⟨cfg.wb FALT.MGMT_STAT_RECOVERING true, by decide +kernel⟩
  · exact ⟨cfg, by decide +kernel⟩
  · exact ⟨rec0, [], run.onFlt (fun f => { f with recent := [rec0] }), by decide +kernel⟩
  · exact ⟨run, by decide +kernel⟩
  · exact ⟨cfg, by decide +kernel⟩
  · exact ⟨⟨[], [], false⟩, cfg, by decide +kernel⟩
  · exact ⟨64, 1, 262143, 1, true, 63, (cfg.wr SIG.FLT_STAT_STATE gdREPLACING (i := 64)).wr SIG.FLT_STAT_TARGET 63 (i := 64), by decide +kernel⟩
  · exact ⟨63, 1, 0, 1, 63, cfg.onScn (fun c => { c with banks := [(126, [(0, 7)])] }), by decide +kernel⟩
  · exact ⟨63, 1, 0, 1, 63, cfg.onScn (fun c => { c with banks := [(126, [(0, 7)])] }), by decide +kernel⟩
  · exact ⟨1023, 0, 1, cfg, by decide +kernel⟩
  · exact ⟨1023, 0, 1, cfg, by decide +kernel⟩
  · exact ⟨4095, 0, 1, cfg, by decide +kernel⟩
  · exact ⟨4095, 0, 1, cfg, by decide +kernel⟩
  · exact ⟨0, 1, cfg, by decide +kernel⟩
  · exact ⟨0, 1, ⟨7, 63, 0, 1⟩, cfg.onScn (fun c => { c with fifo := [⟨7, 63, 0, 1⟩] }), by decide +kernel⟩
  · exact ⟨1, cfg, by decide +kernel⟩
  · exact ⟨1, cfg, by decide +kernel⟩
  · exact ⟨3, 0, 1, true, cfg, by decide +kernel⟩
  · exact ⟨3, 15, 0, 1, true, ⟨.audio 1023 1 0, 68, [], false, none⟩, 1023, 1, 0, cfg.onNet (fun n => { n with txq := [(63, [⟨.audio 1023 1 0, 68, [], false, none⟩])] }), by decide +kernel⟩
  · exact ⟨1, cfg, by decide +kernel⟩
  · exact ⟨1, cfg, by decide +kernel⟩
  · exact ⟨.twice, 1, true, cfg, by decide +kernel⟩

theorem witness_GuardFollowsItsEvents :
    (∃ (g : Nat) (s : State), up s = true ∧ (s.guardOf = g ∧ s.guard = gdLOADING ∧ s.flt.tip = none ∧ s.flt.loadAt + 5 ≤ s.clock)) ∧
    (∃ (g : Nat) (s : State), up s = true ∧ (s.guardOf = g ∧ s.guard = gdREPLACING ∧ s.sigFlt g = sfRETURNING ∧ s.flt.tip = none ∧ s.flt.loadAt + 5 ≤ s.clock)) ∧
    (∃ (s : State), up s = true ∧ ((s.guard = gdLOADING ∨ (s.guard = gdREPLACING ∧ s.sigFlt s.guardOf = sfRETURNING)) ∧ s.flt.tip = none ∧ s.flt.loadAt + 5 ≤ s.clock)) ∧
    (∃ (ok : Bool) (s : State), up s = true ∧ (s.clock < s.flt.loadAt + 5 ∨ s.flt.tip ≠ none ∨ (s.guard ≠ gdLOADING ∧ (s.guard ≠ gdREPLACING ∨ s.sigFlt s.guardOf ≠ sfRETURNING)))) ∧
    (∃ (s : State), up s = true ∧ (s.guard = gdPATROL ∧ s.flt.tip = none ∧ s.flt.dwellAt + 2048 ≤ s.clock ∧ s.guardOf ≠ 63)) ∧
    (∃ (s : State), up s = true ∧ (s.guard = gdPATROL ∧ s.flt.tip = none ∧ s.flt.dwellAt + 2048 ≤ s.clock ∧ s.guardOf = 63)) ∧
    (∃ (s : State), up s = true ∧ (s.guard ≠ gdPATROL ∨ s.flt.tip ≠ none ∨ s.clock < s.flt.dwellAt + 2048)) ∧
    (∃ (g : Nat) (s : State), g ≤ 63 ∧ up s = true ∧ (s.sigFlt g = sfREPLACED)) ∧
    (∃ (g : Nat) (s : State), g ≤ 63 ∧ up s = true ∧ (s.sigFlt g = sfREPLACED)) ∧
    (∃ (g : Nat) (ok : Bool) (s : State), up s = true ∧ (s.sigFlt g ≠ sfREPLACED)) := by
  refine ⟨?_, ?_, ?_, ?_, ?_, ?_, ?_, ?_, ?_, ?_⟩
  · exact ⟨63, (run.wr SIG.FLT_STAT_STATE gdLOADING (i := 64)).wr SIG.FLT_STAT_TARGET 63 (i := 64), by decide +kernel⟩
  · exact ⟨63, ((run.wr SIG.FLT_STAT_STATE gdREPLACING (i := 64)).wr SIG.FLT_STAT_TARGET 63 (i := 64)).wr SIG.FLT_STAT_STATE sfRETURNING (i := 63), by decide +kernel⟩
  · exact ⟨run.wr SIG.FLT_STAT_STATE gdLOADING (i := 64), by decide +kernel⟩
  · exact ⟨true, cfg, by decide +kernel⟩
  · exact ⟨run.wr SIG.FLT_STAT_STATE gdPATROL (i := 64), by decide +kernel⟩
  · exact ⟨(run.wr SIG.FLT_STAT_STATE gdPATROL (i := 64)).wr SIG.FLT_STAT_TARGET 63 (i := 64), by decide +kernel⟩
  · exact ⟨cfg.wr SIG.FLT_STAT_STATE gdIDLE (i := 64), by decide +kernel⟩
  · exact ⟨63, cfg.wr SIG.FLT_STAT_STATE sfREPLACED (i := 63), by decide +kernel⟩
  · exact ⟨63, cfg.wr SIG.FLT_STAT_STATE sfREPLACED (i := 63), by decide +kernel⟩
  · exact ⟨63, true, cfg, by decide +kernel⟩

theorem witness_FunctionsFollowTheirEvents :
    (∃ (fn : Nat) (s : State), 0 < fn ∧ fn < 8 ∧ (s.tenant fn = 0)) ∧
    (∃ (fn : Nat) (s : State), 0 < fn ∧ fn < 8 ∧ (s.tenant fn ≠ 0)) ∧
    (∃ (fn : Nat) (s : State), 7 < fn) ∧
    (∃ (fn : Nat) (s : State), 0 < fn ∧ (bg s.host.inFlr fn = true)) ∧
    (∃ (fn : Nat) (s : State), (fn = 0 ∨ bg s.host.inFlr fn = false)) ∧
    (∃ (fn : Nat) (s : State), fn < 8) ∧
    (∃ (fn : Nat) (st : Nat) (s : State), up s = true ∧ (og s.host.rampOut fn = some st ∧ st + 256 ≤ s.tim.sample + 1)) ∧
    (∃ (fn : Nat) (st : Nat) (s : State), up s = true ∧ (og s.host.rampOut fn = some st ∧ s.tim.sample + 1 < st + 256)) ∧
    (∃ (fn : Nat) (s : State), up s = true ∧ (og s.host.rampOut fn = none)) ∧
    (∃ (fn : Nat) (s : State), up s = true) := by
  refine ⟨?_, ?_, ?_, ?_, ?_, ?_, ?_, ?_, ?_, ?_⟩
  · exact ⟨7, cfg, by decide +kernel⟩
  · exact ⟨7, act 7 cfg, by decide +kernel⟩
  · exact ⟨8, cfg, by decide +kernel⟩
  · exact ⟨7, cfg.onHost (fun h => { h with inFlr := [(7, true)] }), by decide +kernel⟩
  · exact ⟨7, cfg, by decide +kernel⟩
  · exact ⟨7, cfg, by decide +kernel⟩
  · exact ⟨7, 0, run.onHost (fun h => { h with rampOut := [(7, some 0)] }), by decide +kernel⟩
  · exact ⟨7, 9600000000, run.onHost (fun h => { h with rampOut := [(7, some 9600000000)] }), by decide +kernel⟩
  · exact ⟨7, cfg, by decide +kernel⟩
  · exact ⟨7, cfg, by decide +kernel⟩

theorem witness_RingsFollowTheirEvents :
    (∃ (x : SubEntry) (s : State), up s = true ∧ (s.cmdUp = false ∨ (s.cmd.round ++ fetchRound).dropWhile (fun f => !s.fnReady f) = [])) ∧
    (∃ (x : SubEntry) (fn : Nat) (r : Nat) (rest : List Nat) (k : Nat) (s : State), opcodeKnown x.opcode = true ∧ k = rk fn r ∧ up s = true ∧ (s.cmdUp = true ∧ (s.cmd.round ++ fetchRound).dropWhile (fun f => !s.fnReady f) = fn :: rest ∧ s.ringFor fn = some r ∧ s.dmaOk fn (s.rd64 CMDQ.SQ_BASE_HI CMDQ.SQ_BASE_LO k + 64 * s.rd CMDQ.SQ_HEAD_IDX k) 64 = true ∧ (x.ordered = true → s.startedIn fn r = 0) ∧ (32 < x.paramLen → x.paramLen ≤ 65536 → s.dmaOk fn x.paramAddr x.paramLen = true))) ∧
    (∃ (x : SubEntry) (fn : Nat) (r : Nat) (rest : List Nat) (k : Nat) (s : State), opcodeKnown x.opcode = false ∧ k = rk fn r ∧ up s = true ∧ (s.cmdUp = true ∧ (s.cmd.round ++ fetchRound).dropWhile (fun f => !s.fnReady f) = fn :: rest ∧ s.ringFor fn = some r ∧ s.dmaOk fn (s.rd64 CMDQ.SQ_BASE_HI CMDQ.SQ_BASE_LO k + 64 * s.rd CMDQ.SQ_HEAD_IDX k) 64 = true ∧ (x.ordered = true → s.startedIn fn r = 0) ∧ (32 < x.paramLen → x.paramLen ≤ 65536 → s.dmaOk fn x.paramAddr x.paramLen = true))) ∧
    (∃ (x : SubEntry) (fn : Nat) (r : Nat) (rest : List Nat) (k : Nat) (s : State), k = rk fn r ∧ up s = true ∧ (s.cmdUp = true ∧ (s.cmd.round ++ fetchRound).dropWhile (fun f => !s.fnReady f) = fn :: rest ∧ s.ringFor fn = some r ∧ s.dmaOk fn (s.rd64 CMDQ.SQ_BASE_HI CMDQ.SQ_BASE_LO k + 64 * s.rd CMDQ.SQ_HEAD_IDX k) 64 = false)) ∧
    (∃ (x : SubEntry) (fn : Nat) (r : Nat) (rest : List Nat) (k : Nat) (s : State), x.ordered = true ∧ k = rk fn r ∧ up s = true ∧ (s.cmdUp = true ∧ (s.cmd.round ++ fetchRound).dropWhile (fun f => !s.fnReady f) = fn :: rest ∧ s.ringFor fn = some r ∧ s.dmaOk fn (s.rd64 CMDQ.SQ_BASE_HI CMDQ.SQ_BASE_LO k + 64 * s.rd CMDQ.SQ_HEAD_IDX k) 64 = true ∧ 0 < s.startedIn fn r)) ∧
    (∃ (fn : Nat) (r : Nat) (us : Nat) (s : State), fn < 8 ∧ r < 8 ∧ up s = true ∧ (ng s.host.coal (rk fn r) ≠ 0 ∧ (s.rd CMDQ.CQ_CTL_COAL_N (rk fn r) ≤ ng s.host.coal (rk fn r) ∨ s.rd CMDQ.CQ_CTL_COAL_US (rk fn r) ≤ us))) ∧
    (∃ (fn : Nat) (r : Nat) (us : Nat) (s : State), up s = true ∧ (ng s.host.coal (rk fn r) = 0 ∨ (ng s.host.coal (rk fn r) < s.rd CMDQ.CQ_CTL_COAL_N (rk fn r) ∧ us < s.rd CMDQ.CQ_CTL_COAL_US (rk fn r)))) ∧
    (∃ (fn : Nat) (r : Nat) (cause : Nat) (s : State), fn < 8 ∧ r < 8 ∧ 0 < cause ∧ cause ≤ 4 ∧ up s = true ∧ (s.rd CMDQ.CQ_STAT_STATE (rk fn r) = 1)) ∧
    (∃ (fn : Nat) (r : Nat) (cause : Nat) (s : State), up s = true ∧ (s.rd CMDQ.CQ_STAT_STATE (rk fn r) ≠ 1)) ∧
    (∃ (fn : Nat) (q : Nat) (s : State), fn < 8 ∧ q < 16 ∧ up s = true ∧ (s.ringRuns (rk fn q) = true)) ∧
    (∃ (fn : Nat) (r : Nat) (s : State), fn < 8 ∧ r < 8 ∧ up s = true ∧ (s.rd CMDQ.CQ_STAT_STATE (rk fn r) = 1)) ∧
    (∃ (fn : Nat) (q : Nat) (s : State), up s = true ∧ (s.ringRuns (rk fn q) = false)) ∧
    (∃ (fn : Nat) (v : Nat) (t : List (Nat × Nat)) (s : State), up s = true ∧ (s.host.msiDue = (fn, v) :: t ∧ bg s.host.msiOpen (64 * fn + v) = true)) ∧
    (∃ (fn : Nat) (v : Nat) (t : List (Nat × Nat)) (s : State), up s = true ∧ (s.host.msiDue = (fn, v) :: t ∧ bg s.host.msiOpen (64 * fn + v) = false)) ∧
    (∃ (s : State), up s = true ∧ (s.host.msiDue = [])) ∧
    (∃ (fn : Nat) (v : Nat) (s : State), fn < 8 ∧ v ≤ 63 ∧ up s = true ∧ (bg s.host.msiPend (64 * fn + v) = true)) ∧
    (∃ (fn : Nat) (v : Nat) (s : State), fn < 8 ∧ v ≤ 63 ∧ up s = true ∧ (bg s.host.msiPend (64 * fn + v) = false)) ∧
    (∃ (fn : Nat) (q : Nat) (d : DescIn) (s : State), up s = true ∧ (s.ringRuns (rk fn q) = false ∨ s.rd HOST.HEAD_IDX (rk fn q) = ng s.host.dmaTail (rk fn q))) ∧
    (∃ (fn : Nat) (q : Nat) (d : DescIn) (s : State), fn < 8 ∧ q < 16 ∧ up s = true ∧ (s.ringRuns (rk fn q) = true ∧ s.rd HOST.HEAD_IDX (rk fn q) ≠ ng s.host.dmaTail (rk fn q) ∧ s.dmaOk fn (s.rd64 HOST.BASE_HI HOST.BASE_LO (rk fn q) + 32 * s.rd HOST.HEAD_IDX (rk fn q)) 32 = false)) ∧
    (∃ (fn : Nat) (q : Nat) (d : DescIn) (u : State) (kd : Nat) (serve : Nat) (s : State), fn < 8 ∧ q < 16 ∧ up s = true ∧ (let k := rk fn q; s.ringRuns k = true ∧ s.rd HOST.HEAD_IDX k ≠ ng s.host.dmaTail k ∧ s.ringKind k = kd ∧ s.dmaOk fn (s.rd64 HOST.BASE_HI HOST.BASE_LO k + 32 * s.rd HOST.HEAD_IDX k) 32 = true ∧ serve = (if isAudio kd then s.startTick k + ng s.host.fetched k else 0) ∧ u = (s.wr HOST.HEAD_IDX ((s.rd HOST.HEAD_IDX k + 1) % s.rd HOST.SIZE_N k) k).onHost (fun h => { h with fetched := ns h.fetched k (ng s.host.fetched k + 1) }))) ∧
    (∃ (fn : Nat) (q : Nat) (ws : List Nat) (d : Desc) (l : List Desc) (s : State), fn < 8 ∧ q < 16 ∧ up s = true ∧ (s.descList (rk fn q) = d :: l ∧ s.ringRuns (rk fn q) = true ∧ s.ringKind (rk fn q) = kPB ∧ d.st = stOK ∧ d.serve = s.tick + 1 ∧ ws.length = 32 * (s.ringChans fn q (s.tick + 1)).length ∧ s.blockBytes fn q (s.tick + 1) ≤ s.offered fn d ∧ s.bufDma fn d (s.blockBytes fn q (s.tick + 1)) = true)) ∧
    (∃ (fn : Nat) (q : Nat) (ws : List Nat) (s : State), up s = true ∧ (s.descList (rk fn q) = [] ∨ s.ringRuns (rk fn q) = false)) ∧
    (∃ (fn : Nat) (q : Nat) (ws : List Int) (d : Desc) (l : List Desc) (t : State) (s : State), fn < 8 ∧ q < 16 ∧ up s = true ∧ (s.descList (rk fn q) = d :: l ∧ og s.host.capLast (rk fn q) = some ws ∧ s.ringKind (rk fn q) = kCAP ∧ s.ringState (rk fn q) ≠ rsERROR ∧ d.st = stOK ∧ d.serve + 1 = s.tick ∧ t = s.onHost (fun h => { h with capLast := os h.capLast (rk fn q) none }) ∧ ws.length * packBytes (s.rd HOST.RING_CTL_PACK (rk fn q)) ≤ t.offered fn d ∧ t.bufDma fn d (ws.length * packBytes (s.rd HOST.RING_CTL_PACK (rk fn q))) = true)) ∧
    (∃ (fn : Nat) (q : Nat) (s : State), up s = true ∧ (og s.host.capLast (rk fn q) = none)) := by
  refine ⟨?_, ?_, ?_, ?_, ?_, ?_, ?_, ?_, ?_, ?_, ?_, ?_, ?_, ?_, ?_, ?_, ?_, ?_, ?_, ?_, ?_, ?_, ?_, ?_⟩
  · exact ⟨sub0, cfg.wb FALT.MGMT_STAT_HALT true, by decide +kernel⟩
  · exact ⟨sub0, 0, 0, [0, 1, 2, 3, 4, 5, 6, 7], rk 0 0, (cfg.wr CMDQ.CQ_STAT_STATE 1 (rk 0 0)).onHost (fun h => { h with sqTail := [(rk 0 0, 1)] }), by decide +kernel⟩
  · exact ⟨{ sub0 with opcode := 0xFFFF }, 0, 0, [0, 1, 2, 3, 4, 5, 6, 7], rk 0 0, (cfg.wr CMDQ.CQ_STAT_STATE 1 (rk 0 0)).onHost (fun h => { h with sqTail := [(rk 0 0, 1)] }), by decide +kernel⟩
  · exact ⟨sub0, 0, 0, [0, 1, 2, 3, 4, 5, 6, 7], rk 0 0, ((cfg.wr CMDQ.CQ_STAT_STATE 1 (rk 0 0)).onHost (fun h => { h with sqTail := [(rk 0 0, 1)] })).wr64 TNT.DMA_WIN_LIMIT_HI TNT.DMA_WIN_LIMIT_LO 1 (i := 0), by decide +kernel⟩
  · exact ⟨{ sub0 with ordered := true }, 0, 0, [0, 1, 2, 3, 4, 5, 6, 7], rk 0 0, ((cfg.wr CMDQ.CQ_STAT_STATE 1 (rk 0 0)).onHost (fun h => { h with sqTail := [(rk 0 0, 1)] })).onCmd (fun c => { c with started := [⟨0, 0, sub0⟩] }), by decide +kernel⟩
  · exact ⟨7, 7, 0, cfg.onHost (fun h => { h with coal := [(rk 7 7, 1)] }), by decide +kernel⟩
  · exact ⟨7, 7, 0, cfg, by decide +kernel⟩
  · exact ⟨7, 7, 4, cqOn 7 7, by decide +kernel⟩
  · exact ⟨7, 7, 4, cfg, by decide +kernel⟩
  · exact ⟨7, 15, ringRun 7 15 kTX (desc0 0) cfg, by decide +kernel⟩
  · exact ⟨7, 7, cqOn 7 7, by decide +kernel⟩
  · exact ⟨7, 15, cfg, by decide +kernel⟩
  · exact ⟨7, 63, [], cfg.onHost (fun h => { h with msiDue := [(7, 63)], msiOpen := [(511, true)] }), by decide +kernel⟩
  · exact ⟨7, 63, [], cfg.onHost (fun h => { h with msiDue := [(7, 63)] }), by decide +kernel⟩
  · exact ⟨cfg, by decide +kernel⟩
  · exact ⟨7, 63, cfg.onHost (fun h => { h with msiPend := [(511, true)] }), by decide +kernel⟩
  · exact ⟨7, 63, cfg, by decide +kernel⟩
  · exact ⟨7, 15, ⟨65536, 64, false, false, []⟩, cfg, by decide +kernel⟩
  · exact ⟨7, 15, ⟨65536, 64, false, false, []⟩, ((ringRun 7 15 kRX (desc0 0) run).onHost (fun h => { h with dmaTail := [(rk 7 15, 1)] })).wr64 TNT.DMA_WIN_LIMIT_HI TNT.DMA_WIN_LIMIT_LO 1 (i := 7), by decide +kernel⟩
  · exact ⟨7, 15, ⟨65536, 64, false, false, []⟩, _, kRX, _, (ringRun 7 15 kRX (desc0 0) run).onHost (fun h => { h with dmaTail := [(rk 7 15, 1)] }), by decide, by decide, by decide +kernel, by decide +kernel, by decide +kernel, by decide +kernel, by decide +kernel, rfl, rfl⟩
  · exact ⟨7, 15, [], desc0 300000001, [], ringRun 7 15 kPB (desc0 300000001) run, by decide +kernel⟩
  · exact ⟨7, 15, [], cfg, by decide +kernel⟩
  · exact ⟨7, 15, [], desc0 299999999, [], _, (ringRun 7 15 kCAP (desc0 299999999) run).onHost (fun h => { h with capLast := [(rk 7 15, some [])] }), by decide, by decide, by decide +kernel, by decide +kernel, by decide +kernel, by decide +kernel, by decide +kernel, by decide, by decide +kernel, rfl, by decide +kernel, by decide +kernel⟩
  · exact ⟨7, 15, cfg, by decide +kernel⟩

theorem witness_SpiTransactionsAct :
    (∃ (g : Nat) (ofs : Nat) (ws : List Nat) (s : State), ofs < 2 ^ 24 ∧ (s.spiOn = true ∧ s.recovery = false)) ∧
    (∃ (g : Nat) (ofs : Nat) (ws : List Nat) (s : State), (s.spiOn = true ∧ (s.recovery = true ∨ 2 ^ 24 ≤ ofs))) ∧
    (∃ (ofs : Nat) (n : Nat) (s : State), ofs < 2 ^ 24 ∧ 1 ≤ n ∧ n ≤ 1024 ∧ (s.spiOn = true ∧ s.recovery = false)) ∧
    (∃ (ofs : Nat) (n : Nat) (s : State), (s.spiOn = true ∧ (s.recovery = true ∨ 2 ^ 24 ≤ ofs ∨ n = 0 ∨ 1024 < n))) ∧
    (∃ (s : State), (s.spiOn = true)) ∧
    ((∃ (b : List Byte) (s : State), 16 ≤ b.length ∧ b.length ≤ 65552 ∧ opcodeKnown (leNat (b.take 2)) = true ∧ s.spiOn = true ∧ s.recovery = false ∧ 3 ≤ s.mode ∧ s.fwUp = true ∧ s.cmd.spiQ < 64) ∧
    (∃ (b : List Byte) (s : State), 16 ≤ b.length ∧ b.length ≤ 65552 ∧ opcodeKnown (leNat (b.take 2)) = false ∧ s.spiOn = true ∧ s.recovery = false ∧ 3 ≤ s.mode ∧ s.fwUp = true ∧ s.cmd.spiQ < 64 ∧ s.spiPlace = true) ∧
    (∃ (b : List Byte) (s : State), 16 ≤ b.length ∧ b.length ≤ 65552 ∧ opcodeKnown (leNat (b.take 2)) = false ∧ s.spiOn = true ∧ s.recovery = false ∧ 3 ≤ s.mode ∧ s.fwUp = true ∧ s.cmd.spiQ < 64 ∧ s.spiPlace = false) ∧
    (∃ s : State, s.spiOn = true ∧ s.recovery = false ∧ 3 ≤ s.mode ∧ (s.fwUp = false ∨ 64 ≤ s.cmd.spiQ) ∧ s.spiPlace = true) ∧
    (∃ s : State, s.spiOn = true ∧ s.recovery = false ∧ (s.mode < 3 ∨ ((s.fwUp = false ∨ 64 ≤ s.cmd.spiQ) ∧ s.spiPlace = false)))) ∧
    (∃ (b : List Byte) (s : State), (s.spiOn = true ∧ (s.recovery = true ∨ b.length < 16 ∨ 65552 < b.length))) ∧
    (∃ (c : Completion) (l : List Completion) (s : State), (s.spiOn = true ∧ s.recovery = false ∧ s.cmd.spi = c :: l)) ∧
    (∃ (s : State), (s.spiOn = true ∧ s.recovery = false ∧ s.cmd.spi = [])) ∧
    (∃ (s : State), (s.spiOn = true ∧ s.recovery = false ∧ s.cmd.spiBad = [])) ∧
    (∃ (e : Env) (t : List Env) (s : State), (s.spiOn = true ∧ s.recovery = false ∧ s.cmd.spiBad = e :: t ∧ (s.cmd.spi.drop 1).length + s.cmd.spiRun < 64)) ∧
    (∃ (s : State), (s.spiOn = true ∧ s.recovery = true)) ∧
    (∃ (s : State), (s.spiOn = true ∧ s.recovery = true)) ∧
    (∃ (ofs : Nat) (d : List Byte) (s : State), ofs % 256 = 0 ∧ 256 ≤ d.length ∧ d.length ≤ 4096 ∧ d.length % 256 = 0 ∧ ofs + d.length ≤ 2 ^ 24 ∧ (s.spiOn = true ∧ s.recovery = true)) ∧
    (∃ (ofs : Nat) (d : List Byte) (s : State), (s.spiOn = true ∧ (s.recovery = false ∨ ofs % 256 ≠ 0 ∨ d.length < 256 ∨ 4096 < d.length ∨ d.length % 256 ≠ 0 ∨ 2 ^ 24 < ofs + d.length))) ∧
    (∃ (len : Nat) (s : State), 2 ^ 24 < len ∧ (s.spiOn = true ∧ s.recovery = true)) ∧
    (∃ (len : Nat) (s : State), len ≤ 2 ^ 24 ∧ (s.spiOn = true ∧ s.recovery = true)) ∧
    (∃ (len : Nat) (s : State), (s.spiOn = true ∧ s.recovery = false)) ∧
    (∃ (s : State), (s.spiOn = true)) ∧
    (∃ (s : State), (s.spiOn = true)) ∧
    (∃ s : State, s.spiOn = false) := by
  refine ⟨?_, ?_, ?_, ?_, ?_, ?_, ?_, ?_, ?_, ?_, ?_, ?_, ?_, ?_, ?_, ?_, ?_, ?_, ?_, ?_, ?_⟩
  · exact ⟨0, 2 ^ 24 - 1, [0], banked, by decide +kernel⟩
  · exact ⟨0, 2 ^ 24, [0], banked, by decide +kernel⟩
  · exact ⟨2 ^ 24 - 1, 1024, banked, by decide +kernel⟩
  · exact ⟨2 ^ 24, 1024, banked, by decide +kernel⟩
  · exact ⟨banked, by decide +kernel⟩
  · exact ⟨⟨cmdBytes, banked, by decide +kernel⟩, ⟨List.replicate 16 255, banked, by decide +kernel⟩,
          ⟨List.replicate 16 255, banked.onCmd (fun c => { c with spiRun := 64 }), by decide +kernel⟩,
          ⟨banked.onCmd (fun c => { c with spiQ := 64 }), by decide +kernel⟩,
          ⟨banked.onCmd (fun c => { c with spiQ := 64, spiRun := 64 }), by decide +kernel⟩⟩
  · exact ⟨List.replicate 15 0, banked, by decide +kernel⟩
  · exact ⟨cpl0, [], banked.onCmd (fun c => { c with spi := [cpl0] }), by decide +kernel⟩
  · exact ⟨banked, by decide +kernel⟩
  · exact ⟨banked, by decide +kernel⟩
  · exact ⟨pf, [], banked.onCmd (fun c => { c with spiBad := [pf] }), by decide +kernel⟩
  · exact ⟨recov, by decide +kernel⟩
  · exact ⟨recov, by decide +kernel⟩
  · exact ⟨0, List.replicate 4096 0, recov, by decide +kernel⟩
  · exact ⟨0, List.replicate 4096 0, banked, by decide +kernel⟩
  · exact ⟨2 ^ 24 + 1, recov, by decide +kernel⟩
  · exact ⟨2 ^ 24, recov, by decide +kernel⟩
  · exact ⟨0, banked, by decide +kernel⟩
  · exact ⟨banked, by decide +kernel⟩
  · exact ⟨banked, by decide +kernel⟩
  · exact ⟨banked.wb LSIO.SPI_CTL_EN false, by decide +kernel⟩

theorem witness_SerialAndFlashFollowTheirEvents :
    (∃ (u : Nat) (rxd : List Bool) (s : State), u ≤ 1 ∧ up s = true ∧ (s.bankUp 3 = true)) ∧
    (∃ (u : Nat) (rxd : List Bool) (s : State), up s = true ∧ (s.bankUp 3 = false)) ∧
    ((∃ (u : Nat) (s : State), s.rb LSIO.UART_CTL_EN u = true ∧ tget (fun _ => []) s.ls.rxPart u = [] ∧ bg s.ls.rxLow u = false) ∧
    (∃ (u : Nat) (b : Bool) (l : List Bool) (s : State), s.rb LSIO.UART_CTL_EN u = true ∧ tget (fun _ => []) s.ls.rxPart u = l ∧ l.length = 9 ∧ bitTaken (l ++ [b]) 0 = true) ∧
    (∃ (u : Nat) (b : Bool) (l : List Bool) (s : State), s.rb LSIO.UART_CTL_EN u = true ∧ tget (fun _ => []) s.ls.rxPart u = l ∧ (l.length < 9 ∨ (l.length = 9 ∧ bitTaken (l ++ [b]) 0 = false) ∨ (9 < l.length ∧ l.length + 1 < 16 * (1 + s.dataBits u + s.parityBits u) + 10)) ∧ l ≠ []) ∧
    (∃ (u : Nat) (l : List Bool) (s : State), s.rb LSIO.UART_CTL_EN u = true ∧ tget (fun _ => []) s.ls.rxPart u = l ∧ l.length + 1 = 16 * (1 + s.dataBits u + s.parityBits u) + 10) ∧
    (∃ (u : Nat) (s : State), s.rb LSIO.UART_CTL_EN u = false)) ∧
    (∃ (u : Nat) (s : State), 64 ≤ (s.uartRx u).length) ∧
    (∃ (u : Nat) (s : State), (s.uartRx u).length < 64) ∧
    (∃ (u : Nat) (b : Byte) (l : List Byte) (s : State), u ≤ 1 ∧ up s = true ∧ (s.rb LSIO.UART_CTL_EN u = true ∧ s.uartTx u = b :: l ∧ s.fwUp = true)) ∧
    (∃ (u : Nat) (b : Byte) (l : List Byte) (s : State), u ≤ 1 ∧ up s = true ∧ (s.rb LSIO.UART_CTL_EN u = true ∧ s.uartTx u = b :: l ∧ s.fwUp = false)) ∧
    (∃ (u : Nat) (s : State), up s = true ∧ (s.rb LSIO.UART_CTL_EN u = false ∨ s.uartTx u = [])) ∧
    (∃ (i : Nat) (out : Nat) (seg : Nat) (n : Nat) (data : List Byte) (lines : Nat) (x : Xfer) (rest : List Xfer) (s : State), i ≤ 3 ∧ out ≤ 5 ∧ out ≠ 4 ∧ xferFits x.segs out seg n data.length = true ∧ up s = true ∧ (s.fwUp = true ∧ bg s.ls.check i = false ∧ s.icState i = icBUSY ∧ s.xfersOf i = x :: rest)) ∧
    (∃ (i : Nat) (out : Nat) (seg : Nat) (n : Nat) (data : List Byte) (lines : Nat) (s : State), up s = true ∧ (s.fwUp = false ∨ bg s.ls.check i = true ∨ s.icState i ≠ icBUSY ∨ s.xfersOf i = [])) ∧
    (∃ (i : Nat) (scl : Bool) (sda : Bool) (pulses : List Bool) (s : State), i ≤ 3 ∧ up s = true ∧ (s.fwUp = true ∧ s.rb LSIO.I2C_CTL_EN i = true ∧ s.icState i ≠ icOFF ∧ (s.icState i ≠ icISOLATED ∨ bg s.ls.check i = true))) ∧
    (∃ (i : Nat) (scl : Bool) (sda : Bool) (pulses : List Bool) (s : State), up s = true ∧ (s.fwUp = false ∨ s.rb LSIO.I2C_CTL_EN i = false ∨ s.icState i = icOFF ∨ (s.icState i = icISOLATED ∧ bg s.ls.check i = false))) ∧
    (∃ (r : FlashOp) (x : FlashOp) (s : State), x.prio < r.prio ∧ up s = true ∧ (s.ls.run = some r ∧ firstOp s.ls.wait = some x ∧ s.rb FALT.PFAIL_STAT_ASSERTED = false)) ∧
    (∃ (s : State), up s = true ∧ (s.ls.run = none ∨ firstOp s.ls.wait = none ∨ s.rb FALT.PFAIL_STAT_ASSERTED = true)) ∧
    (∃ (r : FlashOp) (x : FlashOp) (s : State), r.prio ≤ x.prio ∧ up s = true ∧ (s.ls.run = some r ∧ firstOp s.ls.wait = some x)) ∧
    (∃ (p : FlashOp) (t : List FlashOp) (s : State), up s = true ∧ (s.ls.run = none ∧ s.ls.susp = p :: t ∧ s.rb FALT.PFAIL_STAT_ASSERTED = false)) ∧
    (∃ (s : State), up s = true ∧ (s.ls.run ≠ none ∨ s.ls.susp = [] ∨ s.rb FALT.PFAIL_STAT_ASSERTED = true)) ∧
    (∃ (op : FlashOp) (s : State), up s = true ∧ (s.ls.run = some op)) ∧
    (∃ (op : FlashOp) (s : State), up s = true ∧ (s.ls.run = some op)) ∧
    (∃ (ok : Bool) (s : State), up s = true ∧ (s.ls.run = none)) ∧
    (∃ (s : State), up s = true ∧ (s.rd SECU.FW_CTL_CONFIRM_SEC ≠ 0 ∧ 96000 * s.rd SECU.FW_CTL_CONFIRM_SEC ≤ s.cmd.runFor)) ∧
    (∃ (s : State), up s = true ∧ (s.rd SECU.FW_CTL_CONFIRM_SEC = 0 ∨ s.cmd.runFor < 96000 * s.rd SECU.FW_CTL_CONFIRM_SEC ∨ s.flash.trial = false)) ∧
    (∃ (x : Session) (s : State), up s = true ∧ (s.cmd.session = some x ∧ x.last + 60 * 96000 ≤ s.clock)) ∧
    (∃ (s : State), up s = true ∧ (s.cmd.session = none)) ∧
    (∃ (x : Session) (s : State), up s = true ∧ (s.cmd.session = some x ∧ s.clock < x.last + 60 * 96000)) := by
  refine ⟨?_, ?_, ?_, ?_, ?_, ?_, ?_, ?_, ?_, ?_, ?_, ?_, ?_, ?_, ?_, ?_, ?_, ?_, ?_, ?_, ?_, ?_, ?_, ?_, ?_⟩
  · exact ⟨1, List.replicate 160 false, banked, by decide +kernel⟩
  · exact ⟨1, [false], banked.ww PWR.BANK_STAT 0, by decide +kernel⟩
  · exact ⟨⟨1, cfg.wb LSIO.UART_CTL_EN true 1, by decide +kernel⟩,
          ⟨1, true, List.replicate 9 true, (cfg.wb LSIO.UART_CTL_EN true 1).onLs (fun x => { x with rxPart := [(1, List.replicate 9 true)] }), by decide +kernel⟩,
          ⟨1, false, List.replicate 9 false, (cfg.wb LSIO.UART_CTL_EN true 1).onLs (fun x => { x with rxPart := [(1, List.replicate 9 false)] }), by decide +kernel⟩,
          ⟨1, List.replicate 153 false, (cfg.wb LSIO.UART_CTL_EN true 1).onLs (fun x => { x with rxPart := [(1, List.replicate 153 false)] }), by decide +kernel⟩,
          ⟨1, cfg.wb LSIO.UART_CTL_EN false 1, by decide +kernel⟩⟩
  · exact ⟨1, cfg.onLs (fun l => { l with rx := [(1, List.replicate 64 (0, false))] }), by decide +kernel⟩
  · exact ⟨1, cfg.onLs (fun l => { l with rx := [(1, List.replicate 63 (0, false))] }), by decide +kernel⟩
  · exact ⟨1, 7, [], (cfg.wb LSIO.UART_CTL_EN true 1).onLs (fun l => { l with tx := [(1, [7])] }), by decide +kernel⟩
  · exact ⟨1, 7, [], ((cfg.wb LSIO.UART_CTL_EN true 1).wb FALT.MGMT_STAT_HALT true).onLs (fun l => { l with tx := [(1, [7])] }), by decide +kernel⟩
  · exact ⟨1, cfg, by decide +kernel⟩
  · exact ⟨3, 0, 0, 1, [], 3, ⟨pf, [⟨3, false, 1, [7]⟩]⟩, [], (cfg.wr LSIO.I2C_STAT_STATE icBUSY 3).onLs (fun l => { l with xfers := [(3, [⟨pf, [⟨3, false, 1, [7]⟩]⟩])] }), by decide +kernel⟩
  · exact ⟨3, 0, 0, 1, [], 3, cfg, by decide +kernel⟩
  · exact ⟨3, true, true, [], ((cfg.wr LSIO.I2C_STAT_STATE icBUSY 3).wb LSIO.I2C_CTL_EN true 3).onLs (fun l => { l with check := [(3, true)] }), by decide +kernel⟩
  · exact ⟨3, true, true, [], (cfg.wr LSIO.I2C_STAT_STATE icBUSY 3).wb LSIO.I2C_CTL_EN false 3, by decide +kernel⟩
  · exact ⟨⟨7, pf, 0, .erase⟩, ⟨3, pf, 0, .erase⟩, cfg.onLs (fun l => { l with run := some ⟨7, pf, 0, .erase⟩, wait := [⟨3, pf, 0, .erase⟩] }), by decide +kernel⟩
  · exact ⟨cfg, by decide +kernel⟩
  · exact ⟨⟨3, pf, 0, .erase⟩, ⟨7, pf, 0, .erase⟩, cfg.onLs (fun l => { l with run := some ⟨3, pf, 0, .erase⟩, wait := [⟨7, pf, 0, .erase⟩] }), by decide +kernel⟩
  · exact ⟨⟨7, pf, 0, .erase⟩, [], cfg.onLs (fun l => { l with susp := [⟨7, pf, 0, .erase⟩] }), by decide +kernel⟩
  · exact ⟨cfg, by decide +kernel⟩
  · exact ⟨⟨7, pf, 0, .erase⟩, cfg.onLs (fun l => { l with run := some ⟨7, pf, 0, .erase⟩ }), by decide +kernel⟩
  · exact ⟨⟨7, pf, 0, .erase⟩, cfg.onLs (fun l => { l with run := some ⟨7, pf, 0, .erase⟩ }), by decide +kernel⟩
  · exact ⟨true, cfg, by decide +kernel⟩
  · exact ⟨cfg.onCmd (fun c => { c with runFor := 96000 * 60 }), by decide +kernel⟩
  · exact ⟨cfg.wr SECU.FW_CTL_CONFIRM_SEC 0, by decide +kernel⟩
  · exact ⟨⟨0, .pcie 0, 0⟩, run.onCmd (fun c => { c with session := some ⟨0, .pcie 0, 0⟩ }), by decide +kernel⟩
  · exact ⟨cfg, by decide +kernel⟩
  · exact ⟨⟨0, .pcie 0, 0⟩, cfg.onCmd (fun c => { c with session := some ⟨0, .pcie 0, 0⟩ }), by decide +kernel⟩

theorem witness_LinksFollowTheirEvents :
    (∃ (l : Nat) (lane : Nat) (bs : List UBlock) (s : State), l ≤ 5 ∧ lane ≤ 3 ∧ up s = true ∧ (s.linkState l ≠ lkOFF)) ∧
    (∃ (l : Nat) (lane : Nat) (bs : List UBlock) (s : State), up s = true ∧ (s.linkState l = lkOFF)) ∧
    ((∃ (l p : Nat) (s : State), l ≤ 5 ∧ p ≤ 3 ∧ bit (s.rd ULNK.LINK_STAT_LANE_LOCK (i := l)) p = false ∧ 63 ≤ (tget (fun _ => ULane.reset) s.uma.lane (4 * l + p)).run) ∧
    (∃ (l p : Nat) (s : State), l ≤ 5 ∧ p ≤ 3 ∧ (bit (s.rd ULNK.LINK_STAT_LANE_LOCK (i := l)) p = true ∨ (tget (fun _ => ULane.reset) s.uma.lane (4 * l + p)).run < 63)) ∧
    (∃ (l p : Nat) (s : State), l ≤ 5 ∧ p ≤ 3 ∧ bit (s.rd ULNK.LINK_STAT_LANE_LOCK (i := l)) p = true ∧ 16 ≤ weight ((tget (fun _ => ULane.reset) s.uma.lane (4 * l + p)).bad <<< 1 ||| 1)) ∧
    (∃ (l p : Nat) (s : State), l ≤ 5 ∧ p ≤ 3 ∧ (bit (s.rd ULNK.LINK_STAT_LANE_LOCK (i := l)) p = false ∨ weight ((tget (fun _ => ULane.reset) s.uma.lane (4 * l + p)).bad <<< 1 ||| 1) < 16))) ∧
    (∃ (l : Nat) (off : Nat) (bs : List UBlock) (early : Nat) (late : Nat) (s : State), l ≤ 5 ∧ bs.length = 4 ∧ up s = true ∧ (s.linkState l ≠ lkOFF)) ∧
    (∃ (l : Nat) (off : Nat) (bs : List UBlock) (early : Nat) (late : Nat) (s : State), up s = true ∧ (s.linkState l = lkOFF)) ∧
    (∃ (l : Nat) (s : State), s.linkState l < lkDESKEW) ∧
    (∃ (l skew : Nat) (bs : List UBlock) (m : List Nat) (s : State), lkDESKEW ≤ s.linkState l ∧ markersOf skew bs = some m) ∧
    (∃ (l skew : Nat) (bs : List UBlock) (s : State), lkDESKEW ≤ s.linkState l ∧ markersOf skew bs = none ∧ 1 ≤ ng s.uma.bad l) ∧
    (∃ (l skew : Nat) (bs : List UBlock) (s : State), lkDESKEW ≤ s.linkState l ∧ markersOf skew bs = none ∧ ng s.uma.bad l = 0) ∧
    (∃ (l : Nat) (off : Nat) (s : State), l < 6 ∧ up s = true ∧ (s.linkState l = lkTRAIN ∧ ng s.uma.trainAt l + 120000000 < s.clockGrid off)) ∧
    (∃ (l : Nat) (off : Nat) (s : State), up s = true ∧ (s.linkState l ≠ lkTRAIN ∨ s.clockGrid off ≤ ng s.uma.trainAt l + 120000000)) ∧
    (∃ (l : Nat) (off : Nat) (s : State), l < 6 ∧ up s = true ∧ (s.linkState l = lkUP ∧ ng s.uma.lastGood l + 230687 ≤ s.clockGrid off)) ∧
    (∃ (l : Nat) (off : Nat) (s : State), up s = true ∧ (s.linkState l ≠ lkUP ∨ s.clockGrid off < ng s.uma.lastGood l + 230687)) ∧
    (∃ (l : Nat) (off : Nat) (bs : List (List UBlock)) (fw : FwMsg) (s : State), l ≤ 5 ∧ bs.map List.length = [8, 8, 8, 8] ∧ up s = true ∧ (s.linkState l ≠ lkOFF ∧ (lanesTake l bs s).2.linkState l < lkTRAIN)) ∧
    (∃ (l : Nat) (off : Nat) (bs : List (List UBlock)) (fw : FwMsg) (s : State), l ≤ 5 ∧ bs.map List.length = [8, 8, 8, 8] ∧ up s = true ∧ (s.linkState l ≠ lkOFF ∧ lkTRAIN ≤ (lanesTake l bs s).2.linkState l)) ∧
    (∃ (l : Nat) (off : Nat) (bs : List (List UBlock)) (fw : FwMsg) (s : State), up s = true ∧ (s.linkState l = lkOFF)) ∧
    ((∃ c : List Byte, cellCrcOk c = false) ∧
    (∃ c : List Byte, cellCrcOk c = true ∧ 3 < fbits (cellNum c 0 8) 63 60 ∧ fbits (cellNum c 0 8) 63 60 ≠ cyTRAIN) ∧
    (∃ (c : List Byte) (s : State), cellCrcOk c = true ∧ fbits (cellNum c 0 8) 63 60 ≤ 3 ∧ og s.uma.rxSeq 5 = none) ∧
    (∃ (c : List Byte) (s : State) (q : Nat), cellCrcOk c = true ∧ fbits (cellNum c 0 8) 63 60 = cyIDLE ∧ og s.uma.rxSeq 5 = some q) ∧
    (∃ (c : List Byte) (s : State) (q : Nat), cellCrcOk c = true ∧ fbits (cellNum c 0 8) 63 60 = cyTRAIN ∧ og s.uma.rxSeq 5 = some q ∧ (cellNum c 252 2 + 65536 - q) % 65536 = 32768) ∧
    (∃ (c : List Byte) (s : State) (q : Nat), cellCrcOk c = true ∧ fbits (cellNum c 0 8) 63 60 = cyTRAIN ∧ og s.uma.rxSeq 5 = some q ∧ (cellNum c 252 2 + 65536 - q) % 65536 = 32767)) ∧
    (∃ (l : Nat) (off : Nat) (s : State), l ≤ 5 ∧ up s = true ∧ (s.linkState l ≠ lkOFF)) ∧
    (∃ (l : Nat) (off : Nat) (s : State), up s = true ∧ (s.linkState l = lkOFF)) ∧
    (∃ (src : Nat) (msg : Nat) (off : Nat) (p : UPart) (s : State), up s = true ∧ (s.uma.parts.find? (fun p => p.src == src && p.msg == msg) = some p ∧ p.at_ + 12000000 ≤ s.clockGrid off)) ∧
    (∃ (src : Nat) (msg : Nat) (off : Nat) (s : State), up s = true ∧ (s.uma.parts.find? (fun p => p.src == src && p.msg == msg) = none)) ∧
    (∃ (src : Nat) (msg : Nat) (off : Nat) (p : UPart) (s : State), up s = true ∧ (s.uma.parts.find? (fun p => p.src == src && p.msg == msg) = some p ∧ s.clockGrid off < p.at_ + 12000000)) ∧
    (∃ (d : Nat) (s : State), d < 16 ∧ up s = true ∧ (bit (s.rd ULNK.HIER_STAT_MEMBERS) d = true ∧ ng s.uma.heard d + 96000 ≤ s.clock)) ∧
    (∃ (d : Nat) (s : State), up s = true ∧ (bit (s.rd ULNK.HIER_STAT_MEMBERS) d = false ∨ s.clock < ng s.uma.heard d + 96000)) ∧
    (∃ (td : Nat) (r : Nat × Nat × Nat) (s : State), up s = true ∧ (s.uma.resv.find? (fun r => r.1 == td) = some r ∧ r.2.2 + 960 ≤ s.clock)) ∧
    (∃ (td : Nat) (s : State), up s = true ∧ (s.uma.resv.find? (fun r => r.1 == td) = none)) ∧
    (∃ (td : Nat) (r : Nat × Nat × Nat) (s : State), up s = true ∧ (s.uma.resv.find? (fun r => r.1 == td) = some r ∧ s.clock < r.2.2 + 960)) ∧
    (∃ (msg : Nat) (t : Tunnel) (s : State), up s = true ∧ (s.uma.tunnels.find? (fun t => t.msg == msg) = some t ∧ t.since + 9600 ≤ s.clock)) ∧
    (∃ (msg : Nat) (s : State), up s = true ∧ (s.uma.tunnels.find? (fun t => t.msg == msg) = none)) ∧
    (∃ (msg : Nat) (t : Tunnel) (s : State), up s = true ∧ (s.uma.tunnels.find? (fun t => t.msg == msg) = some t ∧ s.clock < t.since + 9600)) := by
  refine ⟨?_, ?_, ?_, ?_, ?_, ?_, ?_, ?_, ?_, ?_, ?_, ?_, ?_, ?_, ?_, ?_, ?_, ?_, ?_, ?_, ?_, ?_, ?_, ?_, ?_, ?_, ?_, ?_, ?_, ?_⟩
  · exact ⟨5, 3, [⟨hdData, 0⟩], (cfg.wr ULNK.LINK_STAT_STATE lkTRAIN (i := 5)), by decide +kernel⟩
  · exact ⟨5, 3, [⟨hdData, 0⟩], cfg, by decide +kernel⟩
  · exact ⟨⟨5, 3, (cfg.wr ULNK.LINK_STAT_STATE lkTRAIN (i := 5)).onUma (fun u => { u with lane := [(23, ⟨0, 0, 63⟩)] }), by decide +kernel⟩, ⟨5, 3, (cfg.wr ULNK.LINK_STAT_STATE lkTRAIN (i := 5)), by decide +kernel⟩,
          ⟨5, 3, ((cfg.wr ULNK.LINK_STAT_STATE lkTRAIN (i := 5)).wr ULNK.LINK_STAT_LANE_LOCK 8 (i := 5)).onUma (fun u => { u with lane := [(23, ⟨0, 0x7FFF, 0⟩)] }), by decide +kernel⟩,
          ⟨5, 3, (cfg.wr ULNK.LINK_STAT_STATE lkTRAIN (i := 5)), by decide +kernel⟩⟩
  · exact ⟨5, 0, [⟨hdCtl, markerBits 0⟩, ⟨hdCtl, markerBits 1⟩, ⟨hdCtl, markerBits 2⟩, ⟨hdCtl, markerBits 3⟩], 0, 66, (cfg.wr ULNK.LINK_STAT_STATE lkTRAIN (i := 5)), by decide +kernel⟩
  · exact ⟨5, 0, [⟨hdCtl, markerBits 0⟩, ⟨hdCtl, markerBits 1⟩, ⟨hdCtl, markerBits 2⟩, ⟨hdCtl, markerBits 3⟩], 0, 66, cfg, by decide +kernel⟩
  · exact ⟨5, cfg.wr ULNK.LINK_STAT_STATE lkLOCK (i := 5), by decide +kernel⟩
  · exact ⟨5, 4224, [3, 2, 1, 0].map (fun k => ⟨hdCtl, markerBits k⟩), [3, 2, 1, 0], cfg.wr ULNK.LINK_STAT_STATE lkDESKEW (i := 5), by decide +kernel⟩
  · exact ⟨5, 4225, [3, 2, 1, 0].map (fun k => ⟨hdCtl, markerBits k⟩), (cfg.wr ULNK.LINK_STAT_STATE lkDESKEW (i := 5)).onUma (fun u => { u with bad := [(5, 1)] }), by decide +kernel⟩
  · exact ⟨5, 0, [3, 2, 2, 0].map (fun k => ⟨hdCtl, markerBits k⟩), cfg.wr ULNK.LINK_STAT_STATE lkDESKEW (i := 5), by decide +kernel⟩
  · exact ⟨5, 0, run.wr ULNK.LINK_STAT_STATE lkTRAIN (i := 5), by decide +kernel⟩
  · exact ⟨5, 0, cfg, by decide +kernel⟩
  · exact ⟨5, 0, run.wr ULNK.LINK_STAT_STATE lkUP (i := 5), by decide +kernel⟩
  · exact ⟨5, 0, cfg, by decide +kernel⟩
  · exact ⟨5, 0, List.replicate 4 (List.replicate 8 ⟨hdData, 0⟩), .other, cfg.wr ULNK.LINK_STAT_STATE lkLOCK (i := 5), by decide +kernel⟩
  · exact ⟨5, 0, List.replicate 4 (List.replicate 8 ⟨hdData, 0⟩), .other, (cfg.wr ULNK.LINK_STAT_STATE lkTRAIN (i := 5)), by decide +kernel⟩
  · exact ⟨5, 0, List.replicate 4 (List.replicate 8 ⟨hdData, 0⟩), .other, cfg, by decide +kernel⟩
  · exact ⟨⟨[], by decide +kernel⟩, ⟨cellBad, cellBad_ok, by decide +kernel⟩, ⟨cellGood, cfg, cellGood_ok, by decide +kernel⟩,
          ⟨cellGood, cfg.onUma (fun u => { u with rxSeq := [(5, some 1)] }), 1, cellGood_ok, by decide +kernel⟩,
          ⟨cellTrain, cfg.onUma (fun u => { u with rxSeq := [(5, some 32768)] }), 32768, cellTrain_ok, by decide +kernel⟩,
          ⟨cellTrain, cfg.onUma (fun u => { u with rxSeq := [(5, some 32769)] }), 32769, cellTrain_ok, by decide +kernel⟩⟩
  · exact ⟨5, 0, cfg.wr ULNK.LINK_STAT_STATE lkUP (i := 5), by decide +kernel⟩
  · exact ⟨5, 0, cfg, by decide +kernel⟩
  · exact ⟨15, 1, 0, ⟨15, 1, 0, 0, 5, []⟩, run.onUma (fun u => { u with parts := [⟨15, 1, 0, 0, 5, []⟩] }), by decide +kernel⟩
  · exact ⟨15, 1, 0, cfg, by decide +kernel⟩
  · exact ⟨15, 1, 0, ⟨15, 1, 0, 0, 5, []⟩, cfg.onUma (fun u => { u with parts := [⟨15, 1, 0, 0, 5, []⟩] }), by decide +kernel⟩
  · exact ⟨15, run.wr ULNK.HIER_STAT_MEMBERS 0x8000, by decide +kernel⟩
  · exact ⟨15, cfg, by decide +kernel⟩
  · exact ⟨63, (63, 0, 0), run.onUma (fun u => { u with resv := [(63, 0, 0)] }), by decide +kernel⟩
  · exact ⟨63, cfg, by decide +kernel⟩
  · exact ⟨63, (63, 0, 0), cfg.onUma (fun u => { u with resv := [(63, 0, 0)] }), by decide +kernel⟩
  · exact ⟨1, ⟨1, pf, 0⟩, run.onUma (fun u => { u with tunnels := [⟨1, pf, 0⟩] }), by decide +kernel⟩
  · exact ⟨1, cfg, by decide +kernel⟩
  · exact ⟨1, ⟨1, pf, 0⟩, cfg.onUma (fun u => { u with tunnels := [⟨1, pf, 0⟩] }), by decide +kernel⟩

theorem witness_MirrorFollowsItsEvents :
    (∃ (s : State), up s = true ∧ (s.role = roMIRROR ∧ s.rd ULNK.HIER_STAT_MIRROR = 1 ∧ s.uma.partnerAt + 96 ≤ s.clock)) ∧
    (∃ (t : State) (s : State), up s = true ∧ (s.role = roMIRROR ∧ s.rd ULNK.HIER_STAT_MIRROR = 2 ∧ s.uma.partnerAt + 96 ≤ s.clock ∧ t = ((mirrorSet 3 s).cntr ULNK.MIRROR_LOSSES).err 0x0402 0x1A 0 0 0 none (s.beyond kdMIRROR))) ∧
    (∃ (s : State), up s = true ∧ (s.role ≠ roMIRROR ∨ (s.rd ULNK.HIER_STAT_MIRROR ≠ 1 ∧ s.rd ULNK.HIER_STAT_MIRROR ≠ 2) ∨ s.clock < s.uma.partnerAt + 96)) ∧
    (∃ (k : Nat) (x : MirrorCopy) (s : State), up s = true ∧ (s.role = roMIRROR ∧ s.mirrorLink = true ∧ s.uma.copyAt = none ∧ s.uma.copying = false)) ∧
    (∃ (k : Nat) (x : MirrorCopy) (s : State), up s = true ∧ (s.role = roMIRROR ∧ s.mirrorLink = true ∧ s.uma.copyAt = none ∧ s.uma.copying = true)) ∧
    (∃ (k : Nat) (x : MirrorCopy) (s : State), up s = true ∧ (s.role ≠ roMIRROR ∨ s.mirrorLink = false ∨ s.uma.copyAt ≠ none)) ∧
    (∃ (since : Nat) (s : State), up s = true ∧ (s.role = roMIRROR ∧ s.rd ULNK.HIER_STAT_MIRROR = 3 ∧ s.mirrorLink = true ∧ s.uma.copying = false ∧ running s.mode = true ∧ (s.uma.runSince < since ∨ (s.uma.runSince = since ∧ s.rb ULNK.HIER_STAT_A_MEMBER = true)))) ∧
    (∃ (since : Nat) (s : State), up s = true ∧ (s.role = roMIRROR ∧ s.rd ULNK.HIER_STAT_MIRROR = 3 ∧ s.mirrorLink = true ∧ s.uma.copying = false ∧ (running s.mode = false ∨ since < s.uma.runSince ∨ (s.uma.runSince = since ∧ s.rb ULNK.HIER_STAT_A_MEMBER = false)))) ∧
    (∃ (since : Nat) (s : State), up s = true ∧ (s.role ≠ roMIRROR ∨ s.rd ULNK.HIER_STAT_MIRROR ≠ 3 ∨ s.mirrorLink = false ∨ s.uma.copying = true)) ∧
    (∃ (s : State), up s = true ∧ (s.mirrorActive = true ∧ 0 < s.uma.fwd)) ∧
    (∃ (s : State), up s = true ∧ (s.mirrorActive = false ∨ s.uma.fwd = 0)) := by
  refine ⟨?_, ?_, ?_, ?_, ?_, ?_, ?_, ?_, ?_, ?_, ?_⟩
  · exact ⟨(run.wr ULNK.HIER_CFG_ROLE roMIRROR).wr ULNK.HIER_STAT_MIRROR 1, by decide +kernel⟩
  · exact ⟨_, (run.wr ULNK.HIER_CFG_ROLE roMIRROR).wr ULNK.HIER_STAT_MIRROR 2, by decide +kernel, by decide +kernel, by decide +kernel, by decide +kernel, rfl⟩
  · exact ⟨cfg, by decide +kernel⟩
  · exact ⟨0, copy0, mirrorUp, by decide +kernel⟩
  · exact ⟨0, copy0, mirrorUp.onUma (fun u => { u with copying := true }), by decide +kernel⟩
  · exact ⟨0, copy0, cfg, by decide +kernel⟩
  · exact ⟨1, mirrorUp.wr ULNK.HIER_STAT_MIRROR 3, by decide +kernel⟩
  · exact ⟨0, (mirrorUp.wr ULNK.HIER_STAT_MIRROR 3).onUma (fun u => { u with runSince := 1 }), by decide +kernel⟩
  · exact ⟨0, cfg, by decide +kernel⟩
  · exact ⟨(mirrorUp.wr ULNK.HIER_STAT_MIRROR 1).onUma (fun u => { u with fwd := 1 }), by decide +kernel⟩
  · exact ⟨cfg, by decide +kernel⟩

set_option maxRecDepth 100000 in
theorem witness_BoundariesAdvance :
    (∃ (x : SampleIn) (s : State), (3 ≤ s.mode ∧ 3 ≤ (periodWork x s).mode)) ∧
    (∃ (x : SampleIn) (s : State), 3 ≤ s.mode ∧ 3 ≤ (periodWork x s).mode ∧ (periodWork x s).md.stepTo = none) ∧
    (∃ s : State, s.mode < 3) ∧
    (∃ (x : TickIn) (s : State), (3 ≤ s.mode ∧ (s.tickEnds = false ∨ s.tim.tickDone = true))) ∧
    (∃ (x : TickIn) (s : State), (3 ≤ s.mode ∧ s.tickEnds = true ∧ s.tim.tickDone = false ∧ 3 ≤ (tickWork x ((bankStep (rxJudge s)).at (s.tim.sample + 1))).mode)) := by
  refine ⟨?_, ?_, ?_, ?_, ?_⟩
  · exact ⟨⟨[], [], []⟩, cfg, by decide +kernel⟩
  · exact ⟨⟨[], [], []⟩, cfg, by decide +kernel⟩
  · exact ⟨State.reset, by decide +kernel⟩
  · exact ⟨TickIn.still cfg, cfg, by decide +kernel⟩
  · exact ⟨TickIn.still cfg, cfg.onTim (fun t => { t with sample := 31 }), by decide +kernel⟩

theorem witness_StepRunsTheFrontCommand :
    (∃ (s : State) (c : Instr) (q : List Instr), s.pending = c :: q) ∧
    (∃ s : State, s.pending = []) := by
  refine ⟨?_, ?_⟩
  · exact ⟨{ cfg with pending := [.cpllLockLoss] }, .cpllLockLoss, [], rfl⟩
  · exact ⟨State.reset, rfl⟩

theorem witness_EveryStepKeepsTheInvariant :
    ∃ s : State, Machine.Inv s ∧ s.pending ≠ [] :=
  ⟨{ cfg with pending := [.cpllLockLoss] }, by unfold Machine.Inv; decide +kernel, by decide⟩

theorem witness_OnlyBoundariesMoveTheIndex :
    ∃ (c : Instr) (s t : State), exec c s = .next t ∧ t.tim.sample ≠ s.tim.sample :=
  ⟨.resetAssert false, run, _, rfl, by decide +kernel⟩

theorem witness_RegistersReadBack :
    (∃ pg obj off pg' obj' off' : Nat, off < 2 ^ 12 ∧ off' < 2 ^ 12 ∧ obj < 2 ^ 20 ∧ obj' < 2 ^ 20 ∧ (pg', obj', off') ≠ (pg, obj, off)) ∧
    (∃ f g : Fld, f.reg = g.reg ∧ f.lo ≤ f.hi ∧ f.hi < 32 ∧ g.lo ≤ g.hi ∧ g.hi < 32 ∧ (g.hi < f.lo ∨ f.hi < g.lo)) := by
  refine ⟨?_, ?_⟩
  · exact ⟨127, 2 ^ 20 - 1, 2 ^ 12 - 1, 127, 2 ^ 20 - 1, 2 ^ 12 - 2, by decide⟩
  · exact ⟨SECU.SEC_STAT_DBG_UNLOCKED, ⟨SECU.SEC_STAT, 31, 31⟩, by decide⟩

theorem witness_InterruptFlagsRiseAndClear :
    (∃ (fns : List Nat) (fn b off' : Nat), fn ∈ fns ∧ b < 32 ∧ off' ≠ 0x010 ∧ off' < 2 ^ 12) ∧
    (∃ (s : State) (pg b fn : Nat), bit (s.gw pg fn 0x010) b = true ∧ bit (s.gw pg fn 0x014) b = false) ∧
    (∃ (s : State) (pg b fn v : Nat), fn < 8 ∧ bit (s.gw pg fn 0x010) b = false ∧ bit (s.gw pg fn 0x014) b = true ∧ s.pageVec fn pg = some v) ∧
    (∃ (s : State) (pg b fn : Nat), bit (s.gw pg fn 0x014) b = false) ∧
    (∃ (s : State) (fn pg b : Nat), fn ≤ 8 ∧ s.served pg = true ∧ s.shut fn pg = false ∧ b < 32) := by
  refine ⟨?_, ?_, ?_, ?_, ?_⟩
  · exact ⟨fnsAll, 8, 31, 0x014, by decide⟩
  · exact ⟨cfg.pw 0x40 8 0x010 (2 ^ 31), 0x40, 31, 8, by decide +kernel⟩
  · exact ⟨(cfg.pw 0 7 0x014 1).wb HOST.PAGE_VEC_EN true 7, 0, 0, 7, (((cfg.pw 0 7 0x014 1).wb HOST.PAGE_VEC_EN true 7).pageVec 7 0).get (by decide +kernel), by decide, by decide +kernel, by decide +kernel, (Option.some_get _).symm⟩
  · exact ⟨cfg, 0x7F, 31, 8, by decide +kernel⟩
  · exact ⟨cfg, 8, 0x7F, 31, by decide +kernel⟩

theorem witness_RampFollowsR249 :
    ∃ (s : State) (o n i rmp : Nat), s.bankState (sigOf o) = bkRAMP ∧ s.rd64 SIG.TURN_IDX_HI SIG.TURN_IDX_LO (i := sigOf o) = n ∧ s.rd SIG.TURN_RAMP_RAMP (i := sigOf o) = rmp ∧ 1 ≤ i ∧ i ≤ rmp :=
  ⟨(run.wr SIG.BANK_STAT_STATE bkRAMP (i := 63)).wr SIG.TURN_RAMP_RAMP 16384 (i := 63), 4095, 0, 16384, 16384, by decide +kernel⟩

theorem witness_ResponsesFitTheirPlace :
    (∃ (e : Env) (ws : List Nat) (n : Nat) (s : State), s.respLimit e < 4 * ws.length ∧ 0 < n) ∧
    (∃ (e : Env) (ws : List Nat) (s : State), s.respLimit e < 4 * ws.length ∧ ws ≠ []) ∧
    (∃ e : Env, ∀ p v6 a b, e.tr ≠ .udp p v6 a b) := by
  refine ⟨?_, ?_, ?_⟩
  · exact ⟨{ pf with respMax := 0 }, [0], 1, cfg, by decide +kernel⟩
  · exact ⟨{ pf with respMax := 3 }, [0], cfg, by decide +kernel⟩
  · exact ⟨pf, fun _ _ _ _ h => nomatch h⟩

theorem witness_GpioEdgesAreFlagged :
    ∃ (s : State) (pin : Nat) (rising : Bool), 3 ≤ s.mode ∧ pin ≤ 31 ∧ s.rb LSIO.GPIO_IN pin ≠ rising ∧ s.bankUp (6 + pin / 16) = true ∧ bit (s.rd LSIO.GPIO_EDGE pin) (if rising then 0 else 1) = true :=
  ⟨banked.wr LSIO.GPIO_EDGE 1 31, 31, true, by decide +kernel⟩

theorem witness_CommandsAreJudgedInOrder :
    ∃ (e : Env) (s : State), taken e s = false :=
  ⟨pf, State.reset, by decide +kernel⟩

theorem witness_CountersAreRecorded :
    ∃ (o : Opc) (e : Env) (s : State) (sl c sl' : Nat), counterSlot s o e = some (sl, c) ∧ sl < 16 ∧ c < 2 ^ 64 ∧ c < ng s.flash.savedS sl + 1024 ∧ sl' < 16 ∧ sl' ≠ sl :=
  ⟨{ crit := true }, crit 15, cfg, 15, 1, 14, by decide +kernel⟩

end Sys2Proof.Tests
end

section
/-!
PROOFS. The sample index at the boundaries (R14, R25, R84): a period's work leaves it, the period that follows begins at
`State.nextIndex`, and nothing later in a boundary moves it.
-/
namespace Sys2Proof.Machine

/-! ## The parts of a boundary -/

@[simp] theorem State.at_tim (s : State) (n : Nat) : (s.at n).tim = { s.tim with sample := n } := rfl

/-- The tick's work is done under the index of the tick that begins, and the index is then put back. -/
theorem tickOnce_due {x : TickIn} {s : State} (he : s.tickEnds = true) (hd : s.tim.tickDone = false)
    (hm : 3 ≤ (tickWork x ((bankStep (rxJudge s)).at (s.tim.sample + 1))).mode) :
    tickOnce x s =
      ((tickWork x ((bankStep (rxJudge s)).at (s.tim.sample + 1))).at s.tim.sample).onTim (fun t => { t with tickDone := true }) := by
  simp [tickOnce, he, hd, Nat.not_lt.mpr hm]

theorem tickOnce_not_due {x : TickIn} {s : State} (h : s.tickEnds = false ∨ s.tim.tickDone = true) : tickOnce x s = s :=
  if_pos h

@[simp] theorem nextPeriod_sample (s : State) : (nextPeriod s).tim.sample = s.nextIndex := rfl

/-! ## The two rows -/

theorem exec_sampleBoundary_off (x : SampleIn) {s : State} (hm : s.mode < 3) : exec (.sampleBoundary x) s = .next s :=
  congrArg Host.Outcome.next (if_pos hm)

theorem exec_tickBoundary_off (x : TickIn) {s : State} (hm : s.mode < 3) : exec (.tickBoundary x) s = .next s :=
  congrArg Host.Outcome.next (if_pos hm)

theorem exec_tickBoundary_on (x : TickIn) {s : State} (hm : 3 ≤ s.mode) : exec (.tickBoundary x) s = .next (tickOnce x s) :=
  congrArg Host.Outcome.next (if_neg (Nat.not_lt.mpr hm))

theorem exec_sampleBoundary_on (x : SampleIn) {s : State} (hm : 3 ≤ s.mode) (hw : 3 ≤ (periodWork x s).mode) :
    exec (.sampleBoundary x) s =
      .next (sampleFlow x.overrun (s.lostSums x) (sampleActs (sampleRwb (nextPeriod (periodWork x s))))) := by
  calc exec (.sampleBoundary x) s
      = .next (boundary x s) := congrArg Host.Outcome.next (if_neg (Nat.not_lt.mpr hm))
    _ = _ := congrArg Host.Outcome.next (if_neg (Nat.not_lt.mpr hw))

/-- The period that SAMPLE_BOUNDARY begins has the index that the work of the ended one leaves due. -/
theorem exec_sampleBoundary_index (x : SampleIn) {s : State} (hm : 3 ≤ s.mode) (hw : 3 ≤ (periodWork x s).mode) :
    ∃ t, exec (.sampleBoundary x) s = .next t ∧ t.tim.sample = (periodWork x s).nextIndex :=
  ⟨_, exec_sampleBoundary_on x hm hw, (flow_sample _ _ _).trans (nextPeriod_sample _)⟩

theorem nextIndex_of_no_step {s : State} (h : s.md.stepTo = none) : s.nextIndex = s.tim.sample + 1 := by
  simp [State.nextIndex, h]

/-! ## The obligations -/

/-- Settles O48: the equations of the two rows, and `exec_sampleBoundary_index` with the index that `periodWork` leaves as it was. -/
theorem boundariesAdvance : Obligations.BoundariesAdvance := by
  refine ⟨?ends, ?index, ?rises, ?off, ?notDue, ?due, ?tickDone⟩
  case ends => exact fun x s ⟨hm, hw⟩ => exec_sampleBoundary_on x hm hw
  case index => exact fun x s hm hw => exec_sampleBoundary_index x hm hw
  case rises =>
    intro x s hm hw hstep
    obtain ⟨t, hexec, ht⟩ := exec_sampleBoundary_index x hm hw
    exact ⟨t, hexec, by rw [ht, nextIndex_of_no_step hstep, periodWork_sample x s hw]⟩
  case off => exact fun x s hm => ⟨exec_sampleBoundary_off x hm, exec_tickBoundary_off _ hm⟩
  case notDue =>
    intro x s ⟨hm, h⟩
    rw [exec_tickBoundary_on x hm, tickOnce_not_due h, id_eq]
  case due =>
    intro x s ⟨hm, he, hd, hw⟩
    rw [exec_tickBoundary_on x hm, tickOnce_due he hd hw]
  case tickDone =>
    intro x s hm he hd hw
    exact ⟨_, exec_tickBoundary_on x hm, by simp [tickOnce_due he hd hw]⟩

/-- The rows that may move the index are the five that `movesIndex` names. -/
theorem movesIndex_cases {c : Instr} (h : movesIndex c = true) :
    (∃ x, c = .sampleBoundary x) ∨ (∃ x, c = .tickBoundary x) ∨ (∃ ao, c = .resetAssert ao) ∨ (∃ p q, c = .wakeMatch p q) ∨
      ∃ ms, c = .firmwareRunning ms := by
  unfold movesIndex at h
  split at h
  case h_1 x => exact .inl ⟨x, rfl⟩
  case h_2 x => exact .inr (.inl ⟨x, rfl⟩)
  case h_3 ao => exact .inr (.inr (.inl ⟨ao, rfl⟩))
  case h_4 p q => exact .inr (.inr (.inr (.inl ⟨p, q, rfl⟩)))
  case h_5 ms => exact .inr (.inr (.inr (.inr ⟨ms, rfl⟩)))
  case h_6 => exact Bool.noConfusion h

/-- Settles O52: a command outside `movesIndex` keeps the index (`exec_sample`). -/
theorem onlyBoundariesMoveTheIndex : Obligations.OnlyBoundariesMoveTheIndex := by
  intro c s t hexec hmoved
  cases hc : movesIndex c with
  | true => exact movesIndex_cases hc
  | false =>
    obtain ⟨u, hu, hkeeps⟩ := exec_sample c s hc
    have htu : t = u := Host.Outcome.next.inj (hexec.symm.trans hu)
    exact absurd (htu ▸ hkeeps.sample trivial) hmoved

end Sys2Proof.Machine
end

section
/-!
PROOFS. Media time and the references: what the commands, the registers and the edges of the time bases, the collator, event
capture, LTC, the clock pins and general-purpose pins do (R30–R106, R339, R592), after the forms that proofs of commands share.
-/
namespace Sys2Proof.Machine

/-! ## The forms of a command's own part -/

section Forms
variable {o : Opc} {own : Nat → State → Option Nat} {c : Env → Instr} {ok : Env → State → Prop} {f : Env → State → State}
  {body : Env → Nat → State → Res} {row : Env → Option Instr}

/-- A command whose part acts and returns nothing. -/
theorem acts_of_done (hc : ∀ e s, exec (c e) s = .next (runCmd o e own (body e) s (row e)))
    (hb : ∀ e s, ok e s → body e (callerOf e) s = done (f e s))
    (hr : ∀ e s, ok e s → row e = none ∨ s.mirrorActive = false := by exact fun _ _ _ => .inl rfl) : acts o own c ok f :=
  completes_intro hc (fun e s k => ⟨0, hb e s k⟩) hr

/-- A command whose part returns words. -/
theorem completes_of_ret {ws : Env → State → List Nat} (hc : ∀ e s, exec (c e) s = .next (runCmd o e own (body e) s (row e)))
    (hb : ∀ e s, ok e s → body e (callerOf e) s = ret (f e s) (ws e s))
    (hr : ∀ e s, ok e s → row e = none ∨ s.mirrorActive = false := by exact fun _ _ _ => .inl rfl) :
    completes o own c ok (fun _ _ => 0) ws f :=
  completes_intro hc (fun e s k => ⟨0, hb e s k⟩) hr

/-- A command whose part returns a sample index (R482). -/
theorem actsAt_of_retIdx {n : Env → State → Nat} (hc : ∀ e s, exec (c e) s = .next (runCmd o e own (body e) s (row e)))
    (hb : ∀ e s, ok e s → body e (callerOf e) s = retIdx (f e s) (n e s))
    (hr : ∀ e s, ok e s → row e = none ∨ s.mirrorActive = false := by exact fun _ _ _ => .inl rfl) : actsAt o own c ok n f :=
  completes_intro hc (fun e s k => ⟨0, hb e s k⟩) hr

/-- The lowest free slot, once nothing refuses it, is written and armed (R50, R71). -/
theorem armNew_free {fn i : Nat} {a : SlotArgs} {s : State} (hfree : s.freeSlotNo = some i)
    (harm : armRefusal fn i (slotWrite i a s) = none) :
    armNew fn a s = .ok (armSlot fn i (slotWrite i a s)) i
      [i, ng (armSlot fn i (slotWrite i a s)).tim.slotN i % 2 ^ 32, ng (armSlot fn i (slotWrite i a s)).tim.slotN i / 2 ^ 32] 0 stOK := by
  simp only [armNew, hfree, harm]

/-- A command whose part takes a new slot. -/
theorem arms_of_armNew {a : SlotArgs} (hc : ∀ e s, exec (c e) s = .next (runCmd o e own (body e) s (row e)))
    (hb : ∀ e s, body e (callerOf e) s = armNew (callerOf e) a s)
    (hr : ∀ e, row e = none := by exact fun _ => rfl) : arms o own c a :=
  fun _ => completes_intro hc (fun e s ⟨hfree, harm⟩ => ⟨0, (hb e s).trans (armNew_free hfree harm)⟩) fun e _ _ => .inl (hr e)

end Forms

/-! ## What status commands return -/

/-- Settles O1: each command's part is one `ret` of the words named. -/
theorem timeQueriesAnswer : Obligations.TimeQueriesAnswer := by
  refine ⟨?ref, ?clk, ?clkpin, ?ptp, ?slot, ?snapshot⟩
  case ref => exact completes_of_ret (fun _ _ => rfl) fun _ _ _ => rfl
  case clk => exact completes_of_ret (fun _ _ => rfl) fun _ _ _ => rfl
  case clkpin => exact completes_of_ret (fun _ _ => rfl) fun _ _ _ => rfl
  case ptp =>
    intro plane hplane
    have hports (f : Nat → List Nat) : [2 * plane, 2 * plane + 1].flatMap f = f (2 * plane) ++ f (2 * plane + 1) := by
      rw [List.flatMap_cons, List.flatMap_cons, List.flatMap_nil, List.append_nil]
    refine completes_of_ret (fun _ _ => rfl) fun _ s _ => (if_neg (by omega)).trans ?_
    rw [hports]
    exact congrArg (ret s) (List.append_assoc ..)
  case slot =>
    intro slot hslot
    exact completes_of_ret (fun _ _ => rfl) fun _ _ _ => if_neg (by omega)
  case snapshot => exact fun off => completes_of_ret (fun _ _ => rfl) fun _ _ _ => rfl

/-! ## Configuration -/

/-- A list of items that are each in order passes a test that refuses an empty list, a long one and a bad item. -/
theorem listed_passes {α : Type} {l : List α} {n : Nat} {p : α → Prop} {bad : α → Bool} (hl : listed l n p)
    (hbad : ∀ x, p x → bad x = false) : ¬(l = [] ∨ n < l.length ∨ l.any bad = true) := by
  obtain ⟨hne, hlen, hitem⟩ := hl
  rintro (h | h | h)
  · exact hne h
  · exact Nat.not_lt.mpr hlen h
  · obtain ⟨x, hx, hxbad⟩ := List.any_eq_true.mp h
    exact Bool.false_ne_true ((hbad x (hitem x hx)).symm.trans hxbad)

/-- Settles O9: a list that the command's test accepts is written; the branch of the test is the one thing each clause adds. -/
theorem configurationCommandsWrite : Obligations.ConfigurationCommandsWrite := by
  refine ⟨?mode, ?ltc, ?evt, ?ref, ?ptp, ?netPort, ?clkpin, ?ctrlpin, ?uart, ?gpio, ?io⟩
  case mode => exact fun ws hok => acts_of_done (fun _ _ => rfl) fun _ _ _ => if_pos hok
  case ltc =>
    intro ws hok hplace
    exact acts_of_done (fun _ _ => rfl) fun _ _ _ => if_pos (by simpa [hok] using hplace)
  case evt =>
    intro ws hok hobj
    refine acts_of_done (fun _ _ => rfl) fun _ s _ => (if_pos (by simpa [hok] using hobj)).trans ?_
    simp only [State.iff, List.any_eq_true, beq_iff_eq]
  case ref =>
    intro ws hok hobj
    exact acts_of_done (fun _ _ => rfl) fun _ _ _ => if_pos (by simpa [hok] using hobj)
  case ptp =>
    intro ws hok hobj
    exact acts_of_done (fun _ _ => rfl) fun _ _ _ => if_pos (by simpa [hok] using hobj)
  case netPort =>
    intro ws hok hobj
    refine acts_of_done (fun _ _ => rfl) fun _ _ _ => if_pos ?_
    simp only [hok, Bool.true_and, List.all_eq_true]
    intro w hw
    obtain ⟨hctl, hother⟩ := hobj w hw
    by_cases h : w.off = 0x040
    · simp [h, hctl h]
    · simpa [h] using hother h
  case clkpin =>
    intro ws hok hobj
    exact acts_of_done (fun _ _ => rfl) fun _ _ _ => if_pos (by simpa [hok] using hobj)
  case ctrlpin =>
    intro ws hne hok hobj
    refine acts_of_done (fun _ _ => rfl) fun _ s hwarn => if_neg ?_
    simp only [hne, hok, false_or, List.any_eq_true, not_exists, not_and, reduceCtorEq]
    intro w hw
    simpa [hobj w hw] using hwarn w hw
  case uart =>
    intro ws hne hok hobj
    exact acts_of_done (fun _ _ => rfl) fun _ _ _ => if_neg (by simpa [hne, hok, Nat.lt_succ_iff] using hobj)
  case gpio =>
    intro l hl
    refine acts_of_done (fun _ _ => rfl) fun _ _ _ => if_neg (listed_passes hl fun x ⟨hpin, hword, hmode, hpull⟩ => ?_)
    simpa [hmode, hpull] using ⟨Nat.le_of_lt_succ hpin, hword⟩
  case io =>
    intro l hl
    refine acts_of_done (fun _ _ => rfl) fun _ _ _ => if_neg (listed_passes hl fun x ⟨hbank, hword, hslew⟩ => ?_)
    simpa [hslew] using ⟨Nat.le_of_lt_succ hbank, hword⟩

/-! ## Arming a slot by command -/

/-- STREAM_START and STREAM_STOP arm by one operation (R176). -/
theorem arms_of_streamArm {action i : Nat} {tx : Bool} {a : SlotArgs} {c : Env → Instr} (hi : i < 1024) (htb : a.tbsel ≤ 7)
    (hc : ∀ e s, exec (c e) s = .next (streamArm action e tx i a s)) :
    arms { mirrored := true, code := 0x030D + action, modes := armModes } (armOwn action (i + 1024 * b2n tx)) c
      { a with action := action, p0 := i + 1024 * b2n tx, p1 := 0 } :=
  arms_of_armNew (body := fun _ fn s => if 1023 < i ∨ 7 < a.tbsel then no stBAD_FIELD
    else armNew fn { a with action := action, p0 := i + 1024 * b2n tx, p1 := 0 } s) hc fun _ _ => if_neg (by omega)

/-- Settles O12: behind its range check every command of the list is `armNew` with its own action. -/
theorem armingCommandsArm : Obligations.ArmingCommandsArm := by
  refine ⟨?arm, ?relock, ?meter, ?port, ?start, ?stop⟩
  case arm =>
    intro a haction htb
    exact arms_of_armNew (fun _ _ => rfl) fun _ _ => if_neg (by omega)
  case relock =>
    intro g a hg htb
    exact arms_of_armNew (fun _ _ => rfl) fun _ _ => if_neg (by omega)
  case meter =>
    intro set a hset htb
    exact arms_of_armNew (fun _ _ => rfl) fun _ _ => if_neg (by omega)
  case port =>
    intro target a htarget htb
    exact arms_of_armNew (fun _ _ => rfl) fun _ _ => if_neg (by omega)
  case start => exact fun tx i a hi htb => arms_of_streamArm hi htb fun _ _ => rfl
  case stop => exact fun tx i a hi htb => arms_of_streamArm hi htb fun _ _ => rfl

/-! ## Values at reset -/

/-- The register file is empty at reset: every register reads its reset word (R569). -/
theorem reset_gw (pg o off : Nat) : State.reset.gw pg o off = (resetWord (rkey pg o off)).toNat := by
  have hregs : State.reset.regs = [] := rfl
  rw [State.gw, hregs, tget]

theorem reset_rd (f : Fld) (o i : Nat) :
    State.reset.rd f o i = fbits (resetWord (rkey (f.reg.page + i) o f.reg.off)).toNat f.hi f.lo := by
  rw [State.rd, State.rw, reset_gw]

/-- Settles O53: the fields named are those of the reset words (`reset_rd`). -/
theorem resetValues : Obligations.ResetValues := by
  refine ⟨?mode, rfl, rfl, ?fields⟩
  case mode => rw [State.mode, reset_rd]; decide
  case fields => simp only [reset_rd]; decide

/-! ## Actions in time by command -/

/-- What a cancel answers, state by state (R56). -/
theorem cancelJudge_armed {i : Nat} {s : State} (h : s.slotState i = slARMED) : cancelJudge i s = (stOK, true) := by
  simp [cancelJudge, h, slARMED, slFREE]

theorem cancelJudge_frozen_periodic {i : Nat} {s : State} (h : s.slotState i = slFROZEN) (hp : s.rw COLL.SLOT_PERIOD i ≠ 0) :
    cancelJudge i s = (stOK, true) := by
  simp [cancelJudge, h, hp, slFROZEN, slARMED, slFREE]

theorem cancelJudge_ended {i : Nat} {s : State}
    (h : s.slotState i = slDONE ∨ s.slotState i = slMISSED ∨ s.slotState i = slCANCELLED) : cancelJudge i s = (stOK, false) := by
  rcases h with h | h | h <;> simp [cancelJudge, h, slDONE, slMISSED, slCANCELLED, slFROZEN, slARMED, slFREE]

/-- A cancel that the judgement allows. -/
theorem collCancelBody_ok {slot fn : Nat} {s : State} (hslot : slot < 64) (h : (cancelJudge slot s).1 = stOK) :
    collCancelBody slot fn s = done (if (cancelJudge slot s).2 then cancelSlot slot s else s) :=
  (if_neg (by omega)).trans (if_pos h)

/-- A descriptor that no slot names takes its ramp and its scope, and is defined (R244). -/
theorem turnDefineBody_define {td scope ramp fn : Nat} {s : State} (htd : td < 64) (hramp : ramp ≤ 16384) (hscope : scope < 2 ^ 64)
    (hnamed : s.tdNamed td = false) :
    turnDefineBody td false scope ramp fn s = done (tdDefine fn td
      (((s.wr SCNE.TURN_CTL_RAMP ramp td).ww SCNE.TD_SCOPE_HI (scope / 2 ^ 32) td).ww SCNE.TD_SCOPE_LO (scope % 2 ^ 32) td)) := by
  have hfields : ¬(63 < td ∨ 16384 < ramp ∨ 2 ^ 64 ≤ scope ∨ (false = true ∧ s.tdDefined td = false)) := by
    simp only [Bool.false_eq_true, false_and, or_false]; omega
  exact (if_neg hfields).trans ((if_neg (Bool.eq_false_iff.mp hnamed)).trans (if_neg Bool.false_ne_true))

theorem turnDefineBody_release {td scope ramp fn : Nat} {s : State} (htd : td < 64) (hramp : ramp ≤ 16384) (hscope : scope < 2 ^ 64)
    (hnamed : s.tdNamed td = false) (hdef : s.tdDefined td = true) :
    turnDefineBody td true scope ramp fn s = done (tdRelease td s) := by
  have hfields : ¬(63 < td ∨ 16384 < ramp ∨ 2 ^ 64 ≤ scope ∨ (true = true ∧ s.tdDefined td = false)) := by
    simp only [hdef, reduceCtorEq, and_false, or_false]; omega
  exact (if_neg hfields).trans ((if_neg (Bool.eq_false_iff.mp hnamed)).trans (if_pos rfl))

/-- A device whose ID is 0, asked for itself alone, tells nobody. -/
theorem gridOthers_eq_nil {mask : Nat} (h : ∀ d < 16, bit mask d = true → d = 0) :
    (List.range 16).filter (fun d => bit mask d && d != 0) = [] := by
  simpa [List.filter_eq_nil_iff] using h

/-- It is the only member that answers. -/
theorem gridMembers_eq_self {mask : Nat} (h : ∀ d < 16, bit mask d = true → d = 0) (h0 : bit mask 0 = true) :
    (List.range 16).filter (fun d => bit mask d) = [0] := by
  have hrest : (List.range' 1 15).filter (fun d => bit mask d) = [] := by
    refine List.filter_eq_nil_iff.mpr fun d hd hbit => ?_
    have hmem := List.mem_range'_1.mp hd
    have := h d (by omega) hbit
    omega
  show (0 :: List.range' 1 15).filter _ = _
  rw [List.filter_cons_of_pos h0, hrest]

/-- GRID_TURN of one device, for the next possible tick: it arms its lowest free slot by sample index (R248). -/
theorem gridTurn_self {mask td i : Nat} {a : SlotArgs} {s : State} (hid : s.devId = 0) (hmask : ∀ d < 16, bit mask d = true → d = 0)
    (hself : bit mask 0 = true) (hdef : s.tdDefined td = true) (hfree : s.freeSlotNo = some i) (htb : a.tbsel = 6)
    (hdue : s.tim.sample + 64 ≤ 32 * (s.accTick + 4)) :
    gridTurn mask td a [] s = .ok (armSlot 0 i (slotWrite i
        { action := 1, tbsel := 7, late := false, secHi := 0, secLo := 32 * (s.accTick + 4) / 2 ^ 32,
          ns := 32 * (s.accTick + 4) % 2 ^ 32, p0 := td, p1 := 0, period := 0 } s))
      (32 * (s.accTick + 4) % 2 ^ 32) [32 * (s.accTick + 4) % 2 ^ 32, 32 * (s.accTick + 4) / 2 ^ 32, 0, i] 0 stOK := by
  have hnobody : ∀ t : State, t.each ([] : List Nat) (fun t d => fwTo d 0x0100 t) = t := fun _ => rfl
  simp [gridTurn, hid, hself, hdef, hfree, htb, gridOthers_eq_nil hmask, gridMembers_eq_self hmask hself, Nat.not_lt.mpr hdue, hnobody]

/-- Settles O13: each command passes its own checks, and its part is then the shared operation that acts. -/
theorem timedActionsAct : Obligations.TimedActionsAct := by
  refine ⟨?cancel, ?judge, ?tbSet, ?align, ?step, ?define, ?release, ?turnNow, ?turnTick, ?grid, ?defers⟩
  case cancel =>
    intro slot hslot
    exact acts_of_done (fun _ _ => rfl) (fun _ _ ⟨hok, _⟩ => collCancelBody_ok hslot hok) fun _ _ ⟨_, halone⟩ => .inr halone
  case judge => exact fun slot s => ⟨cancelJudge_armed, cancelJudge_frozen_periodic, cancelJudge_ended⟩
  case tbSet =>
    intro tb sec ns htb hset
    refine acts_of_done (fun _ _ => rfl) fun _ s hstate => ?_
    have hfree : ¬(tb = 2 ∧ s.rd REFS.STAT_STATE ≠ 0) := by omega
    exact (if_neg (by omega)).trans ((if_neg (by simp [hset])).trans (if_neg hfree))
  case align =>
    intro mask hmask
    exact actsAt_of_retIdx (fun _ _ => rfl) fun _ _ _ => if_neg (· hmask)
  case step =>
    intro n hlo hhi
    exact acts_of_done (fun _ _ => rfl) fun _ s hidle => (if_neg (by omega)).trans (if_neg (by simp [hidle]))
  case define =>
    intro td scope ramp htd hramp hscope
    exact acts_of_done (fun _ _ => rfl) (fun _ _ ⟨hnamed, _⟩ => turnDefineBody_define htd hramp hscope hnamed)
      fun _ _ ⟨_, halone⟩ => .inr halone
  case release =>
    intro td scope ramp htd hramp hscope
    exact acts_of_done (fun _ _ => rfl) (fun _ _ ⟨hnamed, hdef, _⟩ => turnDefineBody_release htd hramp hscope hnamed hdef)
      fun _ _ ⟨_, _, halone⟩ => .inr halone
  case turnNow =>
    intro td a htd htb
    refine actsAt_of_retIdx (fun _ _ => rfl) fun _ s ⟨hdef, hmode, hload, hkeep⟩ => ?_
    exact (if_neg (by simp only [hdef, reduceCtorEq, false_or]; omega)).trans ((if_pos hmode).trans (if_neg (by simp [hload, hkeep])))
  case turnTick =>
    intro td a htd htb
    refine actsAt_of_retIdx (fun _ _ => rfl) fun _ s ⟨hdef, hmode, hkeep, hqueued⟩ => ?_
    exact (if_neg (by simp only [hdef, reduceCtorEq, false_or]; omega)).trans
      ((if_neg (by simp [hmode])).trans ((if_pos htb).trans (if_neg (by simp [hkeep, hqueued]))))
  case grid =>
    intro mask td a htd hmask0 hmask htb i
    refine completes_intro (fun _ _ => rfl) fun _ s ⟨hrole, hid, hself, hown, hdef, hfree, hdue⟩ => ⟨0, ?_⟩
    exact (if_neg (by omega)).trans (gridTurn_self hid hself hown hdef hfree htb hdue)
  case defers => exact fun slot td release scope ramp => ⟨defers_intro fun _ _ => rfl, defers_intro fun _ _ => rfl⟩

/-! ## Registers of the collator, the time bases and the event FIFO -/

/-- TB_CTL's plain bit is TIME3's alone (R70). -/
theorem followWrite_ne {tb w : Nat} {s : State} (h : tb ≠ 3) : followWrite tb w s = s := if_pos h

theorem setGo_mayWrite {fn tb : Nat} (hfn : isPF0 fn = true) (htb : tb ≤ 3) : ¬(!isPF0 fn || decide (3 < tb)) = true := by
  simp [hfn, htb]

/-- PF0's SET_GO on TB2 or TB3, in range, and on TB2 while it follows nothing, waits for its boundary (R59). -/
theorem regSetGo_ok {fn tb w : Nat} {s t : State} (hfn : isPF0 fn = true) (htb : tb = 2 ∨ tb = 3) (ht : followWrite tb w s = t)
    (hset : setOk (t.rd64 TIME.SET_SEC_HI TIME.SET_SEC_LO (i := tb)) (t.rw TIME.SET_NS (i := tb)) = true)
    (hstate : tb = 3 ∨ t.rd REFS.STAT_STATE = 0) :
    regSetGo fn tb w s = t.onTim (fun q => { q with setPend := os q.setPend tb (some
      (timeGrid (t.rd64 TIME.SET_SEC_HI TIME.SET_SEC_LO (i := tb)) (t.rw TIME.SET_NS (i := tb)))) }) := by
  subst ht
  refine (if_neg (setGo_mayWrite hfn (by omega))).trans (if_neg ?_)
  simp only [hset, reduceCtorEq, false_or]
  omega

/-- TB0 and TB1 cannot be set (R59). -/
theorem regSetGo_denied {fn tb w : Nat} {s : State} (hfn : isPF0 fn = true) (htb : tb < 2) :
    regSetGo fn tb w s = s.wb TIME.TB_STAT_SET_DENY true (i := tb) := by
  refine (if_neg (setGo_mayWrite hfn (by omega))).trans ((if_pos (.inl htb)).trans ?_)
  rw [followWrite_ne (by omega)]

/-- A FREE slot that nothing refuses is armed with the fields written (R50, R58). -/
theorem regSlotArm_free {fn slot w : Nat} {s t : State} (hslot : slot < 64) (hfree : s.slotState slot = slFREE)
    (ht : ((s.wr COLL.SLOT_CTL_ACTION (fbits w 3 0) slot).wr COLL.SLOT_CTL_TBSEL (fbits w 6 4) slot).wr
      COLL.SLOT_CTL_LATE (fbits w 7 7) slot = t)
    (harm : armRefusal (actsAs fn) slot t = none) : regSlotArm fn slot w s = armSlot (actsAs fn) slot t := by
  subst ht
  refine ((if_neg (by omega)).trans (if_pos hfree)).trans ?_
  simp only [harm]

/-- A CANCEL of a slot in use, with its other bits as they are, is judged by the slot's owner and its state (R56, R57). -/
theorem slotCancelNow_used {fn slot w : Nat} {s : State} (hslot : slot < 64) (hused : s.slotState slot ≠ slFREE)
    (hsame : fbits w 7 0 = fbits (s.rw COLL.SLOT_CTL slot) 7 0) :
    slotCancelNow fn slot w s =
      if may (actsAs fn) (s.rd COLL.SLOT_CTL_OWNER slot) then
        if (cancelJudge slot s).2 then cancelSlot slot s
        else if (cancelJudge slot s).1 = stBUSY then s.wb COLL.COLL_STAT_CANCEL_DENY true else s
      else s.wb COLL.COLL_STAT_CANCEL_DENY true := by
  have hrange : ¬63 < slot := by omega
  cases hmay : may (actsAs fn) (s.rd COLL.SLOT_CTL_OWNER slot) with
  | false =>
    simp only [slotCancelNow, hrange, hused, hsame, hmay, ne_eq, not_true_eq_false, Bool.not_false, Bool.false_eq_true, if_false, if_true]
  | true =>
    simp only [slotCancelNow, hrange, hused, hsame, hmay, ne_eq, not_true_eq_false, Bool.not_true, Bool.false_eq_true, if_false, if_true]

theorem regSlotCancel_alone {fn slot w : Nat} {s : State} (h : s.mirrorActive = false) :
    regSlotCancel fn slot w s = slotCancelNow fn slot w s := if_neg (Bool.eq_false_iff.mp h)

theorem cancelSlot_armed {slot : Nat} {s : State} (h : s.slotState slot = slARMED) :
    cancelSlot slot s = armedFix (s.wr COLL.SLOT_STAT_STATE slCANCELLED slot) := if_pos h

/-- Settles O25: the equation of each register's operation in the case that the clause names. -/
theorem timeRegistersAct : Obligations.TimeRegistersAct := by
  refine ⟨?set2, ?set3, ?setDenied, ?arm, ?cancel, ?cancelDenied, ?cancelLater, ?statRead, ?entryRead, ?snapshot, ?align⟩
  case set2 =>
    intro fn w hfn
    exact happens_intro (fun _ => rfl) fun _ ⟨hset, hstate⟩ =>
      regSetGo_ok hfn (.inl rfl) (followWrite_ne (by decide)) hset (.inr hstate)
  case set3 =>
    intro fn w hfn
    exact happens_intro (fun _ => rfl) fun _ hset => regSetGo_ok hfn (.inr rfl) rfl hset (.inl rfl)
  case setDenied =>
    intro fn tb w hfn htb
    exact happens_intro (fun _ => rfl) fun s _ => regSetGo_denied hfn htb
  case arm =>
    intro fn slot w hslot
    exact happens_intro (fun _ => rfl) fun s ⟨hfree, harm⟩ => congrArg (actNoted 0x08 s) (regSlotArm_free hslot hfree rfl harm)
  case cancel =>
    intro fn slot w hslot
    refine happens_intro (fun _ => rfl) fun s ⟨harmed, halone, hmay, hsame⟩ => congrArg (actNoted 0x08 s) ?_
    have hused : s.slotState slot ≠ slFREE := by rw [harmed]; decide
    rw [regSlotCancel_alone halone, slotCancelNow_used hslot hused hsame, if_pos hmay, cancelJudge_armed harmed, if_pos rfl,
      cancelSlot_armed harmed]
  case cancelDenied =>
    intro fn slot w hslot
    refine happens_intro (fun _ => rfl) fun s ⟨hused, halone, hmay, hsame⟩ => congrArg (actNoted 0x08 s) ?_
    rw [regSlotCancel_alone halone, slotCancelNow_used hslot hused hsame, if_neg (Bool.eq_false_iff.mp hmay)]
  case cancelLater =>
    intro fn slot w
    exact happens_intro (fun _ => rfl) fun s hactive => congrArg (actNoted 0x08 s) (if_pos hactive)
  case statRead =>
    intro fn slot hslot
    exact happens_intro (fun _ => rfl) fun s hended => (if_pos (by omega)).trans (if_pos hended)
  case entryRead => exact fun fn hfn => happens_intro (fun _ => rfl) fun _ _ => if_pos hfn
  case snapshot => exact fun fn off hfn => happens_intro (fun _ => rfl) fun _ _ => if_pos hfn
  case align => exact fun fn w hfn => happens_intro (fun _ => rfl) fun _ _ => if_pos hfn

/-! ## Edges and frames -/

/-- Only a window that a boundary has closed is judged (R85). -/
theorem driftWindow_none {ys : List (Nat × Int)} {s : State} (h : s.ref.winDone = none) : driftWindow ys s = s := by
  simp only [driftWindow, h]

/-- An enabled output that does not run starts at its boundary edge, with what has been written (R91, R340). -/
theorem clkEdge_starts {o : Nat} {s : State} (hreg : s.clkEnReg o = true) (hen : bg s.loc.clkEn o = true)
    (hrun : bg s.ref.outRun o = false) :
    clkEdge o true s = (clkTake o s).onLoc (fun l => { l with clkHigh := bs l.clkHigh o true }) := by
  have hnow : bg (clkTake o s).ref.outRun o = true := by simp [clkTake, bg, bs]
  simp [clkEdge, hreg, hen, hrun, hnow]

/-- A disabled output stops at the end of its high phase (R340). -/
theorem clkEdge_stops {o : Nat} {s : State} (hreg : s.clkEnReg o = false) (hrun : bg s.ref.outRun o = true) :
    clkEdge o false s = (clkStop o s).onLoc (fun l => { l with clkHigh := bs l.clkHigh o false }) := by
  simp [clkEdge, hreg, hrun]

/-- The filter passes a level that stays and that changes (R67). -/
theorem evtPin_passed {off pin hold : Nat} {rising : Bool} {s : State} (hhold : evtFilter ≤ hold)
    (hlevel : og s.tim.evtIn pin ≠ some rising) :
    evtPin off pin rising hold s = evtEdge off pin rising (s.onTim (fun t => { t with evtIn := os t.evtIn pin (some rising) })) :=
  if_neg (by simp [Nat.not_lt.mpr hhold, hlevel])

theorem evtPin_blocked {off pin hold : Nat} {rising : Bool} {s : State} (h : hold < evtFilter ∨ og s.tim.evtIn pin = some rising) :
    evtPin off pin rising hold s = s := if_pos h

/-- The level that the filter shows plays no part in the capture (R66). -/
theorem evtTaken_evtIn (off pin : Nat) (rising : Bool) (s : State) (l : TimeS → Tbl (Option Bool)) :
    evtTaken off pin rising (s.onTim (fun t => { t with evtIn := l t })) = evtTaken off pin rising s := rfl

theorem evtEdge_ignored {off pin : Nat} {rising : Bool} {s : State} (h : evtTaken off pin rising s = false) :
    evtEdge off pin rising s = s := if_pos (by simp [h])

/-- A captured edge that finds the FIFO full is counted as lost (R68). -/
theorem evtEdge_lost {off pin : Nat} {rising : Bool} {s : State} (h : evtTaken off pin rising s = true) (hfull : 64 ≤ s.tim.evt.length) :
    evtEdge off pin rising s =
      (((s.onTim (fun t => { t with evtLast := ns t.evtLast pin (s.grid off + 1) })).wb EVTC.FIFO_STAT_OVF true).onTim
        (fun t => { t with evtLost := min 0xFFFFFFFF (t.evtLost + 1) })).raise 0x09 1 fnsAll :=
  (if_neg (by simp [h])).trans (if_pos hfull)

/-- Another one is stored with its stamp (R66–R68). -/
theorem evtEdge_stored {off pin : Nat} {rising : Bool} {s : State} (h : evtTaken off pin rising s = true) (hroom : s.tim.evt.length < 64) :
    evtEdge off pin rising s =
      let b := s.rd EVTC.EVT_TB_BASE
      let st := s.baseAt b (s.grid off / 16 * 16)
      evtLevel (evtSync (s.onTim (fun t => { t with
        evtLast := ns t.evtLast pin (s.grid off + 1)
        evt := t.evt ++ [{ w0 := t.evtSeq % 256 * 2 ^ 24 + b2n (s.baseValid b) * 2 ^ 12 + b * 2 ^ 8 + b2n rising * 2 ^ 7 + pin
                           w1 := stampNs st, w2 := s.idx % 2 ^ 24 * 2 ^ 8 + stampFr st, w3 := t.evtLost }]
        evtSeq := (t.evtSeq + 1) % 256, evtLost := 0 }))) :=
  (if_neg (by simp [h])).trans (if_neg (Nat.not_le.mpr hroom))

/-- A frame without its sync word, or at no rate of the table, leaves no mark (R60). -/
theorem ltcFrame_bad {edge : Nat} {x : LtcFrame} {s : State} (h : x.sync = false ∨ 4 < x.rate) : ltcFrame edge x s = s :=
  if_pos (by simpa using h)

theorem ltcFrame_reverse {edge : Nat} {x : LtcFrame} {s : State} (hsync : x.sync = true) (hrate : x.rate ≤ 4) (hrev : x.reverse = true) :
    ltcFrame edge x s =
      ((s.wr TIME.LTC_IN_TC_ADDR x.addr (i := 3)).ww TIME.LTC_IN_UB x.ub (i := 3)).wb TIME.LTC_IN_STAT_REVERSE true (i := 3) := by
  simp [ltcFrame, hsync, Nat.not_lt.mpr hrate, hrev]

theorem ltcFrame_forward {edge : Nat} {x : LtcFrame} {s : State} (hsync : x.sync = true) (hrate : x.rate ≤ 4) (hrev : x.reverse = false) :
    ltcFrame edge x s =
      let t := (((s.wr TIME.LTC_IN_TC_ADDR x.addr (i := 3)).ww TIME.LTC_IN_UB x.ub (i := 3)).wb TIME.LTC_IN_STAT_REVERSE false (i := 3)).wr
        TIME.LTC_IN_STAT_RATE x.rate (i := 3)
      (if t.rb TIME.TB_CTL_LTC_FOLLOW (i := 3) then ltcJudge edge x t else t).onTim (fun q =>
        { q with ltcLast := some (edge, x.addr) }) := by
  simp [ltcFrame, hsync, Nat.not_lt.mpr hrate, hrev]

/-- What an output frame sends, once no setting waits (R65). -/
theorem ltcOutFrame_settled {s : State} (h : s.tim.ltcOutWait = false) :
    ltcOutFrame s =
      let t := s.wb TIME.LTC_OUT_STAT_FREEWHEEL (!s.baseValid s.tim.ltcOut.2.1) (i := 3)
      t.onTim (fun q => { q with ltcOutFrames := q.ltcOutFrames + 1, ltcOutTc := t.ltcOutNow }) := by
  simp only [ltcOutFrame, h, Bool.false_eq_true, if_false]

/-- Settings that wait for an ALIGN come first (R91). -/
theorem ltcOutFrame_waiting {s : State} (h : s.tim.ltcOutWait = true) :
    ltcOutFrame s = ltcOutFrame ((s.onTim (fun t => { t with
      ltcOut := (s.rd TIME.LTC_OUT_CTL_RATE (i := 3), s.rd TIME.LTC_OUT_CTL_SRC (i := 3), s.rdS TIME.LTC_OUT_OFS_OFS (i := 3))
      ltcOutWait := false })).onRef (fun r => { r with ao := is r.ao 2 0 })) := by
  refine Eq.trans ?_ (ltcOutFrame_settled rfl).symm
  simp only [ltcOutFrame, h, if_true]

/-- The level at a pin that it has already (R592). -/
theorem gpioEdge_same {pin : Nat} {rising : Bool} {s : State} (h : s.rb LSIO.GPIO_IN pin = rising) : gpioEdge pin rising s = s :=
  if_pos (.inr h)

theorem gpioEdge_new {pin : Nat} {rising : Bool} {s : State} (hpin : pin ≤ 31) (h : s.rb LSIO.GPIO_IN pin ≠ rising) :
    gpioEdge pin rising s =
      if bit ((s.wb LSIO.GPIO_IN rising pin).rd LSIO.GPIO_EDGE pin) (b2n (!rising)) then
        ((s.wb LSIO.GPIO_IN rising pin).wb LSIO.GPIO_EVT true pin).raise 0x24 3 fnsAll
      else s.wb LSIO.GPIO_IN rising pin :=
  if_neg (not_or.mpr ⟨Nat.not_lt.mpr hpin, h⟩)

/-- An input of a bank whose supply is off, or that its block does not change, is as if absent (R600, R601). -/
theorem bank_absent {b : Nat} {s t : State} (h : s.bankUp b = false ∨ t = s) : (if s.bankUp b then t else s) = s := by
  rcases h with h | rfl
  · exact if_neg (Bool.eq_false_iff.mp h)
  · exact ite_self _

/-- Settles O34: the equation of each row's operation in the case that the clause names, `bank_absent` where nothing happens. -/
theorem edgesAreTaken : Obligations.EdgesAreTaken := by
  refine ⟨?noWindow, ?window, ?candidate, ?pin, ?noPin, ?outStarts, ?outStops, ?evtBlocked, ?evtIgnored, ?evtLost, ?evtStored,
    ?ltcForward, ?ltcReverse, ?ltcBad, ?ltcOut, ?ltcOutWaits, ?stage, ?noStage, ?gpioFlagged, ?gpioUnflagged, ?noGpio⟩
  case noWindow => exact fun ys => happens_intro (fun _ => rfl) fun _ h => driftWindow_none h
  case window => exact fun ys => happens_intro (fun _ => rfl) fun _ _ => rfl
  case candidate => exact fun c hlo hhi => happens_intro (fun _ => rfl) fun _ _ => if_pos ⟨hlo, hhi⟩
  case pin => exact fun pin rising off hpin => happens_intro (fun _ => rfl) fun _ ⟨hbank, hactive⟩ => if_pos ⟨hbank, hpin, hactive⟩
  case noPin => exact fun pin rising off => happens_intro (fun _ => rfl) fun _ h => if_neg (by rcases h with h | h <;> simp [h])
  case outStarts =>
    exact fun o ho => happens_intro (fun _ => rfl) fun _ ⟨hreg, hen, hrun⟩ => (if_pos ho).trans (clkEdge_starts hreg hen hrun)
  case outStops => exact fun o ho => happens_intro (fun _ => rfl) fun _ ⟨hreg, hrun⟩ => (if_pos ho).trans (clkEdge_stops hreg hrun)
  case evtBlocked => exact fun off pin rising hold => happens_intro (fun _ => rfl) fun _ h => bank_absent (h.imp_right evtPin_blocked)
  case evtIgnored =>
    intro off pin rising hold hhold
    refine happens_intro (fun _ => rfl) fun s ⟨hbank, hlevel, htaken⟩ => (if_pos hbank).trans ?_
    rw [evtPin_passed hhold hlevel, evtEdge_ignored (by rwa [evtTaken_evtIn])]
  case evtLost =>
    intro off pin rising hold hhold
    refine happens_intro (fun _ => rfl) fun s ⟨hbank, hlevel, htaken, hfull⟩ => (if_pos hbank).trans ?_
    exact (evtPin_passed hhold hlevel).trans (evtEdge_lost htaken hfull)
  case evtStored =>
    intro off pin rising hold hhold
    refine happens_intro (fun _ => rfl) fun s ⟨hbank, hlevel, htaken, hroom⟩ => (if_pos hbank).trans ?_
    exact (evtPin_passed hhold hlevel).trans (evtEdge_stored htaken hroom)
  case ltcForward =>
    intro edge x hsync hrate hrev
    exact happens_intro (fun _ => rfl) fun _ hbank => (if_pos hbank).trans (ltcFrame_forward hsync hrate hrev)
  case ltcReverse =>
    intro edge x hsync hrate hrev
    exact happens_intro (fun _ => rfl) fun _ hbank => (if_pos hbank).trans (ltcFrame_reverse hsync hrate hrev)
  case ltcBad => exact fun edge x => happens_intro (fun _ => rfl) fun _ h => bank_absent (h.imp_right ltcFrame_bad)
  case ltcOut => exact happens_intro (fun _ => rfl) fun _ h => ltcOutFrame_settled h
  case ltcOutWaits => exact happens_intro (fun _ => rfl) fun _ h => (ltcOutFrame_waiting h).trans (ltcOutFrame_settled rfl)
  case stage =>
    intro g b hlo hhi hb
    refine happens_intro (fun _ => rfl) fun s ⟨hstage, hstate, hdue⟩ => ?_
    subst hstage
    exact if_pos ⟨hlo, hhi, hstate, hb, hdue⟩
  case noStage =>
    intro g
    refine happens_intro (fun _ => rfl) fun s h => if_neg ?_
    rintro ⟨-, -, hstate, -, hdue⟩
    exact h.elim (absurd hstate) (Nat.not_lt.mpr hdue)
  case gpioFlagged =>
    intro pin rising hpin
    refine happens_intro (fun _ => rfl) fun s ⟨hbank, hnew, hedge⟩ => (if_pos hbank).trans ?_
    rw [gpioEdge_new hpin hnew, if_pos hedge]
  case gpioUnflagged =>
    intro pin rising hpin
    refine happens_intro (fun _ => rfl) fun s ⟨hbank, hnew, hedge⟩ => (if_pos hbank).trans ?_
    rw [gpioEdge_new hpin hnew, if_neg (Bool.eq_false_iff.mp hedge)]
  case noGpio => exact fun pin rising => happens_intro (fun _ => rfl) fun _ h => bank_absent (h.imp_right gpioEdge_same)

end Sys2Proof.Machine
end

section
/-!
PROOFS. Clocks, gates, modules and rate-conversion groups: what PF0's register writes do and what a tenant's do not, and how the core
PLLs, the TPLLs and the MPLL follow their events (R95–R104, R120, R137, R185, R195, R323, R340, R341, R419).
-/
namespace Sys2Proof.Machine

/-! ## Registers of clocks and groups -/

/-- A register access that changes nothing is not noted for the partner (R392). -/
theorem actNoted_self (pg : Nat) (s : State) : actNoted pg s s = s := by simp [actNoted]

/-- PF0's swap takes the core clock to a standby that has lock (R104). -/
theorem regCpllSwap_locked {fn w : Nat} {s t : State} (hfn : isPF0 fn = true) (ht : s.writeRW CLKG.CPLL_CTL w = t)
    (hlock : t.cpllLock (1 - t.rd CLKG.CPLL_STAT_ACTIVE) = true) :
    regCpllSwap fn w s = t.wr CLKG.CPLL_STAT_ACTIVE (1 - t.rd CLKG.CPLL_STAT_ACTIVE) := by
  subst ht
  exact (if_pos hfn).trans (if_pos hlock)

/-- PF0's phase step begins unless one is running (R99). -/
theorem regMpllPstepWrite_idle {fn w : Nat} {s : State} (hfn : isPF0 fn = true) (hidle : s.rb CLKG.MPLL_STAT_PSTEP_BUSY = false) :
    regMpllPstepWrite fn w s = pstepStart (sgn 16 (w % 2 ^ 16)) s := if_pos (by simp [hfn, hidle])

/-- A new spread of the table begins its change (R96). -/
theorem sscStart_new {m : Nat} {s : State} (hdef : m ≠ 3) (hnew : m ≠ s.rd CLKG.SSC_CTL_MODE) :
    sscStart m s = (s.wr CLKG.SSC_CTL_MODE m).wb CLKG.SSC_STAT_BUSY true := if_neg (not_or.mpr ⟨hdef, hnew⟩)

/-- PF0's choice of the spread is taken in CONFIG and TEST (R96). -/
theorem regSscModeWrite_taken {fn w : Nat} {s : State} (hfn : isPF0 fn = true) (hmode : s.mode = mCONFIG ∨ s.mode = mTEST) :
    regSscModeWrite fn w s = sscStart (w % 4) s := if_pos (by simpa [hfn] using hmode)

/-- The binding is written where no port of a changed group runs (R185). -/
theorem bindWrite_free {w : Nat} {s : State} (h : bindOk w s = true) : bindWrite w s = s.putMirrored 0x10 0 0x104 0xF w := if_pos h

theorem bindWrite_ignored {w : Nat} {s : State} (h : bindOk w s = false) : bindWrite w s = s.wb SRCB.GLOBAL_STAT_BIND_IGN true :=
  if_neg (Bool.eq_false_iff.mp h)

/-- The owner's RELOCK of a group waits for the work on the groups (R195). -/
theorem regRelock_owner {fn w g : Nat} {s : State} (hg : 3 ≤ g) (hsel : s.rd SRCB.GRP_SEL_GROUP fn = g)
    (hmay : may (actsAs fn) (s.grpOwner g) = true) :
    regRelock fn w s = (s.writeRW SRCB.GRP_CFG w g).onSrc (fun c => { c with relockPend := c.relockPend ++ [g] }) := by
  subst hsel
  exact if_neg (by simp [hmay, Nat.not_lt.mpr hg])

section Tenant
variable {fn w : Nat} {s : State} (hfn : isPF0 fn = false)
include hfn

/-! A register of a page for PF0 does not take a tenant's write (R568). -/

theorem regCpllSwap_tenant : regCpllSwap fn w s = s := if_neg (Bool.eq_false_iff.mp hfn)

theorem regAlignCmd_tenant : regAlignCmd fn w s = s := if_neg (Bool.eq_false_iff.mp hfn)

theorem regI2sBindWrite_tenant : regI2sBindWrite fn w s = s := if_neg (Bool.eq_false_iff.mp hfn)

theorem regMpllPstepWrite_tenant : regMpllPstepWrite fn w s = s := if_neg (by simp [hfn])

theorem regSscModeWrite_tenant : regSscModeWrite fn w s = s := if_neg (by simp [hfn])

end Tenant

/-- Settles O26: the equation of each register's operation for PF0 or the group's owner, and for a tenant the operation's guard. -/
theorem clockRegistersAct : Obligations.ClockRegistersAct := by
  refine ⟨?swap, ?pstep, ?ssc, ?gcl, ?qsfp, ?relock, ?bind, ?bindIgnored, ?grpStart, ?clkOut, ?mclk, ?tenant⟩
  case swap => exact fun fn w hfn => happens_intro (fun _ => rfl) fun _ hlock => regCpllSwap_locked hfn rfl hlock
  case pstep => exact fun fn w hfn => happens_intro (fun _ => rfl) fun _ hidle => regMpllPstepWrite_idle hfn hidle
  case ssc =>
    intro fn w hfn
    exact happens_intro (fun _ => rfl) fun _ ⟨hmode, hdef, hnew⟩ => (regSscModeWrite_taken hfn hmode).trans (sscStart_new hdef hnew)
  case gcl => exact fun fn port w hfn hport => happens_intro (fun _ => rfl) fun _ _ => if_pos (by simp [hfn, hport])
  case qsfp => exact fun fn port w off hfn hport => happens_intro (fun _ => rfl) fun _ _ => if_pos (by simp [hfn, hport])
  case relock => exact fun fn w g hg => happens_intro (fun _ => rfl) fun _ ⟨hsel, hmay⟩ => regRelock_owner hg hsel hmay
  case bind =>
    intro fn w hfn
    exact happens_intro (fun _ => rfl) fun s hok => congrArg (actNoted 0x10 s) ((if_pos hfn).trans (bindWrite_free hok))
  case bindIgnored =>
    intro fn w hfn
    exact happens_intro (fun _ => rfl) fun s hbusy => congrArg (actNoted 0x10 s) ((if_pos hfn).trans (bindWrite_ignored hbusy))
  case grpStart => exact fun fn g w hfn hg hbit => happens_intro (fun _ => rfl) fun _ _ => if_pos (by simp [hfn, hg, hbit])
  case clkOut => exact fun fn o w hfn ho => happens_intro (fun _ => rfl) fun _ _ => if_pos (by simp [hfn, ho])
  case mclk => exact fun fn i w hfn hi => happens_intro (fun _ => rfl) fun _ _ => if_pos (by simp [hfn, hi])
  case tenant =>
    refine fun fn w hfn => ⟨?_, ?_, ?_, ?_, ?_⟩
    · exact happens_intro (fun _ => rfl) fun _ _ => regCpllSwap_tenant hfn
    · exact happens_intro (fun _ => rfl) fun _ _ => regMpllPstepWrite_tenant hfn
    · exact happens_intro (fun _ => rfl) fun _ _ => regSscModeWrite_tenant hfn
    · exact happens_intro (fun _ => rfl) fun s _ => (congrArg (actNoted 0x10 s) (regI2sBindWrite_tenant hfn)).trans (actNoted_self 0x10 s)
    · exact happens_intro (fun _ => rfl) fun _ _ => regAlignCmd_tenant hfn

/-! ## Core PLLs, TPLLs and the MPLL -/

/-- An event that acts in every mode: its row is `g`, and `g` is `f` wherever `ok` holds. -/
theorem occurs_intro {c : Instr} {ok : State → Prop} {f g : State → State} (hc : ∀ s, exec c s = .next (g s))
    (hb : ∀ s, ok s → g s = f s) : occurs c ok f :=
  fun s hok => (hc s).trans (congrArg Host.Outcome.next (hb s hok))

/-- A loss with a locked standby moves the core clock, and counts (R95, R419). -/
theorem cpllLoss_failover {s t : State} {a : Nat} (ha : s.rd CLKG.CPLL_STAT_ACTIVE = a) (hlock : (cpllSet a false s).cpllLock (1 - a) = true)
    (ht : ((cpllSet a false s).wr CLKG.CPLL_STAT_ACTIVE (1 - a)).cnt CLKG.CPLL_STAT_FAILOVERS = t) :
    cpllLoss s = (t.raise 0x02 0 fnsAll).err 0x0301 0x02 0 (1 - a) 0 none (t.beyond kdCPLL) := by
  subst ha ht
  exact if_pos hlock

/-- One without a locked standby is recorded as CRITICAL (R419). -/
theorem cpllLoss_both {s : State} {a : Nat} (ha : s.rd CLKG.CPLL_STAT_ACTIVE = a) (hlock : (cpllSet a false s).cpllLock (1 - a) = false) :
    cpllLoss s = (cpllSet a false s).err 0x0302 0x02 0 0 0 none true := by
  subst ha
  exact if_neg (Bool.eq_false_iff.mp hlock)

/-- A TPLL that is out of lock cannot lose it. -/
theorem tpllLoss_unlocked {b : Nat} {s : State} (h : s.tpllLock b = false) : tpllLoss b s = s := if_pos h

/-- A TPLL that falls out of lock counts the loss and takes the ports and the links of its plane with it (R98). -/
theorem tpllLoss_locked {b : Bool} {s t u : State} (h : s.tpllLock (b2n b) = true)
    (ht : (tpllShow (b2n b) false s).cnt (if b then CLKG.TPLL_STAT_B_LOSS else CLKG.TPLL_STAT_A_LOSS) = t)
    (hu : (t.raise 0x02 1 fnsAll).err 0x0303 0x02 0 (b2n b) 0 none (!t.tpllLock (1 - b2n b) || t.beyond kdPLANE) = u) :
    tpllLoss (b2n b) s =
      linksFail b (u.each [2 * b2n b, 2 * b2n b + 1] (fun s p => stampsVoid p (linkFail p (linkShow p false ⟨true, false⟩ s)))) := by
  subst ht hu
  refine (if_neg (by simp [h])).trans ?_
  cases b with
  | false => rfl
  | true => rfl

/-- A phase step that was running ends: its steps are counted and every output has moved (R99). -/
theorem pstepDone_busy {s t : State} {n : Int} (hbusy : s.rb CLKG.MPLL_STAT_PSTEP_BUSY = true) (hn : s.rdS CLKG.MPLL_PHASE_STEPS = n)
    (ht : aoShift (stepUnits (n + s.ref.pstep) - stepUnits n) (s.wrS CLKG.MPLL_PHASE_STEPS (n + s.ref.pstep)) = t) :
    pstepDone s = alignPublish ((t.wb CLKG.MPLL_STAT_PSTEP_BUSY false).onRef (fun r => { r with pstep := 0 })) := by
  subst hn ht
  exact if_neg (by simp [hbusy])

/-- The spread that was being changed is in force, and the standby, reprogrammed first, is active if it has lock (R96). -/
theorem exec_sscChangeDone_busy {s t : State} (hup : up s = true) (hbusy : s.rb CLKG.SSC_STAT_BUSY = true)
    (ht : (if s.cpllLock (1 - s.rd CLKG.CPLL_STAT_ACTIVE) then s.wr CLKG.CPLL_STAT_ACTIVE (1 - s.rd CLKG.CPLL_STAT_ACTIVE) else s) = t) :
    exec .sscChangeDone s =
      .next (((t.wb CLKG.SSC_STAT_BUSY false).onRef (fun r => { r with ssc := t.rd CLKG.SSC_CTL_MODE })).raise 0x02 3 fnsAll) := by
  subst ht
  exact congrArg Host.Outcome.next ((awake_up hup).trans (if_pos hbusy))

/-- Settles O33: the equation of each row's operation in the case that the clause names. -/
theorem pllsFollowTheirEvents : Obligations.PllsFollowTheirEvents := by
  refine ⟨?failover, ?both, ?standbyLoss, ?standbyBack, ?activeBack, ?mpllLoss, ?mpllBack, ?tpllLoss, ?tpllOut, ?tpllBack, ?sscMoves,
    ?sscStays, ?pstep, ?excursion, ?noExcursion, ?cyclesKept, ?cyclesStop⟩
  case failover => exact occurs_intro (fun _ => rfl) fun _ hlock => cpllLoss_failover rfl hlock rfl
  case both => exact occurs_intro (fun _ => rfl) fun _ hlock => cpllLoss_both rfl hlock
  case standbyLoss => exact occurs_intro (fun _ => rfl) fun _ _ => rfl
  case standbyBack => exact occurs_intro (fun _ => rfl) fun _ hlock => if_neg (Bool.eq_false_iff.mp hlock)
  case activeBack => exact occurs_intro (fun _ => rfl) fun _ hlock => if_pos hlock
  case mpllLoss => exact occurs_intro (fun _ => rfl) fun _ _ => rfl
  case mpllBack => exact occurs_intro (fun _ => rfl) fun _ _ => rfl
  case tpllLoss => exact fun b => occurs_intro (fun _ => rfl) fun _ hlock => tpllLoss_locked hlock rfl rfl
  case tpllOut => exact fun b => occurs_intro (fun _ => rfl) fun _ hout => tpllLoss_unlocked hout
  case tpllBack => exact fun b => occurs_intro (fun _ => rfl) fun _ _ => rfl
  case sscMoves => exact fun s hup ⟨hbusy, hlock⟩ => exec_sscChangeDone_busy hup hbusy (if_pos hlock)
  case sscStays => exact fun s hup ⟨hbusy, hlock⟩ => exec_sscChangeDone_busy hup hbusy (if_neg (Bool.eq_false_iff.mp hlock))
  case pstep => exact happens_intro (fun _ => rfl) fun _ hbusy => pstepDone_busy hbusy rfl rfl
  case excursion => exact fun plls => occurs_intro (fun _ => rfl) fun _ hout => if_neg hout
  case noExcursion => exact fun plls => occurs_intro (fun _ => rfl) fun _ hin => if_pos hin
  case cyclesKept => exact fun n hn => occurs_intro (fun _ => rfl) fun _ _ => if_neg (Nat.not_lt.mpr hn)
  case cyclesStop => exact fun n hn => occurs_intro (fun _ => rfl) fun _ _ => if_pos hn

end Sys2Proof.Machine
end

section
/-!
PROOFS. Network ports, streams and settings: what their status commands return, what single settings store, what modes, saved
settings and gate lists wait for, and how the ports follow their events (R109–R140, R176, R203, R213, R285, R309, R312, R422, R451,
R452, R467, R506, R509, R575, R588, R600).
-/
namespace Sys2Proof.Machine

/-! ## What status commands return -/

section Forms
variable {o : Opc} {own : Nat → State → Option Nat} {c : Env → Instr} {ok : Env → State → Prop} {f : Env → State → State}
  {body : Env → Nat → State → Res} {row : Env → Option Instr}

/-- A command whose part returns a list of entries of `n` words. -/
theorem completes_of_retL {n : Nat} {ws : Env → State → List Nat}
    (hc : ∀ e s, exec (c e) s = .next (runCmd o e own (body e) s (row e)))
    (hb : ∀ e s, ok e s → body e (callerOf e) s = retL (f e s) n (ws e s))
    (hr : ∀ e s, ok e s → row e = none ∨ s.mirrorActive = false := by exact fun _ _ _ => .inl rfl) :
    completes o own c ok (fun _ _ => 0) ws f :=
  completes_intro hc (fun e s k => ⟨n, hb e s k⟩) hr

end Forms

/-- The test of an object that exists and is as the operation needs it. -/
theorem not_beyond {i n : Nat} {b : Bool} (hi : i < n + 1) (hb : b = true) : ¬(n < i ∨ b = false) :=
  not_or.mpr ⟨Nat.not_lt.mpr (Nat.le_of_lt_succ hi), by simp [hb]⟩

/-- Settles O2: the part of each command, past its range check, is one answer with the words named. -/
theorem streamQueriesAnswer : Obligations.StreamQueriesAnswer := by
  refine ⟨?port, ?module, ?load, ?rxStatus, ?txStatus, ?sdp, ?sap⟩
  case port =>
    intro port hport
    exact completes_of_ret (fun _ _ => rfl) fun _ _ _ => if_neg (by omega)
  case module =>
    intro port n mem hport hn
    exact completes_of_ret (fun _ _ => rfl) fun _ _ hpresent => if_neg (by simp only [hpresent, reduceCtorEq, or_false]; omega)
  case load =>
    intro port hport
    exact completes_of_ret (fun _ _ => rfl) fun _ _ _ => if_neg (by omega)
  case rxStatus =>
    intro is his
    exact completes_of_retL (fun _ _ => rfl) fun _ _ _ => if_neg (listed_passes his fun i hi => by simpa using Nat.le_of_lt_succ hi)
  case txStatus =>
    intro is his
    exact completes_of_retL (fun _ _ => rfl) fun _ _ _ => if_neg (listed_passes his fun i hi => by simpa using Nat.le_of_lt_succ hi)
  case sdp =>
    intro i hi
    exact completes_of_ret (fun _ _ => rfl) fun _ _ hen => if_neg (not_beyond hi hen)
  case sap => exact fun page => completes_of_ret (fun _ _ => rfl) fun _ _ _ => rfl

/-! ## Settings -/

/-- Generators that are each in order are set in turn (R213). -/
theorem testgenBody_ok {l : List TgW} {fn : Nat} {s : State}
    (hl : listed l 16 (fun w => w.g < 16 ∧ w.kind ≤ 5 ∧ 1 ≤ w.freq ∧ w.freq ≤ 4800000 ∧ w.level < 2 ^ 16)) :
    testgenBody l fn s = done (s.each l (fun s w =>
      ((s.wr XPNT.TG_CTL_KIND w.kind w.g).wr XPNT.TG_FREQ_FREQ w.freq w.g).wr XPNT.TG_LEVEL_LEVEL w.level w.g)) := by
  obtain ⟨hne, hlen, hitem⟩ := hl
  have hall : l.all tgOk = true := List.all_eq_true.mpr fun w hw => by simpa [tgOk, and_assoc] using hitem w hw
  exact if_neg (by simp [hne, hall, hlen])

/-- A group's bandwidth and range in order are stored; the group's ports are bound by PF0 (R185, R203). -/
theorem srcGroupBody_plain {g bw range fn : Nat} {s : State} (hlo : 3 ≤ g) (hhi : g < 256) (hbw : bw ≤ 5) (hrange : range ≤ 2) :
    srcGroupBody g bw range none fn s = done (s.ww SRCB.GRP_CFG (256 * bw + 16 * range) g) := if_neg (by omega)

theorem srcGroupBody_bind {g bw range w fn : Nat} {s : State} (hlo : 3 ≤ g) (hhi : g < 256) (hbw : bw ≤ 5) (hrange : range ≤ 2)
    (hw : w < 16) (hfn : fn = 0) :
    srcGroupBody g bw range (some w) fn s = done (bindWrite w (s.ww SRCB.GRP_CFG (256 * bw + 16 * range) g)) :=
  (if_neg (by omega)).trans ((if_neg (· hfn)).trans (if_neg (by omega)))

/-- Settles O11: an operand in range reaches the branch of its command that stores it. -/
theorem settingsAreStored : Obligations.SettingsAreStored := by
  refine ⟨?watchdog, ?patrol, ?sapTx, ?testgen, ?tenant, ?group, ?groupBind, ?defers, ?addr, ?wake, ?udp, ?sap⟩
  case watchdog =>
    intro ms hlo hhi
    exact acts_of_done (fun _ _ => rfl) fun _ _ _ => if_neg (by omega)
  case patrol => exact fun on => acts_of_done (fun _ _ => rfl) fun _ _ _ => rfl
  case sapTx =>
    intro on sec hlo hhi
    exact acts_of_done (fun _ _ => rfl) fun _ _ _ => if_neg (by omega)
  case testgen => exact fun l hl => acts_of_done (fun _ _ => rfl) (fun _ _ _ => testgenBody_ok hl) fun _ _ halone => .inr halone
  case tenant =>
    intro t mode base limit hbase hlimit
    exact acts_of_done (fun _ _ => rfl) fun _ _ _ => if_neg (by omega)
  case group =>
    intro g bw range hlo hhi hbw hrange
    exact acts_of_done (fun _ _ => rfl) (fun _ _ _ => srcGroupBody_plain hlo hhi hbw hrange) fun _ _ halone => .inr halone
  case groupBind =>
    intro g bw range w hlo hhi hbw hrange hw
    exact acts_of_done (fun _ _ => rfl) (fun _ _ ⟨hcaller, _⟩ => srcGroupBody_bind hlo hhi hbw hrange hw hcaller)
      fun _ _ ⟨_, halone⟩ => .inr halone
  case defers => exact fun l g bw range bind => ⟨defers_intro fun _ _ => rfl, defers_intro fun _ _ => rfl⟩
  case addr =>
    intro port a hport hbits hip4 hgateway hip6a hip6b
    exact acts_of_done (fun _ _ => rfl) fun _ _ _ => if_neg (by omega)
  case wake =>
    intro i pat hlo hhi hlen hbytes
    have hany : ¬pat.any (fun p => 255 < p.1 || 255 < p.2) = true := by simpa [Nat.lt_succ_iff] using hbytes
    exact acts_of_done (fun _ _ => rfl) fun _ _ _ => if_neg (by simp only [hany, reduceCtorEq, or_false]; omega)
  case udp =>
    intro w hw hreserved
    exact acts_of_done (fun _ _ => rfl) fun _ _ _ => if_neg (by simp only [hreserved]; omega)
  case sap =>
    intro on addrs haddrs
    exact acts_of_done (fun _ _ => rfl) fun _ _ _ => if_neg (by simpa using haddrs)

/-! ## Modes, gate lists, snapshot sets and the event FIFO -/

/-- A request shown leaves the mode in force (R451). -/
theorem statePend_mode (s : State) (b : Bool) (m : Nat) : ((s.wb MODE.STATE_PEND_VALID b).wr MODE.STATE_PEND m).mode = s.mode :=
  calc ((s.wb MODE.STATE_PEND_VALID b).wr MODE.STATE_PEND m).mode
      = (s.wb MODE.STATE_PEND_VALID b).mode := rd_wr_field _ _ _ _ _ _ rfl (by decide) (by decide) (by decide) (by decide)
    _ = s.mode := rd_wr_field _ _ _ _ _ _ rfl (by decide) (by decide) (by decide) (by decide)

/-- A request that nothing denies or holds up waits two ticks, with MODE_CHG raised (R451, R452). -/
theorem modeSet_ok {target n : Nat} {s : State} (htarget : target < 16) (hallowed : modeDenied target s = false)
    (hfree : s.md.req = none) (hsaved : target = mSTANDBY → s.flashSaving = false)
    (hn : (if s.tim.published && !atOnce s.mode then 32 * (s.accTick + 2) else 0) = n) :
    modeSet target s = retIdx (mirrorNote 0x0102 ((((s.wb MODE.STATE_PEND_VALID true).wr MODE.STATE_PEND target).raise 0x00 1 fnsAll).onMd
      (fun m => { m with req := some (target, s.accTick + 2),
                         fadeAt := if target = mSAFE ∧ carries s.mode then some (32 * (s.accTick + 1)) else m.fadeAt }))) n := by
  subst hn
  have hidle : ¬(s.md.req.isSome = true ∨ (target = mSTANDBY ∧ s.flashSaving = true)) := by
    rintro (h | ⟨hstandby, h⟩)
    · simp [hfree] at h
    · simp [hsaved hstandby] at h
  refine (if_neg (by omega)).trans ((if_neg (Bool.eq_false_iff.mp hallowed)).trans ((if_neg hidle).trans ?_))
  simp only [statePend_mode]
  rfl

/-- A judged command whose part answers OK completes with what that part returns. -/
theorem exec_of_ok {o : Opc} {own : Nat → State → Option Nat} {c : Instr} {e : Env} {s t : State} {body : Nat → State → Res}
    {r n : Nat} {ws : List Nat} (hc : exec c s = .next (runCmd o e own body s none)) (h : judged o e own s = true)
    (hb : body (callerOf e) (accept o e s) = .ok t r ws n stOK) (hfits : fits (accept o e s) e ws.length = true) :
    exec c s = okWith o e r ws t := by
  rw [hc, runCmd_judged h, hb, finish_ok hfits]
  rfl

/-- The four words of each of `n` events that the FIFO holds. -/
theorem length_evtWords {l : List EvtEntry} {n : Nat} (h : n ≤ l.length) :
    ((l.take n).flatMap (fun x => [x.w0, x.w1, x.w2, x.w3])).length = 4 * n := by
  have hwords (l : List EvtEntry) : (l.flatMap (fun x => [x.w0, x.w1, x.w2, x.w3])).length = 4 * l.length := by
    induction l with
    | nil => rfl
    | cons x l ih => simp only [List.flatMap_cons, List.length_append, List.length_cons, List.length_nil, ih]; omega
  rw [hwords, List.length_take_of_le h]

/-- Gate entries and a cycle in order pass the test of GCL_LOAD (R118, R120). -/
theorem gclTest_passes {port cycle phase : Nat} {l : List (Nat × Nat)} (hport : port < 4) (hlo : 0 < cycle) (hhi : cycle ≤ 384)
    (hphase : phase < cycle) (hlen : l.length ≤ 16) (hl : ∀ x ∈ l, x.1 < 256 ∧ x.2 < 2 ^ 20) :
    ¬(3 < port ∨ cycle = 0 ∨ 384 < cycle ∨ cycle ≤ phase ∨ 16 < l.length ∨
      l.any (fun x => 255 < x.1 || 0xFFFFF < x.2) = true) := by
  have hany : ¬l.any (fun x => 255 < x.1 || 0xFFFFF < x.2) = true := by simpa [Nat.lt_succ_iff] using hl
  simp only [hany, reduceCtorEq, or_false]
  omega

/-- A list that leaves SNAP_CTL alone neither starts nor ends its snapshot set (R285). -/
theorem find_snapCtl_none {ws : List RegW} (h : ∀ w ∈ ws, w.off ≠ 0x300) : ws.find? (fun w => w.off == 0x300) = none :=
  List.find?_eq_none.mpr fun w hw => by simpa using h w hw

/-- EVT_READ takes the events asked for, as many as the FIFO holds, where their words fit (R68, R527). -/
theorem exec_evtRead_fits {e : Env} {n : Nat} {s a : State} (ha : accept {} e s = a) (hn : n ≤ 16) (hjudged : judged {} e anyone s = true)
    (hfits : fits a e (4 * min n a.tim.evt.length) = true) :
    exec (.evtRead e n) s = okWith {} e (min n a.tim.evt.length)
      ((a.tim.evt.take (min n a.tim.evt.length)).flatMap (fun x => [x.w0, x.w1, x.w2, x.w3])) (evtDrop (min n a.tim.evt.length) a) := by
  have hfit : min (min n a.tim.evt.length) (a.respLimit e / 16) = min n a.tim.evt.length := by
    simp only [fits, Bool.or_eq_true, decide_eq_true_eq, beq_iff_eq] at hfits
    omega
  refine exec_of_ok (n := 4) rfl hjudged ((if_neg (Nat.not_lt.mpr hn)).trans ?_) ?_
  · rw [ha]
    simp only [hfit, Nat.lt_irrefl, if_false]
  · rwa [ha, length_evtWords (Nat.min_le_right ..)]

/-- Settles O23: each command passes its own checks; the FIFO read takes all it may, as its words fit. -/
theorem modeAndSaveCommandsAct : Obligations.ModeAndSaveCommandsAct := by
  refine ⟨?mode, ?save, ?gates, ?snap, ?events⟩
  case mode =>
    intro target htarget e s o a n hjudged hfits hallowed hfree hsaved
    exact exec_of_ok rfl hjudged (modeSet_ok htarget hallowed hfree hsaved rfl) hfits
  case save =>
    intro scenes hlen hscenes
    have hany : ¬scenes.any (fun x => 63 < x.1 || 65535 < x.2) = true := by simpa [Nat.lt_succ_iff] using hscenes
    exact begins_intro (fun _ _ => rfl) fun _ _ _ => if_neg (not_or.mpr ⟨hany, Nat.not_lt.mpr hlen⟩)
  case gates =>
    intro port cycle phase l hport hlo hhi hphase hlen hl
    exact actsAt_of_retIdx (fun _ _ => rfl) fun _ _ hfree =>
      (if_neg (gclTest_passes hport hlo hhi hphase hlen hl)).trans (if_neg (Bool.eq_false_iff.mp hfree))
  case snap =>
    intro set ws hset hne hok hctl
    refine acts_of_done (fun _ _ => rfl) fun _ s hoff => ?_
    simp only [find_snapCtl_none hctl, Option.map_none, hoff, hne, hok, Nat.not_lt.mpr (Nat.le_of_lt_succ hset), Bool.false_and,
      Bool.false_eq_true, reduceCtorEq, or_false, if_false]
  case events => exact fun n hn e s hjudged hfits => exec_evtRead_fits rfl hn hjudged hfits

/-! ## The ports' events -/

/-- What a delay request that is due comes to: sent, or its master lost with 16 unanswered (R130). -/
theorem delayReq_due {port : Nat} {s : State} (hport : port < 4) (hfw : s.fwUp = true) (hen : s.rb TIME.PTP_CTL_EN (i := planeOf port) = true)
    (hmaster : (og s.net.master port).isSome = true) (hdue : ng s.net.reqAt port ≤ s.clock) :
    delayReq port s =
      if 16 ≤ ng s.net.unans port then masterLost port s
      else txPut port (txKey port 1)
        { kind := .ptp, len := max 64 (14 + (if s.rb TIME.PTP_CTL_IPV6 (i := planeOf port) then 40 else 20) + 8 +
            (if s.rb TIME.PTP_CTL_DELAY_MECH (i := planeOf port) then 54 else 44) + 4), bytes := [], held := false }
        (s.onNet (fun n => { n with
          unans := ns n.unans port (ng n.unans port + 1), reqAt := ns n.reqAt port (s.clock + logSamples (ig n.reqInt port)) })) := by
  refine if_neg ?_
  simp only [hfw, hen, Option.isNone_iff_eq_none, Option.isSome_iff_ne_none.mp hmaster, reduceCtorEq, false_or]
  omega

/-- A chance to send at which no frame may start (R115, R118). -/
theorem frameStart_none {port off v : Nat} {s : State} (hport : port < 4) (h : (txTry port off v s).2 = none) :
    frameStart port off v s = (txTry port off v s).1 := by
  have htry : txTry port off v s = ((txTry port off v s).1, none) := Prod.ext rfl h
  rw [frameStart, if_neg (by omega), htry]

/-- One at which a frame starts: an audio frame notes how long after its due time it departs. -/
theorem frameStart_some {port off v : Nat} {f : TxFrame} {s : State} (hport : port < 4) (h : (txTry port off v s).2 = some f) :
    frameStart port off v s = audioLeft port off v f (txTry port off v s).1 := by
  have htry : txTry port off v s = ((txTry port off v s).1, some f) := Prod.ext rfl h
  rw [frameStart, if_neg (by omega), htry]

/-- A host frame that has left, its ring stopped since, has no write-back (R310, R506). -/
theorem hostDeparted_stopped {port off : Nat} {x : HostDone} {s t : State} (ht : txSettle port (s.grid off) s = t)
    (hfind : t.net.hostDone.find? (fun x => x.port == port) = some x) (hstopped : t.ringRuns (rk x.fn x.ring) = false) :
    hostDeparted port off s = t.onNet (fun n => { n with hostDone := n.hostDone.erase x }) := by
  subst ht
  have hstill : ∀ g, ((txSettle port (s.grid off) s).onNet g).ringRuns (rk x.fn x.ring) = false := fun _ => hstopped
  simp only [hostDeparted, hfind, hstill, if_true]
  split <;> rfl

/-- That of a ring that runs is made, with whether the frame was sent and its stamp (R310, R506). -/
theorem hostDeparted_running {port off : Nat} {x : HostDone} {d : Desc} {s t : State} (ht : txSettle port (s.grid off) s = t)
    (hfind : t.net.hostDone.find? (fun x => x.port == port) = some x)
    (hdesc : (t.descList (rk x.fn x.ring)).find? (fun d => d.d.handle == x.handle && d.st == stOK) = some d)
    (hruns : t.ringRuns (rk x.fn x.ring) = true) :
    hostDeparted port off s =
      let u := t.onNet (fun n => { n with hostDone := n.hostDone.erase x })
      let k := rk x.fn x.ring
      descFlush x.fn x.ring (writeBack x.fn x.ring d { plainWb x.fn x.ring d (if x.sent then stOK else stLINK_DOWN) u with
        port := port, lenDone := if x.sent then d.d.len else 0, stamp := x.stamp.map (u.ringStamp k port) }
        (descSet k ((u.descList k).erase d) u)) := by
  subst ht
  have hstill : ∀ g, ((txSettle port (s.grid off) s).onNet g).ringRuns (rk x.fn x.ring) = true := fun _ => hruns
  have hlist : ∀ g, ((txSettle port (s.grid off) s).onNet g).descList (rk x.fn x.ring) =
      (txSettle port (s.grid off) s).descList (rk x.fn x.ring) := fun _ => rfl
  simp only [hostDeparted, hfind, hlist, hdesc, hstill, Bool.true_eq_false, if_false]

/-- Settles O35: the equation of each row's operation in the case that the clause names. -/
theorem portsFollowTheirEvents : Obligations.PortsFollowTheirEvents := by
  refine ⟨?lost, ?notLost, ?unanswered, ?request, ?notDue, ?ageOut, ?linkDown, ?linkDownAlready, ?noBank, ?seen, ?inserted, ?removed,
    ?monitor, ?noMonitor, ?monitorManual, ?noFrame, ?frame, ?gate, ?noGate, ?departedStopped, ?departed, ?receive, ?noReceive⟩
  case lost => exact fun port => happens_intro (fun _ => rfl) fun _ ⟨hfw, hover⟩ => if_pos (by simp [hfw, hover])
  case notLost => exact fun port => happens_intro (fun _ => rfl) fun _ h => if_neg (by rcases h with h | h <;> simp [h])
  case unanswered =>
    intro port hport
    refine happens_intro (fun _ => rfl) fun s ⟨hfw, hen, hmaster, hdue, hunans⟩ => ?_
    exact (delayReq_due hport hfw hen hmaster hdue).trans (if_pos hunans)
  case request =>
    intro port hport
    refine happens_intro (fun _ => rfl) fun s ⟨hfw, hen, hmaster, hdue, hunans⟩ => ?_
    exact (delayReq_due hport hfw hen hmaster hdue).trans (if_neg (Nat.not_le.mpr hunans))
  case notDue => exact fun port => happens_intro (fun _ => rfl) fun _ h => if_pos (.inr (.inr (.inr h.symm)))
  case ageOut => exact fun port a => happens_intro (fun _ => rfl) fun _ hfw => if_pos hfw
  case linkDown =>
    intro port fec x hport
    exact happens_intro (fun _ => rfl) fun _ hup => if_neg (not_beyond hport hup)
  case linkDownAlready => exact fun port fec x _ => happens_intro (fun _ => rfl) fun _ hdown => if_pos (.inr hdown)
  case noBank => exact fun port x => happens_intro (fun _ => rfl) fun _ hbank => if_pos (.inr hbank)
  case seen =>
    intro port x hport
    refine happens_intro (fun _ => rfl) fun s ⟨hbank, h⟩ => (if_neg (not_beyond hport hbank)).trans (if_pos (.inl ?_))
    rcases h with h | h <;> simp [h]
  case inserted =>
    intro port x hport hin
    refine happens_intro (fun _ => rfl) fun s ⟨hbank, hauto, hfw, hreach⟩ => (if_neg (not_beyond hport hbank)).trans ?_
    rw [hin]
    exact (if_neg (by simp [hauto, hfw, hreach])).trans (if_pos rfl)
  case removed =>
    intro port x hport hout
    refine happens_intro (fun _ => rfl) fun s ⟨hbank, hauto, hfw⟩ => (if_neg (not_beyond hport hbank)).trans ?_
    rw [hout]
    exact (if_neg (by simp [hauto, hfw])).trans (if_neg Bool.false_ne_true)
  case monitor => exact fun port a int hport => happens_intro (fun _ => rfl) fun _ hbank => if_pos ⟨hport, hbank⟩
  case noMonitor => exact fun port a int => happens_intro (fun _ => rfl) fun _ hbank => if_neg (by simp [hbank])
  case monitorManual => exact fun port a int _ s hauto => if_neg (by simp [hauto])
  case noFrame => exact fun port off v hport => happens_intro (fun _ => rfl) fun _ h => frameStart_none hport h
  case frame => exact fun port off v f hport => happens_intro (fun _ => rfl) fun _ h => frameStart_some hport h
  case gate => exact fun port off v => happens_intro (fun _ => rfl) fun _ hgating => if_pos hgating
  case noGate => exact fun port off v => happens_intro (fun _ => rfl) fun _ hgating => if_neg (Bool.eq_false_iff.mp hgating)
  case departedStopped => exact fun port off x => happens_intro (fun _ => rfl) fun s ⟨hfind, hstopped⟩ => hostDeparted_stopped rfl hfind hstopped
  case departed =>
    intro port off x d t
    refine happens_intro (fun _ => rfl) fun s ⟨ht, hfind, hdesc, hruns⟩ => ?_
    exact hostDeparted_running ht.symm hfind hdesc hruns
  case receive => exact fun port off x hport => happens_intro (fun _ => rfl) fun _ hup => if_pos ⟨hport, hup⟩
  case noReceive => exact fun port off x => happens_intro (fun _ => rfl) fun _ hdown => if_neg (by simp [hdown])

end Sys2Proof.Machine
end

section
/-!
PROOFS. Stream entries and reception: what the counter commands return and clear, how entries are committed, modified, removed and
loaded, and how sessions, announcements, memberships and streams follow their events (R143–R150, R164, R170–R176, R234, R309–R312,
R345, R388, R588).
-/
namespace Sys2Proof.Machine

/-! ## Counters -/

/-- Settles O3: past its range check each command's part is one answer with the words of the state before the clear. -/
theorem counterQueriesAnswer : Obligations.CounterQueriesAnswer := by
  refine ⟨?rx, ?tx, ?xpnt, ?i2s, ?i2c⟩
  case rx =>
    intro i clear hi
    exact completes_of_ret (fun _ _ => rfl) fun _ _ _ => if_neg (by omega)
  case tx =>
    intro i clear hi
    exact completes_of_ret (fun _ _ => rfl) fun _ _ _ => if_neg (by omega)
  case xpnt =>
    intro x n o m clear hx ho
    exact completes_of_retL (row := fun _ => none) (fun _ _ => congrArg Host.Outcome.next (if_neg (by omega))) fun _ _ _ => rfl
  case i2s =>
    intro ps clear hps
    exact completes_of_retL (fun _ _ => rfl) fun _ _ _ => if_neg (listed_passes hps fun p hp => by simpa using Nat.le_of_lt_succ hp)
  case i2c =>
    intro is clear his
    exact completes_of_retL (fun _ _ => rfl) fun _ _ _ => if_neg (listed_passes his fun i hi => by simpa using Nat.le_of_lt_succ hi)

/-! ## Entries by command -/

section Commit
variable {fn i : Nat} {from_ : Option Nat} {ws : List RegW} {after : State → State} {s t : State}

/-- A commit that is not refused leaves the work object clear and returns the entry's index (R172, R176). -/
theorem rxCommitRes_ok (h : rxCommit fn i workObj (entryStage 0x0E rxEntry from_ ws s) = .ok t) :
    rxCommitRes fn i from_ ws after s = .ok (after (entryReset 0x0E rxEntry workObj t)) i [i] 0 stOK := by
  simp only [rxCommitRes, h]

/-- That of a transmit stream returns its phase (R312). -/
theorem txCommitRes_ok (h : txCommit fn i workObj (entryStage 0x0F txEntry from_ ws s) = .ok t) :
    txCommitRes fn i from_ ws after s = .ok (after (entryReset 0x0F txEntry workObj t))
      ((after (entryReset 0x0F txEntry workObj t)).rd STTX.PHASE_PHASE i)
      [(after (entryReset 0x0F txEntry workObj t)).rd STTX.PHASE_PHASE i] 0 stOK := by
  simp only [txCommitRes, h]

end Commit

/-- A description that R148 takes gives a disabled entry its words, its reference clock and its session. -/
theorem rxSdpBody_taken {i fn : Nat} {d : List Byte} {p : RxPlace} {ws : List RegW} {ref : Option (Nat × Nat)} {s : State} (hi : i < 1024)
    (hwords : sdpWords d p s = some (ws, ref)) (hoff : s.rb STRX.CFG_EN i = false) :
    rxSdpBody i d p fn s = rxCommitRes fn i none ws (fun s => s.onRx (fun r =>
      { r with sdpRef := os r.sdpRef i ref, sapOf := os r.sapOf i (s.sessionOf d) })) (rxJudge s) := by
  simp only [rxSdpBody, hwords, hoff, Nat.not_lt.mpr (Nat.le_of_lt_succ hi), Bool.false_eq_true, if_false]

/-- Settles O14: each command passes its own checks, and its part is then the commit of the staged entry or the entry's removal. -/
theorem streamEntriesCommit : Obligations.StreamEntriesCommit := by
  refine ⟨?rxAdd, ?rxSdp, ?rxModify, ?rxRemove, ?txAdd, ?txModify, ?txRemove, ?defers⟩
  case rxAdd =>
    intro i ws t hi hws
    refine completes_intro (fun _ _ => rfl) (fun _ s ⟨hoff, _, hcommit⟩ => ⟨0, ?_⟩) fun _ _ ⟨_, halone, _⟩ => .inr halone
    exact (if_neg (not_beyond hi hws)).trans ((if_neg (Bool.eq_false_iff.mp hoff)).trans (rxCommitRes_ok hcommit))
  case rxSdp =>
    intro i d p ws ref t hi
    refine completes_intro (fun _ _ => rfl) (fun _ s ⟨hwords, hoff, _, hcommit⟩ => ⟨0, ?_⟩) fun _ _ ⟨_, _, halone, _⟩ => .inr halone
    exact (rxSdpBody_taken hi hwords hoff).trans (rxCommitRes_ok hcommit)
  case rxModify =>
    intro i ws t hi hws
    refine completes_intro (fun _ _ => rfl) (fun _ s ⟨hused, _, hcommit⟩ => ⟨0, ?_⟩) fun _ _ ⟨_, halone, _⟩ => .inr halone
    refine (if_neg (by simp only [hws, hused, reduceCtorEq, or_false]; omega)).trans ?_
    rw [rxCommitRes_ok hcommit, id_eq]
  case rxRemove =>
    intro i hi
    exact acts_of_done (fun _ _ => rfl) (fun _ _ ⟨hused, _⟩ => if_neg (not_beyond hi hused)) fun _ _ ⟨_, halone⟩ => .inr halone
  case txAdd =>
    intro i name ws t hi hname hws t'
    refine completes_intro (fun _ _ => rfl) (fun _ s ⟨hoff, _, hcommit⟩ => ⟨0, ?_⟩) fun _ _ ⟨_, halone, _⟩ => .inr halone
    exact (if_neg (by simp only [hws, reduceCtorEq, or_false]; omega)).trans
      ((if_neg (Bool.eq_false_iff.mp hoff)).trans (txCommitRes_ok hcommit))
  case txModify =>
    intro i ws t hi hws t'
    refine completes_intro (fun _ _ => rfl) (fun _ s ⟨hused, _, hcommit⟩ => ⟨0, ?_⟩) fun _ _ ⟨_, halone, _⟩ => .inr halone
    refine (if_neg (by simp only [hws, hused, reduceCtorEq, or_false]; omega)).trans ?_
    rw [txCommitRes_ok hcommit, id_eq]
  case txRemove =>
    intro i hi
    exact acts_of_done (fun _ _ => rfl) (fun _ _ ⟨hused, _⟩ => if_neg (not_beyond hi hused)) fun _ _ ⟨_, halone⟩ => .inr halone
  case defers =>
    refine fun i ws d p name => ⟨?_, ?_, ?_, ?_, ?_, ?_, ?_⟩
    all_goals exact defers_intro fun _ _ => rfl

/-! ## Entries by registers -/

section Registers
variable {fn w i : Nat} {s : State}

/-- A commit by register waits for the next tick, on the active member of a mirror pair for the one after it (R172, R388). -/
theorem regRxCommit_idle (hbit : bit w 31 = true) (hidle : s.rb STRX.ENTRY_CMD_BUSY = false) :
    regRxCommit fn w s = (s.wb STRX.ENTRY_CMD_BUSY true).onRx (fun r =>
      { r with commit := some (actsAs fn * 1024 + s.rd STRX.SEL_STREAM fn, s.accTick + if s.mirrorActive then 2 else 1) }) :=
  if_pos (by simp [hbit, hidle])

theorem regTxCommit_idle (hbit : bit w 31 = true) (hidle : s.rb STTX.ENTRY_CMD_BUSY = false) :
    regTxCommit fn w s = (s.wb STTX.ENTRY_CMD_BUSY true).onTx (fun r =>
      { r with commit := some (actsAs fn * 1024 + s.rd STTX.SEL_STREAM fn, s.accTick + if s.mirrorActive then 2 else 1) }) :=
  if_pos (by simp [hbit, hidle])

/-- A load while nothing waits is judged by the owner of the entry that SEL_STREAM names (R172). -/
theorem regRxLoad_idle (hbit : bit w 30 = true) (hsel : s.rd STRX.SEL_STREAM fn = i) (hidle : s.rb STRX.ENTRY_CMD_BUSY = false) :
    regRxLoad fn w s =
      if may (actsAs fn) (s.rxOwner i) = false then s.wr STRX.ENTRY_CMD_RESULT stNOT_OWNER
      else (entryCopy 0x0E rxEntry i stagObj s).wr STRX.ENTRY_CMD_RESULT stOK := by
  subst hsel
  exact if_neg (by simp [hbit, hidle])

theorem regTxLoad_idle (hbit : bit w 30 = true) (hsel : s.rd STTX.SEL_STREAM fn = i) (hidle : s.rb STTX.ENTRY_CMD_BUSY = false) :
    regTxLoad fn w s =
      if may (actsAs fn) (s.txOwner i) = false then s.wr STTX.ENTRY_CMD_RESULT stNOT_OWNER
      else (entryCopy 0x0F txEntry i stagObj s).wr STTX.ENTRY_CMD_RESULT stOK := by
  subst hsel
  exact if_neg (by simp [hbit, hidle])

/-- The oldest event that the caller may see leaves the FIFO (R174). -/
theorem evtTake_some {e : Nat × Nat × Nat}
    (h : s.rx.evt.find? (fun e => actsAs fn == 0 || s.rxOwner e.2.2 == actsAs fn) = some e) :
    evtTake fn s = (s.onRx (fun r =>
      { r with evt := r.evt.erase e, evtOut := ns r.evtOut fn (2 ^ 31 + e.1 * 2 ^ 24 + e.2.1 * 2 ^ 16 + e.2.2) })).wr
        STRX.EVT_STAT_LEVEL (s.rx.evt.erase e).length := by
  simp only [evtTake, h]
  rfl

end Registers

/-- Settles O27: the equation of each register's operation in the case that the clause names. -/
theorem streamRegistersAct : Obligations.StreamRegistersAct := by
  refine ⟨?rxCommit, ?rxLoad, ?rxLoadDenied, ?txCommit, ?txLoad, ?event⟩
  case rxCommit =>
    intro fn w hbit
    exact happens_intro (fun _ => rfl) fun s hidle => congrArg (actNoted 0x0E s) (regRxCommit_idle hbit hidle)
  case rxLoad =>
    intro fn w i hbit
    refine happens_intro (fun _ => rfl) fun s ⟨hsel, hidle, hmay⟩ => ?_
    exact (regRxLoad_idle hbit hsel hidle).trans (if_neg (by simp [hmay]))
  case rxLoadDenied =>
    intro fn w i hbit
    refine happens_intro (fun _ => rfl) fun s ⟨hsel, hidle, hmay⟩ => ?_
    exact (regRxLoad_idle hbit hsel hidle).trans (if_pos hmay)
  case txCommit =>
    intro fn w hbit
    exact happens_intro (fun _ => rfl) fun s hidle => congrArg (actNoted 0x0F s) (regTxCommit_idle hbit hidle)
  case txLoad =>
    intro fn w i hbit
    refine happens_intro (fun _ => rfl) fun s ⟨hsel, hidle, hmay⟩ => ?_
    exact (regTxLoad_idle hbit hsel hidle).trans (if_neg (by simp [hmay]))
  case event => exact fun fn e => happens_intro (fun _ => rfl) fun _ hfind => evtTake_some hfind

/-! ## Announcements and memberships -/

section Announce
variable {thirds i : Nat} {s : State}

/-- Without firmware, or with announcements off, nothing is sent (R309). -/
theorem sapAnnounce_off (h : s.fwUp = false ∨ s.rb STTX.SAP_TX_CFG_EN = false) : sapAnnounce thirds i s = s := if_pos h

/-- A running stream whose announcement is due is announced (R309). -/
theorem sapAnnounce_due (hfw : s.fwUp = true) (hen : s.rb STTX.SAP_TX_CFG_EN = true) (hrun : s.txState i = txRUN)
    (hann : s.rb STTX.CFG_ANNOUNCE i = true) (hdue : s.sapDue i thirds = true) :
    sapAnnounce thirds i s = (sapSend i (ng s.tx.ver i) false s).onTx (fun t =>
      { t with sapVer := ns t.sapVer i (ng t.ver i + 1), sapAt := ns t.sapAt i s.clock }) :=
  (if_neg (by simp [hfw, hen])).trans ((if_pos ⟨hrun, hann⟩).trans (if_pos hdue))

/-- The announcement of a stream that has left RUN is deleted (R309). -/
theorem sapAnnounce_left (hfw : s.fwUp = true) (hen : s.rb STTX.SAP_TX_CFG_EN = true) (hleft : s.txState i ≠ txRUN)
    (hver : ng s.tx.sapVer i ≠ 0) :
    sapAnnounce thirds i s = (sapSend i (ng s.tx.sapVer i - 1) true s).onTx (fun t =>
      { t with sapVer := ns t.sapVer i 0, sapAt := ns t.sapAt i 0 }) :=
  (if_neg (by simp [hfw, hen])).trans ((if_neg fun h => hleft h.1).trans (if_neg hver))

end Announce

section Membership
variable {i leg : Nat} {k : Nat × Bool × Nat × Nat} {s : State} (hi : i < 1024) (hleg : leg < 2) (hfw : s.fwUp = true)
include hi hleg hfw

/-- A change of what a leg asks for is acted on. -/
theorem memberSync_acts (hchange : s.legGroup i leg ≠ og s.rx.joined (2 * i + leg)) :
    ¬(s.fwUp = false ∨ 1023 < i ∨ 1 < leg ∨ s.legGroup i leg = og s.rx.joined (2 * i + leg)) := by
  simp only [hfw, hchange, reduceCtorEq, or_false, false_or]
  omega

/-- A leg that held no membership joins the one it asks for, which no other leg holds (R150). -/
theorem memberSync_joins {u : State} (hwant : s.legGroup i leg = some k) (hold : og s.rx.joined (2 * i + leg) = none)
    (hnew : s.rx.members.any (fun m => m.key == k) = false)
    (hu : s.onRx (fun r => { r with joined := os r.joined (2 * i + leg) (some k) }) = u) :
    memberSync i leg s =
      (groupReport k.1 k.2.1 [⟨k.1, k.2.1, k.2.2.1, k.2.2.2, some (s.clock + 96000)⟩] u).onRx (fun r =>
        { r with members := r.members ++ [⟨k.1, k.2.1, k.2.2.1, k.2.2.2, some (s.clock + 96000)⟩] }) := by
  subst hu
  refine (if_neg (memberSync_acts hi hleg hfw (by simp [hwant, hold]))).trans ?_
  simp only [hwant, hold]
  exact if_neg (Bool.eq_false_iff.mp hnew)

/-- A leg that asks for none leaves the membership it held, which no other leg wants (R150). -/
theorem memberSync_leaves {u : State} (hwant : s.legGroup i leg = none) (hold : og s.rx.joined (2 * i + leg) = some k)
    (hu : s.onRx (fun r => { r with joined := os r.joined (2 * i + leg) none }) = u) (hfree : u.groupWanted k = false) :
    memberSync i leg s =
      (u.each (u.rx.members.filter (fun m => m.key == k)) (fun s m => groupLeave m s)).onRx (fun r =>
        { r with members := r.members.filter (fun m => m.key != k) }) := by
  subst hu
  refine (if_neg (memberSync_acts hi hleg hfw (by simp [hwant, hold]))).trans ?_
  simp only [hwant, hold]
  exact if_neg (Bool.eq_false_iff.mp hfree)

end Membership

/-- A query that is waiting is answered (R150). -/
theorem exec_membershipReport_query {port dst : Nat} {q : Nat × Bool × Nat} {s : State} (hup : up s = true) (hfw : s.fwUp = true)
    (hasked : s.rx.asked.find? (fun q => q.1 == port && q.2.2 == dst) = some q) :
    exec (.membershipReport port dst true) s = .next (queryAnswer q s) := by
  refine congrArg Host.Outcome.next ((awake_up hup).trans ((if_neg (by simp [hfw])).trans ?_))
  simp only [hasked, if_true]

/-- A membership whose second report is due is reported (R150). -/
theorem exec_membershipReport_again {port dst : Nat} {m : Member} {s : State} (hup : up s = true) (hfw : s.fwUp = true)
    (hdue : s.reportDue port dst = some m) :
    exec (.membershipReport port dst false) s = .next (reportAgain m s) := by
  refine congrArg Host.Outcome.next ((awake_up hup).trans ((if_neg (by simp [hfw])).trans ?_))
  simp only [hdue, Bool.false_eq_true, if_false]

/-! ## Gaps and planes -/

/-- A plane that has had no packet for 8 packet times shows it (R170). -/
theorem exec_planeChg_late {i plane off : Nat} {a : Int} {s t : State} (hup : up s = true) (hplane : plane < 2) (ht : rxJudge s = t)
    (hrun : t.rxRunning = true) (hok : og t.rx.okAt (2 * i + plane) = some a)
    (hlate : a * t.rxHz i + 8 * t.rxPs i * gridSec ≤ (t.grid off : Int) * t.rxHz i) :
    exec (.planeChg i plane off) s = .next (planeSet i plane false t) := by
  subst ht
  refine congrArg Host.Outcome.next ((awake_up hup).trans ?_)
  simp only [hok]
  exact if_pos ⟨hrun, hplane, hlate⟩

/-- While reception does not run no plane is judged. -/
theorem exec_planeChg_stopped {i plane off : Nat} {s : State} (hup : up s = true) (hstop : (rxJudge s).rxRunning = false) :
    exec (.planeChg i plane off) s = .next (rxJudge s) := by
  refine congrArg Host.Outcome.next ((awake_up hup).trans ?_)
  simp only [hstop, Bool.false_eq_true, false_and, if_false]
  split <;> rfl

/-- Settles O36: the equation of each row's operation in the case that the clause names. -/
theorem streamsFollowTheirEvents : Obligations.StreamsFollowTheirEvents := by
  refine ⟨?expire, ?announceOff, ?announce, ?delete, ?join, ?leave, ?sync, ?query, ?again, ?gap, ?noGap, ?plane, ?noPlane⟩
  case expire => exact fun id => happens_intro (fun _ => rfl) fun _ hfw => if_pos hfw
  case announceOff => exact fun i hi => happens_intro (fun _ => rfl) fun _ h => (if_pos hi).trans (sapAnnounce_off h)
  case announce =>
    intro i hi
    refine happens_intro (fun _ => rfl) fun s ⟨hfw, hen, hrun, hann, hdue⟩ => ?_
    exact (if_pos hi).trans (sapAnnounce_due hfw hen hrun hann hdue)
  case delete =>
    intro i hi
    refine happens_intro (fun _ => rfl) fun s ⟨hfw, hen, hleft, hver⟩ => ?_
    exact (if_pos hi).trans (sapAnnounce_left hfw hen hleft hver)
  case join =>
    intro i leg k hi hleg
    refine happens_intro (fun _ => rfl) fun s ⟨hfw, hwant, hold, hnew⟩ => ?_
    exact memberSync_joins hi hleg hfw hwant hold hnew rfl
  case leave =>
    intro i leg k hi hleg
    refine happens_intro (fun _ => rfl) fun s ⟨hfw, hwant, hold, hfree⟩ => ?_
    exact memberSync_leaves hi hleg hfw hwant hold rfl hfree
  case sync => exact fun i leg _ _ => happens_intro (fun _ => rfl) fun _ _ => rfl
  case query => exact fun port dst q s hup ⟨hfw, hasked⟩ => exec_membershipReport_query hup hfw hasked
  case again => exact fun port dst m s hup ⟨hfw, hdue⟩ => exec_membershipReport_again hup hfw hdue
  case gap => exact fun i off => happens_intro (fun _ => rfl) fun _ h => if_pos h
  case noGap =>
    intro i off
    refine happens_intro (fun _ => rfl) fun s h => if_neg ?_
    rintro ⟨hrun, hactive, -⟩
    rcases h with hstop | hstate
    · exact Bool.false_ne_true (hstop.symm.trans hrun)
    · exact hstate hactive
  case plane => exact fun i plane off a hplane s hup ⟨hrun, hok, hlate⟩ => exec_planeChg_late hup hplane rfl hrun hok hlate
  case noPlane => exact fun i plane off s hup hstop => exec_planeChg_stopped hup hstop

end Sys2Proof.Machine
end

section
/-!
PROOFS. Meters, gates, snapshot sets and rate conversion: the words that their status commands return (R186, R200, R203, R282, R288).
-/
namespace Sys2Proof.Machine

/-- `listed_passes` for indices, whose test is a last valid index. -/
theorem listed_below {l : List Nat} {n bound : Nat} (hl : listed l n (· < bound + 1)) :
    ¬(l = [] ∨ n < l.length ∨ l.any (bound < ·) = true) :=
  listed_passes hl fun _ hx => decide_eq_false (Nat.not_lt.mpr (Nat.le_of_lt_succ hx))

/-- Settles O5: past its range check each command's part is one answer, of `metWords`, `gateWord`, `grpWords` or `pathWord` for the
caller, or of the set's registers. -/
theorem meterQueriesAnswer : Obligations.MeterQueriesAnswer := by
  refine ⟨?meters, ?gates, ?snapshot, ?groups, ?paths⟩
  case meters => exact fun ms hms => completes_of_retL (fun _ _ => rfl) fun _ _ _ => if_neg (listed_below hms)
  case gates => exact completes_of_ret (fun _ _ => rfl) fun _ _ _ => rfl
  case snapshot =>
    intro set hset
    exact completes_of_ret (fun _ _ => rfl) fun _ _ _ => if_neg (by omega)
  case groups => exact fun gs hgs => completes_of_retL (fun _ _ => rfl) fun _ _ _ => if_neg (listed_below hgs)
  case paths =>
    intro keys hkeys
    have hkey : ∀ k : Nat × Nat, k.1 < 6 ∧ k.2 < 1024 → (5 < k.1 || 1023 < k.2) = false := by
      rintro k ⟨hkind, hi⟩
      simpa using ⟨Nat.le_of_lt_succ hkind, Nat.le_of_lt_succ hi⟩
    exact completes_of_retL (fun _ _ => rfl) fun _ _ _ => if_neg (listed_passes hkeys hkey)

end Sys2Proof.Machine
end

section
/-!
PROOFS. The crosspoint, its inputs and its outputs: what the status commands of the crosspoint, the scenes and the turns return,
which settings wait for their boundary, and how X-ins, signatures, host channels and delay blocks are given out (R208, R209, R227,
R233, R236, R237, R268, R288, R311, R320, R380, R499, R501, R509, R512).
-/
namespace Sys2Proof.Machine

/-! ## Lists that pass their tests -/

/-- `listed_passes` for a list that may be empty. -/
theorem limited_passes {α : Type} {l : List α} {n : Nat} {p : α → Prop} {bad : α → Bool} (hlen : l.length ≤ n) (hitem : ∀ x ∈ l, p x)
    (hbad : ∀ x, p x → bad x = false) : ¬(n < l.length ∨ l.any bad = true) :=
  not_or.mpr ⟨Nat.not_lt.mpr hlen, by simpa using fun x hx => hbad x (hitem x hx)⟩

/-- Indices up to a last valid one pass. -/
theorem any_beyond_false {l : List Nat} {bound : Nat} (h : ∀ x ∈ l, x < bound + 1) : l.any (bound < ·) = false :=
  List.any_eq_false.mpr fun x hx => by simpa using Nat.le_of_lt_succ (h x hx)

/-- A channel up to the last one and a selector that its rules accept are in order (R311, R320, R380, R499). -/
theorem selector_inOrder {bound : Nat} {selects : Nat → Bool} (x : Nat × Nat) (h : x.1 < bound + 1 ∧ x.2 < 65536 ∧ selects x.2 = true) :
    (bound < x.1 || 65535 < x.2 || !selects x.2) = false := by
  obtain ⟨hchan, hword, hsel⟩ := h
  simpa [hsel] using And.intro (Nat.le_of_lt_succ hchan) (Nat.le_of_lt_succ hword)

/-! ## What status commands return -/

/-- Settles O4: past its range check each command's part is one answer, of `xinWords` for the caller, of `turnWords`, or of the words
of the outputs, the pool, the nodes and the records. -/
theorem crosspointQueriesAnswer : Obligations.CrosspointQueriesAnswer := by
  refine ⟨?inputs, ?outputs, ?pool, ?nodes, ?turns, ?scenes⟩
  case inputs => exact fun xs hxs => completes_of_retL (fun _ _ => rfl) fun _ _ _ => if_neg (listed_below hxs)
  case outputs =>
    intro sig hsig
    exact completes_of_retL (fun _ _ => rfl) fun _ _ _ => if_neg (by omega)
  case pool =>
    intro os hlen hos
    exact completes_of_ret (fun _ _ => rfl) fun _ _ _ => if_neg (by simp only [any_beyond_false hos, reduceCtorEq, or_false]; omega)
  case nodes =>
    intro verso l hl
    have hnode : ∀ w : Nat × Nat, w.1 < 4096 ∧ w.2 < 4096 → (4095 < w.1 || 4095 < w.2) = false := by
      rintro w ⟨hin, hout⟩
      simpa using And.intro (Nat.le_of_lt_succ hin) (Nat.le_of_lt_succ hout)
    exact completes_of_retL (fun _ _ => rfl) fun _ _ _ => if_neg (listed_passes hl hnode)
  case turns =>
    intro sigs td hlen hsigs htd
    refine completes_of_ret (fun _ _ => rfl) fun _ _ _ => if_neg ?_
    simp only [any_beyond_false hsigs, reduceCtorEq, false_or]
    omega
  case scenes => exact fun page => completes_of_retL (fun _ _ => rfl) fun _ _ _ => rfl

/-! ## Settings that wait for their boundary -/

/-- A judged command whose part answers, in time or late, completes with what that part returns. -/
theorem exec_of_answer {o : Opc} {own : Nat → State → Option Nat} {c : Instr} {e : Env} {s t : State} {body : Nat → State → Res}
    {r n st : Nat} {ws : List Nat} (hc : exec c s = .next (runCmd o e own body s none)) (h : judged o e own s = true)
    (hb : body (callerOf e) (accept o e s) = .ok t r ws n st) (hfits : fits (accept o e s) e ws.length = true) :
    exec c s = .next (complete e st r ws true (noted o t)) := by
  rw [hc, runCmd_judged h, hb, finish_ok hfits]

/-- Only a command for a sample index is refused for the mode (R237). -/
theorem atTiming_allowed {t : XTiming} {s : State} (h : isAt t = true → s.mode ≠ mCONFIG ∧ s.mode ≠ mACQUIRE) :
    ¬(isAt t && (s.mode == mCONFIG || s.mode == mACQUIRE)) = true := by
  simpa using h

/-- Values for X-ins are held for the boundary of the command's timing while fewer than four boundaries wait (R237). -/
theorem exec_xpntInputSet_holds {t : XTiming} {l : List XinW} {e : Env} {s a : State}
    (ha : accept { mirrored := true, code := 0x0401 } e s = a) (hjudged : judged { mirrored := true, code := 0x0401 } e (xinOwn l) s = true)
    (hfits : fits a e 2 = true) (hmode : isAt t = true → a.mode ≠ mCONFIG ∧ a.mode ≠ mACQUIRE)
    (hl : listed l 256 (fun w => w.x < 4096 ∧ selOk w.src = true ∧ w.src < 2 ^ 16)) (hroom : a.xp.inPend.length < 4) :
    exec (.xpntInputSet e t l) s = .next (complete e (if (a.inBoundary t).2 then stOK_LATE else stOK) ((a.inBoundary t).1 % 2 ^ 32)
      [(a.inBoundary t).1 % 2 ^ 32, (a.inBoundary t).1 / 2 ^ 32] true (noted { mirrored := true, code := 0x0401 }
        ((a.each l (fun s w => cmdHold 0x11 w.x 0x048 inCfgMask w.cfg (a.inBoundary t).1
          (cmdHold 0x11 w.x 0x044 0xFFFF w.src (a.inBoundary t).1 s))).onXp
            (fun q => { q with inPend := q.inPend ++ [(a.inBoundary t).1] })))) := by
  subst ha
  have hinput : ∀ w : XinW, w.x < 4096 ∧ selOk w.src = true ∧ w.src < 2 ^ 16 →
      (4096 ≤ w.x || !selOk w.src || 2 ^ 16 ≤ w.src) = false := by
    rintro w ⟨hx, hsel, hword⟩
    simpa [hsel] using And.intro hx hword
  exact exec_of_answer rfl hjudged ((if_neg (atTiming_allowed hmode)).trans
    ((if_neg (listed_passes hl hinput)).trans (if_neg (Nat.not_le.mpr hroom)))) hfits

section Outputs
variable {sig : Nat} {l : List XoutW} {s : State}
  (hdly : ∀ w ∈ l, ∀ d, w.dly = some d → d ≤ 64 * s.alloc (64 * sig + w.j) ∧ s.allocPending (64 * sig + w.j) = false)
include hdly

/-- Output values in order, whose delays the blocks allocated hold, pass the test of XPNT_OUTPUT_SET (R224, R227, R235). -/
theorem outputSet_passes (hsig : sig < 64) (hl : listed l 64 (fun w => xoutOk w = true)) :
    ¬(63 < sig ∨ l = [] ∨ 64 < l.length ∨ l.all xoutOk = false ∨
      l.any (fun w => match w.dly with | some d => decide (64 * s.alloc (64 * sig + w.j) < d) | none => false) = true) := by
  obtain ⟨hne, hlen, hitem⟩ := hl
  rintro (hbeyond | hnil | hlong | hbad | hshort)
  · omega
  · exact hne hnil
  · omega
  · exact Bool.false_ne_true (hbad.symm.trans (List.all_eq_true.mpr hitem))
  · obtain ⟨w, hw, hover⟩ := List.any_eq_true.mp hshort
    cases hd : w.dly with
    | none => simp [hd] at hover
    | some d =>
      obtain ⟨hheld, -⟩ := hdly w hw d hd
      simp only [hd, decide_eq_true_eq] at hover
      omega

/-- No delay is given to an output whose allocation waits (R227). -/
theorem outputSet_settled : ¬l.any (fun w => w.dly.isSome && s.allocPending (64 * sig + w.j)) = true := by
  intro h
  obtain ⟨w, hw, hwaits⟩ := List.any_eq_true.mp h
  obtain ⟨hsome, hpending⟩ := Bool.and_eq_true_iff.mp hwaits
  obtain ⟨d, hd⟩ := Option.isSome_iff_exists.mp hsome
  obtain ⟨-, hsettled⟩ := hdly w hw d hd
  exact Bool.false_ne_true (hsettled.symm.trans hpending)

end Outputs

/-- Settles O15: what passes a command's test is held, with the boundary that the command gives. -/
theorem settingsWaitForTheirBoundary : Obligations.SettingsWaitForTheirBoundary := by
  refine ⟨?inputs, ?outputs, ?txChannels, ?capChannels, ?relays, ?locals, ?profiles, ?meters, ?holds⟩
  case inputs => exact fun t l e s hjudged hfits hmode hl hroom => exec_xpntInputSet_holds rfl hjudged hfits hmode hl hroom
  case outputs =>
    intro sig l hsig hl
    exact acts_of_done (fun _ _ => rfl) fun _ _ hdly => (if_neg (outputSet_passes hdly hsig hl)).trans (if_neg (outputSet_settled hdly))
  case txChannels =>
    intro l hlen hl
    refine acts_of_done (fun _ _ => rfl) fun _ _ hpatches => (if_neg (limited_passes hlen hl selector_inOrder)).trans ?_
    simp only [hpatches]
  case capChannels =>
    exact fun l hlen hl => acts_of_done (fun _ _ => rfl) fun _ _ _ => if_neg (limited_passes hlen hl selector_inOrder)
  case relays => exact fun l hl => acts_of_done (fun _ _ => rfl) fun _ _ _ => if_neg (listed_passes hl selector_inOrder)
  case locals =>
    exact fun l hlen hl => acts_of_done (fun _ _ => rfl) fun _ _ _ => if_neg (limited_passes hlen hl selector_inOrder)
  case profiles =>
    intro ws hne hok
    exact acts_of_done (fun _ _ => rfl) fun _ _ _ => if_neg (by simp [hne, hok])
  case meters =>
    intro l hl
    have hmeter : ∀ q : Nat × Nat, q.1 < 8192 ∧ q.2 < 2 ^ 11 ∧ fbits q.2 7 3 = 0 →
        (8191 < q.1 || 2 ^ 11 ≤ q.2 || fbits q.2 7 3 != 0) = false := by
      rintro q ⟨hmet, hword, hreserved⟩
      simpa [hreserved] using And.intro (Nat.le_of_lt_succ hmet) hword
    exact acts_of_done (fun _ _ => rfl) fun _ _ _ => if_neg (listed_passes hl hmeter)
  case holds =>
    intro ms hne hms
    exact acts_of_done (fun _ _ => rfl) fun _ _ _ => if_neg (by simp [hne, any_beyond_false hms])

/-! ## Assignments -/

/-- X-ins that the quota has room for, with those that wait, wait too (R209, R237). -/
theorem inAssignBody_fits {t x n fn : Nat} {share : Bool} {s : State} (hn : 0 < n) (hx : x + n ≤ 4096) (ht : t < 8)
    (hquota : s.quotaOk t qXIN (s.assignNeed t (s.xp.assign ++ [(t, x, n, share)])) = true) :
    inAssignBody t x n share fn s = done (s.onXp (fun q => { q with assign := s.xp.assign ++ [(t, x, n, share)] })) :=
  (if_neg (by omega)).trans (if_neg (by simp [hquota]))

/-- Blocks for distinct outputs that the pool has, none fewer than the output's delay needs, pass the test of DELAY_ALLOC (R227). -/
theorem delayAlloc_passes {l : List (Nat × Nat)} {s : State} (hl : listed l l.length (fun x => x.1 < 4096 ∧ x.2 ≤ 16384))
    (hnodup : (l.map (·.1)).Nodup) (hdly : ∀ x ∈ l, s.dly x.1 ≤ 64 * x.2)
    (hpool : (s.allocSum l).1 ≤ s.rd XPNT.POOL_FREE_BLOCKS + (s.allocSum l).2) :
    ¬(l = [] ∨ l.any (fun x => 4095 < x.1 || 16384 < x.2 || decide (64 * x.2 < s.dly x.1)) = true ∨ ¬(l.map (·.1)).Nodup ∨
      s.rd XPNT.POOL_FREE_BLOCKS + (s.allocSum l).2 < (s.allocSum l).1) := by
  obtain ⟨hne, -, hitem⟩ := hl
  rintro (hnil | hbad | hdouble | hshort)
  · exact hne hnil
  · obtain ⟨x, hx, hxbad⟩ := List.any_eq_true.mp hbad
    obtain ⟨hout, hblocks⟩ := hitem x hx
    have hkept := hdly x hx
    simp only [Bool.or_eq_true, decide_eq_true_eq] at hxbad
    omega
  · exact hdouble hnodup
  · omega

/-- Settles O18: what passes a command's test and fits its quota is put among what waits. -/
theorem assignmentsWait : Obligations.AssignmentsWait := by
  refine ⟨?inputs, ?defers, ?delays, ?signatures, ?channels⟩
  case inputs =>
    intro t x n share hn hx ht
    exact acts_of_done (fun _ _ => rfl) (fun _ _ ⟨_, hquota⟩ => inAssignBody_fits hn hx ht hquota) fun _ _ ⟨halone, _⟩ => .inr halone
  case defers => exact fun t x n share => defers_intro fun _ _ => rfl
  case delays =>
    intro l hl hnodup
    refine actsAt_of_retIdx (fun _ _ => rfl) fun e s ⟨hdly, hpool, hquota, hidle⟩ => ?_
    have hmay : ¬(callerOf e ≠ 0 ∧ (s.allocSum l).2 < (s.allocSum l).1) := by omega
    exact (if_neg (delayAlloc_passes hl hnodup hdly hpool)).trans ((if_neg hmay).trans (if_neg (by simp [hidle])))
  case signatures =>
    intro t sigs hne
    refine acts_of_done (fun _ _ => rfl) fun _ s hfree => if_neg ?_
    rintro (hnil | hbad)
    · exact hne hnil
    · obtain ⟨g, hg, hgbad⟩ := List.any_eq_true.mp hbad
      obtain ⟨hsig, howner⟩ := hfree g hg
      simp only [howner, bne_self_eq_false, Bool.or_false, decide_eq_true_eq] at hgbad
      omega
  case channels =>
    intro t cap pb hcap hpb
    refine acts_of_done (fun _ _ => rfl) fun _ _ ⟨hcapQuota, hpbQuota⟩ => ?_
    exact (if_neg (by simp [any_beyond_false hcap, any_beyond_false hpb])).trans (if_neg (by simp [hcapQuota, hpbQuota]))

end Sys2Proof.Machine
end

section
/-!
PROOFS. Scenes and turns: what the commands and the registers of scenes, turns and verso and the verso window do, and how turns, loads,
saves and snapshot records follow their events (R240–R269, R286–R288, R432, R487).
-/
namespace Sys2Proof.Machine

/-! ## Scenes by command -/

/-- Nodes in range that fit wait for the next boundary (R242, R253). -/
theorem editCmd_fits {l : List NodeW} {fn : Nat} {s : State}
    (hl : listed l 1024 (fun w => w.i < 4096 ∧ w.o < 4096 ∧ w.code < 65536))
    (hfit : s.editFits fn (l.filter (fun w => s.willLock s.applyAt (sigOf w.o))).length = true) :
    editCmd l fn s = done (versoAdd (.edits false (l.map (fun w =>
      { fn := fn, sig := sigOf w.o, node := 4096 * (w.o % 64) + w.i, code := w.code }))) s) := by
  have hnode : ∀ w : NodeW, w.i < 4096 ∧ w.o < 4096 ∧ w.code < 65536 → (4095 < w.i || 4095 < w.o || 65535 < w.code) = false := by
    rintro w ⟨hin, hout, hcode⟩
    simpa using ⟨⟨Nat.le_of_lt_succ hin, Nat.le_of_lt_succ hout⟩, Nat.le_of_lt_succ hcode⟩
  refine (if_neg (listed_passes hl hnode)).trans (if_pos ?_)
  rwa [List.filter_map, List.length_map]

/-- The nodes of a block within the matrix are in range. -/
theorem blockNodes_listed {i ni o no_ : Nat} {codes : List Nat} (hni : 0 < ni) (hno : 0 < no_) (hlen : codes.length = ni * no_)
    (hin : i + ni ≤ 4096) (hout : o + no_ ≤ 4096) (hmax : ni * no_ ≤ 1024) (hcodes : ∀ c ∈ codes, c < 65536) :
    listed (blockNodes i ni o codes) 1024 (fun w => w.i < 4096 ∧ w.o < 4096 ∧ w.code < 65536) := by
  have hcount : (blockNodes i ni o codes).length = ni * no_ := by simp [blockNodes, hlen]
  refine ⟨List.ne_nil_of_length_pos (hcount ▸ Nat.mul_pos hni hno), hcount ▸ hmax, fun w hw => ?_⟩
  obtain ⟨k, hk, rfl⟩ := List.mem_map.mp hw
  have hk : k < codes.length := List.mem_range.mp hk
  have hcol : k % ni < ni := Nat.mod_lt k hni
  have hrow : k / ni < no_ := Nat.div_lt_of_lt_mul (hlen ▸ hk)
  have hcode : codes.getD k 0 < 65536 := by simpa [hk] using hcodes _ (List.getElem_mem hk)
  exact ⟨(by omega : i + k % ni < 4096), (by omega : o + k / ni < 4096), hcode⟩

/-- An operation on signatures of which none will be locked waits for its boundary (R251). -/
theorem versoCmd_unlocked {op : List Nat → VersoOp} {gs : List Nat} {s : State} (hne : gs ≠ []) (hgs : ∀ g ∈ gs, g < 64)
    (hfree : ∀ g ∈ gs, s.willLock s.applyAt g = false) : versoCmd op gs s = done (versoAdd (op gs) s) :=
  (if_neg (by simp [hne, any_beyond_false hgs])).trans (if_neg (by simpa using hfree))

/-- Settles O16: each command passes its own checks; the block's nodes are in range (`blockNodes_listed`), and its edits are then those
of SCENE_EDIT. -/
theorem sceneCommandsAct : Obligations.SceneCommandsAct := by
  refine ⟨?edit, ?block, ?revert, ?clear, ?save, ?load, ?delete⟩
  case edit => exact fun l hl => acts_of_done (fun _ _ => rfl) fun _ _ hfit => editCmd_fits hl hfit
  case block =>
    intro i ni o no_ codes hni hno hlen hin hout hmax hcodes
    have hl := blockNodes_listed hni hno hlen hin hout hmax hcodes
    exact acts_of_done (fun _ _ => rfl) fun _ _ hfit => (if_neg (by omega)).trans (editCmd_fits hl hfit)
  case revert => exact fun gs hne hgs => acts_of_done (fun _ _ => rfl) fun _ _ hfree => versoCmd_unlocked hne hgs hfree
  case clear => exact fun gs hne hgs => acts_of_done (fun _ _ => rfl) fun _ _ hfree => versoCmd_unlocked hne hgs hfree
  case save =>
    intro l hl
    refine begins_intro (fun _ _ => rfl) fun _ s ⟨hidle, hroom⟩ => (if_neg (listed_passes hl ?_)).trans
      ((if_neg (by simp [hidle])).trans (if_neg (Nat.not_lt.mpr hroom)))
    rintro w ⟨hid, hsig⟩
    simpa using And.intro (Nat.le_of_lt_succ hid) (Nat.le_of_lt_succ hsig)
  case load =>
    intro id src dst dur c hdst
    refine acts_of_done (fun _ _ => rfl) fun _ s ⟨hfind, hheld, hfree⟩ => ?_
    simp only [hfind]
    exact (if_neg (by omega)).trans (if_neg (by simp [hheld, hfree]))
  case delete =>
    intro id src c
    refine acts_of_done (fun _ _ => rfl) fun _ s hfind => ?_
    simp only [hfind]

/-! ## Turns and verso by registers and by the window -/

section Registers
variable {fn w td sig b : Nat} {s : State}

/-- NOW on a descriptor that the writer may fire takes the RAMP field, then fires the turn at once or has it wait (R245, R248). -/
theorem regNow_may (hbit : bit w 31 = true) (hsel : s.rd SCNE.TD_SEL_TD fn = td) (halone : s.mirrorStandby = false)
    (hmay : s.tdDefined td = true → may (actsAs fn) (s.tdOwner td) = true) :
    regNow fn w s =
      if atOnce (tdWrite fn 0x044 w s).mode = true then nowAtOnce td (tdWrite fn 0x044 w s)
      else (tdWrite fn 0x044 w s).onScn (fun c => { c with now := c.now ++ [(td, (tdWrite fn 0x044 w s).nowIndex)] }) := by
  subst hsel
  have hfires : ¬(s.tdDefined (s.rd SCNE.TD_SEL_TD fn) = true ∧ may (actsAs fn) (s.tdOwner (s.rd SCNE.TD_SEL_TD fn)) = false) :=
    fun ⟨hdef, hnot⟩ => Bool.false_ne_true (hnot.symm.trans (hmay hdef))
  exact (if_neg (by simp [halone])).trans ((if_neg hfires).trans (if_neg (by simp [hbit])))

/-- DEFINE outside a standby takes place at once, on the active member of a mirror pair at the boundary of R388 (R244). -/
theorem regDefine_bit (hbit : bit w 31 = true) (hsel : s.rd SCNE.TD_SEL_TD fn = td) (halone : s.mirrorStandby = false) :
    regDefine fn w s = if s.mirrorActive = true then mirrorLater (.define (actsAs fn) td) s else defineNow (actsAs fn) td s := by
  subst hsel
  exact if_neg (by simp [halone, hbit])

/-- RELEASE of a descriptor that is DEFINED does as DEFINE does (R244, R266). -/
theorem regRelease_bit (hbit : bit w 30 = true) (hsel : s.rd SCNE.TD_SEL_TD fn = td) (halone : s.mirrorStandby = false)
    (hdef : s.tdDefined td = true) :
    regRelease fn w s = if s.mirrorActive = true then mirrorLater (.release (actsAs fn) td) s else releaseNow (actsAs fn) td s := by
  subst hsel
  exact if_neg (by simp [halone, hbit, hdef])

/-- A write of VERSO_CTL by who may sets REFUSED where the signature will be locked, and waits for its boundary where it will not
(R251, R267). -/
theorem versoReg_may {op : List Nat → VersoOp} (hsig : sig < 64) (hbit : bit w b = true) (halone : s.mirrorStandby = false)
    (hmay : may (actsAs fn) (s.sigOwner sig) = true) :
    versoReg op fn sig b w s =
      if s.willLock s.applyAt sig = true then s.wb SIG.VERSO_STAT_REFUSED true (i := sig) else versoAdd (op [sig]) s :=
  if_neg (by simp only [hbit, halone, hmay, reduceCtorEq, or_false]; omega)

end Registers

/-- Settles O28: the equation of each register's operation in the case that the clause names. -/
theorem sceneRegistersAct : Obligations.SceneRegistersAct := by
  refine ⟨?nowWaits, ?nowAtOnce, ?define, ?release, ?defineLater, ?releaseLater, ?clear, ?revert, ?clearRefused, ?revertRefused, ?window⟩
  case nowWaits =>
    intro fn w td hbit
    refine happens_intro (fun _ => rfl) fun s ⟨hsel, halone, hmay, hmode⟩ => congrArg (actNoted 0x12 s) ?_
    exact (regNow_may hbit hsel halone hmay).trans (if_neg (Bool.eq_false_iff.mp hmode))
  case nowAtOnce =>
    intro fn w td hbit
    refine happens_intro (fun _ => rfl) fun s ⟨hsel, halone, hmay, hmode⟩ => congrArg (actNoted 0x12 s) ?_
    exact (regNow_may hbit hsel halone hmay).trans (if_pos hmode)
  case define =>
    intro fn w td hbit
    refine happens_intro (fun _ => rfl) fun s ⟨hsel, halone, hactive, hmay, hscope⟩ => congrArg (actNoted 0x12 s) ?_
    exact (regDefine_bit hbit hsel halone).trans ((if_neg (Bool.eq_false_iff.mp hactive)).trans (if_pos (by simp [hmay, hscope])))
  case release =>
    intro fn w td hbit
    refine happens_intro (fun _ => rfl) fun s ⟨hsel, halone, hactive, hdef, hmay⟩ => congrArg (actNoted 0x12 s) ?_
    exact (regRelease_bit hbit hsel halone hdef).trans
      ((if_neg (Bool.eq_false_iff.mp hactive)).trans ((if_neg (by simp [hdef])).trans (if_pos hmay)))
  case defineLater =>
    intro fn w td hbit
    refine happens_intro (fun _ => rfl) fun s ⟨hsel, halone, hactive⟩ => congrArg (actNoted 0x12 s) ?_
    exact (regDefine_bit hbit hsel halone).trans (if_pos hactive)
  case releaseLater =>
    intro fn w td hbit
    refine happens_intro (fun _ => rfl) fun s ⟨hsel, halone, hdef, hactive⟩ => congrArg (actNoted 0x12 s) ?_
    exact (regRelease_bit hbit hsel halone hdef).trans (if_pos hactive)
  case clear =>
    intro fn sig w hsig hbit
    refine happens_intro (fun _ => rfl) fun s ⟨halone, hmay, hfree⟩ => congrArg (actNoted (0x40 + sig) s) ?_
    exact (versoReg_may hsig hbit halone hmay).trans (if_neg (Bool.eq_false_iff.mp hfree))
  case revert =>
    intro fn sig w hsig hbit
    refine happens_intro (fun _ => rfl) fun s ⟨halone, hmay, hfree⟩ => congrArg (actNoted (0x40 + sig) s) ?_
    exact (versoReg_may hsig hbit halone hmay).trans (if_neg (Bool.eq_false_iff.mp hfree))
  case clearRefused =>
    intro fn sig w hsig
    refine happens_intro (fun _ => rfl) fun s ⟨hbit, halone, hmay, hlock⟩ => congrArg (actNoted (0x40 + sig) s) ?_
    exact (versoReg_may hsig hbit halone hmay).trans (if_pos hlock)
  case revertRefused =>
    intro fn sig w hsig
    refine happens_intro (fun _ => rfl) fun s ⟨hbit, halone, hmay, hlock⟩ => congrArg (actNoted (0x40 + sig) s) ?_
    exact (versoReg_may hsig hbit halone hmay).trans (if_pos hlock)
  case window =>
    intro fn ofs bytes es hlen hne
    refine happens_intro (fun _ => rfl) fun s ⟨halone, hes, hfit⟩ => congrArg (actNoted (0x40 + ofs / 0x80000) s) ?_
    subst hes
    exact (if_neg (by simp only [halone, hne, reduceCtorEq, or_false]; omega)).trans (if_pos hfit)

/-! ## Turns, loads and saves -/

section Banks
variable {g : Nat} {s : State}

/-- Of what may be due in a signature's lock, its end alone is left once no ramp, copy-over or load has anything to do. -/
theorem catchUp_drained (hready : s.bankState g ≠ bkREADY) (hheld : s.bankState g ≠ bkHELD) (hramp : s.bankState g ≠ bkRAMP)
    (hdrained : bg s.scn.drained g = true) (hload : s.bankState g ≠ bkLOAD ∨ og s.scn.load g = none) :
    catchUp g s = versoUnlock g s := by
  refine (if_neg (not_or.mpr ⟨hready, hheld⟩)).trans ?_
  rw [rampEnd_other g s hramp, copyEnd_other g s (.inr hdrained), loadEnd_other g s hload]

/-- The lock of a turn ends with VERSO_READY, the lock of a load without (R250, R251, R264). -/
theorem versoUnlock_copy (hstate : s.bankState g = bkCOPY) (hdrained : bg s.scn.drained g = true) (hdue : s.unlockIdx g ≤ s.tim.sample) :
    versoUnlock g s = sigRaise g 18 (unlockSig g s) := (if_pos ⟨hdrained, hdue⟩).trans (if_pos hstate)

theorem versoUnlock_load (hstate : s.bankState g = bkLOAD) (hdrained : bg s.scn.drained g = true) (hdue : s.unlockIdx g ≤ s.tim.sample) :
    versoUnlock g s = unlockSig g s :=
  (if_pos ⟨hdrained, hdue⟩).trans ((if_neg (by rw [hstate]; decide)).trans (if_pos hstate))

/-- A lock whose held edits are not yet drained goes on. -/
theorem versoUnlock_undrained (h : bg s.scn.drained g = false) : versoUnlock g s = s :=
  if_neg fun ⟨hdrained, _⟩ => Bool.false_ne_true (h.symm.trans hdrained)

/-- A load whose end is due leaves its codes in verso, with the held edits over them (R264). -/
theorem loadEnd_due {sc : Scene} {a e : Nat} (hload : og s.scn.load g = some (sc, a, e)) (hstate : s.bankState g = bkLOAD)
    (hdue : e ≤ s.tim.sample) :
    loadEnd g s = sigRaise g 21 ((drain g (versoFill g sc.codes s)).onScn (fun c =>
      { c with load := os c.load g none, drained := bs c.drained g true })) := by
  simp only [loadEnd, hload]
  exact if_pos ⟨hstate, hdue⟩

theorem loadEnd_early {sc : Scene} {a e : Nat} (hload : og s.scn.load g = some (sc, a, e)) (hearly : s.tim.sample < e) :
    loadEnd g s = s := by
  simp only [loadEnd, hload]
  exact if_neg fun ⟨_, hdue⟩ => Nat.not_le.mpr hearly hdue

end Banks

/-- A save whose records are copied is journaled and completes (R263). -/
theorem exec_sceneSaveDone_copied {v : Save} {l : List Scene} {s : State} (hup : up s = true) (hsave : s.scn.save = some v)
    (hcopy : v.copy = some l) (hpower : s.rb FALT.PFAIL_STAT_ASSERTED = false) :
    exec .sceneSaveDone s = .next (complete v.env stOK 0 [] true
      ((storeFix (((journal l s).onScn (fun c => { c with save := none })).wb SCNE.STORE_STAT_BUSY false)).raise 0x12 2 fnsAll)) := by
  refine congrArg Host.Outcome.next ((awake_up hup).trans ?_)
  simp only [hsave, hcopy]
  exact if_neg (Bool.eq_false_iff.mp hpower)

/-- Without a save, or while the supply fails, nothing is journaled (R263, R432). -/
theorem exec_sceneSaveDone_none {s : State} (hup : up s = true) (h : s.scn.save = none ∨ s.rb FALT.PFAIL_STAT_ASSERTED = true) :
    exec .sceneSaveDone s = .next s := by
  refine congrArg Host.Outcome.next ((awake_up hup).trans ?_)
  rcases h with hsave | hpower
  · simp only [hsave]
  · simp only [hpower, if_true]
    split
    · split <;> rfl
    · rfl

/-! ## Snapshot records -/

/-- The test of a record that could be written, at an address that its owner's DMA window allows, as it does HEAD's (R287, R288, R488). -/
theorem recordTest_passes {t : State} {fn place len headAddr : Nat} {ok : Bool} (hok : ok = true) (hplace : t.dmaOk fn place len = true)
    (hhead : headAddr ≠ 0 → t.dmaOk fn headAddr 4 = true) :
    ¬(ok = false ∨ t.dmaOk fn place len = false ∨ (headAddr ≠ 0 ∧ t.dmaOk fn headAddr 4 = false)) := by
  rintro (h | h | ⟨hused, h⟩)
  · exact Bool.false_ne_true (h.symm.trans hok)
  · exact Bool.false_ne_true (h.symm.trans hplace)
  · exact Bool.false_ne_true (h.symm.trans (hhead hused))

/-- Settles O38: the equation of each event's operation in the case that the clause names. -/
theorem scenesFollowTheirEvents : Obligations.ScenesFollowTheirEvents := by
  refine ⟨?ramp, ?noRamp, ?copy, ?noCopy, ?rampThenCopy, ?unlockTurn, ?unlockLoad, ?unlocked, ?load, ?noLoad, ?save, ?noSave,
    ?written, ?dropped, ?error, ?noRecord⟩
  case ramp => exact fun g hg => happens_intro (fun _ => rfl) fun _ hdue => (if_pos hg).trans (if_pos hdue)
  case noRamp =>
    intro g
    refine happens_intro (fun _ => rfl) fun s h => ?_
    have hidle : rampEnd g s = s := if_neg fun ⟨hstate, hdue⟩ => h.elim (· hstate) (Nat.not_lt.mpr hdue)
    rw [hidle, ite_self, id_eq]
  case copy =>
    intro g hg
    refine happens_intro (fun _ => rfl) fun s ⟨hstate, hdrained, hdue⟩ => (if_pos hg).trans ?_
    rw [rampEnd_other g s (by rw [hstate]; decide)]
    exact if_pos ⟨hstate, hdrained, hdue⟩
  case noCopy =>
    intro g
    refine happens_intro (fun _ => rfl) fun s ⟨hstate, h⟩ => ?_
    have hidle : copyEnd g s = s := if_neg fun ⟨_, hdrained, hdue⟩ =>
      h.elim (fun hdone => Bool.false_ne_true (hdrained.symm.trans hdone)) (Nat.not_lt.mpr hdue)
    rw [rampEnd_other g s (by rw [hstate]; decide), hidle, ite_self, id_eq]
  case rampThenCopy => exact fun g hg => happens_intro (fun _ => rfl) fun _ _ => if_pos hg
  case unlockTurn =>
    intro g hg
    refine happens_intro (fun _ => rfl) fun s ⟨hstate, hdrained, hdue⟩ => (if_pos hg).trans ?_
    have hother : ∀ b, b ≠ bkCOPY → s.bankState g ≠ b := fun b hb h => hb (h.symm.trans hstate)
    rw [catchUp_drained (hother _ (by decide)) (hother _ (by decide)) (hother _ (by decide)) hdrained (.inl (hother _ (by decide))),
      versoUnlock_copy hstate hdrained hdue]
  case unlockLoad =>
    intro g hg
    refine happens_intro (fun _ => rfl) fun s ⟨hstate, hload, hdrained, hdue⟩ => (if_pos hg).trans ?_
    have hother : ∀ b, b ≠ bkLOAD → s.bankState g ≠ b := fun b hb h => hb (h.symm.trans hstate)
    rw [catchUp_drained (hother _ (by decide)) (hother _ (by decide)) (hother _ (by decide)) hdrained (.inr hload),
      versoUnlock_load hstate hdrained hdue]
  case unlocked =>
    intro g
    refine happens_intro (fun _ => rfl) fun s h => ?_
    have hidle : catchUp g s = s := if_pos h
    rw [hidle, ite_self, id_eq]
  case load =>
    intro g sc a e hg
    refine happens_intro (fun _ => rfl) fun s ⟨hload, hstate, hdue⟩ => (if_pos hg).trans ?_
    rw [loadEnd_due hload hstate hdue]
  case noLoad =>
    intro g sc a e
    refine happens_intro (fun _ => rfl) fun s ⟨hload, hearly, hundrained⟩ => ?_
    rw [loadEnd_early hload hearly, versoUnlock_undrained hundrained, ite_self, id_eq]
  case save => exact fun v l s hup ⟨hsave, hcopy, hpower⟩ => exec_sceneSaveDone_copied hup hsave hcopy hpower
  case noSave => exact fun s hup h => exec_sceneSaveDone_none hup h
  case written =>
    intro set ok r t place headAddr next
    refine happens_intro (fun _ => rfl) fun s ⟨hrec, hmaster, ht, hplace, hhead, hnext, hok, hplaceOk, hheadOk, hroom⟩ => ?_
    subst hplace hhead hnext ht
    simp only [hrec]
    exact (if_neg (Bool.eq_false_iff.mp hmaster)).trans ((if_neg (recordTest_passes hok hplaceOk hheadOk)).trans (if_neg hroom))
  case dropped =>
    intro set r t
    refine happens_intro (fun _ => rfl) fun s ⟨hrec, hmaster, ht, hplaceOk, hheadOk, hfull⟩ => ?_
    subst ht
    simp only [hrec]
    exact (if_neg (Bool.eq_false_iff.mp hmaster)).trans ((if_neg (recordTest_passes rfl hplaceOk hheadOk)).trans (if_pos hfull))
  case error =>
    intro set r
    refine happens_intro (fun _ => rfl) fun s ⟨hrec, hmaster⟩ => ?_
    simp only [hrec]
    exact (if_neg (Bool.eq_false_iff.mp hmaster)).trans (if_pos (.inl trivial))
  case noRecord =>
    intro set ok
    refine happens_intro (fun _ => rfl) fun s hnone => ?_
    simp only [hnone, id_eq]

end Sys2Proof.Machine
end

section
/-!
PROOFS. Meters and snapshot sets by registers: the write that enables a set, the clears of holds, and the words latched for the reader of
a meter (R276, R282, R283, R285, R288).
-/
namespace Sys2Proof.Machine

section Registers
variable {fn set w m : Nat} {s : State}

/-- EN written to a disabled set enables it with the written fields if it is good, and sets CFG_ERR if it is not (R285). -/
theorem snapCtl_enable (hbit : bit w 31 = true) (hoff : s.rb METR.SNAP_CTL_EN set = false) :
    snapCtl fn set w s =
      if s.snapBad set = true then s.wb METR.SNAP_STAT_CFG_ERR true set else snapOn fn set (ctlFields set w s) :=
  (if_neg (by simp [hbit])).trans (if_neg (by simp [hoff]))

/-- Who may reach a set writes its SNAP_CTL (R285). -/
theorem regSnapCtlWrite_may (hset : set < 16) (hmay : s.setMay (actsAs fn) set = true) :
    regSnapCtlWrite fn set w s = snapCtl (actsAs fn) set w s := if_pos ⟨hset, hmay⟩

/-- The owner's CLR_HOLD is a write of MTR_CFG that also queues the clear of the meter it had selected (R276, R283). -/
theorem regClrHold_owner (hbit : bit w 31 = true) (hsel : s.rd METR.MTR_IDX_METER fn = m)
    (hmay : may (actsAs fn) (s.metOwner m) = true) :
    regClrHold fn w s = (mtrCfgWrite fn w s).onMet (fun t => { t with clr := t.clr ++ [m] }) := by
  subst hsel
  exact (if_neg (by simp [hmay])).trans (if_pos hbit)

/-- Reading MTR_VAL0 latches the six words of the selected meter for the reader (R282). -/
theorem regMtrVal0Read_words {a b c d h l : Nat} (hsel : s.rd METR.MTR_IDX_METER fn = m)
    (hwords : metWords (actsAs fn) s m = [a, b, c, d, h, l]) :
    regMtrVal0Read fn s = (((((s.ww METR.MTR_VAL0 a fn).ww METR.MTR_VAL1 b fn).ww METR.MTR_FLAGS c fn).ww METR.MTR_GEN d fn).ww
      METR.MTR_TICK_HI h fn).ww METR.MTR_TICK_LO l fn := by
  subst hsel
  simp only [regMtrVal0Read, hwords]

end Registers

/-- Settles O29: the equation of each register's operation in the case that the clause names. -/
theorem meterRegistersAct : Obligations.MeterRegistersAct := by
  refine ⟨?enable, ?enableBad, ?clear, ?clearAll, ?latch⟩
  case enable =>
    intro fn set w hset hbit
    exact happens_intro (fun _ => rfl) fun _ ⟨hmay, hoff, hgood⟩ =>
      (regSnapCtlWrite_may hset hmay).trans ((snapCtl_enable hbit hoff).trans (if_neg (by simp [hgood])))
  case enableBad =>
    intro fn set w hset hbit
    exact happens_intro (fun _ => rfl) fun _ ⟨hmay, hoff, hbad⟩ =>
      (regSnapCtlWrite_may hset hmay).trans ((snapCtl_enable hbit hoff).trans (if_pos hbad))
  case clear => exact fun fn w m hbit => happens_intro (fun _ => rfl) fun _ ⟨hsel, hmay⟩ => regClrHold_owner hbit hsel hmay
  case clearAll => exact fun fn w hbit => happens_intro (fun _ => rfl) fun _ _ => if_pos hbit
  case latch =>
    exact fun fn m a b c d h l => happens_intro (fun _ => rfl) fun _ ⟨hsel, hwords⟩ => regMtrVal0Read_words hsel hwords

end Sys2Proof.Machine
end

section
/-!
PROOFS. Local audio ports, links, buses and pins: what their status commands return, what each write of their configuration commands
does, and how the audio ports follow their events (R184, R324, R328–R337, R345, R353, R400, R574, R588, R600, R601).
-/
namespace Sys2Proof.Machine

/-! ## What status commands return -/

/-- Settles O6: past its range check each command's part is one answer with the words named; the words of MIRROR_STATUS are those before
the free value of a copy under way is taken, as none of them depends on it (R400). -/
theorem portQueriesAnswer : Obligations.PortQueriesAnswer := by
  refine ⟨?aesRx, ?aesTx, ?gpio, ?uart, ?links, ?hierarchy, ?mirror⟩
  case aesRx =>
    intro r hr
    exact completes_of_ret (fun _ _ => rfl) fun _ _ _ => if_neg (by omega)
  case aesTx => exact fun ts hts => completes_of_retL (fun _ _ => rfl) fun _ _ _ => if_neg (listed_below hts)
  case gpio => exact fun clear => completes_of_ret (fun _ _ => rfl) fun _ _ _ => rfl
  case uart =>
    intro u n hu hlo hhi
    exact completes_of_ret (fun _ _ => rfl) fun _ _ _ => if_neg (by omega)
  case links => exact fun ls hls => completes_of_retL (fun _ _ => rfl) fun _ _ _ => if_neg (listed_below hls)
  case hierarchy => exact fun others => completes_of_ret (fun _ _ => rfl) fun _ _ _ => rfl
  case mirror =>
    refine completes_of_ret (fun _ _ => rfl) fun _ s _ => ?_
    dsimp only
    split
    case isTrue hcopy =>
      rewrite [if_pos (show s.fresh.2.uma.copying = true from hcopy)]
      rfl
    case isFalse => rfl

/-! ## Configuration -/

/-- A list whose writes of one register are each in order passes a test of those writes. -/
theorem writesAt_pass {ws : List RegW} {off : Nat} {bad : RegW → Bool} (h : ∀ w ∈ ws, w.off = off → bad w = false) :
    ¬ws.any (fun w => w.off == off && bad w) = true := by
  intro hany
  obtain ⟨w, hw, hbad⟩ := List.any_eq_true.mp hany
  obtain ⟨hoff, hbad⟩ := Bool.and_eq_true_iff.mp hbad
  exact Bool.false_ne_true ((h w hw (beq_iff_eq.mp hoff)).symm.trans hbad)

/-- A configuration of ports that the pool has converters for is carried out (R184). -/
theorem locDone_ok {k : Nat} {l : List Nat} {s : State} (h : locRefused s (l.map (fun i => (k, i))) = none) : locDone k l s = done s := by
  unfold locDone
  rw [h]

/-- I2S_CONFIG leaves what its writes leave in turn, where the pool has converters for the ports it names (R184, R324). -/
theorem exec_i2sConfig_ok {ws : List RegW} {e : Env} {s t : State} (hwords : locWsOk ws 4 4 [0x100, 0x12C] = true)
    (hjudged : judged { pf0 := true } e anyone s = true) (hcfg : i2sCfg (accept { pf0 := true } e s) ws = .ok t)
    (hpool : locRefused t ((ws.map (fun w => 4 * w.inst + w.obj)).map (fun i => (0, i))) = none) :
    exec (.i2sConfig e ws) s = okWith { pf0 := true } e 0 [] t := by
  refine exec_of_ok (n := 0) rfl hjudged ((if_neg (by simp [hwords])).trans ?_) (by simp [fits])
  simp only [hcfg]
  exact locDone_ok hpool

/-- Settles O10: what passes a command's test is written in turn; a port's configuration also passes the pool's (`locDone_ok`). -/
theorem portConfigurationActs : Obligations.PortConfigurationActs := by
  refine ⟨?links, ?buses, ?i2s, ?aesRx, ?aesTx, ?clocks⟩
  case links =>
    intro ws hne hok
    exact acts_of_done (fun _ _ => rfl) fun _ _ _ => if_neg (by simp [hne, hok])
  case buses =>
    intro ws ⟨hne, hlen, hobj⟩ hok
    have hany : ¬ws.any (fun w => decide (3 < w.obj)) = true := by simpa [Nat.lt_succ_iff] using hobj
    exact acts_of_done (fun _ _ => rfl) fun _ _ _ => if_neg (by simp only [hne, hok, hany, reduceCtorEq, or_false, false_or]; omega)
  case i2s => exact fun ws t hwords e s hjudged hcfg hpool => exec_i2sConfig_ok hwords hjudged hcfg hpool
  case aesRx =>
    intro ws hwords hnom
    refine acts_of_done (fun _ _ => rfl) fun _ s ⟨hoff, hpool⟩ => ?_
    have hrange := writesAt_pass (bad := fun w => decide (w.val < 8000) || decide (216000 < w.val)) fun w hw h => by
      simpa using hnom w hw h
    exact (if_neg (not_or.mpr ⟨by simp [hwords], hrange⟩)).trans ((if_neg (writesAt_pass hoff)).trans (locDone_ok hpool))
  case aesTx =>
    intro ws hwords hrate
    refine acts_of_done (fun _ _ => rfl) fun _ s ⟨hkeeps, hpool⟩ => ?_
    have hrange := writesAt_pass (bad := fun w => decide (5 < fbits w.val 2 0)) fun w hw h => by simpa using hrate w hw h
    have hidle := writesAt_pass (bad := fun w => s.rb AESP.TX_CTL_EN w.obj && fbits w.val 2 0 != s.rd AESP.TX_CTL_RATE w.obj)
      fun w hw h => by simpa using hkeeps w hw h
    simp only [← Bool.and_assoc] at hidle
    exact (if_neg (not_or.mpr ⟨by simp [hwords], hrange⟩)).trans ((if_neg hidle).trans (locDone_ok hpool))
  case clocks =>
    intro ws hok hobj
    refine acts_of_done (fun _ _ => rfl) fun _ s hmode => ?_
    refine (if_neg (by simpa [hok] using hobj)).trans (if_neg ?_)
    rcases hmode with hmode | hmode | hkeeps
    · simp [hmode]
    · simp [hmode]
    · have hsame := writesAt_pass (bad := fun w => w.val % 4 != s.rd CLKG.SSC_CTL_MODE) fun w hw h => by simpa using hkeeps w hw h
      simp only [hsame, Bool.false_and, Bool.false_eq_true, not_false_eq_true]

/-! ## The audio ports' events -/

section I2s
variable {p off : Nat} {s t : State}

/-- An edge at a port that is OFF shows its clock, and the bit clocks of the frame once a clock has been there (R328). -/
theorem i2sEdge_off {x : I2sIn}
    (ht : i2sClk p true (s.onLoc (fun l => { l with clkAt := ns l.clkAt p (s.clockGrid off + 1) })) = t)
    (hoff : (if s.i2sRb SAPG.PORT_STAT_CLK_OK p then i2sWr SAPG.PORT_STAT_BCLK_FRAME (min 255 x.bclk) p t else t).i2sState p = i2sOFF) :
    i2sEdge p off x s = if s.i2sRb SAPG.PORT_STAT_CLK_OK p then i2sWr SAPG.PORT_STAT_BCLK_FRAME (min 255 x.bclk) p t else t := by
  subst ht
  exact if_pos hoff

/-- A clock that is absent for 4 frames is counted and shown; a port that was to stop at an edge stops, the outputs of another are held
low (R324, R328). -/
theorem i2sLoss_due (hclk : s.i2sRb SAPG.PORT_STAT_CLK_OK p = true)
    (hdue : 4 * gridSec ≤ (s.clockGrid off + 1 - ng s.loc.clkAt p) * s.i2sRd SAPG.NOM_HZ p)
    (ht : i2sClk p false (i2sCnt SAPG.CLK_LOSSES p s) = t) :
    i2sLoss p off s =
      if bg t.loc.halt p then i2sOff p t else t.onLoc (fun l => { l with sdo := is (is l.sdo (2 * p) 0) (2 * p + 1) 0 }) := by
  subst ht
  exact if_pos ⟨hclk, hdue⟩

theorem i2sLoss_lost (hclk : s.i2sRb SAPG.PORT_STAT_CLK_OK p = false) : i2sLoss p off s = s := if_neg (by simp [hclk])

end I2s

section Transmitter
variable {t : Nat} {s : State}

/-- A transmitter that is OFF starts no block. -/
theorem atBlock_off (h : s.atState t = atOFF) : atBlock t s = s := if_pos h

/-- The block after a whole one starts where the frames stand, with the words written for it (R335, R337). -/
theorem atBlock_whole {u : State} (hon : s.atState t ≠ atOFF) (hwhole : 192 ≤ ng s.loc.txPos t) (hkept : ng s.ref.outPend (atOut t) = 0)
    (hu : s.applyDue (fun h => h.pg == 0x18 && h.obj == t && decide (0x908 ≤ h.off)) (fun s h => s.applyHeld h) = u) :
    atBlock t s = (u.wr AESP.TX_BLOCKS_COUNT (u.rd AESP.TX_BLOCKS_COUNT t + 1) t).onLoc (fun l =>
      { l with txPos := ns l.txPos t (ng l.txPos t % 192) }) := by
  subst hu
  have hdue : ¬(ng s.loc.txPos t < 192 ∧ (ng s.ref.outPend (atOut t) != 0) = false) := fun h => Nat.not_lt.mpr hwhole h.1
  refine (if_neg hon).trans ((if_neg hdue).trans ?_)
  simp only [hkept, bne_self_eq_false, Bool.false_eq_true, if_false]

/-- The block of a transmitter that is aligned starts at its first frame, whatever the place of the one before (R91, R335). -/
theorem atBlock_aligned {u v : State} (hon : s.atState t ≠ atOFF) (halign : ng s.ref.outPend (atOut t) ≠ 0)
    (hu : s.applyDue (fun h => h.pg == 0x18 && h.obj == t && decide (0x908 ≤ h.off)) (fun s h => s.applyHeld h) = u)
    (hv : (u.wr AESP.TX_BLOCKS_COUNT (u.rd AESP.TX_BLOCKS_COUNT t + 1) t).onLoc (fun l => { l with txPos := ns l.txPos t 0 }) = v) :
    atBlock t s = (v.onRef (fun r => { r with outPend := ns r.outPend (atOut t) 0, ao := is r.ao (atOut t) 0 })).onLoc (fun l =>
      { l with txFade := ns l.txFade t (v.tim.sample + 2), txDark := bs l.txDark t (bg l.txDark t && !v.rb CLKG.MPLL_STAT_LOCK) }) := by
  subst hu hv
  have hal : (ng s.ref.outPend (atOut t) != 0) = true := bne_iff_ne.mpr halign
  refine (if_neg hon).trans ((if_neg (by simp [hal])).trans ?_)
  simp only [hal, if_true]

end Transmitter

/-- Settles O37: the equation of each event's operation in the case that the clause names. -/
theorem localPortsFollowTheirEvents : Obligations.LocalPortsFollowTheirEvents := by
  refine ⟨?edge, ?noEdge, ?offWithClock, ?offNewClock, ?noClock, ?lossHeld, ?lossStops, ?noFrame, ?frame, ?lockLoss, ?noLock, ?block,
    ?aligned, ?noBlock⟩
  case edge => exact fun p off x hp => happens_intro (fun _ => rfl) fun _ hbank => if_pos ⟨hp, hbank⟩
  case noEdge => exact fun p off x => happens_intro (fun _ => rfl) fun _ hbank => if_neg (by simp [hbank])
  case offWithClock =>
    intro p off x hp
    refine happens_intro (fun _ => rfl) fun s ⟨hbank, hclk, hoff⟩ => (if_pos ⟨hp, hbank⟩).trans ?_
    rw [i2sEdge_off rfl (by rwa [if_pos hclk]), if_pos hclk]
  case offNewClock =>
    intro p off x hp
    refine happens_intro (fun _ => rfl) fun s ⟨hbank, hclk, hoff⟩ => (if_pos ⟨hp, hbank⟩).trans ?_
    have hnew : ¬s.i2sRb SAPG.PORT_STAT_CLK_OK p = true := Bool.eq_false_iff.mp hclk
    rw [i2sEdge_off rfl (by rwa [if_neg hnew]), if_neg hnew]
  case noClock =>
    intro p off
    refine happens_intro (fun _ => rfl) fun s hclk => ?_
    rw [i2sLoss_lost hclk, ite_self, id_eq]
  case lossHeld =>
    intro p off hp
    refine happens_intro (fun _ => rfl) fun s ⟨hclk, hdue, hgoes⟩ => (if_pos hp).trans ?_
    exact (i2sLoss_due hclk hdue rfl).trans (if_neg (Bool.eq_false_iff.mp hgoes))
  case lossStops =>
    intro p off hp
    refine happens_intro (fun _ => rfl) fun s ⟨hclk, hdue, hstops⟩ => (if_pos hp).trans ?_
    exact (i2sLoss_due hclk hdue rfl).trans (if_pos hstops)
  case noFrame =>
    intro r off x
    refine happens_intro (fun _ => rfl) fun s h => ?_
    rcases h with hbank | hoff
    · exact if_neg (by simp [hbank])
    · have hidle : arFrame r off x s = s := if_pos hoff
      rw [hidle, ite_self, id_eq]
  case frame =>
    exact fun r off x hr => happens_intro (fun _ => rfl) fun _ ⟨hbank, hon⟩ => (if_pos ⟨hr, hbank⟩).trans (if_neg hon)
  case lockLoss => exact fun r off hr => happens_intro (fun _ => rfl) fun _ hdue => (if_pos hr).trans (if_pos hdue)
  case noLock =>
    intro r off
    refine happens_intro (fun _ => rfl) fun s hstate => ?_
    have hidle : arLoss r off s = s := if_neg fun ⟨hlocked, _⟩ => hstate hlocked
    rw [hidle, ite_self, id_eq]
  case block =>
    exact fun t ht => happens_intro (fun _ => rfl) fun _ ⟨hon, hwhole, hkept⟩ => (if_pos ht).trans (atBlock_whole hon hwhole hkept rfl)
  case aligned =>
    exact fun t ht => happens_intro (fun _ => rfl) fun _ ⟨hon, halign⟩ => (if_pos ht).trans (atBlock_aligned hon halign rfl rfl)
  case noBlock =>
    intro t
    refine happens_intro (fun _ => rfl) fun s hoff => ?_
    rw [atBlock_off hoff, ite_self, id_eq]

end Sys2Proof.Machine
end

section
/-!
PROOFS. Umarun links and the hierarchy: how lanes, marker sets and cells follow what a link receives, and what ends after a time
(R350–R363, R383, R385, R398).
-/
namespace Sys2Proof.Machine

/-! ## Lanes -/

/-- The header of a block on a physical lane, inverted where LANE_POL asks for it (R353). -/
def State.laneHdr (s : State) (l p : Nat) (b : UBlock) : BitVec 2 :=
  if bit (s.rd ULNK.LINK_CTL_LANE_POL (i := l)) p then ~~~ b.hdr else b.hdr

/-- The bits of a block on a physical lane, inverted likewise. -/
def State.laneBits (s : State) (l p : Nat) (b : UBlock) : BitVec 64 :=
  if bit (s.rd ULNK.LINK_CTL_LANE_POL (i := l)) p then ~~~ b.bits else b.bits

/-- What a physical lane has received. -/
def State.laneAt (s : State) (l p : Nat) : ULane := tget (fun _ => ULane.reset) s.uma.lane (4 * l + p)

/-- The lane has block lock (R353). -/
def State.laneLocked (s : State) (l p : Nat) : Bool := bit (s.rd ULNK.LINK_STAT_LANE_LOCK (i := l)) p

/-- A lane has received a block, after which its window of bad headers and its run of valid ones are those given. -/
def lanePut (l p : Nat) (b : UBlock) (win : BitVec 64) (run : Nat) (s : State) : State :=
  s.onUma (fun u => { u with lane := tset (fun _ => ULane.reset) u.lane (4 * l + p) ⟨lastBits (s.laneBits l p b), win, run⟩ })

section Lane
variable {l p : Nat} {b : UBlock} {s : State}

/-- What a block does to its lane follows from whether its header is bad. -/
theorem laneTake_state {bad : Bool} {run : Nat} {win : BitVec 64} (hbad : (s.laneHdr l p b == 0 || s.laneHdr l p b == 3) = bad)
    (hrun : (if bad then 0 else min 64 ((s.laneAt l p).run + 1)) = run)
    (hwin : ((s.laneAt l p).bad <<< 1 ||| if bad then 1 else 0) = win) :
    (laneTake l p b s).2 =
      if !s.laneLocked l p && run == 64 then laneLock l p (lanePut l p b win run s)
      else if s.laneLocked l p && bad && decide (16 ≤ weight win) then laneLoss l p (lanePut l p b win run s)
      else lanePut l p b win run s := by
  subst hbad hrun hwin
  rfl

/-- A valid header lengthens the run, and the 64th in a row gives block lock to a lane without it (R353). -/
theorem laneTake_valid {t : State} (hvalid : s.laneHdr l p b = hdData ∨ s.laneHdr l p b = hdCtl)
    (ht : lanePut l p b ((s.laneAt l p).bad <<< 1) (min 64 ((s.laneAt l p).run + 1)) s = t) :
    (laneTake l p b s).2 = if s.laneLocked l p = false ∧ 63 ≤ (s.laneAt l p).run then laneLock l p t else t := by
  subst ht
  have hgood : (s.laneHdr l p b == 0 || s.laneHdr l p b == 3) = false := by
    rcases hvalid with h | h <;> rw [h] <;> rfl
  have hrun : min 64 ((s.laneAt l p).run + 1) = 64 ↔ 63 ≤ (s.laneAt l p).run := by omega
  rw [laneTake_state hgood rfl rfl]
  simp [hrun]

/-- A bad header ends the run, and the 16th of 64 takes block lock from a lane that has it (R353). -/
theorem laneTake_bad {t : State} (hbad : s.laneHdr l p b = 0 ∨ s.laneHdr l p b = 3)
    (ht : lanePut l p b ((s.laneAt l p).bad <<< 1 ||| 1) 0 s = t) :
    (laneTake l p b s).2 =
      if s.laneLocked l p = true ∧ 16 ≤ weight ((s.laneAt l p).bad <<< 1 ||| 1) then laneLoss l p t else t := by
  subst ht
  have hends : (s.laneHdr l p b == 0 || s.laneHdr l p b == 3) = true := by simpa using hbad
  rw [laneTake_state hends rfl rfl]
  simp

end Lane

/-! ## Marker sets -/

section Markers
variable {l g skew : Nat} {bs : List UBlock} {s : State}

/-- Without block lock on every lane no marker set is judged (R354). -/
theorem markerJudge_unlocked (h : s.linkState l < lkDESKEW) : markerJudge l g skew bs s = s := if_pos h

/-- A good marker set gives the skew and the lanes of the peer, and the fourth in a row leads from DESKEW to TRAIN (R353, R354). -/
theorem markerJudge_good {m : List Nat} {t : State} (hlock : lkDESKEW ≤ s.linkState l) (hset : markersOf skew bs = some m)
    (ht : t = ((s.wr ULNK.LANE_SKEW_UI skew (i := l)).wr ULNK.PEER_LANE_MAP
      (m.getD 0 0 + 16 * m.getD 1 0 + 256 * m.getD 2 0 + 4096 * m.getD 3 0) (i := l)).onUma
      (fun u => { u with good := ns u.good l (ng s.uma.good l + 1), bad := ns u.bad l 0 })) :
    markerJudge l g skew bs s = if t.linkState l = lkDESKEW ∧ 4 ≤ ng t.uma.good l then linkTrain l g t else t := by
  have hcount : t = ((s.wr ULNK.LANE_SKEW_UI skew (i := l)).wr ULNK.PEER_LANE_MAP
      (m.getD 0 0 + 16 * m.getD 1 0 + 256 * m.getD 2 0 + 4096 * m.getD 3 0) (i := l)).onUma
      (fun u => { u with good := ns u.good l (ng u.good l + 1), bad := ns u.bad l 0 }) := by
    simp only [ht, State.onUma, State.wr_uma]
  rw [hcount]
  refine (if_neg (Nat.not_lt.mpr hlock)).trans ?_
  simp only [hset]

/-- A bad marker set after another leads back to LOCK; the first one is only noted (R354). -/
theorem markerJudge_bad (hlock : lkDESKEW ≤ s.linkState l) (hset : markersOf skew bs = none) :
    markerJudge l g skew bs s =
      if 1 ≤ ng s.uma.bad l then linkLock l true s
      else s.onUma (fun u => { u with good := ns u.good l 0, bad := ns u.bad l 1 }) := by
  refine (if_neg (Nat.not_lt.mpr hlock)).trans ?_
  simp only [hset]

end Markers

/-! ## Cells -/

/-- The blocks of a whole cell slot are taken by the lanes of a link that is on. -/
theorem cellSlot_taken {l : Nat} {bs : List (List UBlock)} {s : State} (hl : l ≤ 5) (hbs : bs.map List.length = [8, 8, 8, 8])
    (hon : s.linkState l ≠ lkOFF) : ¬(5 < l ∨ s.linkState l = lkOFF ∨ bs.map List.length ≠ [8, 8, 8, 8]) := by
  rintro (hbeyond | hoff | hlen)
  · exact Nat.not_lt.mpr hl hbeyond
  · exact hon hoff
  · exact hlen hbs

/-- A cell whose CRC fails is counted, and breaks a run of TRAIN cells (R358). -/
theorem cellReceive_crcErr {l off : Nat} {c : List Byte} {fw : FwMsg} {s : State} (hcrc : cellCrcOk c = false) :
    cellReceive l off c fw s = trainBreak l (linkCnt ULNK.CRC_ERR l (some 1) (s.cntw ULNK.CELLS_RX_COUNT (i := l))) := if_pos hcrc

section Cell
variable {l off type : Nat} {c : List Byte} {fw : FwMsg} {s t : State} (hcrc : cellCrcOk c = true)
  (htype : fbits (cellNum c 0 8) 63 60 = type) (ht : s.cntw ULNK.CELLS_RX_COUNT (i := l) = t)
include hcrc htype ht

/-- A cell of no known type is counted as a bad header (R358). -/
theorem cellReceive_hdrErr (hlow : 3 < type) (htrain : type ≠ cyTRAIN) :
    cellReceive l off c fw s = trainBreak l (linkCnt ULNK.HDR_ERR l none t) := by
  subst htype ht
  exact (if_neg (by simp [hcrc])).trans (if_pos ⟨hlow, htrain⟩)

variable (hknown : type ≤ 3 ∨ type = cyTRAIN)
include hknown

/-- The first cell of a known type gives the sequence number that the next ones are judged by (R358). -/
theorem cellReceive_first (hseq : og t.uma.rxSeq l = none) :
    cellReceive l off c fw s =
      cellTake l off (cellNum c 0 8) c fw (t.onUma (fun u => { u with rxSeq := os u.rxSeq l (some (cellNum c 252 2)) })) := by
  subst htype ht
  refine (if_neg (by simp [hcrc])).trans ((if_neg (by omega)).trans ?_)
  simp only [hseq]

/-- A later one is delivered if it is an IDLE cell or its number is ahead of the last, with the gap counted; another is counted as out of
sequence (R358). -/
theorem cellReceive_next {q d : Nat} (hseq : og t.uma.rxSeq l = some q) (hd : (cellNum c 252 2 + 65536 - q) % 65536 = d) :
    cellReceive l off c fw s =
      if type = cyIDLE then cellTake l off (cellNum c 0 8) c fw t
      else if d = 0 ∨ 32768 ≤ d then trainBreak l (linkCnt ULNK.SEQ_ERR l none t)
      else cellTake l off (cellNum c 0 8) c fw
        ((t.cntr ULNK.SEQ_GAP (i := l) (n := d - 1)).onUma (fun u => { u with rxSeq := os u.rxSeq l (some (cellNum c 252 2)) })) := by
  subst htype ht hd
  refine (if_neg (by simp [hcrc])).trans ((if_neg (by omega)).trans ?_)
  simp only [hseq]

end Cell

/-- Settles O46: the equation of each event's operation in the case that the clause names;
what waits for a time is looked for first: where it is found and due it is acted on. -/
theorem linksFollowTheirEvents : Obligations.LinksFollowTheirEvents := by
  refine ⟨?blocks, ?noBlocks, ?lane, ?markers, ?noMarkers, ?unlocked, ?goodSet, ?secondBad, ?firstBad, ?trainEnds, ?trainGoes,
    ?cellsEnd, ?cellsCome, ?untrained, ?cell, ?noCell, ?checks, ?sends, ?sendsNot, ?dropped, ?noPart, ?partWaits, ?leaves, ?stays,
    ?reserved, ?noResv, ?resvWaits, ?tunnel, ?noTunnel, ?tunnelWaits⟩
  case blocks => exact fun l lane bs hl hlane => happens_intro (fun _ => rfl) fun _ hon => if_neg (by omega)
  case noBlocks => exact fun l lane bs => happens_intro (fun _ => rfl) fun _ hoff => if_pos (.inr (.inr hoff))
  case lane =>
    intro l p b s hl hp inv h x q t locked
    refine ⟨?acquires, ?counts, ?loses, ?notes, rfl⟩
    case acquires =>
      intro hvalid hlock hrun
      have hfull : min 64 (q.run + 1) = 64 := by omega
      exact (laneTake_valid hvalid (congrArg (lanePut l p b _ · s) hfull)).trans (if_pos ⟨hlock, hrun⟩)
    case counts =>
      intro hvalid h
      refine (laneTake_valid hvalid rfl).trans (if_neg fun ⟨hunlocked, hrun⟩ => ?_)
      rcases h with hlock | hshort
      · exact Bool.false_ne_true (hunlocked.symm.trans hlock)
      · exact Nat.not_le.mpr hshort hrun
    case loses => exact fun hbad hlock hwin => (laneTake_bad hbad rfl).trans (if_pos ⟨hlock, hwin⟩)
    case notes =>
      intro hbad h
      refine (laneTake_bad hbad rfl).trans (if_neg fun ⟨hlock, hwin⟩ => ?_)
      rcases h with hunlocked | hfew
      · exact Bool.false_ne_true (hunlocked.symm.trans hlock)
      · exact Nat.not_le.mpr hfew hwin
  case markers => exact fun l off bs early late hl hbs => happens_intro (fun _ => rfl) fun _ hon => if_neg (by omega)
  case noMarkers => exact fun l off bs early late => happens_intro (fun _ => rfl) fun _ hoff => if_pos (.inr (.inl hoff))
  case unlocked => exact fun l g skew bs s => markerJudge_unlocked
  case goodSet => exact fun l g skew bs m s t => markerJudge_good
  case secondBad => exact fun l g skew bs s hlock hset hbad => (markerJudge_bad hlock hset).trans (if_pos hbad)
  case firstBad => exact fun l g skew bs s hlock hset hbad => (markerJudge_bad hlock hset).trans (if_neg (by omega))
  case trainEnds => exact fun l off hl => happens_intro (fun _ => rfl) fun _ hdue => if_pos ⟨hl, hdue⟩
  case trainGoes =>
    exact fun l off => happens_intro (fun _ => rfl) fun _ h => if_neg fun ⟨_, hstate, hlate⟩ => by omega
  case cellsEnd => exact fun l off hl => happens_intro (fun _ => rfl) fun _ hdue => if_pos ⟨hl, hdue⟩
  case cellsCome =>
    exact fun l off => happens_intro (fun _ => rfl) fun _ h => if_neg fun ⟨_, hstate, hlate⟩ => by omega
  case untrained =>
    intro l off bs fw hl hbs
    refine happens_intro (fun _ => rfl) fun _ ⟨hon, hstate⟩ => ?_
    exact (if_neg (cellSlot_taken hl hbs hon)).trans (if_neg (Nat.not_le.mpr hstate))
  case cell =>
    intro l off bs fw hl hbs
    exact happens_intro (fun _ => rfl) fun _ ⟨hon, hstate⟩ => (if_neg (cellSlot_taken hl hbs hon)).trans (if_pos hstate)
  case noCell => exact fun l off bs fw => happens_intro (fun _ => rfl) fun _ hoff => if_pos (.inr (.inl hoff))
  case checks =>
    intro l off c fw s t type seq
    refine ⟨cellReceive_crcErr, fun hcrc => cellReceive_hdrErr hcrc rfl rfl, fun hcrc => cellReceive_first hcrc rfl rfl,
      ?idle, ?old, ?ahead⟩
    case idle =>
      intro q hcrc hidle hseq
      exact (cellReceive_next hcrc rfl rfl (.inl (Nat.le_trans (Nat.le_of_eq hidle) (Nat.zero_le 3))) hseq rfl).trans (if_pos hidle)
    case old =>
      intro q hcrc hknown hidle hseq hold
      exact (cellReceive_next hcrc rfl rfl hknown hseq rfl).trans ((if_neg hidle).trans (if_pos hold))
    case ahead =>
      intro q hcrc hknown hidle hseq hnew hnear
      exact (cellReceive_next hcrc rfl rfl hknown hseq rfl).trans ((if_neg hidle).trans (if_neg (by omega)))
  case sends => exact fun l off hl => happens_intro (fun _ => rfl) fun _ hon => if_neg (by omega)
  case sendsNot => exact fun l off => happens_intro (fun _ => rfl) fun _ hoff => if_pos (.inr hoff)
  case dropped => exact fun src msg off _ => happens_intro (fun _ => rfl) fun _ ⟨hfind, hdue⟩ => by simp only [hfind, if_pos hdue]
  case noPart => exact fun src msg off => happens_intro (fun _ => rfl) fun _ hnone => by simp only [hnone, id_eq]
  case partWaits =>
    exact fun src msg off _ =>
      happens_intro (fun _ => rfl) fun _ ⟨hfind, hearly⟩ => by simp only [hfind, if_neg (Nat.not_le.mpr hearly), id_eq]
  case leaves => exact fun d hd => happens_intro (fun _ => rfl) fun _ ⟨hmember, hdue⟩ => if_pos ⟨hd, hmember, hdue⟩
  case stays =>
    intro d
    refine happens_intro (fun _ => rfl) fun s h => if_neg fun ⟨_, hmember, hdue⟩ => ?_
    rcases h with hnone | hearly
    · exact Bool.false_ne_true (hnone.symm.trans hmember)
    · exact Nat.not_le.mpr hearly hdue
  case reserved => exact fun td _ => happens_intro (fun _ => rfl) fun _ ⟨hfind, hdue⟩ => by simp only [hfind, if_pos hdue]
  case noResv => exact fun td => happens_intro (fun _ => rfl) fun _ hnone => by simp only [hnone, id_eq]
  case resvWaits =>
    exact fun td _ =>
      happens_intro (fun _ => rfl) fun _ ⟨hfind, hearly⟩ => by simp only [hfind, if_neg (Nat.not_le.mpr hearly), id_eq]
  case tunnel => exact fun msg _ => happens_intro (fun _ => rfl) fun _ ⟨hfind, hdue⟩ => by simp only [hfind, if_pos hdue]
  case noTunnel => exact fun msg => happens_intro (fun _ => rfl) fun _ hnone => by simp only [hnone, id_eq]
  case tunnelWaits =>
    exact fun msg _ =>
      happens_intro (fun _ => rfl) fun _ ⟨hfind, hearly⟩ => by simp only [hfind, if_neg (Nat.not_le.mpr hearly), id_eq]

end Sys2Proof.Machine
end

section
/-!
PROOFS. The mirror pair: how it follows its events, and what the commands of buses, links, the hierarchy and the pair do
(R363, R383, R387–R392, R397, R572–R574, R580).
-/
namespace Sys2Proof.Machine

/-! ## The mirror pair -/

/-- What a member of a pair shows, counts and logs once its partner is lost (R391). -/
def partnerLost (s : State) : State := ((mirrorSet 3 s).cntr ULNK.MIRROR_LOSSES).err 0x0402 0x1A 0 0 0 none (s.beyond kdMIRROR)

/-- Whether a member whose pair's link is repaired goes on: the one that has run for longer, or the one in slot A where both have run
equally long (R392). -/
def State.repairWins (s : State) (since : Nat) : Bool :=
  running s.mode && (decide (s.uma.runSince < since) || (s.uma.runSince == since && s.rb ULNK.HIER_STAT_A_MEMBER))

/-- The link is repaired: the partner is heard, and there is nothing to take over (R392). -/
def partnerBack (s : State) : State := s.onUma (fun u => { u with partnerAt := s.clock, takeover := false })

section Mirror
variable {since : Nat} {s : State}

/-- A partner unheard for 96 samples is lost; a standby with AUTO_TAKEOVER then goes to take over (R391). -/
theorem exec_mirrorLost_due (hup : up s = true) (hrole : s.role = roMIRROR)
    (hpaired : s.rd ULNK.HIER_STAT_MIRROR = 1 ∨ s.rd ULNK.HIER_STAT_MIRROR = 2) (hdue : s.uma.partnerAt + 96 ≤ s.clock) :
    exec .mirrorLost s = .next
      (if s.rd ULNK.HIER_STAT_MIRROR = 2 ∧ (partnerLost s).rb ULNK.MIRROR_CTL_AUTO_TAKEOVER = true then
        (partnerLost s).onUma (fun u => { u with takeover := true })
      else partnerLost s) :=
  congrArg Host.Outcome.next ((awake_up hup).trans (if_pos ⟨hrole, hpaired, hdue⟩))

/-- Of a pair whose link is repaired one member goes on, and the other logs what it did alone and copies the first (R392). -/
theorem exec_mirrorRepair_lost (hup : up s = true) (hrole : s.role = roMIRROR) (hlost : s.rd ULNK.HIER_STAT_MIRROR = 3)
    (hlink : s.mirrorLink = true) (hidle : s.uma.copying = false) :
    exec (.mirrorRepair since) s = .next
      (if s.repairWins since = true then partnerBack s
      else copySet true
        (((partnerBack s).each s.uma.alone (fun s c => s.err 0x0404 0x1A 0 c 0)).onUma (fun u => { u with alone := [] }))) :=
  congrArg Host.Outcome.next ((awake_up hup).trans (if_pos ⟨hrole, hlost, hlink, hidle⟩))

theorem repairWins_of (hrun : running s.mode = true)
    (h : s.uma.runSince < since ∨ (s.uma.runSince = since ∧ s.rb ULNK.HIER_STAT_A_MEMBER = true)) : s.repairWins since = true := by
  simpa [State.repairWins, hrun] using h

theorem not_repairWins_of (h : running s.mode = false ∨ since < s.uma.runSince ∨
    (s.uma.runSince = since ∧ s.rb ULNK.HIER_STAT_A_MEMBER = false)) : ¬s.repairWins since = true := by
  rcases h with hstop | hshort | ⟨heq, hslot⟩
  · simp [State.repairWins, hstop]
  · simp [State.repairWins, Nat.not_lt.mpr (Nat.le_of_lt hshort), Nat.ne_of_gt hshort]
  · simp [State.repairWins, heq, hslot]

end Mirror

/-- Settles O47: the equation of each event's operation in the case that the clause names. -/
theorem mirrorFollowsItsEvents : Obligations.MirrorFollowsItsEvents := by
  refine ⟨?lostActive, ?lostStandby, ?heard, ?copyKept, ?copyTaken, ?noCopy, ?wins, ?copied, ?noRepair, ?forwards, ?noForward⟩
  case lostActive =>
    intro s hup ⟨hrole, hactive, hdue⟩
    exact (exec_mirrorLost_due hup hrole (.inl hactive) hdue).trans (congrArg _ (if_neg (by simp [hactive])))
  case lostStandby =>
    intro t s hup ⟨hrole, hstandby, hdue, ht⟩
    rw [exec_mirrorLost_due hup hrole (.inr hstandby) hdue, ht]
    simp only [hstandby, true_and]
    rfl
  case heard => exact happens_intro (fun _ => rfl) fun s h => if_neg fun ⟨hrole, hpaired, hdue⟩ => by omega
  case copyKept =>
    intro k x
    refine happens_intro (fun _ => rfl) fun s ⟨hrole, hlink, hnone, hkeeps⟩ => (if_pos ⟨hrole, hlink, hnone⟩).trans ?_
    simp only [hkeeps, Bool.false_eq_true, if_false]
  case copyTaken =>
    intro k x
    refine happens_intro (fun _ => rfl) fun s ⟨hrole, hlink, hnone, htakes⟩ => (if_pos ⟨hrole, hlink, hnone⟩).trans ?_
    simp only [htakes, if_true]
  case noCopy =>
    intro k x
    refine happens_intro (fun _ => rfl) fun s h => if_neg fun ⟨hrole, hlink, hnone⟩ => ?_
    rcases h with hother | hdown | hsome
    · exact hother hrole
    · exact Bool.false_ne_true (hdown.symm.trans hlink)
    · exact hsome hnone
  case wins =>
    intro since s hup ⟨hrole, hlost, hlink, hidle, hrun, hlonger⟩
    exact (exec_mirrorRepair_lost hup hrole hlost hlink hidle).trans (congrArg _ (if_pos (repairWins_of hrun hlonger)))
  case copied =>
    intro since s hup ⟨hrole, hlost, hlink, hidle, hloses⟩
    exact (exec_mirrorRepair_lost hup hrole hlost hlink hidle).trans (congrArg _ (if_neg (not_repairWins_of hloses)))
  case noRepair =>
    intro since
    refine happens_intro (fun _ => rfl) fun s h => if_neg fun ⟨hrole, hlost, hlink, hidle⟩ => ?_
    rcases h with hother | hpaired | hdown | hcopying
    · exact hother hrole
    · exact hpaired hlost
    · exact Bool.false_ne_true (hdown.symm.trans hlink)
    · exact Bool.false_ne_true (hidle.symm.trans hcopying)
  case forwards => exact happens_intro (fun _ => rfl) fun _ hdue => if_pos hdue
  case noForward =>
    refine happens_intro (fun _ => rfl) fun s h => if_neg fun ⟨hactive, hwaits⟩ => ?_
    rcases h with hpassive | hnone
    · exact Bool.false_ne_true (hpassive.symm.trans hactive)
    · exact Nat.ne_of_gt hwaits hnone

/-! ## Commands of buses, links, the hierarchy and the mirror pair -/

section Transfer
variable {i : Nat} {segs : List I2cSeg} {e : Env} {s : State}

/-- Segments in order, whose answer fits its place, pass the range test of I2C_XFER (R572, R573). -/
theorem transfer_inOrder (hi : i < 3) (hsegs : segsOk segs = true) (hroom : 4 * cdiv (bytesRead segs) 4 ≤ s.respLimit e) :
    ¬(2 < i ∨ segsOk segs = false ∨ s.respLimit e < 4 * cdiv (bytesRead segs) 4) := by
  simp only [hsegs, reduceCtorEq, false_or]
  omega

/-- A bus whose modules are not monitored is free for a transfer. -/
theorem transfer_unmonitored
    (h : i < 2 → s.rb NETP.QSFP_CTL_AUTO (i := 2 * i) = false ∧ s.rb NETP.QSFP_CTL_AUTO (i := 2 * i + 1) = false) :
    ¬(i < 2 ∧ (s.rb NETP.QSFP_CTL_AUTO (i := 2 * i) = true ∨ s.rb NETP.QSFP_CTL_AUTO (i := 2 * i + 1) = true)) := by
  rintro ⟨hi, hauto⟩
  simp [h hi] at hauto

end Transfer

/-- Settles O24: each command passes its own tests, and queues or does its work. -/
theorem busCommandsAct : Obligations.BusCommandsAct := by
  refine ⟨?transfer, ?isolated, ?check, ?bytes, ?retrain, ?join, ?tunnel, ?takeover⟩
  case transfer =>
    intro i segs hi hsegs
    refine begins_intro (fun _ _ => rfl) fun e s ⟨hroom, hauto, hbus, hon⟩ => ?_
    exact (if_neg (transfer_inOrder hi hsegs hroom)).trans
      ((if_neg (transfer_unmonitored hauto)).trans ((if_neg hbus).trans (if_neg hon)))
  case isolated =>
    intro i segs hi hsegs
    refine completes_intro (fun _ _ => rfl) fun e s ⟨hroom, hauto, hbus⟩ => ⟨0, ?_⟩
    exact (if_neg (transfer_inOrder hi hsegs hroom)).trans ((if_neg (transfer_unmonitored hauto)).trans (if_pos hbus))
  case check =>
    intro i hi
    refine begins_intro (fun _ _ => rfl) fun e s ⟨hen, hon⟩ => (if_neg (by omega)).trans (if_neg ?_)
    simpa [hen] using hon
  case bytes =>
    intro u data hu hne hlen
    refine begins_intro (fun _ _ => rfl) fun e s hconsole => (if_neg ?_).trans (if_neg fun ⟨hzero, hheld⟩ => ?_)
    · simp only [hne, false_or]
      omega
    · exact Bool.false_ne_true ((hconsole hzero).symm.trans hheld)
  case retrain => exact fun l hl => acts_of_done (fun _ _ => rfl) fun _ _ _ => if_neg (by omega)
  case join => exact fun p hp => acts_of_done (fun _ _ => rfl) fun _ _ _ => if_neg (by simp [hp])
  case tunnel => exact fun dst bytes hdst hshort hlong => begins_intro (fun _ _ => rfl) fun _ _ _ => if_neg (by omega)
  case takeover => exact acts_of_done (fun _ _ => rfl) fun _ _ _ => rfl

end Sys2Proof.Machine
end

section
/-!
PROOFS. Register access: words and fields, views, byte enables and the page header, interrupt flags and the edges of general-purpose pins
(R480, R554, R556, R557, R560, R563, R592).
-/
namespace Sys2Proof.Machine

/-! ## A word of a page's own registers -/

/-- A whole word reaches the register that its offset leads to. -/
theorem barWrite_whole {g fn bar w : Nat} {s : State} (halign : bar % 4 = 0) :
    barWrite g fn bar w 15 s = regWrite g fn (barPage bar) (bar % 0x1000) (barView bar) w s :=
  if_neg (by omega)

/-- The page has the register, which is neither a caller's selector (R559) nor mirrored (R388): its own words are PF0's to write, by its rule. -/
structure OwnWord (pg off p : Nat) : Prop where
  there : regGone pg off = false
  noSelector : isSelector pg p = false
  notMirrored : mirroredReg pg p = false

theorem ownWord_iff {pg off p : Nat} : OwnWord pg off p ↔ regGone pg off = false ∧ isSelector pg p = false ∧ mirroredReg pg p = false :=
  ⟨fun ⟨hthere, hsel, hmir⟩ => ⟨hthere, hsel, hmir⟩, fun ⟨hthere, hsel, hmir⟩ => ⟨hthere, hsel, hmir⟩⟩

/-- The write of a word of a page's own registers by PF0 is the page's. -/
theorem regWrite_own {g fn pg off v p i : Nat} {view : View} {r : RegRow} {s : State} (hplace : regPlace pg off = (p, i))
    (hrow : accRow pg p = some r) (hp : 0x040 ≤ p) (hfn : fn ≤ 8) (hpf0 : isPF0 fn = true) (hserved : s.served pg = true)
    (hown : OwnWord pg off p) (hview : view = .base ∨ hasRW r.flds = true) :
    regWrite g fn pg off view v s = pageWrite g fn pg p i (s.regObj fn pg p i) (decide (view = .base))
      (if decide (view = .base) then v % 2 ^ 32 else aliasWord r.flds view (s.gw pg (s.regObj fn pg p i) p) v) s := by
  obtain ⟨hthere, hsel, hmir⟩ := hown
  have hoff : ¬off < 0x040 := by
    intro hheader
    have heq : off = p := congrArg Prod.fst ((if_pos hheader).symm.trans hplace)
    omega
  have hreach : ¬(8 < fn ∨ s.served pg = false ∨ regGone pg off = true ∨ (decide (view = .base) = false ∧ hasRW r.flds = false)) := by
    rintro (hbig | hshut | hgone | ⟨halias, hnone⟩)
    · omega
    · exact Bool.false_ne_true (hshut.symm.trans hserved)
    · exact Bool.false_ne_true (hthere.symm.trans hgone)
    · exact hview.elim (of_decide_eq_false halias) fun hrw => Bool.false_ne_true (hnone.symm.trans hrw)
  simp only [regWrite, hplace, hrow, hreach, hoff, hsel, hmir, hpf0, if_false, Bool.false_and, Bool.not_true, Bool.and_false, Bool.or_self,
    Bool.false_eq_true]

section Plain
variable {g fn bar w p i : Nat} {r : RegRow} {s : State}

/-- The pages that need no more than the register file. -/
theorem pageWrite_plain {pg : Nat} {base : Bool} (hpg : pg ∈ [0x01, 0x19]) (hp : 0x040 ≤ p) :
    pageWrite g fn pg p i (s.regObj fn pg p i) base w s = regPut fn pg i p base w s ∧ s.regObj fn pg p i = i := by
  have hoff : ¬p < 0x040 := Nat.not_lt.mpr hp
  simp only [List.mem_cons, List.not_mem_nil, or_false] at hpg
  rcases hpg with rfl | rfl <;> simp [pageWrite, State.regObj, pageClass, hoff]

theorem ownWord_plain {pg : Nat} (hpg : pg ∈ [0x01, 0x19]) (off p : Nat) : OwnWord pg off p := by
  simp only [List.mem_cons, List.not_mem_nil, or_false] at hpg
  rcases hpg with rfl | rfl <;> simp [ownWord_iff, regGone, isSelector, mirroredReg, pageClass]

theorem ownWord_mode (off p : Nat) : OwnWord 0x00 off p := by simp [ownWord_iff, regGone, isSelector, mirroredReg, pageClass]

theorem ownWord_evtc (off p : Nat) : OwnWord 0x09 off p := by simp [ownWord_iff, regGone, isSelector, mirroredReg, pageClass]

end Plain

/-! ## Register words -/

/-- Words of different places have different keys. -/
theorem rkey_ne {p o f p' o' f' : Nat} (ho : o < 2 ^ 20) (hf : f < 2 ^ 12) (ho' : o' < 2 ^ 20) (hf' : f' < 2 ^ 12)
    (h : (p', o', f') ≠ (p, o, f)) : rkey p' o' f' ≠ rkey p o f := by
  intro hkey
  unfold rkey at hkey
  exact h (by rw [Prod.mk.injEq, Prod.mk.injEq]; omega)

/-- Settles O54: the laws of words and of fields after a write. -/
theorem registersReadBack : Obligations.RegistersReadBack := by
  refine ⟨?word, ?otherWord, ?field, ?otherField⟩
  case word => exact gw_pw_same
  case otherWord => exact fun s pg obj off v pg' obj' off' hoff hoff' hobj hobj' hne => gw_pw_other _ _ _ _ _ _ _ _ (rkey_ne hobj hoff hobj' hoff' hne)
  case field => exact fun s f v obj i hle hlt => rd_wr_same s f v obj i hle hlt
  case otherField => exact fun s f g v obj i hreg hf hg hlt hapart => rd_wr_field s f g v obj i hreg hf hg hlt hapart

/-! ## Interrupt flags -/

section Interrupts
variable {s : State} {pg b fn : Nat}

/-- A bit that stands already raises nothing. -/
theorem raise1_standing (h : bit (s.gw pg fn 0x010) b = true) : s.raise1 pg b fn = s := if_pos h

/-- INT_EN is another word than INT_STAT, which a raised bit goes to. -/
theorem intEn_of_intStat (v : Nat) : (s.pw pg fn 0x010 v).gw pg fn 0x014 = s.gw pg fn 0x014 :=
  gw_pw_other _ _ _ _ _ _ _ _ (rkey_ne_off (by decide) (by decide) (by decide))

/-- The vector of a page is held at other offsets than INT_STAT. -/
theorem pageVec_of_intStat (v : Nat) : (s.pw pg fn 0x010 v).pageVec fn pg = s.pageVec fn pg := by
  have hword : ∀ o off, off ≠ 0x010 → off < 2 ^ 12 → (s.pw pg fn 0x010 v).gw (0x21 + 0) o off = s.gw (0x21 + 0) o off :=
    fun o off hne hoff => gw_pw_other _ _ _ _ _ _ _ _ (rkey_ne_off hoff (by decide) hne)
  have hlines : ∀ o, (s.pw pg fn 0x010 v).rw HOST.PAGE_VEC o = s.rw HOST.PAGE_VEC o := fun o => hword o 0xA00 (by decide) (by decide)
  have hsig : (s.pw pg fn 0x010 v).rw HOST.PAGE_VEC_SIG fn = s.rw HOST.PAGE_VEC_SIG fn := hword fn 0xAC0 (by decide) (by decide)
  unfold State.pageVec State.rb State.rd HOST.PAGE_VEC_EN HOST.PAGE_VEC_VECTOR HOST.PAGE_VEC_SIG_EN HOST.PAGE_VEC_SIG_VECTOR
  rw [hlines, hsig]

/-- A bit that rises while INT_EN has it sends a message on the page's vector (R480). -/
theorem raise1_sends {v : Nat} (hclear : bit (s.gw pg fn 0x010) b = false) (hen : bit (s.gw pg fn 0x014) b = true) (hfn : fn < 8)
    (hvec : s.pageVec fn pg = some v) : s.raise1 pg b fn = (s.pw pg fn 0x010 (s.gw pg fn 0x010 ||| 2 ^ b)).msi fn v := by
  refine (if_neg (Bool.eq_false_iff.mp hclear)).trans ((if_pos (by simp [intEn_of_intStat, hen, hfn])).trans ?_)
  simp only [pageVec_of_intStat, hvec]

/-- One that INT_EN does not have only stands. -/
theorem raise1_silent (hclear : bit (s.gw pg fn 0x010) b = false) (hen : bit (s.gw pg fn 0x014) b = false) :
    s.raise1 pg b fn = s.pw pg fn 0x010 (s.gw pg fn 0x010 ||| 2 ^ b) :=
  (if_neg (Bool.eq_false_iff.mp hclear)).trans (if_neg (by simp [intEn_of_intStat, hen]))

end Interrupts

theorem msi_msiDue (s : State) (fn v : Nat) : (s.msi fn v).host.msiDue = s.host.msiDue ++ [(fn, v)] := rfl

/-! ## Writes of the page header -/

/-- A write of a header register of a page that the caller reaches (R556, R557). -/
theorem regWrite_header {g fn pg off v : Nat} {r : RegRow} {s : State} (hrow : accHdr.find? (fun r => r.off == off) = some r) (hoff : off < 0x040)
    (hfn : fn ≤ 8) (hserved : s.served pg = true) (hshut : s.shut fn pg = false) :
    regWrite g fn pg off .base v s = hdrWrite fn pg off true (v % 2 ^ 32) s := by
  have hplace : regPlace pg off = (off, 0) := if_pos hoff
  have hacc : accRow pg off = some r := (if_pos hoff).trans hrow
  have hthere : regGone pg off = false := by simp [regGone]; omega
  simp only [regWrite, hplace, hacc, hserved, hthere, hshut, hoff, decide_true, Nat.not_lt.mpr hfn, reduceCtorEq, false_and, or_self, if_true,
    if_false, Bool.false_eq_true]

theorem exec_intStatClear {fn pg w : Nat} {s : State} (hfn : fn ≤ 8) (hserved : s.served pg = true) (hshut : s.shut fn pg = false) :
    exec (.intStatClear fn pg w) s =
      .next (s.pw pg fn 0x010 (s.gw pg fn 0x010 - (s.gw pg fn 0x010 &&& w % 2 ^ 32))) :=
  congrArg Host.Outcome.next (regWrite_header (r := ⟨0x010, [⟨31, 0, .w1c⟩]⟩) (by decide) (by decide) hfn hserved hshut)

/-- Settles O55: a bit that stands raises nothing, and one that rises sends its message where INT_EN has it. -/
theorem interruptFlagsRiseAndClear : Obligations.InterruptFlagsRiseAndClear := by
  refine ⟨?set, ?others, ?standing, ?message, ?silent, ?clear⟩
  case set => exact fun s pg b fns fn hfn hb => bit_raise s pg b fns fn hfn hb
  case others => exact fun s pg b fns pg' obj' off' hne hoff => gw_raise_off s pg b fns pg' obj' off' hne hoff
  case standing => exact fun s pg b fn => raise1_standing
  case message =>
    intro s pg b fn v hfn hclear hen hvec
    simp [raise1_sends hclear hen hfn hvec, msi_msiDue]
  case silent =>
    intro s pg b fn hen
    cases hbit : bit (s.gw pg fn 0x010) b with
    | true => rw [raise1_standing hbit]
    | false => simp [raise1_silent hbit hen]
  case clear =>
    intro s fn pg w b hfn hserved hshut hb
    refine ⟨_, exec_intStatClear hfn hserved hshut, ?_⟩
    rw [gw_pw_same]
    simp only [bit, Nat.testBit_mod_two_pow, sub_and_bit, hb, decide_true, Bool.true_and]

/-! ## APPLY -/

/-- The word that GO writes has bit 31 set (R563). -/
theorem bit_go (w : Nat) : bit (fput w 31 31 1 % 2 ^ 32) 31 = true := by
  have hfld : fput w 31 31 1 / 2 ^ 31 % 2 = 1 := (fbits_eq _ 31 31).symm.trans (fbits_fput_same w 31 31 1 (by decide))
  rw [bit, Nat.testBit_mod_two_pow, Nat.testBit_eq_decide_div_mod_eq, hfld]
  rfl

/-- A base-view write of APPLY: HOLD and GO (R563). -/
theorem hdrWrite_apply (fn pg w : Nat) (s : State) :
    hdrWrite fn pg 0x01C true w s =
      let t := if true = true ∧ bit w 31 = true then
          applyGo fn pg ((s.pw pg fn 0x01C (w % 2)).onHeld
            (fun hs => hs.map (fun h => if h.fn == fn && h.pg == pg then { h with kept := true } else h)))
        else if bit w 0 = bit (s.gw pg fn 0x01C) 0 then s.pw pg fn 0x01C (w % 2)
        else (s.pw pg fn 0x01C (w % 2)).onHeld (fun hs => hs.map (fun h => if h.fn == fn && h.pg == pg then { h with kept := bit w 0 } else h))
      if true = true ∧ bit w 31 = true ∧ t.held.any (fun h => h.fn == fn && h.pg == pg && mirroredReg pg h.off) = true then
        mirrorNote (pg * 65536) t else t := rfl

/-- GO releases what the caller holds on the page, and notes it for the partner of a mirror pair (R388, R563). -/
theorem hdrWrite_go {fn pg w : Nat} {s t : State} (hgo : bit w 31 = true)
    (ht : applyGo fn pg ((s.pw pg fn 0x01C (w % 2)).onHeld
      (fun hs => hs.map (fun h => if h.fn == fn && h.pg == pg then { h with kept := true } else h))) = t) :
    hdrWrite fn pg 0x01C true w s =
      if t.held.any (fun h => h.fn == fn && h.pg == pg && mirroredReg pg h.off) then mirrorNote (pg * 65536) t else t := by
  rw [hdrWrite_apply]
  simp only [hgo, and_self, if_true, true_and, ht]

/-! ## Counters -/

theorem served_up {s : State} {pg : Nat} (hup : 3 ≤ s.mode) (hknown : pageKnown pg = true) : s.served pg = true := by
  simp [State.served, hknown, hup]

/-- A write of CLEAR or CLEAR_ALL on a page of counters is the page's (R560). -/
theorem regWrite_counters {fn pg p v : Nat} {s : State} (hfn : fn ≤ 8) (hpf0 : isPF0 fn = true) (hup : 3 ≤ s.mode) (hknown : pageKnown pg = true)
    (hplace : regPlace pg p = (p, 0)) (hrow : (accRow pg p).isSome = true) (hp : 0x040 ≤ p) (hown : OwnWord pg p p) (hv : v < 2 ^ 32) :
    regWrite 0 fn pg p .base v s = pageWrite 0 fn pg p 0 (s.regObj fn pg p 0) true v s := by
  obtain ⟨r, hr⟩ := Option.isSome_iff_exists.mp hrow
  refine (regWrite_own hplace hr hp hfn hpf0 (served_up hup hknown) hown (.inl rfl)).trans ?_
  simp only [decide_true, if_true, Nat.mod_eq_of_lt hv]

/-- CNT_CTL of a network port. -/
theorem cntCtl_netp {port : Nat} (hport : port < 4) :
    cntCtl (0x0A + port) 0 = 0x074 ∧ pageKnown (0x0A + port) = true ∧ pageClass (0x0A + port) = 0x0A ∧
      regPlace (0x0A + port) 0x074 = (0x074, 0) ∧ (accRow (0x0A + port) 0x074).isSome = true ∧ OwnWord (0x0A + port) 0x074 0x074 := by
  simp only [ownWord_iff]
  revert port
  decide

/-- CNT_CTL of the streams received, and of those sent. -/
theorem cntCtl_streams {pg : Nat} (hpg : pg = 0x0E ∨ pg = 0x0F) :
    cntCtl pg 0 = 0x18C ∧ pageKnown pg = true ∧ regPlace pg 0x18C = (0x18C, 0) ∧ (accRow pg 0x18C).isSome = true ∧ OwnWord pg 0x18C 0x18C := by
  simp only [ownWord_iff]
  rcases hpg with rfl | rfl <;> decide

theorem pageWrite_clear_netp {fn port obj : Nat} {s : State} (hclass : pageClass (0x0A + port) = 0x0A) :
    pageWrite 0 fn (0x0A + port) 0x074 0 obj true 1 s = clrAt (0x0A + port) 0 s := by
  simp [pageWrite, hclass, wNetp, bit]

theorem pageWrite_clear_streams {fn pg obj : Nat} {s : State} (hpg : pg = 0x0E ∨ pg = 0x0F) (hpf0 : isPF0 fn = true) :
    pageWrite 0 fn pg 0x18C 0 obj true 2 s = clrAt pg 1024 s := by
  rcases hpg with rfl | rfl <;> simp [pageWrite, pageClass, wStrx, wSttx, hpf0, bit, Nat.testBit]

/-- Settles O32: where the offset leads, and the rule of the page or of the header that takes the word. -/
theorem registersAreWritten : Obligations.RegistersAreWritten := by
  refine ⟨?plain, ?aliased, ?mode, ?evtc, ?enables, ?go, ?statClear, ?force, ?clear, ?clearAll⟩
  case plain =>
    intro fn g bar w pg p i r hpage hpg hplace hrow halign hview hp hpf0 hfn
    refine occurs_intro (fun _ => rfl) fun s hserved => (barWrite_whole halign).trans ?_
    rw [← hpage, hview, regWrite_own hplace hrow hp hfn hpf0 hserved (ownWord_plain hpg _ _) (.inl rfl)]
    exact (pageWrite_plain hpg hp).1
  case aliased =>
    intro fn g bar w pg p i r hpage hpg hplace hrow halign hview hrw hp hpf0 hfn
    refine occurs_intro (fun _ => rfl) fun s hserved => (barWrite_whole halign).trans ?_
    rw [← hpage, regWrite_own hplace hrow hp hfn hpf0 hserved (ownWord_plain hpg _ _) (.inr hrw), (pageWrite_plain hpg hp).1,
      (pageWrite_plain (g := g) (w := w) (base := true) hpg hp).2, decide_eq_false hview]
    rfl
  case mode =>
    intro fn g bar w p i r hpage hplace hrow halign hview hp hpf0 hfn hi
    refine occurs_intro (fun _ => rfl) fun s hserved => (barWrite_whole halign).trans ?_
    rw [hpage, hview, regWrite_own hplace hrow hp hfn hpf0 hserved (ownWord_mode _ _) (.inl rfl)]
    rfl
  case evtc =>
    intro fn g bar w p i r hpage hplace hrow halign hview hp hpf0 hfn hi
    refine occurs_intro (fun _ => rfl) fun s hserved => (barWrite_whole halign).trans ?_
    rw [hpage, hview, regWrite_own hplace hrow hp hfn hpf0 hserved (ownWord_evtc _ _) (.inl rfl)]
    rfl
  case enables =>
    intro fn g bar w be hpart
    exact occurs_intro (fun _ => rfl) fun s ⟨hserved, hfn, hshut⟩ => (if_pos hpart).trans (if_pos ⟨hserved, hfn, hshut⟩)
  case go =>
    intro fn pg w hfn
    refine occurs_intro (fun _ => rfl) fun s ⟨hserved, hshut⟩ => ?_
    exact (regWrite_header (r := ⟨0x01C, [⟨31, 31, .w1s⟩, ⟨0, 0, .rw⟩]⟩) (by decide) (by decide) hfn hserved hshut).trans
      (hdrWrite_go (bit_go w) rfl)
  case statClear => exact fun fn pg w hfn s ⟨hserved, hshut⟩ => exec_intStatClear hfn hserved hshut
  case force =>
    intro fn pg w hfn
    refine occurs_intro (fun _ => rfl) fun s ⟨hserved, hshut⟩ => ?_
    exact regWrite_header (r := ⟨0x018, [⟨31, 0, .w1s⟩]⟩) (by decide) (by decide) hfn hserved hshut
  case clear =>
    intro fn w port hpf0 hclear hport hfn
    obtain ⟨hctl, hknown, hclass, hplace, hrow, hown⟩ := cntCtl_netp hport
    refine occurs_intro (fun _ => rfl) fun s hup => (if_pos hclear).trans ?_
    rw [hctl, regWrite_counters hfn hpf0 hup hknown hplace hrow (by decide) hown (by decide)]
    exact pageWrite_clear_netp hclass
  case clearAll =>
    intro fn w pg hpf0 hclear hpg hfn
    obtain ⟨hctl, hknown, hplace, hrow, hown⟩ := cntCtl_streams hpg
    refine occurs_intro (fun _ => rfl) fun s hup => (if_pos hclear).trans ?_
    rw [hctl, regWrite_counters hfn hpf0 hup hknown hplace hrow (by decide) hown (by decide)]
    exact pageWrite_clear_streams hpg hpf0

/-! ## Edges of general-purpose pins -/

/-- Raising INT_STAT.GPIO leaves the pin's word. -/
theorem rb_raise_gpio (s : State) {f : Fld} (hreg : f.reg = LSIO.GPIO) (pin : Nat) :
    (s.raise 0x24 3 fnsAll).rb f pin = s.rb f pin := by
  have hword : (s.raise 0x24 3 fnsAll).rw f.reg pin = s.rw f.reg pin := by
    rw [hreg]
    exact gw_raise_off s 0x24 3 fnsAll _ pin _ (by decide) (by decide)
  unfold State.rb State.rd
  rw [hword]

/-- Settles O58: the edge is new and its kind enabled, so EVT and the interrupt follow. -/
theorem gpioEdgesAreFlagged : Obligations.GpioEdgesAreFlagged := by
  intro s pin rising hmode hpin hnew hbank hedge
  have hkept : (s.wb LSIO.GPIO_IN rising pin).rd LSIO.GPIO_EDGE pin = s.rd LSIO.GPIO_EDGE pin :=
    rd_wr_field s LSIO.GPIO_IN LSIO.GPIO_EDGE _ pin 0 rfl (by decide) (by decide) (by decide) (by decide)
  have hexec : exec (.gpioEdge pin rising) s =
      .next (((s.wb LSIO.GPIO_IN rising pin).wb LSIO.GPIO_EVT true pin).raise 0x24 3 fnsAll) := by
    refine congrArg Host.Outcome.next ((awake_up (decide_eq_true hmode)).trans ((if_pos hbank).trans ?_))
    rw [gpioEdge_new hpin hnew, hkept, if_pos (by cases rising <;> exact hedge)]
  refine ⟨_, hexec, ?input, ?event, fun fn hfn => bit_raise _ 0x24 3 fnsAll fn hfn (by decide)⟩
  case input =>
    have hkeeps : ((s.wb LSIO.GPIO_IN rising pin).wb LSIO.GPIO_EVT true pin).rd LSIO.GPIO_IN pin = (s.wb LSIO.GPIO_IN rising pin).rd LSIO.GPIO_IN pin :=
      rd_wr_field _ LSIO.GPIO_EVT LSIO.GPIO_IN _ pin 0 rfl (by decide) (by decide) (by decide) (by decide)
    rw [rb_raise_gpio _ rfl, State.rb, hkeeps]
    exact rb_wb_same s LSIO.GPIO_IN rising pin 0 (by decide) (by decide)
  case event =>
    rw [rb_raise_gpio _ rfl]
    exact rb_wb_same _ LSIO.GPIO_EVT true pin 0 (by decide) (by decide)

end Sys2Proof.Machine
end

section
/-!
PROOFS. The machine as a whole: what every step keeps, the front of the queue, and how every command is judged, accepted and limited
(R527, R533, R537, R539, R546, R549).
-/
namespace Sys2Proof.Machine

/-! ## Every step -/

theorem step_of_front {s : State} {c : Instr} {q : List Instr} (h : s.pending = c :: q) : step s = exec c { s with pending := q } := by
  simp only [step, h]

theorem step_of_empty {s : State} (h : s.pending = []) : step s = .next s := by
  simp only [step, h]

/-- Settles O49: the two cases of the queue. -/
theorem stepRunsTheFrontCommand : Obligations.StepRunsTheFrontCommand :=
  ⟨fun _ _ _ => step_of_front, fun _ => step_of_empty⟩

/-- Settles O50: the register file is empty at reset. -/
theorem resetMeetsTheInvariant : Obligations.ResetMeetsTheInvariant := rfl

/-- Settles O51: an idle step keeps everything, and a command keeps what `exec_next` says of every command. -/
theorem everyStepKeepsTheInvariant : Obligations.EveryStepKeepsTheInvariant := by
  intro s hinv
  cases hqueue : s.pending with
  | nil => exact ⟨s, step_of_empty hqueue, hinv, hqueue, Nat.le_refl _, rfl, rfl, Nat.le_refl _⟩
  | cons c q =>
    obtain ⟨t, hexec, hkeeps⟩ := exec_next c { s with pending := q }
    exact ⟨t, (step_of_front hqueue).trans hexec, hkeeps.regs hinv, hkeeps.pending, hkeeps.free, hkeeps.serial, hkeeps.prov, hkeeps.floor⟩

/-! ## Responses -/

section Responses
variable {o : Opc} {e : Env} {s t : State} {r n st : Nat} {ws : List Nat}

theorem not_fits (h : s.respLimit e < 4 * ws.length) : ¬(4 * ws.length ≤ s.respLimit e ∨ ws = []) := by
  rintro (hfits | rfl)
  · omega
  · exact absurd h (Nat.not_lt_zero _)

/-- A list that is too long is cut to whole entries (R527). -/
theorem finish_cut (h : s.respLimit e < 4 * ws.length) (hn : 0 < n) :
    finish o e s (.ok t r ws n st) = complete e stOK_TRUNC r (ws.take (s.respLimit e / (4 * n) * n)) true (noted o t) :=
  (if_neg (not_fits h)).trans (if_neg (Nat.ne_of_gt hn))

/-- Any other response that is too long is refused, and the effect is dropped (R527). -/
theorem finish_refused (h : s.respLimit e < 4 * ws.length) : finish o e s (.ok t r ws 0 st) = complete e stBAD_FIELD 0 [] true s :=
  (if_neg (not_fits h)).trans (if_pos rfl)

end Responses

/-- Settles O57: the branches of `finish` for a response that does not fit. -/
theorem responsesFitTheirPlace : Obligations.ResponsesFitTheirPlace := by
  refine ⟨?cut, ?refused, ?most, ?place⟩
  case cut => exact fun o e s t r ws n st h hn => finish_cut h hn
  case refused => exact fun o e s t r ws st h _ => finish_refused h
  case most =>
    intro s e n hn
    generalize s.respLimit e = limit
    have hlow : limit / (4 * n) * (4 * n) ≤ limit := Nat.div_mul_le_self limit (4 * n)
    have hhigh : limit < (limit / (4 * n) + 1) * (4 * n) := Nat.lt_mul_of_div_lt (Nat.lt_succ_self _) (by omega)
    rw [Nat.mul_left_comm] at hlow hhigh
    exact ⟨hlow, hhigh⟩
  case place =>
    intro s e hother
    unfold State.respLimit
    split
    · next port v6 a b htr => exact absurd htr (hother port v6 a b)
    · rfl

/-! ## The order of the checks -/

/-- The command is of the right form: its length, and its authentication where it needs one (R539, check 1). -/
def RightForm (o : Opc) (e : Env) : Prop := e.lenOk = true ∧ (o.authForm e = true → e.auth.isSome = true)

/-- The opcode exists on the command's transport (R539, check 2). -/
def OnTransport (o : Opc) (e : Env) : Prop := ¬(o.pcieOnly = true ∧ isPcie e = false) ∧ ¬(o.noTunnel = true ∧ isTunnel e = true)

/-- The command's counter, where it uses one, is above the last accepted (R539, check 4). -/
def CounterFresh (o : Opc) (e : Env) (s : State) : Prop := ∀ sl c, counterSlot s o e = some (sl, c) → s.cLast sl < c

section Judging
variable {o : Opc} {e : Env} {own : Nat → State → Option Nat} {s : State}

theorem rightForm_iff : RightForm o e ↔ ¬(!e.lenOk || (o.authForm e && e.auth.isNone)) = true := by
  cases hauth : e.auth <;> simp [RightForm, hauth]

theorem onTransport_iff : OnTransport o e ↔ ¬((o.pcieOnly && !isPcie e) || (o.noTunnel && isTunnel e)) = true := by
  simp [OnTransport]

theorem preCheck_form (hform : ¬RightForm o e) : preCheck o e s = some stBAD_FIELD :=
  if_pos (Decidable.not_not.mp (mt rightForm_iff.mpr hform))

variable (hform : RightForm o e)
include hform

theorem preCheck_opcode (hthere : ¬OnTransport o e) : preCheck o e s = some stBAD_OPCODE :=
  (if_neg (rightForm_iff.mp hform)).trans (if_pos (Decidable.not_not.mp (mt onTransport_iff.mpr hthere)))

variable (hthere : OnTransport o e)
include hthere

theorem preCheck_auth (hauth : authCheck o e s = false) : preCheck o e s = some stAUTH_FAIL :=
  (if_neg (rightForm_iff.mp hform)).trans ((if_neg (onTransport_iff.mp hthere)).trans (if_pos (by simp [hauth])))

variable (hauth : authCheck o e s = true)
include hauth

/-- What passes the checks 1 to 3 is judged by its counter. -/
theorem preCheck_counter : preCheck o e s =
    match counterSlot s o e with
    | some (sl, c) => if s.cLast sl < c then none else some stREPLAY
    | none => none :=
  (if_neg (rightForm_iff.mp hform)).trans ((if_neg (onTransport_iff.mp hthere)).trans (if_neg (by simp [hauth])))

theorem preCheck_replay (hold : ¬CounterFresh o e s) : preCheck o e s = some stREPLAY := by
  rw [preCheck_counter hform hthere hauth]
  cases hslot : counterSlot s o e with
  | none => exact absurd (fun sl c h => nomatch hslot.symm.trans h) hold
  | some p =>
    refine if_neg fun hlt => hold fun sl c h => ?_
    obtain rfl : p = (sl, c) := Option.some.inj (hslot.symm.trans h)
    exact hlt

theorem preCheck_none (hfresh : CounterFresh o e s) : preCheck o e s = none := by
  rw [preCheck_counter hform hthere hauth]
  cases hslot : counterSlot s o e with
  | none => rfl
  | some p => exact if_pos (hfresh p.1 p.2 hslot)

end Judging

section Acceptance
variable {o : Opc} {e : Env} {own : Nat → State → Option Nat} {s : State} {st : Nat}

theorem midCheck_pf0 (hpf0 : o.pf0 = true) (hcaller : callerOf e ≠ 0) : midCheck o e own s = some stNOT_OWNER :=
  if_pos (by simp [hpf0, hcaller])

/-- An opcode for PF0 that PF0 issues passes the test of its caller. -/
theorem caller_allowed (hpf0 : o.pf0 = true → callerOf e = 0) : ¬(o.pf0 && callerOf e != 0) = true := by
  simpa using hpf0

theorem midCheck_own (hpf0 : o.pf0 = true → callerOf e = 0) (hown : own (callerOf e) s = some st) : midCheck o e own s = some st := by
  refine (if_neg (caller_allowed hpf0)).trans ?_
  simp only [hown]

theorem midCheck_mode (hpf0 : o.pf0 = true → callerOf e = 0) (hown : own (callerOf e) s = none) (hmode : o.modes s.mode = false) :
    midCheck o e own s = some stMODE_DENY := by
  refine (if_neg (caller_allowed hpf0)).trans ?_
  simp only [hown]
  exact if_pos (by simp [hmode])

end Acceptance

/-- Settles O59: the first check that fails gives the status of `preCheck` or `midCheck`, and `runCmd` completes with it. -/
theorem commandsAreJudgedInOrder : Obligations.CommandsAreJudgedInOrder := by
  intro o e own body s form there fresh a
  refine ⟨?waits, ?form, ?opcode, ?auth, ?replay, ?caller, ?owner, ?mode⟩
  case waits => exact fun hwaits => runCmd_waits hwaits
  case form => exact fun htaken hform => runCmd_pre htaken (preCheck_form hform)
  case opcode => exact fun htaken hform hthere => runCmd_pre htaken (preCheck_opcode hform hthere)
  case auth => exact fun htaken hform hthere hauth => runCmd_pre htaken (preCheck_auth hform hthere hauth)
  case replay => exact fun htaken hform hthere hauth hold => runCmd_pre htaken (preCheck_replay hform hthere hauth hold)
  case caller =>
    exact fun htaken hform hthere hauth hfresh hpf0 hcaller =>
      runCmd_mid htaken (preCheck_none hform hthere hauth hfresh) (midCheck_pf0 hpf0 hcaller)
  case owner =>
    exact fun st htaken hform hthere hauth hfresh hpf0 hown =>
      runCmd_mid htaken (preCheck_none hform hthere hauth hfresh) (midCheck_own hpf0 hown)
  case mode =>
    exact fun htaken hform hthere hauth hfresh hpf0 hown hmode =>
      runCmd_mid htaken (preCheck_none hform hthere hauth hfresh) (midCheck_mode hpf0 hown hmode)

/-! ## Counters -/

section Counters
variable {o : Opc} {e : Env} {s : State} {sl sl' c : Nat}

/-- A command by SPI leaves its queue when it is accepted (R584). -/
def leaveQueue (e : Env) (s : State) : State :=
  if isSpi e then s.onCmd (fun c => { c with spiQ := c.spiQ - 1, spiRun := c.spiRun + 1 }) else s

/-- A counter is recorded, and journaled when it is 1024 above the saved value (R533). -/
def recordCounter (sl c : Nat) (s : State) : State :=
  let t := s.wr64 SECU.SLOT_CTR_HI SECU.SLOT_CTR_LO c sl
  if ng t.flash.savedS sl + 1024 ≤ c then flashWrote (t.onFlash (fun f => { f with savedS := ns f.savedS sl c })) else t

theorem leaveQueue_regs (e : Env) (s : State) : (leaveQueue e s).regs = s.regs := by unfold leaveQueue; split <;> rfl
theorem leaveQueue_flash (e : Env) (s : State) : (leaveQueue e s).flash = s.flash := by unfold leaveQueue; split <;> rfl

/-- The queue of SPI plays no part in which counter a command uses. -/
theorem counterSlot_leaveQueue : counterSlot (leaveQueue e s) o e = counterSlot s o e := by
  unfold counterSlot State.provOk
  rw [leaveQueue_flash]

/-- What acceptance does to a command that uses a counter. -/
theorem accept_of_counter (hslot : counterSlot s o e = some (sl, c)) :
    accept o e s = (recordCounter sl c (leaveQueue e s)).iff o.crit (·.cntr SECU.CRIT_ACCEPTED) := by
  have hslot' : counterSlot (leaveQueue e s) o e = some (sl, c) := counterSlot_leaveQueue.trans hslot
  unfold leaveQueue at hslot'
  unfold accept leaveQueue
  simp only [hslot']
  rfl

theorem cLast_of_regs {t : State} (h : t.regs = s.regs) : t.cLast sl = s.cLast sl := by
  unfold State.cLast State.rd64 State.rw State.gw
  rw [h]

/-- Counting in a register leaves the words at other offsets. -/
theorem gw_cntr_off (s : State) (r : Reg) (o i n pg' o' off' : Nat) (hoff : off' < 2 ^ 12) (hr : r.off < 2 ^ 12) (hne : off' ≠ r.off) :
    (s.cntr r o i n).gw pg' o' off' = s.gw pg' o' off' :=
  gw_ww_other s r _ o i pg' o' off' (rkey_ne_off hoff hr hne)

/-- A counter of two words depends on the two words only. -/
theorem twoWords_congr {hi hi' lo lo' : Nat} (hhi : hi = hi') (hlo : lo = lo') : hi * 2 ^ 32 + lo = hi' * 2 ^ 32 + lo' := by
  rw [hhi, hlo]

/-- A counter register of flash work or of acceptance is no counter of a slot. -/
theorem cLast_cntr {r : Reg} (n : Nat) (hr : r.off < 2 ^ 12) (hhi : 0x104 ≠ r.off) (hlo : 0x108 ≠ r.off) :
    (s.cntr r (n := n)).cLast sl = s.cLast sl := by
  have hword : ∀ off, off < 2 ^ 12 → off ≠ r.off → (s.cntr r (n := n)).gw (0x23 + 0) sl off = s.gw (0x23 + 0) sl off :=
    fun off hoff hne => gw_cntr_off s r 0 0 n _ sl off hoff hr hne
  unfold State.cLast State.rd64
  exact twoWords_congr (hword 0x104 (by decide) hhi) (hword 0x108 (by decide) hlo)

theorem cLast_fresh : s.fresh.2.cLast sl = s.cLast sl := cLast_of_regs rfl

theorem cLast_flashWrote : (flashWrote s).cLast sl = s.cLast sl := by
  unfold flashWrote
  rw [cLast_cntr _ (by decide) (by decide) (by decide), cLast_fresh, cLast_cntr _ (by decide) (by decide) (by decide), cLast_fresh]

theorem flash_flashWrote : (flashWrote s).flash = s.flash := by
  unfold flashWrote State.fresh
  simp only [State.cntr_flash]

theorem cLast_recordCounter : (recordCounter sl' c s).cLast sl = (s.wr64 SECU.SLOT_CTR_HI SECU.SLOT_CTR_LO c sl').cLast sl := by
  unfold recordCounter
  dsimp only
  split
  · exact cLast_flashWrote.trans (cLast_of_regs rfl)
  · rfl

theorem cLast_recordCounter_same (hc : c < 2 ^ 64) : (recordCounter sl c s).cLast sl = c :=
  cLast_recordCounter.trans (rd64_wr64_same s _ _ c sl 0 hc (by decide) (by decide) (by decide))

theorem cLast_recordCounter_other (hsl : sl < 16) (hsl' : sl' < 16) (hne : sl' ≠ sl) : (recordCounter sl c s).cLast sl' = s.cLast sl' := by
  have hword : ∀ (t : State) (r : Reg) v off, r.off < 2 ^ 12 → off < 2 ^ 12 → (t.ww r v sl).gw (0x23 + 0) sl' off = t.gw (0x23 + 0) sl' off :=
    fun t r v off hr hoff => gw_ww_other _ _ _ _ _ _ _ _ (rkey_ne_obj (by omega) hoff (by omega) hr hne)
  rw [cLast_recordCounter]
  unfold State.cLast State.rd64 State.wr64
  exact twoWords_congr
    ((hword _ _ _ 0x104 (by decide) (by decide)).trans (hword _ _ _ 0x104 (by decide) (by decide)))
    ((hword _ _ _ 0x108 (by decide) (by decide)).trans (hword _ _ _ 0x108 (by decide) (by decide)))

/-- A counter that is 1024 above the saved value is saved. -/
theorem savedS_recordCounter :
    (recordCounter sl c s).flash.savedS = if ng s.flash.savedS sl + 1024 ≤ c then ns s.flash.savedS sl c else s.flash.savedS := by
  unfold recordCounter
  dsimp only
  rw [State.wr64_flash]
  split
  · rw [flash_flashWrote, State.onFlash_flash, State.wr64_flash]
  · rw [State.wr64_flash]

/-- Counting an accepted critical command touches no slot. -/
theorem cLast_accept (hslot : counterSlot s o e = some (sl, c)) :
    (accept o e s).cLast sl' = (recordCounter sl c (leaveQueue e s)).cLast sl' := by
  rw [accept_of_counter hslot, State.iff]
  split
  · exact cLast_cntr 1 (by decide) (by decide) (by decide)
  · rfl

theorem savedS_accept (hslot : counterSlot s o e = some (sl, c)) :
    (accept o e s).flash.savedS = if ng s.flash.savedS sl + 1024 ≤ c then ns s.flash.savedS sl c else s.flash.savedS := by
  have hflash : (accept o e s).flash = (recordCounter sl c (leaveQueue e s)).flash := by
    rw [accept_of_counter hslot, State.iff]
    split
    · exact State.cntr_flash ..
    · rfl
  rw [hflash, savedS_recordCounter, leaveQueue_flash]

end Counters

/-- Settles O60: what `recordCounter` writes, which the rest of the acceptance leaves. -/
theorem countersAreRecorded : Obligations.CountersAreRecorded := by
  intro o e s sl c hslot hsl hc
  refine ⟨?recorded, ?saved, ?kept, fun sl' hsl' hne => ⟨?otherLast, ?otherSaved⟩⟩
  case recorded => rw [cLast_accept hslot, cLast_recordCounter_same hc]
  case saved =>
    intro hfar
    rw [savedS_accept hslot, if_pos hfar]
    exact tget_tset_same ..
  case kept =>
    intro hnear
    rw [savedS_accept hslot, if_neg (Nat.not_le.mpr hnear)]
  case otherLast =>
    rw [cLast_accept hslot, cLast_recordCounter_other hsl hsl' hne]
    exact cLast_of_regs (leaveQueue_regs e s)
  case otherSaved =>
    rw [savedS_accept hslot]
    split
    · exact tget_tset_other _ _ _ _ _ hne
    · rfl

end Sys2Proof.Machine
end

section
/-!
PROOFS. Faults, the guard, supplies and the management processor: what their status commands return, what their commands and registers do,
and how the guard, the patrol and the monitors follow their events (R406–R443, R486, R497–R501, R626, R627).
-/
namespace Sys2Proof.Machine

/-! ## What status commands return -/

/-- Settles O7: past its range check each command's part is one answer with the words named. -/
theorem deviceQueriesAnswer : Obligations.DeviceQueriesAnswer := by
  refine ⟨?identity, ?mode, ?supplies, ?config, ?faults, ?errata, ?errataLog, ?lastWords⟩
  case identity => exact completes_of_ret (fun _ _ => rfl) fun _ _ _ => rfl
  case mode => exact completes_of_ret (fun _ _ => rfl) fun _ _ _ => rfl
  case supplies => exact completes_of_ret (fun _ _ => rfl) fun _ _ _ => rfl
  case config => exact fun page => completes_of_retL (fun _ _ => rfl) fun _ _ _ => rfl
  case faults => exact completes_of_ret (fun _ _ => rfl) fun _ _ _ => rfl
  case errata =>
    intro pos n hpos hlo hhi
    exact completes_of_retL (fun _ _ => rfl) fun _ _ _ => if_neg (by omega)
  case errataLog =>
    intro seq n hlo hhi
    exact completes_of_retL (fun _ _ => rfl) fun _ _ _ => if_neg (by omega)
  case lastWords => exact completes_of_ret (fun _ _ => rfl) fun _ _ _ => rfl

/-! ## Faults and recovery by command -/

/-- Settles O20: each command's part passes its own tests. -/
theorem faultCommandsAct : Obligations.FaultCommandsAct := by
  refine ⟨?clear, ?release, ?force, ?residue, ?word, ?cpll⟩
  case clear => exact acts_of_done (fun _ _ => rfl) fun _ _ hflushed => if_neg fun hunflushed => hunflushed hflushed
  case release =>
    intro g hg
    refine acts_of_done (fun _ _ => rfl) fun _ s hpassed => ?_
    have hother : ∀ st, st ≠ sfPASSED → s.sigFlt g ≠ st := fun st hst h => hst (h.symm.trans hpassed)
    exact (if_neg (by omega)).trans
      ((if_neg (hother _ (by decide))).trans ((if_neg (hother _ (by decide))).trans (if_pos hpassed)))
  case force =>
    intro g hg
    refine acts_of_done (fun _ _ => rfl) fun _ s ⟨hfree, hidle⟩ => ?_
    exact (if_neg (by omega)).trans (if_neg (by simp [hfree, hidle]))
  case residue =>
    intro g l o hg hl ho
    exact acts_of_done (fun _ _ => rfl) fun _ _ _ => if_neg (by omega)
  case word => exact fun a addr => acts_of_done (fun _ _ => rfl) fun _ _ _ => rfl
  case cpll => exact acts_of_done (fun _ _ => rfl) fun _ _ _ => rfl

/-! ## Registers of faults and rings -/

section Registers
variable {fn r q w v : Nat} {s : State}

/-- PF0's RESTART restarts a management processor that is not held (R422, R424). -/
theorem exec_mgmtRestart_pf0 (hup : up s = true) (hfn : isPF0 fn = true) (hbit : bit w 31 = true) (hrun : s.rb FALT.MGMT_STAT_HALT = false) :
    exec (.mgmtRestart fn w) s = .next (mgmtRestart 4 s) := by
  have hmode : 3 ≤ s.mode := of_decide_eq_true hup
  refine congrArg Host.Outcome.next ((awake_up hup).trans ((if_neg ?_).trans (if_neg (Bool.eq_false_iff.mp hrun))))
  simp only [hfn, hbit, reduceCtorEq, false_or]
  omega

/-- The selected record is latched for PF0 (R431). -/
theorem regErrRec0Read_selected {x : ErrRec} (hfn : isPF0 fn = true) (hrec : s.ring[s.rd FALT.ERR_SEL_POS fn]? = some x) :
    regErrRec0Read fn s = s.each ((List.range 8).zip (recWords x)) (fun s y => s.pw 0x20 fn (0x084 + 4 * y.1) y.2) := by
  refine (if_neg (by simp [hfn])).trans ?_
  simp only [hrec]

/-- The doorbells of a running ring are heard (R486, R487). -/
theorem doorbell_heard (hr : r < 8) (hrings : s.rings fn = true) (hrun : s.rd CMDQ.CQ_STAT_STATE (rk fn r) = 1) :
    ¬(7 < r ∨ s.rings fn = false ∨ s.rd CMDQ.CQ_STAT_STATE (rk fn r) ≠ 1) := by
  simp only [hrings, hrun, reduceCtorEq, ne_eq, not_true_eq_false, or_false]
  omega

/-- CQ_CTL with EN clear stops its ring (R485, R520). -/
theorem cqCtl_stops {t : State} (ht : s.writeRW CMDQ.CQ_CTL w (rk fn r) = t) (hoff : t.rb CMDQ.CQ_CTL_EN (rk fn r) = false) :
    cqCtl fn r w s = (cqGone fn r t).ww CMDQ.CQ_STAT 0 (rk fn r) := by
  subst ht
  exact if_neg (Bool.eq_false_iff.mp hoff)

/-- EN written to a ring that is off restarts its indices (R486, R520). -/
theorem cqCtl_starts {t : State} (ht : s.writeRW CMDQ.CQ_CTL w (rk fn r) = t) (hwas : s.rb CMDQ.CQ_CTL_EN (rk fn r) = false)
    (hon : t.rb CMDQ.CQ_CTL_EN (rk fn r) = true) :
    cqCtl fn r w s = (((((cqGone fn r t).ww CMDQ.CQ_STAT 0 (rk fn r)).wr CMDQ.CQ_STAT_STATE 1 (rk fn r)).wr CMDQ.SQ_HEAD_IDX 0 (rk fn r)).wr
      CMDQ.CQ_TAIL_IDX 0 (rk fn r)).onHost (fun h => { h with
        sqTail := ns h.sqTail (rk fn r) 0, cqHead := ns h.cqHead (rk fn r) 0, coal := ns h.coal (rk fn r) 0,
        phase0 := bs h.phase0 (rk fn r) false, bmOff := bs h.bmOff fn false }) := by
  subst ht
  exact (if_pos hon).trans (if_neg (Bool.eq_false_iff.mp hwas))

/-- EN written to a DMA ring that is off starts it (R498, R505). -/
theorem ringCtl_starts {t : State} (ht : s.writeRW HOST.RING_CTL w (rk fn q) = t) (hon : t.rb HOST.RING_CTL_EN (rk fn q) = true)
    (hoff : t.ringState (rk fn q) = rsOFF) (hidle : bg t.host.startPend (rk fn q) = false) :
    ringCtl fn q w s = blockFix fn q (ringOn fn q t) := by
  subst ht
  exact congrArg (blockFix fn q) ((if_pos hon).trans (if_pos ⟨hoff, hidle⟩))

end Registers

/-- Settles O31: the equation of each register's operation in the case that the clause names. -/
theorem ringAndFaultRegistersAct : Obligations.RingAndFaultRegistersAct := by
  refine ⟨?ack, ?kick, ?restart, ?record, ?sqTail, ?sqBeyond, ?cqHead, ?dmaTail, ?cqStops, ?cqStarts, ?ringStarts, ?mask, ?maskDenied⟩
  case ack =>
    intro fn w hfn hbit
    refine happens_intro (fun _ => rfl) fun s _ => (if_neg (by simp [hfn])).trans ?_
    exact congrArg faultPin (if_pos hbit)
  case kick =>
    intro fn w hfn hbit
    exact happens_intro (fun _ => rfl) fun s _ => (if_neg (by simp [hfn])).trans (if_pos hbit)
  case restart => exact fun fn w hfn hbit s hup hrun => exec_mgmtRestart_pf0 hup hfn hbit hrun
  case record => exact fun fn r hfn => happens_intro (fun _ => rfl) fun s hrec => regErrRec0Read_selected hfn hrec
  case sqTail =>
    intro fn r v hr
    refine happens_intro (fun _ => rfl) fun s ⟨hrings, hrun, hindex⟩ => ?_
    exact (if_neg (doorbell_heard hr hrings hrun)).trans (if_neg (Nat.not_le.mpr hindex))
  case sqBeyond =>
    intro fn r v hr
    refine happens_intro (fun _ => rfl) fun s ⟨hrings, hrun, hindex⟩ => ?_
    exact (if_neg (doorbell_heard hr hrings hrun)).trans (if_pos hindex)
  case cqHead =>
    intro fn r v hr
    refine happens_intro (fun _ => rfl) fun s ⟨hrings, hrun, hindex⟩ => ?_
    exact (if_neg (doorbell_heard hr hrings hrun)).trans (if_neg (Nat.not_le.mpr hindex))
  case dmaTail =>
    intro fn q v hfn hq
    refine happens_intro (fun _ => rfl) fun s ⟨hen, hindex⟩ => if_neg ?_
    simp only [hen, reduceCtorEq, false_or]
    omega
  case cqStops =>
    intro fn r w hfn hr
    exact happens_intro (fun _ => rfl) fun s hoff => (if_neg (by omega)).trans (cqCtl_stops rfl hoff)
  case cqStarts =>
    intro fn r w hfn hr
    exact happens_intro (fun _ => rfl) fun s ⟨hwas, hon⟩ => (if_neg (by omega)).trans (cqCtl_starts rfl hwas hon)
  case ringStarts =>
    intro fn q w hfn hq
    exact happens_intro (fun _ => rfl) fun s ⟨_, _, hon, hoff, hidle⟩ => (if_neg (by omega)).trans (ringCtl_starts rfl hon hoff hidle)
  case mask =>
    intro fn q g hi v hfn hq hg
    exact happens_intro (fun _ => rfl) fun s hnone => (if_neg (by omega)).trans (if_neg (by simp [hnone]))
  case maskDenied =>
    intro fn q g hi v hfn hq hg
    exact happens_intro (fun _ => rfl) fun s hsome => (if_neg (by omega)).trans (if_pos (Option.isSome_iff_ne_none.mpr hsome))

/-! ## The guard and the patrol -/

/-- The guard loads the banks of a tested signature, which is to hand its sums on again (R417). -/
def State.returning (s : State) : Bool := s.guard == gdREPLACING && s.sigFlt s.guardOf == sfRETURNING

section Guard
variable {s : State}

theorem returning_iff : s.returning = true ↔ s.guard = gdREPLACING ∧ s.sigFlt s.guardOf = sfRETURNING := by
  simp [State.returning]

theorem not_returning_of_loading (h : s.guard = gdLOADING) : s.returning = false := by
  simp [State.returning, h, gdLOADING, gdREPLACING]

/-- A load is judged five sample periods after its start, while no hand-over is decided (R415). -/
theorem load_judged (hload : s.guard = gdLOADING ∨ s.returning = true) (htip : s.flt.tip = none) (hdue : s.flt.loadAt + 5 ≤ s.clock) :
    ¬((s.guard ≠ gdLOADING ∧ s.returning = false) ∨ s.flt.tip.isSome = true ∨ s.clock < s.flt.loadAt + 5) := by
  rintro (⟨hguard, hback⟩ | hsome | hearly)
  · exact hload.elim hguard fun h => Bool.false_ne_true (hback.symm.trans h)
  · simp [htip] at hsome
  · omega

theorem load_not_judged (h : s.clock < s.flt.loadAt + 5 ∨ s.flt.tip ≠ none ∨
    (s.guard ≠ gdLOADING ∧ (s.guard ≠ gdREPLACING ∨ s.sigFlt s.guardOf ≠ sfRETURNING))) :
    (s.guard ≠ gdLOADING ∧ s.returning = false) ∨ s.flt.tip.isSome = true ∨ s.clock < s.flt.loadAt + 5 := by
  rcases h with hearly | hsome | ⟨hguard, hother⟩
  · exact .inr (.inr hearly)
  · exact .inr (.inl (Option.isSome_iff_ne_none.mpr hsome))
  · refine .inl ⟨hguard, Bool.eq_false_iff.mpr fun h => ?_⟩
    obtain ⟨hreplacing, hreturning⟩ := returning_iff.mp h
    exact hother.elim (fun hne => hne hreplacing) fun hne => hne hreturning

/-- A dwell that is over counts itself, and a round after the last signature (R412). -/
theorem dwellPass_over {g : Nat} (hg : s.guardOf = g) (hguard : s.guard = gdPATROL) (htip : s.flt.tip = none)
    (hdue : s.flt.dwellAt + 2048 ≤ s.clock) :
    dwellPass s = if g = 63 then (dwellEnd (s.cntr SIG.PATROL_PASSES (i := g))).cnt FALT.PATROL_STAT_ROUNDS
      else dwellEnd (s.cntr SIG.PATROL_PASSES (i := g)) := by
  subst hg
  exact if_pos ⟨hguard, htip, hdue⟩

/-- A built-in test is judged for a replaced signature alone (R417). -/
theorem bist_judged {g : Nat} (hg : g ≤ 63) (h : s.sigFlt g = sfREPLACED) : ¬(63 < g ∨ s.sigFlt g ≠ sfREPLACED) := by
  simp only [h, ne_eq, not_true_eq_false, or_false]
  omega

end Guard

/-- Settles O41: a load, a dwell and a test are each judged, or not yet, by the lemma of its condition. -/
theorem guardFollowsItsEvents : Obligations.GuardFollowsItsEvents := by
  refine ⟨?tipsIn, ?returns, ?again, ?notYet, ?dwell, ?round, ?dwells, ?passes, ?fails, ?noTest⟩
  case tipsIn =>
    intro g
    refine happens_intro (fun _ => rfl) fun s ⟨hg, hguard, htip, hdue⟩ => ?_
    subst hg
    refine (if_neg (load_judged (.inl hguard) htip hdue)).trans ((if_neg (by simp)).trans (if_neg ?_))
    exact Bool.eq_false_iff.mp (not_returning_of_loading hguard)
  case returns =>
    intro g
    refine happens_intro (fun _ => rfl) fun s ⟨hg, hguard, hback, htip, hdue⟩ => ?_
    subst hg
    have hreturning : s.returning = true := returning_iff.mpr ⟨hguard, hback⟩
    exact (if_neg (load_judged (.inr hreturning) htip hdue)).trans ((if_neg (by simp)).trans (if_pos hreturning))
  case again =>
    refine happens_intro (fun _ => rfl) fun s ⟨hload, htip, hdue⟩ => ?_
    exact (if_neg (load_judged (hload.imp_right returning_iff.mpr) htip hdue)).trans (if_pos rfl)
  case notYet => exact fun ok => happens_intro (fun _ => rfl) fun s h => if_pos (load_not_judged h)
  case dwell =>
    refine happens_intro (fun _ => rfl) fun s ⟨hguard, htip, hdue, hg⟩ => ?_
    exact (dwellPass_over rfl hguard htip hdue).trans (if_neg hg)
  case round =>
    refine happens_intro (fun _ => rfl) fun s ⟨hguard, htip, hdue, hg⟩ => ?_
    exact (dwellPass_over hg hguard htip hdue).trans (if_pos rfl)
  case dwells =>
    refine happens_intro (fun _ => rfl) fun s h => if_neg fun ⟨hguard, htip, hdue⟩ => ?_
    rcases h with hother | hsome | hearly
    · exact hother hguard
    · exact hsome htip
    · exact Nat.not_le.mpr hearly hdue
  case passes =>
    intro g hg
    exact happens_intro (fun _ => rfl) fun s hrepl => if_neg (bist_judged hg hrepl)
  case fails =>
    intro g hg
    exact happens_intro (fun _ => rfl) fun s hrepl => if_neg (bist_judged hg hrepl)
  case noTest => exact fun g ok => happens_intro (fun _ => rfl) fun s hother => if_pos (.inr hother)

/-! ## Memory -/

section Memory
variable {g b node addr t : Nat} {ok : Bool} {s u : State} (hb : b ≤ 1) (hown : s.banksOf g = some t)
  (hu : (memUncorr 0 s).cntr SIG.RECOMPUTES (i := g) = u)
include hb hown hu

/-- An error in a coefficient word of a signature whose banks are tile `t`'s (R407, R408). -/
theorem sramFault_coeff_own {x : Nat} (hg : g ≤ 64) (hx : 64 * t + node / 4096 = x) :
    sramFault (.coeff g b node) addr ok s =
      if !u.mapBit t (node / 4) then
        ((u.cntr SIG.ECC_SUB (i := g)).raise (0x40 + g) 9 (u.sigFns g)).err 0x0101 (0x40 + g) 0 addr x none
          (s.beyond kdWORD || s.sigBeyond g)
      else if ok then ((u.cntr SIG.ECC_REBUILD (i := g)).raise (0x40 + g) 9 (u.sigFns g)).err 0x0102 (0x40 + g) 0 addr x none
        (s.beyond kdWORD || s.sigBeyond g)
      else if (if g < 64 then (memLost (0x40 + g) 0 addr x u).inService g else (memLost (0x40 + g) 0 addr x u).guard == gdREPLACING) then
        (memLost (0x40 + g) 0 addr x u).onFlt (fun f => { f with zero := f.zero ++ [(t, b, 4 * (node / 4))] })
      else memLost (0x40 + g) 0 addr x u := by
  subst hu hx
  have hin : ¬(64 < g ∨ 1 < b) := by omega
  simp only [sramFault, hin, if_false, hown, Option.any_some]
end Memory

theorem mapBit_recomputes (s : State) (g t w : Nat) : ((memUncorr 0 s).cntr SIG.RECOMPUTES (i := g)).mapBit t w = s.mapBit t w := by
  simp [State.mapBit, State.bank, State.staleOf, memUncorr]

theorem happens_sramFault {m : MemAt} {addr : Nat} {ok : Bool} {P : State → Prop} {f : State → State}
    (h : ∀ s, P s → sramFault m addr ok s = f s) : happens (.sramUncorrectable m addr ok) P f :=
  happens_intro (fun _ => rfl) h

/-- An audio frame leaves its queue, and its stream counts the loss (R406, R408). -/
theorem sramFault_txq_audio {port k pos addr i leg due : Nat} {ok : Bool} {f : TxFrame} {s : State}
    (hframe : ((memUncorr 5 s).txList (16 * port + k))[pos]? = some f) (hkind : f.kind = .audio i leg due) :
    sramFault (.txq port k pos) addr ok s =
      txCnt 0x110 leg (some 2) i (txSet (16 * port + k) (((memUncorr 5 s).txList (16 * port + k)).eraseIdx pos) (memUncorr 5 s)) := by
  simp only [sramFault, hframe, hkind]

theorem sramFault_fifo_lost {pos addr : Nat} {e : Edit} {s u : State} (hu : memLost 0x20 3 addr noXout (memUncorr 3 s) = u)
    (hedit : u.scn.fifo[pos]? = some e) :
    sramFault (.fifo pos) addr false s = editSync (editDrops e.fn 1 (u.onScn (fun c => { c with fifo := c.fifo.eraseIdx pos }))) := by
  subst hu
  simp only [sramFault, hedit, Bool.false_eq_true, if_false]

/-! ## Power loss -/

/-- A page program of the last words ends (R433, R436). -/
theorem exec_lastwordsDone_programmed {r : List Byte} {s t : State} (hrec : s.flt.lw = some r) (hfree : s.flash.lwFree ≠ 0)
    (ht : s.onFlash (fun f => { f with lw := f.lw ++ [(r, !s.rb FALT.PFAIL_STAT_ASSERTED)], lwFree := f.lwFree - 1 }) = t) :
    exec .lastwordsDone s =
      .next (((t.wb FALT.PFAIL_STAT_LW_DONE true).wr FALT.PFAIL_STAT_LW_FREE t.flash.lwFree).onFlt (fun f => { f with lw := none })) := by
  subst ht
  refine congrArg Host.Outcome.next ?_
  simp only [hrec]
  exact if_neg hfree

/-- Without a record, or a page for it, there is no program (R433, R434). -/
theorem exec_lastwordsDone_none {s : State} (h : s.flt.lw = none ∨ s.flash.lwFree = 0) : exec .lastwordsDone s = .next s := by
  refine congrArg Host.Outcome.next ?_
  rcases h with hnone | hfull
  · simp only [hnone]
  · simp only [hfull, if_true]
    split <;> rfl

/-! ## The management processor -/

section Restart
variable {cause : Nat} {s : State}

/-- A processor that is held stays so (R424). -/
theorem mgmtRestart_held (h : s.rb FALT.MGMT_STAT_HALT = true) : mgmtRestart cause s = s := if_pos h

/-- The fourth restart within 60 s holds it (R424). -/
theorem mgmtRestart_fourth (hrun : s.rb FALT.MGMT_STAT_HALT = false) (hthree : s.flt.restarts.length = 3)
    (hsoon : s.clock < s.flt.restarts.headD 0 + 5760000) :
    mgmtRestart cause s = (s.wb FALT.MGMT_STAT_HALT true).err 0x0602 0x20 0 (s.rd FALT.MGMT_STAT_RESTARTS) 0 :=
  (if_neg (Bool.eq_false_iff.mp hrun)).trans (if_pos (Bool.and_eq_true_iff.mpr ⟨beq_iff_eq.mpr hthree, decide_eq_true hsoon⟩))

theorem onFlt_congr {f g : FltS → FltS} (h : f s.flt = g s.flt) : s.onFlt f = s.onFlt g := by
  unfold State.onFlt
  rw [h]

/-- One of the first three restarts is noted with its time (R422, R423). -/
theorem mgmtRestart_early (hrun : s.rb FALT.MGMT_STAT_HALT = false) (hfew : s.flt.restarts.length < 3) :
    mgmtRestart cause s =
      (icStopAll ((mgmtForget ((((s.wb FALT.MGMT_STAT_RECOVERING true).wr FALT.MGMT_STAT_LAST_CAUSE cause).cnt FALT.MGMT_STAT_RESTARTS).onFlt
        (fun f => { f with restarts := f.restarts ++ [s.clock] }))).raise 0x20 3 fnsAll)).err 0x0601 0x20 0 cause 0 := by
  have hnot : s.flt.restarts.length ≠ 3 := Nat.ne_of_lt hfew
  refine (if_neg (Bool.eq_false_iff.mp hrun)).trans ((if_neg (by simp [hnot])).trans ?_)
  refine congrArg (fun t => (icStopAll ((mgmtForget t).raise 0x20 3 fnsAll)).err 0x0601 0x20 0 cause 0) (onFlt_congr ?_)
  simp only [State.cnt_flt, State.wr_flt, State.wb_flt, hnot, if_false]

end Restart

/-- The flush of the log appends what no append has taken yet (R430). -/
theorem exec_errataFlush_records {r : ErrRec} {l : List ErrRec} {last : Nat} {s : State} (hup : up s = true) (hcmd : s.cmdUp = true)
    (hdue : s.flt.flushAt + 96000 ≤ s.clock) (hl : s.unflushed = r :: l) (hlast : (r :: l).foldl (fun a r => max a r.seq) 0 = last) :
    exec .errataFlush s = .next ((logAppend (r :: l) ((s.onFlt (fun f => { f with flushAt := s.clock })).ww FALT.ERR_FLUSH_SEQ last)).onFlt
      (fun f => { f with flushNext := last + 1 })) := by
  subst hlast
  have hlist : (s.onFlt (fun f => { f with flushAt := s.clock })).unflushed = r :: l := hl
  refine congrArg Host.Outcome.next ((awake_up hup).trans ((if_neg (by simp [hcmd, Nat.not_lt.mpr hdue])).trans ?_))
  simp only [hlist]

theorem exec_errataFlush_empty {s : State} (hup : up s = true) (hcmd : s.cmdUp = true)
    (hdue : s.flt.flushAt + 96000 ≤ s.clock) (hl : s.unflushed = []) :
    exec .errataFlush s = .next (s.onFlt (fun f => { f with flushAt := s.clock })) := by
  have hlist : (s.onFlt (fun f => { f with flushAt := s.clock })).unflushed = [] := hl
  refine congrArg Host.Outcome.next ((awake_up hup).trans ((if_neg (by simp [hcmd, Nat.not_lt.mpr hdue])).trans ?_))
  simp only [hlist]

/-! ## Supplies -/

/-- An excursion of a monitored supply clears its OK bit, and shows itself once (R600, R625–R627). -/
theorem exec_railExc_monitored {rail : Nat} {s : State} (hrail : rail ≤ 5) (hmode : 3 ≤ s.mode) :
    exec (.railExc rail) s = .next
      (let t := s.wr PWR.RAIL_STAT_OK (if bit (s.rd PWR.RAIL_STAT_OK) rail then s.rd PWR.RAIL_STAT_OK - 2 ^ rail else s.rd PWR.RAIL_STAT_OK)
        if bit (s.rd PWR.RAIL_STAT_EXC) rail then t
        else (t.wr PWR.RAIL_STAT_EXC (s.rd PWR.RAIL_STAT_EXC + 2 ^ rail)).raise 0x01 0 fnsAll) :=
  congrArg Host.Outcome.next (if_neg (by omega))

/-- Settles O40: the equation of each event's operation in the case that the clause names. -/
theorem monitorsFollowTheirEvents : Obligations.MonitorsFollowTheirEvents := by
  refine ⟨?newExcursion, ?sameExcursion, ?newLevel, ?sameLevel, ?powerFails, ?noPowerFail, ?lastWords, ?noLastWords, ?glitch, ?noGlitch,
    ?watchdog, ?noWatchdog, ?exception, ?held, ?fourth, ?restarts, ?restarted, ?notRestarting, ?flush, ?flushNone, ?noFlush, ?scrub,
    ?coeffSame, ?coeffRebuilt, ?coeffLost, ?playout, ?playoutLost, ?delay, ?delayLost, ?fifo, ?fifoLost, ?twice, ?twiceLost, ?ingress,
    ?queue, ?mgmt, ?mgmtLost, ?any⟩
  case newExcursion =>
    intro rail hrail s ⟨hmode, hnew⟩
    exact (exec_railExc_monitored hrail hmode).trans (congrArg _ (if_neg (Bool.eq_false_iff.mp hnew)))
  case sameExcursion =>
    intro rail hrail s ⟨hmode, hsame⟩
    exact (exec_railExc_monitored hrail hmode).trans (congrArg _ (if_pos hsame))
  case newLevel => exact fun b level hb hlevel => occurs_intro (fun _ => rfl) fun _ hnew => (if_neg (by omega)).trans (if_neg hnew)
  case sameLevel =>
    intro b level
    refine occurs_intro (fun _ => rfl) fun s hsame => ?_
    dsimp only
    rw [if_pos hsame, ite_self, id_eq]
  case powerFails => exact occurs_intro (fun _ => rfl) fun _ ⟨hfirst, hbank⟩ => if_neg (by simp [hfirst, hbank])
  case noPowerFail => exact occurs_intro (fun _ => rfl) fun _ h => if_pos h
  case lastWords => exact fun r s ⟨hrec, hfree⟩ => exec_lastwordsDone_programmed hrec hfree rfl
  case noLastWords => exact fun s h => exec_lastwordsDone_none h
  case glitch =>
    intro us t u
    refine occurs_intro (fun _ => rfl) fun s ⟨hfailing, ht, hu⟩ => ?_
    subst hu ht
    exact if_neg (by simp [hfailing])
  case noGlitch => exact fun us => occurs_intro (fun _ => rfl) fun _ hup => if_pos hup
  case watchdog => exact happens_intro (fun _ => rfl) fun _ hdue => if_pos hdue
  case noWatchdog =>
    refine happens_intro (fun _ => rfl) fun s h => if_neg fun ⟨hfw, hdue⟩ => ?_
    rcases h with hdown | hearly
    · exact Bool.false_ne_true (hdown.symm.trans hfw)
    · exact Nat.not_le.mpr hearly hdue
  case exception =>
    intro sram s hup _
    exact congrArg Host.Outcome.next ((awake_up hup).trans (if_neg (Nat.not_lt.mpr (of_decide_eq_true hup))))
  case held => exact fun cause s => mgmtRestart_held
  case fourth =>
    intro cause s t0 hrun hthree hfirst hsoon
    subst hfirst
    exact mgmtRestart_fourth hrun hthree hsoon
  case restarts => exact fun cause s => mgmtRestart_early
  case restarted => exact happens_intro (fun _ => rfl) fun _ h => if_pos h
  case notRestarting => exact happens_intro (fun _ => rfl) fun _ h => if_neg (Bool.eq_false_iff.mp h)
  case flush => exact fun r l s hup ⟨hcmd, hdue, hl⟩ => exec_errataFlush_records hup hcmd hdue hl rfl
  case flushNone => exact fun s hup ⟨hcmd, hdue, hl⟩ => exec_errataFlush_empty hup hcmd hdue hl
  case noFlush => exact happens_intro (fun _ => rfl) fun _ h => if_pos h
  case scrub => exact fun x => happens_intro (fun _ => rfl) fun _ _ => rfl
  case coeffSame =>
    intro g b node addr ok t hg hb
    refine happens_sramFault fun s ⟨hown, hmap⟩ => ?_
    exact (sramFault_coeff_own hb hown rfl hg rfl).trans (if_pos (by rw [mapBit_recomputes, hmap]; rfl))
  case coeffRebuilt =>
    intro g b node addr t hg hb
    refine happens_sramFault fun s ⟨hown, hmap⟩ => ?_
    exact (sramFault_coeff_own hb hown rfl hg rfl).trans ((if_neg (by rw [mapBit_recomputes, hmap]; decide)).trans (if_pos rfl))
  case coeffLost =>
    intro g b node addr t hg hb
    refine happens_sramFault fun s ⟨hown, hmap, hserves⟩ => ?_
    refine (sramFault_coeff_own hb hown rfl (by omega) rfl).trans ((if_neg (by rw [mapBit_recomputes, hmap]; decide)).trans ?_)
    exact (if_neg Bool.false_ne_true).trans (if_pos (by rwa [if_pos hg]))
  case playout => exact fun i c addr => happens_sramFault fun _ _ => by simp only [sramFault, if_true]
  case playoutLost => exact fun i c addr => happens_sramFault fun _ _ => by simp only [sramFault, Bool.false_eq_true, if_false]
  case delay => exact fun o n addr => happens_sramFault fun _ _ => by simp only [sramFault, if_true]
  case delayLost => exact fun o n addr => happens_sramFault fun _ _ => by simp only [sramFault, Bool.false_eq_true, if_false]
  case fifo => exact fun pos addr => happens_sramFault fun _ _ => by simp only [sramFault, if_true]
  case fifoLost => exact fun pos addr e => happens_sramFault fun _ hedit => sramFault_fifo_lost rfl hedit
  case twice => exact fun addr => happens_sramFault fun _ _ => by simp only [sramFault, if_true]
  case twiceLost => exact fun addr => happens_sramFault fun _ _ => by simp only [sramFault, Bool.false_eq_true, if_false]
  case ingress => exact fun port pos addr ok hport => happens_sramFault fun _ _ => if_neg (by omega)
  case queue =>
    exact fun port k pos addr ok f i leg due => happens_sramFault fun _ ⟨hframe, hkind⟩ => sramFault_txq_audio hframe hkind
  case mgmt => exact fun addr => happens_sramFault fun _ _ => rfl
  case mgmtLost => exact fun addr => happens_sramFault fun _ _ => rfl
  case any => exact fun m addr ok => happens_sramFault fun _ _ => rfl

end Sys2Proof.Machine
end

section
/-!
PROOFS. Modes, reset and boot: how they follow their events (R446–R468, R546).
-/
namespace Sys2Proof.Machine

/-! ## The boot ROM's choice -/

/-- Every attempt at a trial image is counted, and the fourth ends the trial (R458, R546). -/
theorem bootSelect_tries {s t : State} {p : Nat} {late : Bool} (hlate : late = (s.flash.trial && decide (3 < s.flash.tries + 1)))
    (hp : p = if late then 1 - s.flash.bootSlot % 2 else s.flash.bootSlot % 2)
    (ht : t = if s.flash.trial then s.onFlash (fun f => { f with tries := f.tries + 1, trial := !late }) else s) :
    bootSelect s = if slotCheck p t = 0 then bootPick p late t
      else if slotCheck (1 - p) t = 0 then bootPick (1 - p) true t
      else (t.wb MODE.BOOT_STAT_ROM_ERR true).wb FALT.FALT_STAT_FAULT_N true := by
  subst hlate hp ht
  cases htrial : s.flash.trial with
  | false => simp [bootSelect, htrial]
  | true =>
    by_cases hfourth : 3 < s.flash.tries + 1 <;> simp [bootSelect, State.onFlash, htrial, hfourth]

/-! ## The firmware begins -/

/-- A boot whose image was picked, while power does not fail (R459). -/
theorem firmware_begins {s : State} {sl : Nat} (hboot : s.mode = mBOOT) (hpick : s.md.picked = some sl)
    (hpower : s.rb FALT.PFAIL_STAT_ASSERTED = false) : ¬(s.mode ≠ mBOOT ∨ s.md.picked = none ∨ s.rb FALT.PFAIL_STAT_ASSERTED = true) := by
  simp [hboot, hpick, hpower]

/-! ## Waking -/

/-- The pattern that a frame meets is enabled, one of the four, and matches, and the frame is no fragment (R133, R468). -/
theorem wakePat_matches {s : State} {l : List Byte} {pat : Nat} (h : s.wakePat l = some pat) :
    64 ≤ l.length ∧ pat < 4 ∧ bit s.md.wakeEn pat = true ∧ wakeHit (tget (fun _ => []) s.net.wake pat) l = true := by
  simp only [State.wakePat] at h
  split at h
  · cases h
  · next hframe =>
    have hmatch := List.find?_some h
    exact ⟨Nat.not_lt.mp fun hshort => hframe (.inl hshort), List.mem_range.mp (List.mem_of_find?_eq_some h), Bool.and_eq_true_iff.mp hmatch⟩

/-- Settles O39: each event's operation in the case that the clause names. -/
theorem modesFollowTheirEvents : Obligations.ModesFollowTheirEvents := by
  refine ⟨?acqEnds, ?acqGoesOn, ?prerollEnds, ?prerollGoesOn, ?hot, ?notHot, ?autoStart, ?noAutoStart, ?resetPin, ?resetPower, ?resetKeeps,
    ?released, ?notReleased, ?selects, ?selected, ?tries, ?firmware, ?noFirmware, ?wakes, ?sleeps, ?pattern⟩
  case acqEnds => exact occurs_intro (fun _ => rfl) fun _ h => if_pos h
  case acqGoesOn =>
    refine occurs_intro (fun _ => rfl) fun s h => if_neg fun ⟨hmode, hfree, htime, _⟩ => ?_
    rcases h with hother | hmust | hearly
    · exact hother hmode
    · exact Bool.false_ne_true (hmust.symm.trans hfree)
    · exact Nat.not_le.mpr hearly htime
  case prerollEnds => exact occurs_intro (fun _ => rfl) fun _ h => if_pos h
  case prerollGoesOn => exact occurs_intro (fun _ => rfl) fun _ h => if_neg (Bool.eq_false_iff.mp h)
  case hot => exact occurs_intro (fun _ => rfl) fun _ h => if_pos h
  case notHot =>
    refine occurs_intro (fun _ => rfl) fun s h => if_neg fun ⟨hcount, hfrom, _⟩ => ?_
    rcases h with hcold | hmode
    · exact Nat.not_le.mpr hcold hcount
    · exact Bool.false_ne_true (hmode.symm.trans hfrom)
  case autoStart =>
    intro t
    refine occurs_intro (fun _ => rfl) fun s ⟨hmode, hstart, ht, hauto⟩ => ?_
    subst ht
    exact (if_neg (by simp [hmode, hstart])).trans (if_pos hauto)
  case noAutoStart =>
    intro t
    refine occurs_intro (fun _ => rfl) fun s ⟨hmode, hstart, ht, hauto⟩ => ?_
    subst ht
    exact (if_neg (by simp [hmode, hstart])).trans (if_neg (Bool.eq_false_iff.mp hauto))
  case resetPin => exact occurs_intro (g := resetAssert false) (fun _ => rfl) fun _ _ => by simp only [resetAssert, Bool.false_eq_true, if_false]
  case resetPower => exact occurs_intro (g := resetAssert true) (fun _ => rfl) fun _ _ => by simp only [resetAssert, if_true]
  case resetKeeps =>
    intro s
    refine ⟨?_, ?_, ?_, ?_, ?_, ?_⟩
    · simp [resetDevice_part State.flash]
    · simp [resetDevice_part State.pending]
    · simp [resetDevice_part State.free]
    · simp [resetDevice_part State.tim]
    · simp [resetDevice_part State.rx]
    · simp [resetDevice_part State.scn]
  case released => exact occurs_intro (fun _ => rfl) fun _ h => if_pos h
  case notReleased => exact occurs_intro (fun _ => rfl) fun _ h => if_neg h
  case selects => exact occurs_intro (fun _ => rfl) fun _ h => if_pos h
  case selected =>
    refine occurs_intro (fun _ => rfl) fun s h => if_neg fun ⟨hmode, hnone⟩ => ?_
    exact h.elim (fun hother => hother hmode) (fun hsome => hsome hnone)
  case tries => exact fun s p late t => bootSelect_tries
  case firmware =>
    exact fun ms sl => occurs_intro (fun _ => rfl) fun _ ⟨hboot, hpick, hpower⟩ => if_neg (firmware_begins hboot hpick hpower)
  case noFirmware => exact fun ms => occurs_intro (fun _ => rfl) fun _ h => if_pos h
  case wakes =>
    intro port frame pat
    refine occurs_intro (fun _ => rfl) fun s ⟨hmode, hport, hpat⟩ => ?_
    have hhit : (if s.mode = mSTANDBY ∧ port = s.md.wakePort then s.wakePat frame else none) = some pat := (if_pos ⟨hmode, hport⟩).trans hpat
    simp only [hhit]
  case sleeps =>
    intro port frame
    refine occurs_intro (fun _ => rfl) fun s h => ?_
    have hmiss : (if s.mode = mSTANDBY ∧ port = s.md.wakePort then s.wakePat frame else none) = none := by
      rcases h with hmode | hport | hnone
      · exact if_neg fun hboth => hmode hboth.1
      · exact if_neg fun hboth => hport hboth.2
      · rw [hnone, ite_self]
    simp only [hmiss, id_eq]
  case pattern => exact fun s l pat => wakePat_matches

end Sys2Proof.Machine
end

section
/-!
PROOFS. The host interface and tenants: what their status commands return, what their commands do, and how functions, rings and messages
follow their events (R474–R530, R630).
-/
namespace Sys2Proof.Machine

/-! ## What status commands return -/

/-- FLASH_INFO's words of the regions, and the state after the free values that they take. -/
def regionWords (s : State) : List Nat × State :=
  ((List.range 13).zip (flashRegions s)).foldl (fun (a : List Nat × State) (x : Nat × Nat) =>
    let f := regionFree x.1 a.2
    (a.1 ++ [1024 * x.2, f.1], f.2)) ([], s)

theorem regionFree_flash_regs (i : Nat) (s : State) : (regionFree i s).2.flash = s.flash ∧ (regionFree i s).2.regs = s.regs := by
  unfold regionFree
  split <;> exact ⟨rfl, rfl⟩

theorem regionWords_keeps (s : State) : (regionWords s).2.flash = s.flash ∧ (regionWords s).2.regs = s.regs := by
  suffices h : ∀ (l : List (Nat × Nat)) (a : List Nat × State),
      (l.foldl (fun a x => (a.1 ++ [1024 * x.2, (regionFree x.1 a.2).1], (regionFree x.1 a.2).2)) a).2.flash = a.2.flash ∧
      (l.foldl (fun a x => (a.1 ++ [1024 * x.2, (regionFree x.1 a.2).1], (regionFree x.1 a.2).2)) a).2.regs = a.2.regs from h _ ([], s)
  intro l
  induction l with
  | nil => exact fun a => ⟨rfl, rfl⟩
  | cons x l ih =>
    intro a
    obtain ⟨hflash, hregs⟩ := regionFree_flash_regs x.1 a.2
    exact ⟨(ih _).1.trans hflash, (ih _).2.trans hregs⟩

theorem regionWords_length (s : State) : (regionWords s).1.length = 26 := rfl

theorem regionWords_sizes (s : State) :
    (List.range 13).map (fun i => (regionWords s).1.getD (2 * i) 0) = (flashRegions s).map (1024 * ·) := by
  simp [regionWords, flashRegions, List.range, List.range.loop]

/-- Settles O8: past its range check each command's part is one answer with the words named. -/
theorem hostQueriesAnswer : Obligations.HostQueriesAnswer := by
  refine ⟨?tenant, ?misuse, ?buffers, ?rings, ?keys, ?security, ?firmware, ?flash⟩
  case tenant => exact fun t ht => completes_of_ret (fun _ _ => rfl) fun _ _ _ => if_neg (by omega)
  case misuse => exact fun t ht => completes_of_retL (fun _ _ => rfl) fun _ _ _ => if_neg (by omega)
  case buffers => exact fun handles hlen => completes_of_retL (fun _ _ => rfl) fun _ _ _ => if_neg (by omega)
  case rings =>
    intro rings hlen hrings
    refine completes_of_retL (fun _ _ => rfl) fun _ _ _ => if_neg ?_
    rw [any_beyond_false hrings]
    simp [Nat.not_lt.mpr hlen]
  case keys => exact completes_of_retL (fun _ _ => rfl) fun _ _ _ => rfl
  case security => exact completes_of_ret (fun _ _ => rfl) fun e s _ => by simp only [secCounters, List.map_map, Function.comp_def]
  case firmware => exact completes_of_ret (fun _ _ => rfl) fun _ _ _ => rfl
  case flash =>
    refine fun sfdp => ⟨regionWords, completes_of_ret (fun _ _ => rfl) fun _ _ _ => rfl, fun s => ?_⟩
    exact ⟨regionWords_length s, regionWords_sizes s, regionWords_keeps s⟩

/-! ## What tenant commands do -/

/-- Settles O17: past its checks each command's part is one change of what waits for a boundary. -/
theorem tenantCommandsAct : Obligations.TenantCommandsAct := by
  refine ⟨?create, ?destroy, ?quota, ?revoke, ?resume, ?sigReturn⟩
  case create =>
    intro t quotas mode base limit hbase hlimit
    refine actsAt_of_retIdx (fun _ _ => rfl) fun e s hquotas => if_neg ?_
    simpa [hquotas] using And.intro hbase hlimit
  case destroy => exact fun t => actsAt_of_retIdx (fun _ _ => rfl) fun _ _ _ => rfl
  case quota => exact fun t quotas => acts_of_done (fun _ _ => rfl) fun _ _ hquotas => if_neg (by simp [hquotas])
  case revoke => exact fun t items => actsAt_of_retIdx (fun _ _ => rfl) fun _ _ howns => if_pos howns
  case resume =>
    refine fun t => acts_of_done (fun _ _ => rfl) fun e s ⟨hstate, hout, hin, hsilent⟩ => ?_
    exact (if_neg (by simp [hstate, hout, hin])).trans (if_pos hsilent)
  case sigReturn => exact fun sigs hsigs => actsAt_of_retIdx (fun _ _ => rfl) fun _ _ _ => if_neg hsigs

/-! ## What commands do to buffers, rings and filters -/

/-- Settles O19: each command's part in the case that its clause names. -/
theorem hostResourcesAct : Obligations.HostResourcesAct := by
  refine ⟨?register, ?release, ?config, ?control, ?filterSet, ?filterClear⟩
  case register =>
    intro addr size i halign haddr hmin hmax
    refine completes_intro (fun _ _ => rfl) fun e s ⟨hquota, hfree⟩ => ⟨0, ?_⟩
    refine (if_neg (by omega)).trans ((if_neg (by simp [hquota])).trans ?_)
    simp only [hfree]
  case release =>
    refine fun handle => acts_of_done (fun _ _ => rfl) fun e s hnone => ?_
    simp only [hnone]
  case config =>
    intro q ws hq hcfg hoff
    refine acts_of_done (fun _ _ => rfl) fun e s _ => (if_neg (by simp [hcfg]; omega)).trans ?_
    have hctl : ws.filter (fun w => w.off == 0x100) = [] := by simpa [List.filter_eq_nil_iff] using hoff
    have hrest : ws.filter (fun w => w.off != 0x100) = ws := by simpa [List.filter_eq_self] using hoff
    simp [hctl, hrest, maskWords, State.each]
  case control =>
    intro q w hq hcfg hoff
    refine acts_of_done (fun _ _ => rfl) fun e s _ => (if_neg (by simp [hcfg]; omega)).trans ?_
    simp [hoff, maskWords, State.each]
  case filterSet =>
    intro f x hf hring hports hok
    refine acts_of_done (fun _ _ => rfl) fun e s ⟨hkind, hquota⟩ => ?_
    refine (if_neg (by simp [hok, hkind]; omega)).trans (if_neg ?_)
    cases hold : og s.host.filters f with
    | none => simp [hquota hold]
    | some _ => simp
  case filterClear =>
    refine fun f hf => acts_of_done (fun _ _ => rfl) fun e s hsome => if_neg ?_
    rw [Option.isNone_iff_eq_none]
    exact not_or.mpr ⟨by omega, hsome⟩

/-! ## Functions and tenants -/

/-- A reset of a tenant's function stops and cancels what is its own, and begins its ramp where FLR_MODE asks for it (R514–R518). -/
theorem flr_tenant {fn : Nat} {s t u : State} (hlow : 0 < fn) (hhigh : fn < 8) (hten : s.tenant fn ≠ 0)
    (ht : fnCancel fn (((fnVectors fn (fnStop fn s)).onHost (fun h => { h with bmOff := bs h.bmOff fn true })).cnt
      TNT.TNT_STAT_FLRS (i := fn)) = t)
    (hu : (if s.tenant fn = 1 then t.wr TNT.TNT_CTL_STATE 2 (i := fn) else t).onHost (fun h => { h with inFlr := bs h.inFlr fn true }) = u) :
    flr fn s = if u.rb TNT.TNT_CTL_FLR_MODE (i := fn) && (og u.host.rampOut fn).isNone &&
        !(u.rb TNT.TNT_STAT_SILENCED (i := fn) && (og u.host.rampIn fn).isNone) then
      u.onHost (fun h => { h with rampOut := os h.rampOut fn (some (32 * u.nextTick)) })
    else u := by
  subst hu ht
  exact (if_neg (by omega)).trans ((if_neg (by omega)).trans (if_neg hten))

theorem each_range_eight (s : State) (f : State → Nat → State) :
    s.each (List.range 8) f = f (f (f (f (f (f (f (f s 0) 1) 2) 3) 4) 5) 6) 7 := rfl

theorem silence_at {fn st : Nat} {s : State} (hramp : og s.host.rampOut fn = some st) :
    silence fn s = if st + 256 ≤ s.tim.sample + 1 then
      (s.wb TNT.TNT_STAT_SILENCED true (i := fn)).onHost (fun h => { h with rampOut := os h.rampOut fn none, rampIn := os h.rampIn fn none })
    else s := by
  simp only [silence, hramp]

theorem silence_none {fn : Nat} {s : State} (hramp : og s.host.rampOut fn = none) : silence fn s = s := by
  simp only [silence, hramp]

/-- Settles O42: each event's operation in the case that the clause names. -/
theorem functionsFollowTheirEvents : Obligations.FunctionsFollowTheirEvents := by
  refine ⟨?pf0, ?absent, ?tenant, ?noFunction, ?resetEnds, ?noReset, ?pcie, ?busMaster, ?silenced, ?notYet, ?noRamp, ?reclaimed⟩
  case pf0 => exact occurs_intro (fun _ => rfl) fun s _ => (if_neg (by decide)).trans (if_pos rfl)
  case absent =>
    refine fun fn hlow hhigh => occurs_intro (fun _ => rfl) fun s habsent => ?_
    exact (if_neg (by omega)).trans ((if_neg (by omega)).trans (if_pos habsent))
  case tenant => exact fun fn hlow hhigh => occurs_intro (fun _ => rfl) fun s hten => flr_tenant hlow hhigh hten rfl rfl
  case noFunction => exact fun fn hfn => occurs_intro (fun _ => rfl) fun _ _ => if_pos hfn
  case resetEnds => exact fun fn hfn => occurs_intro (fun _ => rfl) fun s hflr => if_neg (by simp [hflr]; omega)
  case noReset => exact fun fn => occurs_intro (fun _ => rfl) fun _ h => if_pos h
  case pcie => exact occurs_intro (fun _ => rfl) fun s _ => each_range_eight s _
  case busMaster => exact fun fn hfn => occurs_intro (fun _ => rfl) fun _ _ => if_neg (by omega)
  case silenced => exact fun fn st => happens_intro (fun _ => rfl) fun _ ⟨hramp, hend⟩ => (silence_at hramp).trans (if_pos hend)
  case notYet =>
    exact fun fn st => happens_intro (fun _ => rfl) fun _ ⟨hramp, hearly⟩ => (silence_at hramp).trans (if_neg (Nat.not_le.mpr hearly))
  case noRamp => exact fun fn => happens_intro (fun _ => rfl) fun _ hramp => silence_none hramp
  case reclaimed => exact fun fn => happens_intro (fun _ => rfl) fun _ _ => rfl

end Sys2Proof.Machine
end

section
/-!
PROOFS. Command rings, DMA rings and messages: how they follow their events (R480–R488, R496–R505, R530).
-/
namespace Sys2Proof.Machine

/-- Both ways lead to one state. -/
theorem ite_to_same {c : Prop} [Decidable c] {s t : State} (h : ¬c → t = s) : (if c then s else t) = s := by
  split
  · rfl
  · next hc => exact h hc

/-! ## The next entry (R484) -/

/-- The state once an entry of the ring `r` of `fn` is taken, with `rest` the round that is left. -/
def entryTaken (x : SubEntry) (fn r : Nat) (rest : List Nat) (s : State) : State :=
  let t := s.onHost (fun h => { h with ordWait := bs h.ordWait (rk fn r) false })
  (t.wr CMDQ.SQ_HEAD_IDX ((s.rd CMDQ.SQ_HEAD_IDX (rk fn r) + 1) % ringSize (t.rd CMDQ.SIZES_SQ_SIZE (rk fn r))) (rk fn r)).onCmd (fun c => { c with
    started := c.started ++ [⟨fn, r, x⟩], lastRing := ns c.lastRing fn (r + 1)
    round := if fetchRound.length ≤ rest.length then rest.take (rest.length - fetchRound.length) else rest })

/-- The function's window lets the ring's next entry be read. -/
def State.entryOpen (s : State) (fn r : Nat) : Bool :=
  s.dmaOk fn (s.rd64 CMDQ.SQ_BASE_HI CMDQ.SQ_BASE_LO (rk fn r) + 64 * s.rd CMDQ.SQ_HEAD_IDX (rk fn r)) 64

section Fetch
variable {x : SubEntry} {fn r : Nat} {rest : List Nat} {s : State}

/-- With commands down, or no function that is ready, nothing is fetched. -/
theorem commandFetch_idle (h : s.cmdUp = false ∨ (s.cmd.round ++ fetchRound).dropWhile (fun f => !s.fnReady f) = []) :
    commandFetch x s = s := by
  refine ite_to_same fun hup => ?_
  simp only [h.resolve_left hup]

variable (hcmd : s.cmdUp = true) (hnext : (s.cmd.round ++ fetchRound).dropWhile (fun f => !s.fnReady f) = fn :: rest)
  (hring : s.ringFor fn = some r)
include hcmd hnext hring

/-- The checks of the next entry in the order of R484. -/
theorem commandFetch_next : commandFetch x s =
    if s.entryOpen fn r = false then cqError (rk fn r) 3 (dmaErr fn s)
    else if x.ordered && decide (0 < s.startedIn fn r) then s.onHost (fun h => { h with ordWait := bs h.ordWait (rk fn r) true })
    else if 32 < x.paramLen ∧ x.paramLen ≤ 65536 ∧ s.dmaOk fn x.paramAddr x.paramLen = false then cqError (rk fn r) 3 (dmaErr fn s)
    else if opcodeKnown x.opcode then entryTaken x fn r rest s
    else complete { tr := .pcie r, fn := fn, tag := x.tag, lenOk := true, bytes := [], auth := none, respMax := 0 } stBAD_OPCODE 0 [] false
      (entryTaken x fn r rest s) := by
  refine (if_neg (by simp [hcmd])).trans ?_
  simp only [hnext, hring]
  rfl

/-- One that the DMA window keeps out stops its ring (R486). -/
theorem commandFetch_kept_out (hopen : s.entryOpen fn r = false) : commandFetch x s = cqError (rk fn r) 3 (dmaErr fn s) :=
  (commandFetch_next hcmd hnext hring).trans (if_pos hopen)

/-- An ORDERED one waits for the entries of its ring before it (R481). -/
theorem commandFetch_waits (hopen : s.entryOpen fn r = true) (hord : x.ordered = true) (hbusy : 0 < s.startedIn fn r) :
    commandFetch x s = s.onHost (fun h => { h with ordWait := bs h.ordWait (rk fn r) true }) :=
  (commandFetch_next hcmd hnext hring).trans ((if_neg (by simp [hopen])).trans (if_pos (by simp [hord, hbusy])))

/-- One that nothing holds back is taken; an opcode that no table holds completes at once (R530). -/
theorem commandFetch_taken (hopen : s.entryOpen fn r = true) (hord : x.ordered = true → s.startedIn fn r = 0)
    (hparam : 32 < x.paramLen → x.paramLen ≤ 65536 → s.dmaOk fn x.paramAddr x.paramLen = true) : commandFetch x s =
    if opcodeKnown x.opcode then entryTaken x fn r rest s
    else complete { tr := .pcie r, fn := fn, tag := x.tag, lenOk := true, bytes := [], auth := none, respMax := 0 } stBAD_OPCODE 0 [] false
      (entryTaken x fn r rest s) := by
  have hfree : ¬(x.ordered && decide (0 < s.startedIn fn r)) = true := by
    intro h
    obtain ⟨hordered, hbusy⟩ := Bool.and_eq_true_iff.mp h
    exact Nat.ne_of_gt (of_decide_eq_true hbusy) (hord hordered)
  have hread : ¬(32 < x.paramLen ∧ x.paramLen ≤ 65536 ∧ s.dmaOk fn x.paramAddr x.paramLen = false) := fun ⟨hlong, hmax, hshut⟩ =>
    Bool.false_ne_true (hshut.symm.trans (hparam hlong hmax))
  exact (commandFetch_next hcmd hnext hring).trans ((if_neg (by simp [hopen])).trans ((if_neg hfree).trans (if_neg hread)))

end Fetch

/-! ## Descriptors (R496, R503) -/

/-- A descriptor for received frames is never late. -/
theorem late_or_placed {kd : Nat} {late : Bool} {sent placed lost : State} :
    (if kd = kTX then sent else if kd = kRX then placed else if late = true then lost else placed) =
      if kd = kTX then sent else if kd ≠ kRX ∧ late = true then lost else placed := by
  by_cases hrx : kd = kRX <;> simp [hrx]

section Descriptors
variable {fn q : Nat} {d : DescIn} {s : State}

/-- A ring that does not run, or has no descriptor pending, fetches none. -/
theorem descFetch_idle (h : s.ringRuns (rk fn q) = false ∨ s.rd HOST.HEAD_IDX (rk fn q) = ng s.host.dmaTail (rk fn q)) :
    descFetch fn q d s = s :=
  if_pos (.inr (.inr h))

variable (hfn : fn < 8) (hq : q < 16) (hruns : s.ringRuns (rk fn q) = true)
  (hpend : s.rd HOST.HEAD_IDX (rk fn q) ≠ ng s.host.dmaTail (rk fn q))
include hfn hq hruns hpend

theorem descFetch_pending : ¬(7 < fn ∨ 15 < q ∨ s.ringRuns (rk fn q) = false ∨ s.rd HOST.HEAD_IDX (rk fn q) = ng s.host.dmaTail (rk fn q)) := by
  simp [hruns, hpend]
  omega

variable {u : State} {kd serve : Nat}
  (hopen : s.dmaOk fn (s.rd64 HOST.BASE_HI HOST.BASE_LO (rk fn q) + 32 * s.rd HOST.HEAD_IDX (rk fn q)) 32 = true)
  (hkind : s.ringKind (rk fn q) = kd) (hserve : serve = if isAudio kd then s.startTick (rk fn q) + ng s.host.fetched (rk fn q) else 0)
  (hu : u = (s.wr HOST.HEAD_IDX ((s.rd HOST.HEAD_IDX (rk fn q) + 1) % s.rd HOST.SIZE_N (rk fn q)) (rk fn q)).onHost (fun h =>
    { h with fetched := ns h.fetched (rk fn q) (ng s.host.fetched (rk fn q) + 1) }))
include hopen hkind hserve hu

/-- One that names a buffer it may not is completed so (R492). -/
theorem descFetch_misuse {st : Nat} (hmis : u.misuse fn d.handle = some st) :
    descFetch fn q d s =
      descFlush fn q (descSet (rk fn q) (u.descList (rk fn q) ++ [{ d := d, serve := serve, st := st }]) (logMisuse fn st q d.handle u)) := by
  subst hkind hserve hu
  refine (if_neg (descFetch_pending hfn hq hruns hpend)).trans ((if_neg (by simp [hopen])).trans ?_)
  simp only [hmis]

/-- A good one is sent, is late, or takes its place. -/
theorem descFetch_good (hmis : u.misuse fn d.handle = none) :
    descFetch fn q d s =
      if kd = kTX then netTx fn q { d := d, serve := serve, st := stOK } (bufHold fn d.handle true u)
      else if kd = kRX then
        descSet (rk fn q) ((bufHold fn d.handle true u).descList (rk fn q) ++ [{ d := d, serve := serve, st := stOK }]) (bufHold fn d.handle true u)
      else if (if kd = kPB then decide (serve ≤ (bufHold fn d.handle true u).accTick + 1)
          else decide (serve + 1 < (bufHold fn d.handle true u).accTick)) = true then
        descFlush fn q (descSet (rk fn q) ((bufHold fn d.handle true u).descList (rk fn q) ++ [{ d := d, serve := serve, st := stBUF_LATE }])
          (tickLate (rk fn q) (bufHold fn d.handle true u)))
      else
        descSet (rk fn q) ((bufHold fn d.handle true u).descList (rk fn q) ++ [{ d := d, serve := serve, st := stOK }])
          (bufHold fn d.handle true u) := by
  subst hkind hserve hu
  refine (if_neg (descFetch_pending hfn hq hruns hpend)).trans ((if_neg (by simp [hopen])).trans ?_)
  simp only [hmis]

end Descriptors

/-! ## Audio blocks (R504) -/

section Blocks
variable {fn q : Nat} {d : Desc} {l : List Desc} {s : State}

/-- The block of the next tick is read (R31, R504). -/
theorem pbFetch_block {ws : List Nat} {pb : Tbl (List Int)} (hfn : fn < 8) (hq : q < 16) (hhead : s.descList (rk fn q) = d :: l)
    (hruns : s.ringRuns (rk fn q) = true) (hkind : s.ringKind (rk fn q) = kPB) (hok : d.st = stOK) (htick : d.serve = s.tick + 1)
    (hlen : ws.length = 32 * (s.ringChans fn q (s.tick + 1)).length) (hroom : s.blockBytes fn q (s.tick + 1) ≤ s.offered fn d)
    (hopen : s.bufDma fn d (s.blockBytes fn q (s.tick + 1)) = true)
    (hpb : (if hostZero s.mode then s.host.pbNext
      else pbSpread (s.rd HOST.RING_CTL_PACK (rk fn q)) (s.ringChans fn q (s.tick + 1)) ws s.host.pbNext) = pb) :
    pbFetch fn q ws s = descFlush fn q (writeBack fn q d
      { plainWb fn q d stOK s with lenDone := s.blockBytes fn q (s.tick + 1), maskChg := s.maskNew fn q (s.tick + 1) }
      ((descSet (rk fn q) l s).onHost (fun h => { h with pbNext := pb }))) := by
  subst hpb
  simp only [pbFetch, hhead]
  refine (if_neg (by simp [hruns, hkind, hok, htick]; omega)).trans ((if_neg (by simp [hlen])).trans ?_)
  exact (if_neg (Nat.not_lt.mpr hroom)).trans (if_neg (by simp [hopen]))

theorem pbFetch_idle {ws : List Nat} (h : s.descList (rk fn q) = [] ∨ s.ringRuns (rk fn q) = false) : pbFetch fn q ws s = s := by
  cases hhead : s.descList (rk fn q) with
  | nil => simp only [pbFetch, hhead]
  | cons d l =>
    have hstop : s.ringRuns (rk fn q) = false := h.resolve_left (by simp [hhead])
    simp only [pbFetch, hhead]
    exact if_pos (.inr (.inr (.inl hstop)))

/-- The block of the tick before is written (R32, R504). -/
theorem capWrite_block {now : Nat} {ws : List Int} {t : State} (hfn : fn < 8) (hq : q < 16) (hhead : s.descList (rk fn q) = d :: l)
    (hws : og s.host.capLast (rk fn q) = some ws) (hkind : s.ringKind (rk fn q) = kCAP) (hstate : s.ringState (rk fn q) ≠ rsERROR)
    (hok : d.st = stOK) (htick : d.serve + 1 = now) (ht : s.onHost (fun h => { h with capLast := os h.capLast (rk fn q) none }) = t)
    (hroom : ws.length * packBytes (s.rd HOST.RING_CTL_PACK (rk fn q)) ≤ t.offered fn d)
    (hopen : t.bufDma fn d (ws.length * packBytes (s.rd HOST.RING_CTL_PACK (rk fn q))) = true) :
    capWrite now fn q s = descFlush fn q (writeBack fn q d
      { plainWb fn q d stOK t with lenDone := ws.length * packBytes (s.rd HOST.RING_CTL_PACK (rk fn q)), maskChg := t.maskNew fn q d.serve }
      ((descSet (rk fn q) l t).onHost (fun h => { h with
        lastData := (ws.flatMap (packWord (s.rd HOST.RING_CTL_PACK (rk fn q)))).map (·.toNat) }))) := by
  subst ht
  simp only [capWrite, hhead, hws]
  refine (if_neg (by simp [hkind, hstate, hok, htick]; omega)).trans ?_
  exact (if_neg (Nat.not_lt.mpr hroom)).trans (if_neg (by simp [hopen]))

theorem capWrite_none {now : Nat} (hws : og s.host.capLast (rk fn q) = none) : capWrite now fn q s = s := by
  cases hhead : s.descList (rk fn q) <;> simp only [capWrite, hhead, hws]

end Blocks

/-- Settles O43: each event's operation in the case that the clause names. -/
theorem ringsFollowTheirEvents : Obligations.RingsFollowTheirEvents := by
  refine ⟨?idle, ?taken, ?unknown, ?keptOut, ?ordered, ?coalesced, ?notYet, ?ringError, ?notRunning, ?dmaRing, ?dmaQueue, ?dmaNone,
    ?message, ?masked, ?noMessage, ?unmaskPending, ?unmask, ?noDescriptor, ?descriptorOut, ?descriptor, ?playback, ?noPlayback, ?capture,
    ?noCapture⟩
  case idle => exact fun x => happens_intro (fun _ => rfl) fun _ h => commandFetch_idle h
  case taken =>
    intro x fn r rest k hknown hk
    refine happens_intro (fun _ => rfl) fun s ⟨hcmd, hnext, hring, hopen, hord, hparam⟩ => ?_
    subst hk
    exact (commandFetch_taken hcmd hnext hring hopen hord hparam).trans (if_pos hknown)
  case unknown =>
    intro x fn r rest k hknown hk
    refine happens_intro (fun _ => rfl) fun s ⟨hcmd, hnext, hring, hopen, hord, hparam⟩ => ?_
    subst hk
    exact (commandFetch_taken hcmd hnext hring hopen hord hparam).trans (if_neg (by simp [hknown]))
  case keptOut =>
    intro x fn r rest k hk
    refine happens_intro (fun _ => rfl) fun s ⟨hcmd, hnext, hring, hshut⟩ => ?_
    subst hk
    exact commandFetch_kept_out hcmd hnext hring hshut
  case ordered =>
    intro x fn r rest k hord hk
    refine happens_intro (fun _ => rfl) fun s ⟨hcmd, hnext, hring, hopen, hbusy⟩ => ?_
    subst hk
    exact commandFetch_waits hcmd hnext hring hopen hord hbusy
  case coalesced => exact fun fn r us hfn hr => happens_intro (fun _ => rfl) fun _ h => (if_neg (by omega)).trans (if_pos h)
  case notYet =>
    refine fun fn r us => happens_intro (fun _ => rfl) fun s h => ite_to_same fun _ => if_neg fun ⟨hsome, hdue⟩ => ?_
    rcases h with hnone | ⟨hfew, hsoon⟩
    · exact hsome hnone
    · exact hdue.elim (Nat.not_le.mpr hfew) (Nat.not_le.mpr hsoon)
  case ringError => exact fun fn r cause hfn hr hpos hmax => happens_intro (fun _ => rfl) fun _ hrun => if_neg (by simp [hrun]; omega)
  case notRunning => exact fun fn r cause => happens_intro (fun _ => rfl) fun _ hstop => if_pos (.inr (.inr (.inr (.inr hstop))))
  case dmaRing =>
    refine fun fn q hfn hq => happens_intro (fun _ => rfl) fun s hrun => ?_
    exact (if_neg (by omega)).trans ((if_pos rfl).trans (if_neg (by simp [hrun]; omega)))
  case dmaQueue =>
    refine fun fn r hfn hr => happens_intro (fun _ => rfl) fun s hrun => ?_
    exact (if_neg (by omega)).trans ((if_neg Bool.false_ne_true).trans (if_neg (by simp [hrun]; omega)))
  case dmaNone =>
    intro fn q
    constructor
    · exact happens_intro (fun _ => rfl) fun s hstop => ite_to_same fun _ => (if_pos rfl).trans (if_pos (.inr hstop))
    · exact happens_intro (fun _ => rfl) fun s hstop => ite_to_same fun _ => (if_neg Bool.false_ne_true).trans (if_pos (.inr hstop))
  case message =>
    refine fun fn v t => happens_intro (fun _ => rfl) fun s ⟨hdue, hopen⟩ => ?_
    simp only [hdue]
    exact if_pos hopen
  case masked =>
    refine fun fn v t => happens_intro (fun _ => rfl) fun s ⟨hdue, hshut⟩ => ?_
    simp only [hdue]
    exact if_neg (Bool.eq_false_iff.mp hshut)
  case noMessage =>
    refine happens_intro (fun _ => rfl) fun s hdue => ?_
    simp only [hdue, id_eq]
  case unmaskPending =>
    exact fun fn v hfn hv => happens_intro (fun _ => rfl) fun s hpend => (if_neg (by omega)).trans (if_pos hpend)
  case unmask =>
    exact fun fn v hfn hv => happens_intro (fun _ => rfl) fun s hnone => (if_neg (by omega)).trans (if_neg (Bool.eq_false_iff.mp hnone))
  case noDescriptor => exact fun fn q d => happens_intro (fun _ => rfl) fun _ h => descFetch_idle h
  case descriptorOut =>
    refine fun fn q d hfn hq => happens_intro (fun _ => rfl) fun s ⟨hruns, hpend, hshut⟩ => ?_
    exact (if_neg (descFetch_pending hfn hq hruns hpend)).trans (if_pos hshut)
  case descriptor =>
    intro fn q d u kd serve hfn hq
    refine happens_intro (fun _ => rfl) fun s ⟨hruns, hpend, hkind, hopen, hserve, hu⟩ => ?_
    cases hmis : u.misuse fn d.handle with
    | some st => exact descFetch_misuse hfn hq hruns hpend hopen hkind hserve hu hmis
    | none =>
      exact (descFetch_good hfn hq hruns hpend hopen hkind hserve hu hmis).trans late_or_placed
  case playback =>
    intro fn q ws d l hfn hq
    refine happens_intro (fun _ => rfl) fun s ⟨hhead, hruns, hkind, hok, htick, hlen, hroom, hopen⟩ => ?_
    exact pbFetch_block hfn hq hhead hruns hkind hok htick hlen hroom hopen rfl
  case noPlayback => exact fun fn q ws => happens_intro (fun _ => rfl) fun _ h => pbFetch_idle h
  case capture =>
    intro fn q ws d l t hfn hq
    refine happens_intro (fun _ => rfl) fun s ⟨hhead, hws, hkind, hstate, hok, htick, ht, hroom, hopen⟩ => ?_
    subst ht
    exact capWrite_block hfn hq hhead hws hkind hstate hok htick rfl hroom hopen
  case noCapture => exact fun fn q => happens_intro (fun _ => rfl) fun _ hnone => capWrite_none hnone

end Sys2Proof.Machine
end

section
/-!
PROOFS. What the commands of keys, debug access and firmware do (R534–R549).
-/
namespace Sys2Proof.Machine

/-- A command whose part leaves its completion to a later event. -/
theorem exec_of_later {o : Opc} {own : Nat → State → Option Nat} {c : Instr} {e : Env} {s t : State} {body : Nat → State → Res}
    (hc : exec c s = .next (runCmd o e own body s none)) (h : judged o e own s = true)
    (hb : body (callerOf e) (accept o e s) = .later t) : exec c s = laterWith o t := by
  rw [hc, runCmd_judged h, hb]
  rfl

/-- A command that its part refuses. -/
theorem exec_of_refused {o : Opc} {own : Nat → State → Option Nat} {c : Instr} {e : Env} {s : State} {body : Nat → State → Res} {st : Nat}
    (hc : exec c s = .next (runCmd o e own body s none)) (h : judged o e own s = true)
    (hb : body (callerOf e) (accept o e s) = no st) : exec c s = .next (complete e st 0 [] true (accept o e s)) := by
  rw [hc, runCmd_judged h, hb]
  rfl

/-- Settles O21: each command's part, with a key load split by whether its wrapped key unwraps. -/
theorem keyCommandsAct : Obligations.KeyCommandsAct := by
  refine ⟨?load, ?retire, ?unlock, ?lock⟩
  case load =>
    intro t wrapped a ht hlen e s o hj hauth
    have hform : ¬(15 < t ∨ wrapped.length ≠ 40) := by omega
    cases hkey : aesUnwrap (hmac256 ((accept o e s).wrapKey a) (kekText t a.counter)) wrapped with
    | some k =>
      refine exec_of_later rfl hj ((if_neg hform).trans ?_)
      simp only [hauth, hkey]
    | none =>
      refine exec_of_refused rfl hj ((if_neg hform).trans ?_)
      simp only [hauth, hkey]
  case retire => exact fun t hlow hhigh => begins_intro (fun _ _ => rfl) fun _ _ _ => if_neg (by omega)
  case unlock => exact fun parts hparts => acts_of_done (fun _ _ => rfl) fun _ _ _ => if_neg (by omega)
  case lock => exact acts_of_done (fun _ _ => rfl) fun _ _ _ => rfl

/-- A trial image in the active slot is confirmed: the floor rises to its version where it says so, and the keys that it names are
revoked but its own (R546). -/
theorem confirm_trial {s t : State} {g : Image} (htrial : s.flash.trial = true)
    (ht : bootShow (s.onFlash (fun f => { f with trial := false })) = t) (himg : og t.flash.image (t.rd SECU.FW_STAT_ACTIVE_SLOT) = some g)
    (hfloor : t.flash.svnFloor = s.flash.svnFloor) :
    confirm s = otpShow (t.onFlash (fun f => { f with
      svnFloor := if bit (imgFlags g) 0 && decide (s.flash.svnFloor < imgSvn g) then imgSvn g else f.svnFloor,
      revoked := f.revoked ||| (fbits (imgFlags g) 7 4 - (fbits (imgFlags g) 7 4 &&& 2 ^ imgKey g)) })) := by
  subst ht
  refine (if_neg (by simp [htrial])).trans ?_
  simp only [himg, hfloor]

theorem bootShow_flash (s : State) : (bootShow s).flash = s.flash := by simp [bootShow]

/-- Settles O22: each command's part in the case that its clause names. -/
theorem firmwareCommandsAct : Obligations.FirmwareCommandsAct := by
  refine ⟨?opened, ?write, ?close, ?abort, ?activate, ?confirm, ?erase⟩
  case opened =>
    exact acts_of_done (fun _ _ => rfl) fun e s ⟨hnone, hdone⟩ => if_neg (by simp [hnone, hdone])
  case write =>
    intro ofs data halign hlen hend e s hj
    refine exec_of_later rfl hj (if_neg ?_)
    simp only [slotBytes]
    omega
  case close =>
    intro e s a f hj hidle
    have hbusy : ¬a.stageBusy = true := by simp [hidle]
    by_cases hgood : f = 0
    · rw [if_pos hgood]
      exact exec_of_ok rfl hj ((if_neg hbusy).trans (if_pos hgood)) rfl
    · rw [if_neg hgood]
      exact exec_of_later rfl hj ((if_neg hbusy).trans (if_neg hgood))
  case abort => exact acts_of_done (fun _ _ => rfl) fun _ _ _ => rfl
  case activate => exact begins_intro (fun _ _ => rfl) fun _ _ hstaged => if_pos hstaged
  case confirm =>
    refine fun g => acts_of_done (fun _ _ => rfl) fun e s ⟨htrial, himg⟩ => congrArg done ?_
    exact confirm_trial htrial rfl (by rwa [bootShow_flash]) (by rw [bootShow_flash]; rfl)
  case erase => exact begins_intro (fun _ _ => rfl) fun _ _ _ => rfl

end Sys2Proof.Machine
end

section
/-!
PROOFS. The SPI target: what its transactions do (R458, R528, R581–R585).
-/
namespace Sys2Proof.Machine

/-! ## Commands (R528, R584) -/

section Command
variable {b : List Byte} {e : Env} {s : State}
  (he : e = { tr := .spi, fn := 0, tag := leNat ((b.drop 4).take 2), lenOk := true, bytes := b, auth := none, respMax := 0 })
include he

/-- A full queue, and firmware that is down, answer BUSY where a completion has a place. -/
theorem spiCommand_busy (hmode : 3 ≤ s.mode) (hbusy : s.fwUp = false ∨ 64 ≤ s.cmd.spiQ) (hplace : s.spiPlace = true) :
    spiCommand b s = complete e stBUSY 0 [] false (s.onCmd (fun c => { c with spiQ := c.spiQ + 1 })) := by
  subst he
  exact (if_neg (Nat.not_lt.mpr hmode)).trans ((if_pos hbusy).trans (if_pos hplace))

variable (hmode : 3 ≤ s.mode) (hup : s.fwUp = true) (hroom : s.cmd.spiQ < 64)
include hmode hup hroom

theorem spiCommand_taken : spiCommand b s =
    if opcodeKnown (leNat (b.take 2)) then s.onCmd (fun c => { c with spiQ := c.spiQ + 1 })
    else if s.spiPlace then complete e stBAD_OPCODE 0 [] false (s.onCmd (fun c => { c with spiQ := c.spiQ + 1 }))
    else (s.onCmd (fun c => { c with spiQ := c.spiQ + 1 })).onCmd (fun c => { c with spiBad := c.spiBad ++ [e] }) := by
  subst he
  exact (if_neg (Nat.not_lt.mpr hmode)).trans (if_neg (by simp [hup, hroom]))

/-- An unknown opcode completes with BAD_OPCODE (R530). -/
theorem spiCommand_unknown (hop : opcodeKnown (leNat (b.take 2)) = false) (hplace : s.spiPlace = true) :
    spiCommand b s = complete e stBAD_OPCODE 0 [] false (s.onCmd (fun c => { c with spiQ := c.spiQ + 1 })) :=
  (spiCommand_taken he hmode hup hroom).trans ((if_neg (Bool.eq_false_iff.mp hop)).trans (if_pos hplace))

/-- With every place taken its refusal waits. -/
theorem spiCommand_unknown_waits (hop : opcodeKnown (leNat (b.take 2)) = false) (hplace : s.spiPlace = false) :
    spiCommand b s = s.onCmd (fun c => { c with spiQ := c.spiQ + 1, spiBad := c.spiBad ++ [e] }) :=
  (spiCommand_taken he hmode hup hroom).trans ((if_neg (Bool.eq_false_iff.mp hop)).trans (if_neg (Bool.eq_false_iff.mp hplace)))

end Command

/-- A transaction that counts takes no command's place. -/
theorem spiTrans_takes {s : State} (hmode : 3 ≤ s.mode) (hup : s.fwUp = true) (hroom : s.cmd.spiQ < 64) :
    3 ≤ (spiTrans s).mode ∧ (spiTrans s).fwUp = true ∧ (spiTrans s).cmd.spiQ < 64 := by
  rw [spiTrans_mode, spiTrans_fwUp, spiTrans_cmd]
  exact ⟨hmode, hup, hroom⟩

/-- Where BUSY has no place, and while commands are not taken at all, the transaction is dropped. -/
theorem spiCommand_dropped {b : List Byte} {s : State}
    (h : s.mode < 3 ∨ ((s.fwUp = false ∨ 64 ≤ s.cmd.spiQ) ∧ s.spiPlace = false)) : spiCommand b s = spiDrop false s := by
  by_cases hmode : s.mode < 3
  · exact if_pos hmode
  · obtain ⟨hbusy, hfull⟩ := h.resolve_left hmode
    exact (if_neg hmode).trans ((if_pos hbusy).trans (if_neg (Bool.eq_false_iff.mp hfull)))

/-! ## Acknowledgements (R584) -/

/-- The oldest completion goes. -/
theorem spiAck_none {s : State} (hnone : s.cmd.spiBad = []) : spiAck s = s.onCmd (fun c => { c with spi := c.spi.drop 1 }) := by
  simp [spiAck, State.onCmd, hnone]

/-- A refusal that waits takes its place. -/
theorem spiAck_waiting {s : State} {e : Env} {t : List Env} (hbad : s.cmd.spiBad = e :: t)
    (hplace : (s.cmd.spi.drop 1).length + s.cmd.spiRun < 64) :
    spiAck s = complete e stBAD_OPCODE 0 [] false (s.onCmd (fun c => { c with spi := c.spi.drop 1, spiBad := t })) := by
  have hfree : (s.onCmd (fun c => { c with spi := c.spi.drop 1 })).spiPlace = true := decide_eq_true hplace
  simp only [spiAck]
  simp only [State.onCmd, hbad] at hfree ⊢
  exact if_pos hfree

/-! ## The target is off -/

theorem occurs_spiWork_off {c : Instr} {ok : Bool} {f : State → State} (hc : ∀ s, exec c s = .next (spiWork ok f s)) :
    occurs c (fun s => s.spiOn = false) id := occurs_intro hc fun _ hoff => if_pos hoff

theorem occurs_spiRec_off {c : Instr} {ok : Bool} {f : State → State} (hc : ∀ s, exec c s = .next (spiRec ok f s)) :
    occurs c (fun s => s.spiOn = false) id := occurs_intro hc fun _ hoff => if_pos hoff

/-- Settles O44: the target's state says whether a transaction is carried out, and its operation's equation what it does. -/
theorem spiTransactionsAct : Obligations.SpiTransactionsAct := by
  refine ⟨?write, ?noWrite, ?read, ?noRead, ?status, ?command, ?noCommand, ?response, ?noResponse, ?ack, ?ackWaiting, ?responseDropped,
    ?ackDropped, ?image, ?noImage, ?imageLong, ?imageEnd, ?noImageEnd, ?badCrc, ?badFrame, ?off⟩
  case write => exact fun g ofs ws hofs => occurs_intro (fun _ => rfl) fun s ⟨hon, hwork⟩ => spiWork_ok hon hwork (decide_eq_true hofs)
  case noWrite =>
    exact fun g ofs ws => occurs_intro (fun _ => rfl) fun s ⟨hon, h⟩ =>
      spiWork_drop hon (h.imp_right fun hofs => decide_eq_false (Nat.not_lt.mpr hofs))
  case read =>
    exact fun ofs n hofs hlow hhigh => occurs_intro (fun _ => rfl) fun s ⟨hon, hwork⟩ => spiWork_ok hon hwork (by simpa [hlow, hhigh] using hofs)
  case noRead =>
    refine fun ofs n => occurs_intro (fun _ => rfl) fun s ⟨hon, h⟩ => spiWork_drop hon (h.imp_right fun hform => ?_)
    simp only [Bool.and_eq_false_iff, decide_eq_false_iff_not]
    omega
  case status => exact occurs_intro (fun _ => rfl) fun s hon => if_pos hon
  case command =>
    intro b e he hmin hmax
    have hform : (decide (16 ≤ b.length) && decide (b.length ≤ 65552)) = true := by simp [hmin, hmax]
    refine ⟨fun hop => ?known, fun hop => ?unknown, fun hop => ?waits, ?busy, ?dropped⟩
    case known =>
      refine occurs_intro (fun _ => rfl) fun s ⟨hon, hwork, hmode, hup, hroom⟩ => (spiWork_ok hon hwork hform).trans ?_
      obtain ⟨hmode, hup, hroom⟩ := spiTrans_takes hmode hup hroom
      exact (spiCommand_taken he hmode hup hroom).trans (if_pos hop)
    case unknown =>
      refine occurs_intro (fun _ => rfl) fun s ⟨hon, hwork, hmode, hup, hroom, hplace⟩ => (spiWork_ok hon hwork hform).trans ?_
      obtain ⟨hmode, hup, hroom⟩ := spiTrans_takes hmode hup hroom
      exact spiCommand_unknown he hmode hup hroom hop ((spiTrans_spiPlace s).trans hplace)
    case waits =>
      refine occurs_intro (fun _ => rfl) fun s ⟨hon, hwork, hmode, hup, hroom, hplace⟩ => (spiWork_ok hon hwork hform).trans ?_
      obtain ⟨hmode, hup, hroom⟩ := spiTrans_takes hmode hup hroom
      exact spiCommand_unknown_waits he hmode hup hroom hop ((spiTrans_spiPlace s).trans hplace)
    case busy =>
      refine occurs_intro (fun _ => rfl) fun s ⟨hon, hwork, hmode, hbusy, hplace⟩ => (spiWork_ok hon hwork hform).trans ?_
      rw [← spiTrans_mode] at hmode
      rw [← spiTrans_fwUp, ← spiTrans_cmd] at hbusy
      exact spiCommand_busy he hmode hbusy ((spiTrans_spiPlace s).trans hplace)
    case dropped =>
      refine occurs_intro (fun _ => rfl) fun s ⟨hon, hwork, h⟩ => (spiWork_ok hon hwork hform).trans ?_
      rw [← spiTrans_mode, ← spiTrans_fwUp, ← spiTrans_cmd, ← spiTrans_spiPlace] at h
      exact spiCommand_dropped h
  case noCommand =>
    refine fun b => occurs_intro (fun _ => rfl) fun s ⟨hon, h⟩ => spiWork_drop hon (h.imp_right fun hform => ?_)
    simp only [Bool.and_eq_false_iff, decide_eq_false_iff_not]
    omega
  case response =>
    refine fun c l => occurs_intro (fun _ => rfl) fun s ⟨hon, hwork, hspi⟩ => (spiWork_ok hon hwork rfl).trans ?_
    rw [← spiTrans_cmd] at hspi
    simp only [hspi]
  case noResponse =>
    refine occurs_intro (fun _ => rfl) fun s ⟨hon, hwork, hspi⟩ => (spiWork_ok hon hwork rfl).trans ?_
    rw [← spiTrans_cmd] at hspi
    simp only [hspi, List.length_nil, List.append_nil]
  case ack =>
    refine occurs_intro (fun _ => rfl) fun s ⟨hon, hwork, hnone⟩ => (spiWork_ok hon hwork rfl).trans ?_
    rw [← spiTrans_cmd] at hnone
    exact spiAck_none hnone
  case ackWaiting =>
    refine fun e t => occurs_intro (fun _ => rfl) fun s ⟨hon, hwork, hbad, hplace⟩ => (spiWork_ok hon hwork rfl).trans ?_
    rw [← spiTrans_cmd] at hbad hplace
    exact spiAck_waiting hbad hplace
  case responseDropped => exact occurs_intro (fun _ => rfl) fun s ⟨hon, hrec⟩ => spiWork_drop hon (.inl hrec)
  case ackDropped => exact occurs_intro (fun _ => rfl) fun s ⟨hon, hrec⟩ => spiWork_drop hon (.inl hrec)
  case image =>
    exact fun ofs d halign hmin hmax hpages hend => occurs_intro (fun _ => rfl) fun s ⟨hon, hrec⟩ =>
      spiRec_ok hon hrec (by simp only [Bool.and_eq_true, decide_eq_true_eq, beq_iff_eq]; omega)
  case noImage =>
    refine fun ofs d => occurs_intro (fun _ => rfl) fun s ⟨hon, h⟩ => spiRec_drop hon (h.imp_right fun hform => ?_)
    simp only [Bool.and_eq_false_iff, decide_eq_false_iff_not, beq_eq_false_iff_ne]
    omega
  case imageLong => exact fun len hlong => occurs_intro (fun _ => rfl) fun s ⟨hon, hrec⟩ => (spiRec_ok hon hrec rfl).trans (if_pos hlong)
  case imageEnd =>
    exact fun len hlen => occurs_intro (fun _ => rfl) fun s ⟨hon, hrec⟩ => (spiRec_ok hon hrec rfl).trans (if_neg (Nat.not_lt.mpr hlen))
  case noImageEnd => exact fun len => occurs_intro (fun _ => rfl) fun s ⟨hon, hwork⟩ => spiRec_drop hon (.inl hwork)
  case badCrc => exact occurs_intro (fun _ => rfl) fun s hon => if_pos hon
  case badFrame => exact occurs_intro (fun _ => rfl) fun s hon => if_pos hon
  case off =>
    intro g ofs ws n b d len crc
    simp only [List.forall_mem_cons, List.not_mem_nil, false_imp_iff, implies_true, and_true]
    refine ⟨?write, ?read, ?status, ?command, ?response, ?ack, ?image, ?imageEnd, ?drop⟩
    case write => exact occurs_spiWork_off fun _ => rfl
    case read => exact occurs_spiWork_off fun _ => rfl
    case status => exact occurs_intro (fun _ => rfl) fun _ hoff => if_neg (Bool.eq_false_iff.mp hoff)
    case command => exact occurs_spiWork_off fun _ => rfl
    case response => exact occurs_spiWork_off fun _ => rfl
    case ack => exact occurs_spiWork_off fun _ => rfl
    case image => exact occurs_spiRec_off fun _ => rfl
    case imageEnd => exact occurs_spiRec_off fun _ => rfl
    case drop => exact occurs_intro (fun _ => rfl) fun _ hoff => if_neg (Bool.eq_false_iff.mp hoff)

end Sys2Proof.Machine
end

section
/-!
PROOFS. UARTs, I²C and flash: how they follow their events (R543, R546, R573–R589).
-/
namespace Sys2Proof.Machine

/-! ## UARTs (R577–R580) -/

section Sample
variable {u : Nat} {b : Bool} {s t : State} (ht : t = s.onLs (fun x => { x with rxLow := bs x.rxLow u (!b) }))
include ht

/-- A UART that is off forgets what it has taken of a frame. -/
theorem uartSample_off (hoff : s.rb LSIO.UART_CTL_EN u = false) : uartSample u s b = uartPart u [] t := by
  subst ht
  exact if_pos hoff

variable (hen : s.rb LSIO.UART_CTL_EN u = true)
include hen

/-- A falling edge starts a frame. -/
theorem uartSample_edge (hnone : tget (fun _ => []) s.ls.rxPart u = []) (hhigh : bg s.ls.rxLow u = false) (hb : b = false) :
    uartSample u s b = uartPart u [b] t := by
  subst ht
  refine (if_neg fun hoff => Bool.false_ne_true (hoff.symm.trans hen)).trans ((if_pos hnone).trans (if_neg ?_))
  simp [hhigh, hb]

variable {l : List Bool} (hl : tget (fun _ => []) s.ls.rxPart u = l) (hne : l ≠ [])
include hl hne

/-- Within a frame a sub-sample is taken, shows that the start bit was noise, or ends the frame (R578). -/
theorem uartSample_within : uartSample u s b =
    if l.length + 1 = 10 ∧ bitTaken (l ++ [b]) 0 = true then uartPart u [] t
    else if l.length + 1 < 16 * (1 + s.dataBits u + s.parityBits u) + 10 then uartPart u (l ++ [b]) t
    else uartTake u (l ++ [b]) (uartPart u [] t) := by
  subst ht hl
  refine (if_neg fun hoff => Bool.false_ne_true (hoff.symm.trans hen)).trans ((if_neg hne).trans ?_)
  simp only [List.length_append, List.length_singleton]
  rfl

end Sample

/-- Every case of a sub-sample: a part of a frame grows until its stop bit, or is dropped as noise. -/
theorem uartSample_cases (u : Nat) (b : Bool) (s t : State) (ht : t = s.onLs (fun x => { x with rxLow := bs x.rxLow u (!b) })) :
    (s.rb LSIO.UART_CTL_EN u = true → tget (fun _ => []) s.ls.rxPart u = [] → bg s.ls.rxLow u = false → b = false →
      uartSample u s b = uartPart u [b] t) ∧
    (∀ l, s.rb LSIO.UART_CTL_EN u = true → tget (fun _ => []) s.ls.rxPart u = l → l.length = 9 → bitTaken (l ++ [b]) 0 = true →
      uartSample u s b = uartPart u [] t) ∧
    (∀ l, s.rb LSIO.UART_CTL_EN u = true → tget (fun _ => []) s.ls.rxPart u = l → (l.length < 9 ∨ (l.length = 9 ∧ bitTaken (l ++ [b]) 0 = false) ∨
        (9 < l.length ∧ l.length + 1 < 16 * (1 + s.dataBits u + s.parityBits u) + 10)) → l ≠ [] → uartSample u s b = uartPart u (l ++ [b]) t) ∧
    (∀ l, s.rb LSIO.UART_CTL_EN u = true → tget (fun _ => []) s.ls.rxPart u = l →
      l.length + 1 = 16 * (1 + s.dataBits u + s.parityBits u) + 10 → uartSample u s b = uartTake u (l ++ [b]) (uartPart u [] t)) ∧
    (s.rb LSIO.UART_CTL_EN u = false → uartSample u s b = uartPart u [] t) := by
  refine ⟨uartSample_edge ht, ?noise, ?grows, ?ends, uartSample_off ht⟩
  case noise =>
    intro l hen hl hlen hhigh
    have hne : l ≠ [] := by rintro rfl; cases hlen
    exact (uartSample_within ht hen hl hne).trans (if_pos ⟨by omega, hhigh⟩)
  case grows =>
    intro l hen hl h hne
    have hgood : ¬(l.length + 1 = 10 ∧ bitTaken (l ++ [b]) 0 = true) := by
      rintro ⟨hten, hhigh⟩
      rcases h with hfew | ⟨-, hlow⟩ | ⟨hmany, -⟩
      · omega
      · exact Bool.false_ne_true (hlow.symm.trans hhigh)
      · omega
    exact (uartSample_within ht hen hl hne).trans ((if_neg hgood).trans (if_pos (by omega)))
  case ends =>
    intro l hen hl hlen
    have hne : l ≠ [] := by rintro rfl; simp only [List.length_nil] at hlen; omega
    exact (uartSample_within ht hen hl hne).trans ((if_neg (by omega)).trans (if_neg (by omega)))

section Sent
variable {u : Nat} {s : State}

/-- A byte has been sent: its bits were driven, and it leaves the FIFO. -/
theorem execUartFrameTx_sent {b : Byte} {l : List Byte} (hu : u ≤ 1) (hen : s.rb LSIO.UART_CTL_EN u = true) (htx : s.uartTx u = b :: l)
    (hup : up s = true) :
    execUartFrameTx u s = .next (
      let t := uartTxPut u l (s.onLs (fun x => { x with txd := tset (fun _ => []) x.txd u (s.frameBits u b) }))
      if t.fwUp then uartPump u t else t) := by
  refine congrArg Host.Outcome.next ((awake_up hup).trans ((if_neg (by simp [hen]; omega)).trans ?_))
  simp only [htx]

theorem fwUp_onLs (f : LsS → LsS) : (s.onLs f).fwUp = s.fwUp := rfl

theorem fwUp_uartTxPut (l : List Byte) : (uartTxPut u l s).fwUp = s.fwUp := by
  unfold uartTxPut
  rw [fwUp_onLs]
  unfold State.fwUp State.mode
  rw [rd_wr_other _ _ _ _ _ _ _ _ (rkey_ne_off (by decide) (by decide) (by decide)),
    rb_wr_other _ _ _ _ _ _ _ _ (rkey_ne_off (by decide) (by decide) (by decide)),
    rb_wr_other _ _ _ _ _ _ _ _ (rkey_ne_off (by decide) (by decide) (by decide))]

end Sent

/-! ## I²C (R573–R575) -/

section Bus
variable {i : Nat} {scl sda : Bool} {pulses : List Bool} {s : State}

/-- A controller that runs no check leaves the bus. -/
theorem busCheck_idle (h : s.fwUp = false ∨ s.rb LSIO.I2C_CTL_EN i = false ∨ s.icState i = icOFF ∨
    (s.icState i = icISOLATED ∧ bg s.ls.check i = false)) : busCheck i scl sda pulses s = s := by
  refine ite_to_same fun hgo => ?_
  rcases h with hfw | hen | hoff | hiso
  · exact absurd (.inr (.inl hfw)) hgo
  · exact absurd (.inr (.inr (.inl hen))) hgo
  · exact absurd (.inr (.inr (.inr hoff))) hgo
  · exact if_pos hiso

variable (hi : i ≤ 3) (hfw : s.fwUp = true) (hen : s.rb LSIO.I2C_CTL_EN i = true) (hoff : s.icState i ≠ icOFF)
  (hdue : s.icState i ≠ icISOLATED ∨ bg s.ls.check i = true)
include hi hfw hen hoff hdue

/-- What a check finds decides what follows it (R574). -/
theorem busCheck_found {out : Nat} {t : State} (hout : busOutcome scl sda pulses = out)
    (ht : s.wr LSIO.I2C_STAT_LINES (b2n scl + 2 * b2n (decide (out < 2) || (out == 2 && sda))) i = t) :
    busCheck i scl sda pulses s =
      if out = 0 then icFree i (icChecked i 0 t)
      else if out = 1 then icFree i (icChecked i 0 (t.cntr LSIO.I2C_CLEARS i))
      else if out = 2 then icIsolate i (t.wb LSIO.I2C_STAT_STUCK_SCL true i)
      else icIsolate i (t.wb LSIO.I2C_STAT_STUCK_SDA true i) := by
  subst hout ht
  refine (if_neg (by simp [hfw, hen, hoff]; omega)).trans ((if_neg ?_).trans ?_)
  · rintro ⟨hiso, hnone⟩
    exact hdue.elim (fun h => h hiso) (fun h => Bool.false_ne_true (hnone.symm.trans h))
  · match busOutcome scl sda pulses with
    | 0 => rfl
    | 1 => rfl
    | 2 => rfl
    | n + 3 => rfl

/-- SCL that stays low isolates the bus; SDA that is high, or rises at a pulse, frees it, and SDA that stays low isolates it. -/
theorem busCheck_lines : busCheck i scl sda pulses s =
    if scl = false then icIsolate i ((s.wr LSIO.I2C_STAT_LINES (2 * b2n sda) i).wb LSIO.I2C_STAT_STUCK_SCL true i)
    else if sda = true then icFree i (icChecked i 0 (s.wr LSIO.I2C_STAT_LINES 3 i))
    else if ∃ p ∈ pulses.take 9, p = true then icFree i (icChecked i 0 ((s.wr LSIO.I2C_STAT_LINES 3 i).cntr LSIO.I2C_CLEARS i))
    else icIsolate i ((s.wr LSIO.I2C_STAT_LINES 1 i).wb LSIO.I2C_STAT_STUCK_SDA true i) := by
  cases scl with
  | false =>
    have hlines : b2n false + 2 * b2n (decide (2 < 2) || (2 == 2 && sda)) = 2 * b2n sda := by cases sda <;> rfl
    rw [if_pos rfl, ← hlines]
    exact (busCheck_found hi hfw hen hoff hdue (out := 2) rfl rfl).trans
      ((if_neg (by decide)).trans ((if_neg (by decide)).trans (if_pos rfl)))
  | true =>
    rw [if_neg (by decide)]
    cases sda with
    | true =>
      rw [if_pos rfl]
      exact (busCheck_found hi hfw hen hoff hdue (out := 0) rfl rfl).trans (if_pos rfl)
    | false =>
      rw [if_neg (by decide)]
      by_cases hrise : ∃ p ∈ pulses.take 9, p = true
      · have hout : busOutcome true false pulses = 1 := if_pos (List.any_eq_true.mpr hrise)
        rw [if_pos hrise]
        exact (busCheck_found hi hfw hen hoff hdue hout rfl).trans ((if_neg (by decide)).trans (if_pos rfl))
      · have hout : busOutcome true false pulses = 3 := if_neg fun h => hrise (List.any_eq_true.mp h)
        rw [if_neg hrise]
        exact (busCheck_found hi hfw hen hoff hdue hout rfl).trans
          ((if_neg (by decide)).trans ((if_neg (by decide)).trans (if_neg (by decide))))

end Bus

section Transfer
variable {i out seg n lines : Nat} {data : List Byte} {s : State}

theorem xferDone_idle (h : s.fwUp = false ∨ bg s.ls.check i = true ∨ s.icState i ≠ icBUSY ∨ s.xfersOf i = []) :
    xferDone i out seg n data lines s = s := by
  refine ite_to_same fun hgo => ?_
  rcases h with hfw | hcheck | hstate | hnone
  · exact absurd (.inr (.inr (.inr (.inl hfw)))) hgo
  · exact absurd (.inr (.inr (.inr (.inr (.inl hcheck))))) hgo
  · exact absurd (.inr (.inr (.inr (.inr (.inr hstate))))) hgo
  · simp only [hnone]

/-- The transfer in progress ends with its outcome (R573). -/
theorem xferDone_ends {x : Xfer} {rest : List Xfer} (hi : i ≤ 3) (hmax : out ≤ 5) (hfour : out ≠ 4)
    (hfits : xferFits x.segs out seg n data.length = true) (hfw : s.fwUp = true) (hcheck : bg s.ls.check i = false)
    (hbusy : s.icState i = icBUSY) (hx : s.xfersOf i = x :: rest) :
    xferDone i out seg n data lines s =
      let t := s.wr LSIO.I2C_STAT_LINES (lines % 4) i
      let t := icFree i (xferSet i rest (if out = 1 ∨ out = 2 then t.cntr LSIO.I2C_NACKS i else if out = 3 then t.cntr LSIO.I2C_TIMEOUTS i else t))
      complete x.env stOK (out + 2 ^ 8 * seg + 2 ^ 16 * n) (leWords data) true (if out = 3 then icCheck i t else t) := by
  refine (if_neg (by simp [hfw, hcheck, hbusy, hfour]; omega)).trans ?_
  simp only [hx]
  exact if_neg (by simp [hfits])

end Transfer

/-! ## Flash (R589) -/

section Flash
variable {s : State} (hup : up s = true)
include hup

theorem flashSuspend_idle (h : s.ls.run = none ∨ firstOp s.ls.wait = none ∨ s.rb FALT.PFAIL_STAT_ASSERTED = true) :
    execFlashSuspend s = .next s := by
  refine congrArg Host.Outcome.next ((awake_up hup).trans ?_)
  cases hrun : s.ls.run with
  | none => rfl
  | some r =>
    cases hwait : firstOp s.ls.wait with
    | none => rfl
    | some x =>
      have hpower : s.rb FALT.PFAIL_STAT_ASSERTED = true := by simpa [hrun, hwait] using h
      exact if_neg (by simp [hpower])

theorem flashSuspend_two {r x : FlashOp} (hrun : s.ls.run = some r) (hwait : firstOp s.ls.wait = some x) :
    execFlashSuspend s = .next (if x.prio < r.prio ∧ s.rb FALT.PFAIL_STAT_ASSERTED = false then
      flashBits (s.onLs (fun l => { l with run := some x, wait := l.wait.erase x, susp := r :: l.susp })) else s) := by
  refine congrArg Host.Outcome.next ((awake_up hup).trans ?_)
  simp only [hrun, hwait]

theorem flashResume_idle (h : s.ls.run ≠ none ∨ s.ls.susp = [] ∨ s.rb FALT.PFAIL_STAT_ASSERTED = true) : execFlashResume s = .next s := by
  refine congrArg Host.Outcome.next ((awake_up hup).trans (ite_to_same fun hpower => ?_))
  cases hrun : s.ls.run with
  | some r => rfl
  | none =>
    have hsusp : s.ls.susp = [] := by simpa [hrun, hpower] using h
    simp only [hsusp]

theorem flashResume_one {p : FlashOp} {t : List FlashOp} (hrun : s.ls.run = none) (hsusp : s.ls.susp = p :: t)
    (hpower : s.rb FALT.PFAIL_STAT_ASSERTED = false) :
    execFlashResume s = .next (flashNext (flashBits (s.onLs (fun l => { l with run := some p, susp := t })))) := by
  refine congrArg Host.Outcome.next ((awake_up hup).trans ((if_neg (Bool.eq_false_iff.mp hpower)).trans ?_))
  simp only [hrun, hsusp]

end Flash

/-! ## The staging session (R544) -/

theorem stageTimeout_open {x : Session} {s : State} (hsess : s.cmd.session = some x) :
    stageTimeout s = if x.last + 60 * 96000 ≤ s.clock then stageEnd s else s := by
  simp only [stageTimeout, hsess]

/-- Settles O45: each event's operation in the case that the clause names. -/
theorem serialAndFlashFollowTheirEvents : Obligations.SerialAndFlashFollowTheirEvents := by
  refine ⟨?received, ?noPower, ?sample, ?full, ?stored, ?sent, ?sentDown, ?noneSent, ?transfer, ?noTransfer, ?check, ?noCheck, ?suspend,
    ?noSuspend, ?notHigher, ?resume, ?noResume, ?done, ?failed, ?noOperation, ?confirmed, ?notConfirmed, ?timeout, ?noSession, ?notYet⟩
  case received => exact fun u rxd hu => happens_intro (fun _ => rfl) fun s hpower => if_neg (by simp [hpower]; omega)
  case noPower => exact fun u rxd => happens_intro (fun _ => rfl) fun s hdown => if_pos (.inr hdown)
  case sample => exact uartSample_cases
  case full => exact fun u d bad low brk s hfull => if_pos hfull
  case stored => exact fun u d bad low brk s hroom => if_neg (Nat.not_le.mpr hroom)
  case sent =>
    intro u b l hu s hup ⟨hen, htx, hfw⟩
    exact (execUartFrameTx_sent hu hen htx hup).trans (congrArg _ (if_pos ((fwUp_uartTxPut l).trans hfw)))
  case sentDown =>
    intro u b l hu s hup ⟨hen, htx, hfw⟩
    exact (execUartFrameTx_sent hu hen htx hup).trans (congrArg _ (if_neg (by rw [fwUp_uartTxPut, fwUp_onLs, hfw]; decide)))
  case noneSent =>
    refine fun u => happens_intro (fun _ => rfl) fun s h => ite_to_same fun hgo => ?_
    have hnone : s.uartTx u = [] := h.resolve_left fun hoff => hgo (.inr hoff)
    simp only [hnone]
  case transfer =>
    intro i out seg n data lines x rest hi hmax hfour hfits
    exact happens_intro (fun _ => rfl) fun s ⟨hfw, hcheck, hbusy, hx⟩ => xferDone_ends hi hmax hfour hfits hfw hcheck hbusy hx
  case noTransfer => exact fun i out seg n data lines => happens_intro (fun _ => rfl) fun _ h => xferDone_idle h
  case check =>
    intro i scl sda pulses hi
    exact happens_intro (fun _ => rfl) fun s ⟨hfw, hen, hoff, hdue⟩ => busCheck_lines hi hfw hen hoff hdue
  case noCheck => exact fun i scl sda pulses => happens_intro (fun _ => rfl) fun _ h => busCheck_idle h
  case suspend =>
    exact fun r x hprio s hup ⟨hrun, hwait, hpower⟩ => (flashSuspend_two hup hrun hwait).trans (congrArg _ (if_pos ⟨hprio, hpower⟩))
  case noSuspend => exact fun s hup h => flashSuspend_idle hup h
  case notHigher =>
    exact fun r x hprio s hup ⟨hrun, hwait⟩ => (flashSuspend_two hup hrun hwait).trans (congrArg _ (if_neg fun h => Nat.not_lt.mpr hprio h.1))
  case resume => exact fun p t s hup ⟨hrun, hsusp, hpower⟩ => flashResume_one hup hrun hsusp hpower
  case noResume => exact fun s hup h => flashResume_idle hup h
  case done =>
    refine fun op => happens_intro (fun _ => rfl) fun s hrun => ?_
    simp only [hrun, if_true]
  case failed =>
    refine fun op => happens_intro (fun _ => rfl) fun s hrun => ?_
    simp only [hrun, Bool.false_eq_true, if_false]
  case noOperation =>
    refine fun ok => happens_intro (fun _ => rfl) fun s hnone => ?_
    simp only [hnone, id_eq]
  case confirmed => exact happens_intro (fun _ => rfl) fun s hdue => if_pos hdue
  case notConfirmed =>
    refine happens_intro (fun _ => rfl) fun s h => ?_
    by_cases hdue : s.rd SECU.FW_CTL_CONFIRM_SEC ≠ 0 ∧ 96000 * s.rd SECU.FW_CTL_CONFIRM_SEC ≤ s.cmd.runFor
    · obtain ⟨hon, htime⟩ := hdue
      have htrial : s.flash.trial = false := (h.resolve_left hon).resolve_left (Nat.not_lt.mpr htime)
      exact (if_pos ⟨hon, htime⟩).trans (if_pos htrial)
    · exact if_neg hdue
  case timeout => exact fun x => happens_intro (fun _ => rfl) fun s ⟨hsess, hdue⟩ => (stageTimeout_open hsess).trans (if_pos hdue)
  case noSession =>
    refine happens_intro (fun _ => rfl) fun s hnone => ?_
    simp only [stageTimeout, hnone, id_eq]
  case notYet =>
    exact fun x => happens_intro (fun _ => rfl) fun s ⟨hsess, hearly⟩ => (stageTimeout_open hsess).trans (if_neg (Nat.not_le.mpr hearly))

end Sys2Proof.Machine
end
